-- ==== Sys2Proof/Word.lean ====
section
/-!
DEFINITION. The word types and the plainest arithmetic on them: bytes and 32-bit words, two's complement read of a `Nat`, the
arithmetic shift of R19, and little-endian byte lists (R10).
-/

namespace Sys2Proof

/-- One byte. -/
abbrev Byte := BitVec 8

/-- One 32-bit word of the register space. -/
abbrev Word := BitVec 32

end Sys2Proof
end

