-- ==== Sys2Proof/Machine/Tbl.lean ====
section
/-!
DEFINITION. The sparse table in which the state keeps everything that is numbered: register fields, bytes of DRAM and of host
memory, nozzle map entries, per-lane and per-context records.  A table is a list of keys with values, keys strictly rising, and it
lists no entry equal to what an unlisted key reads as; so equal tables are equal data.
-/

namespace Sys2Proof.Machine

/-- A sparse table: pairs of a key and a value. -/
abbrev Tbl (α : Type) := List (Nat × α)

/-- The value a table holds for a key; `d` is what an unlisted key reads as. -/
def tget {α : Type} (d : α) : Tbl α → Nat → α
  | [], _ => d
  | (k, v) :: r, x => if k = x then v else tget d r x

/-- Put a value in front of the table unless it is what an unlisted key reads as. -/
def tcons {α : Type} [DecidableEq α] (d : α) (x : Nat) (v : α) (t : Tbl α) : Tbl α :=
  if v = d then t else (x, v) :: t

/-- Drop what a table lists for a key. -/
def terase {α : Type} (t : Tbl α) (x : Nat) : Tbl α := t.filter fun e => decide (e.1 ≠ x)

/-- Write a value at a key, keeping the form of the table; whatever the form, no other entry of the key is left. -/
def tset {α : Type} [DecidableEq α] (d : α) : Tbl α → Nat → α → Tbl α
  | [], x, v => tcons d x v []
  | (k, w) :: r, x, v =>
    if x < k then tcons d x v (terase ((k, w) :: r) x)
    else if x = k then tcons d x v (terase r x)
    else (k, w) :: tset d r x v

/-- Apply a function to the value at a key. -/
def tmod {α : Type} [DecidableEq α] (d : α) (t : Tbl α) (x : Nat) (f : α → α) : Tbl α :=
  tset d t x (f (tget d t x))

/-- Every key of the table is above `x`. -/
def tabove {α : Type} (x : Nat) : Tbl α → Bool
  | [] => true
  | (k, _) :: r => decide (x < k) && tabove x r

/-- The canonical form: keys strictly rising, no entry equal to what an unlisted key reads as. -/
def twf {α : Type} [DecidableEq α] (d : α) : Tbl α → Bool
  | [] => true
  | (k, v) :: r => decide (v ≠ d) && tabove k r && twf d r

/-- Write a run of values at rising keys. -/
def tsets {α : Type} [DecidableEq α] (d : α) (t : Tbl α) (x : Nat) : List α → Tbl α
  | [] => t
  | v :: vs => tsets d (tset d t x v) (x + 1) vs

/-- Read a run of `n` values from a key on. -/
def tgets {α : Type} (d : α) (t : Tbl α) (x : Nat) : Nat → List α
  | 0 => []
  | n + 1 => tget d t x :: tgets d t (x + 1) n

/-- Drop every entry whose key lies from `lo` to below `hi`. -/
def tdrop {α : Type} (t : Tbl α) (lo hi : Nat) : Tbl α :=
  t.filter fun e => !(decide (lo ≤ e.1) && decide (e.1 < hi))

end Sys2Proof.Machine
end

