-- ==== Sys2Proof/Machine/Bits.lean ====
section
/-!
DEFINITION. Bit fields, sign extension, byte order and the C arithmetic of R19, on natural numbers and integers.
-/

namespace Sys2Proof.Machine

/-- 1 for true, 0 for false. -/
def b2n (b : Bool) : Nat := if b then 1 else 0

/-- Bits `lo` to `lo + w - 1` of a number (R9). -/
def bits (v lo w : Nat) : Nat := v / 2 ^ lo % 2 ^ w

/-- One bit of a number. -/
def bit (v n : Nat) : Bool := v.testBit n

/-- The two's complement reading of the low `w` bits of a number (R18). -/
def toS (w v : Nat) : Int :=
  let u := v % 2 ^ w
  if u < 2 ^ (w - 1) then (u : Int) else (u : Int) - (2 ^ w : Nat)

/-- The low `w` bits of an integer in two's complement (R18). -/
def ofS (w : Nat) (i : Int) : Nat := (i % ((2 ^ w : Nat) : Int)).toNat

/-- Arithmetic shift right, rounding towards minus infinity (R19). -/
def sar (i : Int) (n : Nat) : Int := i / ((2 ^ n : Nat) : Int)

/-- C division of integers: towards zero (R19). -/
def cdiv (a b : Int) : Int := Int.tdiv a b

/-- Keep an integer between two bounds. -/
def clampI (lo hi x : Int) : Int := if x < lo then lo else if hi < x then hi else x

/-- The bytes of a number, least significant first (R10). -/
def leBytes : Nat → Nat → List Byte
  | 0, _ => []
  | n + 1, v => BitVec.ofNat 8 v :: leBytes n (v / 256)

/-- The number that bytes spell, least significant first (R10). -/
def leNat : List Byte → Nat
  | [] => 0
  | b :: r => b.toNat + 256 * leNat r

/-- `n` bytes of a byte list from `off` on, as a little-endian number. -/
def fieldN (bs : List Byte) (off n : Nat) : Nat := leNat ((bs.drop off).take n)

/-- The same, read as a signed number. -/
def fieldS (bs : List Byte) (off n : Nat) : Int := toS (8 * n) (fieldN bs off n)

/-- Cut a list into pieces of `n`; `fuel` bounds the number of pieces. -/
def chunks {α : Type} (n : Nat) : Nat → List α → List (List α)
  | 0, _ => []
  | _, [] => []
  | fuel + 1, l => l.take n :: chunks n fuel (l.drop n)

/-- The numbers from 0 to `n - 1` whose bit is set in a mask. -/
def maskList (n mask : Nat) : List Nat := (List.range n).filter fun i => mask.testBit i

/-- How many of the low `n` bits of a mask are set. -/
def popc (n mask : Nat) : Nat := (maskList n mask).length

/-- Bit `n` of a mask set or cleared. -/
def setBit (mask n : Nat) (b : Bool) : Nat :=
  if mask.testBit n = b then mask else if b then mask + 2 ^ n else mask - 2 ^ n

/-- One bit of the reflected CRC-32C (polynomial 0x82F63B78). -/
def crc32cBit (c : Nat) : Nat := if c % 2 = 1 then (c / 2) ^^^ 0x82F63B78 else c / 2

/-- One byte folded into a CRC-32C register. -/
def crc32cByte (c : Nat) (b : Byte) : Nat :=
  crc32cBit (crc32cBit (crc32cBit (crc32cBit (crc32cBit (crc32cBit (crc32cBit (crc32cBit (c ^^^ b.toNat))))))))

/-- CRC-32C of a byte list, initial value and final exclusive-or all ones. -/
def crc32c (bs : List Byte) : Nat := (bs.foldl crc32cByte 0xFFFFFFFF) ^^^ 0xFFFFFFFF

/-- Insert into a list that rises. -/
def insertSorted (x : Int) : List Int → List Int
  | [] => [x]
  | y :: r => if x ≤ y then x :: y :: r else y :: insertSorted x r

/-- A list in rising order. -/
def sortInt : List Int → List Int
  | [] => []
  | x :: r => insertSorted x (sortInt r)

/-- The lower of the two middle values, or the middle one. -/
def medianLow (l : List Int) : Int := (sortInt l).getD ((l.length - 1) / 2) 0

/-- One step of the digit-by-digit square root: `bit` runs down from 2^(2·fuel). -/
def isqrtGo : Nat → Nat → Nat → Nat
  | 0, _, r => r
  | fuel + 1, n, r =>
    let b := r + 2 ^ fuel
    if b * b ≤ n then isqrtGo fuel n b else isqrtGo fuel n r

/-- The integer square root of a number below 2^128, rounded down. -/
def isqrt (n : Nat) : Nat := isqrtGo 64 n 0

end Sys2Proof.Machine
end

