-- ==== Sys2Proof/Machine/Reg.lean ====
section
/-!
DEFINITION. What a register field is (R9, R21): its type code, its place and its value at reset.  The map of all registers is in
`RegMap.lean`.
-/

namespace Sys2Proof.Machine

/-- The type codes of R21. -/
inductive FieldTy where
  | ro | rw | w1c | w1s | rwl | sh | sat | rc
deriving DecidableEq, Repr

/-- A field of a register: the BAR0 offset of the register's lowest word, the field's lowest bit counted from bit 0 of that word,
its width, and its value at reset. -/
structure FRef where
  addr : Nat
  lo : Nat
  width : Nat
  reset : Nat
deriving DecidableEq, Repr

/-- A field inside a `RegDef`. -/
structure FieldDef where
  lo : Nat
  width : Nat
  ty : FieldTy
  reset : Nat
deriving DecidableEq, Repr

/-- A register, or a run of registers of one shape: the offset of the first from its node, the distance between two, the index of
the first, their number, the 32-bit words of one, and its named fields. -/
structure RegDef where
  name : String
  off : Nat
  stride : Nat
  first : Nat
  count : Nat
  words : Nat
  fields : List FieldDef
deriving DecidableEq, Repr

/-- The key under which a field's value stands in the register table. -/
def FRef.key (f : FRef) : Nat := f.addr * 1024 + f.lo

end Sys2Proof.Machine
end

