-- ==== Sys2Proof/Machine/RegMap.lean ====
section
/-!
DEFINITION. Every register that a caption of spec/01 to spec/15 gives (R17, R21, R28), made by a script from those captions and
their field tables: first one `FRef` per named field (where the field stands, its width and its value at reset), then one `RegDef`
per register, grouped by the kind of node that holds it.  The doc comment of a register names its file, the rule in whose section
its caption stands and the caption's offset.  Offsets inside a `RegDef` count from the base of the node.
-/

namespace Sys2Proof.Machine

namespace R

/-- UNIT_ID, spec/01_architecture.md R29, offset 0x0, 32 bits. Field KIND, bits 31 to 16, type RO. -/
def UNIT_ID_KIND (b : Nat) : FRef := ⟨b + 0x0, 16, 16, 0⟩
/-- UNIT_ID, spec/01_architecture.md R29, offset 0x0, 32 bits. Field INSTANCE, bits 15 to 8, type RO. -/
def UNIT_ID_INSTANCE (b : Nat) : FRef := ⟨b + 0x0, 8, 8, 0⟩
/-- UNIT_ID, spec/01_architecture.md R29, offset 0x0, 32 bits. Field VERSION, bits 7 to 0, type RO. -/
def UNIT_ID_VERSION (b : Nat) : FRef := ⟨b + 0x0, 0, 8, 1⟩
/-- UNIT_SHAPE, spec/01_architecture.md R29, offset 0x4, 32 bits. Field CHILD_COUNT, bits 31 to 16, type RO. -/
def UNIT_SHAPE_CHILD_COUNT (b : Nat) : FRef := ⟨b + 0x4, 16, 16, 0⟩
/-- UNIT_SHAPE, spec/01_architecture.md R29, offset 0x4, 32 bits. Field CHILD_STRIDE, bits 15 to 0, type RO. -/
def UNIT_SHAPE_CHILD_STRIDE (b : Nat) : FRef := ⟨b + 0x4, 0, 16, 0⟩
/-- UNIT_CHILD_BASE, spec/01_architecture.md R29, offset 0x8, 32 bits. Field CHILD_BASE, bits 31 to 0, type RO. -/
def UNIT_CHILD_BASE_CHILD_BASE (b : Nat) : FRef := ⟨b + 0x8, 0, 32, 0⟩
/-- UNIT_SIZE, spec/01_architecture.md R29, offset 0xC, 32 bits. Field SIZE, bits 31 to 0, type RO. -/
def UNIT_SIZE_SIZE (b : Nat) : FRef := ⟨b + 0xC, 0, 32, 0⟩
/-- UNIT_CTRL, spec/01_architecture.md R29, offset 0x10, 32 bits. Field RESET, bits 3 to 3, type W1S. -/
def UNIT_CTRL_RESET (b : Nat) : FRef := ⟨b + 0x10, 3, 1, 0⟩
/-- UNIT_CTRL, spec/01_architecture.md R29, offset 0x10, 32 bits. Field ABORT, bits 2 to 2, type W1S. -/
def UNIT_CTRL_ABORT (b : Nat) : FRef := ⟨b + 0x10, 2, 1, 0⟩
/-- UNIT_CTRL, spec/01_architecture.md R29, offset 0x10, 32 bits. Field QUIESCE, bits 1 to 1, type RW. -/
def UNIT_CTRL_QUIESCE (b : Nat) : FRef := ⟨b + 0x10, 1, 1, 0⟩
/-- UNIT_CTRL, spec/01_architecture.md R29, offset 0x10, 32 bits. Field ENABLE, bits 0 to 0, type RW. -/
def UNIT_CTRL_ENABLE (b : Nat) : FRef := ⟨b + 0x10, 0, 1, 0⟩
/-- UNIT_STATE, spec/01_architecture.md R29, offset 0x14, 32 bits. Field STATE, bits 2 to 0, type RO. -/
def UNIT_STATE_STATE (b : Nat) : FRef := ⟨b + 0x14, 0, 3, 0⟩
/-- UNIT_EVENT, spec/01_architecture.md R29, offset 0x18, 32 bits. Field UNIT_SPECIFIC, bits 31 to 16, type W1C. -/
def UNIT_EVENT_UNIT_SPECIFIC (b : Nat) : FRef := ⟨b + 0x18, 16, 16, 0⟩
/-- UNIT_EVENT, spec/01_architecture.md R29, offset 0x18, 32 bits. Field CHILD, bits 5 to 5, type RO. -/
def UNIT_EVENT_CHILD (b : Nat) : FRef := ⟨b + 0x18, 5, 1, 0⟩
/-- UNIT_EVENT, spec/01_architecture.md R29, offset 0x18, 32 bits. Field ACCESS, bits 4 to 4, type W1C. -/
def UNIT_EVENT_ACCESS (b : Nat) : FRef := ⟨b + 0x18, 4, 1, 0⟩
/-- UNIT_EVENT, spec/01_architecture.md R29, offset 0x18, 32 bits. Field OVERFLOW, bits 3 to 3, type W1C. -/
def UNIT_EVENT_OVERFLOW (b : Nat) : FRef := ⟨b + 0x18, 3, 1, 0⟩
/-- UNIT_EVENT, spec/01_architecture.md R29, offset 0x18, 32 bits. Field ABORTED, bits 2 to 2, type W1C. -/
def UNIT_EVENT_ABORTED (b : Nat) : FRef := ⟨b + 0x18, 2, 1, 0⟩
/-- UNIT_EVENT, spec/01_architecture.md R29, offset 0x18, 32 bits. Field QUIESCED, bits 1 to 1, type W1C. -/
def UNIT_EVENT_QUIESCED (b : Nat) : FRef := ⟨b + 0x18, 1, 1, 0⟩
/-- UNIT_EVENT, spec/01_architecture.md R29, offset 0x18, 32 bits. Field FAULT, bits 0 to 0, type W1C. -/
def UNIT_EVENT_FAULT (b : Nat) : FRef := ⟨b + 0x18, 0, 1, 0⟩
/-- UNIT_EVENT_MASK, spec/01_architecture.md R29, offset 0x1C, 32 bits. Field MASK, bits 31 to 0, type RW. -/
def UNIT_EVENT_MASK_MASK (b : Nat) : FRef := ⟨b + 0x1C, 0, 32, 0xFFFFFFFF⟩
/-- UNIT_FAULT, spec/01_architecture.md R29, offset 0x20, 32 bits. Field COUNT_OVF, bits 24 to 24, type W1C. -/
def UNIT_FAULT_COUNT_OVF (b : Nat) : FRef := ⟨b + 0x20, 24, 1, 0⟩
/-- UNIT_FAULT, spec/01_architecture.md R29, offset 0x20, 32 bits. Field COUNT, bits 23 to 16, type SAT. -/
def UNIT_FAULT_COUNT (b : Nat) : FRef := ⟨b + 0x20, 16, 8, 0⟩
/-- UNIT_FAULT, spec/01_architecture.md R29, offset 0x20, 32 bits. Field CODE, bits 15 to 0, type RO. -/
def UNIT_FAULT_CODE (b : Nat) : FRef := ⟨b + 0x20, 0, 16, 0⟩
/-- CMD_APERTURE, spec/02_commands_rings_contexts.md R58, offset 0x40, 64 bits. Field BASE_MIB, bits 35 to 20, type RW. -/
def CMD_APERTURE_BASE_MIB : FRef := ⟨0x100040, 20, 16, 0⟩
/-- RING_SQ_BASE, spec/02_commands_rings_contexts.md R59, offset 0x40, 64 bits. Field ADDR, bits 63 to 12, type RW. -/
def RING_SQ_BASE_ADDR (b : Nat) : FRef := ⟨b + 0x40, 12, 52, 0⟩
/-- RING_CQ_BASE, spec/02_commands_rings_contexts.md R59, offset 0x48, 64 bits. Field ADDR, bits 63 to 12, type RW. -/
def RING_CQ_BASE_ADDR (b : Nat) : FRef := ⟨b + 0x48, 12, 52, 0⟩
/-- RING_SHADOW_CQ_BASE, spec/02_commands_rings_contexts.md R59, offset 0x50, 64 bits. Field ADDR, bits 63 to 12, type RW. -/
def RING_SHADOW_CQ_BASE_ADDR (b : Nat) : FRef := ⟨b + 0x50, 12, 52, 0⟩
/-- RING_CFG, spec/02_commands_rings_contexts.md R59, offset 0x58, 32 bits. Field WEIGHT, bits 15 to 12, type RW. -/
def RING_CFG_WEIGHT (b : Nat) : FRef := ⟨b + 0x58, 12, 4, 1⟩
/-- RING_CFG, spec/02_commands_rings_contexts.md R59, offset 0x58, 32 bits. Field PRIV_OK, bits 8 to 8, type RWL. -/
def RING_CFG_PRIV_OK (b : Nat) : FRef := ⟨b + 0x58, 8, 1, 0⟩
/-- RING_CFG, spec/02_commands_rings_contexts.md R59, offset 0x58, 32 bits. Field LOG2_ENTRIES, bits 4 to 0, type RW. -/
def RING_CFG_LOG2_ENTRIES (b : Nat) : FRef := ⟨b + 0x58, 0, 5, 6⟩
/-- RING_INT, spec/02_commands_rings_contexts.md R59, offset 0x5C, 32 bits. Field COAL_TIME, bits 23 to 8, type RW. -/
def RING_INT_COAL_TIME (b : Nat) : FRef := ⟨b + 0x5C, 8, 16, 0⟩
/-- RING_INT, spec/02_commands_rings_contexts.md R59, offset 0x5C, 32 bits. Field COAL_COUNT, bits 7 to 0, type RW. -/
def RING_INT_COAL_COUNT (b : Nat) : FRef := ⟨b + 0x5C, 0, 8, 0⟩
/-- RING_SQ_TAIL, spec/02_commands_rings_contexts.md R59, offset 0x60, 32 bits. Field TAIL, bits 15 to 0, type RW. -/
def RING_SQ_TAIL_TAIL (b : Nat) : FRef := ⟨b + 0x60, 0, 16, 0⟩
/-- RING_SQ_HEAD, spec/02_commands_rings_contexts.md R59, offset 0x64, 32 bits. Field HEAD, bits 15 to 0, type RO. -/
def RING_SQ_HEAD_HEAD (b : Nat) : FRef := ⟨b + 0x64, 0, 16, 0⟩
/-- RING_CQ_HEAD, spec/02_commands_rings_contexts.md R59, offset 0x68, 32 bits. Field HEAD, bits 15 to 0, type RW. -/
def RING_CQ_HEAD_HEAD (b : Nat) : FRef := ⟨b + 0x68, 0, 16, 0⟩
/-- RING_CQ_TAIL, spec/02_commands_rings_contexts.md R59, offset 0x6C, 32 bits. Field PHASE, bits 16 to 16, type RO. -/
def RING_CQ_TAIL_PHASE (b : Nat) : FRef := ⟨b + 0x6C, 16, 1, 1⟩
/-- RING_CQ_TAIL, spec/02_commands_rings_contexts.md R59, offset 0x6C, 32 bits. Field TAIL, bits 15 to 0, type RO. -/
def RING_CQ_TAIL_TAIL (b : Nat) : FRef := ⟨b + 0x6C, 0, 16, 0⟩
/-- RING_STATUS, spec/02_commands_rings_contexts.md R59, offset 0x70, 32 bits. Field HALT_STATUS, bits 31 to 16, type RO. -/
def RING_STATUS_HALT_STATUS (b : Nat) : FRef := ⟨b + 0x70, 16, 16, 0⟩
/-- RING_STATUS, spec/02_commands_rings_contexts.md R59, offset 0x70, 32 bits. Field DONE_OVF, bits 3 to 3, type W1C. -/
def RING_STATUS_DONE_OVF (b : Nat) : FRef := ⟨b + 0x70, 3, 1, 0⟩
/-- RING_STATUS, spec/02_commands_rings_contexts.md R59, offset 0x70, 32 bits. Field RESUME, bits 2 to 2, type W1S. -/
def RING_STATUS_RESUME (b : Nat) : FRef := ⟨b + 0x70, 2, 1, 0⟩
/-- RING_STATUS, spec/02_commands_rings_contexts.md R59, offset 0x70, 32 bits. Field CQ_FULL, bits 1 to 1, type RO. -/
def RING_STATUS_CQ_FULL (b : Nat) : FRef := ⟨b + 0x70, 1, 1, 0⟩
/-- RING_STATUS, spec/02_commands_rings_contexts.md R59, offset 0x70, 32 bits. Field HALTED, bits 0 to 0, type RO. -/
def RING_STATUS_HALTED (b : Nat) : FRef := ⟨b + 0x70, 0, 1, 0⟩
/-- RING_DONE, spec/02_commands_rings_contexts.md R59, offset 0x74, 32 bits. Field COUNT, bits 31 to 0, type SAT. -/
def RING_DONE_COUNT (b : Nat) : FRef := ⟨b + 0x74, 0, 32, 0⟩
/-- RING_HALT_INDEX, spec/02_commands_rings_contexts.md R59, offset 0x78, 32 bits. Field INDEX, bits 15 to 0, type RO. -/
def RING_HALT_INDEX_INDEX (b : Nat) : FRef := ⟨b + 0x78, 0, 16, 0⟩
/-- CMD_WDOG, spec/02_commands_rings_contexts.md R101, offset 0x48, 32 bits. Field LAST_KIND, bits 31 to 24, type RO. -/
def CMD_WDOG_LAST_KIND : FRef := ⟨0x100048, 24, 8, 0⟩
/-- CMD_WDOG, spec/02_commands_rings_contexts.md R101, offset 0x48, 32 bits. Field FIRES_OVF, bits 16 to 16, type W1C. -/
def CMD_WDOG_FIRES_OVF : FRef := ⟨0x100048, 16, 1, 0⟩
/-- CMD_WDOG, spec/02_commands_rings_contexts.md R101, offset 0x48, 32 bits. Field FIRES, bits 15 to 0, type SAT. -/
def CMD_WDOG_FIRES : FRef := ⟨0x100048, 0, 16, 0⟩
/-- BALE_POOL, spec/03_bales.md R139, offset 0x40, 32 bits. Field HANDLES_FREE, bits 15 to 8, type RO. -/
def BALE_POOL_HANDLES_FREE : FRef := ⟨0x200040, 8, 8, 0x20⟩
/-- BALE_POOL, spec/03_bales.md R139, offset 0x40, 32 bits. Field SLOTS_FREE, bits 7 to 0, type RO. -/
def BALE_POOL_SLOTS_FREE : FRef := ⟨0x200040, 0, 8, 0x40⟩
/-- BALE_CFG, spec/03_bales.md R139, offset 0x44, 32 bits. Field VERIFY_ALL, bits 0 to 0, type RW. -/
def BALE_CFG_VERIFY_ALL : FRef := ⟨0x200044, 0, 1, 0⟩
/-- BALE_ERR_ADDR, spec/03_bales.md R139, offset 0x48, 64 bits. Field ADDR, bits 63 to 0, type RO. -/
def BALE_ERR_ADDR_ADDR : FRef := ⟨0x200048, 0, 64, 0⟩
/-- ENG_OUT_BYTES, spec/03_bales.md R140, offset 0x40, 64 bits. Field COUNT, bits 63 to 0, type SAT. -/
def ENG_OUT_BYTES_COUNT (b : Nat) : FRef := ⟨b + 0x40, 0, 64, 0⟩
/-- ENG_IN_BYTES, spec/03_bales.md R140, offset 0x48, 64 bits. Field COUNT, bits 63 to 0, type SAT. -/
def ENG_IN_BYTES_COUNT (b : Nat) : FRef := ⟨b + 0x48, 0, 64, 0⟩
/-- ENG_BALES, spec/03_bales.md R140, offset 0x50, 32 bits. Field COUNT, bits 31 to 0, type SAT. -/
def ENG_BALES_COUNT (b : Nat) : FRef := ⟨b + 0x50, 0, 32, 0⟩
/-- ENG_ERRORS, spec/03_bales.md R140, offset 0x54, 32 bits. Field VERIFY, bits 31 to 24, type SAT. -/
def ENG_ERRORS_VERIFY (b : Nat) : FRef := ⟨b + 0x54, 24, 8, 0⟩
/-- ENG_ERRORS, spec/03_bales.md R140, offset 0x54, 32 bits. Field CRC, bits 23 to 16, type SAT. -/
def ENG_ERRORS_CRC (b : Nat) : FRef := ⟨b + 0x54, 16, 8, 0⟩
/-- ENG_ERRORS, spec/03_bales.md R140, offset 0x54, 32 bits. Field CODE, bits 15 to 8, type SAT. -/
def ENG_ERRORS_CODE (b : Nat) : FRef := ⟨b + 0x54, 8, 8, 0⟩
/-- ENG_ERRORS, spec/03_bales.md R140, offset 0x54, 32 bits. Field HEADER, bits 7 to 0, type SAT. -/
def ENG_ERRORS_HEADER (b : Nat) : FRef := ⟨b + 0x54, 0, 8, 0⟩
/-- ENG_OVF, spec/03_bales.md R140, offset 0x58, 32 bits. Field VERIFY_OVF, bits 6 to 6, type W1C. -/
def ENG_OVF_VERIFY_OVF (b : Nat) : FRef := ⟨b + 0x58, 6, 1, 0⟩
/-- ENG_OVF, spec/03_bales.md R140, offset 0x58, 32 bits. Field CRC_OVF, bits 5 to 5, type W1C. -/
def ENG_OVF_CRC_OVF (b : Nat) : FRef := ⟨b + 0x58, 5, 1, 0⟩
/-- ENG_OVF, spec/03_bales.md R140, offset 0x58, 32 bits. Field CODE_OVF, bits 4 to 4, type W1C. -/
def ENG_OVF_CODE_OVF (b : Nat) : FRef := ⟨b + 0x58, 4, 1, 0⟩
/-- ENG_OVF, spec/03_bales.md R140, offset 0x58, 32 bits. Field HEADER_OVF, bits 3 to 3, type W1C. -/
def ENG_OVF_HEADER_OVF (b : Nat) : FRef := ⟨b + 0x58, 3, 1, 0⟩
/-- ENG_OVF, spec/03_bales.md R140, offset 0x58, 32 bits. Field BALES_OVF, bits 2 to 2, type W1C. -/
def ENG_OVF_BALES_OVF (b : Nat) : FRef := ⟨b + 0x58, 2, 1, 0⟩
/-- ENG_OVF, spec/03_bales.md R140, offset 0x58, 32 bits. Field IN_OVF, bits 1 to 1, type W1C. -/
def ENG_OVF_IN_OVF (b : Nat) : FRef := ⟨b + 0x58, 1, 1, 0⟩
/-- ENG_OVF, spec/03_bales.md R140, offset 0x58, 32 bits. Field OUT_OVF, bits 0 to 0, type W1C. -/
def ENG_OVF_OUT_OVF (b : Nat) : FRef := ⟨b + 0x58, 0, 1, 0⟩
/-- COMP_CTX_CFG, spec/04_composition_colour.md R145, offset 0x1000 + n × 0x10, 32 bits. Field AHEAD, bits 23 to 8, type RW. -/
def COMP_CTX_CFG_AHEAD (n : Nat) : FRef := ⟨0x301000 + 0x10 * n, 8, 16, 0x100⟩
/-- COMP_CTX_CFG, spec/04_composition_colour.md R145, offset 0x1000 + n × 0x10, 32 bits. Field LPR2, bits 3 to 3, type RW. -/
def COMP_CTX_CFG_LPR2 (n : Nat) : FRef := ⟨0x301000 + 0x10 * n, 3, 1, 0⟩
/-- COMP_CTX_CFG, spec/04_composition_colour.md R145, offset 0x1000 + n × 0x10, 32 bits. Field QS_OFF, bits 2 to 2, type RW. -/
def COMP_CTX_CFG_QS_OFF (n : Nat) : FRef := ⟨0x301000 + 0x10 * n, 2, 1, 0⟩
/-- COMP_CTX_CFG, spec/04_composition_colour.md R145, offset 0x1000 + n × 0x10, 32 bits. Field WB_ONLY, bits 1 to 1, type RW. -/
def COMP_CTX_CFG_WB_ONLY (n : Nat) : FRef := ⟨0x301000 + 0x10 * n, 1, 1, 0⟩
/-- COMP_CTX_CFG, spec/04_composition_colour.md R145, offset 0x1000 + n × 0x10, 32 bits. Field SILO16, bits 0 to 0, type RW. -/
def COMP_CTX_CFG_SILO16 (n : Nat) : FRef := ⟨0x301000 + 0x10 * n, 0, 1, 0⟩
/-- COMP_CTX_DEPTH, spec/04_composition_colour.md R145, offset 0x1004 + n × 0x10, 32 bits. Field DEPTH, bits 31 to 0, type RO. -/
def COMP_CTX_DEPTH_DEPTH (n : Nat) : FRef := ⟨0x301004 + 0x10 * n, 0, 32, 0⟩
/-- COMP_CTX_ROW, spec/04_composition_colour.md R145, offset 0x1008 + n × 0x10, 32 bits. Field ROW, bits 31 to 0, type RO. -/
def COMP_CTX_ROW_ROW (n : Nat) : FRef := ⟨0x301008 + 0x10 * n, 0, 32, 0xFFFFFFFF⟩
/-- COMP_CTX_BLANK, spec/04_composition_colour.md R145, offset 0x100C + n × 0x10, 32 bits. Field BLANK_OVF, bits 31 to 31, type W1C. -/
def COMP_CTX_BLANK_BLANK_OVF (n : Nat) : FRef := ⟨0x30100C + 0x10 * n, 31, 1, 0⟩
/-- COMP_CTX_BLANK, spec/04_composition_colour.md R145, offset 0x100C + n × 0x10, 32 bits. Field COUNT, bits 30 to 0, type SAT. -/
def COMP_CTX_BLANK_COUNT (n : Nat) : FRef := ⟨0x30100C + 0x10 * n, 0, 31, 0⟩
/-- COMP_ROWS, spec/04_composition_colour.md R179, offset 0x40, 64 bits. Field COUNT, bits 63 to 0, type SAT. -/
def COMP_ROWS_COUNT : FRef := ⟨0x300040, 0, 64, 0⟩
/-- COMP_BLANK, spec/04_composition_colour.md R179, offset 0x48, 32 bits. Field COUNT, bits 31 to 0, type SAT. -/
def COMP_BLANK_COUNT : FRef := ⟨0x300048, 0, 32, 0⟩
/-- COMP_LATE, spec/04_composition_colour.md R179, offset 0x4C, 32 bits. Field COUNT, bits 31 to 0, type SAT. -/
def COMP_LATE_COUNT : FRef := ⟨0x30004C, 0, 32, 0⟩
/-- COMP_LAYOUT, spec/04_composition_colour.md R179, offset 0x50, 32 bits. Field COUNT, bits 31 to 0, type SAT. -/
def COMP_LAYOUT_COUNT : FRef := ⟨0x300050, 0, 32, 0⟩
/-- COMP_OVF, spec/04_composition_colour.md R179, offset 0x54, 32 bits. Field LAYOUT_OVF, bits 3 to 3, type W1C. -/
def COMP_OVF_LAYOUT_OVF : FRef := ⟨0x300054, 3, 1, 0⟩
/-- COMP_OVF, spec/04_composition_colour.md R179, offset 0x54, 32 bits. Field LATE_OVF, bits 2 to 2, type W1C. -/
def COMP_OVF_LATE_OVF : FRef := ⟨0x300054, 2, 1, 0⟩
/-- COMP_OVF, spec/04_composition_colour.md R179, offset 0x54, 32 bits. Field BLANK_OVF, bits 1 to 1, type W1C. -/
def COMP_OVF_BLANK_OVF : FRef := ⟨0x300054, 1, 1, 0⟩
/-- COMP_OVF, spec/04_composition_colour.md R179, offset 0x54, 32 bits. Field ROWS_OVF, bits 0 to 0, type W1C. -/
def COMP_OVF_ROWS_OVF : FRef := ⟨0x300054, 0, 1, 0⟩
/-- COMP_LOAD, spec/04_composition_colour.md R179, offset 0x58, 32 bits. Field COMMITTED, bits 31 to 0, type RO. -/
def COMP_LOAD_COMMITTED : FRef := ⟨0x300058, 0, 32, 0⟩
/-- SCRN_CFG, spec/05_screening_nozzle_map.md R220, offset 0x40, 32 bits. Field ROT_EN, bits 8 to 8, type RW. -/
def SCRN_CFG_ROT_EN : FRef := ⟨0x400040, 8, 1, 1⟩
/-- SCRN_CFG, spec/05_screening_nozzle_map.md R220, offset 0x40, 32 bits. Field ROT_LOG2, bits 4 to 0, type RW. -/
def SCRN_CFG_ROT_LOG2 : FRef := ⟨0x400040, 0, 5, 0x14⟩
/-- SCRN_FENCED, spec/05_screening_nozzle_map.md R220, offset 0x48, 64 bits. Field SLICES, bits 32 to 0, type RO. -/
def SCRN_FENCED_SLICES : FRef := ⟨0x400048, 0, 33, 0⟩
/-- SCRN_ROT, spec/05_screening_nozzle_map.md R220, offset 0x50, 32 bits. Field COUNT, bits 31 to 0, type SAT. -/
def SCRN_ROT_COUNT : FRef := ⟨0x400050, 0, 32, 0⟩
/-- SCRN_MISMATCH, spec/05_screening_nozzle_map.md R220, offset 0x54, 32 bits. Field COUNT, bits 31 to 0, type SAT. -/
def SCRN_MISMATCH_COUNT : FRef := ⟨0x400054, 0, 32, 0⟩
/-- SCRN_POISON, spec/05_screening_nozzle_map.md R220, offset 0x58, 32 bits. Field COUNT, bits 31 to 0, type SAT. -/
def SCRN_POISON_COUNT : FRef := ⟨0x400058, 0, 32, 0⟩
/-- SCRN_STALE, spec/05_screening_nozzle_map.md R220, offset 0x5C, 32 bits. Field COUNT, bits 31 to 0, type SAT. -/
def SCRN_STALE_COUNT : FRef := ⟨0x40005C, 0, 32, 0⟩
/-- SCRN_SEAL_BLOCK, spec/05_screening_nozzle_map.md R220, offset 0x60, 32 bits. Field COUNT, bits 31 to 0, type SAT. -/
def SCRN_SEAL_BLOCK_COUNT : FRef := ⟨0x400060, 0, 32, 0⟩
/-- SCRN_NMAP_POISON, spec/05_screening_nozzle_map.md R220, offset 0x64, 32 bits. Field COUNT, bits 31 to 0, type SAT. -/
def SCRN_NMAP_POISON_COUNT : FRef := ⟨0x400064, 0, 32, 0⟩
/-- SCRN_OVF, spec/05_screening_nozzle_map.md R220, offset 0x68, 32 bits. Field NMAP_OVF, bits 5 to 5, type W1C. -/
def SCRN_OVF_NMAP_OVF : FRef := ⟨0x400068, 5, 1, 0⟩
/-- SCRN_OVF, spec/05_screening_nozzle_map.md R220, offset 0x68, 32 bits. Field SEAL_OVF, bits 4 to 4, type W1C. -/
def SCRN_OVF_SEAL_OVF : FRef := ⟨0x400068, 4, 1, 0⟩
/-- SCRN_OVF, spec/05_screening_nozzle_map.md R220, offset 0x68, 32 bits. Field STALE_OVF, bits 3 to 3, type W1C. -/
def SCRN_OVF_STALE_OVF : FRef := ⟨0x400068, 3, 1, 0⟩
/-- SCRN_OVF, spec/05_screening_nozzle_map.md R220, offset 0x68, 32 bits. Field POISON_OVF, bits 2 to 2, type W1C. -/
def SCRN_OVF_POISON_OVF : FRef := ⟨0x400068, 2, 1, 0⟩
/-- SCRN_OVF, spec/05_screening_nozzle_map.md R220, offset 0x68, 32 bits. Field MISMATCH_OVF, bits 1 to 1, type W1C. -/
def SCRN_OVF_MISMATCH_OVF : FRef := ⟨0x400068, 1, 1, 0⟩
/-- SCRN_OVF, spec/05_screening_nozzle_map.md R220, offset 0x68, 32 bits. Field ROT_OVF, bits 0 to 0, type W1C. -/
def SCRN_OVF_ROT_OVF : FRef := ⟨0x400068, 0, 1, 0⟩
/-- SCRN_CHECK, spec/05_screening_nozzle_map.md R220, offset 0x6C, 32 bits. Field REASON, bits 31 to 28, type RO. -/
def SCRN_CHECK_REASON : FRef := ⟨0x40006C, 28, 4, 0⟩
/-- SCRN_CHECK, spec/05_screening_nozzle_map.md R220, offset 0x6C, 32 bits. Field LANE, bits 24 to 20, type RO. -/
def SCRN_CHECK_LANE : FRef := ⟨0x40006C, 20, 5, 0⟩
/-- SCRN_CHECK, spec/05_screening_nozzle_map.md R220, offset 0x6C, 32 bits. Field POSITION, bits 14 to 0, type RO. -/
def SCRN_CHECK_POSITION : FRef := ⟨0x40006C, 0, 15, 0⟩
/-- SCRN_RETAIN, spec/05_screening_nozzle_map.md R220, offset 0x70, 32 bits. Field LINES, bits 15 to 0, type RO. -/
def SCRN_RETAIN_LINES : FRef := ⟨0x400070, 0, 16, 0xFFFF⟩
/-- SCRN_RG_SHIFT, spec/05_screening_nozzle_map.md R220, offset 0x100 + n × 0x4, 32 bits. Field YSHIFT, bits 15 to 8, type SH. -/
def SCRN_RG_SHIFT_YSHIFT (n : Nat) : FRef := ⟨0x400100 + 0x4 * n, 8, 8, 0⟩
/-- SCRN_RG_SHIFT, spec/05_screening_nozzle_map.md R220, offset 0x100 + n × 0x4, 32 bits. Field XSHIFT, bits 7 to 0, type SH. -/
def SCRN_RG_SHIFT_XSHIFT (n : Nat) : FRef := ⟨0x400100 + 0x4 * n, 0, 8, 0⟩
/-- SCRN_LANE_ACTIVE, spec/05_screening_nozzle_map.md R220, offset 0x800 + n × 0x4, 32 bits. Field ACTIVE, bits 15 to 0, type RW. -/
def SCRN_LANE_ACTIVE_ACTIVE (n : Nat) : FRef := ⟨0x400800 + 0x4 * n, 0, 16, 0x8000⟩
/-- SCRN_CTX_CFG, spec/05_screening_nozzle_map.md R220, offset 0x1000 + n × 0x10, 32 bits. Field SUB_SHARE, bits 8 to 0, type RW. -/
def SCRN_CTX_CFG_SUB_SHARE (n : Nat) : FRef := ⟨0x401000 + 0x10 * n, 0, 9, 0x80⟩
/-- SLICE_LANE, spec/05_screening_nozzle_map.md R221, offset 0x40, 32 bits. Field LANE, bits 7 to 0, type RO. -/
def SLICE_LANE_LANE (b : Nat) : FRef := ⟨b + 0x40, 0, 8, 0xFF⟩
/-- SLICE_DECISIONS, spec/05_screening_nozzle_map.md R221, offset 0x48, 64 bits. Field COUNT, bits 63 to 0, type SAT. -/
def SLICE_DECISIONS_COUNT (b : Nat) : FRef := ⟨b + 0x48, 0, 64, 0⟩
/-- SLICE_OVF, spec/05_screening_nozzle_map.md R221, offset 0x50, 32 bits. Field DECISIONS_OVF, bits 0 to 0, type W1C. -/
def SLICE_OVF_DECISIONS_OVF (b : Nat) : FRef := ⟨b + 0x50, 0, 1, 0⟩
/-- LANE_CTRL, spec/06_head_link.md R275, offset 0x40, 32 bits. Field START, bits 10 to 10, type W1S. -/
def LANE_CTRL_START (b : Nat) : FRef := ⟨b + 0x40, 10, 1, 0⟩
/-- LANE_CTRL, spec/06_head_link.md R275, offset 0x40, 32 bits. Field INVERT_RX, bits 9 to 9, type RW. -/
def LANE_CTRL_INVERT_RX (b : Nat) : FRef := ⟨b + 0x40, 9, 1, 0⟩
/-- LANE_CTRL, spec/06_head_link.md R275, offset 0x40, 32 bits. Field INVERT_TX, bits 8 to 8, type RW. -/
def LANE_CTRL_INVERT_TX (b : Nat) : FRef := ⟨b + 0x40, 8, 1, 0⟩
/-- LANE_CTRL, spec/06_head_link.md R275, offset 0x40, 32 bits. Field PRBS, bits 3 to 3, type RW. -/
def LANE_CTRL_PRBS (b : Nat) : FRef := ⟨b + 0x40, 3, 1, 0⟩
/-- LANE_CTRL, spec/06_head_link.md R275, offset 0x40, 32 bits. Field LOOPBACK, bits 2 to 2, type RW. -/
def LANE_CTRL_LOOPBACK (b : Nat) : FRef := ⟨b + 0x40, 2, 1, 0⟩
/-- LANE_CTRL, spec/06_head_link.md R275, offset 0x40, 32 bits. Field TX_SQUELCH, bits 1 to 1, type RW. -/
def LANE_CTRL_TX_SQUELCH (b : Nat) : FRef := ⟨b + 0x40, 1, 1, 0⟩
/-- LANE_CTRL, spec/06_head_link.md R275, offset 0x40, 32 bits. Field RATE, bits 0 to 0, type RW. -/
def LANE_CTRL_RATE (b : Nat) : FRef := ⟨b + 0x40, 0, 1, (if b < 0x700000 ∨ 0xC00000 ≤ b then 1 else 0)⟩
/-- LANE_STATUS, spec/06_head_link.md R275, offset 0x44, 32 bits. Field OUTCOME, bits 31 to 28, type RO. -/
def LANE_STATUS_OUTCOME (b : Nat) : FRef := ⟨b + 0x44, 28, 4, 0⟩
/-- LANE_STATUS, spec/06_head_link.md R275, offset 0x44, 32 bits. Field RATE_NOW, bits 8 to 8, type RO. -/
def LANE_STATUS_RATE_NOW (b : Nat) : FRef := ⟨b + 0x44, 8, 1, 0⟩
/-- LANE_STATUS, spec/06_head_link.md R275, offset 0x44, 32 bits. Field HI_BER, bits 7 to 7, type RO. -/
def LANE_STATUS_HI_BER (b : Nat) : FRef := ⟨b + 0x44, 7, 1, 0⟩
/-- LANE_STATUS, spec/06_head_link.md R275, offset 0x44, 32 bits. Field BLOCK_LOCK, bits 6 to 6, type RO. -/
def LANE_STATUS_BLOCK_LOCK (b : Nat) : FRef := ⟨b + 0x44, 6, 1, 0⟩
/-- LANE_STATUS, spec/06_head_link.md R275, offset 0x44, 32 bits. Field CDR_LOCK, bits 5 to 5, type RO. -/
def LANE_STATUS_CDR_LOCK (b : Nat) : FRef := ⟨b + 0x44, 5, 1, 0⟩
/-- LANE_STATUS, spec/06_head_link.md R275, offset 0x44, 32 bits. Field SIGNAL, bits 4 to 4, type RO. -/
def LANE_STATUS_SIGNAL (b : Nat) : FRef := ⟨b + 0x44, 4, 1, 0⟩
/-- LANE_STATUS, spec/06_head_link.md R275, offset 0x44, 32 bits. Field LSTATE, bits 2 to 0, type RO. -/
def LANE_STATUS_LSTATE (b : Nat) : FRef := ⟨b + 0x44, 0, 3, 0⟩
/-- LANE_TX_TAPS, spec/06_head_link.md R275, offset 0x48, 32 bits. Field POST, bits 20 to 16, type RW. -/
def LANE_TX_TAPS_POST (b : Nat) : FRef := ⟨b + 0x48, 16, 5, 6⟩
/-- LANE_TX_TAPS, spec/06_head_link.md R275, offset 0x48, 32 bits. Field MAIN, bits 13 to 8, type RW. -/
def LANE_TX_TAPS_MAIN (b : Nat) : FRef := ⟨b + 0x48, 8, 6, 0x30⟩
/-- LANE_TX_TAPS, spec/06_head_link.md R275, offset 0x48, 32 bits. Field PRE, bits 3 to 0, type RW. -/
def LANE_TX_TAPS_PRE (b : Nat) : FRef := ⟨b + 0x48, 0, 4, 2⟩
/-- LANE_RX_EQ, spec/06_head_link.md R275, offset 0x4C, 32 bits. Field EYE_W, bits 31 to 24, type RO. -/
def LANE_RX_EQ_EYE_W (b : Nat) : FRef := ⟨b + 0x4C, 24, 8, 0⟩
/-- LANE_RX_EQ, spec/06_head_link.md R275, offset 0x4C, 32 bits. Field EYE_H, bits 23 to 16, type RO. -/
def LANE_RX_EQ_EYE_H (b : Nat) : FRef := ⟨b + 0x4C, 16, 8, 0⟩
/-- LANE_RX_EQ, spec/06_head_link.md R275, offset 0x4C, 32 bits. Field CTLE, bits 3 to 0, type RO. -/
def LANE_RX_EQ_CTLE (b : Nat) : FRef := ⟨b + 0x4C, 0, 4, 0⟩
/-- LANE_BER_CFG, spec/06_head_link.md R275, offset 0x50, 32 bits. Field BER_LIMIT, bits 7 to 0, type RW. -/
def LANE_BER_CFG_BER_LIMIT (b : Nat) : FRef := ⟨b + 0x50, 0, 8, 0x20⟩
/-- LANE_ERR_SH, spec/06_head_link.md R275, offset 0x54, 32 bits. Field COUNT, bits 31 to 0, type SAT. -/
def LANE_ERR_SH_COUNT (b : Nat) : FRef := ⟨b + 0x54, 0, 32, 0⟩
/-- LANE_ERR_TYPE, spec/06_head_link.md R275, offset 0x58, 32 bits. Field COUNT, bits 31 to 0, type SAT. -/
def LANE_ERR_TYPE_COUNT (b : Nat) : FRef := ⟨b + 0x58, 0, 32, 0⟩
/-- LANE_EVENTS, spec/06_head_link.md R275, offset 0x5C, 32 bits. Field LOS, bits 31 to 24, type SAT. -/
def LANE_EVENTS_LOS (b : Nat) : FRef := ⟨b + 0x5C, 24, 8, 0⟩
/-- LANE_EVENTS, spec/06_head_link.md R275, offset 0x5C, 32 bits. Field LOCK_LOSS, bits 23 to 16, type SAT. -/
def LANE_EVENTS_LOCK_LOSS (b : Nat) : FRef := ⟨b + 0x5C, 16, 8, 0⟩
/-- LANE_EVENTS, spec/06_head_link.md R275, offset 0x5C, 32 bits. Field TRAIN_FAIL, bits 15 to 8, type SAT. -/
def LANE_EVENTS_TRAIN_FAIL (b : Nat) : FRef := ⟨b + 0x5C, 8, 8, 0⟩
/-- LANE_EVENTS, spec/06_head_link.md R275, offset 0x5C, 32 bits. Field TRAIN_ABORT, bits 7 to 0, type SAT. -/
def LANE_EVENTS_TRAIN_ABORT (b : Nat) : FRef := ⟨b + 0x5C, 0, 8, 0⟩
/-- LANE_PRBS_ERR, spec/06_head_link.md R275, offset 0x60, 32 bits. Field COUNT, bits 31 to 0, type SAT. -/
def LANE_PRBS_ERR_COUNT (b : Nat) : FRef := ⟨b + 0x60, 0, 32, 0⟩
/-- LANE_OVF, spec/06_head_link.md R275, offset 0x64, 32 bits. Field PRBS_OVF, bits 6 to 6, type W1C. -/
def LANE_OVF_PRBS_OVF (b : Nat) : FRef := ⟨b + 0x64, 6, 1, 0⟩
/-- LANE_OVF, spec/06_head_link.md R275, offset 0x64, 32 bits. Field ABORT_OVF, bits 5 to 5, type W1C. -/
def LANE_OVF_ABORT_OVF (b : Nat) : FRef := ⟨b + 0x64, 5, 1, 0⟩
/-- LANE_OVF, spec/06_head_link.md R275, offset 0x64, 32 bits. Field FAIL_OVF, bits 4 to 4, type W1C. -/
def LANE_OVF_FAIL_OVF (b : Nat) : FRef := ⟨b + 0x64, 4, 1, 0⟩
/-- LANE_OVF, spec/06_head_link.md R275, offset 0x64, 32 bits. Field LOCK_OVF, bits 3 to 3, type W1C. -/
def LANE_OVF_LOCK_OVF (b : Nat) : FRef := ⟨b + 0x64, 3, 1, 0⟩
/-- LANE_OVF, spec/06_head_link.md R275, offset 0x64, 32 bits. Field LOS_OVF, bits 2 to 2, type W1C. -/
def LANE_OVF_LOS_OVF (b : Nat) : FRef := ⟨b + 0x64, 2, 1, 0⟩
/-- LANE_OVF, spec/06_head_link.md R275, offset 0x64, 32 bits. Field TYPE_OVF, bits 1 to 1, type W1C. -/
def LANE_OVF_TYPE_OVF (b : Nat) : FRef := ⟨b + 0x64, 1, 1, 0⟩
/-- LANE_OVF, spec/06_head_link.md R275, offset 0x64, 32 bits. Field SH_OVF, bits 0 to 0, type W1C. -/
def LANE_OVF_SH_OVF (b : Nat) : FRef := ⟨b + 0x64, 0, 1, 0⟩
/-- HLNK_CFG, spec/06_head_link.md R277, offset 0x40, 32 bits. Field FIRE_ADV, bits 19 to 8, type RW. -/
def HLNK_CFG_FIRE_ADV : FRef := ⟨0x500040, 8, 12, 0x3E8⟩
/-- HLNK_CFG, spec/06_head_link.md R277, offset 0x40, 32 bits. Field REPLAY_MAX, bits 7 to 4, type RW. -/
def HLNK_CFG_REPLAY_MAX : FRef := ⟨0x500040, 4, 4, 4⟩
/-- HLNK_CFG, spec/06_head_link.md R277, offset 0x40, 32 bits. Field FIRE_LEAD, bits 3 to 0, type RW. -/
def HLNK_CFG_FIRE_LEAD : FRef := ⟨0x500040, 0, 4, 4⟩
/-- HLNK_LAT_CFG, spec/06_head_link.md R277, offset 0x44, 32 bits. Field LAT_SLEW, bits 23 to 16, type RW. -/
def HLNK_LAT_CFG_LAT_SLEW : FRef := ⟨0x500044, 16, 8, 4⟩
/-- HLNK_LAT_CFG, spec/06_head_link.md R277, offset 0x44, 32 bits. Field LAT_PERIOD, bits 15 to 0, type RW. -/
def HLNK_LAT_CFG_LAT_PERIOD : FRef := ⟨0x500044, 0, 16, 0x3E8⟩
/-- HLNK_TRAIN_CFG, spec/06_head_link.md R277, offset 0x48, 32 bits. Field TRAIN_T, bits 15 to 0, type RW. -/
def HLNK_TRAIN_CFG_TRAIN_T : FRef := ⟨0x500048, 0, 16, 0x1F4⟩
/-- HL_STATE, spec/06_head_link.md R277, offset 0x800 + n × 0x40, 32 bits. Field HOLD_LIMIT, bits 31 to 28, type RO. -/
def HL_STATE_HOLD_LIMIT (n : Nat) : FRef := ⟨0x500800 + 0x40 * n, 28, 4, 0⟩
/-- HL_STATE, spec/06_head_link.md R277, offset 0x800 + n × 0x40, 32 bits. Field HEADS, bits 27 to 22, type RO. -/
def HL_STATE_HEADS (n : Nat) : FRef := ⟨0x500800 + 0x40 * n, 22, 6, 0⟩
/-- HL_STATE, spec/06_head_link.md R277, offset 0x800 + n × 0x40, 32 bits. Field CAP_B, bits 21 to 21, type RO. -/
def HL_STATE_CAP_B (n : Nat) : FRef := ⟨0x500800 + 0x40 * n, 21, 1, 0⟩
/-- HL_STATE, spec/06_head_link.md R277, offset 0x800 + n × 0x40, 32 bits. Field HUB_HI_BER, bits 13 to 13, type RO. -/
def HL_STATE_HUB_HI_BER (n : Nat) : FRef := ⟨0x500800 + 0x40 * n, 13, 1, 0⟩
/-- HL_STATE, spec/06_head_link.md R277, offset 0x800 + n × 0x40, 32 bits. Field HUB_RX_LOCK, bits 12 to 12, type RO. -/
def HL_STATE_HUB_RX_LOCK (n : Nat) : FRef := ⟨0x500800 + 0x40 * n, 12, 1, 0⟩
/-- HL_STATE, spec/06_head_link.md R277, offset 0x800 + n × 0x40, 32 bits. Field FOLLOWED, bits 11 to 11, type RO. -/
def HL_STATE_FOLLOWED (n : Nat) : FRef := ⟨0x500800 + 0x40 * n, 11, 1, 0⟩
/-- HL_STATE, spec/06_head_link.md R277, offset 0x800 + n × 0x40, 32 bits. Field HUB_PORT, bits 10 to 10, type RO. -/
def HL_STATE_HUB_PORT (n : Nat) : FRef := ⟨0x500800 + 0x40 * n, 10, 1, 0⟩
/-- HL_STATE, spec/06_head_link.md R277, offset 0x800 + n × 0x40, 32 bits. Field HUB_BLANK, bits 9 to 9, type RO. -/
def HL_STATE_HUB_BLANK (n : Nat) : FRef := ⟨0x500800 + 0x40 * n, 9, 1, 0⟩
/-- HL_STATE, spec/06_head_link.md R277, offset 0x800 + n × 0x40, 32 bits. Field HUB_HOLD, bits 8 to 8, type RO. -/
def HL_STATE_HUB_HOLD (n : Nat) : FRef := ⟨0x500800 + 0x40 * n, 8, 1, 0⟩
/-- HL_EPOCH, spec/06_head_link.md R277, offset 0x804 + n × 0x40, 32 bits. Field HUB_EPOCH, bits 31 to 16, type RO. -/
def HL_EPOCH_HUB_EPOCH (n : Nat) : FRef := ⟨0x500804 + 0x40 * n, 16, 16, 0⟩
/-- HL_EPOCH, spec/06_head_link.md R277, offset 0x804 + n × 0x40, 32 bits. Field EPOCH, bits 15 to 0, type RO. -/
def HL_EPOCH_EPOCH (n : Nat) : FRef := ⟨0x500804 + 0x40 * n, 0, 16, 1⟩
/-- HL_LAT, spec/06_head_link.md R277, offset 0x808 + n × 0x40, 32 bits. Field LAT, bits 31 to 0, type RO. -/
def HL_LAT_LAT (n : Nat) : FRef := ⟨0x500808 + 0x40 * n, 0, 32, 0⟩
/-- HL_ASYM, spec/06_head_link.md R277, offset 0x80C + n × 0x40, 32 bits. Field ASYM, bits 15 to 0, type RW. -/
def HL_ASYM_ASYM (n : Nat) : FRef := ⟨0x50080C + 0x40 * n, 0, 16, 0⟩
/-- HL_NAKS, spec/06_head_link.md R277, offset 0x810 + n × 0x40, 32 bits. Field COUNT, bits 31 to 0, type SAT. -/
def HL_NAKS_COUNT (n : Nat) : FRef := ⟨0x500810 + 0x40 * n, 0, 32, 0⟩
/-- HL_REPLAYED, spec/06_head_link.md R277, offset 0x814 + n × 0x40, 32 bits. Field COUNT, bits 31 to 0, type SAT. -/
def HL_REPLAYED_COUNT (n : Nat) : FRef := ⟨0x500814 + 0x40 * n, 0, 32, 0⟩
/-- HL_LATE, spec/06_head_link.md R277, offset 0x818 + n × 0x40, 32 bits. Field COUNT, bits 31 to 0, type SAT. -/
def HL_LATE_COUNT (n : Nat) : FRef := ⟨0x500818 + 0x40 * n, 0, 32, 0⟩
/-- HL_MISSED, spec/06_head_link.md R277, offset 0x81C + n × 0x40, 32 bits. Field COUNT, bits 31 to 0, type SAT. -/
def HL_MISSED_COUNT (n : Nat) : FRef := ⟨0x50081C + 0x40 * n, 0, 32, 0⟩
/-- HL_OVF, spec/06_head_link.md R277, offset 0x820 + n × 0x40, 32 bits. Field MISSED_OVF, bits 3 to 3, type W1C. -/
def HL_OVF_MISSED_OVF (n : Nat) : FRef := ⟨0x500820 + 0x40 * n, 3, 1, 0⟩
/-- HL_OVF, spec/06_head_link.md R277, offset 0x820 + n × 0x40, 32 bits. Field LATE_OVF, bits 2 to 2, type W1C. -/
def HL_OVF_LATE_OVF (n : Nat) : FRef := ⟨0x500820 + 0x40 * n, 2, 1, 0⟩
/-- HL_OVF, spec/06_head_link.md R277, offset 0x820 + n × 0x40, 32 bits. Field REPLAYED_OVF, bits 1 to 1, type W1C. -/
def HL_OVF_REPLAYED_OVF (n : Nat) : FRef := ⟨0x500820 + 0x40 * n, 1, 1, 0⟩
/-- HL_OVF, spec/06_head_link.md R277, offset 0x820 + n × 0x40, 32 bits. Field NAKS_OVF, bits 0 to 0, type W1C. -/
def HL_OVF_NAKS_OVF (n : Nat) : FRef := ⟨0x500820 + 0x40 * n, 0, 1, 0⟩
/-- HL_GROUPS, spec/06_head_link.md R277, offset 0x824 + n × 0x40, 32 bits. Field GROUPS, bits 31 to 0, type RO. -/
def HL_GROUPS_GROUPS (n : Nat) : FRef := ⟨0x500824 + 0x40 * n, 0, 32, 0⟩
/-- FIRE_CFG, spec/07_position_fire_timing.md R331, offset 0x40, 32 bits. Field COMMIT_MARGIN, bits 15 to 0, type RW. -/
def FIRE_CFG_COMMIT_MARGIN : FRef := ⟨0x600040, 0, 16, 0xFA⟩
/-- FIRE_NOW, spec/07_position_fire_timing.md R331, offset 0x48, 64 bits. Field NS, bits 63 to 0, type RO. -/
def FIRE_NOW_NS : FRef := ⟨0x600048, 0, 64, 0⟩
/-- ENC_POS, spec/07_position_fire_timing.md R331, offset 0x100 + n × 0x80, 64 bits. Field POS, bits 63 to 0, type RO. -/
def ENC_POS_POS (n : Nat) : FRef := ⟨0x600100 + 0x80 * n, 0, 64, 0⟩
/-- ENC_HWM, spec/07_position_fire_timing.md R331, offset 0x108 + n × 0x80, 64 bits. Field HWM, bits 63 to 0, type RO. -/
def ENC_HWM_HWM (n : Nat) : FRef := ⟨0x600108 + 0x80 * n, 0, 64, 0⟩
/-- ENC_SPEED, spec/07_position_fire_timing.md R331, offset 0x110 + n × 0x80, 64 bits. Field SPEED, bits 63 to 0, type RO. -/
def ENC_SPEED_SPEED (n : Nat) : FRef := ⟨0x600110 + 0x80 * n, 0, 64, 0⟩
/-- ENC_WEB_NM, spec/07_position_fire_timing.md R331, offset 0x118 + n × 0x80, 64 bits. Field NM, bits 63 to 0, type RO. -/
def ENC_WEB_NM_NM (n : Nat) : FRef := ⟨0x600118 + 0x80 * n, 0, 64, 0⟩
/-- ENC_STATUS, spec/07_position_fire_timing.md R331, offset 0x120 + n × 0x80, 32 bits. Field FAULT_CODE, bits 31 to 16, type RO. -/
def ENC_STATUS_FAULT_CODE (n : Nat) : FRef := ⟨0x600120 + 0x80 * n, 16, 16, 0⟩
/-- ENC_STATUS, spec/07_position_fire_timing.md R331, offset 0x120 + n × 0x80, 32 bits. Field REASON, bits 12 to 10, type RO. -/
def ENC_STATUS_REASON (n : Nat) : FRef := ⟨0x600120 + 0x80 * n, 10, 3, 0⟩
/-- ENC_STATUS, spec/07_position_fire_timing.md R331, offset 0x120 + n × 0x80, 32 bits. Field WARN, bits 9 to 9, type RO. -/
def ENC_STATUS_WARN (n : Nat) : FRef := ⟨0x600120 + 0x80 * n, 9, 1, 0⟩
/-- ENC_STATUS, spec/07_position_fire_timing.md R331, offset 0x120 + n × 0x80, 32 bits. Field FAULT, bits 8 to 8, type RO. -/
def ENC_STATUS_FAULT (n : Nat) : FRef := ⟨0x600120 + 0x80 * n, 8, 1, 0⟩
/-- ENC_STATUS, spec/07_position_fire_timing.md R331, offset 0x120 + n × 0x80, 32 bits. Field SUSPENDED, bits 7 to 7, type RO. -/
def ENC_STATUS_SUSPENDED (n : Nat) : FRef := ⟨0x600120 + 0x80 * n, 7, 1, 0⟩
/-- ENC_STATUS, spec/07_position_fire_timing.md R331, offset 0x120 + n × 0x80, 32 bits. Field METHOD, bits 6 to 6, type RO. -/
def ENC_STATUS_METHOD (n : Nat) : FRef := ⟨0x600120 + 0x80 * n, 6, 1, 0⟩
/-- ENC_STATUS, spec/07_position_fire_timing.md R331, offset 0x120 + n × 0x80, 32 bits. Field UNCERTAIN, bits 5 to 5, type RO. -/
def ENC_STATUS_UNCERTAIN (n : Nat) : FRef := ⟨0x600120 + 0x80 * n, 5, 1, 0⟩
/-- ENC_STATUS, spec/07_position_fire_timing.md R331, offset 0x120 + n × 0x80, 32 bits. Field STANDSTILL, bits 4 to 4, type RO. -/
def ENC_STATUS_STANDSTILL (n : Nat) : FRef := ⟨0x600120 + 0x80 * n, 4, 1, 1⟩
/-- ENC_STATUS, spec/07_position_fire_timing.md R331, offset 0x120 + n × 0x80, 32 bits. Field BACKWARD, bits 3 to 3, type RO. -/
def ENC_STATUS_BACKWARD (n : Nat) : FRef := ⟨0x600120 + 0x80 * n, 3, 1, 0⟩
/-- ENC_STATUS, spec/07_position_fire_timing.md R331, offset 0x120 + n × 0x80, 32 bits. Field TYPE, bits 2 to 0, type RO. -/
def ENC_STATUS_TYPE (n : Nat) : FRef := ⟨0x600120 + 0x80 * n, 0, 3, 7⟩
/-- ENC_LISSA_S, spec/07_position_fire_timing.md R331, offset 0x124 + n × 0x80, 32 bits. Field MAX, bits 31 to 16, type RO. -/
def ENC_LISSA_S_MAX (n : Nat) : FRef := ⟨0x600124 + 0x80 * n, 16, 16, 0⟩
/-- ENC_LISSA_S, spec/07_position_fire_timing.md R331, offset 0x124 + n × 0x80, 32 bits. Field MIN, bits 15 to 0, type RO. -/
def ENC_LISSA_S_MIN (n : Nat) : FRef := ⟨0x600124 + 0x80 * n, 0, 16, 0⟩
/-- ENC_LISSA_C, spec/07_position_fire_timing.md R331, offset 0x128 + n × 0x80, 32 bits. Field MAX, bits 31 to 16, type RO. -/
def ENC_LISSA_C_MAX (n : Nat) : FRef := ⟨0x600128 + 0x80 * n, 16, 16, 0⟩
/-- ENC_LISSA_C, spec/07_position_fire_timing.md R331, offset 0x128 + n × 0x80, 32 bits. Field MIN, bits 15 to 0, type RO. -/
def ENC_LISSA_C_MIN (n : Nat) : FRef := ⟨0x600128 + 0x80 * n, 0, 16, 0⟩
/-- ENC_CORR, spec/07_position_fire_timing.md R331, offset 0x12C + n × 0x80, 32 bits. Field OFS_C, bits 31 to 16, type RO. -/
def ENC_CORR_OFS_C (n : Nat) : FRef := ⟨0x60012C + 0x80 * n, 16, 16, 0⟩
/-- ENC_CORR, spec/07_position_fire_timing.md R331, offset 0x12C + n × 0x80, 32 bits. Field OFS_S, bits 15 to 0, type RO. -/
def ENC_CORR_OFS_S (n : Nat) : FRef := ⟨0x60012C + 0x80 * n, 0, 16, 0⟩
/-- ENC_GAIN, spec/07_position_fire_timing.md R331, offset 0x130 + n × 0x80, 32 bits. Field PH, bits 31 to 16, type RO. -/
def ENC_GAIN_PH (n : Nat) : FRef := ⟨0x600130 + 0x80 * n, 16, 16, 0⟩
/-- ENC_GAIN, spec/07_position_fire_timing.md R331, offset 0x130 + n × 0x80, 32 bits. Field GC, bits 15 to 0, type RO. -/
def ENC_GAIN_GC (n : Nat) : FRef := ⟨0x600130 + 0x80 * n, 0, 16, 0x4000⟩
/-- ENC_INDEX, spec/07_position_fire_timing.md R331, offset 0x134 + n × 0x80, 32 bits. Field COUNT, bits 31 to 0, type RO. -/
def ENC_INDEX_COUNT (n : Nat) : FRef := ⟨0x600134 + 0x80 * n, 0, 32, 0⟩
/-- ENC_IDX_ERR, spec/07_position_fire_timing.md R331, offset 0x138 + n × 0x80, 32 bits. Field COUNT, bits 31 to 0, type SAT. -/
def ENC_IDX_ERR_COUNT (n : Nat) : FRef := ⟨0x600138 + 0x80 * n, 0, 32, 0⟩
/-- ENC_REVERSALS, spec/07_position_fire_timing.md R331, offset 0x13C + n × 0x80, 32 bits. Field COUNT, bits 31 to 0, type SAT. -/
def ENC_REVERSALS_COUNT (n : Nat) : FRef := ⟨0x60013C + 0x80 * n, 0, 32, 0⟩
/-- ENC_DISCARDS, spec/07_position_fire_timing.md R331, offset 0x140 + n × 0x80, 32 bits. Field COUNT, bits 31 to 0, type SAT. -/
def ENC_DISCARDS_COUNT (n : Nat) : FRef := ⟨0x600140 + 0x80 * n, 0, 32, 0⟩
/-- ENC_OVF, spec/07_position_fire_timing.md R331, offset 0x144 + n × 0x80, 32 bits. Field DISCARDS_OVF, bits 2 to 2, type W1C. -/
def ENC_OVF_DISCARDS_OVF (n : Nat) : FRef := ⟨0x600144 + 0x80 * n, 2, 1, 0⟩
/-- ENC_OVF, spec/07_position_fire_timing.md R331, offset 0x144 + n × 0x80, 32 bits. Field REV_OVF, bits 1 to 1, type W1C. -/
def ENC_OVF_REV_OVF (n : Nat) : FRef := ⟨0x600144 + 0x80 * n, 1, 1, 0⟩
/-- ENC_OVF, spec/07_position_fire_timing.md R331, offset 0x144 + n × 0x80, 32 bits. Field IDX_OVF, bits 0 to 0, type W1C. -/
def ENC_OVF_IDX_OVF (n : Nat) : FRef := ⟨0x600144 + 0x80 * n, 0, 1, 0⟩
/-- SYN_STATE, spec/07_position_fire_timing.md R331, offset 0x400 + n × 0x40, 32 bits. Field CHANNEL, bits 17 to 16, type RO. -/
def SYN_STATE_CHANNEL (n : Nat) : FRef := ⟨0x600400 + 0x40 * n, 16, 2, 0⟩
/-- SYN_STATE, spec/07_position_fire_timing.md R331, offset 0x400 + n × 0x40, 32 bits. Field CONTEXT, bits 15 to 8, type RO. -/
def SYN_STATE_CONTEXT (n : Nat) : FRef := ⟨0x600400 + 0x40 * n, 8, 8, 0⟩
/-- SYN_STATE, spec/07_position_fire_timing.md R331, offset 0x400 + n × 0x40, 32 bits. Field WAITING, bits 5 to 5, type RO. -/
def SYN_STATE_WAITING (n : Nat) : FRef := ⟨0x600400 + 0x40 * n, 5, 1, 0⟩
/-- SYN_STATE, spec/07_position_fire_timing.md R331, offset 0x400 + n × 0x40, 32 bits. Field ACTIVE, bits 4 to 4, type RO. -/
def SYN_STATE_ACTIVE (n : Nat) : FRef := ⟨0x600400 + 0x40 * n, 4, 1, 0⟩
/-- SYN_STATE, spec/07_position_fire_timing.md R331, offset 0x400 + n × 0x40, 32 bits. Field T_FRAC, bits 3 to 0, type RO. -/
def SYN_STATE_T_FRAC (n : Nat) : FRef := ⟨0x600400 + 0x40 * n, 0, 4, 0⟩
/-- SYN_NEXT, spec/07_position_fire_timing.md R331, offset 0x404 + n × 0x40, 32 bits. Field LINE, bits 31 to 0, type RO. -/
def SYN_NEXT_LINE (n : Nat) : FRef := ⟨0x600404 + 0x40 * n, 0, 32, 0⟩
/-- SYN_T, spec/07_position_fire_timing.md R331, offset 0x408 + n × 0x40, 64 bits. Field NS, bits 63 to 0, type RO. -/
def SYN_T_NS (n : Nat) : FRef := ⟨0x600408 + 0x40 * n, 0, 64, 0⟩
/-- SYN_Q, spec/07_position_fire_timing.md R331, offset 0x410 + n × 0x40, 64 bits. Field Q, bits 63 to 0, type RO. -/
def SYN_Q_Q (n : Nat) : FRef := ⟨0x600410 + 0x40 * n, 0, 64, 0⟩
/-- SYN_DELAY, spec/07_position_fire_timing.md R331, offset 0x418 + n × 0x40, 32 bits. Field DELAY, bits 31 to 0, type RO. -/
def SYN_DELAY_DELAY (n : Nat) : FRef := ⟨0x600418 + 0x40 * n, 0, 32, 0⟩
/-- SYN_CAL_DELAY, spec/07_position_fire_timing.md R331, offset 0x41C + n × 0x40, 32 bits. Field DELAY, bits 31 to 0, type RO. -/
def SYN_CAL_DELAY_DELAY (n : Nat) : FRef := ⟨0x60041C + 0x40 * n, 0, 32, 0⟩
/-- SYN_TOFS, spec/07_position_fire_timing.md R331, offset 0x420 + n × 0x40, 32 bits. Field TOFS, bits 31 to 0, type RO. -/
def SYN_TOFS_TOFS (n : Nat) : FRef := ⟨0x600420 + 0x40 * n, 0, 32, 0⟩
/-- SYN_FORCED, spec/07_position_fire_timing.md R331, offset 0x424 + n × 0x40, 32 bits. Field COUNT, bits 31 to 0, type SAT. -/
def SYN_FORCED_COUNT (n : Nat) : FRef := ⟨0x600424 + 0x40 * n, 0, 32, 0⟩
/-- SYN_OVF, spec/07_position_fire_timing.md R331, offset 0x428 + n × 0x40, 32 bits. Field FORCED_OVF, bits 0 to 0, type W1C. -/
def SYN_OVF_FORCED_OVF (n : Nat) : FRef := ⟨0x600428 + 0x40 * n, 0, 1, 0⟩
/-- CMP_CFG, spec/07_position_fire_timing.md R331, offset 0xC00 + n × 0x20, 32 bits. Field QUEUED, bits 11 to 8, type RO. -/
def CMP_CFG_QUEUED (n : Nat) : FRef := ⟨0x600C00 + 0x20 * n, 8, 4, 0⟩
/-- CMP_CFG, spec/07_position_fire_timing.md R331, offset 0xC00 + n × 0x20, 32 bits. Field DRIVE, bits 3 to 3, type RW. -/
def CMP_CFG_DRIVE (n : Nat) : FRef := ⟨0x600C00 + 0x20 * n, 3, 1, 0⟩
/-- CMP_CFG, spec/07_position_fire_timing.md R331, offset 0xC00 + n × 0x20, 32 bits. Field POLARITY, bits 2 to 2, type RW. -/
def CMP_CFG_POLARITY (n : Nat) : FRef := ⟨0x600C00 + 0x20 * n, 2, 1, 0⟩
/-- CMP_CFG, spec/07_position_fire_timing.md R331, offset 0xC00 + n × 0x20, 32 bits. Field CHANNEL, bits 1 to 0, type RW. -/
def CMP_CFG_CHANNEL (n : Nat) : FRef := ⟨0x600C00 + 0x20 * n, 0, 2, 0⟩
/-- CMP_TARGET, spec/07_position_fire_timing.md R331, offset 0xC08 + n × 0x20, 64 bits. Field TARGET, bits 63 to 0, type RO. -/
def CMP_TARGET_TARGET (n : Nat) : FRef := ⟨0x600C08 + 0x20 * n, 0, 64, 0⟩
/-- CMP_PULSES, spec/07_position_fire_timing.md R331, offset 0xC10 + n × 0x20, 32 bits. Field COUNT, bits 31 to 0, type SAT. -/
def CMP_PULSES_COUNT (n : Nat) : FRef := ⟨0x600C10 + 0x20 * n, 0, 32, 0⟩
/-- CMP_LATE, spec/07_position_fire_timing.md R331, offset 0xC14 + n × 0x20, 32 bits. Field COUNT, bits 31 to 0, type SAT. -/
def CMP_LATE_COUNT (n : Nat) : FRef := ⟨0x600C14 + 0x20 * n, 0, 32, 0⟩
/-- CMP_OVF, spec/07_position_fire_timing.md R331, offset 0xC18 + n × 0x20, 32 bits. Field LATE_OVF, bits 1 to 1, type W1C. -/
def CMP_OVF_LATE_OVF (n : Nat) : FRef := ⟨0x600C18 + 0x20 * n, 1, 1, 0⟩
/-- CMP_OVF, spec/07_position_fire_timing.md R331, offset 0xC18 + n × 0x20, 32 bits. Field PULSES_OVF, bits 0 to 0, type W1C. -/
def CMP_OVF_PULSES_OVF (n : Nat) : FRef := ⟨0x600C18 + 0x20 * n, 0, 1, 0⟩
/-- LATCH_CFG, spec/07_position_fire_timing.md R331, offset 0xE00 + n × 0x10, 32 bits. Field HELD, bits 31 to 24, type RO. -/
def LATCH_CFG_HELD (n : Nat) : FRef := ⟨0x600E00 + 0x10 * n, 24, 8, 0⟩
/-- LATCH_CFG, spec/07_position_fire_timing.md R331, offset 0xE00 + n × 0x10, 32 bits. Field LATCH_FILTER, bits 23 to 16, type RW. -/
def LATCH_CFG_LATCH_FILTER (n : Nat) : FRef := ⟨0x600E00 + 0x10 * n, 16, 8, 0⟩
/-- LATCH_CFG, spec/07_position_fire_timing.md R331, offset 0xE00 + n × 0x10, 32 bits. Field LATCH_ENABLE, bits 4 to 4, type RW. -/
def LATCH_CFG_LATCH_ENABLE (n : Nat) : FRef := ⟨0x600E00 + 0x10 * n, 4, 1, 0⟩
/-- LATCH_CFG, spec/07_position_fire_timing.md R331, offset 0xE00 + n × 0x10, 32 bits. Field EDGE, bits 3 to 2, type RW. -/
def LATCH_CFG_EDGE (n : Nat) : FRef := ⟨0x600E00 + 0x10 * n, 2, 2, 0⟩
/-- LATCH_CFG, spec/07_position_fire_timing.md R331, offset 0xE00 + n × 0x10, 32 bits. Field CHANNEL, bits 1 to 0, type RW. -/
def LATCH_CFG_CHANNEL (n : Nat) : FRef := ⟨0x600E00 + 0x10 * n, 0, 2, 0⟩
/-- LATCH_LOST, spec/07_position_fire_timing.md R331, offset 0xE04 + n × 0x10, 32 bits. Field COUNT, bits 31 to 0, type SAT. -/
def LATCH_LOST_COUNT (n : Nat) : FRef := ⟨0x600E04 + 0x10 * n, 0, 32, 0⟩
/-- LATCH_OVF, spec/07_position_fire_timing.md R331, offset 0xE08 + n × 0x10, 32 bits. Field LOST_OVF, bits 0 to 0, type W1C. -/
def LATCH_OVF_LOST_OVF (n : Nat) : FRef := ⟨0x600E08 + 0x10 * n, 0, 1, 0⟩
/-- DIV_CFG, spec/07_position_fire_timing.md R331, offset 0xF00 + n × 0x10, 32 bits. Field INVERT_B, bits 2 to 2, type RW. -/
def DIV_CFG_INVERT_B (n : Nat) : FRef := ⟨0x600F00 + 0x10 * n, 2, 1, 0⟩
/-- DIV_CFG, spec/07_position_fire_timing.md R331, offset 0xF00 + n × 0x10, 32 bits. Field CHANNEL, bits 1 to 0, type RW. -/
def DIV_CFG_CHANNEL (n : Nat) : FRef := ⟨0x600F00 + 0x10 * n, 0, 2, 0⟩
/-- DIV_DIVISOR, spec/07_position_fire_timing.md R331, offset 0xF04 + n × 0x10, 32 bits. Field D, bits 31 to 0, type RO. -/
def DIV_DIVISOR_D (n : Nat) : FRef := ⟨0x600F04 + 0x10 * n, 0, 32, 0⟩
/-- DIV_OVERRUN, spec/07_position_fire_timing.md R331, offset 0xF08 + n × 0x10, 32 bits. Field COUNT, bits 31 to 0, type SAT. -/
def DIV_OVERRUN_COUNT (n : Nat) : FRef := ⟨0x600F08 + 0x10 * n, 0, 32, 0⟩
/-- DIV_OVF, spec/07_position_fire_timing.md R331, offset 0xF0C + n × 0x10, 32 bits. Field OVERRUN_OVF, bits 0 to 0, type W1C. -/
def DIV_OVF_OVERRUN_OVF (n : Nat) : FRef := ⟨0x600F0C + 0x10 * n, 0, 1, 0⟩
/-- INSP_CFG, spec/08_inspection_calibration.md R384, offset 0x40, 32 bits. Field DEF_MIN, bits 23 to 16, type RW. -/
def INSP_CFG_DEF_MIN : FRef := ⟨0x700040, 16, 8, 8⟩
/-- INSP_CFG, spec/08_inspection_calibration.md R384, offset 0x40, 32 bits. Field REJ_OUT, bits 11 to 8, type RW. -/
def INSP_CFG_REJ_OUT : FRef := ⟨0x700040, 8, 4, 0⟩
/-- INSP_CFG, spec/08_inspection_calibration.md R384, offset 0x40, 32 bits. Field CROP_EN, bits 2 to 2, type RW. -/
def INSP_CFG_CROP_EN : FRef := ⟨0x700040, 2, 1, 0⟩
/-- INSP_CFG, spec/08_inspection_calibration.md R384, offset 0x40, 32 bits. Field REJ_LATE, bits 1 to 1, type RW. -/
def INSP_CFG_REJ_LATE : FRef := ⟨0x700040, 1, 1, 0⟩
/-- INSP_CFG, spec/08_inspection_calibration.md R384, offset 0x40, 32 bits. Field REJ_EN, bits 0 to 0, type RW. -/
def INSP_CFG_REJ_EN : FRef := ⟨0x700040, 0, 1, 0⟩
/-- INSP_REJ_WIDTH, spec/08_inspection_calibration.md R384, offset 0x44, 32 bits. Field WIDTH, bits 31 to 0, type RW. -/
def INSP_REJ_WIDTH_WIDTH : FRef := ⟨0x700044, 0, 32, 0x3E8⟩
/-- INSP_REJ_DIST, spec/08_inspection_calibration.md R384, offset 0x48, 64 bits. Field DIST, bits 63 to 0, type RW. -/
def INSP_REJ_DIST_DIST : FRef := ⟨0x700048, 0, 64, 0⟩
/-- INSP_REGION, spec/08_inspection_calibration.md R384, offset 0x50, 64 bits. Field ADDR, bits 35 to 16, type RW. -/
def INSP_REGION_ADDR : FRef := ⟨0x700050, 16, 20, 0⟩
/-- INSP_LOAD, spec/08_inspection_calibration.md R384, offset 0x58, 32 bits. Field COMMITTED, bits 31 to 0, type RO. -/
def INSP_LOAD_COMMITTED : FRef := ⟨0x700058, 0, 32, 0⟩
/-- INSP_FRAMES, spec/08_inspection_calibration.md R384, offset 0x60, 64 bits. Field COUNT, bits 63 to 0, type SAT. -/
def INSP_FRAMES_COUNT : FRef := ⟨0x700060, 0, 64, 0⟩
/-- INSP_LOST, spec/08_inspection_calibration.md R384, offset 0x68, 32 bits. Field REJ_LOST, bits 31 to 24, type SAT. -/
def INSP_LOST_REJ_LOST : FRef := ⟨0x700068, 24, 8, 0⟩
/-- INSP_LOST, spec/08_inspection_calibration.md R384, offset 0x68, 32 bits. Field CROP_LOST, bits 23 to 16, type SAT. -/
def INSP_LOST_CROP_LOST : FRef := ⟨0x700068, 16, 8, 0⟩
/-- INSP_LOST, spec/08_inspection_calibration.md R384, offset 0x68, 32 bits. Field DEF_LOST, bits 15 to 8, type SAT. -/
def INSP_LOST_DEF_LOST : FRef := ⟨0x700068, 8, 8, 0⟩
/-- INSP_LOST, spec/08_inspection_calibration.md R384, offset 0x68, 32 bits. Field TILE_LOST, bits 7 to 0, type SAT. -/
def INSP_LOST_TILE_LOST : FRef := ⟨0x700068, 0, 8, 0⟩
/-- INSP_OVF, spec/08_inspection_calibration.md R384, offset 0x6C, 32 bits. Field REJ_OVF, bits 4 to 4, type W1C. -/
def INSP_OVF_REJ_OVF : FRef := ⟨0x70006C, 4, 1, 0⟩
/-- INSP_OVF, spec/08_inspection_calibration.md R384, offset 0x6C, 32 bits. Field CROP_OVF, bits 3 to 3, type W1C. -/
def INSP_OVF_CROP_OVF : FRef := ⟨0x70006C, 3, 1, 0⟩
/-- INSP_OVF, spec/08_inspection_calibration.md R384, offset 0x6C, 32 bits. Field DEF_OVF, bits 2 to 2, type W1C. -/
def INSP_OVF_DEF_OVF : FRef := ⟨0x70006C, 2, 1, 0⟩
/-- INSP_OVF, spec/08_inspection_calibration.md R384, offset 0x6C, 32 bits. Field TILE_OVF, bits 1 to 1, type W1C. -/
def INSP_OVF_TILE_OVF : FRef := ⟨0x70006C, 1, 1, 0⟩
/-- INSP_OVF, spec/08_inspection_calibration.md R384, offset 0x6C, 32 bits. Field FRAMES_OVF, bits 0 to 0, type W1C. -/
def INSP_OVF_FRAMES_OVF : FRef := ⟨0x70006C, 0, 1, 0⟩
/-- CAM_SET, spec/08_inspection_calibration.md R385, offset 0x100, 512 bits. Field LINE_PX, bits 15 to 0, type SH. -/
def CAM_SET_LINE_PX (b : Nat) : FRef := ⟨b + 0x100, 0, 16, 0⟩
/-- CAM_SET, spec/08_inspection_calibration.md R385, offset 0x100, 512 bits. Field FRAME_LINES, bits 31 to 16, type SH. -/
def CAM_SET_FRAME_LINES (b : Nat) : FRef := ⟨b + 0x100, 16, 16, 0⟩
/-- CAM_SET, spec/08_inspection_calibration.md R385, offset 0x100, 512 bits. Field CTX, bits 39 to 32, type SH. -/
def CAM_SET_CTX (b : Nat) : FRef := ⟨b + 0x100, 32, 8, 0⟩
/-- CAM_SET, spec/08_inspection_calibration.md R385, offset 0x100, 512 bits. Field TRIG_DIV, bits 47 to 40, type SH. -/
def CAM_SET_TRIG_DIV (b : Nat) : FRef := ⟨b + 0x100, 40, 8, 0⟩
/-- CAM_SET, spec/08_inspection_calibration.md R385, offset 0x100, 512 bits. Field TRIG_PHASE, bits 55 to 48, type SH. -/
def CAM_SET_TRIG_PHASE (b : Nat) : FRef := ⟨b + 0x100, 48, 8, 0⟩
/-- CAM_SET, spec/08_inspection_calibration.md R385, offset 0x100, 512 bits. Field CAM_ON, bits 56 to 56, type SH. -/
def CAM_SET_CAM_ON (b : Nat) : FRef := ⟨b + 0x100, 56, 1, 0⟩
/-- CAM_SET, spec/08_inspection_calibration.md R385, offset 0x100, 512 bits. Field RESEND_ON, bits 57 to 57, type SH. -/
def CAM_SET_RESEND_ON (b : Nat) : FRef := ⟨b + 0x100, 57, 1, 0⟩
/-- CAM_SET, spec/08_inspection_calibration.md R385, offset 0x100, 512 bits. Field EXPOSURE_NS, bits 95 to 64, type SH. -/
def CAM_SET_EXPOSURE_NS (b : Nat) : FRef := ⟨b + 0x100, 64, 32, 0⟩
/-- CAM_SET, spec/08_inspection_calibration.md R385, offset 0x100, 512 bits. Field CAM_DELAY_NS, bits 127 to 96, type SH. -/
def CAM_SET_CAM_DELAY_NS (b : Nat) : FRef := ⟨b + 0x100, 96, 32, 0⟩
/-- CAM_SET, spec/08_inspection_calibration.md R385, offset 0x100, 512 bits. Field D_CAM, bits 159 to 128, type SH. -/
def CAM_SET_D_CAM (b : Nat) : FRef := ⟨b + 0x100, 128, 32, 0⟩
/-- CAM_SET, spec/08_inspection_calibration.md R385, offset 0x100, 512 bits. Field CX0, bits 191 to 160, type SH. -/
def CAM_SET_CX0 (b : Nat) : FRef := ⟨b + 0x100, 160, 32, 0⟩
/-- CAM_SET, spec/08_inspection_calibration.md R385, offset 0x100, 512 bits. Field CXS, bits 223 to 192, type SH. -/
def CAM_SET_CXS (b : Nat) : FRef := ⟨b + 0x100, 192, 32, 0⟩
/-- CAM_SET, spec/08_inspection_calibration.md R385, offset 0x100, 512 bits. Field RESEND_US, bits 239 to 224, type SH. -/
def CAM_SET_RESEND_US (b : Nat) : FRef := ⟨b + 0x100, 224, 16, 0⟩
/-- CAM_CTRL, spec/08_inspection_calibration.md R386, offset 0x140, 32 bits. Field GPIO_OUT, bits 15 to 8, type RW. -/
def CAM_CTRL_GPIO_OUT (b : Nat) : FRef := ⟨b + 0x140, 8, 8, 0⟩
/-- CAM_CTRL, spec/08_inspection_calibration.md R386, offset 0x140, 32 bits. Field COMMIT, bits 0 to 0, type W1S. -/
def CAM_CTRL_COMMIT (b : Nat) : FRef := ⟨b + 0x140, 0, 1, 0⟩
/-- CAM_STATE, spec/08_inspection_calibration.md R386, offset 0x144, 32 bits. Field GEN, bits 31 to 16, type RO. -/
def CAM_STATE_GEN (b : Nat) : FRef := ⟨b + 0x144, 16, 16, 0⟩
/-- CAM_STATE, spec/08_inspection_calibration.md R386, offset 0x144, 32 bits. Field GPIO_IN, bits 15 to 8, type RO. -/
def CAM_STATE_GPIO_IN (b : Nat) : FRef := ⟨b + 0x144, 8, 8, 0⟩
/-- CAM_STATE, spec/08_inspection_calibration.md R386, offset 0x144, 32 bits. Field FRAME_OPEN, bits 1 to 1, type RO. -/
def CAM_STATE_FRAME_OPEN (b : Nat) : FRef := ⟨b + 0x144, 1, 1, 0⟩
/-- CAM_STATE, spec/08_inspection_calibration.md R386, offset 0x144, 32 bits. Field UP, bits 0 to 0, type RO. -/
def CAM_STATE_UP (b : Nat) : FRef := ⟨b + 0x144, 0, 1, 0⟩
/-- CAM_FRAME, spec/08_inspection_calibration.md R386, offset 0x148, 64 bits. Field FRAME, bits 47 to 0, type RO. -/
def CAM_FRAME_FRAME (b : Nat) : FRef := ⟨b + 0x148, 0, 48, 0⟩
/-- CAM_DXY, spec/08_inspection_calibration.md R386, offset 0x150, 32 bits. Field DY, bits 31 to 16, type RO. -/
def CAM_DXY_DY (b : Nat) : FRef := ⟨b + 0x150, 16, 16, 0⟩
/-- CAM_DXY, spec/08_inspection_calibration.md R386, offset 0x150, 32 bits. Field DX, bits 15 to 0, type RO. -/
def CAM_DXY_DX (b : Nat) : FRef := ⟨b + 0x150, 0, 16, 0⟩
/-- CAM_REG_CFG, spec/08_inspection_calibration.md R386, offset 0x154, 32 bits. Field REG_LOST, bits 31 to 16, type RW. -/
def CAM_REG_CFG_REG_LOST (b : Nat) : FRef := ⟨b + 0x154, 16, 16, 0x400⟩
/-- CAM_REG_CFG, spec/08_inspection_calibration.md R386, offset 0x154, 32 bits. Field REG_SLEW, bits 15 to 8, type RW. -/
def CAM_REG_CFG_REG_SLEW (b : Nat) : FRef := ⟨b + 0x154, 8, 8, 0x10⟩
/-- CAM_REG_MIN, spec/08_inspection_calibration.md R386, offset 0x158, 32 bits. Field REG_MIN, bits 31 to 0, type RW. -/
def CAM_REG_MIN_REG_MIN (b : Nat) : FRef := ⟨b + 0x158, 0, 32, 0x100⟩
/-- CAM_LINES, spec/08_inspection_calibration.md R386, offset 0x160, 64 bits. Field COUNT, bits 63 to 0, type SAT. -/
def CAM_LINES_COUNT (b : Nat) : FRef := ⟨b + 0x160, 0, 64, 0⟩
/-- CAM_CRC, spec/08_inspection_calibration.md R386, offset 0x168, 32 bits. Field COUNT, bits 31 to 0, type SAT. -/
def CAM_CRC_COUNT (b : Nat) : FRef := ⟨b + 0x168, 0, 32, 0⟩
/-- CAM_RESENT, spec/08_inspection_calibration.md R386, offset 0x16C, 32 bits. Field COUNT, bits 31 to 0, type SAT. -/
def CAM_RESENT_COUNT (b : Nat) : FRef := ⟨b + 0x16C, 0, 32, 0⟩
/-- CAM_ERR, spec/08_inspection_calibration.md R386, offset 0x170, 32 bits. Field SHORT, bits 31 to 24, type SAT. -/
def CAM_ERR_SHORT (b : Nat) : FRef := ⟨b + 0x170, 24, 8, 0⟩
/-- CAM_ERR, spec/08_inspection_calibration.md R386, offset 0x170, 32 bits. Field LONG, bits 23 to 16, type SAT. -/
def CAM_ERR_LONG (b : Nat) : FRef := ⟨b + 0x170, 16, 8, 0⟩
/-- CAM_ERR, spec/08_inspection_calibration.md R386, offset 0x170, 32 bits. Field PAD, bits 15 to 8, type SAT. -/
def CAM_ERR_PAD (b : Nat) : FRef := ⟨b + 0x170, 8, 8, 0⟩
/-- CAM_ERR, spec/08_inspection_calibration.md R386, offset 0x170, 32 bits. Field OVERRUN, bits 7 to 0, type SAT. -/
def CAM_ERR_OVERRUN (b : Nat) : FRef := ⟨b + 0x170, 0, 8, 0⟩
/-- CAM_OVF, spec/08_inspection_calibration.md R386, offset 0x174, 32 bits. Field OVERRUN_OVF, bits 6 to 6, type W1C. -/
def CAM_OVF_OVERRUN_OVF (b : Nat) : FRef := ⟨b + 0x174, 6, 1, 0⟩
/-- CAM_OVF, spec/08_inspection_calibration.md R386, offset 0x174, 32 bits. Field PAD_OVF, bits 5 to 5, type W1C. -/
def CAM_OVF_PAD_OVF (b : Nat) : FRef := ⟨b + 0x174, 5, 1, 0⟩
/-- CAM_OVF, spec/08_inspection_calibration.md R386, offset 0x174, 32 bits. Field LONG_OVF, bits 4 to 4, type W1C. -/
def CAM_OVF_LONG_OVF (b : Nat) : FRef := ⟨b + 0x174, 4, 1, 0⟩
/-- CAM_OVF, spec/08_inspection_calibration.md R386, offset 0x174, 32 bits. Field SHORT_OVF, bits 3 to 3, type W1C. -/
def CAM_OVF_SHORT_OVF (b : Nat) : FRef := ⟨b + 0x174, 3, 1, 0⟩
/-- CAM_OVF, spec/08_inspection_calibration.md R386, offset 0x174, 32 bits. Field RESENT_OVF, bits 2 to 2, type W1C. -/
def CAM_OVF_RESENT_OVF (b : Nat) : FRef := ⟨b + 0x174, 2, 1, 0⟩
/-- CAM_OVF, spec/08_inspection_calibration.md R386, offset 0x174, 32 bits. Field CRC_OVF, bits 1 to 1, type W1C. -/
def CAM_OVF_CRC_OVF (b : Nat) : FRef := ⟨b + 0x174, 1, 1, 0⟩
/-- CAM_OVF, spec/08_inspection_calibration.md R386, offset 0x174, 32 bits. Field LINES_OVF, bits 0 to 0, type W1C. -/
def CAM_OVF_LINES_OVF (b : Nat) : FRef := ⟨b + 0x174, 0, 1, 0⟩
/-- CAL_CFG, spec/08_inspection_calibration.md R387, offset 0x40, 32 bits. Field WIN_LOG2, bits 20 to 16, type RW. -/
def CAL_CFG_WIN_LOG2 : FRef := ⟨0x800040, 16, 5, 0x10⟩
/-- CAL_CFG, spec/08_inspection_calibration.md R387, offset 0x40, 32 bits. Field POLICY, bits 9 to 8, type RO. -/
def CAL_CFG_POLICY : FRef := ⟨0x800040, 8, 2, 1⟩
/-- CAL_CFG, spec/08_inspection_calibration.md R387, offset 0x40, 32 bits. Field CTX, bits 7 to 0, type RW. -/
def CAL_CFG_CTX : FRef := ⟨0x800040, 0, 8, 0⟩
/-- CAL_REGION, spec/08_inspection_calibration.md R387, offset 0x48, 64 bits. Field ADDR, bits 35 to 16, type RW. -/
def CAL_REGION_ADDR : FRef := ⟨0x800048, 16, 20, 0⟩
/-- CAL_DENS, spec/08_inspection_calibration.md R387, offset 0x50, 32 bits. Field DENS_STEP, bits 31 to 16, type RW. -/
def CAL_DENS_DENS_STEP : FRef := ⟨0x800050, 16, 16, 0x7AE⟩
/-- CAL_DENS, spec/08_inspection_calibration.md R387, offset 0x50, 32 bits. Field DENS_AGREE, bits 15 to 0, type RW. -/
def CAL_DENS_DENS_AGREE : FRef := ⟨0x800050, 0, 16, 0x106⟩
/-- CAL_DENS2, spec/08_inspection_calibration.md R387, offset 0x54, 32 bits. Field STALE_WIN, bits 31 to 24, type RW. -/
def CAL_DENS2_STALE_WIN : FRef := ⟨0x800054, 24, 8, 0x10⟩
/-- CAL_DENS2, spec/08_inspection_calibration.md R387, offset 0x54, 32 bits. Field DENS_DEAD, bits 23 to 16, type RW. -/
def CAL_DENS2_DENS_DEAD : FRef := ⟨0x800054, 16, 8, 0x10⟩
/-- CAL_DENS2, spec/08_inspection_calibration.md R387, offset 0x54, 32 bits. Field DENS_LIMIT, bits 15 to 0, type RW. -/
def CAL_DENS2_DENS_LIMIT : FRef := ⟨0x800054, 0, 16, 0x2000⟩
/-- CAL_MIN, spec/08_inspection_calibration.md R387, offset 0x58, 32 bits. Field RD_MIN, bits 31 to 16, type RW. -/
def CAL_MIN_RD_MIN : FRef := ⟨0x800058, 16, 16, 0x100⟩
/-- CAL_MIN, spec/08_inspection_calibration.md R387, offset 0x58, 32 bits. Field DENS_MIN_W, bits 15 to 0, type RW. -/
def CAL_MIN_DENS_MIN_W : FRef := ⟨0x800058, 0, 16, 0x1000⟩
/-- CAL_ROW, spec/08_inspection_calibration.md R387, offset 0x5C, 32 bits. Field RD_LIMIT, bits 31 to 16, type RW. -/
def CAL_ROW_RD_LIMIT : FRef := ⟨0x80005C, 16, 16, 0x200⟩
/-- CAL_ROW, spec/08_inspection_calibration.md R387, offset 0x5C, 32 bits. Field RD_STEP, bits 15 to 8, type RW. -/
def CAL_ROW_RD_STEP : FRef := ⟨0x80005C, 8, 8, 0x20⟩
/-- CAL_ROW, spec/08_inspection_calibration.md R387, offset 0x5C, 32 bits. Field RD_AGREE, bits 7 to 0, type RW. -/
def CAL_ROW_RD_AGREE : FRef := ⟨0x80005C, 0, 8, 4⟩
/-- CAL_ANCHOR_CFG, spec/08_inspection_calibration.md R387, offset 0x60, 32 bits. Field ANCHOR_LIMIT, bits 15 to 0, type RW. -/
def CAL_ANCHOR_CFG_ANCHOR_LIMIT : FRef := ⟨0x800060, 0, 16, 0x400⟩
/-- CAL_WINDOW, spec/08_inspection_calibration.md R387, offset 0x68, 64 bits. Field K, bits 63 to 0, type RO. -/
def CAL_WINDOW_K : FRef := ⟨0x800068, 0, 64, 0⟩
/-- CAL_ANCHOR, spec/08_inspection_calibration.md R387, offset 0x80 + n × 0x4, 32 bits. Field ANCHOR, bits 15 to 0, type RO. -/
def CAL_ANCHOR_ANCHOR (n : Nat) : FRef := ⟨0x800080 + 0x4 * n, 0, 16, 0⟩
/-- CAL_ACCEPTED, spec/08_inspection_calibration.md R387, offset 0xA0, 32 bits. Field COUNT, bits 31 to 0, type SAT. -/
def CAL_ACCEPTED_COUNT : FRef := ⟨0x8000A0, 0, 32, 0⟩
/-- CAL_DISAGREED, spec/08_inspection_calibration.md R387, offset 0xA4, 32 bits. Field COUNT, bits 31 to 0, type SAT. -/
def CAL_DISAGREED_COUNT : FRef := ⟨0x8000A4, 0, 32, 0⟩
/-- CAL_APPLIED, spec/08_inspection_calibration.md R387, offset 0xA8, 32 bits. Field COUNT, bits 31 to 0, type SAT. -/
def CAL_APPLIED_COUNT : FRef := ⟨0x8000A8, 0, 32, 0⟩
/-- CAL_PROP_LOST, spec/08_inspection_calibration.md R387, offset 0xAC, 32 bits. Field COUNT, bits 31 to 0, type SAT. -/
def CAL_PROP_LOST_COUNT : FRef := ⟨0x8000AC, 0, 32, 0⟩
/-- CAL_OVF, spec/08_inspection_calibration.md R387, offset 0xB0, 32 bits. Field LOST_OVF, bits 3 to 3, type W1C. -/
def CAL_OVF_LOST_OVF : FRef := ⟨0x8000B0, 3, 1, 0⟩
/-- CAL_OVF, spec/08_inspection_calibration.md R387, offset 0xB0, 32 bits. Field APPLIED_OVF, bits 2 to 2, type W1C. -/
def CAL_OVF_APPLIED_OVF : FRef := ⟨0x8000B0, 2, 1, 0⟩
/-- CAL_OVF, spec/08_inspection_calibration.md R387, offset 0xB0, 32 bits. Field DISAGREED_OVF, bits 1 to 1, type W1C. -/
def CAL_OVF_DISAGREED_OVF : FRef := ⟨0x8000B0, 1, 1, 0⟩
/-- CAL_OVF, spec/08_inspection_calibration.md R387, offset 0xB0, 32 bits. Field ACCEPTED_OVF, bits 0 to 0, type W1C. -/
def CAL_OVF_ACCEPTED_OVF : FRef := ⟨0x8000B0, 0, 1, 0⟩
/-- MEM_CFG, spec/09_memory_protection.md R434, offset 0x40, 32 bits. Field SCRUB_H, bits 31 to 24, type RW. -/
def MEM_CFG_SCRUB_H : FRef := ⟨0x900040, 24, 8, 0x18⟩
/-- MEM_CFG, spec/09_memory_protection.md R434, offset 0x40, 32 bits. Field SR_IDLE, bits 23 to 16, type RW. -/
def MEM_CFG_SR_IDLE : FRef := ⟨0x900040, 16, 8, 0⟩
/-- MEM_CFG, spec/09_memory_protection.md R434, offset 0x40, 32 bits. Field NR_LOG2, bits 12 to 8, type RW. -/
def MEM_CFG_NR_LOG2 : FRef := ⟨0x900040, 8, 5, 0xB⟩
/-- MEM_CFG, spec/09_memory_protection.md R434, offset 0x40, 32 bits. Field AGE_LIMIT, bits 6 to 0, type RW. -/
def MEM_CFG_AGE_LIMIT : FRef := ⟨0x900040, 0, 7, 0x10⟩
/-- MEM_HOST_RATE, spec/09_memory_protection.md R434, offset 0x44, 32 bits. Field BURST_MIB, bits 23 to 16, type RW. -/
def MEM_HOST_RATE_BURST_MIB : FRef := ⟨0x900044, 16, 8, 4⟩
/-- MEM_HOST_RATE, spec/09_memory_protection.md R434, offset 0x44, 32 bits. Field RATE_GBS, bits 7 to 0, type RW. -/
def MEM_HOST_RATE_RATE_GBS : FRef := ⟨0x900044, 0, 8, 0x18⟩
/-- MEM_STOP_CFG, spec/09_memory_protection.md R434, offset 0x48, 32 bits. Field STOP_LINES, bits 15 to 0, type RW. -/
def MEM_STOP_CFG_STOP_LINES : FRef := ⟨0x900048, 0, 16, 0⟩
/-- MEM_STATE, spec/09_memory_protection.md R434, offset 0x4C, 32 bits. Field ZERO_DONE, bits 16 to 16, type RO. -/
def MEM_STATE_ZERO_DONE : FRef := ⟨0x90004C, 16, 1, 0⟩
/-- MEM_STATE, spec/09_memory_protection.md R434, offset 0x4C, 32 bits. Field HOT, bits 15 to 12, type RO. -/
def MEM_STATE_HOT : FRef := ⟨0x90004C, 12, 4, 0⟩
/-- MEM_STATE, spec/09_memory_protection.md R434, offset 0x4C, 32 bits. Field SELF_REFRESH, bits 11 to 8, type RO. -/
def MEM_STATE_SELF_REFRESH : FRef := ⟨0x90004C, 8, 4, 0⟩
/-- MEM_STATE, spec/09_memory_protection.md R434, offset 0x4C, 32 bits. Field TRAINED, bits 7 to 4, type RO. -/
def MEM_STATE_TRAINED : FRef := ⟨0x90004C, 4, 4, 0⟩
/-- MEM_STATE, spec/09_memory_protection.md R434, offset 0x4C, 32 bits. Field POPULATED, bits 3 to 0, type RO. -/
def MEM_STATE_POPULATED : FRef := ⟨0x90004C, 0, 4, 0⟩
/-- MEM_CLS0_WORST, spec/09_memory_protection.md R434, offset 0x50, 32 bits. Field NS, bits 31 to 0, type RC. -/
def MEM_CLS0_WORST_NS : FRef := ⟨0x900050, 0, 32, 0⟩
/-- MEM_RETIRED, spec/09_memory_protection.md R434, offset 0x54, 32 bits. Field COUNT, bits 12 to 0, type RO. -/
def MEM_RETIRED_COUNT : FRef := ⟨0x900054, 0, 13, 0⟩
/-- MEM_CE, spec/09_memory_protection.md R434, offset 0x58, 64 bits. Field COUNT, bits 63 to 0, type SAT. -/
def MEM_CE_COUNT : FRef := ⟨0x900058, 0, 64, 0⟩
/-- MEM_NR, spec/09_memory_protection.md R434, offset 0x60, 64 bits. Field COUNT, bits 63 to 0, type SAT. -/
def MEM_NR_COUNT : FRef := ⟨0x900060, 0, 64, 0⟩
/-- MEM_UE, spec/09_memory_protection.md R434, offset 0x68, 32 bits. Field COUNT, bits 31 to 0, type SAT. -/
def MEM_UE_COUNT : FRef := ⟨0x900068, 0, 32, 0⟩
/-- MEM_POISON_USE, spec/09_memory_protection.md R434, offset 0x6C, 32 bits. Field COUNT, bits 31 to 0, type SAT. -/
def MEM_POISON_USE_COUNT : FRef := ⟨0x90006C, 0, 32, 0⟩
/-- MEM_PROMOTED, spec/09_memory_protection.md R434, offset 0x70, 32 bits. Field COUNT, bits 31 to 0, type SAT. -/
def MEM_PROMOTED_COUNT : FRef := ⟨0x900070, 0, 32, 0⟩
/-- MEM_UNDERRUN, spec/09_memory_protection.md R434, offset 0x74, 32 bits. Field COUNT, bits 31 to 0, type SAT. -/
def MEM_UNDERRUN_COUNT : FRef := ⟨0x900074, 0, 32, 0⟩
/-- MEM_LOG_LOST, spec/09_memory_protection.md R434, offset 0x78, 32 bits. Field COUNT, bits 31 to 0, type SAT. -/
def MEM_LOG_LOST_COUNT : FRef := ⟨0x900078, 0, 32, 0⟩
/-- MEM_OVF, spec/09_memory_protection.md R434, offset 0x7C, 32 bits. Field LOST_OVF, bits 6 to 6, type W1C. -/
def MEM_OVF_LOST_OVF : FRef := ⟨0x90007C, 6, 1, 0⟩
/-- MEM_OVF, spec/09_memory_protection.md R434, offset 0x7C, 32 bits. Field UNDERRUN_OVF, bits 5 to 5, type W1C. -/
def MEM_OVF_UNDERRUN_OVF : FRef := ⟨0x90007C, 5, 1, 0⟩
/-- MEM_OVF, spec/09_memory_protection.md R434, offset 0x7C, 32 bits. Field PROMOTED_OVF, bits 4 to 4, type W1C. -/
def MEM_OVF_PROMOTED_OVF : FRef := ⟨0x90007C, 4, 1, 0⟩
/-- MEM_OVF, spec/09_memory_protection.md R434, offset 0x7C, 32 bits. Field POISON_OVF, bits 3 to 3, type W1C. -/
def MEM_OVF_POISON_OVF : FRef := ⟨0x90007C, 3, 1, 0⟩
/-- MEM_OVF, spec/09_memory_protection.md R434, offset 0x7C, 32 bits. Field UE_OVF, bits 2 to 2, type W1C. -/
def MEM_OVF_UE_OVF : FRef := ⟨0x90007C, 2, 1, 0⟩
/-- MEM_OVF, spec/09_memory_protection.md R434, offset 0x7C, 32 bits. Field NR_OVF, bits 1 to 1, type W1C. -/
def MEM_OVF_NR_OVF : FRef := ⟨0x90007C, 1, 1, 0⟩
/-- MEM_OVF, spec/09_memory_protection.md R434, offset 0x7C, 32 bits. Field CE_OVF, bits 0 to 0, type W1C. -/
def MEM_OVF_CE_OVF : FRef := ⟨0x90007C, 0, 1, 0⟩
/-- MEM_TEST, spec/09_memory_protection.md R434, offset 0x80, 32 bits. Field INJ_CH, bits 17 to 16, type RW. -/
def MEM_TEST_INJ_CH : FRef := ⟨0x900080, 16, 2, 0⟩
/-- MEM_TEST, spec/09_memory_protection.md R434, offset 0x80, 32 bits. Field INJECT, bits 9 to 8, type RW. -/
def MEM_TEST_INJECT : FRef := ⟨0x900080, 8, 2, 0⟩
/-- MEM_TEST, spec/09_memory_protection.md R434, offset 0x80, 32 bits. Field REF_OFF, bits 0 to 0, type RW. -/
def MEM_TEST_REF_OFF : FRef := ⟨0x900080, 0, 1, 0⟩
/-- GRAN_CFG, spec/09_memory_protection.md R434, offset 0x90, 32 bits. Field ROT_S, bits 15 to 8, type RW. -/
def GRAN_CFG_ROT_S : FRef := ⟨0x900090, 8, 8, 0x3C⟩
/-- GRAN_CFG, spec/09_memory_protection.md R434, offset 0x90, 32 bits. Field ROT_EN, bits 0 to 0, type RW. -/
def GRAN_CFG_ROT_EN : FRef := ⟨0x900090, 0, 1, 1⟩
/-- GRAN_STATE, spec/09_memory_protection.md R434, offset 0x94, 32 bits. Field FENCED, bits 13 to 8, type RO. -/
def GRAN_STATE_FENCED : FRef := ⟨0x900094, 8, 6, 0x3F⟩
/-- GRAN_STATE, spec/09_memory_protection.md R434, offset 0x94, 32 bits. Field DEGRADED, bits 7 to 7, type RO. -/
def GRAN_STATE_DEGRADED : FRef := ⟨0x900094, 7, 1, 0⟩
/-- GRAN_STATE, spec/09_memory_protection.md R434, offset 0x94, 32 bits. Field PERMANENT, bits 6 to 6, type RO. -/
def GRAN_STATE_PERMANENT : FRef := ⟨0x900094, 6, 1, 0⟩
/-- GRAN_STATE, spec/09_memory_protection.md R434, offset 0x94, 32 bits. Field SPARE, bits 5 to 0, type RO. -/
def GRAN_STATE_SPARE : FRef := ⟨0x900094, 0, 6, 0x30⟩
/-- GRAN_PARITY, spec/09_memory_protection.md R434, offset 0x98, 32 bits. Field COUNT, bits 31 to 0, type SAT. -/
def GRAN_PARITY_COUNT : FRef := ⟨0x900098, 0, 32, 0⟩
/-- GRAN_REPLAY_FAIL, spec/09_memory_protection.md R434, offset 0x9C, 32 bits. Field COUNT, bits 31 to 0, type SAT. -/
def GRAN_REPLAY_FAIL_COUNT : FRef := ⟨0x90009C, 0, 32, 0⟩
/-- GRAN_OVF, spec/09_memory_protection.md R434, offset 0xA0, 32 bits. Field FAIL_OVF, bits 1 to 1, type W1C. -/
def GRAN_OVF_FAIL_OVF : FRef := ⟨0x9000A0, 1, 1, 0⟩
/-- GRAN_OVF, spec/09_memory_protection.md R434, offset 0xA0, 32 bits. Field PARITY_OVF, bits 0 to 0, type W1C. -/
def GRAN_OVF_PARITY_OVF : FRef := ⟨0x9000A0, 0, 1, 0⟩
/-- MEM_CH_CFG, spec/09_memory_protection.md R434, offset 0x100 + n × 0x20, 32 bits. Field TRFC_NS, bits 24 to 16, type RO. -/
def MEM_CH_CFG_TRFC_NS (n : Nat) : FRef := ⟨0x900100 + 0x20 * n, 16, 9, 0⟩
/-- MEM_CH_CFG, spec/09_memory_protection.md R434, offset 0x100 + n × 0x20, 32 bits. Field CAP_GIB, bits 15 to 8, type RO. -/
def MEM_CH_CFG_CAP_GIB (n : Nat) : FRef := ⟨0x900100 + 0x20 * n, 8, 8, 0⟩
/-- MEM_CH_CFG, spec/09_memory_protection.md R434, offset 0x100 + n × 0x20, 32 bits. Field DENSITY, bits 1 to 1, type RO. -/
def MEM_CH_CFG_DENSITY (n : Nat) : FRef := ⟨0x900100 + 0x20 * n, 1, 1, 0⟩
/-- MEM_CH_CFG, spec/09_memory_protection.md R434, offset 0x100 + n × 0x20, 32 bits. Field POPULATED, bits 0 to 0, type RO. -/
def MEM_CH_CFG_POPULATED (n : Nat) : FRef := ⟨0x900100 + 0x20 * n, 0, 1, 0⟩
/-- MEM_CH_STATUS, spec/09_memory_protection.md R434, offset 0x104 + n × 0x20, 32 bits. Field REMAP_USED, bits 8 to 3, type RO. -/
def MEM_CH_STATUS_REMAP_USED (n : Nat) : FRef := ⟨0x900104 + 0x20 * n, 3, 6, 0⟩
/-- MEM_CH_STATUS, spec/09_memory_protection.md R434, offset 0x104 + n × 0x20, 32 bits. Field HOT, bits 2 to 2, type RO. -/
def MEM_CH_STATUS_HOT (n : Nat) : FRef := ⟨0x900104 + 0x20 * n, 2, 1, 0⟩
/-- MEM_CH_STATUS, spec/09_memory_protection.md R434, offset 0x104 + n × 0x20, 32 bits. Field SELF_REFRESH, bits 1 to 1, type RO. -/
def MEM_CH_STATUS_SELF_REFRESH (n : Nat) : FRef := ⟨0x900104 + 0x20 * n, 1, 1, 0⟩
/-- MEM_CH_STATUS, spec/09_memory_protection.md R434, offset 0x104 + n × 0x20, 32 bits. Field TRAINED, bits 0 to 0, type RO. -/
def MEM_CH_STATUS_TRAINED (n : Nat) : FRef := ⟨0x900104 + 0x20 * n, 0, 1, 0⟩
/-- MEM_CH_EYE, spec/09_memory_protection.md R434, offset 0x108 + n × 0x20, 32 bits. Field WRITE_PS, bits 31 to 16, type RO. -/
def MEM_CH_EYE_WRITE_PS (n : Nat) : FRef := ⟨0x900108 + 0x20 * n, 16, 16, 0⟩
/-- MEM_CH_EYE, spec/09_memory_protection.md R434, offset 0x108 + n × 0x20, 32 bits. Field READ_PS, bits 15 to 0, type RO. -/
def MEM_CH_EYE_READ_PS (n : Nat) : FRef := ⟨0x900108 + 0x20 * n, 0, 16, 0⟩
/-- TIME_PTP, spec/10_time_network.md R466, offset 0x40, 32 bits. Field TWO_STEP, bits 18 to 18, type RO. -/
def TIME_PTP_TWO_STEP : FRef := ⟨0xA00040, 18, 1, 0⟩
/-- TIME_PTP, spec/10_time_network.md R466, offset 0x40, 32 bits. Field UDP, bits 17 to 17, type RO. -/
def TIME_PTP_UDP : FRef := ⟨0xA00040, 17, 1, 0⟩
/-- TIME_PTP, spec/10_time_network.md R466, offset 0x40, 32 bits. Field P2P, bits 16 to 16, type RO. -/
def TIME_PTP_P2P : FRef := ⟨0xA00040, 16, 1, 0⟩
/-- TIME_PTP, spec/10_time_network.md R466, offset 0x40, 32 bits. Field DOMAIN, bits 15 to 8, type RO. -/
def TIME_PTP_DOMAIN : FRef := ⟨0xA00040, 8, 8, 0⟩
/-- TIME_PTP, spec/10_time_network.md R466, offset 0x40, 32 bits. Field BASE, bits 3 to 2, type RO. -/
def TIME_PTP_BASE : FRef := ⟨0xA00040, 2, 2, 0⟩
/-- TIME_PTP, spec/10_time_network.md R466, offset 0x40, 32 bits. Field CLOCK, bits 1 to 0, type RO. -/
def TIME_PTP_CLOCK : FRef := ⟨0xA00040, 0, 2, 0⟩
/-- TB_STATE, spec/10_time_network.md R466, offset 0x100 + n × 0x20, 32 bits. Field UTC_OFFSET, bits 31 to 16, type RO. -/
def TB_STATE_UTC_OFFSET (n : Nat) : FRef := ⟨0xA00100 + 0x20 * n, 16, 16, 0⟩
/-- TB_STATE, spec/10_time_network.md R466, offset 0x100 + n × 0x20, 32 bits. Field HOLDOVER, bits 3 to 3, type RO. -/
def TB_STATE_HOLDOVER (n : Nat) : FRef := ⟨0xA00100 + 0x20 * n, 3, 1, 0⟩
/-- TB_STATE, spec/10_time_network.md R466, offset 0x100 + n × 0x20, 32 bits. Field SYNCED, bits 2 to 2, type RO. -/
def TB_STATE_SYNCED (n : Nat) : FRef := ⟨0xA00100 + 0x20 * n, 2, 1, 0⟩
/-- TB_STATE, spec/10_time_network.md R466, offset 0x100 + n × 0x20, 32 bits. Field SOURCE, bits 1 to 0, type RO. -/
def TB_STATE_SOURCE (n : Nat) : FRef := ⟨0xA00100 + 0x20 * n, 0, 2, 0⟩
/-- TB_RATE, spec/10_time_network.md R466, offset 0x104 + n × 0x20, 32 bits. Field RATE, bits 31 to 0, type RW. -/
def TB_RATE_RATE (n : Nat) : FRef := ⟨0xA00104 + 0x20 * n, 0, 32, 0⟩
/-- TB_SET_SEC, spec/10_time_network.md R466, offset 0x108 + n × 0x20, 64 bits. Field SEC, bits 47 to 0, type RW. -/
def TB_SET_SEC_SEC (n : Nat) : FRef := ⟨0xA00108 + 0x20 * n, 0, 48, 0⟩
/-- TB_SET_NS, spec/10_time_network.md R466, offset 0x110 + n × 0x20, 32 bits. Field NS, bits 31 to 0, type RW. -/
def TB_SET_NS_NS (n : Nat) : FRef := ⟨0xA00110 + 0x20 * n, 0, 32, 0⟩
/-- TB_CTRL, spec/10_time_network.md R466, offset 0x114 + n × 0x20, 32 bits. Field SET, bits 0 to 0, type W1S. -/
def TB_CTRL_SET (n : Nat) : FRef := ⟨0xA00114 + 0x20 * n, 0, 1, 0⟩
/-- TB_OFFSET, spec/10_time_network.md R466, offset 0x118 + n × 0x20, 32 bits. Field OFFSET, bits 31 to 0, type RO. -/
def TB_OFFSET_OFFSET (n : Nat) : FRef := ⟨0xA00118 + 0x20 * n, 0, 32, 0⟩
/-- TB_STEPS, spec/10_time_network.md R466, offset 0x11C + n × 0x20, 32 bits. Field STEPS_OVF, bits 31 to 31, type W1C. -/
def TB_STEPS_STEPS_OVF (n : Nat) : FRef := ⟨0xA0011C + 0x20 * n, 31, 1, 0⟩
/-- TB_STEPS, spec/10_time_network.md R466, offset 0x11C + n × 0x20, 32 bits. Field COUNT, bits 30 to 0, type SAT. -/
def TB_STEPS_COUNT (n : Nat) : FRef := ⟨0xA0011C + 0x20 * n, 0, 31, 0⟩
/-- ETH_MAC, spec/10_time_network.md R466, offset 0x200 + n × 0x80, 64 bits. Field ADDR, bits 47 to 0, type RO. -/
def ETH_MAC_ADDR (n : Nat) : FRef := ⟨0xA00200 + 0x80 * n, 0, 48, 0⟩
/-- ETH_TS_CORR, spec/10_time_network.md R466, offset 0x208 + n × 0x80, 32 bits. Field RX_DELAY, bits 31 to 16, type RW. -/
def ETH_TS_CORR_RX_DELAY (n : Nat) : FRef := ⟨0xA00208 + 0x80 * n, 16, 16, 0⟩
/-- ETH_TS_CORR, spec/10_time_network.md R466, offset 0x208 + n × 0x80, 32 bits. Field TX_DELAY, bits 15 to 0, type RW. -/
def ETH_TS_CORR_TX_DELAY (n : Nat) : FRef := ⟨0xA00208 + 0x80 * n, 0, 16, 0⟩
/-- ETH_ASYM, spec/10_time_network.md R466, offset 0x20C + n × 0x80, 32 bits. Field ASYM, bits 31 to 0, type RW. -/
def ETH_ASYM_ASYM (n : Nat) : FRef := ⟨0xA0020C + 0x80 * n, 0, 32, 0⟩
/-- ETH_STATE, spec/10_time_network.md R466, offset 0x210 + n × 0x80, 32 bits. Field LINK_UP, bits 4 to 4, type RO. -/
def ETH_STATE_LINK_UP (n : Nat) : FRef := ⟨0xA00210 + 0x80 * n, 4, 1, 0⟩
/-- ETH_STATE, spec/10_time_network.md R466, offset 0x210 + n × 0x80, 32 bits. Field PORT_STATE, bits 3 to 0, type RO. -/
def ETH_STATE_PORT_STATE (n : Nat) : FRef := ⟨0xA00210 + 0x80 * n, 0, 4, 3⟩
/-- ETH_MPD, spec/10_time_network.md R466, offset 0x214 + n × 0x80, 32 bits. Field DELAY, bits 31 to 0, type RO. -/
def ETH_MPD_DELAY (n : Nat) : FRef := ⟨0xA00214 + 0x80 * n, 0, 32, 0⟩
/-- ETH_RX_PTP, spec/10_time_network.md R466, offset 0x218 + n × 0x80, 32 bits. Field COUNT, bits 31 to 0, type SAT. -/
def ETH_RX_PTP_COUNT (n : Nat) : FRef := ⟨0xA00218 + 0x80 * n, 0, 32, 0⟩
/-- ETH_TX_PTP, spec/10_time_network.md R466, offset 0x21C + n × 0x80, 32 bits. Field COUNT, bits 31 to 0, type SAT. -/
def ETH_TX_PTP_COUNT (n : Nat) : FRef := ⟨0xA0021C + 0x80 * n, 0, 32, 0⟩
/-- ETH_DISCARD, spec/10_time_network.md R466, offset 0x220 + n × 0x80, 32 bits. Field COUNT, bits 31 to 0, type SAT. -/
def ETH_DISCARD_COUNT (n : Nat) : FRef := ⟨0xA00220 + 0x80 * n, 0, 32, 0⟩
/-- ETH_OUTLIER, spec/10_time_network.md R466, offset 0x224 + n × 0x80, 32 bits. Field COUNT, bits 31 to 0, type SAT. -/
def ETH_OUTLIER_COUNT (n : Nat) : FRef := ⟨0xA00224 + 0x80 * n, 0, 32, 0⟩
/-- ETH_OVF, spec/10_time_network.md R466, offset 0x228 + n × 0x80, 32 bits. Field OUTLIER_OVF, bits 3 to 3, type W1C. -/
def ETH_OVF_OUTLIER_OVF (n : Nat) : FRef := ⟨0xA00228 + 0x80 * n, 3, 1, 0⟩
/-- ETH_OVF, spec/10_time_network.md R466, offset 0x228 + n × 0x80, 32 bits. Field DISCARD_OVF, bits 2 to 2, type W1C. -/
def ETH_OVF_DISCARD_OVF (n : Nat) : FRef := ⟨0xA00228 + 0x80 * n, 2, 1, 0⟩
/-- ETH_OVF, spec/10_time_network.md R466, offset 0x228 + n × 0x80, 32 bits. Field TX_OVF, bits 1 to 1, type W1C. -/
def ETH_OVF_TX_OVF (n : Nat) : FRef := ⟨0xA00228 + 0x80 * n, 1, 1, 0⟩
/-- ETH_OVF, spec/10_time_network.md R466, offset 0x228 + n × 0x80, 32 bits. Field RX_OVF, bits 0 to 0, type W1C. -/
def ETH_OVF_RX_OVF (n : Nat) : FRef := ⟨0xA00228 + 0x80 * n, 0, 1, 0⟩
/-- PLS_CFG, spec/10_time_network.md R466, offset 0x400 + n × 0x10, 32 bits. Field ARMED, bits 6 to 6, type RO. -/
def PLS_CFG_ARMED (n : Nat) : FRef := ⟨0xA00400 + 0x10 * n, 6, 1, 0⟩
/-- PLS_CFG, spec/10_time_network.md R466, offset 0x400 + n × 0x10, 32 bits. Field BASE, bits 5 to 4, type RO. -/
def PLS_CFG_BASE (n : Nat) : FRef := ⟨0xA00400 + 0x10 * n, 4, 2, 0⟩
/-- PLS_CFG, spec/10_time_network.md R466, offset 0x400 + n × 0x10, 32 bits. Field REQUIRE_SYNC, bits 3 to 3, type RW. -/
def PLS_CFG_REQUIRE_SYNC (n : Nat) : FRef := ⟨0xA00400 + 0x10 * n, 3, 1, 0⟩
/-- PLS_CFG, spec/10_time_network.md R466, offset 0x400 + n × 0x10, 32 bits. Field POLARITY, bits 2 to 2, type RW. -/
def PLS_CFG_POLARITY (n : Nat) : FRef := ⟨0xA00400 + 0x10 * n, 2, 1, 0⟩
/-- PLS_CFG, spec/10_time_network.md R466, offset 0x400 + n × 0x10, 32 bits. Field DRIVE, bits 1 to 1, type RW. -/
def PLS_CFG_DRIVE (n : Nat) : FRef := ⟨0xA00400 + 0x10 * n, 1, 1, 0⟩
/-- PLS_COUNT, spec/10_time_network.md R466, offset 0x404 + n × 0x10, 32 bits. Field COUNT, bits 31 to 0, type SAT. -/
def PLS_COUNT_COUNT (n : Nat) : FRef := ⟨0xA00404 + 0x10 * n, 0, 32, 0⟩
/-- PLS_SKIP, spec/10_time_network.md R466, offset 0x408 + n × 0x10, 32 bits. Field COUNT, bits 31 to 0, type SAT. -/
def PLS_SKIP_COUNT (n : Nat) : FRef := ⟨0xA00408 + 0x10 * n, 0, 32, 0⟩
/-- PLS_OVF, spec/10_time_network.md R466, offset 0x40C + n × 0x10, 32 bits. Field SKIP_OVF, bits 1 to 1, type W1C. -/
def PLS_OVF_SKIP_OVF (n : Nat) : FRef := ⟨0xA0040C + 0x10 * n, 1, 1, 0⟩
/-- PLS_OVF, spec/10_time_network.md R466, offset 0x40C + n × 0x10, 32 bits. Field COUNT_OVF, bits 0 to 0, type W1C. -/
def PLS_OVF_COUNT_OVF (n : Nat) : FRef := ⟨0xA0040C + 0x10 * n, 0, 1, 0⟩
/-- AX_STATUS, spec/11_motion.md R490, offset 0x40, 32 bits. Field STOP_REASON, bits 27 to 24, type RO. -/
def AX_STATUS_STOP_REASON (b : Nat) : FRef := ⟨b + 0x40, 24, 4, 0⟩
/-- AX_STATUS, spec/11_motion.md R490, offset 0x40, 32 bits. Field LOW_CURRENT, bits 8 to 8, type RO. -/
def AX_STATUS_LOW_CURRENT (b : Nat) : FRef := ⟨b + 0x40, 8, 1, 0⟩
/-- AX_STATUS, spec/11_motion.md R490, offset 0x40, 32 bits. Field DECEL_RAISED, bits 7 to 7, type RO. -/
def AX_STATUS_DECEL_RAISED (b : Nat) : FRef := ⟨b + 0x40, 7, 1, 0⟩
/-- AX_STATUS, spec/11_motion.md R490, offset 0x40, 32 bits. Field HOMING, bits 6 to 6, type RO. -/
def AX_STATUS_HOMING (b : Nat) : FRef := ⟨b + 0x40, 6, 1, 0⟩
/-- AX_STATUS, spec/11_motion.md R490, offset 0x40, 32 bits. Field HOLDING, bits 5 to 5, type RO. -/
def AX_STATUS_HOLDING (b : Nat) : FRef := ⟨b + 0x40, 5, 1, 0⟩
/-- AX_STATUS, spec/11_motion.md R490, offset 0x40, 32 bits. Field BRIDGES_ON, bits 4 to 4, type RO. -/
def AX_STATUS_BRIDGES_ON (b : Nat) : FRef := ⟨b + 0x40, 4, 1, 0⟩
/-- AX_STATUS, spec/11_motion.md R490, offset 0x40, 32 bits. Field DECELERATING, bits 3 to 3, type RO. -/
def AX_STATUS_DECELERATING (b : Nat) : FRef := ⟨b + 0x40, 3, 1, 0⟩
/-- AX_STATUS, spec/11_motion.md R490, offset 0x40, 32 bits. Field DIR, bits 2 to 2, type RO. -/
def AX_STATUS_DIR (b : Nat) : FRef := ⟨b + 0x40, 2, 1, 0⟩
/-- AX_STATUS, spec/11_motion.md R490, offset 0x40, 32 bits. Field HOMED, bits 1 to 1, type RO. -/
def AX_STATUS_HOMED (b : Nat) : FRef := ⟨b + 0x40, 1, 1, 0⟩
/-- AX_STATUS, spec/11_motion.md R490, offset 0x40, 32 bits. Field MOVING, bits 0 to 0, type RO. -/
def AX_STATUS_MOVING (b : Nat) : FRef := ⟨b + 0x40, 0, 1, 0⟩
/-- AX_POS, spec/11_motion.md R490, offset 0x44, 32 bits. Field POS, bits 31 to 0, type RO. -/
def AX_POS_POS (b : Nat) : FRef := ⟨b + 0x44, 0, 32, 0⟩
/-- AX_RATE, spec/11_motion.md R490, offset 0x48, 32 bits. Field RATE, bits 31 to 0, type RO. -/
def AX_RATE_RATE (b : Nat) : FRef := ⟨b + 0x48, 0, 32, 0⟩
/-- AX_ACCEL, spec/11_motion.md R490, offset 0x4C, 32 bits. Field ACCEL, bits 31 to 0, type RW. -/
def AX_ACCEL_ACCEL (b : Nat) : FRef := ⟨b + 0x4C, 0, 32, 0⟩
/-- AX_DECEL, spec/11_motion.md R490, offset 0x50, 32 bits. Field DECEL, bits 31 to 0, type RW. -/
def AX_DECEL_DECEL (b : Nat) : FRef := ⟨b + 0x50, 0, 32, 0⟩
/-- AX_CHOP, spec/11_motion.md R490, offset 0x54, 32 bits. Field OFS_B, bits 31 to 16, type RO. -/
def AX_CHOP_OFS_B (b : Nat) : FRef := ⟨b + 0x54, 16, 16, 0⟩
/-- AX_CHOP, spec/11_motion.md R490, offset 0x54, 32 bits. Field OFS_A, bits 15 to 0, type RO. -/
def AX_CHOP_OFS_A (b : Nat) : FRef := ⟨b + 0x54, 0, 16, 0⟩
/-- AX_INPUTS, spec/11_motion.md R490, offset 0x58, 32 bits. Field ACTIVE, bits 11 to 8, type RO. -/
def AX_INPUTS_ACTIVE (b : Nat) : FRef := ⟨b + 0x58, 8, 4, 0⟩
/-- AX_INPUTS, spec/11_motion.md R490, offset 0x58, 32 bits. Field ACCEPTED, bits 7 to 4, type RO. -/
def AX_INPUTS_ACCEPTED (b : Nat) : FRef := ⟨b + 0x58, 4, 4, 0⟩
/-- AX_INPUTS, spec/11_motion.md R490, offset 0x58, 32 bits. Field RAW, bits 3 to 0, type RO. -/
def AX_INPUTS_RAW (b : Nat) : FRef := ⟨b + 0x58, 0, 4, 0⟩
/-- AX_COUNTS, spec/11_motion.md R490, offset 0x5C, 32 bits. Field STALLS, bits 31 to 24, type SAT. -/
def AX_COUNTS_STALLS (b : Nat) : FRef := ⟨b + 0x5C, 24, 8, 0⟩
/-- AX_COUNTS, spec/11_motion.md R490, offset 0x5C, 32 bits. Field TRIPS, bits 23 to 16, type SAT. -/
def AX_COUNTS_TRIPS (b : Nat) : FRef := ⟨b + 0x5C, 16, 8, 0⟩
/-- AX_COUNTS, spec/11_motion.md R490, offset 0x5C, 32 bits. Field CHATTERS, bits 15 to 8, type SAT. -/
def AX_COUNTS_CHATTERS (b : Nat) : FRef := ⟨b + 0x5C, 8, 8, 0⟩
/-- AX_COUNTS, spec/11_motion.md R490, offset 0x5C, 32 bits. Field OVERCURRENTS, bits 7 to 0, type SAT. -/
def AX_COUNTS_OVERCURRENTS (b : Nat) : FRef := ⟨b + 0x5C, 0, 8, 0⟩
/-- AX_OVF, spec/11_motion.md R490, offset 0x60, 32 bits. Field STALLS_OVF, bits 3 to 3, type W1C. -/
def AX_OVF_STALLS_OVF (b : Nat) : FRef := ⟨b + 0x60, 3, 1, 0⟩
/-- AX_OVF, spec/11_motion.md R490, offset 0x60, 32 bits. Field TRIPS_OVF, bits 2 to 2, type W1C. -/
def AX_OVF_TRIPS_OVF (b : Nat) : FRef := ⟨b + 0x60, 2, 1, 0⟩
/-- AX_OVF, spec/11_motion.md R490, offset 0x60, 32 bits. Field CHATTERS_OVF, bits 1 to 1, type W1C. -/
def AX_OVF_CHATTERS_OVF (b : Nat) : FRef := ⟨b + 0x60, 1, 1, 0⟩
/-- AX_OVF, spec/11_motion.md R490, offset 0x60, 32 bits. Field OC_OVF, bits 0 to 0, type W1C. -/
def AX_OVF_OC_OVF (b : Nat) : FRef := ⟨b + 0x60, 0, 1, 0⟩
/-- YOKE_CFG, spec/12_yoke_gleaner_availability.md R534, offset 0x40, 32 bits. Field PAIR_SIDE, bits 24 to 24, type RWL. -/
def YOKE_CFG_PAIR_SIDE : FRef := ⟨0xC00040, 24, 1, 0⟩
/-- YOKE_CFG, spec/12_yoke_gleaner_availability.md R534, offset 0x40, 32 bits. Field STEP_TOL, bits 23 to 16, type RW. -/
def YOKE_CFG_STEP_TOL : FRef := ⟨0xC00040, 16, 8, 2⟩
/-- YOKE_CFG, spec/12_yoke_gleaner_availability.md R534, offset 0x40, 32 bits. Field DOWN_US, bits 15 to 8, type RW. -/
def YOKE_CFG_DOWN_US : FRef := ⟨0xC00040, 8, 8, 4⟩
/-- YOKE_CFG, spec/12_yoke_gleaner_availability.md R534, offset 0x40, 32 bits. Field AUTO_RESYNC, bits 1 to 1, type RW. -/
def YOKE_CFG_AUTO_RESYNC : FRef := ⟨0xC00040, 1, 1, 1⟩
/-- YOKE_CFG, spec/12_yoke_gleaner_availability.md R534, offset 0x40, 32 bits. Field AUTO, bits 0 to 0, type RW. -/
def YOKE_CFG_AUTO : FRef := ⟨0xC00040, 0, 1, 1⟩
/-- YOKE_STATE, spec/12_yoke_gleaner_availability.md R534, offset 0x44, 32 bits. Field LANES_UP, bits 19 to 16, type RO. -/
def YOKE_STATE_LANES_UP : FRef := ⟨0xC00044, 16, 4, 0⟩
/-- YOKE_STATE, spec/12_yoke_gleaner_availability.md R534, offset 0x44, 32 bits. Field RESYNC_PENDING, bits 9 to 9, type RO. -/
def YOKE_STATE_RESYNC_PENDING : FRef := ⟨0xC00044, 9, 1, 0⟩
/-- YOKE_STATE, spec/12_yoke_gleaner_availability.md R534, offset 0x44, 32 bits. Field CHECKING, bits 8 to 8, type RO. -/
def YOKE_STATE_CHECKING : FRef := ⟨0xC00044, 8, 1, 0⟩
/-- YOKE_STATE, spec/12_yoke_gleaner_availability.md R534, offset 0x44, 32 bits. Field OWN, bits 7 to 7, type RO. -/
def YOKE_STATE_OWN : FRef := ⟨0xC00044, 7, 1, 0⟩
/-- YOKE_STATE, spec/12_yoke_gleaner_availability.md R534, offset 0x44, 32 bits. Field PARTNER_DOWN, bits 6 to 6, type RO. -/
def YOKE_STATE_PARTNER_DOWN : FRef := ⟨0xC00044, 6, 1, 0⟩
/-- YOKE_STATE, spec/12_yoke_gleaner_availability.md R534, offset 0x44, 32 bits. Field PARTNER_FENCED, bits 5 to 5, type RO. -/
def YOKE_STATE_PARTNER_FENCED : FRef := ⟨0xC00044, 5, 1, 0⟩
/-- YOKE_STATE, spec/12_yoke_gleaner_availability.md R534, offset 0x44, 32 bits. Field FENCED, bits 4 to 4, type RO. -/
def YOKE_STATE_FENCED : FRef := ⟨0xC00044, 4, 1, 0⟩
/-- YOKE_STATE, spec/12_yoke_gleaner_availability.md R534, offset 0x44, 32 bits. Field READY, bits 3 to 3, type RO. -/
def YOKE_STATE_READY : FRef := ⟨0xC00044, 3, 1, 0⟩
/-- YOKE_STATE, spec/12_yoke_gleaner_availability.md R534, offset 0x44, 32 bits. Field PAIRED, bits 2 to 2, type RO. -/
def YOKE_STATE_PAIRED : FRef := ⟨0xC00044, 2, 1, 0⟩
/-- YOKE_STATE, spec/12_yoke_gleaner_availability.md R534, offset 0x44, 32 bits. Field ROLE, bits 1 to 0, type RO. -/
def YOKE_STATE_ROLE : FRef := ⟨0xC00044, 0, 2, 0⟩
/-- YOKE_LANES, spec/12_yoke_gleaner_availability.md R534, offset 0x48, 32 bits. Field OWNED, bits 31 to 0, type RO. -/
def YOKE_LANES_OWNED : FRef := ⟨0xC00048, 0, 32, 0xFFFFFFFF⟩
/-- YOKE_LAST_MISMATCH, spec/12_yoke_gleaner_availability.md R534, offset 0x50, 64 bits. Field PARTNER_MARKED, bits 54 to 54, type RO. -/
def YOKE_LAST_MISMATCH_PARTNER_MARKED : FRef := ⟨0xC00050, 54, 1, 0⟩
/-- YOKE_LAST_MISMATCH, spec/12_yoke_gleaner_availability.md R534, offset 0x50, 64 bits. Field LOCAL_MARKED, bits 53 to 53, type RO. -/
def YOKE_LAST_MISMATCH_LOCAL_MARKED : FRef := ⟨0xC00050, 53, 1, 0⟩
/-- YOKE_LAST_MISMATCH, spec/12_yoke_gleaner_availability.md R534, offset 0x50, 64 bits. Field LANE, bits 52 to 48, type RO. -/
def YOKE_LAST_MISMATCH_LANE : FRef := ⟨0xC00050, 48, 5, 0⟩
/-- YOKE_LAST_MISMATCH, spec/12_yoke_gleaner_availability.md R534, offset 0x50, 64 bits. Field LINE, bits 47 to 0, type RO. -/
def YOKE_LAST_MISMATCH_LINE : FRef := ⟨0xC00050, 0, 48, 0⟩
/-- YOKE_LAST_GAP, spec/12_yoke_gleaner_availability.md R534, offset 0x58, 32 bits. Field HELD, bits 19 to 16, type RO. -/
def YOKE_LAST_GAP_HELD : FRef := ⟨0xC00058, 16, 4, 0⟩
/-- YOKE_LAST_GAP, spec/12_yoke_gleaner_availability.md R534, offset 0x58, 32 bits. Field GAP_NS, bits 15 to 0, type RO. -/
def YOKE_LAST_GAP_GAP_NS : FRef := ⟨0xC00058, 0, 16, 0⟩
/-- YOKE_MISMATCH, spec/12_yoke_gleaner_availability.md R534, offset 0x5C, 32 bits. Field COUNT, bits 31 to 0, type SAT. -/
def YOKE_MISMATCH_COUNT : FRef := ⟨0xC0005C, 0, 32, 0⟩
/-- YOKE_TAKEOVERS, spec/12_yoke_gleaner_availability.md R534, offset 0x60, 32 bits. Field WHOLE, bits 31 to 16, type SAT. -/
def YOKE_TAKEOVERS_WHOLE : FRef := ⟨0xC00060, 16, 16, 0⟩
/-- YOKE_TAKEOVERS, spec/12_yoke_gleaner_availability.md R534, offset 0x60, 32 bits. Field LANES, bits 15 to 0, type SAT. -/
def YOKE_TAKEOVERS_LANES : FRef := ⟨0xC00060, 0, 16, 0⟩
/-- YOKE_MISSING, spec/12_yoke_gleaner_availability.md R534, offset 0x64, 32 bits. Field TOKENS, bits 31 to 16, type SAT. -/
def YOKE_MISSING_TOKENS : FRef := ⟨0xC00064, 16, 16, 0⟩
/-- YOKE_MISSING, spec/12_yoke_gleaner_availability.md R534, offset 0x64, 32 bits. Field CRCS, bits 15 to 0, type SAT. -/
def YOKE_MISSING_CRCS : FRef := ⟨0xC00064, 0, 16, 0⟩
/-- YOKE_RESENT, spec/12_yoke_gleaner_availability.md R534, offset 0x68, 32 bits. Field COUNT, bits 31 to 0, type SAT. -/
def YOKE_RESENT_COUNT : FRef := ⟨0xC00068, 0, 32, 0⟩
/-- YOKE_OVF, spec/12_yoke_gleaner_availability.md R534, offset 0x6C, 32 bits. Field RESENT_OVF, bits 5 to 5, type W1C. -/
def YOKE_OVF_RESENT_OVF : FRef := ⟨0xC0006C, 5, 1, 0⟩
/-- YOKE_OVF, spec/12_yoke_gleaner_availability.md R534, offset 0x6C, 32 bits. Field CRCS_OVF, bits 4 to 4, type W1C. -/
def YOKE_OVF_CRCS_OVF : FRef := ⟨0xC0006C, 4, 1, 0⟩
/-- YOKE_OVF, spec/12_yoke_gleaner_availability.md R534, offset 0x6C, 32 bits. Field TOKENS_OVF, bits 3 to 3, type W1C. -/
def YOKE_OVF_TOKENS_OVF : FRef := ⟨0xC0006C, 3, 1, 0⟩
/-- YOKE_OVF, spec/12_yoke_gleaner_availability.md R534, offset 0x6C, 32 bits. Field LANES_OVF, bits 2 to 2, type W1C. -/
def YOKE_OVF_LANES_OVF : FRef := ⟨0xC0006C, 2, 1, 0⟩
/-- YOKE_OVF, spec/12_yoke_gleaner_availability.md R534, offset 0x6C, 32 bits. Field WHOLE_OVF, bits 1 to 1, type W1C. -/
def YOKE_OVF_WHOLE_OVF : FRef := ⟨0xC0006C, 1, 1, 0⟩
/-- YOKE_OVF, spec/12_yoke_gleaner_availability.md R534, offset 0x6C, 32 bits. Field MISMATCH_OVF, bits 0 to 0, type W1C. -/
def YOKE_OVF_MISMATCH_OVF : FRef := ⟨0xC0006C, 0, 1, 0⟩
/-- GLEAN_STATE, spec/12_yoke_gleaner_availability.md R534, offset 0x40, 32 bits. Field NODE, bits 31 to 0, type RO. -/
def GLEAN_STATE_NODE : FRef := ⟨0xD00040, 0, 32, 0⟩
/-- GLEAN_RUNS, spec/12_yoke_gleaner_availability.md R534, offset 0x44, 32 bits. Field COUNT, bits 31 to 0, type SAT. -/
def GLEAN_RUNS_COUNT : FRef := ⟨0xD00044, 0, 32, 0⟩
/-- GLEAN_FAILS, spec/12_yoke_gleaner_availability.md R534, offset 0x48, 32 bits. Field COUNT, bits 31 to 0, type SAT. -/
def GLEAN_FAILS_COUNT : FRef := ⟨0xD00048, 0, 32, 0⟩
/-- GLEAN_ABORTS, spec/12_yoke_gleaner_availability.md R534, offset 0x4C, 32 bits. Field COUNT, bits 31 to 0, type SAT. -/
def GLEAN_ABORTS_COUNT : FRef := ⟨0xD0004C, 0, 32, 0⟩
/-- GLEAN_OVF, spec/12_yoke_gleaner_availability.md R534, offset 0x50, 32 bits. Field ABORTS_OVF, bits 2 to 2, type W1C. -/
def GLEAN_OVF_ABORTS_OVF : FRef := ⟨0xD00050, 2, 1, 0⟩
/-- GLEAN_OVF, spec/12_yoke_gleaner_availability.md R534, offset 0x50, 32 bits. Field FAILS_OVF, bits 1 to 1, type W1C. -/
def GLEAN_OVF_FAILS_OVF : FRef := ⟨0xD00050, 1, 1, 0⟩
/-- GLEAN_OVF, spec/12_yoke_gleaner_availability.md R534, offset 0x50, 32 bits. Field RUNS_OVF, bits 0 to 0, type W1C. -/
def GLEAN_OVF_RUNS_OVF : FRef := ⟨0xD00050, 0, 1, 0⟩
/-- GLEAN_REC_HEAD, spec/12_yoke_gleaner_availability.md R534, offset 0x54, 32 bits. Field INDEX, bits 5 to 0, type RO. -/
def GLEAN_REC_HEAD_INDEX : FRef := ⟨0xD00054, 0, 6, 0⟩
/-- GLEAN_REC, spec/12_yoke_gleaner_availability.md R534, offset 0x100 + n × 0x10, 128 bits. Field TIME, bits 127 to 64, type RO. -/
def GLEAN_REC_TIME (n : Nat) : FRef := ⟨0xD00100 + 0x10 * n, 64, 64, 0⟩
/-- GLEAN_REC, spec/12_yoke_gleaner_availability.md R534, offset 0x100 + n × 0x10, 128 bits. Field RESULT, bits 63 to 56, type RO. -/
def GLEAN_REC_RESULT (n : Nat) : FRef := ⟨0xD00100 + 0x10 * n, 56, 8, 0⟩
/-- GLEAN_REC, spec/12_yoke_gleaner_availability.md R534, offset 0x100 + n × 0x10, 128 bits. Field TEST, bits 55 to 48, type RO. -/
def GLEAN_REC_TEST (n : Nat) : FRef := ⟨0xD00100 + 0x10 * n, 48, 8, 0⟩
/-- GLEAN_REC, spec/12_yoke_gleaner_availability.md R534, offset 0x100 + n × 0x10, 128 bits. Field KIND, bits 47 to 32, type RO. -/
def GLEAN_REC_KIND (n : Nat) : FRef := ⟨0xD00100 + 0x10 * n, 32, 16, 0⟩
/-- GLEAN_REC, spec/12_yoke_gleaner_availability.md R534, offset 0x100 + n × 0x10, 128 bits. Field NODE, bits 31 to 0, type RO. -/
def GLEAN_REC_NODE (n : Nat) : FRef := ⟨0xD00100 + 0x10 * n, 0, 32, 0⟩
/-- HLTH_STATE, spec/13_thermal_wear_health.md R565, offset 0x40, 32 bits. Field TEMP, bits 31 to 16, type RO. -/
def HLTH_STATE_TEMP : FRef := ⟨0xE00040, 16, 16, 0⟩
/-- HLTH_STATE, spec/13_thermal_wear_health.md R565, offset 0x40, 32 bits. Field SHARE, bits 15 to 8, type RO. -/
def HLTH_STATE_SHARE : FRef := ⟨0xE00040, 8, 8, 0⟩
/-- HLTH_STATE, spec/13_thermal_wear_health.md R565, offset 0x40, 32 bits. Field LEVEL, bits 2 to 0, type RO. -/
def HLTH_STATE_LEVEL : FRef := ⟨0xE00040, 0, 3, 0⟩
/-- HLTH_STOP, spec/13_thermal_wear_health.md R565, offset 0x44, 32 bits. Field HOST, bits 8 to 8, type RW. -/
def HLTH_STOP_HOST : FRef := ⟨0xE00044, 8, 1, 0⟩
/-- HLTH_STOP, spec/13_thermal_wear_health.md R565, offset 0x44, 32 bits. Field ASSERTED, bits 4 to 4, type RO. -/
def HLTH_STOP_ASSERTED : FRef := ⟨0xE00044, 4, 1, 0⟩
/-- HLTH_STOP, spec/13_thermal_wear_health.md R565, offset 0x44, 32 bits. Field ROOT, bits 3 to 3, type RO. -/
def HLTH_STOP_ROOT : FRef := ⟨0xE00044, 3, 1, 0⟩
/-- HLTH_STOP, spec/13_thermal_wear_health.md R565, offset 0x44, 32 bits. Field ENCODER, bits 2 to 2, type RO. -/
def HLTH_STOP_ENCODER : FRef := ⟨0xE00044, 2, 1, 0⟩
/-- HLTH_STOP, spec/13_thermal_wear_health.md R565, offset 0x44, 32 bits. Field UNDERRUN, bits 1 to 1, type RO. -/
def HLTH_STOP_UNDERRUN : FRef := ⟨0xE00044, 1, 1, 0⟩
/-- HLTH_STOP, spec/13_thermal_wear_health.md R565, offset 0x44, 32 bits. Field THERMAL, bits 0 to 0, type RO. -/
def HLTH_STOP_THERMAL : FRef := ⟨0xE00044, 0, 1, 0⟩
/-- HLTH_SENSOR_BAD, spec/13_thermal_wear_health.md R565, offset 0x48, 64 bits. Field BAD, bits 63 to 0, type W1C. -/
def HLTH_SENSOR_BAD_BAD : FRef := ⟨0xE00048, 0, 64, 0⟩
/-- HLTH_SENSOR_IGN, spec/13_thermal_wear_health.md R565, offset 0x50, 64 bits. Field IGNORED, bits 63 to 0, type RO. -/
def HLTH_SENSOR_IGN_IGNORED : FRef := ⟨0xE00050, 0, 64, 0⟩
/-- HLTH_THRESH, spec/13_thermal_wear_health.md R565, offset 0x58, 64 bits. Field SHUTDOWN, bits 63 to 48, type RO. -/
def HLTH_THRESH_SHUTDOWN : FRef := ⟨0xE00058, 48, 16, 0x2580⟩
/-- HLTH_THRESH, spec/13_thermal_wear_health.md R565, offset 0x58, 64 bits. Field CRITICAL, bits 47 to 32, type RO. -/
def HLTH_THRESH_CRITICAL : FRef := ⟨0xE00058, 32, 16, 0x2480⟩
/-- HLTH_THRESH, spec/13_thermal_wear_health.md R565, offset 0x58, 64 bits. Field THROTTLE, bits 31 to 16, type RO. -/
def HLTH_THRESH_THROTTLE : FRef := ⟨0xE00058, 16, 16, 0x2300⟩
/-- HLTH_THRESH, spec/13_thermal_wear_health.md R565, offset 0x58, 64 bits. Field WARN, bits 15 to 0, type RO. -/
def HLTH_THRESH_WARN : FRef := ⟨0xE00058, 0, 16, 0x21C0⟩
/-- HLTH_RISE, spec/13_thermal_wear_health.md R565, offset 0x60, 32 bits. Field RISE_CRIT, bits 31 to 16, type RO. -/
def HLTH_RISE_RISE_CRIT : FRef := ⟨0xE00060, 16, 16, 0x140⟩
/-- HLTH_RISE, spec/13_thermal_wear_health.md R565, offset 0x60, 32 bits. Field RISE_WARN, bits 15 to 0, type RO. -/
def HLTH_RISE_RISE_WARN : FRef := ⟨0xE00060, 0, 16, 0x80⟩
/-- HLTH_HOURS, spec/13_thermal_wear_health.md R565, offset 0x64, 32 bits. Field HOURS, bits 31 to 0, type RO. -/
def HLTH_HOURS_HOURS : FRef := ⟨0xE00064, 0, 32, 0⟩
/-- HLTH_TALLY_CLR, spec/13_thermal_wear_health.md R565, offset 0x68, 64 bits. Field GO, bits 63 to 63, type W1S. -/
def HLTH_TALLY_CLR_GO : FRef := ⟨0xE00068, 63, 1, 0⟩
/-- HLTH_TALLY_CLR, spec/13_thermal_wear_health.md R565, offset 0x68, 64 bits. Field CLR_OVF, bits 62 to 62, type RW. -/
def HLTH_TALLY_CLR_CLR_OVF : FRef := ⟨0xE00068, 62, 1, 0⟩
/-- HLTH_TALLY_CLR, spec/13_thermal_wear_health.md R565, offset 0x68, 64 bits. Field NUMBER, bits 52 to 32, type RW. -/
def HLTH_TALLY_CLR_NUMBER : FRef := ⟨0xE00068, 32, 21, 0⟩
/-- HLTH_TALLY_CLR, spec/13_thermal_wear_health.md R565, offset 0x68, 64 bits. Field FIRST, bits 19 to 0, type RW. -/
def HLTH_TALLY_CLR_FIRST : FRef := ⟨0xE00068, 0, 20, 0⟩
/-- HLTH_COUNTS, spec/13_thermal_wear_health.md R565, offset 0x70, 32 bits. Field CRITICALS, bits 31 to 24, type SAT. -/
def HLTH_COUNTS_CRITICALS : FRef := ⟨0xE00070, 24, 8, 0⟩
/-- HLTH_COUNTS, spec/13_thermal_wear_health.md R565, offset 0x70, 32 bits. Field THROTTLES, bits 23 to 16, type SAT. -/
def HLTH_COUNTS_THROTTLES : FRef := ⟨0xE00070, 16, 8, 0⟩
/-- HLTH_COUNTS, spec/13_thermal_wear_health.md R565, offset 0x70, 32 bits. Field SENSOR_FLAGS, bits 15 to 8, type SAT. -/
def HLTH_COUNTS_SENSOR_FLAGS : FRef := ⟨0xE00070, 8, 8, 0⟩
/-- HLTH_COUNTS, spec/13_thermal_wear_health.md R565, offset 0x70, 32 bits. Field HEAD_DISABLES, bits 7 to 0, type SAT. -/
def HLTH_COUNTS_HEAD_DISABLES : FRef := ⟨0xE00070, 0, 8, 0⟩
/-- HLTH_OVF, spec/13_thermal_wear_health.md R565, offset 0x74, 32 bits. Field CRIT_OVF, bits 3 to 3, type W1C. -/
def HLTH_OVF_CRIT_OVF : FRef := ⟨0xE00074, 3, 1, 0⟩
/-- HLTH_OVF, spec/13_thermal_wear_health.md R565, offset 0x74, 32 bits. Field THR_OVF, bits 2 to 2, type W1C. -/
def HLTH_OVF_THR_OVF : FRef := ⟨0xE00074, 2, 1, 0⟩
/-- HLTH_OVF, spec/13_thermal_wear_health.md R565, offset 0x74, 32 bits. Field FLAG_OVF, bits 1 to 1, type W1C. -/
def HLTH_OVF_FLAG_OVF : FRef := ⟨0xE00074, 1, 1, 0⟩
/-- HLTH_OVF, spec/13_thermal_wear_health.md R565, offset 0x74, 32 bits. Field DIS_OVF, bits 0 to 0, type W1C. -/
def HLTH_OVF_DIS_OVF : FRef := ⟨0xE00074, 0, 1, 0⟩
/-- AGE_EOL, spec/13_thermal_wear_health.md R565, offset 0x78, 32 bits. Field HOURS, bits 31 to 0, type RO. -/
def AGE_EOL_HOURS : FRef := ⟨0xE00078, 0, 32, 0xFFFFFFFF⟩
/-- HLTH_HYST, spec/13_thermal_wear_health.md R565, offset 0x7C, 32 bits. Field H_HYST, bits 15 to 8, type RW. -/
def HLTH_HYST_H_HYST : FRef := ⟨0xE0007C, 8, 8, 2⟩
/-- HLTH_HYST, spec/13_thermal_wear_health.md R565, offset 0x7C, 32 bits. Field HYST, bits 7 to 0, type RO. -/
def HLTH_HYST_HYST : FRef := ⟨0xE0007C, 0, 8, 3⟩
/-- HEAD_CFG, spec/13_thermal_wear_health.md R565, offset 0x100 + n × 0x10, 32 bits. Field VSTEP_GAIN, bits 31 to 24, type RW. -/
def HEAD_CFG_VSTEP_GAIN (n : Nat) : FRef := ⟨0xE00100 + 0x10 * n, 24, 8, 8⟩
/-- HEAD_CFG, spec/13_thermal_wear_health.md R565, offset 0x100 + n × 0x10, 32 bits. Field VSTEP_MAX, bits 23 to 16, type RW. -/
def HEAD_CFG_VSTEP_MAX (n : Nat) : FRef := ⟨0xE00100 + 0x10 * n, 16, 8, 0x20⟩
/-- HEAD_CFG, spec/13_thermal_wear_health.md R565, offset 0x100 + n × 0x10, 32 bits. Field HEAD_WIDTH, bits 15 to 0, type RW. -/
def HEAD_CFG_HEAD_WIDTH (n : Nat) : FRef := ⟨0xE00100 + 0x10 * n, 0, 16, 0x8000⟩
/-- HEAD_TEMP, spec/13_thermal_wear_health.md R565, offset 0x104 + n × 0x10, 32 bits. Field H_LIMIT, bits 31 to 16, type RW. -/
def HEAD_TEMP_H_LIMIT (n : Nat) : FRef := ⟨0xE00104 + 0x10 * n, 16, 16, 0xF00⟩
/-- HEAD_TEMP, spec/13_thermal_wear_health.md R565, offset 0x104 + n × 0x10, 32 bits. Field H_WARN, bits 15 to 0, type RW. -/
def HEAD_TEMP_H_WARN (n : Nat) : FRef := ⟨0xE00104 + 0x10 * n, 0, 16, 0xDC0⟩
/-- HEAD_LIFE, spec/13_thermal_wear_health.md R565, offset 0x108 + n × 0x10, 32 bits. Field LIFE, bits 31 to 0, type RW. -/
def HEAD_LIFE_LIFE (n : Nat) : FRef := ⟨0xE00108 + 0x10 * n, 0, 32, 0⟩
/-- AGE_DRIFT, spec/13_thermal_wear_health.md R565, offset 0x300 + n × 0x4, 32 bits. Field PPM, bits 31 to 0, type RO. -/
def AGE_DRIFT_PPM (n : Nat) : FRef := ⟨0xE00300 + 0x4 * n, 0, 32, 0⟩
/-- SEC_STATE, spec/14_security_sealed_layer.md R599, offset 0x40, 32 bits. Field ROLLBACK, bits 21 to 16, type RO. -/
def SEC_STATE_ROLLBACK : FRef := ⟨0xF00040, 16, 6, 0⟩
/-- SEC_STATE, spec/14_security_sealed_layer.md R599, offset 0x40, 32 bits. Field STAGED, bits 5 to 5, type RO. -/
def SEC_STATE_STAGED : FRef := ⟨0xF00040, 5, 1, 0⟩
/-- SEC_STATE, spec/14_security_sealed_layer.md R599, offset 0x40, 32 bits. Field COPY, bits 4 to 4, type RO. -/
def SEC_STATE_COPY : FRef := ⟨0xF00040, 4, 1, 0⟩
/-- SEC_STATE, spec/14_security_sealed_layer.md R599, offset 0x40, 32 bits. Field MSTATE, bits 1 to 0, type RO. -/
def SEC_STATE_MSTATE : FRef := ⟨0xF00040, 0, 2, 0⟩
/-- SEC_SLOT, spec/14_security_sealed_layer.md R599, offset 0x44 + n × 0x4, 32 bits. Field CACHED, bits 4 to 4, type RO. -/
def SEC_SLOT_CACHED (n : Nat) : FRef := ⟨0xF00044 + 0x4 * n, 4, 1, 0⟩
/-- SEC_SLOT, spec/14_security_sealed_layer.md R599, offset 0x44 + n × 0x4, 32 bits. Field REVOKED, bits 3 to 3, type RO. -/
def SEC_SLOT_REVOKED (n : Nat) : FRef := ⟨0xF00044 + 0x4 * n, 3, 1, 0⟩
/-- SEC_SLOT, spec/14_security_sealed_layer.md R599, offset 0x44 + n × 0x4, 32 bits. Field SEAL, bits 2 to 2, type RO. -/
def SEC_SLOT_SEAL (n : Nat) : FRef := ⟨0xF00044 + 0x4 * n, 2, 1, 0⟩
/-- SEC_SLOT, spec/14_security_sealed_layer.md R599, offset 0x44 + n × 0x4, 32 bits. Field FW, bits 1 to 1, type RO. -/
def SEC_SLOT_FW (n : Nat) : FRef := ⟨0xF00044 + 0x4 * n, 1, 1, (if n = 0 then 1 else 0)⟩
/-- SEC_SLOT, spec/14_security_sealed_layer.md R599, offset 0x44 + n × 0x4, 32 bits. Field PROVISIONED, bits 0 to 0, type RO. -/
def SEC_SLOT_PROVISIONED (n : Nat) : FRef := ⟨0xF00044 + 0x4 * n, 0, 1, (if n = 0 then 1 else 0)⟩
/-- SEC_DEVICE_ID, spec/14_security_sealed_layer.md R599, offset 0x58, 64 bits. Field ID, bits 63 to 0, type RO. -/
def SEC_DEVICE_ID_ID : FRef := ⟨0xF00058, 0, 64, 0⟩
/-- SEC_BOOT, spec/14_security_sealed_layer.md R599, offset 0x60, 32 bits. Field COUNT, bits 31 to 0, type SAT. -/
def SEC_BOOT_COUNT : FRef := ⟨0xF00060, 0, 32, 0⟩
/-- SEC_RELEASE, spec/14_security_sealed_layer.md R599, offset 0x64, 32 bits. Field RELEASE, bits 31 to 0, type RO. -/
def SEC_RELEASE_RELEASE : FRef := ⟨0xF00064, 0, 32, 0⟩
/-- SEC_AUDIT_INDEX, spec/14_security_sealed_layer.md R599, offset 0x68, 64 bits. Field INDEX, bits 63 to 0, type RO. -/
def SEC_AUDIT_INDEX_INDEX : FRef := ⟨0xF00068, 0, 64, 0⟩
/-- SEC_AUDIT_CHAIN, spec/14_security_sealed_layer.md R599, offset 0x80 + n × 0x4, 32 bits. Field H, bits 31 to 0, type RO. -/
def SEC_AUDIT_CHAIN_H (n : Nat) : FRef := ⟨0xF00080 + 0x4 * n, 0, 32, 0⟩
/-- SEC_PROG_HASH, spec/14_security_sealed_layer.md R599, offset 0xC0 + n × 0x4, 32 bits. Field HASH, bits 31 to 0, type RW. -/
def SEC_PROG_HASH_HASH (n : Nat) : FRef := ⟨0xF000C0 + 0x4 * n, 0, 32, 0⟩
/-- SEC_PROG, spec/14_security_sealed_layer.md R599, offset 0xF0, 32 bits. Field FAILED, bits 17 to 17, type RO. -/
def SEC_PROG_FAILED : FRef := ⟨0xF000F0, 17, 1, 0⟩
/-- SEC_PROG, spec/14_security_sealed_layer.md R599, offset 0xF0, 32 bits. Field GO, bits 16 to 16, type W1S. -/
def SEC_PROG_GO : FRef := ⟨0xF000F0, 16, 1, 0⟩
/-- SEC_PROG, spec/14_security_sealed_layer.md R599, offset 0xF0, 32 bits. Field USE_SEAL, bits 9 to 9, type RW. -/
def SEC_PROG_USE_SEAL : FRef := ⟨0xF000F0, 9, 1, 0⟩
/-- SEC_PROG, spec/14_security_sealed_layer.md R599, offset 0xF0, 32 bits. Field USE_FW, bits 8 to 8, type RW. -/
def SEC_PROG_USE_FW : FRef := ⟨0xF000F0, 8, 1, 0⟩
/-- SEC_PROG, spec/14_security_sealed_layer.md R599, offset 0xF0, 32 bits. Field SLOT, bits 1 to 0, type RW. -/
def SEC_PROG_SLOT : FRef := ⟨0xF000F0, 0, 2, 0⟩
/-- SEC_COUNTS, spec/14_security_sealed_layer.md R599, offset 0xF4, 32 bits. Field SEAL_REJECTS, bits 31 to 24, type SAT. -/
def SEC_COUNTS_SEAL_REJECTS : FRef := ⟨0xF000F4, 24, 8, 0⟩
/-- SEC_COUNTS, spec/14_security_sealed_layer.md R599, offset 0xF4, 32 bits. Field FW_REJECTS, bits 23 to 16, type SAT. -/
def SEC_COUNTS_FW_REJECTS : FRef := ⟨0xF000F4, 16, 8, 0⟩
/-- SEC_COUNTS, spec/14_security_sealed_layer.md R599, offset 0xF4, 32 bits. Field SEALS, bits 15 to 0, type SAT. -/
def SEC_COUNTS_SEALS : FRef := ⟨0xF000F4, 0, 16, 0⟩
/-- SEC_OVF, spec/14_security_sealed_layer.md R599, offset 0xF8, 32 bits. Field BOOT_OVF, bits 3 to 3, type W1C. -/
def SEC_OVF_BOOT_OVF : FRef := ⟨0xF000F8, 3, 1, 0⟩
/-- SEC_OVF, spec/14_security_sealed_layer.md R599, offset 0xF8, 32 bits. Field SREJ_OVF, bits 2 to 2, type W1C. -/
def SEC_OVF_SREJ_OVF : FRef := ⟨0xF000F8, 2, 1, 0⟩
/-- SEC_OVF, spec/14_security_sealed_layer.md R599, offset 0xF8, 32 bits. Field FREJ_OVF, bits 1 to 1, type W1C. -/
def SEC_OVF_FREJ_OVF : FRef := ⟨0xF000F8, 1, 1, 0⟩
/-- SEC_OVF, spec/14_security_sealed_layer.md R599, offset 0xF8, 32 bits. Field SEALS_OVF, bits 0 to 0, type W1C. -/
def SEC_OVF_SEALS_OVF : FRef := ⟨0xF000F8, 0, 1, 0⟩
/-- SEC_STORE, spec/14_security_sealed_layer.md R599, offset 0xFC, 32 bits. Field FREE_KIB, bits 15 to 0, type RO. -/
def SEC_STORE_FREE_KIB : FRef := ⟨0xF000FC, 0, 16, 0x3000⟩
/-- SYS_DEV, spec/15_bringup_power_pins_package.md R632, offset 0x40, 32 bits. Field READY_MS, bits 31 to 16, type RO. -/
def SYS_DEV_READY_MS : FRef := ⟨0x40, 16, 16, 0⟩
/-- SYS_DEV, spec/15_bringup_power_pins_package.md R632, offset 0x40, 32 bits. Field RESET_CAUSE, bits 11 to 8, type RO. -/
def SYS_DEV_RESET_CAUSE : FRef := ⟨0x40, 8, 4, 0⟩
/-- SYS_DEV, spec/15_bringup_power_pins_package.md R632, offset 0x40, 32 bits. Field DEV_STATE, bits 2 to 0, type RO. -/
def SYS_DEV_DEV_STATE : FRef := ⟨0x40, 0, 3, 0⟩
/-- SYS_CTRL, spec/15_bringup_power_pins_package.md R632, offset 0x44, 32 bits. Field WAKE, bits 0 to 0, type W1S. -/
def SYS_CTRL_WAKE : FRef := ⟨0x44, 0, 1, 0⟩
/-- SYS_ALERT_EN, spec/15_bringup_power_pins_package.md R632, offset 0x48, 32 bits. Field EN, bits 31 to 0, type RW. -/
def SYS_ALERT_EN_EN : FRef := ⟨0x48, 0, 32, 0⟩
/-- SYS_BOARD, spec/15_bringup_power_pins_package.md R632, offset 0x4C, 32 bits. Field RECORD_OK, bits 1 to 1, type RO. -/
def SYS_BOARD_RECORD_OK : FRef := ⟨0x4C, 1, 1, 0⟩
/-- SYS_BOARD, spec/15_bringup_power_pins_package.md R632, offset 0x4C, 32 bits. Field PERST_SCOPE, bits 0 to 0, type RO. -/
def SYS_BOARD_PERST_SCOPE : FRef := ⟨0x4C, 0, 1, 0⟩

end R

/-- UNIT_ID, spec/01_architecture.md R29, offset 0x0, 32 bits. -/
def reg_UNIT_ID : RegDef := ⟨"UNIT_ID", 0x0, 0x0, 0, 1, 1,
   [⟨16, 16, .ro, 0⟩,
    ⟨8, 8, .ro, 0⟩,
    ⟨0, 8, .ro, 1⟩]⟩
/-- UNIT_SHAPE, spec/01_architecture.md R29, offset 0x4, 32 bits. -/
def reg_UNIT_SHAPE : RegDef := ⟨"UNIT_SHAPE", 0x4, 0x0, 0, 1, 1,
   [⟨16, 16, .ro, 0⟩,
    ⟨0, 16, .ro, 0⟩]⟩
/-- UNIT_CHILD_BASE, spec/01_architecture.md R29, offset 0x8, 32 bits. -/
def reg_UNIT_CHILD_BASE : RegDef := ⟨"UNIT_CHILD_BASE", 0x8, 0x0, 0, 1, 1,
   [⟨0, 32, .ro, 0⟩]⟩
/-- UNIT_SIZE, spec/01_architecture.md R29, offset 0xC, 32 bits. -/
def reg_UNIT_SIZE : RegDef := ⟨"UNIT_SIZE", 0xC, 0x0, 0, 1, 1,
   [⟨0, 32, .ro, 0⟩]⟩
/-- UNIT_CTRL, spec/01_architecture.md R29, offset 0x10, 32 bits. -/
def reg_UNIT_CTRL : RegDef := ⟨"UNIT_CTRL", 0x10, 0x0, 0, 1, 1,
   [⟨3, 1, .w1s, 0⟩,
    ⟨2, 1, .w1s, 0⟩,
    ⟨1, 1, .rw, 0⟩,
    ⟨0, 1, .rw, 0⟩]⟩
/-- UNIT_STATE, spec/01_architecture.md R29, offset 0x14, 32 bits. -/
def reg_UNIT_STATE : RegDef := ⟨"UNIT_STATE", 0x14, 0x0, 0, 1, 1,
   [⟨0, 3, .ro, 0⟩]⟩
/-- UNIT_EVENT, spec/01_architecture.md R29, offset 0x18, 32 bits. -/
def reg_UNIT_EVENT : RegDef := ⟨"UNIT_EVENT", 0x18, 0x0, 0, 1, 1,
   [⟨16, 16, .w1c, 0⟩,
    ⟨5, 1, .ro, 0⟩,
    ⟨4, 1, .w1c, 0⟩,
    ⟨3, 1, .w1c, 0⟩,
    ⟨2, 1, .w1c, 0⟩,
    ⟨1, 1, .w1c, 0⟩,
    ⟨0, 1, .w1c, 0⟩]⟩
/-- UNIT_EVENT_MASK, spec/01_architecture.md R29, offset 0x1C, 32 bits. -/
def reg_UNIT_EVENT_MASK : RegDef := ⟨"UNIT_EVENT_MASK", 0x1C, 0x0, 0, 1, 1,
   [⟨0, 32, .rw, 0xFFFFFFFF⟩]⟩
/-- UNIT_FAULT, spec/01_architecture.md R29, offset 0x20, 32 bits. -/
def reg_UNIT_FAULT : RegDef := ⟨"UNIT_FAULT", 0x20, 0x0, 0, 1, 1,
   [⟨24, 1, .w1c, 0⟩,
    ⟨16, 8, .sat, 0⟩,
    ⟨0, 16, .ro, 0⟩]⟩
/-- The registers of a node of the group `hdr`, in the order of their captions. -/
def regs_hdr : List RegDef :=
  [reg_UNIT_ID,
   reg_UNIT_SHAPE,
   reg_UNIT_CHILD_BASE,
   reg_UNIT_SIZE,
   reg_UNIT_CTRL,
   reg_UNIT_STATE,
   reg_UNIT_EVENT,
   reg_UNIT_EVENT_MASK,
   reg_UNIT_FAULT]

/-- CMD_APERTURE, spec/02_commands_rings_contexts.md R58, offset 0x40, 64 bits. -/
def reg_CMD_APERTURE : RegDef := ⟨"CMD_APERTURE", 0x40, 0x0, 0, 1, 2,
   [⟨20, 16, .rw, 0⟩]⟩
/-- CMD_WDOG, spec/02_commands_rings_contexts.md R101, offset 0x48, 32 bits. -/
def reg_CMD_WDOG : RegDef := ⟨"CMD_WDOG", 0x48, 0x0, 0, 1, 1,
   [⟨24, 8, .ro, 0⟩,
    ⟨16, 1, .w1c, 0⟩,
    ⟨0, 16, .sat, 0⟩]⟩
/-- The registers of a node of the group `cmd`, in the order of their captions. -/
def regs_cmd : List RegDef :=
  [reg_CMD_APERTURE,
   reg_CMD_WDOG]

/-- RING_SQ_BASE, spec/02_commands_rings_contexts.md R59, offset 0x40, 64 bits. -/
def reg_RING_SQ_BASE : RegDef := ⟨"RING_SQ_BASE", 0x40, 0x0, 0, 1, 2,
   [⟨12, 52, .rw, 0⟩]⟩
/-- RING_CQ_BASE, spec/02_commands_rings_contexts.md R59, offset 0x48, 64 bits. -/
def reg_RING_CQ_BASE : RegDef := ⟨"RING_CQ_BASE", 0x48, 0x0, 0, 1, 2,
   [⟨12, 52, .rw, 0⟩]⟩
/-- RING_SHADOW_CQ_BASE, spec/02_commands_rings_contexts.md R59, offset 0x50, 64 bits. -/
def reg_RING_SHADOW_CQ_BASE : RegDef := ⟨"RING_SHADOW_CQ_BASE", 0x50, 0x0, 0, 1, 2,
   [⟨12, 52, .rw, 0⟩]⟩
/-- RING_CFG, spec/02_commands_rings_contexts.md R59, offset 0x58, 32 bits. -/
def reg_RING_CFG : RegDef := ⟨"RING_CFG", 0x58, 0x0, 0, 1, 1,
   [⟨12, 4, .rw, 1⟩,
    ⟨8, 1, .rwl, 0⟩,
    ⟨0, 5, .rw, 6⟩]⟩
/-- RING_INT, spec/02_commands_rings_contexts.md R59, offset 0x5C, 32 bits. -/
def reg_RING_INT : RegDef := ⟨"RING_INT", 0x5C, 0x0, 0, 1, 1,
   [⟨8, 16, .rw, 0⟩,
    ⟨0, 8, .rw, 0⟩]⟩
/-- RING_SQ_TAIL, spec/02_commands_rings_contexts.md R59, offset 0x60, 32 bits. -/
def reg_RING_SQ_TAIL : RegDef := ⟨"RING_SQ_TAIL", 0x60, 0x0, 0, 1, 1,
   [⟨0, 16, .rw, 0⟩]⟩
/-- RING_SQ_HEAD, spec/02_commands_rings_contexts.md R59, offset 0x64, 32 bits. -/
def reg_RING_SQ_HEAD : RegDef := ⟨"RING_SQ_HEAD", 0x64, 0x0, 0, 1, 1,
   [⟨0, 16, .ro, 0⟩]⟩
/-- RING_CQ_HEAD, spec/02_commands_rings_contexts.md R59, offset 0x68, 32 bits. -/
def reg_RING_CQ_HEAD : RegDef := ⟨"RING_CQ_HEAD", 0x68, 0x0, 0, 1, 1,
   [⟨0, 16, .rw, 0⟩]⟩
/-- RING_CQ_TAIL, spec/02_commands_rings_contexts.md R59, offset 0x6C, 32 bits. -/
def reg_RING_CQ_TAIL : RegDef := ⟨"RING_CQ_TAIL", 0x6C, 0x0, 0, 1, 1,
   [⟨16, 1, .ro, 1⟩,
    ⟨0, 16, .ro, 0⟩]⟩
/-- RING_STATUS, spec/02_commands_rings_contexts.md R59, offset 0x70, 32 bits. -/
def reg_RING_STATUS : RegDef := ⟨"RING_STATUS", 0x70, 0x0, 0, 1, 1,
   [⟨16, 16, .ro, 0⟩,
    ⟨3, 1, .w1c, 0⟩,
    ⟨2, 1, .w1s, 0⟩,
    ⟨1, 1, .ro, 0⟩,
    ⟨0, 1, .ro, 0⟩]⟩
/-- RING_DONE, spec/02_commands_rings_contexts.md R59, offset 0x74, 32 bits. -/
def reg_RING_DONE : RegDef := ⟨"RING_DONE", 0x74, 0x0, 0, 1, 1,
   [⟨0, 32, .sat, 0⟩]⟩
/-- RING_HALT_INDEX, spec/02_commands_rings_contexts.md R59, offset 0x78, 32 bits. -/
def reg_RING_HALT_INDEX : RegDef := ⟨"RING_HALT_INDEX", 0x78, 0x0, 0, 1, 1,
   [⟨0, 16, .ro, 0⟩]⟩
/-- The registers of a node of the group `ring`, in the order of their captions. -/
def regs_ring : List RegDef :=
  [reg_RING_SQ_BASE,
   reg_RING_CQ_BASE,
   reg_RING_SHADOW_CQ_BASE,
   reg_RING_CFG,
   reg_RING_INT,
   reg_RING_SQ_TAIL,
   reg_RING_SQ_HEAD,
   reg_RING_CQ_HEAD,
   reg_RING_CQ_TAIL,
   reg_RING_STATUS,
   reg_RING_DONE,
   reg_RING_HALT_INDEX]

/-- BALE_POOL, spec/03_bales.md R139, offset 0x40, 32 bits. -/
def reg_BALE_POOL : RegDef := ⟨"BALE_POOL", 0x40, 0x0, 0, 1, 1,
   [⟨8, 8, .ro, 0x20⟩,
    ⟨0, 8, .ro, 0x40⟩]⟩
/-- BALE_CFG, spec/03_bales.md R139, offset 0x44, 32 bits. -/
def reg_BALE_CFG : RegDef := ⟨"BALE_CFG", 0x44, 0x0, 0, 1, 1,
   [⟨0, 1, .rw, 0⟩]⟩
/-- BALE_ERR_ADDR, spec/03_bales.md R139, offset 0x48, 64 bits. -/
def reg_BALE_ERR_ADDR : RegDef := ⟨"BALE_ERR_ADDR", 0x48, 0x0, 0, 1, 2,
   [⟨0, 64, .ro, 0⟩]⟩
/-- The registers of a node of the group `bale`, in the order of their captions. -/
def regs_bale : List RegDef :=
  [reg_BALE_POOL,
   reg_BALE_CFG,
   reg_BALE_ERR_ADDR]

/-- ENG_OUT_BYTES, spec/03_bales.md R140, offset 0x40, 64 bits. -/
def reg_ENG_OUT_BYTES : RegDef := ⟨"ENG_OUT_BYTES", 0x40, 0x0, 0, 1, 2,
   [⟨0, 64, .sat, 0⟩]⟩
/-- ENG_IN_BYTES, spec/03_bales.md R140, offset 0x48, 64 bits. -/
def reg_ENG_IN_BYTES : RegDef := ⟨"ENG_IN_BYTES", 0x48, 0x0, 0, 1, 2,
   [⟨0, 64, .sat, 0⟩]⟩
/-- ENG_BALES, spec/03_bales.md R140, offset 0x50, 32 bits. -/
def reg_ENG_BALES : RegDef := ⟨"ENG_BALES", 0x50, 0x0, 0, 1, 1,
   [⟨0, 32, .sat, 0⟩]⟩
/-- ENG_ERRORS, spec/03_bales.md R140, offset 0x54, 32 bits. -/
def reg_ENG_ERRORS : RegDef := ⟨"ENG_ERRORS", 0x54, 0x0, 0, 1, 1,
   [⟨24, 8, .sat, 0⟩,
    ⟨16, 8, .sat, 0⟩,
    ⟨8, 8, .sat, 0⟩,
    ⟨0, 8, .sat, 0⟩]⟩
/-- ENG_OVF, spec/03_bales.md R140, offset 0x58, 32 bits. -/
def reg_ENG_OVF : RegDef := ⟨"ENG_OVF", 0x58, 0x0, 0, 1, 1,
   [⟨6, 1, .w1c, 0⟩,
    ⟨5, 1, .w1c, 0⟩,
    ⟨4, 1, .w1c, 0⟩,
    ⟨3, 1, .w1c, 0⟩,
    ⟨2, 1, .w1c, 0⟩,
    ⟨1, 1, .w1c, 0⟩,
    ⟨0, 1, .w1c, 0⟩]⟩
/-- The registers of a node of the group `eng`, in the order of their captions. -/
def regs_eng : List RegDef :=
  [reg_ENG_OUT_BYTES,
   reg_ENG_IN_BYTES,
   reg_ENG_BALES,
   reg_ENG_ERRORS,
   reg_ENG_OVF]

/-- COMP_CTX_CFG, spec/04_composition_colour.md R145, offset 0x1000 + n × 0x10, 32 bits. -/
def reg_COMP_CTX_CFG : RegDef := ⟨"COMP_CTX_CFG", 0x1000, 0x10, 1, 255, 1,
   [⟨8, 16, .rw, 0x100⟩,
    ⟨3, 1, .rw, 0⟩,
    ⟨2, 1, .rw, 0⟩,
    ⟨1, 1, .rw, 0⟩,
    ⟨0, 1, .rw, 0⟩]⟩
/-- COMP_CTX_DEPTH, spec/04_composition_colour.md R145, offset 0x1004 + n × 0x10, 32 bits. -/
def reg_COMP_CTX_DEPTH : RegDef := ⟨"COMP_CTX_DEPTH", 0x1004, 0x10, 1, 255, 1,
   [⟨0, 32, .ro, 0⟩]⟩
/-- COMP_CTX_ROW, spec/04_composition_colour.md R145, offset 0x1008 + n × 0x10, 32 bits. -/
def reg_COMP_CTX_ROW : RegDef := ⟨"COMP_CTX_ROW", 0x1008, 0x10, 1, 255, 1,
   [⟨0, 32, .ro, 0xFFFFFFFF⟩]⟩
/-- COMP_CTX_BLANK, spec/04_composition_colour.md R145, offset 0x100C + n × 0x10, 32 bits. -/
def reg_COMP_CTX_BLANK : RegDef := ⟨"COMP_CTX_BLANK", 0x100C, 0x10, 1, 255, 1,
   [⟨31, 1, .w1c, 0⟩,
    ⟨0, 31, .sat, 0⟩]⟩
/-- COMP_ROWS, spec/04_composition_colour.md R179, offset 0x40, 64 bits. -/
def reg_COMP_ROWS : RegDef := ⟨"COMP_ROWS", 0x40, 0x0, 0, 1, 2,
   [⟨0, 64, .sat, 0⟩]⟩
/-- COMP_BLANK, spec/04_composition_colour.md R179, offset 0x48, 32 bits. -/
def reg_COMP_BLANK : RegDef := ⟨"COMP_BLANK", 0x48, 0x0, 0, 1, 1,
   [⟨0, 32, .sat, 0⟩]⟩
/-- COMP_LATE, spec/04_composition_colour.md R179, offset 0x4C, 32 bits. -/
def reg_COMP_LATE : RegDef := ⟨"COMP_LATE", 0x4C, 0x0, 0, 1, 1,
   [⟨0, 32, .sat, 0⟩]⟩
/-- COMP_LAYOUT, spec/04_composition_colour.md R179, offset 0x50, 32 bits. -/
def reg_COMP_LAYOUT : RegDef := ⟨"COMP_LAYOUT", 0x50, 0x0, 0, 1, 1,
   [⟨0, 32, .sat, 0⟩]⟩
/-- COMP_OVF, spec/04_composition_colour.md R179, offset 0x54, 32 bits. -/
def reg_COMP_OVF : RegDef := ⟨"COMP_OVF", 0x54, 0x0, 0, 1, 1,
   [⟨3, 1, .w1c, 0⟩,
    ⟨2, 1, .w1c, 0⟩,
    ⟨1, 1, .w1c, 0⟩,
    ⟨0, 1, .w1c, 0⟩]⟩
/-- COMP_LOAD, spec/04_composition_colour.md R179, offset 0x58, 32 bits. -/
def reg_COMP_LOAD : RegDef := ⟨"COMP_LOAD", 0x58, 0x0, 0, 1, 1,
   [⟨0, 32, .ro, 0⟩]⟩
/-- The registers of a node of the group `comp`, in the order of their captions. -/
def regs_comp : List RegDef :=
  [reg_COMP_CTX_CFG,
   reg_COMP_CTX_DEPTH,
   reg_COMP_CTX_ROW,
   reg_COMP_CTX_BLANK,
   reg_COMP_ROWS,
   reg_COMP_BLANK,
   reg_COMP_LATE,
   reg_COMP_LAYOUT,
   reg_COMP_OVF,
   reg_COMP_LOAD]

/-- SCRN_CFG, spec/05_screening_nozzle_map.md R220, offset 0x40, 32 bits. -/
def reg_SCRN_CFG : RegDef := ⟨"SCRN_CFG", 0x40, 0x0, 0, 1, 1,
   [⟨8, 1, .rw, 1⟩,
    ⟨0, 5, .rw, 0x14⟩]⟩
/-- SCRN_FENCED, spec/05_screening_nozzle_map.md R220, offset 0x48, 64 bits. -/
def reg_SCRN_FENCED : RegDef := ⟨"SCRN_FENCED", 0x48, 0x0, 0, 1, 2,
   [⟨0, 33, .ro, 0⟩]⟩
/-- SCRN_ROT, spec/05_screening_nozzle_map.md R220, offset 0x50, 32 bits. -/
def reg_SCRN_ROT : RegDef := ⟨"SCRN_ROT", 0x50, 0x0, 0, 1, 1,
   [⟨0, 32, .sat, 0⟩]⟩
/-- SCRN_MISMATCH, spec/05_screening_nozzle_map.md R220, offset 0x54, 32 bits. -/
def reg_SCRN_MISMATCH : RegDef := ⟨"SCRN_MISMATCH", 0x54, 0x0, 0, 1, 1,
   [⟨0, 32, .sat, 0⟩]⟩
/-- SCRN_POISON, spec/05_screening_nozzle_map.md R220, offset 0x58, 32 bits. -/
def reg_SCRN_POISON : RegDef := ⟨"SCRN_POISON", 0x58, 0x0, 0, 1, 1,
   [⟨0, 32, .sat, 0⟩]⟩
/-- SCRN_STALE, spec/05_screening_nozzle_map.md R220, offset 0x5C, 32 bits. -/
def reg_SCRN_STALE : RegDef := ⟨"SCRN_STALE", 0x5C, 0x0, 0, 1, 1,
   [⟨0, 32, .sat, 0⟩]⟩
/-- SCRN_SEAL_BLOCK, spec/05_screening_nozzle_map.md R220, offset 0x60, 32 bits. -/
def reg_SCRN_SEAL_BLOCK : RegDef := ⟨"SCRN_SEAL_BLOCK", 0x60, 0x0, 0, 1, 1,
   [⟨0, 32, .sat, 0⟩]⟩
/-- SCRN_NMAP_POISON, spec/05_screening_nozzle_map.md R220, offset 0x64, 32 bits. -/
def reg_SCRN_NMAP_POISON : RegDef := ⟨"SCRN_NMAP_POISON", 0x64, 0x0, 0, 1, 1,
   [⟨0, 32, .sat, 0⟩]⟩
/-- SCRN_OVF, spec/05_screening_nozzle_map.md R220, offset 0x68, 32 bits. -/
def reg_SCRN_OVF : RegDef := ⟨"SCRN_OVF", 0x68, 0x0, 0, 1, 1,
   [⟨5, 1, .w1c, 0⟩,
    ⟨4, 1, .w1c, 0⟩,
    ⟨3, 1, .w1c, 0⟩,
    ⟨2, 1, .w1c, 0⟩,
    ⟨1, 1, .w1c, 0⟩,
    ⟨0, 1, .w1c, 0⟩]⟩
/-- SCRN_CHECK, spec/05_screening_nozzle_map.md R220, offset 0x6C, 32 bits. -/
def reg_SCRN_CHECK : RegDef := ⟨"SCRN_CHECK", 0x6C, 0x0, 0, 1, 1,
   [⟨28, 4, .ro, 0⟩,
    ⟨20, 5, .ro, 0⟩,
    ⟨0, 15, .ro, 0⟩]⟩
/-- SCRN_RETAIN, spec/05_screening_nozzle_map.md R220, offset 0x70, 32 bits. -/
def reg_SCRN_RETAIN : RegDef := ⟨"SCRN_RETAIN", 0x70, 0x0, 0, 1, 1,
   [⟨0, 16, .ro, 0xFFFF⟩]⟩
/-- SCRN_RG_SHIFT, spec/05_screening_nozzle_map.md R220, offset 0x100 + n × 0x4, 32 bits. -/
def reg_SCRN_RG_SHIFT : RegDef := ⟨"SCRN_RG_SHIFT", 0x100, 0x4, 0, 32, 1,
   [⟨8, 8, .sh, 0⟩,
    ⟨0, 8, .sh, 0⟩]⟩
/-- SCRN_LANE_ACTIVE, spec/05_screening_nozzle_map.md R220, offset 0x800 + n × 0x4, 32 bits. -/
def reg_SCRN_LANE_ACTIVE : RegDef := ⟨"SCRN_LANE_ACTIVE", 0x800, 0x4, 0, 32, 1,
   [⟨0, 16, .rw, 0x8000⟩]⟩
/-- SCRN_CTX_CFG, spec/05_screening_nozzle_map.md R220, offset 0x1000 + n × 0x10, 32 bits. -/
def reg_SCRN_CTX_CFG : RegDef := ⟨"SCRN_CTX_CFG", 0x1000, 0x10, 1, 255, 1,
   [⟨0, 9, .rw, 0x80⟩]⟩
/-- The registers of a node of the group `scrn`, in the order of their captions. -/
def regs_scrn : List RegDef :=
  [reg_SCRN_CFG,
   reg_SCRN_FENCED,
   reg_SCRN_ROT,
   reg_SCRN_MISMATCH,
   reg_SCRN_POISON,
   reg_SCRN_STALE,
   reg_SCRN_SEAL_BLOCK,
   reg_SCRN_NMAP_POISON,
   reg_SCRN_OVF,
   reg_SCRN_CHECK,
   reg_SCRN_RETAIN,
   reg_SCRN_RG_SHIFT,
   reg_SCRN_LANE_ACTIVE,
   reg_SCRN_CTX_CFG]

/-- SLICE_LANE, spec/05_screening_nozzle_map.md R221, offset 0x40, 32 bits. -/
def reg_SLICE_LANE : RegDef := ⟨"SLICE_LANE", 0x40, 0x0, 0, 1, 1,
   [⟨0, 8, .ro, 0xFF⟩]⟩
/-- SLICE_DECISIONS, spec/05_screening_nozzle_map.md R221, offset 0x48, 64 bits. -/
def reg_SLICE_DECISIONS : RegDef := ⟨"SLICE_DECISIONS", 0x48, 0x0, 0, 1, 2,
   [⟨0, 64, .sat, 0⟩]⟩
/-- SLICE_OVF, spec/05_screening_nozzle_map.md R221, offset 0x50, 32 bits. -/
def reg_SLICE_OVF : RegDef := ⟨"SLICE_OVF", 0x50, 0x0, 0, 1, 1,
   [⟨0, 1, .w1c, 0⟩]⟩
/-- The registers of a node of the group `slice`, in the order of their captions. -/
def regs_slice : List RegDef :=
  [reg_SLICE_LANE,
   reg_SLICE_DECISIONS,
   reg_SLICE_OVF]

/-- LANE_CTRL, spec/06_head_link.md R275, offset 0x40, 32 bits. -/
def reg_LANE_CTRL (rate : Nat) : RegDef := ⟨"LANE_CTRL", 0x40, 0x0, 0, 1, 1,
   [⟨10, 1, .w1s, 0⟩,
    ⟨9, 1, .rw, 0⟩,
    ⟨8, 1, .rw, 0⟩,
    ⟨3, 1, .rw, 0⟩,
    ⟨2, 1, .rw, 0⟩,
    ⟨1, 1, .rw, 0⟩,
    ⟨0, 1, .rw, rate⟩]⟩
/-- LANE_STATUS, spec/06_head_link.md R275, offset 0x44, 32 bits. -/
def reg_LANE_STATUS : RegDef := ⟨"LANE_STATUS", 0x44, 0x0, 0, 1, 1,
   [⟨28, 4, .ro, 0⟩,
    ⟨8, 1, .ro, 0⟩,
    ⟨7, 1, .ro, 0⟩,
    ⟨6, 1, .ro, 0⟩,
    ⟨5, 1, .ro, 0⟩,
    ⟨4, 1, .ro, 0⟩,
    ⟨0, 3, .ro, 0⟩]⟩
/-- LANE_TX_TAPS, spec/06_head_link.md R275, offset 0x48, 32 bits. -/
def reg_LANE_TX_TAPS : RegDef := ⟨"LANE_TX_TAPS", 0x48, 0x0, 0, 1, 1,
   [⟨16, 5, .rw, 6⟩,
    ⟨8, 6, .rw, 0x30⟩,
    ⟨0, 4, .rw, 2⟩]⟩
/-- LANE_RX_EQ, spec/06_head_link.md R275, offset 0x4C, 32 bits. -/
def reg_LANE_RX_EQ : RegDef := ⟨"LANE_RX_EQ", 0x4C, 0x0, 0, 1, 1,
   [⟨24, 8, .ro, 0⟩,
    ⟨16, 8, .ro, 0⟩,
    ⟨0, 4, .ro, 0⟩]⟩
/-- LANE_BER_CFG, spec/06_head_link.md R275, offset 0x50, 32 bits. -/
def reg_LANE_BER_CFG : RegDef := ⟨"LANE_BER_CFG", 0x50, 0x0, 0, 1, 1,
   [⟨0, 8, .rw, 0x20⟩]⟩
/-- LANE_ERR_SH, spec/06_head_link.md R275, offset 0x54, 32 bits. -/
def reg_LANE_ERR_SH : RegDef := ⟨"LANE_ERR_SH", 0x54, 0x0, 0, 1, 1,
   [⟨0, 32, .sat, 0⟩]⟩
/-- LANE_ERR_TYPE, spec/06_head_link.md R275, offset 0x58, 32 bits. -/
def reg_LANE_ERR_TYPE : RegDef := ⟨"LANE_ERR_TYPE", 0x58, 0x0, 0, 1, 1,
   [⟨0, 32, .sat, 0⟩]⟩
/-- LANE_EVENTS, spec/06_head_link.md R275, offset 0x5C, 32 bits. -/
def reg_LANE_EVENTS : RegDef := ⟨"LANE_EVENTS", 0x5C, 0x0, 0, 1, 1,
   [⟨24, 8, .sat, 0⟩,
    ⟨16, 8, .sat, 0⟩,
    ⟨8, 8, .sat, 0⟩,
    ⟨0, 8, .sat, 0⟩]⟩
/-- LANE_PRBS_ERR, spec/06_head_link.md R275, offset 0x60, 32 bits. -/
def reg_LANE_PRBS_ERR : RegDef := ⟨"LANE_PRBS_ERR", 0x60, 0x0, 0, 1, 1,
   [⟨0, 32, .sat, 0⟩]⟩
/-- LANE_OVF, spec/06_head_link.md R275, offset 0x64, 32 bits. -/
def reg_LANE_OVF : RegDef := ⟨"LANE_OVF", 0x64, 0x0, 0, 1, 1,
   [⟨6, 1, .w1c, 0⟩,
    ⟨5, 1, .w1c, 0⟩,
    ⟨4, 1, .w1c, 0⟩,
    ⟨3, 1, .w1c, 0⟩,
    ⟨2, 1, .w1c, 0⟩,
    ⟨1, 1, .w1c, 0⟩,
    ⟨0, 1, .w1c, 0⟩]⟩
/-- The registers of a node of the group `lane`, in the order of their captions. -/
def regs_lane (rate : Nat) : List RegDef :=
  [reg_LANE_CTRL rate,
   reg_LANE_STATUS,
   reg_LANE_TX_TAPS,
   reg_LANE_RX_EQ,
   reg_LANE_BER_CFG,
   reg_LANE_ERR_SH,
   reg_LANE_ERR_TYPE,
   reg_LANE_EVENTS,
   reg_LANE_PRBS_ERR,
   reg_LANE_OVF]

/-- HLNK_CFG, spec/06_head_link.md R277, offset 0x40, 32 bits. -/
def reg_HLNK_CFG : RegDef := ⟨"HLNK_CFG", 0x40, 0x0, 0, 1, 1,
   [⟨8, 12, .rw, 0x3E8⟩,
    ⟨4, 4, .rw, 4⟩,
    ⟨0, 4, .rw, 4⟩]⟩
/-- HLNK_LAT_CFG, spec/06_head_link.md R277, offset 0x44, 32 bits. -/
def reg_HLNK_LAT_CFG : RegDef := ⟨"HLNK_LAT_CFG", 0x44, 0x0, 0, 1, 1,
   [⟨16, 8, .rw, 4⟩,
    ⟨0, 16, .rw, 0x3E8⟩]⟩
/-- HLNK_TRAIN_CFG, spec/06_head_link.md R277, offset 0x48, 32 bits. -/
def reg_HLNK_TRAIN_CFG : RegDef := ⟨"HLNK_TRAIN_CFG", 0x48, 0x0, 0, 1, 1,
   [⟨0, 16, .rw, 0x1F4⟩]⟩
/-- HL_STATE, spec/06_head_link.md R277, offset 0x800 + n × 0x40, 32 bits. -/
def reg_HL_STATE : RegDef := ⟨"HL_STATE", 0x800, 0x40, 0, 32, 1,
   [⟨28, 4, .ro, 0⟩,
    ⟨22, 6, .ro, 0⟩,
    ⟨21, 1, .ro, 0⟩,
    ⟨13, 1, .ro, 0⟩,
    ⟨12, 1, .ro, 0⟩,
    ⟨11, 1, .ro, 0⟩,
    ⟨10, 1, .ro, 0⟩,
    ⟨9, 1, .ro, 0⟩,
    ⟨8, 1, .ro, 0⟩]⟩
/-- HL_EPOCH, spec/06_head_link.md R277, offset 0x804 + n × 0x40, 32 bits. -/
def reg_HL_EPOCH : RegDef := ⟨"HL_EPOCH", 0x804, 0x40, 0, 32, 1,
   [⟨16, 16, .ro, 0⟩,
    ⟨0, 16, .ro, 1⟩]⟩
/-- HL_LAT, spec/06_head_link.md R277, offset 0x808 + n × 0x40, 32 bits. -/
def reg_HL_LAT : RegDef := ⟨"HL_LAT", 0x808, 0x40, 0, 32, 1,
   [⟨0, 32, .ro, 0⟩]⟩
/-- HL_ASYM, spec/06_head_link.md R277, offset 0x80C + n × 0x40, 32 bits. -/
def reg_HL_ASYM : RegDef := ⟨"HL_ASYM", 0x80C, 0x40, 0, 32, 1,
   [⟨0, 16, .rw, 0⟩]⟩
/-- HL_NAKS, spec/06_head_link.md R277, offset 0x810 + n × 0x40, 32 bits. -/
def reg_HL_NAKS : RegDef := ⟨"HL_NAKS", 0x810, 0x40, 0, 32, 1,
   [⟨0, 32, .sat, 0⟩]⟩
/-- HL_REPLAYED, spec/06_head_link.md R277, offset 0x814 + n × 0x40, 32 bits. -/
def reg_HL_REPLAYED : RegDef := ⟨"HL_REPLAYED", 0x814, 0x40, 0, 32, 1,
   [⟨0, 32, .sat, 0⟩]⟩
/-- HL_LATE, spec/06_head_link.md R277, offset 0x818 + n × 0x40, 32 bits. -/
def reg_HL_LATE : RegDef := ⟨"HL_LATE", 0x818, 0x40, 0, 32, 1,
   [⟨0, 32, .sat, 0⟩]⟩
/-- HL_MISSED, spec/06_head_link.md R277, offset 0x81C + n × 0x40, 32 bits. -/
def reg_HL_MISSED : RegDef := ⟨"HL_MISSED", 0x81C, 0x40, 0, 32, 1,
   [⟨0, 32, .sat, 0⟩]⟩
/-- HL_OVF, spec/06_head_link.md R277, offset 0x820 + n × 0x40, 32 bits. -/
def reg_HL_OVF : RegDef := ⟨"HL_OVF", 0x820, 0x40, 0, 32, 1,
   [⟨3, 1, .w1c, 0⟩,
    ⟨2, 1, .w1c, 0⟩,
    ⟨1, 1, .w1c, 0⟩,
    ⟨0, 1, .w1c, 0⟩]⟩
/-- HL_GROUPS, spec/06_head_link.md R277, offset 0x824 + n × 0x40, 32 bits. -/
def reg_HL_GROUPS : RegDef := ⟨"HL_GROUPS", 0x824, 0x40, 0, 32, 1,
   [⟨0, 32, .ro, 0⟩]⟩
/-- The registers of a node of the group `hlnk`, in the order of their captions. -/
def regs_hlnk : List RegDef :=
  [reg_HLNK_CFG,
   reg_HLNK_LAT_CFG,
   reg_HLNK_TRAIN_CFG,
   reg_HL_STATE,
   reg_HL_EPOCH,
   reg_HL_LAT,
   reg_HL_ASYM,
   reg_HL_NAKS,
   reg_HL_REPLAYED,
   reg_HL_LATE,
   reg_HL_MISSED,
   reg_HL_OVF,
   reg_HL_GROUPS]

/-- FIRE_CFG, spec/07_position_fire_timing.md R331, offset 0x40, 32 bits. -/
def reg_FIRE_CFG : RegDef := ⟨"FIRE_CFG", 0x40, 0x0, 0, 1, 1,
   [⟨0, 16, .rw, 0xFA⟩]⟩
/-- FIRE_NOW, spec/07_position_fire_timing.md R331, offset 0x48, 64 bits. -/
def reg_FIRE_NOW : RegDef := ⟨"FIRE_NOW", 0x48, 0x0, 0, 1, 2,
   [⟨0, 64, .ro, 0⟩]⟩
/-- ENC_POS, spec/07_position_fire_timing.md R331, offset 0x100 + n × 0x80, 64 bits. -/
def reg_ENC_POS : RegDef := ⟨"ENC_POS", 0x100, 0x80, 0, 4, 2,
   [⟨0, 64, .ro, 0⟩]⟩
/-- ENC_HWM, spec/07_position_fire_timing.md R331, offset 0x108 + n × 0x80, 64 bits. -/
def reg_ENC_HWM : RegDef := ⟨"ENC_HWM", 0x108, 0x80, 0, 4, 2,
   [⟨0, 64, .ro, 0⟩]⟩
/-- ENC_SPEED, spec/07_position_fire_timing.md R331, offset 0x110 + n × 0x80, 64 bits. -/
def reg_ENC_SPEED : RegDef := ⟨"ENC_SPEED", 0x110, 0x80, 0, 4, 2,
   [⟨0, 64, .ro, 0⟩]⟩
/-- ENC_WEB_NM, spec/07_position_fire_timing.md R331, offset 0x118 + n × 0x80, 64 bits. -/
def reg_ENC_WEB_NM : RegDef := ⟨"ENC_WEB_NM", 0x118, 0x80, 0, 4, 2,
   [⟨0, 64, .ro, 0⟩]⟩
/-- ENC_STATUS, spec/07_position_fire_timing.md R331, offset 0x120 + n × 0x80, 32 bits. -/
def reg_ENC_STATUS : RegDef := ⟨"ENC_STATUS", 0x120, 0x80, 0, 4, 1,
   [⟨16, 16, .ro, 0⟩,
    ⟨10, 3, .ro, 0⟩,
    ⟨9, 1, .ro, 0⟩,
    ⟨8, 1, .ro, 0⟩,
    ⟨7, 1, .ro, 0⟩,
    ⟨6, 1, .ro, 0⟩,
    ⟨5, 1, .ro, 0⟩,
    ⟨4, 1, .ro, 1⟩,
    ⟨3, 1, .ro, 0⟩,
    ⟨0, 3, .ro, 7⟩]⟩
/-- ENC_LISSA_S, spec/07_position_fire_timing.md R331, offset 0x124 + n × 0x80, 32 bits. -/
def reg_ENC_LISSA_S : RegDef := ⟨"ENC_LISSA_S", 0x124, 0x80, 0, 4, 1,
   [⟨16, 16, .ro, 0⟩,
    ⟨0, 16, .ro, 0⟩]⟩
/-- ENC_LISSA_C, spec/07_position_fire_timing.md R331, offset 0x128 + n × 0x80, 32 bits. -/
def reg_ENC_LISSA_C : RegDef := ⟨"ENC_LISSA_C", 0x128, 0x80, 0, 4, 1,
   [⟨16, 16, .ro, 0⟩,
    ⟨0, 16, .ro, 0⟩]⟩
/-- ENC_CORR, spec/07_position_fire_timing.md R331, offset 0x12C + n × 0x80, 32 bits. -/
def reg_ENC_CORR : RegDef := ⟨"ENC_CORR", 0x12C, 0x80, 0, 4, 1,
   [⟨16, 16, .ro, 0⟩,
    ⟨0, 16, .ro, 0⟩]⟩
/-- ENC_GAIN, spec/07_position_fire_timing.md R331, offset 0x130 + n × 0x80, 32 bits. -/
def reg_ENC_GAIN : RegDef := ⟨"ENC_GAIN", 0x130, 0x80, 0, 4, 1,
   [⟨16, 16, .ro, 0⟩,
    ⟨0, 16, .ro, 0x4000⟩]⟩
/-- ENC_INDEX, spec/07_position_fire_timing.md R331, offset 0x134 + n × 0x80, 32 bits. -/
def reg_ENC_INDEX : RegDef := ⟨"ENC_INDEX", 0x134, 0x80, 0, 4, 1,
   [⟨0, 32, .ro, 0⟩]⟩
/-- ENC_IDX_ERR, spec/07_position_fire_timing.md R331, offset 0x138 + n × 0x80, 32 bits. -/
def reg_ENC_IDX_ERR : RegDef := ⟨"ENC_IDX_ERR", 0x138, 0x80, 0, 4, 1,
   [⟨0, 32, .sat, 0⟩]⟩
/-- ENC_REVERSALS, spec/07_position_fire_timing.md R331, offset 0x13C + n × 0x80, 32 bits. -/
def reg_ENC_REVERSALS : RegDef := ⟨"ENC_REVERSALS", 0x13C, 0x80, 0, 4, 1,
   [⟨0, 32, .sat, 0⟩]⟩
/-- ENC_DISCARDS, spec/07_position_fire_timing.md R331, offset 0x140 + n × 0x80, 32 bits. -/
def reg_ENC_DISCARDS : RegDef := ⟨"ENC_DISCARDS", 0x140, 0x80, 0, 4, 1,
   [⟨0, 32, .sat, 0⟩]⟩
/-- ENC_OVF, spec/07_position_fire_timing.md R331, offset 0x144 + n × 0x80, 32 bits. -/
def reg_ENC_OVF : RegDef := ⟨"ENC_OVF", 0x144, 0x80, 0, 4, 1,
   [⟨2, 1, .w1c, 0⟩,
    ⟨1, 1, .w1c, 0⟩,
    ⟨0, 1, .w1c, 0⟩]⟩
/-- SYN_STATE, spec/07_position_fire_timing.md R331, offset 0x400 + n × 0x40, 32 bits. -/
def reg_SYN_STATE : RegDef := ⟨"SYN_STATE", 0x400, 0x40, 0, 32, 1,
   [⟨16, 2, .ro, 0⟩,
    ⟨8, 8, .ro, 0⟩,
    ⟨5, 1, .ro, 0⟩,
    ⟨4, 1, .ro, 0⟩,
    ⟨0, 4, .ro, 0⟩]⟩
/-- SYN_NEXT, spec/07_position_fire_timing.md R331, offset 0x404 + n × 0x40, 32 bits. -/
def reg_SYN_NEXT : RegDef := ⟨"SYN_NEXT", 0x404, 0x40, 0, 32, 1,
   [⟨0, 32, .ro, 0⟩]⟩
/-- SYN_T, spec/07_position_fire_timing.md R331, offset 0x408 + n × 0x40, 64 bits. -/
def reg_SYN_T : RegDef := ⟨"SYN_T", 0x408, 0x40, 0, 32, 2,
   [⟨0, 64, .ro, 0⟩]⟩
/-- SYN_Q, spec/07_position_fire_timing.md R331, offset 0x410 + n × 0x40, 64 bits. -/
def reg_SYN_Q : RegDef := ⟨"SYN_Q", 0x410, 0x40, 0, 32, 2,
   [⟨0, 64, .ro, 0⟩]⟩
/-- SYN_DELAY, spec/07_position_fire_timing.md R331, offset 0x418 + n × 0x40, 32 bits. -/
def reg_SYN_DELAY : RegDef := ⟨"SYN_DELAY", 0x418, 0x40, 0, 32, 1,
   [⟨0, 32, .ro, 0⟩]⟩
/-- SYN_CAL_DELAY, spec/07_position_fire_timing.md R331, offset 0x41C + n × 0x40, 32 bits. -/
def reg_SYN_CAL_DELAY : RegDef := ⟨"SYN_CAL_DELAY", 0x41C, 0x40, 0, 32, 1,
   [⟨0, 32, .ro, 0⟩]⟩
/-- SYN_TOFS, spec/07_position_fire_timing.md R331, offset 0x420 + n × 0x40, 32 bits. -/
def reg_SYN_TOFS : RegDef := ⟨"SYN_TOFS", 0x420, 0x40, 0, 32, 1,
   [⟨0, 32, .ro, 0⟩]⟩
/-- SYN_FORCED, spec/07_position_fire_timing.md R331, offset 0x424 + n × 0x40, 32 bits. -/
def reg_SYN_FORCED : RegDef := ⟨"SYN_FORCED", 0x424, 0x40, 0, 32, 1,
   [⟨0, 32, .sat, 0⟩]⟩
/-- SYN_OVF, spec/07_position_fire_timing.md R331, offset 0x428 + n × 0x40, 32 bits. -/
def reg_SYN_OVF : RegDef := ⟨"SYN_OVF", 0x428, 0x40, 0, 32, 1,
   [⟨0, 1, .w1c, 0⟩]⟩
/-- CMP_CFG, spec/07_position_fire_timing.md R331, offset 0xC00 + n × 0x20, 32 bits. -/
def reg_CMP_CFG : RegDef := ⟨"CMP_CFG", 0xC00, 0x20, 0, 16, 1,
   [⟨8, 4, .ro, 0⟩,
    ⟨3, 1, .rw, 0⟩,
    ⟨2, 1, .rw, 0⟩,
    ⟨0, 2, .rw, 0⟩]⟩
/-- CMP_TARGET, spec/07_position_fire_timing.md R331, offset 0xC08 + n × 0x20, 64 bits. -/
def reg_CMP_TARGET : RegDef := ⟨"CMP_TARGET", 0xC08, 0x20, 0, 16, 2,
   [⟨0, 64, .ro, 0⟩]⟩
/-- CMP_PULSES, spec/07_position_fire_timing.md R331, offset 0xC10 + n × 0x20, 32 bits. -/
def reg_CMP_PULSES : RegDef := ⟨"CMP_PULSES", 0xC10, 0x20, 0, 16, 1,
   [⟨0, 32, .sat, 0⟩]⟩
/-- CMP_LATE, spec/07_position_fire_timing.md R331, offset 0xC14 + n × 0x20, 32 bits. -/
def reg_CMP_LATE : RegDef := ⟨"CMP_LATE", 0xC14, 0x20, 0, 16, 1,
   [⟨0, 32, .sat, 0⟩]⟩
/-- CMP_OVF, spec/07_position_fire_timing.md R331, offset 0xC18 + n × 0x20, 32 bits. -/
def reg_CMP_OVF : RegDef := ⟨"CMP_OVF", 0xC18, 0x20, 0, 16, 1,
   [⟨1, 1, .w1c, 0⟩,
    ⟨0, 1, .w1c, 0⟩]⟩
/-- LATCH_CFG, spec/07_position_fire_timing.md R331, offset 0xE00 + n × 0x10, 32 bits. -/
def reg_LATCH_CFG : RegDef := ⟨"LATCH_CFG", 0xE00, 0x10, 0, 8, 1,
   [⟨24, 8, .ro, 0⟩,
    ⟨16, 8, .rw, 0⟩,
    ⟨4, 1, .rw, 0⟩,
    ⟨2, 2, .rw, 0⟩,
    ⟨0, 2, .rw, 0⟩]⟩
/-- LATCH_LOST, spec/07_position_fire_timing.md R331, offset 0xE04 + n × 0x10, 32 bits. -/
def reg_LATCH_LOST : RegDef := ⟨"LATCH_LOST", 0xE04, 0x10, 0, 8, 1,
   [⟨0, 32, .sat, 0⟩]⟩
/-- LATCH_OVF, spec/07_position_fire_timing.md R331, offset 0xE08 + n × 0x10, 32 bits. -/
def reg_LATCH_OVF : RegDef := ⟨"LATCH_OVF", 0xE08, 0x10, 0, 8, 1,
   [⟨0, 1, .w1c, 0⟩]⟩
/-- DIV_CFG, spec/07_position_fire_timing.md R331, offset 0xF00 + n × 0x10, 32 bits. -/
def reg_DIV_CFG : RegDef := ⟨"DIV_CFG", 0xF00, 0x10, 0, 2, 1,
   [⟨2, 1, .rw, 0⟩,
    ⟨0, 2, .rw, 0⟩]⟩
/-- DIV_DIVISOR, spec/07_position_fire_timing.md R331, offset 0xF04 + n × 0x10, 32 bits. -/
def reg_DIV_DIVISOR : RegDef := ⟨"DIV_DIVISOR", 0xF04, 0x10, 0, 2, 1,
   [⟨0, 32, .ro, 0⟩]⟩
/-- DIV_OVERRUN, spec/07_position_fire_timing.md R331, offset 0xF08 + n × 0x10, 32 bits. -/
def reg_DIV_OVERRUN : RegDef := ⟨"DIV_OVERRUN", 0xF08, 0x10, 0, 2, 1,
   [⟨0, 32, .sat, 0⟩]⟩
/-- DIV_OVF, spec/07_position_fire_timing.md R331, offset 0xF0C + n × 0x10, 32 bits. -/
def reg_DIV_OVF : RegDef := ⟨"DIV_OVF", 0xF0C, 0x10, 0, 2, 1,
   [⟨0, 1, .w1c, 0⟩]⟩
/-- The registers of a node of the group `fire`, in the order of their captions. -/
def regs_fire : List RegDef :=
  [reg_FIRE_CFG,
   reg_FIRE_NOW,
   reg_ENC_POS,
   reg_ENC_HWM,
   reg_ENC_SPEED,
   reg_ENC_WEB_NM,
   reg_ENC_STATUS,
   reg_ENC_LISSA_S,
   reg_ENC_LISSA_C,
   reg_ENC_CORR,
   reg_ENC_GAIN,
   reg_ENC_INDEX,
   reg_ENC_IDX_ERR,
   reg_ENC_REVERSALS,
   reg_ENC_DISCARDS,
   reg_ENC_OVF,
   reg_SYN_STATE,
   reg_SYN_NEXT,
   reg_SYN_T,
   reg_SYN_Q,
   reg_SYN_DELAY,
   reg_SYN_CAL_DELAY,
   reg_SYN_TOFS,
   reg_SYN_FORCED,
   reg_SYN_OVF,
   reg_CMP_CFG,
   reg_CMP_TARGET,
   reg_CMP_PULSES,
   reg_CMP_LATE,
   reg_CMP_OVF,
   reg_LATCH_CFG,
   reg_LATCH_LOST,
   reg_LATCH_OVF,
   reg_DIV_CFG,
   reg_DIV_DIVISOR,
   reg_DIV_OVERRUN,
   reg_DIV_OVF]

/-- INSP_CFG, spec/08_inspection_calibration.md R384, offset 0x40, 32 bits. -/
def reg_INSP_CFG : RegDef := ⟨"INSP_CFG", 0x40, 0x0, 0, 1, 1,
   [⟨16, 8, .rw, 8⟩,
    ⟨8, 4, .rw, 0⟩,
    ⟨2, 1, .rw, 0⟩,
    ⟨1, 1, .rw, 0⟩,
    ⟨0, 1, .rw, 0⟩]⟩
/-- INSP_REJ_WIDTH, spec/08_inspection_calibration.md R384, offset 0x44, 32 bits. -/
def reg_INSP_REJ_WIDTH : RegDef := ⟨"INSP_REJ_WIDTH", 0x44, 0x0, 0, 1, 1,
   [⟨0, 32, .rw, 0x3E8⟩]⟩
/-- INSP_REJ_DIST, spec/08_inspection_calibration.md R384, offset 0x48, 64 bits. -/
def reg_INSP_REJ_DIST : RegDef := ⟨"INSP_REJ_DIST", 0x48, 0x0, 0, 1, 2,
   [⟨0, 64, .rw, 0⟩]⟩
/-- INSP_REGION, spec/08_inspection_calibration.md R384, offset 0x50, 64 bits. -/
def reg_INSP_REGION : RegDef := ⟨"INSP_REGION", 0x50, 0x0, 0, 1, 2,
   [⟨16, 20, .rw, 0⟩]⟩
/-- INSP_LOAD, spec/08_inspection_calibration.md R384, offset 0x58, 32 bits. -/
def reg_INSP_LOAD : RegDef := ⟨"INSP_LOAD", 0x58, 0x0, 0, 1, 1,
   [⟨0, 32, .ro, 0⟩]⟩
/-- INSP_FRAMES, spec/08_inspection_calibration.md R384, offset 0x60, 64 bits. -/
def reg_INSP_FRAMES : RegDef := ⟨"INSP_FRAMES", 0x60, 0x0, 0, 1, 2,
   [⟨0, 64, .sat, 0⟩]⟩
/-- INSP_LOST, spec/08_inspection_calibration.md R384, offset 0x68, 32 bits. -/
def reg_INSP_LOST : RegDef := ⟨"INSP_LOST", 0x68, 0x0, 0, 1, 1,
   [⟨24, 8, .sat, 0⟩,
    ⟨16, 8, .sat, 0⟩,
    ⟨8, 8, .sat, 0⟩,
    ⟨0, 8, .sat, 0⟩]⟩
/-- INSP_OVF, spec/08_inspection_calibration.md R384, offset 0x6C, 32 bits. -/
def reg_INSP_OVF : RegDef := ⟨"INSP_OVF", 0x6C, 0x0, 0, 1, 1,
   [⟨4, 1, .w1c, 0⟩,
    ⟨3, 1, .w1c, 0⟩,
    ⟨2, 1, .w1c, 0⟩,
    ⟨1, 1, .w1c, 0⟩,
    ⟨0, 1, .w1c, 0⟩]⟩
/-- The registers of a node of the group `insp`, in the order of their captions. -/
def regs_insp : List RegDef :=
  [reg_INSP_CFG,
   reg_INSP_REJ_WIDTH,
   reg_INSP_REJ_DIST,
   reg_INSP_REGION,
   reg_INSP_LOAD,
   reg_INSP_FRAMES,
   reg_INSP_LOST,
   reg_INSP_OVF]

/-- CAM_SET, spec/08_inspection_calibration.md R385, offset 0x100, 512 bits. -/
def reg_CAM_SET : RegDef := ⟨"CAM_SET", 0x100, 0x0, 0, 1, 16,
   [⟨0, 16, .sh, 0⟩,
    ⟨16, 16, .sh, 0⟩,
    ⟨32, 8, .sh, 0⟩,
    ⟨40, 8, .sh, 0⟩,
    ⟨48, 8, .sh, 0⟩,
    ⟨56, 1, .sh, 0⟩,
    ⟨57, 1, .sh, 0⟩,
    ⟨64, 32, .sh, 0⟩,
    ⟨96, 32, .sh, 0⟩,
    ⟨128, 32, .sh, 0⟩,
    ⟨160, 32, .sh, 0⟩,
    ⟨192, 32, .sh, 0⟩,
    ⟨224, 16, .sh, 0⟩]⟩
/-- CAM_CTRL, spec/08_inspection_calibration.md R386, offset 0x140, 32 bits. -/
def reg_CAM_CTRL : RegDef := ⟨"CAM_CTRL", 0x140, 0x0, 0, 1, 1,
   [⟨8, 8, .rw, 0⟩,
    ⟨0, 1, .w1s, 0⟩]⟩
/-- CAM_STATE, spec/08_inspection_calibration.md R386, offset 0x144, 32 bits. -/
def reg_CAM_STATE : RegDef := ⟨"CAM_STATE", 0x144, 0x0, 0, 1, 1,
   [⟨16, 16, .ro, 0⟩,
    ⟨8, 8, .ro, 0⟩,
    ⟨1, 1, .ro, 0⟩,
    ⟨0, 1, .ro, 0⟩]⟩
/-- CAM_FRAME, spec/08_inspection_calibration.md R386, offset 0x148, 64 bits. -/
def reg_CAM_FRAME : RegDef := ⟨"CAM_FRAME", 0x148, 0x0, 0, 1, 2,
   [⟨0, 48, .ro, 0⟩]⟩
/-- CAM_DXY, spec/08_inspection_calibration.md R386, offset 0x150, 32 bits. -/
def reg_CAM_DXY : RegDef := ⟨"CAM_DXY", 0x150, 0x0, 0, 1, 1,
   [⟨16, 16, .ro, 0⟩,
    ⟨0, 16, .ro, 0⟩]⟩
/-- CAM_REG_CFG, spec/08_inspection_calibration.md R386, offset 0x154, 32 bits. -/
def reg_CAM_REG_CFG : RegDef := ⟨"CAM_REG_CFG", 0x154, 0x0, 0, 1, 1,
   [⟨16, 16, .rw, 0x400⟩,
    ⟨8, 8, .rw, 0x10⟩]⟩
/-- CAM_REG_MIN, spec/08_inspection_calibration.md R386, offset 0x158, 32 bits. -/
def reg_CAM_REG_MIN : RegDef := ⟨"CAM_REG_MIN", 0x158, 0x0, 0, 1, 1,
   [⟨0, 32, .rw, 0x100⟩]⟩
/-- CAM_LINES, spec/08_inspection_calibration.md R386, offset 0x160, 64 bits. -/
def reg_CAM_LINES : RegDef := ⟨"CAM_LINES", 0x160, 0x0, 0, 1, 2,
   [⟨0, 64, .sat, 0⟩]⟩
/-- CAM_CRC, spec/08_inspection_calibration.md R386, offset 0x168, 32 bits. -/
def reg_CAM_CRC : RegDef := ⟨"CAM_CRC", 0x168, 0x0, 0, 1, 1,
   [⟨0, 32, .sat, 0⟩]⟩
/-- CAM_RESENT, spec/08_inspection_calibration.md R386, offset 0x16C, 32 bits. -/
def reg_CAM_RESENT : RegDef := ⟨"CAM_RESENT", 0x16C, 0x0, 0, 1, 1,
   [⟨0, 32, .sat, 0⟩]⟩
/-- CAM_ERR, spec/08_inspection_calibration.md R386, offset 0x170, 32 bits. -/
def reg_CAM_ERR : RegDef := ⟨"CAM_ERR", 0x170, 0x0, 0, 1, 1,
   [⟨24, 8, .sat, 0⟩,
    ⟨16, 8, .sat, 0⟩,
    ⟨8, 8, .sat, 0⟩,
    ⟨0, 8, .sat, 0⟩]⟩
/-- CAM_OVF, spec/08_inspection_calibration.md R386, offset 0x174, 32 bits. -/
def reg_CAM_OVF : RegDef := ⟨"CAM_OVF", 0x174, 0x0, 0, 1, 1,
   [⟨6, 1, .w1c, 0⟩,
    ⟨5, 1, .w1c, 0⟩,
    ⟨4, 1, .w1c, 0⟩,
    ⟨3, 1, .w1c, 0⟩,
    ⟨2, 1, .w1c, 0⟩,
    ⟨1, 1, .w1c, 0⟩,
    ⟨0, 1, .w1c, 0⟩]⟩
/-- The registers of a node of the group `cam`, in the order of their captions. -/
def regs_cam : List RegDef :=
  [reg_CAM_SET,
   reg_CAM_CTRL,
   reg_CAM_STATE,
   reg_CAM_FRAME,
   reg_CAM_DXY,
   reg_CAM_REG_CFG,
   reg_CAM_REG_MIN,
   reg_CAM_LINES,
   reg_CAM_CRC,
   reg_CAM_RESENT,
   reg_CAM_ERR,
   reg_CAM_OVF]

/-- CAL_CFG, spec/08_inspection_calibration.md R387, offset 0x40, 32 bits. -/
def reg_CAL_CFG : RegDef := ⟨"CAL_CFG", 0x40, 0x0, 0, 1, 1,
   [⟨16, 5, .rw, 0x10⟩,
    ⟨8, 2, .ro, 1⟩,
    ⟨0, 8, .rw, 0⟩]⟩
/-- CAL_REGION, spec/08_inspection_calibration.md R387, offset 0x48, 64 bits. -/
def reg_CAL_REGION : RegDef := ⟨"CAL_REGION", 0x48, 0x0, 0, 1, 2,
   [⟨16, 20, .rw, 0⟩]⟩
/-- CAL_DENS, spec/08_inspection_calibration.md R387, offset 0x50, 32 bits. -/
def reg_CAL_DENS : RegDef := ⟨"CAL_DENS", 0x50, 0x0, 0, 1, 1,
   [⟨16, 16, .rw, 0x7AE⟩,
    ⟨0, 16, .rw, 0x106⟩]⟩
/-- CAL_DENS2, spec/08_inspection_calibration.md R387, offset 0x54, 32 bits. -/
def reg_CAL_DENS2 : RegDef := ⟨"CAL_DENS2", 0x54, 0x0, 0, 1, 1,
   [⟨24, 8, .rw, 0x10⟩,
    ⟨16, 8, .rw, 0x10⟩,
    ⟨0, 16, .rw, 0x2000⟩]⟩
/-- CAL_MIN, spec/08_inspection_calibration.md R387, offset 0x58, 32 bits. -/
def reg_CAL_MIN : RegDef := ⟨"CAL_MIN", 0x58, 0x0, 0, 1, 1,
   [⟨16, 16, .rw, 0x100⟩,
    ⟨0, 16, .rw, 0x1000⟩]⟩
/-- CAL_ROW, spec/08_inspection_calibration.md R387, offset 0x5C, 32 bits. -/
def reg_CAL_ROW : RegDef := ⟨"CAL_ROW", 0x5C, 0x0, 0, 1, 1,
   [⟨16, 16, .rw, 0x200⟩,
    ⟨8, 8, .rw, 0x20⟩,
    ⟨0, 8, .rw, 4⟩]⟩
/-- CAL_ANCHOR_CFG, spec/08_inspection_calibration.md R387, offset 0x60, 32 bits. -/
def reg_CAL_ANCHOR_CFG : RegDef := ⟨"CAL_ANCHOR_CFG", 0x60, 0x0, 0, 1, 1,
   [⟨0, 16, .rw, 0x400⟩]⟩
/-- CAL_WINDOW, spec/08_inspection_calibration.md R387, offset 0x68, 64 bits. -/
def reg_CAL_WINDOW : RegDef := ⟨"CAL_WINDOW", 0x68, 0x0, 0, 1, 2,
   [⟨0, 64, .ro, 0⟩]⟩
/-- CAL_ANCHOR, spec/08_inspection_calibration.md R387, offset 0x80 + n × 0x4, 32 bits. -/
def reg_CAL_ANCHOR : RegDef := ⟨"CAL_ANCHOR", 0x80, 0x4, 0, 8, 1,
   [⟨0, 16, .ro, 0⟩]⟩
/-- CAL_ACCEPTED, spec/08_inspection_calibration.md R387, offset 0xA0, 32 bits. -/
def reg_CAL_ACCEPTED : RegDef := ⟨"CAL_ACCEPTED", 0xA0, 0x0, 0, 1, 1,
   [⟨0, 32, .sat, 0⟩]⟩
/-- CAL_DISAGREED, spec/08_inspection_calibration.md R387, offset 0xA4, 32 bits. -/
def reg_CAL_DISAGREED : RegDef := ⟨"CAL_DISAGREED", 0xA4, 0x0, 0, 1, 1,
   [⟨0, 32, .sat, 0⟩]⟩
/-- CAL_APPLIED, spec/08_inspection_calibration.md R387, offset 0xA8, 32 bits. -/
def reg_CAL_APPLIED : RegDef := ⟨"CAL_APPLIED", 0xA8, 0x0, 0, 1, 1,
   [⟨0, 32, .sat, 0⟩]⟩
/-- CAL_PROP_LOST, spec/08_inspection_calibration.md R387, offset 0xAC, 32 bits. -/
def reg_CAL_PROP_LOST : RegDef := ⟨"CAL_PROP_LOST", 0xAC, 0x0, 0, 1, 1,
   [⟨0, 32, .sat, 0⟩]⟩
/-- CAL_OVF, spec/08_inspection_calibration.md R387, offset 0xB0, 32 bits. -/
def reg_CAL_OVF : RegDef := ⟨"CAL_OVF", 0xB0, 0x0, 0, 1, 1,
   [⟨3, 1, .w1c, 0⟩,
    ⟨2, 1, .w1c, 0⟩,
    ⟨1, 1, .w1c, 0⟩,
    ⟨0, 1, .w1c, 0⟩]⟩
/-- The registers of a node of the group `cal`, in the order of their captions. -/
def regs_cal : List RegDef :=
  [reg_CAL_CFG,
   reg_CAL_REGION,
   reg_CAL_DENS,
   reg_CAL_DENS2,
   reg_CAL_MIN,
   reg_CAL_ROW,
   reg_CAL_ANCHOR_CFG,
   reg_CAL_WINDOW,
   reg_CAL_ANCHOR,
   reg_CAL_ACCEPTED,
   reg_CAL_DISAGREED,
   reg_CAL_APPLIED,
   reg_CAL_PROP_LOST,
   reg_CAL_OVF]

/-- MEM_CFG, spec/09_memory_protection.md R434, offset 0x40, 32 bits. -/
def reg_MEM_CFG : RegDef := ⟨"MEM_CFG", 0x40, 0x0, 0, 1, 1,
   [⟨24, 8, .rw, 0x18⟩,
    ⟨16, 8, .rw, 0⟩,
    ⟨8, 5, .rw, 0xB⟩,
    ⟨0, 7, .rw, 0x10⟩]⟩
/-- MEM_HOST_RATE, spec/09_memory_protection.md R434, offset 0x44, 32 bits. -/
def reg_MEM_HOST_RATE : RegDef := ⟨"MEM_HOST_RATE", 0x44, 0x0, 0, 1, 1,
   [⟨16, 8, .rw, 4⟩,
    ⟨0, 8, .rw, 0x18⟩]⟩
/-- MEM_STOP_CFG, spec/09_memory_protection.md R434, offset 0x48, 32 bits. -/
def reg_MEM_STOP_CFG : RegDef := ⟨"MEM_STOP_CFG", 0x48, 0x0, 0, 1, 1,
   [⟨0, 16, .rw, 0⟩]⟩
/-- MEM_STATE, spec/09_memory_protection.md R434, offset 0x4C, 32 bits. -/
def reg_MEM_STATE : RegDef := ⟨"MEM_STATE", 0x4C, 0x0, 0, 1, 1,
   [⟨16, 1, .ro, 0⟩,
    ⟨12, 4, .ro, 0⟩,
    ⟨8, 4, .ro, 0⟩,
    ⟨4, 4, .ro, 0⟩,
    ⟨0, 4, .ro, 0⟩]⟩
/-- MEM_CLS0_WORST, spec/09_memory_protection.md R434, offset 0x50, 32 bits. -/
def reg_MEM_CLS0_WORST : RegDef := ⟨"MEM_CLS0_WORST", 0x50, 0x0, 0, 1, 1,
   [⟨0, 32, .rc, 0⟩]⟩
/-- MEM_RETIRED, spec/09_memory_protection.md R434, offset 0x54, 32 bits. -/
def reg_MEM_RETIRED : RegDef := ⟨"MEM_RETIRED", 0x54, 0x0, 0, 1, 1,
   [⟨0, 13, .ro, 0⟩]⟩
/-- MEM_CE, spec/09_memory_protection.md R434, offset 0x58, 64 bits. -/
def reg_MEM_CE : RegDef := ⟨"MEM_CE", 0x58, 0x0, 0, 1, 2,
   [⟨0, 64, .sat, 0⟩]⟩
/-- MEM_NR, spec/09_memory_protection.md R434, offset 0x60, 64 bits. -/
def reg_MEM_NR : RegDef := ⟨"MEM_NR", 0x60, 0x0, 0, 1, 2,
   [⟨0, 64, .sat, 0⟩]⟩
/-- MEM_UE, spec/09_memory_protection.md R434, offset 0x68, 32 bits. -/
def reg_MEM_UE : RegDef := ⟨"MEM_UE", 0x68, 0x0, 0, 1, 1,
   [⟨0, 32, .sat, 0⟩]⟩
/-- MEM_POISON_USE, spec/09_memory_protection.md R434, offset 0x6C, 32 bits. -/
def reg_MEM_POISON_USE : RegDef := ⟨"MEM_POISON_USE", 0x6C, 0x0, 0, 1, 1,
   [⟨0, 32, .sat, 0⟩]⟩
/-- MEM_PROMOTED, spec/09_memory_protection.md R434, offset 0x70, 32 bits. -/
def reg_MEM_PROMOTED : RegDef := ⟨"MEM_PROMOTED", 0x70, 0x0, 0, 1, 1,
   [⟨0, 32, .sat, 0⟩]⟩
/-- MEM_UNDERRUN, spec/09_memory_protection.md R434, offset 0x74, 32 bits. -/
def reg_MEM_UNDERRUN : RegDef := ⟨"MEM_UNDERRUN", 0x74, 0x0, 0, 1, 1,
   [⟨0, 32, .sat, 0⟩]⟩
/-- MEM_LOG_LOST, spec/09_memory_protection.md R434, offset 0x78, 32 bits. -/
def reg_MEM_LOG_LOST : RegDef := ⟨"MEM_LOG_LOST", 0x78, 0x0, 0, 1, 1,
   [⟨0, 32, .sat, 0⟩]⟩
/-- MEM_OVF, spec/09_memory_protection.md R434, offset 0x7C, 32 bits. -/
def reg_MEM_OVF : RegDef := ⟨"MEM_OVF", 0x7C, 0x0, 0, 1, 1,
   [⟨6, 1, .w1c, 0⟩,
    ⟨5, 1, .w1c, 0⟩,
    ⟨4, 1, .w1c, 0⟩,
    ⟨3, 1, .w1c, 0⟩,
    ⟨2, 1, .w1c, 0⟩,
    ⟨1, 1, .w1c, 0⟩,
    ⟨0, 1, .w1c, 0⟩]⟩
/-- MEM_TEST, spec/09_memory_protection.md R434, offset 0x80, 32 bits. -/
def reg_MEM_TEST : RegDef := ⟨"MEM_TEST", 0x80, 0x0, 0, 1, 1,
   [⟨16, 2, .rw, 0⟩,
    ⟨8, 2, .rw, 0⟩,
    ⟨0, 1, .rw, 0⟩]⟩
/-- GRAN_CFG, spec/09_memory_protection.md R434, offset 0x90, 32 bits. -/
def reg_GRAN_CFG : RegDef := ⟨"GRAN_CFG", 0x90, 0x0, 0, 1, 1,
   [⟨8, 8, .rw, 0x3C⟩,
    ⟨0, 1, .rw, 1⟩]⟩
/-- GRAN_STATE, spec/09_memory_protection.md R434, offset 0x94, 32 bits. -/
def reg_GRAN_STATE : RegDef := ⟨"GRAN_STATE", 0x94, 0x0, 0, 1, 1,
   [⟨8, 6, .ro, 0x3F⟩,
    ⟨7, 1, .ro, 0⟩,
    ⟨6, 1, .ro, 0⟩,
    ⟨0, 6, .ro, 0x30⟩]⟩
/-- GRAN_PARITY, spec/09_memory_protection.md R434, offset 0x98, 32 bits. -/
def reg_GRAN_PARITY : RegDef := ⟨"GRAN_PARITY", 0x98, 0x0, 0, 1, 1,
   [⟨0, 32, .sat, 0⟩]⟩
/-- GRAN_REPLAY_FAIL, spec/09_memory_protection.md R434, offset 0x9C, 32 bits. -/
def reg_GRAN_REPLAY_FAIL : RegDef := ⟨"GRAN_REPLAY_FAIL", 0x9C, 0x0, 0, 1, 1,
   [⟨0, 32, .sat, 0⟩]⟩
/-- GRAN_OVF, spec/09_memory_protection.md R434, offset 0xA0, 32 bits. -/
def reg_GRAN_OVF : RegDef := ⟨"GRAN_OVF", 0xA0, 0x0, 0, 1, 1,
   [⟨1, 1, .w1c, 0⟩,
    ⟨0, 1, .w1c, 0⟩]⟩
/-- MEM_CH_CFG, spec/09_memory_protection.md R434, offset 0x100 + n × 0x20, 32 bits. -/
def reg_MEM_CH_CFG : RegDef := ⟨"MEM_CH_CFG", 0x100, 0x20, 0, 4, 1,
   [⟨16, 9, .ro, 0⟩,
    ⟨8, 8, .ro, 0⟩,
    ⟨1, 1, .ro, 0⟩,
    ⟨0, 1, .ro, 0⟩]⟩
/-- MEM_CH_STATUS, spec/09_memory_protection.md R434, offset 0x104 + n × 0x20, 32 bits. -/
def reg_MEM_CH_STATUS : RegDef := ⟨"MEM_CH_STATUS", 0x104, 0x20, 0, 4, 1,
   [⟨3, 6, .ro, 0⟩,
    ⟨2, 1, .ro, 0⟩,
    ⟨1, 1, .ro, 0⟩,
    ⟨0, 1, .ro, 0⟩]⟩
/-- MEM_CH_EYE, spec/09_memory_protection.md R434, offset 0x108 + n × 0x20, 32 bits. -/
def reg_MEM_CH_EYE : RegDef := ⟨"MEM_CH_EYE", 0x108, 0x20, 0, 4, 1,
   [⟨16, 16, .ro, 0⟩,
    ⟨0, 16, .ro, 0⟩]⟩
/-- The registers of a node of the group `mem`, in the order of their captions. -/
def regs_mem : List RegDef :=
  [reg_MEM_CFG,
   reg_MEM_HOST_RATE,
   reg_MEM_STOP_CFG,
   reg_MEM_STATE,
   reg_MEM_CLS0_WORST,
   reg_MEM_RETIRED,
   reg_MEM_CE,
   reg_MEM_NR,
   reg_MEM_UE,
   reg_MEM_POISON_USE,
   reg_MEM_PROMOTED,
   reg_MEM_UNDERRUN,
   reg_MEM_LOG_LOST,
   reg_MEM_OVF,
   reg_MEM_TEST,
   reg_GRAN_CFG,
   reg_GRAN_STATE,
   reg_GRAN_PARITY,
   reg_GRAN_REPLAY_FAIL,
   reg_GRAN_OVF,
   reg_MEM_CH_CFG,
   reg_MEM_CH_STATUS,
   reg_MEM_CH_EYE]

/-- TIME_PTP, spec/10_time_network.md R466, offset 0x40, 32 bits. -/
def reg_TIME_PTP : RegDef := ⟨"TIME_PTP", 0x40, 0x0, 0, 1, 1,
   [⟨18, 1, .ro, 0⟩,
    ⟨17, 1, .ro, 0⟩,
    ⟨16, 1, .ro, 0⟩,
    ⟨8, 8, .ro, 0⟩,
    ⟨2, 2, .ro, 0⟩,
    ⟨0, 2, .ro, 0⟩]⟩
/-- TB_STATE, spec/10_time_network.md R466, offset 0x100 + n × 0x20, 32 bits. -/
def reg_TB_STATE : RegDef := ⟨"TB_STATE", 0x100, 0x20, 0, 4, 1,
   [⟨16, 16, .ro, 0⟩,
    ⟨3, 1, .ro, 0⟩,
    ⟨2, 1, .ro, 0⟩,
    ⟨0, 2, .ro, 0⟩]⟩
/-- TB_RATE, spec/10_time_network.md R466, offset 0x104 + n × 0x20, 32 bits. -/
def reg_TB_RATE : RegDef := ⟨"TB_RATE", 0x104, 0x20, 0, 4, 1,
   [⟨0, 32, .rw, 0⟩]⟩
/-- TB_SET_SEC, spec/10_time_network.md R466, offset 0x108 + n × 0x20, 64 bits. -/
def reg_TB_SET_SEC : RegDef := ⟨"TB_SET_SEC", 0x108, 0x20, 0, 4, 2,
   [⟨0, 48, .rw, 0⟩]⟩
/-- TB_SET_NS, spec/10_time_network.md R466, offset 0x110 + n × 0x20, 32 bits. -/
def reg_TB_SET_NS : RegDef := ⟨"TB_SET_NS", 0x110, 0x20, 0, 4, 1,
   [⟨0, 32, .rw, 0⟩]⟩
/-- TB_CTRL, spec/10_time_network.md R466, offset 0x114 + n × 0x20, 32 bits. -/
def reg_TB_CTRL : RegDef := ⟨"TB_CTRL", 0x114, 0x20, 0, 4, 1,
   [⟨0, 1, .w1s, 0⟩]⟩
/-- TB_OFFSET, spec/10_time_network.md R466, offset 0x118 + n × 0x20, 32 bits. -/
def reg_TB_OFFSET : RegDef := ⟨"TB_OFFSET", 0x118, 0x20, 0, 4, 1,
   [⟨0, 32, .ro, 0⟩]⟩
/-- TB_STEPS, spec/10_time_network.md R466, offset 0x11C + n × 0x20, 32 bits. -/
def reg_TB_STEPS : RegDef := ⟨"TB_STEPS", 0x11C, 0x20, 0, 4, 1,
   [⟨31, 1, .w1c, 0⟩,
    ⟨0, 31, .sat, 0⟩]⟩
/-- ETH_MAC, spec/10_time_network.md R466, offset 0x200 + n × 0x80, 64 bits. -/
def reg_ETH_MAC : RegDef := ⟨"ETH_MAC", 0x200, 0x80, 0, 2, 2,
   [⟨0, 48, .ro, 0⟩]⟩
/-- ETH_TS_CORR, spec/10_time_network.md R466, offset 0x208 + n × 0x80, 32 bits. -/
def reg_ETH_TS_CORR : RegDef := ⟨"ETH_TS_CORR", 0x208, 0x80, 0, 2, 1,
   [⟨16, 16, .rw, 0⟩,
    ⟨0, 16, .rw, 0⟩]⟩
/-- ETH_ASYM, spec/10_time_network.md R466, offset 0x20C + n × 0x80, 32 bits. -/
def reg_ETH_ASYM : RegDef := ⟨"ETH_ASYM", 0x20C, 0x80, 0, 2, 1,
   [⟨0, 32, .rw, 0⟩]⟩
/-- ETH_STATE, spec/10_time_network.md R466, offset 0x210 + n × 0x80, 32 bits. -/
def reg_ETH_STATE : RegDef := ⟨"ETH_STATE", 0x210, 0x80, 0, 2, 1,
   [⟨4, 1, .ro, 0⟩,
    ⟨0, 4, .ro, 3⟩]⟩
/-- ETH_MPD, spec/10_time_network.md R466, offset 0x214 + n × 0x80, 32 bits. -/
def reg_ETH_MPD : RegDef := ⟨"ETH_MPD", 0x214, 0x80, 0, 2, 1,
   [⟨0, 32, .ro, 0⟩]⟩
/-- ETH_RX_PTP, spec/10_time_network.md R466, offset 0x218 + n × 0x80, 32 bits. -/
def reg_ETH_RX_PTP : RegDef := ⟨"ETH_RX_PTP", 0x218, 0x80, 0, 2, 1,
   [⟨0, 32, .sat, 0⟩]⟩
/-- ETH_TX_PTP, spec/10_time_network.md R466, offset 0x21C + n × 0x80, 32 bits. -/
def reg_ETH_TX_PTP : RegDef := ⟨"ETH_TX_PTP", 0x21C, 0x80, 0, 2, 1,
   [⟨0, 32, .sat, 0⟩]⟩
/-- ETH_DISCARD, spec/10_time_network.md R466, offset 0x220 + n × 0x80, 32 bits. -/
def reg_ETH_DISCARD : RegDef := ⟨"ETH_DISCARD", 0x220, 0x80, 0, 2, 1,
   [⟨0, 32, .sat, 0⟩]⟩
/-- ETH_OUTLIER, spec/10_time_network.md R466, offset 0x224 + n × 0x80, 32 bits. -/
def reg_ETH_OUTLIER : RegDef := ⟨"ETH_OUTLIER", 0x224, 0x80, 0, 2, 1,
   [⟨0, 32, .sat, 0⟩]⟩
/-- ETH_OVF, spec/10_time_network.md R466, offset 0x228 + n × 0x80, 32 bits. -/
def reg_ETH_OVF : RegDef := ⟨"ETH_OVF", 0x228, 0x80, 0, 2, 1,
   [⟨3, 1, .w1c, 0⟩,
    ⟨2, 1, .w1c, 0⟩,
    ⟨1, 1, .w1c, 0⟩,
    ⟨0, 1, .w1c, 0⟩]⟩
/-- PLS_CFG, spec/10_time_network.md R466, offset 0x400 + n × 0x10, 32 bits. -/
def reg_PLS_CFG : RegDef := ⟨"PLS_CFG", 0x400, 0x10, 0, 8, 1,
   [⟨6, 1, .ro, 0⟩,
    ⟨4, 2, .ro, 0⟩,
    ⟨3, 1, .rw, 0⟩,
    ⟨2, 1, .rw, 0⟩,
    ⟨1, 1, .rw, 0⟩]⟩
/-- PLS_COUNT, spec/10_time_network.md R466, offset 0x404 + n × 0x10, 32 bits. -/
def reg_PLS_COUNT : RegDef := ⟨"PLS_COUNT", 0x404, 0x10, 0, 8, 1,
   [⟨0, 32, .sat, 0⟩]⟩
/-- PLS_SKIP, spec/10_time_network.md R466, offset 0x408 + n × 0x10, 32 bits. -/
def reg_PLS_SKIP : RegDef := ⟨"PLS_SKIP", 0x408, 0x10, 0, 8, 1,
   [⟨0, 32, .sat, 0⟩]⟩
/-- PLS_OVF, spec/10_time_network.md R466, offset 0x40C + n × 0x10, 32 bits. -/
def reg_PLS_OVF : RegDef := ⟨"PLS_OVF", 0x40C, 0x10, 0, 8, 1,
   [⟨1, 1, .w1c, 0⟩,
    ⟨0, 1, .w1c, 0⟩]⟩
/-- The registers of a node of the group `time`, in the order of their captions. -/
def regs_time : List RegDef :=
  [reg_TIME_PTP,
   reg_TB_STATE,
   reg_TB_RATE,
   reg_TB_SET_SEC,
   reg_TB_SET_NS,
   reg_TB_CTRL,
   reg_TB_OFFSET,
   reg_TB_STEPS,
   reg_ETH_MAC,
   reg_ETH_TS_CORR,
   reg_ETH_ASYM,
   reg_ETH_STATE,
   reg_ETH_MPD,
   reg_ETH_RX_PTP,
   reg_ETH_TX_PTP,
   reg_ETH_DISCARD,
   reg_ETH_OUTLIER,
   reg_ETH_OVF,
   reg_PLS_CFG,
   reg_PLS_COUNT,
   reg_PLS_SKIP,
   reg_PLS_OVF]

/-- AX_STATUS, spec/11_motion.md R490, offset 0x40, 32 bits. -/
def reg_AX_STATUS : RegDef := ⟨"AX_STATUS", 0x40, 0x0, 0, 1, 1,
   [⟨24, 4, .ro, 0⟩,
    ⟨8, 1, .ro, 0⟩,
    ⟨7, 1, .ro, 0⟩,
    ⟨6, 1, .ro, 0⟩,
    ⟨5, 1, .ro, 0⟩,
    ⟨4, 1, .ro, 0⟩,
    ⟨3, 1, .ro, 0⟩,
    ⟨2, 1, .ro, 0⟩,
    ⟨1, 1, .ro, 0⟩,
    ⟨0, 1, .ro, 0⟩]⟩
/-- AX_POS, spec/11_motion.md R490, offset 0x44, 32 bits. -/
def reg_AX_POS : RegDef := ⟨"AX_POS", 0x44, 0x0, 0, 1, 1,
   [⟨0, 32, .ro, 0⟩]⟩
/-- AX_RATE, spec/11_motion.md R490, offset 0x48, 32 bits. -/
def reg_AX_RATE : RegDef := ⟨"AX_RATE", 0x48, 0x0, 0, 1, 1,
   [⟨0, 32, .ro, 0⟩]⟩
/-- AX_ACCEL, spec/11_motion.md R490, offset 0x4C, 32 bits. -/
def reg_AX_ACCEL : RegDef := ⟨"AX_ACCEL", 0x4C, 0x0, 0, 1, 1,
   [⟨0, 32, .rw, 0⟩]⟩
/-- AX_DECEL, spec/11_motion.md R490, offset 0x50, 32 bits. -/
def reg_AX_DECEL : RegDef := ⟨"AX_DECEL", 0x50, 0x0, 0, 1, 1,
   [⟨0, 32, .rw, 0⟩]⟩
/-- AX_CHOP, spec/11_motion.md R490, offset 0x54, 32 bits. -/
def reg_AX_CHOP : RegDef := ⟨"AX_CHOP", 0x54, 0x0, 0, 1, 1,
   [⟨16, 16, .ro, 0⟩,
    ⟨0, 16, .ro, 0⟩]⟩
/-- AX_INPUTS, spec/11_motion.md R490, offset 0x58, 32 bits. -/
def reg_AX_INPUTS : RegDef := ⟨"AX_INPUTS", 0x58, 0x0, 0, 1, 1,
   [⟨8, 4, .ro, 0⟩,
    ⟨4, 4, .ro, 0⟩,
    ⟨0, 4, .ro, 0⟩]⟩
/-- AX_COUNTS, spec/11_motion.md R490, offset 0x5C, 32 bits. -/
def reg_AX_COUNTS : RegDef := ⟨"AX_COUNTS", 0x5C, 0x0, 0, 1, 1,
   [⟨24, 8, .sat, 0⟩,
    ⟨16, 8, .sat, 0⟩,
    ⟨8, 8, .sat, 0⟩,
    ⟨0, 8, .sat, 0⟩]⟩
/-- AX_OVF, spec/11_motion.md R490, offset 0x60, 32 bits. -/
def reg_AX_OVF : RegDef := ⟨"AX_OVF", 0x60, 0x0, 0, 1, 1,
   [⟨3, 1, .w1c, 0⟩,
    ⟨2, 1, .w1c, 0⟩,
    ⟨1, 1, .w1c, 0⟩,
    ⟨0, 1, .w1c, 0⟩]⟩
/-- The registers of a node of the group `axis`, in the order of their captions. -/
def regs_axis : List RegDef :=
  [reg_AX_STATUS,
   reg_AX_POS,
   reg_AX_RATE,
   reg_AX_ACCEL,
   reg_AX_DECEL,
   reg_AX_CHOP,
   reg_AX_INPUTS,
   reg_AX_COUNTS,
   reg_AX_OVF]

/-- YOKE_CFG, spec/12_yoke_gleaner_availability.md R534, offset 0x40, 32 bits. -/
def reg_YOKE_CFG : RegDef := ⟨"YOKE_CFG", 0x40, 0x0, 0, 1, 1,
   [⟨24, 1, .rwl, 0⟩,
    ⟨16, 8, .rw, 2⟩,
    ⟨8, 8, .rw, 4⟩,
    ⟨1, 1, .rw, 1⟩,
    ⟨0, 1, .rw, 1⟩]⟩
/-- YOKE_STATE, spec/12_yoke_gleaner_availability.md R534, offset 0x44, 32 bits. -/
def reg_YOKE_STATE : RegDef := ⟨"YOKE_STATE", 0x44, 0x0, 0, 1, 1,
   [⟨16, 4, .ro, 0⟩,
    ⟨9, 1, .ro, 0⟩,
    ⟨8, 1, .ro, 0⟩,
    ⟨7, 1, .ro, 0⟩,
    ⟨6, 1, .ro, 0⟩,
    ⟨5, 1, .ro, 0⟩,
    ⟨4, 1, .ro, 0⟩,
    ⟨3, 1, .ro, 0⟩,
    ⟨2, 1, .ro, 0⟩,
    ⟨0, 2, .ro, 0⟩]⟩
/-- YOKE_LANES, spec/12_yoke_gleaner_availability.md R534, offset 0x48, 32 bits. -/
def reg_YOKE_LANES : RegDef := ⟨"YOKE_LANES", 0x48, 0x0, 0, 1, 1,
   [⟨0, 32, .ro, 0xFFFFFFFF⟩]⟩
/-- YOKE_LAST_MISMATCH, spec/12_yoke_gleaner_availability.md R534, offset 0x50, 64 bits. -/
def reg_YOKE_LAST_MISMATCH : RegDef := ⟨"YOKE_LAST_MISMATCH", 0x50, 0x0, 0, 1, 2,
   [⟨54, 1, .ro, 0⟩,
    ⟨53, 1, .ro, 0⟩,
    ⟨48, 5, .ro, 0⟩,
    ⟨0, 48, .ro, 0⟩]⟩
/-- YOKE_LAST_GAP, spec/12_yoke_gleaner_availability.md R534, offset 0x58, 32 bits. -/
def reg_YOKE_LAST_GAP : RegDef := ⟨"YOKE_LAST_GAP", 0x58, 0x0, 0, 1, 1,
   [⟨16, 4, .ro, 0⟩,
    ⟨0, 16, .ro, 0⟩]⟩
/-- YOKE_MISMATCH, spec/12_yoke_gleaner_availability.md R534, offset 0x5C, 32 bits. -/
def reg_YOKE_MISMATCH : RegDef := ⟨"YOKE_MISMATCH", 0x5C, 0x0, 0, 1, 1,
   [⟨0, 32, .sat, 0⟩]⟩
/-- YOKE_TAKEOVERS, spec/12_yoke_gleaner_availability.md R534, offset 0x60, 32 bits. -/
def reg_YOKE_TAKEOVERS : RegDef := ⟨"YOKE_TAKEOVERS", 0x60, 0x0, 0, 1, 1,
   [⟨16, 16, .sat, 0⟩,
    ⟨0, 16, .sat, 0⟩]⟩
/-- YOKE_MISSING, spec/12_yoke_gleaner_availability.md R534, offset 0x64, 32 bits. -/
def reg_YOKE_MISSING : RegDef := ⟨"YOKE_MISSING", 0x64, 0x0, 0, 1, 1,
   [⟨16, 16, .sat, 0⟩,
    ⟨0, 16, .sat, 0⟩]⟩
/-- YOKE_RESENT, spec/12_yoke_gleaner_availability.md R534, offset 0x68, 32 bits. -/
def reg_YOKE_RESENT : RegDef := ⟨"YOKE_RESENT", 0x68, 0x0, 0, 1, 1,
   [⟨0, 32, .sat, 0⟩]⟩
/-- YOKE_OVF, spec/12_yoke_gleaner_availability.md R534, offset 0x6C, 32 bits. -/
def reg_YOKE_OVF : RegDef := ⟨"YOKE_OVF", 0x6C, 0x0, 0, 1, 1,
   [⟨5, 1, .w1c, 0⟩,
    ⟨4, 1, .w1c, 0⟩,
    ⟨3, 1, .w1c, 0⟩,
    ⟨2, 1, .w1c, 0⟩,
    ⟨1, 1, .w1c, 0⟩,
    ⟨0, 1, .w1c, 0⟩]⟩
/-- The registers of a node of the group `yoke`, in the order of their captions. -/
def regs_yoke : List RegDef :=
  [reg_YOKE_CFG,
   reg_YOKE_STATE,
   reg_YOKE_LANES,
   reg_YOKE_LAST_MISMATCH,
   reg_YOKE_LAST_GAP,
   reg_YOKE_MISMATCH,
   reg_YOKE_TAKEOVERS,
   reg_YOKE_MISSING,
   reg_YOKE_RESENT,
   reg_YOKE_OVF]

/-- GLEAN_STATE, spec/12_yoke_gleaner_availability.md R534, offset 0x40, 32 bits. -/
def reg_GLEAN_STATE : RegDef := ⟨"GLEAN_STATE", 0x40, 0x0, 0, 1, 1,
   [⟨0, 32, .ro, 0⟩]⟩
/-- GLEAN_RUNS, spec/12_yoke_gleaner_availability.md R534, offset 0x44, 32 bits. -/
def reg_GLEAN_RUNS : RegDef := ⟨"GLEAN_RUNS", 0x44, 0x0, 0, 1, 1,
   [⟨0, 32, .sat, 0⟩]⟩
/-- GLEAN_FAILS, spec/12_yoke_gleaner_availability.md R534, offset 0x48, 32 bits. -/
def reg_GLEAN_FAILS : RegDef := ⟨"GLEAN_FAILS", 0x48, 0x0, 0, 1, 1,
   [⟨0, 32, .sat, 0⟩]⟩
/-- GLEAN_ABORTS, spec/12_yoke_gleaner_availability.md R534, offset 0x4C, 32 bits. -/
def reg_GLEAN_ABORTS : RegDef := ⟨"GLEAN_ABORTS", 0x4C, 0x0, 0, 1, 1,
   [⟨0, 32, .sat, 0⟩]⟩
/-- GLEAN_OVF, spec/12_yoke_gleaner_availability.md R534, offset 0x50, 32 bits. -/
def reg_GLEAN_OVF : RegDef := ⟨"GLEAN_OVF", 0x50, 0x0, 0, 1, 1,
   [⟨2, 1, .w1c, 0⟩,
    ⟨1, 1, .w1c, 0⟩,
    ⟨0, 1, .w1c, 0⟩]⟩
/-- GLEAN_REC_HEAD, spec/12_yoke_gleaner_availability.md R534, offset 0x54, 32 bits. -/
def reg_GLEAN_REC_HEAD : RegDef := ⟨"GLEAN_REC_HEAD", 0x54, 0x0, 0, 1, 1,
   [⟨0, 6, .ro, 0⟩]⟩
/-- GLEAN_REC, spec/12_yoke_gleaner_availability.md R534, offset 0x100 + n × 0x10, 128 bits. -/
def reg_GLEAN_REC : RegDef := ⟨"GLEAN_REC", 0x100, 0x10, 0, 64, 4,
   [⟨64, 64, .ro, 0⟩,
    ⟨56, 8, .ro, 0⟩,
    ⟨48, 8, .ro, 0⟩,
    ⟨32, 16, .ro, 0⟩,
    ⟨0, 32, .ro, 0⟩]⟩
/-- The registers of a node of the group `glean`, in the order of their captions. -/
def regs_glean : List RegDef :=
  [reg_GLEAN_STATE,
   reg_GLEAN_RUNS,
   reg_GLEAN_FAILS,
   reg_GLEAN_ABORTS,
   reg_GLEAN_OVF,
   reg_GLEAN_REC_HEAD,
   reg_GLEAN_REC]

/-- HLTH_STATE, spec/13_thermal_wear_health.md R565, offset 0x40, 32 bits. -/
def reg_HLTH_STATE : RegDef := ⟨"HLTH_STATE", 0x40, 0x0, 0, 1, 1,
   [⟨16, 16, .ro, 0⟩,
    ⟨8, 8, .ro, 0⟩,
    ⟨0, 3, .ro, 0⟩]⟩
/-- HLTH_STOP, spec/13_thermal_wear_health.md R565, offset 0x44, 32 bits. -/
def reg_HLTH_STOP : RegDef := ⟨"HLTH_STOP", 0x44, 0x0, 0, 1, 1,
   [⟨8, 1, .rw, 0⟩,
    ⟨4, 1, .ro, 0⟩,
    ⟨3, 1, .ro, 0⟩,
    ⟨2, 1, .ro, 0⟩,
    ⟨1, 1, .ro, 0⟩,
    ⟨0, 1, .ro, 0⟩]⟩
/-- HLTH_SENSOR_BAD, spec/13_thermal_wear_health.md R565, offset 0x48, 64 bits. -/
def reg_HLTH_SENSOR_BAD : RegDef := ⟨"HLTH_SENSOR_BAD", 0x48, 0x0, 0, 1, 2,
   [⟨0, 64, .w1c, 0⟩]⟩
/-- HLTH_SENSOR_IGN, spec/13_thermal_wear_health.md R565, offset 0x50, 64 bits. -/
def reg_HLTH_SENSOR_IGN : RegDef := ⟨"HLTH_SENSOR_IGN", 0x50, 0x0, 0, 1, 2,
   [⟨0, 64, .ro, 0⟩]⟩
/-- HLTH_THRESH, spec/13_thermal_wear_health.md R565, offset 0x58, 64 bits. -/
def reg_HLTH_THRESH : RegDef := ⟨"HLTH_THRESH", 0x58, 0x0, 0, 1, 2,
   [⟨48, 16, .ro, 0x2580⟩,
    ⟨32, 16, .ro, 0x2480⟩,
    ⟨16, 16, .ro, 0x2300⟩,
    ⟨0, 16, .ro, 0x21C0⟩]⟩
/-- HLTH_RISE, spec/13_thermal_wear_health.md R565, offset 0x60, 32 bits. -/
def reg_HLTH_RISE : RegDef := ⟨"HLTH_RISE", 0x60, 0x0, 0, 1, 1,
   [⟨16, 16, .ro, 0x140⟩,
    ⟨0, 16, .ro, 0x80⟩]⟩
/-- HLTH_HOURS, spec/13_thermal_wear_health.md R565, offset 0x64, 32 bits. -/
def reg_HLTH_HOURS : RegDef := ⟨"HLTH_HOURS", 0x64, 0x0, 0, 1, 1,
   [⟨0, 32, .ro, 0⟩]⟩
/-- HLTH_TALLY_CLR, spec/13_thermal_wear_health.md R565, offset 0x68, 64 bits. -/
def reg_HLTH_TALLY_CLR : RegDef := ⟨"HLTH_TALLY_CLR", 0x68, 0x0, 0, 1, 2,
   [⟨63, 1, .w1s, 0⟩,
    ⟨62, 1, .rw, 0⟩,
    ⟨32, 21, .rw, 0⟩,
    ⟨0, 20, .rw, 0⟩]⟩
/-- HLTH_COUNTS, spec/13_thermal_wear_health.md R565, offset 0x70, 32 bits. -/
def reg_HLTH_COUNTS : RegDef := ⟨"HLTH_COUNTS", 0x70, 0x0, 0, 1, 1,
   [⟨24, 8, .sat, 0⟩,
    ⟨16, 8, .sat, 0⟩,
    ⟨8, 8, .sat, 0⟩,
    ⟨0, 8, .sat, 0⟩]⟩
/-- HLTH_OVF, spec/13_thermal_wear_health.md R565, offset 0x74, 32 bits. -/
def reg_HLTH_OVF : RegDef := ⟨"HLTH_OVF", 0x74, 0x0, 0, 1, 1,
   [⟨3, 1, .w1c, 0⟩,
    ⟨2, 1, .w1c, 0⟩,
    ⟨1, 1, .w1c, 0⟩,
    ⟨0, 1, .w1c, 0⟩]⟩
/-- AGE_EOL, spec/13_thermal_wear_health.md R565, offset 0x78, 32 bits. -/
def reg_AGE_EOL : RegDef := ⟨"AGE_EOL", 0x78, 0x0, 0, 1, 1,
   [⟨0, 32, .ro, 0xFFFFFFFF⟩]⟩
/-- HLTH_HYST, spec/13_thermal_wear_health.md R565, offset 0x7C, 32 bits. -/
def reg_HLTH_HYST : RegDef := ⟨"HLTH_HYST", 0x7C, 0x0, 0, 1, 1,
   [⟨8, 8, .rw, 2⟩,
    ⟨0, 8, .ro, 3⟩]⟩
/-- HEAD_CFG, spec/13_thermal_wear_health.md R565, offset 0x100 + n × 0x10, 32 bits. -/
def reg_HEAD_CFG : RegDef := ⟨"HEAD_CFG", 0x100, 0x10, 0, 32, 1,
   [⟨24, 8, .rw, 8⟩,
    ⟨16, 8, .rw, 0x20⟩,
    ⟨0, 16, .rw, 0x8000⟩]⟩
/-- HEAD_TEMP, spec/13_thermal_wear_health.md R565, offset 0x104 + n × 0x10, 32 bits. -/
def reg_HEAD_TEMP : RegDef := ⟨"HEAD_TEMP", 0x104, 0x10, 0, 32, 1,
   [⟨16, 16, .rw, 0xF00⟩,
    ⟨0, 16, .rw, 0xDC0⟩]⟩
/-- HEAD_LIFE, spec/13_thermal_wear_health.md R565, offset 0x108 + n × 0x10, 32 bits. -/
def reg_HEAD_LIFE : RegDef := ⟨"HEAD_LIFE", 0x108, 0x10, 0, 32, 1,
   [⟨0, 32, .rw, 0⟩]⟩
/-- AGE_DRIFT, spec/13_thermal_wear_health.md R565, offset 0x300 + n × 0x4, 32 bits. -/
def reg_AGE_DRIFT : RegDef := ⟨"AGE_DRIFT", 0x300, 0x4, 0, 16, 1,
   [⟨0, 32, .ro, 0⟩]⟩
/-- The registers of a node of the group `hlth`, in the order of their captions. -/
def regs_hlth : List RegDef :=
  [reg_HLTH_STATE,
   reg_HLTH_STOP,
   reg_HLTH_SENSOR_BAD,
   reg_HLTH_SENSOR_IGN,
   reg_HLTH_THRESH,
   reg_HLTH_RISE,
   reg_HLTH_HOURS,
   reg_HLTH_TALLY_CLR,
   reg_HLTH_COUNTS,
   reg_HLTH_OVF,
   reg_AGE_EOL,
   reg_HLTH_HYST,
   reg_HEAD_CFG,
   reg_HEAD_TEMP,
   reg_HEAD_LIFE,
   reg_AGE_DRIFT]

/-- SEC_STATE, spec/14_security_sealed_layer.md R599, offset 0x40, 32 bits. -/
def reg_SEC_STATE : RegDef := ⟨"SEC_STATE", 0x40, 0x0, 0, 1, 1,
   [⟨16, 6, .ro, 0⟩,
    ⟨5, 1, .ro, 0⟩,
    ⟨4, 1, .ro, 0⟩,
    ⟨0, 2, .ro, 0⟩]⟩
/-- SEC_SLOT, spec/14_security_sealed_layer.md R599, offset 0x44 + n × 0x4, 32 bits: slot 0, which is programmed with `FW` at test (R567). -/
def reg_SEC_SLOT_0 : RegDef := ⟨"SEC_SLOT", 0x44, 0x4, 0, 1, 1,
   [⟨4, 1, .ro, 0⟩,
    ⟨3, 1, .ro, 0⟩,
    ⟨2, 1, .ro, 0⟩,
    ⟨1, 1, .ro, 1⟩,
    ⟨0, 1, .ro, 1⟩]⟩
/-- SEC_SLOT, spec/14_security_sealed_layer.md R599, offset 0x44 + n × 0x4, 32 bits: slots 1 to 3, which leave the factory empty (R567). -/
def reg_SEC_SLOT : RegDef := ⟨"SEC_SLOT", 0x44, 0x4, 1, 3, 1,
   [⟨4, 1, .ro, 0⟩,
    ⟨3, 1, .ro, 0⟩,
    ⟨2, 1, .ro, 0⟩,
    ⟨1, 1, .ro, 0⟩,
    ⟨0, 1, .ro, 0⟩]⟩
/-- SEC_DEVICE_ID, spec/14_security_sealed_layer.md R599, offset 0x58, 64 bits. -/
def reg_SEC_DEVICE_ID : RegDef := ⟨"SEC_DEVICE_ID", 0x58, 0x0, 0, 1, 2,
   [⟨0, 64, .ro, 0⟩]⟩
/-- SEC_BOOT, spec/14_security_sealed_layer.md R599, offset 0x60, 32 bits. -/
def reg_SEC_BOOT : RegDef := ⟨"SEC_BOOT", 0x60, 0x0, 0, 1, 1,
   [⟨0, 32, .sat, 0⟩]⟩
/-- SEC_RELEASE, spec/14_security_sealed_layer.md R599, offset 0x64, 32 bits. -/
def reg_SEC_RELEASE : RegDef := ⟨"SEC_RELEASE", 0x64, 0x0, 0, 1, 1,
   [⟨0, 32, .ro, 0⟩]⟩
/-- SEC_AUDIT_INDEX, spec/14_security_sealed_layer.md R599, offset 0x68, 64 bits. -/
def reg_SEC_AUDIT_INDEX : RegDef := ⟨"SEC_AUDIT_INDEX", 0x68, 0x0, 0, 1, 2,
   [⟨0, 64, .ro, 0⟩]⟩
/-- SEC_AUDIT_CHAIN, spec/14_security_sealed_layer.md R599, offset 0x80 + n × 0x4, 32 bits. -/
def reg_SEC_AUDIT_CHAIN : RegDef := ⟨"SEC_AUDIT_CHAIN", 0x80, 0x4, 0, 12, 1,
   [⟨0, 32, .ro, 0⟩]⟩
/-- SEC_PROG_HASH, spec/14_security_sealed_layer.md R599, offset 0xC0 + n × 0x4, 32 bits. -/
def reg_SEC_PROG_HASH : RegDef := ⟨"SEC_PROG_HASH", 0xC0, 0x4, 0, 12, 1,
   [⟨0, 32, .rw, 0⟩]⟩
/-- SEC_PROG, spec/14_security_sealed_layer.md R599, offset 0xF0, 32 bits. -/
def reg_SEC_PROG : RegDef := ⟨"SEC_PROG", 0xF0, 0x0, 0, 1, 1,
   [⟨17, 1, .ro, 0⟩,
    ⟨16, 1, .w1s, 0⟩,
    ⟨9, 1, .rw, 0⟩,
    ⟨8, 1, .rw, 0⟩,
    ⟨0, 2, .rw, 0⟩]⟩
/-- SEC_COUNTS, spec/14_security_sealed_layer.md R599, offset 0xF4, 32 bits. -/
def reg_SEC_COUNTS : RegDef := ⟨"SEC_COUNTS", 0xF4, 0x0, 0, 1, 1,
   [⟨24, 8, .sat, 0⟩,
    ⟨16, 8, .sat, 0⟩,
    ⟨0, 16, .sat, 0⟩]⟩
/-- SEC_OVF, spec/14_security_sealed_layer.md R599, offset 0xF8, 32 bits. -/
def reg_SEC_OVF : RegDef := ⟨"SEC_OVF", 0xF8, 0x0, 0, 1, 1,
   [⟨3, 1, .w1c, 0⟩,
    ⟨2, 1, .w1c, 0⟩,
    ⟨1, 1, .w1c, 0⟩,
    ⟨0, 1, .w1c, 0⟩]⟩
/-- SEC_STORE, spec/14_security_sealed_layer.md R599, offset 0xFC, 32 bits. -/
def reg_SEC_STORE : RegDef := ⟨"SEC_STORE", 0xFC, 0x0, 0, 1, 1,
   [⟨0, 16, .ro, 0x3000⟩]⟩
/-- The registers of a node of the group `sec`, in the order of their captions. -/
def regs_sec : List RegDef :=
  [reg_SEC_STATE,
   reg_SEC_SLOT_0,
   reg_SEC_SLOT,
   reg_SEC_DEVICE_ID,
   reg_SEC_BOOT,
   reg_SEC_RELEASE,
   reg_SEC_AUDIT_INDEX,
   reg_SEC_AUDIT_CHAIN,
   reg_SEC_PROG_HASH,
   reg_SEC_PROG,
   reg_SEC_COUNTS,
   reg_SEC_OVF,
   reg_SEC_STORE]

/-- SYS_DEV, spec/15_bringup_power_pins_package.md R632, offset 0x40, 32 bits. -/
def reg_SYS_DEV : RegDef := ⟨"SYS_DEV", 0x40, 0x0, 0, 1, 1,
   [⟨16, 16, .ro, 0⟩,
    ⟨8, 4, .ro, 0⟩,
    ⟨0, 3, .ro, 0⟩]⟩
/-- SYS_CTRL, spec/15_bringup_power_pins_package.md R632, offset 0x44, 32 bits. -/
def reg_SYS_CTRL : RegDef := ⟨"SYS_CTRL", 0x44, 0x0, 0, 1, 1,
   [⟨0, 1, .w1s, 0⟩]⟩
/-- SYS_ALERT_EN, spec/15_bringup_power_pins_package.md R632, offset 0x48, 32 bits. -/
def reg_SYS_ALERT_EN : RegDef := ⟨"SYS_ALERT_EN", 0x48, 0x0, 0, 1, 1,
   [⟨0, 32, .rw, 0⟩]⟩
/-- SYS_BOARD, spec/15_bringup_power_pins_package.md R632, offset 0x4C, 32 bits. -/
def reg_SYS_BOARD : RegDef := ⟨"SYS_BOARD", 0x4C, 0x0, 0, 1, 1,
   [⟨1, 1, .ro, 0⟩,
    ⟨0, 1, .ro, 0⟩]⟩
/-- The registers of a node of the group `sys`, in the order of their captions. -/
def regs_sys : List RegDef :=
  [reg_SYS_DEV,
   reg_SYS_CTRL,
   reg_SYS_ALERT_EN,
   reg_SYS_BOARD]

end Sys2Proof.Machine
end

