-- ==== Sys2Proof/Machine/Node.lean ====
section
/-!
DEFINITION. The unit tree (R28, R29, R38 and the BAR0 map): its nodes, where each stands, its parent and its children, and the
header words that name them.
-/

namespace Sys2Proof.Machine

/-- A node of the unit tree. -/
inductive Node where
  | sys | cmd | rings | ring (n : Fin 256)
  | bale | threshers | thresher (n : Fin 12) | compressors | compressor (n : Fin 4)
  | comp
  | scrn | slices | slice (n : Fin 33)
  | hlnk | head (n : Fin 32)
  | fire
  | insp | cams | cam (n : Fin 8)
  | cal | mem
  | time | ports | port (n : Fin 2)
  | mot | axes | axis (n : Fin 8)
  | yoke | ylanes | ylane (n : Fin 4)
  | glean | hlth | sec
deriving DecidableEq, Repr

/-- The BAR0 offset of a node's header. -/
def Node.base : Node → Nat
  | .sys => 0 | .cmd => 0x100000 | .rings => 0x110000 | .ring n => 0x110400 + 0x400 * n.val
  | .bale => 0x200000 | .threshers => 0x210000 | .thresher n => 0x211000 + 0x1000 * n.val
  | .compressors => 0x220000 | .compressor n => 0x221000 + 0x1000 * n.val
  | .comp => 0x300000
  | .scrn => 0x400000 | .slices => 0x410000 | .slice n => 0x411000 + 0x1000 * n.val
  | .hlnk => 0x500000 | .head n => 0x540000 + 0x4000 * n.val
  | .fire => 0x600000
  | .insp => 0x700000 | .cams => 0x710000 | .cam n => 0x714000 + 0x4000 * n.val
  | .cal => 0x800000 | .mem => 0x900000
  | .time => 0xA00000 | .ports => 0xA10000 | .port n => 0xA14000 + 0x4000 * n.val
  | .mot => 0xB00000 | .axes => 0xB10000 | .axis n => 0xB11000 + 0x1000 * n.val
  | .yoke => 0xC00000 | .ylanes => 0xC10000 | .ylane n => 0xC14000 + 0x4000 * n.val
  | .glean => 0xD00000 | .hlth => 0xE00000 | .sec => 0xF00000

/-- The parent of a node; SYS is the root (R29). -/
def Node.parent : Node → Option Node
  | .sys => none
  | .rings => some .cmd | .ring _ => some .rings
  | .threshers => some .bale | .thresher _ => some .threshers
  | .compressors => some .bale | .compressor _ => some .compressors
  | .slices => some .scrn | .slice _ => some .slices
  | .head _ => some .hlnk
  | .cams => some .insp | .cam _ => some .cams
  | .ports => some .time | .port _ => some .ports
  | .axes => some .mot | .axis _ => some .axes
  | .ylanes => some .yoke | .ylane _ => some .ylanes
  | _ => some .sys

/-- The direct children of a node, in order. -/
def Node.children : Node → List Node
  | .sys => [.cmd, .bale, .comp, .scrn, .hlnk, .fire, .insp, .cal, .mem, .time, .mot, .yoke, .glean, .hlth, .sec]
  | .cmd => [.rings]
  | .rings => (List.finRange 256).map .ring
  | .bale => [.threshers, .compressors]
  | .threshers => (List.finRange 12).map .thresher
  | .compressors => (List.finRange 4).map .compressor
  | .scrn => [.slices]
  | .slices => (List.finRange 33).map .slice
  | .hlnk => (List.finRange 32).map .head
  | .insp => [.cams]
  | .cams => (List.finRange 8).map .cam
  | .time => [.ports]
  | .ports => (List.finRange 2).map .port
  | .mot => [.axes]
  | .axes => (List.finRange 8).map .axis
  | .yoke => [.ylanes]
  | .ylanes => (List.finRange 4).map .ylane
  | _ => []

/-- The descendants of a node, itself first; the tree is four levels deep. -/
def Node.subtree (n : Node) : List Node :=
  n :: n.children.flatMap fun c => c :: c.children.flatMap fun d => d :: d.children

/-- The ancestors of a node from its parent up to SYS. -/
def Node.ancestors (n : Node) : List Node :=
  match n.parent with
  | none => []
  | some p => p :: (match p.parent with
    | none => []
    | some q => q :: (match q.parent with
      | none => []
      | some r => [r]))

/-- The kind code of a node (BAR0 map; 0x0020 lanes, 0x0021 groups, 0x0022 rings, and the kinds the owning chapters assign). -/
def Node.kind : Node → Nat
  | .sys => 0x0001 | .cmd => 0x0002 | .bale => 0x0003 | .comp => 0x0004 | .scrn => 0x0005 | .hlnk => 0x0006
  | .fire => 0x0007 | .insp => 0x0008 | .cal => 0x0009 | .mem => 0x000A | .time => 0x000B | .mot => 0x000C
  | .yoke => 0x000D | .glean => 0x000E | .hlth => 0x000F | .sec => 0x0010
  | .head _ => 0x0020 | .cam _ => 0x0020 | .port _ => 0x0020 | .ylane _ => 0x0020
  | .rings => 0x0021 | .threshers => 0x0021 | .compressors => 0x0021 | .slices => 0x0021 | .cams => 0x0021
  | .ports => 0x0021 | .axes => 0x0021 | .ylanes => 0x0021
  | .ring _ => 0x0022 | .thresher _ => 0x0023 | .compressor _ => 0x0024 | .slice _ => 0x0025 | .axis _ => 0x0026

/-- The index of a node among its siblings. -/
def Node.instance' : Node → Nat
  | .ring n => n.val | .thresher n => n.val | .compressor n => n.val | .slice n => n.val | .head n => n.val
  | .cam n => n.val | .port n => n.val | .axis n => n.val | .ylane n => n.val
  | .compressors => 1
  | .sys => 0
  | .cmd => 0 | .bale => 0 | .comp => 0 | .scrn => 0 | .hlnk => 0 | .fire => 0 | .insp => 0 | .cal => 0 | .mem => 0
  | .time => 0 | .mot => 0 | .yoke => 0 | .glean => 0 | .hlth => 0 | .sec => 0
  | .rings => 0 | .threshers => 0 | .slices => 0 | .cams => 0 | .ports => 0 | .axes => 0 | .ylanes => 0

/-- The distance between a node's children in KiB (UNIT_SHAPE). -/
def Node.strideKib : Node → Nat
  | .sys => 1024 | .rings => 1 | .bale => 64 | .threshers => 4 | .compressors => 4 | .slices => 4
  | .hlnk => 16 | .cams => 16 | .ports => 16 | .axes => 4 | .ylanes => 16
  | .cmd => 64 | .scrn => 64 | .insp => 64 | .time => 64 | .mot => 64 | .yoke => 64
  | _ => 0

/-- The offset of a node's first child from its base (UNIT_CHILD_BASE). -/
def Node.childBase (n : Node) : Nat :=
  match n.children with
  | [] => 0
  | c :: _ => c.base - n.base

/-- The extent of a node in KiB (UNIT_SIZE): 16,384 for SYS, 1,024 for a top-level unit; for the nodes inside a unit, from the
base to the end of the last descendant, a leaf taking one stride of its siblings. -/
def Node.sizeKib (n : Node) : Nat :=
  match n with
  | .sys => 16384
  | .ring _ => 1 | .thresher _ => 4 | .compressor _ => 4 | .slice _ => 4 | .axis _ => 4
  | .head _ => 16 | .cam _ => 16 | .port _ => 16 | .ylane _ => 16
  | .rings => 257 | .threshers => 52 | .compressors => 20 | .slices => 136 | .cams => 144 | .ports => 48 | .axes => 36
  | .ylanes => 80
  | .cmd => 1024 | .bale => 1024 | .comp => 1024 | .scrn => 1024 | .hlnk => 1024 | .fire => 1024 | .insp => 1024
  | .cal => 1024 | .mem => 1024 | .time => 1024 | .mot => 1024 | .yoke => 1024 | .glean => 1024 | .hlth => 1024
  | .sec => 1024

/-- The node of one of `n` equal siblings in which an offset lies, counted from the group's base; the group itself otherwise. -/
def Node.sibling {n : Nat} (rel first stride : Nat) (group : Node) (mk : Fin n → Node) : Node :=
  if rel < first then group
  else if h : (rel - first) / stride < n then mk ⟨(rel - first) / stride, h⟩ else group

/-- The nearest node that encloses a BAR0 offset (R40); an offset outside every unit belongs to SYS. -/
def Node.ofOffset (off : Nat) : Node :=
  let rel := off % 0x100000
  match off / 0x100000 with
  | 1 => if rel < 0x10000 ∨ 0x10000 + 257 * 1024 ≤ rel then .cmd else Node.sibling (n := 256) (rel - 0x10000) 0x400 0x400 .rings .ring
  | 2 => if rel < 0x10000 ∨ 0x20000 + 20 * 1024 ≤ rel then .bale
         else if rel < 0x20000 then
           (if 0x10000 + 52 * 1024 ≤ rel then .bale else Node.sibling (n := 12) (rel - 0x10000) 0x1000 0x1000 .threshers .thresher)
         else Node.sibling (n := 4) (rel - 0x20000) 0x1000 0x1000 .compressors .compressor
  | 3 => .comp
  | 4 => if rel < 0x10000 ∨ 0x10000 + 136 * 1024 ≤ rel then .scrn else Node.sibling (n := 33) (rel - 0x10000) 0x1000 0x1000 .slices .slice
  | 5 => if rel < 0x40000 ∨ 0xC0000 ≤ rel then .hlnk else Node.sibling (n := 32) (rel - 0x40000) 0 0x4000 .hlnk .head
  | 6 => .fire
  | 7 => if rel < 0x10000 ∨ 0x10000 + 144 * 1024 ≤ rel then .insp else Node.sibling (n := 8) (rel - 0x10000) 0x4000 0x4000 .cams .cam
  | 8 => .cal
  | 9 => .mem
  | 10 => if rel < 0x10000 ∨ 0x10000 + 48 * 1024 ≤ rel then .time else Node.sibling (n := 2) (rel - 0x10000) 0x4000 0x4000 .ports .port
  | 11 => if rel < 0x10000 ∨ 0x10000 + 36 * 1024 ≤ rel then .mot else Node.sibling (n := 8) (rel - 0x10000) 0x1000 0x1000 .axes .axis
  | 12 => if rel < 0x10000 ∨ 0x10000 + 80 * 1024 ≤ rel then .yoke else Node.sibling (n := 4) (rel - 0x10000) 0x4000 0x4000 .ylanes .ylane
  | 13 => .glean
  | 14 => .hlth
  | 15 => .sec
  | _ => .sys

/-- The node whose header stands at an offset, if there is one. -/
def Node.atBase (off : Nat) : Option Node :=
  let n := Node.ofOffset off
  if n.base = off then some n else none

/-- The registers of a node's own, beyond its header. -/
def Node.ownRegs : Node → List RegDef
  | .sys => regs_sys | .cmd => regs_cmd | .ring _ => regs_ring
  | .bale => regs_bale | .thresher _ => regs_eng | .compressor _ => regs_eng
  | .comp => regs_comp | .scrn => regs_scrn | .slice _ => regs_slice
  | .hlnk => regs_hlnk | .head _ => regs_lane 1
  | .fire => regs_fire
  | .insp => regs_insp | .cam _ => regs_lane 0 ++ regs_cam
  | .cal => regs_cal | .mem => regs_mem
  | .time => regs_time | .port _ => regs_lane 0
  | .axis _ => regs_axis
  | .yoke => regs_yoke | .ylane _ => regs_lane 1
  | .glean => regs_glean | .hlth => regs_hlth | .sec => regs_sec
  | .rings => [] | .threshers => [] | .compressors => [] | .slices => [] | .cams => [] | .ports => [] | .axes => []
  | .ylanes => [] | .mot => []

/-- The registers of a node: header and own. -/
def Node.regs (n : Node) : List RegDef := regs_hdr ++ n.ownRegs

/-- Where a BAR0 word belongs: the register, and which word of which instance of it. -/
structure Hit where
  node : Node
  reg : RegDef
  idx : Nat
  word : Nat
deriving DecidableEq, Repr

/-- The instance and the word of a register that an offset inside a node names. -/
def RegDef.hit (r : RegDef) (rel : Nat) : Option (Nat × Nat) :=
  if r.stride = 0 then
    if r.off ≤ rel ∧ rel < r.off + 4 * r.words then some (0, (rel - r.off) / 4) else none
  else
    let i := (rel - r.off) / r.stride
    let w := (rel - r.off) % r.stride / 4
    if r.off ≤ rel ∧ r.first ≤ i ∧ i < r.first + r.count ∧ w < r.words then some (i, w) else none

/-- Find the register of a word in a list of registers. -/
def findReg : List RegDef → Nat → Option (RegDef × Nat × Nat)
  | [], _ => none
  | r :: rs, rel =>
    match r.hit rel with
    | some (i, w) => some (r, i, w)
    | none => findReg rs rel

/-- The register to which a BAR0 word offset belongs (R40). -/
def regAt (off : Nat) : Option Hit :=
  let n := Node.ofOffset off
  match findReg n.regs (off - n.base) with
  | some (r, i, w) => some ⟨n, r, i, w⟩
  | none => none

/-- The offset of the lowest word of a register. -/
def Hit.addr (h : Hit) : Nat := h.node.base + h.reg.off + h.reg.stride * h.idx

/-- A field of a register as an `FRef`. -/
def Hit.fref (h : Hit) (f : FieldDef) : FRef := ⟨h.addr, f.lo, f.width, f.reset⟩

/-- The fields that stand in the word of a hit. -/
def Hit.wordFields (h : Hit) : List FieldDef :=
  h.reg.fields.filter fun f => decide (f.lo / 32 ≤ h.word) && decide (h.word ≤ (f.lo + f.width - 1) / 32)

end Sys2Proof.Machine
end

