-- ==== Sys2Proof/Machine/Lane.lean ====
section
/-!
DEFINITION. The 46 lanes of the shared lane macro (R223, the table of lanes in spec/06, spec/08, spec/10 and spec/12), and what the
header of a packet carries (R67).  These are the operand types of the commands.
-/

namespace Sys2Proof.Machine

/-- A lane: 32 head lanes, 8 camera lanes, 2 Ethernet ports and 4 yoke lanes. -/
inductive LaneId where
  | head (n : Fin 32) | cam (n : Fin 8) | eth (n : Fin 2) | yoke (n : Fin 4)
deriving DecidableEq, Repr

/-- The node of a lane. -/
def LaneId.node : LaneId → Node
  | .head n => .head n | .cam n => .cam n | .eth n => .port n | .yoke n => .ylane n

/-- The first entry of a packet as the command processor has it (R67), with the ring that it was fetched from, its submission index,
and its entry count. -/
structure Hdr where
  ring : Fin 256
  sq : Nat
  ctx : Nat
  notify : Bool := false
  fence : Bool := false
  priv : Bool := false
  seq : Nat := 0
  entries : Nat := 0
deriving DecidableEq, Repr

/-- A request that MEM serves (R401): a read or a write of DRAM, or a read of a granary word, by logical byte address, whether its parity
is wrong, whether a try at its replay source succeeds, and, for a word of the loft, its lane, its loft line and its place in the swath. -/
inductive MemReq where
  | dramRead (addr len : Nat)
  | dramWrite (addr : Nat) (data : List Byte)
  | gran (addr : Nat) (parity replayed : Bool) (loft : Option (Nat × Nat × Nat))
deriving DecidableEq, Repr

/-- An edge of a filtered input (R289, R316): for how many ns the new level holds, and its instant. -/
structure InEdge where
  held : Nat
  t : Nat
deriving DecidableEq, Repr

/-- A rising edge of the index input of a channel (R292, R296), and for how many ns the level holds. -/
structure ZEdge where
  ch : Fin 4
  held : Nat
deriving DecidableEq, Repr

/-- What the outside brings to a reset that boots the device: runs of bytes that the board's programming path has written into the SPI NOR
before (R575), by address, and a mask of the module self-tests that fail (R593). -/
structure BootIn where
  prog : List (Nat × List Byte) := []
  fails : BitVec 4 := 0#4
deriving DecidableEq, Repr

/-- What an Announce message carries (R452, IEEE 1588-2019): the sender's port identity, and the data set of its grandmaster. -/
structure Announce where
  source : Nat
  gm : Nat
  priority1 : Nat
  clockClass : Nat
  accuracy : Nat
  variance : Nat
  priority2 : Nat
  steps : Nat
  utc : Int := 0
  timeSource : Nat := 0
  flags : Nat := 0
deriving DecidableEq, Repr

end Sys2Proof.Machine
end

