-- ==== Sys2Proof/Config.lean ====
section
/-!
DEFINITION. What the spec leaves open: constants without a body, so that nothing can be proved of their values.  Each is named in a
row of the assumption log.
-/

namespace Sys2Proof.Config

/-- The coded form that a compressor of this device gives a run of bytes under LZ coding: R110 to R112 say which token sequences
are valid and R119 that all compressors agree, but no rule says which matches are chosen. -/
opaque lzCode : List Byte → List Byte

/-- Where a DRAM address lies in the components: the row address of R422 in bits 21 to 0, the column above.  No rule maps addresses
to banks, rows and columns beyond the channel (R390). -/
opaque dramRow : Nat → Nat

/-- The syndrome of the code of R410 for a wrong bit. -/
opaque syndrome : Nat → Nat

/-- The row addresses of a channel's spare rows (R422): they lie inside the firmware working store, at rows that no rule names. -/
opaque spareRow : Nat → Nat → Nat

/-- A byte of a granary region whose layout the spec does not give, as the debug window shows it (R39): by window offset and read. -/
opaque granByte : Nat → Nat → Nat

/-- Which data bit `INJECT` 1 flips (R434). -/
opaque injectBit : Nat → Nat

/-- The tap request that a receiver of this device makes of the far end's transmitter next, 0 for none (R230, R232): the rules say how
a request is made, not which. -/
opaque tapRequest : Nat → Nat

/-- The digest of a context's tables, pending changes and page queue: a CRC-32C over a layout that belongs to the firmware release (R505,
R512). -/
opaque digest : List Nat → Nat

/-- What a chip's fuses hold from manufacture: the SHA-384 of the key in slot 0 (R567), and `SEC_DEVICE_ID`. -/
opaque slot0Hash : Nat
opaque deviceId : Nat

/-- The 58 bits in a lane's scrambler before its first block (R224). -/
opaque scramblerSeed : Nat → List Bool

/-- The places at which the spec leaves a value open that the machine goes on with: each is a free value, drawn from `free`. -/
inductive FreeKind where
  /-- the last bit of a speed that is no whole number of its unit (R298, R317) -/
  | speedRound
  /-- the angle of a sine and cosine that are both 0, and the neighbour taken near a rounding boundary (R284) -/
  | angle
  /-- the target of `GC` after a window in which the cosine did not move (R288) -/
  | gain
  /-- how long after its line tick a camera pulse message starts: at most 100 ns (R337) -/
  | camPulse
  /-- a tracked shift that leaves its 16 bits (R356) -/
  | camShift
  /-- the estimates in the record of a seed (R376, R380) -/
  | seedRecord
  /-- the clock periods of a BiSS-C or SSI frame beyond its position bits (R280, `READ_NS`) -/
  | frameTime
  /-- address and place in a MEM log record that is about no single word (R421) -/
  | logField
  /-- how long after a step the latest pulse passed over is driven: at most 5 µs (R463) -/
  | latePulse
  /-- the rounding of ρ to 1/64 °C per ms (R542, R564), and of `AGE_EOL` to hours (R563) -/
  | riseRound
  | ageRound
  /-- `OFS_A` or `OFS_B` of an offset that leaves its 16 bits (R472) -/
  | chopOfs
  /-- the phase of a lane's block boundaries (R638) -/
  | lanePhase
  /-- by how much eye re-centring lengthens a refresh stall: at most 20 ns (R397) -/
  | eyeStall
  /-- the direction of the first A/B transition that a channel sees (R293) -/
  | quadLevel
  /-- eye and receiver peaking of a trained lane (`LANE_RX_EQ`) -/
  | rxEq
deriving DecidableEq, Repr

/-- The free values: nothing is known of them. -/
opaque free : FreeKind → Nat → Nat

end Sys2Proof.Config
end

