-- ==== Sys2Proof/Machine/Status.lean ====
section
/-!
DEFINITION. The status and fault codes of R92.
-/

namespace Sys2Proof.Machine

/-- The status codes of R92. -/
inductive Status where
  /-- 0x0000 `OK`: Done as asked. -/
  | ok
  /-- 0x0101 `BAD_STATE_CHANGE`: Device state change refused. -/
  | badStateChange
  /-- 0x0102 `ROOT_LOSS`: Reference clock lost (fault). -/
  | rootLoss
  /-- 0x0201 `BAD_OPCODE`: Opcode unknown. -/
  | badOpcode
  /-- 0x0202 `BAD_PARAM`: Parameter outside its range. -/
  | badParam
  /-- 0x0203 `NOT_PRIV`: Privilege required or not allowed on this ring. -/
  | notPriv
  /-- 0x0204 `BAD_CONTEXT`: Context not allowed for this opcode. -/
  | badContext
  /-- 0x0205 `CTX_STATE`: Context in the wrong state. -/
  | ctxState
  /-- 0x0206 `UNIT_OFF`: Target unit not accepting work. -/
  | unitOff
  /-- 0x0207 `ABORTED`: Discarded by abort. -/
  | aborted
  /-- 0x0208 `POISONED`: Poisoned entry or descriptor. -/
  | poisoned
  /-- 0x0209 `DMA_ERROR`: PCIe transfer failed. -/
  | dmaError
  /-- 0x020A `BAD_DOORBELL`: Invalid doorbell value. -/
  | badDoorbell
  /-- 0x020B `NO_RESOURCE`: Queue, handle or lane not available. -/
  | noResource
  /-- 0x020C `BAD_CONTINUATION`: Entry count wrong. -/
  | badContinuation
  /-- 0x020D `DRAIN_TIMEOUT`: Drain exceeded its bound and was aborted. -/
  | drainTimeout
  /-- 0x020E `RECLAIMED`: Work lost to the watchdog or `RECLAIM`. -/
  | reclaimed
  /-- 0x020F `NOT_READY`: Initialisation not complete. -/
  | notReady
  /-- 0x0210 `WRONG_UNIT_STATE`: Unit in the wrong state. -/
  | wrongUnitState
  /-- 0x0211 `CREDIT_TIMEOUT`: Credit watchdog fired (fault). -/
  | creditTimeout
  /-- 0x0212 `FW_FAULT`: Command processor firmware fault (fault). -/
  | fwFault
  /-- 0x0301 `OUT_FULL`: Output space ran out; resumable. -/
  | outFull
  /-- 0x0302 `NOT_SHRUNK`: Privileged data did not shrink. -/
  | notShrunk
  /-- 0x0303 `BAD_HEADER`: Bale header invalid. -/
  | badHeader
  /-- 0x0304 `CRC_MISMATCH`: Bale CRC-32C wrong. -/
  | crcMismatch
  /-- 0x0305 `CODE_ERROR`: Coded stream invalid. -/
  | codeError
  /-- 0x0306 `VERIFY_FAIL`: Verify-by-decode disagreed. -/
  | verifyFail
  /-- 0x0307 `BAD_HANDLE`: Resume handle not held. -/
  | badHandle
  /-- 0x0401 `BAD_LAYER`: Layer descriptor invalid. -/
  | badLayer
  /-- 0x0402 `SEALED_LAYER`: Layer 7 changed without authentication. -/
  | sealedLayer
  /-- 0x0403 `PAGE_MARKED`: Page fired with marks. -/
  | pageMarked
  /-- 0x0404 `RATE_LIMIT`: Line rate beyond a limit. -/
  | rateLimit
  /-- 0x0501 `BAD_NMAP_ENTRY`: Nozzle map entry invalid. -/
  | badNmapEntry
  /-- 0x0502 `TABLE_PENDING`: An earlier change to the table is still pending. -/
  | tablePending
  /-- 0x0601 `TRAIN_FAIL`: Lane training failed. -/
  | trainFail
  /-- 0x0602 `TRAIN_ABORTED`: Training aborted by a rate change. -/
  | trainAborted
  /-- 0x0603 `LANE_DOWN`: Lane lost lock or signal. -/
  | laneDown
  /-- 0x0604 `REPLAY_EXHAUSTED`: Replay limit reached (fault). -/
  | replayExhausted
  /-- 0x0701 `COMPARE_LATE`: Compare target behind position. -/
  | compareLate
  /-- 0x0702 `INDEX_ERROR`: Index-to-index count wrong. -/
  | indexError
  /-- 0x0703 `ENC_FAULT`: Encoder signal fault. -/
  | encFault
  /-- 0x0801 `CAM_DOWN`: Camera lane down. -/
  | camDown
  /-- 0x0802 `GENCP_TIMEOUT`: No GenCP reply. -/
  | gencpTimeout
  /-- 0x0803 `PIXEL_RATE`: Stripes exceed 4 Gpixel/s. -/
  | pixelRate
  /-- 0x0901 `NOT_ACCEPTED`: Windows disagreed. -/
  | notAccepted
  /-- 0x0902 `CAL_LIMIT`: Correction beyond its limit. -/
  | calLimit
  /-- 0x0903 `NO_SIGNAL`: Content gave no usable signal. -/
  | noSignal
  /-- 0x0A01 `UNCORRECTABLE`: Uncorrectable DRAM error. -/
  | uncorrectable
  /-- 0x0A02 `REMAP_FULL`: No spare row left. -/
  | remapFull
  /-- 0x0A03 `RETIRE_IN_USE`: Page in use. -/
  | retireInUse
  /-- 0x0A04 `REPLAY_FAILED`: Granary replay failed (fault). -/
  | replayFailed
  /-- 0x0B01 `NOT_SYNCED`: Time base not synchronised. -/
  | notSynced
  /-- 0x0B02 `PULSE_PAST`: Start time already passed. -/
  | pulsePast
  /-- 0x0C01 `LIMIT_TRIP`: Limit input tripped. -/
  | limitTrip
  /-- 0x0C02 `STALL`: Stall detected. -/
  | stall
  /-- 0x0C03 `CHATTER`: Input chattering. -/
  | chatter
  /-- 0x0C04 `HOME_FAIL`: Home not found. -/
  | homeFail
  /-- 0x0C05 `OVERCURRENT`: Bridge current limit. -/
  | overcurrent
  /-- 0x0D01 `PARTNER_DOWN`: Yoke partner down. -/
  | partnerDown
  /-- 0x0D02 `EPOCH_STALE`: Epoch already superseded. -/
  | epochStale
  /-- 0x0D03 `DIVERGED`: Swath CRCs disagreed. -/
  | diverged
  /-- 0x0D04 `FENCED`: This device is fenced. -/
  | fenced
  /-- 0x0E01 `TEST_FAIL`: Gleaner test failed. -/
  | testFail
  /-- 0x0E02 `GLEAN_BUSY`: Gleaner busy. -/
  | gleanBusy
  /-- 0x0F01 `THERMAL_STOP`: Orderly stop for temperature (fault). -/
  | thermalStop
  /-- 0x0F02 `SHUTDOWN`: Thermal shutdown (fault). -/
  | shutdown
  /-- 0x0F03 `SENSOR_FAULT`: Sensor implausible. -/
  | sensorFault
  /-- 0x1001 `SIG_INVALID`: Signature invalid. -/
  | sigInvalid
  /-- 0x1002 `KEY_REVOKED`: Key slot revoked. -/
  | keyRevoked
  /-- 0x1003 `ROLLBACK`: Version older than allowed. -/
  | rollback
  /-- 0x1004 `MODULE_ERROR`: Cryptographic module in error state (fault). -/
  | moduleError
  /-- 0x1005 `AUTH_REQUIRED`: Authentication required first. -/
  | authRequired
deriving DecidableEq, Repr

/-- The code of a status (R92). -/
def Status.code : Status → Nat
  | .ok => 0x0000
  | .badStateChange => 0x0101
  | .rootLoss => 0x0102
  | .badOpcode => 0x0201
  | .badParam => 0x0202
  | .notPriv => 0x0203
  | .badContext => 0x0204
  | .ctxState => 0x0205
  | .unitOff => 0x0206
  | .aborted => 0x0207
  | .poisoned => 0x0208
  | .dmaError => 0x0209
  | .badDoorbell => 0x020A
  | .noResource => 0x020B
  | .badContinuation => 0x020C
  | .drainTimeout => 0x020D
  | .reclaimed => 0x020E
  | .notReady => 0x020F
  | .wrongUnitState => 0x0210
  | .creditTimeout => 0x0211
  | .fwFault => 0x0212
  | .outFull => 0x0301
  | .notShrunk => 0x0302
  | .badHeader => 0x0303
  | .crcMismatch => 0x0304
  | .codeError => 0x0305
  | .verifyFail => 0x0306
  | .badHandle => 0x0307
  | .badLayer => 0x0401
  | .sealedLayer => 0x0402
  | .pageMarked => 0x0403
  | .rateLimit => 0x0404
  | .badNmapEntry => 0x0501
  | .tablePending => 0x0502
  | .trainFail => 0x0601
  | .trainAborted => 0x0602
  | .laneDown => 0x0603
  | .replayExhausted => 0x0604
  | .compareLate => 0x0701
  | .indexError => 0x0702
  | .encFault => 0x0703
  | .camDown => 0x0801
  | .gencpTimeout => 0x0802
  | .pixelRate => 0x0803
  | .notAccepted => 0x0901
  | .calLimit => 0x0902
  | .noSignal => 0x0903
  | .uncorrectable => 0x0A01
  | .remapFull => 0x0A02
  | .retireInUse => 0x0A03
  | .replayFailed => 0x0A04
  | .notSynced => 0x0B01
  | .pulsePast => 0x0B02
  | .limitTrip => 0x0C01
  | .stall => 0x0C02
  | .chatter => 0x0C03
  | .homeFail => 0x0C04
  | .overcurrent => 0x0C05
  | .partnerDown => 0x0D01
  | .epochStale => 0x0D02
  | .diverged => 0x0D03
  | .fenced => 0x0D04
  | .testFail => 0x0E01
  | .gleanBusy => 0x0E02
  | .thermalStop => 0x0F01
  | .shutdown => 0x0F02
  | .sensorFault => 0x0F03
  | .sigInvalid => 0x1001
  | .keyRevoked => 0x1002
  | .rollback => 0x1003
  | .moduleError => 0x1004
  | .authRequired => 0x1005

/-- The status codes, in order. -/
def Status.all : List Status :=
  [.ok, .badStateChange, .rootLoss, .badOpcode, .badParam, .notPriv, .badContext, .ctxState, .unitOff, .aborted, .poisoned, .dmaError] ++
  [.badDoorbell, .noResource, .badContinuation, .drainTimeout, .reclaimed, .notReady, .wrongUnitState, .creditTimeout, .fwFault, .outFull, .notShrunk, .badHeader] ++
  [.crcMismatch, .codeError, .verifyFail, .badHandle, .badLayer, .sealedLayer, .pageMarked, .rateLimit, .badNmapEntry, .tablePending, .trainFail, .trainAborted] ++
  [.laneDown, .replayExhausted, .compareLate, .indexError, .encFault, .camDown, .gencpTimeout, .pixelRate, .notAccepted, .calLimit, .noSignal, .uncorrectable] ++
  [.remapFull, .retireInUse, .replayFailed, .notSynced, .pulsePast, .limitTrip, .stall, .chatter, .homeFail, .overcurrent, .partnerDown, .epochStale] ++
  [.diverged, .fenced, .testFail, .gleanBusy, .thermalStop, .shutdown, .sensorFault, .sigInvalid, .keyRevoked, .rollback, .moduleError, .authRequired]

/-- The status of a code. -/
def statusOf (n : Nat) : Option Status := Status.all.find? fun x => decide (x.code = n)

end Sys2Proof.Machine
end

