-- ==== Sys2Proof/Machine/BaleCodec.lean ====
section
/-!
DEFINITION. The bale format of spec/03: the header and its checks (R103 to R106), the three codings (R109 to R119), and what a decode
job and an encode job produce (R125 to R136), as functions on byte lists.
-/

namespace Sys2Proof.Machine

/-- The header of a bale, read from its 32 bytes (R103). -/
structure BaleHdr where
  magic : Nat
  version : Nat
  coding : Nat
  flags : Nat
  rsv1 : Nat
  rawLen : Nat
  codedLen : Nat
  e : Nat
  layout : Nat
  bseq : Nat
  crc : Nat
  rsv2 : Nat
deriving DecidableEq, Repr

/-- Read a header (R103, R10). -/
def BaleHdr.ofBytes (bs : List Byte) : BaleHdr :=
  { magic := fieldN bs 0 2, version := fieldN bs 2 1, coding := fieldN bs 3 1, flags := fieldN bs 4 2, rsv1 := fieldN bs 6 2,
    rawLen := fieldN bs 8 4, codedLen := fieldN bs 12 4, e := fieldN bs 16 1, layout := fieldN bs 17 3, bseq := fieldN bs 20 4,
    crc := fieldN bs 24 4, rsv2 := fieldN bs 28 4 }

/-- Write a header (R103). -/
def BaleHdr.toBytes (h : BaleHdr) : List Byte :=
  leBytes 2 h.magic ++ leBytes 1 h.version ++ leBytes 1 h.coding ++ leBytes 2 h.flags ++ leBytes 2 h.rsv1 ++
  leBytes 4 h.rawLen ++ leBytes 4 h.codedLen ++ leBytes 1 h.e ++ leBytes 3 h.layout ++ leBytes 4 h.bseq ++
  leBytes 4 h.crc ++ leBytes 4 h.rsv2

/-- Bytes per sample of a layout word. -/
def layoutBps (l : Nat) : Nat := l % 4 + 1
/-- Channels of a layout word. -/
def layoutChannels (l : Nat) : Nat := bits l 2 3 + 1
/-- Row length in pixels of a layout word. -/
def layoutRow (l : Nat) : Nat := bits l 8 16 + 1
/-- Row size in bytes: bytes per sample times channels times row length. -/
def layoutRowSize (l : Nat) : Nat := layoutBps l * layoutChannels l * layoutRow l

/-- `RAW`, `LOSSY`, `LAST`, `PRIV` of `BFLAGS`. -/
def BaleHdr.raw (h : BaleHdr) : Bool := bit h.flags 0
def BaleHdr.lossy (h : BaleHdr) : Bool := bit h.flags 1
def BaleHdr.last (h : BaleHdr) : Bool := bit h.flags 2
def BaleHdr.priv (h : BaleHdr) : Bool := bit h.flags 3

/-- Padding that brings the next bale to an 8-byte boundary (R105). -/
def balePad (coded : Nat) : Nat := (8 - coded % 8) % 8

/-- The bytes a bale occupies (R105). -/
def BaleHdr.size (h : BaleHdr) : Nat := 32 + h.codedLen + balePad h.codedLen

/-- The header checks of R104; `avail` is the source length from the bale's first byte on. -/
def BaleHdr.bad (h : BaleHdr) (avail : Nat) : Bool :=
  decide (h.magic ≠ 0x4C42) || decide (h.version ≠ 1) || decide (2 < h.coding) ||
  decide (h.rsv1 ≠ 0) || decide (h.rsv2 ≠ 0) || decide (16 ≤ h.flags) || decide (bits h.layout 5 3 ≠ 0) ||
  decide (h.rawLen = 0) || decide (65536 < h.rawLen) || decide (h.rawLen % layoutRowSize h.layout ≠ 0) ||
  decide (65536 < layoutRowSize h.layout) ||
  decide (3 < h.e) || (decide (0 < h.e) && decide (h.coding ≠ 2)) ||
  (h.raw && decide (h.coding ≠ 0)) ||
  (h.lossy != (decide (h.coding = 2) && decide (0 < h.e))) ||
  (h.priv && h.lossy) ||
  decide (2 ≤ h.layout % 4) ||
  (decide (h.coding = 2) && decide (layoutBps h.layout = 2)) ||
  (decide (h.coding = 0) && decide (h.codedLen ≠ h.rawLen)) ||
  (decide (h.coding ≠ 0) && (decide (h.codedLen = 0) || decide (h.rawLen ≤ h.codedLen))) ||
  decide (avail < h.size)

/-- A code word, the least an engine starts and finishes whole: the bytes it gives, and how many coded bytes have all their bits in
code words up to and including this one. -/
structure CodeWord where
  out : List Byte
  inEnd : Nat
deriving DecidableEq, Repr

/-- STORED: one byte is one code word (R109). -/
def storedWords : Nat → List Byte → List CodeWord
  | _, [] => []
  | n, b :: r => ⟨[b], n + 1⟩ :: storedWords (n + 1) r

/-- The extension bytes of a length: their sum, and what follows them (R111). -/
def lzExt : List Byte → Option (Nat × List Byte)
  | [] => none
  | b :: r =>
    if b = 255#8 then
      match lzExt r with
      | some (n, r') => some (n + 255, r')
      | none => none
    else some (b.toNat, r)

/-- Copy `n` bytes from the distance `d` back, one at a time; the output stands last byte first (R111). -/
def lzCopy (d : Nat) : Nat → List Byte → List Byte
  | 0, rev => rev
  | n + 1, rev => lzCopy d n (rev.getD (d - 1) 0#8 :: rev)

/-- One token: its literals, its match as length and distance, and what follows it; none when the coded data ends inside it. -/
def lzToken (l : List Byte) : Option (List Byte × Nat × Nat × List Byte) :=
  match l with
  | [] => none
  | t :: r =>
    let lc := t.toNat / 32
    let mc := t.toNat % 32
    match (if lc = 7 then (match lzExt r with | some (n, r') => some (n + 7, r') | none => none) else some (lc, r)) with
    | none => none
    | some (nlit, r1) =>
      if r1.length < nlit then none
      else
        let lits := r1.take nlit
        let r2 := r1.drop nlit
        if mc = 0 then some (lits, 0, 0, r2)
        else if r2.length < 2 then none
        else
          let d := fieldN r2 0 2
          let r3 := r2.drop 2
          if mc = 31 then
            match lzExt r3 with
            | some (n, r4) => some (lits, n + 33, d, r4)
            | none => none
          else some (lits, mc + 2, d, r3)

/-- The code words of an LZ bale, and whether the coded data is without error (R112).  `rev` is the output so far, last byte first,
`n` its length, `total` the length of the coded data; `fuel` bounds the number of tokens. -/
def lzWords (raw total : Nat) : Nat → List Byte → List Byte → Nat → List CodeWord × Bool
  | 0, l, _, n => ([], l.isEmpty && decide (n = raw))
  | fuel + 1, l, rev, n =>
    if l.isEmpty then ([], decide (n = raw))
    else if raw ≤ n then ([], false)
    else
      match lzToken l with
      | none => ([], false)
      | some (lits, ml, d, rest) =>
        if lits.isEmpty && decide (ml = 0) then ([], false)
        else
          let rev1 := lits.reverse ++ rev
          let n1 := n + lits.length
          if decide (ml ≠ 0) && (decide (d = 0) || decide (n1 < d)) then ([], false)
          else if raw < n1 + ml then ([], false)
          else
            let rev2 := lzCopy d ml rev1
            let out := (rev2.take (lits.length + ml)).reverse
            let (ws, ok) := lzWords raw total fuel rest rev2 (n1 + ml)
            (⟨out, total - rest.length⟩ :: ws, ok)

/-- The bits of bytes, bit 0 of each byte first (R117). -/
def bitsOf : List Byte → List Bool
  | [] => []
  | b :: r => (List.range 8).map (fun i => b.toNat.testBit i) ++ bitsOf r

/-- The number that bits spell, least significant first. -/
def bitsNat : List Bool → Nat
  | [] => 0
  | b :: r => b2n b + 2 * bitsNat r

/-- The `n` low bits of a number, least significant first. -/
def natBits : Nat → Nat → List Bool
  | 0, _ => []
  | n + 1, v => decide (v % 2 = 1) :: natBits n (v / 2)

/-- Pack bits into bytes, unused bits of the last byte 0 (R117); `fuel` bounds the bytes. -/
def packBits : Nat → List Bool → List Byte
  | 0, _ => []
  | _, [] => []
  | fuel + 1, l => BitVec.ofNat 8 (bitsNat (l.take 8)) :: packBits fuel (l.drop 8)

/-- The prediction of R113. -/
def nlPredict (r c a b cc : Nat) : Nat :=
  if r = 0 ∧ c = 0 then 128
  else if r = 0 then a
  else if c = 0 then b
  else
    let mx := max a b
    let mn := min a b
    if mx ≤ cc then mn else if cc ≤ mn then mx else a + b - cc

/-- The residual that a mapped value stands for (R114). -/
def nlUnmap (m : Nat) : Int := if m % 2 = 1 then -(((m + 1) / 2 : Nat) : Int) else ((m / 2 : Nat) : Int)

/-- The reconstruction from the prediction and the residual, clamped to a byte (R114). -/
def nlRecon (p : Nat) (q : Int) (e : Nat) : Nat := (clampI 0 255 ((p : Int) + q * ((2 * e + 1 : Nat) : Int))).toNat

/-- The quantized residual of a sample (R114). -/
def nlQuant (x p e : Nat) : Int :=
  let step := 2 * e + 1
  if p ≤ x then (((x - p + e) / step : Nat) : Int) else -(((p - x + e) / step : Nat) : Int)

/-- The mapped value of a residual (R114). -/
def nlMap (q : Int) : Nat := if 0 ≤ q then (2 * q).toNat else (-2 * q - 1).toNat

/-- The prediction of the next sample, from the reconstructed samples, last first. -/
def nlNext (ch row : Nat) (rev : List Byte) (i : Nat) : Nat :=
  let at' (k : Nat) : Nat := (rev.getD k 0#8).toNat
  nlPredict (i / (ch * row)) (i / ch % row) (at' (ch - 1)) (at' (ch * row - 1)) (at' (ch * row + ch - 1))

/-- One Rice code word: the mapped value and what follows, none when the data ends inside it (R116). -/
def nlCode (k : Nat) (l : List Bool) : Option (Nat × List Bool) :=
  let u := (l.take 24).takeWhile id |>.length
  if u = 24 then
    if l.length < 33 then none else some (bitsNat ((l.drop 24).take 9), l.drop 33)
  else if l.length < u + 1 + k then none
  else some (u * 2 ^ k + bitsNat ((l.drop (u + 1)).take k), l.drop (u + 1 + k))

/-- `n` samples of one group. -/
def nlGroup (e ch row k : Nat) : Nat → List Bool → List Byte → Nat → Option (List Bool × List Byte)
  | 0, l, rev, _ => some (l, rev)
  | n + 1, l, rev, i =>
    match nlCode k l with
    | none => none
    | some (m, r) => nlGroup e ch row k n r (BitVec.ofNat 8 (nlRecon (nlNext ch row rev i) (nlUnmap m) e) :: rev) (i + 1)

/-- The code words of an NL bale, one group of up to 32 samples each, and whether the data is without error (R116 to R118). -/
def nlWords (e ch row raw total : Nat) : Nat → List Bool → List Byte → Nat → List CodeWord × Bool
  | 0, _, _, _ => ([], false)
  | fuel + 1, l, rev, i =>
    if raw ≤ i then ([], decide (l.length < 8) && l.all (! ·))
    else if l.length < 4 then ([], false)
    else
      let k := bitsNat (l.take 4)
      if 8 < k then ([], false)
      else
        let n := min 32 (raw - i)
        match nlGroup e ch row k n (l.drop 4) rev i with
        | none => ([], false)
        | some (rest, rev') =>
          let (ws, ok) := nlWords e ch row raw total fuel rest rev' (i + n)
          (⟨(rev'.take n).reverse, (8 * total - rest.length) / 8⟩ :: ws, ok)

/-- The code words of a bale's coded data, and whether it has no code error (R109, R112, R118). -/
def baleWords (h : BaleHdr) (coded : List Byte) : List CodeWord × Bool :=
  match h.coding with
  | 0 => (storedWords 0 coded, true)
  | 1 => lzWords h.rawLen coded.length (coded.length + 1) coded [] 0
  | _ => nlWords h.e (layoutChannels h.layout) (layoutRow h.layout) h.rawLen coded.length (h.rawLen + 1) (bitsOf coded) [] 0

/-- The decoded bytes of code words. -/
def wordsOut (ws : List CodeWord) : List Byte := ws.flatMap CodeWord.out

/-- Decode one whole bale that stands at the start of a byte list: its bytes, or the status it fails with, in the order in which
the decoder meets the checks (R104, R107, R112, R118). -/
def decodeBale (bs : List Byte) : Except Status (BaleHdr × List Byte) :=
  if bs.length < 32 then .error .badHeader
  else
    let h := BaleHdr.ofBytes bs
    if h.bad bs.length then .error .badHeader
    else
      let (ws, ok) := baleWords h ((bs.drop 32).take h.codedLen)
      if !ok then .error .codeError
      else if crc32c (wordsOut ws) ≠ h.crc then .error .crcMismatch
      else .ok (h, wordsOut ws)

/-- How a decode job stopped. -/
inductive JobStop where
  /-- the source is used up -/
  | done
  /-- a code word does not fit: bytes of the current bale consumed and produced so far in it -/
  | full (inBale outBale : Nat)
  /-- a bale failed; the offset is that of its header from where the decoding began -/
  | fail (st : Status) (off : Nat)
deriving DecidableEq, Repr

/-- What a decode job has done: input consumed, output of completed code words, bales completed; the same at the end of the last
completed bale; and how it stopped. -/
structure JobRes where
  consumed : Nat
  out : List Byte
  bales : Nat
  consumedB : Nat
  outB : List Byte
  stop : JobStop
deriving DecidableEq, Repr

/-- Take code words while their bytes fit: the bytes, the coded bytes consumed, and whether all fitted. -/
def takeWords (room inEnd : Nat) (acc : List Byte) : List CodeWord → List Byte × Nat × Bool
  | [] => (acc, inEnd, true)
  | w :: ws => if w.out.length ≤ room then takeWords (room - w.out.length) w.inEnd (acc ++ w.out) ws else (acc, inEnd, false)

/-- Leave out the code words whose bytes were produced before. -/
def skipWords (n : Nat) : List CodeWord → List CodeWord
  | [] => []
  | w :: ws => if n = 0 then w :: ws else skipWords (n - w.out.length) ws

/-- Put the counts of a completed bale before those of what follows. -/
def JobRes.after (r : JobRes) (inB : Nat) (o : List Byte) : JobRes :=
  { consumed := inB + r.consumed, out := o ++ r.out, bales := r.bales + 1, consumedB := inB + r.consumedB, outB := o ++ r.outB,
    stop := match r.stop with | .fail st off => .fail st off | x => x }

/-- Decode bales one after another into `room` bytes (R130, R136, R138).  `skipIn` and `skipOut` are what the first bale had
consumed and produced in an earlier packet of the same job; `off` is the offset of the bale from the job's start; `bad` says which
source bytes arrive poisoned (R418); `fuel` bounds the bales. -/
def decodeJob (priv : Bool) (bad : Nat → Nat → Bool) : Nat → List Byte → Nat → Nat → Nat → Nat → JobRes
  | 0, _, _, _, _, _ => ⟨0, [], 0, 0, [], .done⟩
  | fuel + 1, src, off, room, skipIn, skipOut =>
    if src.isEmpty then ⟨0, [], 0, 0, [], .done⟩
    else if src.length < 32 then ⟨0, [], 0, 0, [], .fail .badHeader off⟩
    else if bad off 32 then ⟨0, [], 0, 0, [], .fail .poisoned off⟩
    else
      let h := BaleHdr.ofBytes src
      if h.priv && !priv then ⟨0, [], 0, 0, [], .fail .notPriv off⟩
      else if h.bad src.length then ⟨0, [], 0, 0, [], .fail .badHeader off⟩
      else if bad off (32 + h.codedLen) then ⟨0, [], 0, 0, [], .fail .poisoned off⟩
      else
        let (ws, ok) := baleWords h ((src.drop 32).take h.codedLen)
        let (o, inEnd, all) := takeWords room (skipIn - 32) [] (skipWords skipOut ws)
        if !all then
          let inB := 32 + inEnd
          ⟨inB - skipIn, o, 0, 0, [], .full inB (skipOut + o.length)⟩
        else if !ok then ⟨0, o, 0, 0, [], .fail .codeError off⟩
        else if crc32c (wordsOut ws) ≠ h.crc then ⟨0, o, 0, 0, [], .fail .crcMismatch off⟩
        else
          (decodeJob priv bad fuel (src.drop h.size) (off + h.size) (room - o.length) 0 0).after (h.size - skipIn) o

/-- Check every bale of a source (R137): bales checked, the bad one included, and the bad one's offset and status. -/
def verifyJob (bad : Nat → Nat → Bool) : Nat → List Byte → Nat → Nat × Option (Nat × Status)
  | 0, _, _ => (0, none)
  | fuel + 1, src, off =>
    if src.isEmpty then (0, none)
    else if decide (32 ≤ src.length) && bad off 32 then (1, some (off, .poisoned))
    else if decide (32 ≤ src.length) && !(BaleHdr.ofBytes src).bad src.length && bad off (32 + (BaleHdr.ofBytes src).codedLen) then
      (1, some (off, .poisoned))
    else
      match decodeBale src with
      | .error st => (1, some (off, st))
      | .ok (h, _) =>
        let (n, r) := verifyJob bad fuel (src.drop h.size) (off + h.size)
        (n + 1, r)

/-- LZ coding by literals only, which R110 always allows. -/
def lzLiterals : Nat → List Byte → List Byte
  | 0, _ => []
  | fuel + 1, l =>
    if l.isEmpty then []
    else (BitVec.ofNat 8 ((min 6 l.length) * 32) :: l.take 6) ++ lzLiterals fuel (l.drop 6)

/-- The LZ coded data of a run of bytes: what this device's compressors choose, provided it decodes to the run (R119). -/
def lzEncode (raw : List Byte) : List Byte :=
  let c := Config.lzCode raw
  let (ws, ok) := lzWords raw.length c.length (c.length + 1) c [] 0
  if ok && decide (wordsOut ws = raw) then c else lzLiterals (raw.length + 1) raw

/-- The mapped values of samples, coded against their reconstruction (R113, R114). -/
def nlMapped (e ch row : Nat) : List Byte → List Byte → Nat → List Nat
  | [], _, _ => []
  | x :: xs, rev, i =>
    let p := nlNext ch row rev i
    let q := nlQuant x.toNat p e
    nlMap q :: nlMapped e ch row xs (BitVec.ofNat 8 (nlRecon p q e) :: rev) (i + 1)

/-- The reconstruction of samples (R114). -/
def nlReconAll (e ch row : Nat) : List Byte → List Byte → Nat → List Byte
  | [], rev, _ => rev.reverse
  | x :: xs, rev, i =>
    let p := nlNext ch row rev i
    nlReconAll e ch row xs (BitVec.ofNat 8 (nlRecon p (nlQuant x.toNat p e) e) :: rev) (i + 1)

/-- The Rice code word of a mapped value (R116). -/
def nlCodeBits (k m : Nat) : List Bool :=
  let u := m / 2 ^ k
  if u < 24 then List.replicate u true ++ [false] ++ natBits k m else List.replicate 24 true ++ natBits 9 m

/-- The length of a group's code words under one k. -/
def nlGroupLen (k : Nat) (ms : List Nat) : Nat :=
  (ms.map fun m => if m / 2 ^ k < 24 then m / 2 ^ k + 1 + k else 33).sum

/-- The k from 0 to 8 that minimises a group's length, the smallest of several (R119). -/
def nlBestK (ms : List Nat) : Nat :=
  (List.range 9).foldl (fun best k => if nlGroupLen k ms < nlGroupLen best ms then k else best) 0

/-- The NL coded data of samples (R116, R117). -/
def nlEncode (e ch row : Nat) (raw : List Byte) : List Byte :=
  let groups := chunks 32 (raw.length + 1) (nlMapped e ch row raw [] 0)
  let bs := groups.flatMap fun g => natBits 4 (nlBestK g) ++ g.flatMap (nlCodeBits (nlBestK g))
  packBits (bs.length + 1) bs

/-- What an encode job is asked for (R124). -/
structure EncReq where
  coding : Nat
  e : Nat
  layout : Nat
  verify : Bool
  priv : Bool
deriving DecidableEq, Repr

/-- The bale of a run of whole rows (R125, R126); none where R127 refuses it. -/
def encodeBale (q : EncReq) (bseq : Nat) (last : Bool) (raw : List Byte) : Option (List Byte) :=
  let mk (coding e : Nat) (rawFlag : Bool) (dec coded : List Byte) : List Byte :=
    let h : BaleHdr :=
      { magic := 0x4C42, version := 1, coding := coding,
        flags := b2n rawFlag + 2 * b2n (decide (coding = 2 ∧ 0 < e)) + 4 * b2n last + 8 * b2n q.priv,
        rsv1 := 0, rawLen := raw.length, codedLen := coded.length, e := e, layout := q.layout, bseq := bseq,
        crc := crc32c dec, rsv2 := 0 }
    h.toBytes ++ coded ++ List.replicate (balePad coded.length) 0#8
  let ch := layoutChannels q.layout
  let row := layoutRow q.layout
  if q.coding = 0 then some (mk 0 0 false raw raw)
  else
    let coded := if q.coding = 1 then lzEncode raw else nlEncode q.e ch row raw
    let dec := if q.coding = 1 then raw else nlReconAll q.e ch row raw [] 0
    if raw.length ≤ coded.length then
      if q.priv then none else some (mk 0 0 true raw raw)
    else some (mk q.coding (if q.coding = 2 then q.e else 0) false dec coded)

/-- The checks of R128: the coded bale decodes, its bytes give the header's `CRC`, and they equal the source, or lie within e of it for
NL. -/
def verifies (q : EncReq) (raw bale : List Byte) : Bool :=
  match decodeBale bale with
  | .error _ => false
  | .ok (h, d) =>
    if h.coding = 2 then
      decide (d.length = raw.length) && (d.zip raw).all fun x => decide (x.1.toNat ≤ x.2.toNat + q.e) && decide (x.2.toNat ≤ x.1.toNat + q.e)
    else decide (d = raw)

/-- How an encode job stopped. -/
inductive EncStop where
  | done | full | notShrunk
  /-- a verify check failed for the bale that would stand at this offset of the destination -/
  | verifyFail (off : Nat)
deriving DecidableEq, Repr

/-- What an encode job has done: raw bytes coded, bale bytes, bales, and how it stopped. -/
structure EncRes where
  consumed : Nat
  out : List Byte
  bales : Nat
  stop : EncStop
deriving DecidableEq, Repr

/-- Code rows into bales while they fit (R125 to R129, R134).  `bad` is the number, counted from this packet's first bale, of a
bale that the compressor's hardware codes wrongly, which only a verifying job notices. -/
def encodeJob (q : EncReq) (per : Nat) (bad : Option Nat) : Nat → List Byte → Nat → Nat → Nat → Nat → EncRes
  | 0, _, _, _, _, _ => ⟨0, [], 0, .done⟩
  | fuel + 1, src, bseq, room, done, n =>
    if src.isEmpty then ⟨0, [], 0, .done⟩
    else
      let raw := src.take per
      let rest := src.drop per
      match encodeBale q bseq rest.isEmpty raw with
      | none => ⟨0, [], 0, .notShrunk⟩
      | some b =>
        if q.verify && (decide (bad = some n) || !verifies q raw b) then ⟨0, [], 0, .verifyFail done⟩
        else if room < b.length then ⟨0, [], 0, .full⟩
        else
          let r := encodeJob q per bad fuel rest (bseq + 1) (room - b.length) (done + b.length) (n + 1)
          ⟨raw.length + r.consumed, b ++ r.out, r.bales + 1, r.stop⟩

end Sys2Proof.Machine
end

