-- ==== Sys2Proof/Machine/ComposeMath.lean ====
section
/-!
DEFINITION. Layers and the composition arithmetic of spec/04: the layer descriptor (R146, R147), samples, alpha, matrix, curve,
palette, blend (R159 to R166) and the stored form of a composed value (R169).
-/

namespace Sys2Proof.Machine

/-- What a context holds of one layer: the 64-byte descriptor of R146, the 8,192-byte palette of R164, and the table 0 and table 1
of R163.  An empty byte list stands for the values of R149: layer off, diagonal matrix with offsets 0, identity curves. -/
structure Layer where
  desc : List Byte := []
  pal : List Byte := []
  mat : List Byte := []
  crv : List Byte := []
deriving DecidableEq, Repr

def Layer.x0 (l : Layer) : Nat := fieldN l.desc 0 4
def Layer.y0 (l : Layer) : Nat := fieldN l.desc 4 4
def Layer.width (l : Layer) : Nat := fieldN l.desc 8 4
def Layer.height (l : Layer) : Nat := fieldN l.desc 12 4
def Layer.stripW (l : Layer) : Nat := fieldN l.desc 16 4
def Layer.format (l : Layer) : Nat := fieldN l.desc 20 1
def Layer.channels (l : Layer) : Nat := fieldN l.desc 21 1
def Layer.sampleBytes (l : Layer) : Nat := fieldN l.desc 22 1
def Layer.alphaMode (l : Layer) : Nat := fieldN l.desc 23 1
def Layer.alphaK (l : Layer) : Nat := fieldN l.desc 24 1
def Layer.scale (l : Layer) : Nat := fieldN l.desc 25 1
def Layer.on (l : Layer) : Bool := bit (fieldN l.desc 26 1) 0
def Layer.palAddr (l : Layer) : Nat := fieldN l.desc 32 8
/-- The number of strips of a layer. -/
def Layer.strips (l : Layer) : Nat := if l.stripW = 0 then 0 else (l.width + l.stripW - 1) / l.stripW
/-- The width of one strip; the last holds the remainder (R146). -/
def Layer.stripWidth (l : Layer) (i : Nat) : Nat := min l.stripW (l.width - i * l.stripW)
/-- The colour channels: all samples less the alpha sample. -/
def Layer.colours (l : Layer) : Nat := if 2 ≤ l.alphaMode then l.channels - 1 else l.channels

/-- The checks of R147 on a descriptor, but for those of its palette's address and contents. -/
def layerBad (l : Layer) (w c : Nat) : Bool :=
  decide (131071 < l.x0) || decide (l.width = 0) || decide (131072 < l.width) || decide (l.height = 0) ||
  decide (l.stripW = 0) || decide (65536 < l.stripW) || decide (2 < l.format) ||
  decide (l.channels = 0) || decide (8 < l.channels) || decide (l.sampleBytes = 0) || decide (2 < l.sampleBytes) ||
  decide (3 < l.alphaMode) || decide (l.scale = 0) || decide (2 < l.scale) || decide (2 ≤ fieldN l.desc 26 1) ||
  decide (fieldN l.desc 27 5 ≠ 0) || decide (fieldN l.desc 40 24 ≠ 0) ||
  decide (w < l.x0 + l.width * l.scale) || decide (65536 < l.stripW * l.channels * l.sampleBytes) ||
  decide (65536 < l.strips) || (decide (2 ≤ l.alphaMode) && decide (l.channels = 1)) ||
  (decide (l.format = 0) && decide (c < l.colours)) ||
  (decide (l.format = 2) && (decide (l.channels ≠ 1) || decide (l.sampleBytes ≠ 1) || decide (2 ≤ l.alphaMode)))

/-- The checks of R164 on a palette's contents. -/
def paletteBad (p : List Byte) : Bool :=
  (List.range 256).any fun k =>
    (List.range 8).any (fun j => decide (4095 < fieldN p (32 * k + 2 * j) 2)) || decide (fieldN p (32 * k + 17) 15 ≠ 0)

/-- The checks of R163 on table 0 and table 1. -/
def matBad (m : List Byte) : Bool := decide (fieldN m 144 16 ≠ 0)
def crvBad (m : List Byte) : Bool := (List.range 32768).any fun i => decide (4095 < fieldN m (2 * i) 2)

/-- A matrix coefficient and an offset of a layer (R149, R163). -/
def Layer.coef (l : Layer) (j i : Nat) : Int :=
  if l.mat.isEmpty then (if i = j then 4096 else 0) else fieldS l.mat (2 * (8 * j + i)) 2
def Layer.offs (l : Layer) (j : Nat) : Int := if l.mat.isEmpty then 0 else fieldS l.mat (128 + 2 * j) 2
/-- A curve entry of a layer (R149, R163). -/
def Layer.curve (l : Layer) (j v : Nat) : Nat := if l.crv.isEmpty then v else fieldN l.crv (8192 * j + 2 * v) 2

/-- Exact rounding product of two bytes (R160). -/
def mul255 (p q : Nat) : Nat := let t := p * q + 128; (t + t / 256) / 256

/-- The blend of R165. -/
def blend (a s d : Nat) : Nat := let t := a * s + (255 - a) * d + 128; (t + t / 256) / 256

/-- A sample brought to 12 bits (R159). -/
def in12 (sampleBytes x : Nat) : Nat := if sampleBytes = 1 then x * 16 + x / 16 else x / 16

/-- The matrix of R161 for one colorant; `ins` are the colour channels in 12 bits. -/
def matrixValue (l : Layer) (j : Nat) (ins : List Nat) : Nat :=
  let acc := (ins.zipIdx).foldl (fun a p => a + l.coef j p.2 * (p.1 : Int)) (l.offs j * 4096 + 2048)
  (clampI 0 4095 (sar acc 12)).toNat

/-- The alpha and the colorant value that a layer gives at a source pixel whose samples stand in `px` (R159 to R164). -/
def layerPixel (l : Layer) (px : List Byte) (j : Nat) : Nat × Nat :=
  let sample (i : Nat) : Nat := fieldN px (i * l.sampleBytes) l.sampleBytes
  if l.format = 2 then
    let k := sample 0
    let al := fieldN l.pal (32 * k + 16) 1
    (if l.alphaMode = 1 then mul255 al l.alphaK else al, fieldN l.pal (32 * k + 2 * j) 2)
  else
    let as' := let x := sample (l.channels - 1); if l.sampleBytes = 1 then x else x / 256
    let a := match l.alphaMode with
      | 0 => 255
      | 1 => l.alphaK
      | 2 => as'
      | _ => mul255 as' l.alphaK
    let ins := (List.range l.colours).map fun i => in12 l.sampleBytes (sample i)
    let v := if l.format = 1 then matrixValue l j ins else ins.getD j 0
    (a, l.curve j v)

/-- A composed value in the form in which the silo and screening hold it (R169). -/
def siloForm (silo16 : Bool) (v : Nat) : Nat := if silo16 then v else (v * 255 + 2048) / 4096

/-- A stored value brought back to 12 bits (R187). -/
def siloTo12 (silo16 : Bool) (x : Nat) : Nat := if silo16 then x % 4096 else x * 16 + x / 16

end Sys2Proof.Machine
end

