-- ==== Sys2Proof/Machine/ScreenMath.lean ====
section
/-!
DEFINITION. The screening arithmetic of spec/05: the nozzle map entry (R182) and its checks (R184), substitution (R192), calibration
(R193, R194), overlap weight (R195), the drop-level decision (R200, R201), and the packing of levels into data words (R203).
-/

namespace Sys2Proof.Machine

/-- The fields of a nozzle map entry (R182). -/
def nmColour (e : Nat) : Nat := bits e 0 3
def nmColumn (e : Nat) : Nat := bits e 3 17
def nmOffset (e : Nat) : Nat := bits e 20 16
def nmRowGroup (e : Nat) : Nat := bits e 36 5
def nmWeight (e : Nat) : Nat := bits e 41 8
def nmDead (e : Nat) : Bool := bit e 49
def nmSubL (e : Nat) : Bool := bit e 50
def nmSubR (e : Nat) : Bool := bit e 51
def nmDisabled (e : Nat) : Bool := bit e 52
def nmSealedOk (e : Nat) : Bool := bit e 53
def nmSpare (e : Nat) : Nat := bits e 54 10

/-- The entry that R183 writes everywhere: `DISABLED` at 1, every other field 0. -/
def nmReset : Nat := 2 ^ 52

/-- The fields of a calibration entry (R193). -/
def ncDofs (e : Nat) : Int := toS 16 e
def ncGdev (e : Nat) : Int := toS 12 (e / 2 ^ 20)
def ncReserved (e : Nat) : Nat := bits e 16 4
/-- A calibration entry from its fields. -/
def ncMake (dofs gdev : Int) : Nat := ofS 16 dofs + ofS 12 gdev * 2 ^ 20

/-- The sum of R192: the own sample and the shares of the neighbours. -/
def substitute (v12 : Nat) (l r : Option Nat) (h : Nat) : Nat :=
  let add (u : Nat) (n : Option Nat) : Nat := match n with | none => u | some v => u + (v * h + 128) / 256
  min 4095 (add (add v12 l) r)

/-- The calibrated value of R194. -/
def calibrate (u : Nat) (gdev dofs : Int) : Nat :=
  if u = 0 then 0
  else
    let vc : Int := ((u : Int) * (4096 + gdev) + 128) / 256 + dofs
    (clampI 0 4095 (sar (vc + 8) 4)).toNat

/-- The overlap weight of R195. -/
def overlapWeight (w v : Nat) : Nat := let t := v * w + 128; (t + t / 256) / 256

/-- One comparison of R201. -/
def drops (vw lo hi m : Nat) : Bool := decide (lo + ((hi - lo) * m + 2048) / 4096 < vw)

/-- The level of R201: how many of the first `kmax` thresholds the value exceeds. -/
def dropLevel (vw m kmax : Nat) (tab : Nat → Nat × Nat) : Nat :=
  ((List.range kmax).filter fun k => drops vw (tab k).1 (tab k).2 m).length

/-- Nozzles in one data word at `b` bits per drop (R203). -/
def sheaf (b : Nat) : Nat := if b = 0 then 60 else 60 / b

/-- Data words of a swath of `active` positions (R203). -/
def swathWords (active b : Nat) : Nat := (active + sheaf b - 1) / sheaf b

/-- The payload of one data word from its levels, the first in the lowest bits (R203). -/
def packWord (b : Nat) : List Nat → Nat
  | [] => 0
  | l :: ls => l % 2 ^ b + 2 ^ b * packWord b ls

/-- The levels of a payload. -/
def unpackWord (b : Nat) : Nat → Nat → List Nat
  | 0, _ => []
  | n + 1, v => v % 2 ^ b :: unpackWord b n (v / 2 ^ b)

/-- The checks of a level table (R198). -/
def levelBad (t : List Byte) : Bool :=
  let lo (k : Nat) := fieldN t (4 * k) 2
  let hi (k : Nat) := fieldN t (4 * k + 2) 2
  (List.range 7).any (fun k => decide (4095 < lo k) || decide (4095 < hi k) || decide (hi k < lo k)) ||
  (List.range 6).any (fun k => decide (lo (k + 1) < lo k) || decide (hi (k + 1) < hi k)) ||
  decide (fieldN t 28 36 ≠ 0)

end Sys2Proof.Machine
end

