-- ==== Sys2Proof/Machine/Types.lean ====
section
/-!
DEFINITION. The records of which the state is made, for the command processor, the raster path, the head link and the fire timing
(spec/01 to spec/07): plain data, each with the rule of spec/ that names it.
-/

namespace Sys2Proof.Machine

/-- What a node has been put into beyond its `ENABLE` (control-and-state table of spec/01): draining, faulted or under test. -/
inductive NodeMode where
  | normal | draining | faulted | testing
deriving DecidableEq, Repr

/-- The values of `STATE` (R28). -/
inductive NodeState where
  | off | idle | active | quiescing | faulted | testing
deriving DecidableEq, Repr

def NodeState.code : NodeState → Nat
  | .off => 0 | .idle => 1 | .active => 2 | .quiescing => 3 | .faulted => 4 | .testing => 5

/-- The writes that a node under test holds until the test ends (R35). -/
structure HeldCtrl where
  enable : Option Bool := none
  quiesce : Option Bool := none
  abort : Bool := false
deriving DecidableEq, Repr

/-- A packet that has been started and has no completion yet: its header and its opcode (R71), and how often the packets in flight had
been lost when it started (R72, R87). -/
structure Pk where
  hdr : Hdr
  op : Nat
  epoch : Nat := 0
deriving DecidableEq, Repr

/-- A completion that waits for a free entry (R74). -/
structure Cpl where
  status : Nat
  seq : Nat
  op : Nat
  ctx : Nat
  sq : Nat
  notify : Bool
  event : Bool
  words : List Nat
deriving DecidableEq, Repr

/-- A packet in progress (R79, R80): what identifies it, whether it has `FENCE`, its completion once its result is known, and whether that
completion is on its way to the standby (R524). -/
structure InFlight where
  sq : Nat
  seq : Nat
  op : Nat
  ctx : Nat
  fence : Bool
  done : Option Cpl := none
  out : Bool := false
deriving DecidableEq, Repr

/-- A packet fetched and not yet started: its header and the bytes of its entries (R63, R67). -/
structure Fetched where
  hdr : Hdr
  op : Nat
  bytes : List Byte
deriving DecidableEq, Repr

/-- What a ring holds beyond its registers: packets fetched, packets started, completions held, completion entries in use,
notifying completions that wait for their vector, a pending event completion (ring 0), and whether the halt came from a fetch
or a doorbell and not from a packet that had started (R63 to R83). -/
structure RingRt where
  fetched : List Fetched := []
  started : List InFlight := []
  held : List Cpl := []
  used : Nat := 0
  pendingNotify : Nat := 0
  /-- the instant of the first of them (R76) -/
  notifyAt : Nat := 0
  eventWaiting : Bool := false
  haltOwnFetch : Bool := false
  /-- completions stay with the shadow ring after the standby role was left (R499) -/
  shadowKept : Bool := false
deriving DecidableEq, Repr

/-- The marks of host memory as the PCIe link delivers it: good, poisoned, or not reachable (R82). -/
inductive HostMark where
  | good | poison | error
deriving DecidableEq, Repr

/-- A record of the MEM error log (R421): type, kind of the requester, byte 2, the row address of R422 with the column above it, the
word's address (a granary byte address when bit 3 of byte 2 is 1), instant in ns, syndrome, bit corrected, repeats. -/
structure MemRec where
  type : Nat
  kind : Nat
  where' : Nat
  geom : Nat
  addr : Nat
  time : Nat
  syndrome : Nat
  bit : Nat
  repeats : Nat := 0
deriving DecidableEq, Repr

/-- The drain of a node that `UNIT_QUIESCE` packets wait for: the packet, the instant it started, and the work it found (R94). -/
structure DrainWait where
  node : Node
  pk : Pk
  since : Nat
  work : Nat
deriving DecidableEq, Repr

/-- Fabric credits and bale slots that a node holds, and the packets that it had started (R98, R100). -/
structure Holding where
  req : Nat := 0
  resp : Nat := 0
  slots : Nat := 0
  /-- the packets, with the words that give the work they have finished (R96) -/
  pks : List (Pk × List Nat) := []
deriving DecidableEq, Repr

/-- A resume handle (R131): whose job it is, what the rest of the job needs, and the bytes of the current bale already consumed. -/
structure Handle where
  held : Bool := false
  busy : Bool := false
  ctx : Nat := 0
  encode : Bool := false
  priv : Bool := false
  addr : Nat := 0
  remain : Nat := 0
  seen : List Byte := []
  skipOut : Nat := 0
  baleOff : Nat := 0
  bseq : Nat := 0
  coding : Nat := 0
  e : Nat := 0
  layout : Nat := 0
  verify : Bool := false
  /-- the number, from the resumed packet's first bale on, of a bale that the hardware codes wrongly -/
  miscoded : Option Nat := none
  /-- bytes of the saved state in the resume area (R131) -/
  saved : Nat := 0
deriving DecidableEq, Repr

/-- A decode packet that waits for a thresher, or an encode packet that waits for a compressor (R123, R139, R156). -/
inductive BaleJob where
  | decode (pk : Pk) (src dst srcLen dstLen : Nat)
  | verify (pk : Pk) (src srcLen : Nat)
  | resume (pk : Pk) (handle dst dstLen : Nat)
  | encode (pk : Pk) (src dst srcLen dstLen coding e flags layout : Nat) (miscoded : Option Nat)
deriving DecidableEq, Repr

/-- What a thresher holds of a page's bale until the compositor has taken its last row (R156): the context, the page's sequence
number in the context, and the entry's index in the list. -/
structure Holder where
  ctx : Nat
  page : Nat
  entry : Nat
deriving DecidableEq, Repr

/-- A gang that waits for threshers: the context, the row (or the list entry, in a pass-through context) and the entries that it
needs (R156). -/
structure Gang where
  ctx : Nat
  page : Nat
  row : Nat
  entries : List Nat
deriving DecidableEq, Repr

/-- One change of a layer: which layer, what (0 descriptor with palette, 1 table 0, 2 table 1), and the bytes (R148). -/
structure LayerChange where
  layer : Nat
  what : Nat
  data : List Byte
  pal : List Byte
deriving DecidableEq, Repr

/-- A bale list entry (R153). -/
structure ListEntry where
  addr : Nat
  bytes : Nat
  strip : Nat
  layer : Nat
  rsv1 : Nat
  firstRow : Nat
  rows : Nat
  rsv2 : Nat
deriving DecidableEq, Repr

/-- A page of a context's queue (R84, R142, R150): its packet, number, lengths, generation of layer changes, list, the first
per-context line once it is fixed, the global line of its first line, its marks (R91), lines fired, the layers in
force for it once its first row has begun, the rows composed blank, the decoded bytes of bales held by threshers, and whether its
completion has been written. -/
structure Page where
  pk : Pk
  id : Nat
  number : Nat
  length : Nat
  headland : Nat
  gen : List LayerChange
  list : List ListEntry
  sealed : List ListEntry
  first : Option Nat
  /-- headland lines before the page, and whether a page of this start comes before it -/
  gap : Nat
  seam : Bool := false
  firstGlobal : Nat
  marks : Nat
  fired : Nat
  layers : Option (List Layer)
  nextRow : Nat
  /-- list entries that failed under R158, and those of them that failed with `POISONED` (R508) -/
  failed : List Nat
  failedPoison : List Nat
  /-- decoded bytes of list entries -/
  decoded : Tbl (List Byte)
  done : Bool
  /-- the copy of a sealed layer that the page is bound to (R582) -/
  sealId : Option Nat := none
  /-- the layers that its boundary and its generations give it, from its first row on (R150, R152); kept when it is composed again -/
  base : Option (List Layer) := none
  /-- the generation in force for it, 0 for none (R151) -/
  genId : Nat := 0
  /-- a bale of its list is privileged and the packet is not (R138) -/
  notPriv : Bool := false
deriving DecidableEq, Repr

/-- The states of a job context, in table order (R84, R90). -/
inductive CtxState where
  | closed | open | running | stopping | faulted
deriving DecidableEq, Repr

def CtxState.code : CtxState → Nat
  | .closed => 0 | .open => 1 | .running => 2 | .stopping => 3 | .faulted => 4

/-- The sealed layer of a context (R168, R580 to R584): its layer and its bale list, both empty once it is withdrawn; the number of its
copy in the sealed store, its serial, the slot of its key, whether a page has begun with it, and whether it is withdrawn. -/
structure SealedSt where
  layer : Layer
  list : List ListEntry
  id : Nat := 0
  serial : Nat := 0
  slot : Nat := 0
  applied : Bool := false
  withdrawn : Bool := false
deriving DecidableEq, Repr

/-- A job context (R84, R85, R90): masks, silo, mode word, columns, highest rate; the values of `COMP_CTX_CFG` taken at `CTX_OPEN`
(R145); layers, generations and pending changes (R149 to R152); the page queue; the line counters; boundary deferrals (R4); and the
packets that wait for its last line. -/
structure Ctx where
  st : CtxState := .closed
  lanes : Nat := 0
  groups : Nat := 0
  silo : Nat := 0
  siloBytes : Nat := 0
  cols : Nat := 0
  mode : Nat := 0
  lmax : Nat := 0
  cfg : Nat := 0
  depth : Nat := 0
  layers : List Layer := []
  gen : List LayerChange := []
  pendLayers : List LayerChange := []
  sealedL : Option SealedSt := none
  pages : List Page := []
  nextId : Nat := 0
  /-- per-context number of the next line to tick, and the lines whose owner has been fixed -/
  line : Nat := 0
  ticked : Bool := false
  /-- the line whose tick came last since the last start (word 2 of `CTX_QUERY`) -/
  curLine : Nat := 0
  horizon : Nat := 0
  /-- first line after the last page placed, and its declared headland's end -/
  pageEnd : Nat := 0
  headEnd : Nat := 0
  firedLines : Nat := 0
  global0 : Nat := 0
  deferrals : Nat := 0
  lastFault : Nat := 0
  startPos : Int := 0
  stopPk : Option Pk := none
  /-- lines that are to fire before the context stops -/
  stopAt : Option Nat := none
  lastPage : Nat := 0
  shortRun : Nat := 0
  underrunRun : Nat := 0
  /-- MEM requests a stop for it (R420) -/
  underrunStop : Bool := false
  /-- boundaries whose line has an owner and that are not closed yet, each with whether it qualifies (R3) -/
  openB : List (Nat × Bool) := []
  /-- open boundaries that a page's layers have met: whether every change passed its check (R6, R152) -/
  verdicts : List (Nat × Bool) := []
  /-- layer changes made at a boundary, for the pages from that line on (R152) -/
  agreed : List (Nat × List LayerChange) := []
  /-- generations made so far (R151) -/
  genId : Nat := 0
  /-- while a unit of the raster path drains or takes no work: the line from which on nothing is printed (R94) -/
  drainAt : Option Nat := none
  /-- boundaries whose changes were applied and whose lines have not ticked -/
  quals : List Nat := []
  /-- first lines and lengths of the pages completed since the start (R176) -/
  spans : List (Nat × Nat) := []
  /-- the quarter-scale row in progress: its number, its rows so far, and the sums of their 12-bit values (R175) -/
  qsRow : Nat := 0
  qsN : Nat := 0
  qsSum : List Nat := []
  /-- rows blanked for poisoned bales (R508) -/
  poisonRows : List Nat := []
deriving DecidableEq, Repr

/-- A line of a lane's loft (R242): the context, the per-context line, the global line, the words of its complete swath, and how often
each word has been sent again. -/
structure LoftLine where
  ctx : Nat
  line : Nat
  global : Nat
  words : List Nat
  /-- its blocks have left (R243) -/
  sent : Bool
  /-- levels were forced to 0 for a cause local to this device (R508) -/
  marked : Bool
  replays : Tbl Nat
deriving DecidableEq, Repr

/-- A FIRE block that waits for its planned departure (R245). -/
structure FirePlan where
  group : Nat
  ctx : Nat
  line : Nat
  global : Nat
  t : Nat
deriving DecidableEq, Repr

/-- A map update that waits to be sent, or has been sent and may be asked for again (R244, R640). -/
structure MapUpdate where
  config : Bool
  first : Nat
  /-- per-context and global line that it applies from -/
  line : Nat
  apply : Nat
  words : List Nat
  /-- how often each word has been sent again (R255) -/
  replays : Tbl Nat := []
deriving DecidableEq, Repr

/-- A replay that a `NAK` has asked for and that has not ended (R250, R640): of a map update or of a swath; context, per-context line and
global line; the index of its next word, the words left, whether it begins among the words sent of the swath in progress, and whether its
RESUME has left. -/
structure Replay where
  map : Bool
  ctx : Nat
  line : Nat
  global : Nat
  word : Nat
  words : List Nat
  joins : Bool
  resumed : Bool := false
deriving DecidableEq, Repr

/-- What a head lane holds beyond its registers. -/
structure HlRt where
  /-- the lane carries traffic (R269) -/
  carrying : Bool := false
  /-- the hub follows a higher epoch (R265) -/
  epochLost : Bool := false
  /-- first global line that the lane carried since it last began to carry traffic (R256) -/
  firstCarried : Option Nat := none
  lastStatus : Nat := 0
  statusLast : Option Nat := none
  statusTime : Nat := 0
  lastHello : Nat := 0
  temps : Tbl Nat := []
  /-- instant of the last `TEMP` of each head (R554), and the step and disable state sent to it (R271, R552, R553) -/
  tempAt : Tbl Nat := []
  vstep : Tbl Nat := []
  disabled : Tbl Bool := []
  /-- the global line from which the last order to a head holds, and the step and disable state before it (R271, R556) -/
  orderFrom : Tbl Nat := []
  orderWas : Tbl (Nat × Bool) := []
  /-- the head's sensor has failed (R554); since when a disabled head is cool, as one more than the instant (R553) -/
  sensorBad : Tbl Bool := []
  belowSince : Tbl Nat := []
  /-- the line after the last of which a FIRE block has left (R271) -/
  fireNext : Nat := 0
  /-- flushes of the accumulators that are done (R558) -/
  flushes : Nat := 0
  /-- latency (R257 to R261) -/
  aseq : Nat := 0
  /-- pings not echoed, by `ASEQ`: departure and the `LANE_LATENCY` that sent it -/
  pings : Tbl (Option (Nat × Option Nat)) := []
  /-- the last 15 samples, newest first -/
  samples : List Int := []
  nSamples : Nat := 0
  lastRtt : Int := 0
  lastTurn : Nat := 0
  minRtt : Int := 0
  maxRtt : Int := 0
  loft : Tbl (Option LoftLine) := []
  /-- per-context lines below the first have started to be sent, those below the second have left (R242, R243) -/
  sendFrom : Nat := 0
  sendNext : Nat := 0
  /-- map updates that wait, and those sent whose line has not fired (R244, R640) -/
  mapUpdates : List MapUpdate := []
  mapSent : List MapUpdate := []
  plans : List FirePlan := []
  /-- the fire groups of earlier maps, each with the line below which its map is in force (R245) -/
  oldGroups : List (Nat × Nat) := []
  /-- entries of earlier maps by position, each set with the line below which they are in force (R639) -/
  oldMap : List (Nat × Tbl Nat) := []
  /-- the grid of block boundaries, in 1/1600 ns, and the number of the next slot (R638) -/
  phase : Nat := 0
  slot : Nat := 0
  /-- blocks since the last `IDLE` or `ALIGN`, and since the last `ALIGN` (R228) -/
  sinceIdle : Nat := 0
  sinceAlign : Nat := 0
  /-- the swath that is being sent: none before its HEAD, else its next word; a RESUME goes before it (R250) -/
  word : Option Nat := none
  resume : Bool := false
  /-- blocks of the map update in front that have left -/
  mapPos : Nat := 0
  /-- replays asked for, heads whose orders wait to be sent (R271), and pings with the instant at which they are due (R257) -/
  replaying : List Replay := []
  orders : List Nat := []
  pingQ : List (Nat × Option Nat) := []
  /-- swaths of lines below this one are not carried (R269) -/
  downTo : Nat := 0
  /-- the arrival of the last `STATUS` in ns of time base 0 (R273) -/
  statusNs : Nat := 0
  /-- next per-context line whose swath is to be computed -/
  nextSwath : Nat := 0
  /-- FIRE blocks that fell due on the lane while the partner drives it: per-context line and due instant, newest first (R521) -/
  skipped : List (Nat × Nat) := []
  /-- tally accumulators by position (R557, R558) -/
  tally : Tbl Nat := []
deriving DecidableEq, Repr

/-- The training of a lane (R230 to R237). -/
structure TrainRt where
  target : Nat := 0
  hellos : Nat := 0
  readies : Nat := 0
  rseq : Nat := 0
  /-- outstanding tap request: its code and how often it has been sent -/
  request : Option (Nat × Nat) := none
  ackSeq : Nat := 0
  ack : Nat := 0
  lastRseq : Option Nat := none
  /-- latency samples of the end of training still to come (R259) -/
  latLeft : Nat := 0
  /-- when training and its present state began, and the time that training may take (R230, R231), in 1/16 ns -/
  startAt : Nat := 0
  stateAt : Nat := 0
  limit : Nat := 8000000000
  /-- since when the count of clean blocks runs, and when the outstanding tap request was sent last (R230) -/
  cleanAt : Nat := 0
  reqAt : Nat := 0
  /-- the present `TRAIN` block and since when it is sent (R232) -/
  cur : Option Nat := none
  curAt : Nat := 0
  /-- the receiver: since when it holds block lock (R269, R333), how many sync headers ago the invalid ones of the last 64 came (R225), and
  invalid ones in the present window (R227) -/
  lockAt : Nat := 0
  badAges : List Nat := []
  berCount : Nat := 0
deriving DecidableEq, Repr

/-- A `LANE_TRAIN` that waits for its lanes (R234 to R237). -/
structure TrainPk where
  pk : Pk
  waiting : List Nat
  up : Nat
  others : Nat
  aborted : Bool
deriving DecidableEq, Repr

/-- A `LANE_LATENCY` that waits for its echoes (R261). -/
structure LatPk where
  pk : Pk
  id : Nat
  mask : Nat
  dst : Nat
  fresh : Tbl Nat
deriving DecidableEq, Repr

/-- A segment in the composed row cache (R188, R189): 256 contone columns of one colorant of one composed row, the line for which it was
fetched, and its values, none where the stored word is poisoned. -/
structure RowSeg where
  ctx : Nat
  row : Nat
  colour : Nat
  seg : Nat
  line : Nat
  vals : List (Option Nat)
deriving DecidableEq, Repr

/-- A change of a table that waits for a boundary (R207 to R209): which table (a lane's map or calibration, a threshold array, a
level table, a fire group's synthesizer, a row group's shift), the entries, and from whom. -/
inductive TableId where
  | nmap (lane : Nat) | ncal (lane : Nat) | thresh (a : Nat) | level (c : Nat) | synth (g : Nat) | shift (g : Nat)
deriving DecidableEq, Repr

structure TableChange where
  table : TableId
  first : Nat
  vals : List Nat
  bytes : List Byte
deriving DecidableEq, Repr

/-- A slice's part in rotation (R216 to R220): the lane that it serves, the lane it shadows and the lines that agreed. -/
structure SliceRt where
  lane : Option Nat := none
  shadows : Option Nat := none
  agreed : Nat := 0
  /-- fenced after a failed check, until a test of the node passes (R218) -/
  needsTest : Bool := false
  checking : Bool := false
deriving DecidableEq, Repr

/-- A sample, transition or read of an encoder channel: its instant on the fire timeline in 1/16 ns and its position. -/
structure EncPt where
  t : Nat
  p : Int
deriving DecidableEq, Repr

/-- What an encoder channel holds beyond its registers (R281 to R305): the parameter block; the sine-cosine count, its zero and the last
raw position; the levels of A and B, once they are known, with the instants of their last changes; bad radii and discarded reads in a row;
the samples, transitions or reads of the M window, newest first; the last counted edge, its direction, how many came in that direction
since standstill, the direction before that, and the step and interval of the T-method; the M-method's last estimate; the instant before
which the M-method does not resume (R301). -/
structure EncRt where
  block : List Byte := []
  periods : Int := 0
  theta : Option Nat := none
  zero : Int := 0
  raw : Option Int := none
  levels : Option (Bool × Bool) := none
  aAt : Option Nat := none
  bAt : Option Nat := none
  badRad : Nat := 0
  discards : Nat := 0
  hist : List EncPt := []
  forward : Bool := false
  edge : EncPt := ⟨0, 0⟩
  edgeDir : Int := 0
  edgeN : Nat := 0
  lastDir : Int := 0
  step : Int := 0
  stepDt : Nat := 1
  lastEdge : Nat := 0
  mNum : Int := 0
  mDen : Nat := 1
  mFrom : Nat := 0
  idx : Option Int := none
  /-- the Lissajous window: pairs so far, extremes of raw s and c, raw position at its start (R288) -/
  winN : Nat := 0
  winP : Int := 0
  sMax : Int := 0
  sMin : Int := 0
  cMax : Int := 0
  cMin : Int := 0
  /-- the `ENC_CONFIG` whose 1 ms runs, and its start (R282) -/
  cfgPk : Option Pk := none
  cfgAt : Nat := 0
  /-- requests `STOP_REQ_N` (R330) -/
  stopReq : Bool := false
deriving DecidableEq, Repr

/-- A change that a synthesizer takes at a line (R308, R311): a parameter block, or a step of the calibration row delay. -/
inductive SynChange where
  | block (b : List Byte)
  | delay (d : Int)
deriving DecidableEq, Repr

/-- It is a parameter block. -/
def SynChange.isBlock : SynChange → Bool
  | .block _ => true
  | .delay _ => false

/-- What a line synthesizer holds beyond its registers (R306 to R315): the accumulator in 2^-32 counts, the lines committed that have
not fired (per-context line, global line, fire time), the last committed fire time, and changes that apply from a later line (R308). -/
structure SynRt where
  acc : Int := 0
  last : Option Nat := none
  due : List (Nat × Nat × Nat) := []
  later : List (Nat × SynChange) := []
deriving DecidableEq, Repr

/-- A target of a compare output (R322): its packet (none for a target of INSP, R364), position, width in ns, flag, and whether it was
late when it was armed (R323). -/
structure CmpTarget where
  pk : Option Pk
  target : Int
  width : Nat
  atOnce : Bool
  late : Bool
deriving DecidableEq, Repr

/-- A pulse that is committed and has not started (R324): its packet, width in ns, start in 1/16 ns, the position at which it starts when
that is its target, and whether its target was late. -/
structure CmpPulse where
  pk : Option Pk
  width : Nat
  start : Nat
  pos : Option Int
  late : Bool
deriving DecidableEq, Repr

/-- A compare output: its queue, and the pulses that are committed, the first to start first. -/
structure CmpRt where
  queue : List CmpTarget := []
  due : List CmpPulse := []
  /-- the end of the pulse that is active -/
  active : Option Nat := none
deriving DecidableEq, Repr

/-- A pulse is active at an instant. -/
def CmpRt.activeAt (c : CmpRt) (now : Nat) : Bool :=
  c.active.any (fun e => decide (now < e)) || c.due.any fun x => decide (x.start ≤ now) && decide (now < x.start + 16 * x.width)

/-- An edge that waits for the sample after it (R318), and the channel against which it is recorded. -/
structure LatchEdge where
  t : Nat
  ch : Nat
  source : Nat
  falling : Bool
  lost : Bool
  before : EncPt
deriving DecidableEq, Repr

structure LatchRt where
  records : List (List Byte) := []
  edges : List LatchEdge := []
  lostFlag : Bool := false
deriving DecidableEq, Repr

/-- A divided output: the place in its Gray sequence, the steps that wait (true: forward), and the earliest instant of its next
transition (R328, R329). -/
structure DivRt where
  place : Nat := 0
  queue : List Bool := []
  next : Nat := 0
deriving DecidableEq, Repr

end Sys2Proof.Machine
end

