-- ==== Sys2Proof/Machine/Types2.lean ====
section
/-!
DEFINITION. The records of which the state is made, for the units of spec/08 to spec/15: plain data, each with the rule of spec/ that
names it.
-/

namespace Sys2Proof.Machine

/-! ## Time bases (spec/10) -/

/-- The map of a time base (R438): the fire instant in 1/16 ns and the base's value there in 2^-16 ns; its rate is `TB_RATE`. -/
structure TbRt where
  fa : Nat := 0
  ba : Int := 0
deriving DecidableEq, Repr

/-- A foreign master of a port (R452): its last Announce and when its last ones came. -/
structure Foreign where
  ann : Announce
  times : List Nat
deriving DecidableEq, Repr

/-- What an Ethernet port holds beyond its registers (R452 to R458): foreign masters; announce intervals left in PRE_MASTER; sequence
numbers; a two-step Sync that waits for its Follow_Up (source, sequence, ingress stamp, correction); the last t2 - t1 - c_s; the last
Delay_Req (sequence, egress stamp, that difference then); the last Pdelay_Req (sequence, egress stamp); a Pdelay_Resp that waits for its
Follow_Up (sequence, ingress stamp, request receipt stamp, correction); the filtered delay.  Stamps are in 1/16 ns. -/
structure PtpPort where
  foreign : List Foreign := []
  qual : Nat := 0
  annSeq : Nat := 0
  syncSeq : Nat := 0
  reqSeq : Nat := 0
  pendSync : Option (Nat × Nat × Int × Int) := none
  diff : Option Int := none
  req : Option (Nat × Int × Int) := none
  pdReq : Option (Nat × Int) := none
  pdResp : Option (Nat × Int × Int × Int) := none
  df : Option Int := none
  /-- when the port last took an Announce that restarts its receipt timeout, or entered its state (R452), and its last Sync (R459) -/
  annAt : Nat := 0
  syncAt : Nat := 0
deriving DecidableEq, Repr

/-- What the PTP clock holds (R449, R451, R458, R459): the parameter block, the integral, the run of samples within the lock threshold,
the port's parent, and the `PTP_CONFIG` that waits for the ports. -/
structure PtpRt where
  block : List Byte := []
  iAcc : Int := 0
  lockRun : Nat := 0
  parent : Option Announce := none
  wait : Option Pk := none
  ports : Tbl PtpPort := []
deriving DecidableEq, Repr

/-- The schedule of a timed pulse output (R461): its base, its start in 2^-16 ns, its period in ns, and the number of its next pulse. -/
structure PlsSched where
  base : Nat
  start : Int
  period : Nat
  width : Nat
  next : Nat
deriving DecidableEq, Repr

/-- A timed pulse output: its schedule, and the end of the pulse committed last (R462, R465). -/
structure PlsRt where
  sched : Option PlsSched := none
  until' : Option Nat := none
deriving DecidableEq, Repr

/-! ## Stepper axes (spec/11) -/

/-- The states of a bridge (R469). -/
inductive Gate where
  | off | drivePos | driveNeg | slow | fast
deriving DecidableEq, Repr

/-- A bridge's chopper (R472): its state, the start of its cycle, whether it drives and waits for a trip, the earliest start of the next
cycle, and the offset in 1/16 code. -/
structure BridgeRt where
  gate : Gate := .off
  start : Nat := 0
  live : Bool := false
  next : Nat := 0
  ofs : Int := 0
  /-- the threshold of the present cycle, when fast decay ends, the gates that are to be high (bits 0 to 3: H1, L1, H2, L2), those before,
  and since when (R469, R470, R472) -/
  thr : Nat := 0
  slowAt : Nat := 0
  pins : Nat := 0
  oldPins : Nat := 0
  since : Nat := 0
deriving DecidableEq, Repr

/-- What an axis does: a move to a target with its highest rate; a homing by a method; the back-off of a homing. -/
inductive AxisJob where
  | still
  | move (target : Int) (rate : Nat)
  | home (method : Nat)
  | backoff (target : Int)
deriving DecidableEq, Repr

/-- An axis (R471 to R490): its parameter block, its job with its packet, the `AXIS_STOP`s that wait, whether it is told to stop and with
which reason, whether it stops at the next microstep; speed in 10^-5 microsteps/s, phase accumulator, instant up to which steps are
made, start of the segment, whether the speed has been lowered; microsteps of the job; the place in it where the stall baseline starts,
and the sums and counts of drive times of baseline and full step; since when it holds, and whether at `I_HOLD`; bridges; and, by input,
the raw edges of late, the last one's instant and its position. -/
structure AxisRt where
  block : List Byte := []
  job : AxisJob := .still
  pk : Option Pk := none
  stops : List Pk := []
  stopping : Option Nat := none
  stopNext : Bool := false
  v : Nat := 0
  acc : Nat := 0
  at' : Nat := 0
  segAt : Nat := 0
  lowered : Bool := false
  dist : Nat := 0
  cruise : Option Nat := none
  bSum : Nat := 0
  bN : Nat := 0
  fSum : Nat := 0
  fN : Nat := 0
  heldAt : Option Nat := none
  low : Bool := false
  a : BridgeRt := {}
  b : BridgeRt := {}
  edges : Tbl (List Nat) := []
  edgeAt : Tbl Nat := []
  edgePos : Tbl Int := []
deriving DecidableEq, Repr

/-! ## Memory (spec/09) -/

/-- A request that waits for its channel (R398, R399): requester, class, arrival, the time in ns that its service takes, what it asks for, the
errors that have come over the words, whether its activate is sampled, and whether it has been promoted. -/
structure MemWait where
  kind : Nat
  cls : Nat
  at' : Nat
  ns : Nat
  req : MemReq
  upsets : List (Nat × Nat)
  sampled : Bool
  promoted : Bool := false
deriving DecidableEq, Repr

/-- What MEM holds beyond its registers: the granary's physical banks, as one more than the bank that holds a logical bank, 0 for the
bank of its own number (R431); the logical bank being copied, the next one, and the instant of the last rotation; the relieved bank
under test (R432); instants of parity errors by physical bank (R432); since when no component of a channel is above 85 °C (R405); bytes
written through the debug window (R39); requests that wait, in order of arrival; by channel, until when it is taken, how many younger
requests have just gone ahead, and when it was last refreshed (R398, R404), and the open row of each bank; bytes of class 3 beyond the
rate, and the instant of that count (R400). -/
structure MemRt where
  phys : Tbl Nat := []
  copying : Option Nat := none
  next : Nat := 0
  rotAt : Nat := 0
  bist : Option Nat := none
  /-- the logical bank of a rotation step that waits for the spare (R432) -/
  urgent : Option Nat := none
  /-- records removed from the error log since reset, and the last removed one of each place of its ring (R421) -/
  logTail : Nat := 0
  logOld : Tbl (Option MemRec) := []
  parity : Tbl (List Nat) := []
  cool : Tbl (Option Nat) := []
  window : Tbl (Option Byte) := []
  queue : List MemWait := []
  taken : Tbl Nat := []
  ahead : Tbl Nat := []
  refAt : Tbl Nat := []
  rows : Tbl (Option Nat) := []
  burst : Nat := 0
  burstAt : Nat := 0
deriving DecidableEq, Repr

/-! ## Inspection (spec/08) -/

/-- The settings of a camera lane (`CAM_SET`). -/
structure CamSet where
  px : Nat := 0
  lines : Nat := 0
  ctx : Nat := 0
  div : Nat := 0
  phase : Nat := 0
  on : Bool := false
  resend : Bool := false
  exposure : Nat := 0
  delay : Nat := 0
  dcam : Int := 0
  cx0 : Int := 0
  cxs : Nat := 0
  resendUs : Nat := 0
deriving DecidableEq, Repr

/-- A stripe (R339): its number, camera lane, first pixel, pixels, and the bytes of its model block (R357). -/
structure Stripe where
  idx : Nat
  lane : Nat
  first : Nat
  px : Nat
  model : List Byte
deriving DecidableEq, Repr

/-- A camera trigger (R337): per-context line; accumulator position (2^-32 counts) and `Q` of the reference group for that line; edge
time in 1/16 ns; encoder channel; the point before; and, once the point after has come, position and speed of its record (R317). -/
structure CamTrig where
  line : Nat
  x : Int
  q : Nat
  t : Nat
  ch : Nat
  before : EncPt
  rec' : Option (Int × Int) := none
deriving DecidableEq, Repr

/-- A camera line in a line buffer (R342): its frame, its index in it, its bytes, pixels that the granary could not give, damaged packets
whose resend is waited for, by first pixel and pixels, and since when. -/
structure CamLine where
  frame : Nat
  k : Nat
  data : List Byte
  unusable : List Nat
  damaged : List (Nat × Nat)
  since : Nat
deriving DecidableEq, Repr

/-- The sums of a tile over a frame (R359). -/
structure TileSum where
  defects : Nat := 0
  n : Nat := 0
  r : List Int := [0, 0, 0]
  a : List Int := [0, 0, 0]
deriving DecidableEq, Repr

/-- Pixels, sum of `LOGT` and sum of reference values of a colorant over one camera line (R381, R382). -/
structure AnchorSum where
  n : Nat := 0
  d : Int := 0
  v : Int := 0
deriving DecidableEq, Repr

/-- The retained sums of one camera line: its web position at the exposure centre in nm, and its sums by colorant. -/
structure AnchorLine where
  pos : Int
  sums : Tbl AnchorSum
deriving DecidableEq, Repr

/-- The sums of a seed pattern (R378, R379): pixels and d16 at the low and at the high level by (j, c), and RS and RG by group. -/
structure SeedSum where
  lo : Tbl (Nat × Int) := []
  hi : Tbl (Nat × Int) := []
  rs : Tbl Int := []
  rg : Tbl Int := []
deriving DecidableEq, Repr

/-- Calibration sums (R367, R368): W and S by window and (j, c), RS and RG by window and group; seed sums by seed; anchor lines. -/
structure CalSum where
  w : Tbl Int := []
  s : Tbl Int := []
  rs : Tbl Int := []
  rg : Tbl Int := []
  seeds : Tbl SeedSum := []
  anchors : List AnchorLine := []
deriving DecidableEq, Repr

/-- A frame (R344): number, `GEN`, settings and stripes in effect for it, triggers, lines paired so far, mark word, whether a discarded
image follows (R345), sums of R356, tiles, defect pixels of the cell row in progress with that row's first line (position of the exposure
centre in 2^-17 counts, content line), its pixel rows, and the calibration sums held until its end (R351). -/
structure CamFrame where
  no : Nat
  gen : Nat
  set : CamSet
  stripes : List Stripe
  trigs : List CamTrig := []
  lines : Nat := 0
  marks : Nat := 0
  long : Bool := false
  /-- its image's header has come -/
  headed : Bool := false
  /-- the frame has ended under R345; its last lines may still be compared -/
  ended : Bool := false
  sy : Int := 0
  gy : Int := 0
  sx : Int := 0
  gx : Int := 0
  tiles : Tbl TileSum := []
  cells : Tbl Nat := []
  /-- first line of the cell row in progress -/
  cellFirst : Nat := 0
  rows : List (List Byte) := []
  cal : CalSum := {}
deriving DecidableEq, Repr

/-- A `CAM_GENCP` that waits (R336), and when its request was sent. -/
structure GencpReq where
  pk : Pk
  req : List Byte
  room : Nat
  addr : Nat
  sentAt : Nat
deriving DecidableEq, Repr

/-- What a camera lane holds beyond its registers. -/
structure CamRt where
  committed : Option CamSet := none
  stripes : List Stripe := []
  stripesNext : Option (List Stripe) := none
  frames : List CamFrame := []
  nextFrame : Nat := 0
  buf : List CamLine := []
  lastTrig : Nat := 0
  regRun : Nat := 0
  gencp : List GencpReq := []
  /-- the ends of exposures whose falling edge is still to be sent -/
  exposures : List Nat := []
  /-- the last 65,536 lines, newest first (R382) -/
  anchors : List AnchorLine := []
deriving DecidableEq, Repr

/-- A defect record that waits for its crop to start (R363): its bytes without the slot, its pixels, and since when. -/
structure CropReq where
  cam : Nat
  rec' : List Byte
  pixels : List Byte
  since : Nat
deriving DecidableEq, Repr

/-- The record rings of INSP (R360, R362), counted from reset: records removed and records entered; the next crop slot; crops that wait. -/
structure InspRt where
  stripes : List Stripe := []
  tileHead : Nat := 0
  tileTail : Nat := 0
  defHead : Nat := 0
  defTail : Nat := 0
  cropNext : Nat := 0
  crops : List CropReq := []
deriving DecidableEq, Repr

/-! ## Calibration (spec/08) -/

/-- An estimate (R370, R371): the window it came from, its value, and whether it is void. -/
structure CalEst where
  win : Nat
  val : Int
  void : Bool
deriving DecidableEq, Repr

/-- A window that accumulates (R367, R368, R372). -/
structure CalWin where
  k : Nat
  w : Tbl Int := []
  s : Tbl Int := []
  rs : Tbl Int := []
  rg : Tbl Int := []
  voidKeys : Tbl Bool := []
  voidGroups : Tbl Bool := []
  /-- a mask of the colorants whose (j, c) are void -/
  voidColours : Nat := 0
  voidAll : Bool := false
deriving DecidableEq, Repr

/-- A step that waits for a boundary (R374, R375, R380): of a row delay or of a density; its group or (j, c); what is added to the delay
or to `DOFS`, and to `GDEV`; whether it is a seed; and since when the pair holds it (R515). -/
structure CalStep where
  row : Bool
  key : Nat
  d : Int
  g : Int := 0
  seed : Bool := false
  held : Nat := 0
deriving DecidableEq, Repr

/-- Changes of a boundary that wait until the swaths of the lines before it are computed (R207, R208, R375): the boundary's line in each
context concerned, the context whose calibration steps are among them, and the changes. -/
structure DueChange where
  lines : List (Nat × Nat)
  ctx : Nat
  chs : List TableChange
  steps : List CalStep
deriving DecidableEq, Repr

/-- A `CAL_SEED` in progress (R377). -/
structure SeedRt where
  pk : Pk
  id : Nat
  pattern : Nat
  first : Nat
  lines : Nat
  sums : SeedSum := {}
deriving DecidableEq, Repr

/-- A `CAL_ANCHOR` that waits for its patch (R382). -/
structure AnchorPk where
  pk : Pk
  colour : Nat
  m : Nat
  pos : Int
  since : Nat
deriving DecidableEq, Repr

/-- The CAL registers as the last window close took them (R387). -/
structure CalEff where
  step : Nat := 0x7AE
  agree : Nat := 0x106
  stale : Nat := 16
  dead : Nat := 16
  limit : Nat := 0x2000
  rdMin : Nat := 0x100
  minW : Nat := 0x1000
  rdLimit : Nat := 0x200
  rdStep : Nat := 0x20
  rdAgree : Nat := 4
  anchor : Nat := 0x400
deriving DecidableEq, Repr

/-- What CAL holds beyond its registers: open windows, estimates by (j, c) and by group, the (j, c) already recorded as stale, the window
with which accumulation began, steps that wait, seeds in progress and the lines of seeds, `CAL_ANCHOR`s that wait, the values in force,
and the proposal records (R376). -/
structure CalRt where
  wins : List CalWin := []
  dens : Tbl (Option CalEst) := []
  rows : Tbl (Option CalEst) := []
  stale : Tbl Bool := []
  start : Nat := 0
  steps : List CalStep := []
  seeds : List SeedRt := []
  seedSpans : List (Nat × Nat) := []
  anchors : List AnchorPk := []
  eff : CalEff := {}
  props : List (List Byte) := []
deriving DecidableEq, Repr

/-! ## The yoke and the gleaner (spec/12) -/

/-- A swath CRC with its `MARKED` flag (R508). -/
structure CrcNote where
  crc : Nat
  marked : Bool
deriving DecidableEq, Repr

/-- A quick check under R510: what it concerns and the two results so far. -/
structure CheckRt where
  ctx : Nat
  line : Nat
  lane : Nat
  own : Option Bool := none
  peer : Option Bool := none
deriving DecidableEq, Repr

/-- What the primary mirrors in a resynchronisation (R503, R513): the values of the registers of `mirrorRegs` in order, the tables, the
changes that wait, the global line, the contexts, synthesizers, compare queues, pulse schedules and axes. -/
structure Mirror where
  regs : List Nat := []
  nmap : Tbl Nat := []
  ncal : Tbl Nat := []
  thresh : Tbl Nat := []
  levels : Tbl Nat := []
  changes : List TableChange := []
  due : List DueChange := []
  globalLine : Nat := 0
  ctxs : Tbl Ctx := []
  syns : Tbl SynRt := []
  cmps : Tbl CmpRt := []
  pulses : Tbl PlsRt := []
  axes : Tbl AxisRt := []
deriving DecidableEq, Repr

/-- What a `MIRROR` message carries: the digest of a boundary (R512), the state of a resynchronisation (R513), an accepted step (R515), an
epoch (R503), the primary's announcement that it stops (R517), or a lane node that exhausted its replays (R517). -/
inductive MirrorMsg where
  | digest (ctx line digest : Nat)
  | load (m : Mirror)
  | step (x : CalStep)
  | epoch (lane epoch : Nat)
  | stops
  | laneFault (lane : Nat)
deriving DecidableEq, Repr

/-- What a `RESULT` message carries: what R498 compares (`PAIR_SIDE`, firmware release); the result of a camera packet with the bytes that
it wrote (R501); a completion of the primary with index and phase of its entry and the ring's head (R524), and the confirmation that it
is written; a reject target (R516); or the standby's wish to be resynchronised (R513). -/
inductive ResultMsg where
  | identity (side : Bool) (release : Nat)
  | camera (ring sq status : Nat) (words : List Nat) (bytes : List Byte)
  | completion (ring : Nat) (c : Cpl) (index : Nat) (phase : Bool) (head : Nat)
  | confirm (ring sq : Nat)
  | reject (target : Int)
  | resync
deriving DecidableEq, Repr

/-- The load of a message that is kept until it is acknowledged. -/
inductive YLoad where
  | mirror (m : MirrorMsg)
  | result (m : ResultMsg)
deriving DecidableEq, Repr

/-- A `MIRROR` or `RESULT` that the partner has not acknowledged (R506): its sequence and load, how often it has been sent, and when it
was sent last. -/
structure YMsg where
  seq : Nat
  load : YLoad
  tries : Nat
  at' : Nat
deriving DecidableEq, Repr

/-- A camera packet for a lane of the partner that waits for the partner's result (R501), and where its reply bytes go. -/
structure CamWait where
  pk : Pk
  dst : Nat
  room : Nat
deriving DecidableEq, Repr

/-- A completion of the primary that the standby has received (R524): ring, completion, index and phase of its entry. -/
structure MirCpl where
  ring : Nat
  cpl : Cpl
  index : Nat
  phase : Bool
deriving DecidableEq, Repr

/-- A ring of the primary as last mirrored: tail, phase and head (R524). -/
structure MirRing where
  tail : Nat
  phase : Bool
  head : Nat
deriving DecidableEq, Repr

/-- What the yoke holds beyond its registers: the sequence number sent last, messages not acknowledged, the sequence received last in
order, and the instant of the partner's last message (R505, R506); packets for camera lanes of the partner (R501); the `YOKE_ROLE` and
`YOKE_RESYNC` that wait (R498, R513), and whether the first mirror has loaded; whether this device was displaced (R493), and whether it
has left the standby role without the outputs (R499); the line after each context's last token (R522); what the primary reported (R517);
whether the step in progress has suppressed a write to host memory, and the packets whose output the standby suppressed (R524); the
primary's completions received and not confirmed, and its rings as last mirrored (R524). -/
structure YokeRt where
  seq : Nat := 0
  unacked : List YMsg := []
  peerSeq : Nat := 0
  heard : Nat := 0
  camWaits : List CamWait := []
  rolePk : Option Pk := none
  roleAt : Nat := 0
  loaded : Bool := false
  resyncPk : Option Pk := none
  displaced : Bool := false
  released : Bool := false
  lastToken : Tbl Nat := []
  peerStops : Bool := false
  peerFaults : List Nat := []
  suppressed : Bool := false
  suppressedPks : List Pk := []
  unconfirmed : List MirCpl := []
  rings : Tbl (Option MirRing) := []
  /-- the partner has the same release and the other side (R498); its camera lanes count as down (R525) -/
  met : Bool := false
  camsLost : Bool := false
deriving DecidableEq, Repr

/-- A die sensor (R537 to R540): its last reading in 1/64 °C, consecutive scans ignored, and, while it is flagged out of the scan,
consecutive plausible scans. -/
structure SensorRt where
  reading : Int := 0
  ignRun : Nat := 0
  out : Bool := false
  good : Nat := 0
deriving DecidableEq, Repr

/-- The prediction of a head's life (R562): greatest count at the last update, mean hourly rise, remaining hours, and whether it was
reported worn. -/
structure HeadLife where
  prev : Nat := 0
  mean : Option Int := none
  remain : Nat := 0xFFFFFFFF
  worn : Bool := false
deriving DecidableEq, Repr

/-- What HLTH holds beyond its registers: sensors; T of the last scans, newest first (R542); which thresholds the last scan reached (R543);
scans in a row below what keeps WARN and THROTTLE (R543); the throttle share (R546); ρ in 1/256 °C per ms (R542); lives by lane and head
(R562); whether `AGE_WARN` was raised (R563); shutdown (R551) and loss of ROOT (R42). -/
structure HlthRt where
  sensors : Tbl SensorRt := []
  hist : List Int := []
  reached : List Bool := []
  below1 : Nat := 0
  below2 : Nat := 0
  share : Nat := 0
  rise : Int := 0
  /-- the fire instant of the last powered hour (R563) -/
  hourAt : Nat := 0
  lives : Tbl HeadLife := []
  ageWarned : Bool := false
  shutdown : Bool := false
  rootLost : Bool := false
deriving DecidableEq, Repr

/-- A `GLEAN_RUN` in progress (R530): its packet, its tests still to run, and the counts of tests run and failed. -/
structure GleanRun where
  pk : Pk
  tests : List Nat
  node : Node
  waits : Bool := false
  run : Nat := 0
  failed : Nat := 0
deriving DecidableEq, Repr

/-- What the gleaner holds beyond its registers: its policy block (R531), the test in progress with its node (R526), the `GLEAN_RUN` in
progress, when each part was tested last (a slice by the global line, any other part by the instant), and the parts reported late. -/
structure GleanRt where
  block : List Byte := []
  test : Option (Node × Nat) := none
  run : Option GleanRun := none
  tested : Tbl Nat := []
  late : Tbl Bool := []
deriving DecidableEq, Repr

/-! ## Security and the system (spec/14, spec/15) -/

/-- A copy in the sealed store (R582): the context, the serial and the key slot it was verified for, the 1 KiB pages of the store that it takes, and its
content's length. -/
structure SealCopy where
  id : Nat
  ctx : Nat
  serial : Nat
  slot : Nat
  pages : List Nat
  len : Nat
deriving DecidableEq, Repr

/-- What SEC holds beyond its registers: the hashes of the slots programmed since manufacture (R569), the cached public keys by slot
(R568), the audit records held, oldest first, the records written since reset, the newest chain value and the captured one (R586 to
R589), the copies in the sealed store and the number of the next, the highest serial accepted by context plus one (R579), and slot and key of the running image (R597). -/
structure SecRt where
  hashes : Tbl (Option Nat) := []
  keys : Tbl (List Byte) := []
  audit : List (List Byte) := []
  auditN : Nat := 0
  chain : List Byte := []
  chainCap : Option (List Byte) := none
  copies : List SealCopy := []
  nextCopy : Nat := 0
  serials : Tbl Nat := []
  image : Option (Nat × List Byte) := none
deriving DecidableEq, Repr

/-- The SPI NOR on the board (R571, R573, R612): its bytes, and of the boot record the failure counts of copies A and B; the boot count
and the powered hours of that record stand in `SEC_BOOT` and `HLTH_HOURS`. -/
structure NorRt where
  bytes : Tbl Byte := []
  failsA : Nat := 0
  failsB : Nat := 0
deriving DecidableEq, Repr

/-- How far the boot has come (R610): held in reset, stopped for good (R575, R613), training DRAM, filling it, filled, or ready. -/
inductive BootStage where
  | reset | stuck | training | filling | filled | ready
deriving DecidableEq, Repr

/-- What of the PCIe configuration space acts on the function (R57, R76): MSI-X enable and function mask, which host software has set by the
time that the model begins, and what AER has reported: a poisoned TLP sent, and a completion that did not come. -/
structure PcieRt where
  msixOn : Bool := true
  msixMasked : Bool := false
  aerPoison : Bool := false
  aerCompletion : Bool := false
deriving DecidableEq, Repr

/-- What SYS holds beyond its registers: the stage of the boot; the reset pins as they stand and whether `PERST_N` holds a full reset
(R608, R609); the cause of the reset in progress; the PCIe reference is lost (R42); a sleep entry in progress, a wake that waits for its
end, a wake in progress, and the instant at which the sleep began (R616 to R620); the `VSRAM_RET` pin; the version of the image that
boots (R574). -/
structure SysRt where
  pcie : PcieRt := {}
  stage : BootStage := .reset
  porLow : Bool := true
  perstLow : Bool := false
  perstFull : Bool := false
  refLost : Bool := false
  entering : Bool := false
  wakeWaits : Bool := false
  waking : Bool := false
  sleepAt : Nat := 0
  vsramRet : Bool := false
  secver : Nat := 0
deriving DecidableEq, Repr

end Sys2Proof.Machine
end

