-- ==== Sys2Proof/Syntax.lean ====
section
/-!
DEFINITION. The commands of the block: one constructor for each row of spec/opcode_table.json, in the table's order.

Operands.  A packet (a row with an opcode of R90) carries its header `h` (R67) and its parameters as numbers; addresses are the
64-bit parameters of R68.  A register access carries the number of its 32-bit word (`dw`, the offset divided by 4) and its byte
enables `be` (all ones: a full access).  An event of a signal, a wire or a timer carries what the world decides: a received block's
body, a sample, an instant `t` of the fire timeline in 1/16 ns, or the outcome of a hardware test.
-/

namespace Sys2Proof

open Machine

/-- The commands (spec/opcode_table.json). -/
inductive Instr where
  /-- `REGISTER_WRITE` (R21): A BAR0 write to a register that has no row of its own; covers field types, staged high words, narrow-write discard and event clearing. -/
  | registerWrite (dw : Nat) (be : BitVec 4) (v : Word)
  /-- `LOW_WORD_READ` (R15): A read of the low word of a 64-bit or wider register, which captures the higher words. -/
  | lowWordRead (dw : Nat) (be : BitVec 4)
  /-- `AUDIT_INDEX_READ` (R589): A read of the low word of SEC_AUDIT_INDEX, which captures its high word and the whole chain value. -/
  | auditIndexRead
  /-- `RC_FIELD_READ` (R23): A read of an RC field returns its value and clears it, keeping any increment of the same clock. -/
  | rcFieldRead (dw : Nat) (inc : Nat)
  /-- `UNMAPPED_ACCESS` (R40): A BAR0 access to an offset that belongs to no register reads 0 or is discarded, and sets ACCESS. -/
  | unmappedAccess (dw : Nat) (write : Bool)
  /-- `ENABLE` (R36): A write of ENABLE in UNIT_CTRL lets the node accept work or starts a drain, and resets ring indices on a ring. -/
  | enable (n : Node) (on : Bool)
  /-- `QUIESCE` (R93): Setting QUIESCE stops a node starting new work and starts its drain. -/
  | quiesce (n : Node) (on : Bool)
  /-- `ABORT` (R94): A write of 1 to ABORT discards the work in flight of the node and its descendants. -/
  | abort (n : Node)
  /-- `ABORT_COMPLETE` (R94): An abort completes; the node goes to IDLE or OFF and ABORTED is set. -/
  | abortComplete (n : Node)
  /-- `RESET` (R34): A write of 1 to RESET returns the node and its descendants to reset values. -/
  | reset (n : Node) (b : BootIn)
  /-- `DRAIN_COMPLETE` (R94): A node's drain ends; it goes to IDLE or OFF and QUIESCED is set. -/
  | drainComplete (n : Node)
  /-- `DRAIN_TIMEOUT` (R95): A drain exceeds its bound, and the remaining work is aborted. -/
  | drainTimeout (n : Node)
  /-- `SUBMISSION_DOORBELL` (R63): A write of RING_SQ_TAIL covers new submission entries or halts the ring with BAD_DOORBELL. -/
  | submissionDoorbell (r : Fin 256) (v : Word)
  /-- `COMPLETION_DOORBELL` (R62): A write of RING_CQ_HEAD frees completion entries or halts the ring with BAD_DOORBELL. -/
  | completionDoorbell (r : Fin 256) (v : Word)
  /-- `RING_RESUME` (R83): A write of RESUME in RING_STATUS restarts a halted ring. -/
  | ringResume (r : Fin 256)
  /-- `PACKET_FETCH` (R63): The command processor fetches a packet covered by a doorbell by DMA, with refetch and halt on failure. -/
  | packetFetch (failed : Nat)
  /-- `INTERRUPT_COAL_TIMEOUT` (R76): COAL_TIME expires on pending notifying completions and the MSI-X vector is sent. -/
  | interruptCoalTimeout (r : Fin 256)
  /-- `CREDIT_WATCHDOG` (R98): A unit has held credits or bale slots for 100 µs without progress, and they are taken back. -/
  | creditWatchdog (n : Node)
  /-- `FW_FAULT` (R72): The command processor firmware faults; CMD enters FAULTED and in-flight packets are lost. -/
  | fwFault
  /-- `BAR2_READ` (R59): A PCIe read through the BAR2 DRAM aperture. -/
  | bar2Read (off len : Nat)
  /-- `BAR2_WRITE` (R392): A PCIe write through the BAR2 DRAM aperture. -/
  | bar2Write (off : Nat) (data : List Byte)
  /-- `NOP` (R90): Returns the global line number. -/
  | nop (h : Hdr) 
  /-- `SYS_STATE` (R614): Changes the device state among RUN, SLEEP and TEST. -/
  | sysState (h : Hdr) (target : Nat)
  /-- `UNIT_QUERY` (R90): Returns a node's header words. -/
  | unitQuery (h : Hdr) (off : Nat)
  /-- `CTX_OPEN` (R85): Opens a job context with its lanes, groups, silo and mode. -/
  | ctxOpen (h : Hdr) (lanes groups silo siloMib columns mode rate : Nat)
  /-- `CTX_START` (R309): Starts a context after its checks and sets the synthesizer accumulators. -/
  | ctxStart (h : Hdr) (pos : Nat) (flags : Nat)
  /-- `CTX_STOP` (R84): Stops a running context at the next headland or after the current line. -/
  | ctxStop (h : Hdr) (mode : Nat)
  /-- `CTX_CLOSE` (R84): Closes a context and aborts its queued pages. -/
  | ctxClose (h : Hdr) 
  /-- `CTX_QUERY` (R90): Returns a context's state, queue and line number. -/
  | ctxQuery (h : Hdr) 
  /-- `UNIT_QUIESCE` (R93): Drains a node by packet. -/
  | unitQuiesce (h : Hdr) (off flags : Nat)
  /-- `UNIT_ABORT` (R96): Aborts a node's work by packet. -/
  | unitAbort (h : Hdr) (off : Nat)
  /-- `RECLAIM` (R100): Takes back at once the credits and bale slots of a faulted node. -/
  | reclaim (h : Hdr) (off : Nat)
  /-- `BALE_DECODE` (R130): Decodes bales into a destination, stopping resumably on OUT_FULL. -/
  | baleDecode (h : Hdr) (src dst srcLen dstLen : Nat)
  /-- `BALE_ENCODE` (R125): Codes a source of rows into bales, with raw fallback and verify-by-decode. -/
  | baleEncode (h : Hdr) (src dst srcLen dstLen coding e flags layout : Nat) (miscoded : Option Nat)
  /-- `BALE_VERIFY` (R137): Checks every bale of a source without writing output. -/
  | baleVerify (h : Hdr) (src srcLen : Nat)
  /-- `BALE_RESUME` (R132): Continues a job stopped on OUT_FULL from its resume handle. -/
  | baleResume (h : Hdr) (handle dst dstLen : Nat)
  /-- `BALE_DISCARD` (R90): Releases a held resume handle. -/
  | baleDiscard (h : Hdr) (handle : Nat)
  /-- `LAYER_SET` (R147): Loads a layer descriptor for a page or boundary. -/
  | layerSet (h : Hdr) (addr layer when : Nat)
  /-- `COLOUR_SET` (R163): Loads a layer's matrix and offsets or its curves. -/
  | colourSet (h : Hdr) (addr layer table when : Nat)
  /-- `PAGE_SUBMIT` (R154): Queues a page with its bale list after checking the list. -/
  | pageSubmit (h : Hdr) (list entries length headland number : Nat)
  /-- `SILO_COPY` (R176): Copies composed or quarter-scale rows from the silo with status headers. -/
  | siloCopy (h : Hdr) (first lines dst flags : Nat)
  /-- `NMAP_WRITE` (R184): Writes nozzle map entries after checking them. -/
  | nmapWrite (h : Hdr) (src first entries when : Nat)
  /-- `NMAP_READ` (R90): Returns nozzle map entries in force. -/
  | nmapRead (h : Hdr) (dst first entries : Nat)
  /-- `NCAL_WRITE` (R194): Writes per-nozzle calibration entries. -/
  | ncalWrite (h : Hdr) (src first entries when : Nat)
  /-- `THRESH_LOAD` (R197): Loads a threshold array. -/
  | threshLoad (h : Hdr) (src array when : Nat)
  /-- `LEVEL_SET` (R198): Loads a colour's level table. -/
  | levelSet (h : Hdr) (src colour when : Nat)
  /-- `LANE_TRAIN` (R234): Trains the head lanes of a mask at a rate. -/
  | laneTrain (h : Hdr) (mask rate : Nat)
  /-- `LANE_LATENCY` (R261): Sends fresh pings on lanes and writes latency records. -/
  | laneLatency (h : Hdr) (mask dst : Nat)
  /-- `HUB_STATUS` (R273): Writes the last STATUS, HELLO and TEMP bodies of a hub. -/
  | hubStatus (h : Hdr) (lane dst : Nat)
  /-- `ENC_CONFIG` (R281): Configures an encoder channel and resets its position and counters. -/
  | encConfig (h : Hdr) (channel type block : Nat)
  /-- `SYNTH_SET` (R308): Loads a fire group's line synthesizer parameters. -/
  | synthSet (h : Hdr) (group when block : Nat)
  /-- `COMPARE_SET` (R322): Queues a position-compare target on an output. -/
  | compareSet (h : Hdr) (output flags target width : Nat)
  /-- `LATCH_READ` (R320): Writes and removes the oldest latch records of an input. -/
  | latchRead (h : Hdr) (input dst most : Nat)
  /-- `DIV_SET` (R328): Sets a divided quadrature output's divisor. -/
  | divSet (h : Hdr) (output divisor : Nat)
  /-- `CAM_CONFIG` (R348): Writes and commits a camera lane's settings. -/
  | camConfig (h : Hdr) (lane block : Nat)
  /-- `CAM_GENCP` (R336): Sends GenCP request bytes to a camera and waits for the reply. -/
  | camGencp (h : Hdr) (lane req reqLen room reply : Nat)
  /-- `STRIPE_SET` (R340): Loads the stripe table and models. -/
  | stripeSet (h : Hdr) (table entries : Nat)
  /-- `STATS_READ` (R360): Writes and removes tile records. -/
  | statsRead (h : Hdr) (dst first most : Nat)
  /-- `DEFECT_READ` (R362): Writes and removes defect records. -/
  | defectRead (h : Hdr) (dst first most : Nat)
  /-- `CAL_SEED` (R377): Seeds calibration from a printed density or row pattern. -/
  | calSeed (h : Hdr) (pattern lines : Nat)
  /-- `CAL_ANCHOR` (R381): Sets a colorant's anchor from a measured patch density. -/
  | calAnchor (h : Hdr) (colour m pos : Nat)
  /-- `CAL_PROPOSALS` (R376): Writes and removes proposal records. -/
  | calProposals (h : Hdr) (dst most : Nat)
  /-- `CAL_POLICY` (R374): Sets the calibration policy. -/
  | calPolicy (h : Hdr) (policy : Nat)
  /-- `DMA_COPY` (R416): Copies data between host memory and DRAM, carrying poison. -/
  | dmaCopy (h : Hdr) (src dst len : Nat)
  /-- `MEM_RETIRE` (R423): Adds a 64 KiB page to the retirement list. -/
  | memRetire (h : Hdr) (addr : Nat)
  /-- `MEM_REMAP` (R422): Copies a DRAM row to a spare row and redirects it. -/
  | memRemap (h : Hdr) (ch row : Nat)
  /-- `MEM_LOG_READ` (R421): Writes and removes MEM error log records. -/
  | memLogRead (h : Hdr) (dst most : Nat)
  /-- `PTP_CONFIG` (R451): Configures and restarts the PTP clock. -/
  | ptpConfig (h : Hdr) (block : Nat)
  /-- `PULSE_SET` (R461): Arms a timed pulse output's schedule. -/
  | pulseSet (h : Hdr) (output base sec ns frac period width : Nat)
  /-- `TIME_READ` (R443): Returns a time base's value. -/
  | timeRead (h : Hdr) (base : Nat)
  /-- `AXIS_MOVE` (R482): Moves a homed axis to a target on a trapezoidal profile. -/
  | axisMove (h : Hdr) (axis target rate accel decel : Nat)
  /-- `AXIS_HOME` (R486): Homes an axis by stall or home reference. -/
  | axisHome (h : Hdr) (axis method : Nat)
  /-- `AXIS_STOP` (R479): Stops an axis by deceleration or by turning the bridges off. -/
  | axisStop (h : Hdr) (axis mode : Nat)
  /-- `AXIS_SET` (R481): Loads an axis parameter block. -/
  | axisSet (h : Hdr) (axis block : Nat)
  /-- `YOKE_ROLE` (R498): Sets the device alone, primary or standby. -/
  | yokeRole (h : Hdr) (role : Nat)
  /-- `TAKEOVER` (R518): The standby takes head lanes or the whole press by raising epochs. -/
  | takeover (h : Hdr) (mask whole : Nat)
  /-- `YOKE_RESYNC` (R513): Mirrors the primary's state into the standby. -/
  | yokeResync (h : Hdr) 
  /-- `GLEAN_RUN` (R530): Runs gleaner tests on an idle node. -/
  | gleanRun (h : Hdr) (off mask : Nat)
  /-- `GLEAN_POLICY` (R531): Sets the gleaner policy. -/
  | gleanPolicy (h : Hdr) (block : Nat)
  /-- `HEALTH_READ` (R564): Writes the health block. -/
  | healthRead (h : Hdr) (dst : Nat)
  /-- `TALLY_READ` (R560): Writes DRAM tallies of a nozzle range. -/
  | tallyRead (h : Hdr) (dst first n : Nat)
  /-- `THERMAL_SET` (R545): Sets thermal thresholds and rate limits. -/
  | thermalSet (h : Hdr) (block : Nat)
  /-- `FW_UPDATE` (R576): Verifies and stages a firmware image in the copy not running. -/
  | fwUpdate (h : Hdr) (image len : Nat)
  /-- `SEAL_LOAD` (R581): Authenticates and stores a sealed layer. -/
  | sealLoad (h : Hdr) (content len block : Nat) (sigR sigS : List Byte)
  /-- `AUDIT_READ` (R588): Writes audit records in index order. -/
  | auditRead (h : Hdr) (dst first most : Nat)
  /-- `KEY_REVOKE` (R570): Revokes a key slot on a signed message. -/
  | keyRevoke (h : Hdr) (slot : Nat) (sigR sigS msg : List Byte)
  /-- `SEC_SELF_TEST` (R594): Runs the module self-tests again. -/
  | secSelfTest (h : Hdr) (fails : BitVec 4)
  /-- `THRESHER_GRANT` (R156): Free threshers are granted to a waiting gang or packet in deadline order. -/
  | thresherGrant
  /-- `COMPOSE_ROW` (R177): The compositor composes a row once pacing allows and writes it, its quarter-scale share and its tag. -/
  | composeRow (ctx : Nat)
  /-- `SWATH_COMPUTE` (R187): A screening slice computes a lane's swath for a line and writes it to the loft. -/
  | swathCompute (lane : Fin 32) (shadowBad : Bool)
  /-- `SLICE_ROTATION` (R216): After 2^ROT_LOG2 lines the spare slice begins to shadow the next active slice. -/
  | sliceRotation
  /-- `SHADOW_COMPLETE` (R216): After 64 agreeing shadow lines the spare takes over the lane. -/
  | shadowComplete
  /-- `SLICE_FAULT` (R219): An active slice faults and the spare takes its lane within 2 µs. -/
  | sliceFault (n : Fin 33) (check : Bool)
  /-- `LINE_COMMIT` (R313): A fire group's next fire time is committed, which is its line tick. -/
  | lineCommit (g : Fin 32) (t : Nat)
  /-- `LINE_FIRED` (R242): A line's fire time passes; its loft line is freed and page or stop completions are written. -/
  | lineFired (ctx line : Nat)
  /-- `LINE_START_FIRE` (R245): A FIRE block leaves at its planned departure with OFFSET from the actual departure. -/
  | lineStartFire (lane group : Fin 32) (t : Nat)
  /-- `NAK` (R250): A hub NAK is received and the words asked for are replayed with RESUME blocks. -/
  | nak (lane : Fin 32) (body t : Nat)
  /-- `STATUS` (R256): A hub STATUS block is received and recorded, marking pages for missed words. -/
  | status (lane : Fin 32) (body t : Nat)
  /-- `TEMP` (R271): A hub TEMP is received and a device TEMP with a new VSTEP or DISABLE is sent. -/
  | temp (lane : Fin 32) (body t : Nat)
  /-- `PING` (R257): Every LAT_PERIOD an ALIGN with PING is sent on each UP head lane. -/
  | ping (lane : Fin 32) (t : Nat)
  /-- `ALIGN` (R259): A hub echo ALIGN is received and a latency sample is formed and applied. -/
  | align (lane : Fin 32) (body t : Nat)
  /-- `LANE_LATENCY_TIMEOUT` (R261): The LANE_LATENCY wait ends and the records are written. -/
  | laneLatencyTimeout
  /-- `TRAIN` (R230): A TRAIN block from the far end is received and acted on in training. -/
  | train (l : LaneId) (body : Nat)
  /-- `BLOCK_LOCK` (R225): A receiver gains block lock after 64 valid sync headers. -/
  | blockLock (l : LaneId)
  /-- `LOCK_LOSS` (R226): A receiver loses block lock or its clock leaves the rate. -/
  | lockLoss (l : LaneId) (clock : Bool) (t : Nat)
  /-- `LOS` (R226): Loss of signal is reported or cleared by the amplitude detector. -/
  | los (l : LaneId) (on : Bool) (t : Nat)
  /-- `BER_WINDOW` (R227): A window of 65,536 blocks ends and HI_BER is set or cleared. -/
  | berWindow (l : LaneId) (last : Option Nat) (t : Nat)
  /-- `TUNE_CLEAN_COUNT` (R230): 2^20 clean blocks end the TUNE state. -/
  | tuneCleanCount (l : LaneId)
  /-- `TRAIN_STATE_TIMEOUT` (R230): A training state's timer expires and the lane fails. -/
  | trainStateTimeout (l : LaneId)
  /-- `TAP_REQUEST_RETRY` (R230): A tap request unacknowledged for 100 µs is sent again or training fails. -/
  | tapRequestRetry (l : LaneId)
  /-- `TRAIN_T_EXPIRY` (R231): Training exceeds TRAIN_T and the lane fails. -/
  | trainTExpiry (l : LaneId)
  /-- `LANE_CTRL_START` (R230): A write of START in LANE_CTRL trains the lane. -/
  | laneCtrlStart (l : LaneId)
  /-- `LANE_RATE_WRITE` (R236): A write of RATE during training aborts and restarts training at the new rate. -/
  | laneRateWrite (l : LaneId) (rate : Bool)
  /-- `LANE_TRAFFIC_RESUME` (R269): After 1 ms of lock and hub RX_LOCK the lane carries traffic again. -/
  | laneTrafficResume (lane : Fin 32)
  /-- `ENCODER_SAMPLE` (R283): A sine and cosine ADC sample pair is interpolated into a position. -/
  | encoderSample (ch : Fin 4) (x c : Int) (t : Nat)
  /-- `QUADRATURE_TRANSITION` (R289): A filtered A/B transition moves the position. -/
  | quadratureTransition (ch : Fin 4) (a b : Bool) (e : InEdge)
  /-- `BISS_READ` (R290): A BiSS-C single-cycle read every READ_NS ns. -/
  | bissRead (ch : Fin 4) (pos : Nat) (nE nW : Bool) (crc : Nat) (start : Bool) (t : Nat)
  /-- `SSI_READ` (R291): An SSI read every READ_NS ns. -/
  | ssiRead (ch : Fin 4) (raw t : Nat)
  /-- `INDEX_EDGE` (R296): A rising Z edge moving forward is checked against INDEX_COUNTS. -/
  | indexEdge (z : ZEdge)
  /-- `STANDSTILL` (R300): No edge for STILL_T sets STANDSTILL and speed 0. -/
  | standstill (ch : Fin 4) (t : Nat)
  /-- `LISSAJOUS_WINDOW` (R288): A window of 65,536 sample pairs ends and offsets and gain are corrected. -/
  | lissajousWindow (ch : Fin 4)
  /-- `LATCH_EDGE` (R316): A latch input edge is recorded with position and time. -/
  | latchEdge (input : Fin 8) (falling : Bool) (e : InEdge)
  /-- `COMPARE_COMMIT` (R324): An armed compare target's crossing is committed and its pulse driven. -/
  | compareCommit (out : Fin 16) (t : Nat)
  /-- `COMPARE_PULSE_END` (R324): A compare pulse's width expires and the output returns inactive. -/
  | comparePulseEnd (out : Fin 16) (t : Nat)
  /-- `CAMERA_LINE` (R342): A camera line is received, registered and compared against the reference. -/
  | cameraLine (cam : Fin 8) (data : List Byte) (unusable : List Nat) (damaged : List (Nat × Nat)) (resent t : Nat)
  /-- `FRAME_END` (R345): A camera frame ends by footer, header or timeout and its records are written. -/
  | frameEnd (cam : Fin 8) (how : Fin 3) (t : Nat)
  /-- `RESEND_TIMEOUT` (R350): A damaged video packet's resend does not arrive within RESEND_US. -/
  | resendTimeout (cam : Fin 8)
  /-- `GENCP_REPLY` (R336): A camera's GenCP reply arrives and CAM_GENCP completes. -/
  | gencpReply (cam : Fin 8) (data : List Byte)
  /-- `GENCP_TIMEOUT` (R336): No GenCP reply arrives within 100 ms. -/
  | gencpTimeout (cam : Fin 8)
  /-- `GPIO_MESSAGE` (R335): A camera GPIO message updates GPIO_IN. -/
  | gpioMessage (cam : Fin 8) (inputs : BitVec 8)
  /-- `CAM_LANE_UP` (R333): A camera lane's receiver has held lock for 1 ms and the lane is up. -/
  | camLaneUp (cam : Fin 8)
  /-- `COMMIT` (R346): A write of COMMIT in CAM_CTRL commits the shadow camera settings. -/
  | commit (cam : Fin 8)
  /-- `CAL_ANCHOR_TIMEOUT` (R382): A CAL_ANCHOR waits 10 s for its patch without enough pixels. -/
  | calAnchorTimeout (t : Nat)
  /-- `MEM_REQUEST` (R401): MEM serves a DRAM or granary request with ECC, poison and replay handling. -/
  | memRequest (kind cls ns : Nat) (req : MemReq) (upsets : List (Nat × Nat)) (sampled : Bool)
  /-- `AGE_PROMOTION` (R399): A request that has waited AGE_LIMIT is promoted to class 0. -/
  | agePromotion
  /-- `REFRESH` (R404): The fixed interval elapses and an all-bank refresh is sent. -/
  | refresh (ch : Fin 4)
  /-- `REFRESH_RATE_POLL` (R405): Mode register 4 is read every 1 ms and HOT is set or cleared. -/
  | refreshRatePoll (ch : Fin 4) (above : Bool) (t : Nat)
  /-- `EYE_RECENTRE` (R397): Every 1 ms the data eye is re-centred inside a refresh stall. -/
  | eyeRecentre (ch : Fin 4) (readPs writePs : Nat)
  /-- `IMPEDANCE_CALIBRATION` (R397): Every 128 ms the output impedance is calibrated. -/
  | impedanceCalibration (ch : Fin 4)
  /-- `SCRUB` (R412): The scrub reads and corrects DRAM, poisoning uncorrectable words. -/
  | scrub (addr words : Nat) (upsets : List (Nat × Nat))
  /-- `SELF_REFRESH_ENTRY` (R408): A channel idle for SR_IDLE ms enters self-refresh. -/
  | selfRefreshEntry (ch : Fin 4)
  /-- `GRANARY_ROTATION` (R431): Every ROT_S seconds the next logical bank is copied into the spare. -/
  | granaryRotation (t : Nat)
  /-- `BANK_MOVE` (R431): A bank copy ends and the logical bank moves to the spare. -/
  | bankMove
  /-- `DRAM_TRAINING_END` (R394): Channel training ends and the channel set is fixed. -/
  | dramTrainingEnd (trained : BitVec 4)
  /-- `ZERO_FILL_END` (R395): The DRAM zero-fill ends and ZERO_DONE is set. -/
  | zeroFillEnd
  /-- `SYNC` (R458): A Sync message is received and, in one-step mode, completes an offset sample for the servo. -/
  | sync (port : Fin 2) (source seq : Nat) (twoStep : Bool) (origin : Nat) (corr : Int) (t : Nat)
  /-- `FOLLOW_UP` (R458): A Follow_Up message completes an offset sample for the servo. -/
  | followUp (port : Fin 2) (source seq origin : Nat) (corr : Int) (t : Nat)
  /-- `DELAY_REQ` (R452): A Delay_Req received in MASTER is answered. -/
  | delayReq (port : Fin 2) (source seq : Nat) (corr : Int) (t : Nat)
  /-- `DELAY_RESP` (R456): A Delay_Resp gives a delay sample. -/
  | delayResp (port : Fin 2) (source seq requester : Nat) (recv : Int) (corr : Int) (t : Nat)
  /-- `PDELAY_REQ` (R455): A Pdelay_Req is answered with Pdelay_Resp. -/
  | pdelayReq (port : Fin 2) (source seq : Nat) (corr : Int) (t tOut : Nat)
  /-- `PDELAY_RESP` (R456): A Pdelay_Resp gives a peer delay sample. -/
  | pdelayResp (port : Fin 2) (requester seq : Nat) (twoStep : Bool) (recv : Int) (corr : Int) (t : Nat)
  /-- `PDELAY_RESP_FOLLOW_UP` (R456): A Pdelay_Resp_Follow_Up completes a peer delay sample. -/
  | pdelayRespFollowUp (port : Fin 2) (requester seq : Nat) (origin : Int) (corr : Int) (t : Nat)
  /-- `ANNOUNCE` (R452): An Announce message feeds the best master clock algorithm. -/
  | announce (port : Fin 2) (a : Announce) (t : Nat)
  /-- `FRAME_DISCARD` (R447): A received frame that is not an accepted PTP frame is discarded. -/
  | frameDiscard (port : Fin 2)
  /-- `SYNC_INTERVAL` (R452): A port in MASTER sends Sync at its interval. -/
  | syncInterval (port : Fin 2) (t : Nat)
  /-- `ANNOUNCE_INTERVAL` (R452): A port in MASTER sends Announce at its interval. -/
  | announceInterval (port : Fin 2) (t : Nat)
  /-- `DELAY_REQ_INTERVAL` (R456): A slave port sends Delay_Req or Pdelay_Req at its interval. -/
  | delayReqInterval (port : Fin 2) (t : Nat)
  /-- `ANNOUNCE_RECEIPT_TIMEOUT` (R459): announceReceiptTimeout expires and the base enters holdover. -/
  | announceReceiptTimeout (port : Fin 2)
  /-- `SYNC_RECEIPT_TIMEOUT` (R459): No Sync for 3 sync intervals and the master is lost. -/
  | syncReceiptTimeout (port : Fin 2)
  /-- `LINK_CHANGE` (R445): An Ethernet port's link goes up or down. -/
  | linkChange (port : Fin 2) (up : Bool)
  /-- `PULSE_COMMIT` (R462): A timed pulse is committed 2 µs before it is due. -/
  | pulseCommit (out : Fin 8) (t : Nat)
  /-- `PULSE_END` (R462): A timed pulse's width expires. -/
  | pulseEnd (out : Fin 8) (t : Nat)
  /-- `TB_SET` (R442): A write of SET steps a time base. -/
  | tbSet (base : Fin 4)
  /-- `TB_RATE` (R442): A write of TB_RATE changes a time base's rate without a jump. -/
  | tbRate (base : Fin 4) (v : Word)
  /-- `PROFILE_SEGMENT` (R475): Every 10 µs an axis's speed is recomputed on its profile. -/
  | profileSegment (axis : Fin 8) (t : Nat)
  /-- `CHOPPER_CYCLE` (R472): A bridge's chopper cycle begins and its offset adapts. -/
  | chopperCycle (axis : Fin 8) (second : Bool) (t : Nat)
  /-- `COMPARATOR_TRIP` (R472): A sense comparator trips and ends the drive phase. -/
  | comparatorTrip (axis : Fin 8) (second : Bool) (t : Nat)
  /-- `INPUT_EDGE` (R484): A raw edge on an axis switch input; chatter is detected. -/
  | inputEdge (axis : Fin 8) (input : Fin 4) (level : Bool) (t : Nat)
  /-- `INPUT_ACCEPTED` (R483): A level held for DEB_US µs is accepted. -/
  | inputAccepted (axis : Fin 8) (input : Fin 4) (t : Nat)
  /-- `HOLD_TIMEOUT` (R480): HOLD_MS ends and the axis holds at I_HOLD or turns off. -/
  | holdTimeout (axis : Fin 8) (t : Nat)
  /-- `AX_ACCEL_WRITE` (R476): A write of AX_ACCEL takes effect at the next segment. -/
  | axAccelWrite (axis : Fin 8) (v : Word)
  /-- `AX_DECEL_WRITE` (R477): A write of AX_DECEL takes effect at the next segment, raised if needed. -/
  | axDecelWrite (axis : Fin 8) (v : Word)
  /-- `TOKEN` (R507): A step token from the primary is checked against the standby's tick. -/
  | token (ctx : Fin 256) (line global t : Nat)
  /-- `SWATH_CRC` (R509): The partner's swath CRC is compared with this device's. -/
  | swathCrc (lane : Fin 32) (line : Nat) (marked : Bool) (crc : BitVec 32) (t : Nat)
  /-- `HEART` (R506): A partner heartbeat is received. -/
  | heart (role : Fin 4) (fenced owns checking : Bool) (last t : Nat)
  /-- `HEART_INTERVAL` (R506): A HEART is sent at least every 2 µs. -/
  | heartInterval
  /-- `CHECK` (R510): The partner's quick-check result is received and the outcome applied. -/
  | check (done passed : Bool) (lane : Fin 32) (line t : Nat)
  /-- `QUICK_CHECK_END` (R527): A quick check of a lane ends within 200 µs. -/
  | quickCheckEnd (lane : Fin 32) (fails : BitVec 4)
  /-- `MIRROR` (R512): A mirror message with a digest or state is received and compared or loaded. -/
  | mirror (q : Nat) (m : MirrorMsg) (t : Nat)
  /-- `RESULT` (R501): A forwarded completion is received and written as this device's own. -/
  | result (q : Nat) (m : ResultMsg) (t : Nat)
  /-- `AXIS` (R502): The primary's axis state is loaded into the standby's step generator. -/
  | axis (axis : Fin 8) (pos : Int) (v acc : Nat) (neg : Bool) (t : Nat)
  /-- `RECORD` (R516): A partner's tile, defect or proposal record is entered into the ring. -/
  | record (kind : Fin 3) (bytes : List Byte) (t : Nat)
  /-- `MESSAGE_RETRANSMIT` (R506): An unacknowledged MIRROR or RESULT is sent again after 20 µs. -/
  | messageRetransmit (t : Nat)
  /-- `PARTNER_DOWN` (R506): No message for 1 ms or exhausted resends declares the partner down. -/
  | partnerDown (t : Nat)
  /-- `AUTOMATIC_TAKEOVER` (R517): The standby takes over by itself on primary silence with a holding hub, fencing or lane failure. -/
  | automaticTakeover (lane : Option (Fin 32)) (t : Nat)
  /-- `GLEAN_TEST_START` (R526): The gleaner claims an idle node and starts a background test. -/
  | gleanTestStart (n : Node) (test : Fin 4)
  /-- `GLEAN_TEST_END` (R529): A gleaner test ends and a record is written. -/
  | gleanTestEnd (bank passed : Bool)
  /-- `GLEAN_RELEASE` (R528): Work arrives for a node under test and the test is ended. -/
  | gleanRelease (n : Node)
  /-- `COVERAGE_LATE` (R526): A part goes untested beyond its interval. -/
  | coverageLate (n : Node) (bank : Fin 49) (t : Nat)
  /-- `SENSOR_SCAN` (R537): Every 20 µs the die sensors are read and the thermal level updated. -/
  | sensorScan (sites : List (Nat × Nat × Int × Int)) (t : Nat)
  /-- `HEAD_SENSOR` (R554): A head sends no TEMP for 5 ms and gets VSTEP_MAX. -/
  | headSensor (lane : Fin 32) (head : Fin 64) (t : Nat)
  /-- `HEAD_ENABLE_TIMER` (R553): A disabled head stays below its limit for 10 ms and is enabled again. -/
  | headEnableTimer (lane : Fin 32) (head : Fin 64) (t : Nat)
  /-- `TALLY_FLUSH` (R558): A lane's tally accumulators are flushed to DRAM at its global line. -/
  | tallyFlush (lane : Fin 32)
  /-- `HEAD_LIFE_UPDATE` (R562): Each powered hour a head's remaining life is predicted. -/
  | headLifeUpdate (lane : Fin 32) (head : Fin 64)
  /-- `AGE_MONITOR` (R563): Each powered hour the ageing drift and AGE_EOL are updated. -/
  | ageMonitor (drifts : List Nat)
  /-- `HLTH_TALLY_CLR` (R561): A write of GO clears a range of tallies. -/
  | hlthTallyClr (lo hi : Word)
  /-- `HOST_STOP_REQUEST` (R550): A write of HOST in HLTH_STOP requests or releases STOP_REQ_N. -/
  | hostStopRequest (on : Bool)
  /-- `INJECT_ONE_BIT` (R434): INJECT 1 flips one data bit in the next full-word write. -/
  | injectOneBit (kind addr : Nat) (data : BitVec 64)
  /-- `INJECT_TWO_BITS` (R434): INJECT 2 flips two data bits in the next full-word write. -/
  | injectTwoBits (kind addr : Nat) (data : BitVec 64)
  /-- `INJECT_POISON` (R434): INJECT 3 sets the poison mark in the next full-word write. -/
  | injectPoison (kind addr : Nat) (data : BitVec 64)
  /-- `SEC_PROG` (R569): A write of GO programs an empty key slot in TEST state. -/
  | secProg (v : Word)
  /-- `SEC_SRAM_PARITY` (R597): A parity error in SEC SRAM removes the affected key from the cache. -/
  | secSramParity (slot : Fin 4)
  /-- `POWER_ON_RESET` (R607): POR_N low for at least 10 µs performs a power-on reset. -/
  | powerOnReset
  /-- `POR_N_RELEASE` (R610): POR_N rises and the boot sequence runs its stages. -/
  | porNRelease (b : BootIn)
  /-- `BROWN_OUT` (R605): A monitored rail below range for 1 µs performs a brown-out reset. -/
  | brownOut
  /-- `PERST_N_LOW` (R608): PERST_N low performs a full or link-scope reset. -/
  | perstNLow
  /-- `PERST_N_RELEASE` (R611): PERST_N rises and PCIe link training begins. -/
  | perstNRelease (b : BootIn)
  /-- `TEST_LOGIC_RESET` (R608): TRST_N or test-logic reset resets boundary scan only. -/
  | testLogicReset
  /-- `ROOT_LOSS` (R42): ROOT is absent for 1 µs; lanes stop and SYS faults. -/
  | rootLoss (t : Nat)
  /-- `BOOT_WATCHDOG` (R573): SYS does not reach ready within 5.0 s and the device resets. -/
  | bootWatchdog (b : BootIn)
  /-- `READY` (R610): Boot ends and SYS leaves NOT_READY. -/
  | ready (t : Nat)
  /-- `SLEEP_ENTRY_DONE` (R616): The sleep entry sequence ends and the clocks stop. -/
  | sleepEntryDone (t : Nat)
  /-- `WAKE` (R619): A rising WAKE pin held 1 µs, or an access outside SYS, starts a wake. -/
  | wake (t : Nat)
  /-- `SYS_CTRL_WAKE` (R619): A write of WAKE in SYS_CTRL starts a wake. -/
  | sysCtrlWake
  /-- `WAKE_DONE` (R621): A wake completes; the device returns to RUN and held accesses complete. -/
  | wakeDone (t : Nat)
  /-- `STEP_LOST` (R507): STEP_TOL µs pass after the standby's own line tick, or after a token's arrival, without the matching token or tick, so the step is lost and treated as a mismatch. -/
  | stepLost (t : Nat)
  /-- `ENC_CONFIG_FAULT_WINDOW_END` (R282): The 1 ms after an ENC_CONFIG ends without a signal fault, and the packet completes OK. -/
  | encConfigFaultWindowEnd (ch : Fin 4)
  /-- `YOKE_ROLE_TIMEOUT` (R498): YOKE_ROLE 1 or 2 has not seen the partner take the complementary role within 1 s, and it completes with PARTNER_DOWN, leaving the device alone. -/
  | yokeRoleTimeout
  /-- `CROP_START_TIMEOUT` (R363): A defect crop not started within 1 ms is dropped, counted in CROP_LOST, and its record carries 0xFFFF. -/
  | cropStartTimeout (t : Nat)
  /-- `EXPOSURE_END` (R335): EXPOSURE_NS after a camera line trigger, the device sends the falling-edge pulse message on pulse channel 0. -/
  | exposureEnd (cam : Fin 8) (t : Nat)
  /-- `PCIE_REFERENCE_LOSS` (R42): Loss of the 100 MHz PCIe reference takes the PCIe link down, while lines whose raster is in DRAM keep firing. -/
  | pcieReferenceLoss
  /-- `INVALID_BLOCK` (R239): A lane receives a block with an invalid sync header, or a control block of unknown type, which is treated as invalid and counted in LANE_ERR_SH or LANE_ERR_TYPE, and a yoke message containing it is discarded. -/
  | invalidBlock (l : LaneId) (good : Option Nat)
  /-- `FAULT_DETECTED` (R34): A unit other than the command processor or a screening slice detects a fault in itself, such as a thresher firmware fault, and enters FAULTED with FAULT set and UNIT_FAULT updated. -/
  | faultDetected (n : Node) (st : Status) (req resp slots : Nat)
deriving DecidableEq, Repr

end Sys2Proof
end

