-- ==== Sys2Proof/Decode.lean ====
section
/-!
DEFINITION. The words of spec/opcode_table.json: no row of the table gives bits, so no word spells a command.
-/

namespace Sys2Proof

/-- The command that a word of `nbits` bits spells by the table's bits: none, as the table gives no row bits. -/
def decodeTableWord (_nbits _w : Nat) : Option Instr := none

end Sys2Proof
end

