-- ==== Sys2Proof/Machine/Crypto.lean ====
section
/-!
DEFINITION. SHA-384 and the verification of ECDSA signatures over P-384, which spec/14 takes from FIPS 180-4 and FIPS 186-5 (PRESUMED,
assumption 130).
-/

namespace Sys2Proof.Machine

/-! ## SHA-384 -/

/-- The primes below 410, of which FIPS 180-4 takes the constants: 80 of them, and none has a divisor above 20. -/
def shaPrimes : List Nat := (List.range 410).filter fun p => decide (1 < p) && (List.range p).all fun d => decide (d < 2 ∨ 20 < d ∨ p % d ≠ 0)

/-- The first 64 bits of the fraction of the `k`-th root of a number below 512, for `k` of 2 or 3: the root is found bit by bit. -/
def rootFraction (k p : Nat) : Nat :=
  (List.range 69).foldr (fun i x => if (x + 2 ^ i) ^ k ≤ p * 2 ^ (64 * k) then x + 2 ^ i else x) 0 % 2 ^ 64

/-- The initial hash value: of the square roots of the ninth to the sixteenth prime. -/
def shaIv : List Nat := ((shaPrimes.drop 8).take 8).map (rootFraction 2)

/-- The round constants: of the cube roots of the first eighty primes. -/
def shaRounds : List Nat := shaPrimes.map (rootFraction 3)

/-- Rotation of a 64-bit word to the right. -/
def rotr64 (n x : Nat) : Nat := x / 2 ^ n + x % 2 ^ n * 2 ^ (64 - n)

/-- The two functions of the message schedule. -/
def shaS0 (x : Nat) : Nat := rotr64 1 x ^^^ rotr64 8 x ^^^ (x / 128)
def shaS1 (x : Nat) : Nat := rotr64 19 x ^^^ rotr64 61 x ^^^ (x / 64)

/-- Extend a message schedule that is kept newest first. -/
def shaExtend : Nat → List Nat → List Nat
  | 0, w => w
  | k + 1, w => shaExtend k ((shaS1 (w.getD 1 0) + w.getD 6 0 + shaS0 (w.getD 14 0) + w.getD 15 0) % 2 ^ 64 :: w)

/-- One round over the eight working variables. -/
def shaRound (v : List Nat) (k w : Nat) : List Nat :=
  let e := v.getD 4 0
  let a := v.getD 0 0
  let b := v.getD 1 0
  let c := v.getD 2 0
  let t1 := v.getD 7 0 + (rotr64 14 e ^^^ rotr64 18 e ^^^ rotr64 41 e) +
    ((e &&& v.getD 5 0) ^^^ ((e ^^^ (2 ^ 64 - 1)) &&& v.getD 6 0)) + k + w
  let t2 := (rotr64 28 a ^^^ rotr64 34 a ^^^ rotr64 39 a) + ((a &&& b) ^^^ (a &&& c) ^^^ (b &&& c))
  [(t1 + t2) % 2 ^ 64, a, b, c, (v.getD 3 0 + t1) % 2 ^ 64, e, v.getD 5 0, v.getD 6 0]

/-- A number from bytes, most significant first. -/
def beNat (bs : List Byte) : Nat := bs.foldl (fun a b => a * 256 + b.toNat) 0

/-- The bytes of a number, most significant first. -/
def beBytes (n v : Nat) : List Byte := (leBytes n v).reverse

/-- One block of 128 bytes. -/
def shaBlock (h : List Nat) (blk : List Byte) : List Nat :=
  let w := (shaExtend 64 ((chunks 8 16 blk).map beNat).reverse).reverse
  let v := (w.zip shaRounds).foldl (fun v x => shaRound v x.2 x.1) h
  (h.zip v).map fun x => (x.1 + x.2) % 2 ^ 64

/-- A message with its padding. -/
def shaPad (m : List Byte) : List Byte := m ++ [0x80#8] ++ List.replicate ((239 - m.length % 128) % 128) 0#8 ++ beBytes 16 (8 * m.length)

/-- SHA-384 of a byte list: 48 bytes. -/
def sha384 (m : List Byte) : List Byte :=
  let p := shaPad m
  (((chunks 128 (p.length / 128) p).foldl shaBlock shaIv).flatMap (beBytes 8)).take 48

/-! ## ECDSA over P-384 -/

/-- The field, the order of the base point, the curve's coefficient b, and the base point. -/
def p384P : Nat := 2 ^ 384 - 2 ^ 128 - 2 ^ 96 + 2 ^ 32 - 1
def p384N : Nat := 0xffffffffffffffffffffffffffffffffffffffffffffffffc7634d81f4372ddf581a0db248b0a77aecec196accc52973
def p384B : Nat := 0xb3312fa7e23ee7e4988e056be3f82d19181d9c6efe8141120314088f5013875ac656398d8a2ed19d2a85c8edd3ec2aef
def p384G : Nat × Nat :=
  (0xaa87ca22be8b05378eb1c71ef320ad746e1d3b628ba79b9859f741e082542a385502f25dbf55296c3a545e3872760ab7,
   0x3617de4a96262c6f5d9e98bf9292dc29f8f41dbd289a147ce9da3113b5f0b8c00a60b1ce1d7e819d7a431d7c90ea0e5f)

/-- The power of a number modulo `m`, for an exponent below 2^384. -/
def powMod (m x e : Nat) : Nat :=
  (List.range 384).foldr (fun i r => let q := r * r % m; if e.testBit i then q * x % m else q) 1

/-- The inverse modulo a prime. -/
def invMod (m x : Nat) : Nat := powMod m (x % m) (m - 2)

/-- The sum of two points; none is the point at infinity. -/
def ecAdd : Option (Nat × Nat) → Option (Nat × Nat) → Option (Nat × Nat)
  | none, q => q
  | p, none => p
  | some (x1, y1), some (x2, y2) =>
    let m := p384P
    let dbl := decide (x1 = x2)
    if dbl && decide ((y1 + y2) % m = 0) then none
    else
      let l := if dbl then (3 * x1 * x1 + (m - 3)) * invMod m (2 * y1) % m else (y2 + (m - y1)) * invMod m (x2 + (m - x1)) % m
      let x := (l * l + (m - x1) + (m - x2)) % m
      some (x, (l * (x1 + (m - x)) + (m - y1)) % m)

/-- A multiple of a point, for a factor below 2^384. -/
def ecMul (k : Nat) (p : Nat × Nat) : Option (Nat × Nat) :=
  (List.range 384).foldr (fun i r => let d := ecAdd r r; if k.testBit i then ecAdd d (some p) else d) none

/-- A signature (r, s) of a message verifies with a public key of 97 bytes, 0x04 followed by X and Y. -/
def sigVerifies (key msg r s : List Byte) : Bool :=
  let x := beNat ((key.drop 1).take 48)
  let y := beNat (key.drop 49)
  let r := beNat r
  let s := beNat s
  decide (key.length = 97) && decide (key.head? = some 0x04#8) && decide (x < p384P) && decide (y < p384P) &&
  decide (y * y % p384P = (x * x * x + (p384P - 3) * x + p384B) % p384P) &&
  decide (0 < r) && decide (r < p384N) && decide (0 < s) && decide (s < p384N) &&
  (let w := invMod p384N s
   match ecAdd (ecMul (beNat (sha384 msg) * w % p384N) p384G) (ecMul (r * w % p384N) (x, y)) with
   | some (px, _) => decide (px % p384N = r)
   | none => false)

end Sys2Proof.Machine
end

