-- ==== Sys2Proof/Machine/State.lean ====
section
/-!
DEFINITION. The state of the ZM-2640 as plain data, the reasons a step can stop with, and the state after reset.

Every register field of the spec stands in `regs`, under the key of its `FRef`; a field that the table does not list holds its value
at reset.  What the spec gives the machine beyond registers stands in the other fields.
-/

namespace Sys2Proof.Machine

/-- Why a step can fault: no command of this block does. -/
inductive Fault where
  /-- raised by nobody: the spec describes every error as a status, an event or a FAULTED node, which are states; safe -/
  | never
deriving DecidableEq, Repr

/-- Why a step can refuse a command. -/
inductive Refusal where
  /-- the command has no meaning in this model; raised by the arms of `exec` alone; safe -/
  | notModelled (mnemonic : String)
deriving DecidableEq, Repr

/-- What the device puts out: values read by the host, interrupts, blocks, pulses and messages.  The model's own record, newest
first; the spec has no such list. -/
inductive Sent where
  /-- a BAR0 read of an offset answered with a word -/
  | bar0 (off val : Nat)
  /-- a BAR2 read answered with bytes, and whether the answer is poisoned -/
  | bar2 (data : List Byte) (poisoned : Bool)
  /-- a poisoned TLP to host memory -/
  | poisonedTlp (addr len : Nat)
  /-- an MSI-X message -/
  | msix (vec addr data : Nat)
  /-- a control block or a data word on a lane -/
  | block (l : LaneId) (data : Bool) (body : Nat)
  /-- blocks in a row that carry nothing, the number since the last `ALIGN` before them (R228, R246) -/
  | idle (l : LaneId) (n since : Nat)
  /-- a `TRAIN` block sent again so often, each time after three `IDLE` blocks (R232) -/
  | again (l : LaneId) (body n : Nat)
  /-- the level that a compare output, or else a timed pulse output, drives from an instant on -/
  | level (compare : Bool) (out : Nat) (high : Bool) (t : Nat)
  /-- the levels of A and B that a divided output drives from an instant on -/
  | quad (out : Nat) (a b : Bool) (t : Nat)
  /-- a camera pulse message: camera lane, channel, rising -/
  | camPulse (cam channel : Nat) (rising : Bool)
  /-- bytes sent to a camera -/
  | camBytes (cam : Nat) (data : List Byte)
  /-- a change of the camera's GPIO, and a resend request -/
  | camGpio (cam value : Nat)
  | camResend (cam : Nat)
  /-- a PTP message from a port: message type, sequence number, and its fields -/
  | ptp (port kind seq : Nat) (fields : List Int)
  /-- a message to the yoke partner on a yoke lane: kind and fields; a `MIRROR`; a `RESULT` -/
  | yoke (lane kind : Nat) (fields : List Nat)
  | mirror (lane seq : Nat) (m : MirrorMsg)
  | result (lane seq : Nat) (m : ResultMsg)
deriving DecidableEq, Repr

/-- The state of the block. -/
structure State where
  /-- commands that wait, first in first out -/
  pending : List Instr := []
  /-- the fire timeline in 1/16 ns (R295) -/
  now : Nat := 0
  /-- the model's own counter of free values drawn -/
  fresh : Nat := 0
  /-- register fields, by `FRef.key` (R21) -/
  regs : Tbl Nat := []
  /-- registers whose RWL fields are locked, by the offset of the lowest word (R21) -/
  locked : Tbl Bool := []
  /-- captured higher words, by word offset (R15, R17) -/
  captured : Tbl (Option Nat) := []
  /-- staged high words, by word offset (R16) -/
  staged : Tbl (Option Nat) := []
  /-- shadow values of SH fields that wait for their boundary, by `FRef.key` (R22) -/
  shadow : Tbl (Option Nat) := []
  /-- own event latches, by node base (R28, R30) -/
  events : Tbl Nat := []
  /-- what a node has been put into, by node base -/
  modes : Tbl NodeMode := []
  /-- writes held by a node under test, by node base (R35) -/
  heldCtrl : Tbl HeldCtrl := []
  /-- unmasked SYS event bits have been reported and not been all 0 since (R77) -/
  sysReported : Bool := false
  /-- what the device has put out, newest first -/
  sent : List Sent := []
  /-- host memory as the device sees it, and its marks by 64-byte line -/
  host : Tbl Byte := []
  hostMarks : Tbl HostMark := []
  /-- DRAM bytes (R396), and poison marks by 8-byte word (R410) -/
  dram : Tbl Byte := []
  dramPoison : Tbl Bool := []
  /-- errors of stored words (R411): 0 none, 1 to 72 one bit wrong, 80 two bits, 100 a tag that disagrees -/
  dramErr : Tbl Nat := []
  /-- correctable errors by row since reset (R413), the retired pages (R423), the remapped rows with their channels (R422) -/
  ceRows : Tbl Nat := []
  retired : List Nat := []
  remaps : List (Nat × Nat) := []
  /-- the MEM error log, oldest first (R421) -/
  memLog : List MemRec := []
  mem : MemRt := {}
  /-- the DRAM tallies, by global nozzle (R557) -/
  tallies : Tbl Nat := []
  rings : Tbl RingRt := []
  /-- how often the packets in flight have been lost to a reset or a fault of CMD (R72, R87) -/
  pkEpoch : Nat := 0
  /-- weighted round robin: the ring served and the packets left of its turn (R65) -/
  arbRing : Nat := 255
  arbLeft : Nat := 0
  drains : List DrainWait := []
  holdings : Tbl Holding := []
  ctxs : Tbl Ctx := []
  /-- the next 48-bit global line number (R2) -/
  globalLine : Nat := 0
  handles : Tbl Handle := []
  baleJobs : List BaleJob := []
  holders : Tbl (Option Holder) := []
  gangs : List Gang := []
  /-- nozzle map entries and poison marks (R182, R206), calibration entries (R193), threshold values (R197), level tables (R198) -/
  nmap : Tbl Nat := []
  nmapBad : Tbl Bool := []
  ncal : Tbl Nat := []
  ncalBad : Tbl Bool := []
  thresh : Tbl Nat := []
  threshBad : Tbl Bool := []
  levels : Tbl Nat := []
  /-- level tables that arrive poisoned (R418) -/
  levelsBad : Tbl Bool := []
  tableChanges : List TableChange := []
  dueChanges : List DueChange := []
  slices : Tbl SliceRt := []
  /-- the slice after which the spare shadows next, and the period last begun (R216) -/
  rotNext : Nat := 0
  rowCache : List RowSeg := []
  rotAt : Nat := 0
  lanes : Tbl TrainRt := []
  trainPks : List TrainPk := []
  latPks : List LatPk := []
  heads : Tbl HlRt := []
  encs : Tbl EncRt := []
  syns : Tbl SynRt := []
  cmps : Tbl CmpRt := []
  latches : Tbl LatchRt := []
  divs : Tbl DivRt := []
  /-- the maps of the four time bases (R438) -/
  tbs : Tbl TbRt := []
  ptp : PtpRt := {}
  axes : Tbl AxisRt := []
  pulses : Tbl PlsRt := []
  /-- swath CRCs of this device and of its partner, by lane and per-context line (R508, R509) -/
  ownCrcs : Tbl (Option CrcNote) := []
  peerCrcs : Tbl (Option CrcNote) := []
  /-- the quick check in progress (R510), the first line of each context that is compared (R514) -/
  check : Option CheckRt := none
  compareFrom : Tbl Nat := []
  /-- tokens that came before this device's tick, and ticks whose token has not come: context, line, instant (R507) -/
  tokens : List (Nat × Nat × Nat) := []
  ticks : List (Nat × Nat × Nat) := []
  yk : YokeRt := {}
  gl : GleanRt := {}
  hlth : HlthRt := {}
  sec : SecRt := {}
  nor : NorRt := {}
  sysr : SysRt := {}
  /-- accesses that wait for a wake, oldest first (R619) -/
  heldCmds : List Instr := []
  /-- camera lanes, INSP and CAL (spec/08) -/
  cams : Tbl CamRt := []
  insp : InspRt := {}
  cal : CalRt := {}
deriving DecidableEq, Repr

/-- The state after reset: every register at its reset value, memory with nothing listed, no command waiting. -/
def State.reset : State := {}

end Sys2Proof.Machine
end

