-- ==== Sys2Proof/Machine/Ops.lean ====
section
/-!
DEFINITION. The operations that every meaning is written over: register fields, counters (R52 to R55), the unit tree's control and
state (R28 to R37), events and their report (R30, R32, R77), memory (R68), and the completion rings (R71 to R78).
-/

namespace Sys2Proof.Machine

/-! ## Register fields -/

/-- The value of a register field. -/
def State.rd (s : State) (f : FRef) : Nat := tget f.reset s.regs f.key

/-- A one-bit register field as a truth value. -/
def State.flag (s : State) (f : FRef) : Bool := decide (s.rd f ≠ 0)

/-- A register field as a signed number. -/
def State.rdS (s : State) (f : FRef) : Int := toS f.width (s.rd f)

/-- Write a register field; the value is cut to the field's width. -/
def State.wr (s : State) (f : FRef) (v : Nat) : State := { s with regs := tset f.reset s.regs f.key (v % 2 ^ f.width) }

/-- Write a signed number into a register field. -/
def State.wrS (s : State) (f : FRef) (v : Int) : State := s.wr f (ofS f.width v)

/-- Write a truth value into a register field. -/
def State.wrB (s : State) (f : FRef) (v : Bool) : State := s.wr f (b2n v)

/-- The lane on which something that the device puts out leaves. -/
def Sent.lane : Sent → Option LaneId
  | .block l _ _ | .idle l _ _ | .again l _ _ => some l
  | .camPulse c _ _ | .camBytes c _ | .camGpio c _ | .camResend c => some (.cam (Fin.ofNat 8 c))
  | .ptp p _ _ _ => some (.eth (Fin.ofNat 2 p))
  | .yoke l _ _ | .mirror l _ _ | .result l _ _ => some (.yoke (Fin.ofNat 4 l))
  | _ => none

/-- The transmitter of a lane sends no blocks: it is silenced, or sends PRBS31 in place of them (`LANE_CTRL`). -/
def State.muted (s : State) (l : LaneId) : Bool := s.flag (R.LANE_CTRL_TX_SQUELCH l.node.base) || s.flag (R.LANE_CTRL_PRBS l.node.base)

/-- Record something that the device puts out; what would leave on a lane that sends no blocks is lost. -/
def State.put (s : State) (o : Sent) : State := if o.lane.any s.muted then s else { s with sent := o :: s.sent }

/-- Several, the first put out first. -/
def State.puts (s : State) (os : List Sent) : State := os.foldl State.put s

/-- The number of the next free value, and the state with it drawn. -/
def State.draw (s : State) : Nat × State := (s.fresh, { s with fresh := s.fresh + 1 })

/-- Advance the fire timeline to an instant, if that lies ahead. -/
def State.advance (s : State) (t : Nat) : State := { s with now := max s.now t }

/-! ## Records -/

def State.ring (s : State) (n : Nat) : RingRt := tget {} s.rings n
def State.setRing (s : State) (n : Nat) (r : RingRt) : State := { s with rings := tset {} s.rings n r }
def State.ctx (s : State) (n : Nat) : Ctx := tget {} s.ctxs n
def State.setCtx (s : State) (n : Nat) (c : Ctx) : State := { s with ctxs := tset {} s.ctxs n c }
def State.head (s : State) (n : Nat) : HlRt := tget {} s.heads n
def State.setHead (s : State) (n : Nat) (h : HlRt) : State := { s with heads := tset {} s.heads n h }
def State.enc (s : State) (n : Nat) : EncRt := tget {} s.encs n
def State.setEnc (s : State) (n : Nat) (e : EncRt) : State := { s with encs := tset {} s.encs n e }
def State.syn (s : State) (n : Nat) : SynRt := tget {} s.syns n
def State.setSyn (s : State) (n : Nat) (x : SynRt) : State := { s with syns := tset {} s.syns n x }
def State.cmp (s : State) (n : Nat) : CmpRt := tget {} s.cmps n
def State.setCmp (s : State) (n : Nat) (x : CmpRt) : State := { s with cmps := tset {} s.cmps n x }
def State.latch (s : State) (n : Nat) : LatchRt := tget {} s.latches n
def State.setLatch (s : State) (n : Nat) (x : LatchRt) : State := { s with latches := tset {} s.latches n x }
def State.div (s : State) (n : Nat) : DivRt := tget {} s.divs n
def State.setDiv (s : State) (n : Nat) (x : DivRt) : State := { s with divs := tset {} s.divs n x }
def State.slice (s : State) (n : Nat) : SliceRt := tget {} s.slices n
def State.setSlice (s : State) (n : Nat) (x : SliceRt) : State := { s with slices := tset {} s.slices n x }
def State.handle (s : State) (n : Nat) : Handle := tget {} s.handles n
def State.setHandle (s : State) (n : Nat) (x : Handle) : State := { s with handles := tset {} s.handles n x }
def State.lane (s : State) (l : LaneId) : TrainRt := tget {} s.lanes l.node.base
def State.setLane (s : State) (l : LaneId) (x : TrainRt) : State := { s with lanes := tset {} s.lanes l.node.base x }
def State.holder (s : State) (n : Nat) : Option Holder := tget none s.holders n
def State.setHolder (s : State) (n : Nat) (x : Option Holder) : State := { s with holders := tset none s.holders n x }
def State.holding (s : State) (n : Node) : Holding := tget {} s.holdings n.base
def State.cam (s : State) (n : Nat) : CamRt := tget {} s.cams n
def State.setCam (s : State) (n : Nat) (x : CamRt) : State := { s with cams := tset {} s.cams n x }
def State.setHolding (s : State) (n : Node) (x : Holding) : State := { s with holdings := tset {} s.holdings n.base x }

/-- The contexts that are not CLOSED, with their numbers. -/
def State.openCtxs (s : State) : List (Nat × Ctx) := s.ctxs.filter fun c => decide (c.2.st ≠ .closed)

/-- Change every record of a table that meets a test. -/
def mapCtxs (s : State) (f : Nat → Ctx → Ctx) : State :=
  s.ctxs.foldl (fun t e => t.setCtx e.1 (f e.1 e.2)) s

/-! ## Nodes -/

/-- The own `ENABLE` and `QUIESCE` of a node. -/
def State.enabled (s : State) (n : Node) : Bool := s.flag (R.UNIT_CTRL_ENABLE n.base)
def State.quiesced (s : State) (n : Node) : Bool := s.flag (R.UNIT_CTRL_QUIESCE n.base)
def State.mode (s : State) (n : Node) : NodeMode := tget .normal s.modes n.base
def State.setMode (s : State) (n : Node) (m : NodeMode) : State := { s with modes := tset .normal s.modes n.base m }

/-- The codes of `DEV_STATE` (`SYS_DEV`). -/
def devNotReady : Nat := 0
def devRun : Nat := 1
def devSleep : Nat := 2
def devTest : Nat := 3
def devFaulted : Nat := 4
def State.dev (s : State) : Nat := s.rd R.SYS_DEV_DEV_STATE

/-- The throttle share is 256, at which deferrable work stops (R546, R547). -/
def State.stalled (s : State) : Bool := decide (256 ≤ s.hlth.share)

/-- The CORE and FABRIC clocks run: not in sleep (R616), nor after a shutdown (R551) or the loss of ROOT (R42). -/
def State.clocked (s : State) : Bool := decide (s.dev ≠ devSleep) && !s.hlth.shutdown && !s.hlth.rootLost

/-- The PCIe link is down: `PERST_N` is low (R608, R611) or its reference is lost (R42). -/
def State.linkDown (s : State) : Bool := s.sysr.perstLow || s.sysr.refLost

/-- A cause of a wake (R619, R620). -/
def State.startWake (s : State) : State :=
  if s.dev ≠ devSleep then s
  else if s.sysr.entering then { s with sysr := { s.sysr with wakeWaits := true } }
  else { s with sysr := { s.sysr with waking := true } }

/-- A BAR access of the host in MiB `unit` of BAR0, which has the effect `f`: lost while the PCIe link is down (R608, R611); after a
shutdown without effect outside SYS and HLTH (R551); in sleep, outside SYS, it starts a wake and waits for it (R619). -/
def State.hostAt (s : State) (unit : Nat) (i : Instr) (f : State → State) : State :=
  if s.linkDown then s
  else if s.hlth.shutdown ∧ unit ≠ 0 ∧ unit ≠ 14 then s
  else if s.dev = devSleep ∧ unit ≠ 0 then State.startWake { s with heldCmds := s.heldCmds ++ [i] }
  else f s

/-- The same for a register of a node. -/
def State.hostAccess (s : State) (n : Node) (i : Instr) (f : State → State) : State := s.hostAt (n.base / 0x100000) i f

/-- A node accepts work (R36): its own `ENABLE` and that of every ancestor up to, but not including, SYS are 1, none of them has
`QUIESCE` at 1, and it is neither faulted nor draining; work for a node under test ends the test (R528). -/
def State.accepts (s : State) (n : Node) : Bool :=
  (n :: n.ancestors).all (fun m => decide (m = .sys) || (s.enabled m && !s.quiesced m && decide (s.mode m ≠ .faulted))) &&
  decide (s.mode n = .normal ∨ s.mode n = .testing)

/-! ## Events -/

/-- The event mask of a node. -/
def State.mask (s : State) (n : Node) : Nat := s.rd (R.UNIT_EVENT_MASK_MASK n.base)

/-- Bits of `v` that are not set in `m`, below bit 32. -/
def andNot (v m : Nat) : Nat := v &&& (m ^^^ 0xFFFFFFFF)

/-- What an unmasked event of a child shows as in its parent: bits 4 to 0 as they are, any bit as `CHILD` (R30). -/
def upEvent (s : State) (child : Node) (v : Nat) : Nat :=
  let u := andNot (v % 2 ^ 32) (s.mask child)
  if u = 0 then 0 else (u % 32) ||| 32

/-- What events latched in node `n` contribute to the `UNIT_EVENT` of its ancestor `a`; 0 when `a` is none. -/
def eventAt (s : State) (a n : Node) (v : Nat) : Nat :=
  if n = a then v
  else match n.parent with
  | none => 0
  | some p =>
    let v1 := upEvent s n v
    if p = a then v1
    else match p.parent with
    | none => 0
    | some q =>
      let v2 := upEvent s p v1
      if q = a then v2
      else match q.parent with
      | none => 0
      | some r => if r = a then upEvent s q v2 else 0

/-- The `UNIT_EVENT` of a node (R30): its own latched bits and what its descendants contribute. -/
def State.eventsOf (s : State) (a : Node) : Nat :=
  s.events.foldl (fun acc e => acc ||| eventAt s a (Node.ofOffset e.1) e.2) 0

/-- The own latched events of a node. -/
def State.own (s : State) (n : Node) : Nat := tget 0 s.events n.base

/-- The unmasked event bits of SYS (R32). -/
def State.sysUnmasked (s : State) : Nat := andNot (s.eventsOf .sys) (s.mask .sys)

/-- Latch an event bit of a node. -/
def State.latchEvent (s : State) (n : Node) (b : Nat) : State :=
  { s with events := tset 0 s.events n.base (s.own n ||| 2 ^ b) }

/-! ## Interrupts -/

/-- The MSI-X table of SYS: 256 entries of 16 bytes at 0x8000, and the pending bits at 0x9000, laid out as the PCI Express Base
Specification gives them; the mask bit of a vector is 1 after reset (PRESUMED, assumption 8). -/
def msixAddrLo (v : Nat) : FRef := ⟨0x8000 + 16 * v, 0, 32, 0⟩
def msixAddrHi (v : Nat) : FRef := ⟨0x8004 + 16 * v, 0, 32, 0⟩
def msixData (v : Nat) : FRef := ⟨0x8008 + 16 * v, 0, 32, 0⟩
def msixMask (v : Nat) : FRef := ⟨0x800C + 16 * v, 0, 1, 1⟩
def msixPending (v : Nat) : FRef := ⟨0x9000 + 4 * (v / 32), v % 32, 1, 0⟩

/-- The PCIe configuration and capabilities (R57): width and generation of the link, physical functions, the BARs' bytes, MSI-X vectors,
payload and read request bytes, and non-posted requests outstanding. -/
structure PcieCaps where
  lanes : Nat
  generation : Nat
  functions : Nat
  bar0 : Nat
  bar2 : Nat
  vectors : Nat
  maxPayload : Nat
  maxRead : Nat
  outstanding : Nat
deriving DecidableEq, Repr

def pcieCaps : PcieCaps := ⟨16, 5, 1, 2 ^ 28, 2 ^ 32, 256, 512, 4096, 768⟩

/-- Send an MSI-X vector, or set its pending bit while it or the function is masked; none is sent while MSI-X is disabled, and none is sent in sleep (R618) or while the link is down. -/
def State.sendMsix (s : State) (v : Nat) : State :=
  if s.dev = devSleep ∨ s.linkDown = true ∨ s.sysr.pcie.msixOn = false then s
  else if s.flag (msixMask v) || s.sysr.pcie.msixMasked then s.wr (msixPending v) 1
  else s.put (.msix v (s.rd (msixAddrHi v) * 2 ^ 32 + s.rd (msixAddrLo v)) (s.rd (msixData v)))

/-! ## Counters that need no report -/

/-- The overflow rule of a counter (R52, R53): add `n`; counts lost at the maximum set the overflow flag, and the flag's change from
0 to 1 latches `OVERFLOW` in the node. -/
def State.countRaw (s : State) (cnt ovf : FRef) (n : Node) (k : Nat) : State :=
  let v := s.rd cnt + k
  if v < 2 ^ cnt.width then s.wr cnt v
  else
    let s := s.wr cnt (2 ^ cnt.width - 1)
    if s.flag ovf then s else (s.wr ovf 1).latchEvent n 3

/-! ## Host memory -/

/-- Write host memory; nothing reaches it while the link is down. -/
def State.hostWrite (s : State) (addr : Nat) (bs : List Byte) : State :=
  if s.linkDown then s else { s with host := tsets 0#8 s.host addr bs }

/-- The device is in the standby role. -/
def State.standby (s : State) : Bool := decide (s.rd R.YOKE_STATE_ROLE = 2)

/-- The device writes nothing to host memory but its shadow completions (R78, R511): a standby, or a fenced device. -/
def State.silent (s : State) : Bool := s.standby || s.flag R.YOKE_STATE_FENCED

/-- A write of a packet's output to host memory is suppressed (R78, R524). -/
def State.suppress (s : State) : State := { s with yk := { s.yk with suppressed := true } }

/-! ## Completion rings -/

/-- The number of entries of a ring (`RING_CFG`). -/
def State.entries (s : State) (r : Fin 256) : Nat := 2 ^ (max 6 (min 16 (s.rd (R.RING_CFG_LOG2_ENTRIES (Node.ring r).base))))

/-- The 64 bytes of a completion (R71). -/
def cplBytes (c : Cpl) (phase shadow : Bool) : List Byte :=
  leBytes 2 c.status ++ leBytes 2 c.seq ++ leBytes 2 c.op ++ leBytes 1 c.ctx ++
  leBytes 1 (b2n phase + 2 * b2n shadow + 4 * b2n c.event) ++ leBytes 2 c.sq ++ leBytes 6 0 ++
  (List.range 12).flatMap fun i => leBytes 4 (c.words.getD i 0)

/-- A ring whose completions go to `RING_SHADOW_CQ_BASE` (R78, R499, R511): rings 1 to 255 of a standby, of a fenced device, and of
a device that has left the standby role, until the ring is disabled. -/
def State.shadowRing (s : State) (r : Fin 256) : Bool :=
  decide (r.val ≠ 0) && (s.silent || (s.ring r.val).shadowKept)

/-- Write one completion into the next free entry of a ring (R71, R73), and arm the vector of a notifying one (R76). -/
def State.putCpl (s : State) (r : Fin 256) (c : Cpl) : State :=
  let b := (Node.ring r).base
  let tail := s.rd (R.RING_CQ_TAIL_TAIL b)
  let phase := s.flag (R.RING_CQ_TAIL_PHASE b)
  let shadow := s.shadowRing r
  let base := 4096 * (if shadow then s.rd (R.RING_SHADOW_CQ_BASE_ADDR b) else s.rd (R.RING_CQ_BASE_ADDR b))
  let n := s.entries r
  let s := s.hostWrite (base + 64 * tail) (cplBytes c phase shadow)
  let wrap := decide (n ≤ tail + 1)
  let s := (s.wr (R.RING_CQ_TAIL_TAIL b) (if wrap then 0 else tail + 1)).wrB (R.RING_CQ_TAIL_PHASE b) (if wrap then !phase else phase)
  let s := s.countRaw (R.RING_DONE_COUNT b) (R.RING_STATUS_DONE_OVF b) (.ring r) 1
  let rt := s.ring r.val
  let s := s.setRing r.val { rt with used := rt.used + 1, pendingNotify := rt.pendingNotify + b2n c.notify,
                                     notifyAt := if c.notify && decide (rt.pendingNotify = 0) then s.now else rt.notifyAt }
  if c.notify then
    let k := s.rd (R.RING_INT_COAL_COUNT b)
    if k ≤ rt.pendingNotify + 1 ∨ s.rd (R.RING_INT_COAL_TIME b) = 0 then
      (s.setRing r.val { (s.ring r.val) with pendingNotify := 0 }).sendMsix r.val
    else s
  else s

/-- A ring has a free completion entry. -/
def State.cqFree (s : State) (r : Fin 256) : Bool := decide ((s.ring r.val).used < s.entries r)

/-- The words of an event completion (R77): the SYS `UNIT_EVENT` and the global line number. -/
def State.eventCpl (s : State) : Cpl :=
  { status := 0, seq := 0, op := 0, ctx := 0, sq := 0, notify := false, event := true,
    words := [s.eventsOf .sys, s.globalLine % 2 ^ 32, s.globalLine / 2 ^ 32] }

/-- Report the SYS events (R32, R77): when the unmasked bits go from none to some, one event completion to ring 0 and vector 0; the
completion waits while the ring is full, which sets `CQ_FULL` in the ring and in CMD (R74, R102), and the vector with it.  Nothing is written while ring 0 is not enabled; while the device sleeps the report waits
(R618).  While CMD is FAULTED, only the vector is sent (R72). -/
def State.settle (s : State) : State :=
  if s.sysUnmasked = 0 then { s with sysReported := false }
  else if s.sysReported = true ∨ s.dev = devSleep then s
  else
    let s := { s with sysReported := true }
    if !s.enabled (.ring 0) || decide (s.mode .cmd = .faulted) then s.sendMsix 0
    else if s.cqFree 0 then (s.putCpl 0 s.eventCpl).sendMsix 0
    else ((s.setRing 0 { (s.ring 0) with eventWaiting := true }).wr (R.RING_STATUS_CQ_FULL (Node.ring 0).base) 1).latchEvent .cmd 18

/-- Raise an event of a node: latch its bit and report it (R30, R77). -/
def State.raise (s : State) (n : Node) (b : Nat) : State := (s.latchEvent n b).settle

/-- Count in a counter (R52, R53). -/
def State.count (s : State) (cnt ovf : FRef) (n : Node) (k : Nat) : State :=
  let v := s.rd cnt + k
  if v < 2 ^ cnt.width then s.wr cnt v
  else
    let s := s.wr cnt (2 ^ cnt.width - 1)
    if s.flag ovf then s else (s.wr ovf 1).raise n 3

/-- A discarded register access: `ACCESS` in the node (R21, R40). -/
def State.access (s : State) (n : Node) : State := s.raise n 4

/-- Raise an event when a condition holds. -/
def State.raiseIf (s : State) (c : Bool) (n : Node) (b : Nat) : State := if c then s.raise n b else s

/-- Write the completions that were held while the ring was full (R74); a count that overflows is reported (R32). -/
def State.flushHeld (s : State) (r : Fin 256) : List Cpl → State
  | [] => ((s.setRing r.val { (s.ring r.val) with held := [] }).wrB (R.RING_STATUS_CQ_FULL (Node.ring r).base) (s.ring r.val).eventWaiting).settle
  | c :: cs =>
    if s.cqFree r then (s.putCpl r c).flushHeld r cs
    else State.settle (s.setRing r.val { (s.ring r.val) with held := c :: cs })

/-- Write a completion, or hold it while the ring is full (R74). -/
def State.complCpl (s : State) (r : Fin 256) (c : Cpl) : State :=
  if s.cqFree r && (s.ring r.val).held.isEmpty then (s.putCpl r c).settle
  else
    let s := s.setRing r.val { (s.ring r.val) with held := (s.ring r.val).held ++ [c] }
    (s.wr (R.RING_STATUS_CQ_FULL (Node.ring r).base) 1).raise .cmd 18

/-! ## Messages to the yoke partner -/

/-- The lane that a message kind uses (R505): its own, or the next UP lane in ascending order modulo 4; none while the yoke is down. -/
def State.yokeLane (s : State) (kind : Nat) : Option Nat :=
  let k := if kind = 0x96 then 1 else if kind = 0xA5 ∨ kind = 0xD2 ∨ kind = 0xE1 then 2 else if kind = 0xC3 then 3 else 0
  ((List.range 4).map fun i => (k + i) % 4).find? fun n => decide (s.rd (R.LANE_STATUS_LSTATE (Node.ylane (Fin.ofNat 4 n)).base) = 5)

/-- Send a message of one of the kinds that are not acknowledged. -/
def State.sendYoke (s : State) (kind : Nat) (fields : List Nat) : State :=
  match s.yokeLane kind with
  | some l => s.put (.yoke l kind fields)
  | none => s

/-- Send a `MIRROR` or a `RESULT` once. -/
def State.sendLoad (s : State) (q : Nat) (m : YLoad) : State :=
  match m with
  | .mirror m => (match s.yokeLane 0xA5 with
    | some l => s.put (.mirror l q m)
    | none => s)
  | .result m => (match s.yokeLane 0xD2 with
    | some l => s.put (.result l q m)
    | none => s)

/-- Send a `MIRROR` or a `RESULT`; it is kept until it is acknowledged (R505, R506). -/
def State.sendKept (s : State) (m : YLoad) : State :=
  let q := (s.yk.seq + 1) % 65536
  State.sendLoad { s with yk := { s.yk with seq := q, unacked := s.yk.unacked ++ [⟨q, m, 1, s.now⟩] } } q m

/-- The device is paired with a partner that is not down. -/
def State.paired (s : State) : Bool := s.flag R.YOKE_STATE_PAIRED && !s.flag R.YOKE_STATE_PARTNER_DOWN

/-- Send a `MIRROR` or a `RESULT` to the partner of a pair. -/
def State.sendSeq (s : State) (m : YLoad) : State := if s.paired then s.sendKept m else s

/-- Anything that came from the partner at `t` (R506). -/
def State.hear (s : State) (t : Nat) : State := State.advance { s with yk := { s.yk with heard := max s.yk.heard t } } t

/-! ## Completions of packets -/

/-- A packet that starts (R79). -/
def inFlight (h : Hdr) (op : Nat) : InFlight := { sq := h.sq, seq := h.seq, op := op, ctx := h.ctx, fence := h.fence }

/-- The unit, by the opcode's upper byte, and the context of a packet (R79). -/
def InFlight.key (x : InFlight) : Nat × Nat := (x.op / 256, x.ctx)

/-- A completion is that of a packet in progress. -/
def InFlight.owns (x : InFlight) (c : Cpl) : Bool := decide (x.sq = c.sq ∧ x.seq = c.seq ∧ x.op = c.op ∧ x.ctx = c.ctx)

/-- Change the first element of a list that meets a test. -/
def modFirst {α : Type} (p : α → Bool) (f : α → α) : List α → List α
  | [] => []
  | x :: xs => if p x then f x :: xs else x :: modFirst p f xs

/-- The first completion that no earlier packet to the same unit and the same context holds back (R79); `keys` are those of the packets
before. -/
def readyCpl : List InFlight → List (Nat × Nat) → Option Cpl
  | [], _ => none
  | x :: xs, keys =>
    if x.out then readyCpl xs keys
    else match x.done with
      | none => readyCpl xs (x.key :: keys)
      | some c => if keys.contains x.key then readyCpl xs keys else some c

/-- The packet of a completion is no longer in progress, and the completion is written (R71, R80); nothing is written for a packet
that a fault or a reset of CMD has lost (R72, R87). -/
def State.finishCpl (s : State) (r : Fin 256) (c : Cpl) : State :=
  let rt := s.ring r.val
  if rt.started.any fun x => x.out && x.owns c then
    (s.setRing r.val { rt with started := rt.started.eraseP fun x => x.out && x.owns c }).complCpl r c
  else s

/-- Index and phase of the entry that a completion will take after `k` others of its ring. -/
def State.entryAfter (s : State) (r : Fin 256) (k : Nat) : Nat × Bool :=
  let b := (Node.ring r).base
  let i := s.rd (R.RING_CQ_TAIL_TAIL b) + k
  (i % s.entries r, s.flag (R.RING_CQ_TAIL_PHASE b) != decide (i / s.entries r % 2 = 1))

/-- Completions of a ring that wait for the standby's acknowledgement (R524). -/
def State.outstanding (s : State) (r : Nat) : Nat :=
  (s.yk.unacked.filter fun m => match m.load with
    | .result (.completion k _ _ _ _) => decide (k = r)
    | _ => false).length

/-- The output of a packet to host memory was suppressed: the packet is kept until the primary has completed it (R524). -/
def State.noteSuppressed (s : State) (p : Pk) : State :=
  if !s.yk.suppressed then s
  else { s with yk := { s.yk with suppressed := false,
                                  suppressedPks := if p.hdr.ring.val = 0 then s.yk.suppressedPks else s.yk.suppressedPks ++ [p] } }

/-- The completion of a packet (R71, R72): its status and result words. -/
def cplOf (p : Pk) (st : Status) (words : List Nat) : Cpl :=
  { status := st.code, seq := p.hdr.seq, op := p.op, ctx := p.hdr.ctx, sq := p.hdr.sq, notify := p.hdr.notify, event := false, words := words }

/-- Write a completion; in the primary of a pair, one of rings 1 to 255 only after the standby has acknowledged it (R524). -/
def State.sendCpl (s : State) (r : Fin 256) (c : Cpl) : State :=
  if s.paired && decide (s.rd R.YOKE_STATE_ROLE = 1) && decide (r.val ≠ 0) then
    let e := s.entryAfter r (s.outstanding r.val)
    s.sendKept (.result (.completion r.val c e.1 e.2 (s.rd (R.RING_CQ_HEAD_HEAD (Node.ring r).base))))
  else s.finishCpl r c

/-- Write the completions of a ring that nothing holds back, in ring order (R79); the last argument bounds their number. -/
def State.releaseCpls (s : State) (r : Fin 256) : Nat → State
  | 0 => s
  | k + 1 =>
    let rt := s.ring r.val
    match readyCpl rt.started [] with
    | none => s
    | some c =>
      let s := s.setRing r.val { rt with started := modFirst (fun x => !x.out && decide (x.done = some c)) (fun x => { x with out := true }) rt.started }
      (s.sendCpl r c).releaseCpls r k

/-- Complete a packet (R71, R72, R79): its completion is written once no earlier packet of its ring to the same unit and the same context
is without one.  A packet that a reset or a fault of CMD has lost gets none (R72, R87). -/
def State.complete (s : State) (p : Pk) (st : Status) (words : List Nat) : State :=
  let s := s.noteSuppressed p
  let r := p.hdr.ring
  let c := cplOf p st words
  if p.epoch ≠ s.pkEpoch then s
  else
    let rt := s.ring r.val
    let s := s.setRing r.val { rt with started := modFirst (fun x => x.done.isNone && x.owns c) (fun x => { x with done := some c }) rt.started }
    s.releaseCpls r rt.started.length

/-- Halt a ring (R82): `HALTED`, `HALT_STATUS`, `RING_HALT_INDEX`, and `RING_HALT` in CMD. -/
def State.haltRing (s : State) (r : Fin 256) (st : Status) (index : Nat) (ownFetch : Bool) : State :=
  let b := (Node.ring r).base
  let s := ((s.wr (R.RING_STATUS_HALTED b) 1).wr (R.RING_STATUS_HALT_STATUS b) st.code).wr (R.RING_HALT_INDEX_INDEX b) index
  let s := s.setRing r.val { (s.ring r.val) with haltOwnFetch := ownFetch }
  s.raise .cmd 16

/-! ## Memory -/

/-- The channels in use: those trained (R389, R394). -/
def State.channels (s : State) : List Nat := (List.range 4).filter fun c => s.flag (R.MEM_CH_STATUS_TRAINED c)

/-- Installed DRAM in bytes: the capacities of the channels in use (R389, R394). -/
def State.dramSize (s : State) : Nat := (s.channels.map fun c => s.rd (R.MEM_CH_CFG_CAP_GIB c) * 2 ^ 30).sum

/-- The bottom of the reserved area, the top 128 MiB of installed DRAM (R391). -/
def State.reservedBase (s : State) : Nat := s.dramSize - 2 ^ 27

/-- The channel of a DRAM address (R390). -/
def State.channelOf (s : State) (addr : Nat) : Nat := addr / 256 % max 1 s.channels.length

/-- The 64 KiB page of a DRAM address is retired (R424). -/
def State.retiredAt (s : State) (addr : Nat) : Bool := s.retired.contains (addr / 65536)

/-- The words of 8 bytes that a range touches. -/
def wordsOf (addr len : Nat) : List Nat := (List.range ((addr % 8 + len + 7) / 8)).map fun i => addr / 8 + i

/-- A DRAM read of the range delivers poison: a poison mark, a double-bit error, a tag that disagrees (R411), or a retired page
(R424). -/
def State.dramBad (s : State) (addr len : Nat) : Bool :=
  (wordsOf addr len).any fun w => tget false s.dramPoison w || decide (72 < tget 0 s.dramErr w) || s.retiredAt (8 * w)

/-- The 32 bytes of a record of the MEM error log (R421). -/
def MemRec.bytes (r : MemRec) : List Byte :=
  leBytes 1 r.type ++ leBytes 1 r.kind ++ leBytes 1 r.where' ++ leBytes 1 (r.geom / 2 ^ 18 % 8 + r.geom / 2 ^ 16 % 4 * 8) ++
  leBytes 2 (r.geom % 2 ^ 16) ++ leBytes 2 (r.geom / 2 ^ 22 % 2 ^ 10) ++ leBytes 8 r.addr ++ leBytes 8 r.time ++ leBytes 1 r.syndrome ++
  leBytes 1 r.bit ++ leBytes 2 r.repeats ++ leBytes 4 0

/-- The DRAM address of the record with a number in the ring of the MEM error log (R391, R421). -/
def State.logAddr (s : State) (n : Nat) : Nat := s.reservedBase + 42 * 2 ^ 20 + 32 * (n % 65536)

/-- The record that stands in a place of the log's ring: one that is still to be read, or the last that stood there (R421). -/
def State.logPlace (s : State) (k : Nat) : Option MemRec :=
  let i := (k + 65536 - s.mem.logTail % 65536) % 65536
  match s.memLog[i]? with
  | some r => some r
  | none => tget none s.mem.logOld k

/-- One byte of DRAM as a read gives it; the shadows in the reserved area hold the tables in force (R391, R428), the tallies
their counts (R557), and the ring of the MEM error log its records (R421). -/
def State.dramByte (s : State) (a : Nat) : Byte :=
  if a < s.reservedBase then tget 0#8 s.dram a
  else
    let o := a - s.reservedBase
    let mib := o / 2 ^ 20
    if 16 ≤ mib ∧ mib < 24 then
      let k := o - 16 * 2 ^ 20
      BitVec.ofNat 8 (tget nmReset s.nmap (k / 8) / 2 ^ (8 * (k % 8)))
    else if 24 ≤ mib ∧ mib < 28 then
      let k := o - 24 * 2 ^ 20
      BitVec.ofNat 8 (tget 0 s.ncal (k / 4) / 2 ^ (8 * (k % 4)))
    else if mib = 28 then
      let k := o - 28 * 2 ^ 20
      BitVec.ofNat 8 (tget 0 s.thresh (k / 2) / 2 ^ (8 * (k % 2)))
    else if 34 ≤ mib ∧ mib < 42 then
      let k := o - 34 * 2 ^ 20
      BitVec.ofNat 8 (tget 0 s.tallies (k / 8) / 2 ^ (8 * (k % 8)))
    else if 42 ≤ mib ∧ mib < 44 then
      let k := o - 42 * 2 ^ 20
      match s.logPlace (k / 32) with
      | some r => r.bytes.getD (k % 32) 0#8
      | none => 0#8
    else tget 0#8 s.dram a

/-- Read DRAM bytes. -/
def State.dramRead (s : State) (addr len : Nat) : List Byte := (List.range len).map fun i => s.dramByte (addr + i)

/-- Enter a record into the MEM error log (R421): merged with the last when type, address, as a number and as a place, and requester
are the same; dropped and
counted when 65,536 stand in it. -/
def State.logMem (s : State) (r : MemRec) : State :=
  match s.memLog.getLast? with
  | some l =>
    if l.type = r.type ∧ l.addr = r.addr ∧ l.where' = r.where' ∧ l.geom = r.geom ∧ l.kind = r.kind then
      { s with memLog := s.memLog.dropLast ++ [{ l with repeats := min 65535 (l.repeats + 1) }] }
    else if s.memLog.length < 65536 then { s with memLog := s.memLog ++ [r] }
    else (s.count R.MEM_LOG_LOST_COUNT R.MEM_OVF_LOST_OVF .mem 1).raise .mem 25
  | none => { s with memLog := s.memLog ++ [r] }

/-- A record about a DRAM word. -/
def State.memRec (s : State) (type kind addr syndrome bit : Nat) : MemRec :=
  { type := type, kind := kind, where' := s.channelOf addr + 4 * (addr / 64 % 2), geom := Config.dramRow addr,
    addr := addr, time := s.now / 16, syndrome := syndrome, bit := bit }

/-- A correctable error found in a word (R411, R413): corrected and written back, counted, logged; the eighth of a row since reset
makes the row suspect. -/
def State.correctWord (s : State) (kind w : Nat) : State :=
  let e := tget 0 s.dramErr w
  let a := 8 * w
  let s := { s with dramErr := tset 0 s.dramErr w 0 }
  let s := (s.count R.MEM_CE_COUNT R.MEM_OVF_CE_OVF .mem 1).raise .mem 16
  let s := s.logMem (s.memRec 1 kind a (Config.syndrome e) (e - 1))
  let row := (Config.dramRow a % 2 ^ 22) * 4 + s.channelOf a
  let n := tget 0 s.ceRows row + 1
  let s := { s with ceRows := tset 0 s.ceRows row n }
  if n = 8 then (s.logMem (s.memRec 6 kind a 0 0xFF)).raise .mem 20 else s

/-- An uncorrectable word found (R411, R424): counted and logged, with the record type of what was found. -/
def State.noteUe (s : State) (kind w type : Nat) : State :=
  let s := (s.count R.MEM_UE_COUNT R.MEM_OVF_UE_OVF .mem 1).raise .mem 17
  s.logMem (s.memRec type kind (8 * w) 0 0xFF)

/-- A request to channels in self-refresh ends it (R409): every channel when the range is long, else those of its 256-byte units. -/
def State.exitSr (s : State) (addr len : Nat) : State :=
  (s.channels.filter fun c => s.flag (R.MEM_CH_STATUS_SELF_REFRESH c)).foldl (fun s c =>
    if (wordsOf addr (min len 1024)).any fun w => decide (s.channelOf (8 * w) = c) then s.wr (R.MEM_CH_STATUS_SELF_REFRESH c) 0 else s) s

/-- The words of a range are written whole, which clears their poison marks and their errors (R415). -/
def State.cleanWords (s : State) (addr len : Nat) : State :=
  let inside (w : Nat) : Bool := decide (addr ≤ 8 * w) && decide (8 * w + 8 ≤ addr + len)
  { s with dramPoison := s.dramPoison.filter fun e => !inside e.1, dramErr := s.dramErr.filter fun e => !inside e.1 }

/-- What MEM does when a unit of kind `kind` reads a range of DRAM (R409, R411, R424). -/
def State.noteRead (s : State) (kind addr len : Nat) : State :=
  (wordsOf addr len).foldl (fun s w =>
    let e := tget 0 s.dramErr w
    if s.retiredAt (8 * w) then s.noteUe kind w 2
    else if e = 0 then s
    else if e < 73 then s.correctWord kind w
    else if tget false s.dramPoison w then s
    else s.noteUe kind w (if e = 100 then 4 else 2)) (s.exitSr addr len)

/-- Flip bit `b` (0–63) of the stored word `w` of DRAM. -/
def flipBit (t : Tbl Byte) (w b : Nat) : Tbl Byte :=
  tset 0#8 t (8 * w + b / 8) (tget 0#8 t (8 * w + b / 8) ^^^ BitVec.ofNat 8 (2 ^ (b % 8)))

/-- Inject the error of `MEM_TEST` into the first whole word of a write to its channel (R434): one bit, two bits, or the poison
mark; which bits are flipped is free. -/
def State.inject (s : State) (ws : List Nat) : State :=
  let k := s.rd R.MEM_TEST_INJECT
  if k = 0 then s
  else
    match ws.find? fun w => decide (s.channelOf (8 * w) = s.rd R.MEM_TEST_INJ_CH) with
    | none => s
    | some w =>
      let n := s.fresh
      let s := { (s.wr R.MEM_TEST_INJECT 0) with fresh := n + 1 }
      if k = 1 then { s with dramErr := tset 0 s.dramErr w (Config.injectBit n % 64 + 1) }
      else if k = 2 then
        let b := Config.injectBit n % 64
        let c := (b + 1 + Config.injectBit (n + 1) % 63) % 64
        { s with dramErr := tset 0 s.dramErr w 80, dram := flipBit (flipBit s.dram w b) w c, fresh := n + 2 }
      else { s with dramPoison := tset false s.dramPoison w true }

/-- A word of which a write supplies only some bytes (R414): a correctable error is corrected, a double-bit error or a tag that
disagrees leaves the word poisoned. -/
def State.mergeWord (s : State) (kind w : Nat) : State :=
  let e := tget 0 s.dramErr w
  if e = 0 then s
  else if e < 73 then s.correctWord kind w
  else
    let s := s.noteUe kind w (if e = 100 then 4 else 2)
    { s with dramErr := tset 0 s.dramErr w 0, dramPoison := tset false s.dramPoison w true }

/-- Write DRAM bytes by a unit of kind `kind`: a write that covers a whole word clears its poison mark and its errors, any other is
merged (R414, R415); writes to a retired page are discarded (R424). -/
def State.dramWrite (s : State) (kind addr : Nat) (bs : List Byte) : State :=
  let len := bs.length
  let full (w : Nat) : Bool := decide (addr ≤ 8 * w) && decide (8 * w + 8 ≤ addr + len)
  let ws := (wordsOf addr len).filter fun w => !s.retiredAt (8 * w)
  let s := s.exitSr addr len
  let s := (ws.filter fun w => !full w).foldl (fun s w => s.mergeWord kind w) s
  let whole (e : Nat) : Bool := full e && !s.retiredAt (8 * e)
  let s := { s with
    dram := if s.retired.isEmpty then tsets 0#8 s.dram addr bs
            else bs.zipIdx.foldl (fun t (b : Byte × Nat) => if s.retiredAt (addr + b.2) then t else tset 0#8 t (addr + b.2) b.1) s.dram,
    dramPoison := s.dramPoison.filter fun e => !whole e.1,
    dramErr := s.dramErr.filter fun e => !whole e.1 }
  s.inject (ws.filter full)

/-- Set the poison mark of every DRAM word that a range touches. -/
def State.poisonRange (s : State) (addr len : Nat) : State :=
  { s with dramPoison := (wordsOf addr len).foldl (fun t w => if s.retiredAt (8 * w) then t else tset false t w true) s.dramPoison }

/-- The worst mark of a run of host memory. -/
def State.hostMark (s : State) (addr len : Nat) : HostMark :=
  let ms := (List.range ((addr % 64 + len + 63) / 64)).map fun i => tget .good s.hostMarks (addr / 64 + i)
  if ms.any (fun m => decide (m = .error)) then .error else if ms.any (fun m => decide (m = .poison)) then .poison else .good

/-- An address is in DRAM form (R68). -/
def isDram (addr : Nat) : Bool := bit addr 63

/-- The DRAM address of an address in DRAM form. -/
def dramAddr (addr : Nat) : Nat := addr % 2 ^ 36

/-- An address in DRAM form that R68 makes invalid for a length. -/
def State.badAddr (s : State) (addr len : Nat) : Bool :=
  isDram addr && (decide (bits addr 36 27 ≠ 0) || decide (s.dramSize < dramAddr addr + len))

/-- A run of memory at an address of R68 arrives poisoned. -/
def State.poisonedAt (s : State) (addr len : Nat) : Bool :=
  if isDram addr then s.dramBad (dramAddr addr) len else decide (s.hostMark addr len = .poison)

/-- The bytes at an address of R68, whatever their marks. -/
def State.bytesAt (s : State) (addr len : Nat) : List Byte :=
  if isDram addr then s.dramRead (dramAddr addr) len else tgets 0#8 s.host addr len

/-- The transfer of a run of host memory fails (`DMA_ERROR`). -/
def State.dmaFails (s : State) (addr len : Nat) : Bool := !isDram addr && (s.linkDown || decide (s.hostMark addr len = .error))

/-- What a read of `len` bytes at an address of R68 gives: the bytes, or the status it fails with. -/
def State.readAt (s : State) (addr len : Nat) : Except Status (List Byte) :=
  if s.badAddr addr len then .error .badParam
  else if s.dmaFails addr len then .error .dmaError
  else if s.poisonedAt addr len then .error .poisoned
  else .ok (s.bytesAt addr len)

/-- What MEM does on a read at an address of R68 by a unit of kind `kind`. -/
def State.touch (s : State) (kind addr len : Nat) : State :=
  if isDram addr && !s.badAddr addr len then s.noteRead kind (dramAddr addr) len else s

/-- Write bytes at an address of R68 by a unit of kind `kind`; a write to a bus address is suppressed in the standby role (R78). -/
def State.writeAt (s : State) (kind addr : Nat) (bs : List Byte) : State :=
  if isDram addr then s.dramWrite kind (dramAddr addr) bs
  else if s.silent then s.suppress
  else s.hostWrite addr bs

/-- The same with data that is poisoned (R416, R418): DRAM words get the poison mark, a bus address a poisoned TLP. -/
def State.writePoisoned (s : State) (kind addr : Nat) (bs : List Byte) : State :=
  let s := s.writeAt kind addr bs
  if isDram addr then s.poisonRange (dramAddr addr) bs.length
  else if s.silent then s.suppress
  else s.put (.poisonedTlp addr bs.length)

/-- The first poisoned DRAM word of a range at an address of R68. -/
def State.firstPoison (s : State) (addr len : Nat) : Option Nat :=
  if isDram addr then (wordsOf (dramAddr addr) len).find? fun w => s.dramBad (8 * w) 8 else none

/-- A consumer of kind `kind` uses a poisoned range (R418): `MEM_POISON_USE` counts the use, a word of DRAM is logged (R421), and MEM
raises `POISON_USED`. -/
def State.usePoison (s : State) (kind addr len : Nat) : State :=
  let s := match s.firstPoison addr len with
    | some w => s.logMem (s.memRec 5 kind (8 * w) 0 0xFF)
    | none => s
  (s.count R.MEM_POISON_USE_COUNT R.MEM_OVF_POISON_OVF .mem 1).raise .mem 18

/-! ## Faults -/

/-- A node enters FAULTED (R34 and the control-and-state table): the mode, `FAULT`, `CODE` and the count of entries.  A node that is
OFF does not; SYS may from any state (R635), HLTH never stops (R548, R549), and SEC faults at boot and in its error state (R575, R596). -/
def State.faultNode (s : State) (n : Node) (st : Status) : State :=
  if s.mode n = .faulted then s
  else if n ≠ .sys ∧ n ≠ .hlth ∧ n ≠ .sec ∧ ¬ s.enabled n ∧ s.mode n = .normal then s
  else
    let s := (s.setMode n .faulted).wr (R.UNIT_FAULT_CODE n.base) st.code
    (s.count (R.UNIT_FAULT_COUNT n.base) (R.UNIT_FAULT_COUNT_OVF n.base) n 1).raise n 0

end Sys2Proof.Machine
end

