-- ==== Sys2Proof/Machine/Operands.lean ====
section
/-!
DEFINITION. Packets: what each opcode requires of its header (the opcode tables of R90), the order in which refusals rank (R88,
R636), when a packet may start (R79, R80), and how the bytes that a packet reads are fetched (R68).
-/

namespace Sys2Proof.Machine

/-- Which context an opcode allows (R90). -/
inductive CtxNeed where
  | any | job | sys
deriving DecidableEq, Repr

/-- What an opcode requires of its packet's header. -/
structure OpInfo where
  op : Nat
  need : CtxNeed
  priv : Bool := false
  entries : Nat := 0
deriving DecidableEq, Repr

/-- `NOP`. -/
def opNop : OpInfo := ⟨0x0101, .any, false, 0⟩
/-- `SYS_STATE`. -/
def opSysState : OpInfo := ⟨0x0102, .sys, true, 0⟩
/-- `UNIT_QUERY`. -/
def opUnitQuery : OpInfo := ⟨0x0103, .any, false, 0⟩
/-- `CTX_OPEN`. -/
def opCtxOpen : OpInfo := ⟨0x0201, .job, false, 0⟩
/-- `CTX_START`. -/
def opCtxStart : OpInfo := ⟨0x0202, .job, false, 0⟩
/-- `CTX_STOP`. -/
def opCtxStop : OpInfo := ⟨0x0203, .job, false, 0⟩
/-- `CTX_CLOSE`. -/
def opCtxClose : OpInfo := ⟨0x0204, .job, false, 0⟩
/-- `CTX_QUERY`. -/
def opCtxQuery : OpInfo := ⟨0x0205, .job, false, 0⟩
/-- `UNIT_QUIESCE`. -/
def opUnitQuiesce : OpInfo := ⟨0x0206, .sys, false, 0⟩
/-- `UNIT_ABORT`. -/
def opUnitAbort : OpInfo := ⟨0x0207, .sys, false, 0⟩
/-- `RECLAIM`. -/
def opReclaim : OpInfo := ⟨0x0208, .sys, true, 0⟩
/-- `BALE_DECODE`. -/
def opBaleDecode : OpInfo := ⟨0x0301, .any, false, 0⟩
/-- `BALE_ENCODE`. -/
def opBaleEncode : OpInfo := ⟨0x0302, .any, false, 0⟩
/-- `BALE_VERIFY`. -/
def opBaleVerify : OpInfo := ⟨0x0303, .any, false, 0⟩
/-- `BALE_RESUME`. -/
def opBaleResume : OpInfo := ⟨0x0304, .any, false, 0⟩
/-- `BALE_DISCARD`. -/
def opBaleDiscard : OpInfo := ⟨0x0305, .any, false, 0⟩
/-- `LAYER_SET`. -/
def opLayerSet : OpInfo := ⟨0x0401, .job, false, 0⟩
/-- `COLOUR_SET`. -/
def opColourSet : OpInfo := ⟨0x0402, .job, false, 0⟩
/-- `PAGE_SUBMIT`. -/
def opPageSubmit : OpInfo := ⟨0x0403, .job, false, 0⟩
/-- `SILO_COPY`. -/
def opSiloCopy : OpInfo := ⟨0x0404, .job, false, 0⟩
/-- `NMAP_WRITE`. -/
def opNmapWrite : OpInfo := ⟨0x0501, .any, false, 0⟩
/-- `NMAP_READ`. -/
def opNmapRead : OpInfo := ⟨0x0502, .any, false, 0⟩
/-- `NCAL_WRITE`. -/
def opNcalWrite : OpInfo := ⟨0x0503, .any, false, 0⟩
/-- `THRESH_LOAD`. -/
def opThreshLoad : OpInfo := ⟨0x0504, .any, false, 0⟩
/-- `LEVEL_SET`. -/
def opLevelSet : OpInfo := ⟨0x0505, .any, false, 0⟩
/-- `LANE_TRAIN`. -/
def opLaneTrain : OpInfo := ⟨0x0601, .any, false, 0⟩
/-- `LANE_LATENCY`. -/
def opLaneLatency : OpInfo := ⟨0x0602, .any, false, 0⟩
/-- `HUB_STATUS`. -/
def opHubStatus : OpInfo := ⟨0x0603, .any, false, 0⟩
/-- `ENC_CONFIG`. -/
def opEncConfig : OpInfo := ⟨0x0701, .any, false, 0⟩
/-- `SYNTH_SET`. -/
def opSynthSet : OpInfo := ⟨0x0702, .any, false, 0⟩
/-- `COMPARE_SET`. -/
def opCompareSet : OpInfo := ⟨0x0703, .any, false, 0⟩
/-- `LATCH_READ`. -/
def opLatchRead : OpInfo := ⟨0x0704, .any, false, 0⟩
/-- `DIV_SET`. -/
def opDivSet : OpInfo := ⟨0x0705, .any, false, 0⟩
/-- `CAM_CONFIG`. -/
def opCamConfig : OpInfo := ⟨0x0801, .any, false, 0⟩
/-- `CAM_GENCP`. -/
def opCamGencp : OpInfo := ⟨0x0802, .any, false, 0⟩
/-- `STRIPE_SET`. -/
def opStripeSet : OpInfo := ⟨0x0803, .any, false, 0⟩
/-- `STATS_READ`. -/
def opStatsRead : OpInfo := ⟨0x0804, .any, false, 0⟩
/-- `DEFECT_READ`. -/
def opDefectRead : OpInfo := ⟨0x0805, .any, false, 0⟩
/-- `CAL_SEED`. -/
def opCalSeed : OpInfo := ⟨0x0901, .job, false, 0⟩
/-- `CAL_ANCHOR`. -/
def opCalAnchor : OpInfo := ⟨0x0902, .job, false, 0⟩
/-- `CAL_PROPOSALS`. -/
def opCalProposals : OpInfo := ⟨0x0903, .any, false, 0⟩
/-- `CAL_POLICY`. -/
def opCalPolicy : OpInfo := ⟨0x0904, .any, false, 0⟩
/-- `DMA_COPY`. -/
def opDmaCopy : OpInfo := ⟨0x0A01, .any, false, 0⟩
/-- `MEM_RETIRE`. -/
def opMemRetire : OpInfo := ⟨0x0A02, .sys, false, 0⟩
/-- `MEM_REMAP`. -/
def opMemRemap : OpInfo := ⟨0x0A03, .sys, false, 0⟩
/-- `MEM_LOG_READ`. -/
def opMemLogRead : OpInfo := ⟨0x0A04, .any, false, 0⟩
/-- `PTP_CONFIG`. -/
def opPtpConfig : OpInfo := ⟨0x0B01, .sys, false, 0⟩
/-- `PULSE_SET`. -/
def opPulseSet : OpInfo := ⟨0x0B02, .any, false, 0⟩
/-- `TIME_READ`. -/
def opTimeRead : OpInfo := ⟨0x0B03, .any, false, 0⟩
/-- `AXIS_MOVE`. -/
def opAxisMove : OpInfo := ⟨0x0C01, .any, false, 0⟩
/-- `AXIS_HOME`. -/
def opAxisHome : OpInfo := ⟨0x0C02, .any, false, 0⟩
/-- `AXIS_STOP`. -/
def opAxisStop : OpInfo := ⟨0x0C03, .any, false, 0⟩
/-- `AXIS_SET`. -/
def opAxisSet : OpInfo := ⟨0x0C04, .any, false, 0⟩
/-- `YOKE_ROLE`. -/
def opYokeRole : OpInfo := ⟨0x0D01, .sys, true, 0⟩
/-- `TAKEOVER`. -/
def opTakeover : OpInfo := ⟨0x0D02, .sys, false, 0⟩
/-- `YOKE_RESYNC`. -/
def opYokeResync : OpInfo := ⟨0x0D03, .sys, false, 0⟩
/-- `GLEAN_RUN`. -/
def opGleanRun : OpInfo := ⟨0x0E01, .sys, false, 0⟩
/-- `GLEAN_POLICY`. -/
def opGleanPolicy : OpInfo := ⟨0x0E02, .sys, false, 0⟩
/-- `HEALTH_READ`. -/
def opHealthRead : OpInfo := ⟨0x0F01, .any, false, 0⟩
/-- `TALLY_READ`. -/
def opTallyRead : OpInfo := ⟨0x0F02, .any, false, 0⟩
/-- `THERMAL_SET`. -/
def opThermalSet : OpInfo := ⟨0x0F03, .sys, true, 0⟩
/-- `FW_UPDATE`. -/
def opFwUpdate : OpInfo := ⟨0x1001, .sys, true, 0⟩
/-- `SEAL_LOAD`. -/
def opSealLoad : OpInfo := ⟨0x1002, .job, true, 2⟩
/-- `AUDIT_READ`. -/
def opAuditRead : OpInfo := ⟨0x1003, .any, false, 0⟩
/-- `KEY_REVOKE`. -/
def opKeyRevoke : OpInfo := ⟨0x1004, .sys, true, 2⟩
/-- `SEC_SELF_TEST`. -/
def opSecSelfTest : OpInfo := ⟨0x1005, .sys, true, 0⟩

/-- The opcodes of R90. -/
def opTable : List OpInfo :=
  [opNop, opSysState, opUnitQuery, opCtxOpen, opCtxStart, opCtxStop,
   opCtxClose, opCtxQuery, opUnitQuiesce, opUnitAbort, opReclaim, opBaleDecode,
   opBaleEncode, opBaleVerify, opBaleResume, opBaleDiscard, opLayerSet, opColourSet,
   opPageSubmit, opSiloCopy, opNmapWrite, opNmapRead, opNcalWrite, opThreshLoad,
   opLevelSet, opLaneTrain, opLaneLatency, opHubStatus, opEncConfig, opSynthSet] ++
  [opCompareSet, opLatchRead, opDivSet, opCamConfig, opCamGencp, opStripeSet,
   opStatsRead, opDefectRead, opCalSeed, opCalAnchor, opCalProposals, opCalPolicy,
   opDmaCopy, opMemRetire, opMemRemap, opMemLogRead, opPtpConfig, opPulseSet,
   opTimeRead, opAxisMove, opAxisHome, opAxisStop, opAxisSet, opYokeRole,
   opTakeover, opYokeResync, opGleanRun, opGleanPolicy, opHealthRead, opTallyRead,
   opThermalSet, opFwUpdate, opSealLoad, opAuditRead, opKeyRevoke, opSecSelfTest]

/-- The entry of an opcode. -/
def opInfo (op : Nat) : Option OpInfo := opTable.find? fun o => decide (o.op = op)

/-- A packet is privileged (R70). -/
def State.privileged (s : State) (h : Hdr) : Bool := h.priv && s.flag (R.RING_CFG_PRIV_OK (Node.ring h.ring).base)

/-- The refusals that depend on the header alone, in the order of R88. -/
def State.hdrFail (s : State) (o : OpInfo) (h : Hdr) : Option Status :=
  if h.priv && !s.flag (R.RING_CFG_PRIV_OK (Node.ring h.ring).base) then some .notPriv
  else if o.priv && !h.priv then some .notPriv
  else if h.entries ≠ o.entries then some .badContinuation
  else if (o.need = .job ∧ h.ctx = 0) ∨ (o.need = .sys ∧ h.ctx ≠ 0) then some .badContext
  else if s.dev = devNotReady ∧ o.op ≠ 0x0101 ∧ o.op ≠ 0x0103 then some .notReady
  else none

/-- The first of a list of refusals that holds. -/
def firstFail : List (Bool × Status) → Option Status
  | [] => none
  | (c, st) :: r => if c then some st else firstFail r

/-- A packet may start: it is the oldest fetched packet of its ring when the ring has any (R79), no packet with `FENCE` of its ring is
in progress (that later packets wait for its completion and not for its start is DEDUCED, assumption 290), and with `FENCE` itself no
packet of its ring is in progress (R80).  None starts while CMD is FAULTED (R72), nor
behind a packet that has halted the ring, until `RESUME` (R83). -/
def State.mayStart (s : State) (h : Hdr) : Bool :=
  let rt := s.ring h.ring.val
  s.clocked && decide (s.mode .cmd ≠ .faulted) && (match rt.fetched with
   | [] => true
   | f :: _ => decide (f.hdr = h)) &&
  !(s.flag (R.RING_STATUS_HALTED (Node.ring h.ring).base) && !rt.haltOwnFetch) &&
  !(rt.started.any fun x => x.fence) && (!h.fence || (rt.started.isEmpty && rt.held.isEmpty))

/-! ## The words of a packet -/

/-- What a packet command says of its packet: the header, the opcode, and its parameters as (byte offset, bytes, value), as the opcode
tables of R90 lay them out; continuation entries follow at byte 64 (R67).  `none` for a command that is no packet. -/
def packetFields : Instr → Option (Hdr × Nat × List (Nat × Nat × Nat))
  | .nop h => some (h, 0x0101, [])
  | .sysState h target => some (h, 0x0102, [(8, 1, target)])
  | .unitQuery h off => some (h, 0x0103, [(8, 4, off)])
  | .ctxOpen h lanes groups silo siloMib columns mode rate => some (h, 0x0201, [(8, 4, lanes), (12, 4, groups), (16, 8, silo), (24, 4, siloMib), (28, 4, columns), (32, 4, mode), (36, 4, rate)])
  | .ctxStart h pos flags => some (h, 0x0202, [(8, 8, pos), (16, 4, flags)])
  | .ctxStop h mode => some (h, 0x0203, [(8, 1, mode)])
  | .ctxClose h => some (h, 0x0204, [])
  | .ctxQuery h => some (h, 0x0205, [])
  | .unitQuiesce h off flags => some (h, 0x0206, [(8, 4, off), (12, 4, flags)])
  | .unitAbort h off => some (h, 0x0207, [(8, 4, off)])
  | .reclaim h off => some (h, 0x0208, [(8, 4, off)])
  | .baleDecode h src dst srcLen dstLen => some (h, 0x0301, [(8, 8, src), (16, 8, dst), (24, 4, srcLen), (28, 4, dstLen)])
  | .baleEncode h src dst srcLen dstLen coding e flags layout _ => some (h, 0x0302, [(8, 8, src), (16, 8, dst), (24, 4, srcLen), (28, 4, dstLen), (32, 1, coding), (33, 1, e), (34, 2, flags), (36, 4, layout)])
  | .baleVerify h src srcLen => some (h, 0x0303, [(8, 8, src), (24, 4, srcLen)])
  | .baleResume h handle dst dstLen => some (h, 0x0304, [(8, 4, handle), (16, 8, dst), (28, 4, dstLen)])
  | .baleDiscard h handle => some (h, 0x0305, [(8, 4, handle)])
  | .layerSet h addr layer when => some (h, 0x0401, [(8, 8, addr), (16, 1, layer), (17, 1, when)])
  | .colourSet h addr layer table when => some (h, 0x0402, [(8, 8, addr), (16, 1, layer), (17, 1, table), (18, 1, when)])
  | .pageSubmit h list entries length headland number => some (h, 0x0403, [(8, 8, list), (16, 4, entries), (20, 4, length), (24, 4, headland), (28, 4, number)])
  | .siloCopy h first lines dst flags => some (h, 0x0404, [(8, 4, first), (12, 4, lines), (16, 8, dst), (24, 4, flags)])
  | .nmapWrite h src first entries when => some (h, 0x0501, [(8, 8, src), (16, 4, first), (20, 4, entries), (24, 1, when)])
  | .nmapRead h dst first entries => some (h, 0x0502, [(8, 8, dst), (16, 4, first), (20, 4, entries)])
  | .ncalWrite h src first entries when => some (h, 0x0503, [(8, 8, src), (16, 4, first), (20, 4, entries), (24, 1, when)])
  | .threshLoad h src array when => some (h, 0x0504, [(8, 8, src), (16, 1, array), (17, 1, when)])
  | .levelSet h src colour when => some (h, 0x0505, [(8, 8, src), (16, 1, colour), (17, 1, when)])
  | .laneTrain h mask rate => some (h, 0x0601, [(8, 4, mask), (12, 1, rate)])
  | .laneLatency h mask dst => some (h, 0x0602, [(8, 4, mask), (16, 8, dst)])
  | .hubStatus h lane dst => some (h, 0x0603, [(8, 1, lane), (16, 8, dst)])
  | .encConfig h channel type block => some (h, 0x0701, [(8, 1, channel), (9, 1, type), (16, 8, block)])
  | .synthSet h group when block => some (h, 0x0702, [(8, 1, group), (9, 1, when), (16, 8, block)])
  | .compareSet h output flags target width => some (h, 0x0703, [(8, 1, output), (9, 1, flags), (16, 8, target), (24, 4, width)])
  | .latchRead h input dst most => some (h, 0x0704, [(8, 1, input), (16, 8, dst), (24, 4, most)])
  | .divSet h output divisor => some (h, 0x0705, [(8, 1, output), (12, 4, divisor)])
  | .camConfig h lane block => some (h, 0x0801, [(8, 1, lane), (16, 8, block)])
  | .camGencp h lane req reqLen room reply => some (h, 0x0802, [(8, 1, lane), (16, 8, req), (24, 2, reqLen), (26, 2, room), (32, 8, reply)])
  | .stripeSet h table entries => some (h, 0x0803, [(8, 8, table), (16, 4, entries)])
  | .statsRead h dst first most => some (h, 0x0804, [(8, 8, dst), (16, 4, first), (20, 4, most)])
  | .defectRead h dst first most => some (h, 0x0805, [(8, 8, dst), (16, 4, first), (20, 4, most)])
  | .calSeed h pattern lines => some (h, 0x0901, [(8, 1, pattern), (12, 4, lines)])
  | .calAnchor h colour m pos => some (h, 0x0902, [(8, 1, colour), (12, 4, m), (16, 8, pos)])
  | .calProposals h dst most => some (h, 0x0903, [(8, 8, dst), (16, 4, most)])
  | .calPolicy h policy => some (h, 0x0904, [(8, 1, policy)])
  | .dmaCopy h src dst len => some (h, 0x0A01, [(8, 8, src), (16, 8, dst), (24, 4, len)])
  | .memRetire h addr => some (h, 0x0A02, [(8, 8, addr)])
  | .memRemap h ch row => some (h, 0x0A03, [(8, 1, ch), (12, 4, row)])
  | .memLogRead h dst most => some (h, 0x0A04, [(8, 8, dst), (16, 4, most)])
  | .ptpConfig h block => some (h, 0x0B01, [(8, 8, block)])
  | .pulseSet h output base sec ns frac period width => some (h, 0x0B02, [(8, 1, output), (9, 1, base), (16, 8, sec), (24, 4, ns), (28, 4, frac), (32, 4, period), (36, 4, width)])
  | .timeRead h base => some (h, 0x0B03, [(8, 1, base)])
  | .axisMove h axis target rate accel decel => some (h, 0x0C01, [(8, 1, axis), (12, 4, target), (16, 4, rate), (20, 4, accel), (24, 4, decel)])
  | .axisHome h axis method => some (h, 0x0C02, [(8, 1, axis), (9, 1, method)])
  | .axisStop h axis mode => some (h, 0x0C03, [(8, 1, axis), (9, 1, mode)])
  | .axisSet h axis block => some (h, 0x0C04, [(8, 1, axis), (16, 8, block)])
  | .yokeRole h role => some (h, 0x0D01, [(8, 1, role)])
  | .takeover h mask whole => some (h, 0x0D02, [(8, 4, mask), (12, 1, whole)])
  | .yokeResync h => some (h, 0x0D03, [])
  | .gleanRun h off mask => some (h, 0x0E01, [(8, 4, off), (12, 4, mask)])
  | .gleanPolicy h block => some (h, 0x0E02, [(8, 8, block)])
  | .healthRead h dst => some (h, 0x0F01, [(8, 8, dst)])
  | .tallyRead h dst first n => some (h, 0x0F02, [(8, 8, dst), (16, 4, first), (20, 4, n)])
  | .thermalSet h block => some (h, 0x0F03, [(8, 8, block)])
  | .fwUpdate h image len => some (h, 0x1001, [(8, 8, image), (16, 4, len)])
  | .sealLoad h content len block sigR sigS => some (h, 0x1002, [(8, 8, content), (16, 4, len), (24, 8, block), (64, 48, leNat sigR), (112, 48, leNat sigS)])
  | .auditRead h dst first most => some (h, 0x1003, [(8, 8, dst), (16, 8, first), (24, 4, most)])
  | .keyRevoke h slot sigR sigS msg => some (h, 0x1004, [(8, 1, slot), (64, 48, leNat sigR), (112, 48, leNat sigS), (160, 32, leNat msg)])
  | .secSelfTest h _ => some (h, 0x1005, [])
  | _ => none

/-- A packet command is the packet that its ring has fetched first, if the ring has fetched any: its opcode and its parameters are
those of the entry (R67, R90).  With none fetched, the command brings its own packet. -/
def State.spells (s : State) (i : Instr) : Bool :=
  match packetFields i with
  | none => true
  | some (h, op, fs) =>
    match (s.ring h.ring.val).fetched with
    | [] => true
    | f :: _ => decide (f.op = op) && fs.all fun x => decide (fieldN f.bytes x.1 x.2.1 = x.2.2)

/-- Start a packet: it leaves the fetched ones and is in progress until its completion. -/
def State.startPk (s : State) (h : Hdr) (op : Nat) : State :=
  let rt := s.ring h.ring.val
  s.setRing h.ring.val { rt with fetched := rt.fetched.drop 1, started := rt.started ++ [inFlight h op] }

/-- The result words of a packet that ends with none of its work done: no resume handle, where the opcode gives one (R90). -/
def noWords (op : Nat) : List Nat := if op = 0x0301 ∨ op = 0x0302 ∨ op = 0x0304 then [0, 0, 0, 0xFFFFFFFF] else []

/-- AER reports a read request whose data came poisoned (R82) or did not come. -/
def State.aer (s : State) (st : Status) (bus : Bool) : State :=
  if !bus then s
  else match st with
  | .poisoned => { s with sysr := { s.sysr with pcie := { s.sysr.pcie with aerPoison := true } } }
  | .dmaError => { s with sysr := { s.sysr with pcie := { s.sysr.pcie with aerCompletion := true } } }
  | _ => s

/-- Complete a packet that fails before it has any effect, with the result words that the opcode gives in every case; `POISONED` and
`BAD_CONTINUATION` halt the ring (R82).  `reads` are the ranges that the packet reads (R418). -/
def State.failPk (s : State) (p : Pk) (st : Status) (reads : List (Nat × Nat)) (words : List Nat) : State :=
  let s := if st = .poisoned then
      (match reads.find? fun r => s.poisonedAt r.1 r.2 with
       | some r => s.usePoison 2 r.1 r.2
       | none => s)
    else s
  let s := s.aer st (reads.isEmpty || reads.any fun r => !isDram r.1)
  let s := s.complete p st (if words.isEmpty then noWords p.op else words)
  if st = .poisoned ∨ st = .badContinuation then s.haltRing p.hdr.ring st p.hdr.sq false else s

/-- Run a packet: nothing happens while it may not start; else it starts, its header and its own refusals are checked in order, and
its effect takes place.  `reads` are the ranges of memory that it reads as a descriptor or a table, `words` the result words of a
refusal of its own. -/
def State.packetW (s : State) (o : OpInfo) (h : Hdr) (reads : List (Nat × Nat)) (words : State → List Nat)
    (chk : State → List (Bool × Status)) (eff : Pk → State → State) : State :=
  if !s.mayStart h then s
  else
    let pk : Pk := ⟨h, o.op, s.pkEpoch⟩
    let s := s.startPk h o.op
    match s.hdrFail o h with
    | some st => s.failPk pk st [] []
    | none =>
      let c := firstFail (chk s)
      let s := reads.foldl (fun s r => s.touch 2 r.1 r.2) s
      match c with
      | some st => s.failPk pk st reads (words s)
      | none => eff pk s

/-- The same for a packet whose refusals carry no words. -/
def State.packetR (s : State) (o : OpInfo) (h : Hdr) (reads : List (Nat × Nat)) (chk : State → List (Bool × Status))
    (eff : Pk → State → State) : State :=
  s.packetW o h reads (fun _ => []) chk eff

/-- The same for a packet that reads nothing. -/
def State.packet (s : State) (o : OpInfo) (h : Hdr) (chk : State → List (Bool × Status)) (eff : Pk → State → State) : State :=
  s.packetR o h [] chk eff

/-- The refusals of a read that a packet makes: a bad address before the others, the transfer's own after `UNIT_OFF` (R88). -/
def badParamOf {α : Type} (r : Except Status α) : Bool := match r with | .error .badParam => true | _ => false
def dmaErrorOf {α : Type} (r : Except Status α) : Bool := match r with | .error .dmaError => true | _ => false
def poisonedOf {α : Type} (r : Except Status α) : Bool := match r with | .error .poisoned => true | _ => false

/-- The bytes of a read that has not failed. -/
def okBytes (r : Except Status (List Byte)) : List Byte := match r with | .ok b => b | .error _ => []

/-- The refusals common to a packet for a unit that reads a block: `BAD_PARAM`, `CTX_STATE`, `UNIT_OFF`, `DMA_ERROR`, `POISONED` in
the order of R88, before the opcode's own. -/
def rank {α : Type} (s : State) (unit : Node) (badParam ctxState : Bool) (r : Except Status α) (own : List (Bool × Status)) :
    List (Bool × Status) :=
  [(badParam || badParamOf r, .badParam), (ctxState, .ctxState), (!s.accepts unit, .unitOff), (dmaErrorOf r, .dmaError),
   (poisonedOf r, .poisoned)] ++ own

/-- The same for a packet that reads nothing. -/
def rank0 (s : State) (unit : Node) (badParam ctxState : Bool) (own : List (Bool × Status)) : List (Bool × Status) :=
  [(badParam, .badParam), (ctxState, .ctxState), (!s.accepts unit, .unitOff)] ++ own

/-- An address is misaligned for a structure that must start on a multiple of `n`. -/
def misaligned (addr n : Nat) : Bool := decide (addr % n ≠ 0)

/-- Words of a 64-bit result, low first. -/
def words64 (v : Nat) : List Nat := [v % 2 ^ 32, v / 2 ^ 32 % 2 ^ 32]

end Sys2Proof.Machine
end

