-- ==== Sys2Proof/Machine/TimeBase.lean ====
section
/-!
DEFINITION. The four time bases (R437 to R441): their maps from the fire timeline and the forms in which they are given.
-/

namespace Sys2Proof.Machine

def State.tb (s : State) (b : Nat) : TbRt := tget {} s.tbs b
def State.setTb (s : State) (b : Nat) (x : TbRt) : State := { s with tbs := tset {} s.tbs b x }

/-- The rate of a base, within its limits (R438, `TB_RATE`). -/
def State.tbRate (s : State) (b : Nat) : Int := clampI (-(2 ^ 29)) (2 ^ 29) (s.rdS (R.TB_RATE_RATE b))

/-- The value of a base at a fire instant in 1/16 ns, in 2^-16 ns (R438). -/
def State.baseAt (s : State) (b f : Nat) : Int :=
  let m := s.tb b
  m.ba + sar (((f : Int) - (m.fa : Int)) * 4096 * ((2 ^ 40 : Int) + s.tbRate b) + 2 ^ 39) 40

/-- The nanosecond form of a base at a fire instant (R441). -/
def State.baseNs (s : State) (b f : Nat) : Nat := (s.baseAt b f / 65536).toNat % 2 ^ 64

/-- Seconds, nanoseconds and fraction of a value in 2^-16 ns (R437). -/
def tbSec (v : Int) : Nat := (v / 65536 / 1000000000).toNat % 2 ^ 48
def tbNs (v : Int) : Nat := (v / 65536 % 1000000000).toNat
def tbFrac (v : Int) : Nat := (v % 65536).toNat

/-- A value as result words 0 to 3 (R443). -/
def tbWords (v : Int) : List Nat := words64 (tbSec v) ++ [tbNs v, tbFrac v]

/-- Change the rate of a base without a jump (R439). -/
def State.setRate (s : State) (b : Nat) (rate : Int) : State :=
  let v := s.baseAt b s.now
  (s.setTb b ⟨s.now, v⟩).wrS (R.TB_RATE_RATE b) rate

/-- Step a base to a value (R439). -/
def State.stepBase (s : State) (b : Nat) (v : Int) : State := s.setTb b ⟨s.now, v⟩

end Sys2Proof.Machine
end

