-- ==== Sys2Proof/Machine/Audit.lean ====
section
/-!
DEFINITION. The audit log of SEC (R586 to R588), the error state of its module (R596, R598), and the sealed store (R582).
-/

namespace Sys2Proof.Machine

/-! ## The audit log -/

/-- Bytes 0 to 95 of a record (R586). -/
def State.auditHead (s : State) (type ctx slot status a b : Nat) (subject : List Byte) : List Byte :=
  leBytes 8 (s.rd R.SEC_BOOT_COUNT * 2 ^ 32 + s.sec.auditN % 2 ^ 32) ++ leBytes 8 (s.now / 16) ++ leBytes 8 (s.baseNs 0 s.now) ++
  leBytes 2 type ++ leBytes 1 ctx ++ leBytes 1 slot ++ leBytes 2 status ++ leBytes 2 0 ++ leBytes 8 a ++ leBytes 8 b ++
  (subject ++ List.replicate (48 - subject.length) 0#8)

/-- The chain value that the next record follows (R586). -/
def State.chainBefore (s : State) : List Byte :=
  if s.sec.chain.isEmpty then sha384 (leBytes 8 Config.deviceId ++ leBytes 8 (s.rd R.SEC_BOOT_COUNT)) else s.sec.chain

/-- Enter one record into the ring, which holds 16,384 (R586, R588). -/
def State.putAudit (s : State) (head : List Byte) : State :=
  let h := sha384 (s.chainBefore ++ head)
  let old := if 16384 ≤ s.sec.audit.length then s.sec.audit.drop 1 else s.sec.audit
  { s with sec := { s.sec with audit := old ++ [head ++ h ++ List.replicate 16 0#8], auditN := s.sec.auditN + 1, chain := h } }

/-- Write the record of an act (R587); when the ring was full, `AUDIT_WRAP`, and a record of type 13 that counts what was overwritten
follows (R588). -/
def State.audit (s : State) (type ctx slot status a b : Nat) (subject : List Byte) : State :=
  let first := fieldN (s.sec.audit.headD []) 0 8
  let full := decide (16384 ≤ s.sec.audit.length)
  let s := s.putAudit (s.auditHead type ctx slot status a b subject)
  if full then (s.putAudit (s.auditHead 13 0 255 0 2 first [])).raise .sec 21 else s

/-- The index of the newest record; 0 before the first (R589). -/
def State.auditIndex (s : State) : Nat := fieldN (s.sec.audit.getLastD []) 0 8

/-! ## The error state -/

/-- The module is in its error state (R596). -/
def State.secErr (s : State) : Bool := decide (s.rd R.SEC_STATE_MSTATE = 2)

/-- The module enters its error state (R596, R598), for the test that failed or 0. -/
def State.secError (s : State) (test : Nat) : State :=
  if s.secErr then s
  else (((s.audit 12 0 255 Status.moduleError.code test 0 []).wr R.SEC_STATE_MSTATE 2).faultNode .sec .moduleError).raise .sec 20

/-! ## The sealed store -/

/-- Where the SEC area starts (R391), and in it the sealed store of 12 MiB and the audit ring. -/
def State.secBase (s : State) : Nat := s.reservedBase + 44 * 2 ^ 20
def storeBytes : Nat := 12 * 2 ^ 20
def ringBytes : Nat := 16384 * 160

/-- An address of the sealed store's own: byte `off` of the content of copy `id`.  No address of R68 is as great. -/
def sealAddr (id off : Nat) : Nat := 2 ^ 64 + id * 2 ^ 32 + off

/-- The DRAM address of a byte of a copy. -/
def State.copyByte (s : State) (c : SealCopy) (off : Nat) : Nat := s.secBase + 1024 * c.pages.getD (off / 1024) 0 + off % 1024

/-- The copy that a sealed address names. -/
def State.copyOf (s : State) (addr : Nat) : Option SealCopy :=
  if addr < 2 ^ 64 then none else s.sec.copies.find? fun c => decide (c.id = (addr - 2 ^ 64) / 2 ^ 32)

/-- The bytes that a bale list entry names: of the sealed store for the sealed layer, else at an address of R68. -/
def State.entryBytes (s : State) (addr len : Nat) : List Byte :=
  match s.copyOf addr with
  | some c => (List.range len).map fun i => s.dramByte (s.copyByte c (addr % 2 ^ 32 + i))
  | none => s.bytesAt addr len

/-- They arrive poisoned. -/
def State.entryPoisoned (s : State) (addr len : Nat) : Bool :=
  match s.copyOf addr with
  | some c => (List.range ((len + addr % 8 + 7) / 8)).any fun i => s.dramBad (s.copyByte c (addr % 2 ^ 32 / 8 * 8 + 8 * i)) 8
  | none => s.poisonedAt addr len

/-- A copy is held: the current sealed layer of its context, or a page is bound to it (R582). -/
def State.copyHeld (s : State) (c : SealCopy) : Bool :=
  let x := s.ctx c.ctx
  (match x.sealedL with
   | some l => decide (l.id = c.id) && !l.withdrawn
   | none => false) || x.pages.any fun p => decide (p.sealId = some c.id) && !p.done

/-- The pages of the store that are taken, and its free part in KiB (`SEC_STORE`). -/
def State.takenPages (s : State) : List Nat := (s.sec.copies.filter s.copyHeld).flatMap SealCopy.pages
def State.freeKib (s : State) : Nat := 12288 - s.takenPages.length

/-- Pages of the store for a copy of `n` KiB. -/
def State.storePages (s : State) (n : Nat) : List Nat :=
  let taken := s.takenPages
  ((List.range 12288).filter fun k => !taken.contains k).take n

/-- A range of DRAM holds a poisoned word of the SEC area that is not inside sealed content (R598). -/
def State.secPoison (s : State) (addr len : Nat) : Bool :=
  (wordsOf addr len).any fun w =>
    let a := 8 * w
    decide (s.secBase ≤ a) && decide (a < s.secBase + 16 * 2 ^ 20) && s.dramBad a 8 &&
    !(decide (a < s.secBase + storeBytes) && s.takenPages.contains ((a - s.secBase) / 1024))

end Sys2Proof.Machine
end

