-- ==== Sys2Proof/Machine/CtxParts.lean ====
section
/-!
DEFINITION. The parts of a context (R85, R90, R145, R184, R309) and of the nozzle map that belongs to its lanes (R181 to R183).
-/

namespace Sys2Proof.Machine

/-! ## Parts of a context -/

/-- Bits per drop, 1200 dpi contone, pass-through, roll, and colorants, of the mode word (R90). -/
def Ctx.b (c : Ctx) : Nat := c.mode % 4
def Ctx.dpi1200 (c : Ctx) : Bool := bit c.mode 2
def Ctx.pass (c : Ctx) : Bool := bit c.mode 3
def Ctx.roll (c : Ctx) : Bool := bit c.mode 4
def Ctx.colorants (c : Ctx) : Nat := bits c.mode 8 3 + 1
/-- The fields of `COMP_CTX_CFG` that `CTX_OPEN` took (R145). -/
def Ctx.ahead (c : Ctx) : Nat := max 16 (min 4096 (bits c.cfg 8 16))
def Ctx.lpr (c : Ctx) : Nat := if bit c.cfg 3 then 2 else 1
def Ctx.qsOff (c : Ctx) : Bool := bit c.cfg 2
def Ctx.wbOnly (c : Ctx) : Bool := bit c.cfg 1
def Ctx.silo16 (c : Ctx) : Bool := bit c.cfg 0
/-- Bytes of a stored sample, and of a composed row (spec/04, "The silo"). -/
def Ctx.sampleSize (c : Ctx) : Nat := if c.silo16 then 2 else 1
def Ctx.rowSize (c : Ctx) : Nat := c.colorants * c.cols * c.sampleSize
/-- Width of the nozzle grid (R184). -/
def Ctx.gridWidth (c : Ctx) : Nat := if c.dpi1200 then c.cols else 2 * c.cols
/-- Lanes and fire groups of the context. -/
def Ctx.laneList (c : Ctx) : List Nat := maskList 32 c.lanes
def Ctx.groupList (c : Ctx) : List Nat := maskList 32 c.groups
/-- The reference group: the lowest of the mask (R309). -/
def Ctx.refGroup (c : Ctx) : Nat := c.groupList.headD 0
/-- The context prints: RUNNING or STOPPING. -/
def Ctx.live (c : Ctx) : Bool := decide (c.st = .running) || decide (c.st = .stopping)

/-- The context that a lane, or a fire group, belongs to; 0 for none (R85). -/
def State.laneOwner (s : State) (lane : Nat) : Nat :=
  match s.openCtxs.find? fun c => c.2.lanes.testBit lane with
  | some c => c.1
  | none => 0
def State.groupOwner (s : State) (g : Nat) : Nat :=
  match s.openCtxs.find? fun c => c.2.groups.testBit g with
  | some c => c.1
  | none => 0

/-- The lane's positions that are screened (R181). -/
def State.active (s : State) (lane : Nat) : Nat := max 1 (min 32768 (s.rd (R.SCRN_LANE_ACTIVE_ACTIVE lane)))

/-- The fire lead F, and the other limits of `HLNK_CFG`. -/
def State.fireLead (s : State) : Nat := max 2 (min 12 (s.rd R.HLNK_CFG_FIRE_LEAD))
def State.fireAdv (s : State) : Nat := max 500 (s.rd R.HLNK_CFG_FIRE_ADV)
def State.replayMax (s : State) : Nat := max 1 (s.rd R.HLNK_CFG_REPLAY_MAX)

/-- The nozzle map entry in force; a poisoned one acts as disabled (R182, R206). -/
def State.nozzle (s : State) (g : Nat) : Nat := if tget false s.nmapBad g then nmReset else tget nmReset s.nmap g

/-- The entries of a lane below `ACTIVE` that differ from the entry of R183, with their positions. -/
def State.laneNozzles (s : State) (lane : Nat) : List (Nat × Nat) :=
  (s.nmap.filter fun e => decide (lane * 32768 ≤ e.1) && decide (e.1 < lane * 32768 + s.active lane) && !tget false s.nmapBad e.1).map
    fun e => (e.1 - lane * 32768, e.2)

/-- The same in the map in force for a per-context line, with the entries below that earlier maps had there (R245, R639). -/
def State.laneNozzlesAt (s : State) (lane line : Nat) : List (Nat × Nat) :=
  let old := ((s.head lane).oldMap.filter fun e => decide (line < e.1)).flatMap (·.2)
  if old.isEmpty then s.laneNozzles lane
  else
    let first := old.foldl (fun (acc : List (Nat × Nat)) e => if acc.any fun x => decide (x.1 = e.1) then acc else acc ++ [e]) []
    (s.laneNozzles lane).filter (fun e => !first.any fun x => decide (x.1 = e.1)) ++ first.filter fun e => decide (e.2 ≠ nmReset)

/-- The fire groups with a nozzle on the lane (`HL_GROUPS`). -/
def State.laneGroups (s : State) (lane : Nat) : Nat :=
  (s.laneNozzles lane).foldl (fun m e => if nmDisabled e.2 then m else setBit m (nmRowGroup e.2) true) 0

/-- The fire groups with a nozzle on the lane in the map in force for a per-context line (R245). -/
def State.groupsAt (s : State) (lane line : Nat) : Nat :=
  match (s.head lane).oldGroups.find? fun e => decide (line < e.1) with
  | some e => e.2
  | none => s.rd (R.HL_GROUPS_GROUPS lane)

/-- The largest `OFFSET` among the nozzles of a context that may read the silo (R174). -/
def State.omax (s : State) (c : Ctx) : Nat :=
  (c.laneList.flatMap s.laneNozzles).foldl (fun m e => if nmDisabled e.2 then m else max m (nmOffset e.2)) 0

/-- `RETAIN` of R189 for the contexts now RUNNING. -/
def State.retain (s : State) : Nat :=
  let load := s.ctxs.map fun e =>
    if e.2.st = .running ∧ e.2.wbOnly = false ∧ e.2.pass = false then (e.2.rowSize, e.2.lpr) else (0, 1)
  let twice := (load.map fun x => 2 * x.1 / x.2).sum
  if twice = 0 then 65535 else min 65535 (2 * 6291456 / twice)

/-! ## The gleaner's policy -/

/-- The policy block after reset (R531): every flag at 1 and the default values. -/
def gleanDefault : List Byte :=
  leBytes 1 7 ++ leBytes 1 0 ++ leBytes 2 64 ++ leBytes 2 1000 ++ leBytes 2 10 ++ leBytes 4 600 ++ leBytes 1 7 ++ leBytes 51 0

/-- The policy in force. -/
def State.gleanBlock (s : State) : List Byte := if s.gl.block.isEmpty then gleanDefault else s.gl.block
def State.gleanFlag (s : State) (k : Nat) : Bool := bit (fieldN s.gleanBlock 0 1) k

end Sys2Proof.Machine
end

