-- ==== Sys2Proof/Machine/CalCore.lean ====
section
/-!
DEFINITION. What calibration (spec/08) shares with the raster path: clean (j, c) (R365), void estimates (R372), pending steps and how a
boundary applies them (R373 to R375, R380, R515).
-/

namespace Sys2Proof.Machine

/-- The calibrated context (`CAL_CFG`), and the policy (R374). -/
def State.calCtx (s : State) : Nat := s.rd R.CAL_CFG_CTX
def State.calPolicy (s : State) : Nat := s.rd R.CAL_CFG_POLICY

/-- The key of colour j at nozzle column c. -/
def calKey (j c : Nat) : Nat := j * 2 ^ 20 + c
def keyColour (k : Nat) : Nat := k / 2 ^ 20
def keyColumn (k : Nat) : Nat := k % 2 ^ 20
def nmKey (e : Nat) : Nat := calKey (nmColour e) (nmColumn e)

/-- The nozzles of a context's lanes that have an entry of their own, with their global numbers. -/
def State.ctxNozzles (s : State) (c : Ctx) : List (Nat × Nat) :=
  c.laneList.flatMap fun l => (s.laneNozzles l).map fun e => (l * 32768 + e.1, e.2)

/-- The nozzles that print (j, c). -/
def State.printers (s : State) (c : Ctx) (key : Nat) : List (Nat × Nat) := (s.ctxNozzles c).filter fun e => decide (nmKey e.2 = key)

/-- (j, c) is clean (R365). -/
def State.clean (s : State) (c : Ctx) (j col : Nat) : Bool :=
  let ns := s.ctxNozzles c
  let own := ns.filter fun e => decide (nmKey e.2 = calKey j col)
  !own.isEmpty && own.all (fun e => !nmDead e.2 && !nmDisabled e.2 && !nmSubL e.2 && !nmSubR e.2) &&
  !(ns.any fun e => decide (nmColour e.2 = j) &&
    ((decide (nmColumn e.2 + 1 = col) && nmSubR e.2) || (decide (nmColumn e.2 = col + 1) && nmSubL e.2)))

/-! ## Void estimates (R372) -/

/-- Lines of a window. -/
def State.winLines (s : State) : Nat := 2 ^ max 14 (min 20 (s.rd R.CAL_CFG_WIN_LOG2))

/-- The windows, one for each that is open: from the one that accumulates to the one of the newest swath of the calibrated context, so that
a change made now is noted in each of them (R372). -/
def State.openWins (s : State) : List CalWin :=
  let c := s.ctx s.calCtx
  let top := c.laneList.foldl (fun m l => max m (s.head l).nextSwath) c.line
  let k := s.rd R.CAL_WINDOW_K
  let n := if c.live && decide (s.calCtx ≠ 0) then (top - 1) / s.winLines + 1 - k else 0
  s.cal.wins ++ ((List.range n).map (fun i => k + i)).filterMap fun i => if s.cal.wins.any fun w => decide (w.k = i) then none else some { k := i }

/-- Void the estimates of (j, c). -/
def State.voidKey (s : State) (key : Nat) : State :=
  { s with cal := { s.cal with dens := tmod none s.cal.dens key (fun e => e.map fun e => { e with void := true }),
                               wins := s.openWins.map fun w => { w with voidKeys := tset false w.voidKeys key true } } }

/-- Void the estimates of a fire group; those of every group when it is the context's reference group. -/
def State.voidGroup (s : State) (g : Nat) : State :=
  let all := decide (g = (s.ctx s.calCtx).refGroup)
  let gs := if all then List.range 32 else [g]
  gs.foldl (fun s g =>
    { s with cal := { s.cal with rows := tmod none s.cal.rows g (fun e => e.map fun e => { e with void := true }),
                                 wins := s.openWins.map fun w => { w with voidGroups := tset false w.voidGroups g true } } }) s

/-- Void every estimate. -/
def State.voidAll (s : State) : State :=
  let v (e : Option CalEst) : Option CalEst := e.map fun e => { e with void := true }
  { s with cal := { s.cal with dens := s.cal.dens.map (fun e => (e.1, v e.2)), rows := s.cal.rows.map (fun e => (e.1, v e.2)),
                               wins := s.openWins.map fun w => { w with voidAll := true } } }

/-- The window is void for a colorant: every (j, c) of a colorant (R372). -/
def CalWin.voidColour (w : CalWin) (j : Nat) : CalWin := { w with voidColours := setBit w.voidColours j true }

/-- Void the estimates of a colorant. -/
def State.voidColour (s : State) (j : Nat) : State :=
  { s with cal := { s.cal with dens := s.cal.dens.map (fun e =>
      if keyColour e.1 = j then (e.1, e.2.map fun x => { x with void := true }) else e),
                               wins := s.openWins.map fun w => w.voidColour j } }

/-- The (j, c) on which an entry bears: its own and those to which it gives substitution. -/
def nmBears (e : Nat) : List Nat :=
  let c := nmColumn e
  [nmKey e] ++ (if nmSubL e && decide (0 < c) then [calKey (nmColour e) (c - 1)] else []) ++
  (if nmSubR e then [calKey (nmColour e) (c + 1)] else [])

/-- Entries of a run of nozzles change: of the nozzle map (`map`), whose new entries are given, or of the calibration table (R372). -/
def State.voidNozzles (s : State) (first : Nat) (vals : List Nat) (map : Bool) : State :=
  if s.calCtx = 0 then s
  else
    vals.zipIdx.foldl (fun s v =>
      let old := s.nozzle (first + v.2)
      let es := if map then [old, v.1] else [old]
      let s := (es.flatMap nmBears).eraseDups.foldl State.voidKey s
      if map then ((es.filter fun e => !nmDisabled e).map nmRowGroup).eraseDups.foldl State.voidGroup s else s) s

/-! ## Pending steps -/

/-- Discard the pending steps that a host change bears on (R375). -/
def State.dropSteps (s : State) (keys groups : List Nat) : State :=
  { s with cal := { s.cal with steps := s.cal.steps.filter fun x => if x.row then !groups.contains x.key else !keys.contains x.key } }

/-- The (j, c) of a run of nozzles. -/
def State.runKeys (s : State) (first n : Nat) : List Nat := ((List.range n).flatMap fun i => nmBears (s.nozzle (first + i))).eraseDups

/-- A newer step replaces a pending one for the same (j, c) or group (R375). -/
def State.addStep (s : State) (x : CalStep) : State :=
  { s with cal := { s.cal with steps := s.cal.steps.filter (fun y => !(decide (y.row = x.row) && decide (y.key = x.key))) ++ [x] } }

/-- The calibration row delay of a group grows by `d` (R310, R311): the accumulator of a group that commits lines moves with it. -/
def State.moveDelay (s : State) (g : Nat) (d : Int) : State :=
  let x := s.syn g
  let q : Int := s.rd (R.SYN_Q_Q g)
  let s := if s.flag (R.SYN_STATE_ACTIVE g) then s.setSyn g { x with acc := x.acc + sar (d * q + 128) 8 } else s
  if d = 0 then s else (s.wrS (R.SYN_CAL_DELAY_DELAY g) (s.rdS (R.SYN_CAL_DELAY_DELAY g) + d)).voidGroup g

/-- Some of the DRAM region of CAL, or a calibration entry, does not read without an uncorrectable error (R375). -/
def State.calBad (s : State) : Bool :=
  let lo := s.rd R.CAL_REGION_ADDR * 65536
  let hi := lo + 80 * 2 ^ 20
  let in' (w : Nat) : Bool := decide (lo ≤ 8 * w) && decide (8 * w < hi)
  (s.dramPoison.any fun e => in' e.1) || (s.dramErr.any fun e => in' e.1 && decide (72 < e.2)) ||
  (s.retired.any fun p => decide (lo ≤ p * 65536) && decide (p * 65536 < hi)) || !s.ncalBad.isEmpty

/-- Limit a sum to ±`lim`, a value outside staying where it is unless it comes back (R373). -/
def limitTo (lim : Int) (old new : Int) : Int := if new < -lim then min old (-lim) else if lim < new then max old lim else new

/-- The pending steps that the calibrated context's boundary applies now (R374, R515): in a pair, those that both devices have held for
1 ms. -/
def State.dueSteps (s : State) (ctx : Nat) : List CalStep :=
  if ctx ≠ s.calCtx then []
  else s.cal.steps.filter fun x => !s.flag R.YOKE_STATE_PAIRED || decide (x.held + 16000000 ≤ s.now)

/-- Apply one density step to the nozzles that print its (j, c) (R369, R373, R378). -/
def State.applyDens (s : State) (c : Ctx) (x : CalStep) : State :=
  (s.printers c x.key).foldl (fun s e =>
    let o := tget 0 s.ncal e.1
    let lim : Int := if x.seed then 32768 else (s.cal.eff.limit : Int)
    let dofs := clampI (-32768) 32767 (limitTo lim (ncDofs o) (ncDofs o + x.d))
    let gdev := clampI (-2048) 2047 (ncGdev o + x.g)
    { s with ncal := tset 0 s.ncal e.1 (ncMake dofs gdev) }) (s.voidKey x.key)

/-- A step of CAL has been applied (R375). -/
def State.stepApplied (s : State) : State := (s.count R.CAL_APPLIED_COUNT R.CAL_OVF_APPLIED_OVF .cal 1).raise .cal 18

/-- Apply the steps of a boundary at line `m` (R375, R380): calibration entries, then row delays, which a synthesizer takes when it comes
to commit that line (R310, R311). -/
def State.applySteps (s : State) (ctx m : Nat) (xs : List CalStep) : State :=
  if xs.isEmpty then s
  else
    let c := s.ctx ctx
    let s := { s with cal := { s.cal with steps := s.cal.steps.filter fun x => !xs.contains x } }
    xs.foldl (fun s x =>
      if !x.row then (s.applyDens c x).stepApplied
      else if s.flag (R.SYN_STATE_ACTIVE x.key) && decide (s.rd (R.SYN_NEXT_LINE x.key) < m) then
        s.setSyn x.key { (s.syn x.key) with later := (s.syn x.key).later ++ [(m, .delay x.d)] }
      else (s.moveDelay x.key x.d).stepApplied) s

end Sys2Proof.Machine
end

