-- ==== Sys2Proof/Machine/Raster.lean ====
section
/-!
DEFINITION. What the raster path's units share: which page owns a line (R86, R187), page marks
and completions (R91), table changes and boundaries (R3 to R6, R207 to R209), and the end of a context's printing (R84, R94).
-/

namespace Sys2Proof.Machine

/-! ## Pages and marks -/

/-- The bits of a page mark word (R91). -/
def markPoison : Nat := 0
def markUnderrun : Nat := 1
def markGap : Nat := 2
def markHeadTemp : Nat := 3
def markHeadOff : Nat := 4
def markLaneDown : Nat := 5
def markTruncated : Nat := 6
def markCalReduced : Nat := 7
def markDeferred : Nat := 8

def Page.mark (p : Page) (m : Nat) : Page := { p with marks := p.marks ||| 2 ^ m }

/-- A page owns a per-context line. -/
def Page.owns (p : Page) (l : Nat) : Bool :=
  match p.first with
  | some f => decide (f ≤ l) && decide (l < f + p.length)
  | none => false

/-- The page that owns a line; none for a headland line (R86). -/
def Ctx.pageOf (c : Ctx) (l : Nat) : Option Page := c.pages.find? fun p => p.owns l

/-- Mark the page that owns a content line. -/
def Ctx.markLine (c : Ctx) (l m : Nat) : Ctx := { c with pages := c.pages.map fun p => if p.owns l then p.mark m else p }

def State.markLine (s : State) (ctx l m : Nat) : State := s.setCtx ctx ((s.ctx ctx).markLine l m)

/-- The content lines that the nozzles of a lane fire at a line, without repeats (R187); a pass-through lane fires the line itself. -/
def State.contentLines (s : State) (c : Ctx) (lane line : Nat) : List Nat :=
  if c.pass then [line]
  else ((s.laneNozzlesAt lane line).filterMap fun e => if nmDisabled e.2 ∨ line < nmOffset e.2 then none else some (line - nmOffset e.2)).eraseDups

/-- Mark every page that owns a content line which the lane fires at a line. -/
def State.markLaneLine (s : State) (ctx lane line m : Nat) : State :=
  (s.contentLines (s.ctx ctx) lane line).foldl (fun t l => t.markLine ctx l m) s

/-- Take a page out of the queue; the generation of one whose first row was not composed goes to the page behind it (R150). -/
def Ctx.dropPage (c : Ctx) (p : Page) : Ctx :=
  let ps := c.pages.filter fun q => decide (q.id ≠ p.id)
  if p.base.isSome || p.gen.isEmpty then { c with pages := ps }
  else
    match ps.find? fun q => decide (p.id < q.id) with
    | some q => { c with pages := ps.map fun x => if x.id = q.id then { x with gen := p.gen ++ x.gen } else x }
    | none => { c with pages := ps, gen := p.gen ++ c.gen }

/-- The completion of a page (R91): number, first global line, marks, lines fired. -/
def State.completePage (s : State) (ctx : Nat) (p : Page) (st : Status) (marks : Nat) : State :=
  let words := [p.number] ++ words64 (if p.first = none || (s.ctx ctx).wbOnly then 0 else p.firstGlobal) ++ [marks, p.fired]
  let st := if p.notPriv ∧ st ≠ .aborted then .notPriv else if st = .ok ∧ marks ≠ 0 then .pageMarked else st
  let s := s.complete p.pk st words
  let c := (s.ctx ctx).dropPage p
  s.setCtx ctx
    { c with lastPage := if st = .aborted then c.lastPage else p.number,
             spans := match p.first with
               | some f => if c.wbOnly && decide (f = 0) then [(f, p.length)] else c.spans ++ [(f, p.length)]
               | none => c.spans }

/-! ## Table changes -/

/-- The default of each table entry (R183, R193, R199). -/
def levelReset : Nat := 4095

/-- Send the map words that hold changed positions, with the first line they apply to (R244). -/
def State.queueMap (s : State) (lane : Nat) (config : Bool) (lo hi : Nat) : State :=
  let h := s.head lane
  let w0 := lo / 12
  let n := if hi ≤ lo then 0 else (hi - 1) / 12 + 1 - w0
  let words := (List.range n).map fun k =>
    ((List.range 12).map fun j =>
      let p := (w0 + k) * 12 + j
      if p < s.active lane then nmRowGroup (s.nozzle (lane * 32768 + p)) * 2 ^ (5 * j) else 0).sum
  let c := s.ctx (s.laneOwner lane)
  s.setHead lane { h with mapUpdates := h.mapUpdates ++ [⟨config, w0, h.nextSwath, c.global0 + h.nextSwath, words, []⟩] }

/-- Refresh `HL_GROUPS` of a lane from the map in force. -/
def State.updGroups (s : State) (lane : Nat) : State := s.wr (R.HL_GROUPS_GROUPS lane) (s.laneGroups lane)

/-- The same while the lane prints: the lines below the next swath are fired by the groups of the map before (R245). -/
def State.moveGroups (s : State) (lane : Nat) : State :=
  let h := s.head lane
  let old := s.rd (R.HL_GROUPS_GROUPS lane)
  let s := s.updGroups lane
  if (s.ctx (s.laneOwner lane)).live && decide (s.rd (R.HL_GROUPS_GROUPS lane) ≠ old) then
    s.setHead lane { h with oldGroups := h.oldGroups ++ [(h.nextSwath, old)] }
  else s

/-- A group takes synthesizer parameters (R306, R308, R310): a change of the delay moves the accumulator of a group that commits lines by
(Δd × Q + 128) >> 8, with the new `Q`. -/
def State.applySynth (s : State) (g : Nat) (b : List Byte) : State :=
  let q : Int := fieldN b 8 8
  let d := fieldS b 16 4
  let x := s.syn g
  let s := if s.flag (R.SYN_STATE_ACTIVE g) then s.setSyn g { x with acc := x.acc + sar ((d - s.rdS (R.SYN_DELAY_DELAY g)) * q + 128) 8 } else s
  (((s.wr (R.SYN_STATE_CHANNEL g) (fieldN b 0 1)).wr (R.SYN_Q_Q g) (fieldN b 8 8)).wrS (R.SYN_DELAY_DELAY g) d).wrS (R.SYN_TOFS_TOFS g)
    (fieldS b 20 4)

/-- A group takes a change at a line (R308, R311). -/
def State.applySyn (s : State) (g : Nat) (ch : SynChange) : State :=
  match ch with
  | .block b => s.applySynth g b
  | .delay d => (s.moveDelay g d).stepApplied

/-- Give the nozzles from `first` on the map entries `vals`; an entry that is written is poisoned no more (R206). -/
def State.putNozzles (s : State) (first : Nat) (vals : List Nat) : State :=
  { s with nmap := tsets nmReset s.nmap first vals, nmapBad := tdrop s.nmapBad first (first + vals.length) }

/-- Keep the entries `was` that the swaths before the next one still use (R271). -/
def State.keepOldMap (s : State) (lane : Nat) (was : List (Nat × Nat)) : State :=
  if (s.ctx (s.laneOwner lane)).live then
    s.setHead lane { (s.head lane) with oldMap := (s.head lane).oldMap ++ [((s.head lane).nextSwath, was)] }
  else s

/-- Apply a table change. -/
def State.applyChange (s : State) (ch : TableChange) : State :=
  match ch.table with
  | .nmap lane =>
    let moved := ch.vals.zipIdx.filter fun v =>
      decide ((ch.first + v.2) % 32768 < s.active lane) && decide (nmRowGroup v.1 ≠ nmRowGroup (s.nozzle (ch.first + v.2)))
    let was := (List.range ch.vals.length).map fun i => ((ch.first + i) % 32768, s.nozzle (ch.first + i))
    let s := (((s.voidNozzles ch.first ch.vals true).keepOldMap lane was).putNozzles ch.first ch.vals).moveGroups lane
    if !(s.ctx (s.laneOwner lane)).live then s
    else
    match moved.head?, moved.getLast? with
    | some a, some z => s.queueMap lane false ((ch.first + a.2) % 32768) ((ch.first + z.2) % 32768 + 1)
    | _, _ => s
  | .ncal _ =>
    let s := s.voidNozzles ch.first ch.vals false
    { s with ncal := tsets 0 s.ncal ch.first ch.vals, ncalBad := tdrop s.ncalBad ch.first (ch.first + ch.vals.length) }
  | .thresh a => { s with thresh := tsets 0 s.thresh (a * 65536) ch.vals, threshBad := tdrop s.threshBad (a * 65536) ((a + 1) * 65536) }
  | .level c => { s with levels := tsets levelReset s.levels (c * 14) ch.vals, levelsBad := tset false s.levelsBad c false }
  | .shift g =>
    (s.wr (R.SCRN_RG_SHIFT_XSHIFT g) (ch.vals.getD 0 0)).wr (R.SCRN_RG_SHIFT_YSHIFT g) (ch.vals.getD 1 0)
  | .synth g => s.applySynth g ch.bytes

/-- Apply a change at line `m` of a context: a synthesizer takes it when it comes to commit that line (R308). -/
def State.applyAt (s : State) (m : Nat) (ch : TableChange) : State :=
  match ch.table with
  | .synth g =>
    if s.flag (R.SYN_STATE_ACTIVE g) && decide (s.rd (R.SYN_NEXT_LINE g) < m) then
      s.setSyn g { (s.syn g) with later := (s.syn g).later ++ [(m, .block ch.bytes)] }
    else s.applyChange ch
  | _ => s.applyChange ch

/-- A change of a per-lane or per-group table waits for the boundary of this context; a shared table's does not belong to one. -/
def State.changeOwner (s : State) (t : TableId) : Nat :=
  match t with
  | .nmap l => s.laneOwner l
  | .ncal l => s.laneOwner l
  | .synth g => s.groupOwner g
  | .shift g => s.groupOwner g
  | .thresh _ => 0
  | .level _ => 0

/-- A change to the same table is pending (R209). -/
def State.changePending (s : State) (t : TableId) : Bool :=
  (s.tableChanges ++ s.dueChanges.flatMap DueChange.chs).any fun c => decide (c.table = t)

/-- The checks of R184 on one entry against the context that holds its lane; the reason as `SCRN_CHECK` codes it, 0 for none. -/
def nmReason (c : Option Ctx) (e : Nat) : Nat :=
  if nmSpare e ≠ 0 then 1
  else if (nmDead e || nmDisabled e) && (nmSubL e || nmSubR e) then 2
  else match c with
  | none => 0
  | some c =>
    if c.colorants ≤ nmColour e then 3
    else if c.gridWidth ≤ nmColumn e then 4
    else if !c.groups.testBit (nmRowGroup e) then 5
    else 0

/-- The context that holds a lane, if any. -/
def State.laneCtx (s : State) (lane : Nat) : Option Ctx :=
  let k := s.laneOwner lane
  if k = 0 then none else some (s.ctx k)

/-- A change passes its own check at a boundary (R6). -/
def State.changeOk (s : State) (ch : TableChange) : Bool :=
  match ch.table with
  | .nmap lane => ch.vals.all fun e => decide (nmReason (s.laneCtx lane) e = 0)
  | _ => true

/-! ## Layers -/

/-- A layer with one change made. -/
def Layer.change (l : Layer) (ch : LayerChange) : Layer :=
  match ch.what with
  | 0 => { l with desc := ch.data, pal := ch.pal }
  | 1 => { l with mat := ch.data }
  | _ => { l with crv := ch.data }

/-- Apply changes to a context's eight layers. -/
def applyLayers (ls : List Layer) (chs : List LayerChange) : List Layer :=
  chs.foldl (fun ls ch => ls.zipIdx.map fun p => if p.2 = ch.layer then p.1.change ch else p.1) ls

/-! ## Placing pages and crossing boundaries -/

/-- The next multiple of LPR (R142). -/
def Ctx.align (c : Ctx) (l : Nat) : Nat := (l + c.lpr - 1) / c.lpr * c.lpr

/-- Fix the first line of one more page: after the last page placed and its headland, not before a line whose owner is fixed, and at
least 32 lines after that page when the headland was met open (R2, R3, R86, R142, R179). -/
def Ctx.placeOne (c : Ctx) (p : Page) : Ctx :=
  let past := decide (c.pageEnd < c.horizon)
  let f := if c.wbOnly then c.headEnd
           else c.align (max c.headEnd (max c.horizon (if past && !c.roll then c.pageEnd + 32 else 0)))
  { c with
    pages := c.pages.map fun q =>
      if q.id = p.id then
        { q with first := some f, gap := f - c.pageEnd, seam := decide (c.pageEnd ≠ 0), firstGlobal := c.global0 + f } else q,
    pageEnd := f + p.length, headEnd := f + p.length + p.headland }

/-- Place the pages that have no lines yet, in order; none while the context is to stop, or a unit it uses drains (R94). -/
def Ctx.place (c : Ctx) : Ctx :=
  if c.stopAt.isSome || c.drainAt.isSome then c
  else (c.pages.filter fun p => p.first.isNone).foldl Ctx.placeOne c

/-- A page as it stands before it has lines: nothing of it is composed, and its layers are kept. -/
def Page.unplaced (p : Page) : Page :=
  { p with first := none, layers := none, nextRow := 0, failed := [], failedPoison := [], decoded := [] }

/-- Whether a line is the first of a headland or a seam, and if so whether it qualifies (R3 to R5); a headland of 0 lines between two
pages is one shorter than 32 lines (DEDUCED, assumption 303). -/
def Ctx.boundaryAt (c : Ctx) (m : Nat) : Option Bool :=
  let ends := c.pages.any fun p => decide (p.first.map (· + p.length) = some m)
  if (c.pageOf m).isSome then (if ends then some c.roll else none)
  else if m = 0 ∨ ends then
    if c.roll then some true
    else
      match (c.pages.filterMap Page.first).filter (fun f => decide (m < f)) with
      | [] => some true
      | f :: fs => some (decide (m + 32 ≤ fs.foldl min f))
  else none

/-- The boundary that lies before a page: its line, and whether it qualifies (R3 to R5). -/
def Ctx.boundaryBefore (c : Ctx) (p : Page) : Option (Nat × Bool) :=
  if p.seam || decide (0 < p.gap) then some (p.first.getD 0 - p.gap, c.roll || decide (32 ≤ p.gap)) else none

/-- A boundary is not closed yet. -/
def Ctx.undecided (c : Ctx) (m : Nat) : Bool := decide (c.horizon ≤ m) || c.openB.any fun b => decide (b.1 = m)

/-- A context's screening reads a shared table (R208): every context that screens reads those of its colorants. -/
def Ctx.readsTable (c : Ctx) (t : TableId) : Bool :=
  !c.pass && !c.wbOnly && (match t with
    | .thresh a => decide (a < c.colorants)
    | .level a => decide (a < c.colorants)
    | _ => false)

/-- The line of the boundary at which another context stands together with this one's boundary at line `m` (R208): an open
qualifying boundary as far ahead, within a line. -/
def State.standsWith (s : State) (ctx m : Nat) (e : Ctx) : Option Nat :=
  let a := m + e.line
  let l := (s.ctx ctx).line
  (e.openB.find? fun b => b.2 && decide (b.1 + l ≤ a + 1) && decide (a ≤ b.1 + l + 1)).map (·.1)

/-- The pending changes that apply at a boundary of a context, at line `m`: its own tables' and shifts, and the shared tables that it
reads, for which every context that reads them stands at a boundary (R207, R208). -/
def State.boundaryChanges (s : State) (ctx m : Nat) : List TableChange :=
  s.tableChanges.filter fun ch => match ch.table with
    | .thresh _ | .level _ =>
      (s.ctx ctx).readsTable ch.table &&
      s.ctxs.all fun e => !(e.2.live && e.2.readsTable ch.table) || decide (e.1 = ctx) || (s.standsWith ctx m e.2).isSome
    | t => decide (s.changeOwner t = ctx)

/-- The pending changes that a boundary of a context could apply. -/
def State.pendingAt (s : State) (ctx : Nat) : Bool :=
  let c := s.ctx ctx
  !c.pendLayers.isEmpty || !(s.dueSteps ctx).isEmpty ||
  s.tableChanges.any fun ch => decide (s.changeOwner ch.table = ctx) || c.readsTable ch.table

/-- Apply changes that waited for the swaths before their boundary: the calibration's steps first (R210). -/
def State.applyDue (s : State) (d : DueChange) : State :=
  let s := { s with dueChanges := s.dueChanges.filter fun x => decide (x ≠ d) }
  d.chs.foldl (fun t ch => t.applyChange ch) (s.applySteps d.ctx 0 d.steps)

/-- Every lane of the contexts concerned has computed the swaths before its boundary. -/
def State.dueReady (s : State) (d : DueChange) : Bool :=
  d.lines.all fun e => (s.ctx e.1).laneList.all fun l => decide (e.2 ≤ (s.head l).nextSwath)

/-- Apply the changes whose turn has come. -/
def State.settleDue (s : State) : State :=
  (s.dueChanges.filter s.dueReady).foldl State.applyDue s

/-- Apply the changes that wait for the swaths before line `m` of a context, whatever is computed. -/
def State.forceDue (s : State) (ctx m : Nat) : State :=
  (s.dueChanges.filter fun d => d.lines.any fun e => decide (e.1 = ctx) && decide (e.2 ≤ m)).foldl State.applyDue s

/-- The swath of line `n` waits for a change of its boundary. -/
def State.dueBlocks (s : State) (ctx n : Nat) : Bool :=
  s.dueChanges.any fun d => d.lines.any fun e => decide (e.1 = ctx) && decide (e.2 ≤ n)

/-- The lines from which the contexts concerned use a boundary's changes (R207, R208). -/
def State.dueLines (s : State) (ctx m : Nat) (chs : List TableChange) : List (Nat × Nat) :=
  (ctx, m) :: s.ctxs.filterMap fun e =>
    if decide (e.1 ≠ ctx) && e.2.live && chs.any fun ch => e.2.readsTable ch.table then (s.standsWith ctx m e.2).map fun l => (e.1, l) else none

/-- Make the changes of a boundary at line `m`: a synthesizer takes its part when it comes to commit that line, its own parameters
before the calibration's delay, whose shift uses the new `Q` (R308, R310); screening when it has computed the swaths before it. -/
def State.meetBoundary (s : State) (ctx m : Nat) (chs : List TableChange) (xs : List CalStep) : State :=
  let isSyn (ch : TableChange) : Bool := match ch.table with | .synth _ => true | _ => false
  let s := { s with tableChanges := s.tableChanges.filter (fun ch => !(chs.contains ch)),
                    cal := { s.cal with steps := s.cal.steps.filter fun x => !xs.contains x } }
  let s := ((chs.filter isSyn).foldl (fun t ch => t.applyAt m ch) s).applySteps ctx m (xs.filter CalStep.row)
  let tabs := chs.filter fun ch => !isSyn ch
  let dens := xs.filter fun x => !x.row
  if tabs.isEmpty && dens.isEmpty then s
  else State.settleDue { s with dueChanges := s.dueChanges ++ [⟨s.dueLines ctx m tabs, ctx, tabs, dens⟩] }

/-- Fix the owner of one more line; a boundary there is open from now on. -/
def State.crossLine (s : State) (ctx : Nat) : State :=
  let c := s.ctx ctx
  s.setCtx ctx
    { c with horizon := c.horizon + 1,
             openB := match c.boundaryAt c.horizon with
               | some q => c.openB ++ [(c.horizon, q)]
               | none => c.openB }

/-- Record that the changes stay pending through a short headland at line `m` (R4): the count saturates (R20, R52). -/
def State.deferAt (s : State) (ctx m : Nat) : State :=
  let c := s.ctx ctx
  let c1 := { c with deferrals := min 0xFFFFFFFF (c.deferrals + 1) }
  let s := s.setCtx ctx (if m = 0 then c1 else c1.markLine (m - 1) markDeferred)
  if c.deferrals = 0xFFFFFFFE then s.raise .cmd 3 else s

/-- Every change that is pending for a boundary at line `m` passes its own check (R6, R375). -/
def State.changesPass (s : State) (ctx m : Nat) : Bool :=
  (s.boundaryChanges ctx m).all s.changeOk && ((s.dueSteps ctx).isEmpty || !s.calBad)

/-- The pending layer changes are made at a boundary at line `m`, unless a page behind it has been begun (R152). -/
def Ctx.agreeLayers (c : Ctx) (m : Nat) : Ctx :=
  if c.pendLayers.isEmpty || c.pages.any (fun p => p.base.isSome && p.first.any fun f => decide (m ≤ f)) then c
  else { c with agreed := c.agreed ++ [(m, c.pendLayers)], pendLayers := [] }

/-- Close a boundary: at one that qualifies the pending changes apply, all of them or none (R3, R6); at one that does not they stay
pending, and the deferral is recorded (R4). -/
def State.closeBoundary (s : State) (ctx : Nat) (b : Nat × Bool) : State :=
  let c := s.ctx ctx
  let v := (c.verdicts.find? fun e => decide (e.1 = b.1)).map (·.2)
  let c1 := { c with openB := c.openB.filter (fun e => decide (e ≠ b)), verdicts := c.verdicts.filter fun e => decide (e.1 ≠ b.1) }
  if !b.2 then
    let s1 := s.setCtx ctx c1
    if s.pendingAt ctx then s1.deferAt ctx b.1 else s1
  else if v = some false ∨ (v = none ∧ !s.changesPass ctx b.1) then s.setCtx ctx c1
  else
    (s.setCtx ctx { (c1.agreeLayers b.1) with quals := c.quals ++ [b.1] }).meetBoundary ctx b.1
      ((s.boundaryChanges ctx b.1).filter s.changeOk) (if s.calBad then [] else s.dueSteps ctx)

/-- Close the boundaries of a context up to line `n`: the first use of a table for a line from the boundary on, by screening or by a
synthesizer, is at hand (R3, R207, R308; DEDUCED, assumption 302). -/
def State.closeTo (s : State) (ctx n : Nat) : State :=
  ((s.ctx ctx).openB.filter fun b => decide (b.1 ≤ n)).foldl (fun s b => s.closeBoundary ctx b) s

/-- A page's first row meets the boundary before it: unless that is closed, the pending layer changes apply now, if every change
pending there passes its check (R6, R152). -/
def State.meetLayers (s : State) (ctx : Nat) (p : Page) : State :=
  let c := s.ctx ctx
  match c.boundaryBefore p with
  | none => s
  | some (m, q) =>
    if c.pendLayers.isEmpty || !c.undecided m then s
    else if !q then (if c.wbOnly then s.deferAt ctx m else s)
    else
      let ok := s.changesPass ctx m
      let c := if ok then c.agreeLayers m else c
      s.setCtx ctx (if c.wbOnly then c else { c with verdicts := c.verdicts ++ [(m, ok)] })

/-- A layer as it acts on a page of `rows` rows: one that starts at or beyond the last row contributes nothing (R155). -/
def Layer.onPage (rows : Nat) (l : Layer) : Layer := if rows ≤ l.y0 + 1 then { l with desc := [] } else l

/-- Give a page its layers at its first row: those of the boundaries before it, its own generation, and the sealed layer, which takes the
place of what its list holds for layer 7 (R150, R152, R167, R168).  A page that was begun before keeps what it had. -/
def State.beginPage (s : State) (ctx : Nat) (p : Page) : State :=
  let s := if p.base.isSome then s else s.meetLayers ctx p
  let c := s.ctx ctx
  let f := p.first.getD 0
  let l1 := match p.base with
    | some b => b
    | none => applyLayers c.layers (((c.agreed.filter fun e => decide (e.1 ≤ f)).flatMap (·.2)) ++ p.gen)
  let ls := match c.sealedL with | some x => l1.set 7 x.layer | none => l1
  let sl := match c.sealedL with | some x => x.list | none => []
  let si := match c.sealedL with | some x => if x.withdrawn then none else some x.id | none => none
  let s := s.setCtx ctx
    { c with layers := if p.base.isSome then c.layers else l1,
             agreed := if p.base.isSome then c.agreed else c.agreed.filter fun e => !decide (e.1 ≤ f),
             pages := c.pages.map fun q => if q.id = p.id then
               { q with layers := some (ls.map (Layer.onPage (p.length / c.lpr))), base := some l1, sealed := sl, sealId := si,
                        list := if c.sealedL.isSome then q.list.filter fun e => decide (e.layer ≠ 7) else q.list } else q }
  match c.sealedL with
  | some x => if x.applied || x.withdrawn then s else
      (s.setCtx ctx { (s.ctx ctx) with sealedL := some { x with applied := true } }).audit 6 ctx x.slot 0 x.serial (c.global0 + p.first.getD 0) []
  | none => s

/-! ## The end of printing -/

/-- The per-context line at which a page's last content line has been fired by every bar. -/
def State.pageLastTick (s : State) (c : Ctx) (p : Page) : Option Nat :=
  match p.first with
  | some f => some (f + p.length - 1 + (if c.pass then 0 else s.omax c))
  | none => none

/-- Changes that wait for a context's boundary apply when it reaches OPEN (R207, R308), and those of a shared table when no context that
reads it prints any more (R208). -/
def State.flushChanges (s : State) (ctx : Nat) : State :=
  let s := (s.dueChanges.filter fun d => d.lines.any fun e => decide (e.1 = ctx)).foldl State.applyDue s
  let mine := s.tableChanges.filter fun ch =>
    let o := s.changeOwner ch.table
    decide (o = ctx) || (decide (o = 0) && s.ctxs.all fun c => !(c.2.live && c.2.readsTable ch.table))
  let s := { s with tableChanges := s.tableChanges.filter fun ch => !(mine.any fun m => decide (m = ch)) }
  mine.foldl (fun t ch => t.applyChange ch) s

/-- A change that a synthesizer held for a line it never came to commit: parameters apply (R308); a calibration step waits for the next
boundary again (R311), unless a newer one has replaced it (R375). -/
def State.giveBack (s : State) (g : Nat) (ch : SynChange) : State :=
  match ch with
  | .block _ => s.applySyn g ch
  | .delay d =>
    if s.cal.steps.any fun x => x.row && decide (x.key = g) then s
    else { s with cal := { s.cal with steps := s.cal.steps ++ [{ row := true, key := g, d := d, g := 0 }] } }

/-- Clear what lanes and synthesizers hold for a context that no longer prints. -/
def State.releaseLanes (s : State) (ctx : Nat) : State :=
  let c := s.ctx ctx
  let s := c.laneList.foldl (fun t l =>
    t.setHead l { (t.head l) with loft := (t.head l).loft.filter (fun e => decide (e.2.map LoftLine.ctx ≠ some ctx)),
                                  plans := (t.head l).plans.filter (fun p => decide (p.ctx ≠ ctx)),
                                  sendFrom := 0, sendNext := 0, nextSwath := 0, mapUpdates := [], oldGroups := [], oldMap := [],
                                  mapSent := [], mapPos := 0, word := none, resume := false, replaying := [], downTo := 0 }) s
  c.groupList.foldl (fun t g =>
    let late := (t.syn g).later
    let t := (t.setSyn g { (t.syn g) with due := [], later := [], last := none }).wr (R.SYN_STATE_ACTIVE g) 0
    late.foldl (fun t c => t.giveBack g c.2) t) s

/-- A context stops printing and goes to OPEN (R84): pages begun are completed as truncated when asked, pages not begun completed
`ABORTED` when asked or kept; pending changes apply; a waiting `CTX_STOP` completes, with `OK` also when the context goes to FAULTED (DESIGN
CHOICE, assumption 291). -/
def State.endContext (s : State) (ctx : Nat) (abort : Bool) (dest : CtxState) : State :=
  let c := s.ctx ctx
  let begun := c.pages.filter fun p => match p.first with
    | some f => if c.wbOnly then decide (0 < p.nextRow) else decide (f < c.line)
    | none => false
  let s := begun.foldl (fun t p => t.completePage ctx p .pageMarked (p.marks ||| 2 ^ markTruncated)) s
  let rest := (s.ctx ctx).pages
  let s := if abort then rest.foldl (fun t p => t.completePage ctx p .aborted p.marks) s else s
  let s := s.releaseLanes ctx
  let c := s.ctx ctx
  let fired := c.firedLines
  let past (e : Nat × List LayerChange) : Bool := decide (e.1 < c.line)
  let s := s.setCtx ctx
    { c with st := dest, line := 0, ticked := false, horizon := 0, pageEnd := 0, headEnd := 0, stopAt := none, stopPk := none,
             shortRun := 0, underrunRun := 0, underrunStop := false, quals := [], qsN := 0, qsSum := [], poisonRows := [],
             openB := [], verdicts := [], drainAt := none,
             layers := applyLayers c.layers ((c.agreed.filter past).flatMap (·.2)), agreed := [],
             pendLayers := ((c.agreed.filter fun e => !past e).flatMap (·.2)) ++ c.pendLayers,
             pages := c.pages.map Page.unplaced }
  let s := { s with gangs := s.gangs.filter (fun g => decide (g.ctx ≠ ctx)),
                    rowCache := s.rowCache.filter (fun e => decide (e.ctx ≠ ctx)),
                    holders := s.holders.filter (fun e => decide (e.2.map Holder.ctx ≠ some ctx)) }
  let s := if dest = .open then s.setCtx ctx (s.ctx ctx).place else s
  let s := s.flushChanges ctx
  match c.stopPk with
  | none => s
  | some pk => s.complete pk (if abort then .aborted else .ok) [fired, c.lastPage]

/-- The contexts that use a raster-path unit: BALE all, COMP all but pass-through ones, the other units those with lanes; a lane node or
a slice those whose lane it is. -/
def State.usesUnit (s : State) (n : Node) (c : Ctx) : Bool :=
  match n with
  | .bale => true
  | .comp => !c.pass
  | .head k => !c.wbOnly && c.laneList.contains k.val
  | .slice k => !c.wbOnly && (match (s.slice k.val).lane with
    | some l => c.laneList.contains l
    | none => false)
  | _ => !c.wbOnly

/-- Abort of a raster-path unit (R94): every RUNNING or STOPPING context that uses it ends. -/
def State.abortRaster (s : State) (n : Node) : State :=
  s.ctxs.foldl (fun t e => if e.2.live && s.usesUnit n e.2 then t.endContext e.1 true .open else t) s

/-- Fault of a raster-path unit (R84): every context that uses it goes to FAULTED. -/
def State.faultRaster (s : State) (n : Node) (code : Nat) : State :=
  s.ctxs.foldl (fun t e =>
    if decide (e.2.st ≠ .closed) && s.usesUnit n e.2 then
      let t := if e.2.live then t.endContext e.1 false .faulted else t
      t.setCtx e.1 { (t.ctx e.1) with st := .faulted, lastFault := code }
    else t) s

/-- The line after the last that the pages in hand of a context print. -/
def State.lastLine (s : State) (c : Ctx) : Nat :=
  (c.pages.filterMap fun p => match p.first with
    | some f => if f < c.horizon then s.pageLastTick c p else none
    | none => none).foldl (fun a l => max a (l + 1)) c.line

/-- Pages behind the lines whose owner is fixed lose their place. -/
def Ctx.unplace (c : Ctx) : Ctx :=
  let late (p : Page) : Bool := p.first.any fun f => decide (c.horizon ≤ f)
  match c.pages.find? late with
  | none => c
  | some p =>
    { c with pages := c.pages.map fun q => if late q then q.unplaced else q,
             pageEnd := p.first.getD 0 - p.gap, headEnd := p.first.getD 0 }

/-- Drain of a raster-path unit (R94): each RUNNING context that uses it prints to the last line before its next headland, and no
page from there on until the unit takes work again. -/
def State.drainRaster (s : State) (n : Node) : State :=
  s.ctxs.foldl (fun t e =>
    if decide (e.2.st = .running) && s.usesUnit n e.2 && !e.2.wbOnly && e.2.drainAt.isNone then
      let gone := (e.2.pages.filter fun p => p.first.any fun f => decide (e.2.horizon ≤ f)).map Page.id
      let t := t.setCtx e.1 { e.2.unplace with drainAt := some (t.lastLine e.2) }
      { t with gangs := t.gangs.filter (fun g => !(decide (g.ctx = e.1) && gone.contains g.page)),
               holders := t.holders.filter fun x => !(x.2.any fun h => decide (h.ctx = e.1) && gone.contains h.page) }
    else t) s

/-- A line of a context is past its last: it stops, or a unit that it uses has drained. -/
def Ctx.lineOff (c : Ctx) (n : Nat) : Bool := (c.stopAt.any fun e => decide (e ≤ n)) || c.drainAt.any fun e => decide (e ≤ n)

/-- A context has work that a drain waits for: lines before its next headland, or a page of a write-back-only context begun. -/
def Ctx.printing (c : Ctx) : Bool :=
  c.live && (if c.wbOnly then c.pages.any (fun p => decide (0 < p.nextRow)) else !(c.drainAt.any fun e => decide (e ≤ c.firedLines)))

/-- Some context that uses a unit has such work. -/
def State.anyPrinting (s : State) (n : Node) : Bool := s.ctxs.any fun e => e.2.printing && s.usesUnit n e.2

/-- A unit that a context uses takes no work. -/
def State.unitHeld (s : State) (c : Ctx) : Bool :=
  ([Node.comp, .scrn, .hlnk, .fire] ++ (List.finRange 32).map Node.head ++ (List.finRange 33).map Node.slice).any fun n =>
    s.usesUnit n c && !s.accepts n

end Sys2Proof.Machine
end

