-- ==== Sys2Proof/Machine/Bale.lean ====
section
/-!
DEFINITION. The BALE commands (spec/03): decode, encode, verify, resume and discard jobs on the threshers and compressors, the resume
handles, and the granting of threshers to gangs (R156).
-/

namespace Sys2Proof.Machine

/-- "None" in a result word. -/
def noWord : Nat := 0xFFFFFFFF

/-- Threshers that accept work, hold no bale and are not under test; a packet or a gang takes the lowest-numbered (DESIGN CHOICE:
R123 and R156 say any free one; assumption 296). -/
def State.freeThreshers (s : State) : List (Fin 12) :=
  (List.finRange 12).filter fun t => (s.holder t.val).isNone && s.accepts (.thresher t) && decide (s.mode (.thresher t) = .normal)

/-- Compressors that accept work and are not under test; a job takes the lowest-numbered (assumption 296). -/
def State.freeCompressors (s : State) : List (Fin 4) :=
  (List.finRange 4).filter fun c => s.accepts (.compressor c) && decide (s.mode (.compressor c) = .normal)

/-- The resume handle that a stop returns: of several free ones the lowest (DESIGN CHOICE: R130 does not say which; assumption 295). -/
def State.freeHandle (s : State) : Option Nat := (List.range 32).find? fun k => !(s.handle k).held

/-- The counters of an engine after a job (`ENG_OUT_BYTES`, `ENG_IN_BYTES`, `ENG_BALES`). -/
def State.countEngine (s : State) (n : Node) (inB outB bales : Nat) : State :=
  let b := n.base
  let s := s.count (R.ENG_OUT_BYTES_COUNT b) (R.ENG_OVF_OUT_OVF b) n outB
  let s := s.count (R.ENG_IN_BYTES_COUNT b) (R.ENG_OVF_IN_OVF b) n inB
  s.count (R.ENG_BALES_COUNT b) (R.ENG_OVF_BALES_OVF b) n bales

/-- What a failed bale does (R136, R137): `BALE_ERR_ADDR`, the engine's counter for the status, and `DECODE_ERROR`; poison is used up
(R418); a privileged bale met by an unprivileged packet (R138) counts nowhere. -/
def State.baleFailed (s : State) (n : Node) (st : Status) (addr len : Nat) : State :=
  let b := n.base
  if st = .notPriv then s
  else
    let s := s.wr R.BALE_ERR_ADDR_ADDR addr
    let s := match st with
      | .badHeader => s.count (R.ENG_ERRORS_HEADER b) (R.ENG_OVF_HEADER_OVF b) n 1
      | .codeError => s.count (R.ENG_ERRORS_CODE b) (R.ENG_OVF_CODE_OVF b) n 1
      | .crcMismatch => s.count (R.ENG_ERRORS_CRC b) (R.ENG_OVF_CRC_OVF b) n 1
      | .poisoned => s.usePoison 3 addr len
      | _ => s
    s.raise .bale 16

/-- The resume area entry of a handle (R131, R391). -/
def State.resumeEntry (s : State) (k : Nat) : Nat := s.reservedBase + 30 * 2 ^ 20 + k * 69632

/-- The state of a job as the resume area holds it (R131): addresses and counts, the bale's header with the coded bytes taken so far,
and the bytes decoded from them, the history.  Its layout is the model's (DESIGN CHOICE, assumption 297). -/
def Handle.image (h : Handle) : List Byte :=
  let hdr := BaleHdr.ofBytes h.seen
  let past := if h.encode then [] else (wordsOut (baleWords hdr (h.seen.drop 32)).1).take h.skipOut
  leBytes 8 h.addr ++ leBytes 8 h.remain ++ leBytes 8 h.baleOff ++ leBytes 4 h.skipOut ++ leBytes 4 h.bseq ++ leBytes 4 (crc32c past) ++
  leBytes 4 (h.coding + 4 * h.e + 256 * h.layout) ++ h.seen.take 32 ++ past

/-- Take a handle for a job that stops, and save its state in the DRAM (R131); the whole entry is written. -/
def State.saveHandle (s : State) (k : Nat) (h : Handle) : State :=
  let im := h.image
  let a := s.resumeEntry k
  let s := s.dramWrite 3 a im
  let in' (w : Nat) : Bool := decide (a ≤ 8 * w) && decide (8 * w < a + 69632)
  { s with dramPoison := s.dramPoison.filter fun e => !in' e.1, dramErr := s.dramErr.filter fun e => !in' e.1 }.setHandle k
    { h with saved := im.length }

/-- Finish a decode job on a thresher (R130, R132, R133, R136).  `start` is the address of the job's first source byte, `next` that
of the first byte not consumed before this packet, `remain` the source bytes from there on, `cur` the bytes of the stream from the
header of the bale in progress, `base` that header's offset, `had` the bytes of it consumed before. -/
def State.finishDecode (s : State) (pk : Pk) (t : Fin 12) (start next remain : Nat) (cur : List Byte) (base had : Nat) (dst : Nat)
    (r : JobRes) : State :=
  let n : Node := .thresher t
  match r.stop with
  | .done =>
    let s := (s.writeAt 3 dst r.out).countEngine n r.consumed r.out.length r.bales
    s.complete pk .ok [r.consumed, r.out.length, r.bales, noWord]
  | .full inB outB =>
    match s.freeHandle with
    | some k =>
      let s := (s.writeAt 3 dst r.out).countEngine n r.consumed r.out.length r.bales
      let done := if r.bales = 0 then 0 else r.consumedB + had
      let s := s.saveHandle k
        { held := true, ctx := pk.hdr.ctx, priv := pk.hdr.priv, addr := next + r.consumed, remain := remain - r.consumed,
          seen := (cur.drop done).take inB, skipOut := outB, baleOff := base + done }
      s.complete pk .outFull [r.consumed, r.out.length, r.bales, k]
    | none =>
      let s := (s.writeAt 3 dst r.outB).countEngine n r.consumedB r.outB.length r.bales
      (s.raise .bale 18).complete pk .outFull [r.consumedB, r.outB.length, r.bales, noWord]
  | .fail st off =>
    let s := (s.writeAt 3 dst r.out).countEngine n r.consumedB r.out.length r.bales
    let s := s.baleFailed n st (start + off) (next + remain - (start + off))
    s.complete pk st [off, r.outB.length, r.bales, noWord]

/-- Run a `BALE_DECODE` on a thresher. -/
def State.runDecode (s : State) (pk : Pk) (t : Fin 12) (src dst srcLen dstLen : Nat) : State :=
  let bs := s.bytesAt src srcLen
  let r := decodeJob (s.privileged pk.hdr) (fun off len => s.poisonedAt (src + off) (min len (srcLen - off))) (srcLen / 32 + 2) bs 0 dstLen 0 0
  (s.touch 3 src srcLen).finishDecode pk t src src srcLen bs 0 0 dst r

/-- Run a `BALE_VERIFY` on a thresher (R137). -/
def State.runVerify (s : State) (pk : Pk) (t : Fin 12) (src srcLen : Nat) : State :=
  let bs := s.bytesAt src srcLen
  let s := s.touch 3 src srcLen
  match verifyJob (fun off len => s.poisonedAt (src + off) (min len (srcLen - off))) (srcLen / 32 + 2) bs 0 with
  | (n, none) => (s.countEngine (.thresher t) srcLen 0 n).complete pk .ok [n, noWord]
  | (n, some (off, st)) =>
    ((s.countEngine (.thresher t) off 0 (n - 1)).baleFailed (.thresher t) st (src + off) (srcLen - off)).complete pk st [n, off]

/-- What an encode job is asked for, with R128's rule for verifying. -/
def State.encReq (s : State) (pk : Pk) (coding e flags layout : Nat) : EncReq :=
  { coding := coding, e := e, layout := layout, priv := s.privileged pk.hdr,
    verify := bit flags 0 || s.flag R.BALE_CFG_VERIFY_ALL || s.privileged pk.hdr }

/-- Bytes of rows in one bale: as many whole rows as fit in 65,536 bytes (R125). -/
def rowsPerBale (layout : Nat) : Nat := 65536 / layoutRowSize layout * layoutRowSize layout

/-- Run an encode job on a compressor (R125 to R129, R134). -/
def State.runEncode (s : State) (pk : Pk) (c : Fin 4) (q : EncReq) (src srcLen bseq dst dstLen : Nat) (miscoded : Option Nat) : State :=
  let n : Node := .compressor c
  if s.poisonedAt src srcLen then (s.usePoison 3 src srcLen).complete pk .poisoned [0, 0, 0, noWord]
  else
    let bs := s.bytesAt src srcLen
    let s := s.touch 3 src srcLen
    let r := encodeJob q (rowsPerBale q.layout) miscoded (srcLen + 1) bs bseq dstLen 0 0
    let s := (s.writeAt 3 dst r.out).countEngine n r.consumed r.out.length r.bales
    match r.stop with
    | .done => s.complete pk .ok [r.consumed, r.out.length, r.bales, noWord]
    | .notShrunk => s.complete pk .notShrunk [r.consumed, r.out.length, r.bales, noWord]
    | .verifyFail off =>
      let s := (s.wr R.BALE_ERR_ADDR_ADDR (dst + off)).count (R.ENG_ERRORS_VERIFY n.base) (R.ENG_OVF_VERIFY_OVF n.base) n 1
      (s.raise .bale 17).complete pk .verifyFail [r.consumed, r.out.length, r.bales, noWord]
    | .full =>
      match s.freeHandle with
      | some k =>
        let s := s.saveHandle k
          { held := true, ctx := pk.hdr.ctx, encode := true, priv := q.priv, addr := src + r.consumed, remain := srcLen - r.consumed,
            bseq := bseq + r.bales, coding := q.coding, e := q.e, layout := q.layout, verify := q.verify,
            miscoded := miscoded.bind fun m => if m < r.bales then none else some (m - r.bales) }
        s.complete pk .outFull [r.consumed, r.out.length, r.bales, k]
      | none => (s.raise .bale 18).complete pk .outFull [r.consumed, r.out.length, r.bales, noWord]

/-- Continue the job of a handle (R132, R418): a decode on a thresher, an encode on a compressor.  The handle is released; a new stop takes
a handle again. -/
def State.runResume (s : State) (pk : Pk) (k dst dstLen : Nat) : State :=
  let hd := s.handle k
  let s := s.setHandle k {}
  if s.dramBad (s.resumeEntry k) (max 1 hd.saved) then
    (s.usePoison 3 (2 ^ 63 + s.resumeEntry k) 69632).complete pk .poisoned [0, 0, 0, noWord]
  else if hd.encode then
    match s.freeCompressors with
    | c :: _ => s.runEncode pk c ⟨hd.coding, hd.e, hd.layout, hd.verify, hd.priv⟩ hd.addr hd.remain hd.bseq dst dstLen hd.miscoded
    | [] => s
  else
    match s.freeThreshers with
    | [] => s
    | t :: _ =>
      let had := hd.seen.length
      let start := hd.addr - hd.baleOff - had
      let cur := hd.seen ++ s.bytesAt hd.addr hd.remain
      let bad (off len : Nat) : Bool :=
        let lo := max off (hd.baleOff + had)
        decide (lo < off + len) && s.poisonedAt (start + lo) (min (off + len - lo) (hd.remain + had + hd.baleOff - lo))
      let r := decodeJob (s.privileged pk.hdr) bad ((hd.remain + had) / 32 + 2) cur hd.baleOff dstLen had hd.skipOut
      (s.touch 3 hd.addr hd.remain).finishDecode pk t start hd.addr hd.remain cur hd.baleOff had dst r

/-- A job can run now: an engine of its kind is free, for a decode no gang waits (R123, R156), and for an encode none of the device's own
requests does (R139); all but a `BALE_VERIFY` are deferrable (R547). -/
def State.jobReady (s : State) (j : BaleJob) : Bool :=
  (match j with | .verify .. => true | _ => !s.stalled) &&
  match j with
  | .encode .. => !s.freeCompressors.isEmpty && s.insp.crops.isEmpty
  | .resume _ k _ _ => if (s.handle k).encode then !s.freeCompressors.isEmpty && s.insp.crops.isEmpty else s.gangs.isEmpty && !s.freeThreshers.isEmpty
  | _ => s.gangs.isEmpty && !s.freeThreshers.isEmpty

/-- Run a job that can run. -/
def State.runJob (s : State) (j : BaleJob) : State :=
  match j with
  | .decode pk src dst srcLen dstLen =>
    match s.freeThreshers with | t :: _ => s.runDecode pk t src dst srcLen dstLen | [] => s
  | .verify pk src srcLen =>
    match s.freeThreshers with | t :: _ => s.runVerify pk t src srcLen | [] => s
  | .resume pk k dst dstLen => s.runResume pk k dst dstLen
  | .encode pk src dst srcLen dstLen coding e flags layout miscoded =>
    match s.freeCompressors with
    | c :: _ => s.runEncode pk c (s.encReq pk coding e flags layout) src srcLen 0 dst dstLen miscoded
    | [] => s

/-- A job needs a compressor. -/
def State.jobEncodes (s : State) (j : BaleJob) : Bool :=
  match j with
  | .encode .. => true
  | .resume _ k _ _ => (s.handle k).encode
  | _ => false

/-- Start a job at once when it can run and no job for an engine of its kind waits before it; else it waits (R123, R139, R156). -/
def State.submitJob (s : State) (j : BaleJob) : State :=
  if s.jobReady j && s.baleJobs.all (fun x => decide (s.jobEncodes x ≠ s.jobEncodes j)) then s.runJob j else { s with baleJobs := s.baleJobs ++ [j] }

/-- Run the waiting jobs that can run, in the order in which they started. -/
def State.runWaiting (s : State) : State :=
  s.baleJobs.foldl (fun t j =>
    if t.jobReady j then { t with baleJobs := t.baleJobs.filter (fun x => decide (x ≠ j)) }.runJob j else t) s

/-! ## Gangs -/

/-- A bale of a page's list decoded for the page: its bytes, or the status with which it fails (R107, R138, R157, R418).  A read of it
that fails counts as a failed bale (DESIGN CHOICE: R158 does not name it; assumption 298). -/
def State.decodeEntry (s : State) (priv lossless : Bool) (layoutOk : BaleHdr → Bool) (e : ListEntry) : Except Status (List Byte) × Bool :=
  if s.dmaFails e.addr e.bytes && decide (e.addr < 2 ^ 64) then (.error .dmaError, false)
  else if s.entryPoisoned e.addr (min e.bytes 32) then (.error .poisoned, false)
  else
    let bs := s.entryBytes e.addr e.bytes
    let h := BaleHdr.ofBytes bs
    if h.priv && !priv then (.error .notPriv, false)
    else if bs.length < 32 ∨ h.bad bs.length ∨ (lossless && h.lossy) then (.error .badHeader, false)
    else if s.entryPoisoned e.addr e.bytes then (.error .poisoned, false)
    else
      match decodeBale bs with
      | .error st => (.error st, false)
      | .ok (h, d) =>
        if !layoutOk h || decide (h.rawLen / layoutRowSize h.layout ≠ e.rows) then (.error .badLayer, true) else (.ok d, false)

/-- The bytes that a thresher's completed code words gave of a bale that fails (`ENG_OUT_BYTES`). -/
def State.failedOut (s : State) (e : ListEntry) (st : Status) : Nat :=
  let bs := s.entryBytes e.addr e.bytes
  let h := BaleHdr.ofBytes bs
  if st = .codeError ∨ st = .crcMismatch ∨ st = .badLayer then (wordsOut (baleWords h ((bs.drop 32).take h.codedLen)).1).length else 0

/-- The layout that a stream's bales must have (R157); in a pass-through context that of R211. -/
def State.streamLayout (s : State) (c : Ctx) (layers : List Layer) (e : ListEntry) (h : BaleHdr) : Bool :=
  if c.pass then
    decide (layoutBps h.layout = 1) && decide (layoutChannels h.layout = 1) &&
    decide (layoutRow h.layout = 8 * swathWords (s.active e.strip) c.b)
  else
    let l := layers.getD e.layer {}
    decide (layoutRow h.layout = l.stripWidth e.strip) && decide (layoutChannels h.layout = l.channels) &&
    decide (layoutBps h.layout = l.sampleBytes)

/-- Replace the page of a context that has the same id. -/
def Ctx.putPage (c : Ctx) (p : Page) : Ctx := { c with pages := c.pages.map fun q => if q.id = p.id then p else q }

/-- The entries of a page, the sealed layer's last (R154, R168). -/
def Page.entries (p : Page) : List ListEntry := p.list ++ p.sealed

/-- Give a thresher to one entry of a page: it decodes the bale and holds it, or the bale fails (R156 to R158, R214). -/
def State.grantEntry (s : State) (ctx page k : Nat) (t : Fin 12) : State :=
  let c := s.ctx ctx
  match c.pages.find? fun p => decide (p.id = page) with
  | none => s
  | some p =>
    let e := p.entries.getD k ⟨0, 0, 0, 0, 0, 0, 0, 0⟩
    let s := if e.addr < 2 ^ 64 then s.touch 3 e.addr e.bytes else s
    let lossless := c.pass || decide (e.layer = 7)
    let priv := s.privileged p.pk.hdr || decide (p.list.length ≤ k)
    match s.decodeEntry priv lossless (s.streamLayout c (p.layers.getD c.layers) e) e with
    | (.ok d, _) =>
      let s := s.setCtx ctx (c.putPage { p with decoded := tset [] p.decoded k d })
      (s.setHolder t.val (some ⟨ctx, page, k⟩)).countEngine (.thresher t) e.bytes d.length 1
    | (.error st, layout) =>
      let s := match s.copyOf e.addr with
        | some x => s.audit 7 ctx x.slot st.code x.serial (c.global0 + p.first.getD 0 + e.firstRow * c.lpr) []
        | none => s
      let s := s.setCtx ctx (c.putPage { p with failed := k :: p.failed, notPriv := p.notPriv || decide (st = .notPriv),
                                                failedPoison := if st = .poisoned then k :: p.failedPoison else p.failedPoison })
      let s := s.countEngine (.thresher t) 0 (s.failedOut e st) 0
      let s := if layout && !c.pass then (s.count R.COMP_LAYOUT_COUNT R.COMP_OVF_LAYOUT_OVF .comp 1).raise .comp 18 else s
      s.baleFailed (.thresher t) st e.addr e.bytes

/-- How far a gang's deadline lies ahead (R156): rows of write-back-only contexts come last; else the lines from the context's next
tick to the due tick, below 0 for a row that is overdue, at the context's highest line rate, in 1/16 ns. -/
def State.gangDeadline (s : State) (g : Gang) : Int :=
  let c := s.ctx g.ctx
  if c.wbOnly then 2 ^ 80
  else
    let l := if c.pass then
        (match c.pages.find? fun p => decide (p.id = g.page) with
         | some p => p.first.getD 0 + (p.list.getD g.row ⟨0, 0, 0, 0, 0, 0, 0, 0⟩).firstRow
         | none => 0)
      else g.row * c.lpr
    let due := l - s.fireLead - 4
    ((due : Int) - c.line) * 16000000000 / (max 1 c.lmax : Nat)

/-- The waiting gang with the earliest deadline, the first asked for of equal ones. -/
def State.nextGang (s : State) : Option Gang :=
  s.gangs.foldl (fun best g => match best with
    | none => some g
    | some b => if s.gangDeadline g < s.gangDeadline b then some g else some b) none

/-- `THRESHER_GRANT` (R156): the gang with the earliest deadline takes all its threshers when as many are free, or none; with no gang
waiting, the packets that wait take theirs. -/
def State.grant (s : State) : State :=
  match s.nextGang with
  | none => s.runWaiting
  | some g =>
    let free := s.freeThreshers
    if free.length < g.entries.length then s
    else
      let s := { s with gangs := s.gangs.filter fun x => decide (x ≠ g) }
      (g.entries.zip free).foldl (fun t p => t.grantEntry g.ctx g.page p.1 p.2) s

/-! ## Commands -/

/-- `BALE_DECODE` (R130 to R138). -/
def execBaleDecode (h : Hdr) (src dst srcLen dstLen : Nat) (s : State) : Host.Outcome State Fault Refusal :=
  if !s.spells (.baleDecode h src dst srcLen dstLen) then .next s else
  .next (s.packet opBaleDecode h
    (fun s => [(s.badAddr src srcLen || s.badAddr dst dstLen, .badParam), (!s.accepts .bale, .unitOff), (s.dmaFails src srcLen, .dmaError)])
    (fun pk s => s.submitJob (.decode pk src dst srcLen dstLen)))

/-- The parameters that R124 refuses. -/
def encodeBad (priv : Bool) (srcLen coding e layout : Nat) : Bool :=
  decide (2 ≤ layout % 4) || decide (bits layout 5 3 ≠ 0) || decide (2 ^ 24 ≤ layout) || decide (65536 < layoutRowSize layout) ||
  decide (srcLen % layoutRowSize layout ≠ 0) || decide (2 < coding) || decide (3 < e) || (decide (0 < e) && decide (coding ≠ 2)) ||
  (decide (coding = 2) && decide (layoutBps layout = 2)) || (decide (0 < e) && priv)

/-- `BALE_ENCODE` (R124 to R129, R134). -/
def execBaleEncode (h : Hdr) (src dst srcLen dstLen coding e flags layout : Nat) (miscoded : Option Nat) (s : State) :
    Host.Outcome State Fault Refusal :=
  if !s.spells (.baleEncode h src dst srcLen dstLen coding e flags layout miscoded) then .next s else
  .next (s.packet opBaleEncode h
    (fun s => [(s.badAddr src srcLen || s.badAddr dst dstLen || encodeBad (s.privileged h) srcLen coding e (layout % 2 ^ 24), .badParam),
               (!s.accepts .bale, .unitOff), (s.dmaFails src srcLen, .dmaError)])
    (fun pk s => s.submitJob (.encode pk src dst srcLen dstLen coding e flags (layout % 2 ^ 24) miscoded)))

/-- `BALE_VERIFY` (R137). -/
def execBaleVerify (h : Hdr) (src srcLen : Nat) (s : State) : Host.Outcome State Fault Refusal :=
  if !s.spells (.baleVerify h src srcLen) then .next s else
  .next (s.packet opBaleVerify h
    (fun s => [(s.badAddr src srcLen, .badParam), (!s.accepts .bale, .unitOff), (s.dmaFails src srcLen, .dmaError)])
    (fun pk s => s.submitJob (.verify pk src srcLen)))

/-- A handle can be named by a packet: held, and no `BALE_RESUME` running on it. -/
def State.handleHeld (s : State) (k : Nat) : Bool := decide (k < 32) && (s.handle k).held && !(s.handle k).busy

/-- `BALE_RESUME` (R132). -/
def execBaleResume (h : Hdr) (handle dst dstLen : Nat) (s : State) : Host.Outcome State Fault Refusal :=
  if !s.spells (.baleResume h handle dst dstLen) then .next s else
  .next (s.packet opBaleResume h
    (fun s => [(s.badAddr dst dstLen, .badParam), (!s.accepts .bale, .unitOff),
               (s.handleHeld handle && s.dmaFails (s.handle handle).addr (s.handle handle).remain, .dmaError),
               (!s.handleHeld handle, .badHandle)])
    (fun pk s => (s.setHandle handle { (s.handle handle) with busy := true }).submitJob (.resume pk handle dst dstLen)))

/-- `BALE_DISCARD`: the handle is released. -/
def execBaleDiscard (h : Hdr) (handle : Nat) (s : State) : Host.Outcome State Fault Refusal :=
  if !s.spells (.baleDiscard h handle) then .next s else
  .next (s.packet opBaleDiscard h
    (fun s => [(!s.accepts .bale, .unitOff), (!s.handleHeld handle, .badHandle)])
    (fun pk s => (s.setHandle handle {}).complete pk .ok []))

end Sys2Proof.Machine
end

