-- ==== Sys2Proof/Machine/Comp.lean ====
section
/-!
DEFINITION. The compositor (spec/04): loading layers and colour tables, submitting pages, composing rows into the silo, and copying
rows back.
-/

namespace Sys2Proof.Machine

/-! ## Loading layers -/

/-- The context is OPEN or RUNNING, as LAYER_SET, COLOUR_SET and PAGE_SUBMIT require (R90). -/
def Ctx.openOrRunning (c : Ctx) : Bool := decide (c.st = .open) || decide (c.st = .running)

/-- A change with when = 0 would make a ninth generation that queued pages still need (R151): a page needs its generation until its last
row is composed. -/
def Ctx.ninthGeneration (c : Ctx) : Bool :=
  let need := ((c.pages.filter fun p => decide (p.nextRow < p.length / c.lpr)).map Page.genId).filter (· ≠ 0)
  c.gen.isEmpty && decide (8 ≤ need.eraseDups.length)

/-- Take a change: with when = 0 into the generation that the next page takes, with when = 1 as pending, in place of an earlier one
for the same layer and table (R150, R152). -/
def Ctx.takeChange (c : Ctx) (when' : Nat) (ch : LayerChange) : Ctx :=
  if when' = 0 then { c with gen := c.gen ++ [ch] }
  else { c with pendLayers := c.pendLayers.filter (fun o => !(decide (o.layer = ch.layer) && decide (o.what = ch.what))) ++ [ch] }

/-- `LAYER_SET` (R146 to R152, R164, R167). -/
def execLayerSet (h : Hdr) (addr layer when' : Nat) (s : State) : Host.Outcome State Fault Refusal :=
  if !s.spells (.layerSet h addr layer when') then .next s else
  let c := s.ctx h.ctx
  if when' = 0 ∧ c.ninthGeneration then .next s
  else
    let desc := s.bytesAt addr 64
    let l : Layer := { desc := desc }
    let pal := decide (l.format = 2)
    let palBad := pal && s.badAddr l.palAddr 8192
    let usePal := pal && !palBad && !s.badAddr addr 64 && !s.poisonedAt addr 64
    .next (s.packetR opLayerSet h ((addr, 64) :: (if usePal then [(l.palAddr, 8192)] else []))
      (fun s =>
        [(s.badAddr addr 64 || decide (7 < layer) || decide (1 < when'), .badParam), (!c.openOrRunning, .ctxState),
         (!s.accepts .comp, .unitOff), (s.dmaFails addr 64 || (usePal && s.dmaFails l.palAddr 8192), .dmaError),
         (s.poisonedAt addr 64 || (usePal && s.poisonedAt l.palAddr 8192), .poisoned),
         (layerBad l c.cols c.colorants || palBad || c.pass || (usePal && paletteBad (s.bytesAt l.palAddr 8192)), .badLayer),
         (decide (layer = 7) && c.sealedL.isSome, .sealedLayer)])
      (fun pk s =>
        let ch : LayerChange := ⟨layer, 0, desc, if pal then s.bytesAt l.palAddr 8192 else []⟩
        (s.setCtx h.ctx ((s.ctx h.ctx).takeChange when' ch)).complete pk .ok []))

/-- `COLOUR_SET` (R148, R150 to R152, R163, R167). -/
def execColourSet (h : Hdr) (addr layer table when' : Nat) (s : State) : Host.Outcome State Fault Refusal :=
  if !s.spells (.colourSet h addr layer table when') then .next s else
  let c := s.ctx h.ctx
  if when' = 0 ∧ c.ninthGeneration then .next s
  else
    let len := if table = 0 then 160 else 65536
    let data := s.bytesAt addr len
    .next (s.packetR opColourSet h [(addr, len)]
      (fun s =>
        [(s.badAddr addr len || decide (7 < layer) || decide (1 < table) || decide (1 < when') ||
            (!s.dmaFails addr len && !s.poisonedAt addr len && (if table = 0 then matBad data else crvBad data)), .badParam),
         (!c.openOrRunning, .ctxState), (!s.accepts .comp, .unitOff), (s.dmaFails addr len, .dmaError),
         (s.poisonedAt addr len, .poisoned), (decide (layer = 7) && c.sealedL.isSome, .sealedLayer)])
      (fun pk s => (s.setCtx h.ctx ((s.ctx h.ctx).takeChange when' ⟨layer, table + 1, data, []⟩)).complete pk .ok []))

/-! ## Submitting a page -/

/-- Put a page behind the others, with the generation that waits for it, and place it (R142, R150). -/
def Ctx.addPage (c : Ctx) (p : Page) : Ctx :=
  let g := if c.gen.isEmpty then c.genId else c.genId + 1
  { c with nextId := c.nextId + 1, gen := [], genId := g, pages := c.pages ++ [{ p with id := c.nextId, gen := c.gen, genId := g }] }.place

/-- What a page that is not begun finds: the layers in force, the changes that wait for a boundary, and those made at boundaries. -/
def Ctx.nextLayers (c : Ctx) (a : List Layer × List LayerChange × List (Nat × List LayerChange)) (p : Page) :
    List Layer × List LayerChange × List (Nat × List LayerChange) :=
  let f := p.first.getD 0
  let done := (a.2.2.filter fun e => decide (e.1 ≤ f)).flatMap (·.2)
  let meets := p.first.isSome && (match c.boundaryBefore p with
    | some b => b.2 && c.undecided b.1
    | none => false)
  (applyLayers a.1 (done ++ (if meets then a.2.1 else []) ++ p.gen), if meets then [] else a.2.1, a.2.2.filter fun e => !decide (e.1 ≤ f))

/-- The layers that a page submitted now will have, as far as they are known: those in force, with the changes at the boundaries
before it, with every generation of the pages before it and its own (R150, R152). -/
def Ctx.layersFor (c : Ctx) (p : Page) : List Layer :=
  let c' := c.addPage p
  ((c'.pages.filter fun q => q.base.isNone).foldl c'.nextLayers (c.layers, c.pendLayers, c.agreed)).1

/-- A bale list entry of 32 bytes (R153). -/
def ListEntry.ofBytes (b : List Byte) : ListEntry :=
  ⟨fieldN b 0 8, fieldN b 8 4, fieldN b 12 2, fieldN b 14 1, fieldN b 15 1, fieldN b 16 4, fieldN b 20 4, fieldN b 24 8⟩

/-- A bale list. -/
def readList (bs : List Byte) (n : Nat) : List ListEntry := (chunks 32 n bs).map ListEntry.ofBytes

/-- The page row of an entry (R153). -/
def ListEntry.pageRow (e : ListEntry) (ls : List Layer) : Nat :=
  let l := ls.getD e.layer {}
  l.y0 + e.firstRow * l.scale

/-- The rows of a page that a layer's streams must cover (R154). -/
def Layer.streamRows (l : Layer) (pageRows : Nat) : Nat :=
  min l.height ((pageRows - l.y0 + l.scale - 1) / max 1 l.scale)

/-- The entries cover source rows 0 to `n` - 1 exactly once each and in ascending order, and no row beyond (DESIGN CHOICE: R154 does
not speak of rows from `n` on; assumption 299). -/
def covers (n : Nat) : List ListEntry → Nat → Bool
  | [], at' => decide (at' = n)
  | e :: r, at' => decide (e.firstRow = at') && covers n r (at' + e.rows)

/-- A list never falls. -/
def risesBy (f : ListEntry → Nat) : List ListEntry → Bool
  | a :: b :: r => decide (f a ≤ f b) && risesBy f (b :: r)
  | _ => true

/-- The streams that a list names, each once. -/
def streamsOf (es : List ListEntry) : List (Nat × Nat) := (es.map fun e => (e.layer, e.strip)).eraseDups

/-- A layer draws on its streams in a row of a page that its extent holds (R154, R164). -/
def Layer.inRow (l : Layer) (k : Nat) : Bool := decide (l.y0 ≤ k) && decide (k < l.y0 + l.height * l.scale)

/-- The checks of R154 on a page's list; `sl` is the sealed layer, if there is one. -/
def listBad (s : State) (ls : List Layer) (sl : Option SealedSt) (rows : Nat) (es : List ListEntry) : Bool :=
  let lay (e : ListEntry) : Layer := ls.getD e.layer {}
  es.any (fun e => decide (e.rsv1 ≠ 0) || decide (e.rsv2 ≠ 0) || !(lay e).on || decide ((lay e).strips ≤ e.strip) ||
    decide (e.rows = 0) || s.badAddr e.addr e.bytes || (decide (e.layer = 7) && sl.isSome)) ||
  !risesBy (fun e => e.pageRow ls) es ||
  (streamsOf es).any (fun st =>
    !covers ((ls.getD st.1 {}).streamRows rows) (es.filter fun e => decide ((e.layer, e.strip) = st)) 0) ||
  (let all := (streamsOf es).map (fun st => ls.getD st.1 {}) ++
      (match sl with | some x => (streamsOf x.list).map (fun _ => x.layer) | none => [])
   let all := all.filter fun l => decide (l.y0 + 1 < rows)
   all.any fun l => decide (l.y0 < rows) && decide (12 < (all.filter fun m => m.inRow l.y0).length))

/-- The checks of R211 and R212 on a pass-through page's list. -/
def passListBad (s : State) (c : Ctx) (length : Nat) (es : List ListEntry) : Bool :=
  es.any (fun e => decide (e.rsv1 ≠ 0) || decide (e.rsv2 ≠ 0) || decide (e.layer ≠ 0) || decide (32 ≤ e.strip) ||
    !c.lanes.testBit e.strip || decide (e.rows = 0) || s.badAddr e.addr e.bytes) ||
  (streamsOf es).any fun st => !covers length (es.filter fun e => decide (e.strip = st.2)) 0

/-- `PAGE_SUBMIT` (R142, R150, R154, R155, R212). -/
def execPageSubmit (h : Hdr) (list entries length headland number : Nat) (s : State) : Host.Outcome State Fault Refusal :=
  if !s.spells (.pageSubmit h list entries length headland number) then .next s else
  let c := s.ctx h.ctx
  let len := 32 * entries
  let es := readList (s.bytesAt list len) entries
  let page (pk : Pk) : Page :=
    { pk := pk, id := 0, number := number, length := length, headland := headland, gen := [], list := es, sealed := [],
      first := none, gap := 0, firstGlobal := 0, marks := 0, fired := 0, layers := none, nextRow := 0, failed := [],
      failedPoison := [], decoded := [], done := false }
  .next (s.packetR opPageSubmit h [(list, len)]
    (fun s =>
      let good := c.openOrRunning && !s.badAddr list len && !s.dmaFails list len && !s.poisonedAt list len
      [(s.badAddr list len || decide (length = 0) || decide (length % c.lpr ≠ 0) || decide (headland % c.lpr ≠ 0) ||
          (good && (if c.pass then passListBad s c length es else listBad s (c.layersFor (page ⟨h, opPageSubmit.op, s.pkEpoch⟩)) c.sealedL (length / c.lpr) es)), .badParam),
       (!c.openOrRunning, .ctxState), (!s.accepts .comp, .unitOff), (s.dmaFails list len, .dmaError),
       (s.poisonedAt list len, .poisoned), (decide (1024 ≤ c.pages.length), .noResource)])
    (fun pk s =>
      s.setCtx h.ctx ((s.ctx h.ctx).addPage (page pk))))

/-! ## Composing a row -/

/-- The entries on which a page row draws, with their index in the page's list (R154, R155). -/
def Page.rowEntries (p : Page) (ls : List Layer) (k : Nat) : List (Nat × ListEntry) :=
  (p.entries.zipIdx.filterMap fun e =>
    let l := ls.getD e.1.layer {}
    let src := (k - l.y0) / max 1 l.scale
    if l.on && l.inRow k && decide (e.1.firstRow ≤ src) && decide (src < e.1.firstRow + e.1.rows) then some (e.2, e.1) else none)

/-- Alpha and value that a layer gives at one composed pixel; alpha 0 outside its extent and over a stream with no entry (R155,
R160). -/
def layerAt (p : Page) (l : Layer) (li k x j : Nat) (row : List (Nat × ListEntry)) : Nat × Nat :=
  if !l.on || !l.inRow k || decide (x < l.x0) || decide (l.x0 + l.width * l.scale ≤ x) then (0, 0)
  else
    let sx := (x - l.x0) / l.scale
    let strip := sx / l.stripW
    match row.find? fun e => decide (e.2.layer = li) && decide (e.2.strip = strip) with
    | none => (0, 0)
    | some e =>
      let src := (k - l.y0) / l.scale - e.2.firstRow
      let px := l.channels * l.sampleBytes
      let off := (src * l.stripWidth strip + sx % l.stripW) * px
      layerPixel l (((tget [] p.decoded e.1).drop off).take px) j

/-- The composed 12-bit values of a page row, colorant by colorant (R165). -/
def composeValues (c : Ctx) (p : Page) (ls : List Layer) (k : Nat) : List Nat :=
  let row := p.rowEntries ls k
  (List.range c.colorants).flatMap fun j =>
    (List.range c.cols).map fun x =>
      ls.zipIdx.foldl (fun d l => let a := layerAt p l.1 l.2 k x j row; blend a.1 a.2 d) 0

/-- Where a row, a quarter-scale row and a tag stand in the silo (R172). -/
def Ctx.fullAddr (c : Ctx) (r : Nat) : Nat := dramAddr c.silo + r % max 1 c.depth * c.rowSize
def Ctx.qsAddr (c : Ctx) (q : Nat) : Nat := dramAddr c.silo + c.depth * c.rowSize + q % max 1 (c.depth / 4) * c.rowSize
def Ctx.tagAddr (c : Ctx) (r : Nat) : Nat :=
  dramAddr c.silo + c.depth * c.rowSize + c.depth / 4 * c.rowSize + r % max 1 c.depth * 8

/-- The stored bytes of a row of 12-bit values (R169). -/
def Ctx.rowBytes (c : Ctx) (vs : List Nat) : List Byte := vs.flatMap fun v => leBytes c.sampleSize (siloForm c.silo16 v)

/-- A row tag (R173): row number, `BLANK`, `EMPTY`. -/
def tagBytes (r : Nat) (blank empty : Bool) : List Byte := leBytes 8 (r % 2 ^ 32 + b2n blank * 2 ^ 32 + b2n empty * 2 ^ 33)

/-- A tag as it stands in the silo. -/
def State.tagAt (s : State) (c : Ctx) (r : Nat) : Nat := leNat (s.dramRead (c.tagAddr r) 8)

/-- Add a row to the quarter-scale row in progress, and write that when the row is its last or its page's last (R175). -/
def State.quarterRow (s : State) (ctx r : Nat) (vs : List Nat) (last : Bool) : State :=
  let c := s.ctx ctx
  if c.qsOff then s
  else
    let fresh := decide (c.qsN = 0) || decide (c.qsRow ≠ r / 4)
    let sum := if fresh then vs else (c.qsSum.zip vs).map fun v => v.1 + v.2
    let n := if fresh then 1 else c.qsN + 1
    let s := s.setCtx ctx { c with qsRow := r / 4, qsN := n, qsSum := sum }
    if r % 4 = 3 ∨ last then s.dramWrite 4 (c.qsAddr (r / 4)) (c.rowBytes (sum.map fun v => (v + n / 2) / n)) else s

/-- Free the threshers whose bale's last row the compositor has taken (R156), and forget what they decoded. -/
def State.freeHolders (s : State) (ctx : Nat) (p : Page) (ls : List Layer) (k : Nat) (last : Bool) : State :=
  let ended (e : ListEntry) : Bool :=
    let l := ls.getD e.layer {}
    last || decide (l.y0 + (e.firstRow + e.rows) * l.scale ≤ k + 1)
  let gone := (p.entries.zipIdx.filter fun e => ended e.1).map (·.2)
  let s := { s with holders := s.holders.filter fun e =>
    match e.2 with
    | some x => !(decide (x.ctx = ctx) && decide (x.page = p.id) && gone.contains x.entry)
    | none => true }
  let c := s.ctx ctx
  s.setCtx ctx { c with pages := c.pages.map fun q =>
    if q.id = p.id then { q with decoded := q.decoded.filter fun d => !gone.contains d.1 } else q }

/-- The page whose row comes next: the first with a row not composed. -/
def Ctx.nextPage (c : Ctx) : Option Page := c.pages.find? fun p => decide (p.nextRow < p.length / c.lpr)

/-- The pacing of R177: row r is composed once row r − `AHEAD` is due at the context's current line under R178, or in a context that is
OPEN when r is below `AHEAD`; a write-back-only context is not paced (R179). -/
def State.paceOk (s : State) (c : Ctx) (r : Nat) : Bool :=
  c.wbOnly || (if c.st = .open then decide (r < c.ahead) else decide (r ≤ c.ahead + (c.curLine + s.fireLead + 4) / c.lpr))

/-- COMP composes for a context: it is neither faulted nor under test, and the context prints, or is OPEN while COMP accepts work. -/
def State.composes (s : State) (c : Ctx) : Bool :=
  !c.pass && decide (s.mode .comp ≠ .faulted) && decide (s.mode .comp ≠ .testing) &&
  (c.live || (decide (c.st = .open) && s.accepts .comp))

/-- Write a composed row with its tag, and count it (R158, R169, R172, R173, R175); `poison` says that a poisoned bale blanked it. -/
def State.writeRow (s : State) (ctx : Nat) (p : Page) (ls : List Layer) (f : Nat) (blank poison : Bool) : State :=
  let c := s.ctx ctx
  let k := p.nextRow
  let r := f / c.lpr + k
  let last := decide (k + 1 = p.length / c.lpr)
  let vs := if blank then List.replicate (c.colorants * c.cols) 0 else composeValues c p ls k
  let s := s.dramWrite 4 (c.fullAddr r) (c.rowBytes vs)
  let s := s.quarterRow ctx r vs last
  let s := s.dramWrite 4 (c.tagAddr r) (tagBytes r blank false)
  let top := s.rd (R.COMP_CTX_ROW_ROW ctx)
  let s := s.wr (R.COMP_CTX_ROW_ROW ctx) (if top = 0xFFFFFFFF then r else max top r)
  let s := s.count R.COMP_ROWS_COUNT R.COMP_OVF_ROWS_OVF .comp 1
  let s := if blank then
      ((s.count R.COMP_BLANK_COUNT R.COMP_OVF_BLANK_OVF .comp 1).count (R.COMP_CTX_BLANK_COUNT ctx) (R.COMP_CTX_BLANK_BLANK_OVF ctx)
        .comp 1).raise .comp 16
    else s
  let c := s.ctx ctx
  let s := s.setCtx ctx { c with pages := c.pages.map fun q =>
    if q.id = p.id then (if blank then { q with nextRow := k + 1 }.mark markPoison else { q with nextRow := k + 1 }) else q }
  let s := if poison then s.setCtx ctx { (s.ctx ctx) with poisonRows := (s.ctx ctx).poisonRows ++ [r] } else s
  let s := s.freeHolders ctx p ls k last
  if c.wbOnly && last then
    match (s.ctx ctx).pages.find? fun q => decide (q.id = p.id) with
    | none => s
    | some q =>
      let s := s.completePage ctx q .ok q.marks
      if (s.ctx ctx).st = .stopping then s.endContext ctx false .open else s
  else s

/-- Compose the next row of a context, or ask for the gang of threshers that it needs (R156, R177). -/
def State.composeRow (s : State) (ctx : Nat) : State :=
  let c := s.ctx ctx
  if !s.composes c || (c.wbOnly && s.stalled) then s
  else
    match c.nextPage with
    | none => s
    | some p =>
      match p.first with
      | none => s
      | some f =>
        if !s.paceOk c (f / c.lpr + p.nextRow) || (c.wbOnly && p.layers.isNone && s.unitHeld c) then s
        else
          let s := if p.layers.isNone then s.beginPage ctx p else s
          match (s.ctx ctx).pages.find? fun q => decide (q.id = p.id) with
          | none => s
          | some p =>
            let ls := p.layers.getD []
            let need := p.rowEntries ls p.nextRow
            let wait := need.filter fun e =>
              !p.failed.contains e.1 && !s.holders.any fun x => decide (x.2 = some ⟨ctx, p.id, e.1⟩)
            if wait.isEmpty then s.writeRow ctx p ls f (need.any fun e => p.failed.contains e.1) (need.any fun e => p.failedPoison.contains e.1)
            else
              let g : Gang := ⟨ctx, p.id, f / c.lpr + p.nextRow, wait.map (·.1)⟩
              if s.gangs.contains g then s else { s with gangs := s.gangs ++ [g] }

/-- `COMPOSE_ROW` (R177): the compositor takes its next step for a context. -/
def execComposeRow (ctx : Nat) (s : State) : Host.Outcome State Fault Refusal :=
  if !s.clocked then .next s else
  .next (s.composeRow ctx)

/-! ## Copying rows back -/

/-- A per-context line is owned by a page, present or past, whose place is known (R86). -/
def Ctx.pageLine (c : Ctx) (l : Nat) : Bool :=
  (c.pageOf l).isSome || c.spans.any fun p => decide (p.1 ≤ l) && decide (l < p.1 + p.2)

/-- A per-context line lies in a headland whose place is known (R86). -/
def Ctx.headlandLine (c : Ctx) (l : Nat) : Bool := decide (l < max c.headEnd c.horizon) && !c.pageLine l

/-- Status and data of one row of a copy (R176), and whether anything of it arrived poisoned. -/
def State.copyRow (s : State) (c : Ctx) (quarter : Bool) (n : Nat) : Nat × List Byte × Bool :=
  let zeros := List.replicate c.rowSize (0#8 : Byte)
  let src : Option Nat :=
    if quarter then
      match ((List.range 4).map (4 * n + 3 - ·)).find? fun r => c.pageLine (r * c.lpr) with
      | some r => some r
      | none => if (List.range 4).all fun i => c.headlandLine ((4 * n + i) * c.lpr) then none else some (4 * n + 3)
    else if c.headlandLine (n * c.lpr) then none else some n
  match src with
  | none => (4, zeros, false)
  | some r =>
    let tag := s.tagAt c r
    let row := tag % 2 ^ 32
    let bad := s.dramBad (c.tagAddr r) 8
    if bit tag 33 || decide (row < r % 2 ^ 32) then (2, zeros, bad)
    else if r % 2 ^ 32 < row then (3, zeros, bad)
    else
      let a := if quarter then c.qsAddr n else c.fullAddr r
      (if bit tag 32 then 1 else 0, s.dramRead a c.rowSize, bad || s.dramBad a c.rowSize)

/-- `SILO_COPY` (R176, R418). -/
def execSiloCopy (h : Hdr) (first lines dst flags : Nat) (s : State) : Host.Outcome State Fault Refusal :=
  if !s.spells (.siloCopy h first lines dst flags) then .next s else
  let c := s.ctx h.ctx
  let quarter := bit flags 0
  let unit := if quarter then 4 * c.lpr else c.lpr
  let lo := first / unit
  let n := (first + lines - 1) / unit + 1 - lo
  let len := n * (16 + c.rowSize)
  if s.stalled then .next s
  else .next (s.packet opSiloCopy h
    (fun s =>
      [(decide (lines = 0) ||
          (decide (c.st ≠ .closed) &&
            (decide ((if quarter then c.depth / 4 else c.depth) < n) || (quarter && c.qsOff) || s.badAddr dst len)), .badParam),
       (decide (c.st = .closed), .ctxState), (!s.accepts .comp, .unitOff)])
    (fun pk s =>
      let rows := (List.range n).map fun i => (lo + i, s.copyRow c quarter (lo + i))
      let s := rows.foldl (fun s r =>
        let a := if quarter then c.qsAddr r.1 else c.fullAddr r.1
        (s.noteRead 4 (c.tagAddr (if quarter then 4 * r.1 + 3 else r.1)) 8).noteRead 4 a c.rowSize) s
      let s := rows.zipIdx.foldl (fun s r =>
        let bytes := leBytes 4 r.1.1 ++ leBytes 1 r.1.2.1 ++ leBytes 11 0 ++ r.1.2.2.1
        let at' := dst + r.2 * (16 + c.rowSize)
        if r.1.2.2.2 then s.writePoisoned 4 at' bytes else s.writeAt 4 at' bytes) s
      match rows.find? fun r => r.2.2.2 with
      | some r => (s.usePoison 4 (2 ^ 63 + c.fullAddr r.1) c.rowSize).complete pk .poisoned [len]
      | none => s.complete pk .ok [len]))

end Sys2Proof.Machine
end

