-- ==== Sys2Proof/Machine/YokeCore.lean ====
section
/-!
DEFINITION. What the raster path asks of the yoke (spec/12): swath CRCs and their comparison (R508 to R510), step tokens (R507), and the
start of a quick check.
-/

namespace Sys2Proof.Machine

/-- The device is paired and compares: its partner holds the complementary role and is not down (R506). -/
def State.compares (s : State) : Bool :=
  s.flag R.YOKE_STATE_PAIRED && !s.flag R.YOKE_STATE_PARTNER_DOWN && decide (s.rd R.YOKE_STATE_ROLE ≠ 0)

/-- The primary's role. -/
def State.primary (s : State) : Bool := decide (s.rd R.YOKE_STATE_ROLE = 1)

/-- The key of a swath of a lane. -/
def crcKey (lane line : Nat) : Nat := lane * 2 ^ 32 + line % 2 ^ 32

/-- A mismatch (R510): counted, and when neither swath had `MARKED`, a quick check of the lane unless one is in progress. -/
def State.mismatch (s : State) (ctx lane line : Nat) (localMarked peerMarked : Bool) : State :=
  let s := (((s.wrB R.YOKE_LAST_MISMATCH_PARTNER_MARKED peerMarked).wrB R.YOKE_LAST_MISMATCH_LOCAL_MARKED localMarked).wr
    R.YOKE_LAST_MISMATCH_LANE lane).wr R.YOKE_LAST_MISMATCH_LINE ((s.ctx ctx).global0 + line)
  let s := (s.count R.YOKE_MISMATCH_COUNT R.YOKE_OVF_MISMATCH_OVF .yoke 1).raise .yoke 16
  if localMarked || peerMarked || s.check.isSome then s
  else
    let s := { (s.wr R.YOKE_STATE_CHECKING 1) with check := some { ctx := ctx, line := line, lane := lane } }
    s.sendYoke 0xF0 [0, 0, line, lane]

/-- Compare the two CRCs of a swath when both are there (R509, R514). -/
def State.compareCrc (s : State) (ctx lane line : Nat) : State :=
  let k := crcKey lane line
  match tget none s.ownCrcs k, tget none s.peerCrcs k with
  | some a, some b =>
    if !s.compares || ((s.contentLines (s.ctx ctx) lane line).any fun l => decide (l < tget 0 s.compareFrom ctx)) || (s.standby && (s.rd R.YOKE_LANES_OWNED).testBit lane) then s
    else if a.crc = b.crc then s
    else s.mismatch ctx lane line a.marked b.marked
  | _, _ => s

/-- A swath is sent, or would be sent by the owner of its lane (R508, R509): its CRC goes to the partner and is compared. -/
def State.noteCrc (s : State) (ctx lane line : Nat) (c : CrcNote) : State :=
  if !s.flag R.YOKE_STATE_PAIRED then s
  else
    let s := { s with ownCrcs := tset none s.ownCrcs (crcKey lane line) (some c) }
    (s.sendYoke 0x96 [lane, b2n c.marked, line, c.crc]).compareCrc ctx lane line

/-- A line has fired: a CRC of the partner that has not arrived by then counts as missing (R509). -/
def State.crcDue (s : State) (lane line : Nat) : State :=
  let k := crcKey lane line
  let missing := s.compares && (tget none s.ownCrcs k).isSome && (tget none s.peerCrcs k).isNone
  let s := { s with ownCrcs := tset none s.ownCrcs k none, peerCrcs := tset none s.peerCrcs k none }
  if missing then s.count R.YOKE_MISSING_CRCS R.YOKE_OVF_CRCS_OVF .yoke 1 else s

/-- A step is lost (R507): counted, and a mismatch on every lane of the context. -/
def State.stepLost (s : State) (ctx line : Nat) : State :=
  let s := s.count R.YOKE_MISSING_TOKENS R.YOKE_OVF_TOKENS_OVF .yoke 1
  (s.ctx ctx).laneList.foldl (fun (s : State) l => s.mismatch ctx l line false false) s

/-- `STEP_TOL` in 1/16 ns. -/
def State.stepTol (s : State) : Nat := 16000 * max 1 (s.rd R.YOKE_CFG_STEP_TOL)

/-- A tick and a token of one line meet (R507). -/
def State.meet (s : State) (ctx line a b : Nat) : State := if s.stepTol < max a b - min a b then s.stepLost ctx line else s

/-- The tick of a context line on the primary sends a `TOKEN`; on the standby it is noted until the primary's token comes (R507). -/
def State.tokenTick (s : State) (ctx line global : Nat) : State :=
  if !s.flag R.YOKE_STATE_PAIRED then s
  else if s.primary then s.sendYoke 0x87 [ctx, line, global]
  else if s.standby then
    match s.tokens.find? fun x => decide (x.1 = ctx) && decide (x.2.1 = line) with
    | some x => State.meet { s with tokens := s.tokens.filter fun y => decide (y ≠ x) } ctx line s.now x.2.2
    | none => { s with ticks := s.ticks ++ [(ctx, line, s.now)] }
  else s

end Sys2Proof.Machine
end

