-- ==== Sys2Proof/Machine/HeadOut.lean ====
section
/-!
DEFINITION. What stands in the blocks of a head lane (R240, R241, R244), when a lane carries traffic at all (R255, R265, R268, R269), and
what reaches a hub in time (R253, R254).
-/

namespace Sys2Proof.Machine

/-- Head lane `n`. -/
def headLane (n : Nat) : LaneId := .head (Fin.ofNat 32 n)

/-- The training state of a lane, `LSTATE`. -/
def State.lstate (s : State) (l : LaneId) : Nat := s.rd (R.LANE_STATUS_LSTATE l.node.base)

/-- The epoch of a head lane (R262). -/
def State.epoch (s : State) (lane : Nat) : Nat := s.rd (R.HL_EPOCH_EPOCH lane)

/-- The lane is UP and carries traffic (R255, R265, R268). -/
def State.carries (s : State) (lane : Nat) : Bool :=
  decide (s.lstate (headLane lane) = 5) && (s.head lane).carrying && !(s.head lane).epochLost &&
  decide (s.mode (headLane lane).node ≠ .faulted)

/-- This device drives the lane: it owns it (R500) and is not fenced (R511). -/
def State.ownsLane (s : State) (lane : Nat) : Bool := (s.rd R.YOKE_LANES_OWNED).testBit lane && !s.flag R.YOKE_STATE_FENCED

/-- Blocks of a swath or a map update may leave on the lane. -/
def State.drives (s : State) (lane : Nat) : Bool := s.ownsLane lane && s.carries lane

/-- The time that `k` block slots take on a lane, in 1/16 ns, rounded up (R638). -/
def State.slotTime (s : State) (lane k : Nat) : Nat :=
  if s.rd (R.LANE_STATUS_RATE_NOW (headLane lane).node.base) = 1 then (k * 4096 + 99) / 100 else (k * 1024 + 9) / 10

/-- A data word: payload, tag in bits 62 to 60, even parity in bit 63 (R240). -/
def dataWord (k payload : Nat) : Nat :=
  let w := payload % 2 ^ 60 + k % 8 * 2 ^ 60
  w + popc 63 w % 2 * 2 ^ 63

/-- The blocks of R241 that the device sends. -/
def headBlock (global epoch : Nat) : Nat := 0x78 + global % 2 ^ 32 * 2 ^ 16 + epoch * 2 ^ 48
def fireBlock (group global offset epoch : Nat) : Nat :=
  0x78 + 2 ^ 8 + group * 2 ^ 11 + global % 4096 * 2 ^ 16 + offset % 2 ^ 20 * 2 ^ 28 + epoch * 2 ^ 48
def resumeBlock (map : Bool) (global word epoch : Nat) : Nat :=
  0x78 + 2 * 2 ^ 8 + b2n map * 2 ^ 11 + global % 65536 * 2 ^ 16 + word % 4096 * 2 ^ 32 + epoch * 2 ^ 48
def mapBlock (first global epoch : Nat) : Nat := 0x78 + 3 * 2 ^ 8 + first % 4096 * 2 ^ 12 + global % 65536 * 2 ^ 24 + epoch * 2 ^ 48
def configBlock (active b global epoch : Nat) : Nat :=
  0x78 + 4 * 2 ^ 8 + (active - 1) * 2 ^ 12 + b * 2 ^ 27 + global % 65536 * 2 ^ 32 + epoch * 2 ^ 48
def tempBlock (head : Nat) (disable : Bool) (vstep global epoch : Nat) : Nat :=
  0x33 + head * 2 ^ 8 + b2n disable * 2 ^ 14 + vstep % 256 * 2 ^ 16 + global % 65536 * 2 ^ 32 + epoch * 2 ^ 48
def pingBlock (aseq : Nat) : Nat := 0x4B + 2 ^ 8 + aseq % 65536 * 2 ^ 16
/-- A `TRAIN` block of the device: `CAP_25` and `CAP_10` at 1. -/
def trainBlock (msg req ack rseq aseq rate : Nat) : Nat :=
  0x2D + msg * 2 ^ 8 + req * 2 ^ 12 + ack * 2 ^ 18 + rseq % 256 * 2 ^ 24 + aseq % 256 * 2 ^ 32 + rate * 2 ^ 40 + 2 ^ 41 + 2 ^ 42

/-- Send a control block, or a data word, on a head lane. -/
def State.sendCtl (s : State) (lane body : Nat) : State := s.put (.block (headLane lane) false body)
def State.sendWord (s : State) (lane k payload : Nat) : State := s.put (.block (headLane lane) true (dataWord k payload))

/-! ## The cut-off of a line -/

/-- The fire time committed by a group for a line of its context, if it is committed and has not fired. -/
def State.dueOf (s : State) (g line : Nat) : Option Nat :=
  ((s.syn g).due.find? fun d => decide (d.1 = line)).map fun d => d.2.2

/-- The groups of a context that fire nozzles of a line on a lane. -/
def State.laneFireGroups (s : State) (ctx lane line : Nat) : List Nat :=
  (s.ctx ctx).groupList.filter fun g => (s.groupsAt lane line).testBit g

/-- The cut-off of a line on a lane (R253): 500 ns before the earliest fire instant that is committed. -/
def State.cutoff (s : State) (ctx lane line : Nat) : Option Nat :=
  match (s.laneFireGroups ctx lane line).filterMap fun g => s.dueOf g line with
  | [] => none
  | t :: ts => some (ts.foldl min t - 8000)

/-- A block whose last bit leaves at `t` reaches the hub by the cut-off of the line; none does once the line has fired. -/
def State.inTime (s : State) (ctx lane line t : Nat) : Bool :=
  match s.cutoff ctx lane line with
  | none => decide ((s.ctx ctx).firedLines ≤ line)
  | some c => decide (t + s.rd (R.HL_LAT_LAT lane) ≤ c)

/-- Content lines of the nozzles of a word of a lane at a line (R187, R254). -/
def State.wordLines (s : State) (c : Ctx) (lane line k : Nat) : List Nat :=
  if c.pass then [line]
  else
    let n := sheaf c.b
    ((s.laneNozzlesAt lane line).filterMap fun e =>
      if e.1 / n ≠ k ∨ nmDisabled e.2 ∨ line < nmOffset e.2 then none else some (line - nmOffset e.2)).eraseDups

/-- Words that are not sent (R254): counted, reported, and their pages marked. -/
def State.lateWords (s : State) (ctx lane line : Nat) (ks : List Nat) : State :=
  if ks.isEmpty then s
  else
    let s := (s.count (R.HL_LATE_COUNT lane) (R.HL_OVF_LATE_OVF lane) .hlnk ks.length).raise .hlnk 16
    (ks.flatMap (s.wordLines (s.ctx ctx) lane line)).eraseDups.foldl (fun s l => s.markLine ctx l markUnderrun) s

/-! ## Swaths -/

/-- The words of a line of the loft. -/
def HlRt.line (h : HlRt) (n : Nat) : Option LoftLine :=
  match tget none h.loft (n % 16) with
  | some l => if l.line = n then some l else none
  | none => none

/-- The CRC-32C of a swath as sent (R508). -/
def swathCrc (words : List Nat) : Nat := crc32c (words.zipIdx.flatMap fun w => leBytes 8 (dataWord w.2 w.1))

/-! ## Heads -/

/-- Positions per head (`HEAD_WIDTH`). -/
def State.headWidth (s : State) (lane : Nat) : Nat :=
  let w := s.rd (R.HEAD_CFG_HEAD_WIDTH lane)
  if w = 0 then 32768 else min 32768 w

/-- `VSTEP` and `DISABLE` in force for a head at a global line (R271, R556). -/
def HlRt.orderAt (h : HlRt) (head global : Nat) : Nat × Bool :=
  if global < tget 0 h.orderFrom head then tget (0, false) h.orderWas head else (tget 0 h.vstep head, tget false h.disabled head)

/-- Add what words of a swath fire to the tally accumulators of a lane (R557). -/
def State.addTally (s : State) (lane b global : Nat) (ws : List (Nat × Nat)) : State :=
  let h := s.head lane
  let n := sheaf b
  let w := s.headWidth lane
  let act := s.active lane
  let lv := ws.flatMap fun x => (unpackWord b n x.1).zipIdx.map fun v => (x.2 * n + v.2, v.1)
  let t := lv.foldl (fun (t : Tbl Nat) (e : Nat × Nat) =>
    if e.2 = 0 ∨ act ≤ e.1 ∨ (h.orderAt (e.1 / w) global).2 then t else tset 0 t e.1 (min 65535 (tget 0 t e.1 + e.2))) h.tally
  s.setHead lane { h with tally := t }

end Sys2Proof.Machine
end

