-- ==== Sys2Proof/Machine/Tx.lean ====
section
/-!
DEFINITION. The transmitter of an UP head lane, block slot by block slot (R228, R242 to R246, R250, R254, R638 to R640).  Instants of the
grid are counted in 1/1600 ns, of which a slot takes 4,096 at 25.78125 Gbaud and 10,240 at 10.3125 Gbaud.
-/

namespace Sys2Proof.Machine

/-! ## The grid -/

/-- A block slot of a lane (R638). -/
def State.slotU (s : State) (lane : Nat) : Nat := if s.rd (R.LANE_STATUS_RATE_NOW (headLane lane).node.base) = 1 then 4096 else 10240

/-- The boundary at which the next slot of a lane begins. -/
def State.txAt (s : State) (lane : Nat) : Nat := (s.head lane).phase + (s.head lane).slot * s.slotU lane

/-- How many slots from the next on begin before an instant. -/
def State.slotsTo (s : State) (lane u : Nat) : Nat := (u - s.txAt lane + s.slotU lane - 1) / s.slotU lane

/-- The grid from now on, with a phase that the spec leaves open (R638). -/
def State.startGrid (s : State) (lane : Nat) : State :=
  let d := s.draw
  let s := d.2
  let u := s.slotU lane
  let p := Config.free .lanePhase d.1 % u
  s.setHead lane { (s.head lane) with phase := p, slot := (100 * s.now - p + u - 1) / u, sinceIdle := 0, sinceAlign := 0 }

/-- Blocks have left in the next `n` slots, none of them `IDLE` or `ALIGN`. -/
def State.useSlots (s : State) (lane n : Nat) : State :=
  let h := s.head lane
  s.setHead lane { h with slot := h.slot + n, sinceIdle := h.sinceIdle + n, sinceAlign := h.sinceAlign + n }

/-- An `ALIGN` block falls due at the latest after so many blocks, an `IDLE` or `ALIGN` block after so many (R228); the difference to 16,384
and 1,024 leaves room for the FIRE and `TEMP` blocks that go before them (R246). -/
def alignEvery : Nat := 16320
def idleEvery : Nat := 960

/-- `n` blocks that carry nothing: `IDLE`, and every `alignEvery`-th block since the last `ALIGN` an `ALIGN` (R228, R246). -/
def State.txIdle (s : State) (lane n : Nat) : State :=
  let h := s.head lane
  let a := min h.sinceAlign (alignEvery - 1)
  (s.put (.idle (headLane lane) n a)).setHead lane { h with slot := h.slot + n, sinceIdle := 0, sinceAlign := (a + n) % alignEvery }

/-- A ping leaves in the next slot (R257): its departure is the slot's boundary, to the nearest 1/16 ns. -/
def State.txPing (s : State) (lane : Nat) (pk : Option Nat) : State :=
  let at' := s.txAt lane
  let h := s.head lane
  let a := (h.aseq + 1) % 65536
  (s.setHead lane { h with aseq := a, pings := tset none h.pings a (some ((at' + 50) / 100, pk)), slot := h.slot + 1, sinceIdle := 0,
                           sinceAlign := 0 }).sendCtl lane (pingBlock a)

/-! ## Fire blocks -/

/-- Content lines that a group fires on a lane for a line, in the map in force for that line (R187, R639). -/
def State.groupLines (s : State) (c : Ctx) (lane g line : Nat) : List Nat :=
  if c.pass then [line]
  else ((s.laneNozzlesAt lane line).filterMap fun e =>
    if nmDisabled e.2 ∨ nmRowGroup e.2 ≠ g ∨ line < nmOffset e.2 then none else some (line - nmOffset e.2)).eraseDups

/-- Mark the pages of the content lines that a planned FIRE block fires. -/
def State.markPlan (s : State) (lane : Nat) (p : FirePlan) (m : Nat) : State :=
  (s.groupLines (s.ctx p.ctx) lane p.group p.line).foldl (fun s l => s.markLine p.ctx l m) s

/-- Mark the pages whose content a group fires on a lane with heads that run at a reduced volume or are disabled (R556). -/
def State.markHeads (s : State) (lane g : Nat) (p : FirePlan) : State :=
  let h := s.head lane
  if h.vstep.isEmpty && h.disabled.isEmpty && h.orderWas.isEmpty then s
  else
    let c := s.ctx p.ctx
    let w := s.headWidth lane
    let ns := (s.laneNozzlesAt lane p.line).filter fun e =>
      !nmDisabled e.2 && decide (nmRowGroup e.2 = g) && (c.pass || decide (nmOffset e.2 ≤ p.line))
    let lines (q : Nat × Bool → Bool) : List Nat :=
      ((ns.filter fun e => q (h.orderAt (e.1 / w) p.global)).map fun e => if c.pass then p.line else p.line - nmOffset e.2).eraseDups
    let s := (lines fun o => decide (0 < o.1)).foldl (fun (s : State) l => s.markLine p.ctx l markHeadTemp) s
    (lines fun o => o.2).foldl (fun (s : State) l => s.markLine p.ctx l markHeadOff) s

/-- The planned departure of a FIRE block (R245), in 1/1600 ns. -/
def State.planAt (s : State) (lane : Nat) (p : FirePlan) : Nat := 100 * p.t - (100 * s.rd (R.HL_LAT_LAT lane) + 1600 * s.fireAdv)

/-- The FIRE block whose planned departure comes first. -/
def State.nextPlan (s : State) (lane : Nat) : Option FirePlan :=
  (s.head lane).plans.foldl (fun a p => match a with
    | none => some p
    | some q => if s.planAt lane p < s.planAt lane q then some p else some q) none

/-- A lane without a plan. -/
def State.dropPlan (s : State) (lane : Nat) (p : FirePlan) : State :=
  s.setHead lane { (s.head lane) with plans := (s.head lane).plans.filter fun q => decide (q ≠ p) }

/-- A FIRE block is due at the boundary `at'`: it leaves there (R245), but not if it would arrive after the fire time (R639), nor on a lane
that this device does not drive; on a lane that does not carry traffic its pages are marked (R268). -/
def State.txFire (s : State) (lane : Nat) (p : FirePlan) (at' : Nat) : State :=
  let lat := s.rd (R.HL_LAT_LAT lane)
  let s := s.dropPlan lane p
  let h := s.head lane
  if !s.ownsLane lane then
    (if s.standby then s.setHead lane { h with skipped := ((p.line, p.t - (lat + 16 * s.fireAdv)) :: h.skipped).take 64 } else s)
  else if !s.carries lane then s.markPlan lane p markLaneDown
  else if 100 * p.t < at' + 100 * lat then s.markPlan lane p markUnderrun
  else
    let s := s.setHead lane { h with fireNext := max h.fireNext (p.global + 1) }
    ((s.markHeads lane p.group p).sendCtl lane (fireBlock p.group p.global ((100 * (p.t - lat) - at' + 50) / 100) (s.epoch lane))).useSlots lane 1

/-! ## Orders to heads -/

/-- The first global line whose FIRE block has not left on a lane (R271). -/
def State.orderLine (s : State) (lane : Nat) : Nat :=
  let h := s.head lane
  match (h.plans.map FirePlan.global).filter fun g => decide (h.fireNext ≤ g) with
  | [] => max h.fireNext s.globalLine
  | g :: gs => gs.foldl min g

/-- `TEMP` may leave on a lane: it is UP and this device's, its node is not FAULTED (R255), and the hub follows no higher epoch (R265). -/
def State.ordersGo (s : State) (lane : Nat) : Bool :=
  s.ownsLane lane && decide (s.lstate (headLane lane) = 5) && !(s.head lane).epochLost && decide (s.mode (headLane lane).node ≠ .faulted)

/-- An order to a head leaves (R271): it holds from the first line whose FIRE block has not left. -/
def State.txOrder (s : State) (lane head : Nat) : State :=
  let g := s.orderLine lane
  let h := s.head lane
  let h := { h with orders := h.orders.drop 1, orderFrom := tset 0 h.orderFrom head g }
  ((s.setHead lane h).sendCtl lane (tempBlock head (tget false h.disabled head) (tget 0 h.vstep head) g (s.epoch lane))).useSlots lane 1

/-! ## Words and the cut-off -/

/-- How many blocks from the boundary `at'` on reach the hub by the cut-off of a line (R253, R254). -/
def State.fits (s : State) (ctx lane line at' : Nat) : Nat :=
  match s.cutoff ctx lane line with
  | none => if (s.ctx ctx).firedLines ≤ line then 65536 else 0
  | some c => (100 * c - 100 * s.rd (R.HL_LAT_LAT lane) - at') / s.slotU lane

/-- Mark the pages of the content lines that positions of a lane fire at a line. -/
def State.markPositions (s : State) (ctx lane line lo n m : Nat) : State :=
  if n = 0 then s
  else if (s.ctx ctx).pass then s.markLine ctx line m
  else
    (((s.laneNozzlesAt lane line).filterMap fun e =>
      if e.1 < lo ∨ lo + n ≤ e.1 ∨ nmDisabled e.2 ∨ line < nmOffset e.2 then none else some (line - nmOffset e.2)).eraseDups).foldl
      (fun s l => s.markLine ctx l m) s

/-- A block of a map update reaches the hub after the cut-off of the line that the update names (R640): it is counted, and the pages of the
positions that it carries are marked over the lines whose cut-off comes before it. -/
def State.lateMap (s : State) (ctx lane line at' lo n : Nat) : State :=
  if 0 < s.fits ctx lane line at' then s
  else
    let s := (s.count (R.HL_LATE_COUNT lane) (R.HL_OVF_LATE_OVF lane) .hlnk 1).raise .hlnk 16
    ((List.range 16).filter fun i => decide (s.fits ctx lane (line + i) at' = 0)).foldl
      (fun s i => s.markPositions ctx lane (line + i) lo n markUnderrun) s

/-- A map word leaves at a boundary. -/
def State.txMapWord (s : State) (ctx lane line at' k word : Nat) : State := (s.sendWord lane k word).lateMap ctx lane line at' (12 * k) 12

/-- Map words leave one after another. -/
def State.txMapWords (s : State) (ctx lane line at' k : Nat) (ws : List Nat) : State :=
  (ws.zipIdx.foldl (fun s w => s.txMapWord ctx lane line (at' + w.2 * s.slotU lane) (k + w.2) w.1) s).useSlots lane ws.length

/-! ## Replay -/

/-- A replay as it goes on. -/
def State.setReplay (s : State) (lane : Nat) (r x : Replay) : State :=
  s.setHead lane { (s.head lane) with replaying := modFirst (fun y => decide (y = r)) (fun _ => x) (s.head lane).replaying }

/-- A replay ends: a swath or a map update that it has interrupted goes on with a RESUME at its next unsent word (R250), beyond those that
the replay has sent for the first time. -/
def State.endReplay (s : State) (lane : Nat) (r : Replay) : State :=
  let h := s.head lane
  s.setHead lane { h with replaying := h.replaying.filter (fun x => decide (x ≠ r)),
                          word := if r.joins && decide (r.line = h.sendNext) then h.word.map fun k => max k r.word else h.word,
                          resume := h.resume || h.word.isSome || decide (0 < h.mapPos) }

/-- The replay that goes next: that of the line which fires first (R246). -/
def HlRt.nextReplay (h : HlRt) : Option Replay :=
  h.replaying.foldl (fun a r => match a with
    | none => some r
    | some q => if r.line < q.line then some r else some q) none

/-- A replay goes on with at most `n` blocks (R250, R254, R640): its RESUME, then its words; words that come too late are not sent. -/
def State.txReplay (s : State) (lane : Nat) (r : Replay) (n : Nat) : State :=
  let at' := s.txAt lane
  let room := if r.map then r.words.length else s.fits r.ctx lane r.line (if r.resumed then at' else at' + s.slotU lane)
  let go := min n (min r.words.length room)
  if r.words.isEmpty then s.endReplay lane r
  else if go = 0 then
    (s.lateWords r.ctx lane r.line ((List.range r.words.length).map (r.word + ·))).setReplay lane r
      { r with word := r.word + r.words.length, words := [] }
  else if !r.resumed then
    let s := s.sendCtl lane (resumeBlock r.map r.global r.word (s.epoch lane))
    let s := if r.map then s.lateMap r.ctx lane r.line at' 0 0 else s
    (s.setReplay lane r { r with resumed := true }).useSlots lane 1
  else
    let ws := r.words.take go
    let s := if r.map then s.txMapWords r.ctx lane r.line at' r.word ws
      else (ws.zipIdx.foldl (fun s w => s.sendWord lane (r.word + w.2) w.1) s).useSlots lane go
    let s := s.count (R.HL_REPLAYED_COUNT lane) (R.HL_OVF_REPLAYED_OVF lane) .hlnk go
    s.setReplay lane r { r with word := r.word + go, words := r.words.drop go }

/-! ## Map updates and swaths -/

/-- The blocks of a map update before its words (R244). -/
def MapUpdate.heads (m : MapUpdate) : Nat := b2n m.config + 1

/-- A map update goes on with at most `n` blocks (R244, R250, R640). -/
def State.txMap (s : State) (ctx lane : Nat) (m : MapUpdate) (n : Nat) : State :=
  let h := s.head lane
  let at' := s.txAt lane
  let e := s.epoch lane
  let k := h.mapPos - m.heads
  let step (s : State) (j : Nat) : State := s.setHead lane { (s.head lane) with mapPos := h.mapPos + j, resume := false }
  if h.mapPos + 1 < m.heads then
    ((step (s.sendCtl lane (configBlock (s.active lane) (s.ctx ctx).b m.apply e)) 1).lateMap ctx lane m.line at' 0 32768).useSlots lane 1
  else if h.mapPos < m.heads then ((step (s.sendCtl lane (mapBlock m.first m.apply e)) 1).lateMap ctx lane m.line at' 0 0).useSlots lane 1
  else if m.words.length ≤ k then
    s.setHead lane { h with mapUpdates := h.mapUpdates.filter (fun x => decide (x ≠ m)), mapSent := h.mapSent ++ [m], mapPos := 0, resume := false }
  else if h.resume then (step (s.sendCtl lane (resumeBlock true m.apply (m.first + k) e)) 0).useSlots lane 1
  else
    let ws := (m.words.drop k).take n
    (step s ws.length).txMapWords ctx lane m.line at' (m.first + k) ws

/-- The swath that is sent has left: the next one follows. -/
def State.endSwath (s : State) (lane : Nat) : State :=
  let h := s.head lane
  s.setHead lane { h with sendNext := h.sendNext + 1, word := none, resume := false }

/-- The send of a swath begins: its CRC is noted once (R508). -/
def State.openSwath (s : State) (lane : Nat) (l : LoftLine) : State :=
  let s := if l.sent then s else s.noteCrc l.ctx lane l.line ⟨swathCrc l.words, l.marked⟩
  let h := s.head lane
  s.setHead lane { h with loft := tset none h.loft (l.line % 16) (some { l with sent := true }) }

/-- A swath goes on with at most `n` blocks (R243, R250, R254): HEAD, then its words in order, but those that cannot reach the hub by the
cut-off. -/
def State.txSwath (s : State) (lane : Nat) (l : LoftLine) (n : Nat) : State :=
  let h := s.head lane
  match h.word with
  | none =>
    let s := s.openSwath lane l
    let h := s.head lane
    ((s.setHead lane { h with firstCarried := h.firstCarried <|> some l.global, word := some 0, resume := false }).sendCtl lane
      (headBlock l.global (s.epoch lane))).useSlots lane 1
  | some k =>
    let left := l.words.length - k
    let go := min n (min left (s.fits l.ctx lane l.line (s.txAt lane)))
    if left = 0 then s.endSwath lane
    else if go = 0 then (s.lateWords l.ctx lane l.line ((List.range left).map (k + ·))).endSwath lane
    else if h.resume then
      ((s.setHead lane { h with resume := false }).sendCtl lane (resumeBlock false l.global k (s.epoch lane))).useSlots lane 1
    else
      let ws := ((l.words.drop k).take go).zipIdx.map fun w => (w.1, k + w.2)
      let s := (ws.foldl (fun s w => s.sendWord lane w.2 w.1) s).addTally lane (s.ctx l.ctx).b l.global ws
      (s.setHead lane { (s.head lane) with word := some (k + go) }).useSlots lane go

/-- The earliest swath whose send has started and that is complete in the loft. -/
def HlRt.sending (h : HlRt) : Option LoftLine := if h.sendNext < h.sendFrom then h.line h.sendNext else none

/-- The map update that goes before a swath (R244). -/
def HlRt.mapBefore (h : HlRt) (l : LoftLine) : Option MapUpdate :=
  if h.word.isSome then none else h.mapUpdates.find? fun m => decide (m.line ≤ l.line)

/-! ## The slots -/

/-- Slots from the next on up to the present instant in which no FIRE block and no ping falls due. -/
def State.quietSlots (s : State) (lane : Nat) : Nat :=
  let h := s.head lane
  let n := s.slotsTo lane (100 * s.now + 1)
  let n := match s.nextPlan lane with
    | some p => min n (s.slotsTo lane (s.planAt lane p))
    | none => n
  max 1 (h.pingQ.foldl (fun n q => min n (s.slotsTo lane (100 * q.1))) n)

/-- What goes out in the next slot, or in several like it (R246): a FIRE block that is due, an order to a head, an `IDLE` or `ALIGN` that is
due, a replay, the earliest swath with its map updates, and otherwise `IDLE`. -/
def State.txStep (s : State) (lane : Nat) : State :=
  let h := s.head lane
  let at' := s.txAt lane
  match (s.nextPlan lane).filter fun p => decide (s.planAt lane p ≤ at') with
  | some p => s.txFire lane p at'
  | none =>
    match h.orders.head?.filter fun _ => s.ordersGo lane with
    | some k => s.txOrder lane k
    | none =>
      match h.pingQ.find? fun q => decide (100 * q.1 ≤ at') with
      | some q => (s.setHead lane { h with pingQ := h.pingQ.erase q }).txPing lane q.2
      | none =>
        let n := s.quietSlots lane
        let m := min n (idleEvery - h.sinceIdle)
        if alignEvery ≤ h.sinceAlign + 1 ∨ idleEvery ≤ h.sinceIdle then s.txIdle lane 1
        else if !s.drives lane then s.txIdle lane n
        else
          match h.nextReplay with
          | some r => s.txReplay lane r m
          | none =>
            match h.sending with
            | none => s.txIdle lane n
            | some l =>
              match h.mapBefore l with
              | some u => s.txMap l.ctx lane u m
              | none => s.txSwath lane l m

/-- The slots that begin by now, one after another; the last argument bounds the number of steps. -/
def State.txGo (lane : Nat) : Nat → State → State
  | 0, s => s
  | k + 1, s => if 100 * s.now < s.txAt lane then s else State.txGo lane k (s.txStep lane)

/-- A lane sends what is due by now.  On a lane that is not UP, FIRE blocks that fall due are lost (R268). -/
def State.txRun (s : State) (lane : Nat) : State :=
  let h := s.head lane
  if s.lstate (headLane lane) = 5 then
    State.txGo lane (s.slotsTo lane (100 * s.now + 1) + h.plans.length + 3 * h.replaying.length + 64) s
  else (h.plans.filter fun p => decide (s.planAt lane p ≤ 100 * s.now)).foldl (fun s p => s.txFire lane p 0) s

/-- Every head lane does. -/
def State.runLanes (s : State) : State := s.heads.foldl (fun s e => s.txRun e.1) s

/-! ## Swaths that are due -/

/-- A swath that is not carried (R255, R268, R269): a lane that this device owns marks its pages. -/
def State.skipSwath (s : State) (lane : Nat) (l : LoftLine) : State :=
  let whole := (s.head lane).word.any fun k => decide (l.words.length ≤ k)
  let s := (s.openSwath lane l).endSwath lane
  if s.ownsLane lane && !whole then s.markLaneLine l.ctx lane l.line markLaneDown else s

/-- Pass over the swaths that are due on a lane which does not carry them; `fuel` bounds their number by the loft's. -/
def State.skipSwaths (lane : Nat) : Nat → State → State
  | 0, s => s
  | fuel + 1, s =>
    match (s.head lane).sending with
    | none => s
    | some l => if s.drives lane && decide ((s.head lane).downTo ≤ l.line) then s else State.skipSwaths lane fuel (s.skipSwath lane l)

/-- A lane sends, or passes over, what is due by now. -/
def State.pump (s : State) (lane : Nat) : State := (State.skipSwaths lane 17 (s.txRun lane)).txRun lane

/-- Start to send the swath of a line (R242). -/
def State.startSend (s : State) (lane line : Nat) : State :=
  let s := s.txRun lane
  (s.setHead lane { (s.head lane) with sendFrom := max (s.head lane).sendFrom (line + 1) }).pump lane

/-- A lane no longer carries traffic (R268, R269): the swath being sent is interrupted, and replays end. -/
def State.interrupt (s : State) (lane : Nat) : State :=
  let s := s.txRun lane
  let s := s.setHead lane { (s.head lane) with carrying := false }
  let s := match (s.head lane).word, (s.head lane).sending with
    | some _, some l => s.skipSwath lane l
    | _, _ => s
  s.setHead lane { (s.head lane) with replaying := [], resume := false, mapPos := 0 }

end Sys2Proof.Machine
end

