-- ==== Sys2Proof/Machine/Train.lean ====
section
/-!
DEFINITION. Training of the lanes (R230 to R238), for head lanes and, with the partner in the hub's part, for yoke lanes (R504).
-/

namespace Sys2Proof.Machine

/-- The base of a lane's node. -/
def LaneId.b (l : LaneId) : Nat := l.node.base

/-- The lane trains under R230: head and yoke lanes. -/
def LaneId.trains : LaneId → Bool
  | .head _ => true | .yoke _ => true | .cam _ => false | .eth _ => false

/-- The number of a head lane. -/
def LaneId.headNo : LaneId → Option Nat
  | .head n => some n.val | .cam _ => none | .eth _ => none | .yoke _ => none

/-- Training is in progress: LOCKING to READY. -/
def State.training (s : State) (l : LaneId) : Bool := decide (1 ≤ s.lstate l) && decide (s.lstate l ≤ 4)

/-- The number of whole block slots that a time in 1/16 ns takes on a lane (R638). -/
def State.slotsIn (s : State) (l : LaneId) (dt : Nat) : Nat := 100 * dt / (if s.rd (R.LANE_STATUS_RATE_NOW l.b) = 1 then 4096 else 10240)

/-- The time that block slots take on a lane, in 1/16 ns. -/
def State.slotsTime (s : State) (l : LaneId) (n : Nat) : Nat :=
  (n * (if s.rd (R.LANE_STATUS_RATE_NOW l.b) = 1 then 4096 else 10240) + 99) / 100

/-- What a lane has sent since its present block or state began: `IDLE` in LOCKING, after 10 µs of squelch (R230), and in FAILED (R234);
in training else its `TRAIN` block in one of every four blocks (R232). -/
def State.spent (s : State) (l : LaneId) : State :=
  let t := s.lane l
  let dt := s.now - t.curAt
  let s' := s.setLane l { t with curAt := s.now }
  let idle (dt : Nat) : State := let n := s.slotsIn l dt; if n = 0 then s' else s'.put (.idle l n 0)
  if s.lstate l = 1 then idle (dt - 160000)
  else if s.lstate l = 6 then idle dt
  else match t.cur with
    | none => s'
    | some body => let n := s.slotsIn l dt / 4; if n = 0 then s' else s'.put (.again l body n)

/-- A lane enters a state of its training (R230). -/
def State.enterTrain (s : State) (l : LaneId) (st : Nat) : State :=
  let s := s.spent l
  (s.setLane l { (s.lane l) with stateAt := s.now, cur := none }).wr (R.LANE_STATUS_LSTATE l.b) st

/-- Send a `TRAIN` block: the message, the outstanding request and the last acknowledge (R232). -/
def State.sendTrain (s : State) (l : LaneId) (msg : Nat) : State :=
  let s := s.spent l
  let t := s.lane l
  let req := match t.request with | some r => r.1 | none => 0
  let body := trainBlock msg req t.ack t.rseq t.ackSeq t.target
  (s.setLane l { t with cur := some body }).put (.block l false body)

/-- Complete the `LANE_TRAIN` packets that wait for no lane any more (R234, R236). -/
def State.finishTrainPks (s : State) : State :=
  let done := s.trainPks.filter fun p => p.waiting.isEmpty
  let s := { s with trainPks := s.trainPks.filter fun p => !p.waiting.isEmpty }
  done.foldl (fun s p =>
    s.complete p.pk (if p.aborted then .trainAborted else if 0 < p.others then .trainFail else .ok) [p.up, p.others]) s

/-- A waiting `LANE_TRAIN` takes note that the training of lane `n` has ended. -/
def TrainPk.note (p : TrainPk) (n : Nat) (up aborted : Bool) : TrainPk :=
  if p.waiting.contains n then
    { p with waiting := p.waiting.filter (fun k => decide (k ≠ n)), up := p.up + b2n up, others := p.others + b2n (!up),
             aborted := p.aborted || aborted }
  else p

/-- The training of a lane has ended for the packets that wait for it. -/
def State.laneTrained (s : State) (l : LaneId) (up aborted : Bool) : State :=
  match l.headNo with
  | none => s
  | some n => State.finishTrainPks { s with trainPks := s.trainPks.map fun p => p.note n up aborted }

/-- A lane that leaves UP, or trains, carries nothing (R235, R268). -/
def State.stopCarrying (s : State) (l : LaneId) : State :=
  match l.headNo with
  | none => s
  | some n => s.interrupt n

/-- `TRAIN_T` in 1/16 ns (R231). -/
def State.trainLimit (s : State) : Nat := 16000000 * max 10 (s.rd R.HLNK_TRAIN_CFG_TRAIN_T)

/-- Start training from LOCKING at a rate (R230, R234, R235). -/
def State.startTrain (s : State) (l : LaneId) (rate : Nat) : State :=
  let b := l.b
  let s := (s.stopCarrying l).enterTrain l 1
  (((s.wr (R.LANE_STATUS_RATE_NOW b) rate).wr (R.LANE_CTRL_START b) 1).wr (R.LANE_STATUS_BLOCK_LOCK b) 0).setLane l
    { target := rate, rseq := (s.lane l).rseq, startAt := s.now, stateAt := s.now, curAt := s.now, limit := s.trainLimit,
      berCount := (s.lane l).berCount }

/-- Training ends in FAILED with an outcome (R230, R231, R234). -/
def State.failTrain (s : State) (l : LaneId) (outcome : Nat) : State :=
  let b := l.b
  let s := ((s.enterTrain l 6).wr (R.LANE_STATUS_OUTCOME b) outcome).wr (R.LANE_CTRL_START b) 0
  let s := (s.count (R.LANE_EVENTS_TRAIN_FAIL b) (R.LANE_OVF_FAIL_OVF b) l.node 1).raise l.node 20
  s.laneTrained l false false

/-- Training reaches UP (R230, R234, R259, R638): traffic from now on, on the grid fixed now, and 15 pings 10 µs apart. -/
def State.upTrain (s : State) (l : LaneId) : State :=
  let b := l.b
  let s := ((s.enterTrain l 5).wr (R.LANE_STATUS_OUTCOME b) 1).wr (R.LANE_CTRL_START b) 0
  let s := s.setLane l { (s.lane l) with latLeft := 15, request := none }
  let s := match l.headNo with
    | none => s
    | some n =>
      let h := s.head n
      (s.setHead n { h with carrying := true, firstCarried := none, statusLast := none, pings := [], samples := [], nSamples := 0, lastRtt := 0,
                            lastTurn := 0, minRtt := 0, maxRtt := 0, downTo := h.sendFrom,
                            pingQ := (List.range 15).map fun k => (s.now + 160000 * k, none) }).startGrid n
  (s.raise l.node 19).laneTrained l true false

/-- Abort the training of a lane and restart it at another rate (R236). -/
def State.abortTrain (s : State) (l : LaneId) (rate : Nat) : State :=
  let b := l.b
  let s := s.spent l
  let s := s.puts (List.replicate 8 (.block l false (trainBlock 3 0 0 (s.lane l).rseq (s.lane l).ackSeq (s.lane l).target)))
  let s := (s.enterTrain l 0).wr (R.LANE_STATUS_OUTCOME b) 7
  let s := (s.count (R.LANE_EVENTS_TRAIN_ABORT b) (R.LANE_OVF_ABORT_OVF b) l.node 1).raise l.node 21
  (s.laneTrained l false true).startTrain l rate

/-- A lane is asked to train at a rate (R234 to R237). -/
def State.askTrain (s : State) (l : LaneId) (rate : Nat) : State :=
  if s.training l then (if (s.lane l).target = rate then s else s.abortTrain l rate) else s.startTrain l rate

/-- The receiver's own next tap request, if it makes one (R232). -/
def State.ownRequest (s : State) (l : LaneId) : State :=
  let k := s.fresh
  let s := { s with fresh := k + 1 }
  let req := Config.tapRequest k % 64
  if req = 0 then s
  else
    let t := s.lane l
    (s.setLane l { t with rseq := (t.rseq + 1) % 256, request := some (req, 1), reqAt := s.now }).sendTrain l 1

/-- Enter HELLO when the receiver has block lock in LOCKING (R230). -/
def State.lockInTraining (s : State) (l : LaneId) : State :=
  if l.trains && decide (s.lstate l = 1) then (s.enterTrain l 2).sendTrain l 0 else s

/-- One tap after a request code (R233): the new value and the acknowledge code; `lo` and `hi` bound the tap. -/
def tapStep (code lo hi rst v : Nat) : Nat × Nat :=
  let v := max lo (min hi v)
  match code with
  | 1 => if v < hi then (v + 1, 1) else (v, 3)
  | 2 => if lo < v then (v - 1, 1) else (v, 2)
  | 3 => (rst, 1)
  | _ => (v, 0)

/-- Carry out a tap request of the far end (R232, R233): all three taps, the acknowledge, and the count of clean blocks again from 0;
a lane in READY returns to TUNE (R231). -/
def State.applyTaps (s : State) (l : LaneId) (req rseq : Nat) : State :=
  let b := l.b
  let pre := tapStep (req % 4) 0 15 2 (s.rd (R.LANE_TX_TAPS_PRE b))
  let main := tapStep (req / 4 % 4) 24 63 48 (s.rd (R.LANE_TX_TAPS_MAIN b))
  let post := tapStep (req / 16 % 4) 0 31 6 (s.rd (R.LANE_TX_TAPS_POST b))
  let s := ((s.wr (R.LANE_TX_TAPS_PRE b) pre.1).wr (R.LANE_TX_TAPS_MAIN b) main.1).wr (R.LANE_TX_TAPS_POST b) post.1
  let s := if s.lstate l = 3 then s else s.enterTrain l 3
  (s.setLane l { (s.lane l) with ack := pre.2 + 4 * main.2 + 16 * post.2, ackSeq := rseq, lastRseq := some rseq, readies := 0,
                                 cleanAt := s.now }).sendTrain l 1

/-- The HELLO of a hub as `HL_STATE` and `HUB_STATUS` show it (R273). -/
def State.noteHello (s : State) (l : LaneId) (body : Nat) : State :=
  match l.headNo with
  | none => s
  | some n =>
    let s := s.setHead n { (s.head n) with lastHello := body }
    ((s.wr (R.HL_STATE_HOLD_LIMIT n) (bits body 44 4)).wr (R.HL_STATE_HEADS n) (bits body 48 6)).wr (R.HL_STATE_CAP_B n) (bits body 43 1)

/-- A HELLO received (R230, R267): in HELLO, a far end that lacks the rate, or a hub that holds fewer than 3 lines, ends training; three
in a row at the own rate lead to TUNE. -/
def State.recvHello (s : State) (l : LaneId) (body : Nat) : State :=
  let s := s.noteHello l body
  if s.lstate l ≠ 2 then s
  else
    let t := s.lane l
    let cap := if t.target = 1 then bit body 41 else bit body 42
    if !cap || (l.headNo.isSome && decide (bits body 44 4 < 3)) then s.failTrain l 4
    else if bits body 40 1 ≠ t.target then s.setLane l { t with hellos := 0 }
    else if t.hellos + 1 < 3 then s.setLane l { t with hellos := t.hellos + 1 }
    else
      let s := (s.setLane l { t with hellos := 3 }).enterTrain l 3
      ((s.setLane l { (s.lane l) with cleanAt := s.now }).sendTrain l 1).ownRequest l

/-- The acknowledge in a received block answers the outstanding request (R232); the count of clean blocks begins again (R230). -/
def State.recvAck (s : State) (l : LaneId) (body : Nat) : State :=
  let t := s.lane l
  match t.request with
  | none => s
  | some _ =>
    if bits body 32 8 = t.rseq ∧ bits body 18 6 ≠ 0 then
      let s := s.setLane l { t with request := none, cleanAt := s.now }
      if s.lstate l = 3 then s.ownRequest l else s
    else s

/-- A TUNE or READY block received (R230 to R233). -/
def State.recvTune (s : State) (l : LaneId) (body : Nat) : State :=
  if s.lstate l ≠ 3 ∧ s.lstate l ≠ 4 then s
  else
    let s := s.recvAck l body
    let req := bits body 12 6
    let rseq := bits body 24 8
    if req ≠ 0 ∧ (s.lane l).lastRseq ≠ some rseq then s.applyTaps l req rseq
    else if bits body 8 4 = 2 ∧ s.lstate l = 4 then
      let t := s.lane l
      if 16 ≤ t.readies + 1 then s.upTrain l else s.setLane l { t with readies := t.readies + 1 }
    else s

/-- A `TRAIN` block received. -/
def State.recvTrain (s : State) (l : LaneId) (body : Nat) : State :=
  match bits body 8 4 with
  | 0 => s.recvHello l body
  | 1 => s.recvTune l body
  | 2 => s.recvTune l body
  | 3 => if s.training l then s.failTrain l 6 else s
  | _ => s

/-- `TUNE_CLEAN_COUNT` (R230): 2^20 blocks without an invalid sync header have come since the last acknowledge; TUNE ends in READY. -/
def execTuneCleanCount (l : LaneId) (s : State) : Host.Outcome State Fault Refusal :=
  if !s.clocked then .next s else
  if !l.trains ∨ s.lstate l ≠ 3 then .next s
  else
    let s := (s.advance ((s.lane l).cleanAt + s.slotsTime l (2 ^ 20))).enterTrain l 4
    .next ((s.setLane l { (s.lane l) with readies := 0 }).sendTrain l 2)

/-- `TRAIN_STATE_TIMEOUT` (R230): 5 ms of LOCKING or 2 ms of HELLO have passed. -/
def execTrainStateTimeout (l : LaneId) (s : State) : Host.Outcome State Fault Refusal :=
  if !s.clocked then .next s else
  if !l.trains then .next s
  else if s.lstate l = 1 then .next ((s.advance ((s.lane l).stateAt + 80000000)).failTrain l 2)
  else if s.lstate l = 2 then .next ((s.advance ((s.lane l).stateAt + 32000000)).failTrain l 3)
  else .next s

/-- `TAP_REQUEST_RETRY` (R230): a request that has gone unacknowledged for 100 µs is sent again; three in a row end training. -/
def execTapRequestRetry (l : LaneId) (s : State) : Host.Outcome State Fault Refusal :=
  if !s.clocked then .next s else
  let t := s.lane l
  match t.request with
  | none => .next s
  | some r =>
    if !s.training l then .next s
    else
      let s := s.advance (t.reqAt + 1600000)
      if 3 ≤ r.2 then .next (s.failTrain l 5)
      else .next ((s.setLane l { t with request := some (r.1, r.2 + 1), reqAt := s.now }).sendTrain l 1)

/-- `TRAIN_T_EXPIRY` (R231): the time that the training may take has passed since it began. -/
def execTrainTExpiry (l : LaneId) (s : State) : Host.Outcome State Fault Refusal :=
  if !s.clocked then .next s else
  if l.trains ∧ s.training l then .next ((s.advance ((s.lane l).startAt + (s.lane l).limit)).failTrain l 5) else .next s

/-- A write of `START` (R230, R234): a lane that may work trains at its `RATE`. -/
def State.writeStart (s : State) (l : LaneId) : State :=
  if l.trains && s.accepts l.node then s.askTrain l (s.rd (R.LANE_CTRL_RATE l.b)) else s

/-- `LANE_TRAIN` (R234 to R238). -/
def execLaneTrain (h : Hdr) (mask rate : Nat) (s : State) : Host.Outcome State Fault Refusal :=
  if !s.spells (.laneTrain h mask rate) then .next s else
  let ls := maskList 32 mask
  .next (s.packet opLaneTrain h
    (fun s =>
      [(decide (1 < rate), .badParam),
       (ls.any fun n => (s.laneCtx n).any fun c => decide (c.st = .running), .ctxState),
       (!s.accepts .hlnk || ls.any (fun n => !s.accepts (headLane n).node), .unitOff)])
    (fun pk s =>
      let s := ls.foldl (fun s n => s.askTrain (headLane n) rate) s
      State.finishTrainPks { s with trainPks := s.trainPks ++ [⟨pk, ls, 0, 0, false⟩] }))

end Sys2Proof.Machine
end

