-- ==== Sys2Proof/Machine/Hlnk.lean ====
section
/-!
DEFINITION. The head link (spec/06) beyond training: fire blocks, NAK and replay, `STATUS`, latency, and the packets that read what a
hub has reported.
-/

namespace Sys2Proof.Machine

/-! ## Fire blocks -/

/-- Plan the FIRE block of a group's line on every lane that fires the group (R245). -/
def State.planFire (s : State) (ctx g line global t : Nat) : State :=
  ((s.ctx ctx).laneList.filter fun l => (s.groupsAt l line).testBit g).foldl (fun s l =>
    let s := s.txRun l
    s.setHead l { (s.head l) with plans := (s.head l).plans ++ [⟨g, ctx, line, global, t⟩] }) s

/-- A FIRE block of the group waits on a lane. -/
def HlRt.waits (h : HlRt) (g : Nat) : Bool := h.plans.any fun p => decide (p.group = g)

/-- `LINE_START_FIRE` (R245, R639): by `t` the planned departure of the group's FIRE block on the lane has come, and it leaves at its block
boundary. -/
def execLineStartFire (lane : Fin 32) (group : Fin 32) (t : Nat) (s : State) : Host.Outcome State Fault Refusal :=
  if !s.clocked then .next s else
  if (s.head lane.val).waits group.val then .next ((s.advance t).txRun lane.val) else .next s

/-! ## NAK and replay -/

/-- The lane exhausts its replays (R255): its node is FAULTED, and every page of a RUNNING context that it serves is marked. -/
def State.replayExhausted (s : State) (lane : Nat) : State :=
  let s := s.faultNode (headLane lane).node .replayExhausted
  let s := if s.primary then s.sendSeq (.mirror (.laneFault lane)) else s
  let k := s.laneOwner lane
  let c := s.ctx k
  let s := s.interrupt lane
  if k ≠ 0 ∧ c.st = .running then s.setCtx k { (s.ctx k) with pages := (s.ctx k).pages.map fun p => p.mark markLaneDown } else s

/-- Some of these words have been sent again as often as they may be (R255). -/
def State.replaysUp (s : State) (t : Tbl Nat) (ks : List Nat) : Bool := ks.any fun k => decide (s.replayMax ≤ tget 0 t k)

/-- The words that a `NAK` asks for, of `n` with indexes from `first` on. -/
def nakWords (first n word count : Nat) : List Nat :=
  (List.range n).map (first + ·) |>.filter fun k => decide (word ≤ k) && (decide (count = 0) || decide (k < word + count))

/-- Replay words of a map update (R250, R255, R640): the update that has been sent, or the part of the one in front that has. -/
def State.replayMap (s : State) (ctx lane line16 word count : Nat) : State :=
  let h := s.head lane
  let sent := h.mapSent ++ if 0 < h.mapPos then h.mapUpdates.take 1 else []
  match sent.find? fun m => decide (m.apply % 65536 = line16) && decide (m.first ≤ word) && decide (word < m.first + m.words.length) with
  | none => s
  | some m =>
    let s := s.count (R.HL_NAKS_COUNT lane) (R.HL_OVF_NAKS_OVF lane) .hlnk 1
    let ks := nakWords m.first m.words.length word count
    if s.replaysUp m.replays ks then (s.markLaneLine ctx lane m.line markLaneDown).replayExhausted lane
    else
      let m' := { m with replays := ks.foldl (fun t k => tmod 0 t k (· + 1)) m.replays }
      let put (ms : List MapUpdate) : List MapUpdate := ms.map fun x => if x = m then m' else x
      let h := s.head lane
      (s.setHead lane { h with mapSent := put h.mapSent, mapUpdates := put h.mapUpdates,
                               replaying := h.replaying ++ [⟨true, ctx, m.line, m.apply, word, (m.words.drop (word - m.first)).take ks.length, false, false⟩] }).txRun lane

/-- Replay words of a swath (R250, R254, R255); a word that has not been sent yet is not sent again by it. -/
def State.replayWords (s : State) (lane : Nat) (l : LoftLine) (word count : Nat) : State :=
  let s := s.count (R.HL_NAKS_COUNT lane) (R.HL_OVF_NAKS_OVF lane) .hlnk 1
  let h := s.head lane
  let ks := nakWords 0 l.words.length word count
  let again := if l.line = h.sendNext then ks.filter fun k => decide (k < h.word.getD 0) else ks
  if s.replaysUp l.replays again then (s.markLaneLine l.ctx lane l.line markLaneDown).replayExhausted lane
  else
    let l' := { l with replays := again.foldl (fun t k => tmod 0 t k (· + 1)) l.replays }
    (s.setHead lane { h with loft := tset none h.loft (l.line % 16) (some l'),
                             replaying := h.replaying ++ [⟨false, l.ctx, l.line, l.global, word, (l.words.drop word).take ks.length, l.line = h.sendNext ∧ word ≤ h.word.getD 0, false⟩] }).txRun lane

/-- The line of the loft whose blocks have left and whose global line number has these low 16 bits (R250). -/
def HlRt.sentLine (h : HlRt) (line16 : Nat) : Option LoftLine :=
  h.loft.findSome? fun e => match e.2 with
    | some l => if l.global % 65536 = line16 ∧ l.sent then some l else none
    | none => none

/-- A `NAK` received (R250, R255): ignored unless it carries the lane's epoch, names a line still in the loft whose blocks have left, and
the lane carries traffic. -/
def State.recvNak (s : State) (lane body : Nat) : State :=
  let s := s.txRun lane
  if bits body 48 16 ≠ s.epoch lane ∨ !s.drives lane then s
  else
    let line16 := bits body 8 16
    if bit body 44 then s.replayMap (s.laneOwner lane) lane line16 (bits body 24 12) (bits body 36 5)
    else
      match (s.head lane).sentLine line16 with
      | none => s
      | some l => s.replayWords lane l (bits body 24 12) (bits body 36 5)

/-! ## STATUS -/

/-- The greatest number not above `ref` whose low 16 bits are given. -/
def near16 (ref low : Nat) : Nat :=
  let x := ref / 65536 * 65536 + low
  if x ≤ ref then x else x - 65536

/-- Pages of the lines that a hub fired since its last `STATUS` are marked when it missed words (R256). -/
def State.markMissed (s : State) (lane last : Nat) : State :=
  let k := s.laneOwner lane
  if k = 0 then s
  else
    let c := s.ctx k
    let h := s.head lane
    let lo := match h.statusLast with
      | some p => p + 1
      | none => h.firstCarried.getD last
    ((List.range (last + 1 - lo)).filterMap fun i => if c.global0 ≤ lo + i then some (lo + i - c.global0) else none).foldl
      (fun s l => s.markLaneLine k lane l markUnderrun) s

/-- A `STATUS` received at `t` (R256, R265, R268, R523). -/
def State.recvStatus (s : State) (lane body t : Nat) : State :=
  let s := s.advance t
  let last := near16 s.globalLine (bits body 16 16)
  let missed := bits body 32 8
  let epoch := bits body 48 16
  let s := ((((((s.wr (R.HL_STATE_HUB_HOLD lane) (bits body 8 1)).wr (R.HL_STATE_HUB_BLANK lane) (bits body 9 1)).wr
    (R.HL_STATE_HUB_PORT lane) (bits body 10 1)).wr (R.HL_STATE_FOLLOWED lane) (bits body 11 1)).wr (R.HL_STATE_HUB_RX_LOCK lane)
    (bits body 12 1)).wr (R.HL_STATE_HUB_HI_BER lane) (bits body 13 1)).wr (R.HL_EPOCH_HUB_EPOCH lane) epoch
  let s := if missed = 0 then s
    else (s.count (R.HL_MISSED_COUNT lane) (R.HL_OVF_MISSED_OVF lane) .hlnk missed).markMissed lane last
  let s := s.setHead lane { (s.head lane) with lastStatus := body, statusTime := t, statusNs := s.baseNs 0 t, statusLast := some last }
  let s := s.raiseIf (bit body 8 || bit body 9) .hlnk 17
  let s := if bit body 12 then s else (s.interrupt lane).raise .hlnk 21
  if s.epoch lane < epoch then
    let s := s.txRun lane
    let s := ((s.wr (R.HL_STATE_FOLLOWED lane) 0).setHead lane { (s.head lane) with epochLost := true, replaying := [] }).raise .hlnk 18
    if s.rd R.YOKE_STATE_ROLE = 0 ∨ !s.ownsLane lane then s
    else (s.wr R.YOKE_LANES_OWNED (setBit (s.rd R.YOKE_LANES_OWNED) lane false)).raise .yoke 22
  else s

/-- `LANE_TRAFFIC_RESUME` (R269): an UP lane whose receiver has held lock for 1 ms and whose hub reports `RX_LOCK` carries traffic again;
the swaths whose send has started by then are not carried. -/
def execLaneTrafficResume (lane : Fin 32) (s : State) : Host.Outcome State Fault Refusal :=
  if !s.clocked then .next s else
  let b := (headLane lane.val).b
  let h := s.head lane.val
  let s := s.advance ((s.lane (headLane lane.val)).lockAt + 16000000)
  if h.carrying ∨ s.lstate (headLane lane.val) ≠ 5 ∨ !s.flag (R.LANE_STATUS_BLOCK_LOCK b) ∨ !s.flag (R.HL_STATE_HUB_RX_LOCK lane.val) then .next s
  else
    let s := s.txRun lane.val
    let h := s.head lane.val
    .next ((s.setHead lane.val { h with carrying := true, firstCarried := none, statusLast := none, downTo := h.sendFrom }).pump lane.val)

/-! ## Latency -/

/-- A ping falls due at `t` (R257), of a `LANE_LATENCY` or of the lane's own. -/
def State.sendPing (s : State) (lane t : Nat) (pk : Option Nat) : State :=
  let h := s.head lane
  s.setHead lane { h with pingQ := h.pingQ ++ [(t, pk)] }

/-- `PING` (R257, R259): the interval on an UP lane ends at `t`; the ping leaves at the next block boundary that is free. -/
def execPing (lane : Fin 32) (t : Nat) (s : State) : Host.Outcome State Fault Refusal :=
  if !s.clocked then .next s else
  if s.lstate (headLane lane.val) = 5 then .next (((s.advance t).sendPing lane.val t none).txRun lane.val) else .next s

/-- The greatest step of `HL_LAT` (`LAT_SLEW`). -/
def State.latSlew (s : State) : Int := (max 1 (s.rd R.HLNK_LAT_CFG_LAT_SLEW) : Nat)

/-- Apply a latency sample (R259). -/
def State.latSample (s : State) (lane : Nat) (rtt : Int) (turn : Nat) : State :=
  let l := headLane lane
  let h := s.head lane
  let x := sar (rtt + 1) 1 + s.rdS (R.HL_ASYM_ASYM lane)
  let h' := { h with samples := (x :: h.samples).take 15, nSamples := h.nSamples + 1, lastRtt := rtt, lastTurn := turn,
                     minRtt := if h.nSamples = 0 then rtt else min h.minRtt rtt,
                     maxRtt := if h.nSamples = 0 then rtt else max h.maxRtt rtt }
  let s := s.setHead lane h'
  let t := s.lane l
  if 0 < t.latLeft then
    let s := s.setLane l { t with latLeft := t.latLeft - 1 }
    if t.latLeft = 1 then s.wrS (R.HL_LAT_LAT lane) (medianLow h'.samples) else s
  else
    let m := medianLow (h'.samples.take 7)
    let cur : Int := s.rd (R.HL_LAT_LAT lane)
    let s := s.wrS (R.HL_LAT_LAT lane) (cur + clampI (-s.latSlew) s.latSlew (m - cur))
    s.raiseIf (decide (64 < (m - cur).natAbs)) .hlnk 19

/-- The record of a lane in `LANE_LATENCY` (R261). -/
def State.latRecord (s : State) (lane fresh : Nat) : List Byte :=
  let h := s.head lane
  leBytes 1 lane ++ leBytes 1 fresh ++ leBytes 2 (min 65535 h.nSamples) ++ leBytes 4 (s.rd (R.HL_LAT_LAT lane)) ++
  leBytes 4 (ofS 32 h.lastRtt) ++ leBytes 4 h.lastTurn ++ leBytes 4 (ofS 32 h.minRtt) ++ leBytes 4 (ofS 32 h.maxRtt) ++
  leBytes 4 (ofS 32 (s.rdS (R.HL_ASYM_ASYM lane))) ++ leBytes 4 0

/-- A `LANE_LATENCY` ends: its records are written, and it completes (R261). -/
def State.endLatency (s : State) (p : LatPk) : State :=
  let ls := maskList 32 p.mask
  let s := { s with latPks := s.latPks.filter fun q => decide (q.id ≠ p.id) }
  let s := s.writeAt 6 p.dst (ls.flatMap fun l => s.latRecord l (tget 0 p.fresh l))
  s.complete p.pk (if ls.any fun l => decide (tget 0 p.fresh l < 8) then .laneDown else .ok) [ls.length]

/-- A fresh sample has come for a `LANE_LATENCY`; with the last one it ends. -/
def State.freshSample (s : State) (id lane : Nat) : State :=
  match s.latPks.find? fun p => decide (p.id = id) with
  | none => s
  | some p =>
    let p := { p with fresh := tmod 0 p.fresh lane (· + 1) }
    if (maskList 32 p.mask).all fun l => decide (8 ≤ tget 0 p.fresh l) then s.endLatency p
    else { s with latPks := s.latPks.map fun q => if q.id = id then p else q }

/-- An `ALIGN` received at `t` (R259, R261): the echo of a ping gives a sample, but a fresh ping's only within 1 ms. -/
def State.recvAlign (s : State) (lane body t : Nat) : State :=
  let s := s.advance t
  if !bit body 8 then s
  else
    let a := bits body 16 16
    let h := s.head lane
    match tget none h.pings a with
    | none => s
    | some (tx, pk) =>
      let s := s.setHead lane { h with pings := tset none h.pings a none }
      let turn := bits body 32 24
      let rtt : Int := (t : Int) - (tx : Int) - (turn : Int)
      match pk with
      | none => s.latSample lane rtt turn
      | some id => if tx + 16000000 < t then s else (s.latSample lane rtt turn).freshSample id lane

/-- `LANE_LATENCY_TIMEOUT` (R261): the oldest `LANE_LATENCY` waits no longer. -/
def execLaneLatencyTimeout (s : State) : Host.Outcome State Fault Refusal :=
  if !s.clocked then .next s else
  match s.latPks with
  | [] => .next s
  | p :: _ => .next (s.endLatency p)

/-- `LANE_LATENCY` (R261): eight pings on each lane, 10 µs apart. -/
def execLaneLatency (h : Hdr) (mask dst : Nat) (s : State) : Host.Outcome State Fault Refusal :=
  if !s.spells (.laneLatency h mask dst) then .next s else
  let ls := maskList 32 mask
  .next (s.packet opLaneLatency h
    (fun s => rank0 s .hlnk (s.badAddr dst (32 * ls.length)) false [(ls.any fun l => decide (s.lstate (headLane l) ≠ 5), .laneDown)])
    (fun pk s =>
      if ls.isEmpty then s.complete pk .ok [0]
      else
        let id := h.ring.val * 65536 + h.sq
        let s := { s with latPks := s.latPks ++ [⟨pk, id, mask, dst, []⟩] }
        let s := (List.range 8).foldl (fun s k => ls.foldl (fun s l => s.sendPing l (s.now + k * 160000) (some id)) s) s
        ls.foldl (fun s l => s.txRun l) s))

/-- `HUB_STATUS` (R273). -/
def execHubStatus (h : Hdr) (lane dst : Nat) (s : State) : Host.Outcome State Fault Refusal :=
  if !s.spells (.hubStatus h lane dst) then .next s else
  .next (s.packet opHubStatus h
    (fun s => rank0 s .hlnk (decide (31 < lane) || s.badAddr dst 544) false [])
    (fun pk s =>
      let r := s.head lane
      let bs := leBytes 8 r.lastStatus ++ leBytes 8 r.statusNs ++ leBytes 8 r.lastHello ++ leBytes 8 0 ++
        (List.range 64).flatMap fun k => leBytes 8 (tget 0 r.temps k)
      (s.writeAt 6 dst bs).complete pk .ok [544]))

end Sys2Proof.Machine
end

