-- ==== Sys2Proof/Machine/Enc.lean ====
section
/-!
DEFINITION. The encoder channels (R279 to R305, R330, R641): configuration, the four kinds of input, positions, edges, speed, the
high-water mark and signal faults; and what follows a channel's position: latch records (R316 to R319) and divided outputs (R328, R329).
-/

namespace Sys2Proof.Machine

/-! ## Parameter block (R280) -/

def EncRt.eflags (e : EncRt) : Nat := fieldN e.block 0 1
def EncRt.reverse (e : EncRt) : Bool := bit e.eflags 0
def EncRt.indexCheck (e : EncRt) : Bool := bit e.eflags 1
def EncRt.indexFault (e : EncRt) : Bool := bit e.eflags 2
def EncRt.stopOnFault (e : EncRt) : Bool := bit e.eflags 3
def EncRt.autoCorr (e : EncRt) : Bool := bit e.eflags 4
def EncRt.revWin (e : EncRt) : Nat := fieldN e.block 1 1
/-- `STILL_T` in 1/16 ns. -/
def EncRt.stillT (e : EncRt) : Nat := fieldN e.block 2 2 * 1600000
def EncRt.mMin (e : EncRt) : Nat := fieldN e.block 4 2
def EncRt.indexTol (e : EncRt) : Nat := fieldN e.block 6 2
/-- `M_WIN` in 1/16 ns. -/
def EncRt.mWin (e : EncRt) : Nat := fieldN e.block 8 4 * 16
def EncRt.indexCounts (e : EncRt) : Nat := fieldN e.block 12 4
def EncRt.scale (e : EncRt) : Nat := fieldN e.block 16 8
def EncRt.origin (e : EncRt) : Int := fieldS e.block 24 8
def EncRt.radMin (e : EncRt) : Nat := fieldN e.block 40 2
def EncRt.radMax (e : EncRt) : Nat := fieldN e.block 42 2
/-- `FILTER` in 1/16 ns. -/
def EncRt.filter (e : EncRt) : Nat := fieldN e.block 44 1 * 16
def EncRt.posBits (e : EncRt) : Nat := fieldN e.block 45 1
def EncRt.log2L (e : EncRt) : Nat := fieldN e.block 46 1
def EncRt.gray (e : EncRt) : Bool := bit (fieldN e.block 47 1) 0
/-- `LATCH_NS` in 1/16 ns. -/
def EncRt.latchNs (e : EncRt) : Nat := fieldN e.block 58 2 * 16
def EncRt.maxStep (e : EncRt) : Nat := fieldN e.block 60 4

/-- A number outside a range. -/
def outside (lo hi x : Int) : Bool := decide (x < lo) || decide (hi < x)

/-- Clock periods of a frame of a channel (`READ_NS` of R280): the position bits, with nE, nW and the CRC on BiSS-C (R290), and a free
number beyond them (assumption 34). -/
def frameClocks (type posBits : Nat) : Nat := posBits + (if type = 2 then 8 else 0) + Config.free .frameTime type % 64

/-- A parameter block that R281 refuses for a type: a field that the type uses outside its range, or a reserved bit not 0. -/
def encBad (type : Nat) (b : List Byte) : Bool :=
  let f (off n : Nat) : Int := fieldN b off n
  let g (off n : Nat) : Int := fieldS b off n
  decide (32 ≤ fieldN b 0 1) || outside 1 255 (f 1 1) || outside 1 10000 (f 2 2) || outside 16 65535 (f 4 2) ||
  outside 1000 1000000 (f 8 4) ||
  (decide (type ≤ 1) && decide (f 12 4 < 1)) ||
  (decide (type = 0) && (outside 8192 32767 (g 36 2) || outside (-8192) 8192 (g 38 2) || decide (f 42 2 ≤ f 40 2))) ||
  (decide (2 ≤ type) &&
    (outside 8 40 (f 45 1) || outside 0 12 (f 46 1) || decide (2 ≤ fieldN b 47 1) ||
     outside 100 (if type = 2 then 10000 else 2000) (f 48 4) ||
     (decide (type = 2) && outside 1000 1000000 (f 52 4)) ||
     (decide (type = 3) && outside 1 1000 (f 56 2)) ||
     decide (f 52 4 * f 48 4 < 1000000 * (frameClocks type (fieldN b 45 1) : Nat))))

/-- Counts of one native increment (R293). -/
def State.native (s : State) (ch : Nat) : Nat :=
  match s.rd (R.ENC_STATUS_TYPE ch) with
  | 0 => 1
  | 1 => 1024
  | _ => 2 ^ (12 - (s.enc ch).log2L)

/-- The position and high-water mark of a channel. -/
def State.encPos (s : State) (ch : Nat) : Int := s.rdS (R.ENC_POS_POS ch)
def State.encHwm (s : State) (ch : Nat) : Int := s.rdS (R.ENC_HWM_HWM ch)

/-- The web position of a count (R294). -/
def EncRt.webNm (e : EncRt) (p : Int) : Int := e.origin + sar (p * e.scale + 2 ^ 31) 32

/-- A quotient of which the spec does not say how it is rounded: the whole number below it or the one above. -/
def State.quot (s : State) (num : Int) (den : Nat) : Int :=
  if num % (den : Int) = 0 then num / den else num / den + (Config.free .speedRound s.fresh % 2 : Nat)

/-! ## Speed (R298 to R301) -/

/-- The position lies behind the high-water mark and no reversal is declared (R303). -/
def State.behind (s : State) (ch : Nat) : Bool := !s.flag (R.ENC_STATUS_SUSPENDED ch) && decide (s.encPos ch < s.encHwm ch)

/-- The change of position within `M_WIN` of an instant. -/
def EncRt.moved (e : EncRt) (now : Nat) : Nat :=
  let w := e.hist.filter fun p => decide (now ≤ p.t + e.mWin)
  match w.head?, w.getLast? with
  | some a, some b => (a.p - b.p).natAbs
  | _, _ => 0

/-- The M-method is in force at an instant: `METHOD`, unless the window has meanwhile lost its change (R298); behind the high-water mark
the estimate is kept (R303). -/
def State.encM (s : State) (ch now : Nat) : Bool :=
  let e := s.enc ch
  s.flag (R.ENC_STATUS_METHOD ch) && (s.behind ch || decide (e.mMin ≤ 2 * e.moved now))

/-- The estimate of the T-method at an instant: the last interval's, or less while no edge comes (R298, R299). -/
def EncRt.tSpeed (e : EncRt) (now : Nat) : Int × Nat :=
  if e.edge.t + e.stepDt < now then (e.step, now - e.edge.t) else (e.step, e.stepDt)

/-- The speed of a channel at an instant, as counts over 1/16 ns; `none` while none is reported or it is 0 under R300 or R301. An estimate
kept behind the high-water mark falls under R299 too (R303). -/
def State.encSpeed (s : State) (ch now : Nat) : Option (Int × Nat) :=
  let e := s.enc ch
  let v := e.tSpeed now
  if s.rd (R.ENC_STATUS_TYPE ch) = 7 ∨ s.flag (R.ENC_STATUS_STANDSTILL ch) ∨ s.flag (R.ENC_STATUS_UNCERTAIN ch) then none
  else if !s.encM ch now then some v
  else if s.behind ch && decide (v.1.natAbs * e.mDen < e.mNum.natAbs * v.2) then some v
  else some (e.mNum, e.mDen)

/-- `ENC_SPEED` at an instant: counts per ns with 32 fractional bits. -/
def State.encSpeedReg (s : State) (ch now : Nat) : Int :=
  match s.encSpeed ch now with
  | none => 0
  | some (n, d) => s.quot (n * 16 * 2 ^ 32) d

/-! ## Faults (R330, R641) -/

/-- The channel paces a RUNNING context. -/
def State.paces (s : State) (ch : Nat) : Bool :=
  s.ctxs.any fun c => decide (c.2.st = .running) && c.2.groupList.any fun g => decide (s.rd (R.SYN_STATE_CHANNEL g) = ch)

/-- A signal fault of a channel at an instant (R282, R330, R641). -/
def State.encFault (s : State) (ch reason : Nat) (code : Status) (t : Nat) : State :=
  if s.flag (R.ENC_STATUS_FAULT ch) then s
  else
    let s := ((s.wr (R.ENC_STATUS_FAULT ch) 1).wr (R.ENC_STATUS_REASON ch) reason).wr (R.ENC_STATUS_FAULT_CODE ch) code.code
    let s := s.raise .fire 16
    let e := s.enc ch
    let s := s.setEnc ch { e with stopReq := e.stopReq || (e.stopOnFault && s.paces ch), cfgPk := none }
    match e.cfgPk with
    | some pk => s.complete pk (if t ≤ e.cfgAt + 16000000 then .encFault else .ok) []
    | none => s

/-! ## Divided outputs -/

/-- The levels of A and B at a place of the Gray sequence 00, 01, 11, 10 (R328), B inverted when asked (`DIV_CFG`). -/
def State.divLevels (s : State) (d place : Nat) : Bool × Bool :=
  (decide (2 ≤ place), decide (place = 1 ∨ place = 2) != s.flag (R.DIV_CFG_INVERT_B d))

/-- Steps that wait leave a divided output up to an instant, 20 ns apart; `fuel` bounds the queue (R329). -/
def State.divDrain (s : State) (d t : Nat) : Nat → State
  | 0 => s
  | fuel + 1 =>
    let x := s.div d
    match x.queue with
    | [] => s
    | f :: q =>
      if t < x.next then s
      else
        let place := (x.place + (if f then 1 else 3)) % 4
        let v := s.divLevels d place
        ((s.setDiv d { place := place, queue := q, next := x.next + 320 }).put (.quad d v.1 v.2 x.next)).divDrain d t fuel

/-- A channel's position goes from `p0` to `p1` at `t`: a divided output steps once for each multiple of its divisor that is crossed;
a 65th step that waits drops the queue (R328, R329). -/
def State.divMove (s : State) (d : Nat) (p0 p1 : Int) (t : Nat) : State :=
  let dv := s.rd (R.DIV_DIVISOR_D d)
  if dv = 0 then s
  else
    let k := p1 / (dv : Int) - p0 / (dv : Int)
    let s := s.divDrain d t 65
    let x := s.div d
    let s := (s.setDiv d { x with queue := x.queue ++ List.replicate k.natAbs (decide (0 < k)),
                                  next := if x.queue.isEmpty then max x.next t else x.next }).divDrain d t 1
    let x := s.div d
    if 64 < x.queue.length then
      ((s.setDiv d { x with queue := [] }).count (R.DIV_OVERRUN_COUNT d) (R.DIV_OVF_OVERRUN_OVF d) .fire 1).raise .fire 22
    else s

/-! ## Latches -/

/-- The position at an instant between two points (R318). -/
def between (a after : EncPt) (t : Nat) : Int :=
  let dt : Int := (after.t : Int) - a.t
  if dt ≤ 0 then after.p else a.p + cdiv ((after.p - a.p) * ((t : Int) - a.t) + cdiv dt 2) dt

/-- The points of a channel that straddle an instant (R318): the newest one no later, and the first one no earlier if it has arrived. -/
def State.straddle (s : State) (ch t : Nat) : EncPt × Option EncPt :=
  let h := (s.enc ch).hist
  ((h.find? fun p => decide (p.t ≤ t)).getD ⟨t, s.encPos ch⟩, (h.filter fun p => decide (t ≤ p.t)).getLast?)

/-- The position of a channel at an instant up to now. -/
def State.posAt (s : State) (ch t : Nat) : Int :=
  match s.straddle ch t with
  | (a, some b) => between a b t
  | (_, none) => s.encPos ch

/-- The speed at an instant as a record has it (R317). -/
def State.recSpeed (s : State) (ch t : Nat) : Int :=
  match s.encSpeed ch t with
  | some (n, d) => s.quot (n * 16 * 65536) d
  | none => 0

/-- A latch record (R317, R318) of an edge that lies between two points of its channel. -/
def State.latchRecord (s : State) (x : LatchEdge) (after : EncPt) : List Byte :=
  let ch := x.ch
  let e := s.enc ch
  let p := between x.before after x.t
  let v := s.recSpeed ch x.t
  leBytes 8 (ofS 64 p) ++ leBytes 8 (x.t / 16) ++ leBytes 1 (x.t % 16) ++ leBytes 1 x.source ++
  leBytes 1 (b2n x.falling + 2 * ch + 8 * b2n (s.encSpeed ch x.t).isNone + 16 * b2n x.lost + 32 * b2n (s.flag (R.ENC_STATUS_SUSPENDED ch))) ++
  leBytes 1 0 ++ leBytes 4 (ofS 32 v) ++ leBytes 8 (ofS 64 (e.webNm p))

/-- The edges that wait for a point of their channel become records (R318). -/
def State.latchAfter (s : State) (ch : Nat) (pt : EncPt) : State :=
  let ready (x : LatchEdge) : Bool := decide (x.ch = ch) && decide (x.t ≤ pt.t)
  (List.range 8).foldl (fun s i =>
    let l := s.latch i
    let done := l.edges.filter ready
    if done.isEmpty then s
    else s.setLatch i { l with edges := l.edges.filter (fun x => !ready x), records := l.records ++ done.map fun x => s.latchRecord x pt }) s

/-- The camera triggers that wait for a point of their channel get their records (R318, R337). -/
def State.camAfter (s : State) (ch : Nat) (pt : EncPt) : State :=
  s.cams.foldl (fun s e =>
    let fix (x : CamTrig) : CamTrig :=
      if x.rec'.isNone && decide (x.ch = ch) && decide (x.t ≤ pt.t) then { x with rec' := some (between x.before pt x.t, s.recSpeed ch x.t) } else x
    s.setCam e.1 { e.2 with frames := e.2.frames.map fun f => { f with trigs := f.trigs.map fix } }) s

/-! ## Movement (R297 to R304) -/

/-- No edge for `STILL_T` (R300). -/
def State.standstill (s : State) (ch t : Nat) : State :=
  let e := s.enc ch
  if !s.flag (R.ENC_STATUS_STANDSTILL ch) && decide (e.lastEdge + e.stillT ≤ t) then
    (s.wr (R.ENC_STATUS_STANDSTILL ch) 1).setEnc ch { e with edgeDir := 0, edgeN := 0 }
  else s

/-- A reversal is declared (R301, R304). -/
def State.reversal (s : State) (ch : Nat) : State :=
  let s := (((s.wr (R.ENC_STATUS_SUSPENDED ch) 1).wr (R.ENC_STATUS_BACKWARD ch) 1).wr (R.ENC_STATUS_UNCERTAIN ch) 1).wr
    (R.ENC_STATUS_METHOD ch) 0
  let e := s.enc ch
  let s := s.setEnc ch { e with edgeDir := 0, edgeN := 0, lastDir := -1, idx := none }
  (s.count (R.ENC_REVERSALS_COUNT ch) (R.ENC_OVF_REV_OVF ch) .fire 1).raise .fire 18

/-- An edge at a position, in a direction (R297, R300, R301, R304). -/
def State.encEdge (s : State) (ch : Nat) (pt : EncPt) (dir : Int) : State :=
  let susp := s.flag (R.ENC_STATUS_SUSPENDED ch)
  let counted := susp || (decide (0 < dir) && decide (s.encHwm ch < pt.p))
  let s := if susp && decide (s.encHwm ch ≤ pt.p) then s.wr (R.ENC_STATUS_SUSPENDED ch) 0 else s
  let s := if s.encHwm ch < pt.p then s.wrS (R.ENC_HWM_HWM ch) pt.p else s
  if !counted then s
  else
    let e : EncRt := { s.enc ch with lastEdge := pt.t }
    let s := if 0 < dir then s.wr (R.ENC_STATUS_BACKWARD ch) 0 else s
    let turn := decide (dir ≠ e.edgeDir)
    let s := if susp && decide (e.lastDir ≠ 0) && decide (dir ≠ e.lastDir) then
        (s.wr (R.ENC_STATUS_UNCERTAIN ch) 1).wr (R.ENC_STATUS_METHOD ch) 0
      else s
    let e := { e with mFrom := if turn && s.flag (R.ENC_STATUS_UNCERTAIN ch) then pt.t + e.mWin else e.mFrom, edgeDir := dir, lastDir := dir,
                      edgeN := if turn then 0 else e.edgeN }
    let dt := pt.t - e.edge.t
    if 1 ≤ e.edgeN ∧ 0 < dt then
      ((s.wr (R.ENC_STATUS_UNCERTAIN ch) 0).wr (R.ENC_STATUS_STANDSTILL ch) 0).setEnc ch
        { e with edgeN := e.edgeN + 1, step := pt.p - e.edge.p, stepDt := dt, edge := pt }
    else s.setEnc ch { e with edgeN := e.edgeN + 1, edge := pt }

/-- The M window after a new point, and the change of method (R298, R301); behind the high-water mark the estimate stays (R303). -/
def State.encMethod (s : State) (ch : Nat) (pt : EncPt) : State :=
  let was := s.encM ch pt.t
  let e := s.enc ch
  let e := { e with hist := pt :: e.hist.filter fun p => decide (pt.t ≤ p.t + e.mWin) }
  let s := s.setEnc ch e
  if s.behind ch then s
  else
    let old := e.hist.getLast?.getD pt
    let m := if was then decide (e.mMin ≤ 2 * e.moved pt.t)
      else decide (e.mMin ≤ e.moved pt.t) && decide (e.mFrom ≤ pt.t) && !s.flag (R.ENC_STATUS_UNCERTAIN ch)
    let s := if m && decide (old.t < pt.t) then s.setEnc ch { e with mNum := pt.p - old.p, mDen := pt.t - old.t } else s
    s.wrB (R.ENC_STATUS_METHOD ch) m

/-- The position of a channel becomes `pt` with the edges that it passed (R287, R289, R302 to R304), and what follows it. -/
def State.encMove (s : State) (ch : Nat) (pt : EncPt) (edges : List (EncPt × Int)) : State :=
  let p0 := s.encPos ch
  let s := (s.standstill ch pt.t).wrS (R.ENC_POS_POS ch) pt.p
  let e := s.enc ch
  let s := s.setEnc ch { e with forward := if p0 < pt.p then true else if pt.p < p0 then false else e.forward }
  let s := if !s.flag (R.ENC_STATUS_SUSPENDED ch) && decide ((e.revWin * s.native ch : Nat) < s.encHwm ch - pt.p) then s.reversal ch else s
  let s := edges.foldl (fun s x => s.encEdge ch x.1 x.2) s
  let s := if s.flag (R.ENC_STATUS_SUSPENDED ch) && decide (s.encHwm ch ≤ pt.p) then s.wr (R.ENC_STATUS_SUSPENDED ch) 0 else s
  let s := if !s.flag (R.ENC_STATUS_SUSPENDED ch) && decide (s.encHwm ch < pt.p) then s.wrS (R.ENC_HWM_HWM ch) pt.p else s
  let s := ((s.encMethod ch pt).latchAfter ch pt).camAfter ch pt
  [0, 1].foldl (fun s d => if s.rd (R.DIV_CFG_CHANNEL d) = ch then s.divMove d p0 pt.p pt.t else s) s

/-- The position in the channel's forward sense (R293). -/
def EncRt.sense (e : EncRt) (x : Int) : Int := if e.reverse then -x else x

/-! ## Sine and cosine (R283 to R288) -/

/-- Cosine and sine of 2π / 2^i for i from 2 to 13, times 2^64. -/
def turnTable : List (Int × Int) :=
  [(0, 18446744073709551616), (13043817825332782212, 13043817825332782212), (17042569291174129989, 7059263338087549767),
   (18092295058859852118, 3598781241489102189), (18357917958986607856, 1808097102496279522),
   (18424524162600791837, 905138830610008563), (18441188259278644697, 452705761816584062),
   (18445355067807029948, 226369926147403917), (18446396818965434987, 113187093788755730),
   (18446657259819241109, 56593813235639762), (18446722370224206390, 28296939910536374),
   (18446738647837417334, 14148474116859585)]

/-- A vector turned back by an angle. -/
def turnBack (r : Int × Int) (v : Int × Int) : Int × Int := (v.1 * r.1 + v.2 * r.2, v.2 * r.1 - v.1 * r.2)

/-- The angle of a vector in units of 2π / 8,192, rounded down, bit by bit, and what is left of the vector. -/
def angle8192 (cs cc : Int) : Nat × (Int × Int) :=
  let flip := decide (cs < 0) || (decide (cs = 0) && decide (cc < 0))
  let v := if flip then (-cc, -cs) else (cc, cs)
  turnTable.foldl (fun a r =>
    let w := turnBack r a.2
    if 0 ≤ w.2 then (2 * a.1 + 1, w) else (2 * a.1, a.2)) (b2n flip, v)

/-- A vector lies within 2^-20 counts above angle 0. -/
def hugsZero (v : Int × Int) : Bool := decide (v.2 * 2 ^ 64 < v.1 * 26986075409)

/-- `atan_4096` (R284); `pick` is the free choice near a rounding boundary, and the answer where both inputs are 0. -/
def atan4096 (pick : Nat) (cs cc : Int) : Nat :=
  if cs = 0 ∧ cc = 0 then pick % 4096
  else
    let a := angle8192 cs cc
    let th := (a.1 + 1) / 2 % 4096
    let past := turnBack (turnTable.getLastD (1, 0)) a.2
    if a.1 % 2 = 1 ∧ hugsZero a.2 then (if pick % 2 = 0 then th else (th + 4095) % 4096)
    else if a.1 % 2 = 0 ∧ hugsZero (past.1, -past.2) then (if pick % 2 = 0 then th else (th + 1) % 4096)
    else th

/-- The edges of a sine-cosine channel between two points: the multiples of 1,024 crossed, their times interpolated to 1/16 ns (R297). -/
def sinEdges (a b : EncPt) : List (EncPt × Int) :=
  let at' (m : Int) : EncPt :=
    ⟨(if b.p = a.p then b.t else a.t + (((m * 1024 - a.p).natAbs * (b.t - a.t) * 2 + (b.p - a.p).natAbs) / (2 * (b.p - a.p).natAbs))), m * 1024⟩
  let lo := a.p / 1024
  let hi := b.p / 1024
  if a.p ≤ b.p then (List.range (hi - lo).toNat).map fun (i : Nat) => (at' (lo + 1 + i), 1)
  else (List.range (lo - hi).toNat).map fun (i : Nat) => (at' (lo - i), -1)

/-- A step of a corrected value towards its target, by at most `k` (R288). -/
def towards (v target k : Int) : Int := v + clampI (-k) k (target - v)

/-- The Lissajous window ends (R288). -/
def State.endWindow (s : State) (ch : Nat) : State :=
  let e := s.enc ch
  let k := s.fresh
  let s := ((({ s with fresh := k + 1 }.wrS (R.ENC_LISSA_S_MAX ch) e.sMax).wrS (R.ENC_LISSA_S_MIN ch) e.sMin).wrS (R.ENC_LISSA_C_MAX ch)
    e.cMax).wrS (R.ENC_LISSA_C_MIN ch) e.cMin
  let moved := ((e.raw.getD 0) - e.winP).natAbs
  let s := if e.autoCorr && decide (16 * 4096 ≤ moved) then
      let gc := if e.cMax = e.cMin then toS 16 (Config.free .gain k) else cdiv (16384 * (e.sMax - e.sMin)) (e.cMax - e.cMin)
      ((s.wrS (R.ENC_CORR_OFS_S ch) (towards (s.rdS (R.ENC_CORR_OFS_S ch)) (cdiv (e.sMax + e.sMin) 2) 4)).wrS (R.ENC_CORR_OFS_C ch)
        (towards (s.rdS (R.ENC_CORR_OFS_C ch)) (cdiv (e.cMax + e.cMin) 2) 4)).wrS (R.ENC_GAIN_GC ch)
        (towards (s.rdS (R.ENC_GAIN_GC ch)) gc 16)
    else s
  s.setEnc ch { e with winN := 0 }

/-- A pair and its raw position enter the Lissajous window. -/
def EncRt.lissa (e : EncRt) (x c raw : Int) : EncRt :=
  if e.winN = 0 then { e with winN := 1, winP := raw, sMax := x, sMin := x, cMax := c, cMin := c }
  else { e with winN := e.winN + 1, sMax := max e.sMax x, sMin := min e.sMin x, cMax := max e.cMax c, cMin := min e.cMin c }

/-- A pair of ADC samples at `t` (R283 to R287). -/
def State.encSample (s : State) (ch : Nat) (x c : Int) (t : Nat) : State :=
  if s.rd (R.ENC_STATUS_TYPE ch) ≠ 0 then s
  else
    let s := if 65536 ≤ (s.enc ch).winN then s.endWindow ch else s
    let s1 := x - s.rdS (R.ENC_CORR_OFS_S ch)
    let c1 := c - s.rdS (R.ENC_CORR_OFS_C ch)
    let cc := sar (c1 * s.rdS (R.ENC_GAIN_GC ch) + s1 * s.rdS (R.ENC_GAIN_PH ch) + 8192) 14
    let k := s.fresh
    let s := { s with fresh := k + 1 }
    let th := atan4096 (Config.free .angle k) s1 cc
    let e := s.enc ch
    let periods := match e.theta with
      | none => e.periods
      | some o => if 3072 ≤ o ∧ th < 1024 then e.periods + 1 else if o < 1024 ∧ 3072 ≤ th then e.periods - 1 else e.periods
    let raw : Int := periods * 4096 + th
    let zero := match e.raw with | none => raw | some _ => e.zero
    let r2 := s1 * s1 + cc * cc
    let bad := decide (r2 < (e.radMin * e.radMin : Nat)) || decide ((e.radMax * e.radMax : Nat) < r2)
    let n := if bad then e.badRad + 1 else 0
    let jump := match e.raw with | none => false | some o => decide (1024 < (raw - o).natAbs)
    let s := s.setEnc ch ({ e with theta := some th, periods := periods, raw := some raw, zero := zero, badRad := n }.lissa x c raw)
    let s := if jump then s.encFault ch 2 .encFault t else s
    let s := if 4 ≤ n then s.encFault ch 1 .encFault t else s
    let pt : EncPt := ⟨t, e.sense (raw - zero)⟩
    let last := (e.hist.head?).getD ⟨t, s.encPos ch⟩
    s.encMove ch pt (sinEdges ⟨last.t, s.encPos ch⟩ pt)

/-- `ENCODER_SAMPLE` (R283): a sample pair of channel `ch` at `t`. -/
def execEncoderSample (ch : Fin 4) (x c : Int) (t : Nat) (s : State) : Host.Outcome State Fault Refusal :=
  if !s.clocked then .next s else
  .next ((s.advance t).encSample ch.val x c t)

/-- `LISSAJOUS_WINDOW` (R288): the window of 65,536 pairs ends. -/
def execLissajousWindow (ch : Fin 4) (s : State) : Host.Outcome State Fault Refusal :=
  if !s.clocked then .next s else
  if s.rd (R.ENC_STATUS_TYPE ch.val) = 0 ∧ 65536 ≤ (s.enc ch.val).winN then .next (s.endWindow ch.val) else .next s

/-! ## A/B/Z (R289) -/

/-- The place of a pair of levels in the sequence 00, 10, 11, 01 (R293). -/
def quadPlace (a b : Bool) : Nat := match a, b with | false, false => 0 | true, false => 1 | true, true => 2 | false, true => 3

/-- The levels at a place of that sequence. -/
def quadPair (k : Nat) : Bool × Bool := (decide (k % 4 = 1 ∨ k % 4 = 2), decide (2 ≤ k % 4))

/-- Counted levels of A and B from `t` on, after the filter (R289). The levels before the first that the device sees are not known: the
direction of that one transition is free (assumption 312). -/
def State.quadrature (s : State) (ch : Nat) (a b : Bool) (t : Nat) : State :=
  let e := s.enc ch
  if e.levels = some (a, b) then s
  else
    let k := s.fresh
    let was := e.levels.getD (quadPair (quadPlace a b + (if Config.free .quadLevel k % 2 = 0 then 1 else 3)))
    let s := if e.levels.isNone then { s with fresh := k + 1 } else s
    let e' := { e with levels := some (a, b), aAt := if a = was.1 then e.aAt else some t, bAt := if b = was.2 then e.bAt else some t }
    let s := s.setEnc ch e'
    if s.rd (R.ENC_STATUS_TYPE ch) ≠ 1 then s
    else
      let both := match e'.aAt, e'.bAt with | some x, some y => decide (x / 16 = y / 16) | _, _ => false
      let s := if both then s.encFault ch 3 .encFault t else s
      let d := (quadPlace a b + 4 - quadPlace was.1 was.2) % 4
      if d = 2 then s
      else
        let dir := e.sense (if d = 1 then 1 else -1)
        let pt : EncPt := ⟨t, s.encPos ch + dir * 1024⟩
        s.encMove ch pt [(pt, dir)]

/-- The filter of a channel's digital inputs, in 1/16 ns: `FILTER` on an A/B/Z channel (R289). -/
def State.inputFilter (s : State) (ch : Nat) : Nat := if s.rd (R.ENC_STATUS_TYPE ch) = 1 then (s.enc ch).filter else 0

/-- `QUADRATURE_TRANSITION` (R289): new levels from `t` on, held for `held` ns; they count only once they have held for `FILTER`, with the
instant at which they began. -/
def execQuadratureTransition (ch : Fin 4) (a b : Bool) (e : InEdge) (s : State) : Host.Outcome State Fault Refusal :=
  if !s.clocked then .next s else
  let w := s.inputFilter ch.val
  if 16 * e.held < w then .next s else .next ((s.advance (e.t + w)).quadrature ch.val a b e.t)

/-! ## BiSS-C and SSI (R290 to R292) -/

/-- A read that is discarded (R290, R292): counted; the fourth in a row is a signal fault. -/
def State.discardRead (s : State) (ch : Nat) (size : Bool) (t : Nat) : State :=
  let e := s.enc ch
  let s := (s.setEnc ch { e with discards := e.discards + 1 }).count (R.ENC_DISCARDS_COUNT ch) (R.ENC_OVF_DISCARDS_OVF ch) .fire 1
  if 4 ≤ e.discards + 1 then s.encFault ch (if size then 6 else 4) .encFault t else s

/-- A read's position, in the encoder's own units, at an instant (R292, R293). -/
def State.acceptRead (s : State) (ch raw t : Nat) : State :=
  let e := s.enc ch
  let v : Int := (raw * s.native ch : Nat)
  match e.raw with
  | none =>
    let s := s.setEnc ch { e with raw := some v, zero := v, discards := 0, hist := [⟨t, v⟩] }
    ((s.wrS (R.ENC_POS_POS ch) v).wrS (R.ENC_HWM_HWM ch) v).latchAfter ch ⟨t, v⟩
  | some o =>
    if e.maxStep < (v - o).natAbs then s.discardRead ch true t
    else
      let s := s.setEnc ch { e with raw := some v, discards := 0 }
      let pt : EncPt := ⟨t, e.zero + e.sense (v - e.zero)⟩
      let dir : Int := if s.encPos ch < pt.p then 1 else -1
      s.encMove ch pt (if v = o then [] else [(pt, dir)])

/-- CRC-6 of a BiSS-C frame: polynomial x^6 + x + 1, start value 0, the highest bit first (R290). -/
def crc6 (n v : Nat) : Nat :=
  (List.range n).foldl (fun c i =>
    let x := (c / 32) ^^^ (v / 2 ^ (n - 1 - i) % 2)
    (c * 2 % 64) ^^^ (if x % 2 = 1 then 3 else 0)) 0

/-- A BiSS-C frame (R290): its position bits, nE, nW and CRC as sent; `start` says that the start bit came in time; `t` is the first MA
edge. -/
def State.bissRead (s : State) (ch pos : Nat) (nE nW : Bool) (crc : Nat) (start : Bool) (t : Nat) : State :=
  let e := s.enc ch
  if s.rd (R.ENC_STATUS_TYPE ch) ≠ 2 then s
  else
    let at' := t + e.latchNs
    let p := pos % 2 ^ e.posBits
    let good := start && decide (crc % 64 = 63 - crc6 (e.posBits + 2) (4 * p + 2 * b2n nE + b2n nW))
    if !good then s.discardRead ch false at'
    else
      let s := s.wrB (R.ENC_STATUS_WARN ch) (!nW)
      if nE then s.acceptRead ch p at'
      else (s.count (R.ENC_DISCARDS_COUNT ch) (R.ENC_OVF_DISCARDS_OVF ch) .fire 1).encFault ch 5 .encFault at'

/-- `BISS_READ` (R290). -/
def execBissRead (ch : Fin 4) (pos : Nat) (nE nW : Bool) (crc : Nat) (start : Bool) (t : Nat) (s : State) : Host.Outcome State Fault Refusal :=
  if !s.clocked then .next s else
  .next ((s.advance t).bissRead ch.val pos nE nW crc start t)

/-- Gray code to binary. -/
def ungray : Nat → Nat → Nat
  | 0, v => v
  | n + 1, v => ungray n (v ^^^ (v / 2 ^ (2 ^ n)))

/-- `SSI_READ` (R291): the bits clocked in at `t`. -/
def execSsiRead (ch : Fin 4) (raw t : Nat) (s : State) : Host.Outcome State Fault Refusal :=
  if !s.clocked then .next s else
  let e := s.enc ch.val
  if s.rd (R.ENC_STATUS_TYPE ch.val) ≠ 3 then .next s
  else
    let v := raw % 2 ^ e.posBits
    .next ((s.advance t).acceptRead ch.val (if e.gray then ungray 6 v else v) (t + e.latchNs))

/-! ## Index and standstill -/

/-- `INDEX_EDGE` (R296): a rising edge of Z whose level has held for `held` ns. -/
def execIndexEdge (z : ZEdge) (s : State) : Host.Outcome State Fault Refusal :=
  if !s.clocked then .next s else
  let c := z.ch.val
  let e := s.enc c
  if 16 * z.held < s.inputFilter c ∨ 1 < s.rd (R.ENC_STATUS_TYPE c) ∨ !e.indexCheck ∨ !e.forward ∨ s.flag (R.ENC_STATUS_BACKWARD c) then .next s
  else
    let p := s.encPos c
    let s := s.setEnc c { e with idx := some p }
    match e.idx with
    | none => .next s
    | some o =>
      let d := p - o
      let s := s.wr (R.ENC_INDEX_COUNT c) (min 0xFFFFFFFF d.toNat)
      if e.indexTol < (d - e.indexCounts).natAbs then
        let s := (s.count (R.ENC_IDX_ERR_COUNT c) (R.ENC_OVF_IDX_OVF c) .fire 1).raise .fire 17
        .next (if e.indexFault then s.encFault c 7 .indexError s.now else s)
      else .next s

/-- `STANDSTILL` (R300): `STILL_T` has passed at `t` without an edge. -/
def execStandstill (ch : Fin 4) (t : Nat) (s : State) : Host.Outcome State Fault Refusal :=
  if !s.clocked then .next s else
  if s.rd (R.ENC_STATUS_TYPE ch.val) = 7 then .next s else .next ((s.advance t).standstill ch.val t)

/-! ## Configuration (R281, R282) -/

/-- A channel takes its configuration (R281); the levels at its inputs stay what they are. -/
def State.encConfigure (s : State) (ch type : Nat) (b : List Byte) (pk : Pk) : State :=
  let s := match (s.enc ch).cfgPk with
    | some old => s.complete old .ok []
    | none => s
  let z (s : State) (f : Nat → FRef) : State := s.wr (f ch) 0
  let s := [R.ENC_POS_POS, R.ENC_HWM_HWM, R.ENC_STATUS_FAULT, R.ENC_STATUS_REASON, R.ENC_STATUS_FAULT_CODE, R.ENC_IDX_ERR_COUNT,
    R.ENC_REVERSALS_COUNT, R.ENC_DISCARDS_COUNT, R.ENC_INDEX_COUNT, R.ENC_LISSA_S_MAX, R.ENC_LISSA_S_MIN, R.ENC_LISSA_C_MAX,
    R.ENC_LISSA_C_MIN, R.ENC_STATUS_WARN, R.ENC_STATUS_SUSPENDED, R.ENC_STATUS_METHOD, R.ENC_STATUS_UNCERTAIN,
    R.ENC_STATUS_BACKWARD].foldl z s
  let s := (((((s.wr (R.ENC_STATUS_STANDSTILL ch) 1).wr (R.ENC_STATUS_TYPE ch) type).wr (R.ENC_CORR_OFS_S ch) (fieldN b 32 2)).wr
    (R.ENC_CORR_OFS_C ch) (fieldN b 34 2)).wr (R.ENC_GAIN_GC ch) (fieldN b 36 2)).wr (R.ENC_GAIN_PH ch) (fieldN b 38 2)
  let e := s.enc ch
  s.setEnc ch { block := b, cfgPk := some pk, cfgAt := s.now, lastEdge := s.now, edge := ⟨s.now, 0⟩, levels := e.levels, aAt := e.aAt,
                bAt := e.bAt }

/-- `ENC_CONFIG` (R279 to R282). -/
def execEncConfig (h : Hdr) (channel type block : Nat) (s : State) : Host.Outcome State Fault Refusal :=
  if !s.spells (.encConfig h channel type block) then .next s else
  let r := s.readAt block 64
  let b := s.bytesAt block 64
  .next (s.packetR opEncConfig h [(block, 64)]
    (fun s => rank s .fire (decide (3 < channel) || decide (3 < type) || (!(okBytes r).isEmpty && encBad type b)) (s.paces channel) r [])
    (fun pk s => s.encConfigure channel type b pk))

/-- `ENC_CONFIG_FAULT_WINDOW_END` (R282): 1 ms has passed without a signal fault. -/
def execEncConfigFaultWindowEnd (ch : Fin 4) (s : State) : Host.Outcome State Fault Refusal :=
  if !s.clocked then .next s else
  match (s.enc ch.val).cfgPk with
  | none => .next s
  | some pk => .next (((s.advance ((s.enc ch.val).cfgAt + 16000000)).setEnc ch.val { (s.enc ch.val) with cfgPk := none }).complete pk .ok [])

end Sys2Proof.Machine
end

