-- ==== Sys2Proof/Machine/Fire.lean ====
section
/-!
DEFINITION. The FIRE unit beyond its encoder channels (spec/07): synthesizer parameters, prediction of crossings (R312, R313), latches,
position compares and divided outputs.
-/

namespace Sys2Proof.Machine

/-! ## Prediction -/

/-- The nearest whole number to a quotient, halves upward. -/
def roundHalfUp (num : Int) (den : Nat) : Int := (2 * num + den) / (2 * (den : Int))

/-- The predicted instant at which a channel crosses a position in 2^-32 counts, in 1/16 ns (R312). -/
def State.crossing (s : State) (ch : Nat) (x : Int) : Option Int :=
  if s.flag (R.ENC_STATUS_SUSPENDED ch) ∨ s.flag (R.ENC_STATUS_FAULT ch) then none
  else
    match s.encSpeed ch s.now, (s.enc ch).hist.head? with
    | some (n, d), some p =>
      if n ≤ 0 then none else some ((p.t : Int) + roundHalfUp ((x - p.p * 2 ^ 32) * d) (n.toNat * 2 ^ 32))
    | _, _ => none

/-- `COMMIT_MARGIN` in 1/16 ns. -/
def State.margin (s : State) : Nat := 16 * max 100 (min 4095 (s.rd R.FIRE_CFG_COMMIT_MARGIN))

/-! ## Synthesizer parameters -/

/-- A `SYNTH_SET` block that R307 refuses. -/
def synthBad (b : List Byte) : Bool :=
  decide (3 < fieldN b 0 1) || decide (fieldN b 1 7 ≠ 0) || decide (fieldN b 24 40 ≠ 0) ||
  decide (fieldN b 8 8 < 2 ^ 36) || decide (2 ^ 63 < fieldN b 8 8) || outside (-1048576) 1048576 (fieldS b 16 4) ||
  outside (-16000000) 16000000 (fieldS b 20 4)

/-- `SYNTH_SET` (R306 to R308, R310). -/
def execSynthSet (h : Hdr) (group when' block : Nat) (s : State) : Host.Outcome State Fault Refusal :=
  if !s.spells (.synthSet h group when' block) then .next s else
  let r := s.readAt block 64
  let b := s.bytesAt block 64
  let k := s.groupOwner group
  let live := (s.ctx k).live && decide (k ≠ 0)
  .next (s.packetR opSynthSet h [(block, 64)]
    (fun s => rank s .fire (decide (31 < group) || decide (1 < when') ||
        (!(okBytes r).isEmpty && (synthBad b || (decide (k ≠ 0) && decide (fieldN b 0 1 ≠ s.rd (R.SYN_STATE_CHANNEL group)))))) false r
      [(decide (when' = 1) && (s.changePending (.synth group) || (s.syn group).later.any fun e => e.2.isBlock), .tablePending)])
    (fun pk s =>
      let ch : TableChange := ⟨.synth group, group, [], b⟩
      let s := s.dropSteps [] [group]
      let s := if when' = 1 ∧ live then { s with tableChanges := s.tableChanges ++ [ch] } else s.applyChange ch
      s.complete pk .ok []))

/-! ## Latches -/

/-- A latch input's edge at `t`, after the filter (R316, R319); it is recorded at once if the point after it has arrived (R318). -/
def State.latchEdge (s : State) (i : Nat) (falling : Bool) (t : Nat) : State :=
  let edge := max 1 (s.rd (R.LATCH_CFG_EDGE i))
  if !s.flag (R.LATCH_CFG_LATCH_ENABLE i) || !(bit edge (if falling then 1 else 0)) then s
  else
    let l := s.latch i
    if 64 ≤ l.records.length + l.edges.length then
      ((s.setLatch i { l with lostFlag := true }).count (R.LATCH_LOST_COUNT i) (R.LATCH_OVF_LOST_OVF i) .fire 1).raise .fire 20
    else
      let ch := s.rd (R.LATCH_CFG_CHANNEL i)
      let w := s.straddle ch t
      let x : LatchEdge := ⟨t, ch, i, falling, l.lostFlag, w.1⟩
      match w.2 with
      | some b => s.setLatch i { l with records := l.records ++ [s.latchRecord x b], lostFlag := false }
      | none => s.setLatch i { l with edges := l.edges ++ [x], lostFlag := false }

/-- `LATCH_EDGE` (R316 to R319): an edge at `t` whose new level has held for `held` ns; it counts once that is `LATCH_FILTER`. -/
def execLatchEdge (input : Fin 8) (falling : Bool) (e : InEdge) (s : State) : Host.Outcome State Fault Refusal :=
  if !s.clocked then .next s else
  let w := s.rd (R.LATCH_CFG_LATCH_FILTER input.val)
  if e.held < w then .next s else .next ((s.advance (e.t + 16 * w)).latchEdge input.val falling e.t)

/-- `LATCH_READ` (R320). -/
def execLatchRead (h : Hdr) (input dst most : Nat) (s : State) : Host.Outcome State Fault Refusal :=
  if !s.spells (.latchRead h input dst most) then .next s else
  .next (s.packet opLatchRead h
    (fun s => rank0 s .fire (decide (7 < input) || s.badAddr dst (32 * most)) false [])
    (fun pk s =>
      let l := s.latch input
      let out := l.records.take most
      let s := (s.setLatch input { l with records := l.records.drop most }).writeAt 7 dst out.flatten
      s.complete pk .ok [out.length]))

/-! ## Position compares -/

/-- The channel of a compare output. -/
def State.cmpCh (s : State) (k : Nat) : Nat := s.rd (R.CMP_CFG_CHANNEL k)

/-- Complete the packet of a target, if it has one (R325, R364). -/
def State.completeOpt (s : State) (pk : Option Pk) (st : Status) (words : List Nat) : State :=
  match pk with
  | some p => s.complete p st words
  | none => s

/-- The level of a compare output from an instant on, active or not, by its polarity; a ball that is not driven has none (`CMP_CFG`). -/
def State.cmpLevel (s : State) (k : Nat) (on : Bool) (t : Nat) : State :=
  if s.flag (R.CMP_CFG_DRIVE k) then s.put (.level true k (on != s.flag (R.CMP_CFG_POLARITY k)) t) else s

/-- The first committed pulse of an output starts: the active level lasts to the later end, and the packet completes (R324 to R326). -/
def State.startPulse (s : State) (k : Nat) (x : CmpPulse) : State :=
  let c := s.cmp k
  let stop' := x.start + 16 * x.width
  let pos := x.pos.getD (s.posAt (s.cmpCh k) x.start)
  let s := s.setCmp k { c with due := c.due.drop 1, active := some (max stop' (c.active.getD 0)) }
  let s := if c.active.isSome then s else s.cmpLevel k true x.start
  let s := s.count (R.CMP_PULSES_COUNT k) (R.CMP_OVF_PULSES_OVF k) .fire 1
  s.completeOpt x.pk (if x.late then .compareLate else .ok)
    (words64 (ofS 64 pos) ++ words64 (x.start / 16) ++ [x.start % 16, 1 + 2 * b2n x.late])

/-- The active pulse of an output ends at `e`. -/
def State.endPulse (s : State) (k e : Nat) : State := (s.setCmp k { (s.cmp k) with active := none }).cmpLevel k false e

/-- What a compare output does by now, in the order of time: pulses end, and committed ones start; a pulse due while one is active extends
it (R324, R326). `fuel` bounds the events. -/
def State.runCmp (s : State) (k : Nat) : Nat → State
  | 0 => s
  | fuel + 1 =>
    let c := s.cmp k
    let due := c.due.head?.filter fun x => decide (x.start ≤ s.now)
    match c.active.filter (fun e => decide (e ≤ s.now) && due.all fun x => decide (e < x.start)), due with
    | some e, _ => (s.endPulse k e).runCmp k fuel
    | none, some x => (s.startPulse k x).runCmp k fuel
    | none, none => s

/-- Every event of an output by now. -/
def State.runOut (s : State) (k : Nat) : State := s.runCmp k (2 * (s.cmp k).due.length + 1)

/-- What the compare outputs and the divided outputs do by now. -/
def State.runOutputs (s : State) : State :=
  [0, 1].foldl (fun s d => s.divDrain d s.now 64) ((List.range 16).foldl State.runOut s)

/-- A pulse takes its place among the committed ones, the first to start first. -/
def insertPulse (x : CmpPulse) : List CmpPulse → List CmpPulse
  | [] => [x]
  | y :: r => if x.start < y.start then x :: y :: r else y :: insertPulse x r

/-- The target at the head of an output's queue is committed: its pulse starts at `t`, at the target itself when it is on time. -/
def State.commitPulseAt (s : State) (k : Nat) (x : CmpTarget) (pos : Option Int) (t : Nat) : State :=
  let c := s.cmp k
  s.setCmp k { c with queue := c.queue.drop 1, due := insertPulse ⟨x.pk, x.width, t, pos, x.late⟩ c.due }

/-- Arm the target at the head of an output's queue (R323): one at or behind the high-water mark is late, and is skipped or, with its
flag, driven at E; a fault of its channel holds it (R330); `fuel` bounds the queue. -/
def State.armCmp (k : Nat) : Nat → State → State
  | 0, s => s
  | fuel + 1, s =>
    match (s.cmp k).queue with
    | [] => s
    | x :: q =>
      let ch := s.cmpCh k
      if s.encHwm ch < x.target then s
      else
        let s := (s.count (R.CMP_LATE_COUNT k) (R.CMP_OVF_LATE_OVF k) .fire 1).raise .fire 19
        if x.atOnce then
          let x := { x with late := true }
          if s.flag (R.ENC_STATUS_FAULT ch) then s.setCmp k { (s.cmp k) with queue := x :: q }
          else State.armCmp k fuel (s.commitPulseAt k x none (s.now + s.margin))
        else
          let s := s.setCmp k { (s.cmp k) with queue := q }
          State.armCmp k fuel (s.completeOpt x.pk .compareLate (words64 (ofS 64 (s.encHwm ch)) ++ words64 (s.now / 16) ++ [s.now % 16, 2]))

/-- `COMPARE_SET` (R322, R323): nothing starts while the output's queue is full. -/
def execCompareSet (h : Hdr) (output flags target width : Nat) (s : State) : Host.Outcome State Fault Refusal :=
  if !s.spells (.compareSet h output flags target width) then .next s else
  if output < 16 ∧ 8 ≤ (s.cmp output).queue.length then .next s
  else
    .next (s.packet opCompareSet h
      (fun s => rank0 s .fire (decide (15 < output) || decide (width < 10) || decide (s.rd (R.ENC_STATUS_TYPE (s.cmpCh output)) = 7)) false [])
      (fun pk s =>
        let c := s.cmp output
        let s := s.setCmp output { c with queue := c.queue ++ [⟨some pk, toS 64 target, width, bit flags 0, false⟩] }
        if c.queue.isEmpty then State.armCmp output 8 s else s))

/-- An armed target's crossing is committed at the present instant (R324): at the predicted time once that is no further ahead than the
margin, or at E when it is nearer or the high-water mark has reached the target; a late one that a fault held is driven at E (R323). -/
def State.commitCmp (s : State) (k : Nat) : State :=
  match (s.cmp k).queue with
  | [] => s
  | x :: _ =>
    let ch := s.cmpCh k
    let e := s.now + s.margin
    let go (pos : Option Int) : State := State.armCmp k 8 (s.commitPulseAt k x pos e)
    if s.flag (R.ENC_STATUS_FAULT ch) ∨ s.mode .fire = .faulted then s
    else if x.late then go none
    else
      match s.crossing ch (x.target * 2 ^ 32) with
      | some t => if (e : Int) < t then s else go (if t = e then some x.target else none)
      | none => if x.target ≤ s.encHwm ch ∧ !s.flag (R.ENC_STATUS_SUSPENDED ch) then go none else s

/-- `COMPARE_COMMIT` (R324), at `t`. -/
def execCompareCommit (out : Fin 16) (t : Nat) (s : State) : Host.Outcome State Fault Refusal :=
  if !s.clocked then .next s else
  .next (((s.advance t).runOut out.val).commitCmp out.val)

/-- `COMPARE_PULSE_END` (R324), at `t`. -/
def execComparePulseEnd (out : Fin 16) (t : Nat) (s : State) : Host.Outcome State Fault Refusal :=
  .next ((s.advance t).runOut out.val)

/-- The compares when FIRE is aborted (R327): every queued target and every pulse that has not started `ABORTED`, every output inactive. -/
def State.abortCompares (s : State) : State :=
  (List.range 16).foldl (fun s k =>
    let s := s.runOut k
    let c := s.cmp k
    let s := if c.active.isSome then s.endPulse k s.now else s
    (c.due.map CmpPulse.pk ++ c.queue.map CmpTarget.pk).foldl (fun s pk => s.completeOpt pk .aborted []) (s.setCmp k {})) s

/-! ## Divided outputs -/

/-- `DIV_SET` (R328): divisor 0 holds the lines, so that steps that wait are dropped. -/
def execDivSet (h : Hdr) (output divisor : Nat) (s : State) : Host.Outcome State Fault Refusal :=
  if !s.spells (.divSet h output divisor) then .next s else
  .next (s.packet opDivSet h
    (fun s => rank0 s .fire (decide (1 < output)) false [])
    (fun pk s =>
      let s := (s.divDrain output s.now 64).wr (R.DIV_DIVISOR_D output) divisor
      let s := if divisor = 0 then s.setDiv output { (s.div output) with queue := [] } else s
      s.complete pk .ok []))

end Sys2Proof.Machine
end

