-- ==== Sys2Proof/Machine/Scrn.lean ====
section
/-!
DEFINITION. Screening (spec/05): the table commands, the swath of a lane (R187 to R206, R213), its finishing at the deadline (R419),
and the slices with the spare in rotation (R216 to R220).
-/

namespace Sys2Proof.Machine

/-! ## Table commands -/

/-- Nozzles in a lane of another context (R636). -/
def State.foreignLane (s : State) (ctx first n : Nat) : Bool :=
  (List.range 32).any fun l =>
    decide (l * 32768 < first + n) && decide (first < (l + 1) * 32768) && decide (s.laneOwner l ≠ 0) && decide (s.laneOwner l ≠ ctx)

/-- The lanes that a range of nozzles touches. -/
def lanesOf (first n : Nat) : List Nat :=
  (List.range 32).filter fun l => decide (l * 32768 < first + n) && decide (first < (l + 1) * 32768)

/-- The context that owns a lane is RUNNING or STOPPING (R207). -/
def State.laneLive (s : State) (l : Nat) : Bool :=
  match s.laneCtx l with
  | some c => c.live
  | none => false

/-- The part of a run of entries from nozzle `first` on that lies in a lane. -/
def lanePart {α : Type} (l first : Nat) (vals : List α) : Nat × List α :=
  let lo := max first (l * 32768)
  (lo, (vals.drop (lo - first)).take ((l + 1) * 32768 - lo))

/-- Make a table change with `when'`, at once or pending (R207, R208). -/
def State.tableChange (s : State) (live : Bool) (when' : Nat) (ch : TableChange) : State :=
  if when' = 1 ∧ live then { s with tableChanges := s.tableChanges ++ [ch] } else s.applyChange ch

/-- The first entry of a run that breaks R184: its nozzle and the reason. -/
def State.firstBadEntry (s : State) (first : Nat) (es : List Nat) : Option (Nat × Nat) :=
  es.zipIdx.findSome? fun e =>
    let g := first + e.2
    let r := nmReason (s.laneCtx (g / 32768)) e.1
    if r = 0 then none else some (g, r)

/-- Record a failing entry in `SCRN_CHECK`. -/
def State.recordCheck (s : State) (reason g : Nat) : State :=
  ((s.wr R.SCRN_CHECK_REASON reason).wr R.SCRN_CHECK_LANE (g / 32768)).wr R.SCRN_CHECK_POSITION (g % 32768)

/-- An entry change that only a privileged packet may make (R185). -/
def needsPriv (old new : Nat) : Bool :=
  (nmSealedOk old != nmSealedOk new) ||
  (nmSealedOk old &&
    (decide (nmColour old ≠ nmColour new) || decide (nmColumn old ≠ nmColumn new) || decide (nmOffset old ≠ nmOffset new)))

/-- 8-byte and 4-byte entries of a source. -/
def words8 (bs : List Byte) (n : Nat) : List Nat := (chunks 8 n bs).map leNat
def words4 (bs : List Byte) (n : Nat) : List Nat := (chunks 4 n bs).map leNat
def words2 (bs : List Byte) (n : Nat) : List Nat := (chunks 2 n bs).map leNat

/-- `NMAP_WRITE` (R184, R185, R207, R209). -/
def execNmapWrite (h : Hdr) (src first entries when' : Nat) (s : State) : Host.Outcome State Fault Refusal :=
  if !s.spells (.nmapWrite h src first entries when') then .next s else
  let len := 8 * entries
  let es := words8 (s.bytesAt src len) entries
  .next (s.packetR opNmapWrite h [(src, len)]
    (fun s =>
      (s.foreignLane h.ctx first entries, .badContext) ::
      rank s .scrn (decide (1 < when') || decide (2 ^ 20 < first + entries)) false (s.readAt src len)
        [(!s.privileged h && es.zipIdx.any (fun e => needsPriv (s.nozzle (first + e.2)) e.1), .notPriv)])
    (fun pk s =>
      let sealing := es.zipIdx.any fun e => needsPriv (s.nozzle (first + e.2)) e.1
      let note (st : Status) (s : State) : State :=
        if sealing then s.audit 11 h.ctx 255 st.code first entries (sha384 (s.bytesAt src len)) else s
      match s.firstBadEntry first es with
      | some b => ((note .badNmapEntry s).recordCheck b.2 b.1).complete pk .badNmapEntry []
      | none =>
        let ls := lanesOf first entries
        if when' = 1 ∧ ls.any (fun l => s.changePending (.nmap l)) then (note .tablePending s).complete pk .tablePending []
        else
          let s := s.dropSteps (s.runKeys first entries ++ es.flatMap nmBears)
            (((tgets nmReset s.nmap first entries ++ es).filter fun e => !nmDisabled e).map nmRowGroup)
          let s := ls.foldl (fun s l =>
            let p := lanePart l first es
            s.tableChange (s.laneLive l) when' ⟨.nmap l, p.1, p.2, []⟩) (note .ok s)
          s.complete pk .ok [entries]))

/-- `NMAP_READ` (R90, R418): the entries in force. -/
def execNmapRead (h : Hdr) (dst first entries : Nat) (s : State) : Host.Outcome State Fault Refusal :=
  if !s.spells (.nmapRead h dst first entries) then .next s else
  .next (s.packet opNmapRead h
    (fun s => rank0 s .scrn (s.badAddr dst (8 * entries) || decide (2 ^ 20 < first + entries)) false [])
    (fun pk s =>
      let bs := (tgets nmReset s.nmap first entries).flatMap (leBytes 8)
      if (List.range entries).any fun i => tget false s.nmapBad (first + i) then
        ((s.writePoisoned 5 dst bs).usePoison 5 0 0).complete pk .poisoned [entries]
      else (s.writeAt 5 dst bs).complete pk .ok [entries]))

/-- `NCAL_WRITE` (R193, R194, R207, R209). -/
def execNcalWrite (h : Hdr) (src first entries when' : Nat) (s : State) : Host.Outcome State Fault Refusal :=
  if !s.spells (.ncalWrite h src first entries when') then .next s else
  let len := 4 * entries
  let es := words4 (s.bytesAt src len) entries
  let r := s.readAt src len
  .next (s.packetR opNcalWrite h [(src, len)]
    (fun s =>
      (s.foreignLane h.ctx first entries, .badContext) ::
      rank s .scrn (decide (1 < when') || decide (2 ^ 20 < first + entries) ||
          ((okBytes r).length = len && es.any (fun e => decide (ncReserved e ≠ 0)))) false r
        [(decide (when' = 1) && (lanesOf first entries).any (fun l => s.changePending (.ncal l)), .tablePending)])
    (fun pk s =>
      let s := (lanesOf first entries).foldl (fun s l =>
        let p := lanePart l first es
        (s.dropSteps (s.runKeys p.1 p.2.length) []).tableChange (s.laneLive l) when' ⟨.ncal l, p.1, p.2, []⟩) s
      s.complete pk .ok [entries]))

/-- Some RUNNING or STOPPING context reads a shared table (R208). -/
def State.tableLive (s : State) (t : TableId) : Bool := s.ctxs.any fun e => e.2.live && e.2.readsTable t

/-- `THRESH_LOAD` (R197, R208, R209). -/
def execThreshLoad (h : Hdr) (src array when' : Nat) (s : State) : Host.Outcome State Fault Refusal :=
  if !s.spells (.threshLoad h src array when') then .next s else
  let vs := words2 (s.bytesAt src 131072) 65536
  let r := s.readAt src 131072
  .next (s.packetR opThreshLoad h [(src, 131072)]
    (fun s =>
      rank s .scrn (decide (1 < when') || decide (7 < array) ||
          (!(okBytes r).isEmpty && vs.any (fun v => decide (4095 < v)))) false r
        [(decide (when' = 1) && s.changePending (.thresh array), .tablePending)])
    (fun pk s => (s.tableChange (s.tableLive (.thresh array)) when' ⟨.thresh array, 0, vs, []⟩).complete pk .ok []))

/-- `LEVEL_SET` (R198, R208, R209). -/
def execLevelSet (h : Hdr) (src colour when' : Nat) (s : State) : Host.Outcome State Fault Refusal :=
  if !s.spells (.levelSet h src colour when') then .next s else
  let b := s.bytesAt src 64
  let r := s.readAt src 64
  .next (s.packetR opLevelSet h [(src, 64)]
    (fun s =>
      rank s .scrn (decide (1 < when') || decide (7 < colour) || (!(okBytes r).isEmpty && levelBad b)) false r
        [(decide (when' = 1) && s.changePending (.level colour), .tablePending)])
    (fun pk s =>
      (s.tableChange (s.tableLive (.level colour)) when' ⟨.level colour, 0, words2 b 14, []⟩).complete pk .ok []))

/-! ## The sample of a nozzle -/

/-- What a nozzle finds where it reads its contone (R187, R188, R205). -/
inductive Sample where
  | absent | wait | stale | blank | bad | val (v : Nat)
deriving DecidableEq, Repr

/-- The contone column of a nozzle column (R187). -/
def Ctx.contone (c : Ctx) (column : Nat) : Nat := if c.dpi1200 then column else column / 2

/-- A segment that the row cache keeps for line `n` (R189): fetched at most `RETAIN` lines before. -/
def State.segCached (s : State) (ctx r colour seg n : Nat) : Option RowSeg :=
  s.rowCache.find? fun e => decide (e.ctx = ctx) && decide (e.row = r) && decide (e.colour = colour) && decide (e.seg = seg) &&
    decide (n ≤ e.line + s.retain)

/-- A value of a composed row as the DRAM gives it, none for a poisoned word. -/
def State.rowValue (s : State) (c : Ctx) (r colour x : Nat) : Option Nat :=
  let a := c.fullAddr r + (colour * c.cols + x) * c.sampleSize
  if s.dramBad a c.sampleSize then none else some (leNat (s.dramRead a c.sampleSize))

/-- The sample of a colour and a nozzle column at a content line, for the swath of line `n` (R187 to R189, R205). -/
def State.sample (s : State) (ctx : Nat) (c : Ctx) (colour column l n : Nat) : Sample :=
  if (c.pageOf l).isNone then .absent
  else
    let r := l / c.lpr
    let x := c.contone column
    let tag := s.tagAt c r
    if s.dramBad (c.tagAddr r) 8 then .bad
    else if bit tag 33 || decide (tag % 2 ^ 32 < r) then .wait
    else if r < tag % 2 ^ 32 then .stale
    else if bit tag 32 then .blank
    else
      match (match s.segCached ctx r colour (x / 256) n with
        | some e => e.vals.getD (x % 256) none
        | none => s.rowValue c r colour x) with
      | none => .bad
      | some v => .val (siloTo12 c.silo16 v)

/-- A neighbour's sample: 0 outside the nozzle grid (R192). -/
def State.neighbour (s : State) (ctx : Nat) (c : Ctx) (colour : Nat) (column : Int) (l n : Nat) : Sample :=
  if column < 0 ∨ (c.gridWidth : Int) ≤ column then .val 0 else s.sample ctx c colour column.toNat l n

/-- The segments that a nozzle's entry reads of its row: its own column's, and those of the neighbours that substitute for it. -/
def Ctx.entrySegs (c : Ctx) (e : Nat) : List Nat :=
  let k := nmColumn e
  (([k] ++ (if nmSubL e && decide (0 < k) then [k - 1] else []) ++ (if nmSubR e && decide (k + 1 < c.gridWidth) then [k + 1] else [])).map
    fun k => c.contone k / 256).eraseDups

/-- What becomes of one nozzle at one line. -/
inductive NzResult where
  | level (n : Nat) | wait | stale | bad | sealed
deriving DecidableEq, Repr

/-- The share h of a context (R192). -/
def State.subShare (s : State) (ctx : Nat) : Nat := min 256 (s.rd (R.SCRN_CTX_CFG_SUB_SHARE ctx))

/-- The level of a colour's table and a threshold (R197, R198). -/
def State.levelPair (s : State) (colour k : Nat) : Nat × Nat :=
  (tget levelReset s.levels (colour * 14 + 2 * k), tget levelReset s.levels (colour * 14 + 2 * k + 1))

/-- A contone column and a page row lie inside the extent of a layer (R196). -/
def Layer.holds (l : Layer) (x k : Nat) : Bool :=
  l.on && l.inRow k && decide (l.x0 ≤ x) && decide (x < l.x0 + l.width * l.scale)

/-- The decision for one nozzle (R187 to R201): `g` its global index, `n` the per-context line of the tick.  A nozzle that is `DEAD` or
`DISABLED` is not counted as blocked (assumption 300), and one that is blocked and poisoned is blocked alone (assumption 301). -/
def State.decide' (s : State) (ctx : Nat) (c : Ctx) (g n : Nat) : NzResult :=
  let e := s.nozzle g
  if nmDead e || nmDisabled e || decide (n < nmOffset e) then .level 0
  else
    let l := n - nmOffset e
    match c.pageOf l with
    | none => .level 0
    | some p =>
      let x := if c.dpi1200 then nmColumn e else nmColumn e / 2
      let k := l / c.lpr - (p.first.getD 0) / c.lpr
      let lay7 := (p.layers.getD c.layers).getD 7 {}
      if c.sealedL.isSome && !nmSealedOk e && lay7.holds x k then .sealed
      else
        let own := s.sample ctx c (nmColour e) (nmColumn e) l n
        let lft := if nmSubL e then some (s.neighbour ctx c (nmColour e) ((nmColumn e : Int) - 1) l n) else none
        let rgt := if nmSubR e then some (s.neighbour ctx c (nmColour e) ((nmColumn e : Int) + 1) l n) else none
        let all := [own] ++ lft.toList ++ rgt.toList
        let ca := tget 0 s.ncal g
        let m := (nmRowGroup e)
        let tx := (nmColumn e + s.rd (R.SCRN_RG_SHIFT_XSHIFT m)) % 256
        let ty := (l + s.rd (R.SCRN_RG_SHIFT_YSHIFT m)) % 256
        let ti := nmColour e * 65536 + 256 * ty + tx
        if all.contains .bad || tget false s.ncalBad g || tget false s.threshBad ti || tget false s.levelsBad (nmColour e) then .bad
        else if all.contains .stale then .stale
        else if all.contains .wait then .wait
        else
          match own with
          | .val v12 =>
            let nb (o : Option Sample) : Option Nat := match o with | some (.val v) => some v | _ => none
            let u := substitute v12 (nb lft) (nb rgt) (s.subShare ctx)
            let v := calibrate u (ncGdev ca) (ncDofs ca)
            let vw := overlapWeight (nmWeight e) v
            .level (dropLevel vw (tget 0 s.thresh ti) (2 ^ c.b - 1) (s.levelPair (nmColour e)))
          | _ => .level 0

/-! ## Swaths -/

/-- A computed swath: its words, and what its nozzles met. -/
structure Swath where
  words : List Nat
  waits : Bool
  /-- content lines of nozzles forced to level 0 because their decision was not made -/
  forced : List Nat
  /-- content lines of nozzles with poisoned input, of those whose map entry is poisoned, and of those whose row was overwritten -/
  poisoned : List Nat
  mapBad : List Nat
  stale : List Nat
  /-- segments found overwritten, nozzles blocked, decisions made -/
  segments : Nat
  blocked : Nat
  decisions : Nat
  /-- levels were forced to 0 for a cause local to this device (R508) -/
  marked : Bool
deriving DecidableEq, Repr

/-- Pack levels by position into data-word payloads (R203). -/
def packSwath (b : Nat) (levels : List Nat) : List Nat :=
  (chunks (sheaf b) (levels.length + 1) levels).map (packWord b)

/-- The swath of a lane for a line in a screened context (R181, R203 to R206). -/
def State.screenSwath (s : State) (ctx lane n : Nat) : Swath :=
  let c := s.ctx ctx
  let act := s.active lane
  let base := lane * 32768
  let rs := (List.range act).map fun p => (p, s.decide' ctx c (base + p) n)
  let entry (p : Nat) : Nat := tget nmReset s.nmap (base + p)
  let line (p : Nat) : Nat := n - nmOffset (entry p)
  let with' (r : NzResult) : List Nat := (rs.filter fun x => decide (x.2 = r)).map (·.1)
  let mapBad := (List.range act).filter fun p =>
    tget false s.nmapBad (base + p) && !nmDisabled (entry p) && !nmDead (entry p) && decide (nmOffset (entry p) ≤ n)
  { words := packSwath c.b (rs.map fun x => match x.2 with | .level v => v | _ => 0),
    waits := !(with' .wait).isEmpty,
    forced := ((with' .wait).map line).eraseDups,
    poisoned := ((with' .bad).map line).eraseDups,
    mapBad := (mapBad.map line).eraseDups,
    stale := ((with' .stale).map line).eraseDups,
    segments := ((with' .stale).flatMap fun p =>
      (c.entrySegs (entry p)).map fun g => (line p / c.lpr, nmColour (entry p), g)).eraseDups.length,
    blocked := (with' .sealed).length,
    decisions := act,
    marked := !(with' .wait ++ with' .bad ++ with' .stale).isEmpty || !mapBad.isEmpty ||
      (s.contentLines c lane n).any fun l => c.poisonRows.contains (l / c.lpr) }

/-- The list entry that holds a lane's line of a pass-through page (R211). -/
def Page.passEntry (p : Page) (lane k : Nat) : Option (ListEntry × Nat) :=
  p.list.zipIdx.find? fun e => decide (e.1.strip = lane) && decide (e.1.firstRow ≤ k) && decide (k < e.1.firstRow + e.1.rows)

/-- What a pass-through lane has for a line: nothing to fire, a bale that it waits for, a failed bale, or the words of the row
(R211 to R214). -/
inductive PassRow where
  | none | wait (page entry : Nat) | failed (poison : Bool) | words (ws : List Nat)
deriving DecidableEq, Repr

/-- The row of a pass-through lane. -/
def Ctx.passRow (c : Ctx) (lane n words : Nat) : PassRow :=
  match c.pageOf n with
  | Option.none => .none
  | some p =>
    let k := n - p.first.getD 0
    match p.passEntry lane k with
    | Option.none => .none
    | some e =>
      if p.failed.contains e.2 then .failed (p.failedPoison.contains e.2)
      else
        match p.decoded.find? fun d => decide (d.1 = e.2) with
        | Option.none => .wait p.id e.2
        | some d =>
          let row := (d.2.drop ((k - e.1.firstRow) * 8 * words)).take (8 * words)
          .words ((words8 row words).map (· % 2 ^ 60))

/-- Force level 0 at every position that must not fire (R213). -/
def State.passWords (s : State) (lane b : Nat) (ws : List Nat) : List Nat :=
  let lv := ws.flatMap fun w => unpackWord b (sheaf b) w
  packSwath b ((lv.take (s.active lane)).zipIdx.map fun v =>
    let e := s.nozzle (lane * 32768 + v.2)
    if nmDead e || nmDisabled e then 0 else v.1)

/-- The swath of a lane in a pass-through context. -/
def State.passSwath (s : State) (ctx lane n : Nat) : Swath :=
  let c := s.ctx ctx
  let w := swathWords (s.active lane) c.b
  let zeros := List.replicate w 0
  let bad := (List.range (s.active lane)).any fun p =>
    let e := tget nmReset s.nmap (lane * 32768 + p)
    tget false s.nmapBad (lane * 32768 + p) && !nmDisabled e && !nmDead e
  let mk (ws : List Nat) (waits : Bool) (forced poisoned : List Nat) (marked : Bool) : Swath :=
    { words := ws, waits := waits, forced := forced, poisoned := poisoned, mapBad := if (c.pageOf n).isSome && bad then [n] else [],
      stale := [], segments := 0, blocked := 0, decisions := 0, marked := marked }
  match c.passRow lane n w with
  | .none => mk zeros false [] [] false
  | .wait _ _ => mk zeros true [n] [] true
  | .failed poison => mk zeros false [] [n] poison
  | .words ws => mk (s.passWords lane c.b ws) false [] [] false

/-- The swath of a lane for a line. -/
def State.swathOf (s : State) (ctx lane n : Nat) : Swath :=
  if (s.ctx ctx).pass then s.passSwath ctx lane n else s.screenSwath ctx lane n

/-- The slice that serves a lane, if one does (R216, R220). -/
def State.laneSlice (s : State) (lane : Nat) : Option (Fin 33) :=
  (List.finRange 33).find? fun n => decide ((s.slice n.val).lane = some lane) && decide (s.mode (.slice n) ≠ .faulted)

/-- Mark pages that own content lines. -/
def State.markLines (s : State) (ctx : Nat) (ls : List Nat) (m : Nat) : State := ls.foldl (fun s l => s.markLine ctx l m) s

/-- Put a swath into the loft (R242) with the counts and marks of what its nozzles met (R188, R196, R205, R214). -/
def State.storeSwath (s : State) (ctx lane n : Nat) (sw : Swath) : State :=
  let c := s.ctx ctx
  let s := s.markLines ctx sw.mapBad markPoison
  let s := if sw.poisoned.isEmpty then s
    else
      let s := s.markLines ctx sw.poisoned markPoison
      let s := (s.count R.SCRN_POISON_COUNT R.SCRN_OVF_POISON_OVF .scrn 1).raise .scrn 16
      if c.pass then s
      else
        let l := sw.poisoned.headD 0
        s.usePoison 5 (2 ^ 63 + c.fullAddr (l / c.lpr)) c.rowSize
  let s := if sw.segments = 0 then s
    else (((s.count R.SCRN_STALE_COUNT R.SCRN_OVF_STALE_OVF .scrn sw.segments).raise .scrn 17).markLines ctx sw.stale markUnderrun)
  let s := if sw.blocked = 0 then s
    else (s.count R.SCRN_SEAL_BLOCK_COUNT R.SCRN_OVF_SEAL_OVF .scrn sw.blocked).raise .scrn 20
  let s := match s.laneSlice lane with
    | some k => s.count (R.SLICE_DECISIONS_COUNT (Node.slice k).base) (R.SLICE_OVF_DECISIONS_OVF (Node.slice k).base) (.slice k) sw.decisions
    | none => s
  let h := s.head lane
  let line : LoftLine :=
    { ctx := ctx, line := n, global := c.global0 + n, words := sw.words, sent := false, marked := sw.marked, replays := [] }
  (s.setHead lane { h with loft := tset none h.loft (n % 16) (some line), nextSwath := n + 1 }).settleDue.pump lane

/-- The segments that the swath of a line draws on: composed row, colorant and segment. -/
def State.segsOf (s : State) (c : Ctx) (lane n : Nat) : List (Nat × Nat × Nat) :=
  ((s.laneNozzles lane).flatMap fun e =>
    if nmDisabled e.2 || nmDead e.2 || decide (n < nmOffset e.2) || (c.pageOf (n - nmOffset e.2)).isNone then []
    else (c.entrySegs e.2).map fun g => ((n - nmOffset e.2) / c.lpr, nmColour e.2, g)).eraseDups

/-- Fetch a segment into the row cache, unless it is there or its row is not whole (R188, R189). -/
def State.fetchSeg (s : State) (ctx : Nat) (c : Ctx) (n : Nat) (k : Nat × Nat × Nat) : State :=
  let r := k.1
  if (s.segCached ctx r k.2.1 k.2.2 n).isSome ∨ s.tagAt c r ≠ r % 2 ^ 32 then s
  else
    let x0 := k.2.2 * 256
    let w := min 256 (c.cols - x0)
    let s := s.noteRead 5 (c.fullAddr r + (k.2.1 * c.cols + x0) * c.sampleSize) (w * c.sampleSize)
    { s with rowCache := s.rowCache.filter (fun e => !(decide (e.ctx = ctx) && decide (e.line + s.retain < n))) ++
        [⟨ctx, r, k.2.1, k.2.2, n, (List.range w).map fun i => s.rowValue c r k.2.1 (x0 + i)⟩] }

/-- What screening reads for a swath (R188, R189, R411): the tags of its rows, and the segments that the row cache does not hold. -/
def State.touchRows (s : State) (ctx lane n : Nat) : State :=
  let c := s.ctx ctx
  if c.pass then s
  else
    let ks := s.segsOf c lane n
    let s := (ks.map (·.1)).eraseDups.foldl (fun s r => s.noteRead 5 (c.tagAddr r) 8) s
    ks.foldl (fun s k => s.fetchSeg ctx c n k) s

/-- A swath with every level 0, of a lane that no slice serves (R220). -/
def State.zeroSwath (s : State) (ctx lane n : Nat) : Swath :=
  let c := s.ctx ctx
  { words := List.replicate (swathWords (s.active lane) c.b) 0, waits := false, forced := s.contentLines c lane n,
    poisoned := [], mapBad := [], stale := [], segments := 0, blocked := 0, decisions := 0, marked := true }

/-- Finish a swath at its deadline with level 0 at every nozzle whose decision is not made (R419), or with every level 0 where no
slice serves the lane (R220).  The answer says whether levels were forced under R419. -/
def State.finishSwath (s : State) (ctx lane n : Nat) : State × Bool :=
  if n < (s.head lane).nextSwath then (s, false)
  else
    match s.laneSlice lane with
    | none =>
      let sw := s.zeroSwath ctx lane n
      ((s.markLines ctx sw.forced markUnderrun).storeSwath ctx lane n sw, false)
    | some _ =>
      let sw := s.swathOf ctx lane n
      let s := (s.touchRows ctx lane n).markLines ctx sw.forced markUnderrun
      (s.storeSwath ctx lane n sw, sw.waits)

/-- The spare that shadows a lane compares its swath with the slice's (R216, R218): one more line agreed, or the step ends, to start again at
the next period, and both slices are checked. -/
def State.shadowLine (s : State) (lane : Nat) (bad : Bool) : State :=
  match (List.finRange 33).find? fun n => decide ((s.slice n.val).shadows = some lane) with
  | none => s
  | some n =>
    let sp := s.slice n.val
    let b := (Node.slice n).base
    let s := s.count (R.SLICE_DECISIONS_COUNT b) (R.SLICE_OVF_DECISIONS_OVF b) (.slice n) (s.active lane)
    if bad then
      let s := s.setSlice n.val { sp with shadows := none, agreed := 0, checking := true }
      let s := match s.laneSlice lane with
        | some k => State.setSlice { s with rotNext := k.val } k.val { (s.slice k.val) with checking := true }
        | none => s
      (s.count R.SCRN_MISMATCH_COUNT R.SCRN_OVF_MISMATCH_OVF .scrn 1).raise .scrn 18
    else s.setSlice n.val { sp with agreed := sp.agreed + 1 }

/-- Ask for the thresher that a pass-through lane's next row needs (R156). -/
def State.askPass (s : State) (ctx lane n : Nat) : State :=
  let c := s.ctx ctx
  match c.passRow lane n (swathWords (s.active lane) c.b) with
  | .wait page k =>
    let g : Gang := ⟨ctx, page, k, [k]⟩
    if s.gangs.contains g then s else { s with gangs := s.gangs ++ [g] }
  | _ => s

/-- Free the threshers of a pass-through page's bales whose last line the lane has taken. -/
def State.freePass (s : State) (ctx lane n : Nat) : State :=
  let c := s.ctx ctx
  match c.pageOf n with
  | none => s
  | some p =>
    let k := n - p.first.getD 0
    let gone := (p.list.zipIdx.filter fun e => decide (e.1.strip = lane) && decide (e.1.firstRow + e.1.rows ≤ k + 1)).map (·.2)
    let s := { s with holders := s.holders.filter fun e =>
      match e.2 with
      | some x => !(decide (x.ctx = ctx) && decide (x.page = p.id) && gone.contains x.entry)
      | none => true }
    s.setCtx ctx (c.putPage { p with decoded := p.decoded.filter fun d => !gone.contains d.1 })

/-- A slice computes the next swath of a lane (R187, R207, R242): the line's owner is fixed, the loft has room, and every row that the
swath draws on is composed; else nothing changes but what is asked of the threshers. -/
def State.computeSwath (s : State) (lane : Nat) (shadowBad : Bool) : State :=
  let ctx := s.laneOwner lane
  let n := (s.head lane).nextSwath
  if ctx = 0 ∨ !(s.ctx ctx).live ∨ (s.ctx ctx).horizon ≤ n ∨ (s.ctx ctx).line + 14 < n ∨ (s.ctx ctx).lineOff n ∨ s.mode .scrn = .faulted then s
  else
    let s := s.closeTo ctx n
    let c := s.ctx ctx
    if s.dueBlocks ctx n then s
    else
    match s.laneSlice lane with
    | none => (s.finishSwath ctx lane n).1
    | some _ =>
      let sw := s.swathOf ctx lane n
      if sw.waits then (if c.pass then s.askPass ctx lane n else s)
      else
        let s := (s.touchRows ctx lane n).storeSwath ctx lane n sw
        let s := if c.pass then s.freePass ctx lane n else s
        s.shadowLine lane shadowBad

/-- `SWATH_COMPUTE`: a slice's next swath of a lane; `shadowBad` says whether the spare that shadows it disagreed. -/
def execSwathCompute (lane : Fin 32) (shadowBad : Bool) (s : State) : Host.Outcome State Fault Refusal :=
  if !s.clocked then .next s else
  .next (s.computeSwath lane.val shadowBad)

/-! ## The spare in rotation -/

/-- The rotation period in lines (`ROT_LOG2`). -/
def State.rotPeriod (s : State) : Nat := 2 ^ max 16 (s.rd R.SCRN_CFG_ROT_LOG2)

/-- The spare: a slice that serves no lane and may work. -/
def State.spare (s : State) : Option (Fin 33) :=
  (List.finRange 33).find? fun n => (s.slice n.val).lane.isNone && !(s.slice n.val).needsTest && s.accepts (.slice n) && decide (s.mode (.slice n) = .normal)

/-- The next active slice in ascending order from `k` on, around. -/
def State.nextActive (s : State) (k : Nat) : Option Nat :=
  ((List.range 33).map fun i => (k + i) % 33).find? fun n => (s.slice n).lane.isSome

/-- `SLICE_ROTATION` (R216, R531, R547): at the first line boundary of a new period the spare begins to shadow the next active slice. -/
def execSliceRotation (s : State) : Host.Outcome State Fault Refusal :=
  if !s.clocked then .next s else
  let period := s.globalLine / s.rotPeriod
  if !s.flag R.SCRN_CFG_ROT_EN ∨ !s.gleanFlag 2 ∨ s.stalled ∨ period ≤ s.rotAt ∨ (List.range 33).any (fun n => (s.slice n).shadows.isSome) then .next s
  else
    match s.spare, s.nextActive s.rotNext with
    | some sp, some a =>
      let s := s.setSlice sp.val { (s.slice sp.val) with shadows := (s.slice a).lane, agreed := 0, checking := false }
      .next { s with rotAt := period, rotNext := (a + 1) % 33 }
    | _, _ => .next s

/-- `SHADOW_COMPLETE` (R216): 64 lines have agreed, and the spare takes over the lane. -/
def execShadowComplete (s : State) : Host.Outcome State Fault Refusal :=
  if !s.clocked then .next s else
  match (List.finRange 33).find? fun n => (s.slice n.val).shadows.isSome && decide (64 ≤ (s.slice n.val).agreed) with
  | none => .next s
  | some n =>
    let lane := (s.slice n.val).shadows.getD 0
    let s := match s.laneSlice lane with
      | some k => s.setSlice k.val { (s.slice k.val) with lane := none }
      | none => s
    let s := s.setSlice n.val { lane := some lane }
    .next (s.count R.SCRN_ROT_COUNT R.SCRN_OVF_ROT_OVF .scrn 1)

/-- Give a slice to each lane of a context that has none: the slice of the lane's own number if it is free, else the lowest free one
(assumption: R216 has 32 slices each serve one lane). -/
def State.assignSlices (s : State) (lanes : List Nat) : State :=
  lanes.foldl (fun s l =>
    if (s.laneSlice l).isSome then s
    else
      let free := (List.finRange 33).filter fun n =>
        (s.slice n.val).lane.isNone && (s.slice n.val).shadows.isNone && !(s.slice n.val).needsTest && s.accepts (.slice n) && decide (s.mode (.slice n) = .normal)
      match (free.find? fun n => decide (n.val = l)) <|> free.head? with
      | some n => s.setSlice n.val { lane := some l }
      | none => s) s

end Sys2Proof.Machine
end

