-- ==== Sys2Proof/Machine/InspMath.lean ====
section
/-!
DEFINITION. The winnower's arithmetic (spec/08): the stripe table and the model block (R339, R357), prediction and residual (R358),
dominance (R366), and where a camera line lies on the page (R338, R352 to R355).
-/

namespace Sys2Proof.Machine

/-- `rnd` of R352, for b above 0. -/
def rnd (a b : Int) : Int := (2 * a + b) / (2 * b)

/-! ## Model block (R357) -/

abbrev Model := List Byte

def mK (m : Model) (ch j : Nat) : Int := fieldS m (2 * (8 * ch + j)) 2
def mD0 (m : Model) (ch : Nat) : Int := fieldS m (48 + 2 * ch) 2
def mCh (m : Model) (j : Nat) : Nat := fieldN m (56 + j) 1
def mDom (m : Model) : Nat := fieldN m 64 1
def mEdgeThr (m : Model) : Nat := fieldN m 66 2
def mDefThr (m : Model) (ch : Nat) : Nat := fieldN m (68 + 2 * ch) 2
def mGyMin (m : Model) : Nat := fieldN m 74 2
def mLogt (m : Model) (ch i : Nat) : Int := fieldN m (128 + 2 * (256 * ch + i)) 2
def mTone (m : Model) (j v : Nat) : Int := fieldN m (1664 + 2 * (256 * j + v)) 2
def mInv (m : Model) (j v : Nat) : Int := fieldN m (5760 + 2 * (256 * j + v)) 2
def mWt (m : Model) (j v : Nat) : Int := fieldN m (9856 + 256 * j + v) 1

/-- Bytes of a run are all 0. -/
def zeroRun (b : List Byte) (off n : Nat) : Bool := ((b.drop off).take n).all fun x => decide (x = 0#8)

/-- A model block that R357 refuses. -/
def modelBad (m : Model) : Bool :=
  !zeroRun m 54 2 || !zeroRun m 65 1 || !zeroRun m 76 52 || !zeroRun m 11904 384 ||
  (List.range 768).any (fun i => decide (4095 < fieldN m (128 + 2 * i) 2)) ||
  (List.range 2048).any (fun i => decide (4095 < fieldN m (1664 + 2 * i) 2)) ||
  (List.range 2048).any (fun i => decide (15 < fieldN m (9856 + i) 1)) ||
  (List.range 8).any fun j => decide (3 < mCh m j)

/-- A stripe table entry of 32 bytes (R339), without its model. -/
def stripeOf (b : List Byte) (i : Nat) : Stripe := ⟨i, fieldN b 0 1, fieldN b 2 2, fieldN b 4 2, []⟩
def stripeModel (b : List Byte) : Nat := fieldN b 8 8

/-- An entry that breaks R339: reserved fields, and the multiples and ranges of its fields. -/
def stripeBad (b : List Byte) : Bool :=
  let x := stripeOf b 0
  !zeroRun b 1 1 || !zeroRun b 6 2 || !zeroRun b 16 16 || decide (x.first % 256 ≠ 0) || decide (x.px % 256 ≠ 0) || decide (x.px < 256) ||
  decide (16384 < x.px)

/-- Entries are ordered by lane and then by first pixel, and none overlaps the next (R340). -/
def stripesOrdered : List Stripe → Bool
  | a :: b :: r => (decide (a.lane < b.lane) || (decide (a.lane = b.lane) && decide (a.first + a.px ≤ b.first))) && stripesOrdered (b :: r)
  | _ => true

/-! ## Prediction (R358) -/

/-- The predicted density of a channel, for the reference values of the colorants. -/
def predict (m : Model) (ch : Nat) (v : List Nat) : Int :=
  let acc := v.zipIdx.foldl (fun a x => a + mK m ch x.2 * mTone m x.2 x.1) (mD0 m ch * 4096 + 2048)
  clampI 0 4095 (sar acc 12)

/-- Colorant j is dominant (R366). -/
def dominant (m : Model) (v : List Nat) (j : Nat) : Bool :=
  let ch := mCh m j
  let share (i : Nat) : Int := mK m ch i * mTone m i (v.getD i 0)
  let tot := (List.range v.length).foldl (fun t i => if 0 < share i then t + share i else t) 0
  decide (ch ≠ 3) && decide (0 < tot) && decide ((mDom m : Int) * tot ≤ share j * 256)

/-- d16 of R367. -/
def d16 (m : Model) (r : List Int) (v : List Nat) (j : Nat) : Int :=
  clampI (-32767) 32767 (sar (r.getD (mCh m j) 0 * mInv m j (v.getD j 0) + 2048) 12)

/-! ## Place -/

/-- Position of a line's exposure centre, in 2^-17 counts (R338, R321). -/
def CamTrig.centre (x : CamTrig) (set : CamSet) : Int :=
  let r := x.rec'.getD (x.before.p, 0)
  r.1 * 2 ^ 17 + r.2 * (2 * set.delay + set.exposure : Nat)

/-- λ of R352, in 1/256 line. -/
def CamTrig.lam (x : CamTrig) (set : CamSet) (dy : Int) : Int :=
  (x.line : Int) * 256 + rnd ((x.centre set * 2 ^ 15 - x.x) * 256) (x.q : Int) - set.dcam + dy

/-- The nozzle column of a pixel (R353). -/
def CamSet.column (set : CamSet) (dx : Int) (x : Nat) : Int :=
  sar (set.cx0 + sar ((x * set.cxs : Nat) + 128) 8 + dx + 128) 8

/-- First line and length of the page, present or past, that owns a content line. -/
def Ctx.spanOf (c : Ctx) (l : Nat) : Option (Nat × Nat) :=
  match c.pageOf l with
  | some p => p.first.map fun f => (f, p.length)
  | none => c.spans.find? fun p => decide (p.1 ≤ l) && decide (l < p.1 + p.2)

/-- The reference values at a quarter-scale row and contone column (R354); none where a word arrives poisoned. -/
def State.refVals (s : State) (c : Ctx) (q x : Nat) : Option (List Nat) :=
  let one (j : Nat) : Option Nat :=
    let a := c.qsAddr q + (j * c.cols + x) * c.sampleSize
    if s.dramBad a c.sampleSize then none
    else
      let v := leNat (s.dramRead a c.sampleSize)
      some (if c.silo16 then v % 4096 / 16 else v % 256)
  let vs := (List.range c.colorants).map one
  if vs.any Option.isNone then none else some (vs.map fun v => v.getD 0)

end Sys2Proof.Machine
end

