-- ==== Sys2Proof/Machine/Cal.lean ====
section
/-!
DEFINITION. The CAL unit (spec/08): windows and their close (R370 to R373, R376), seeds and anchors (R377 to R382), and the CAL
packets.
-/

namespace Sys2Proof.Machine

/-! ## Settings -/

/-- The values that the CAL registers hold (R387). -/
def State.calNow (s : State) : CalEff :=
  { step := s.rd R.CAL_DENS_DENS_STEP, agree := s.rd R.CAL_DENS_DENS_AGREE, stale := max 1 (s.rd R.CAL_DENS2_STALE_WIN),
    dead := s.rd R.CAL_DENS2_DENS_DEAD, limit := s.rd R.CAL_DENS2_DENS_LIMIT, rdMin := s.rd R.CAL_MIN_RD_MIN,
    minW := max 1 (s.rd R.CAL_MIN_DENS_MIN_W), rdLimit := s.rd R.CAL_ROW_RD_LIMIT, rdStep := s.rd R.CAL_ROW_RD_STEP,
    rdAgree := s.rd R.CAL_ROW_RD_AGREE, anchor := s.rd R.CAL_ANCHOR_CFG_ANCHOR_LIMIT }

/-- The pair number of a camera lane (R501); the lane's own number outside a pair. -/
def State.camNo (s : State) (k : Nat) : Nat := (if s.rd R.YOKE_STATE_ROLE = 0 then 0 else 8 * s.rd R.YOKE_CFG_PAIR_SIDE) + k

/-- The number of camera lanes that packets can name, and the device's own lane of a number. -/
def State.camCount (s : State) : Nat := if s.rd R.YOKE_STATE_ROLE = 0 then 8 else 16
def State.ownCam (s : State) (no : Nat) : Option Nat :=
  if no < s.camNo 0 then none else if no - s.camNo 0 < 8 then some (no - s.camNo 0) else none

/-- The settings in effect on a camera lane. -/
def State.camSet (s : State) (cam : Nat) : CamSet :=
  let b := (Node.cam (Fin.ofNat 8 cam)).base
  { px := s.rd (R.CAM_SET_LINE_PX b), lines := s.rd (R.CAM_SET_FRAME_LINES b), ctx := s.rd (R.CAM_SET_CTX b),
    div := s.rd (R.CAM_SET_TRIG_DIV b), phase := s.rd (R.CAM_SET_TRIG_PHASE b), on := s.flag (R.CAM_SET_CAM_ON b),
    resend := s.flag (R.CAM_SET_RESEND_ON b), exposure := s.rd (R.CAM_SET_EXPOSURE_NS b), delay := s.rd (R.CAM_SET_CAM_DELAY_NS b),
    dcam := s.rdS (R.CAM_SET_D_CAM b), cx0 := s.rdS (R.CAM_SET_CX0 b), cxs := s.rd (R.CAM_SET_CXS b),
    resendUs := s.rd (R.CAM_SET_RESEND_US b) }

/-- The tracked shifts of a camera lane (R356). -/
def State.camDy (s : State) (cam : Nat) : Int := s.rdS (R.CAM_DXY_DY (Node.cam (Fin.ofNat 8 cam)).base)
def State.camDx (s : State) (cam : Nat) : Int := s.rdS (R.CAM_DXY_DX (Node.cam (Fin.ofNat 8 cam)).base)

/-- The camera lanes of the calibrated context. -/
def State.calCams (s : State) : List Nat :=
  (List.range 8).filter fun k => (s.camSet k).on && decide ((s.camSet k).ctx = s.calCtx) && decide (s.calCtx ≠ 0)

/-- The content line that a camera lane sees at a line's tick, but for the web's stretch between tick and exposure (R352). -/
def State.camContent (s : State) (cam line : Nat) : Int := sar ((line : Int) * 256 - (s.camSet cam).dcam + s.camDy cam) 8

/-- A camera lane has ended every frame that holds a content line before `bound`: no frame of it holds one, and the next trigger of a
context that prints sees `bound` or a later line. -/
def State.camPast (s : State) (cam : Nat) (bound : Nat) : Bool :=
  let c := s.ctx s.calCtx
  let set := s.camSet cam
  ((s.cam cam).frames.all fun f => f.trigs.all fun x => decide ((bound : Int) ≤ s.camContent cam x.line)) &&
  (!c.live ||
    (let wait := (set.phase + set.div - c.line % max 1 set.div) % max 1 set.div
     decide ((bound : Int) ≤ s.camContent cam (c.line + wait))))

/-- Every camera lane of the calibrated context is past a content line. -/
def State.camsPast (s : State) (bound : Nat) : Bool := s.calCams.all fun k => s.camPast k bound

/-! ## Records (R376) -/

/-- The flags of a record's byte 14. -/
def propFlags (overlap stale pending propose : Bool) : Nat := b2n overlap + 2 * b2n stale + 4 * b2n pending + 8 * b2n propose

/-- A proposal record. -/
def propBytes (kind what : Nat) (st : Status) (col : Nat) (prev cur step : Int) (flags win : Nat) : List Byte :=
  leBytes 1 kind ++ leBytes 1 what ++ leBytes 2 st.code ++ leBytes 4 col ++ leBytes 2 (ofS 16 prev) ++ leBytes 2 (ofS 16 cur) ++
  leBytes 2 (ofS 16 step) ++ leBytes 1 flags ++ leBytes 1 win

/-- Enter a record into the ring of proposals. -/
def State.enterProp (s : State) (r : List Byte) : State :=
  if 2 ^ 20 ≤ s.cal.props.length then (s.count R.CAL_PROP_LOST_COUNT R.CAL_OVF_LOST_OVF .cal 1).raise .cal 20
  else { s with cal := { s.cal with props := s.cal.props ++ [r] } }

/-- Send a record to the partner of a pair (R505, R516). -/
def State.sendRecord (s : State) (kind : Nat) (r : List Byte) : State :=
  if s.paired then s.sendYoke 0xC3 (kind :: r.map BitVec.toNat) else s

/-- Write a proposal record (R376, R516). -/
def State.propose (s : State) (r : List Byte) : State := (s.enterProp r).sendRecord 2 r

/-! ## Steps -/

/-- Policy 0 makes an accepted step pending, and tells the partner of a pair (R374, R515). -/
def State.takeStep (s : State) (x : CalStep) : State :=
  let x := { x with held := s.now }
  (s.addStep x).sendSeq (.mirror (.step x))

/-- A density step reduced so that no nozzle passes the limit (R373). -/
def State.limitDens (s : State) (c : Ctx) (key : Nat) (step : Int) : Int :=
  (s.printers c key).foldl (fun st e =>
    let o := ncDofs (tget 0 s.ncal e.1)
    limitTo (s.cal.eff.limit : Int) o (o + st) - o) step

/-- A row-delay step reduced to the limit. -/
def State.limitRow (s : State) (g : Nat) (step : Int) : Int :=
  let o := s.rdS (R.SYN_CAL_DELAY_DELAY g)
  limitTo (s.cal.eff.rdLimit : Int) o (o + step) - o

/-- The outcome of a comparison: its counts, its record, and the step it makes pending. -/
def State.compared (s : State) (row : Bool) (key : Nat) (k : Nat) (prev cur : Int) (ok : Bool) (want step : Int) (overlap : Bool) : State :=
  let limited := decide (step ≠ want)
  let st : Status := if !ok then .notAccepted else if limited then .calLimit else .ok
  let apply := ok && decide (s.calPolicy = 0)
  let s := if ok then (s.count R.CAL_ACCEPTED_COUNT R.CAL_OVF_ACCEPTED_OVF .cal 1).raise .cal 17
    else s.count R.CAL_DISAGREED_COUNT R.CAL_OVF_DISAGREED_OVF .cal 1
  let s := s.raiseIf (ok && limited) .cal 19
  let s := if apply then s.takeStep { row := row, key := key, d := step } else s
  s.propose (propBytes (b2n row) (if row then key else keyColour key) st (if row then 0 else keyColumn key) prev cur (if ok then step else 0)
    (propFlags overlap false apply (ok && decide (s.calPolicy = 1))) k)

/-- A previous estimate that may be compared in window k (R370). -/
def State.comparable (s : State) (e : Option CalEst) (k : Nat) : Option Int :=
  match e with
  | some p => if !p.void && decide (p.win < k) && decide (k ≤ p.win + s.cal.eff.stale) then some p.val else none
  | none => none

/-! ## Closing a window -/

/-- A window holds a line of a seed pattern (R372). -/
def State.winSeeded (s : State) (k : Nat) : Bool :=
  s.cal.seedSpans.any fun p => decide (p.1 < (k + 1) * s.winLines) && decide (k * s.winLines < p.1 + p.2)

/-- The estimate of (j, c) of a window (R370). -/
def State.closeDens (s : State) (c : Ctx) (win : CalWin) (all : Bool) (key : Nat) (w sum : Int) : State :=
  let e := rnd sum w - s.rdS (R.CAL_ANCHOR_ANCHOR (keyColour key))
  let void := all || tget false win.voidKeys key || win.voidColours.testBit (keyColour key)
  let prev := s.comparable (tget none s.cal.dens key) win.k
  let s := { s with cal := { s.cal with dens := tset none s.cal.dens key (some ⟨win.k, e, void⟩), stale := tset false s.cal.stale key false } }
  match prev with
  | none => s
  | some p =>
    if void then s
    else
      let f := s.cal.eff
      let ok := decide ((e - p).natAbs ≤ f.agree) && decide (2 * f.dead ≤ (e + p).natAbs)
      let want := clampI (-(f.step : Int)) (f.step : Int) (-(sar (p + e + 1) 1))
      s.compared false key win.k p e ok want (s.limitDens c key want) (decide (1 < (s.printers c key).length))

/-- h(g) of a window (R368). -/
def rowEst (lpr : Nat) (rs rg : Int) : Int := rnd (8 * lpr * 256 * rs) rg

/-- The estimate of a fire group of a window (R371). -/
def State.closeRow (s : State) (c : Ctx) (win : CalWin) (all : Bool) (g : Nat) : State :=
  let rg (g : Nat) : Int := tget 0 win.rg g
  let enough (g : Nat) : Bool := decide (0 < rg g) && decide ((s.cal.eff.rdMin : Int) ≤ sar (rg g) 16)
  if g = c.refGroup ∨ !enough g ∨ !enough c.refGroup then s
  else
    let h (g : Nat) : Int := rowEst c.lpr (tget 0 win.rs g) (rg g)
    let e := h g - h c.refGroup
    let void := all || tget false win.voidGroups g
    let prev := s.comparable (tget none s.cal.rows g) win.k
    let s := { s with cal := { s.cal with rows := tset none s.cal.rows g (some ⟨win.k, e, void⟩) } }
    match prev with
    | none => s
    | some p =>
      if void then s
      else
        let f := s.cal.eff
        let want := clampI (-(f.rdStep : Int)) (f.rdStep : Int) (sar (p + e + 1) 1)
        s.compared true g win.k p e (decide ((e - p).natAbs ≤ f.rdAgree)) want (s.limitRow g want) false

/-- Record (j, c) that has had no estimate for `STALE_WIN` windows, once (R376). -/
def State.noteStale (s : State) (k : Nat) (key : Nat) : State :=
  let since := match tget none s.cal.dens key with
    | some e => e.win + s.cal.eff.stale
    | none => s.cal.start + s.cal.eff.stale - 1
  if tget false s.cal.stale key ∨ k < since then s
  else
    State.propose { s with cal := { s.cal with stale := tset false s.cal.stale key true } }
      (propBytes 0 (keyColour key) .noSignal (keyColumn key) 0 0 0 (propFlags false true false false) k)

/-- The (j, c) that nozzles of a context print. -/
def State.printedKeys (s : State) (c : Ctx) : List Nat := ((s.ctxNozzles c).map fun e => nmKey e.2).eraseDups

/-- Close window k (R370, R371, R376). -/
def State.closeWin (s : State) (k : Nat) : State :=
  let c := s.ctx s.calCtx
  let win := (s.cal.wins.find? fun w => decide (w.k = k)).getD { k := k }
  let s := { s with cal := { s.cal with wins := s.cal.wins.filter (fun w => decide (w.k ≠ k)), eff := s.calNow } }
  let all := win.voidAll || s.winSeeded k
  let s := win.w.foldl (fun s x =>
    if (s.cal.eff.minW : Int) ≤ x.2 ∧ s.clean c (keyColour x.1) (keyColumn x.1) then s.closeDens c win all x.1 x.2 (tget 0 win.s x.1) else s) s
  let s := c.groupList.foldl (fun s g => s.closeRow c win all g) s
  let s := (s.printedKeys c).foldl (fun s key => s.noteStale k key) s
  (s.wr R.CAL_WINDOW_K (k + 1)).raise .cal 16

/-- The next window can close: every camera of the context has ended every frame that holds one of its lines. -/
def State.canClose (s : State) : Bool :=
  let k := s.rd R.CAL_WINDOW_K
  !s.calCams.isEmpty && decide (s.calPolicy ≠ 2) && s.camsPast ((k + 1) * s.winLines) &&
  ((s.ctx s.calCtx).live || s.cal.wins.any fun w => decide (k ≤ w.k))

def State.closeGo : Nat → State → State
  | 0, s => s
  | fuel + 1, s => if s.canClose then State.closeGo fuel (s.closeWin (s.rd R.CAL_WINDOW_K)) else s

/-- Close every window that can close. -/
def State.closeWins (s : State) : State :=
  State.closeGo (((s.ctx s.calCtx).line / s.winLines) + (s.cal.wins.foldl (fun m w => max m (w.k + 1)) 0) + 1) s

/-- CAL starts afresh with the first line of a context (the model's choice: lines and with them windows count from 0 again). -/
def State.calStart (s : State) (ctx : Nat) : State :=
  if ctx ≠ s.calCtx then s
  else
    { s.wr R.CAL_WINDOW_K 0 with cal := { s.cal with wins := [], dens := [], rows := [], stale := [], start := 0, seedSpans := [] } }

/-! ## Folding a frame (R351) -/

/-- Add a table of sums to another. -/
def addTbl (a b : Tbl Int) : Tbl Int := b.foldl (fun t e => tset 0 t e.1 (tget 0 t e.1 + e.2)) a
def addTbl2 (a b : Tbl (Nat × Int)) : Tbl (Nat × Int) :=
  b.foldl (fun t e => let o := tget (0, 0) t e.1; tset (0, 0) t e.1 (o.1 + e.2.1, o.2 + e.2.2)) a

def SeedSum.add (a b : SeedSum) : SeedSum :=
  { lo := addTbl2 a.lo b.lo, hi := addTbl2 a.hi b.hi, rs := addTbl a.rs b.rs, rg := addTbl a.rg b.rg }

/-- The part of a table keyed by window that belongs to a window. -/
def winPart (t : Tbl Int) (k size : Nat) : Tbl Int :=
  (t.filter fun e => decide (e.1 / size = k)).map fun e => (e.1 % size, e.2)

/-- The lines of a frame join those retained on a lane, those of a frame that may not calibrate without sums (R351, R382). -/
def State.keepLines (s : State) (cam : Nat) (lines : List AnchorLine) (use : Bool) : State :=
  let ls := if use then lines else lines.map fun l => { l with sums := [] }
  s.setCam cam { (s.cam cam) with anchors := (ls ++ (s.cam cam).anchors).take 65536 }

/-- Fold the sums of an unmarked frame into CAL. -/
def State.foldCal (s : State) (x : CalSum) : State :=
  let s := { s with cal := { s.cal with seeds := s.cal.seeds.map fun d => { d with sums := d.sums.add (tget {} x.seeds d.id) } } }
  if s.calPolicy = 2 ∨ !s.accepts .cal then s
  else
    let ks := (x.w.map (fun (e : Nat × Int) => e.1 / 2 ^ 24) ++ x.rg.map (fun (e : Nat × Int) => e.1 / 32)).eraseDups.filter fun k => decide (s.rd R.CAL_WINDOW_K ≤ k)
    let put (w : CalWin) : CalWin :=
      { w with w := addTbl w.w (winPart x.w w.k (2 ^ 24)), s := addTbl w.s (winPart x.s w.k (2 ^ 24)),
               rs := addTbl w.rs (winPart x.rs w.k 32), rg := addTbl w.rg (winPart x.rg w.k 32) }
    let have' := s.cal.wins.map CalWin.k
    let wins := s.cal.wins ++ (ks.filter fun k => !have'.contains k).map fun k => { k := k }
    { s with cal := { s.cal with wins := wins.map put } }

/-! ## Seeds (R377 to R380) -/

/-- The estimates of a density seed: for each (j, c) with 32 pixels at each level, e_lo and the changes of `GDEV` and `DOFS` (R378). -/
def SeedRt.dens (x : SeedRt) : List (Nat × Int × Int × Int × Int) :=
  x.sums.lo.filterMap fun a =>
    let b := tget (0, 0) x.sums.hi a.1
    if a.2.1 < 32 ∨ b.1 < 32 then none
    else
      let lo := rnd a.2.2 a.2.1
      let hi := rnd b.2 b.1
      let dg := -(rnd ((hi - lo) * 256) 2056)
      some (a.1, lo, hi, dg, -lo - rnd (1028 * dg) 256)

/-- The estimates of a row seed: h′ of each group with enough signal (R379). -/
def SeedRt.rows (x : SeedRt) (c : Ctx) (rdMin : Nat) : List (Nat × Int) :=
  let rg (g : Nat) : Int := tget 0 x.sums.rg g
  let ok (g : Nat) : Bool := decide (0 < rg g) && decide ((rdMin : Int) ≤ sar (rg g) 16)
  let h (g : Nat) : Int := rowEst c.lpr (tget 0 x.sums.rs g) (rg g)
  if !ok c.refGroup then [] else (c.groupList.filter ok).map fun g => (g, h g - h c.refGroup)

/-- A free value in a record. -/
def State.freeInt (s : State) (k : Config.FreeKind) : Int × State :=
  (toS 16 (Config.free k s.fresh), { s with fresh := s.fresh + 1 })

/-- A `CAL_SEED` ends: its changes become pending, with their records, and it completes (R380). -/
def State.endSeed (s : State) (x : SeedRt) : State :=
  let c := s.ctx s.calCtx
  let all := ((s.ctxNozzles c).filter fun e => !nmDisabled e.2).length
  let s := { s with cal := { s.cal with seeds := s.cal.seeds.filter fun y => decide (y.id ≠ x.id) } }
  let win := x.first / s.winLines
  let ds := if x.pattern = 0 then x.dens else []
  let rs := if x.pattern = 0 then [] else x.rows c s.cal.eff.rdMin
  let n := if x.pattern = 0 then (ds.map fun d => (s.printers c d.1).length).sum
    else ((s.ctxNozzles c).filter fun e => !nmDisabled e.2 && rs.any fun r => decide (r.1 = nmRowGroup e.2)).length
  let s := ds.foldl (fun s d =>
    let a := s.freeInt .seedRecord
    let b := a.2.freeInt .seedRecord
    (b.2.takeStep { row := false, key := d.1, d := d.2.2.2.2, g := d.2.2.2.1, seed := true }).propose
      (propBytes 2 (keyColour d.1) .ok (keyColumn d.1) a.1 b.1 d.2.2.2.2
        (propFlags (decide (1 < (s.printers c d.1).length)) false true false) win)) s
  let s := (rs.filter fun r => decide (r.1 ≠ c.refGroup)).foldl (fun s r =>
    let step := s.limitRow r.1 r.2
    let a := s.freeInt .seedRecord
    (a.2.takeStep { row := true, key := r.1, d := step, seed := true }).propose
      (propBytes 3 r.1 (if step = r.2 then .ok else .calLimit) 0 a.1 r.2 step (propFlags false false true false) win)) s
  (s.complete x.pk (if n = 0 then .noSignal else .ok) [n, all - n]).raise .cal 21

/-- Complete the seeds whose last frame has ended; with no camera on the context, at the tick of the pattern's last line. -/
def State.endSeeds (s : State) : State :=
  (s.cal.seeds.filter fun x => s.camsPast (x.first + x.lines) &&
    (!s.calCams.isEmpty || decide (x.first + x.lines ≤ (s.ctx s.calCtx).line))).foldl (fun s x => s.endSeed x) s

/-! ## Anchors (R381, R382) -/

/-- The model of the first stripe of the calibrated context. -/
def State.calModel (s : State) : Model :=
  ((s.insp.stripes.find? fun x => (s.ownCam x.lane).any fun k => decide ((s.camSet k).ctx = s.calCtx)).map Stripe.model).getD []

/-- Every camera of the context has passed the patch. -/
def State.anchorPassed (s : State) (pos : Int) : Bool :=
  !s.calCams.isEmpty && s.calCams.all fun k => (s.cam k).anchors.any fun l => decide (pos + 2000000 < l.pos)

/-- Complete a `CAL_ANCHOR` from the lines retained. -/
def State.endAnchor (s : State) (x : AnchorPk) : State :=
  let s := { s with cal := { s.cal with anchors := s.cal.anchors.filter fun y => decide (y ≠ x) } }
  let sum : AnchorSum := (s.calCams.flatMap fun k => (s.cam k).anchors.filter fun l => decide ((l.pos - x.pos).natAbs ≤ 2000000)).foldl
    (fun (a : AnchorSum) (l : AnchorLine) => let b := tget {} l.sums x.colour; ⟨a.n + b.n, a.d + b.d, a.v + b.v⟩) {}
  if sum.n < 4096 then s.complete x.pk .noSignal []
  else
    let dm := rnd sum.d sum.n
    let v := (rnd sum.v sum.n).toNat
    let a := rnd ((dm - x.m) * mInv s.calModel x.colour v) 4096
    if s.cal.eff.anchor < a.natAbs then s.complete x.pk .calLimit []
    else ((s.wrS (R.CAL_ANCHOR_ANCHOR x.colour) a).voidColour x.colour).complete x.pk .ok [ofS 32 a]

/-- Complete the anchors whose patch every camera has passed. -/
def State.endAnchors (s : State) : State :=
  (s.cal.anchors.filter fun x => s.anchorPassed x.pos).foldl (fun s x => s.endAnchor x) s

/-- What CAL does when a frame of a camera has ended. -/
def State.calFrameEnd (s : State) : State := s.closeWins.endSeeds.endAnchors

/-! ## Commands -/

/-- The page that a `CAL_SEED` covers: the first whose first line no lane has screened. -/
def State.seedPage (s : State) (c : Ctx) : Option (Nat × Nat) :=
  let done := c.laneList.foldl (fun m l => max m (s.head l).nextSwath) 0
  c.pages.findSome? fun p => match p.first with
    | some f => if done ≤ f then some (f, p.length) else none
    | none => none

/-- `CAL_SEED` (R377). -/
def execCalSeed (h : Hdr) (pattern lines : Nat) (s : State) : Host.Outcome State Fault Refusal :=
  if !s.spells (.calSeed h pattern lines) then .next s else
  let c := s.ctx h.ctx
  let running := decide (c.st = .running)
  .next (s.packet opCalSeed h
    (fun s => (decide (h.ctx ≠ s.calCtx), .badContext) ::
      rank0 s .cal (decide (1 < pattern) || decide (lines % (512 * c.colorants * c.lpr) ≠ 0) ||
        (running && (match s.seedPage c with | some p => decide (p.2 < lines) | none => true))) (!running) [])
    (fun pk s =>
      match s.seedPage c with
      | none => s.complete pk .badParam []
      | some p =>
        let x : SeedRt := { pk := pk, id := h.ring.val * 65536 + h.sq, pattern := pattern, first := p.1, lines := lines }
        { s with cal := { s.cal with seeds := s.cal.seeds ++ [x], seedSpans := s.cal.seedSpans ++ [(p.1, lines)] } }))

/-- `CAL_ANCHOR` (R381, R382). -/
def execCalAnchor (h : Hdr) (colour m pos : Nat) (s : State) : Host.Outcome State Fault Refusal :=
  if !s.spells (.calAnchor h colour m pos) then .next s else
  .next (s.packet opCalAnchor h
    (fun s => rank0 s .cal (decide (7 < colour)) (decide ((s.ctx h.ctx).st = .closed)) [])
    (fun pk s =>
      let x : AnchorPk := ⟨pk, colour, m, toS 64 pos, s.now⟩
      if s.anchorPassed x.pos then s.endAnchor x
      else { s with cal := { s.cal with anchors := s.cal.anchors ++ [x] } }))

/-- `CAL_ANCHOR_TIMEOUT` (R382): the oldest `CAL_ANCHOR` has waited 10 s. -/
def execCalAnchorTimeout (t : Nat) (s : State) : Host.Outcome State Fault Refusal :=
  if !s.clocked then .next s else
  let s := s.advance t
  match s.cal.anchors with
  | [] => .next s
  | x :: _ => if x.since + 160000000000 ≤ t then .next (s.endAnchor x) else .next s

/-- `CAL_PROPOSALS` (R376). -/
def execCalProposals (h : Hdr) (dst most : Nat) (s : State) : Host.Outcome State Fault Refusal :=
  if !s.spells (.calProposals h dst most) then .next s else
  .next (s.packet opCalProposals h
    (fun s => rank0 s .cal (s.badAddr dst (16 * min most s.cal.props.length)) false [])
    (fun pk s =>
      let out := s.cal.props.take most
      let s := State.writeAt { s with cal := { s.cal with props := s.cal.props.drop most } } 9 dst out.flatten
      s.complete pk .ok [out.length, (out.filter fun r => decide (fieldN r 2 2 = 0)).length]))

/-- `CAL_POLICY` (R374). -/
def execCalPolicy (h : Hdr) (policy : Nat) (s : State) : Host.Outcome State Fault Refusal :=
  if !s.spells (.calPolicy h policy) then .next s else
  .next (s.packet opCalPolicy h
    (fun s => rank0 s .cal (decide (2 < policy)) false [])
    (fun pk s =>
      let s := if policy = 0 ∨ policy = s.calPolicy then s else { s with cal := { s.cal with steps := [] } }
      let s := s.wr R.CAL_CFG_POLICY policy
      let s := if policy = 2 then { s with cal := { s.cal with wins := [], dens := [], rows := [] } } else s
      s.complete pk .ok []))

/-- An abort of CAL (R94): windows, estimates and every change not yet applied are discarded, and its packets completed. -/
def State.abortCal (s : State) : State :=
  let pks := s.cal.seeds.map SeedRt.pk ++ s.cal.anchors.map AnchorPk.pk
  let s := { s with cal := { s.cal with wins := [], dens := [], rows := [], steps := [], seeds := [], anchors := [] } }
  pks.foldl (fun s p => s.complete p .aborted []) s

end Sys2Proof.Machine
end

