-- ==== Sys2Proof/Machine/Insp.lean ====
section
/-!
DEFINITION. The INSP unit and the camera lanes (spec/08): settings and frames (R344 to R351), triggers (R337), the comparison of camera
lines (R352 to R368), tile and defect records, crops and reject targets (R359 to R364), GenCP and GPIO.
-/

namespace Sys2Proof.Machine

/-- Camera lane `k` as a node, and its base. -/
def camNode (k : Nat) : Node := .cam (Fin.ofNat 8 k)
def camB (k : Nat) : Nat := (camNode k).base

/-- The lane is up (R333). -/
def State.camUp (s : State) (k : Nat) : Bool := s.flag (R.CAM_STATE_UP (camB k))

/-! ## Settings (R346 to R348, R386) -/

/-- A 64-byte block laid out as `CAM_SET`. -/
def camSetOf (b : List Byte) : CamSet :=
  { px := fieldN b 0 2, lines := fieldN b 2 2, ctx := fieldN b 4 1, div := fieldN b 5 1, phase := fieldN b 6 1, on := bit (fieldN b 7 1) 0,
    resend := bit (fieldN b 7 1) 1, exposure := fieldN b 8 4, delay := fieldN b 12 4, dcam := fieldS b 16 4, cx0 := fieldS b 20 4,
    cxs := fieldN b 24 4, resendUs := fieldN b 28 2 }

/-- The value that a write has put into the shadow of a field, or the value in effect (R22). -/
def State.shadowed (s : State) (f : FRef) : Nat := (tget none s.shadow f.key).getD (s.rd f)

/-- The shadow set of a camera lane. -/
def State.camShadow (s : State) (k : Nat) : CamSet :=
  let b := camB k
  { px := s.shadowed (R.CAM_SET_LINE_PX b), lines := s.shadowed (R.CAM_SET_FRAME_LINES b), ctx := s.shadowed (R.CAM_SET_CTX b),
    div := s.shadowed (R.CAM_SET_TRIG_DIV b), phase := s.shadowed (R.CAM_SET_TRIG_PHASE b),
    on := decide (s.shadowed (R.CAM_SET_CAM_ON b) ≠ 0), resend := decide (s.shadowed (R.CAM_SET_RESEND_ON b) ≠ 0),
    exposure := s.shadowed (R.CAM_SET_EXPOSURE_NS b), delay := s.shadowed (R.CAM_SET_CAM_DELAY_NS b),
    dcam := toS 32 (s.shadowed (R.CAM_SET_D_CAM b)), cx0 := toS 32 (s.shadowed (R.CAM_SET_CX0 b)), cxs := s.shadowed (R.CAM_SET_CXS b),
    resendUs := s.shadowed (R.CAM_SET_RESEND_US b) }

/-- The fields of `CAM_SET` with the values of a set. -/
def camFields (k : Nat) (x : CamSet) : List (FRef × Nat) :=
  let b := camB k
  [(R.CAM_SET_LINE_PX b, x.px), (R.CAM_SET_FRAME_LINES b, x.lines), (R.CAM_SET_CTX b, x.ctx), (R.CAM_SET_TRIG_DIV b, x.div),
   (R.CAM_SET_TRIG_PHASE b, x.phase), (R.CAM_SET_CAM_ON b, b2n x.on), (R.CAM_SET_RESEND_ON b, b2n x.resend),
   (R.CAM_SET_EXPOSURE_NS b, x.exposure), (R.CAM_SET_CAM_DELAY_NS b, x.delay), (R.CAM_SET_D_CAM b, ofS 32 x.dcam),
   (R.CAM_SET_CX0 b, ofS 32 x.cx0), (R.CAM_SET_CXS b, x.cxs), (R.CAM_SET_RESEND_US b, x.resendUs)]

/-- A set with `CAM_ON` at 1 that R386 refuses. -/
def State.camSetBad (s : State) (x : CamSet) : Bool :=
  x.on &&
  (decide (x.px < 1024) || decide (16384 < x.px) || decide (x.px % 64 ≠ 0) || decide (x.lines < 64) || decide (4096 < x.lines) ||
   decide (x.lines % 16 ≠ 0) || decide (x.ctx = 0) || decide ((s.ctx x.ctx).st = .closed) || decide (x.div = 0) || decide (64 < x.div) ||
   decide (x.div ≤ x.phase) || decide (x.exposure < 100) || decide (1000000 < x.exposure) || decide (1000000 < x.delay) ||
   decide (x.cxs < 16384) || decide (262144 < x.cxs) || decide (x.resendUs < 10) || decide (1000 < x.resendUs))

/-- Camera lines per second of a set: ⌈Lmax / `TRIG_DIV`⌉ of its context (R341); 0 when it names none that is open. -/
def State.camRate (s : State) (x : CamSet) : Nat :=
  let c := s.ctx x.ctx
  if x.div = 0 ∨ c.st = .closed then 0 else (c.lmax + x.div - 1) / x.div

/-- The sum of R341 over stripes of this device's lanes, with the settings that a lane has. -/
def State.pixelLoad (s : State) (xs : List Stripe) (set : Nat → CamSet) : Nat :=
  (xs.map fun x => match s.ownCam x.lane with
    | some k => (x.px + 128) * s.camRate (set k)
    | none => 0).sum

/-- `INSP_LOAD` (R341). -/
def State.inspLoad (s : State) : Nat := (s.pixelLoad s.insp.stripes s.camSet + 999999) / 1000000

/-- A frame of the lane has not ended (R345). -/
def CamRt.running (c : CamRt) : Bool := c.frames.any fun f => !f.ended

/-- `GEN` counts a generation, and stops at its maximum (R20). -/
def State.nextGen (s : State) (b : Nat) : State := s.wr (R.CAM_STATE_GEN b) (min 65535 (s.rd (R.CAM_STATE_GEN b) + 1))

/-- A committed set and a committed stripe table take effect (R346, R348, R356). -/
def State.takeCam (s : State) (k : Nat) : State :=
  let b := camB k
  let c := s.cam k
  let s := match c.committed with
    | none => s
    | some x =>
      let o := s.camSet k
      let s := (camFields k x).foldl (fun (s : State) (f : FRef × Nat) => s.wr f.1 f.2) s
      let s := if o.dcam ≠ x.dcam ∨ o.cx0 ≠ x.cx0 ∨ o.cxs ≠ x.cxs then (s.wr (R.CAM_DXY_DY b) 0).wr (R.CAM_DXY_DX b) 0 else s
      (s.wr (R.CAM_CTRL_COMMIT b) 0).nextGen b
  let s := if c.stripesNext.isNone then s else s.nextGen b
  s.setCam k { (s.cam k) with committed := none, stripes := c.stripesNext.getD c.stripes, stripesNext := none }

/-- Take effect at once when no frame runs: `CAM_ON` is 0, the context is neither RUNNING nor STOPPING, or no frame is open (R347). -/
def State.takeIdle (s : State) (k : Nat) : State :=
  let set := s.camSet k
  if set.on && (s.ctx set.ctx).live && (s.cam k).running then s else s.takeCam k

/-- Commit a set. -/
def State.commitCam (s : State) (k : Nat) (x : CamSet) : State :=
  ((s.setCam k { (s.cam k) with committed := some x }).wr (R.CAM_CTRL_COMMIT (camB k)) 1).takeIdle k

/-- `COMMIT`: a write of 1 to `COMMIT` in `CAM_CTRL` (R346, R347, R386). -/
def State.writeCommit (s : State) (cam : Fin 8) : State :=
  let x := s.camShadow cam.val
  if s.camSetBad x then s.access (.cam cam) else s.commitCam cam.val x

/-- `COMMIT`. -/
def execCommit (cam : Fin 8) (s : State) : Host.Outcome State Fault Refusal :=
  .next (s.hostAccess (.cam cam) (.commit cam) fun s => s.writeCommit cam)

/-- Forward the completion of a camera packet to the partner of a pair (R501). -/
def State.forwardCam (s : State) (pk : Pk) (st : Status) (words : List Nat) (bytes : List Byte) : State :=
  s.sendSeq (.result (.camera pk.hdr.ring.val pk.hdr.sq st.code words bytes))

/-- The status with which a packet that may start fails, if it fails. -/
def State.startFails (s : State) (o : OpInfo) (h : Hdr) (chk : State → List (Bool × Status)) : Option Status :=
  if s.mayStart h then ((s.startPk h o.op).hdrFail o h).or (firstFail (chk (s.startPk h o.op))) else none

/-- A packet for a camera lane (R501): for an own lane it runs, and a refusal is forwarded to the partner; for a lane of the partner it
waits for the result that the partner forwards. -/
def State.camPacket (s : State) (o : OpInfo) (h : Hdr) (own : Option Nat) (reads : List (Nat × Nat)) (dst room : Nat)
    (chk : State → List (Bool × Status)) (eff : Nat → Pk → State → State) : State :=
  let t := s.packetR o h reads chk (fun pk s => match own with
    | none => { s with yk := { s.yk with camWaits := s.yk.camWaits ++ [⟨pk, dst, room⟩] } }
    | some k => eff k pk s)
  match s.startFails o h chk with
  | none => t
  | some st => if own.isSome then t.forwardCam ⟨h, o.op, s.pkEpoch⟩ st [] [] else t

/-- `CAM_CONFIG` (R341, R348, R386, R501). -/
def execCamConfig (h : Hdr) (lane block : Nat) (s : State) : Host.Outcome State Fault Refusal :=
  if !s.spells (.camConfig h lane block) then .next s else
  let r := s.readAt block 64
  let x := camSetOf (s.bytesAt block 64)
  let own := s.ownCam lane
  let k := own.getD 0
  .next (s.camPacket opCamConfig h own [(block, 64)] 0 0
    (fun s =>
      let got := !(okBytes r).isEmpty && own.isSome
      rank s (if own.isSome then camNode k else .insp)
        (decide (s.camCount ≤ lane) ||
         (got && (s.camSetBad x ||
           decide (4000000000 < s.pixelLoad s.insp.stripes (fun j => if j = k then x else s.camSet j)) ||
           decide (9700000000 < x.px * 24 * s.camRate x)))) false r
        [(own.isSome && x.on && !s.camUp k, .camDown)])
    (fun k pk s =>
      let sh := (camFields k x).foldl (fun (t : Tbl (Option Nat)) (f : FRef × Nat) => tset none t f.1.key (some f.2)) s.shadow
      ((State.commitCam { s with shadow := sh } k x).forwardCam pk .ok [] []).complete pk .ok []))

/-! ## The stripe table (R339 to R341) -/

/-- `STRIPE_SET`. -/
def execStripeSet (h : Hdr) (table entries : Nat) (s : State) : Host.Outcome State Fault Refusal :=
  if !s.spells (.stripeSet h table entries) then .next s else
  let len := 32 * entries
  let r := s.readAt table len
  let es := chunks 32 entries (s.bytesAt table len)
  let models := es.map fun e => (stripeModel e, 12288)
  let reads := (table, len) :: (if (okBytes r).length = len ∧ entries ≤ 64 then models else [])
  let xs := es.zipIdx.map fun e => { stripeOf e.1 e.2 with model := s.bytesAt (stripeModel e.1) 12288 }
  let own (x : Stripe) : Option CamSet := (s.ownCam x.lane).map s.camSet
  let got := decide ((okBytes r).length = len) && decide (entries ≤ 64)
  let laneBad (x : Stripe) : Bool := match own x with
    | none => false
    | some set =>
      let c := s.ctx set.ctx
      decide (set.px < x.first + x.px) || (decide (c.st ≠ .closed) && (c.pass || c.qsOff))
  let anyRead (p : Nat → Nat → Bool) : Bool := reads.any fun q => p q.1 q.2
  .next (s.packetR opStripeSet h reads
    (fun s =>
      [(decide (64 < entries) || anyRead s.badAddr ||
         (got && (es.any stripeBad || !stripesOrdered xs || xs.any (fun x => decide (s.camCount ≤ x.lane)) || xs.any laneBad ||
           (!anyRead s.dmaFails && !anyRead s.poisonedAt && xs.any fun x => modelBad x.model))), .badParam),
       (!s.accepts .insp, .unitOff), (anyRead s.dmaFails, .dmaError), (anyRead s.poisonedAt, .poisoned),
       (decide (4000000000 < s.pixelLoad xs s.camSet), .pixelRate)])
    (fun pk s =>
      let s := State.voidAll { s with insp := { s.insp with stripes := xs } }
      let s := (List.range 8).foldl (fun s k =>
        (s.setCam k { (s.cam k) with stripesNext := some (xs.filter fun x => decide (s.ownCam x.lane = some k)) }).takeIdle k) s
      s.complete pk .ok []))

/-! ## Triggers (R337, R344, R346) -/

/-- The frame that a trigger belongs to: the newest that lacks triggers and has not ended. -/
def CamRt.openFrame (c : CamRt) : Option CamFrame :=
  match c.frames.getLast? with
  | some f => if !f.ended && decide (f.trigs.length < f.set.lines) then some f else none
  | none => none

/-- Replace a frame. -/
def CamRt.putFrame (c : CamRt) (f : CamFrame) : CamRt := { c with frames := c.frames.map fun g => if g.no = f.no then f else g }

/-- Send a trigger of a lane for a line that ticks at `t`, and note it in a frame. -/
def State.sendTrigger (s : State) (k : Nat) (f : CamFrame) (line : Nat) (x : Int) (q t ch : Nat) : State :=
  let n := s.fresh
  let s := { s with fresh := n + 1 }
  let tr := t + Config.free .camPulse n % 1601
  let before := ((s.enc ch).hist.find? fun p => decide (p.t ≤ tr)).getD ⟨tr, s.encPos ch⟩
  let f := { f with trigs := f.trigs ++ [⟨line, x, q, tr, ch, before, none⟩] }
  let c := (s.cam k).putFrame f
  let s := s.setCam k { c with lastTrig := tr, exposures := c.exposures ++ [tr + 16 * f.set.exposure] }
  s.put (.camPulse k 0 true)

/-- The context line tick of a line on one camera lane: `x` and `q` are the accumulator position and `Q` of the reference group. -/
def State.camTick (s : State) (k ctx line : Nat) (x : Int) (q t ch : Nat) : State :=
  let set := s.camSet k
  if !set.on ∨ set.ctx ≠ ctx ∨ set.div = 0 ∨ line % set.div ≠ set.phase % set.div then s
  else
    match (s.cam k).openFrame with
    | some f => s.sendTrigger k f line x q t ch
    | none =>
      if !s.accepts (camNode k) then s
      else
        let s := s.takeCam k
        let set := s.camSet k
        if !set.on ∨ set.ctx ≠ ctx then s
        else
          let c := s.cam k
          let f : CamFrame := { no := c.nextFrame, gen := s.rd (R.CAM_STATE_GEN (camB k)), set := set, stripes := c.stripes }
          let s := s.setCam k { c with frames := c.frames ++ [f], nextFrame := c.nextFrame + 1 }
          let s := ((s.wr (R.CAM_STATE_FRAME_OPEN (camB k)) 1).wr (R.CAM_FRAME_FRAME (camB k)) f.no)
          s.sendTrigger k f line x q t ch

/-- A context line tick on every camera lane (R314, R337); pages whose content passes a lane that is down
are marked (R383), a displaced partner's lanes being down (R525). -/
def State.camTicks (s : State) (ctx line : Nat) (x : Int) (q t ch : Nat) : State :=
  let s := (List.range 8).foldl (fun s k => s.camTick k ctx line x q t ch) s
  if ctx ≠ s.calCtx then s
  else
    let s := if s.yk.camsLost && (s.insp.stripes.any fun x => (s.ownCam x.lane).isNone) then s.markLine ctx line markCalReduced else s
    s.calCams.foldl (fun s k =>
      let l := s.camContent k line
      if s.camUp k ∨ l < 0 ∨ !(s.insp.stripes.any fun x => decide (s.ownCam x.lane = some k)) then s
      else s.markLine ctx l.toNat markCalReduced) s.endSeeds

/-- `EXPOSURE_END` (R335): the falling edge of the oldest pulse, at `t`. -/
def execExposureEnd (cam : Fin 8) (t : Nat) (s : State) : Host.Outcome State Fault Refusal :=
  if !s.clocked then .next s else
  let s := s.advance t
  let c := s.cam cam.val
  match c.exposures with
  | [] => .next s
  | e :: r => if e ≤ t then .next ((s.setCam cam.val { c with exposures := r }).put (.camPulse cam.val 0 false)) else .next s

/-! ## Comparing a line (R352 to R368) -/

/-- Where and how a camera line is compared: the context, the page's span, the quarter-scale row, whether the reference is 0, whether
the line may calibrate, its content line and window, and the tracked dx. -/
structure LineCmp where
  c : Ctx
  span : Option (Nat × Nat)
  q : Nat
  blank : Bool
  cal : Bool
  content : Nat
  win : Nat
  dx : Int
  data : List Byte
  unusable : List Nat
deriving DecidableEq, Repr

/-- The reference of a pixel of a compared line (R354, R355). -/
def State.lineRef (s : State) (k : LineCmp) (q x : Nat) : Option (List Nat) :=
  if k.span.isNone || k.blank then some (List.replicate k.c.colorants 0) else s.refVals k.c q x

/-- The rows of the quarter-scale reference that a page has. -/
def LineCmp.rows (k : LineCmp) : Nat × Nat :=
  match k.span with
  | some p => (p.1 / k.c.lpr / 4, ((p.1 + p.2) / k.c.lpr - 1) / 4)
  | none => (k.q, k.q)

/-- Add to an entry of a table of sums. -/
def addAt (t : Tbl Int) (key : Nat) (v : Int) : Tbl Int := tset 0 t key (tget 0 t key + v)
def addAt2 (t : Tbl (Nat × Int)) (key : Nat) (v : Int) : Tbl (Nat × Int) :=
  let o := tget (0, 0) t key
  tset (0, 0) t key (o.1 + 1, o.2 + v)

/-- Row-delay sums of a colorant at a pixel (R368): each nozzle that prints (j, c) adds to its group, `base` + group. -/
def rowSums (ps : List (Nat × Nat)) (base : Nat) (r gy : Int) (rs rg : Tbl Int) : Tbl Int × Tbl Int :=
  ps.foldl (fun a e =>
    let w : Int := nmWeight e.2
    (addAt a.1 (base + nmRowGroup e.2) (w * r * gy), addAt a.2 (base + nmRowGroup e.2) (w * gy * gy))) (rs, rg)

/-- What a seed pattern takes from a pixel (R378, R379). -/
def SeedRt.pixel (x : SeedRt) (c : Ctx) (content : Nat) (key : Nat) (j : Nat) (d : Int) (dom : Bool) (ps : List (Nat × Nat)) (r gy : Int)
    (a : SeedSum) : SeedSum :=
  let band := x.lines / max 1 c.colorants
  let off := content - x.first
  if content < x.first ∨ x.first + x.lines ≤ content ∨ band = 0 then a
  else if x.pattern = 0 then
    if off / band ≠ j then a
    else if off % band < band / 2 then { a with lo := addAt2 a.lo key d } else { a with hi := addAt2 a.hi key d }
  else if dom then
    let p := rowSums ps 0 r gy a.rs a.rg
    { a with rs := p.1, rg := p.2 }
  else a

/-- The calibration sums of one colorant at a pixel (R366 to R368, R378, R379, R381). -/
def State.pixelCal (s : State) (k : LineCmp) (m : Model) (cn : Nat) (v : List Nat) (r gx gy : List Int) (dens : List Int)
    (a : CalSum × Tbl AnchorSum) (j : Nat) : CalSum × Tbl AnchorSum :=
  let ch := mCh m j
  if ch = 3 then a
  else
    let key := calKey j cn
    let dom := dominant m v j
    let w : Int := if dom && decide ((gx.getD ch 0).natAbs ≤ mEdgeThr m) then mWt m j (v.getD j 0) else 0
    let d := d16 m r v j
    let an := if 0 < w then
        let o := tget {} a.2 j
        tset {} a.2 j ⟨o.n + 1, o.d + dens.getD ch 0, o.v + (v.getD j 0 : Nat)⟩
      else a.2
    if !s.clean k.c j cn then (a.1, an)
    else
      let ps := s.printers k.c key
      let rj := r.getD ch 0
      let gj := gy.getD ch 0
      let x := a.1
      let x := if 0 < w then
          { x with w := addAt x.w (k.win * 2 ^ 24 + key) w, s := addAt x.s (k.win * 2 ^ 24 + key) (w * d) }
        else x
      let x := if dom && decide (mGyMin m ≤ gj.natAbs) then
          let p := rowSums ps (k.win * 32) rj gj x.rs x.rg
          { x with rs := p.1, rg := p.2 }
        else x
      let x := { x with seeds := s.cal.seeds.foldl (fun t sd =>
        tset {} t sd.id (sd.pixel k.c k.content key j d dom ps rj gj (tget {} t sd.id))) x.seeds }
      (x, an)

/-- Compare one pixel of a stripe (R353, R356, R358, R359, R361). -/
def State.comparePixel (s : State) (k : LineCmp) (set : CamSet) (st : Stripe) (fa : CamFrame × Tbl AnchorSum) (x : Nat) :
    CamFrame × Tbl AnchorSum :=
  let f := fa.1
  let m := st.model
  let col := set.column k.dx x
  if k.unusable.contains x ∨ col < 0 ∨ (k.c.gridWidth : Int) ≤ col then fa
  else
    let cn := col.toNat
    let cc := if k.c.dpi1200 then cn else cn / 2
    let lo := k.rows.1
    let hi := k.rows.2
    let at' (q x : Nat) : Option (List Nat) := s.lineRef k q x
    match at' k.q cc, at' (if k.q + 1 ≤ hi then k.q + 1 else k.q) cc, at' (if lo < k.q then k.q - 1 else k.q) cc,
        at' k.q (if cc + 1 < k.c.cols then cc + 1 else cc), at' k.q (cc - 1) with
    | some v, some vu, some vd, some vr, some vl =>
      let dens := (List.range 3).map fun ch => mLogt m ch ((k.data.getD (3 * x + ch) 0#8).toNat)
      let r := (List.range 3).map fun ch => dens.getD ch 0 - predict m ch v
      let bad := (List.range 3).any fun ch => decide (mDefThr m ch < (r.getD ch 0).natAbs)
      let tile := st.idx * 64 + (x - st.first) / 256
      let t := tget {} f.tiles tile
      let t : TileSum := { defects := t.defects + b2n bad, n := t.n + 1, r := (t.r.zip r).map fun p => p.1 + p.2,
                           a := (t.a.zip r).map fun p => p.1 + (p.2.natAbs : Int) }
      let cell := tile * 16 + (x - st.first) % 256 / 16
      let f := { f with tiles := tset {} f.tiles tile t, cells := if bad then tmod 0 f.cells cell (· + 1) else f.cells }
      if k.span.isNone then (f, fa.2)
      else
        let gy := (List.range 3).map fun ch => predict m ch vu - predict m ch vd
        let gx := (List.range 3).map fun ch => predict m ch vr - predict m ch vl
        let rs := r.sum
        let f := { f with sy := f.sy + rs * gy.sum, gy := f.gy + gy.sum * gy.sum, sx := f.sx + rs * gx.sum, gx := f.gx + gx.sum * gx.sum }
        if !k.cal then (f, fa.2)
        else
          let a := (List.range k.c.colorants).foldl (s.pixelCal k m cn v r gx gy dens) (f.cal, fa.2)
          ({ f with cal := a.1 }, a.2)
    | _, _, _, _, _ => ({ f with marks := f.marks ||| 2 ^ 5 }, fa.2)

/-- Compare a camera line with its reference (R350, R352, R354, R355). -/
def State.compareWith (s : State) (cam : Nat) (f : CamFrame) (ln : CamLine) (tr : CamTrig) : State × CamFrame × Tbl AnchorSum :=
  let set := f.set
  let c := s.ctx set.ctx
  let lam := tr.lam set (s.camDy cam)
  if lam < 0 then (s, f, [])
  else
    let content := (lam / 256).toNat
    let q := (lam / (1024 * (c.lpr : Int))).toNat
    let span := c.spanOf content
    let row := match span with | some p => min (4 * q + 3) ((p.1 + p.2) / c.lpr - 1) | none => 0
    let tag := s.tagAt c row
    let tagBad := span.isSome && s.dramBad (c.tagAddr row) 8
    let s := if span.isSome then (s.noteRead 8 (c.tagAddr row) 8).noteRead 8 (c.qsAddr q) c.rowSize else s
    if tagBad then (s.usePoison 8 (2 ^ 63 + c.tagAddr row) 8, { f with marks := f.marks ||| 2 ^ 5 }, [])
    else if span.isSome && decide (row % 2 ^ 32 < tag % 2 ^ 32) then (s, { f with marks := f.marks ||| 2 ^ 5 }, [])
    else
      let blank := span.isSome && bit tag 32
      let k : LineCmp := { c := c, span := span, q := q, blank := blank, cal := decide (set.ctx = s.calCtx) && !blank, content := content,
                           win := content / s.winLines, dx := s.camDx cam, data := ln.data, unusable := ln.unusable }
      let f := if blank then { f with marks := f.marks ||| 2 ^ 7 } else f
      let out := f.stripes.foldl (fun fa st => (List.range st.px).foldl (fun fa i => s.comparePixel k set st fa (st.first + i)) fa) (f, [])
      let s := if span.isSome && !blank && s.dramBad (c.qsAddr q) c.rowSize then s.usePoison 8 (2 ^ 63 + c.qsAddr q) c.rowSize else s
      (s, out)

/-- Compare a camera line, and note its position and sums (R381, R382). -/
def State.compareLine (s : State) (cam : Nat) (f : CamFrame) (ln : CamLine) : State × CamFrame :=
  match f.trigs[ln.k]? with
  | none => (s, f)
  | some tr =>
    let r := s.compareWith cam f ln tr
    let p := (r.1.enc tr.ch).webNm (r.1.quot (tr.centre f.set) (2 ^ 17))
    (r.1, { r.2.1 with cal := { r.2.1.cal with anchors := ⟨p, r.2.2⟩ :: r.2.1.cal.anchors } })

/-! ## Records (R359 to R364) -/

/-- The start of the INSP region. -/
def State.inspRegion (s : State) : Nat := s.rd R.INSP_REGION_ADDR * 65536

/-- Enter a tile record, or a defect record, into its ring (R360, R362). -/
def State.enterTile (s : State) (r : List Byte) : State :=
  let x := s.insp
  if 262144 ≤ x.tileTail - x.tileHead then (s.count R.INSP_LOST_TILE_LOST R.INSP_OVF_TILE_OVF .insp 1).raise .insp 20
  else State.dramWrite { s with insp := { x with tileTail := x.tileTail + 1 } } 8 (s.inspRegion + 48 * (x.tileTail % 262144)) r
def State.enterDefect (s : State) (r : List Byte) : State :=
  let x := s.insp
  if 262144 ≤ x.defTail - x.defHead then (s.count R.INSP_LOST_DEF_LOST R.INSP_OVF_DEF_OVF .insp 1).raise .insp 20
  else
    (State.dramWrite { s with insp := { x with defTail := x.defTail + 1 } } 8 (s.inspRegion + 12 * 2 ^ 20 + 32 * (x.defTail % 262144)) r).raise
      .insp 19

/-- A defect record with its crop slot. -/
def withSlot (r : List Byte) (slot : Nat) : List Byte := r.take 28 ++ leBytes 2 slot ++ r.drop 30

/-- Write a defect record (R362, R516). -/
def State.writeDefect (s : State) (r : List Byte) (slot : Nat) : State :=
  (s.enterDefect (withSlot r slot)).sendRecord 1 (withSlot r slot)

/-- The encoded form of a crop (R363): LZ, 1 byte per sample, 3 channels, rows of 256. -/
def cropBale (pixels : List Byte) : List Byte :=
  (encodeBale ⟨1, 0, 2 * 4 + 255 * 256, false, false⟩ 0 true pixels).getD []

/-- Start a crop on a compressor: it takes the next slot, its bale counts with the engine (R140), and its record is written. -/
def State.startCrop (s : State) (n : Fin 4) (x : CropReq) : State :=
  let k := s.insp.cropNext % 4096
  let out := cropBale x.pixels
  let s := State.dramWrite { s with insp := { s.insp with cropNext := s.insp.cropNext + 1 } } 3 (s.inspRegion + 20 * 2 ^ 20 + 16384 * k) out
  (s.countEngine (.compressor n) x.pixels.length out.length 1).writeDefect x.rec' k

/-- Start the crops that wait, when a compressor accepts work (R139): of several the first. -/
def State.startCrops (s : State) : State :=
  match s.freeCompressors with
  | [] => s
  | n :: _ => if s.stalled then s else s.insp.crops.foldl (fun s x => s.startCrop n x) { s with insp := { s.insp with crops := [] } }

/-- `THRESHER_GRANT` (R156): the device's own requests go first at the compressors (R139). -/
def execThresherGrant (s : State) : Host.Outcome State Fault Refusal :=
  if !s.clocked then .next s else .next s.startCrops.grant

/-- `CROP_START_TIMEOUT` (R363), at `t`: the oldest crop that waits is dropped when it has waited 1 ms. -/
def execCropStartTimeout (t : Nat) (s : State) : Host.Outcome State Fault Refusal :=
  if !s.clocked then .next s else
  let s := (s.advance t).startCrops
  match s.insp.crops with
  | [] => .next s
  | x :: r =>
    if x.since + 16000000 ≤ t then
      let s := { s with insp := { s.insp with crops := r } }
      .next (((s.count R.INSP_LOST_CROP_LOST R.INSP_OVF_CROP_OVF .insp 1).raise .insp 20).writeDefect x.rec' 0xFFFF)
    else .next s

/-- Queue a reject target at a position (R364). -/
def State.queueReject (s : State) (target : Int) : State :=
  let k := s.rd R.INSP_CFG_REJ_OUT
  let c := s.cmp k
  if 8 ≤ c.queue.length then (s.count R.INSP_LOST_REJ_LOST R.INSP_OVF_REJ_OVF .insp 1).raise .insp 20
  else
    let x : CmpTarget := ⟨none, target, max 10 (s.rd R.INSP_REJ_WIDTH_WIDTH), s.flag R.INSP_CFG_REJ_LATE, false⟩
    let s := s.setCmp k { c with queue := c.queue ++ [x] }
    if c.queue.isEmpty then State.armCmp k 8 s else s

/-- A camera's reject target (R364); a standby's is queued on both devices (R516). -/
def State.pushReject (s : State) (target : Int) : State :=
  let s := s.queueReject target
  if s.standby then s.sendSeq (.result (.reject target)) else s

/-- The defective cells of a tile in the cell row in progress (R361). -/
def State.cellMask (s : State) (f : CamFrame) (tile : Nat) : Nat :=
  let least := max 1 (s.rd R.INSP_CFG_DEF_MIN)
  (List.range 16).foldl (fun m i => if least ≤ tget 0 f.cells (tile * 16 + i) then m + 2 ^ i else m) 0

/-- The pixels of a tile in the rows of a cell row. -/
def CamFrame.tilePixels (f : CamFrame) (st : Stripe) (tile : Nat) : List Byte :=
  f.rows.flatMap fun r => (r.drop (3 * (st.first + 256 * tile))).take 768

/-- End the cell row that began with line `first` of a frame: defect records, crops and the reject target (R361 to R364). -/
def State.endCellRow (s : State) (cam : Nat) (f : CamFrame) (first : Nat) : State × CamFrame :=
  let done := { f with cells := [], rows := [] }
  match f.trigs[first]? with
  | none => (s, done)
  | some tr =>
    let tiles := f.stripes.flatMap fun st => (List.range (st.px / 256)).map fun t => (st, t)
    let hits := (tiles.map fun x => (x, s.cellMask f (x.1.idx * 64 + x.2))).filter fun x => decide (x.2 ≠ 0)
    if hits.isEmpty then (s, done)
    else
      let p := s.quot (tr.centre f.set) (2 ^ 17)
      let web := (s.enc tr.ch).webNm p
      let line := tr.lam f.set (s.camDy cam) / 256
      let s := hits.foldl (fun s x =>
        let r := leBytes 6 f.no ++ leBytes 2 f.gen ++ leBytes 1 (s.camNo cam) ++ leBytes 1 x.1.1.idx ++ leBytes 1 x.1.2 ++ leBytes 1 0 ++
          leBytes 2 first ++ leBytes 2 x.2 ++ leBytes 8 (ofS 64 web) ++ leBytes 4 (ofS 32 line) ++ leBytes 4 0
        if s.flag R.INSP_CFG_CROP_EN then
          let q : CropReq := ⟨cam, r, f.tilePixels x.1.1 x.1.2, s.now⟩
          State.startCrops { s with insp := { s.insp with crops := s.insp.crops ++ [q] } }
        else s.writeDefect r 0xFFFF) s
      let s := if s.flag R.INSP_CFG_REJ_EN then s.pushReject (p + s.rdS R.INSP_REJ_DIST_DIST) else s
      (s, done)

/-- A tile record (R359). -/
def State.tileRecord (s : State) (cam : Nat) (f : CamFrame) (st : Stripe) (t : Nat) : List Byte :=
  let x := tget {} f.tiles (st.idx * 64 + t)
  let mean (v : Int) : Int := if x.n = 0 then 0 else rnd v x.n
  leBytes 6 f.no ++ leBytes 2 f.gen ++ leBytes 1 (s.camNo cam) ++ leBytes 1 st.idx ++ leBytes 1 t ++ leBytes 1 0 ++ leBytes 2 f.marks ++
  leBytes 2 (min 65535 x.defects) ++ leBytes 4 x.n ++ x.r.flatMap (fun v => leBytes 2 (ofS 16 (mean v))) ++
  x.a.flatMap (fun v => leBytes 2 (ofS 16 (mean v))) ++ leBytes 2 (ofS 16 (s.camDy cam)) ++ leBytes 2 (ofS 16 (s.camDx cam)) ++ leBytes 12 0

/-! ## The end of a frame -/

/-- Add to a tracked shift; a sum that leaves 16 bits is a free value. -/
def State.addShift (s : State) (f : FRef) (d : Int) : State :=
  let v := s.rdS f + d
  if -32768 ≤ v ∧ v ≤ 32767 then s.wrS f v
  else
    let a := s.freeInt .camShift
    a.2.wrS f a.1

/-- Track registration at a frame's end (R356). -/
def State.register (s : State) (cam : Nat) (f : CamFrame) : State × CamFrame :=
  let b := camB cam
  let c := s.ctx f.set.ctx
  let least : Int := s.rd (R.CAM_REG_MIN_REG_MIN b)
  let slew : Int := max 1 (s.rd (R.CAM_REG_CFG_REG_SLEW b) : Nat)
  let lim := s.rd (R.CAM_REG_CFG_REG_LOST b)
  let u : Int := if c.dpi1200 then 1 else 2
  let okY := decide (0 < f.gy) && decide (least ≤ sar f.gy 16)
  let okX := decide (0 < f.gx) && decide (least ≤ sar f.gx 16)
  let hy := rnd (8 * c.lpr * 256 * f.sy) f.gy
  let hx := rnd (2 * u * 256 * f.sx) f.gx
  let lost := (okY && decide (lim < hy.natAbs)) || (okX && decide (lim < hx.natAbs))
  let s := if okY then s.addShift (R.CAM_DXY_DY b) (clampI (-slew) slew hy) else s
  let s := if okX then s.addShift (R.CAM_DXY_DX b) (clampI (-slew) slew hx) else s
  let n := if lost then (s.cam cam).regRun + 1 else 0
  let s := (s.setCam cam { (s.cam cam) with regRun := n }).raiseIf (decide (n = 4)) .insp 18
  (s, if lost then { f with marks := f.marks ||| 2 ^ 4 } else f)

/-- A frame is over and its lines are compared: its records are written, and its sums folded (R349 to R351, R356, R359, R383). -/
def State.closeFrame (s : State) (cam : Nat) (f : CamFrame) (abort : Bool) : State :=
  let b := camB cam
  let r := if f.rows.isEmpty ∨ abort then (s, f) else s.endCellRow cam f f.cellFirst
  let s := r.1
  let f := if abort then { r.2 with marks := r.2.marks ||| 2 ^ 6, tiles := [] } else r.2
  let f := if f.lines < f.set.lines then { f with marks := f.marks ||| 1 } else f
  let r := if abort then (s, f) else s.register cam f
  let s := r.1
  let f := r.2
  let s := if bit f.marks 0 then s.count (R.CAM_ERR_SHORT b) (R.CAM_OVF_SHORT_OVF b) (camNode cam) 1 else s
  let s := if bit f.marks 1 then s.count (R.CAM_ERR_LONG b) (R.CAM_OVF_LONG_OVF b) (camNode cam) 1 else s
  let s := f.stripes.foldl (fun s st => (List.range (st.px / 256)).foldl (fun s t =>
    let rec' := s.tileRecord cam f st t
    (s.enterTile rec').sendRecord 0 rec') s) s
  let s := (s.count R.INSP_FRAMES_COUNT R.INSP_OVF_FRAMES_OVF .insp 1).raiseIf (decide (f.marks ≠ 0)) .insp 17
  let s := s.setCam cam { (s.cam cam) with frames := (s.cam cam).frames.filter fun g => decide (g.no ≠ f.no) }
  let cal := decide (f.set.ctx = s.calCtx)
  let s := if cal && (bit f.marks 3 || bit f.marks 5) && !f.stripes.isEmpty then
      (f.trigs.flatMap fun x => (List.range f.set.div).map fun i => s.camContent cam (x.line + i)).foldl (fun s l =>
        if l < 0 then s else s.markLine f.set.ctx l.toNat markCalReduced) s
    else s
  let s := s.keepLines cam f.cal.anchors (cal && decide (f.marks = 0))
  let s := if cal && decide (f.marks = 0) then s.foldCal f.cal else s
  s.calFrameEnd

/-- Close the frames, oldest first, that have ended and have no line left in a buffer; `fuel` bounds their number. -/
def State.closeFrames (cam : Nat) : Nat → State → State
  | 0, s => s
  | fuel + 1, s =>
    match (s.cam cam).frames with
    | [] => s
    | f :: _ =>
      if f.ended && !((s.cam cam).buf.any fun l => decide (l.frame = f.no)) then State.closeFrames cam fuel (s.closeFrame cam f false) else s

/-- Compare the line at the head of the buffers, if no resend of it is waited for. -/
def State.compareHead (s : State) (cam : Nat) : Option State :=
  match (s.cam cam).buf with
  | [] => none
  | ln :: rest =>
    if !ln.damaged.isEmpty then none
    else
      let s := s.setCam cam { (s.cam cam) with buf := rest }
      match (s.cam cam).frames.find? fun f => decide (f.no = ln.frame) with
      | none => some s
      | some f =>
        let first := ln.k / 16 * 16
        let r := if f.rows.isEmpty ∨ f.cellFirst = first then (s, f) else s.endCellRow cam f f.cellFirst
        let r := r.1.compareLine cam { r.2 with cellFirst := first } ln
        let f := { r.2 with rows := r.2.rows ++ [ln.data] }
        let r := if ln.k % 16 = 15 then r.1.endCellRow cam f first else (r.1, f)
        some (r.1.setCam cam ((r.1.cam cam).putFrame r.2))

def State.compareGo (cam : Nat) : Nat → State → State
  | 0, s => s
  | fuel + 1, s => match s.compareHead cam with
    | some s => State.compareGo cam fuel s
    | none => s

/-- Compare every line that can be, and close the frames that are over. -/
def State.pumpCam (s : State) (cam : Nat) : State := State.closeFrames cam 8 (State.compareGo cam 17 s)

/-! ## Lines (R335, R342, R350) -/

/-- The frame to which the next line of an image belongs. -/
def CamRt.lineFrame (c : CamRt) : Option CamFrame := c.frames.find? fun f => !f.ended

/-- Mark a frame of a lane. -/
def State.markFrame (s : State) (cam : Nat) (f : CamFrame) (m : Nat) : State :=
  s.setCam cam ((s.cam cam).putFrame { f with marks := f.marks ||| 2 ^ m })

/-- Set the pixels of a packet to 0. -/
def zeroPixels (data : List Byte) (p : Nat × Nat) : List Byte :=
  data.zipIdx.map fun x => if 3 * p.1 ≤ x.2 ∧ x.2 < 3 * (p.1 + p.2) then 0#8 else x.1

/-- A camera line arrives at `t` (R342, R344, R350): its bytes, the pixels that the granary cannot give, the packets damaged, and how many
damaged packets a resend has replaced in time. -/
def State.cameraLine (s : State) (cam : Nat) (data : List Byte) (unusable : List Nat) (damaged : List (Nat × Nat)) (resent t : Nat) : State :=
  let s := s.advance t
  let b := camB cam
  let n := camNode cam
  if !s.camUp cam then s
  else
    let s := s.count (R.CAM_LINES_COUNT b) (R.CAM_OVF_LINES_OVF b) n 1
    match (s.cam cam).lineFrame with
    | none => s
    | some f =>
      let set := f.set
      let s := if set.resend then
          (s.count (R.CAM_RESENT_COUNT b) (R.CAM_OVF_RESENT_OVF b) n resent).puts (List.replicate (resent + damaged.length) (.camResend cam))
        else s
      if f.long ∨ set.lines ≤ f.lines ∨ f.trigs.length ≤ f.lines then s.markFrame cam f 1
      else
        let ln := f.lines
        let f := { f with lines := ln + 1 }
        if 16 ≤ (s.cam cam).buf.length then
          (s.count (R.CAM_ERR_OVERRUN b) (R.CAM_OVF_OVERRUN_OVF b) n 1).markFrame cam f 3
        else
          let pad := decide (data.length ≠ 3 * set.px)
          let s := if pad then s.count (R.CAM_ERR_PAD b) (R.CAM_OVF_PAD_OVF b) n 1 else s
          let data := (data ++ List.replicate (3 * set.px - data.length) 0#8).take (3 * set.px)
          let now := if set.resend then [] else damaged
          let s := if now.isEmpty then s else s.count (R.CAM_CRC_COUNT b) (R.CAM_OVF_CRC_OVF b) n now.length
          let f := { f with marks := f.marks ||| (if pad then 2 ^ 8 else 0) ||| (if now.isEmpty ∧ unusable.isEmpty then 0 else 2 ^ 2) }
          let c := (s.cam cam).putFrame f
          (s.setCam cam { c with buf := c.buf ++ [⟨f.no, ln, now.foldl zeroPixels data, unusable, if set.resend then damaged else [], s.now⟩] }).pumpCam cam

/-- `CAMERA_LINE`. -/
def execCameraLine (cam : Fin 8) (data : List Byte) (unusable : List Nat) (damaged : List (Nat × Nat)) (resent t : Nat) (s : State) :
    Host.Outcome State Fault Refusal :=
  if !s.clocked then .next s else
  .next (s.cameraLine cam.val data unusable damaged resent t)

/-- `RESEND_TIMEOUT` (R350): the resend of the oldest damaged packet of a lane has not come within `RESEND_US` of the line. -/
def execResendTimeout (cam : Fin 8) (s : State) : Host.Outcome State Fault Refusal :=
  if !s.clocked then .next s else
  let c := s.cam cam.val
  match c.buf.find? fun l => !l.damaged.isEmpty with
  | none => .next s
  | some l =>
    let l' : CamLine := { l with data := zeroPixels l.data (l.damaged.headD (0, 0)), damaged := l.damaged.drop 1 }
    let put (c : CamRt) : CamRt :=
      { c with buf := c.buf.map fun x => if x.frame = l.frame ∧ x.k = l.k then l' else x,
               frames := c.frames.map fun f => if f.no = l.frame then { f with marks := f.marks ||| 2 ^ 2 } else f }
    let b := camB cam.val
    let set := ((c.frames.find? fun f => decide (f.no = l.frame)).map CamFrame.set).getD (s.camSet cam.val)
    let s := s.advance (l.since + 16000 * set.resendUs)
    .next (((s.count (R.CAM_CRC_COUNT b) (R.CAM_OVF_CRC_OVF b) (.cam cam) 1).setCam cam.val (put (s.cam cam.val))).pumpCam cam.val)

/-- The first frame that has not ended ends. -/
def State.endFrame (s : State) (cam : Nat) (f : CamFrame) : State :=
  let s := s.setCam cam ((s.cam cam).putFrame { f with ended := true })
  let c := s.cam cam
  let s := if c.running then s.wr (R.CAM_FRAME_FRAME (camB cam)) (f.no + 1)
    else (s.wr (R.CAM_STATE_FRAME_OPEN (camB cam)) 0).wr (R.CAM_FRAME_FRAME (camB cam)) c.nextFrame
  s.pumpCam cam

/-- `FRAME_END` (R345), at `t`: the image footer, the header of the next image, or 1 ms after the last trigger.  A header before any
trigger of the frame that it would start is discarded. -/
def execFrameEnd (cam : Fin 8) (how : Fin 3) (t : Nat) (s : State) : Host.Outcome State Fault Refusal :=
  if !s.clocked then .next s else
  let s := s.advance t
  let c := s.cam cam.val
  match c.lineFrame with
  | none => .next s
  | some f =>
    match how with
    | 0 => .next (s.endFrame cam.val f)
    | 1 =>
      if f.lines = 0 ∧ !f.long ∧ !f.headed then .next (s.setCam cam.val (c.putFrame { f with headed := true }))
      else if c.frames.any fun g => decide (f.no < g.no) then .next (s.endFrame cam.val f)
      else .next (s.setCam cam.val (c.putFrame { f with long := true }))
    | _ =>
      let last := (f.trigs.getLast?.map CamTrig.t).getD 0
      if (decide (f.set.lines ≤ f.trigs.length) && decide (last + 16000000 ≤ t)) || (!(s.ctx f.set.ctx).live && decide (c.lastTrig + 16000000 ≤ t)) then
        .next (s.endFrame cam.val f)
      else .next s

/-- An abort of INSP, or of one camera lane (R94, R350): every frame of the lane is discarded with zero statistics. -/
def State.abortCam (s : State) (cam : Nat) : State :=
  let c := s.cam cam
  let s := s.setCam cam { c with buf := [], gencp := [], exposures := [] }
  let s := c.gencp.foldl (fun s q => s.complete q.pk .aborted [0, 0]) s
  let s := c.frames.foldl (fun s f => s.closeFrame cam f true) s
  (s.wr (R.CAM_STATE_FRAME_OPEN (camB cam)) 0).wr (R.CAM_FRAME_FRAME (camB cam)) c.nextFrame

/-! ## Reading records (R360, R362) -/

/-- The records of a ring from `head` to below `tail`, with their places. -/
def State.ringRecords (s : State) (base size head tail : Nat) : List (Nat × List Byte) :=
  (List.range (tail - head)).map fun i => (head + i, s.dramRead (base + size * ((head + i) % 262144)) size)

/-- A frame number's low 32 bits are at or after a first frame, modulo 2^32. -/
def atOrAfter (first : Nat) (r : List Byte) : Bool := decide ((fieldN r 0 4 + 2 ^ 32 - first % 2 ^ 32) % 2 ^ 32 < 2 ^ 31)

/-- Read records of a ring: those selected, and the new head. -/
def State.selectRecords (s : State) (base size head tail first most : Nat) : List (Nat × List Byte) × Nat :=
  let sel := ((s.ringRecords base size head tail).filter fun r => atOrAfter first r.2).take most
  (sel, match sel.getLast? with | some r => r.1 + 1 | none => head)

/-- Write selected records to a destination, and complete the packet (R360, R418). -/
def State.giveRecords (s : State) (pk : Pk) (base size dst : Nat) (sel : List (Nat × List Byte)) : State :=
  let bs := sel.flatMap (·.2)
  let words := [sel.length, match sel.getLast? with | some r => fieldN r.2 0 4 | none => 0]
  let s := sel.foldl (fun s r => s.noteRead 8 (base + size * (r.1 % 262144)) size) s
  match sel.find? fun r => s.dramBad (base + size * (r.1 % 262144)) size with
  | some r => ((s.writePoisoned 8 dst bs).usePoison 8 (2 ^ 63 + base + size * (r.1 % 262144)) size).complete pk .poisoned words
  | none => (s.writeAt 8 dst bs).complete pk .ok words

/-- `STATS_READ` (R360). -/
def execStatsRead (h : Hdr) (dst first most : Nat) (s : State) : Host.Outcome State Fault Refusal :=
  if !s.spells (.statsRead h dst first most) then .next s else
  .next (s.packet opStatsRead h
    (fun s => rank0 s .insp (s.badAddr dst (48 * min most 262144)) false [])
    (fun pk s =>
      let x := s.insp
      let sel := s.selectRecords s.inspRegion 48 x.tileHead x.tileTail first most
      State.giveRecords { s with insp := { x with tileHead := sel.2 } } pk s.inspRegion 48 dst sel.1))

/-- `DEFECT_READ` (R362). -/
def execDefectRead (h : Hdr) (dst first most : Nat) (s : State) : Host.Outcome State Fault Refusal :=
  if !s.spells (.defectRead h dst first most) then .next s else
  .next (s.packet opDefectRead h
    (fun s => rank0 s .insp (s.badAddr dst (32 * min most 262144)) false [])
    (fun pk s =>
      let x := s.insp
      let base := s.inspRegion + 12 * 2 ^ 20
      let sel := s.selectRecords base 32 x.defHead x.defTail first most
      State.giveRecords { s with insp := { x with defHead := sel.2 } } pk base 32 dst sel.1))

/-! ## GenCP and GPIO (R335, R336) -/

/-- Send the request at the head of a lane's queue. -/
def State.sendGencp (s : State) (cam : Nat) : State :=
  match (s.cam cam).gencp with
  | [] => s
  | q :: r => (s.setCam cam { (s.cam cam) with gencp := { q with sentAt := s.now } :: r }).put (.camBytes cam q.req)

/-- `CAM_GENCP` (R336). -/
def execCamGencp (h : Hdr) (lane req reqLen room reply : Nat) (s : State) : Host.Outcome State Fault Refusal :=
  if !s.spells (.camGencp h lane req reqLen room reply) then .next s else
  let own := s.ownCam lane
  let k := own.getD 0
  let r := s.readAt req reqLen
  .next (s.camPacket opCamGencp h own [(req, reqLen)] reply room
    (fun s => rank s (if own.isSome then camNode k else .insp)
      (decide (s.camCount ≤ lane) || decide (reqLen = 0) || decide (1024 < reqLen) || decide (1024 < room) || s.badAddr reply room) false r
      [(own.isSome && !s.camUp k, .camDown)])
    (fun k pk s =>
      let c := s.cam k
      let s := s.setCam k { c with gencp := c.gencp ++ [⟨pk, s.bytesAt req reqLen, room, reply, 0⟩] }
      if c.gencp.isEmpty then s.sendGencp k else s))

/-- `GENCP_REPLY` (R336): the camera's reply comes. -/
def execGencpReply (cam : Fin 8) (data : List Byte) (s : State) : Host.Outcome State Fault Refusal :=
  if !s.clocked then .next s else
  let c := s.cam cam.val
  match c.gencp with
  | [] => .next s
  | q :: r =>
    let bs := data.take q.room
    let s := (s.setCam cam.val { c with gencp := r }).writeAt 8 q.addr bs
    let s := s.forwardCam q.pk .ok [bs.length, data.length] bs
    .next ((s.complete q.pk .ok [bs.length, data.length]).sendGencp cam.val)

/-- `GENCP_TIMEOUT` (R336): no reply has come within 100 ms of the request. -/
def execGencpTimeout (cam : Fin 8) (s : State) : Host.Outcome State Fault Refusal :=
  if !s.clocked then .next s else
  let c := s.cam cam.val
  match c.gencp with
  | [] => .next s
  | q :: r =>
    let s := ((s.advance (q.sentAt + 1600000000)).setCam cam.val { c with gencp := r }).forwardCam q.pk .gencpTimeout [0, 0] []
    .next ((s.complete q.pk .gencpTimeout [0, 0]).sendGencp cam.val)

/-- `GPIO_MESSAGE` (R335). -/
def execGpioMessage (cam : Fin 8) (inputs : BitVec 8) (s : State) : Host.Outcome State Fault Refusal :=
  if !s.clocked then .next s else
  if s.camUp cam.val then .next (s.wr (R.CAM_STATE_GPIO_IN (camB cam.val)) inputs.toNat) else .next s

/-! ## The lane (R333, R334) -/

/-- `CAM_LANE_UP` (R333): the receiver of an enabled lane has held lock for 1 ms. -/
def execCamLaneUp (cam : Fin 8) (s : State) : Host.Outcome State Fault Refusal :=
  if !s.clocked then .next s else
  let b := camB cam.val
  if s.enabled (.cam cam) && s.flag (R.LANE_STATUS_BLOCK_LOCK b) then
    .next (((s.advance ((s.lane (.cam cam)).lockAt + 16000000)).wr (R.CAM_STATE_UP b) 1).wr (R.LANE_STATUS_LSTATE b) 5)
  else .next s

/-- A camera lane goes down (R333, R385). -/
def State.camDown (s : State) (cam : Nat) : State :=
  let b := camB cam
  if !s.camUp cam then s
  else (((s.wr (R.CAM_STATE_UP b) 0).wr (R.LANE_STATUS_LSTATE b) 0)).raiseIf (s.camSet cam).on .insp 16

end Sys2Proof.Machine
end

