-- ==== Sys2Proof/Machine/Mirror.lean ====
section
/-!
DEFINITION. Mirroring (R503, R512 to R514): the digest of a boundary, the state that the primary sends in a resynchronisation, and how the
standby loads it.
-/

namespace Sys2Proof.Machine

/-! ## The digest -/

/-- A table change as numbers. -/
def TableChange.nums (x : TableChange) : List Nat := x.first :: x.vals ++ x.bytes.map BitVec.toNat

/-- A layer change as numbers. -/
def LayerChange.nums (x : LayerChange) : List Nat := [x.layer, x.what] ++ (x.data ++ x.pal).map BitVec.toNat

/-- A pending step of CAL as numbers. -/
def CalStep.nums (x : CalStep) : List Nat := [b2n x.row, x.key, ofS 32 x.d, ofS 32 x.g]

/-- What the digest of a context covers (R512): every table that its swaths read, its pending changes, and its page queue. -/
def State.digestNums (s : State) (ctx : Nat) : List Nat :=
  let c := s.ctx ctx
  let shared (t : Tbl Nat) (size : Nat) : List Nat :=
    if c.pass then [] else (t.filter fun e => decide (e.1 < c.colorants * size)).flatMap fun e => [e.1, e.2]
  ((s.ctxNozzles c).flatMap fun e => [e.1, e.2, tget 0 s.ncal e.1]) ++ shared s.thresh 65536 ++ shared s.levels 14 ++
  (c.groupList.flatMap fun g => [s.rd (R.SCRN_RG_SHIFT_XSHIFT g), s.rd (R.SCRN_RG_SHIFT_YSHIFT g)]) ++
  ((s.tableChanges.filter fun x => decide (s.changeOwner x.table = ctx) || c.readsTable x.table).flatMap TableChange.nums) ++
  ((c.agreed.flatMap (·.2) ++ c.pendLayers).flatMap LayerChange.nums) ++
  (if ctx = s.calCtx then (s.cal.steps.mergeSort fun a b => decide (a.key ≤ b.key)).flatMap CalStep.nums else []) ++
  (c.pages.flatMap fun p => [p.number, p.length, p.headland] ++ p.gen.flatMap LayerChange.nums ++
    p.list.flatMap fun e => [e.addr, e.bytes, e.strip, e.layer, e.firstRow, e.rows])

/-- The digest of a context (R512). -/
def State.digestOf (s : State) (ctx : Nat) : Nat := Config.digest (s.digestNums ctx)

/-! ## The mirrored state -/

/-- The registers that a resynchronisation mirrors (R503, R513): epochs, row-group shifts, `ACTIVE`, `SUB_SHARE`, synthesizer parameters with
`SYN_CAL_DELAY`, `COMP_CTX_CFG`, and the positions of the axes. -/
def mirrorRegs : List FRef :=
  ((List.range 32).flatMap fun l => [R.HL_EPOCH_EPOCH l, R.SCRN_LANE_ACTIVE_ACTIVE l, R.SCRN_RG_SHIFT_XSHIFT l, R.SCRN_RG_SHIFT_YSHIFT l,
    R.SYN_STATE_CHANNEL l, R.SYN_STATE_ACTIVE l, R.SYN_NEXT_LINE l, R.SYN_Q_Q l, R.SYN_DELAY_DELAY l, R.SYN_CAL_DELAY_DELAY l,
    R.SYN_TOFS_TOFS l]) ++
  ((List.range 256).flatMap fun c => [R.SCRN_CTX_CFG_SUB_SHARE c, R.COMP_CTX_CFG_AHEAD c, R.COMP_CTX_CFG_LPR2 c, R.COMP_CTX_CFG_QS_OFF c,
    R.COMP_CTX_CFG_WB_ONLY c, R.COMP_CTX_CFG_SILO16 c]) ++
  ((List.finRange 8).flatMap fun a => let b := (Node.axis a).base
    [R.AX_POS_POS b, R.AX_RATE_RATE b, R.AX_ACCEL_ACCEL b, R.AX_DECEL_DECEL b, R.AX_STATUS_DIR b, R.AX_STATUS_HOMED b, R.AX_STATUS_MOVING b,
     R.AX_STATUS_HOMING b, R.AX_STATUS_HOLDING b, R.AX_STATUS_BRIDGES_ON b])

/-- What the primary mirrors now. -/
def State.mirrorNow (s : State) : Mirror :=
  { regs := mirrorRegs.map s.rd, nmap := s.nmap, ncal := s.ncal, thresh := s.thresh, levels := s.levels, changes := s.tableChanges, due := s.dueChanges,
    globalLine := s.globalLine, ctxs := s.ctxs, syns := s.syns, cmps := s.cmps, pulses := s.pulses, axes := s.axes }

/-- The primary sends its state, and no resynchronisation waits any more. -/
def State.sendMirror (s : State) : State := (s.wr R.YOKE_STATE_RESYNC_PENDING 0).sendSeq (.mirror (.load s.mirrorNow))

/-- Every RUNNING context has passed the line of R514 after its resynchronisation. -/
def State.noteReady (s : State) : State :=
  if s.standby && s.yk.loaded && (s.ctxs.all fun e => decide (e.2.st ≠ .running) || decide (tget 0 s.compareFrom e.1 + s.omax e.2 + 1 < e.2.line))
  then s.wr R.YOKE_STATE_READY 1 else s

/-- The standby joins a context that prints, at its next line (R513, R514): the swaths of the lines from the fire lead on are its own. -/
def State.joinCtx (s : State) (ctx : Nat) (c : Ctx) : State :=
  if !c.live || c.wbOnly then s
  else
    let n := c.line + s.fireLead
    let s := { s with compareFrom := tset 0 s.compareFrom ctx c.line }
    (c.laneList.foldl (fun (s : State) l =>
      s.setHead l { (s.head l) with loft := [], plans := [], mapUpdates := [], mapSent := [], mapPos := 0,
                                      word := none, resume := false, replaying := [], sendFrom := n, sendNext := n, nextSwath := n }) s).assignSlices
      c.laneList

/-- The standby replaces its copies by the mirrored ones and continues in step (R503, R513, R514). -/
def State.loadMirror (s : State) (m : Mirror) : State :=
  let s := (mirrorRegs.zip m.regs).foldl (fun (s : State) (e : FRef × Nat) => s.wr e.1 e.2) s
  let s := { s with nmap := m.nmap, nmapBad := [], ncal := m.ncal, ncalBad := [], thresh := m.thresh, threshBad := [], levels := m.levels,
                    levelsBad := [], tableChanges := m.changes, dueChanges := m.due, globalLine := m.globalLine, ctxs := m.ctxs, syns := m.syns,
                    cmps := m.cmps, pulses := m.pulses, axes := m.axes, compareFrom := [], ownCrcs := [], peerCrcs := [],
                    tokens := [], ticks := [] }
  let s := (List.range 32).foldl (fun (s : State) l => s.updGroups l) s
  let s := m.ctxs.foldl (fun (s : State) (e : Nat × Ctx) => s.joinCtx e.1 e.2) s
  let s := { s with yk := { s.yk with loaded := true } }
  (s.wr R.YOKE_STATE_READY 0).noteReady

end Sys2Proof.Machine
end

