-- ==== Sys2Proof/Machine/Lines.lean ====
section
/-!
DEFINITION. Line ticks (R313 to R315): committing a line's fire time, what happens at a context line tick (R178, R242, R419, R507,
R512), and the firing of a line (R84, R91, R242).
-/

namespace Sys2Proof.Machine

/-! ## What happens at a context line tick -/

/-- Rows due at the tick of line `n` of a context (R178). -/
def State.rowsDue (s : State) (c : Ctx) (n : Nat) : List Nat :=
  let m := n + s.fireLead + 4
  if n = 0 then List.range (m / c.lpr + 1) else if m % c.lpr = 0 then [m / c.lpr] else []

/-- A row belongs to a page and is not composed. -/
def Ctx.rowMissing (c : Ctx) (r : Nat) : Bool :=
  match c.pageOf (r * c.lpr) with
  | some p => decide (p.nextRow ≤ r - p.first.getD 0 / c.lpr)
  | none => false

/-- Rows that are late at the tick of line `n` (R178). -/
def State.lateRows (s : State) (ctx n : Nat) : State :=
  let c := s.ctx ctx
  if c.pass then s
  else
    let k := ((s.rowsDue c n).filter c.rowMissing).length
    if k = 0 then s else (s.count R.COMP_LATE_COUNT R.COMP_OVF_LATE_OVF .comp k).raise .comp 17

/-- Every lane of a context finishes its swath of a line at the deadline (R419); whether any forced levels. -/
def State.finishLanes (s : State) (ctx n : Nat) : State × Bool :=
  (s.ctx ctx).laneList.foldl (fun a l => let r := a.1.finishSwath ctx l n; (r.1, a.2 || r.2)) (s, false)

/-- The deadline of the swaths of a line (R419, R420). -/
def State.deadline (s : State) (ctx n : Nat) : State :=
  if (s.ctx ctx).lineOff n then s
  else
    let r := ((s.closeTo ctx n).forceDue ctx n).finishLanes ctx n
    let s := r.1
    let c := s.ctx ctx
    if !r.2 then s.setCtx ctx { c with underrunRun := 0 }
    else
      let k := s.rd R.MEM_STOP_CFG_STOP_LINES
      let s := s.setCtx ctx { c with underrunRun := c.underrunRun + 1,
                                     underrunStop := c.underrunStop || (decide (k ≠ 0) && decide (k ≤ c.underrunRun + 1)) }
      (s.count R.MEM_UNDERRUN_COUNT R.MEM_OVF_UNDERRUN_OVF .mem 1).raise .mem 19

/-- Fix the owners of the lines of a context below `m`. -/
def State.crossTo (s : State) (ctx m : Nat) : State :=
  (List.range (m - (s.ctx ctx).horizon)).foldl (fun (s : State) _ => s.crossLine ctx) s

/-- Start to send the swaths of a line on every lane of a context (R242). -/
def State.startLine (s : State) (ctx n : Nat) : State :=
  let c := s.ctx ctx
  if c.lineOff n then s else c.laneList.foldl (fun s l => s.startSend l n) s

/-- Printing goes on once every unit that a context uses takes work again (R94): pages are placed, and the swaths start at the first
line whose deadline has not passed. -/
def State.resumeCtx (s : State) (ctx e : Nat) : State :=
  let c := s.ctx ctx
  let s := s.setCtx ctx { c with drainAt := none }.place
  let lo := if c.line < e then e else c.line + 1
  let s := if c.line < e then s
    else c.laneList.foldl (fun s l =>
      let h := s.head l
      s.setHead l { h with nextSwath := max h.nextSwath lo, sendFrom := max h.sendFrom lo, sendNext := max h.sendNext lo,
                           word := if h.sendNext < lo then none else h.word }) s
  let s := s.settleDue
  (List.range (c.line + s.fireLead - lo)).foldl (fun (s : State) k => s.startLine ctx (lo + k)) s

/-- Resume the contexts that no unit holds any more. -/
def State.resumeRaster (s : State) : State :=
  s.ctxs.foldl (fun s e => match e.2.drainAt with
    | some l => if s.unitHeld e.2 then s else s.resumeCtx e.1 l
    | none => s) s

/-- At the first line of a qualifying boundary of a RUNNING context the primary sends the digest (R512), and a resynchronisation that waits
takes place (R510, R512, R513); a standby looks whether it is ready (R514). -/
def State.digestTick (s : State) (ctx n : Nat) : State :=
  let c := s.ctx ctx
  if !c.quals.contains n then s
  else
    let s := s.setCtx ctx { c with quals := c.quals.filter fun q => decide (n < q) }
    if s.primary && s.paired && decide (c.st = .running) then
      let s := s.sendSeq (.mirror (.digest ctx n (s.digestOf ctx)))
      if s.flag R.YOKE_STATE_RESYNC_PENDING then s.sendMirror else s
    else s

/-- The line tick of line `n` of a context (R314): `x`, `q` and `ch` are the accumulator, `Q` and the channel of its reference group. -/
def State.tick (s : State) (ctx n : Nat) (x : Int) (q t ch : Nat) : State :=
  let c := s.ctx ctx
  let s := s.setCtx ctx { c with line := n + 1, ticked := true, curLine := n }
  let s := { s with globalLine := max s.globalLine (c.global0 + n + 1) }
  let s := ((s.tokenTick ctx n (c.global0 + n)).noteReady).lateRows ctx n
  let s := if n = 0 then s.deadline ctx 0 else s
  let s := s.deadline ctx (n + 1)
  let s := s.crossTo ctx (n + s.fireLead + 5)
  let s := s.startLine ctx (n + s.fireLead)
  (s.digestTick ctx n).camTicks ctx n x q t ch

/-! ## Committing -/

/-- LAT_MAX of R313, in 1/16 ns. -/
def State.latMax (s : State) (g : Nat) : Nat :=
  (List.range 32).foldl (fun m l =>
    if s.lstate (headLane l) = 5 ∧ (s.groupsAt l (s.rd (R.SYN_NEXT_LINE g))).testBit g then max m (s.rd (R.HL_LAT_LAT l)) else m) 0

/-- How far ahead of its fire time a line is committed (R313), in 1/16 ns. -/
def State.commitLead (s : State) (g : Nat) : Nat := s.latMax g + 16 * s.fireAdv + s.margin

/-- The least period at a line rate, a whole number of 1/16 ns (R313). -/
def minPeriod (lmax : Nat) : Nat := (16000000000 + lmax - 1) / max 1 lmax

/-- Count a committed period of a context's reference group (R315). -/
def State.overspeed (s : State) (ctx : Nat) (last : Option Nat) (t : Nat) : State :=
  match last with
  | none => s
  | some p =>
    let c := s.ctx ctx
    if (t - p) * c.lmax < 16000000000 then
      let s := s.setCtx ctx { c with shortRun := min 17 (c.shortRun + 1) }
      if c.shortRun = 15 then s.raise .fire 23 else s
    else s.setCtx ctx { c with shortRun := 0 }

/-- Commit the next line of a group at fire time `t` (R310, R313 to R315). -/
def State.commitAt (s : State) (g ctx t : Nat) (forced : Bool) : State :=
  let n := s.rd (R.SYN_NEXT_LINE g)
  let s := s.closeTo ctx (n + 1)
  let c := s.ctx ctx
  let x := s.syn g
  let q := s.rd (R.SYN_Q_Q g)
  let ch := s.rd (R.SYN_STATE_CHANNEL g)
  let now' := x.later.filter fun e => decide (e.1 ≤ n + 1)
  let s := s.setSyn g { x with acc := x.acc + q, last := some t, due := x.due ++ [(n, c.global0 + n, t)],
                               later := x.later.filter fun e => !decide (e.1 ≤ n + 1) }
  let s := ((s.wr (R.SYN_T_NS g) (t / 16)).wr (R.SYN_STATE_T_FRAC g) (t % 16)).wr (R.SYN_NEXT_LINE g) (n + 1)
  let s := now'.foldl (fun s e => s.applySyn g e.2) s
  let s := if forced then (s.count (R.SYN_FORCED_COUNT g) (R.SYN_OVF_FORCED_OVF g) .fire 1).raise .fire 21 else s
  let s := s.planFire ctx g n (c.global0 + n) t
  if g = c.refGroup then (s.overspeed ctx x.last t).tick ctx n x.acc q s.now ch else s

/-- Commit the next line of a group at the earliest time E, once that keeps the least period (R313). -/
def State.commitForced (s : State) (g ctx e : Nat) : State :=
  match (s.syn g).last with
  | some p => if e < p + minPeriod (s.ctx ctx).lmax then s else s.commitAt g ctx e true
  | none => s.commitAt g ctx e true

/-- The synthesizer of a group looks whether its next line is to be committed at the present instant (R304, R312, R313, R330). -/
def State.commitLine (s : State) (g : Nat) : State :=
  let k := s.groupOwner g
  let c := s.ctx k
  let ch := s.rd (R.SYN_STATE_CHANNEL g)
  let e := s.now + s.commitLead g
  let x := (s.syn g).acc
  if k = 0 ∨ !c.live ∨ !s.flag (R.SYN_STATE_ACTIVE g) ∨ s.flag (R.ENC_STATUS_FAULT ch) ∨ s.mode .fire = .faulted ∨
      s.flag (R.ENC_STATUS_SUSPENDED ch) ∨ c.stopAt.any (fun m => decide (m ≤ s.rd (R.SYN_NEXT_LINE g))) ∨
      (!s.accepts .fire ∧ c.drainAt.any (fun m => decide (m ≤ s.rd (R.SYN_NEXT_LINE g)))) then s
  else
    match s.crossing ch x with
    | some tc =>
      let t := tc + s.rdS (R.SYN_TOFS_TOFS g)
      if (e : Int) < t then s
      else if t = e then s.commitAt g k e false
      else s.commitForced g k e
    | none => if x ≤ s.encHwm ch * 2 ^ 32 then s.commitForced g k e else s

/-- `LINE_COMMIT` (R313, R314): at `t`. -/
def execLineCommit (g : Fin 32) (t : Nat) (s : State) : Host.Outcome State Fault Refusal :=
  if !s.clocked then .next s else
  .next ((s.advance t).commitLine g.val)

/-! ## Firing -/

/-- The instants at which the groups of a context fire a line, if all have committed it. -/
def State.fireTimes (s : State) (ctx line : Nat) : Option (List Nat) :=
  (s.ctx ctx).groupList.mapM fun g => s.dueOf g line

/-- Complete the pages of which every bar has fired the last line (R90, R91). -/
def State.donePages (s : State) (ctx line : Nat) : State :=
  let c := s.ctx ctx
  (c.pages.filter fun p => match s.pageLastTick c p with
    | some l => decide (l ≤ line)
    | none => false).foldl (fun s p => s.completePage ctx p .ok p.marks) s

/-- A context that is to stop ends when its last line has fired (R84). -/
def State.endIfDone (s : State) (ctx : Nat) : State :=
  let c := s.ctx ctx
  match c.stopAt with
  | some e => if c.live ∧ e ≤ c.firedLines then s.endContext ctx false .open else s
  | none => s

/-- A line of a context has fired (R84, R86, R242, R509). -/
def State.lineFired (s : State) (ctx line : Nat) (ts : List Nat) : State :=
  let c := s.ctx ctx
  let s := s.advance (ts.foldl max 0)
  let s := c.laneList.foldl (fun (s : State) l =>
    let s := s.txRun l
    let h := s.head l
    let loft := match h.line line with
      | some _ => tset none h.loft (line % 16) none
      | none => h.loft
    (s.setHead l { h with loft := loft, mapSent := h.mapSent.filter (fun m => decide (line < m.line)),
                          oldMap := h.oldMap.filter (fun e => decide (line + 1 < e.1)), sendNext := max h.sendNext (line + 1),
                          word := if h.sendNext ≤ line then none else h.word }).crcDue l line) s
  let s := c.groupList.foldl (fun s g => s.setSyn g { (s.syn g) with due := (s.syn g).due.filter fun d => decide (d.1 ≠ line) }) s
  let c := s.ctx ctx
  let s := s.setCtx ctx
    { c with firedLines := c.firedLines + 1,
             pages := c.pages.map fun p => if p.owns line then { p with fired := p.fired + 1 } else p }
  (s.donePages ctx line).endIfDone ctx

/-- `LINE_FIRED`: the next line of a context that every group has committed fires. -/
def execLineFired (ctx line : Nat) (s : State) : Host.Outcome State Fault Refusal :=
  if !s.clocked then .next s else
  let c := s.ctx ctx
  if ctx = 0 ∨ !c.live ∨ c.wbOnly ∨ line ≠ c.firedLines then .next s
  else
    match s.fireTimes ctx line with
    | none => .next s
    | some ts => .next (s.lineFired ctx line ts)

/-- Tell a context to stop (R84, R179, R330): `mode` 0 at the next headland, 1 after the current line; at its last committed line when
its encoder has failed. -/
def State.stopCtx (s : State) (ctx mode : Nat) (pk : Option Pk) : State :=
  let c := s.ctx ctx
  let c1 : Ctx := { c with st := .stopping, stopPk := pk }
  if c.wbOnly then
    let s := s.setCtx ctx c1
    if c.nextPage.isSome then s else s.endContext ctx false .open
  else
    let failed := s.flag (R.ENC_STATUS_FAULT (s.rd (R.SYN_STATE_CHANNEL c.refGroup)))
    let next := c.groupList.map fun g => s.rd (R.SYN_NEXT_LINE g)
    let at' :=
      if failed then next.foldl min c.line
      else if mode = 1 then c.line
      else s.lastLine c
    (s.setCtx ctx { c1 with stopAt := some at' }).endIfDone ctx

end Sys2Proof.Machine
end

