-- ==== Sys2Proof/Machine/Contexts.lean ====
section
/-!
DEFINITION. The commands that open, start, stop, close and query a job context (R84 to R90), and `NOP`.
-/

namespace Sys2Proof.Machine

/-- `NOP` (R90): the global line number. -/
def execNop (h : Hdr) (s : State) : Host.Outcome State Fault Refusal :=
  if !s.spells (.nop h) then .next s else
  .next (s.packet opNop h (fun s => rank0 s .sys false false []) (fun pk s => s.complete pk .ok (words64 s.globalLine)))

/-! ## Opening -/

/-- `COMP_CTX_CFG` of a context as one word (R145). -/
def State.ctxCfg (s : State) (n : Nat) : Nat :=
  s.rd (R.COMP_CTX_CFG_AHEAD n) * 256 + s.rd (R.COMP_CTX_CFG_LPR2 n) * 8 + s.rd (R.COMP_CTX_CFG_QS_OFF n) * 4 +
  s.rd (R.COMP_CTX_CFG_WB_ONLY n) * 2 + s.rd (R.COMP_CTX_CFG_SILO16 n)

/-- The depth D of a silo (R171). -/
def Ctx.depthOf (c : Ctx) : Nat := 4 * (c.siloBytes / (5 * c.rowSize + 32))

/-- A silo that R171, R391 or R424 refuses. -/
def State.siloBad (s : State) (c : Ctx) : Bool :=
  let a := dramAddr c.silo
  !isDram c.silo || s.badAddr c.silo c.siloBytes || misaligned c.silo 65536 || decide (c.depthOf < 4) || decide (2 ^ 31 < c.depthOf) ||
  decide (s.reservedBase < a + c.siloBytes) ||
  s.retired.any fun p => decide (a < (p + 1) * 65536) && decide (p * 65536 < a + c.siloBytes)

/-- Parameters that `CTX_OPEN` refuses (R90, R141, R171, R179, R637). -/
def State.openBad (s : State) (c : Ctx) : Bool :=
  decide (c.cols = 0) || decide (131072 < c.cols) || decide (c.b = 0) || (!c.dpi1200 && decide (65536 < c.cols)) ||
  s.siloBad c ||
  (if c.wbOnly then decide (c.lanes ≠ 0) || decide (c.groups ≠ 0) else decide (c.groups = 0))

/-- The lowest context whose lanes or groups a new one would share (R85). -/
def State.conflict (s : State) (c : Ctx) : Option Nat :=
  (s.openCtxs.find? fun e => decide (e.2.lanes &&& c.lanes ≠ 0) || decide (e.2.groups &&& c.groups ≠ 0)).map (·.1)

/-- Composed pixels per second of a context that prints (R143). -/
def Ctx.pixelRate (c : Ctx) : Nat := if c.wbOnly || c.pass then 0 else c.cols * ((c.lmax + c.lpr - 1) / c.lpr)

/-- The sum of R143 over the contexts that are not CLOSED; it gives `COMP_LOAD`. -/
def State.compLoad (s : State) : Nat := (s.openCtxs.map fun e => e.2.pixelRate).sum

/-- Pass-through bytes per second of a context (R215). -/
def State.passRate (s : State) (c : Ctx) : Nat :=
  if c.pass then (c.laneList.map fun l => 8 * swathWords (s.active l) c.b * c.lmax).sum else 0

/-- A lane carries a context at a rate (R275). -/
def State.laneFits (s : State) (c : Ctx) (rate : Nat) (l : Nat) : Bool :=
  decide ((swathWords (s.active l) c.b + 1 + popc 32 (s.laneGroups l &&& c.groups)) * c.lmax ≤ (if rate = 1 then 378906250 else 151562500))

/-- Rates that `CTX_OPEN` refuses (R90, R143, R215, R275). -/
def State.openFast (s : State) (c : Ctx) : Bool :=
  decide (160000 < c.lmax) || (c.dpi1200 && decide (80000 < c.lmax)) ||
  decide (10485760000 < c.pixelRate + s.compLoad) ||
  (c.pass && decide (40000000000 < s.passRate c + (s.openCtxs.map fun e => s.passRate e.2).sum)) ||
  c.laneList.any fun l => !s.laneFits c (s.rd (R.LANE_CTRL_RATE (headLane l).b)) l

/-- A context as `CTX_OPEN` leaves it (R84, R85): OPEN, its silo's depth, eight empty layers. -/
def Ctx.opened (c : Ctx) : Ctx := { c with st := .open, depth := c.depthOf, layers := List.replicate 8 {} }

/-- Open a context: every layer at its initial value (R149), every tag EMPTY (R173). -/
def State.openCtx (s : State) (n : Nat) (c : Ctx) : State :=
  let c := c.opened
  let s := s.dramWrite 4 (c.tagAddr 0) (List.replicate c.depth (tagBytes 0 false true)).flatten
  (s.wr (R.COMP_CTX_ROW_ROW n) 0xFFFFFFFF).setCtx n c

/-- The context that a `CTX_OPEN` asks for (R85): its parameters, and what `COMP_CTX_CFG` holds for it. -/
def State.ctxAsked (s : State) (n lanes groups silo siloMib columns mode rate : Nat) : Ctx :=
  { lanes := lanes % 2 ^ 32, groups := groups % 2 ^ 32, silo := silo, siloBytes := siloMib * 2 ^ 20, cols := columns, mode := mode, lmax := rate,
    cfg := s.ctxCfg n }

/-- `CTX_OPEN` (R84, R85, R90, R141, R143, R145, R149, R171, R173, R179, R215, R275, R637). -/
def execCtxOpen (h : Hdr) (lanes groups silo siloMib columns mode rate : Nat) (s : State) : Host.Outcome State Fault Refusal :=
  if !s.spells (.ctxOpen h lanes groups silo siloMib columns mode rate) then .next s else
  let c := s.ctxAsked h.ctx lanes groups silo siloMib columns mode rate
  .next (s.packet opCtxOpen h
    (fun s => rank0 s .cmd (s.openBad c) (decide ((s.ctx h.ctx).st ≠ .closed)) [])
    (fun pk s =>
      match s.conflict c with
      | some k => s.complete pk .noResource [k]
      | none => if s.openFast c then s.complete pk .rateLimit [] else (s.openCtx h.ctx c).complete pk .ok []))

/-! ## Starting -/

/-- The first entry of a context that fails a check of R184 or R202: its nozzle and the reason. -/
def State.startEntry (s : State) (c : Ctx) : Option (Nat × Nat) :=
  if c.wbOnly then none
  else
    match (s.ctxNozzles c).find? fun e => !nmDisabled e.2 && decide (nmReason (some c) e.2 ≠ 0) with
    | some e => some (e.1, nmReason (some c) e.2)
    | none =>
      (c.laneList.find? fun l =>
        let subs := ((s.laneNozzles l).map fun e => b2n (nmSubL e.2) + b2n (nmSubR e.2)).sum
        decide (6000000000 < (s.active l + subs) * c.lmax)).map fun l => (l * 32768, 6)

/-- The silo is too shallow for the map in force (R174). -/
def State.tooShallow (s : State) (c : Ctx) : Bool :=
  decide (c.depth < (s.omax c + s.fireLead + 16 + c.lpr - 1) / c.lpr + c.ahead)

/-- The channel of a context's groups. -/
def State.ctxChannel (s : State) (c : Ctx) : Nat := s.rd (R.SYN_STATE_CHANNEL c.refGroup)

/-- The start position S of R309 in counts. -/
def State.startAt (s : State) (c : Ctx) (pos : Int) (flags : Nat) : Int :=
  if bit flags 0 then s.encHwm (s.ctxChannel c) + (s.rd (R.SYN_Q_Q c.refGroup) / 2 ^ 32 : Nat) + 1 else pos

/-- The checks of R309. -/
def State.synBad (s : State) (c : Ctx) (pos : Int) (flags : Nat) : Bool :=
  let ch := s.ctxChannel c
  c.groupList.any (fun g => decide (s.rd (R.SYN_STATE_CHANNEL g) ≠ ch) || decide (s.rd (R.SYN_Q_Q g) = 0)) ||
  decide (s.rd (R.ENC_STATUS_TYPE ch) = 7) || s.flag (R.ENC_STATUS_FAULT ch) || (!bit flags 0 && decide (pos ≤ s.encHwm ch))

/-- What `CTX_START` refuses with `BAD_PARAM` (R174, R186, R202, R275, R309); nothing of it concerns a write-back-only context (R179). -/
def State.startBad (s : State) (c : Ctx) (pos : Int) (flags : Nat) : Bool :=
  !c.wbOnly &&
  (s.tooShallow c || (s.startEntry c).isSome || s.synBad c pos flags ||
   c.laneList.any fun l => decide (s.lstate (headLane l) ≠ 5) || !s.laneFits c (s.rd (R.LANE_STATUS_RATE_NOW (headLane l).b)) l)

/-- Set the synthesizers of a context for its line 0 (R309, R310). -/
def State.startSyn (s : State) (start : Int) (g : Nat) : State :=
  let q : Int := s.rd (R.SYN_Q_Q g)
  let d := s.rdS (R.SYN_DELAY_DELAY g) + s.rdS (R.SYN_CAL_DELAY_DELAY g)
  let s := s.setSyn g { acc := start * 2 ^ 32 + sar (d * q + 128) 8 }
  (s.wr (R.SYN_NEXT_LINE g) 0).wr (R.SYN_STATE_ACTIVE g) 1

/-- Start a context: synthesizers, slices, the maps and the swaths of the first lines (R84, R179, R216, R242, R244, R309). -/
def State.startCtx (s : State) (n : Nat) (pos : Int) (flags : Nat) : State :=
  let c := s.ctx n
  if c.wbOnly then s.setCtx n { c with st := .running }
  else
    let start := s.startAt c pos flags
    let s := s.setCtx n
      { c with st := .running, startPos := start, global0 := s.globalLine, spans := [], curLine := 0, firedLines := 0,
               pages := c.pages.map fun p => { p with firstGlobal := s.globalLine + p.first.getD 0 } }
    let s := c.groupList.foldl (fun (s : State) g => s.startSyn start g) s
    let s := (s.calStart n).assignSlices c.laneList
    let s := (s.crossTo n (s.fireLead + 4)).closeTo n 0
    let s := c.laneList.foldl (fun (s : State) l => s.queueMap l true 0 (s.active l)) s
    (List.range s.fireLead).foldl (fun (s : State) k => s.startLine n k) s

/-- `CTX_START` (R84, R174, R179, R186, R202, R275, R309, R615). -/
def execCtxStart (h : Hdr) (pos : Nat) (flags : Nat) (s : State) : Host.Outcome State Fault Refusal :=
  if !s.spells (.ctxStart h pos flags) then .next s else
  let c := s.ctx h.ctx
  let open' := decide (c.st = .open)
  let s0 := match s.startEntry c with
    | some e => if s.mayStart h && (s.hdrFail opCtxStart h).isNone && open' then s.recordCheck e.2 e.1 else s
    | none => s
  .next (s0.packet opCtxStart h
    (fun s =>
      [(open' && s.startBad c (toS 64 pos) flags, .badParam), (!open', .ctxState),
       (!s.accepts .cmd || decide (s.dev = devTest) || decide (s.mode .hlth = .faulted), .unitOff)])
    (fun pk s =>
      let s := s.startCtx h.ctx (toS 64 pos) flags
      s.complete pk .ok (if c.wbOnly then [] else words64 (s.ctx h.ctx).global0)))

/-! ## Stopping, closing, querying -/

/-- `CTX_STOP` (R84, R330): the completion comes when the last line has fired. -/
def execCtxStop (h : Hdr) (mode : Nat) (s : State) : Host.Outcome State Fault Refusal :=
  if !s.spells (.ctxStop h mode) then .next s else
  .next (s.packet opCtxStop h
    (fun s => rank0 s .cmd (decide (1 < mode)) (decide ((s.ctx h.ctx).st ≠ .running)) [])
    (fun pk s => s.stopCtx h.ctx mode (some pk)))

/-- The sealed layer of a context is released (R582, R587). -/
def State.releaseSeal (s : State) (n : Nat) : State :=
  let s := match (s.ctx n).sealedL with
    | some x => if x.withdrawn then s else s.audit 8 n x.slot 0 x.serial 1 []
    | none => s
  { s with sec := { s.sec with copies := s.sec.copies.filter (fun c => decide (c.ctx ≠ n)), serials := tset 0 s.sec.serials n 0 } }

/-- Close a context (R84, R90, R168): its queued pages complete `ABORTED`, its handles are released, and nothing of it is kept. -/
def State.closeCtx (s : State) (n : Nat) : State :=
  let c := s.ctx n
  let s := c.pages.foldl (fun (s : State) p => s.completePage n p .aborted p.marks) s
  let s := { s with handles := s.handles.filter fun e => decide (e.2.ctx ≠ n),
                    gangs := s.gangs.filter (fun g => decide (g.ctx ≠ n)),
                    holders := s.holders.filter (fun e => decide (e.2.map Holder.ctx ≠ some n)),
                    compareFrom := tset 0 s.compareFrom n 0 }
  let s := c.laneList.foldl (fun (s : State) l =>
    match s.laneSlice l with
    | some k => s.setSlice k.val { (s.slice k.val) with lane := none }
    | none => s) s
  (s.releaseSeal n).setCtx n {}

/-- `CTX_CLOSE` (R84, R90). -/
def execCtxClose (h : Hdr) (s : State) : Host.Outcome State Fault Refusal :=
  if !s.spells (.ctxClose h) then .next s else
  .next (s.packet opCtxClose h
    (fun s => rank0 s .cmd false (decide ((s.ctx h.ctx).st ≠ .open) && decide ((s.ctx h.ctx).st ≠ .faulted)) [])
    (fun pk s => (s.closeCtx h.ctx).complete pk .ok [(s.ctx h.ctx).pages.length]))

/-- `CTX_QUERY` (R4, R84, R90). -/
def execCtxQuery (h : Hdr) (s : State) : Host.Outcome State Fault Refusal :=
  if !s.spells (.ctxQuery h) then .next s else
  .next (s.packet opCtxQuery h (fun s => rank0 s .cmd false false [])
    (fun pk s =>
      let c := s.ctx h.ctx
      s.complete pk .ok [c.st.code, c.pages.length, c.curLine, c.deferrals, c.lastFault]))

end Sys2Proof.Machine
end

