-- ==== Sys2Proof/Machine/Mem.lean ====
section
/-!
DEFINITION. MEM (spec/09): the commands that act on DRAM, the error log, remap and retirement, and the requests and timers of DRAM and
granary.
-/

namespace Sys2Proof.Machine

/-! ## Copying -/

/-- The parts of a source range that arrive poisoned, as offset and length in the range (R416): 8-byte words of DRAM, 64-byte lines of
host memory. -/
def State.poisonParts (s : State) (addr len : Nat) : List (Nat × Nat) :=
  let unit := if isDram addr then 8 else 64
  let a := if isDram addr then dramAddr addr else addr
  let ks := (List.range ((a % unit + len + unit - 1) / unit)).map fun i => a / unit + i
  (ks.filter fun k => if isDram addr then s.dramBad (8 * k) 8 else decide (tget .good s.hostMarks k = .poison)).map fun k =>
    let lo := max a (unit * k) - a
    (lo, min (a + len) (unit * k + unit) - a - lo)

/-- Mark parts of a destination poisoned (R416). -/
def State.poisonDst (s : State) (dst : Nat) (parts : List (Nat × Nat)) : State :=
  parts.foldl (fun s p =>
    if isDram dst then s.poisonRange (dramAddr dst + p.1) p.2
    else if s.silent then s.suppress
    else s.put (.poisonedTlp (dst + p.1) p.2)) s

/-- `DMA_COPY` (R68, R416); it waits while deferrable work is stopped (R547). -/
def execDmaCopy (h : Hdr) (src dst len : Nat) (s : State) : Host.Outcome State Fault Refusal :=
  if !s.spells (.dmaCopy h src dst len) then .next s else
  if s.stalled then .next s
  else .next (s.packet opDmaCopy h
    (fun s =>
      [(misaligned len 64 || s.badAddr src len || s.badAddr dst len, .badParam), (!s.accepts .mem, .unitOff),
       (s.dmaFails src len || s.dmaFails dst len, .dmaError)])
    (fun pk s =>
      let bs := s.bytesAt src len
      let parts := s.poisonParts src len
      let s := (s.touch 0 src len).writeAt 0 dst bs
      let s := parts.foldl (fun s p => s.usePoison 0 (src + p.1) p.2) (s.poisonDst dst parts)
      s.complete pk (if parts.isEmpty then .ok else .uncorrectable) [len]))

/-! ## Retirement and remap -/

/-- The page of an address lies in the silo of a context that is not CLOSED (R636). -/
def State.pageInSilo (s : State) (a : Nat) : Bool :=
  s.openCtxs.any fun e => decide (dramAddr e.2.silo < a + 65536) && decide (a < dramAddr e.2.silo + e.2.siloBytes)

/-- `MEM_RETIRE` (R423, R424, R636). -/
def execMemRetire (h : Hdr) (addr : Nat) (s : State) : Host.Outcome State Fault Refusal :=
  if !s.spells (.memRetire h addr) then .next s else
  let a := dramAddr addr
  .next (s.packet opMemRetire h
    (fun s => rank0 s .mem (!isDram addr || s.badAddr addr 65536 || misaligned a 65536 || decide (s.reservedBase < a + 65536)) false
      [(s.pageInSilo a, .retireInUse)])
    (fun pk s =>
      let p := a / 65536
      if s.retired.contains p then s.complete pk .ok [s.retired.length]
      else if 4096 ≤ s.retired.length then s.complete pk .noResource [s.retired.length]
      else
        let s := { s with retired := s.retired ++ [p] }
        (s.logMem (s.memRec 8 0 a 0 0xFF)).complete pk .ok [s.retired.length]))

/-- The rows of a channel that are remapped. -/
def State.remapped (s : State) (ch : Nat) : List Nat := (s.remaps.filter fun r => decide (r.1 = ch)).map (·.2)

/-- Spare rows left of a channel (R422). -/
def State.sparesLeft (s : State) (ch : Nat) : Nat := if ch < 4 then 32 - (s.remapped ch).length else 0

/-- Copy a row to a spare row: correctable errors are corrected, what cannot be corrected is poisoned (R422). -/
def State.copyRowErrors (s : State) (ch row : Nat) : State :=
  (s.dramErr.filter fun e => decide (s.channelOf (8 * e.1) = ch) && decide (Config.dramRow (8 * e.1) % 2 ^ 22 = row)).foldl
    (fun s e => s.mergeWord 0 e.1) s

/-- `MEM_REMAP` (R422): word 0 is there in every case. -/
def execMemRemap (h : Hdr) (ch row : Nat) (s : State) : Host.Outcome State Fault Refusal :=
  if !s.spells (.memRemap h ch row) then .next s else
  .next (s.packetW opMemRemap h [] (fun s => [s.sparesLeft ch])
    (fun s => rank0 s .mem (!s.channels.contains ch || decide (2 ^ 22 ≤ row) || (s.remapped ch).contains row ||
        (List.range 32).any (fun k => decide (Config.spareRow ch k % 2 ^ 22 = row))) false
      [(decide (s.sparesLeft ch = 0), .remapFull)])
    (fun pk s =>
      let s := { s.copyRowErrors ch row with remaps := s.remaps ++ [(ch, row)] }
      let s := s.wr (R.MEM_CH_STATUS_REMAP_USED ch) (s.remapped ch).length
      let d := s.draw
      let r := d.2.memRec 7 0 (Config.free .logField d.1 % 2 ^ 36) 0 0xFF
      (d.2.logMem { r with where' := ch + 4 * (row / 2 ^ 21), geom := row }).complete pk .ok [s.sparesLeft ch]))

/-! ## The error log -/

/-- Remove the oldest records of the MEM error log, which stay in the ring until their places are written again (R421). -/
def State.takeRecords (s : State) (most : Nat) : State :=
  let out := s.memLog.take most
  let m := s.mem
  { s with memLog := s.memLog.drop most,
           mem := { m with logTail := m.logTail + out.length,
                           logOld := out.zipIdx.foldl (fun t r => tset none t ((m.logTail + r.2) % 65536) (some r.1)) m.logOld } }

/-- `MEM_LOG_READ` (R418, R421); a removed record's words lose their poison, as the record that is written there next covers them. -/
def execMemLogRead (h : Hdr) (dst most : Nat) (s : State) : Host.Outcome State Fault Refusal :=
  if !s.spells (.memLogRead h dst most) then .next s else
  .next (s.packet opMemLogRead h (fun s => rank0 s .mem (s.badAddr dst (32 * most)) false [])
    (fun pk s =>
      let out := s.memLog.take most
      let at' := (List.range out.length).map fun i => s.logAddr (s.mem.logTail + i)
      let bs := out.flatMap MemRec.bytes
      let s := at'.foldl (fun s a => s.noteRead 0xA a 32) s
      let bad := at'.find? fun a => s.dramBad a 32
      let s := at'.foldl (fun s a => s.cleanWords a 32) (s.takeRecords most)
      match bad with
      | some a => ((s.writePoisoned 0xA dst bs).usePoison 0xA (2 ^ 63 + a) 32).complete pk .poisoned [out.length]
      | none => (s.writeAt 0xA dst bs).complete pk .ok [out.length]))

/-! ## Requests -/

/-- Errors that have come over stored words since they were last used, by word: 1 to 72 one bit, 80 two bits, 100 the address tag
(R410, R411). -/
def State.upset (s : State) (es : List (Nat × Nat)) : State :=
  { s with dramErr := es.foldl (fun t e => tset 0 t e.1 e.2) s.dramErr }

/-- The physical bank that holds a logical bank (R431). -/
def State.physBank (s : State) (l : Nat) : Nat := let p := tget 0 s.mem.phys l; if p = 0 then l else p - 1

/-- A second bank fails (R432). -/
def State.degrade (s : State) : State :=
  if s.flag R.GRAN_STATE_DEGRADED then s else (s.wr R.GRAN_STATE_DEGRADED 1).raise .mem 24

/-- Start the rotation step of a bank that has failed, once no copy and no test uses the spare (R432). -/
def State.urgentStep (s : State) : State :=
  match s.mem.urgent with
  | none => s
  | some l =>
    if s.mem.copying.isSome ∨ s.mem.bist.isSome then s
    else
      let s := { s with mem := { s.mem with urgent := none } }
      if s.flag R.GRAN_STATE_PERMANENT then s.degrade else { s with mem := { s.mem with copying := some l } }

/-- Four parity errors of one physical bank within 1 s start a rotation step of that bank, or, without a spare, degrade the granary
(R432). -/
def State.parityAt (s : State) (logical : Nat) : State :=
  let p := s.physBank logical
  let ts := s.now :: ((tget [] s.mem.parity p).filter fun t => decide (s.now ≤ t + 16000000000))
  if 4 ≤ ts.length then
    State.urgentStep { s with mem := { s.mem with parity := tset [] s.mem.parity p [], urgent := some logical } }
  else { s with mem := { s.mem with parity := tset [] s.mem.parity p ts } }

/-- A granary word has a replay source, and that is not poisoned (R426, R430); the source of a table word is its shadow in the reserved
area (R391). -/
def State.replayable (s : State) (addr : Nat) (loft : Option (Nat × Nat × Nat)) : Bool :=
  let bank := addr / 2 ^ 20
  let shadow (o : Nat) : Bool := !s.dramBad (s.reservedBase + o / 8 * 8) 8
  if bank < 6 then
    match loft with
    | some x => !(s.ctx (s.laneOwner x.1)).pass
    | none => true
  else if bank < 14 then shadow (16 * 2 ^ 20 + (addr - 6 * 2 ^ 20))
  else if bank < 18 then shadow (24 * 2 ^ 20 + (addr - 14 * 2 ^ 20))
  else if bank = 18 then shadow (28 * 2 ^ 20 + (addr - 18 * 2 ^ 20))
  else !(bank = 27 ∨ bank = 28 ∨ (29 ≤ bank ∧ bank ≤ 34))

/-- What an unreplayable granary word does to its consumer (R206, R205, R430): a word of a pass-through lane's swath fires no drop, a
table entry is poisoned, a tally accumulator restarts and the most that it can have held is added. -/
def State.granLost (s : State) (addr : Nat) (loft : Option (Nat × Nat × Nat)) : State :=
  let bank := addr / 2 ^ 20
  if bank < 6 then
    match loft with
    | none => s
    | some (lane, k, w) =>
      match tget none (s.head lane).loft (k % 16) with
      | none => s
      | some l =>
        let h := s.head lane
        let s := s.setHead lane { h with loft := tset none h.loft (k % 16) (some { l with words := l.words.set w 0, marked := true }) }
        s.markLaneLine l.ctx lane l.line markPoison
  else if bank < 14 then
    let k := (addr - 6 * 2 ^ 20) / 8
    if tget false s.nmapBad k then s
    else (State.count { s with nmapBad := tset false s.nmapBad k true } R.SCRN_NMAP_POISON_COUNT R.SCRN_OVF_NMAP_OVF .scrn 1).raise .scrn 21
  else if bank < 18 then { s with ncalBad := tset false s.ncalBad ((addr - 14 * 2 ^ 20) / 4) true }
  else if bank = 18 then
    let i := (addr - 18 * 2 ^ 20) / 4 * 2
    { s with threshBad := tset false (tset false s.threshBad i true) (i + 1) true }
  else if bank = 27 ∨ bank = 28 then
    let g := (addr - 27 * 2 ^ 20) / 4 * 2
    [g, g + 1].foldl (fun s g =>
      let h := s.head (g / 32768)
      let s := s.setHead (g / 32768) { h with tally := tset 0 h.tally (g % 32768) 0 }
      let v := tget 0 s.tallies g
      let c := v % 2 ^ 48 + 7168
      let s := { s with tallies := tset 0 s.tallies g (if c < 2 ^ 48 then v + 7168 else 2 ^ 49 - 1) }
      if c < 2 ^ 48 ∨ 2 ^ 48 ≤ v then s else s.raise .hlth 3) s
  else s

/-- MEM serves the read of a granary word (R427 to R430, R432). -/
def State.granRead (s : State) (kind addr : Nat) (parity replayed : Bool) (loft : Option (Nat × Nat × Nat)) : State :=
  if !parity || decide (48 * 2 ^ 20 ≤ addr) then s
  else
    let ok := replayed && s.replayable addr loft
    let r : MemRec := { s.memRec (if ok then 9 else 10) kind addr 0 0xFF with where' := 8, geom := 0 }
    let s := s.parityAt (addr / 2 ^ 20)
    let s := s.logMem r
    if ok then (s.count R.GRAN_PARITY_COUNT R.GRAN_OVF_PARITY_OVF .mem 1).raise .mem 22
    else ((s.count R.GRAN_REPLAY_FAIL_COUNT R.GRAN_OVF_FAIL_OVF .mem 1).raise .mem 23).granLost addr loft

/-- How long a request of class 0 took (R402). -/
def State.served (s : State) (cls ns : Nat) : State :=
  if cls ≠ 0 then s
  else
    let s := s.wr R.MEM_CLS0_WORST_NS (max (s.rd R.MEM_CLS0_WORST_NS) (min ns (2 ^ 32 - 1)))
    s.raiseIf (decide (2000 < ns)) .mem 26

/-- CMD's firmware has read poison in its image, data or working store (R391, R418): the 4 KiB blocks concerned come anew from the SPI NOR
image. -/
def State.reloadFirmware (s : State) (addr len : Nat) : State :=
  let inside (a : Nat) : Bool := decide (addr / 4096 ≤ a / 4096) && decide (a / 4096 ≤ (addr + len - 1) / 4096)
  { s with dramPoison := s.dramPoison.filter fun e => !inside (8 * e.1), dramErr := s.dramErr.filter fun e => !inside (8 * e.1) }

/-- A read lies in CMD's firmware areas of the reserved area (R391). -/
def State.firmwareArea (s : State) (addr : Nat) : Bool :=
  decide (s.reservedBase ≤ addr) && (decide (addr < s.reservedBase + 16 * 2 ^ 20) || decide (s.reservedBase + 60 * 2 ^ 20 ≤ addr))

/-- What a DRAM read of a unit of kind `kind` finds (R411, R418, R598). -/
def State.readRequest (s : State) (kind addr len : Nat) : State :=
  if s.dramSize < addr + len then s
  else if s.secPoison addr len then (s.noteRead kind addr len).secError 0
  else if kind = 2 ∧ s.firmwareArea addr ∧ s.dramBad addr len then
    ((s.noteRead kind addr len).usePoison kind (2 ^ 63 + addr) len).reloadFirmware addr len
  else s.noteRead kind addr len

/-- MEM serves a request of a unit of kind `kind` and class `cls` in `ns` (R401 to R403, R406, R409 to R417, R429, R430, R598): `upsets` are
the errors that have come over DRAM words, `sampled` says that it needed an activate that was sampled. -/
def State.memRequest (s : State) (kind cls ns : Nat) (req : MemReq) (upsets : List (Nat × Nat)) (sampled : Bool) : State :=
  let s := s.upset upsets
  let s := match req with
    | .dramRead addr len => s.readRequest kind addr len
    | .dramWrite addr data => if s.dramSize < addr + data.length then s else s.dramWrite kind addr data
    | .gran addr parity replayed loft => s.granRead kind addr parity replayed loft
  let s := if sampled then s.count R.MEM_NR_COUNT R.MEM_OVF_NR_OVF .mem 1 else s
  s.served cls ns

/-! ## The schedulers of the channels -/

/-- The channel of a request, 4 for the granary. -/
def State.reqChannel (s : State) : MemReq → Nat
  | .dramRead a _ => s.channelOf a
  | .dramWrite a _ => s.channelOf a
  | .gran .. => 4

/-- The bytes of a request. -/
def MemReq.len : MemReq → Nat
  | .dramRead _ len => len
  | .dramWrite _ data => data.length
  | .gran .. => 8

/-- The address whose row a request opens. -/
def MemReq.addr : MemReq → Nat
  | .dramRead a _ => a
  | .dramWrite a _ => a
  | .gran a .. => a

/-- The bank and the row of a request, by R422's row address; the bank's number with the channel. -/
def State.reqRow (s : State) (r : MemReq) : Nat × Nat :=
  let g := Config.dramRow r.addr % 2 ^ 22
  (s.reqChannel r * 64 + g / 2 ^ 16, g % 2 ^ 16)

/-- A request finds its row open. -/
def State.rowOpen (s : State) (r : MemReq) : Bool :=
  let b := s.reqRow r
  decide (tget none s.mem.rows b.1 = some b.2)

/-- Bytes of class 3 by which the traffic is ahead of `RATE_GBS` now (R400): 1 GB/s is a byte per ns. -/
def State.burstNow (s : State) : Nat := s.mem.burst - (s.now - s.mem.burstAt) * max 1 (min 160 (s.rd R.MEM_HOST_RATE_RATE_GBS)) / 16

/-- Class 3 traffic of a length is admitted (R400). -/
def State.admits (s : State) (cls len : Nat) : Bool :=
  decide (cls ≠ 3) || decide (s.burstNow + len ≤ max 1 (min 64 (s.rd R.MEM_HOST_RATE_BURST_MIB)) * 2 ^ 20)

/-- The class by which a request is scheduled (R398, R399). -/
def MemWait.level (w : MemWait) : Nat := if w.promoted then 0 else w.cls

/-- The request that a channel's scheduler serves next (R398): the oldest of the highest class that may go; a younger one of the class to
an open row goes ahead of it, at most 16 times in a row. -/
def State.nextReq (s : State) (ch : Nat) : Option MemWait :=
  let q := s.mem.queue.filter fun w => decide (s.reqChannel w.req = ch) && s.admits w.level w.req.len
  let top := q.foldl (fun m w => min m w.level) 4
  match q.filter fun w => decide (w.level = top) with
  | [] => none
  | o :: rest =>
    if s.rowOpen o.req ∨ 16 ≤ tget 0 s.mem.ahead ch then some o else some ((rest.find? fun w => s.rowOpen w.req).getD o)

/-- A channel is taken by a request for its time, from an instant on, and its row is open then. -/
def State.takeChannel (s : State) (start cls ns : Nat) (req : MemReq) (young : Bool) : State :=
  let ch := s.reqChannel req
  let b := s.reqRow req
  let m := s.mem
  let m := if cls = 3 then { m with burst := s.burstNow + req.len, burstAt := s.now } else m
  if ch = 4 then { s with mem := m }
  else { s with mem := { m with taken := tset 0 m.taken ch (start + 16 * ns), rows := tset none m.rows b.1 (some b.2),
                                ahead := tset 0 m.ahead ch (if young then tget 0 m.ahead ch + 1 else 0) } }

/-- A request to DRAM activates its row, which is not open (R406). -/
def State.activates (s : State) (r : MemReq) : Bool := decide (s.reqChannel r ≠ 4) && !s.rowOpen r

/-- Serve a request that has waited. -/
def State.serveReq (s : State) (ch : Nat) (w : MemWait) : State :=
  let sampled := w.sampled && s.activates w.req
  let start := max (tget 0 s.mem.taken ch) w.at'
  let young := (s.mem.queue.find? fun o => decide (s.reqChannel o.req = ch) && decide (o.level = w.level)) ≠ some w
  let s := State.takeChannel { s with mem := { s.mem with queue := s.mem.queue.erase w } } start w.level w.ns w.req young
  s.memRequest w.kind w.level ((start - w.at') / 16 + w.ns) w.req w.upsets sampled

/-- The channels and the granary serve what they can by now; the last argument bounds the number of requests. -/
def State.memRun (s : State) : Nat → State
  | 0 => s
  | k + 1 =>
    if !s.accepts .mem then s
    else
      match (s.channels ++ [4]).findSome? fun ch => if tget 0 s.mem.taken ch ≤ s.now then (s.nextReq ch).map fun w => (ch, w) else none with
      | none => s
      | some (ch, w) => (s.serveReq ch w).memRun k

/-- A request that arrives is served at once: MEM takes work (R36), its channel is not taken and nothing waits for it, and its class is
within its rate; one to DRAM that is not installed waits for nothing. -/
def State.servesNow (s : State) (cls : Nat) (req : MemReq) : Bool :=
  s.accepts .mem && s.admits cls req.len && decide (tget 0 s.mem.taken (s.reqChannel req) ≤ s.now) &&
  !s.mem.queue.any fun w => decide (s.reqChannel w.req = s.reqChannel req)

/-- A request reaches MEM (R36, R398 to R400). -/
def State.memArrive (s : State) (kind cls ns : Nat) (req : MemReq) (upsets : List (Nat × Nat)) (sampled : Bool) : State :=
  let s := s.memRun s.mem.queue.length
  if s.servesNow cls req then (s.takeChannel s.now cls ns req false).memRequest kind cls ns req upsets (sampled && s.activates req)
  else { s with mem := { s.mem with queue := s.mem.queue ++ [⟨kind, cls, s.now, ns, req, upsets, sampled, false⟩] } }

/-- `MEM_REQUEST`. -/
def execMemRequest (kind cls ns : Nat) (req : MemReq) (upsets : List (Nat × Nat)) (sampled : Bool) (s : State) :
    Host.Outcome State Fault Refusal :=
  if !s.clocked then .next s else
  .next (s.memArrive kind cls ns req upsets sampled)

/-- `AGE_LIMIT` in 1/16 ns (R399). -/
def State.ageLimit (s : State) : Nat := 16000 * max 2 (min 64 (s.rd R.MEM_CFG_AGE_LIMIT))

/-- `AGE_PROMOTION` (R399): the wait of the oldest request below class 0 ends; if it has not been served by then, it is promoted. -/
def execAgePromotion (s : State) : Host.Outcome State Fault Refusal :=
  if !s.clocked then .next s else
  match s.mem.queue.find? fun w => decide (w.level ≠ 0) with
  | none => .next s
  | some w =>
    let s := s.advance (w.at' + s.ageLimit)
    let s := s.memRun s.mem.queue.length
    if !s.mem.queue.contains w then .next s
    else
      let s := { s with mem := { s.mem with queue := modFirst (fun x => decide (x = w)) (fun x => { x with promoted := true }) s.mem.queue } }
      let s := s.count R.MEM_PROMOTED_COUNT R.MEM_OVF_PROMOTED_OVF .mem 1
      .next (s.memRun s.mem.queue.length)

/-! ## Refresh, eyes, scrub and self-refresh -/

/-- The refresh interval of a channel in 1/16 ns (R404). -/
def State.refInterval (s : State) (ch : Nat) : Nat := if s.flag (R.MEM_CH_STATUS_HOT ch) then 31200 else 62400

/-- `REFRESH` (R404, R407): the interval since the channel's last one ends, and an all-bank refresh stalls the channel and closes its
rows; what could go before is served first.  A channel that is not in use, one in self-refresh and one with `REF_OFF` get none. -/
def execRefresh (ch : Fin 4) (s : State) : Host.Outcome State Fault Refusal :=
  if !s.clocked then .next s else
  if !s.channels.contains ch.val ∨ s.flag (R.MEM_CH_STATUS_SELF_REFRESH ch.val) ∨ s.flag R.MEM_TEST_REF_OFF then .next s
  else
    let due := tget 0 s.mem.refAt ch.val + s.refInterval ch.val
    let s := s.advance due
    let s := s.memRun s.mem.queue.length
    let m := s.mem
    .next { s with mem := { m with refAt := tset 0 m.refAt ch.val due,
                                   taken := tset 0 m.taken ch.val (max due (tget 0 m.taken ch.val) + 16 * s.rd (R.MEM_CH_CFG_TRFC_NS ch.val)),
                                   rows := tdrop m.rows (ch.val * 64) (ch.val * 64 + 64) } }

/-- The components of a channel report whether any is above 85 °C, at `t` (R405). -/
def State.pollRefresh (s : State) (c : Nat) (above : Bool) (t : Nat) : State :=
  let s := s.advance t
  let hot := s.flag (R.MEM_CH_STATUS_HOT c)
  let setCool (s : State) (v : Option Nat) : State := { s with mem := { s.mem with cool := tset none s.mem.cool c v } }
  if above then (if hot then setCool s none else ((setCool s none).wr (R.MEM_CH_STATUS_HOT c) 1).raise .mem 21)
  else if !hot then s
  else
    match tget none s.mem.cool c with
    | none => setCool s (some s.now)
    | some t0 => if t0 + 16000000000 ≤ s.now then ((setCool s none).wr (R.MEM_CH_STATUS_HOT c) 0).raise .mem 21 else s

/-- `REFRESH_RATE_POLL` (R405). -/
def execRefreshRatePoll (ch : Fin 4) (above : Bool) (t : Nat) (s : State) : Host.Outcome State Fault Refusal :=
  if !s.clocked then .next s else
  if !s.channels.contains ch.val then .next (s.advance t) else .next (s.pollRefresh ch.val above t)

/-- Work on channel `ch` inside its refresh stall, which it lengthens by at most 20 ns (R397); by how much is free. -/
def State.stallWork (s : State) (ch : Nat) : State :=
  let d := s.draw
  let m := d.2.mem
  { d.2 with mem := { m with taken := tmod 0 m.taken ch (· + 16 * (Config.free .eyeStall d.1 % 21)) } }

/-- `EYE_RECENTRE` (R397, R408): the eyes as measured, in a refresh stall; suspended in self-refresh. -/
def execEyeRecentre (ch : Fin 4) (readPs writePs : Nat) (s : State) : Host.Outcome State Fault Refusal :=
  if !s.clocked then .next s else
  if !s.channels.contains ch.val ∨ s.flag (R.MEM_CH_STATUS_SELF_REFRESH ch.val) then .next s
  else .next (((s.stallWork ch.val).wr (R.MEM_CH_EYE_READ_PS ch.val) readPs).wr (R.MEM_CH_EYE_WRITE_PS ch.val) writePs)

/-- `IMPEDANCE_CALIBRATION` (R397), in a refresh stall, of which a channel in self-refresh has none. -/
def execImpedanceCalibration (ch : Fin 4) (s : State) : Host.Outcome State Fault Refusal :=
  if !s.clocked then .next s else
  if !s.channels.contains ch.val ∨ s.flag (R.MEM_CH_STATUS_SELF_REFRESH ch.val) then .next s
  else .next (s.stallWork ch.val)

/-- The scrub reads a word (R412). -/
def State.scrubWord (s : State) (w : Nat) : State :=
  let e := tget 0 s.dramErr w
  if e = 0 ∨ s.retiredAt (8 * w) ∨ s.flag (R.MEM_CH_STATUS_SELF_REFRESH (s.channelOf (8 * w))) then s
  else if e < 73 then s.correctWord 0 w
  else if tget false s.dramPoison w then { s with dramErr := tset 0 s.dramErr w 0 }
  else
    let s := s.noteUe 0 w 3
    { s with dramErr := tset 0 s.dramErr w 0, dramPoison := tset false s.dramPoison w true }

/-- `SCRUB` (R412, R413): of `words` words from byte address `addr` on. -/
def execScrub (addr words : Nat) (upsets : List (Nat × Nat)) (s : State) : Host.Outcome State Fault Refusal :=
  if !s.clocked then .next s else
  if s.stalled ∨ !s.accepts .mem then .next s
  else .next ((wordsOf (addr / 8 * 8) (8 * words)).foldl (fun s w => if s.dramSize ≤ 8 * w then s else s.scrubWord w) (s.upset upsets))

/-- Some context prints. -/
def State.printing (s : State) : Bool := s.ctxs.any fun e => e.2.live

/-- `SELF_REFRESH_ENTRY` (R408): the channel, for which nothing waits, has had no request for `SR_IDLE` ms since its last one was
served. -/
def execSelfRefreshEntry (ch : Fin 4) (s : State) : Host.Outcome State Fault Refusal :=
  if !s.clocked then .next s else
  if s.rd R.MEM_CFG_SR_IDLE = 0 ∨ s.printing ∨ !s.channels.contains ch.val ∨ (s.mem.queue.any fun w => decide (s.reqChannel w.req = ch.val)) then
    .next s
  else .next ((s.advance (tget 0 s.mem.taken ch.val + s.rd R.MEM_CFG_SR_IDLE * 16000000)).wr (R.MEM_CH_STATUS_SELF_REFRESH ch.val) 1)

/-! ## Granary rotation -/

/-- `GRANARY_ROTATION` (R431, R531, R547): the rotation period has passed at `t`. -/
def execGranaryRotation (t : Nat) (s : State) : Host.Outcome State Fault Refusal :=
  if !s.clocked then .next s else
  let s := s.advance t
  if !s.accepts .mem ∨ !s.flag R.GRAN_CFG_ROT_EN ∨ !s.gleanFlag 2 ∨ s.stalled ∨ s.flag R.GRAN_STATE_PERMANENT ∨ s.mem.copying.isSome ∨ s.mem.bist.isSome ∨
      s.now < s.mem.rotAt + max 1 (s.rd R.GRAN_CFG_ROT_S) * 16000000000 then .next s
  else .next { s with mem := { s.mem with copying := some s.mem.next, next := (s.mem.next + 1) % 48, rotAt := s.now } }

/-- `BANK_MOVE` (R431): the copy is done, and the relieved bank goes to the gleaner. -/
def execBankMove (s : State) : Host.Outcome State Fault Refusal :=
  if !s.clocked then .next s else
  match s.mem.copying with
  | none => .next s
  | some l =>
    let old := s.physBank l
    let spare := s.rd R.GRAN_STATE_SPARE
    .next { s with mem := { s.mem with phys := tset 0 s.mem.phys l (if spare = l then 0 else spare + 1), copying := none, bist := some old } }

/-- The test of the relieved bank ends (R431, R432). -/
def State.endBist (s : State) (passed : Bool) : State :=
  match s.mem.bist with
  | none => s
  | some b =>
    let s := { s with mem := { s.mem with bist := none } }
    State.urgentStep (if passed then s.wr R.GRAN_STATE_SPARE b
      else if s.rd R.GRAN_STATE_FENCED ≠ 0x3F then s.degrade
      else (s.wr R.GRAN_STATE_FENCED b).wr R.GRAN_STATE_PERMANENT 1)

/-! ## Initialisation and injection -/

/-- The largest channel set of R389 that holds only trained channels (R394). -/
def channelSet (ok : Nat) : List Nat :=
  if bits ok 0 4 = 15 then [0, 1, 2, 3] else if bits ok 0 2 = 3 then [0, 1] else if bit ok 0 then [0] else []

/-- The boot goes on from a stage (R610). -/
def State.boot (s : State) (st : BootStage) : State := { s with sysr := { s.sysr with stage := st } }

/-- `DRAM_TRAINING_END` (R393, R394, R610): `trained` are the channels that passed; without channel 0 the device stays NOT_READY. -/
def execDramTrainingEnd (trained : BitVec 4) (s : State) : Host.Outcome State Fault Refusal :=
  if s.sysr.stage ≠ .training then .next s
  else
    let pop := (List.range 4).filter fun c => s.flag (R.MEM_CH_CFG_POPULATED c)
    let ok := (pop.filter fun c => bit trained.toNat c).foldl (fun m c => m + 2 ^ c) 0
    let use := channelSet ok
    let s := s.boot (if use.isEmpty then .stuck else .filling)
    let s := (List.range 4).foldl (fun (s : State) c => s.wrB (R.MEM_CH_STATUS_TRAINED c) (use.contains c)) s
    let lost := pop.filter fun c => !use.contains c
    let s := lost.foldl (fun (s : State) c =>
      let d := s.draw
      let v := Config.free .logField d.1
      d.2.logMem { d.2.memRec 11 0 (v % 2 ^ 36) 0 0xFF with where' := c, geom := v / 2 ^ 36 % 2 ^ 32 }) s
    .next (s.raiseIf (!lost.isEmpty) .mem 27)

/-- `ZERO_FILL_END` (R395, R396, R610). -/
def execZeroFillEnd (s : State) : Host.Outcome State Fault Refusal :=
  if s.sysr.stage ≠ .filling then .next s
  else .next { ((s.boot .filled).wr R.MEM_STATE_ZERO_DONE 1) with dram := [], dramPoison := [], dramErr := [] }

/-- A full-word write of a unit of kind `kind` to the channel of `MEM_TEST` while `INJECT` is `k` (R434). -/
def State.injectWrite (s : State) (k kind addr : Nat) (data : BitVec 64) : State :=
  if s.rd R.MEM_TEST_INJECT ≠ k ∨ addr % 8 ≠ 0 ∨ s.dramSize < addr + 8 ∨ s.channelOf addr ≠ s.rd R.MEM_TEST_INJ_CH then s
  else s.dramWrite kind addr (leBytes 8 data.toNat)

/-- `INJECT_ONE_BIT` (R434). -/
def execInjectOneBit (kind addr : Nat) (data : BitVec 64) (s : State) : Host.Outcome State Fault Refusal :=
  .next (s.injectWrite 1 kind addr data)

/-- `INJECT_TWO_BITS` (R434). -/
def execInjectTwoBits (kind addr : Nat) (data : BitVec 64) (s : State) : Host.Outcome State Fault Refusal :=
  .next (s.injectWrite 2 kind addr data)

/-- `INJECT_POISON` (R434). -/
def execInjectPoison (kind addr : Nat) (data : BitVec 64) (s : State) : Host.Outcome State Fault Refusal :=
  .next (s.injectWrite 3 kind addr data)

end Sys2Proof.Machine
end

