-- ==== Sys2Proof/Machine/Time.lean ====
section
/-!
DEFINITION. Time bases and timed pulse outputs (spec/10): `TIME_READ`, `PULSE_SET`, host steps and rates, and the commit and end of
pulses.
-/

namespace Sys2Proof.Machine

def State.pls (s : State) (k : Nat) : PlsRt := tget {} s.pulses k
def State.setPls (s : State) (k : Nat) (x : PlsRt) : State := { s with pulses := tset {} s.pulses k x }

/-! ## Timed pulse outputs -/

/-- The base time of pulse `k` of a schedule (R461), in 2^-16 ns. -/
def PlsSched.time (x : PlsSched) (k : Nat) : Int := x.start + (k : Int) * (x.period : Int) * 65536

/-- The fire instant, in 1/16 ns, at which a base reaches a value under its present map: the nearest one (R462). -/
def State.fireOf (s : State) (b : Nat) (v : Int) : Int :=
  let m := s.tb b
  (m.fa : Int) + rnd ((v - m.ba) * 2 ^ 28) (2 ^ 40 + s.tbRate b)

/-- The schedule after pulse `k` (R461). -/
def PlsSched.after (x : PlsSched) (k : Nat) : Option PlsSched := if x.period = 0 then none else some { x with next := k + 1 }

/-- Count a pulse that is skipped (R463, R464). -/
def State.skipPulses (s : State) (k n : Nat) : State :=
  if n = 0 then s else (s.count (R.PLS_SKIP_COUNT k) (R.PLS_OVF_SKIP_OVF k) .time n).raise .time 19

/-- An output may not drive its pulse for want of synchronisation (R464). -/
def State.unsynced (s : State) (k b : Nat) : Bool := s.flag (R.PLS_CFG_REQUIRE_SYNC k) && !s.flag (R.TB_STATE_SYNCED b)

/-- A timed pulse output's level from an instant on, active or not, by its polarity; a ball that is not driven has none (`PLS_CFG`). -/
def State.pulseLevel (s : State) (k : Nat) (on : Bool) (t : Nat) : State :=
  if s.flag (R.PLS_CFG_DRIVE k) then s.put (.level false k (on != s.flag (R.PLS_CFG_POLARITY k)) t) else s

/-- Commit pulse `i` of an output's schedule, to be driven from fire instant `f` (R462, R464, R465). -/
def State.commitPulse (s : State) (k : Nat) (x : PlsSched) (i f : Nat) : State :=
  let r := s.pls k
  let s := s.setPls k { r with sched := x.after i }
  if s.unsynced k x.base then s.skipPulses k 1
  else
    let e := f + 16 * x.width
    let s := s.setPls k { (s.pls k) with until' := some (max e (r.until'.getD 0)) }
    let s := s.count (R.PLS_COUNT_COUNT k) (R.PLS_OVF_COUNT_OVF k) .time 1
    match r.until' with
    | none => s.pulseLevel k true f
    | some e => if f ≤ e then s else (s.pulseLevel k false e).pulseLevel k true f

/-- `PULSE_COMMIT` (R462, R464): at `t`, no earlier than 2 µs before the pulse is due. -/
def execPulseCommit (out : Fin 8) (t : Nat) (s : State) : Host.Outcome State Fault Refusal :=
  let s := s.advance t
  match (s.pls out.val).sched with
  | none => .next s
  | some x =>
    let f := (s.fireOf x.base (x.time x.next)).toNat
    if s.now + 32000 < f ∨ !s.accepts .time ∨ s.hlth.shutdown = true ∨ s.hlth.rootLost = true then .next s else .next (s.commitPulse out.val x x.next f)

/-- `PULSE_END` (R462): at `t`. -/
def execPulseEnd (out : Fin 8) (t : Nat) (s : State) : Host.Outcome State Fault Refusal :=
  let s := s.advance t
  match (s.pls out.val).until' with
  | none => .next s
  | some e => if e ≤ s.now then .next ((s.setPls out.val { (s.pls out.val) with until' := none }).pulseLevel out.val false e) else .next s

/-- The number of scheduled times from the next one on that a step of the base to `v` has passed (R463). -/
def PlsSched.passed (x : PlsSched) (v : Int) : Nat :=
  if v < x.time x.next then 0
  else if x.period = 0 then 1
  else ((v - x.time x.next) / ((x.period : Int) * 65536)).toNat + 1

/-- A step of base `b` forward to `v` passes scheduled times (R463): the latest is committed at once, the others are skipped. -/
def State.passPulses (s : State) (b : Nat) (v : Int) : State :=
  (List.range 8).foldl (fun (s : State) k =>
    match (s.pls k).sched with
    | none => s
    | some x =>
      let n := if x.base = b then x.passed v else 0
      if n = 0 then s
      else
        let d := s.draw
        let f := s.now + Config.free .latePulse d.1 % 80001
        (d.2.skipPulses k (n - 1)).commitPulse k x (x.next + n - 1) f) s

/-- Step a base (R439, R463): counted and reported. -/
def State.stepTo (s : State) (b : Nat) (v : Int) : State :=
  let s := (s.stepBase b v).passPulses b v
  (s.count (R.TB_STEPS_COUNT b) (R.TB_STEPS_STEPS_OVF b) .time 1).raise .time 18

/-- The value of the time fields of a packet or register (R437), in 2^-16 ns. -/
def tbValue (sec ns frac : Nat) : Int := ((sec : Int) * 1000000000 + ns) * 65536 + frac

/-- `PULSE_SET` (R460, R461, R464, R465). -/
def execPulseSet (h : Hdr) (output base sec ns frac period width : Nat) (s : State) : Host.Outcome State Fault Refusal :=
  if !s.spells (.pulseSet h output base sec ns frac period width) then .next s else
  .next (s.packet opPulseSet h
    (fun s => rank0 s .time (decide (7 < output) || decide (3 < base) || decide (999999999 < ns) || decide (2 ^ 48 ≤ sec) ||
        decide (2 ^ 16 ≤ frac) || decide (width < 8) || decide (1000000000 < width) || (decide (period ≠ 0) && decide (period < width + 8)))
      false [])
    (fun pk s =>
      let start := tbValue sec ns frac
      let least := s.baseAt base s.now + 5000 * 65536
      let past := decide (start < least)
      let step : Int := (period : Int) * 65536
      let k := if past ∧ period ≠ 0 then ((least - start + step - 1) / step).toNat else 0
      let x : PlsSched := ⟨base, start, period, width, k⟩
      if past ∧ period = 0 then (s.setPls output { (s.pls output) with sched := none }).complete pk .pulsePast [0, 0, 0, 0]
      else
        let s := s.setPls output { (s.pls output) with sched := some x }
        s.complete pk (if past then .pulsePast else if s.unsynced output base then .notSynced else .ok) (tbWords (x.time k))))

/-- `TIME_READ` (R443). -/
def execTimeRead (h : Hdr) (base : Nat) (s : State) : Host.Outcome State Fault Refusal :=
  if !s.spells (.timeRead h base) then .next s else
  .next (s.packet opTimeRead h (fun s => rank0 s .time (decide (3 < base)) false [])
    (fun pk s => s.complete pk .ok (tbWords (s.baseAt base s.now) ++ [s.rd (R.TB_STATE_SYNCED base)])))

/-! ## Host writes -/

/-- A write of 1 to `SET` (R442). -/
def State.tbSet (s : State) (b : Nat) : State :=
  if s.rd (R.TB_STATE_SOURCE b) = 1 ∨ 999999999 < s.rd (R.TB_SET_NS_NS b) then s.access .time
  else s.stepTo b (tbValue (s.rd (R.TB_SET_SEC_SEC b)) (s.rd (R.TB_SET_NS_NS b)) 0)

/-- A write of `TB_RATE` (R438, R439, R442). -/
def State.tbRateWrite (s : State) (b v : Nat) : State :=
  if s.rd (R.TB_STATE_SOURCE b) = 1 then s.access .time
  else
    let s := s.setTb b ⟨s.now, s.baseAt b s.now⟩
    s.wr (R.TB_RATE_RATE b) v

/-- `TB_SET` (R442). -/
def execTbSet (base : Fin 4) (s : State) : Host.Outcome State Fault Refusal :=
  .next (s.hostAccess .time (.tbSet base) fun s => s.tbSet base.val)

/-- `TB_RATE` (R442). -/
def execTbRate (base : Fin 4) (v : Word) (s : State) : Host.Outcome State Fault Refusal :=
  .next (s.hostAccess .time (.tbRate base v) fun s => s.tbRateWrite base.val v.toNat)

/-- TIME stops its pulses (R94): no schedule stays armed; with `now'`, pulses in progress end too. -/
def State.stopPulses (s : State) (now' : Bool) : State :=
  (List.range 8).foldl (fun (s : State) k =>
    let r := s.pls k
    if now' && r.until'.isSome then (s.setPls k {}).pulseLevel k false s.now
    else s.setPls k { r with sched := none }) s

end Sys2Proof.Machine
end

