-- ==== Sys2Proof/Machine/Ptp.lean ====
section
/-!
DEFINITION. The PTP clock and the two Ethernet ports (spec/10): configuration, messages, the best master clock algorithm of IEEE
1588-2019 (assumption: the spec names it and does not restate it), and the servo.  Time stamps are in 1/16 ns of the base.
-/

namespace Sys2Proof.Machine

/-! ## The parameter block (R449) -/

def State.ptpB (s : State) (o n : Nat) : Nat := fieldN s.ptp.block o n
def State.ptpClock (s : State) : Nat := s.ptpB 0 1
def State.ptpBase (s : State) : Nat := s.ptpB 1 1
def State.ptpFlag (s : State) (k : Nat) : Bool := bit (s.ptpB 3 1) k
/-- The ports in use of a `CLOCK` value. -/
def ptpPorts (clock : Nat) : List Nat := match clock with | 1 => [0] | 2 => [1] | 3 => [0, 1] | _ => []
def State.usesPort (s : State) (p : Nat) : Bool := (ptpPorts s.ptpClock).contains p

def State.port (s : State) (p : Nat) : PtpPort := tget {} s.ptp.ports p
def State.setPort (s : State) (p : Nat) (x : PtpPort) : State := { s with ptp := { s.ptp with ports := tset {} s.ptp.ports p x } }

/-- portState (`ETH_STATE`). -/
def psInit : Nat := 1
def psFaulty : Nat := 2
def psDisabled : Nat := 3
def psListening : Nat := 4
def psPreMaster : Nat := 5
def psMaster : Nat := 6
def psPassive : Nat := 7
def psUncal : Nat := 8
def psSlave : Nat := 9
def State.pst (s : State) (p : Nat) : Nat := s.rd (R.ETH_STATE_PORT_STATE p)

/-- A port's own identity: the clock identity with the port number. -/
def State.portId (s : State) (p : Nat) : Nat := s.ptpB 24 8 * 65536 + p + 1

/-- Send a PTP message from a port. -/
def State.sendPtp (s : State) (p kind seq : Nat) (fields : List Int) : State :=
  (s.put (.ptp p kind (seq % 65536) fields)).count (R.ETH_TX_PTP_COUNT p) (R.ETH_OVF_TX_OVF p) .time 1

/-- A time stamp of a message that crosses the balls at fire instant `t` (R453). -/
def State.stampAt (s : State) (t : Nat) : Int := rnd (s.baseAt s.ptpBase t) 4096
def State.ingress (s : State) (p t : Nat) : Int := s.stampAt t - s.rd (R.ETH_TS_CORR_RX_DELAY p)
def State.egress (s : State) (p t : Nat) : Int := s.stampAt t + s.rd (R.ETH_TS_CORR_TX_DELAY p)

/-- A correctionField, in 2^-16 ns, in 1/16 ns with rounding to nearest. -/
def corr16 (c : Int) : Int := rnd c 4096

/-! ## Synchronisation (R457 to R459) -/

/-- The base loses `SYNCED` (R459). -/
def State.loseSync (s : State) : State :=
  let b := s.ptpBase
  let s := { s with ptp := { s.ptp with lockRun := 0 } }
  if s.flag (R.TB_STATE_SYNCED b) then (s.wr (R.TB_STATE_SYNCED b) 0).raise .time 17 else s

/-- Change a port's state (R452, R459). -/
def State.setPst (s : State) (p st : Nat) : State :=
  let old := s.pst p
  if old = st then s
  else
    let s := (s.wr (R.ETH_STATE_PORT_STATE p) st).raise .time 21
    let s := s.setPort p { (s.port p) with annAt := s.now, syncAt := s.now }
    let s := if old = psSlave then s.loseSync else s
    if st = psSlave then
      let s := s.wr (R.TB_STATE_HOLDOVER s.ptpBase) 0
      match s.ptp.parent with
      | some a => s.wrS (R.TB_STATE_UTC_OFFSET s.ptpBase) a.utc
      | none => s
    else if st = psMaster then s.wrS (R.TB_STATE_UTC_OFFSET s.ptpBase) (fieldS s.ptp.block 48 2)
    else s

/-- Enter holdover: the rate is the clamped integral alone (R459). -/
def State.holdover (s : State) : State :=
  let b := s.ptpBase
  (s.setRate b (clampI (-(2 ^ 29)) (2 ^ 29) (-s.ptp.iAcc))).wr (R.TB_STATE_HOLDOVER b) 1

/-- The servo takes an offset (R458, R459). -/
def State.servo (s : State) (o : Int) : State :=
  let b := s.ptpBase
  let s := s.wrS (R.TB_OFFSET_OFFSET b) (clampI (-(2 ^ 31 - 1)) (2 ^ 31 - 1) o)
  if s.ptpFlag 5 && decide ((s.ptpB 36 4 : Int) * 16 < o.natAbs) then s.loseSync.stepTo b (s.baseAt b s.now - o * 4096)
  else
    let i := clampI (-(2 ^ 29)) (2 ^ 29) (s.ptp.iAcc + o * (s.ptpB 34 2 : Int))
    let rate := clampI (-(2 ^ 29)) (2 ^ 29) (-(o * (s.ptpB 32 2 : Int) + i))
    let s := State.setRate { s with ptp := { s.ptp with iAcc := i } } b rate
    let lock := (s.ptpB 40 2 : Int) * 16
    if decide (lock * 4 < o.natAbs) then s.loseSync
    else
      let run := if decide ((o.natAbs : Int) ≤ lock) then min 255 (s.ptp.lockRun + 1) else 0
      let s := { s with ptp := { s.ptp with lockRun := run } }
      if s.ptpB 42 1 ≤ run ∧ !s.flag (R.TB_STATE_SYNCED b) then (s.wr (R.TB_STATE_SYNCED b) 1).raise .time 16 else s

/-- A delay sample of a port (R457). -/
def State.delaySample (s : State) (p : Nat) (d : Int) : State :=
  let x := s.port p
  match x.df with
  | none => (s.setPort p { x with df := some d }).wrS (R.ETH_MPD_DELAY p) d
  | some df =>
    if decide ((s.ptpB 44 4 : Int) * 16 < (d - df).natAbs) then s.count (R.ETH_OUTLIER_COUNT p) (R.ETH_OVF_OUTLIER_OVF p) .time 1
    else
      let df := df + sar (d - df) (s.ptpB 43 1)
      (s.setPort p { x with df := some df }).wrS (R.ETH_MPD_DELAY p) df

/-- A Sync of the master is complete (R456, R458): its difference t2 - t1 - c_s.  The first one in UNCALIBRATED makes the port SLAVE
(assumption). -/
def State.syncDone (s : State) (p : Nat) (diff : Int) : State :=
  let s := s.setPort p { (s.port p) with diff := some diff }
  let s := if s.pst p = psUncal then s.setPst p psSlave else s
  if s.pst p ≠ psSlave then s
  else
    match (s.port p).df with
    | none => s
    | some df => s.servo (diff - (df + s.rdS (R.ETH_ASYM_ASYM p)))

/-! ## The best master clock algorithm -/

/-- The data set of the own clock (R449). -/
def State.ownSet (s : State) (p : Nat) : Announce :=
  { source := s.portId p, gm := s.ptpB 24 8, priority1 := s.ptpB 4 1, clockClass := s.ptpB 6 1, accuracy := s.ptpB 7 1,
    variance := s.ptpB 8 2, priority2 := s.ptpB 5 1, steps := 0, utc := fieldS s.ptp.block 48 2, timeSource := s.ptpB 50 1,
    flags := s.ptpB 51 1 }

/-- Compare two lists of numbers: the lower first difference is the better. -/
def listLess : List Nat → List Nat → Bool
  | a :: as, b :: bs => if a = b then listLess as bs else decide (a < b)
  | _, _ => false

/-- A data set with the port on which it was received, 0 for the own one. -/
abbrev Candidate := Announce × Nat

def Candidate.key (c : Candidate) : List Nat :=
  [c.1.priority1, c.1.clockClass, c.1.accuracy, c.1.variance, c.1.priority2, c.1.gm]

/-- The data set `a` is better than `b`, and whether only by topology: 2 better, 1 better by topology, 0 neither. -/
def betterSet (a b : Candidate) : Nat :=
  if a.1.gm ≠ b.1.gm then (if listLess a.key b.key then 2 else 0)
  else if a.1.steps + 1 < b.1.steps then 2
  else if b.1.steps + 1 < a.1.steps then 0
  else if a.1.steps < b.1.steps then 2
  else if b.1.steps < a.1.steps then 0
  else if a.1.source ≠ b.1.source then (if a.1.source < b.1.source then 1 else 0)
  else if a.2 < b.2 then 1 else 0

/-- The best of candidates. -/
def bestOf : List Candidate → Option Candidate
  | [] => none
  | c :: r => match bestOf r with
    | none => some c
    | some d => if betterSet d c ≠ 0 then some d else some c

/-- The qualified foreign masters of a port: two Announces, fewer than 255 steps. -/
def PtpPort.best (x : PtpPort) (p : Nat) : Option Candidate :=
  bestOf ((x.foreign.filter fun f => decide (2 ≤ f.times.length) && decide (f.ann.steps < 255)).map fun f => (f.ann, p + 1))

/-- The recommended state of a port, and its parent when that is a slave's: 9 slave, 7 passive, 6 master at once, 5 master after a wait. -/
def State.decidePort (s : State) (p : Nat) : Option (Nat × Option Announce) :=
  let mine := (s.port p).best p
  let all := bestOf ((ptpPorts s.ptpClock).filterMap fun q => (s.port q).best q)
  let own : Candidate := (s.ownSet p, 0)
  match mine, all with
  | none, none => if s.pst p = psListening then none else some (psMaster, none)
  | mine, all =>
    if 1 ≤ own.1.clockClass ∧ own.1.clockClass ≤ 127 then
      match mine with
      | none => if s.pst p = psListening then none else some (psMaster, none)
      | some e => if betterSet own e ≠ 0 then some (psMaster, none) else some (psPassive, none)
    else
      match all with
      | none => none
      | some e =>
        if betterSet own e ≠ 0 then some (psMaster, none)
        else
          match mine with
          | none => if s.pst p = psListening then none else some (psPreMaster, none)
          | some m =>
            if m = e then some (psSlave, some e.1)
            else if betterSet e m = 1 then some (psPassive, none)
            else some (psPreMaster, none)

/-- Apply the recommended state of a port. -/
def State.applyDecision (s : State) (p : Nat) : State :=
  match s.decidePort p with
  | none => s
  | some (st, par) =>
    if st = psSlave then
      let same := decide (s.ptp.parent.map Announce.source = par.map Announce.source)
      let s := { s with ptp := { s.ptp with parent := par } }
      if (s.pst p = psSlave ∨ s.pst p = psUncal) ∧ same then
        (if s.pst p = psSlave then s.wrS (R.TB_STATE_UTC_OFFSET s.ptpBase) ((par.map Announce.utc).getD 0) else s)
      else (s.setPort p { (s.port p) with diff := none, pendSync := none, req := none }).setPst p psUncal
    else if s.ptpFlag 0 then s.setPst p psListening
    else if st = psPreMaster ∧ s.pst p ≠ psMaster ∧ s.pst p ≠ psPreMaster then
      (s.setPort p { (s.port p) with qual := ((s.ptp.parent.map Announce.steps).getD 0) + 2 }).setPst p psPreMaster
    else if st = psPreMaster then s
    else s.setPst p st

/-- Run the algorithm on every port in use that takes part. -/
def State.bmca (s : State) : State :=
  (ptpPorts s.ptpClock).foldl (fun (s : State) p => if 4 ≤ s.pst p then s.applyDecision p else s) s

/-! ## Configuration -/

/-- A parameter block that R450 refuses. -/
def State.ptpBad (s : State) (b : List Byte) : Bool :=
  let out (lo hi : Int) (x : Int) : Bool := decide (x < lo) || decide (hi < x)
  let clock := fieldN b 0 1
  let fl := fieldN b 3 1
  decide (3 < clock) || decide (3 < fieldN b 1 1) || decide (127 < fieldN b 2 1) || decide (63 < fl) ||
  out (-3) 4 (fieldS b 10 1) || out (-7) 1 (fieldS b 11 1) || out (-7) 5 (fieldS b 12 1) || decide (fieldN b 13 1 < 2) ||
  decide (fieldN b 24 8 = 0) || out 1 1000000000 (fieldN b 36 4) || decide (fieldN b 40 2 = 0) || decide (fieldN b 42 1 = 0) ||
  decide (8 < fieldN b 43 1) || decide (fieldN b 44 4 = 0) || decide (15 < fieldN b 51 1) || decide (fieldN b 52 12 ≠ 0) ||
  (bit fl 3 && (ptpPorts clock).any fun p => decide (fieldN b (16 + 4 * p) 4 = 0)) ||
  ((ptpPorts clock).any fun p => decide (s.rd (R.ETH_MAC_ADDR p) = 0)) || (decide (clock = 3) && bit fl 0)

/-- Complete the `PTP_CONFIG` that waits, once every port in use listens or has gone on from there (R451). -/
def State.ptpListening (s : State) : State :=
  match s.ptp.wait with
  | none => s
  | some pk =>
    if (ptpPorts s.ptpClock).all fun p => decide (4 ≤ s.pst p) then
      State.complete { s with ptp := { s.ptp with wait := none } } pk .ok []
    else s

/-- A port starts from INITIALIZING, and listens unless its link is down (R451, R452). -/
def State.startPort (s : State) (p : Nat) : State :=
  let s := (s.setPort p { annSeq := (s.port p).annSeq, syncSeq := (s.port p).syncSeq, reqSeq := (s.port p).reqSeq }).wr (R.ETH_MPD_DELAY p) 0
  if s.flag (R.ETH_STATE_LINK_UP p) then (s.setPst p psInit).setPst p psListening else (s.setPst p psInit).setPst p psFaulty

/-- Stop the PTP clock and start it with a new block (R451). -/
def State.ptpConfigure (s : State) (pk : Pk) (b : List Byte) : State :=
  let old := s.ptpBase
  let s := match s.ptp.wait with
    | some p => s.complete p .ok []
    | none => s
  let s := if s.ptpClock = 0 then s else s.loseSync
  let s := ((s.wr (R.TB_STATE_SOURCE old) 0).wr (R.TB_STATE_SYNCED old) 0).wr (R.TB_STATE_HOLDOVER old) 0
  let s := (List.range 2).foldl (fun (s : State) p => (s.setPst p psDisabled).setPort p {}) s
  let s := { s with ptp := { block := b, wait := some pk, ports := s.ptp.ports } }
  let fl := fieldN b 3 1
  let s := ((s.wr R.TIME_PTP_CLOCK s.ptpClock).wr R.TIME_PTP_BASE s.ptpBase).wr R.TIME_PTP_DOMAIN (s.ptpB 2 1)
  let s := ((s.wrB R.TIME_PTP_TWO_STEP (bit fl 1)).wrB R.TIME_PTP_P2P (bit fl 2)).wrB R.TIME_PTP_UDP (bit fl 3)
  let s := if s.ptpClock = 0 then s else s.wr (R.TB_STATE_SOURCE s.ptpBase) 1
  ((ptpPorts s.ptpClock).foldl State.startPort s).ptpListening

/-- `PTP_CONFIG` (R449 to R451). -/
def execPtpConfig (h : Hdr) (block : Nat) (s : State) : Host.Outcome State Fault Refusal :=
  if !s.spells (.ptpConfig h block) then .next s else
  let r := s.readAt block 64
  let b := s.bytesAt block 64
  .next (s.packetR opPtpConfig h [(block, 64)]
    (fun s => rank s .time (!(okBytes r).isEmpty && s.ptpBad b) false r [])
    (fun pk s => s.ptpConfigure pk b))

/-! ## Messages -/

/-- A frame is discarded (R447). -/
def State.discardFrame (s : State) (p : Nat) : State := s.count (R.ETH_DISCARD_COUNT p) (R.ETH_OVF_DISCARD_OVF p) .time 1

/-- A PTP message arrives at a port at `t`: a port that is not in use has no transport in force and discards it (R447). -/
def State.ptpMessage (s : State) (p t : Nat) (f : State → State) : State :=
  let s := s.advance t
  if !s.flag (R.ETH_STATE_LINK_UP p) then s
  else if !s.usesPort p ∨ s.pst p < 4 then s.discardFrame p
  else f (s.count (R.ETH_RX_PTP_COUNT p) (R.ETH_OVF_RX_OVF p) .time 1)

/-- The port follows a master, and the message comes from it. -/
def State.fromParent (s : State) (p source : Nat) : Bool :=
  (decide (s.pst p = psSlave) || decide (s.pst p = psUncal)) && decide (s.ptp.parent.map Announce.source = some source)

/-- `SYNC` (R453 to R458): `origin` in ns, `corr` in 2^-16 ns, received at `t`. -/
def execSync (port : Fin 2) (source seq : Nat) (twoStep : Bool) (origin : Nat) (corr : Int) (t : Nat) (s : State) :
    Host.Outcome State Fault Refusal :=
  if !s.clocked then .next s else
  .next (s.ptpMessage port.val t fun s =>
    if !s.fromParent port.val source then s
    else
      let s := s.setPort port.val { (s.port port.val) with syncAt := s.now }
      let t2 := s.ingress port.val t
      if twoStep then s.setPort port.val { (s.port port.val) with pendSync := some (source, seq, t2, corr) }
      else s.syncDone port.val (t2 - 16 * (origin : Int) - corr16 corr))

/-- `FOLLOW_UP` (R455, R456, R458). -/
def execFollowUp (port : Fin 2) (source seq origin : Nat) (corr : Int) (t : Nat) (s : State) : Host.Outcome State Fault Refusal :=
  if !s.clocked then .next s else
  .next (s.ptpMessage port.val t fun s =>
    match (s.port port.val).pendSync with
    | some (src, sq, t2, c) =>
      if src = source ∧ sq = seq ∧ s.fromParent port.val source then
        (s.setPort port.val { (s.port port.val) with pendSync := none }).syncDone port.val (t2 - 16 * (origin : Int) - (corr16 c + corr16 corr))
      else s
    | none => s)

/-- `DELAY_REQ` (R452): answered in MASTER with its ingress stamp, its correctionField and its sender's identity. -/
def execDelayReq (port : Fin 2) (source seq : Nat) (corr : Int) (t : Nat) (s : State) : Host.Outcome State Fault Refusal :=
  if !s.clocked then .next s else
  .next (s.ptpMessage port.val t fun s =>
    if s.pst port.val ≠ psMaster ∨ s.ptpFlag 2 then s else s.sendPtp port.val 9 seq [s.ingress port.val t, corr, source])

/-- `DELAY_RESP` (R456): `recv` is the receiveTimestamp in 1/16 ns, `requester` the identity that it answers. -/
def execDelayResp (port : Fin 2) (source seq requester : Nat) (recv : Int) (corr : Int) (t : Nat) (s : State) : Host.Outcome State Fault Refusal :=
  if !s.clocked then .next s else
  .next (s.ptpMessage port.val t fun s =>
    match (s.port port.val).req with
    | some (sq, t3, diff) =>
      if sq = seq ∧ requester = s.portId port.val ∧ s.fromParent port.val source ∧ !s.ptpFlag 2 then
        (s.setPort port.val { (s.port port.val) with req := none }).delaySample port.val (sar (diff + (recv - t3 - corr16 corr)) 1)
      else s
    | none => s)

/-- `PDELAY_REQ` (R455): received at `t` and answered at `tOut`, in one step with the turnaround time in correctionField, in two steps
with both stamps. -/
def execPdelayReq (port : Fin 2) (source seq : Nat) (corr : Int) (t tOut : Nat) (s : State) : Host.Outcome State Fault Refusal :=
  if !s.clocked then .next s else
  .next (s.ptpMessage port.val t fun s =>
    if !s.ptpFlag 2 then s
    else
      let t2 := s.ingress port.val t
      let t3 := s.egress port.val (max t tOut)
      if s.ptpFlag 1 then (s.sendPtp port.val 3 seq [t2, 0, source]).sendPtp port.val 10 seq [t3, corr, source]
      else s.sendPtp port.val 3 seq [0, corr + (t3 - t2) * 4096, source])

/-- `PDELAY_RESP` (R456): `recv` is the requestReceiptTimestamp in 1/16 ns. -/
def execPdelayResp (port : Fin 2) (requester seq : Nat) (twoStep : Bool) (recv : Int) (corr : Int) (t : Nat) (s : State) :
    Host.Outcome State Fault Refusal :=
  if !s.clocked then .next s else
  .next (s.ptpMessage port.val t fun s =>
    match (s.port port.val).pdReq with
    | some (sq, t1) =>
      if sq ≠ seq ∨ requester ≠ s.portId port.val then s
      else
        let t4 := s.ingress port.val t
        if twoStep then s.setPort port.val { (s.port port.val) with pdResp := some (seq, t4, recv, corr) }
        else (s.setPort port.val { (s.port port.val) with pdReq := none }).delaySample port.val (sar ((t4 - t1) - corr16 corr) 1)
    | none => s)

/-- `PDELAY_RESP_FOLLOW_UP` (R456): `origin` is the responseOriginTimestamp in 1/16 ns. -/
def execPdelayRespFollowUp (port : Fin 2) (requester seq : Nat) (origin : Int) (corr : Int) (t : Nat) (s : State) :
    Host.Outcome State Fault Refusal :=
  if !s.clocked then .next s else
  .next (s.ptpMessage port.val t fun s =>
    match (s.port port.val).pdReq, (s.port port.val).pdResp with
    | some (_, t1), some (sq, t4, recv, c) =>
      if sq ≠ seq ∨ requester ≠ s.portId port.val then s
      else
        (s.setPort port.val { (s.port port.val) with pdReq := none, pdResp := none }).delaySample port.val
          (sar ((t4 - t1) - (origin - recv + corr16 c + corr16 corr)) 1)
    | _, _ => s)

/-- The interval of a signed exponent of 2, in 1/16 ns. -/
def logInterval (l : Int) : Nat := if l < 0 then 16000000000 / 2 ^ (-l).toNat else 16000000000 * 2 ^ l.toNat

/-- The announce interval (`LOG_ANNOUNCE`). -/
def State.annInterval (s : State) : Nat := logInterval (fieldS s.ptp.block 10 1)

/-- Enter an Announce among a port's foreign masters: the instants of the last four announce intervals count. -/
def PtpPort.note (x : PtpPort) (a : Announce) (t window : Nat) : PtpPort :=
  let old := match x.foreign.find? fun f => decide (f.ann.source = a.source) with
    | some f => f.times.filter fun u => decide (t ≤ u + window)
    | none => []
  { x with foreign := ⟨a, (t :: old).take 4⟩ :: x.foreign.filter fun f => decide (f.ann.source ≠ a.source) }

/-- `ANNOUNCE` (R452). -/
def execAnnounce (port : Fin 2) (a : Announce) (t : Nat) (s : State) : Host.Outcome State Fault Refusal :=
  if !s.clocked then .next s else
  .next (s.ptpMessage port.val t fun s =>
    if a.source / 65536 = s.ptpB 24 8 then s
    else
      let x := (s.port port.val).note a t (4 * s.annInterval)
      let own := (decide (s.pst port.val = psSlave) || decide (s.pst port.val = psUncal)) && !s.fromParent port.val a.source
      (s.setPort port.val (if own then x else { x with annAt := s.now })).bmca)

/-- `FRAME_DISCARD` (R447). -/
def execFrameDiscard (port : Fin 2) (s : State) : Host.Outcome State Fault Refusal :=
  if !s.clocked then .next s else
  .next (s.discardFrame port.val)

/-! ## Intervals and timeouts -/

/-- `SYNC_INTERVAL` (R452, R455): a port in MASTER sends Sync, with its time or, in two steps, with a Follow_Up. -/
def execSyncInterval (port : Fin 2) (t : Nat) (s : State) : Host.Outcome State Fault Refusal :=
  if !s.clocked then .next s else
  let s := s.advance t
  if s.pst port.val ≠ psMaster then .next s
  else
    let q := (s.port port.val).syncSeq
    let s := s.setPort port.val { (s.port port.val) with syncSeq := (q + 1) % 65536 }
    let t1 := s.egress port.val t
    .next (if s.ptpFlag 1 then (s.sendPtp port.val 0 q [0]).sendPtp port.val 8 q [t1] else s.sendPtp port.val 0 q [t1])

/-- The data set that a port announces: its own, or that of its clock's parent one step on (R452). -/
def State.annSet (s : State) (p : Nat) : Announce :=
  match s.ptp.parent with
  | some a => if (ptpPorts s.ptpClock).any fun q => decide (s.pst q = psSlave) || decide (s.pst q = psUncal) then
      { a with source := s.portId p, steps := a.steps + 1 } else s.ownSet p
  | none => s.ownSet p

/-- `ANNOUNCE_INTERVAL` (R452): a port in MASTER sends Announce; one in PRE_MASTER comes one interval nearer to MASTER. -/
def execAnnounceInterval (port : Fin 2) (t : Nat) (s : State) : Host.Outcome State Fault Refusal :=
  if !s.clocked then .next s else
  let s := s.advance t
  let x := s.port port.val
  if s.pst port.val = psPreMaster then
    .next (if x.qual ≤ 1 then s.setPst port.val psMaster else s.setPort port.val { x with qual := x.qual - 1 })
  else if s.pst port.val ≠ psMaster then .next s
  else
    let a := s.annSet port.val
    .next ((s.setPort port.val { x with annSeq := (x.annSeq + 1) % 65536 }).sendPtp port.val 11 x.annSeq
      [a.source, a.gm, a.priority1, a.clockClass, a.accuracy, a.variance, a.priority2, a.steps, a.utc, a.timeSource, a.flags])

/-- `DELAY_REQ_INTERVAL` (R456): a slave port sends Delay_Req, or, under `P2P`, a port Pdelay_Req. -/
def execDelayReqInterval (port : Fin 2) (t : Nat) (s : State) : Host.Outcome State Fault Refusal :=
  if !s.clocked then .next s else
  let s := s.advance t
  let x := s.port port.val
  let q := x.reqSeq
  let st := s.pst port.val
  let t1 := s.egress port.val t
  if s.ptpFlag 2 then
    .next (if s.usesPort port.val ∧ 4 ≤ st then
      (s.setPort port.val { x with reqSeq := (q + 1) % 65536, pdReq := some (q, t1), pdResp := none }).sendPtp port.val 2 q [t1] else s)
  else if st ≠ psSlave ∧ st ≠ psUncal then .next s
  else
    match x.diff with
    | none => .next ((s.setPort port.val { x with reqSeq := (q + 1) % 65536 }).sendPtp port.val 1 q [t1])
    | some d => .next ((s.setPort port.val { x with reqSeq := (q + 1) % 65536, req := some (q, t1, d) }).sendPtp port.val 1 q [t1])

/-- A port's master is lost (R459): its foreign masters are forgotten, and the base enters holdover. -/
def State.masterLost (s : State) (p : Nat) : State :=
  let slave := decide (s.pst p = psSlave)
  let s := s.setPort p { (s.port p) with foreign := [], diff := none, pendSync := none, req := none }
  let s := { s with ptp := { s.ptp with parent := none } }
  let s := s.setPst p (if s.ptpFlag 0 then psListening else psMaster)
  let s := if slave then s.holdover else s
  s.bmca

/-- `ANNOUNCE_RECEIPT_TIMEOUT` (R452, R459): `ANN_TIMEOUT` announce intervals have passed. -/
def execAnnounceReceiptTimeout (port : Fin 2) (s : State) : Host.Outcome State Fault Refusal :=
  if !s.clocked then .next s else
  let st := s.pst port.val
  if !s.usesPort port.val ∨ st < 4 ∨ st = psPreMaster ∨ st = psMaster then .next s
  else if st = psListening ∧ s.ptpFlag 0 then .next s
  else
  let s := s.advance ((s.port port.val).annAt + s.ptpB 13 1 * s.annInterval)
  if st = psListening ∨ st = psPassive then
    .next ((s.setPort port.val { (s.port port.val) with foreign := [] }).setPst port.val (if s.ptpFlag 0 then psListening else psMaster))
  else .next (s.masterLost port.val)

/-- `SYNC_RECEIPT_TIMEOUT` (R459): no Sync for three sync intervals. -/
def execSyncReceiptTimeout (port : Fin 2) (s : State) : Host.Outcome State Fault Refusal :=
  if !s.clocked then .next s else
  if s.pst port.val = psSlave ∨ s.pst port.val = psUncal then
    .next ((s.advance ((s.port port.val).syncAt + 3 * logInterval (fieldS s.ptp.block 11 1))).masterLost port.val)
  else .next s

/-- A port's link changes (R445, R446, R452). -/
def State.ethLink (s : State) (p : Nat) (up : Bool) : State :=
  if up = s.flag (R.ETH_STATE_LINK_UP p) then s
  else
    let n : Node := .port (Fin.ofNat 2 p)
    let s := ((s.wrB (R.ETH_STATE_LINK_UP p) up).wr (R.LANE_STATUS_LSTATE n.base) (if up then 5 else 0)).raise .time 20
    if !s.usesPort p then s
    else if up then (s.startPort p).ptpListening
    else s.setPst p psFaulty

/-- `LINK_CHANGE` (R445): a link comes up once its receiver, on a port that may work, has held block lock for 1 ms. -/
def execLinkChange (port : Fin 2) (up : Bool) (s : State) : Host.Outcome State Fault Refusal :=
  if !s.clocked then .next s else
  if !up then .next (s.ethLink port.val false)
  else if !s.accepts (.port port) ∨ !s.flag (R.LANE_STATUS_BLOCK_LOCK (LaneId.eth port).b) then .next s
  else .next ((s.advance ((s.lane (.eth port)).lockAt + 16000000)).ethLink port.val true)

/-- An abort of TIME (R94): pulses stop, and a `PTP_CONFIG` that waits completes `ABORTED`. -/
def State.abortTime (s : State) : State :=
  let s := s.stopPulses true
  match s.ptp.wait with
  | some pk => State.complete { s with ptp := { s.ptp with wait := none } } pk .aborted []
  | none => s

end Sys2Proof.Machine
end

