-- ==== Sys2Proof/Machine/Mot.lean ====
section
/-!
DEFINITION. The stepper axes (spec/11): parameters, profiles, homing, switch inputs, and the choppers of the bridges.
-/

namespace Sys2Proof.Machine

def axisNode (n : Nat) : Node := .axis (Fin.ofNat 8 n)
def axisB (n : Nat) : Nat := (axisNode n).base
def State.ax (s : State) (n : Nat) : AxisRt := tget {} s.axes n
def State.setAx (s : State) (n : Nat) (x : AxisRt) : State := { s with axes := tset {} s.axes n x }

/-! ## The parameter block (R481) -/

def AxisRt.micro (x : AxisRt) : Nat := fieldN x.block 0 1
def AxisRt.flag (x : AxisRt) (k : Nat) : Bool := bit (fieldN x.block 1 1) k
def AxisRt.iRun (x : AxisRt) : Nat := fieldN x.block 2 2
def AxisRt.iHold (x : AxisRt) : Nat := fieldN x.block 4 2
def AxisRt.holdMs (x : AxisRt) : Nat := fieldN x.block 6 2
def AxisRt.startRate (x : AxisRt) : Nat := fieldN x.block 8 4
def AxisRt.stopDecel (x : AxisRt) : Nat := fieldN x.block 12 4
def AxisRt.softMin (x : AxisRt) : Int := fieldS x.block 16 4
def AxisRt.softMax (x : AxisRt) : Int := fieldS x.block 20 4
def AxisRt.tOff (x : AxisRt) : Nat := fieldN x.block 24 2
def AxisRt.tBlank (x : AxisRt) : Nat := fieldN x.block 26 2
def AxisRt.ocCode (x : AxisRt) : Nat := fieldN x.block 32 2
def AxisRt.rise (x : AxisRt) : Nat := fieldN x.block 34 2
/-- Role, active low, and home reference of an input (`LIM_CFG`). -/
def AxisRt.role (x : AxisRt) (i : Nat) : Nat := bits (fieldN x.block 36 2) (4 * i) 2
def AxisRt.activeLow (x : AxisRt) (i : Nat) : Bool := bit (fieldN x.block 36 2) (4 * i + 2)
def AxisRt.homeBit (x : AxisRt) (i : Nat) : Bool := bit (fieldN x.block 36 2) (4 * i + 3)
def AxisRt.debUs (x : AxisRt) : Nat := fieldN x.block 38 2
def AxisRt.chatterN (x : AxisRt) : Nat := fieldN x.block 40 1
def AxisRt.stallPct (x : AxisRt) : Nat := fieldN x.block 41 1
def AxisRt.homeRate (x : AxisRt) : Nat := fieldN x.block 44 4
def AxisRt.homeMax (x : AxisRt) : Nat := fieldN x.block 48 4
def AxisRt.homePos (x : AxisRt) : Int := fieldS x.block 52 4
def AxisRt.backoffN (x : AxisRt) : Nat := fieldN x.block 56 4
def AxisRt.stallMinRate (x : AxisRt) : Nat := fieldN x.block 60 4

/-- Input `i` is a home reference for a direction (R486): a home switch is one for negative. -/
def AxisRt.homeRef (x : AxisRt) (neg : Bool) (i : Nat) : Bool :=
  (neg && decide (x.role i = 3)) || (decide (x.role i = (if neg then 1 else 2)) && x.homeBit i)

/-- A block that R481 refuses. -/
def axisBad (b : List Byte) : Bool :=
  let x : AxisRt := { block := b }
  let out (lo hi v : Nat) : Bool := decide (v < lo) || decide (hi < v)
  let refs (neg : Bool) : Nat := ((List.range 4).filter fun i => x.homeRef neg i).length
  decide (8 < x.micro) || decide (15 < fieldN b 1 1) || decide (1023 < x.iRun) || decide (1023 < x.iHold) ||
  out 1 1000000 x.startRate || out 100 100000000 x.stopDecel || decide (x.softMax ≤ x.softMin) || out 1000 50000 x.tOff ||
  out 100 5000 x.tBlank || decide (x.tOff < fieldN b 28 2) || out 4 255 (fieldN b 30 1) || decide (fieldN b 31 1 ≠ 0) ||
  decide (x.ocCode ≤ x.iRun) || out 1 10000 x.debUs || out 2 255 x.chatterN || out 64 240 x.stallPct || decide (fieldN b 42 2 ≠ 0) ||
  out 1 x.startRate x.homeRate || decide (x.homeMax = 0) || decide (x.homePos < x.softMin) || decide (x.softMax < x.homePos) ||
  (List.range 4).any (fun i => decide (x.role i = 0 ∨ x.role i = 3) && x.homeBit i) || decide (1 < refs true) || decide (1 < refs false)

/-! ## Position and current -/

/-- The quarter wave of s[i] (R471). -/
def sineQuarter : List Nat :=
  [0, 6, 13, 19, 25, 31, 38, 44, 50, 57, 63, 69, 75, 82, 88, 94, 100, 107, 113, 119, 125, 132, 138, 144, 150, 156, 163, 169, 175, 181, 187, 194] ++
  [200, 206, 212, 218, 224, 230, 237, 243, 249, 255, 261, 267, 273, 279, 285, 291, 297, 303, 309, 315, 321, 327, 333, 339, 345, 351, 357, 363, 369, 374, 380, 386] ++
  [392, 398, 403, 409, 415, 421, 426, 432, 438, 443, 449, 455, 460, 466, 472, 477, 483, 488, 494, 499, 505, 510, 516, 521, 526, 532, 537, 543, 548, 553, 558, 564] ++
  [569, 574, 579, 584, 590, 595, 600, 605, 610, 615, 620, 625, 630, 635, 640, 645, 650, 654, 659, 664, 669, 674, 678, 683, 688, 692, 697, 702, 706, 711, 715, 720] ++
  [724, 729, 733, 737, 742, 746, 750, 755, 759, 763, 767, 771, 775, 779, 784, 788, 792, 796, 799, 803, 807, 811, 815, 819, 822, 826, 830, 834, 837, 841, 844, 848] ++
  [851, 855, 858, 862, 865, 868, 872, 875, 878, 882, 885, 888, 891, 894, 897, 900, 903, 906, 909, 912, 915, 917, 920, 923, 926, 928, 931, 934, 936, 939, 941, 944] ++
  [946, 948, 951, 953, 955, 958, 960, 962, 964, 966, 968, 970, 972, 974, 976, 978, 980, 982, 983, 985, 987, 989, 990, 992, 993, 995, 996, 998, 999, 1000, 1002, 1003] ++
  [1004, 1006, 1007, 1008, 1009, 1010, 1011, 1012, 1013, 1014, 1015, 1016, 1016, 1017, 1018, 1018, 1019, 1020, 1020, 1021, 1021, 1022, 1022, 1022, 1023, 1023, 1023, 1024, 1024, 1024, 1024, 1024] ++
  [1024]

/-- s[i] = round(1,024 sin(2 pi i / 1,024)) (R471). -/
def sineAt (i : Nat) : Int :=
  let k := i % 256
  match i % 1024 / 256 with
  | 0 => (sineQuarter.getD k 0 : Nat)
  | 1 => (sineQuarter.getD (256 - k) 0 : Nat)
  | 2 => -((sineQuarter.getD k 0 : Nat) : Int)
  | _ => -((sineQuarter.getD (256 - k) 0 : Nat) : Int)

def State.axPos (s : State) (n : Nat) : Int := s.rdS (R.AX_POS_POS (axisB n))

/-- The electrical index of an axis (R471). -/
def State.elec (s : State) (n : Nat) : Nat :=
  let x := s.ax n
  let p := s.axPos n * ((2 ^ (8 - x.micro) : Nat) : Int)
  ((if x.flag 0 then -p else p) % 1024).toNat

/-- The current targets of phases A and B (R471, R480). -/
def State.currents (s : State) (n : Nat) : Int × Int :=
  let x := s.ax n
  let i : Int := if x.low then x.iHold else x.iRun
  let e := s.elec n
  (sar (i * sineAt e + 512) 10, sar (i * sineAt ((e + 256) % 1024) + 512) 10)

/-! ## Stopping -/

/-- The job and what goes with it are over. -/
def AxisRt.rest (x : AxisRt) (now : Nat) : AxisRt :=
  { x with job := .still, pk := none, stops := [], stopping := none, stopNext := false, v := 0, acc := 0, cruise := none,
           heldAt := some now, low := false }

/-- Bridges OFF (R468, R473, R480): `HOMED` is cleared unless `KEEP_HOME`. -/
def State.bridgesOff (s : State) (n : Nat) : State :=
  let b := axisB n
  let x := s.ax n
  let s := ((s.wr (R.AX_STATUS_BRIDGES_ON b) 0).wr (R.AX_STATUS_HOLDING b) 0).setAx n { x with a := {}, b := {}, heldAt := none, low := false }
  let s := (s.wr (R.AX_CHOP_OFS_A b) 0).wr (R.AX_CHOP_OFS_B b) 0
  if x.flag 1 then s else s.wr (R.AX_STATUS_HOMED b) 0

/-- Energise the bridges (R472). -/
def State.bridgesOn (s : State) (n : Nat) : State :=
  if s.flag (R.AX_STATUS_BRIDGES_ON (axisB n)) then s else (s.wr (R.AX_STATUS_BRIDGES_ON (axisB n)) 1).setAx n { (s.ax n) with a := {}, b := {} }

/-- An axis stops with a reason, and its move or homing completes with a status (R479, R482, R489, R491): the bridges hold.  `AXIS_STOP`s
that waited complete with the position. -/
def State.axisEnd (s : State) (n : Nat) (st : Status) (reason : Nat) : State :=
  let b := axisB n
  let x := s.ax n
  let homing := match x.job with | .home _ => true | .backoff _ => true | _ => false
  let s := (((s.wr (R.AX_STATUS_MOVING b) 0).wr (R.AX_STATUS_HOMING b) 0).wr (R.AX_STATUS_DECELERATING b) 0).wr (R.AX_STATUS_DIR b) 0
  let s := ((s.wr (R.AX_RATE_RATE b) 0).wr (R.AX_STATUS_STOP_REASON b) reason).wr (R.AX_STATUS_HOLDING b) (s.rd (R.AX_STATUS_BRIDGES_ON b))
  let s := if homing && decide (st ≠ .ok) then s.wr (R.AX_STATUS_HOMED b) 0 else s
  let s := s.setAx n (x.rest s.now)
  let pos := ofS 32 (s.axPos n)
  let s := match x.pk with
    | some pk => s.complete pk st (if homing then [pos] else [pos, s.rd (R.AX_STATUS_DECEL_RAISED b)])
    | none => s
  let s := if x.job = .still then s else s.raise (axisNode n) 16
  x.stops.foldl (fun (s : State) p => s.complete p .ok [pos]) s

/-- A limit trips (R485). -/
def State.limitTrip (s : State) (n : Nat) : State :=
  let b := axisB n
  let s := (s.count (R.AX_COUNTS_TRIPS b) (R.AX_OVF_TRIPS_OVF b) (axisNode n) 1).raise (axisNode n) 17
  (s.wr (R.AX_STATUS_HOMED b) 0).axisEnd n .limitTrip 3

/-- The axis steps negative. -/
def State.axNeg (s : State) (n : Nat) : Bool := s.flag (R.AX_STATUS_DIR (axisB n))
def State.axMoving (s : State) (n : Nat) : Bool := s.flag (R.AX_STATUS_MOVING (axisB n))
/-- Input `i` is accepted and active. -/
def State.axActive (s : State) (n i : Nat) : Bool := (s.rd (R.AX_INPUTS_ACTIVE (axisB n))).testBit i

/-- Start to step in a direction at a speed. -/
def State.axGo (s : State) (n : Nat) (neg : Bool) (job : AxisJob) (v : Nat) : State :=
  let b := axisB n
  let s := ((s.wrB (R.AX_STATUS_DIR b) neg).wr (R.AX_STATUS_MOVING b) 1).wr (R.AX_STATUS_HOLDING b) 0
  let s := s.wrS (R.AX_RATE_RATE b) (if neg then -(v : Int) else v)
  s.setAx n { (s.ax n) with job := job, v := v * 100000, acc := 0, at' := s.now, segAt := s.now, lowered := false, stopNext := false,
                            dist := 0, cruise := none, heldAt := none, low := false }

/-- A limit that is active as the axis begins to step towards its side trips (R485). -/
def State.limitsAct (s : State) (n : Nat) : State :=
  if (List.range 4).any fun i => s.axActive n i && decide ((s.ax n).role i = (if s.axNeg n then 1 else 2)) then s.limitTrip n else s

/-- The home point is found (R487 to R489): the position taken at it gets `HOME_POS`, and the axis backs off. -/
def State.homeFound (s : State) (n : Nat) (at' : Int) : State :=
  let b := axisB n
  let x := s.ax n
  let neg := s.axNeg n
  let p := x.homePos + (s.axPos n - at')
  let s := (s.wrS (R.AX_POS_POS b) p).wr (R.AX_STATUS_HOMED b) 1
  let s := s.axGo n (!neg) (.backoff (if neg then p + x.backoffN else p - x.backoffN)) x.homeRate
  if x.backoffN = 0 then s.axisEnd n .ok 9 else s.limitsAct n

/-- What an active input does to an axis that steps (R485, R487, R488); `at'` is the position of its change. -/
def State.inputActs (s : State) (n i : Nat) (at' : Int) : State :=
  let x := s.ax n
  let neg := s.axNeg n
  if !s.axMoving n || !s.axActive n i then s
  else
    let towards := decide (x.role i = (if neg then 1 else 2))
    match x.job with
    | .home m =>
      if 2 ≤ m ∧ x.homeRef neg i then s.homeFound n at'
      else if towards then (if m < 2 ∧ x.homeBit i then s.homeFound n at' else s.limitTrip n)
      else s
    | _ => if towards then s.limitTrip n else s

/-- Inputs that are already active when an axis begins to step (R485, R487). -/
def State.inputsAct (s : State) (n : Nat) : State := (List.range 4).foldl (fun (s : State) i => s.inputActs n i (s.axPos n)) s

/-! ## Steps -/

/-- A stall (R488, R490). -/
def State.axStall (s : State) (n : Nat) : State :=
  let b := axisB n
  match (s.ax n).job with
  | .home _ => s.homeFound n (s.axPos n)
  | _ =>
    let s := (s.count (R.AX_COUNTS_STALLS b) (R.AX_OVF_STALLS_OVF b) (axisNode n) 1).raise (axisNode n) 18
    (s.wr (R.AX_STATUS_HOMED b) 0).axisEnd n .stall 4

/-- The end of a full step of a stall baseline or after one (R488, R490); whether it shows a stall. -/
def AxisRt.fullStep (x : AxisRt) : AxisRt × Bool :=
  match x.cruise with
  | none => (x, false)
  | some c =>
    let k := x.dist - c
    if k = 0 ∨ k % 2 ^ x.micro ≠ 0 then (x, false)
    else if k / 2 ^ x.micro ≤ 16 then ({ x with bSum := x.bSum + x.fSum, bN := x.bN + x.fN, fSum := 0, fN := 0 }, false)
    else ({ x with fSum := 0, fN := 0 }, decide (0 < x.fN) && decide (0 < x.bN) && decide (x.fSum * x.bN * 256 < x.bSum * x.stallPct * x.fN))

/-- One microstep in the direction of motion, and where it ends the motion (R474, R475, R479, R488 to R490). -/
def State.axStep (s : State) (n : Nat) : State :=
  if !s.axMoving n then s
  else
    let p := s.axPos n + (if s.axNeg n then -1 else 1)
    let x := s.ax n
    let f := AxisRt.fullStep { x with dist := x.dist + 1 }
    let s := (s.wrS (R.AX_POS_POS (axisB n)) p).setAx n f.1
    if x.stopNext then s.axisEnd n .aborted (x.stopping.getD 2)
    else
      match x.job with
      | .move target _ => if p = target then s.axisEnd n .ok 1 else if f.2 then s.axStall n else s
      | .backoff target => if p = target then s.axisEnd n .ok 9 else s
      | .home m =>
        if f.2 ∧ m < 2 then s.axStall n
        else if x.homeMax ≤ x.dist + 1 then s.axisEnd n .homeFail 10 else s
      | .still => s

/-- Make the microsteps due up to instant `t`, at the speed of the segment (R474). -/
def State.axTo (s : State) (n t : Nat) : State :=
  if !s.axMoving n then s
  else
    let x := s.ax n
    let k := (t - x.at') / 160
    let inc := (x.v * 2 ^ 32 + 5000000000000) / 10000000000000
    let total := x.acc + k * inc
    let s := s.setAx n { x with acc := total % 2 ^ 32, at' := x.at' + 160 * k }
    (List.range (total / 2 ^ 32)).foldl (fun (s : State) _ => s.axStep n) s

/-! ## The profile -/

def clampN (lo hi v : Nat) : Nat := max lo (min hi v)
/-- a_a and a_d in force (R476). -/
def State.axAccel (s : State) (n : Nat) : Nat := clampN 100 100000000 (s.rd (R.AX_ACCEL_ACCEL (axisB n)))
def State.axDecel (s : State) (n : Nat) : Nat := clampN 100 100000000 (s.rd (R.AX_DECEL_DECEL (axisB n)))

/-- Set the speed of an axis, in 10^-5 microsteps/s. -/
def State.axSpeed (s : State) (n v : Nat) : State :=
  let b := axisB n
  let x := s.ax n
  let down := decide (v < x.v)
  let s := s.setAx n { x with v := v, lowered := x.lowered || down }
  let r : Int := ((v / 100000 : Nat) : Int)
  (s.wrS (R.AX_RATE_RATE b) (if s.axNeg n then -r else r)).wrB (R.AX_STATUS_DECELERATING b) down

/-- The axis begins to run at its highest rate (R490): a baseline is taken, where stalls are to be detected. -/
def State.startCruise (s : State) (n rate : Nat) : State :=
  let x := s.ax n
  if x.cruise = none ∧ x.flag 2 ∧ x.stallMinRate ≤ rate then
    s.setAx n { x with cruise := some x.dist, bSum := 0, bN := 0, fSum := 0, fN := 0 }
  else s

/-- The speed of a move at a segment boundary (R475, R477). -/
def State.moveSegment (s : State) (n : Nat) (target : Int) (rate : Nat) : State :=
  let b := axisB n
  let x := s.ax n
  let vs := x.startRate * 100000
  let r := (target - s.axPos n).natAbs
  let ad := s.axDecel n
  let num := x.v * x.v - vs * vs
  if num + 2 * ad * x.v < 2 * ad * r * 10000000000 then
    let v := if x.lowered then x.v else min (rate * 100000) (x.v + s.axAccel n)
    let s := s.axSpeed n v
    if v = rate * 100000 then s.startCruise n rate else s
  else
    let exceeds := decide (2 * ad * r * 10000000000 < num)
    let a := if exceeds && decide (r ≠ 0) then max ad ((num + 2 * r * 10000000000 - 1) / (2 * r * 10000000000)) else ad
    let first := exceeds && !s.flag (R.AX_STATUS_DECEL_RAISED b)
    let s := if first then (s.wr (R.AX_STATUS_DECEL_RAISED b) 1).raise (axisNode n) 21 else s
    let s := s.axSpeed n (max vs (x.v - a))
    s.setAx n { (s.ax n) with cruise := none }

/-- The speed of an axis told to stop (R479). -/
def State.stopSegment (s : State) (n : Nat) : State :=
  let x := s.ax n
  let vs := x.startRate * 100000
  let v := max (min vs x.v) (x.v - max (s.axDecel n) x.stopDecel)
  let s := s.axSpeed n v
  s.setAx n { (s.ax n) with cruise := none, stopNext := decide (v ≤ vs) }

/-- The state of an axis that the primary sends (R502). -/
def State.sendAxis (s : State) (n : Nat) : State :=
  if !s.primary || !s.paired then s
  else
    let x := s.ax n
    s.sendYoke 0xE1 [n, ofS 32 (s.axPos n), x.v, x.acc, b2n (s.axNeg n)]

/-- A segment boundary of an axis at `t` (R475, R477, R479, R502). -/
def State.segment (s : State) (n t : Nat) : State :=
  let e := (s.ax n).segAt + 160000
  if !s.axMoving n ∨ t < e then s
  else
    let s := s.axTo n e
    if !s.axMoving n then s
    else
      let x := s.ax n
      let s := s.setAx n { x with segAt := e }
      let s := if x.stopping.isSome then s.stopSegment n
        else match x.job with
          | .move target rate => s.moveSegment n target rate
          | _ => s
      s.sendAxis n

/-- `PROFILE_SEGMENT` (R475): at `t`. -/
def execProfileSegment (axis : Fin 8) (t : Nat) (s : State) : Host.Outcome State Fault Refusal :=
  if !s.clocked then .next s else
  .next ((s.advance t).segment axis.val t)

/-- Tell an axis to stop (R479): it decelerates, or its bridges go OFF. -/
def State.axHalt (s : State) (n : Nat) (off : Bool) (reason : Nat) : State :=
  let s := s.axTo n s.now
  if off then
    let s := s.bridgesOff n
    s.axisEnd n .aborted reason
  else
    let x := s.ax n
    if !s.axMoving n then s.axisEnd n .aborted reason
    else s.setAx n { x with stopping := some reason, stopNext := decide (x.v ≤ x.startRate * 100000) }

/-! ## Commands -/

/-- What every axis packet is refused for (R88, R468). -/
def State.axRank (s : State) (axis : Nat) (bad : Bool) (own : List (Bool × Status)) : List (Bool × Status) :=
  [(decide (7 < axis) || bad, .badParam), (!s.accepts (axisNode axis), .unitOff)] ++ own

/-- `AXIS_MOVE` (R475, R476, R478, R482): it does not start while the axis moves. -/
def execAxisMove (h : Hdr) (axis target rate accel decel : Nat) (s : State) : Host.Outcome State Fault Refusal :=
  if !s.spells (.axisMove h axis target rate accel decel) then .next s else
  let tgt := toS 32 target
  let x := s.ax axis
  let bad := decide (tgt < x.softMin) || decide (x.softMax < tgt) || decide (rate < x.startRate) || decide (1000000 < rate) ||
    decide (accel < 100) || decide (100000000 < accel) || decide (decel < 100) || decide (100000000 < decel)
  if axis < 8 ∧ s.axMoving axis then .next s
  else
    .next (s.packet opAxisMove h
      (fun s => s.axRank axis bad [(!s.flag (R.AX_STATUS_HOMED (axisB axis)), .homeFail)])
      (fun pk s =>
        let b := axisB axis
        let s := ((s.wr (R.AX_ACCEL_ACCEL b) accel).wr (R.AX_DECEL_DECEL b) decel).wr (R.AX_STATUS_DECEL_RAISED b) 0
        let s := (s.bridgesOn axis).setAx axis { ((s.bridgesOn axis).ax axis) with pk := some pk }
        let p := s.axPos axis
        let s := s.axGo axis (decide (tgt < p)) (.move tgt rate) x.startRate
        let s := if rate = x.startRate then s.startCruise axis rate else s
        if tgt = p then s.axisEnd axis .ok 1 else s.inputsAct axis))

/-- `AXIS_HOME` (R478, R486 to R489). -/
def execAxisHome (h : Hdr) (axis method : Nat) (s : State) : Host.Outcome State Fault Refusal :=
  if !s.spells (.axisHome h axis method) then .next s else
  let x := s.ax axis
  let neg := decide (method % 2 = 0)
  let bad := decide (3 < method) || (decide (2 ≤ method) && !(List.range 4).any fun i => x.homeRef neg i)
  if axis < 8 ∧ s.axMoving axis then .next s
  else
    .next (s.packet opAxisHome h (fun s => s.axRank axis bad [])
      (fun pk s =>
        let b := axisB axis
        let s := ((s.wr (R.AX_STATUS_HOMED b) 0).wr (R.AX_STATUS_DECEL_RAISED b) 0).wr (R.AX_STATUS_HOMING b) 1
        let s := (s.bridgesOn axis).setAx axis { ((s.bridgesOn axis).ax axis) with pk := some pk }
        let s := s.axGo axis neg (.home method) x.homeRate
        let s := if method < 2 then s.setAx axis { (s.ax axis) with cruise := some 0, bSum := 0, bN := 0, fSum := 0, fN := 0 } else s
        if x.homeMax = 0 then s.axisEnd axis .homeFail 10 else s.inputsAct axis))

/-- `AXIS_STOP` (R479). -/
def execAxisStop (h : Hdr) (axis mode : Nat) (s : State) : Host.Outcome State Fault Refusal :=
  if !s.spells (.axisStop h axis mode) then .next s else
  .next (s.packet opAxisStop h (fun s => s.axRank axis (decide (1 < mode)) [])
    (fun pk s =>
      let s := s.axTo axis s.now
      if s.axMoving axis then (s.setAx axis { (s.ax axis) with stops := (s.ax axis).stops ++ [pk] }).axHalt axis (decide (mode = 1)) 2
      else
        let s := if mode = 1 then (s.bridgesOff axis).wr (R.AX_STATUS_STOP_REASON (axisB axis)) 2 else s
        s.complete pk .ok [ofS 32 (s.axPos axis)]))

/-- `ACTIVE` of `AX_INPUTS` from the accepted levels (R483). -/
def State.axInputs (s : State) (n : Nat) : State :=
  let b := axisB n
  let x := s.ax n
  let acc := s.rd (R.AX_INPUTS_ACCEPTED b)
  s.wr (R.AX_INPUTS_ACTIVE b) ((List.range 4).foldl (fun m i => if x.role i ≠ 0 ∧ acc.testBit i ≠ x.activeLow i then m + 2 ^ i else m) 0)

/-- `AXIS_SET` (R478, R481). -/
def execAxisSet (h : Hdr) (axis block : Nat) (s : State) : Host.Outcome State Fault Refusal :=
  if !s.spells (.axisSet h axis block) then .next s else
  let r := s.readAt block 64
  let bs := s.bytesAt block 64
  if axis < 8 ∧ s.axMoving axis then .next s
  else
    .next (s.packetR opAxisSet h [(block, 64)]
      (fun s => rank s (axisNode axis) (decide (7 < axis) || (!(okBytes r).isEmpty && axisBad bs)) false r [])
      (fun pk s =>
        let x := s.ax axis
        let y : AxisRt := { x with block := bs }
        let lost := decide (y.micro ≠ x.micro) || decide (y.flag 0 ≠ x.flag 0)
        let s := if lost then s.wr (R.AX_STATUS_HOMED (axisB axis)) 0 else s
        ((s.setAx axis y).axInputs axis).complete pk .ok []))

/-- A write of `AX_ACCEL` or `AX_DECEL` (R476). -/
def State.axWrite (s : State) (n : Nat) (f : FRef) (v : Nat) : State := if s.axMoving n then s.wr f v else s.access (axisNode n)

/-- `AX_ACCEL_WRITE` (R476). -/
def execAxAccelWrite (axis : Fin 8) (v : Word) (s : State) : Host.Outcome State Fault Refusal :=
  .next (s.hostAccess (.axis axis) (.axAccelWrite axis v) fun s => s.axWrite axis.val (R.AX_ACCEL_ACCEL (axisB axis.val)) v.toNat)

/-- `AX_DECEL_WRITE` (R476, R477). -/
def execAxDecelWrite (axis : Fin 8) (v : Word) (s : State) : Host.Outcome State Fault Refusal :=
  .next (s.hostAccess (.axis axis) (.axDecelWrite axis v) fun s => s.axWrite axis.val (R.AX_DECEL_DECEL (axisB axis.val)) v.toNat)

/-- `HOLD_TIMEOUT` (R480): at `t`. -/
def execHoldTimeout (axis : Fin 8) (t : Nat) (s : State) : Host.Outcome State Fault Refusal :=
  let s := s.advance t
  let n := axis.val
  let x := s.ax n
  match x.heldAt with
  | none => .next s
  | some t0 =>
    if !s.flag (R.AX_STATUS_HOLDING (axisB n)) ∨ s.mode (axisNode n) = .faulted ∨ s.now < t0 + x.holdMs * 16000000 then .next s
    else .next (if x.iHold = 0 then s.bridgesOff n else s.setAx n { x with heldAt := none, low := true })

/-! ## Switch inputs -/

/-- Chatter (R484). -/
def State.axChatter (s : State) (n : Nat) : State :=
  let b := axisB n
  let s := (s.count (R.AX_COUNTS_CHATTERS b) (R.AX_OVF_CHATTERS_OVF b) (axisNode n) 1).raise (axisNode n) 19
  let s := (s.faultNode (axisNode n) .chatter).wr (R.AX_STATUS_HOMED b) 0
  let low := (s.ax n).low
  let s := s.axisEnd n .chatter 5
  s.setAx n { (s.ax n) with low := low }

/-- A raw level of an input changes (R483, R484). -/
def State.inputEdge (s : State) (n i : Nat) (level : Bool) : State :=
  let b := axisB n
  let s := s.axTo n s.now
  let raw := s.rd (R.AX_INPUTS_RAW b)
  if raw.testBit i = level then s
  else
    let x := s.ax n
    let s := s.wr (R.AX_INPUTS_RAW b) (setBit raw i level)
    let es := s.now :: ((tget [] x.edges i).filter fun t => decide (s.now ≤ t + 16000 * x.debUs))
    let s := s.setAx n { x with edges := tset [] x.edges i es, edgeAt := tset 0 x.edgeAt i s.now, edgePos := tset 0 x.edgePos i (s.axPos n) }
    if !x.block.isEmpty && decide (x.chatterN < es.length) && s.enabled (axisNode n) && decide (s.mode (axisNode n) ≠ .faulted) then s.axChatter n
    else s

/-- `INPUT_EDGE` (R483, R484): at `t`. -/
def execInputEdge (axis : Fin 8) (input : Fin 4) (level : Bool) (t : Nat) (s : State) : Host.Outcome State Fault Refusal :=
  .next ((s.advance t).inputEdge axis.val input.val level)

/-- A level held for `DEB_US` is accepted (R483, R485, R487). -/
def State.inputAccept (s : State) (n i : Nat) : State :=
  let b := axisB n
  let s := s.axTo n s.now
  let x := s.ax n
  let raw := s.rd (R.AX_INPUTS_RAW b)
  let acc := s.rd (R.AX_INPUTS_ACCEPTED b)
  if raw.testBit i = acc.testBit i ∨ s.now < tget 0 x.edgeAt i + 16000 * x.debUs ∨ x.block.isEmpty then s
  else ((s.wr (R.AX_INPUTS_ACCEPTED b) (setBit acc i (raw.testBit i))).axInputs n).inputActs n i (tget 0 x.edgePos i)

/-- `INPUT_ACCEPTED` (R483): at `t`. -/
def execInputAccepted (axis : Fin 8) (input : Fin 4) (t : Nat) (s : State) : Host.Outcome State Fault Refusal :=
  .next ((s.advance t).inputAccept axis.val input.val)

/-! ## The chopper -/

/-- A bridge of an axis. -/
def AxisRt.bridge (x : AxisRt) (second : Bool) : BridgeRt := if second then x.b else x.a
def AxisRt.setBridge (x : AxisRt) (second : Bool) (r : BridgeRt) : AxisRt := if second then { x with b := r } else { x with a := r }

/-- The gates that a state of a bridge drives high (R469), as bits 0 to 3: H1, L1, H2, L2; in fast decay, the drive opposite to the last
one. -/
def Gate.pins (last : Nat) : Gate → Nat
  | .off => 0
  | .drivePos => 9
  | .driveNeg => 6
  | .slow => 10
  | .fast => if last = 9 then 6 else 9

/-- A bridge goes into a state at `t` (R469). -/
def BridgeRt.go (r : BridgeRt) (g : Gate) (t : Nat) : BridgeRt := { r with gate := g, pins := g.pins r.pins, oldPins := r.pins, since := t }

/-- Fast decay gives way to slow decay once its time has passed (R472). -/
def BridgeRt.run (r : BridgeRt) (now : Nat) : BridgeRt := if r.gate = .fast ∧ r.slowAt ≤ now then r.go .slow r.slowAt else r

/-- The gates of a bridge that are high at `now` (R469): one that turns on waits for the dead time when the other gate of its half-bridge
turned off. -/
def BridgeRt.high (r : BridgeRt) (dead now : Nat) : Nat :=
  let r := r.run now
  (List.range 4).foldl (fun m i =>
    if r.pins.testBit i && (r.oldPins.testBit i || !r.oldPins.testBit (i ^^^ 1) || decide (r.since + 80 * dead ≤ now)) then m + 2 ^ i else m) 0

/-- The gate outputs of an axis's bridge. -/
def State.gateOutputs (s : State) (n : Nat) (second : Bool) : Nat := ((s.ax n).bridge second).high (fieldN (s.ax n).block 30 1) s.now

/-- The code of a bridge's sense DAC (R470, R472): `OC_CODE` in blanking, the cycle's threshold after it. -/
def State.senseDac (s : State) (n : Nat) (second : Bool) : Nat :=
  let r := (s.ax n).bridge second
  if r.live ∧ r.start + 16 * (s.ax n).tBlank ≤ s.now then r.thr else (s.ax n).ocCode

/-- Show the offset of a bridge; one that leaves 16 bits reads as a free value. -/
def State.showOfs (s : State) (n : Nat) (second : Bool) : State :=
  let o := ((s.ax n).bridge second).ofs
  let f := if second then R.AX_CHOP_OFS_B (axisB n) else R.AX_CHOP_OFS_A (axisB n)
  if 0 ≤ o ∧ o < 65536 then s.wr f o.toNat
  else
    let d := s.draw
    d.2.wr f (Config.free .chopOfs d.1)

/-- The end of a drive phase after `tOn` ns beyond blanking, at instant `t` (R472): fast decay, and the offset adapts. -/
def State.endDrive (s : State) (n : Nat) (second : Bool) (tOn t : Nat) : State :=
  let x := s.ax n
  let r := x.bridge second
  let half := (x.rise * (x.tBlank + tOn) + 16000) / 32000
  let ofs := if x.flag 3 then r.ofs + sar ((half : Int) - r.ofs) 4 else r.ofs
  let x := { x with fSum := x.fSum + tOn, fN := x.fN + 1 }
  (s.setAx n (x.setBridge second { (r.go .fast t) with live := false, slowAt := t + 16 * fieldN x.block 28 2, next := t + 16 * x.tOff, ofs := ofs })).showOfs n
    second

/-- A drive phase whose time has run out without a trip ends (R472). -/
def State.driveOut (s : State) (n : Nat) (second : Bool) : State :=
  let x := s.ax n
  let r := x.bridge second
  let e := r.start + 16 * (x.tBlank + 4 * x.tOff)
  if !r.live ∨ s.now < e then s else (s.wr (R.AX_STATUS_LOW_CURRENT (axisB n)) 1).endDrive n second (4 * x.tOff) e

/-- A chopper cycle of a bridge begins (R472). -/
def State.chopperCycle (s : State) (n : Nat) (second : Bool) : State :=
  let s := (s.axTo n s.now).driveOut n second
  let x := s.ax n
  let r := (x.bridge second).run s.now
  if !s.flag (R.AX_STATUS_BRIDGES_ON (axisB n)) ∨ r.live ∨ s.now < r.next then s
  else
    let c := s.currents n
    let t := if second then c.2 else c.1
    let thr := min 1023 (t.natAbs + if x.flag 3 then (sar (r.ofs + 8) 4).toNat else 0)
    if t = 0 then s.setAx n (x.setBridge second { (r.go .slow s.now) with start := s.now, next := s.now + 16 * x.tOff })
    else s.setAx n (x.setBridge second { (r.go (if 0 < t then .drivePos else .driveNeg) s.now) with start := s.now, live := true, thr := thr })

/-- `CHOPPER_CYCLE` (R472): bridge B when `second`, at `t`. -/
def execChopperCycle (axis : Fin 8) (second : Bool) (t : Nat) (s : State) : Host.Outcome State Fault Refusal :=
  if !s.clocked then .next s else
  .next ((s.advance t).chopperCycle axis.val second)

/-- The current has exceeded `OC_CODE` (R473). -/
def State.overcurrent (s : State) (n : Nat) : State :=
  let b := axisB n
  let s := (s.count (R.AX_COUNTS_OVERCURRENTS b) (R.AX_OVF_OC_OVF b) (axisNode n) 1).raise (axisNode n) 20
  let s := (s.bridgesOff n).faultNode (axisNode n) .overcurrent
  (s.wr (R.AX_STATUS_HOMED b) 0).axisEnd n .overcurrent 6

/-- A sense comparator trips (R472, R473). -/
def State.comparatorTrip (s : State) (n : Nat) (second : Bool) : State :=
  let s := (s.axTo n s.now).driveOut n second
  let x := s.ax n
  let r := x.bridge second
  if !r.live then s
  else if s.now < r.start + 16 * x.tBlank then s.overcurrent n
  else (s.wr (R.AX_STATUS_LOW_CURRENT (axisB n)) 0).endDrive n second ((s.now - r.start) / 16 - x.tBlank) s.now

/-- `COMPARATOR_TRIP` (R472, R473): bridge B when `second`, at `t`. -/
def execComparatorTrip (axis : Fin 8) (second : Bool) (t : Nat) (s : State) : Host.Outcome State Fault Refusal :=
  .next ((s.advance t).comparatorTrip axis.val second)

/-! ## Drain, abort and the yoke -/

/-- A drain of an axis (R94, R480). -/
def State.drainAxis (s : State) (n : Nat) : State := if s.axMoving n then s.axHalt n false 7 else s
/-- An abort of an axis (R94): its bridges go OFF at once. -/
def State.abortAxis (s : State) (n : Nat) : State := if s.flag (R.AX_STATUS_BRIDGES_ON (axisB n)) then s.axHalt n true 8 else s

/-- `AXIS` (R502), received at `t`: the standby loads the primary's axis state. -/
def execAxis (axis : Fin 8) (pos : Int) (v acc : Nat) (neg : Bool) (t : Nat) (s : State) : Host.Outcome State Fault Refusal :=
  if !s.clocked then .next s else
  let s := s.hear t
  let n := axis.val
  if !s.standby ∨ !s.axMoving n then .next s
  else
    let s := s.axTo n s.now
    let s := (s.wrS (R.AX_POS_POS (axisB n)) pos).wrB (R.AX_STATUS_DIR (axisB n)) neg
    .next ((s.setAx n { (s.ax n) with v := v, acc := acc % 2 ^ 32, at' := s.now }).axSpeed n v)

end Sys2Proof.Machine
end

