-- ==== Sys2Proof/Machine/Yoke.lean ====
section
/-!
DEFINITION. The yoke (spec/12): roles and pairing (R496 to R503), messages (R504 to R506), step tokens and swath CRCs (R507 to R511),
mirroring (R512 to R516), and takeover (R517 to R525).
-/

namespace Sys2Proof.Machine

/-! ## Roles -/

def State.role (s : State) : Nat := s.rd R.YOKE_STATE_ROLE

/-- The device owns the press outputs, which `YOKE_OWN_N` shows (R493, R499): in the primary role, and in the alone role unless it came
there from the standby role, but neither while it is fenced nor displaced, nor before initialisation has ended. -/
def State.ownsOutputs (s : State) : Bool :=
  !s.flag R.YOKE_STATE_FENCED && !s.yk.displaced && decide (s.dev ≠ devNotReady) &&
  (decide (s.role = 1) || (decide (s.role = 0) && !s.yk.released))

/-- Tell the partner what R498 compares. -/
def State.sendIdentity (s : State) : State := s.sendLoad 0 (.result (.identity (s.flag R.YOKE_CFG_PAIR_SIDE) (s.rd R.SEC_RELEASE_RELEASE)))

/-- Send a `HEART` (R505). -/
def State.sendHeart (s : State) : State :=
  s.sendYoke 0xB4 [s.role, b2n (s.flag R.YOKE_STATE_FENCED), b2n s.ownsOutputs, b2n s.check.isSome, s.yk.peerSeq]

/-- Write the completions that wait for the standby's acknowledgement, and wait for no message any more (R506). -/
def State.flushUnacked (s : State) : State :=
  let ms := s.yk.unacked
  let s := { s with yk := { s.yk with unacked := [] } }
  ms.foldl (fun (s : State) m => match m.load with
    | .result (.completion r c _ _ _) => s.finishCpl (Fin.ofNat 256 r) c
    | _ => s) s

/-- Complete the packets that wait for something of the partner. -/
def State.endWaits (s : State) (st : Status) : State :=
  let ws := s.yk.camWaits.map CamWait.pk ++ s.yk.resyncPk.toList
  let s := { s with yk := { s.yk with camWaits := [], resyncPk := none } }
  ws.foldl (fun (s : State) pk => s.complete pk st []) s

/-- No quick check, token or CRC of a pair is left. -/
def State.stopComparing (s : State) : State :=
  { ((s.wr R.YOKE_STATE_CHECKING 0).wr R.YOKE_STATE_RESYNC_PENDING 0) with check := none, ownCrcs := [], peerCrcs := [], tokens := [], ticks := [] }

/-- The device is in no pair any more, but keeps its role. -/
def State.unpair (s : State) : State := ((s.flushUnacked.endWaits .partnerDown).stopComparing).wr R.YOKE_STATE_PAIRED 0

/-- The pairing ends on this device (R499): it is alone, with the lanes and outputs that it owns; after the standby role, the completions
of its enabled rings stay with the shadow rings. -/
def State.leaveRole (s : State) : State :=
  let was := s.standby
  let s := (s.unpair.wr R.YOKE_STATE_ROLE 0).wr R.YOKE_STATE_READY 0
  if !was then s
  else
    let s := { s with yk := { s.yk with released := true } }
    (List.finRange 255).foldl (fun (s : State) k =>
      let r : Fin 256 := k.succ
      if s.enabled (.ring r) then s.setRing r.val { (s.ring r.val) with shadowKept := true } else s) s

/-- The waiting `YOKE_ROLE` completes once the partner holds the complementary role and, for a standby, once the first mirror has loaded
(R498). -/
def State.noteRole (s : State) : State :=
  match s.yk.rolePk with
  | none => s
  | some pk =>
    if s.flag R.YOKE_STATE_PAIRED ∧ (s.role = 1 ∨ s.yk.loaded) then
      State.complete { s with yk := { s.yk with rolePk := none } } pk .ok []
    else s

/-- The waiting `YOKE_ROLE` fails, and the device is alone (R498). -/
def State.roleFails (s : State) : State :=
  match s.yk.rolePk with
  | none => s
  | some pk => (State.leaveRole { s with yk := { s.yk with rolePk := none } }).complete pk .partnerDown []

/-- What a device does on taking a role of a pair: it waits for its partner afresh; a standby owns no lane, and discards every context,
its queued pages completing `ABORTED` (R498). -/
def State.takeRole (s : State) (role : Nat) (pk : Pk) : State :=
  let s := { s with yk := { ({} : YokeRt) with rolePk := some pk, roleAt := s.now, heard := s.now } }
  let s := (((((s.wr R.YOKE_STATE_ROLE role).wr R.YOKE_STATE_PAIRED 0).wr R.YOKE_STATE_PARTNER_DOWN 0).wr R.YOKE_STATE_PARTNER_FENCED 0).wr
    R.YOKE_STATE_READY 0).stopComparing
  let s := if role = 2 then
      let s := (s.wr R.YOKE_STATE_FENCED 0).wr R.YOKE_LANES_OWNED 0
      s.openCtxs.foldl (fun (s : State) e => (if e.2.live then s.endContext e.1 true .open else s).closeCtx e.1) s
    else s
  s.sendIdentity

/-- A yoke packet on a fenced device (R497). -/
def State.fencedFor (s : State) (role : Nat) : Bool :=
  s.flag R.YOKE_STATE_FENCED && !(decide (role = 2) && decide (s.mode .yoke ≠ .faulted))

/-- `YOKE_ROLE` (R497 to R499): a second one waits while one is in progress. -/
def execYokeRole (h : Hdr) (role : Nat) (s : State) : Host.Outcome State Fault Refusal :=
  if !s.spells (.yokeRole h role) then .next s else
  if s.yk.rolePk.isSome then .next s
  else
    .next (s.packet opYokeRole h
      (fun s => [(decide (h.ring.val ≠ 0) || decide (2 < role), .badParam), (s.fencedFor role, .fenced), (!s.accepts .yoke, .unitOff)])
      (fun pk s =>
        if role = 0 then ((s.leaveRole).sendHeart).complete pk .ok []
        else s.unpair.takeRole role pk))

/-- `YOKE_ROLE_TIMEOUT` (R498): the partner has not taken the complementary role within 1 s. -/
def execYokeRoleTimeout (s : State) : Host.Outcome State Fault Refusal :=
  if !s.clocked ∨ s.yk.rolePk.isNone then .next s else
  .next (s.advance (s.yk.roleAt + 16000000000)).roleFails

/-! ## Acknowledgement -/

/-- A sequence number that the partner's last one in order covers. -/
def covered (last q : Nat) : Bool := decide ((last + 65536 - q % 65536) % 65536 < 32768)

/-- The partner has received every message up to a sequence number: completions that waited are written and confirmed (R506, R524). -/
def State.ackTo (s : State) (last : Nat) : State :=
  let got := s.yk.unacked.filter fun m => covered last m.seq
  let s := { s with yk := { s.yk with unacked := s.yk.unacked.filter fun m => !covered last m.seq } }
  got.foldl (fun (s : State) m => match m.load with
    | .result (.completion r c _ _ _) => (s.finishCpl (Fin.ofNat 256 r) c).sendSeq (.result (.confirm r c.sq))
    | _ => s) s

/-- `MESSAGE_RETRANSMIT` (R506): at `t`, each message not acknowledged for 20 µs is sent again. -/
def execMessageRetransmit (t : Nat) (s : State) : Host.Outcome State Fault Refusal :=
  if !s.clocked then .next s else
  let s := s.advance t
  .next (s.yk.unacked.foldl (fun (s : State) m =>
    if m.at' + 320000 ≤ t ∧ m.tries < 4 then
      let s := { s with yk := { s.yk with unacked := s.yk.unacked.map fun (x : YMsg) => if x.seq = m.seq then { x with tries := x.tries + 1, at' := t } else x } }
      (s.sendLoad m.seq m.load).count R.YOKE_RESENT_COUNT R.YOKE_OVF_RESENT_OVF .yoke 1
    else s) s)

/-- The partner is declared down (R506): no comparison and no waiting for acknowledgements any more. -/
def State.partnerIsDown (s : State) : State :=
  let s := (s.wr R.YOKE_STATE_PARTNER_DOWN 1).raise .yoke 17
  ((s.flushUnacked.endWaits .partnerDown).stopComparing)

/-- `PARTNER_DOWN` (R506): at `t`, after 1 ms without a message, or 20 µs after a fourth sending. -/
def execPartnerDown (t : Nat) (s : State) : Host.Outcome State Fault Refusal :=
  if !s.clocked then .next s else
  let s := s.advance t
  if !s.paired then .next s
  else if s.yk.heard + 16000000 ≤ t ∨ s.yk.unacked.any (fun m => decide (4 ≤ m.tries) && decide (m.at' + 320000 ≤ t)) then .next s.partnerIsDown
  else .next s

/-! ## Heartbeats -/

/-- The partner holds the complementary role and has been met: the two are a pair, and the primary sends the first mirror (R498). -/
def State.pairUp (s : State) : State :=
  let s := s.wr R.YOKE_STATE_PAIRED 1
  (if s.primary then s.sendMirror else s).noteRole

/-- This device learns that its partner has taken over wholly (R493, R523). -/
def State.displace (s : State) : State :=
  let s := { s with yk := { s.yk with displaced := true, unacked := [] } }
  ((s.wr R.YOKE_LANES_OWNED 0).unpair).raise .yoke 22

/-- The partner's fencing is learned (R510, R535). -/
def State.peerFenced (s : State) : State :=
  if s.flag R.YOKE_STATE_PARTNER_FENCED then s
  else (s.wr R.YOKE_STATE_PARTNER_FENCED 1).raise .yoke 19

/-- A `HEART` from the partner. -/
def State.recvHeart (s : State) (role : Nat) (fenced owns : Bool) (last : Nat) : State :=
  let s := s.ackTo last
  let s := if fenced then s.peerFenced else s
  let mine := s.role
  if mine = 0 then s
  else if s.flag R.YOKE_STATE_PAIRED then
    if role = 0 then s.leaveRole
    else if mine = 1 ∧ role = 1 ∧ owns then s.displace
    else if fenced ∧ mine = 1 then s.unpair
    else s
  else if !fenced ∧ s.yk.met ∧ mine + role = 3 then s.pairUp
  else s

/-- `HEART` (R498, R499, R506, R523), received at `t`. -/
def execHeart (role : Fin 4) (fenced owns _checking : Bool) (last t : Nat) (s : State) : Host.Outcome State Fault Refusal :=
  if !s.clocked then .next s else
  .next ((s.hear t).recvHeart role.val fenced owns last)

/-- `HEART_INTERVAL` (R506): a `HEART` goes to the partner, and, while a role of a pair waits for its partner, what R498 compares. -/
def execHeartInterval (s : State) : Host.Outcome State Fault Refusal :=
  if !s.clocked then .next s else
  let s := s.sendHeart
  .next (if s.role ≠ 0 ∧ !s.flag R.YOKE_STATE_PAIRED then s.sendIdentity else s)

/-! ## Tokens and CRCs -/

/-- `TOKEN` (R507): the primary's step token of a line, received at `t`. -/
def execToken (ctx : Fin 256) (line _global t : Nat) (s : State) : Host.Outcome State Fault Refusal :=
  if !s.clocked then .next s else
  let s := s.hear t
  if !s.standby || !s.paired then .next s
  else
    let s := { s with yk := { s.yk with lastToken := tset 0 s.yk.lastToken ctx.val (line + 1) } }
    match s.ticks.find? fun x => decide (x.1 = ctx.val) && decide (x.2.1 = line) with
    | some x => .next (State.meet { s with ticks := s.ticks.filter fun y => decide (y ≠ x) } ctx.val line t x.2.2)
    | none => .next { s with tokens := s.tokens ++ [(ctx.val, line, t)] }

/-- `STEP_LOST` (R507): at `t`, ticks and tokens that have waited `STEP_TOL` for their counterpart are lost steps. -/
def execStepLost (t : Nat) (s : State) : Host.Outcome State Fault Refusal :=
  if !s.clocked then .next s else
  let s := s.advance t
  let late (x : Nat × Nat × Nat) : Bool := decide (x.2.2 + s.stepTol < t)
  let lost := (s.ticks ++ s.tokens).filter late
  let s := { s with ticks := s.ticks.filter (fun x => !late x), tokens := s.tokens.filter (fun x => !late x) }
  .next (lost.foldl (fun (s : State) x => s.stepLost x.1 x.2.1) s)

/-- `SWATH_CRC` (R509, R510, R514), received at `t`; one that comes after its line has fired is too late. -/
def execSwathCrc (lane : Fin 32) (line : Nat) (marked : Bool) (crc : BitVec 32) (t : Nat) (s : State) : Host.Outcome State Fault Refusal :=
  if !s.clocked then .next s else
  let s := s.hear t
  let ctx := s.laneOwner lane.val
  let c := s.ctx ctx
  if !s.compares ∨ ctx = 0 ∨ !c.live ∨ line < c.firedLines then .next s
  else
    let s := { s with peerCrcs := tset none s.peerCrcs (crcKey lane.val line) (some ⟨crc.toNat, marked⟩) }
    .next (s.compareCrc ctx lane.val line)

/-! ## The quick check and its outcome -/

/-- This device is fenced (R511): its YOKE node is FAULTED, and it drives nothing. -/
def State.fence (s : State) : State :=
  let s := (s.endWaits .diverged).unpair
  ((s.wr R.YOKE_STATE_FENCED 1).faultNode .yoke .fenced).raise .yoke 19

/-- A resynchronisation at the next qualifying boundary, where `AUTO_RESYNC` allows it (R510, R512). -/
def State.askResync (s : State) : State := if s.flag R.YOKE_CFG_AUTO_RESYNC then s.wr R.YOKE_STATE_RESYNC_PENDING 1 else s

/-- Both results of a quick check are there: the outcome of R510. -/
def State.checkOutcome (s : State) : State :=
  match s.check with
  | some { own := some own, peer := some peer, .. } =>
    let s := { (s.wr R.YOKE_STATE_CHECKING 0) with check := none }
    let pri := if s.primary then own else peer
    let stb := if s.primary then peer else own
    if pri then
      if stb then s.askResync
      else if s.primary then (s.peerFenced).unpair else s.fence
    else if stb then
      if s.primary then s.fence else s.peerFenced
    else
      if s.primary then (s.peerFenced).unpair else s.fence
  | _ => s

/-- `CHECK` (R510): the partner starts a quick check of a lane, or gives its result. -/
def execCheck (done passed : Bool) (lane : Fin 32) (line t : Nat) (s : State) : Host.Outcome State Fault Refusal :=
  if !s.clocked then .next s else
  let s := s.hear t
  if !s.compares then .next s
  else
    let s := match s.check with
      | some _ => s
      | none => { (s.wr R.YOKE_STATE_CHECKING 1) with check := some { ctx := s.laneOwner lane.val, line := line, lane := lane.val } }
    if !done then .next s
    else .next (State.checkOutcome { s with check := s.check.map fun x => { x with peer := some passed } })

/-! ## Mirroring -/

/-- The step of the partner for a key: the primary's own stands against the standby's (R515). -/
def State.peerStep (s : State) (x : CalStep) : State :=
  if s.primary && s.cal.steps.any (fun y => decide (y.row = x.row) && decide (y.key = x.key)) then s
  else s.addStep { x with held := s.now }

/-- The mirrored state of a resynchronisation has come (R513): it is loaded, and what waits for it completes. -/
def State.recvLoad (s : State) (m : Mirror) : State :=
  let first := !s.yk.loaded
  let s := (s.loadMirror m).wr R.YOKE_STATE_RESYNC_PENDING 0
  let s := s.raiseIf (!first) .yoke 20
  let s := match s.yk.resyncPk with
    | some pk => State.complete { s with yk := { s.yk with resyncPk := none } } pk .ok [m.globalLine % 2 ^ 32]
    | none => s
  s.noteRole

/-- A digest of the primary (R512): one that differs from the standby's own is a mismatch that needs no check. -/
def State.recvDigest (s : State) (ctx digest : Nat) : State :=
  if s.digestOf ctx = digest then s
  else ((s.count R.YOKE_MISMATCH_COUNT R.YOKE_OVF_MISMATCH_OVF .yoke 1).raise .yoke 16).askResync

/-- What a `MIRROR` does. -/
def State.recvMirror (s : State) (m : MirrorMsg) : State :=
  match m with
  | .digest ctx _ d => if s.standby then s.recvDigest ctx d else s
  | .load m => if s.standby then s.recvLoad m else s
  | .step x => s.peerStep x
  | .epoch lane e => if s.standby then s.wr (R.HL_EPOCH_EPOCH lane) e else s
  | .stops => { s with yk := { s.yk with peerStops := true } }
  | .laneFault lane => { s with yk := { s.yk with peerFaults := s.yk.peerFaults ++ [lane] } }

/-- The next message in order from a partner in a role of a pair; others wait for their turn (R506). -/
def State.inOrder (s : State) (q : Nat) : Bool := decide (s.role ≠ 0) && s.yk.met && decide (q = (s.yk.peerSeq + 1) % 65536)

def State.took (s : State) (q : Nat) : State := { s with yk := { s.yk with peerSeq := q } }

/-- `MIRROR` (R503, R512, R513, R515), received at `t`. -/
def execMirror (q : Nat) (m : MirrorMsg) (t : Nat) (s : State) : Host.Outcome State Fault Refusal :=
  if !s.clocked then .next s else
  let s := s.hear t
  if s.inOrder q then .next ((s.took q).recvMirror m) else .next s

/-- The partner's side and release (R498): a partner of the same side, or of another release, ends a waiting `YOKE_ROLE`; the numbering of
messages begins when the partner is first met. -/
def State.recvIdentity (s : State) (side : Bool) (release : Nat) : State :=
  if s.role = 0 ∨ s.flag R.YOKE_STATE_PAIRED then s
  else if side = s.flag R.YOKE_CFG_PAIR_SIDE ∨ release ≠ (s.rd R.SEC_RELEASE_RELEASE) then s.roleFails
  else if s.yk.met then s
  else { s with yk := { s.yk with met := true, seq := 0, peerSeq := 0, unacked := [] } }

/-- The result that the partner forwards for a packet of its camera lane (R501): written as this device's own completion. -/
def State.recvCamera (s : State) (ring sq status : Nat) (words : List Nat) (bytes : List Byte) : State :=
  match s.yk.camWaits.find? fun w => decide (w.pk.hdr.ring.val = ring) && decide (w.pk.hdr.sq = sq) with
  | none => s
  | some w =>
    let s := { s with yk := { s.yk with camWaits := s.yk.camWaits.filter fun x => decide (x ≠ w) } }
    let s := if bytes.isEmpty then s else s.writeAt 8 w.dst (bytes.take w.room)
    match statusOf status with
    | some st => s.complete w.pk st words
    | none => s

/-- A completion of the primary (R524): kept until it is confirmed, with its ring as the entry leaves it. -/
def State.recvCompletion (s : State) (ring : Nat) (c : Cpl) (index : Nat) (phase : Bool) (head : Nat) : State :=
  let wrap := decide (s.entries (Fin.ofNat 256 ring) ≤ index + 1)
  let m : MirRing := { tail := if wrap then 0 else index + 1, phase := if wrap then !phase else phase, head := head }
  { s with yk := { s.yk with unconfirmed := s.yk.unconfirmed ++ [⟨ring, c, index, phase⟩], rings := tset none s.yk.rings ring (some m),
                             suppressedPks := s.yk.suppressedPks.filter fun p =>
                               !(decide (p.hdr.ring.val = ring) && decide (p.hdr.sq = c.sq)) } }

/-- What a `RESULT` does. -/
def State.recvResult (s : State) (m : ResultMsg) : State :=
  match m with
  | .identity side release => s.recvIdentity side release
  | .camera ring sq status words bytes => s.recvCamera ring sq status words bytes
  | .completion ring c index phase head => if s.standby then s.recvCompletion ring c index phase head else s
  | .confirm ring sq =>
    { s with yk := { s.yk with unconfirmed := s.yk.unconfirmed.filter fun x => !(decide (x.ring = ring) && decide (x.cpl.sq = sq)) } }
  | .reject target => s.queueReject target
  | .resync =>
    if !s.primary then s
    else if s.openCtxs.any fun e => decide (e.2.st = .running) then s.wr R.YOKE_STATE_RESYNC_PENDING 1
    else s.sendMirror

/-- `RESULT` (R498, R501, R516, R524), received at `t`; what R498 compares is numbered 0. -/
def execResult (q : Nat) (m : ResultMsg) (t : Nat) (s : State) : Host.Outcome State Fault Refusal :=
  if !s.clocked then .next s else
  let s := s.hear t
  match m with
  | .identity _ _ => .next (s.recvResult m)
  | _ => if s.inOrder q then .next ((s.took q).recvResult m) else .next s

/-- `RECORD` (R501, R516): a record of the partner is entered into this device's own ring, 0 a tile, 1 a defect, 2 a proposal. -/
def execRecord (kind : Fin 3) (bytes : List Byte) (t : Nat) (s : State) : Host.Outcome State Fault Refusal :=
  if !s.clocked then .next s else
  let s := s.hear t
  if !s.paired then .next s
  else match kind with
  | 0 => .next (s.enterTile bytes)
  | 1 => .next (s.enterDefect bytes)
  | 2 => .next (s.enterProp bytes)

/-- `YOKE_RESYNC` (R497, R513): it completes when the mirrored state has loaded; a second one waits while one is in progress. -/
def execYokeResync (h : Hdr) (s : State) : Host.Outcome State Fault Refusal :=
  if !s.spells (.yokeResync h) then .next s else
  if s.yk.resyncPk.isSome then .next s
  else .next (s.packet opYokeResync h
    (fun s => [(decide (h.ring.val ≠ 0), .badParam), (s.flag R.YOKE_STATE_FENCED, .fenced), (!s.accepts .yoke || !s.standby, .unitOff),
      (!s.paired, .partnerDown)])
    (fun pk s =>
      ((State.wr { s with yk := { s.yk with resyncPk := some pk } } R.YOKE_STATE_RESYNC_PENDING 1).sendSeq (.result .resync))))

/-! ## Takeover -/

/-- The swaths of a lane's loft that have been due to be sent and have not fired, in order. -/
def State.loftLines (s : State) (ctx lane : Nat) : List LoftLine :=
  let h := s.head lane
  let lo := (s.ctx ctx).firedLines
  (List.range (h.sendNext - lo)).filterMap fun k => h.line (lo + k)

/-- A swath can reach the hub whole before its cut-off when it starts to leave now (R520). -/
def State.whole (s : State) (ctx lane : Nat) (l : LoftLine) : Bool :=
  s.inTime ctx lane l.line (s.now + s.slotTime lane (l.words.length + 1))

/-- The new owner sends what the lane needs (R520), marks the pages of the gap (R522) and of content that it did not compose (R514), and
answers the first line of its own. -/
def State.resumeLane (s : State) (ctx lane : Nat) : State × Nat :=
  let c := s.ctx ctx
  let h := s.head lane
  let keep (m : MapUpdate) : Bool := decide (c.firedLines ≤ m.line)
  let s := s.setHead lane { h with mapSent := [], mapUpdates := (h.mapSent ++ h.mapUpdates).filter keep, mapPos := 0, word := none,
                                   resume := false, replaying := [] }
  let first := (((s.loftLines ctx lane).find? fun l => s.whole ctx lane l).map LoftLine.line).getD h.sendNext
  let s := (s.setHead lane { (s.head lane) with sendNext := first }).pump lane
  let a := tget 0 s.yk.lastToken ctx
  let s := (List.range (first - a)).foldl (fun (s : State) i => s.markLaneLine ctx lane (a + i) markGap) s
  let s := if s.flag R.YOKE_STATE_READY then s
    else
      let bound := tget 0 s.compareFrom ctx
      let lo := (s.ctx ctx).firedLines - s.omax c
      (List.range (bound - lo)).foldl (fun (s : State) i => s.markLine ctx (lo + i) markGap) s
  (s, first)

/-- The gap of a lane (R521): its length in ns, from the first FIRE block that fell due after `since` and was not sent, and the lines that
the hub held. -/
def State.gapOf (s : State) (lane since first : Nat) : Nat × Nat :=
  let ks := (s.head lane).skipped.filter fun k => decide (since < k.2)
  match ks with
  | [] => (0, 0)
  | k :: r => ((s.now - r.foldl (fun a x => min a x.2) k.2) / 16, (((ks.map Prod.fst).filter fun n => decide (n < first)).eraseDups).length)

/-- Take a lane over (R519 to R522), unless its epoch would exceed 65,535. -/
def State.takeLane (s : State) (lane since : Nat) : State :=
  let e := max (s.epoch lane) (s.rd (R.HL_EPOCH_HUB_EPOCH lane)) + 1
  if 65535 < e then s
  else
    let s := (s.wr (R.HL_EPOCH_EPOCH lane) e).wr R.YOKE_LANES_OWNED (setBit (s.rd R.YOKE_LANES_OWNED) lane true)
    let s := s.setHead lane { (s.head lane) with epochLost := false }
    let k := s.laneOwner lane
    if k = 0 ∨ !(s.ctx k).live then s
    else
      let r := s.resumeLane k lane
      let s := r.1
      let g := s.gapOf lane since r.2
      (s.wr R.YOKE_LAST_GAP_GAP_NS (min 65535 (max (s.rd R.YOKE_LAST_GAP_GAP_NS) g.1))).wr R.YOKE_LAST_GAP_HELD
        (min 15 (max (s.rd R.YOKE_LAST_GAP_HELD) g.2))

/-- Of a list of lanes, those that the primary drives. -/
def State.peerLanes (s : State) (ls : List Nat) : List Nat := ls.filter fun l => !(s.rd R.YOKE_LANES_OWNED).testBit l

/-- Take lanes over: the state, the highest epoch set, and the lanes taken. -/
def State.takeLanes (s : State) (ls : List Nat) (since : Nat → Nat) : State × Nat × List Nat :=
  let s := (s.wr R.YOKE_LAST_GAP_GAP_NS 0).wr R.YOKE_LAST_GAP_HELD 0
  let mine := s.peerLanes ls
  let s := mine.foldl (fun (s : State) l => s.takeLane l (since l)) s
  let got := mine.filter fun l => (s.rd R.YOKE_LANES_OWNED).testBit l
  (s, (got.map s.epoch).foldl max 0, got)

/-- The new primary takes a ring of completions over (R524). -/
def State.takeRing (s : State) (r : Fin 256) : State :=
  let b := (Node.ring r).base
  let m := (tget none s.yk.rings r.val).getD { tail := 0, phase := true, head := 0 }
  let n := s.entries r
  let s := ((s.wr (R.RING_CQ_TAIL_TAIL b) m.tail).wrB (R.RING_CQ_TAIL_PHASE b) m.phase).wr (R.RING_CQ_HEAD_HEAD b) m.head
  let s := s.setRing r.val { (s.ring r.val) with used := (m.tail + n - m.head % n) % n }
  let base := 4096 * s.rd (R.RING_CQ_BASE_ADDR b)
  let s := (s.yk.unconfirmed.filter fun x => decide (x.ring = r.val)).foldl (fun (s : State) x =>
    s.hostWrite (base + 64 * x.index) (cplBytes x.cpl x.phase false)) s
  (s.yk.suppressedPks.filter fun p => decide (p.hdr.ring = r)).foldl (fun (s : State) p => s.complCpl r (cplOf p .aborted [])) s

/-- The device takes over wholly (R493, R518, R524, R525): outputs, lanes, completions; the displaced partner's camera lanes are down. -/
def State.takeWhole (s : State) : State × Nat × List Nat :=
  let s := s.endWaits .partnerDown
  let s := (s.stopComparing.wr R.YOKE_STATE_ROLE 1).wr R.YOKE_STATE_PAIRED 0
  let s := (List.finRange 255).foldl (fun (s : State) (k : Fin 255) => if s.enabled (.ring k.succ) then s.takeRing k.succ else s) s
  let since := s.yk.heard
  let s := { s with yk := { s.yk with unconfirmed := [], suppressedPks := [], rings := [], unacked := [], displaced := false, released := false,
                                      camsLost := true } }
  let r := s.takeLanes (List.range 32) fun _ => since
  let s := r.1.count R.YOKE_TAKEOVERS_WHOLE R.YOKE_OVF_WHOLE_OVF .yoke 1
  let s := s.raiseIf (s.insp.stripes.any fun x => (s.ownCam x.lane).isNone) .yoke 21
  (s.raise .yoke 18, r.2)

/-- The device takes single lanes over (R518). -/
def State.takeSingle (s : State) (ls : List Nat) : State × Nat × List Nat :=
  let r := s.takeLanes ls fun l => (s.head l).statusTime
  let s := r.1.count R.YOKE_TAKEOVERS_LANES R.YOKE_OVF_LANES_OVF .yoke r.2.2.length
  (s.raise .yoke 18, r.2)

/-- `TAKEOVER` (R497, R518 to R522, R524, R525). -/
def execTakeover (h : Hdr) (mask whole : Nat) (s : State) : Host.Outcome State Fault Refusal :=
  if !s.spells (.takeover h mask whole) then .next s else
  .next (s.packet opTakeover h
    (fun s => [(decide (h.ring.val ≠ 0) || decide (1 < whole), .badParam), (s.flag R.YOKE_STATE_FENCED, .fenced),
      (!s.accepts .yoke || !s.standby, .unitOff)])
    (fun pk s =>
      let ls := if whole = 1 then List.range 32 else maskList 32 mask
      let want := s.peerLanes ls
      let r := if whole = 1 then s.takeWhole else s.takeSingle ls
      r.1.complete pk (if r.2.2.length = want.length then .ok else .epochStale) [r.2.1, r.2.2.length]))

/-- A hub of a lane that the primary drives reports that it holds or is blank. -/
def State.hubHolds (s : State) : Bool :=
  (s.peerLanes (List.range 32)).any fun l => s.flag (R.HL_STATE_HUB_HOLD l) || s.flag (R.HL_STATE_HUB_BLANK l)

/-- `DOWN_US` in 1/16 ns. -/
def State.downTime (s : State) : Nat := 16000 * max 2 (min 100 (s.rd R.YOKE_CFG_DOWN_US))

/-- R517 calls for a whole takeover at `t`. -/
def State.wholeDue (s : State) (t : Nat) : Bool :=
  (decide (s.yk.heard + s.downTime ≤ t) && s.hubHolds && s.ctxs.any fun e => decide (e.2.st = .running)) || s.flag R.YOKE_STATE_PARTNER_FENCED || s.yk.peerStops

/-- R517 calls for the takeover of a lane. -/
def State.laneDue (s : State) (lane : Nat) : Bool :=
  !(s.peerLanes [lane]).isEmpty &&
  (s.yk.peerFaults.contains lane ||
   (decide ((s.head lane).lastStatus ≠ 0) && !s.flag (R.HL_STATE_FOLLOWED lane) && !s.flag (R.HL_STATE_HUB_RX_LOCK lane)))

/-- `AUTOMATIC_TAKEOVER` (R517): of everything, or of one lane, at `t`. -/
def execAutomaticTakeover (lane : Option (Fin 32)) (t : Nat) (s : State) : Host.Outcome State Fault Refusal :=
  if !s.clocked then .next s else
  let s := s.advance t
  if !s.standby ∨ !s.flag R.YOKE_STATE_PAIRED ∨ !s.flag R.YOKE_CFG_AUTO ∨ s.flag R.YOKE_STATE_FENCED ∨ s.mode .yoke = .faulted then .next s
  else match lane with
  | none => if s.wholeDue t then .next s.takeWhole.1 else .next s
  | some l => if s.laneDue l.val then .next (s.takeSingle [l.val]).1 else .next s

end Sys2Proof.Machine
end

