-- ==== Sys2Proof/Machine/NodeSt.lean ====
section
/-!
DEFINITION. The states of the nodes (R28, R37, R635): whether a node has work, its own state, and what a group reports.
-/

namespace Sys2Proof.Machine

/-- A context of a kind prints. -/
def State.anyLive (s : State) (p : Ctx → Bool) : Bool := s.ctxs.any fun e => e.2.live && p e.2

/-- A ring has packets fetched or in progress. -/
def State.ringBusy (s : State) (r : Nat) : Bool := !(s.ring r).fetched.isEmpty || !(s.ring r).started.isEmpty

/-- A node has accepted work that is not done (control-and-state table of spec/01). -/
def State.busy (s : State) (n : Node) : Bool :=
  match n with
  | .ring r => s.ringBusy r.val
  | .cmd => s.rings.any fun e => !e.2.fetched.isEmpty || !e.2.started.isEmpty
  | .bale => !s.baleJobs.isEmpty || !s.gangs.isEmpty
  | .thresher n => (s.holder n.val).isSome
  | .comp => s.anyLive fun c => !c.pass
  | .scrn => s.anyLive fun c => !c.wbOnly
  | .slice n => (match (s.slice n.val).lane with
    | some l => (s.ctx (s.laneOwner l)).live
    | none => (s.slice n.val).shadows.isSome)
  | .hlnk => (s.anyLive fun c => !c.wbOnly) || !s.latPks.isEmpty || !s.trainPks.isEmpty
  | .head n => s.training (.head n) || (s.ctx (s.laneOwner n.val)).live
  | .fire => (s.anyLive fun c => !c.wbOnly) || s.cmps.any (fun e => !e.2.queue.isEmpty || !e.2.due.isEmpty) || s.encs.any (fun e => e.2.cfgPk.isSome)
  | .insp => !s.insp.crops.isEmpty
  | .cam n => (s.cam n.val).running || !(s.cam n.val).gencp.isEmpty
  | .cal => !s.cal.seeds.isEmpty || !s.cal.anchors.isEmpty
  | .mem => s.mem.copying.isSome || (s.accepts .mem && !s.mem.queue.isEmpty)
  | .time => s.pulses.any (fun e => e.2.until'.isSome) || s.ptp.wait.isSome
  | .axis n => s.flag (R.AX_STATUS_BRIDGES_ON (Node.axis n).base)
  | .yoke => s.yk.rolePk.isSome || s.yk.resyncPk.isSome || s.check.isSome
  | .ylane n => s.training (.yoke n)
  | .glean => s.gl.test.isSome
  | .sys | .rings | .threshers | .compressors | .compressor _ | .slices | .cams | .ports | .port _ | .mot | .axes | .ylanes | .hlth | .sec => false

/-- The own state of a node (R28, R635). -/
def State.ownState (s : State) (n : Node) : NodeState :=
  if n = .sys then
    if s.dev = devFaulted then .faulted else if s.dev = devNotReady then .off else .idle
  else match s.mode n with
  | .faulted => .faulted
  | .testing => .testing
  | .draining => .quiescing
  | .normal => if !s.enabled n then .off else if s.busy n then .active else .idle

/-- The rank of a state in what a group reports (R37). -/
def NodeState.rank : NodeState → Nat
  | .faulted => 0 | .quiescing => 1 | .active => 2 | .testing => 3 | .idle => 4 | .off => 5

/-- The state that a node reports (R37). -/
def State.nodeState (s : State) (n : Node) : NodeState :=
  (n.subtree.map s.ownState).foldl (fun a b => if b.rank < a.rank then b else a) .off

end Sys2Proof.Machine
end

