-- ==== Sys2Proof/Machine/Glean.lean ====
section
/-!
DEFINITION. The gleaner (spec/12): its policy (R531), tests of idle parts (R526 to R530), their records, and the quick check of a head lane
(R527).
-/

namespace Sys2Proof.Machine

/-! ## Policy -/

def State.coverS (s : State) : Nat := fieldN s.gleanBlock 8 4
def State.gleanTests (s : State) : Nat := fieldN s.gleanBlock 12 1

/-- A block that `GLEAN_POLICY` refuses (R531). -/
def gleanBad (b : List Byte) : Bool :=
  decide (7 < fieldN b 0 1) || decide (fieldN b 1 1 ≠ 0) || decide (fieldN b 2 2 < 32) || decide (fieldN b 4 2 = 0) || decide (4000 < fieldN b 4 2) ||
  decide (fieldN b 6 2 = 0) || decide (100 < fieldN b 6 2) || decide (fieldN b 8 4 < 60) || decide (86400 < fieldN b 8 4) ||
  decide (15 < fieldN b 12 1) || (b.drop 13).any fun x => decide (x ≠ 0)

/-- `GLEAN_POLICY` (R531). -/
def execGleanPolicy (h : Hdr) (block : Nat) (s : State) : Host.Outcome State Fault Refusal :=
  if !s.spells (.gleanPolicy h block) then .next s else
  let r := s.readAt block 64
  let b := s.bytesAt block 64
  .next (s.packetR opGleanPolicy h [(block, 64)]
    (fun s => rank s .glean ((okBytes r).length = 64 && gleanBad b) false r [])
    (fun pk s => State.complete { s with gl := { s.gl with block := b } } pk .ok []))

/-! ## Tests -/

/-- The tests that apply to a node (R526, R527), as bits of a mask. -/
def testsOf : Node → Nat
  | .slice _ | .thresher _ | .compressor _ => 3
  | .comp | .insp => 2
  | .head _ => 12
  | .cam _ | .port _ | .ylane _ => 4
  | _ => 0

/-- The number of a part for the table of R526: a node, or a physical granary bank. -/
def partKey (n : Node) (bank : Nat) : Nat := n.base + (if n = .mem then 1 + bank else 0)

/-- Write a record (R534): the result is 0 passed, 1 failed, 2 aborted. -/
def State.gleanRecord (s : State) (n : Node) (test result : Nat) : State :=
  let i := s.rd R.GLEAN_REC_HEAD_INDEX
  (((((s.wr (R.GLEAN_REC_TIME i) (s.now / 16 % 2 ^ 64)).wr (R.GLEAN_REC_RESULT i) result).wr (R.GLEAN_REC_TEST i) test).wr (R.GLEAN_REC_KIND i)
    n.kind).wr (R.GLEAN_REC_NODE i) n.base).wr R.GLEAN_REC_HEAD_INDEX ((i + 1) % 64)

/-- A part has been tested: its interval begins anew. -/
def State.noteTested (s : State) (n : Node) (bank : Nat) : State :=
  let k := partKey n bank
  let at' := match n with | .slice _ => s.globalLine | _ => s.now
  { s with gl := { s.gl with tested := tset 0 s.gl.tested k at', late := tset false s.gl.late k false } }

/-- A test of a part has ended with a result: it is counted and recorded (R529, R534). -/
def State.testDone (s : State) (n : Node) (bank test : Nat) (passed : Bool) : State :=
  let s := ((s.gleanRecord n test (if passed then 0 else 1)).noteTested n bank).count R.GLEAN_RUNS_COUNT R.GLEAN_OVF_RUNS_OVF .glean 1
  if passed then s else (s.count R.GLEAN_FAILS_COUNT R.GLEAN_OVF_FAILS_OVF .glean 1).raise .glean 16

/-- A test ended before its result (R528): it counts as aborted. -/
def State.testAborted (s : State) (n : Node) (test : Nat) : State :=
  (s.gleanRecord n test 2).count R.GLEAN_ABORTS_COUNT R.GLEAN_OVF_ABORTS_OVF .glean 1

/-- The parts that the gleaner tests in cycles left free: they are not taken out of work (R526). -/
def inPlace : Node → Bool
  | .comp | .insp => true
  | _ => false

/-- Begin a test of a node (R35, R526). -/
def State.beginTest (s : State) (n : Node) (test : Nat) : State :=
  let s := { s with gl := { s.gl with test := some (n, test) } }
  let s := s.wr R.GLEAN_STATE_NODE n.base
  if inPlace n then s else s.setMode n .testing

/-- No node is under test any more. -/
def State.clearTest (s : State) (n : Node) : State :=
  let s := { s with gl := { s.gl with test := none } }
  let s := s.wr R.GLEAN_STATE_NODE 0
  if s.mode n = .testing then s.setMode n .normal else s

/-- A node's tests pass: a slice may take part again (R218). -/
def State.passNode (s : State) (n : Node) : State :=
  match n with
  | .slice k => s.setSlice k.val { (s.slice k.val) with needsTest := false }
  | _ => s

/-- A `GLEAN_RUN` goes on with its next test of the node, or completes. -/
def State.nextRun (s : State) (n : Node) : State :=
  match s.gl.run with
  | none => s
  | some r =>
    match r.tests with
    | t :: ts => State.beginTest { s with gl := { s.gl with run := some { r with tests := ts } } } n t
    | [] =>
      let s := if r.failed = 0 ∧ 0 < r.run then s.passNode n else s
      State.complete { s with gl := { s.gl with run := none } } r.pk (if r.failed = 0 then .ok else .testFail) [r.run, r.failed]

/-- `GLEAN_RUN` (R530): it waits for the end of a background test in progress, which yields to it. -/
def execGleanRun (h : Hdr) (off mask : Nat) (s : State) : Host.Outcome State Fault Refusal :=
  if !s.spells (.gleanRun h off mask) then .next s else
  let n := (Node.atBase off).getD .sys
  .next (s.packetW opGleanRun h [] (fun _ => [0, 0])
    (fun s => [((Node.atBase off).isNone || decide (15 < mask), .badParam), (!s.accepts .glean, .unitOff),
      (decide (s.nodeState n ≠ .idle), .wrongUnitState), (s.gl.run.isSome, .gleanBusy)])
    (fun pk s =>
      let r : GleanRun := { pk := pk, tests := maskList 4 (mask &&& testsOf n), node := n, waits := s.gl.test.isSome }
      let s := { s with gl := { s.gl with run := some r } }
      if r.waits then s else s.nextRun n))

/-- A context is in a headland of at least `MIN_HEADLAND` lines (R526, R531). -/
def State.inLongHeadland (s : State) : Bool :=
  s.ctxs.any fun e =>
    let c := e.2
    let start := (c.pages.filterMap fun p => p.first.map (· + p.length)).foldl (fun m x => if x ≤ c.line then max m x else m) 0
    c.live && (c.pageOf c.line).isNone &&
    ((c.pages.filterMap Page.first).filter fun f => decide (c.line < f)).all fun f => decide (start + fieldN s.gleanBlock 2 2 ≤ f)

/-- `GLEAN_TEST_START` (R526, R528, R531, R547): the gleaner claims an idle node, or uses a headland for the compositor, and begins a
background test. -/
def execGleanTestStart (n : Node) (test : Fin 4) (s : State) : Host.Outcome State Fault Refusal :=
  if !s.clocked then .next s else
  let headland := decide (n = .comp)
  if !s.accepts .glean ∨ 256 ≤ s.hlth.share ∨ !s.gleanFlag 0 ∨ (headland ∧ !(s.gleanFlag 1 && (s.inLongHeadland || decide (s.nodeState n = .idle)))) ∨ !s.gleanTests.testBit test.val ∨ !(testsOf n).testBit test.val ∨
      s.gl.test.isSome ∨ s.gl.run.isSome ∨ !s.accepts n ∨ (!inPlace n ∧ s.nodeState n ≠ .idle) then .next s
  else .next (s.beginTest n test.val)

/-- A test has ended: the `GLEAN_RUN` that waited for it starts (R530), or, by `own`, the one that it belongs to goes on. -/
def State.runAfter (s : State) (own : GleanRun → State) : State :=
  match s.gl.run with
  | none => s
  | some r => if r.waits then State.nextRun { s with gl := { s.gl with run := some { r with waits := false } } } r.node else own r

/-- The test in progress ends before its result (R528). -/
def State.breakTest (s : State) : State :=
  match s.gl.test with
  | none => s
  | some (n, t) =>
    let s := (s.clearTest n).testAborted n t
    s.runAfter fun r => State.nextRun { s with gl := { s.gl with run := some { r with tests := [] } } } n

/-- A slice faults or fails its check (R218, R219): it is fenced, and the spare takes over the lane that it served; a test of the spare
ends as an abort. -/
def State.sliceFails (s : State) (n : Fin 33) (code : Status) : State :=
  let lane := (s.slice n.val).lane
  let s := s.faultNode (.slice n) code
  let s := s.setSlice n.val { needsTest := decide (code = .testFail) }
  let s := if code = .testFail then s.raise .scrn 19 else s
  match lane with
  | none => s
  | some l =>
    match (List.finRange 33).find? fun k => (s.slice k.val).lane.isNone && !(s.slice k.val).needsTest && decide (s.mode (.slice k) ≠ .faulted) &&
        s.enabled (.slice k) with
    | none => s
    | some k => (if s.mode (.slice k) = .testing then s.breakTest else s).setSlice k.val { lane := some l }

/-- A node's test fails (R529): it is FAULTED; a slice is fenced (R218). -/
def State.failNode (s : State) (n : Node) : State :=
  match n with
  | .slice k => s.sliceFails k .testFail
  | n => s.faultNode n .testFail

/-- The test in progress ends. -/
def State.endTest (s : State) (passed : Bool) : State :=
  match s.gl.test with
  | none => s
  | some (n, t) =>
    let s := (s.clearTest n).testDone n 0 t passed
    let s := if passed then s else s.failNode n
    s.runAfter fun r =>
      State.nextRun { s with gl := { s.gl with run := some { r with run := r.run + 1, failed := r.failed + b2n (!passed),
                                                                    tests := if passed then r.tests else [] } } } n

/-- The relieved granary bank's test ends (R431, R432, R529). -/
def State.endBankTest (s : State) (passed : Bool) : State :=
  match s.mem.bist with
  | none => s
  | some b => (s.testDone .mem b 0 passed).endBist passed

/-- An abort of the gleaner (R94): the test ends, and `GLEAN_RUN` completes `ABORTED`. -/
def State.abortGlean (s : State) : State :=
  let s := match s.gl.run with
    | some r => State.complete { s with gl := { s.gl with run := none } } r.pk .aborted [r.run, r.failed]
    | none => s
  s.breakTest

/-- The interval of a part has gone by without a test (R526): in lines for a slice, else in time. -/
def State.overdue (s : State) (n : Node) (bank t : Nat) : Bool :=
  let last := tget 0 s.gl.tested (partKey n bank)
  match n with
  | .slice _ => decide (last + 33 * s.rotPeriod < s.globalLine)
  | .mem => decide (last + 49 * max 1 (s.rd R.GRAN_CFG_ROT_S) * 16000000000 < t)
  | _ => decide (last + s.coverS * 16000000000 < t)

/-- `COVERAGE_LATE` (R526): a part has gone untested beyond its interval, which is raised once for it. -/
def execCoverageLate (n : Node) (bank : Fin 49) (t : Nat) (s : State) : Host.Outcome State Fault Refusal :=
  if !s.clocked then .next s else
  let s := s.advance t
  let k := partKey n bank.val
  if (testsOf n = 0 ∧ n ≠ .mem) ∨ tget false s.gl.late k ∨ !s.overdue n bank.val t then .next s
  else .next (State.raise { s with gl := { s.gl with late := tset false s.gl.late k true } } .glean 17)

/-! ## The quick check -/

/-- The spare that disagreed with a slice passes its quick check when it has not failed before the slice's own ends (R218). -/
def State.sparePassed (s : State) (k : Fin 33) : State :=
  match (List.finRange 33).find? fun n => decide (n ≠ k) && (s.slice n.val).checking && decide (s.mode (.slice n) ≠ .faulted) with
  | some n => s.testDone (.slice n) 0 3 true
  | none => s

/-- What a quick check finds wrong: bit 0 the slice, bit 1 tables in the granary against their shadows, bit 2 the loft, bit 3 the engine of
swath CRCs (R527). -/
def State.quickEnd (s : State) (lane fails : Nat) : State :=
  let passed := decide (fails = 0)
  let slice := s.laneSlice lane
  let s := s.testDone (match slice with
    | some k => .slice k
    | none => (headLane lane).node) 0 3 passed
  let s := match slice with
    | some k => if (s.slice k.val).checking then s.sparePassed k else s
    | none => s
  let s := match slice with
    | some k => if fails.testBit 0 then s.sliceFails k .testFail else s
    | none => s
  let s := (List.range 33).foldl (fun (s : State) k => s.setSlice k { (s.slice k) with checking := false }) s
  match s.check with
  | some x =>
    if x.lane = lane ∧ x.own.isNone then
      (State.sendYoke { s with check := some { x with own := some passed } } 0xF0 [1, b2n passed, x.line, lane]).checkOutcome
    else s
  | none => s

/-- `QUICK_CHECK_END` (R218, R510, R527). -/
def execQuickCheckEnd (lane : Fin 32) (fails : BitVec 4) (s : State) : Host.Outcome State Fault Refusal :=
  if !s.clocked then .next s else
  let s0 := s.laneSlice lane.val
  let due := (match s.check with | some x => decide (x.lane = lane.val) && x.own.isNone | none => false) ||
    (match s0 with | some k => (s.slice k.val).checking | none => false)
  if due then .next (s.quickEnd lane.val fails.toNat) else .next s

end Sys2Proof.Machine
end

