-- ==== Sys2Proof/Machine/Hlth.lean ====
section
/-!
DEFINITION. The HLTH unit (spec/13): die sensors and levels (R537 to R551), head temperatures (R552 to R556), tallies (R557 to R561),
prediction (R562, R563), and the packets that read health.
-/

namespace Sys2Proof.Machine

/-! ## Sensors -/

/-- The reading of a site in 1/64 °C (R537), from the counts of its two oscillators and its ratios at 25 °C and 125 °C; a site whose
counts give no ratio reads outside the range. -/
def siteReading (x : Nat × Nat × Int × Int) : Int :=
  let (nT, nV, r1, r2) := x
  if nV = 0 ∨ r1 = r2 then 32767
  else
    let r : Int := (nT * 65536 / nV : Nat)
    toS 32 (ofS 32 (1600 + cdiv ((r - r1) * 6400 + cdiv (r2 - r1) 2) (r2 - r1)))

/-- The grid neighbours of a site (R539): the up to eight around it. -/
def siteNeighbours (k : Nat) : List Nat :=
  (List.range 64).filter fun j =>
    decide (j ≠ k) && decide (j / 8 ≤ k / 8 + 1) && decide (k / 8 ≤ j / 8 + 1) && decide (j % 8 ≤ k % 8 + 1) && decide (k % 8 ≤ j % 8 + 1)

/-- The lower median of a list that is not empty. -/
def lowMedian (xs : List Int) : Int := (xs.mergeSort (· ≤ ·)).getD ((xs.length - 1) / 2) 0

/-- A reading is implausible (R539): out of range, or too far from the median of its valid neighbours; `ign` are the sensors that the last
scan ignored. -/
def implausible (rs : List Int) (ign k : Nat) : Bool :=
  let v := rs.getD k 32767
  let ns := ((siteNeighbours k).filter fun j => !ign.testBit j).map fun j => rs.getD j 32767
  decide (v < -3840) || decide (11200 < v) || (!ns.isEmpty && decide (960 < (v - lowMedian ns).natAbs))

/-- A sensor after a scan (R539, R540): its record, whether the scan ignores it, and whether it is flagged now. -/
def SensorRt.scan (x : SensorRt) (v : Int) (bad : Bool) : SensorRt × Bool × Bool :=
  if x.out then
    if bad then ({ x with reading := v, good := 0 }, true, false)
    else if 1000 ≤ x.good + 1 then ({ reading := v }, false, false)
    else ({ x with reading := v, good := x.good + 1 }, true, false)
  else if bad then
    if 3 ≤ x.ignRun + 1 then ({ x with reading := v, ignRun := x.ignRun + 1, out := true, good := 0 }, true, true)
    else ({ x with reading := v, ignRun := x.ignRun + 1 }, true, false)
  else ({ x with reading := v, ignRun := 0 }, false, false)

/-- The mask of the sites that meet a test. -/
def siteMask (p : Nat → Bool) : Nat := (List.range 64).foldl (fun m k => if p k then setBit m k true else m) 0

/-- Scan the sensors (R537 to R541): readings, ignored ones, flags, and T. -/
def State.scanSensors (s : State) (sites : List (Nat × Nat × Int × Int)) : State :=
  let rs := sites.map siteReading
  let old := s.rd R.HLTH_SENSOR_IGN_IGNORED
  let res := (List.range 64).map fun k => (tget {} s.hlth.sensors k).scan (rs.getD k 32767) (implausible rs old k)
  let ign := siteMask fun k => (res.getD k ({}, true, false)).2.1
  let flagged := (List.range 64).filter fun k => (res.getD k ({}, true, false)).2.2
  let t := res.zipIdx.foldl (fun (t : Tbl SensorRt) e => tset {} t e.2 e.1.1) s.hlth.sensors
  let s := State.wr { s with hlth := { s.hlth with sensors := t } } R.HLTH_SENSOR_IGN_IGNORED ign
  let s := flagged.foldl (fun (s : State) k =>
    ((s.wr R.HLTH_SENSOR_BAD_BAD (setBit (s.rd R.HLTH_SENSOR_BAD_BAD) k true)).count R.HLTH_COUNTS_SENSOR_FLAGS R.HLTH_OVF_FLAG_OVF .hlth 1).raise
      .hlth 20) s
  let used := ((List.range 64).filter fun k => !ign.testBit k).map fun k => rs.getD k 32767
  let s := match used with
    | [] => s
    | v :: vs => s.wrS R.HLTH_STATE_TEMP (vs.foldl max v)
  s.raiseIf (decide (used.length < 48)) .hlth 21

/-- Sensors ignored in the last scan. -/
def State.ignored (s : State) : Nat := popc 64 (s.rd R.HLTH_SENSOR_IGN_IGNORED)

/-- T in 1/64 °C. -/
def State.dieT (s : State) : Int := s.rdS R.HLTH_STATE_TEMP

/-- Note T for ρ (R542): the sum over the last 4 scans less that over the 4 scans which ended 50 scans earlier; 0 before there are as
many. -/
def State.noteRise (s : State) : State :=
  let h := (s.dieT :: s.hlth.hist).take 54
  let rise := if h.length < 54 then 0 else (h.take 4).sum - ((h.drop 50).take 4).sum
  { s with hlth := { s.hlth with hist := h, rise := rise } }

/-! ## Levels -/

def State.level (s : State) : Nat := s.rd R.HLTH_STATE_LEVEL
def State.thWarn (s : State) : Int := s.rdS R.HLTH_THRESH_WARN
def State.thThrottle (s : State) : Int := s.rdS R.HLTH_THRESH_THROTTLE
def State.thCritical (s : State) : Int := s.rdS R.HLTH_THRESH_CRITICAL
def State.thShutdown (s : State) : Int := s.rdS R.HLTH_THRESH_SHUTDOWN
/-- `HYST` in 1/64 °C. -/
def State.hyst (s : State) : Int := (64 * s.rd R.HLTH_HYST_HYST : Nat)

/-- The thresholds that a scan reaches (R541, R543): WARN by T and by ρ; THROTTLE; CRITICAL by T or too few sensors, and by ρ; SHUTDOWN. -/
def State.reaches (s : State) : List Bool :=
  [decide (s.thWarn ≤ s.dieT), decide ((4 * s.rd R.HLTH_RISE_RISE_WARN : Nat) ≤ s.hlth.rise), decide (s.thThrottle ≤ s.dieT),
   decide (s.thCritical ≤ s.dieT) || decide (32 < s.ignored), decide ((4 * s.rd R.HLTH_RISE_RISE_CRIT : Nat) ≤ s.hlth.rise),
   decide (s.thShutdown ≤ s.dieT)]

/-- The throttle share at T (R546). -/
def State.shareAt (s : State) : Nat :=
  let d := s.thCritical - s.thThrottle
  if s.dieT < s.thThrottle ∨ d ≤ 0 then 0 else min 256 ((((s.dieT - s.thThrottle) * 256 + d / 2) / d).toNat)

/-- Set the throttle share, which stays at 256 from CRITICAL on (R546, R548). -/
def State.setShare (s : State) : State :=
  let v := if 3 ≤ s.level then 256 else s.shareAt
  State.wr { s with hlth := { s.hlth with share := v } } R.HLTH_STATE_SHARE (min 255 v)

/-- Every lane of the device. -/
def allLanes : List LaneId :=
  (List.finRange 32).map LaneId.head ++ (List.finRange 8).map LaneId.cam ++ (List.finRange 2).map LaneId.eth ++ (List.finRange 4).map LaneId.yoke

/-- A lane stops sending, and its node is in RESET (R42, R551, R616). -/
def State.squelch (s : State) (l : LaneId) : State :=
  let s := if s.training l then s.laneTrained l false true else s
  let s := match l with
    | .cam n => s.camDown n.val
    | .eth n => s.ethLink n.val false
    | _ => s
  ((((s.stopCarrying l).enterTrain l 0).wr (R.LANE_STATUS_BLOCK_LOCK l.b) 0).wr (R.LANE_CTRL_START l.b) 0)

/-- Every lane stops sending. -/
def State.squelchAll (s : State) : State := allLanes.foldl (fun (s : State) l => s.squelch l) s

/-- An axis stops at once and holds at `I_HOLD` (R551). -/
def State.freezeAxis (s : State) (n : Nat) : State :=
  if !s.flag (R.AX_STATUS_BRIDGES_ON (axisB n)) then s
  else
    let s := if s.axMoving n then s.axisEnd n .aborted 8 else s
    (s.setAx n { (s.ax n) with low := true, heldAt := none }).wr (R.AX_STATUS_LOW_CURRENT (axisB n)) 1

/-- SYS enters FAULTED (R42, R551, R635). -/
def State.faultSys (s : State) (st : Status) : State :=
  let s := (s.faultNode .sys st).wr R.SYS_DEV_DEV_STATE devFaulted
  if s.mode .sys = .faulted then s else s.setMode .sys .faulted

/-- Shutdown (R551). -/
def State.shutDown (s : State) : State :=
  let s := State.faultSys { s with sysReported := s.sysReported && decide (s.sysUnmasked = 0) } .shutdown
  let s := s.squelchAll
  let s := (List.range 8).foldl (fun (s : State) n => s.freezeAxis n) s
  let s := s.channels.foldl (fun (s : State) c => s.wr (R.MEM_CH_STATUS_SELF_REFRESH c) 1) s
  { s with hlth := { s.hlth with shutdown := true } }

/-- The orderly stop on entering CRITICAL (R517, R548). -/
def State.enterCritical (s : State) : State :=
  let s := (s.count R.HLTH_COUNTS_CRITICALS R.HLTH_OVF_CRIT_OVF .hlth 1).raise .hlth 18
  let s := s.ctxs.foldl (fun (s : State) e => if e.2.st = .running then s.stopCtx e.1 0 none else s) s
  let s := s.faultNode .hlth .thermalStop
  if s.primary then s.sendSeq (.mirror .stops) else s

/-- Enter a level (R543); `byT` says whether WARN is entered by temperature. -/
def State.enterLevel (s : State) (l : Nat) (byT : Bool) : State :=
  let s := s.wr R.HLTH_STATE_LEVEL l
  match l with
  | 1 => s.raise .hlth (if byT then 16 else 19)
  | 2 => (s.count R.HLTH_COUNTS_THROTTLES R.HLTH_OVF_THR_OVF .hlth 1).raise .hlth 17
  | 3 => s.enterCritical
  | 4 => s.shutDown
  | _ => s

/-- Enter, in rising order, the levels above the present one whose threshold the last two scans have reached (R543). -/
def State.riseLevels (s : State) (now old : List Bool) : State :=
  let both (k : Nat) : Bool := now.getD k false && old.getD k false
  let on (l : Nat) : Bool :=
    match l with
    | 1 => both 0 || both 1
    | 2 => both 2
    | 3 => both 3 || both 4
    | _ => both 5
  [1, 2, 3, 4].foldl (fun (s : State) l => if on l ∧ s.level < l then s.enterLevel l (both 0) else s) s

/-- Leave THROTTLE and WARN when the scan has been below for 10 ms, which is 500 scans (R543). -/
def State.fallLevels (s : State) : State :=
  let b1 := decide (s.dieT < s.thWarn - s.hyst) && decide (s.hlth.rise < (4 * s.rd R.HLTH_RISE_RISE_WARN : Nat))
  let b2 := decide (s.dieT < s.thThrottle - s.hyst)
  let n1 := if b1 then s.hlth.below1 + 1 else 0
  let n2 := if b2 then s.hlth.below2 + 1 else 0
  let s := { s with hlth := { s.hlth with below1 := min 500 n1, below2 := min 500 n2 } }
  let s := if s.level = 2 ∧ 500 ≤ n2 then s.wr R.HLTH_STATE_LEVEL 1 else s
  if s.level = 1 ∧ 500 ≤ n1 then s.wr R.HLTH_STATE_LEVEL 0 else s

/-- A scan at `t` (R537 to R548, R551). -/
def State.scan (s : State) (sites : List (Nat × Nat × Int × Int)) : State :=
  let s := (s.scanSensors sites).noteRise
  let now := s.reaches
  let old := s.hlth.reached
  let s := { s with hlth := { s.hlth with reached := now } }
  ((s.riseLevels now old).fallLevels).setShare

/-- `SENSOR_SCAN` (R537): the counts of the 64 sites at `t`, with each site's ratios from OTP; none in sleep (R616). -/
def execSensorScan (sites : List (Nat × Nat × Int × Int)) (t : Nat) (s : State) : Host.Outcome State Fault Refusal :=
  if s.dev = devSleep then .next s else .next ((s.advance t).scan sites)

/-- Thresholds that `THERMAL_SET` refuses (R544, R545). -/
def thermalBad (b : List Byte) : Bool :=
  let v (k : Nat) : Int := fieldS b k 2
  let out (k : Nat) (lo hi : Int) : Bool := decide (v k < lo) || decide (hi < v k)
  out 0 5120 8640 || out 2 5440 8960 || out 4 5760 9344 || out 6 6080 9600 || out 8 32 320 || out 10 64 320 ||
  decide (fieldN b 12 1 < 1) || decide (10 < fieldN b 12 1) || ((b.drop 13).any fun x => decide (x ≠ 0)) ||
  decide (v 2 < v 0) || decide (v 4 ≤ v 2) || decide (v 6 ≤ v 4) || decide (v 10 ≤ v 8)

/-- `THERMAL_SET` (R544, R545). -/
def execThermalSet (h : Hdr) (block : Nat) (s : State) : Host.Outcome State Fault Refusal :=
  if !s.spells (.thermalSet h block) then .next s else
  let r := s.readAt block 64
  let b := s.bytesAt block 64
  .next (s.packetR opThermalSet h [(block, 64)]
    (fun s => rank s .hlth (decide ((okBytes r).length = 64) && thermalBad b) false r [])
    (fun pk s =>
      let s := (((s.wr R.HLTH_THRESH_WARN (fieldN b 0 2)).wr R.HLTH_THRESH_THROTTLE (fieldN b 2 2)).wr R.HLTH_THRESH_CRITICAL (fieldN b 4 2)).wr
        R.HLTH_THRESH_SHUTDOWN (fieldN b 6 2)
      let s := ((s.wr R.HLTH_RISE_RISE_WARN (fieldN b 8 2)).wr R.HLTH_RISE_RISE_CRIT (fieldN b 10 2)).wr R.HLTH_HYST_HYST (fieldN b 12 1)
      s.complete pk .ok []))

/-! ## STOP_REQ_N -/

/-- The requests on `STOP_REQ_N` (R550). -/
def State.stopThermal (s : State) : Bool := decide (3 ≤ s.level)
def State.stopUnderrun (s : State) : Bool := s.ctxs.any fun e => e.2.underrunStop && decide (e.2.st = .running)
def State.stopEncoder (s : State) : Bool := s.encs.any fun e => e.2.stopReq
def State.stopAsserted (s : State) : Bool :=
  s.stopThermal || s.stopUnderrun || s.stopEncoder || s.hlth.rootLost || s.flag R.HLTH_STOP_HOST

/-- `HOST_STOP_REQUEST` (R550): a write of `HOST` in `HLTH_STOP`. -/
def execHostStopRequest (on : Bool) (s : State) : Host.Outcome State Fault Refusal :=
  .next (s.hostAccess .hlth (.hostStopRequest on) fun s => s.wrB R.HLTH_STOP_HOST on)

/-! ## Heads -/

/-- f of R552. -/
def State.stepAt (s : State) (lane : Nat) (t : Int) : Nat :=
  (clampI 0 (s.rd (R.HEAD_CFG_VSTEP_MAX lane) : Nat)
    (sar ((t - s.rdS (R.HEAD_TEMP_H_WARN lane)) * (s.rd (R.HEAD_CFG_VSTEP_GAIN lane) : Nat) + 63) 6)).toNat

/-- `H_HYST` in 1/64 °C. -/
def State.headHyst (s : State) : Int := (64 * max 1 (s.rd R.HLTH_HYST_H_HYST) : Nat)

/-- The step that a head is to have at a temperature, from the one in force (R552). -/
def State.nextStep (s : State) (lane v : Nat) (t : Int) : Nat :=
  if v < s.stepAt lane t then s.stepAt lane t
  else if s.stepAt lane (t + s.headHyst) < v then s.stepAt lane (t + s.headHyst)
  else v

/-- Order a head's step and disable state (R271, R556): it holds from the first line whose FIRE block has not left, and goes to the hub of a
lane that this device owns, once the lane is UP. -/
def State.orderHead (s : State) (lane head v : Nat) (off : Bool) : State :=
  let s := s.txRun lane
  let h := s.head lane
  let old := (tget 0 h.vstep head, tget false h.disabled head)
  if old = (v, off) then s
  else
    let g := s.orderLine lane
    let was := if tget 0 h.orderFrom head = g then h.orderWas else tset (0, false) h.orderWas head old
    let h := { h with vstep := tset 0 h.vstep head v, disabled := tset false h.disabled head off, orderFrom := tset 0 h.orderFrom head g,
                      orderWas := was }
    let h := { h with orders := if s.ownsLane lane && !h.orders.contains head then h.orders ++ [head] else h.orders }
    let s := (s.setHead lane h).raise .hlnk 20
    (s.raiseIf (decide (old.1 = 0) && decide (0 < v)) .hlth 22).txRun lane

/-- The sensor of a head has failed (R554). -/
def State.headSensorFails (s : State) (lane head : Nat) : State :=
  let h := s.head lane
  let s := s.setHead lane { h with sensorBad := tset false h.sensorBad head true }
  (s.orderHead lane head (s.rd (R.HEAD_CFG_VSTEP_MAX lane)) (tget false h.disabled head)).raise .hlth 24

/-- A valid temperature of a head (R552, R553). -/
def State.headTemp (s : State) (lane head : Nat) (x : Int) (limit : Bool) (t : Nat) : State :=
  let h := s.head lane
  let v := s.nextStep lane (tget 0 h.vstep head) x
  let lim := s.rdS (R.HEAD_TEMP_H_LIMIT lane)
  let off := tget false h.disabled head
  let hot := limit || decide (lim ≤ x)
  let cool := !limit && decide (x < lim - s.headHyst)
  let since := tget 0 h.belowSince head
  let s := s.setHead lane { h with sensorBad := tset false h.sensorBad head false,
                                   belowSince := tset 0 h.belowSince head (if off && cool then (if since = 0 then t + 1 else since) else 0) }
  let s := s.orderHead lane head v (off || hot)
  if hot && !off then (s.count R.HLTH_COUNTS_HEAD_DISABLES R.HLTH_OVF_DIS_OVF .hlth 1).raise .hlth 23 else s

/-- Heads that the hub of a lane has reported (`HL_STATE`). -/
def State.headCount (s : State) (lane : Nat) : Nat := s.rd (R.HL_STATE_HEADS lane) + 1

/-- A `TEMP` block received at `t` (R271, R273, R500, R552 to R554): a hub's report of a head. -/
def State.recvTemp (s : State) (l body t : Nat) : State :=
  let s := s.advance t
  let k := bits body 8 6
  let h := s.head l
  let s := s.setHead l { h with temps := tset 0 h.temps k body, tempAt := tset 0 h.tempAt k t }
  if s.headCount l ≤ k then s
  else if bit body 32 then (if tget false h.sensorBad k then s else s.headSensorFails l k)
  else s.headTemp l k (toS 16 (bits body 16 16)) (bit body 15) t

/-- `HEAD_SENSOR` (R554): at `t`, a head that has reported before has sent nothing for 5 ms. -/
def execHeadSensor (lane : Fin 32) (head : Fin 64) (t : Nat) (s : State) : Host.Outcome State Fault Refusal :=
  if !s.clocked then .next s else
  let s := s.advance t
  let h := s.head lane.val
  if tget 0 h.temps head.val = 0 ∨ tget false h.sensorBad head.val ∨ t < tget 0 h.tempAt head.val + 80000000 then .next s
  else .next (s.headSensorFails lane.val head.val)

/-- `HEAD_ENABLE_TIMER` (R553): at `t`, a disabled head has been below its limit for 10 ms. -/
def execHeadEnableTimer (lane : Fin 32) (head : Fin 64) (t : Nat) (s : State) : Host.Outcome State Fault Refusal :=
  if !s.clocked then .next s else
  let s := s.advance t
  let l := lane.val
  let h := s.head l
  let since := tget 0 h.belowSince head.val
  if !tget false h.disabled head.val ∨ since = 0 ∨ t + 1 < since + 160000000 then .next s
  else
    let x := toS 16 (bits (tget 0 h.temps head.val) 16 16)
    let s := s.setHead l { h with belowSince := tset 0 h.belowSince head.val 0 }
    .next (s.orderHead l head.val (s.nextStep l (tget 0 h.vstep head.val) x) false)

/-! ## Tallies -/

/-- A tally with counts added (R558, R559): `COUNT` in bits 47 to 0, `OVF` in bit 48. -/
def tallyAdd (v a : Nat) : Nat :=
  let c := v % 2 ^ 48 + a
  let ovf := bit v 48 || decide (2 ^ 48 ≤ c) || decide (65535 ≤ a)
  min c (2 ^ 48 - 1) + 2 ^ 48 * b2n ovf

/-- A tally at its maximum, with `OVF` (R418). -/
def tallyFull : Nat := 0x1FFFFFFFFFFFF

/-- The address of a tally in the reserved area (R391, R557). -/
def State.tallyAddr (s : State) (g : Nat) : Nat := s.reservedBase + 34 * 2 ^ 20 + 8 * g

/-- Flush an accumulator into its tally (R558, R559); a tally that reads poisoned is set to its maximum (R418). -/
def State.flushOne (s : State) (g a : Nat) : State :=
  let w := s.tallyAddr g
  let bad := s.dramBad w 8
  let v := tget 0 s.tallies g
  let s := s.noteRead 15 w 8
  let s := if bad then s.usePoison 15 (w + 2 ^ 63) 8 else s
  let sum := if bad then tallyFull else tallyAdd v a
  (State.cleanWords { s with tallies := tset 0 s.tallies g sum } w 8).raiseIf (bit sum 48 && !bit v 48) .hlth 3

/-- Flush the accumulators of a lane (R558, R559). -/
def State.flushTally (s : State) (lane : Nat) : State :=
  let h := s.head lane
  let s := s.setHead lane { h with tally := [] }
  h.tally.foldl (fun (s : State) e => s.flushOne (lane * 32768 + e.1) e.2) s

/-- `TALLY_FLUSH` (R558): a global line congruent to 32 × l modulo 1,024 has come since the lane's last flush. -/
def execTallyFlush (lane : Fin 32) (s : State) : Host.Outcome State Fault Refusal :=
  let due := (s.globalLine + 1024 - 32 * lane.val) / 1024
  if due ≤ (s.head lane.val).flushes then .next s
  else .next ((s.setHead lane.val { (s.head lane.val) with flushes := due }).flushTally lane.val)

/-- `TALLY_READ` (R560). -/
def execTallyRead (h : Hdr) (dst first n : Nat) (s : State) : Host.Outcome State Fault Refusal :=
  if !s.spells (.tallyRead h dst first n) then .next s else
  .next (s.packet opTallyRead h
    (fun s => rank0 s .hlth (decide (1048576 < first + n) || s.badAddr dst (8 * n)) false [(s.dmaFails dst (8 * n), .dmaError)])
    (fun pk s =>
      let a := s.tallyAddr first
      let bs := (tgets 0 s.tallies first n).flatMap (leBytes 8)
      let bad := s.dramBad a (8 * n)
      let s := s.noteRead 15 a (8 * n)
      if bad then ((s.writePoisoned 15 dst bs).usePoison 15 (2 ^ 63 + a) (8 * n)).complete pk .poisoned [n]
      else (s.writeAt 15 dst bs).complete pk .ok [n]))

/-- Clear tallies and their accumulators (R561). -/
def State.clearTallies (s : State) (first n : Nat) (ovf : Bool) : State :=
  let inside (g : Nat) : Bool := decide (first ≤ g) && decide (g < first + n)
  let s := s.heads.foldl (fun (s : State) e =>
    s.setHead e.1 { e.2 with tally := e.2.tally.filter fun a => !inside (e.1 * 32768 + a.1) }) s
  s.tallies.foldl (fun (s : State) e =>
    if inside e.1 then { s with tallies := tset 0 s.tallies e.1 (if ovf then 0 else e.2 / 2 ^ 48 * 2 ^ 48) } else s) s

/-- A write of `HLTH_TALLY_CLR` whose 64 bits are `v` (R561): with `GO`, it clears a range of tallies. -/
def State.writeTallyClr (s : State) (v : Nat) : State :=
  let s := ((s.wr R.HLTH_TALLY_CLR_FIRST (bits v 0 20)).wr R.HLTH_TALLY_CLR_NUMBER (bits v 32 21)).wr R.HLTH_TALLY_CLR_CLR_OVF (bits v 62 1)
  if bit v 63 then s.clearTallies (bits v 0 20) (bits v 32 21) (bit v 62) else s

/-- `HLTH_TALLY_CLR`: a full write of the register, after which nothing of its high word is staged (R16). -/
def execHlthTallyClr (lo hi : Word) (s : State) : Host.Outcome State Fault Refusal :=
  .next (s.hostAccess .hlth (.hlthTallyClr lo hi) fun s =>
    State.writeTallyClr { s with staged := tset none s.staged (0xE0006C / 4) none } (lo.toNat + hi.toNat * 2 ^ 32))

/-! ## Prediction -/

/-- The key of a head. -/
def headKey (lane head : Nat) : Nat := 64 * lane + head

/-- `HEAD_LIFE_UPDATE` (R562): a head's remaining life is predicted. -/
def State.updateLife (s : State) (lane head : Nat) : State :=
  let life := s.rd (R.HEAD_LIFE_LIFE lane)
  let w := s.headWidth lane
  let lo := lane * 32768 + head * w
  let vs := (s.tallies.filter fun e => decide (lo ≤ e.1) && decide (e.1 < min (lo + w) ((lane + 1) * 32768))).map (·.2)
  let g : Nat := (vs.map (· % 2 ^ 48)).foldl max 0
  let x := tget {} s.hlth.lives (headKey lane head)
  let rho : Int := (g : Int) - (x.prev : Int)
  let mean : Int := match x.mean with
    | none => rho
    | some m => m + sar (rho - m) 3
  let worn := decide (life * 2 ^ 24 ≤ g) || vs.any (bit · 48)
  let left : Nat := if worn then 0 else if mean ≤ 0 then 0xFFFFFFFF else min 0xFFFFFFFF ((life * 2 ^ 24 - g) / mean.toNat)
  let x' : HeadLife := { prev := g, mean := some mean, remain := left, worn := x.worn || worn }
  let s := { s with hlth := { s.hlth with lives := tset {} s.hlth.lives (headKey lane head) x' } }
  s.raiseIf (worn && !x.worn) .hlth 25

def execHeadLifeUpdate (lane : Fin 32) (head : Fin 64) (s : State) : Host.Outcome State Fault Refusal :=
  if s.rd (R.HEAD_LIFE_LIFE lane.val) = 0 ∨ s.headCount lane.val ≤ head.val then .next s else .next (s.updateLife lane.val head.val)

/-- Predicted remaining hours of the device (R563), rounded down or up. -/
def State.ageEol (s : State) (hours d : Nat) : State :=
  if d < 100 ∨ hours < 100 then s.wr R.AGE_EOL_HOURS 0xFFFFFFFF
  else
    let num := hours * 25000 ^ 6
    let q := num / d ^ 6
    let f := s.draw
    let up := if num % d ^ 6 = 0 then 0 else Config.free .ageRound f.1 % 2
    f.2.wr R.AGE_EOL_HOURS (min 0xFFFFFFFF (q + up - hours))

/-- `AGE_MONITOR` (R563): a powered hour has passed, and the sixteen monitors give their drifts in ppm. -/
def execAgeMonitor (drifts : List Nat) (s : State) : Host.Outcome State Fault Refusal :=
  let hour := s.hlth.hourAt + 57600000000000
  let s := s.advance hour
  let s := { s with hlth := { s.hlth with hourAt := hour } }
  let hours := min 0xFFFFFFFF (s.rd R.HLTH_HOURS_HOURS + 1)
  let s := s.wr R.HLTH_HOURS_HOURS hours
  let s := (List.range 16).foldl (fun (s : State) i => s.wr (R.AGE_DRIFT_PPM i) (drifts.getD i 0)) s
  let s := s.ageEol hours ((List.range 16).foldl (fun (m : Nat) i => max m (s.rd (R.AGE_DRIFT_PPM i))) 0)
  let low := decide (s.rd R.AGE_EOL_HOURS < 8760)
  .next ((State.raiseIf { s with hlth := { s.hlth with ageWarned := s.hlth.ageWarned || low } } (low && !s.hlth.ageWarned) .hlth 26))

/-! ## Reading health -/

/-- The record of a head in `HEALTH_READ` (R564). -/
def State.headRecord (s : State) (lane head : Nat) : List Byte :=
  let h := s.head lane
  if s.headCount lane ≤ head then leBytes 8 0
  else
    let x := tget {} s.hlth.lives (headKey lane head)
    leBytes 2 (bits (tget 0 h.temps head) 16 16) ++ leBytes 1 (tget 0 h.vstep head) ++
    leBytes 1 (b2n (tget false h.disabled head) + 2 * b2n (tget false h.sensorBad head) + 4 * b2n x.worn) ++ leBytes 4 x.remain

/-- The health block (R564); `rho` is ρ in 1/64 °C per ms. -/
def State.healthBytes (s : State) (rho : Int) : List Byte :=
  let ign := s.rd R.HLTH_SENSOR_IGN_IGNORED
  ((List.range 64).flatMap fun k => leBytes 2 (if ign.testBit k then 0x8000 else ofS 16 (tget {} s.hlth.sensors k).reading)) ++
  leBytes 8 ign ++ leBytes 8 (s.rd R.HLTH_SENSOR_BAD_BAD) ++ leBytes 2 (ofS 16 s.dieT) ++ leBytes 2 (ofS 16 rho) ++ leBytes 1 s.level ++
  leBytes 1 (min 255 s.hlth.share) ++ leBytes 2 0 ++ leBytes 4 (s.rd R.HLTH_HOURS_HOURS) ++ leBytes 4 (s.rd R.AGE_EOL_HOURS) ++
  ((List.range 16).flatMap fun i => leBytes 4 (s.rd (R.AGE_DRIFT_PPM i))) ++ leBytes 32 0 ++
  ((List.range 32).flatMap fun l => (List.range 64).flatMap fun k => s.headRecord l k)

/-- `HEALTH_READ` (R564). -/
def execHealthRead (h : Hdr) (dst : Nat) (s : State) : Host.Outcome State Fault Refusal :=
  if !s.spells (.healthRead h dst) then .next s else
  .next (s.packet opHealthRead h
    (fun s => rank0 s .hlth (s.badAddr dst 16640) false [(s.dmaFails dst 16640, .dmaError)])
    (fun pk s =>
      let f := s.draw
      let up : Nat := if s.hlth.rise % 4 = 0 then 0 else Config.free .riseRound f.1 % 2
      let s := f.2.writeAt 15 dst (f.2.healthBytes (s.hlth.rise / 4 + up))
      s.complete pk (if 16 < s.ignored then .sensorFault else .ok) [16640]))

end Sys2Proof.Machine
end

