-- ==== Sys2Proof/Machine/Sec.lean ====
section
/-!
DEFINITION. The SEC unit (spec/14): key slots (R567 to R570), firmware images (R571 to R576), the sealed layer (R577 to R585), the audit
packets (R588, R589) and the module's tests (R593 to R598).
-/

namespace Sys2Proof.Machine

/-! ## Key slots -/

/-- The hash in a slot's fuses (R567). -/
def State.slotHash (s : State) (k : Nat) : Nat :=
  match tget none s.sec.hashes k with
  | some h => h
  | none => if k = 0 then Config.slot0Hash else 0

def State.slotUsed (s : State) (k : Nat) : Bool := s.flag (R.SEC_SLOT_PROVISIONED k)
def State.slotFw (s : State) (k : Nat) : Bool := s.flag (R.SEC_SLOT_FW k)
def State.slotSeal (s : State) (k : Nat) : Bool := s.flag (R.SEC_SLOT_SEAL k)
def State.slotRevoked (s : State) (k : Nat) : Bool := s.flag (R.SEC_SLOT_REVOKED k)

/-- The hash of a public key, as the number that its bytes spell. -/
def keyHash (key : List Byte) : Nat := beNat (sha384 key)

/-- A key fits a slot for a use, whether or not the slot is revoked (R568). -/
def State.keyFits (s : State) (k : Nat) (forSeal : Bool) (key : List Byte) : Bool :=
  decide (k < 4) && decide (keyHash key = s.slotHash k) && s.slotUsed k && (if forSeal then s.slotSeal k else s.slotFw k)

/-- A key is accepted (R568): it is kept in the key cache. -/
def State.cacheKey (s : State) (k : Nat) (key : List Byte) : State :=
  State.wr { s with sec := { s.sec with keys := tset [] s.sec.keys k key } } (R.SEC_SLOT_CACHED k) 1

/-- A slot's key leaves the cache. -/
def State.dropKey (s : State) (k : Nat) : State :=
  State.wr { s with sec := { s.sec with keys := tset [] s.sec.keys k [] } } (R.SEC_SLOT_CACHED k) 0

/-- The cached key of a slot, if there is one. -/
def State.cached (s : State) (k : Nat) : List Byte := tget [] s.sec.keys k

/-- Slots that are provisioned and not revoked. -/
def State.slotsLeft (s : State) : Nat := ((List.range 4).filter fun k => s.slotUsed k && !s.slotRevoked k).length

/-- The hash that `SEC_PROG_HASH` holds. -/
def State.progHash (s : State) : Nat := beNat ((List.range 12).flatMap fun w => leBytes 4 (s.rd (R.SEC_PROG_HASH_HASH w)))

/-- A write of `SEC_PROG` (R569, R599): discarded outside TEST; with `GO` an empty slot is programmed, any other is left alone. -/
def State.writeProg (s : State) (v : Nat) : State :=
  if s.dev ≠ devTest then s.access .sec
  else
    let k := v % 4
    let s := ((s.wr R.SEC_PROG_SLOT k).wr R.SEC_PROG_USE_FW (bits v 8 1)).wr R.SEC_PROG_USE_SEAL (bits v 9 1)
    if !bit v 16 then s
    else if s.secErr then s.wr R.SEC_PROG_FAILED 1
    else if s.slotUsed k then
      ((s.wr R.SEC_PROG_FAILED 1).access .sec).audit 10 0 k Status.badParam.code k (bits v 8 2) (beBytes 48 s.progHash)
    else
      let h := s.progHash
      let s := { s with sec := { s.sec with hashes := tset none s.sec.hashes k (some h) } }
      let s := (((s.wr (R.SEC_SLOT_PROVISIONED k) 1).wr (R.SEC_SLOT_FW k) (bits v 8 1)).wr (R.SEC_SLOT_SEAL k) (bits v 9 1)).wr
        R.SEC_PROG_FAILED 0
      s.audit 10 0 k 0 k (bits v 8 2) (beBytes 48 h)

/-- `SEC_PROG`. -/
def execSecProg (v : Word) (s : State) : Host.Outcome State Fault Refusal :=
  .next (s.hostAccess .sec (.secProg v) fun s => s.writeProg v.toNat)

/-- `SEC_SRAM_PARITY` (R597): the affected key leaves the cache; the running image's is restored from its header. -/
def execSecSramParity (slot : Fin 4) (s : State) : Host.Outcome State Fault Refusal :=
  let s := s.dropKey slot.val
  match s.sec.image with
  | some (k, key) => .next (if k = slot.val ∧ !s.slotRevoked k then s.cacheKey k key else s)
  | none => .next s

/-! ## Packets for SEC -/

/-- A key that SEC accepted before it refused the act, for another key's signature, a digest or a security version, is in the cache all the
same (R568). -/
def State.keepKey (s : State) (st : Status) (k : Nat) (forSeal : Bool) (key : List Byte) : State :=
  if (st = .sigInvalid ∨ st = .rollback) ∧ s.keyFits k forSeal key ∧ !s.slotRevoked k then s.cacheKey k key else s

/-- Refusals that SEC itself makes, and that the audit log therefore records (R587). -/
def secRefusal (st : Status) : Bool :=
  decide (st = .badParam) || decide (st = .moduleError) || decide (st = .sigInvalid) || decide (st = .keyRevoked) ||
  decide (st = .rollback) || decide (st = .authRequired)

/-- Run a packet of SEC: as every packet, and `refuse` is done when SEC itself refuses it. -/
def State.secPacket (s : State) (o : OpInfo) (h : Hdr) (reads : List (Nat × Nat)) (chk : State → List (Bool × Status))
    (refuse : Status → State → State) (eff : Pk → State → State) : State :=
  if !s.mayStart h then s
  else
    let p : Pk := ⟨h, o.op, s.pkEpoch⟩
    let s := s.startPk h o.op
    match s.hdrFail o h with
    | some st => s.failPk p st [] []
    | none =>
      let c := firstFail (chk s)
      let s := reads.foldl (fun (s : State) r => s.touch 2 r.1 r.2) s
      match c with
      | some st => (if secRefusal st then refuse st s else s).failPk p st reads []
      | none => eff p s

/-- SEC takes no packet: `UNIT_OFF`, but for a module in its error state, whose services complete with `MODULE_ERROR` (R596). -/
def State.secOff (s : State) : Bool := !s.secErr && !s.accepts .sec

/-! ## Firmware images -/

/-- The header of an image (R571). -/
structure FwHdr where
  slot : Nat
  secver : Nat
  release : Nat
  bodyLen : Nat
  digest : List Byte
  key : List Byte
  sigR : List Byte
  sigS : List Byte
  bad : Bool
deriving DecidableEq, Repr

/-- Read it; `bad` says that a field or a reserved byte breaks the table of R571. -/
def FwHdr.ofBytes (b : List Byte) : FwHdr :=
  { slot := fieldN b 5 1, secver := fieldN b 8 4, release := fieldN b 12 4, bodyLen := fieldN b 16 4,
    digest := (b.drop 24).take 48, key := (b.drop 72).take 97, sigR := (b.drop 176).take 48, sigS := (b.drop 224).take 48,
    bad := decide (fieldN b 0 4 ≠ 0x4D57465A) || decide (fieldN b 4 1 ≠ 1) || decide (3 < fieldN b 5 1) || decide (fieldN b 6 2 ≠ 0) ||
      decide (63 < fieldN b 8 4) || decide (fieldN b 16 4 < 4096) || decide (8388096 < fieldN b 16 4) ||
      decide (fieldN b 16 4 % 4096 ≠ 0) || decide (fieldN b 20 4 ≠ 0) || decide (fieldN b 169 7 ≠ 0) || decide (fieldN b 272 240 ≠ 0) }

/-- The first check of R572 that an image fails, and none when it is valid. -/
def State.imageCheck (s : State) (img : List Byte) : Option Status :=
  let h := FwHdr.ofBytes (img.take 512)
  let body := (img.drop 512).take h.bodyLen
  firstFail [
    (h.bad, .badParam),
    (!s.keyFits h.slot false h.key || !sigVerifies h.key (img.take 176) h.sigR h.sigS || decide (sha384 body ≠ h.digest), .sigInvalid),
    (s.slotRevoked h.slot, .keyRevoked), (decide (h.secver < s.rd R.SEC_STATE_ROLLBACK), .rollback)]

/-- Where a copy starts in the SPI NOR: A at 0, B at 8 MiB. -/
def copyBase (b : Bool) : Nat := if b then 0x800000 else 0

/-- Bytes of the SPI NOR; an erased byte reads 0xFF. -/
def State.norRead (s : State) (a n : Nat) : List Byte := tgets 0xFF#8 s.nor.bytes a n
def State.norWrite (s : State) (a : Nat) (bs : List Byte) : State :=
  { s with nor := { s.nor with bytes := tsets 0xFF#8 s.nor.bytes a bs } }

/-- A copy as it stands in the SPI NOR: header and body. -/
def State.norCopy (s : State) (b : Bool) : List Byte :=
  s.norRead (copyBase b) (512 + min 8388096 (FwHdr.ofBytes (s.norRead (copyBase b) 512)).bodyLen)

/-- `FW_UPDATE` (R576). -/
def execFwUpdate (h : Hdr) (image len : Nat) (s : State) : Host.Outcome State Fault Refusal :=
  if !s.spells (.fwUpdate h image len) then .next s else
  let img := s.bytesAt image len
  let f := FwHdr.ofBytes (img.take 512)
  let r := s.readAt image len
  .next (s.secPacket opFwUpdate h [(image, len)]
    (fun s =>
      let c := s.imageCheck img
      [(badParamOf r || decide (len < 512) || ((okBytes r).length = len && (f.bad || decide (len ≠ 512 + f.bodyLen))), .badParam),
       (s.secOff, .unitOff), (dmaErrorOf r, .dmaError), (poisonedOf r, .poisoned), (s.secErr, .moduleError),
       (decide (c = some .sigInvalid), .sigInvalid), (decide (c = some .keyRevoked), .keyRevoked), (decide (c = some .rollback), .rollback)])
    (fun st s =>
      ((s.keepKey st f.slot false f.key).count R.SEC_COUNTS_FW_REJECTS R.SEC_OVF_FREJ_OVF .sec 1).audit 3 0 f.slot st.code f.release f.secver f.digest)
    (fun pk s =>
      let toB := !s.flag R.SEC_STATE_COPY
      let s := (s.cacheKey f.slot f.key).norWrite (copyBase toB) img
      let s := { s with nor := if toB then { s.nor with failsB := 0 } else { s.nor with failsA := 0 } }
      let s := ((s.wr R.SEC_STATE_STAGED 1).raise .sec 18).audit 3 0 f.slot 0 f.release f.secver f.digest
      s.complete pk .ok [f.release]))

/-! ## The sealed layer -/

/-- What a seal block says (R577). -/
structure SealBlk where
  slot : Nat
  serial : Nat
  len : Nat
  entries : Nat
  contentDigest : List Byte
  tableDigest : List Byte
  key : List Byte
  layer : Layer
  bad : Bool
deriving DecidableEq, Repr

/-- Read it; `bad` says that a field or a reserved byte breaks R577, or the descriptor R578. -/
def SealBlk.ofBytes (b : List Byte) : SealBlk :=
  let l : Layer := { desc := (b.drop 256).take 64, mat := (b.drop 320).take 160, crv := (b.drop 512).take 65536,
                     pal := (b.drop 66048).take 8192 }
  { slot := fieldN b 5 1, serial := fieldN b 8 4, len := fieldN b 12 4, entries := fieldN b 16 4,
    contentDigest := (b.drop 32).take 48, tableDigest := (b.drop 80).take 48, key := (b.drop 128).take 97, layer := l,
    bad := decide (fieldN b 0 4 ≠ 0x4C414553) || decide (fieldN b 4 1 ≠ 1) || decide (3 < fieldN b 5 1) || decide (fieldN b 6 2 ≠ 0) ||
      decide (fieldN b 12 4 < 64) || decide (8388608 < fieldN b 12 4) || decide (fieldN b 16 4 = 0) || decide (fieldN b 20 12 ≠ 0) ||
      decide (fieldN b 225 31 ≠ 0) || decide (fieldN b 480 32 ≠ 0) || decide (l.palAddr ≠ 0) || !l.on ||
      (decide (l.format ≠ 2) && l.pal.any fun x => decide (x ≠ 0#8)) }

/-- The descriptor, the tables or the palette would fail R147, R163 or R164 (R579). -/
def SealBlk.tablesBad (k : SealBlk) (c : Ctx) : Bool :=
  layerBad k.layer c.cols c.colorants || c.pass || matBad k.layer.mat || crvBad k.layer.crv ||
  (decide (k.layer.format = 2) && paletteBad k.layer.pal)

/-- An entry of sealed content breaks R578, its bale R104, or the bale carries `LOSSY` (R579). -/
def sealEntryBad (content : List Byte) (n : Nat) (e : ListEntry) : Bool :=
  let h := BaleHdr.ofBytes ((content.drop e.addr).take 32)
  decide (e.layer ≠ 7) || decide (e.addr % 8 ≠ 0) || decide (e.addr < 32 * n) || decide (content.length < e.addr + e.bytes) ||
  h.bad e.bytes || decide (h.size ≠ e.bytes) || h.lossy

/-- Sealed content breaks R578 or R154 for a page of the descriptor's extent (R579). -/
def State.contentBad (s : State) (k : SealBlk) (content : List Byte) : Bool :=
  let es := readList (content.take (32 * k.entries)) k.entries
  decide (k.len < 32 * k.entries) || es.any (sealEntryBad content k.entries) ||
  listBad s (List.replicate 7 ({} : Layer) ++ [k.layer]) none (k.layer.y0 + k.layer.height * k.layer.scale) es

/-- The KiB that a verified copy takes in the sealed store: the content, and bytes 256 to 74,239 of the block (R581). -/
def SealBlk.kib (k : SealBlk) : Nat := (k.len + 73984 + 1023) / 1024

/-- Copy into the sealed store: one page after the other. -/
def State.fillPages (s : State) (pages : List Nat) (data : List Byte) : State :=
  (pages.zip (chunks 1024 pages.length data)).foldl (fun (s : State) p => s.dramWrite 16 (s.secBase + 1024 * p.1) p.2) s

/-- The sealed layer is accepted (R168, R581, R582). -/
def State.acceptSeal (s : State) (ctx : Nat) (k : SealBlk) (content tables : List Byte) : State :=
  let id := s.sec.nextCopy
  let pages := s.storePages k.kib
  let s := s.fillPages pages (content ++ tables)
  let es := (readList (content.take (32 * k.entries)) k.entries).map fun e => { e with addr := sealAddr id e.addr }
  let s := s.setCtx ctx { (s.ctx ctx) with sealedL := some { layer := k.layer, list := es, id := id, serial := k.serial, slot := k.slot } }
  let s := { s with sec := { s.sec with
    copies := s.sec.copies.filter s.copyHeld ++ [(⟨id, ctx, k.serial, k.slot, pages, k.len⟩ : SealCopy)], nextCopy := id + 1,
    serials := tset 0 s.sec.serials ctx (k.serial + 1) } }
  ((s.count R.SEC_COUNTS_SEALS R.SEC_OVF_SEALS_OVF .sec 1).raise .sec 16).audit 5 ctx k.slot 0 k.serial k.len k.contentDigest

/-- `SEAL_LOAD` (R577 to R581). -/
def execSealLoad (h : Hdr) (content len block : Nat) (sigR sigS : List Byte) (s : State) : Host.Outcome State Fault Refusal :=
  if !s.spells (.sealLoad h content len block sigR sigS) then .next s else
  let c := s.ctx h.ctx
  let blk := s.bytesAt block 74240
  let k := SealBlk.ofBytes blk
  let rb := s.readAt block 74240
  let gotBlk := (okBytes rb).length = 74240
  let signed := s.keyFits k.slot true k.key && sigVerifies k.key (blk.take 128) sigR sigS
  let take := decide gotBlk && signed && decide (len ≤ 8388608)
  let rc := s.readAt content len
  let bytes := if take then s.bytesAt content len else []
  let gotC := take && decide ((okBytes rc).length = len)
  .next (s.secPacket opSealLoad h ((block, 74240) :: (if take then [(content, len)] else []))
    (fun s =>
      [(badParamOf rb || s.badAddr content len ||
          (decide gotBlk && (k.bad || decide (len ≠ k.len) || k.tablesBad c || decide (k.serial < tget 0 s.sec.serials h.ctx) ||
            decide (s.freeKib < k.kib))) || (gotC && s.contentBad k bytes), .badParam),
       (!c.openOrRunning, .ctxState), (s.secOff, .unitOff), (dmaErrorOf rb || (take && dmaErrorOf rc), .dmaError),
       (poisonedOf rb || (take && poisonedOf rc), .poisoned), (s.secErr, .moduleError),
       (!signed || decide (sha384 bytes ≠ k.contentDigest) || decide (sha384 (blk.drop 256) ≠ k.tableDigest), .sigInvalid),
       (s.slotRevoked k.slot, .keyRevoked)])
    (fun st s =>
      (((s.keepKey st k.slot true k.key).count R.SEC_COUNTS_SEAL_REJECTS R.SEC_OVF_SREJ_OVF .sec 1).raise .sec 17).audit 5 h.ctx k.slot st.code k.serial k.len k.contentDigest)
    (fun pk s => ((s.cacheKey k.slot k.key).acceptSeal h.ctx k bytes (blk.drop 256)).complete pk .ok []))

/-! ## Revocation -/

/-- Withdraw the sealed layer of a context (R584). -/
def State.withdrawSeal (s : State) (ctx : Nat) (x : SealedSt) : State :=
  ((s.setCtx ctx { (s.ctx ctx) with sealedL := some { x with layer := {}, list := [], withdrawn := true } }).raise .sec 22).audit
    8 ctx x.slot 0 x.serial 0 []

/-- Every current sealed layer that was verified with a slot's key is withdrawn (R584). -/
def State.withdrawSlot (s : State) (k : Nat) : State :=
  s.ctxs.foldl (fun (s : State) e => match e.2.sealedL with
    | some x => if x.slot = k ∧ !x.withdrawn then s.withdrawSeal e.1 x else s
    | none => s) s

/-- The message of `KEY_REVOKE` breaks its layout (R570). -/
def revokeMsgBad (slot : Nat) (msg : List Byte) : Bool :=
  decide (msg.length ≠ 32) || decide (fieldN msg 0 4 ≠ 0x45564B52) || decide (fieldN msg 4 1 ≠ slot) || decide (fieldN msg 5 3 ≠ 0) ||
  decide (fieldN msg 8 8 ≠ Config.deviceId) || decide (fieldN msg 16 16 ≠ 0)

/-- The slots whose cached keys may sign a revocation of a slot (R570). -/
def State.revokers (s : State) (slot : Nat) : List Nat :=
  (List.range 4).filter fun k => !(s.cached k).isEmpty && (decide (k = slot) || (s.slotFw k && !s.slotRevoked k))

/-- No unrevoked slot with `FW` would be left (R570). -/
def State.lastFw (s : State) (slot : Nat) : Bool :=
  !(List.range 4).any fun k => decide (k ≠ slot) && s.slotUsed k && s.slotFw k && !s.slotRevoked k

/-- `KEY_REVOKE` (R570, R584). -/
def execKeyRevoke (h : Hdr) (slot : Nat) (sigR sigS msg : List Byte) (s : State) : Host.Outcome State Fault Refusal :=
  if !s.spells (.keyRevoke h slot sigR sigS msg) then .next s else
  .next (s.secPacket opKeyRevoke h []
    (fun s =>
      [(decide (3 < slot) || revokeMsgBad slot msg || s.lastFw slot, .badParam), (s.secOff, .unitOff), (s.secErr, .moduleError),
       ((s.revokers slot).isEmpty, .authRequired),
       (!(s.revokers slot).any fun k => sigVerifies (s.cached k) msg sigR sigS, .sigInvalid), (s.slotRevoked slot, .keyRevoked)])
    (fun st s => s.audit 9 0 slot st.code slot s.slotsLeft [])
    (fun pk s =>
      let s := (s.wr (R.SEC_SLOT_REVOKED slot) 1).dropKey slot
      let s := ((s.raise .sec 19).audit 9 0 slot 0 slot s.slotsLeft []).withdrawSlot slot
      s.complete pk .ok [s.slotsLeft]))

/-! ## The log and the tests -/

/-- `AUDIT_READ` (R588); a poisoned word in the ring puts the module in its error state (R598). -/
def execAuditRead (h : Hdr) (dst first most : Nat) (s : State) : Host.Outcome State Fault Refusal :=
  if !s.spells (.auditRead h dst first most) then .next s else
  let rs := (s.sec.audit.filter fun r => decide (first ≤ fieldN r 0 8)).take most
  let len := 160 * rs.length
  .next (s.packet opAuditRead h
    (fun s => [(s.badAddr dst (160 * most), .badParam), (s.secOff, .unitOff), (s.dmaFails dst len, .dmaError), (s.secErr, .moduleError)])
    (fun pk s =>
      if s.secPoison (s.secBase + storeBytes) ringBytes then (s.secError 0).complete pk .moduleError []
      else (s.writeAt 16 dst (rs.flatMap id)).complete pk .ok
        (words64 rs.length ++ words64 (if rs.isEmpty then s.auditIndex else fieldN (rs.getLastD []) 0 8))))

/-- The module runs its four tests (R593, R594, R596): `fails` are those that fail. -/
def State.moduleTests (s : State) (fails : Nat) : State :=
  let bad := popc 4 fails
  let s := s.audit 2 0 255 (if bad = 0 then 0 else Status.moduleError.code) (4 - bad) bad []
  if bad = 0 then s.wr R.SEC_STATE_MSTATE 1 else s.secError ((maskList 4 fails).headD 0 + 1)

/-- `SEC_SELF_TEST` (R594, R596): `fails` are the tests that fail. -/
def execSecSelfTest (h : Hdr) (fails : BitVec 4) (s : State) : Host.Outcome State Fault Refusal :=
  if !s.spells (.secSelfTest h fails) then .next s else
  .next (s.secPacket opSecSelfTest h [] (fun s => [(s.secOff, .unitOff), (s.secErr, .moduleError)]) (fun _ s => s)
    (fun pk s => (s.moduleTests fails.toNat).complete pk (if fails = 0#4 then .ok else .moduleError) [4 - popc 4 fails.toNat]))

/-- The captured chain value, or the live one before the first capture (R589). -/
def State.chainView (s : State) : List Byte := s.sec.chainCap.getD s.sec.chain

/-- A read of the low word of `SEC_AUDIT_INDEX` (R15, R589): high word and chain value are captured with it. -/
def State.readAuditIndex (s : State) : State :=
  { s with sec := { s.sec with chainCap := some s.sec.chain },
           captured := tset none s.captured ((R.SEC_AUDIT_INDEX_INDEX.addr + 4) / 4) (some (s.auditIndex / 2 ^ 32)) }

/-- A `RESET` of SEC (R34, R596): registers at reset values but for what fuses, boot record and image give; the sealed store and the log
lie outside the module and stay; the tests run again, and the running image's key is cached again. -/
def State.resetSec (s : State) (fails : Nat) : State :=
  let s := (List.range 4).foldl (fun (s : State) k => s.dropKey k) s
  let s := s.wr R.SEC_STATE_MSTATE 0
  s.moduleTests fails

end Sys2Proof.Machine
end

