-- ==== Sys2Proof/Machine/Wires.lean ====
section
/-!
DEFINITION. What the lane macro's receivers report (R225 to R227, R239), on every lane, and the writes of `LANE_CTRL` that train a lane
(R230, R236).
-/

namespace Sys2Proof.Machine

/-- A head lane that is UP loses block lock: it carries no traffic until R269 lets it (R268, R269). -/
def State.headLost (s : State) (n : Fin 32) : State :=
  if s.lstate (.head n) = 5 then s.interrupt n.val else s

/-- What the loss of block lock means to the lane's group: a head lane stops carrying, a camera lane and an Ethernet port go down (R269,
R333, R385, R445). -/
def State.lockGone (s : State) (l : LaneId) : State :=
  match l with
  | .head n => s.headLost n
  | .cam n => s.camDown n.val
  | .eth n => s.ethLink n.val false
  | .yoke _ => s

/-- `BLOCK_LOCK` (R225, R230): 64 valid sync headers have come in a row, so the receiver has lock, a signal, and a clock within the rate. -/
def execBlockLock (l : LaneId) (s : State) : Host.Outcome State Fault Refusal :=
  if !s.clocked then .next s else
  let s := s.setLane l { (s.lane l) with badAges := [], lockAt := s.now }
  .next ((((s.wr (R.LANE_STATUS_BLOCK_LOCK l.b) 1).wr (R.LANE_STATUS_CDR_LOCK l.b) 1).wr (R.LANE_STATUS_SIGNAL l.b) 1).lockInTraining l)

/-- Block lock is lost (R225, R226): the receiver searches again. -/
def State.loseLock (s : State) (l : LaneId) : State :=
  let s := s.count (R.LANE_EVENTS_LOCK_LOSS l.b) (R.LANE_OVF_LOCK_OVF l.b) l.node 1
  let s := s.setLane l { (s.lane l) with badAges := [] }
  ((s.wr (R.LANE_STATUS_BLOCK_LOCK l.b) 0).raise l.node 17).lockGone l

/-- `LOCK_LOSS` (R226): the recovered clock has left the rate (`clock`), or block lock is lost, at `t`. -/
def execLockLoss (l : LaneId) (clock : Bool) (t : Nat) (s : State) : Host.Outcome State Fault Refusal :=
  if !s.clocked then .next s else
  let s := s.advance t
  if clock then
    .next (((s.count (R.LANE_EVENTS_LOCK_LOSS l.b) (R.LANE_OVF_LOCK_OVF l.b) l.node 1).wr (R.LANE_STATUS_CDR_LOCK l.b) 0).raise l.node 17)
  else .next (s.loseLock l)

/-- `LOS` (R226): the amplitude detector reports loss of signal, or clears it, at `t`. -/
def execLos (l : LaneId) (on : Bool) (t : Nat) (s : State) : Host.Outcome State Fault Refusal :=
  if !s.clocked then .next s else
  let s := s.advance t
  if on then .next (((s.count (R.LANE_EVENTS_LOS l.b) (R.LANE_OVF_LOS_OVF l.b) l.node 1).wr (R.LANE_STATUS_SIGNAL l.b) 0).raise l.node 16) else .next (s.wr (R.LANE_STATUS_SIGNAL l.b) 1)

/-- `BER_LIMIT` (R227). -/
def State.berLimit (s : State) (l : LaneId) : Nat := max 1 (s.rd (R.LANE_BER_CFG_BER_LIMIT l.b))

/-- An invalid sync header, `good` valid ones after the one before (R225, R227, R230): it counts, `HI_BER` is set when the window's count
reaches the limit, the count of clean blocks begins again, and the sixteenth of 64 headers loses lock. -/
def State.badHeader (s : State) (l : LaneId) (good : Nat) : State :=
  let s := s.count (R.LANE_ERR_SH_COUNT l.b) (R.LANE_OVF_SH_OVF l.b) l.node 1
  let t := s.lane l
  let ages := 0 :: ((t.badAges.map (· + good + 1)).filter fun a => decide (a < 64))
  let n := t.berCount + 1
  let s := s.setLane l { t with badAges := ages, berCount := n, cleanAt := s.now }
  let s := if s.berLimit l ≤ n ∧ !s.flag (R.LANE_STATUS_HI_BER l.b) then (s.wr (R.LANE_STATUS_HI_BER l.b) 1).raise l.node 18 else s
  if 16 ≤ ages.length ∧ s.flag (R.LANE_STATUS_BLOCK_LOCK l.b) then s.loseLock l else s

/-- The end of a window of 65,536 blocks (R227): the count begins again, and one below the limit clears `HI_BER`. -/
def State.berEnd (s : State) (l : LaneId) : State :=
  let n := (s.lane l).berCount
  let s := s.setLane l { (s.lane l) with berCount := 0 }
  if n < s.berLimit l then s.wr (R.LANE_STATUS_HI_BER l.b) 0 else s

/-- `BER_WINDOW` (R227): the last block of a window comes at `t`; `last` says, where its header is invalid, how many valid ones came after
the invalid one before. -/
def execBerWindow (l : LaneId) (last : Option Nat) (t : Nat) (s : State) : Host.Outcome State Fault Refusal :=
  if !s.clocked then .next s else
  match last with
  | some g => .next (((s.advance t).badHeader l g).berEnd l)
  | none => .next ((s.advance t).berEnd l)

/-- `INVALID_BLOCK` (R225, R227, R239, R446): a block with an invalid sync header, after `good` valid ones, or, with none, a control block of
unknown type. -/
def execInvalidBlock (l : LaneId) (good : Option Nat) (s : State) : Host.Outcome State Fault Refusal :=
  if !s.clocked then .next s else
  match good with
  | some g => .next (s.badHeader l g)
  | none => .next (s.count (R.LANE_ERR_TYPE_COUNT l.b) (R.LANE_OVF_TYPE_OVF l.b) l.node 1)

/-- `LANE_CTRL_START` (R230): camera and Ethernet lanes ignore it (R334, R446). -/
def execLaneCtrlStart (l : LaneId) (s : State) : Host.Outcome State Fault Refusal :=
  .next (s.hostAccess l.node (.laneCtrlStart l) fun s => s.writeStart l)

/-- A write of `RATE`: a head lane takes it, and a training at the other rate starts again (R236); an Ethernet lane takes it while its
node is OFF (R444); camera and yoke lanes ignore it (R334, R504). -/
def State.writeRate (s : State) (l : LaneId) (rate : Bool) : State :=
  match l with
  | .head _ =>
    let s := s.wrB (R.LANE_CTRL_RATE l.b) rate
    if s.training l && decide ((s.lane l).target ≠ b2n rate) then s.abortTrain l (b2n rate) else s
  | .eth _ => if s.enabled l.node || decide (s.mode l.node ≠ .normal) then s.access l.node else s.wrB (R.LANE_CTRL_RATE l.b) rate
  | .cam _ => s
  | .yoke _ => s

/-- `LANE_RATE_WRITE`. -/
def execLaneRateWrite (l : LaneId) (rate : Bool) (s : State) : Host.Outcome State Fault Refusal :=
  .next (s.hostAccess l.node (.laneRateWrite l rate) fun s => s.writeRate l rate)

end Sys2Proof.Machine
end

