-- ==== Sys2Proof/Machine/Sys.lean ====
section
/-!
DEFINITION. The SYS unit (spec/15): resets (R605 to R609), the boot to ready (R571 to R575, R610 to R613), device states (R614, R615), sleep
and wake (R616 to R621), and the loss of a reference clock (R42).
-/

namespace Sys2Proof.Machine

/-! ## Resets -/

/-- Clear the MSI-X table and its pending bits (R608). -/
def State.clearMsix (s : State) : State :=
  { s with regs := s.regs.filter fun e => !(decide (0x8000 * 1024 ≤ e.1) && decide (e.1 < 0xA000 * 1024)) }

/-- A reset of scope full (R608), with its cause: everything is at its reset value but the fuses, the SPI NOR with the boot record, the
pins, and what lies outside the device. -/
def State.fullReset (s : State) (cause : Nat) : State :=
  let z : State := { State.reset with
    pending := s.pending, fresh := s.fresh, sent := s.sent, host := s.host, hostMarks := s.hostMarks, nor := s.nor,
    sec := { State.reset.sec with hashes := s.sec.hashes },
    sysr := { State.reset.sysr with porLow := s.sysr.porLow, perstLow := s.sysr.perstLow, perstFull := s.sysr.perstLow } }
  let z := (List.range 4).foldl (fun (z : State) k =>
    (((z.wrB (R.SEC_SLOT_PROVISIONED k) (s.slotUsed k)).wrB (R.SEC_SLOT_FW k) (s.slotFw k)).wrB (R.SEC_SLOT_SEAL k) (s.slotSeal k)).wrB
      (R.SEC_SLOT_REVOKED k) (s.slotRevoked k)) z
  (((z.wr R.SEC_STATE_ROLLBACK (s.rd R.SEC_STATE_ROLLBACK)).wr R.SEC_BOOT_COUNT (s.rd R.SEC_BOOT_COUNT)).wr R.HLTH_HOURS_HOURS
    (s.rd R.HLTH_HOURS_HOURS)).wr R.SYS_DEV_RESET_CAUSE cause

/-! ## The boot -/

/-- The board configuration record in the SPI NOR (R612). -/
def State.boardRecord (s : State) : List Byte := s.norRead 0x1010000 64

/-- It fails R613. -/
def boardBad (b : List Byte) : Bool :=
  decide (fieldN b 0 4 ≠ 0x4743425A) || decide (fieldN b 4 1 ≠ 1) || decide (fieldN b 5 1 % 4 = 0) || decide (8 ≤ fieldN b 5 1) ||
  decide (64 ≤ fieldN b 6 1) || bit (fieldN b 7 1) 3 || bit (fieldN b 7 1) 7 || decide (2 ≤ fieldN b 20 1) || decide (fieldN b 21 39 ≠ 0) ||
  decide (fieldN b 60 4 ≠ crc32c (b.take 60))

/-- Take the fields of the record (R389, R404, R612): the channels with their density, the addresses of the ports, the scope of
`PERST_N`. -/
def State.takeBoard (s : State) (b : List Byte) : State :=
  let d := fieldN b 5 1
  let chs := if d % 4 = 1 then [0] else if d % 4 = 2 then [0, 1] else [0, 1, 2, 3]
  let big := bit d 2
  let s := chs.foldl (fun (s : State) c =>
    (((s.wr (R.MEM_CH_CFG_POPULATED c) 1).wrB (R.MEM_CH_CFG_DENSITY c) big).wr (R.MEM_CH_CFG_CAP_GIB c) (if big then 16 else 8)).wr
      (R.MEM_CH_CFG_TRFC_NS c) (if big then 295 else 195)) s
  (((s.wr (R.ETH_MAC_ADDR 0) (fieldN b 8 6)).wr (R.ETH_MAC_ADDR 1) (fieldN b 14 6)).wr R.SYS_BOARD_RECORD_OK 1).wr R.SYS_BOARD_PERST_SCOPE
    (fieldN b 20 1 % 2)

/-- Failures of a copy (R573). -/
def State.fails (s : State) (b : Bool) : Nat := if b then s.nor.failsB else s.nor.failsA
def State.setFails (s : State) (b : Bool) (n : Nat) : State :=
  { s with nor := if b then { s.nor with failsB := n } else { s.nor with failsA := n } }

/-- Which copy boots (R573): among the valid ones that have not failed twice, by security version, release, and copy A first. -/
def State.chooseCopy (s : State) : Option Bool :=
  let ok (b : Bool) : Bool := (s.imageCheck (s.norCopy b)).isNone && decide (s.fails b < 2)
  let a := FwHdr.ofBytes (s.norRead (copyBase false) 512)
  let b := FwHdr.ofBytes (s.norRead (copyBase true) 512)
  if ok false && ok true then
    some (decide (a.secver < b.secver) || (decide (a.secver = b.secver) && decide (a.release < b.release)))
  else if ok false then some false else if ok true then some true else none

/-- No copy can boot (R575): SEC reports FAULTED with the status of the last check that failed. -/
def State.noImage (s : State) : State :=
  let st := match s.imageCheck (s.norCopy true) with
    | some st => st
    | none => (s.imageCheck (s.norCopy false)).getD .ok
  (s.boot .stuck).faultNode .sec st

/-- The chosen copy is loaded and runs (R573, R587), and the board configuration record is read (R610, R613). -/
def State.loadImage (s : State) (b : Bool) : State :=
  let f := FwHdr.ofBytes (s.norRead (copyBase b) 512)
  let s := s.cacheKey f.slot f.key
  let s := { s with sec := { s.sec with image := some (f.slot, f.key) }, sysr := { s.sysr with secver := f.secver } }
  let s := ((s.wrB R.SEC_STATE_COPY b).wr R.SEC_RELEASE_RELEASE f.release).audit 1 0 f.slot 0 f.release (b2n b) f.digest
  let rec' := s.boardRecord
  if boardBad rec' then (s.boot .stuck).wr (R.UNIT_FAULT_CODE Node.sys.base) Status.badParam.code
  else (s.takeBoard rec').boot .training

/-- The boot ROM runs (R573, R593, R610): the module's tests; when all pass, the boot count, and the choice among the copies. -/
def State.bootRom (s : State) (b : BootIn) : State :=
  let s := { s with now := 0 }
  let s := b.prog.foldl (fun (s : State) p => s.norWrite p.1 p.2) s
  if b.fails ≠ 0#4 then (s.boot .stuck).moduleTests b.fails.toNat
  else
    let s := (s.count R.SEC_BOOT_COUNT R.SEC_OVF_BOOT_OVF .sec 1).moduleTests 0
    match s.chooseCopy with
    | none => s.noImage
    | some c => s.loadImage c

/-- A full reset is released unless a pin still holds it (R609). -/
def State.release (s : State) (b : BootIn) : State :=
  if s.sysr.porLow || (s.sysr.perstLow && s.sysr.perstFull) then s else s.bootRom b

/-- `POWER_ON_RESET` (R607, R608): `POR_N` has been low for 10 µs. -/
def execPowerOnReset (s : State) : Host.Outcome State Fault Refusal :=
  .next (State.fullReset { s with sysr := { s.sysr with porLow := true } } 0)

/-- `POR_N_RELEASE` (R610). -/
def execPorNRelease (b : BootIn) (s : State) : Host.Outcome State Fault Refusal :=
  if s.sysr.porLow then .next (State.release { s with sysr := { s.sysr with porLow := false } } b) else .next s

/-- `BROWN_OUT` (R605, R608): a rail has been below its range for 1 µs outside retention; the board's power-good input ends it. -/
def execBrownOut (s : State) : Host.Outcome State Fault Refusal :=
  .next (State.fullReset { s with sysr := { s.sysr with porLow := true } } 4)

/-- A `RESET` of CMD (R72, R87): every ring node returns to OFF, and completions of packets in flight are lost; contexts stay. -/
def State.resetCmd (s : State) : State :=
  let lo := 0x100000 * 1024
  let hi := 0x200000 * 1024
  let keep := fun (t : Tbl Nat) => t.filter fun e => !(decide (lo ≤ e.1) && decide (e.1 < hi))
  { s with
    regs := s.regs.filter fun e => !(decide (lo ≤ e.1) && decide (e.1 < hi)) || decide (e.1 / 1024 % 1024 = 0x20 ∧ 16 ≤ e.1 % 1024),
    locked := s.locked.filter fun e => !(decide (0x100000 ≤ e.1) && decide (e.1 < 0x200000)),
    captured := s.captured.filter fun e => !(decide (0x40000 ≤ e.1) && decide (e.1 < 0x80000)),
    staged := s.staged.filter fun e => !(decide (0x40000 ≤ e.1) && decide (e.1 < 0x80000)),
    events := keep (s.events.map fun e => (e.1 * 1024, e.2)) |>.map fun e => (e.1 / 1024, e.2),
    modes := s.modes.filter fun e => !(decide (0x100000 ≤ e.1) && decide (e.1 < 0x200000)),
    heldCtrl := s.heldCtrl.filter fun e => !(decide (0x100000 ≤ e.1) && decide (e.1 < 0x200000)),
    rings := [], arbRing := 255, arbLeft := 0, pkEpoch := s.pkEpoch + 1 }

/-- A reset of scope link (R608): the configuration space, the MSI-X table and CMD. -/
def State.linkReset (s : State) : State := (State.clearMsix { s with sysr := { s.sysr with pcie := {} } }.resetCmd).wr R.SYS_DEV_RESET_CAUSE 1

/-- `PERST_N_LOW` (R608, R609): scope link with record scope 1, else full; during a reset in progress it only prolongs it. -/
def execPerstNLow (s : State) : Host.Outcome State Fault Refusal :=
  if s.sysr.perstLow then .next s
  else
    let held := s.sysr.porLow
    let s := { s with sysr := { s.sysr with perstLow := true, perstFull := held } }
    if held then .next s
    else if s.flag R.SYS_BOARD_PERST_SCOPE then .next s.linkReset
    else .next (s.fullReset 1)

/-- `PERST_N_RELEASE` (R609, R611): the link trains; a full reset that nothing else holds is released, a link reset raises
`LINK_RESET`. -/
def execPerstNRelease (b : BootIn) (s : State) : Host.Outcome State Fault Refusal :=
  if !s.sysr.perstLow then .next s
  else
    let full := s.sysr.perstFull
    let s := { s with sysr := { s.sysr with perstLow := false, perstFull := false, refLost := false } }
    if full then .next (s.release b) else .next (s.raise .sys 19)

/-- `TEST_LOGIC_RESET` (R608): boundary-scan logic only, of which the state holds nothing. -/
def execTestLogicReset (s : State) : Host.Outcome State Fault Refusal := .next s

/-- `PCIE_REFERENCE_LOSS` (R42): the link goes down; lines go on. -/
def execPcieReferenceLoss (s : State) : Host.Outcome State Fault Refusal :=
  .next { s with sysr := { s.sysr with refLost := true } }

/-- `ROOT_LOSS` (R42, R550): ROOT has been absent for 1 µs at `t`. -/
def execRootLoss (t : Nat) (s : State) : Host.Outcome State Fault Refusal :=
  let s := (s.advance t).squelchAll
  .next (State.faultSys { s with hlth := { s.hlth with rootLost := true } } .rootLoss)

/-- A reset that SYS makes of itself (R608, R609): the `RESET` in its `UNIT_CTRL`, or the boot watchdog; the configuration space stands. -/
def State.selfReset (s : State) (cause : Nat) (b : BootIn) : State :=
  let p := s.sysr.pcie
  let s := (s.fullReset cause).release b
  { s with sysr := { s.sysr with pcie := p } }

/-- `BOOT_WATCHDOG` (R573): SYS has not reached ready within 5.0 s of the load. -/
def execBootWatchdog (b : BootIn) (s : State) : Host.Outcome State Fault Refusal :=
  if s.sysr.stage = .training ∨ s.sysr.stage = .filling ∨ s.sysr.stage = .filled ∨ (s.sysr.stage = .stuck ∧ s.sec.image.isSome) then
    let c := s.flag R.SEC_STATE_COPY
    .next ((s.setFails c (s.fails c + 1)).selfReset 3 b)
  else .next s

/-- `READY` (R573, R574, R605, R610, R634, R635), at `t`. -/
def execReady (t : Nat) (s : State) : Host.Outcome State Fault Refusal :=
  if s.sysr.stage ≠ .filled ∨ s.dev ≠ devNotReady then .next s
  else
    let s := (s.advance t).boot .ready
    let s := (s.wr R.SYS_DEV_READY_MS (min 65535 (s.now / 16000000))).wr R.SYS_DEV_DEV_STATE devRun
    let s := s.setFails (s.flag R.SEC_STATE_COPY) 0
    let old := s.rd R.SEC_STATE_ROLLBACK
    let s := if old < s.sysr.secver then
        (s.wr R.SEC_STATE_ROLLBACK s.sysr.secver).audit 4 0 255 0 s.sysr.secver old []
      else s
    .next ((s.raise .sys 16).raiseIf (decide (s.rd R.SYS_DEV_RESET_CAUSE = 4)) .sys 18)

/-! ## Device states -/

/-- What the table of R614 requires for SLEEP. -/
def State.maySleep (s : State) : Bool :=
  decide (s.dev = devRun) && !s.printing && !(List.finRange 8).any (fun n => decide (s.ownState (.axis n) = .active)) &&
  decide (s.rd R.YOKE_STATE_ROLE = 0) && s.gl.run.isNone

/-- The device state that `SYS_STATE` leads to (R614), if the change is allowed. -/
def State.newState (s : State) (target : Nat) : Option Nat :=
  if target = 0 then (if s.dev = devRun ∨ s.dev = devTest then some devRun else none)
  else if target = 1 then (if s.maySleep then some devSleep else none)
  else if s.dev = devTest then some devTest
  else if s.dev = devRun ∧ s.openCtxs.isEmpty then some devTest
  else none

/-! ## Sleep and wake -/

/-- `SLEEP_ENTRY_DONE` (R616, R620), at `t`: accumulators are flushed, lanes are in RESET, channels in self-refresh, `VSRAM_RET` is
asserted, and the clocks stop. -/
def execSleepEntryDone (t : Nat) (s : State) : Host.Outcome State Fault Refusal :=
  if s.dev ≠ devSleep ∨ !s.sysr.entering then .next s
  else
    let s := (List.range 32).foldl (fun (s : State) l => s.flushTally l) (s.advance t)
    let s := s.squelchAll
    let s := s.channels.foldl (fun (s : State) c => s.wr (R.MEM_CH_STATUS_SELF_REFRESH c) 1) s
    .next { s with sysr := { s.sysr with entering := false, vsramRet := true, sleepAt := s.now, waking := s.sysr.wakeWaits, wakeWaits := false } }

/-- `WAKE` (R619): the pin has been high for 1 µs at `t`. -/
def execWake (t : Nat) (s : State) : Host.Outcome State Fault Refusal := .next ((s.advance t).startWake)

/-- What a wake leaves (R409, R621). -/
def State.wakeUp (s : State) : State :=
  let s := { s with sysr := { s.sysr with waking := false, vsramRet := false } }
  let s := s.channels.foldl (fun (s : State) c => s.wr (R.MEM_CH_STATUS_SELF_REFRESH c) 0) s
  let s := (List.range 4).foldl (fun (s : State) c => (s.setEnc c { cfgPk := (s.enc c).cfgPk, cfgAt := (s.enc c).cfgAt }).wr (R.ENC_STATUS_TYPE c) 7) s
  let s := (List.finRange 8).foldl (fun (s : State) n =>
    ((s.bridgesOff n.val).wr (R.AX_STATUS_HOMED (Node.axis n).base) 0).wr (R.UNIT_CTRL_ENABLE (Node.axis n).base) 0) s
  let s := (List.range 4).foldl (fun (s : State) b => s.wr (R.TB_STATE_SYNCED b) 0) s
  let s := s.wr R.SYS_DEV_DEV_STATE devRun
  let s := if s.ptpClock = 0 then s else (ptpPorts s.ptpClock).foldl State.startPort s
  s.raise .sys 17

end Sys2Proof.Machine
end

