-- ==== Sys2Proof/Machine/View.lean ====
section
/-!
DEFINITION. What a read of a register field gives: the field's own value where the register is its home, and for a field that only
shows other state the value computed from that state (the register tables of spec/01 to spec/15).
-/

namespace Sys2Proof.Machine

/-- A mask of the numbers below `n` for which a test holds. -/
def maskOf (n : Nat) (p : Nat → Bool) : Nat := ((List.range n).map fun i => b2n (p i) * 2 ^ i).sum

/-- The header of a node (R28 to R31, R37): `off` from the node's base, `lo` the field's lowest bit. -/
def State.headerView (s : State) (n : Node) (off lo : Nat) : Option Nat :=
  if off = 0x00 then some (if lo = 16 then n.kind else if lo = 8 then n.instance' else 1)
  else if off = 0x04 then some (if lo = 16 then n.children.length else n.strideKib)
  else if off = 0x08 then some n.childBase
  else if off = 0x0C then some n.sizeKib
  else if off = 0x14 then some (s.nodeState n).code
  else if off = 0x18 then some (s.eventsOf n / 2 ^ lo)
  else none

/-- `RXEQ` of a lane whose receiver has trained: no rule gives its values, so they are free. -/
def State.rxEq (s : State) (l : LaneId) (lo : Nat) : Nat :=
  if s.lstate l = 0 ∨ s.lstate l = 6 then 0 else Config.free .rxEq (l.node.base * 32 + lo + s.now * 2 ^ 32)

/-- The fields of a lane node that show other state. -/
def State.laneView (s : State) (l : LaneId) (off lo : Nat) : Option Nat := if off = 0x4C then some (s.rxEq l lo) else none

/-- An active synthesizer has no prediction of its next line and waits for the crossing (R304, R312). -/
def State.synWaiting (s : State) (g : Nat) : Bool :=
  s.flag (R.SYN_STATE_ACTIVE g) && (s.crossing (s.rd (R.SYN_STATE_CHANNEL g)) (s.syn g).acc).isNone

/-- The fields of FIRE that show other state (register tables of spec/07). -/
def State.fireView (s : State) (off lo : Nat) : Option Nat :=
  if off = 0x48 then some (s.now / 16)
  else if off < 0x400 then
    let ch := (off - 0x100) / 0x80
    let r := (off - 0x100) % 0x80
    if off < 0x100 then none
    else if r = 0x10 then some (ofS 64 (s.encSpeedReg ch s.now))
    else if r = 0x20 ∧ lo = 6 then some (b2n (s.encM ch s.now))
    else if r = 0x18 then some (ofS 64 ((s.enc ch).webNm (s.encPos ch)))
    else none
  else if off < 0xC00 then
    let g := (off - 0x400) / 0x40
    if off % 0x40 = 0 ∧ lo = 8 then some (s.groupOwner g)
    else if off % 0x40 = 0 ∧ lo = 5 then some (b2n (s.synWaiting g))
    else none
  else if off < 0xE00 then
    let q := (s.cmp ((off - 0xC00) / 0x20)).queue
    if off % 0x20 = 0 ∧ lo = 8 then some q.length
    else if off % 0x20 = 8 then some (match q with | [] => 0 | x :: _ => ofS 64 x.target)
    else none
  else if off < 0xE80 then
    if off % 0x10 = 0 ∧ lo = 24 then some (s.latch ((off - 0xE00) / 0x10)).records.length else none
  else none

/-- The fields of the other units that show other state (register tables of spec/03 to spec/14). -/
def State.unitView (s : State) (n : Node) (off lo : Nat) : Option Nat :=
  match n with
  | .bale =>
    if off = 0x40 then
      some (if lo = 8 then ((List.range 32).filter fun k => !(s.handle k).held && !(s.handle k).busy).length
            else 64 - min 64 (3 * s.holders.length + (s.holdings.map fun e => e.2.slots).sum))
    else none
  | .comp =>
    if off = 0x58 then some ((s.compLoad + 999999) / 1000000)
    else if 0x1000 ≤ off ∧ off % 0x10 = 4 then
      let c := s.ctx ((off - 0x1000) / 0x10)
      some (if c.st = .closed then 0 else c.depth)
    else none
  | .scrn =>
    if off = 0x48 then some (maskOf 33 fun k => decide (s.mode (.slice (Fin.ofNat 33 k)) = .faulted))
    else if off = 0x70 then some s.retain
    else none
  | .slice k => if off = 0x40 then some (if (s.slice k.val).shadows.isSome then 0xFE else (s.slice k.val).lane.getD 0xFF) else none
  | .head k => s.laneView (.head k) off lo
  | .cam k => s.laneView (.cam k) off lo
  | .port k => s.laneView (.eth k) off lo
  | .ylane k => s.laneView (.yoke k) off lo
  | .fire => s.fireView off lo
  | .insp => if off = 0x58 then some s.inspLoad else none
  | .mem =>
    if off = 0x4C then
      (if lo = 12 then some (maskOf 4 fun c => s.flag (R.MEM_CH_STATUS_HOT c))
       else if lo = 8 then some (maskOf 4 fun c => s.flag (R.MEM_CH_STATUS_SELF_REFRESH c))
       else if lo = 4 then some (maskOf 4 fun c => s.flag (R.MEM_CH_STATUS_TRAINED c))
       else if lo = 0 then some (maskOf 4 fun c => s.flag (R.MEM_CH_CFG_POPULATED c))
       else none)
    else if off = 0x54 then some s.retired.length
    else none
  | .time =>
    if 0x400 ≤ off ∧ off < 0x480 ∧ off % 0x10 = 0 then
      let x := (s.pls ((off - 0x400) / 0x10)).sched
      (if lo = 6 then some (b2n x.isSome)
       else if lo = 4 then some (match x with | some y => y.base | none => 0)
       else none)
    else none
  | .yoke =>
    if off = 0x44 then
      (if lo = 16 then some (maskOf 4 fun k => decide (s.lstate (.yoke (Fin.ofNat 4 k)) = 5))
       else if lo = 7 then some (b2n s.ownsOutputs)
       else none)
    else none
  | .hlth =>
    if off = 0x44 then
      (if lo = 4 then some (b2n s.stopAsserted)
       else if lo = 3 then some (b2n s.hlth.rootLost)
       else if lo = 2 then some (b2n s.stopEncoder)
       else if lo = 1 then some (b2n s.stopUnderrun)
       else if lo = 0 then some (b2n s.stopThermal)
       else none)
    else none
  | .sec =>
    if off = 0x58 then some Config.deviceId
    else if off = 0x68 then some s.auditIndex
    else if 0x80 ≤ off ∧ off < 0xB0 then some (fieldN s.chainView (off - 0x80) 4)
    else if off = 0xFC then some s.freeKib
    else none
  | _ => none

/-- The value of a field: `f` of the register at `off` of node `n`, as a read shows it. -/
def State.view (s : State) (n : Node) (off : Nat) (f : FieldDef) : Nat :=
  let v := if off < 0x40 then s.headerView n off f.lo else s.unitView n off f.lo
  (v.getD (s.rd ⟨n.base + off, f.lo, f.width, f.reset⟩)) % 2 ^ f.width

/-- The whole value of the register instance of a hit, reserved bits 0 (R12). -/
def State.regView (s : State) (h : Hit) : Nat :=
  let off := h.reg.off + h.reg.stride * h.idx
  (h.reg.fields.map fun f => s.view h.node off f * 2 ^ f.lo).sum

/-- One 32-bit word of the register of a hit, live. -/
def State.wordView (s : State) (h : Hit) : Nat := bits (s.regView h) (32 * h.word) 32

/-- The nine header words of a node, at offsets 0x00 to 0x20 (R29). -/
def State.headerWords (s : State) (n : Node) : List Nat :=
  (List.range 9).map fun i =>
    match findReg regs_hdr (4 * i) with
    | some (r, k, w) => s.wordView ⟨n, r, k, w⟩
    | none => 0

/-- The pin `ALERT_N` is low (R633). -/
def State.alertLow (s : State) : Bool :=
  decide (s.eventsOf .sys &&& s.rd R.SYS_ALERT_EN_EN ≠ 0) || decide (s.mode .sys = .faulted) || s.hlth.shutdown

end Sys2Proof.Machine
end

