-- ==== Sys2Proof/Machine/Units.lean ====
section
/-!
DEFINITION. What is done to a node of the unit tree (R33 to R37, R93 to R101, R549): enabling, draining, aborting, resetting and
faulting it, by `UNIT_CTRL`, by packet, by the credit watchdog and by the unit itself.
-/

namespace Sys2Proof.Machine

/-! ## Work -/

/-- The pages of the contexts that print and use a raster-path unit. -/
def State.rasterItems (s : State) (n : Node) : Nat :=
  (s.ctxs.map fun e => if e.2.live && s.usesUnit n e.2 then e.2.pages.length else 0).sum

/-- The work items that a node itself holds: packets and jobs accepted and not done. -/
def State.itemsOf (s : State) (n : Node) : Nat :=
  match n with
  | .ring r => (s.ring r.val).fetched.length + (s.ring r.val).started.length
  | .bale => s.baleJobs.length
  | .thresher k => b2n (s.holder k.val).isSome
  | .comp => s.rasterItems .comp
  | .scrn => s.rasterItems .scrn
  | .hlnk => s.rasterItems .hlnk + s.trainPks.length + s.latPks.length
  | .fire => s.rasterItems .fire + (s.cmps.map fun e => e.2.due.length + e.2.queue.length).sum + (s.encs.map fun e => b2n e.2.cfgPk.isSome).sum
  | .insp => s.insp.crops.length
  | .cam k => (s.cam k.val).frames.length + (s.cam k.val).gencp.length
  | .cal => s.cal.seeds.length + s.cal.anchors.length
  | .time => (s.pulses.map fun e => b2n e.2.until'.isSome).sum + b2n s.ptp.wait.isSome
  | .axis k => b2n (s.axMoving k.val)
  | .yoke => s.yk.camWaits.length + b2n s.yk.rolePk.isSome + b2n s.yk.resyncPk.isSome
  | .glean => b2n s.gl.test.isSome
  | _ => 0

/-- The work items of a node and its descendants. -/
def State.work (s : State) (n : Node) : Nat := (n.subtree.map s.itemsOf).sum

/-- A node itself has work that its drain waits for (R94): a ring its fetched packets and the completions that wait for a free entry (R72,
R74), but not a `UNIT_QUIESCE` that itself waits for a drain. -/
def State.drains' (s : State) (n : Node) : Bool :=
  match n with
  | .ring r => !(s.ring r.val).fetched.isEmpty || !(s.ring r.val).held.isEmpty ||
      decide ((s.drains.filter fun w => decide (w.pk.hdr.ring = r)).length < ((s.ring r.val).started.filter fun x => x.done.isNone).length)
  | .bale => !s.baleJobs.isEmpty
  | .thresher k => (s.holder k.val).isSome
  | .comp | .scrn | .fire => s.anyPrinting n
  | .hlnk => s.anyPrinting n || !s.latPks.isEmpty || !s.trainPks.isEmpty
  | .head k => s.anyPrinting n || s.training (.head k)
  | .slice _ => s.anyPrinting n
  | .cam k => (s.cam k.val).running || !(s.cam k.val).gencp.isEmpty
  | .time => s.pulses.any (fun e => e.2.until'.isSome) || s.ptp.wait.isSome
  | .axis k => s.axMoving k.val
  | .yoke => !s.ticks.isEmpty || !s.tokens.isEmpty
  | .ylane k => s.training (.yoke k)
  | .glean => s.gl.test.isSome
  | _ => false

/-- A node or a descendant has work that a drain waits for. -/
def State.drainBusy (s : State) (n : Node) : Bool := n.subtree.any s.drains'

/-! ## Ends of drains -/

/-- What becomes of a node that is OFF: a disabled ring leaves its shadow ring (R499), a camera lane and a port go down (R333, R445), an
axis' bridges are off (R468). -/
def State.offHook (s : State) (n : Node) : State :=
  if s.enabled n then s
  else match n with
  | .ring r => s.setRing r.val { (s.ring r.val) with shadowKept := false }
  | .cam k => s.camDown k.val
  | .port k => s.ethLink k.val false
  | .axis k => s.bridgesOff k.val
  | _ => s

/-- The `UNIT_QUIESCE` packets that wait for a node complete, with the work items drained, all but the `left` ones, and the time taken
in whole µs. -/
def State.endDrainWaits (s : State) (n : Node) (st : Status) (left : Nat) : State :=
  let ws := s.drains.filter fun w => decide (w.node = n)
  let s := { s with drains := s.drains.filter fun w => decide (w.node ≠ n) }
  ws.foldl (fun (s : State) w => s.complete w.pk st [w.work - left, (s.now - w.since) / 16000]) s

/-- A drain ends (R94): IDLE or OFF, and `QUIESCED`. -/
def State.drainEnds (s : State) (n : Node) : State :=
  ((((s.setMode n .normal).offHook n).raise n 1).endDrainWaits n .ok 0).resumeRaster

/-- A drain begins (R93, R94): what the unit does to come to its end, and the end at once when no work remains. -/
def State.startDrain (s : State) (n : Node) : State :=
  let s := match n with
    | .comp | .scrn | .hlnk | .fire | .head _ | .slice _ => s.drainRaster n
    | .time => s.stopPulses false
    | .axis k => s.drainAxis k.val
    | _ => s
  if s.drainBusy n then s.setMode n .draining else s.drainEnds n

/-! ## `ENABLE` and `QUIESCE` -/

/-- What setting `ENABLE` does on a ring (R61): indices 0, phase 1.  Completions that still wait for an entry are written then (R72). -/
def State.enableHook (s : State) (n : Node) : State :=
  match n with
  | .ring r =>
    let b := n.base
    let s := ((((s.wr (R.RING_SQ_TAIL_TAIL b) 0).wr (R.RING_SQ_HEAD_HEAD b) 0).wr (R.RING_CQ_HEAD_HEAD b) 0).wr (R.RING_CQ_TAIL_TAIL b) 0).wr
      (R.RING_CQ_TAIL_PHASE b) 1
    let rt := s.ring r.val
    (s.setRing r.val { fetched := rt.fetched, started := rt.started }).flushHeld r rt.held
  | _ => s

/-- What a node under test holds (R35). -/
def State.hold (s : State) (n : Node) (f : HeldCtrl → HeldCtrl) : State := { s with heldCtrl := tmod {} s.heldCtrl n.base f }

/-- Write `ENABLE` of one node (control-and-state table of spec/01); an abort in progress leaves nothing to drain (R33). -/
def State.writeEnable (s : State) (on : Bool) (n : Node) : State :=
  match s.mode n with
  | .faulted => s
  | .testing => s.hold n fun x => { x with enable := some on }
  | .draining => if on && !s.enabled n then (s.wr (R.UNIT_CTRL_ENABLE n.base) 1).enableHook n else s.wrB (R.UNIT_CTRL_ENABLE n.base) on
  | .normal =>
    if s.enabled n = on then s
    else if on then ((s.wr (R.UNIT_CTRL_ENABLE n.base) 1).enableHook n).resumeRaster
    else if s.flag (R.UNIT_CTRL_ABORT n.base) then s.wr (R.UNIT_CTRL_ENABLE n.base) 0
    else (s.wr (R.UNIT_CTRL_ENABLE n.base) 0).startDrain n

/-- Write `QUIESCE` of one node. -/
def State.writeQuiesce (s : State) (on : Bool) (n : Node) : State :=
  match s.mode n with
  | .faulted => s
  | .testing => s.hold n fun x => { x with quiesce := some on }
  | .draining => s.wrB (R.UNIT_CTRL_QUIESCE n.base) on
  | .normal =>
    let was := s.quiesced n
    let s := s.wrB (R.UNIT_CTRL_QUIESCE n.base) on
    if on && !was && s.enabled n && !s.flag (R.UNIT_CTRL_ABORT n.base) then s.startDrain n else if on then s else s.resumeRaster

/-- Every unit but SYS, CMD, TIME, HLTH and SEC is OFF or IDLE, as a drain of MEM needs (R97); MEM itself is not among the exceptions. -/
def State.memQuiet (s : State) : Bool :=
  [Node.bale, .comp, .scrn, .hlnk, .fire, .insp, .cal, .mem, .mot, .yoke, .glean].all fun n =>
    decide (s.nodeState n = .off) || decide (s.nodeState n = .idle)

/-- A write that starts a drain is ignored (R97). -/
def State.noDrain (s : State) (n : Node) : Bool :=
  match n with
  | .sys | .hlth => true
  | .mem => !s.memQuiet
  | _ => false

/-- A write of `ENABLE` to a node (R34 to R36, R97, R635). -/
def State.ctrlEnable (s : State) (n : Node) (on : Bool) : State :=
  if s.mode n = .faulted then s.access n
  else if n = .sys then s.wrB (R.UNIT_CTRL_ENABLE 0) on
  else if !on ∧ s.noDrain n then s.access n
  else n.subtree.foldl (State.writeEnable · on) s

/-- A write of `QUIESCE` to a node (R34 to R36, R97). -/
def State.ctrlQuiesce (s : State) (n : Node) (on : Bool) : State :=
  if s.mode n = .faulted ∨ (on ∧ s.noDrain n) then s.access n
  else if n = .sys then s
  else n.subtree.foldl (State.writeQuiesce · on) s

/-- `ENABLE`. -/
def execEnable (n : Node) (on : Bool) (s : State) : Host.Outcome State Fault Refusal :=
  .next (s.hostAccess n (.enable n on) fun s => s.ctrlEnable n on)

/-- `QUIESCE`. -/
def execQuiesce (n : Node) (on : Bool) (s : State) : Host.Outcome State Fault Refusal :=
  .next (s.hostAccess n (.quiesce n on) fun s => s.ctrlQuiesce n on)

/-! ## Taking the packets in progress at a unit -/

/-- Whether a `BALE_RESUME` waits with a handle. -/
def BaleJob.handle : BaleJob → Option Nat
  | .resume _ k _ _ => some k
  | _ => none

/-- The packet of a waiting job. -/
def BaleJob.pk : BaleJob → Pk
  | .decode pk .. => pk
  | .verify pk .. => pk
  | .resume pk .. => pk
  | .encode pk .. => pk

/-- Packets taken with nothing done. -/
def plainPks (ps : List Pk) : List (Pk × List Nat) := ps.map fun q => (q, noWords q.op)

/-- The packets in progress at a node which meet a test leave it, each with the words that give the work it has finished (R96); the pages
of contexts are not among them.  A resume handle that a packet uses is released (R90). -/
def State.takePks (s : State) (n : Node) (p : Pk → Bool) : State × List (Pk × List Nat) :=
  match n with
  | .ring r =>
    let x := s.ring r.val
    (s.setRing r.val { x with fetched := x.fetched.filter fun f => !p ⟨f.hdr, f.op, s.pkEpoch⟩,
                              started := x.started ++ ((x.fetched.filter fun f => p ⟨f.hdr, f.op, s.pkEpoch⟩).map fun f => inFlight f.hdr f.op) },
     plainPks ((x.fetched.map fun f => (⟨f.hdr, f.op, s.pkEpoch⟩ : Pk)).filter p))
  | .bale =>
    let out := s.baleJobs.filter fun j => p j.pk
    let s := out.foldl (fun (s : State) j => match j.handle with
      | some k => s.setHandle k {}
      | none => s) s
    ({ s with baleJobs := s.baleJobs.filter fun j => !p j.pk }, plainPks (out.map BaleJob.pk))
  | .hlnk =>
    ({ s with trainPks := s.trainPks.filter (fun x => !p x.pk), latPks := s.latPks.filter fun x => !p x.pk },
     (s.trainPks.filter fun x => p x.pk).map (fun x => (x.pk, [x.up, x.others])) ++ plainPks ((s.latPks.map LatPk.pk).filter p))
  | .fire =>
    let cfgs := s.encs.filterMap fun e => e.2.cfgPk
    let cmps := s.cmps.flatMap fun e => e.2.due.filterMap CmpPulse.pk ++ e.2.queue.filterMap CmpTarget.pk
    let s := s.encs.foldl (fun (s : State) e => match e.2.cfgPk with
      | some pk => if p pk then s.setEnc e.1 { e.2 with cfgPk := none } else s
      | none => s) s
    (s.cmps.foldl (fun (s : State) e =>
      s.setCmp e.1 { e.2 with due := e.2.due.filter (fun x => !((x.pk.map p).getD false)),
                              queue := e.2.queue.filter fun x => !((x.pk.map p).getD false) }) s, plainPks ((cfgs ++ cmps).filter p))
  | .cam k =>
    let c := s.cam k.val
    (s.setCam k.val { c with gencp := c.gencp.filter fun x => !p x.pk }, plainPks ((c.gencp.map GencpReq.pk).filter p))
  | .cal =>
    ({ s with cal := { s.cal with seeds := s.cal.seeds.filter (fun x => !p x.pk), anchors := s.cal.anchors.filter fun x => !p x.pk } },
     plainPks ((s.cal.seeds.map SeedRt.pk ++ s.cal.anchors.map AnchorPk.pk).filter p))
  | .time =>
    (match s.ptp.wait with
     | some pk => if p pk then ({ s with ptp := { s.ptp with wait := none } }, plainPks [pk]) else (s, [])
     | none => (s, []))
  | .axis k =>
    let x := s.ax k.val
    (s.setAx k.val { x with pk := x.pk.filter fun q => !p q, stops := x.stops.filter fun q => !p q }, plainPks ((x.pk.toList ++ x.stops).filter p))
  | .yoke =>
    let y := s.yk
    ({ s with yk := { y with camWaits := y.camWaits.filter (fun x => !p x.pk), rolePk := y.rolePk.filter (fun q => !p q),
                             resyncPk := y.resyncPk.filter fun q => !p q } },
     plainPks ((y.camWaits.map CamWait.pk ++ y.rolePk.toList ++ y.resyncPk.toList).filter p))
  | .glean =>
    (match s.gl.run with
     | some r => if p r.pk then (State.breakTest { s with gl := { s.gl with run := none } }, [(r.pk, [r.run, r.failed])]) else (s, [])
     | none => (s, []))
  | .sys =>
    ({ s with drains := s.drains.filter fun w => !p w.pk }, plainPks ((s.drains.map DrainWait.pk).filter p))
  | _ => (s, [])

/-- Complete packets that were taken from a unit. -/
def State.completeAll (s : State) (st : Status) (ps : List (Pk × List Nat)) : State :=
  ps.foldl (fun (s : State) q => s.complete q.1 st q.2) s

/-- The packets in progress at a node complete with a status. -/
def State.endPks (s : State) (n : Node) (st : Status) (p : Pk → Bool) : State :=
  let (t, ps) := s.takePks n p
  t.completeAll st ps

/-- Nodes at which packets can be in progress. -/
def pkNodes : List Node :=
  [Node.bale, .hlnk, .fire] ++ (List.finRange 8).map Node.cam ++ [Node.cal, .time] ++ (List.finRange 8).map Node.axis ++ [Node.yoke, .glean, .sys]

/-- The pages of a ring's packets are aborted: a context that prints one of them ends, pages that wait leave their queue (R94), and a `CTX_STOP` that waits completes. -/
def State.abortPages (s : State) (p : Pk → Bool) : State :=
  s.ctxs.foldl (fun (s : State) e =>
    let s := match (s.ctx e.1).stopPk with
      | some pk => if p pk then (s.setCtx e.1 { (s.ctx e.1) with stopPk := none }).complete pk .aborted [(s.ctx e.1).firedLines, (s.ctx e.1).lastPage] else s
      | none => s
    let c := s.ctx e.1
    let mine := c.pages.filter fun x => p x.pk && !x.done
    if mine.isEmpty then s
    else if c.live && mine.any (fun x => match x.first with
        | some f => decide (f ≤ c.line)
        | none => false) then s.endContext e.1 true .open
    else
      let s := s.setCtx e.1 { c with pages := c.pages.filter fun x => !(p x.pk && !x.done) }
      mine.foldl (fun (s : State) x => s.complete x.pk .aborted []) s) s

/-! ## Aborts -/

/-- A lane's training ends without a result: it goes to RESET (R234). -/
def State.endTraining (s : State) (l : LaneId) : State :=
  if !s.training l then s
  else
    let s := ((s.enterTrain l 0).wr (R.LANE_STATUS_OUTCOME l.b) 7).wr (R.LANE_CTRL_START l.b) 0
    (s.setLane l {}).laneTrained l false false

/-- The work that started packets have begun in their units is discarded with them (R94): lanes in training for a `LANE_TRAIN` go back to
RESET, and the bridges of an axis in motion for a packet go off. -/
def State.abortStarted (s : State) (p : Pk → Bool) : State :=
  let lanes := (s.trainPks.filter fun x => p x.pk).flatMap TrainPk.waiting
  let s := s.endPks .hlnk .aborted p
  let s := lanes.foldl (fun (s : State) l => s.endTraining (headLane l)) s
  (List.finRange 8).foldl (fun (s : State) k => if (s.ax k.val).pk.any p then s.abortAxis k.val else s) s

/-- What an abort discards in a node itself (R94, R96). -/
def State.abortOne (s : State) (n : Node) : State :=
  match n with
  | .ring r =>
    let mine := fun (q : Pk) => decide (q.hdr.ring = r)
    let s := ((s.endPks n .aborted fun _ => true).abortPages mine).abortStarted mine
    pkNodes.foldl (fun (s : State) m => s.endPks m .aborted mine) s
  | .bale => s.endPks .bale .aborted fun _ => true
  | .thresher k => s.setHolder k.val none
  | .comp | .scrn | .slice _ => s.abortRaster n
  | .hlnk => (List.finRange 32).foldl (fun (s : State) k => s.endTraining (.head k)) ((s.abortRaster n).endPks n .aborted fun _ => true)
  | .head k =>
    let ps := (s.trainPks.filter fun x => x.waiting.contains k.val).map TrainPk.pk
    ((s.abortRaster n).endPks .hlnk .aborted fun q => ps.contains q).endTraining (.head k)
  | .fire => ((s.abortRaster n).abortCompares).endPks n .aborted fun _ => true
  | .insp =>
    let xs := s.insp.crops
    xs.foldl (fun (s : State) x => s.writeDefect x.rec' 0xFFFF) { s with insp := { s.insp with crops := [] } }
  | .cam k => s.abortCam k.val
  | .cal => s.abortCal
  | .time => s.abortTime
  | .axis k => s.abortAxis k.val
  | .yoke => (s.endPks n .aborted fun _ => true).unpair
  | .ylane k => s.endTraining (.yoke k)
  | .glean => s.abortGlean
  | _ => s

/-- A node that an abort acts on: any but OFF or FAULTED, and none of SYS, HLTH and MEM (R97). -/
def State.abortable (s : State) (n : Node) : Bool :=
  decide (n ≠ .sys ∧ n ≠ .hlth ∧ n ≠ .mem) && decide (s.mode n ≠ .faulted) && (s.enabled n || decide (s.mode n ≠ .normal))

/-- Abort one node: its work is discarded, a drain in progress ends (R33), and what follows is `ABORT_COMPLETE`. -/
def State.writeAbort (s : State) (n : Node) : State :=
  if !s.abortable n then s
  else if s.mode n = .testing then s.hold n fun x => { x with abort := true }
  else
    let left := s.work n
    let s := s.abortOne n
    let s := if s.mode n = .draining then s.setMode n .normal else s
    (s.wr (R.UNIT_CTRL_ABORT n.base) 1).endDrainWaits n .aborted left

/-- A write of 1 to `ABORT` of a node is ignored, with `ACCESS` (R34, R97). -/
def State.abortRefused (s : State) (n : Node) : Bool := decide (s.mode n = .faulted ∨ n = .sys ∨ n = .hlth ∨ n = .mem)

/-- What a node held while it was under test is applied, in the precedence of R33 (R35). -/
def State.applyHeld (s : State) (n : Node) : State :=
  let x := tget {} s.heldCtrl n.base
  if s.mode n = .testing then s
  else
    let s := { s with heldCtrl := tset {} s.heldCtrl n.base {} }
    let s := if x.abort then s.writeAbort n else s
    let s := match x.quiesce with
      | some v => s.writeQuiesce v n
      | none => s
    match x.enable with
    | some v => s.writeEnable v n
    | none => s

/-- The writes held for the node that was under test before a test ended. -/
def State.afterTest (s t : State) : State :=
  match s.gl.test with
  | some (n, _) => t.applyHeld n
  | none => t

/-- `SLICE_FAULT` (R218, R219): an active slice faults, or fails the check after a mismatch (`check`). -/
def execSliceFault (n : Fin 33) (check : Bool) (s : State) : Host.Outcome State Fault Refusal :=
  if !s.clocked then .next s else
  if s.mode (.slice n) = .faulted ∨ (check ∧ !(s.slice n.val).checking) then .next s
  else
    let t := if check then s.testDone (.slice n) 0 3 false else s
    .next (s.afterTest (t.sliceFails n (if check then .testFail else .fwFault)))

/-- A write of 1 to `ABORT` of a node (R34, R36, R94, R97). -/
def State.ctrlAbort (s : State) (n : Node) : State :=
  if s.abortRefused n then s.access n else s.afterTest (n.subtree.foldl State.writeAbort s)

/-- `ABORT`. -/
def execAbort (n : Node) (s : State) : Host.Outcome State Fault Refusal :=
  .next (s.hostAccess n (.abort n) fun s => s.ctrlAbort n)

/-- An abort of a node is complete: IDLE or OFF, and `ABORTED`. -/
def State.abortEnds (s : State) (n : Node) : State :=
  if s.flag (R.UNIT_CTRL_ABORT n.base) then ((s.wr (R.UNIT_CTRL_ABORT n.base) 0).offHook n).raise n 2 else s

/-- `ABORT_COMPLETE`. -/
def execAbortComplete (n : Node) (s : State) : Host.Outcome State Fault Refusal := .next (s.abortEnds n)

/-! ## Drains -/

/-- `DRAIN_COMPLETE`. -/
def execDrainComplete (n : Node) (s : State) : Host.Outcome State Fault Refusal :=
  if s.mode n = .draining ∧ !s.drainBusy n then .next (s.drainEnds n) else .next s

/-- A drain of a node that exceeds its bound (R95): what is left is aborted, and the `UNIT_QUIESCE` packets that wait for the node are not
among it. -/
def State.drainLate (s : State) (n : Node) : State :=
  if s.mode n ≠ .draining then s
  else
    let left := s.work n
    let ws := s.drains.filter fun w => decide (w.node = n)
    let s := State.abortOne { s with drains := s.drains.filter fun w => decide (w.node ≠ n) } n
    let s := ({ s with drains := s.drains ++ ws }.setMode n .normal).offHook n
    ((s.raise n 1).raise n 2).endDrainWaits n .drainTimeout left

/-- `DRAIN_TIMEOUT` (R95): the remaining work of the node and its descendants is aborted. -/
def execDrainTimeout (n : Node) (s : State) : Host.Outcome State Fault Refusal :=
  if s.mode n = .draining ∧ s.drainBusy n then .next (s.afterTest (n.subtree.foldl State.drainLate s)) else .next s

/-! ## Tests that end -/

/-- `GLEAN_TEST_END` (R529): the test in progress, or that of the relieved granary bank, ends. -/
def execGleanTestEnd (bank passed : Bool) (s : State) : Host.Outcome State Fault Refusal :=
  if !s.clocked then .next s else
  if bank then .next (s.endBankTest passed) else .next (s.afterTest (s.endTest passed))

/-- `GLEAN_RELEASE` (R528): work arrives for the node under test. -/
def execGleanRelease (n : Node) (s : State) : Host.Outcome State Fault Refusal :=
  if !s.clocked then .next s else
  match s.gl.test with
  | some (m, _) => if m = n then .next (s.afterTest s.breakTest) else .next s
  | none => .next s

/-! ## Resets -/

/-- An offset lies in `COUNT` or `COUNT_OVF` of a `UNIT_FAULT`, by the key of a field. -/
def isFaultCount (key : Nat) : Bool :=
  let a := key / 1024
  decide (a = (Node.ofOffset a).base + 0x20) && decide (16 ≤ key % 1024)

/-- Registers of an extent of BAR0 return to their reset values, but for those that `keep` names; what was captured, staged, locked or
shadowed there goes too (R15 to R17, R21). -/
def State.resetRegs (s : State) (lo hi : Nat) (keep : Nat → Bool) : State :=
  let inK (k : Nat) : Bool := decide (lo * 1024 ≤ k) && decide (k < hi * 1024)
  let inW (w : Nat) : Bool := decide (lo ≤ 4 * w) && decide (4 * w < hi)
  let inA (a : Nat) : Bool := decide (lo ≤ a) && decide (a < hi)
  { s with
    regs := s.regs.filter fun e => !inK e.1 || isFaultCount e.1 || keep (e.1 / 1024),
    shadow := s.shadow.filter fun e => !inK e.1,
    captured := s.captured.filter fun e => !inW e.1,
    staged := s.staged.filter fun e => !inW e.1,
    locked := s.locked.filter fun e => !inA e.1,
    events := s.events.filter fun e => !inA e.1,
    modes := s.modes.filter fun e => !inA e.1,
    heldCtrl := s.heldCtrl.filter fun e => !inA e.1 }

/-- Registers that keep their values through a `RESET` of their unit: in MEM what training and the retirement of rows left (R394, R396,
R422), in TIME the addresses of the ports (R612), in YOKE the lanes driven and the fence (R511), in SEC what fuses, boot record and image
give (R567, R573, R599). -/
def keptReg (a : Nat) : Bool :=
  (decide (0x900100 ≤ a) && decide (a < 0x900180)) || decide (a = R.MEM_STATE_ZERO_DONE.addr) ||
  decide (a = (R.ETH_MAC_ADDR 0).addr) || decide (a = (R.ETH_MAC_ADDR 1).addr) ||
  decide (a = R.YOKE_LANES_OWNED.addr) ||
  decide (a = R.SEC_STATE_COPY.addr) || (decide ((R.SEC_SLOT_FW 0).addr ≤ a) && decide (a < (R.SEC_SLOT_FW 4).addr)) ||
  decide (a = R.SEC_BOOT_COUNT.addr) || decide (a = R.SEC_RELEASE_RELEASE.addr)

/-- What a head lane holds that its `RESET` keeps: temperatures and orders of its heads, tallies (R549, R558). -/
def HlRt.afterReset (h : HlRt) : HlRt :=
  { temps := h.temps, tempAt := h.tempAt, vstep := h.vstep, disabled := h.disabled, orderFrom := h.orderFrom, orderWas := h.orderWas,
    sensorBad := h.sensorBad, belowSince := h.belowSince, fireNext := h.fireNext, flushes := h.flushes, tally := h.tally }

/-- What a node holds beyond its registers returns to its state after reset. -/
def State.clearUnit (s : State) (n : Node) : State :=
  match n with
  | .ring r => s.setRing r.val {}
  | .bale => { s with handles := [], holders := [], gangs := [] }
  | .thresher k => s.setHolder k.val none
  | .scrn => { s with slices := [] }
  | .slice k => s.setSlice k.val { needsTest := (s.slice k.val).needsTest }
  | .hlnk => (List.range 32).foldl (fun (s : State) k => s.setHead k (s.head k).afterReset) s
  | .head k => (s.setHead k.val (s.head k.val).afterReset).setLane (.head k) {}
  | .fire => { s with encs := [], syns := [], cmps := [], latches := [], divs := [] }
  | .insp => { s with cams := [], insp := {} }
  | .cam k => (s.setCam k.val {}).setLane (.cam k) {}
  | .cal => { s with cal := {} }
  | .mem => { s with mem := { s.mem with copying := none, bist := none, urgent := none, parity := [], queue := [], ahead := [] } }
  | .time => { s with pulses := [], ptp := {} }
  | .axis k => s.setAx k.val {}
  | .ylane k => s.setLane (.yoke k) {}
  | .glean => { s with gl := {} }
  | _ => s

/-- A `RESET` of HLTH (R549): accepted only when T is below `THROTTLE` − `HYST`; it clears counters and events, what was captured
and staged (R15, R16), and returns `LEVEL` to 0. -/
def State.resetHlth (s : State) : State :=
  if s.thThrottle - s.hyst ≤ s.dieT then s.access .hlth
  else
    let b := Node.hlth.base
    let s := ({ s with events := tset 0 s.events b 0, regs := tdrop s.regs (0xE00070 * 1024) (0xE00078 * 1024),
                       captured := s.captured.filter fun e => !(decide (0x380000 ≤ e.1) && decide (e.1 < 0x3C0000)),
                       staged := s.staged.filter fun e => !(decide (0x380000 ≤ e.1) && decide (e.1 < 0x3C0000)),
                       hlth := { s.hlth with reached := [], below1 := 0, below2 := 0 } } : State)
    let s := (((s.setMode .hlth .normal).wr (R.UNIT_FAULT_CODE b) 0).wr R.HLTH_STATE_LEVEL 0).wr (R.UNIT_CTRL_ENABLE b) 1
    s.setShare.settle

/-- A `RESET` of a node other than SYS, CMD and HLTH (R34): a test of a node ends, work is discarded, registers and what the nodes hold
return to their state after reset. -/
def State.resetNodes (s : State) (n : Node) : State :=
  let s := match s.gl.test with
    | some (m, _) => if n.subtree.contains m then s.breakTest else s
    | none => s
  let s := n.subtree.foldl (fun (s : State) m => if s.mode m = .faulted then s else (s.abortOne m).endDrainWaits m .aborted (s.work m)) s
  let s := n.subtree.foldl (fun (s : State) m => match m with
    | .axis k => s.bridgesOff k.val
    | .port k => s.ethLink k.val false
    | .head k => s.interrupt k.val
    | .yoke => s.leaveRole
    | _ => s) s
  let fenced := s.flag R.YOKE_STATE_FENCED
  let vals := (List.range 4).map fun b => s.baseAt b s.now
  let s := s.resetRegs n.base (n.base + n.sizeKib * 1024) keptReg
  let s := n.subtree.foldl State.clearUnit s
  match n with
  | .yoke => (s.wrB R.YOKE_STATE_FENCED fenced).settle
  | .time => (vals.zipIdx.foldl (fun (s : State) x => s.stepBase x.2 x.1) s).settle
  | _ => s.settle

/-- `RESET` of a node (R34, R36, R87, R549, R596, R608). -/
def State.ctrlReset (s : State) (n : Node) (b : BootIn) : State :=
  match n with
  | .sys => s.selfReset 2 b
  | .cmd => s.resetCmd.settle
  | .hlth => s.resetHlth
  | .sec => (s.resetNodes .sec).resetSec b.fails.toNat
  | n => s.afterTest (s.resetNodes n)

/-- `RESET`. -/
def execReset (n : Node) (b : BootIn) (s : State) : Host.Outcome State Fault Refusal :=
  .next (s.hostAccess n (.reset n b) fun s => s.ctrlReset n b)

/-! ## Packets about nodes -/

/-- `UNIT_QUERY` (R90). -/
def execUnitQuery (h : Hdr) (off : Nat) (s : State) : Host.Outcome State Fault Refusal :=
  if !s.spells (.unitQuery h off) then .next s else
  .next (s.packet opUnitQuery h (fun _ => [((Node.atBase off).isNone, .badParam)])
    (fun pk s => s.complete pk .ok (s.headerWords ((Node.atBase off).getD .sys))))

/-- `UNIT_QUIESCE` (R34, R93, R97): flag 0 leaves `ENABLE` at 1 and sets `QUIESCE`; it completes when the drain ends. -/
def execUnitQuiesce (h : Hdr) (off flags : Nat) (s : State) : Host.Outcome State Fault Refusal :=
  if !s.spells (.unitQuiesce h off flags) then .next s else
  let n := (Node.atBase off).getD .sys
  .next (s.packet opUnitQuiesce h
    (fun s => rank0 s .cmd (Node.atBase off).isNone false [(decide (s.mode n = .faulted) || s.noDrain n, .wrongUnitState)])
    (fun pk s =>
      let w := s.work n
      let s := { s with drains := s.drains ++ [⟨n, pk, s.now, w⟩] }
      let s := if bit flags 0 then n.subtree.foldl (State.writeQuiesce · true) s else n.subtree.foldl (State.writeEnable · false) s
      if s.mode n = .draining ∨ s.mode n = .testing then s else s.endDrainWaits n .ok 0))

/-- `UNIT_ABORT` (R34, R96, R97): the work of the node and its descendants is discarded. -/
def execUnitAbort (h : Hdr) (off : Nat) (s : State) : Host.Outcome State Fault Refusal :=
  if !s.spells (.unitAbort h off) then .next s else
  let n := (Node.atBase off).getD .sys
  .next (s.packet opUnitAbort h
    (fun s => rank0 s .cmd (Node.atBase off).isNone false [(s.abortRefused n, .wrongUnitState)])
    (fun pk s =>
      let w := s.work n
      let t := s.afterTest (n.subtree.foldl State.writeAbort s)
      (n.subtree.foldl State.abortEnds t).complete pk .ok [w]))

/-! ## Faults -/

/-- What a unit held when it faulted is taken back (R98 to R100), its packets complete `RECLAIMED`; `CMD_WDOG` names its kind. -/
def State.reclaim (s : State) (n : Node) : State :=
  let x := s.holding n
  ((s.setHolding n {}).wr R.CMD_WDOG_LAST_KIND (n.kind % 256)).completeAll .reclaimed x.pks

/-- `RECLAIM` (R100). -/
def execReclaim (h : Hdr) (off : Nat) (s : State) : Host.Outcome State Fault Refusal :=
  if !s.spells (.reclaim h off) then .next s else
  let n := (Node.atBase off).getD .sys
  .next (s.packet opReclaim h
    (fun s => rank0 s .cmd (Node.atBase off).isNone false [(decide (s.mode n ≠ .faulted), .wrongUnitState)])
    (fun pk s =>
      let x := s.holding n
      (s.reclaim n).complete pk .ok [x.req, x.resp, x.slots, x.pks.length]))

/-- What entering FAULTED does to the work of a unit (R84, R94, R98, R255, R468): packets in progress are lost to the unit until they are
reclaimed, a thresher keeps the three slots of its bale (R122), contexts of a raster-path unit fault, a lane carries nothing more and its
pages are marked, an axis' bridges go OFF. -/
def State.dropWork (s : State) (n : Node) (st : Status) (req resp slots : Nat) : State :=
  let (s, ps) := s.takePks n fun _ => true
  let x := s.holding n
  let s := s.setHolding n ⟨x.req + req, x.resp + resp, x.slots + slots, x.pks ++ ps⟩
  match n with
  | .thresher k =>
    if (s.holder k.val).isSome then (s.setHolder k.val none).setHolding n ⟨x.req + req, x.resp + resp, x.slots + slots + 3, x.pks ++ ps⟩ else s
  | .bale | .comp | .scrn | .hlnk | .fire => s.faultRaster n st.code
  | .head k =>
    let c := s.laneOwner k.val
    let s := if c ≠ 0 ∧ (s.ctx c).live then s.setCtx c { (s.ctx c) with pages := (s.ctx c).pages.map fun p => p.mark markLaneDown } else s
    s.endTraining (.head k)
  | .time => s.stopPulses true
  | .axis k => s.axHalt k.val true 8
  | .yoke => s.unpair
  | _ => s

/-- `FAULT_DETECTED` (R34): a unit other than CMD, SYS and the slices finds a fault in itself, and keeps the credits and bale slots that it
held. -/
def execFaultDetected (n : Node) (st : Status) (req resp slots : Nat) (s : State) : Host.Outcome State Fault Refusal :=
  match n with
  | .sys | .cmd | .slice _ => .next s
  | _ =>
    if s.mode n = .faulted ∨ (!s.enabled n ∧ s.mode n = .normal) then .next s
    else
      let q := match s.gl.test with
        | some (m, _) => if m = n then s.breakTest else s
        | none => s
      .next (s.afterTest (((q.dropWork n st req resp slots).faultNode n st).endDrainWaits n .drainTimeout (q.work n)))

/-- What the watchdog takes from the command processor itself: every packet fetched and not started, and the packets that wait in it. -/
def State.dropCmd (s : State) : State :=
  let t := s.rings.foldl (fun (a : State × List (Pk × List Nat)) e =>
    let r := a.1.takePks (.ring (Fin.ofNat 256 e.1)) fun _ => true
    (r.1, a.2 ++ r.2)) (s, [])
  let u := t.1.takePks .sys fun _ => true
  u.1.setHolding .cmd { (u.1.holding .cmd) with pks := (u.1.holding .cmd).pks ++ t.2 ++ u.2 }

/-- `CREDIT_WATCHDOG` (R98, R99): a unit has held credits or slots for 100 µs without progress; it has no effect when a faulted unit holds
nothing any more (R100). -/
def execCreditWatchdog (n : Node) (s : State) : Host.Outcome State Fault Refusal :=
  if !s.clocked then .next s else
  if n = .sys ∨ (s.mode n = .faulted ∧ s.holding n = {}) ∨ (!s.enabled n ∧ s.mode n = .normal) then .next s
  else
    let t := if s.mode n = .faulted then s
      else (((if n = .cmd then s.dropCmd else s.dropWork n .creditTimeout 0 0 0).faultNode n .creditTimeout).endDrainWaits n .drainTimeout (s.work n))
    .next (s.afterTest (((t.reclaim n).count R.CMD_WDOG_FIRES R.CMD_WDOG_FIRES_OVF .cmd 1).raise .cmd 17))

/-- `FW_FAULT` (R72): the command processor itself faults; packets in flight receive no completion, fetched ones are lost, and the SYS
event is sent on vector 0 alone. -/
def execFwFault (s : State) : Host.Outcome State Fault Refusal :=
  if s.mode .cmd = .faulted ∨ !s.enabled .cmd then .next s
  else
    let s := s.rings.foldl (fun (s : State) e => s.setRing e.1 { (s.ring e.1) with fetched := [], started := [], held := [] }) s
    .next (State.faultNode { (s.setMode .cmd .normal) with pkEpoch := s.pkEpoch + 1 } .cmd .fwFault)

/-! ## The device state -/

/-- The sleep entry begins (R616): a test of the gleaner ends, and rotation and shadowing stop. -/
def State.beginSleep (s : State) : State :=
  let s := s.afterTest s.breakTest
  let s := { s with mem := { s.mem with copying := none } }
  let s := (List.range 33).foldl (fun (s : State) n => s.setSlice n { (s.slice n) with shadows := none, agreed := 0 }) s
  State.wr { s with sysr := { s.sysr with entering := true } } R.SYS_DEV_DEV_STATE devSleep

/-- Enter a device state from `SYS_STATE` (R614, R615). -/
def State.enterDev (s : State) (v : Nat) : State :=
  if v = s.dev then s
  else if v = devSleep then s.beginSleep
  else if v = devRun then ((s.wr R.SYS_DEV_DEV_STATE devRun).wr R.MEM_TEST_REF_OFF 0).wr R.MEM_TEST_INJECT 0
  else s.wr R.SYS_DEV_DEV_STATE v

/-- `SYS_STATE` (R614 to R616). -/
def execSysState (h : Hdr) (target : Nat) (s : State) : Host.Outcome State Fault Refusal :=
  if !s.spells (.sysState h target) then .next s else
  .next (s.packet opSysState h
    (fun s => [(decide (2 < target), .badParam), ((s.newState target).isNone, .badStateChange)])
    (fun pk s =>
      let v := (s.newState target).getD s.dev
      if v = devSleep then (s.complete pk .ok [v]).enterDev v else (s.enterDev v).complete pk .ok [v]))

end Sys2Proof.Machine
end

