-- ==== Sys2Proof/Machine/Cmd.lean ====
section
/-!
DEFINITION. The command processor's rings (R59 to R83): doorbells, halt and resume, the fetch of packets, interrupt coalescing, and the
DRAM aperture of BAR2.
-/

namespace Sys2Proof.Machine

/-! ## Doorbells -/

/-- A doorbell that R62 refuses: the ring halts, CMD raises `BAD_DOORBELL`.  No packet halted it; `RING_HALT_INDEX` takes
`RING_SQ_HEAD` (DESIGN CHOICE, assumption 40). -/
def State.badDoorbell (s : State) (r : Fin 256) : State :=
  (s.haltRing r .badDoorbell (s.rd (R.RING_SQ_HEAD_HEAD (Node.ring r).base)) true).raise .cmd 19

/-- A write of `RING_SQ_TAIL` (R62, R63): outstanding entries are (tail − head) modulo the number of entries. -/
def State.sqDoorbell (s : State) (r : Fin 256) (v : Nat) : State :=
  let b := (Node.ring r).base
  let n := s.entries r
  let idx := v % 65536
  if !s.enabled (.ring r) then s.access (.ring r)
  else if n ≤ idx ∨ n - 1 < (idx + n - s.rd (R.RING_SQ_HEAD_HEAD b) % n) % n then s.badDoorbell r
  else s.wr (R.RING_SQ_TAIL_TAIL b) idx

/-- `SUBMISSION_DOORBELL`. -/
def execSubmissionDoorbell (r : Fin 256) (v : Word) (s : State) : Host.Outcome State Fault Refusal :=
  .next (s.hostAccess (.ring r) (.submissionDoorbell r v) fun s => s.sqDoorbell r v.toNat)

/-- Write the event completion that waits for a free entry of ring 0, with its words as they are now, and send vector 0 (R77). -/
def State.flushEvent (s : State) : State :=
  if (s.ring 0).eventWaiting && s.cqFree 0 then
    (((s.setRing 0 { (s.ring 0) with eventWaiting := false }).putCpl 0 s.eventCpl).wr (R.RING_STATUS_CQ_FULL (Node.ring 0).base) 0).sendMsix 0
  else s

/-- A write of `RING_CQ_HEAD` (R62, R74, R77): it frees the entries that it passes, and completions that waited are written. -/
def State.cqDoorbell (s : State) (r : Fin 256) (v : Nat) : State :=
  let b := (Node.ring r).base
  let n := s.entries r
  let idx := v % 65536
  let d := (idx + n - s.rd (R.RING_CQ_HEAD_HEAD b) % n) % n
  let rt := s.ring r.val
  if !s.enabled (.ring r) then s.access (.ring r)
  else if n ≤ idx ∨ rt.used < d then s.badDoorbell r
  else
    let s := (s.wr (R.RING_CQ_HEAD_HEAD b) idx).setRing r.val { rt with used := rt.used - d }
    let s := s.flushHeld r rt.held
    if r = 0 then s.flushEvent else s

/-- `COMPLETION_DOORBELL`. -/
def execCompletionDoorbell (r : Fin 256) (v : Word) (s : State) : Host.Outcome State Fault Refusal :=
  .next (s.hostAccess (.ring r) (.completionDoorbell r v) fun s => s.cqDoorbell r v.toNat)

/-- A write of 1 to `RESUME` (R83): the ring runs again, at `RING_SQ_HEAD`, which its own fetch has not moved and which every other
halt has left behind the halting packet. -/
def State.resumeRing (s : State) (r : Fin 256) : State := s.wr (R.RING_STATUS_HALTED (Node.ring r).base) 0

/-- `RING_RESUME`. -/
def execRingResume (r : Fin 256) (s : State) : Host.Outcome State Fault Refusal :=
  .next (s.hostAccess (.ring r) (.ringResume r) fun s => s.resumeRing r)

/-! ## Fetching packets -/

/-- The bus address of a submission entry. -/
def State.sqAddr (s : State) (r : Fin 256) (i : Nat) : Nat :=
  4096 * s.rd (R.RING_SQ_BASE_ADDR (Node.ring r).base) + 64 * (i % s.entries r)

/-- The bytes of a submission entry. -/
def State.sqEntry (s : State) (r : Fin 256) (i : Nat) : List Byte := tgets 0#8 s.host (s.sqAddr r i) 64

/-- How the fetch of a submission entry ends (R82): `failed` attempts have failed, the third being the last. -/
def State.sqMark (s : State) (failed : Nat) (r : Fin 256) (i : Nat) : HostMark :=
  if 3 ≤ failed ∨ s.linkDown = true then .error else s.hostMark (s.sqAddr r i) 64

/-- Entries between `RING_SQ_HEAD` and `RING_SQ_TAIL`. -/
def State.sqWaiting (s : State) (r : Fin 256) : Nat :=
  let b := (Node.ring r).base
  (s.rd (R.RING_SQ_TAIL_TAIL b) + s.entries r - s.rd (R.RING_SQ_HEAD_HEAD b)) % s.entries r

/-- The number of entries of the packet at the head: its continuations count unless they could never be covered (R63, R69). -/
def State.sqSize (s : State) (r : Fin 256) : Nat :=
  let k := fieldN (s.sqEntry r (s.rd (R.RING_SQ_HEAD_HEAD (Node.ring r).base))) 6 1
  if s.entries r ≤ k then 1 else 1 + k

/-- A ring has a packet that the command processor may fetch (R36, R63, R74, R82). -/
def State.fetchable (s : State) (failed : Nat) (r : Fin 256) : Bool :=
  let b := (Node.ring r).base
  s.accepts (.ring r) && !s.flag (R.RING_STATUS_HALTED b) && (s.ring r.val).held.isEmpty && s.cqFree r && decide (s.sqWaiting r ≠ 0) &&
  (decide (s.sqMark failed r (s.rd (R.RING_SQ_HEAD_HEAD b)) ≠ .good) || decide (s.sqSize r ≤ s.sqWaiting r))

/-- The ring that is fetched from next, and the state of the weighted round robin after it (R65): ring 0 first, then the ring whose
turn it is while packets of its turn are left, then the next one. -/
def State.arbitrate (s : State) (failed : Nat) : Option (Fin 256 × Nat × Nat) :=
  if s.fetchable failed 0 then some (0, s.arbRing, s.arbLeft)
  else
    let cur : Fin 256 := Fin.ofNat 256 s.arbRing
    if s.arbLeft ≠ 0 ∧ cur ≠ 0 ∧ s.fetchable failed cur = true then some (cur, s.arbRing, s.arbLeft - 1)
    else
      match ((List.range 255).map fun k => (Fin.ofNat 256 ((s.arbRing + k) % 255 + 1) : Fin 256)).find? fun r => s.fetchable failed r with
      | some r => some (r, r.val, max 1 (s.rd (R.RING_CFG_WEIGHT (Node.ring r).base)) - 1)
      | none => none

/-- The header of a packet from its first entry (R67). -/
def parseHdr (r : Fin 256) (sq : Nat) (bs : List Byte) : Hdr :=
  let flags := fieldN bs 3 1
  { ring := r, sq := sq, ctx := fieldN bs 2 1, notify := bit flags 0, fence := bit flags 1, priv := bit flags 2,
    seq := fieldN bs 4 2, entries := fieldN bs 6 1 }

/-- Complete the packets with unknown opcodes at the front of a ring that may start (R79, R88). -/
def State.refuseUnknown (s : State) (r : Fin 256) : List Fetched → State
  | [] => s
  | f :: fs =>
    if (opInfo f.op).isNone && s.mayStart f.hdr then
      ((s.startPk f.hdr f.op).complete ⟨f.hdr, f.op, s.pkEpoch⟩ .badOpcode []).refuseUnknown r fs
    else s

/-- The same over every ring that has fetched packets. -/
def State.refuseAll (s : State) : State :=
  s.rings.foldl (fun (s : State) e => let r : Fin 256 := Fin.ofNat 256 e.1; s.refuseUnknown r (s.ring r.val).fetched) s

/-- Fetch the packet at the head of a ring (R63, R67, R82): an entry that arrives poisoned or not at all halts the ring at it. -/
def State.fetchFrom (s : State) (failed : Nat) (r : Fin 256) : State :=
  let b := (Node.ring r).base
  let head := s.rd (R.RING_SQ_HEAD_HEAD b)
  let is := if s.sqMark failed r head ≠ .good then [head] else (List.range (s.sqSize r)).map (head + ·)
  match is.find? fun i => decide (s.sqMark failed r i ≠ .good) with
  | some i =>
    if s.sqMark failed r i = .poison then (s.usePoison 2 (s.sqAddr r i) 64).haltRing r .poisoned head true
    else s.haltRing r .dmaError head true
  | none =>
    let bs := is.flatMap fun i => s.sqEntry r i
    let s := s.wr (R.RING_SQ_HEAD_HEAD b) ((head + is.length) % s.entries r)
    let rt := s.ring r.val
    s.setRing r.val { rt with fetched := rt.fetched ++ [⟨parseHdr r head bs, fieldN bs 0 2, bs⟩] }

/-- `PACKET_FETCH` (R63, R65, R82): the next packet is fetched; `failed` attempts of the transfer have failed.  With no packet to fetch
nothing is fetched.  A packet whose opcode is unknown completes as soon as it may start. -/
def execPacketFetch (failed : Nat) (s : State) : Host.Outcome State Fault Refusal :=
  if !s.clocked || decide (s.mode .cmd = .faulted) then .next s
  else
    match s.arbitrate failed with
    | none => .next s.refuseAll
    | some (r, ring, left) => .next (State.refuseAll (State.fetchFrom { s with arbRing := ring, arbLeft := left } failed r))

/-- `INTERRUPT_COAL_TIMEOUT` (R76): `COAL_TIME` µs have passed since the first notifying completion that is pending; the row comes at that
instant. -/
def execInterruptCoalTimeout (r : Fin 256) (s : State) : Host.Outcome State Fault Refusal :=
  let rt := s.ring r.val
  if rt.pendingNotify = 0 ∨ !s.clocked then .next s
  else
    let s := s.advance (rt.notifyAt + 16000 * s.rd (R.RING_INT_COAL_TIME (Node.ring r).base))
    .next ((s.setRing r.val { rt with pendingNotify := 0 }).sendMsix r.val)

/-! ## BAR2 -/

/-- The DRAM address of a BAR2 offset (R59). -/
def State.bar2Addr (s : State) (off : Nat) : Nat := s.rd R.CMD_APERTURE_BASE_MIB * 2 ^ 20 + off

/-- A DRAM address that a BAR2 access cannot reach: beyond installed DRAM (R59) or in a retired page (R424). -/
def State.bar2Gone (s : State) (a : Nat) : Bool := decide (s.dramSize ≤ a) || s.retiredAt a

/-- A DRAM address in the SEC area of the reserved area (R391, R392). -/
def State.secArea (s : State) (a : Nat) : Bool :=
  decide (s.reservedBase + 44 * 2 ^ 20 ≤ a) && decide (a < s.reservedBase + 60 * 2 ^ 20)

/-- A BAR2 read (R59, R392, R418, R424). -/
def State.readBar2 (s : State) (off len : Nat) : State :=
  let a := s.bar2Addr off
  let as := (List.range len).map (a + ·)
  let shown := as.filter fun x => !s.bar2Gone x && !s.secArea x
  let data := as.map fun x => if s.bar2Gone x || s.secArea x then 0#8 else s.dramByte x
  let bad := shown.find? fun x => s.dramBad x 1
  let gone := as.any fun x => s.bar2Gone x
  let s := shown.foldl (fun (s : State) x => if x = a ∨ x % 8 = 0 then s.noteRead 2 x 1 else s) s
  let s := match bad with
    | some x => State.usePoison { s with sysr := { s.sysr with pcie := { s.sysr.pcie with aerPoison := true } } } 2 (2 ^ 63 + x) 1
    | none => s
  (s.put (.bar2 data bad.isSome)).raiseIf gone .cmd 4

/-- `BAR2_READ`; after a shutdown it gives 0 (R551). -/
def execBar2Read (off len : Nat) (s : State) : Host.Outcome State Fault Refusal :=
  if s.hlth.shutdown && !s.linkDown then .next (s.put (.bar2 (List.replicate len 0#8) false))
  else .next (s.hostAccess .cmd (.bar2Read off len) fun s => s.readBar2 off len)

/-- A BAR2 write (R59, R392, R424): a byte beyond installed DRAM, in the reserved area or in a retired page is discarded. -/
def State.writeBar2 (s : State) (off : Nat) (data : List Byte) : State :=
  let a := s.bar2Addr off
  let dropped := (List.range data.length).any fun i => decide (s.reservedBase ≤ a + i) || s.retiredAt (a + i)
  let kept := data.take (s.reservedBase - a)
  (if kept.isEmpty then s else s.dramWrite 2 a kept).raiseIf dropped .cmd 4

/-- `BAR2_WRITE`. -/
def execBar2Write (off : Nat) (data : List Byte) (s : State) : Host.Outcome State Fault Refusal :=
  .next (s.hostAccess .cmd (.bar2Write off data) fun s => s.writeBar2 off data)

end Sys2Proof.Machine
end

