-- ==== Sys2Proof/Machine/Access.lean ====
section
/-!
DEFINITION. BAR0 accesses (R12 to R17, R21 to R24, R39, R40): field types, captured and staged words, the writes that a rule discards,
the registers whose write acts, the MSI-X table and the granary debug window.
-/

namespace Sys2Proof.Machine

/-! ## Writes that are discarded -/

/-- Some context is RUNNING. -/
def State.anyRunning (s : State) : Bool := s.ctxs.any fun e => decide (e.2.st = .running)

/-- A region of `mib` MiB at 64 KiB unit `a` touches the reserved area, or what lies beyond it, or a retired page (R391, R424). -/
def State.regionBad (s : State) (a mib : Nat) : Bool :=
  decide (s.reservedBase < a * 65536 + mib * 2 ^ 20) || s.retired.any fun p => decide (a ≤ p) && decide (p < a + 16 * mib)

/-- The lane that a node is. -/
def Node.laneId : Node → Option LaneId
  | .head n => some (.head n) | .cam n => some (.cam n) | .port n => some (.eth n) | .ylane n => some (.yoke n)
  | _ => none

/-- A write of a lane's transmitter taps that is discarded: while a head or yoke lane trains; on a camera or Ethernet lane, unless its
node is OFF (register table of spec/06, R334, R446). -/
def State.tapsFixed (s : State) (l : LaneId) : Bool :=
  if l.trains then decide (1 ≤ s.lstate l ∧ s.lstate l ≤ 4) else s.enabled l.node || decide (s.mode l.node ≠ .normal)

/-- The state refuses writes of a register, which are discarded with `ACCESS` in the register's unit (R60; the register tables' R221,
R277, R331, R384, R387, R434, R466, R534, R565, R599): `off` is the offset in the node.  A write so discarded is no first write that
locks RWL fields (DESIGN CHOICE, assumption 289). -/
def State.writeGated (s : State) (h : Hit) (off : Nat) : Bool :=
  match h.node with
  | .ring r => decide (off = 0x40 ∨ off = 0x48 ∨ off = 0x50) && decide (s.nodeState (.ring r) ≠ .off)
  | .comp => decide (0x1000 ≤ off ∧ off % 0x10 = 0) && decide ((s.ctx h.idx).st ≠ .closed)
  | .scrn =>
    (decide (0x1000 ≤ off ∧ off % 0x10 = 0) && decide ((s.ctx h.idx).st ≠ .closed)) ||
    (decide (0x800 ≤ off ∧ off < 0x880) && decide (s.laneOwner h.idx ≠ 0))
  | .hlnk => decide (off = 0x40) && s.anyRunning
  | .fire =>
    (decide (off = 0x40) && s.anyRunning) ||
    (decide (0xC00 ≤ off ∧ off < 0xE00 ∧ off % 0x20 = 0) && (!(s.cmp h.idx).queue.isEmpty || (s.cmp h.idx).activeAt s.now)) ||
    (decide (0xF00 ≤ off ∧ off % 0x10 = 0) && decide (s.rd (R.DIV_DIVISOR_D h.idx) ≠ 0))
  | .insp =>
    decide (off = 0x40 ∨ off = 0x44 ∨ off = 0x48 ∨ off = 0x50) && (List.finRange 8).any fun k => decide (s.ownState (.cam k) ≠ .off)
  | .cal =>
    decide (off = 0x40 ∨ off = 0x48) && decide (s.rd R.CAL_CFG_POLICY ≠ 2)
  | .mem =>
    (decide (off = 0x40 ∨ off = 0x90) && s.anyLive fun _ => true) || (decide (off = 0x80) && decide (s.dev ≠ devTest))
  | .time =>
    decide (0x400 ≤ off ∧ off < 0x480 ∧ off % 0x10 = 0) && ((s.pls h.idx).sched.isSome || (s.pls h.idx).until'.isSome)
  | .yoke => decide (off = 0x40) && decide (s.rd R.YOKE_STATE_ROLE ≠ 0)
  | .hlth =>
    decide (0x100 ≤ off ∧ off < 0x300) && (match s.laneCtx h.idx with
      | some c => decide (c.st = .running)
      | none => false)
  | .sec => decide (0xC0 ≤ off ∧ off < 0xF0) && decide (s.dev ≠ devTest)
  | .head k => decide (off = 0x48) && s.tapsFixed (.head k)
  | .cam k => decide (off = 0x48) && s.tapsFixed (.cam k)
  | .port k => decide (off = 0x48) && s.tapsFixed (.eth k)
  | .ylane k => decide (off = 0x48) && s.tapsFixed (.yoke k)
  | _ => false

/-- A write that a rule discards with `ACCESS`: the state refuses it, or the region that the value names (R384, R387, R391, R424). -/
def State.writeRefused (s : State) (h : Hit) (off val : Nat) : Bool :=
  s.writeGated h off || (match h.node with
    | .insp => decide (off = 0x50) && s.regionBad (bits val 16 20) 84
    | .cal => decide (off = 0x48) && s.regionBad (bits val 16 20) 80
    | _ => false)

/-! ## Fields by type -/

/-- Write one field (R21, R22, R54); `v` is what the write holds for it, `locked` whether the register's RWL fields are locked. -/
def State.writeField (s : State) (f : FRef) (ty : FieldTy) (locked : Bool) (v : Nat) : State :=
  match ty with
  | .ro => s
  | .rw => s.wr f v
  | .w1c => s.wr f (andNot (s.rd f) v)
  | .w1s => s
  | .rwl => if locked then s else s.wr f v
  | .sh => { s with shadow := tset none s.shadow f.key (some v) }
  | .sat => if v = 0 then s.wr f 0 else s
  | .rc => s

/-- Write the fields of a register that lie in bits `lo` to `lo + w - 1`; a first write locks the RWL fields (R21).  W1S fields have no
store of their own: the actions they start are in `writeReg`. -/
def State.writeFields (s : State) (h : Hit) (lo w val : Nat) : State :=
  let locked := tget false s.locked h.addr
  let fs := h.reg.fields.filter fun f => decide (lo ≤ f.lo) && decide (f.lo + f.width ≤ lo + w)
  let s := fs.foldl (fun (s : State) f => s.writeField (h.fref f) f.ty locked (bits val f.lo f.width)) s
  if h.reg.fields.any fun f => decide (f.ty = .rwl) then { s with locked := tset false s.locked h.addr true } else s

/-! ## Registers whose write acts -/

/-- A write of `UNIT_CTRL` (R33): `RESET` takes precedence over the rest, and `ABORT` over the drain that `ENABLE` and `QUIESCE` in the
same write would start (nodes whose work it discards start none). -/
def State.writeCtrl (s : State) (n : Node) (v : Nat) : State :=
  if bit v 3 then s.ctrlReset n {}
  else if bit v 2 ∧ ¬ s.abortRefused n then ((s.ctrlAbort n).ctrlEnable n (bit v 0)).ctrlQuiesce n (bit v 1)
  else
    let s := (s.ctrlEnable n (bit v 0)).ctrlQuiesce n (bit v 1)
    if bit v 2 then s.ctrlAbort n else s

/-- A write of `UNIT_EVENT` (R21, R31): it clears the node's own latched bits, but for `CHILD` and the reserved ones. -/
def State.writeEvent (s : State) (n : Node) (v : Nat) : State :=
  State.settle { s with events := tset 0 s.events n.base (andNot (s.own n) v) }

/-- A write of `RING_CFG`: `LOG2_ENTRIES` changes only while the ring is OFF (R60). -/
def State.writeRingCfg (s : State) (h : Hit) (r : Fin 256) (v : Nat) : State :=
  let f := R.RING_CFG_LOG2_ENTRIES (Node.ring r).base
  let old := s.rd f
  let s1 := s.writeFields h 0 32 v
  if s.nodeState (.ring r) = .off ∨ v % 32 = old then s1 else (s1.wr f old).access (.ring r)

/-- A write of `RING_STATUS`: the overflow flag, and `RESUME`. -/
def State.writeRingStatus (s : State) (h : Hit) (r : Fin 256) (v : Nat) : State :=
  let s := s.writeFields h 0 32 v
  if bit v 2 then s.resumeRing r else s

/-- A write of `SCRN_RG_SHIFT` (R22, R200, R207): it waits for the boundary of the context that owns the group while that is RUNNING or
STOPPING, in place of one that waits already; else it applies at once. -/
def State.writeShift (s : State) (g v : Nat) : State :=
  let ch : TableChange := ⟨.shift g, 0, [v % 256, v / 256 % 256], []⟩
  let s := { s with tableChanges := s.tableChanges.filter fun x => decide (x.table ≠ TableId.shift g) }
  let o := s.groupOwner g
  if o ≠ 0 ∧ (s.ctx o).live = true then { s with tableChanges := s.tableChanges ++ [ch] } else s.applyChange ch

/-- A write of `LANE_CTRL` (R230, R236, R334, R444, R504): `LOOPBACK` changes only while no context that is not CLOSED has the lane. -/
def State.writeLaneCtrl (s : State) (l : LaneId) (v : Nat) : State :=
  let used := match l with
    | .head n => decide (s.laneOwner n.val ≠ 0)
    | _ => false
  let s := ((s.wrB (R.LANE_CTRL_INVERT_RX l.b) (bit v 9)).wrB (R.LANE_CTRL_INVERT_TX l.b) (bit v 8)).wrB (R.LANE_CTRL_PRBS l.b) (bit v 3)
  let s := s.wrB (R.LANE_CTRL_TX_SQUELCH l.b) (bit v 1)
  let s := if s.flag (R.LANE_CTRL_LOOPBACK l.b) = bit v 2 then s
           else if used then s.access l.node
           else s.wrB (R.LANE_CTRL_LOOPBACK l.b) (bit v 2)
  let s := if s.flag (R.LANE_CTRL_RATE l.b) = bit v 0 then s else s.writeRate l (bit v 0)
  if bit v 10 then s.writeStart l else s

/-- A write of `CAM_CTRL`: the outputs to the camera (R335), and `COMMIT` (R346). -/
def State.writeCamCtrl (s : State) (cam : Fin 8) (v : Nat) : State :=
  let f := R.CAM_CTRL_GPIO_OUT (Node.cam cam).base
  let out := bits v 8 8
  let s := if s.rd f = out then s else (s.wr f out).put (.camGpio cam.val out)
  if bit v 0 then s.writeCommit cam else s

/-- A write of `CAL_CFG` (R387); a change voids the estimates (R372). -/
def State.writeCalCfg (s : State) (h : Hit) (v : Nat) : State :=
  let s1 := s.writeFields h 0 32 v
  if s.rd R.CAL_CFG_WIN_LOG2 = s1.rd R.CAL_CFG_WIN_LOG2 ∧ s.rd R.CAL_CFG_CTX = s1.rd R.CAL_CFG_CTX then s1 else s1.voidAll

/-- The action of a write to a lane node's `LANE_CTRL`; none elsewhere. -/
def State.laneAct (s : State) (l : LaneId) (off val : Nat) : Option State := if off = 0x40 then some (s.writeLaneCtrl l val) else none

/-- The action of a write that is more than a store, for the registers that have one. -/
def State.writeAct (s : State) (h : Hit) (off val : Nat) : Option State :=
  if off = 0x10 then some (s.writeCtrl h.node val)
  else if off = 0x18 then some (s.writeEvent h.node val)
  else if off = 0x1C then some (s.writeFields h 0 32 val).settle
  else match h.node with
  | .ring r =>
    if off = 0x58 then some (s.writeRingCfg h r val)
    else if off = 0x60 then some (s.sqDoorbell r val)
    else if off = 0x68 then some (s.cqDoorbell r val)
    else if off = 0x70 then some (s.writeRingStatus h r val)
    else none
  | .scrn => if 0x100 ≤ off ∧ off < 0x180 then some (s.writeShift h.idx val) else none
  | .cal => if off = 0x40 then some (s.writeCalCfg h val) else none
  | .cam k => if off = 0x140 then some (s.writeCamCtrl k val) else s.laneAct (.cam k) off val
  | .head k => s.laneAct (.head k) off val
  | .port k => s.laneAct (.eth k) off val
  | .ylane k => s.laneAct (.yoke k) off val
  | .time =>
    if 0x100 ≤ off ∧ off < 0x180 ∧ off % 0x20 = 4 then some (s.tbRateWrite h.idx val)
    else if 0x100 ≤ off ∧ off < 0x180 ∧ off % 0x20 = 0x14 then some (if bit val 0 then s.tbSet h.idx else s)
    else none
  | .axis k =>
    if off = 0x4C then some (s.axWrite k.val (R.AX_ACCEL_ACCEL (axisB k.val)) val)
    else if off = 0x50 then some (s.axWrite k.val (R.AX_DECEL_DECEL (axisB k.val)) val)
    else none
  | .hlth => if off = 0x68 then some (s.writeTallyClr val) else none
  | .sec => if off = 0xF0 then some (s.writeProg val) else none
  | .sys => if off = 0x44 then some (if bit val 0 then s.startWake else s) else none
  | _ => none

/-- A write of `val` to bits `lo` to `lo + w - 1` of a register. -/
def State.writeReg (s : State) (h : Hit) (lo w val : Nat) : State :=
  let off := h.reg.off + h.reg.stride * h.idx
  if s.writeRefused h off val then s.access h.node
  else match s.writeAct h off val with
  | some s => s
  | none => s.writeFields h lo w val

/-! ## Words -/

/-- The high word in effect of a 64-bit register, with its W1S and W1C bits at 0 (R16). -/
def State.highWord (s : State) (h : Hit) : Nat :=
  let off := h.reg.off + h.reg.stride * h.idx
  bits ((h.reg.fields.map fun f => if f.ty = .w1s ∨ f.ty = .w1c then 0 else s.view h.node off f * 2 ^ f.lo).sum) 32 32

/-- A full write of a word of a register (R16, R17): the high word of a 64-bit register is staged, unless the state refuses writes of
the register (R60); its low word takes both into effect. -/
def State.writeWord (s : State) (h : Hit) (dw v : Nat) : State :=
  if h.reg.words = 2 then
    if h.word = 1 then
      if s.writeGated h (h.reg.off + h.reg.stride * h.idx) then s.access h.node else { s with staged := tset none s.staged dw (some v) }
    else
      let hi := (tget none s.staged (dw + 1)).getD (s.highWord h)
      State.writeReg { s with staged := tset none s.staged (dw + 1) none } h 0 64 (hi * 2 ^ 32 + v)
  else s.writeReg h (32 * h.word) 32 (v * 2 ^ (32 * h.word))

/-- What a read of a word gives: the captured word where its lowest word has been read, else the word as it is (R15, R17). -/
def State.readVal (s : State) (h : Hit) (dw : Nat) : Nat :=
  if h.word = 0 then s.wordView h else (tget none s.captured dw).getD (s.wordView h)

/-- The read of the lowest word of a register of more than one word captures the higher words (R15, R17). -/
def State.capture (s : State) (h : Hit) (dw : Nat) : State :=
  if h.word = 0 then
    let ks := List.range (h.reg.words - 1)
    { s with captured := ks.foldl (fun t k => tset none t (dw + k + 1) (some (s.wordView ⟨h.node, h.reg, h.idx, k + 1⟩))) s.captured }
  else s

/-- The RC fields of the word that is read keep only the increments `inc` of the same clock (R21, R23). -/
def State.readClear (s : State) (h : Hit) (inc : Nat) : State :=
  (h.wordFields.filter fun f => decide (f.ty = .rc)).foldl (fun (s : State) f => s.wr (h.fref f) inc) s

/-- The bytes of a word that byte enables name (R14). -/
def maskBytes (be : BitVec 4) (v : Nat) : Nat := ((List.range 4).map fun i => if be.getLsbD i then bits v (8 * i) 8 * 2 ^ (8 * i) else 0).sum

/-! ## MSI-X table and granary window -/

/-- An offset in the MSI-X table or in its pending bits. -/
def msixAt (off : Nat) : Bool := decide (0x8000 ≤ off ∧ off < 0x9020)

/-- A word of the MSI-X table, or of the pending bits. -/
def State.msixRead (s : State) (off : Nat) : Nat :=
  if 0x9000 ≤ off then ((List.range 32).map fun i => s.rd (msixPending ((off - 0x9000) / 4 * 32 + i)) * 2 ^ i).sum
  else
    let v := (off - 0x8000) / 16
    if off % 16 = 0 then s.rd (msixAddrLo v) else if off % 16 = 4 then s.rd (msixAddrHi v)
    else if off % 16 = 8 then s.rd (msixData v) else s.rd (msixMask v)

/-- A write to the MSI-X table; the pending bits are read only.  A vector that is unmasked while pending is sent. -/
def State.msixWrite (s : State) (off val : Nat) : State :=
  if 0x9000 ≤ off then s
  else
    let v := (off - 0x8000) / 16
    if off % 16 = 0 then s.wr (msixAddrLo v) (val / 4 * 4) else if off % 16 = 4 then s.wr (msixAddrHi v) val
    else if off % 16 = 8 then s.wr (msixData v) val
    else
      let s := s.wr (msixMask v) (val % 2)
      if val % 2 = 0 ∧ s.flag (msixPending v) = true then (s.wr (msixPending v) 0).sendMsix v else s

/-- An offset in the granary debug window (R39). -/
def granAt (off : Nat) : Bool := decide (0x8000000 ≤ off ∧ off < 0x8000000 + 48 * 2 ^ 20)

/-- A byte of the loft: 12,288 bytes for each of a lane's 16 lines, which hold the levels of its swath packed without tags (R242; the order
of lanes and lines is DEDUCED, assumption 311); none where no line stands. -/
def State.loftByte (s : State) (a : Nat) : Option Byte :=
  match tget none (s.head (a / 196608)).loft (a / 12288 % 16) with
  | none => none
  | some l =>
    let b := 8 * (a % 12288)
    some (BitVec.ofNat 8 ((l.words.getD (b / 60) 0 + l.words.getD (b / 60 + 1) 0 * 2 ^ 60) / 2 ^ (b % 60)))

/-- The hardware has written a granary region whose layout the spec does not give since it was initialised to 0 (R427). -/
def State.granFilled (s : State) (bank : Nat) : Bool :=
  if bank < 27 then !s.rowCache.isEmpty
  else if bank < 35 then !s.cams.isEmpty
  else if bank < 37 then !s.holders.isEmpty || !s.baleJobs.isEmpty
  else if bank < 40 then !s.cams.isEmpty
  else if bank < 41 then !s.ctxs.isEmpty || !s.rings.isEmpty
  else decide (s.sysr.stage ≠ .reset)

/-- A byte of the granary by logical byte address (R426): the loft, the tables and the tally accumulators (R557); elsewhere what a write
through the window has left, 0 where nothing has been written (R427), or a free value where the hardware works. -/
def State.granByte (s : State) (a : Nat) : Byte :=
  if 0x600000 ≤ a ∧ a < 0xE00000 then BitVec.ofNat 8 (tget nmReset s.nmap ((a - 0x600000) / 8) / 2 ^ (8 * (a % 8)))
  else if 0xE00000 ≤ a ∧ a < 0x1200000 then BitVec.ofNat 8 (tget 0 s.ncal ((a - 0xE00000) / 4) / 2 ^ (8 * (a % 4)))
  else if 0x1200000 ≤ a ∧ a < 0x1300000 then BitVec.ofNat 8 (tget 0 s.thresh ((a - 0x1200000) / 2) / 2 ^ (8 * (a % 2)))
  else if 0x1B00000 ≤ a ∧ a < 0x1D00000 then
    let g := (a - 0x1B00000) / 2
    BitVec.ofNat 8 (tget 0 (s.head (g / 32768)).tally (g % 32768) / 2 ^ (8 * (a % 2)))
  else
    match (if a < 0x600000 then s.loftByte a else none) with
    | some b => b
    | none =>
      (tget none s.mem.window a).getD
        (if 0x600000 ≤ a ∧ s.granFilled (a / 2 ^ 20) then BitVec.ofNat 8 (Config.granByte a s.fresh) else 0#8)

/-- A word of the debug window; the model's counter of free values advances. -/
def State.granWord (s : State) (a : Nat) : Nat × State :=
  (leNat ((List.range 4).map fun i => s.granByte (a + i)), { s with fresh := s.fresh + 1 })

/-- A number with 32 bits of it replaced. -/
def putWord (old lo v : Nat) : Nat := old - bits old lo 32 * 2 ^ lo + v * 2 ^ lo

/-- A write through the debug window in TEST (R39, R428). -/
def State.granWrite (s : State) (a v : Nat) : State :=
  if 0x600000 ≤ a ∧ a < 0xE00000 then
    let k := (a - 0x600000) / 8
    { s with nmap := tset nmReset s.nmap k (putWord (tget nmReset s.nmap k) (8 * (a % 8)) v), nmapBad := tset false s.nmapBad k false }
  else if 0xE00000 ≤ a ∧ a < 0x1200000 then
    let k := (a - 0xE00000) / 4
    { s with ncal := tset 0 s.ncal k v, ncalBad := tset false s.ncalBad k false }
  else if 0x1200000 ≤ a ∧ a < 0x1300000 then
    let k := (a - 0x1200000) / 2
    { s with thresh := tsets 0 s.thresh k [v % 65536, v / 65536], threshBad := tdrop s.threshBad k (k + 2) }
  else if 0x1B00000 ≤ a ∧ a < 0x1D00000 then
    let g := (a - 0x1B00000) / 2
    let h := s.head (g / 32768)
    s.setHead (g / 32768) { h with tally := tsets 0 h.tally (g % 32768) [v % 65536, v / 65536] }
  else { s with mem := { s.mem with window := tsets none s.mem.window a ((leBytes 4 v).map some) } }

/-! ## Reads and writes of BAR0 -/

/-- Offsets 0x24 to 0x3F of a node's header (R28, R40): they read 0 and ignore writes. -/
def headerGap (off : Nat) : Bool :=
  let rel := off - (Node.ofOffset off).base
  decide (off < 0x1000000 ∧ 0x24 ≤ rel ∧ rel < 0x40)

/-- A read that the device answers: `dw` counts 32-bit words. -/
def State.readNow (s : State) (dw : Nat) (be : BitVec 4) (inc : Nat) : State :=
  let off := 4 * dw
  if granAt off then
    let r := s.granWord (off - 0x8000000)
    r.2.put (.bar0 off (maskBytes be r.1))
  else if msixAt off then s.put (.bar0 off (maskBytes be (s.msixRead off)))
  else if headerGap off then s.put (.bar0 off 0)
  else match regAt off with
  | none => (s.access (Node.ofOffset off)).put (.bar0 off 0)
  | some h =>
    if off = 0xF00068 then s.readAuditIndex.put (.bar0 off (maskBytes be (s.auditIndex % 2 ^ 32)))
    else
      let v := s.readVal h dw
      ((s.capture h dw).readClear h inc).put (.bar0 off (maskBytes be v))

/-- A read of BAR0: none is answered while the link is down; after a shutdown, SYS and HLTH answer and everything else reads 0 (R551);
in sleep a read outside SYS waits for the wake (R619). -/
def State.barRead (s : State) (dw : Nat) (be : BitVec 4) (inc : Nat) (i : Instr) : State :=
  let unit := 4 * dw / 0x100000
  if s.hlth.shutdown && !s.linkDown && decide (unit ≠ 0 ∧ unit ≠ 14) then s.put (.bar0 (4 * dw) 0)
  else s.hostAt unit i fun s => s.readNow dw be inc

/-- A write that reaches the device (R14, R39, R40). -/
def State.writeNow (s : State) (dw : Nat) (be : BitVec 4) (v : Nat) : State :=
  let off := 4 * dw
  if be ≠ 15#4 then s.access .sys
  else if granAt off then (if s.dev = devTest then s.granWrite (off - 0x8000000) v else s.access .sys)
  else if msixAt off then s.msixWrite off v
  else if headerGap off then s
  else match regAt off with
  | none => s.access (Node.ofOffset off)
  | some h => s.writeWord h dw v

/-- A write of BAR0. -/
def State.barWrite (s : State) (dw : Nat) (be : BitVec 4) (v : Nat) (i : Instr) : State :=
  s.hostAt (4 * dw / 0x100000) i fun s => s.writeNow dw be v

/-- `REGISTER_WRITE`. -/
def execRegisterWrite (dw : Nat) (be : BitVec 4) (v : Word) (s : State) : Host.Outcome State Fault Refusal :=
  .next (s.barWrite dw be v.toNat (.registerWrite dw be v))

/-- `LOW_WORD_READ` (R15, R17): a read of any word; that of a lowest word captures the words above it. -/
def execLowWordRead (dw : Nat) (be : BitVec 4) (s : State) : Host.Outcome State Fault Refusal :=
  .next (s.barRead dw be 0 (.lowWordRead dw be))

/-- `AUDIT_INDEX_READ` (R589). -/
def execAuditIndexRead (s : State) : Host.Outcome State Fault Refusal :=
  .next (s.barRead (0xF00068 / 4) 15#4 0 .auditIndexRead)

/-- `RC_FIELD_READ` (R21, R23): `inc` is what the source adds in the same clock. -/
def execRcFieldRead (dw inc : Nat) (s : State) : Host.Outcome State Fault Refusal :=
  .next (s.barRead dw 15#4 inc (.rcFieldRead dw inc))

/-- `UNMAPPED_ACCESS` (R40). -/
def execUnmappedAccess (dw : Nat) (write : Bool) (s : State) : Host.Outcome State Fault Refusal :=
  .next (if write then s.barWrite dw 15#4 0 (.unmappedAccess dw write) else s.barRead dw 15#4 0 (.unmappedAccess dw write))

end Sys2Proof.Machine
end

