-- ==== Sys2Proof/Machine/Wire.lean ====
section
/-!
DEFINITION. The bits on a lane (R11, R223, R224): the sync header and the scrambled body of each block that a transmitter sends, in the order
in which they leave, and what a receiver makes of 66 bits.  Commands carry received bodies as they are after descrambling.
-/

namespace Sys2Proof.Machine

/-- The blocks that a record of the output stands for, oldest first, with whether each is a data block. -/
def Sent.blocks : Sent → List (Bool × Nat)
  | .block _ data body => [(data, body)]
  | .idle _ n since => (List.range n).map fun i => (false, if (since + i + 1) % alignEvery = 0 then 0x4B else 0x1E)
  | .again _ body n => (List.replicate n [(false, 0x1E), (false, 0x1E), (false, 0x1E), (false, body)]).flatten
  | _ => []

/-- The sync header of a block: 0 then 1 for a data block, 1 then 0 for a control block (R223). -/
def syncBits (data : Bool) : List Bool := [!data, data]

/-- The bits of a body, bit 0 first (R11, R223). -/
def bodyBits (body : Nat) : List Bool := natBits 64 body

/-- One bit through x^58 + x^39 + 1 (R224), from the 58 scrambled bits before it, the newest first. -/
def scrambleBit (st : List Bool) (b : Bool) : Bool := b ^^ (st.getD 38 false ^^ st.getD 57 false)

/-- Scramble bits: those that leave, and the scrambled bits before the next one. -/
def scramble : List Bool → List Bool → List Bool × List Bool
  | st, [] => ([], st)
  | st, b :: bs => let o := scrambleBit st b; let r := scramble (o :: st.take 57) bs; (o :: r.1, r.2)

/-- Descramble received bits, which are themselves what the next ones depend on. -/
def descramble : List Bool → List Bool → List Bool × List Bool
  | st, [] => ([], st)
  | st, o :: bs => let r := descramble (o :: st.take 57) bs; (scrambleBit st o :: r.1, r.2)

/-- The 66 bits of a block, and the scrambler after it; the header is not scrambled. -/
def wireBlock (st : List Bool) (b : Bool × Nat) : List Bool × List Bool :=
  let r := scramble st (bodyBits b.2)
  (syncBits b.1 ++ r.1, r.2)

/-- What a receiver makes of 66 bits (R223, R224): a data or control block with its body, or an invalid sync header. -/
def rxBlock (st : List Bool) (bs : List Bool) : Option (Bool × Nat) :=
  match bs with
  | false :: true :: body => some (true, bitsNat (descramble st body).1)
  | true :: false :: body => some (false, bitsNat (descramble st body).1)
  | _ => none

/-- The bits that a lane has sent, the first one first (R11, R223, R224); `INVERT_TX` inverts them all. -/
def State.wire (s : State) (l : LaneId) : List Bool :=
  let blocks := (s.sent.reverse.filter fun o => decide (o.lane = some l)).flatMap Sent.blocks
  let out := (blocks.foldl (fun (a : List Bool × List Bool) b => let r := wireBlock a.2 b; (a.1 ++ r.1, r.2)) ([], Config.scramblerSeed l.node.base)).1
  if s.flag (R.LANE_CTRL_INVERT_TX l.node.base) then out.map (!·) else out

end Sys2Proof.Machine
end

