-- ==== Sys2Proof/Machine/Recv.lean ====
section
/-!
DEFINITION. The control blocks that a lane receives, told apart by their type (R239), with their bodies after descrambling (R224).
-/

namespace Sys2Proof.Machine

/-- The control block types of the yoke's messages (R505). -/
def yokeTypes : List Nat := [0x87, 0x96, 0xB4, 0xF0, 0xA5, 0xD2, 0xE1, 0xC3]

/-- A control block of no known type is an invalid block (R239). -/
def State.unknownType (s : State) (l : LaneId) : State := s.count (R.LANE_ERR_TYPE_COUNT l.b) (R.LANE_OVF_TYPE_OVF l.b) l.node 1

/-- A control block of a hub received at `t` (R239); `IDLE` and the device's own `LINE_START` say nothing to the device. -/
def State.recvHead (s : State) (lane : Fin 32) (body t : Nat) : State :=
  let n := lane.val
  match body % 256 with
  | 0x1E => s
  | 0x2D => s.recvTrain (.head lane) body
  | 0x33 => s.recvTemp n body t
  | 0x4B => s.recvAlign n body t
  | 0x55 => (s.advance t).recvNak n body
  | 0x66 => s.recvStatus n body t
  | 0x78 => s
  | _ => s.unknownType (.head lane)

/-- A control block received on any lane; camera and Ethernet lanes have none of these types. -/
def State.recvCtl (s : State) (l : LaneId) (body t : Nat) : State :=
  match l with
  | .head n => s.recvHead n body t
  | .yoke _ => if body % 256 = 0x2D then s.recvTrain l body
      else if body % 256 = 0x1E ∨ yokeTypes.contains (body % 256) then s else s.unknownType l
  | .cam _ => s
  | .eth _ => s

/-- Time passes (R295, R20): MEM serves, the head lanes send, and the compare and divided outputs do what is due by then. -/
def State.passTime (s : State) (d : Nat) : State :=
  let s := { s with now := s.now + d }
  if !s.clocked then s else ((s.memRun s.mem.queue.length).runLanes).runOutputs

/-- `TRAIN` (R230 to R233, R239). -/
def execTrain (l : LaneId) (body : Nat) (s : State) : Host.Outcome State Fault Refusal :=
  if !s.clocked then .next s else .next (s.recvCtl l body s.now)

/-- `NAK` (R239, R250, R254, R255): received at `t`. -/
def execNak (lane : Fin 32) (body t : Nat) (s : State) : Host.Outcome State Fault Refusal :=
  if !s.clocked then .next s else .next (s.recvHead lane body t)

/-- `STATUS` (R239, R256, R265, R268). -/
def execStatus (lane : Fin 32) (body t : Nat) (s : State) : Host.Outcome State Fault Refusal :=
  if !s.clocked then .next s else .next (s.recvHead lane body t)

/-- `TEMP` (R239, R271, R273, R500, R552 to R554). -/
def execTemp (lane : Fin 32) (body t : Nat) (s : State) : Host.Outcome State Fault Refusal :=
  if !s.clocked then .next s else .next (s.recvHead lane body t)

/-- `ALIGN` (R239, R259, R261). -/
def execAlign (lane : Fin 32) (body t : Nat) (s : State) : Host.Outcome State Fault Refusal :=
  if !s.clocked then .next s else .next (s.recvHead lane body t)

end Sys2Proof.Machine
end

