-- ==== Sys2Proof/Machine/Wake.lean ====
section
/-!
DEFINITION. The end of a sleep (R619, R621): the accesses that were held during it take place in the order in which they came.
-/

namespace Sys2Proof.Machine

/-- A host access, by the command that made it; any other command is none. -/
def State.runAccess (s : State) (i : Instr) : State :=
  match i with
  | .registerWrite dw be v => s.barWrite dw be v.toNat i
  | .lowWordRead dw be => s.barRead dw be 0 i
  | .auditIndexRead => s.barRead (0xF00068 / 4) 15#4 0 i
  | .rcFieldRead dw inc => s.barRead dw 15#4 inc i
  | .unmappedAccess dw write => if write then s.barWrite dw 15#4 0 i else s.barRead dw 15#4 0 i
  | .enable n on => s.hostAccess n i fun s => s.ctrlEnable n on
  | .quiesce n on => s.hostAccess n i fun s => s.ctrlQuiesce n on
  | .abort n => s.hostAccess n i fun s => s.ctrlAbort n
  | .reset n b => s.hostAccess n i fun s => s.ctrlReset n b
  | .submissionDoorbell r v => s.hostAccess (.ring r) i fun s => s.sqDoorbell r v.toNat
  | .completionDoorbell r v => s.hostAccess (.ring r) i fun s => s.cqDoorbell r v.toNat
  | .ringResume r => s.hostAccess (.ring r) i fun s => s.resumeRing r
  | .bar2Read off len => s.hostAccess .cmd i fun s => s.readBar2 off len
  | .bar2Write off data => s.hostAccess .cmd i fun s => s.writeBar2 off data
  | .laneCtrlStart l => s.hostAccess l.node i fun s => s.writeStart l
  | .laneRateWrite l rate => s.hostAccess l.node i fun s => s.writeRate l rate
  | .commit cam => s.hostAccess (.cam cam) i fun s => s.writeCommit cam
  | .tbSet base => s.hostAccess .time i fun s => s.tbSet base.val
  | .tbRate base v => s.hostAccess .time i fun s => s.tbRateWrite base.val v.toNat
  | .axAccelWrite axis v => s.hostAccess (.axis axis) i fun s => s.axWrite axis.val (R.AX_ACCEL_ACCEL (axisB axis.val)) v.toNat
  | .axDecelWrite axis v => s.hostAccess (.axis axis) i fun s => s.axWrite axis.val (R.AX_DECEL_DECEL (axisB axis.val)) v.toNat
  | .hlthTallyClr lo hi => s.hostAccess .hlth i fun s => s.writeTallyClr (lo.toNat + hi.toNat * 2 ^ 32)
  | .hostStopRequest on => s.hostAccess .hlth i fun s => s.wrB R.HLTH_STOP_HOST on
  | .secProg v => s.hostAccess .sec i fun s => s.writeProg v.toNat
  | _ => s

/-- `WAKE_DONE` (R619, R621): at `t`, the wake in progress ends; the device is in RUN and the held accesses complete, in order. -/
def execWakeDone (t : Nat) (s : State) : Host.Outcome State Fault Refusal :=
  if s.dev ≠ devSleep ∨ !s.sysr.waking then .next s
  else
    let s := (s.advance t).wakeUp
    .next (s.heldCmds.foldl State.runAccess { s with heldCmds := [] })

/-- `SYS_CTRL_WAKE` (R619). -/
def execSysCtrlWake (s : State) : Host.Outcome State Fault Refusal := .next (s.hostAccess .sys .sysCtrlWake fun s => s.startWake)

end Sys2Proof.Machine
end

