-- ==== Sys2Proof/Machine/Dispatch.lean ====
section
/-!
DEFINITION. One arm per command: the meaning of each.
-/

namespace Sys2Proof.Machine

/-- What a command does to everything but the queue of waiting commands. -/
def exec (i : Instr) (s : State) : Host.Outcome State Fault Refusal :=
  match i with
  | .registerWrite dw be v => Sys2Proof.Machine.execRegisterWrite dw be v s
  | .lowWordRead dw be => Sys2Proof.Machine.execLowWordRead dw be s
  | .auditIndexRead => Sys2Proof.Machine.execAuditIndexRead s
  | .rcFieldRead dw inc => Sys2Proof.Machine.execRcFieldRead dw inc s
  | .unmappedAccess dw write => Sys2Proof.Machine.execUnmappedAccess dw write s
  | .enable n on => Sys2Proof.Machine.execEnable n on s
  | .quiesce n on => Sys2Proof.Machine.execQuiesce n on s
  | .abort n => Sys2Proof.Machine.execAbort n s
  | .abortComplete n => Sys2Proof.Machine.execAbortComplete n s
  | .reset n b => Sys2Proof.Machine.execReset n b s
  | .drainComplete n => Sys2Proof.Machine.execDrainComplete n s
  | .drainTimeout n => Sys2Proof.Machine.execDrainTimeout n s
  | .submissionDoorbell r v => Sys2Proof.Machine.execSubmissionDoorbell r v s
  | .completionDoorbell r v => Sys2Proof.Machine.execCompletionDoorbell r v s
  | .ringResume r => Sys2Proof.Machine.execRingResume r s
  | .packetFetch failed => Sys2Proof.Machine.execPacketFetch failed s
  | .interruptCoalTimeout r => Sys2Proof.Machine.execInterruptCoalTimeout r s
  | .creditWatchdog n => Sys2Proof.Machine.execCreditWatchdog n s
  | .fwFault => Sys2Proof.Machine.execFwFault s
  | .bar2Read off len => Sys2Proof.Machine.execBar2Read off len s
  | .bar2Write off data => Sys2Proof.Machine.execBar2Write off data s
  | .nop h => Sys2Proof.Machine.execNop h s
  | .sysState h target => Sys2Proof.Machine.execSysState h target s
  | .unitQuery h off => Sys2Proof.Machine.execUnitQuery h off s
  | .ctxOpen h lanes groups silo siloMib columns mode rate => Sys2Proof.Machine.execCtxOpen h lanes groups silo siloMib columns mode rate s
  | .ctxStart h pos flags => Sys2Proof.Machine.execCtxStart h pos flags s
  | .ctxStop h mode => Sys2Proof.Machine.execCtxStop h mode s
  | .ctxClose h => Sys2Proof.Machine.execCtxClose h s
  | .ctxQuery h => Sys2Proof.Machine.execCtxQuery h s
  | .unitQuiesce h off flags => Sys2Proof.Machine.execUnitQuiesce h off flags s
  | .unitAbort h off => Sys2Proof.Machine.execUnitAbort h off s
  | .reclaim h off => Sys2Proof.Machine.execReclaim h off s
  | .baleDecode h src dst srcLen dstLen => Sys2Proof.Machine.execBaleDecode h src dst srcLen dstLen s
  | .baleEncode h src dst srcLen dstLen coding e flags layout miscoded => Sys2Proof.Machine.execBaleEncode h src dst srcLen dstLen coding e flags layout miscoded s
  | .baleVerify h src srcLen => Sys2Proof.Machine.execBaleVerify h src srcLen s
  | .baleResume h handle dst dstLen => Sys2Proof.Machine.execBaleResume h handle dst dstLen s
  | .baleDiscard h handle => Sys2Proof.Machine.execBaleDiscard h handle s
  | .layerSet h addr layer when => Sys2Proof.Machine.execLayerSet h addr layer when s
  | .colourSet h addr layer table when => Sys2Proof.Machine.execColourSet h addr layer table when s
  | .pageSubmit h list entries length headland number => Sys2Proof.Machine.execPageSubmit h list entries length headland number s
  | .siloCopy h first lines dst flags => Sys2Proof.Machine.execSiloCopy h first lines dst flags s
  | .nmapWrite h src first entries when => Sys2Proof.Machine.execNmapWrite h src first entries when s
  | .nmapRead h dst first entries => Sys2Proof.Machine.execNmapRead h dst first entries s
  | .ncalWrite h src first entries when => Sys2Proof.Machine.execNcalWrite h src first entries when s
  | .threshLoad h src array when => Sys2Proof.Machine.execThreshLoad h src array when s
  | .levelSet h src colour when => Sys2Proof.Machine.execLevelSet h src colour when s
  | .laneTrain h mask rate => Sys2Proof.Machine.execLaneTrain h mask rate s
  | .laneLatency h mask dst => Sys2Proof.Machine.execLaneLatency h mask dst s
  | .hubStatus h lane dst => Sys2Proof.Machine.execHubStatus h lane dst s
  | .encConfig h channel type block => Sys2Proof.Machine.execEncConfig h channel type block s
  | .synthSet h group when block => Sys2Proof.Machine.execSynthSet h group when block s
  | .compareSet h output flags target width => Sys2Proof.Machine.execCompareSet h output flags target width s
  | .latchRead h input dst most => Sys2Proof.Machine.execLatchRead h input dst most s
  | .divSet h output divisor => Sys2Proof.Machine.execDivSet h output divisor s
  | .camConfig h lane block => Sys2Proof.Machine.execCamConfig h lane block s
  | .camGencp h lane req reqLen room reply => Sys2Proof.Machine.execCamGencp h lane req reqLen room reply s
  | .stripeSet h table entries => Sys2Proof.Machine.execStripeSet h table entries s
  | .statsRead h dst first most => Sys2Proof.Machine.execStatsRead h dst first most s
  | .defectRead h dst first most => Sys2Proof.Machine.execDefectRead h dst first most s
  | .calSeed h pattern lines => Sys2Proof.Machine.execCalSeed h pattern lines s
  | .calAnchor h colour m pos => Sys2Proof.Machine.execCalAnchor h colour m pos s
  | .calProposals h dst most => Sys2Proof.Machine.execCalProposals h dst most s
  | .calPolicy h policy => Sys2Proof.Machine.execCalPolicy h policy s
  | .dmaCopy h src dst len => Sys2Proof.Machine.execDmaCopy h src dst len s
  | .memRetire h addr => Sys2Proof.Machine.execMemRetire h addr s
  | .memRemap h ch row => Sys2Proof.Machine.execMemRemap h ch row s
  | .memLogRead h dst most => Sys2Proof.Machine.execMemLogRead h dst most s
  | .ptpConfig h block => Sys2Proof.Machine.execPtpConfig h block s
  | .pulseSet h output base sec ns frac period width => Sys2Proof.Machine.execPulseSet h output base sec ns frac period width s
  | .timeRead h base => Sys2Proof.Machine.execTimeRead h base s
  | .axisMove h axis target rate accel decel => Sys2Proof.Machine.execAxisMove h axis target rate accel decel s
  | .axisHome h axis method => Sys2Proof.Machine.execAxisHome h axis method s
  | .axisStop h axis mode => Sys2Proof.Machine.execAxisStop h axis mode s
  | .axisSet h axis block => Sys2Proof.Machine.execAxisSet h axis block s
  | .yokeRole h role => Sys2Proof.Machine.execYokeRole h role s
  | .takeover h mask whole => Sys2Proof.Machine.execTakeover h mask whole s
  | .yokeResync h => Sys2Proof.Machine.execYokeResync h s
  | .gleanRun h off mask => Sys2Proof.Machine.execGleanRun h off mask s
  | .gleanPolicy h block => Sys2Proof.Machine.execGleanPolicy h block s
  | .healthRead h dst => Sys2Proof.Machine.execHealthRead h dst s
  | .tallyRead h dst first n => Sys2Proof.Machine.execTallyRead h dst first n s
  | .thermalSet h block => Sys2Proof.Machine.execThermalSet h block s
  | .fwUpdate h image len => Sys2Proof.Machine.execFwUpdate h image len s
  | .sealLoad h content len block sigR sigS => Sys2Proof.Machine.execSealLoad h content len block sigR sigS s
  | .auditRead h dst first most => Sys2Proof.Machine.execAuditRead h dst first most s
  | .keyRevoke h slot sigR sigS msg => Sys2Proof.Machine.execKeyRevoke h slot sigR sigS msg s
  | .secSelfTest h fails => Sys2Proof.Machine.execSecSelfTest h fails s
  | .thresherGrant => Sys2Proof.Machine.execThresherGrant s
  | .composeRow ctx => Sys2Proof.Machine.execComposeRow ctx s
  | .swathCompute lane shadowBad => Sys2Proof.Machine.execSwathCompute lane shadowBad s
  | .sliceRotation => Sys2Proof.Machine.execSliceRotation s
  | .shadowComplete => Sys2Proof.Machine.execShadowComplete s
  | .sliceFault n check => Sys2Proof.Machine.execSliceFault n check s
  | .lineCommit g t => Sys2Proof.Machine.execLineCommit g t s
  | .lineFired ctx line => Sys2Proof.Machine.execLineFired ctx line s
  | .lineStartFire lane group t => Sys2Proof.Machine.execLineStartFire lane group t s
  | .nak lane body t => Sys2Proof.Machine.execNak lane body t s
  | .status lane body t => Sys2Proof.Machine.execStatus lane body t s
  | .temp lane body t => Sys2Proof.Machine.execTemp lane body t s
  | .ping lane t => Sys2Proof.Machine.execPing lane t s
  | .align lane body t => Sys2Proof.Machine.execAlign lane body t s
  | .laneLatencyTimeout => Sys2Proof.Machine.execLaneLatencyTimeout s
  | .train l body => Sys2Proof.Machine.execTrain l body s
  | .blockLock l => Sys2Proof.Machine.execBlockLock l s
  | .lockLoss l clock t => Sys2Proof.Machine.execLockLoss l clock t s
  | .los l on t => Sys2Proof.Machine.execLos l on t s
  | .berWindow l last t => Sys2Proof.Machine.execBerWindow l last t s
  | .tuneCleanCount l => Sys2Proof.Machine.execTuneCleanCount l s
  | .trainStateTimeout l => Sys2Proof.Machine.execTrainStateTimeout l s
  | .tapRequestRetry l => Sys2Proof.Machine.execTapRequestRetry l s
  | .trainTExpiry l => Sys2Proof.Machine.execTrainTExpiry l s
  | .laneCtrlStart l => Sys2Proof.Machine.execLaneCtrlStart l s
  | .laneRateWrite l rate => Sys2Proof.Machine.execLaneRateWrite l rate s
  | .laneTrafficResume lane => Sys2Proof.Machine.execLaneTrafficResume lane s
  | .encoderSample ch x c t => Sys2Proof.Machine.execEncoderSample ch x c t s
  | .quadratureTransition ch a b e => Sys2Proof.Machine.execQuadratureTransition ch a b e s
  | .bissRead ch pos nE nW crc start t => Sys2Proof.Machine.execBissRead ch pos nE nW crc start t s
  | .ssiRead ch raw t => Sys2Proof.Machine.execSsiRead ch raw t s
  | .indexEdge z => Sys2Proof.Machine.execIndexEdge z s
  | .standstill ch t => Sys2Proof.Machine.execStandstill ch t s
  | .lissajousWindow ch => Sys2Proof.Machine.execLissajousWindow ch s
  | .latchEdge input falling e => Sys2Proof.Machine.execLatchEdge input falling e s
  | .compareCommit out t => Sys2Proof.Machine.execCompareCommit out t s
  | .comparePulseEnd out t => Sys2Proof.Machine.execComparePulseEnd out t s
  | .cameraLine cam data unusable damaged resent t => Sys2Proof.Machine.execCameraLine cam data unusable damaged resent t s
  | .frameEnd cam how t => Sys2Proof.Machine.execFrameEnd cam how t s
  | .resendTimeout cam => Sys2Proof.Machine.execResendTimeout cam s
  | .gencpReply cam data => Sys2Proof.Machine.execGencpReply cam data s
  | .gencpTimeout cam => Sys2Proof.Machine.execGencpTimeout cam s
  | .gpioMessage cam inputs => Sys2Proof.Machine.execGpioMessage cam inputs s
  | .camLaneUp cam => Sys2Proof.Machine.execCamLaneUp cam s
  | .commit cam => Sys2Proof.Machine.execCommit cam s
  | .calAnchorTimeout t => Sys2Proof.Machine.execCalAnchorTimeout t s
  | .memRequest kind cls ns req upsets sampled => Sys2Proof.Machine.execMemRequest kind cls ns req upsets sampled s
  | .agePromotion => Sys2Proof.Machine.execAgePromotion s
  | .refresh ch => Sys2Proof.Machine.execRefresh ch s
  | .refreshRatePoll ch above t => Sys2Proof.Machine.execRefreshRatePoll ch above t s
  | .eyeRecentre ch readPs writePs => Sys2Proof.Machine.execEyeRecentre ch readPs writePs s
  | .impedanceCalibration ch => Sys2Proof.Machine.execImpedanceCalibration ch s
  | .scrub addr words upsets => Sys2Proof.Machine.execScrub addr words upsets s
  | .selfRefreshEntry ch => Sys2Proof.Machine.execSelfRefreshEntry ch s
  | .granaryRotation t => Sys2Proof.Machine.execGranaryRotation t s
  | .bankMove => Sys2Proof.Machine.execBankMove s
  | .dramTrainingEnd trained => Sys2Proof.Machine.execDramTrainingEnd trained s
  | .zeroFillEnd => Sys2Proof.Machine.execZeroFillEnd s
  | .sync port source seq twoStep origin corr t => Sys2Proof.Machine.execSync port source seq twoStep origin corr t s
  | .followUp port source seq origin corr t => Sys2Proof.Machine.execFollowUp port source seq origin corr t s
  | .delayReq port source seq corr t => Sys2Proof.Machine.execDelayReq port source seq corr t s
  | .delayResp port source seq requester recv corr t => Sys2Proof.Machine.execDelayResp port source seq requester recv corr t s
  | .pdelayReq port source seq corr t tOut => Sys2Proof.Machine.execPdelayReq port source seq corr t tOut s
  | .pdelayResp port requester seq twoStep recv corr t => Sys2Proof.Machine.execPdelayResp port requester seq twoStep recv corr t s
  | .pdelayRespFollowUp port requester seq origin corr t => Sys2Proof.Machine.execPdelayRespFollowUp port requester seq origin corr t s
  | .announce port a t => Sys2Proof.Machine.execAnnounce port a t s
  | .frameDiscard port => Sys2Proof.Machine.execFrameDiscard port s
  | .syncInterval port t => Sys2Proof.Machine.execSyncInterval port t s
  | .announceInterval port t => Sys2Proof.Machine.execAnnounceInterval port t s
  | .delayReqInterval port t => Sys2Proof.Machine.execDelayReqInterval port t s
  | .announceReceiptTimeout port => Sys2Proof.Machine.execAnnounceReceiptTimeout port s
  | .syncReceiptTimeout port => Sys2Proof.Machine.execSyncReceiptTimeout port s
  | .linkChange port up => Sys2Proof.Machine.execLinkChange port up s
  | .pulseCommit out t => Sys2Proof.Machine.execPulseCommit out t s
  | .pulseEnd out t => Sys2Proof.Machine.execPulseEnd out t s
  | .tbSet base => Sys2Proof.Machine.execTbSet base s
  | .tbRate base v => Sys2Proof.Machine.execTbRate base v s
  | .profileSegment axis t => Sys2Proof.Machine.execProfileSegment axis t s
  | .chopperCycle axis second t => Sys2Proof.Machine.execChopperCycle axis second t s
  | .comparatorTrip axis second t => Sys2Proof.Machine.execComparatorTrip axis second t s
  | .inputEdge axis input level t => Sys2Proof.Machine.execInputEdge axis input level t s
  | .inputAccepted axis input t => Sys2Proof.Machine.execInputAccepted axis input t s
  | .holdTimeout axis t => Sys2Proof.Machine.execHoldTimeout axis t s
  | .axAccelWrite axis v => Sys2Proof.Machine.execAxAccelWrite axis v s
  | .axDecelWrite axis v => Sys2Proof.Machine.execAxDecelWrite axis v s
  | .token ctx line global t => Sys2Proof.Machine.execToken ctx line global t s
  | .swathCrc lane line marked crc t => Sys2Proof.Machine.execSwathCrc lane line marked crc t s
  | .heart role fenced owns checking last t => Sys2Proof.Machine.execHeart role fenced owns checking last t s
  | .heartInterval => Sys2Proof.Machine.execHeartInterval s
  | .check done passed lane line t => Sys2Proof.Machine.execCheck done passed lane line t s
  | .quickCheckEnd lane fails => Sys2Proof.Machine.execQuickCheckEnd lane fails s
  | .mirror q m t => Sys2Proof.Machine.execMirror q m t s
  | .result q m t => Sys2Proof.Machine.execResult q m t s
  | .axis axis pos v acc neg t => Sys2Proof.Machine.execAxis axis pos v acc neg t s
  | .record kind bytes t => Sys2Proof.Machine.execRecord kind bytes t s
  | .messageRetransmit t => Sys2Proof.Machine.execMessageRetransmit t s
  | .partnerDown t => Sys2Proof.Machine.execPartnerDown t s
  | .automaticTakeover lane t => Sys2Proof.Machine.execAutomaticTakeover lane t s
  | .gleanTestStart n test => Sys2Proof.Machine.execGleanTestStart n test s
  | .gleanTestEnd bank passed => Sys2Proof.Machine.execGleanTestEnd bank passed s
  | .gleanRelease n => Sys2Proof.Machine.execGleanRelease n s
  | .coverageLate n bank t => Sys2Proof.Machine.execCoverageLate n bank t s
  | .sensorScan sites t => Sys2Proof.Machine.execSensorScan sites t s
  | .headSensor lane head t => Sys2Proof.Machine.execHeadSensor lane head t s
  | .headEnableTimer lane head t => Sys2Proof.Machine.execHeadEnableTimer lane head t s
  | .tallyFlush lane => Sys2Proof.Machine.execTallyFlush lane s
  | .headLifeUpdate lane head => Sys2Proof.Machine.execHeadLifeUpdate lane head s
  | .ageMonitor drifts => Sys2Proof.Machine.execAgeMonitor drifts s
  | .hlthTallyClr lo hi => Sys2Proof.Machine.execHlthTallyClr lo hi s
  | .hostStopRequest on => Sys2Proof.Machine.execHostStopRequest on s
  | .injectOneBit kind addr data => Sys2Proof.Machine.execInjectOneBit kind addr data s
  | .injectTwoBits kind addr data => Sys2Proof.Machine.execInjectTwoBits kind addr data s
  | .injectPoison kind addr data => Sys2Proof.Machine.execInjectPoison kind addr data s
  | .secProg v => Sys2Proof.Machine.execSecProg v s
  | .secSramParity slot => Sys2Proof.Machine.execSecSramParity slot s
  | .powerOnReset => Sys2Proof.Machine.execPowerOnReset s
  | .porNRelease b => Sys2Proof.Machine.execPorNRelease b s
  | .brownOut => Sys2Proof.Machine.execBrownOut s
  | .perstNLow => Sys2Proof.Machine.execPerstNLow s
  | .perstNRelease b => Sys2Proof.Machine.execPerstNRelease b s
  | .testLogicReset => Sys2Proof.Machine.execTestLogicReset s
  | .rootLoss t => Sys2Proof.Machine.execRootLoss t s
  | .bootWatchdog b => Sys2Proof.Machine.execBootWatchdog b s
  | .ready t => Sys2Proof.Machine.execReady t s
  | .sleepEntryDone t => Sys2Proof.Machine.execSleepEntryDone t s
  | .wake t => Sys2Proof.Machine.execWake t s
  | .sysCtrlWake => Sys2Proof.Machine.execSysCtrlWake s
  | .wakeDone t => Sys2Proof.Machine.execWakeDone t s
  | .stepLost t => Sys2Proof.Machine.execStepLost t s
  | .encConfigFaultWindowEnd ch => Sys2Proof.Machine.execEncConfigFaultWindowEnd ch s
  | .yokeRoleTimeout => Sys2Proof.Machine.execYokeRoleTimeout s
  | .cropStartTimeout t => Sys2Proof.Machine.execCropStartTimeout t s
  | .exposureEnd cam t => Sys2Proof.Machine.execExposureEnd cam t s
  | .pcieReferenceLoss => Sys2Proof.Machine.execPcieReferenceLoss s
  | .invalidBlock l good => Sys2Proof.Machine.execInvalidBlock l good s
  | .faultDetected n st req resp slots => Sys2Proof.Machine.execFaultDetected n st req resp slots s

end Sys2Proof.Machine
end

