-- ==== Sys2Proof/Machine/Step.lean ====
section
/-!
DEFINITION. One step: the command at the front of the queue takes effect; on an empty queue the block idles.
-/

namespace Sys2Proof.Machine

/-- The block idles for a tick of 1 ns (R295): the fire timeline, which nothing stops (R20), advances by 16 units of 1/16 ns, and MEM, the
head lanes and the compare and divided outputs go on; everything else that a clock drives is a command of its own (DESIGN CHOICE,
assumption 2). -/
def State.idle (s : State) : State := s.passTime 16

/-- One step. -/
def step (s : State) : Host.Outcome State Fault Refusal :=
  match s.pending with
  | [] => .next s.idle
  | i :: rest => exec i { s with pending := rest }

/-- Put the command that a word spells in front of the queue; the state as it is where the word spells none. -/
def State.withFetchWord (s : State) (nbits w : Nat) : State :=
  match decodeTableWord nbits w with
  | some i => { s with pending := i :: s.pending }
  | none => s

end Sys2Proof.Machine
end

