-- ==== Sys2Proof/WellFormed.lean ====
section
/-!
DEFINITION. Which commands are well formed: what the bus, the wires and the timers of the block can bring, within the widths that the
spec gives their fields; and the words that a packet command stands for in its ring (R67, R90).  The meanings are total: an ill-formed
command is never sent, and nothing rests on what it would do.
-/

namespace Sys2Proof

open Machine

/-- The header fields of a packet fit their bytes (R67). -/
def Machine.Hdr.wf (h : Hdr) : Bool := decide (h.sq < 65536 ∧ h.ctx < 256 ∧ h.seq < 65536 ∧ h.entries < 256)

/-- The parameters of a packet fit their bytes (R67, R90); a command that is no packet has none. -/
def Instr.fieldsFit (i : Instr) : Bool :=
  match packetFields i with
  | none => true
  | some (h, _, fs) => h.wf && fs.all fun x => decide (x.2.2 < 2 ^ (8 * x.2.1))

/-- A request to MEM carries a DRAM address (R389) or a logical byte address of the granary (R425). -/
def Machine.MemReq.wf : MemReq → Bool
  | .dramRead addr len => decide (0 < len ∧ addr + len ≤ 2 ^ 36)
  | .dramWrite addr data => decide (0 < data.length ∧ addr + data.length ≤ 2 ^ 36)
  | .gran addr _ _ _ => decide (addr < 48 * 2 ^ 20)

/-- The data set of an Announce message within its fields (IEEE 1588-2019, which R452 names). -/
def Machine.Announce.wf (a : Announce) : Bool :=
  decide (a.source < 2 ^ 80 ∧ a.gm < 2 ^ 64 ∧ a.priority1 < 256 ∧ a.clockClass < 256 ∧ a.accuracy < 256 ∧ a.variance < 65536 ∧
    a.priority2 < 256 ∧ a.steps < 65536 ∧ a.timeSource < 256 ∧ a.flags < 65536)

/-- What the board writes into the SPI NOR has a 32-bit byte address (R573, R575). -/
def Machine.BootIn.wf (b : BootIn) : Bool := b.prog.all fun p => decide (p.1 + p.2.length ≤ 2 ^ 32)

/-- The tables of a mirrored state come in the canonical form in which their sender holds them (R513). -/
def Machine.Mirror.wf (m : Mirror) : Bool :=
  twf nmReset m.nmap && twf 0 m.ncal && twf 0 m.thresh && twf levelReset m.levels

def Machine.MirrorMsg.wf : MirrorMsg → Bool
  | .load m => m.wf
  | _ => true

/-- The bytes of a record that the yoke carries (R360, R362, R376): a tile, a defect, a proposal. -/
def recordSize (kind : Fin 3) : Nat := if kind = 0 then 48 else if kind = 1 then 32 else 16

/-- What a command carries beside the fields of a packet lies within the widths of the spec: offsets within BAR0 and BAR2 (R59), bodies of
control blocks, samples of a 14-bit converter, lengths. -/
def Instr.operandsFit : Instr → Bool
  | .registerWrite dw _ _ => decide (dw < 2 ^ 26)
  | .lowWordRead dw _ => decide (dw < 2 ^ 26)
  | .auditIndexRead => true
  | .rcFieldRead dw _ => decide (dw < 2 ^ 26)
  | .unmappedAccess dw _ => decide (dw < 2 ^ 26)
  | .enable _ _ => true
  | .quiesce _ _ => true
  | .abort _ => true
  | .abortComplete _ => true
  | .reset _ b => b.wf
  | .drainComplete _ => true
  | .drainTimeout _ => true
  | .submissionDoorbell _ _ => true
  | .completionDoorbell _ _ => true
  | .ringResume _ => true
  | .packetFetch _ => true
  | .interruptCoalTimeout _ => true
  | .creditWatchdog _ => true
  | .fwFault => true
  | .bar2Read off len => decide (0 < len ∧ off + len ≤ 2 ^ 32)
  | .bar2Write off data => decide (0 < data.length ∧ off + data.length ≤ 2 ^ 32)
  | .nop _ => true
  | .sysState _ _ => true
  | .unitQuery _ _ => true
  | .ctxOpen _ _ _ _ _ _ _ _ => true
  | .ctxStart _ _ _ => true
  | .ctxStop _ _ => true
  | .ctxClose _ => true
  | .ctxQuery _ => true
  | .unitQuiesce _ _ _ => true
  | .unitAbort _ _ => true
  | .reclaim _ _ => true
  | .baleDecode _ _ _ _ _ => true
  | .baleEncode _ _ _ _ _ _ _ _ _ _ => true
  | .baleVerify _ _ _ => true
  | .baleResume _ _ _ _ => true
  | .baleDiscard _ _ => true
  | .layerSet _ _ _ _ => true
  | .colourSet _ _ _ _ _ => true
  | .pageSubmit _ _ _ _ _ _ => true
  | .siloCopy _ _ _ _ _ => true
  | .nmapWrite _ _ _ _ _ => true
  | .nmapRead _ _ _ _ => true
  | .ncalWrite _ _ _ _ _ => true
  | .threshLoad _ _ _ _ => true
  | .levelSet _ _ _ _ => true
  | .laneTrain _ _ _ => true
  | .laneLatency _ _ _ => true
  | .hubStatus _ _ _ => true
  | .encConfig _ _ _ _ => true
  | .synthSet _ _ _ _ => true
  | .compareSet _ _ _ _ _ => true
  | .latchRead _ _ _ _ => true
  | .divSet _ _ _ => true
  | .camConfig _ _ _ => true
  | .camGencp _ _ _ _ _ _ => true
  | .stripeSet _ _ _ => true
  | .statsRead _ _ _ _ => true
  | .defectRead _ _ _ _ => true
  | .calSeed _ _ _ => true
  | .calAnchor _ _ _ _ => true
  | .calProposals _ _ _ => true
  | .calPolicy _ _ => true
  | .dmaCopy _ _ _ _ => true
  | .memRetire _ _ => true
  | .memRemap _ _ _ => true
  | .memLogRead _ _ _ => true
  | .ptpConfig _ _ => true
  | .pulseSet _ _ _ _ _ _ _ _ => true
  | .timeRead _ _ => true
  | .axisMove _ _ _ _ _ _ => true
  | .axisHome _ _ _ => true
  | .axisStop _ _ _ => true
  | .axisSet _ _ _ => true
  | .yokeRole _ _ => true
  | .takeover _ _ _ => true
  | .yokeResync _ => true
  | .gleanRun _ _ _ => true
  | .gleanPolicy _ _ => true
  | .healthRead _ _ => true
  | .tallyRead _ _ _ _ => true
  | .thermalSet _ _ => true
  | .fwUpdate _ _ _ => true
  | .sealLoad _ _ _ _ sigR sigS => decide (sigR.length = 48 ∧ sigS.length = 48)
  | .auditRead _ _ _ _ => true
  | .keyRevoke _ _ sigR sigS msg => decide (sigR.length = 48 ∧ sigS.length = 48 ∧ msg.length = 32)
  | .secSelfTest _ _ => true
  | .thresherGrant => true
  | .composeRow ctx => decide (ctx < 256)
  | .swathCompute _ _ => true
  | .sliceRotation => true
  | .shadowComplete => true
  | .sliceFault _ _ => true
  | .lineCommit _ _ => true
  | .lineFired ctx line => decide (ctx < 256 ∧ line < 2 ^ 32)
  | .lineStartFire _ _ _ => true
  | .nak _ body _ => decide (body < 2 ^ 64)
  | .status _ body _ => decide (body < 2 ^ 64)
  | .temp _ body _ => decide (body < 2 ^ 64)
  | .ping _ _ => true
  | .align _ body _ => decide (body < 2 ^ 64)
  | .laneLatencyTimeout => true
  | .train _ body => decide (body < 2 ^ 64)
  | .blockLock _ => true
  | .lockLoss _ _ _ => true
  | .los _ _ _ => true
  | .berWindow _ _ _ => true
  | .tuneCleanCount _ => true
  | .trainStateTimeout _ => true
  | .tapRequestRetry _ => true
  | .trainTExpiry _ => true
  | .laneCtrlStart _ => true
  | .laneRateWrite _ _ => true
  | .laneTrafficResume _ => true
  | .encoderSample _ x c _ => decide (-8192 ≤ x ∧ x < 8192 ∧ -8192 ≤ c ∧ c < 8192)
  | .quadratureTransition _ _ _ _ => true
  | .bissRead _ pos _ _ crc _ _ => decide (pos < 2 ^ 64 ∧ crc < 64)
  | .ssiRead _ raw _ => decide (raw < 2 ^ 64)
  | .indexEdge _ => true
  | .standstill _ _ => true
  | .lissajousWindow _ => true
  | .latchEdge _ _ _ => true
  | .compareCommit _ _ => true
  | .comparePulseEnd _ _ => true
  | .cameraLine _ data _ damaged _ _ => damaged.all fun r => decide (r.1 + r.2 ≤ data.length)
  | .frameEnd _ _ _ => true
  | .resendTimeout _ => true
  | .gencpReply _ data => decide (data.length < 65536)
  | .gencpTimeout _ => true
  | .gpioMessage _ _ => true
  | .camLaneUp _ => true
  | .commit _ => true
  | .calAnchorTimeout _ => true
  | .memRequest kind cls _ req _ _ => decide (kind < 256 ∧ cls < 4) && req.wf
  | .agePromotion => true
  | .refresh _ => true
  | .refreshRatePoll _ _ _ => true
  | .eyeRecentre _ _ _ => true
  | .impedanceCalibration _ => true
  | .scrub addr words _ => decide (addr + 8 * words ≤ 2 ^ 36)
  | .selfRefreshEntry _ => true
  | .granaryRotation _ => true
  | .bankMove => true
  | .dramTrainingEnd _ => true
  | .zeroFillEnd => true
  | .sync _ source seq _ _ _ _ => decide (source < 2 ^ 80 ∧ seq < 65536)
  | .followUp _ source seq _ _ _ => decide (source < 2 ^ 80 ∧ seq < 65536)
  | .delayReq _ source seq _ _ => decide (source < 2 ^ 80 ∧ seq < 65536)
  | .delayResp _ source seq requester _ _ _ => decide (source < 2 ^ 80 ∧ seq < 65536 ∧ requester < 2 ^ 80)
  | .pdelayReq _ source seq _ t tOut => decide (source < 2 ^ 80 ∧ seq < 65536 ∧ t ≤ tOut)
  | .pdelayResp _ requester seq _ _ _ _ => decide (requester < 2 ^ 80 ∧ seq < 65536)
  | .pdelayRespFollowUp _ requester seq _ _ _ => decide (requester < 2 ^ 80 ∧ seq < 65536)
  | .announce _ a _ => a.wf
  | .frameDiscard _ => true
  | .syncInterval _ _ => true
  | .announceInterval _ _ => true
  | .delayReqInterval _ _ => true
  | .announceReceiptTimeout _ => true
  | .syncReceiptTimeout _ => true
  | .linkChange _ _ => true
  | .pulseCommit _ _ => true
  | .pulseEnd _ _ => true
  | .tbSet _ => true
  | .tbRate _ _ => true
  | .profileSegment _ _ => true
  | .chopperCycle _ _ _ => true
  | .comparatorTrip _ _ _ => true
  | .inputEdge _ _ _ _ => true
  | .inputAccepted _ _ _ => true
  | .holdTimeout _ _ => true
  | .axAccelWrite _ _ => true
  | .axDecelWrite _ _ => true
  | .token _ line global _ => decide (line < 2 ^ 32 ∧ global < 2 ^ 48)
  | .swathCrc _ line _ _ _ => decide (line < 2 ^ 32)
  | .heart _ _ _ _ last _ => decide (last < 65536)
  | .heartInterval => true
  | .check _ _ _ line _ => decide (line < 2 ^ 32)
  | .quickCheckEnd _ _ => true
  | .mirror q m _ => decide (q < 65536) && m.wf
  | .result q _ _ => decide (q < 65536)
  | .axis _ pos _ _ _ _ => decide (-(2 ^ 31) ≤ pos ∧ pos < 2 ^ 31)
  | .record kind bytes _ => decide (bytes.length = recordSize kind)
  | .messageRetransmit _ => true
  | .partnerDown _ => true
  | .automaticTakeover _ _ => true
  | .gleanTestStart _ _ => true
  | .gleanTestEnd _ _ => true
  | .gleanRelease _ => true
  | .coverageLate _ _ _ => true
  | .sensorScan sites _ => decide (sites.length = 64)
  | .headSensor _ _ _ => true
  | .headEnableTimer _ _ _ => true
  | .tallyFlush _ => true
  | .headLifeUpdate _ _ => true
  | .ageMonitor drifts => decide (drifts.length = 16) && drifts.all fun d => decide (d < 2 ^ 32)
  | .hlthTallyClr _ _ => true
  | .hostStopRequest _ => true
  | .injectOneBit kind addr _ => decide (kind < 256 ∧ addr % 8 = 0)
  | .injectTwoBits kind addr _ => decide (kind < 256 ∧ addr % 8 = 0)
  | .injectPoison kind addr _ => decide (kind < 256 ∧ addr % 8 = 0)
  | .secProg _ => true
  | .secSramParity _ => true
  | .powerOnReset => true
  | .porNRelease b => b.wf
  | .brownOut => true
  | .perstNLow => true
  | .perstNRelease b => b.wf
  | .testLogicReset => true
  | .rootLoss _ => true
  | .bootWatchdog b => b.wf
  | .ready _ => true
  | .sleepEntryDone _ => true
  | .wake _ => true
  | .sysCtrlWake => true
  | .wakeDone _ => true
  | .stepLost _ => true
  | .encConfigFaultWindowEnd _ => true
  | .yokeRoleTimeout => true
  | .cropStartTimeout _ => true
  | .exposureEnd _ _ => true
  | .pcieReferenceLoss => true
  | .invalidBlock _ _ => true
  | .faultDetected _ _ _ _ _ => true

/-- A command is well formed. -/
def Instr.wf (i : Instr) : Bool := i.fieldsFit && i.operandsFit

/-! ## The entries of a packet -/

/-- Byte `i` of a layout of fields (byte offset, bytes, value): that of the field it lies in, 0 outside every field. -/
def layoutByte (fs : List (Nat × Nat × Nat)) (i : Nat) : Byte :=
  match fs.find? fun x => decide (x.1 ≤ i ∧ i < x.1 + x.2.1) with
  | some x => BitVec.ofNat 8 (x.2.2 / 2 ^ (8 * (i - x.1)))
  | none => 0#8

/-- The fields of the first eight bytes of a packet (R67). -/
def hdrLayout (h : Hdr) (op : Nat) : List (Nat × Nat × Nat) :=
  [(0, 2, op), (2, 1, h.ctx), (3, 1, b2n h.notify + 2 * b2n h.fence + 4 * b2n h.priv), (4, 2, h.seq), (6, 1, h.entries)]

/-- The bytes of the entries that a packet command stands for (R67, R90): empty for a command that is no packet. -/
def Instr.entryBytes (i : Instr) : List Byte :=
  match packetFields i with
  | none => []
  | some (h, op, fs) => (List.range (64 * (1 + h.entries))).map (layoutByte (hdrLayout h op ++ fs))

end Sys2Proof
end

