-- ==== Sys2Proof/Safety.lean ====
section
/-!
DEFINITION. What a safe run of the block keeps, and the conditions in which claims about commands are stated: the canonical form of the
memories, when a packet is taken, when the host reaches a register.
-/

namespace Sys2Proof.Machine

/-- Host memory, DRAM and the granary's tables are in canonical form: addresses strictly rising, no byte, entry or value listed that equals
what an unlisted one reads as. -/
def State.memWf (s : State) : Bool :=
  twf 0#8 s.host && twf 0#8 s.dram && twf nmReset s.nmap && twf 0 s.ncal && twf 0 s.thresh && twf levelReset s.levels

/-- A step neither faults nor refuses. -/
def runsOn (o : Host.Outcome State Fault Refusal) : Bool :=
  match o with
  | .next _ => true
  | .fault _ => false
  | .refused _ => false

/-- A packet command is taken: it is the packet that its ring has fetched first or brings its own (R67), it may start (R79, R80, R83), and
its header passes the checks that every opcode makes (R88, R90). -/
abbrev State.Takes (s : State) (i : Instr) (o : OpInfo) (h : Hdr) : Prop :=
  s.spells i = true ∧ s.mayStart h = true ∧ s.hdrFail o h = none

/-- A read of `n` bytes at an address of R68 gives `b`: the address is valid, the transfer succeeds, and nothing arrives poisoned. -/
abbrev State.Reads (s : State) (a n : Nat) (b : List Byte) : Prop :=
  s.badAddr a n = false ∧ s.dmaFails a n = false ∧ s.poisonedAt a n = false ∧ s.bytesAt a n = b

/-- The state in which a packet that is taken has its effect: it is in progress (R79). -/
def State.begun (s : State) (o : OpInfo) (h : Hdr) : State := s.startPk h o.op

/-- The packet in progress, as its completion names it (R71). -/
def State.asPk (s : State) (o : OpInfo) (h : Hdr) : Pk := ⟨h, o.op, s.pkEpoch⟩

/-- The host reaches every register of BAR0: the link is up, the device neither sleeps (R619) nor has shut down (R551). -/
abbrev State.HostReaches (s : State) : Prop := s.linkDown = false ∧ s.hlth.shutdown = false ∧ s.dev ≠ devSleep

/-- The bytes at host addresses from `lo` to below `hi` aside, host memory is the same in two states. -/
def hostSame (s t : State) (lo hi : Nat) : Prop := ∀ a, a < lo ∨ hi ≤ a → tget 0#8 t.host a = tget 0#8 s.host a

/-- The same for DRAM as it is stored. -/
def dramSame (s t : State) (lo hi : Nat) : Prop := ∀ a, a < lo ∨ hi ≤ a → tget 0#8 t.dram a = tget 0#8 s.dram a

end Sys2Proof.Machine

namespace Sys2Proof

/-- What a command may change of the two memories that host software and the device share: host memory (completions and the outputs of
packets, R68, R71) and stored DRAM (R389): whether it may write the first, and whether it may write the second. -/
def Instr.memoryReach : Instr → Bool × Bool
  | .ringResume _ | .interruptCoalTimeout _ | .sliceRotation | .blockLock _ | .tuneCleanCount _ | .standstill _ _ | .lissajousWindow _
  | .gpioMessage _ _ | .camLaneUp _ | .eyeRecentre _ _ _ | .impedanceCalibration _ | .selfRefreshEntry _ | .granaryRotation _ | .bankMove
  | .pulseEnd _ _ | .holdTimeout _ _ | .heartInterval | .gleanTestStart _ _ | .hlthTallyClr _ _ | .hostStopRequest _ | .secSramParity _
  | .testLogicReset | .wake _ | .sysCtrlWake | .exposureEnd _ _ | .pcieReferenceLoss => (false, false)
  | .zeroFillEnd | .powerOnReset | .brownOut | .perstNLow => (false, true)
  | .lowWordRead _ _ | .auditIndexRead | .rcFieldRead _ _ | .enable _ _ | .quiesce _ _ | .abortComplete _ | .drainComplete _
  | .submissionDoorbell _ _ | .completionDoorbell _ _ | .packetFetch _ | .fwFault | .bar2Read _ _ | .nop _ | .unitQuery _ _ | .ctxStart _ _ _
  | .ctxStop _ _ | .ctxClose _ | .ctxQuery _ | .unitQuiesce _ _ _ | .reclaim _ _ | .baleDiscard _ _ | .layerSet _ _ _ _ | .colourSet _ _ _ _ _
  | .pageSubmit _ _ _ _ _ _ | .nmapWrite _ _ _ _ _ | .ncalWrite _ _ _ _ _ | .threshLoad _ _ _ _ | .levelSet _ _ _ _ | .laneTrain _ _ _
  | .laneLatency _ _ _ | .encConfig _ _ _ _ | .synthSet _ _ _ _ | .compareSet _ _ _ _ _ | .divSet _ _ _ | .camConfig _ _ _
  | .camGencp _ _ _ _ _ _ | .stripeSet _ _ _ | .calSeed _ _ _ | .calAnchor _ _ _ _ | .calPolicy _ _ | .memRetire _ _ | .memRemap _ _ _
  | .ptpConfig _ _ | .pulseSet _ _ _ _ _ _ _ _ | .timeRead _ _ | .axisMove _ _ _ _ _ _ | .axisHome _ _ _ | .axisStop _ _ _ | .axisSet _ _ _
  | .yokeRole _ _ | .takeover _ _ _ | .yokeResync _ | .gleanRun _ _ _ | .gleanPolicy _ _ | .thermalSet _ _ | .fwUpdate _ _ _
  | .keyRevoke _ _ _ _ _ | .secSelfTest _ _ | .swathCompute _ _ | .shadowComplete | .lineCommit _ _ | .lineFired _ _ | .lineStartFire _ _ _
  | .ping _ _ | .lockLoss _ _ _ | .los _ _ _ | .berWindow _ _ _ | .trainStateTimeout _ | .tapRequestRetry _ | .trainTExpiry _ | .laneCtrlStart _
  | .laneRateWrite _ _ | .laneTrafficResume _ | .encoderSample _ _ _ _ | .quadratureTransition _ _ _ _ | .bissRead _ _ _ _ _ _ _
  | .ssiRead _ _ _ | .indexEdge _ | .latchEdge _ _ _ | .compareCommit _ _ | .comparePulseEnd _ _ | .gencpTimeout _ | .commit _
  | .calAnchorTimeout _ | .refreshRatePoll _ _ _ | .scrub _ _ _ | .dramTrainingEnd _ | .sync _ _ _ _ _ _ _ | .followUp _ _ _ _ _ _
  | .delayReq _ _ _ _ _ | .delayResp _ _ _ _ _ _ _ | .pdelayReq _ _ _ _ _ _ | .pdelayResp _ _ _ _ _ _ _ | .pdelayRespFollowUp _ _ _ _ _ _
  | .announce _ _ _ | .frameDiscard _ | .syncInterval _ _ | .announceInterval _ _ | .delayReqInterval _ _ | .announceReceiptTimeout _
  | .syncReceiptTimeout _ | .linkChange _ _ | .pulseCommit _ _ | .tbSet _ | .tbRate _ _ | .profileSegment _ _ | .chopperCycle _ _ _
  | .comparatorTrip _ _ _ | .inputEdge _ _ _ _ | .inputAccepted _ _ _ | .axAccelWrite _ _ | .axDecelWrite _ _ | .token _ _ _ _
  | .swathCrc _ _ _ _ _ | .heart _ _ _ _ _ _ | .check _ _ _ _ _ | .quickCheckEnd _ _ | .mirror _ _ _ | .axis _ _ _ _ _ _ | .messageRetransmit _
  | .partnerDown _ | .automaticTakeover _ _ | .coverageLate _ _ _ | .sensorScan _ _ | .headSensor _ _ _ | .headEnableTimer _ _ _
  | .tallyFlush _ | .headLifeUpdate _ _ | .ageMonitor _ | .secProg _ | .porNRelease _ | .perstNRelease _ | .rootLoss _ | .ready _
  | .sleepEntryDone _ | .stepLost _ | .encConfigFaultWindowEnd _ | .yokeRoleTimeout | .invalidBlock _ _ => (true, false)
  | .registerWrite _ _ _ | .unmappedAccess _ _ | .abort _ | .reset _ _ | .drainTimeout _ | .creditWatchdog _ | .bar2Write _ _ | .sysState _ _
  | .ctxOpen _ _ _ _ _ _ _ _ | .unitAbort _ _ | .baleDecode _ _ _ _ _ | .baleEncode _ _ _ _ _ _ _ _ _ _ | .baleVerify _ _ _
  | .baleResume _ _ _ _ | .siloCopy _ _ _ _ _ | .nmapRead _ _ _ _ | .hubStatus _ _ _ | .latchRead _ _ _ _ | .statsRead _ _ _ _
  | .defectRead _ _ _ _ | .calProposals _ _ _ | .dmaCopy _ _ _ _ | .memLogRead _ _ _ | .healthRead _ _ | .tallyRead _ _ _ _
  | .sealLoad _ _ _ _ _ _ | .auditRead _ _ _ _ | .thresherGrant | .composeRow _ | .sliceFault _ _ | .nak _ _ _ | .status _ _ _ | .temp _ _ _
  | .align _ _ _ | .laneLatencyTimeout | .train _ _ | .cameraLine _ _ _ _ _ _ | .frameEnd _ _ _ | .resendTimeout _ | .gencpReply _ _
  | .memRequest _ _ _ _ _ _ | .agePromotion | .refresh _ | .result _ _ _ | .record _ _ _ | .gleanTestEnd _ _ | .gleanRelease _
  | .injectOneBit _ _ _ | .injectTwoBits _ _ _ | .injectPoison _ _ _ | .bootWatchdog _ | .wakeDone _ | .cropStartTimeout _
  | .faultDetected _ _ _ _ _ => (true, true)

end Sys2Proof
end

