-- ==== Sys2Proof/Certificates/Slice0/Obligations.lean ====
section
/-!
DEFINITION. The statements about the block, one definition each.  A command is named by its constructor of `Instr`; "takes" and "reaches"
are the conditions of Sys2Proof/Safety.lean.
-/

open Sys2Proof Sys2Proof.Machine

/-- A NOP that is taken completes OK with the 48-bit global line number in two words; UNIT_QUERY completes OK with the header words of the node at its offset; CTX_QUERY completes OK with the state code, the queued pages, the line number, the deferrals and the last fault code of its context. Each only leaves the fetched packets and writes its completion. -/
def Obligations.SystemPackets : Prop :=
  (∀ (s : State) (h : Hdr),
      s.Takes (.nop h) opNop h →
      s.accepts .sys = true →
      exec (.nop h) s = .next ((s.begun opNop h).complete (s.asPk opNop h) .ok [s.globalLine % 2 ^ 32, s.globalLine / 2 ^ 32 % 2 ^ 32])) ∧
  (∀ (s : State) (h : Hdr) (n : Node),
      s.Takes (.unitQuery h n.base) opUnitQuery h →
      exec (.unitQuery h n.base) s = .next ((s.begun opUnitQuery h).complete (s.asPk opUnitQuery h) .ok (s.begun opUnitQuery h |>.headerWords n))) ∧
  (∀ (s : State) (h : Hdr),
      s.Takes (.ctxQuery h) opCtxQuery h →
      s.accepts .cmd = true →
      exec (.ctxQuery h) s = .next ((s.begun opCtxQuery h).complete (s.asPk opCtxQuery h) .ok [(s.ctx h.ctx).st.code, (s.ctx h.ctx).pages.length, (s.ctx h.ctx).curLine, (s.ctx h.ctx).deferrals, (s.ctx h.ctx).lastFault]))

/-- CTX_OPEN on a CLOSED context whose parameters are good, whose lanes and groups no other context has and whose rate fits leaves the context OPEN with those parameters and every COMP_CTX_ROW at all ones, its silo tags cleared, and completes OK; with a lane or group in use it completes NO_RESOURCE naming the context; beyond the limits it completes RATE_LIMIT. CTX_CLOSE of an OPEN or FAULTED context closes it and answers the number of pages it aborted. CTX_STOP of a RUNNING context begins its stop, which completes later. -/
def Obligations.ContextOpenClose : Prop :=
  (∀ (s : State) (h : Hdr) (lanes groups silo siloMib columns mode rate : Nat) (c : Ctx),
      s.Takes (.ctxOpen h lanes groups silo siloMib columns mode rate) opCtxOpen h →
      s.accepts .cmd = true →
      (s.ctx h.ctx).st = .closed →
      c = s.ctxAsked h.ctx lanes groups silo siloMib columns mode rate →
      s.openBad c = false →
      s.conflict c = none →
      s.openFast c = false →
      exec (.ctxOpen h lanes groups silo siloMib columns mode rate) s = .next (((((s.begun opCtxOpen h).dramWrite 4 (c.opened.tagAddr 0) (List.replicate c.depthOf (tagBytes 0 false true)).flatten).wr
      (R.COMP_CTX_ROW_ROW h.ctx) 0xFFFFFFFF).setCtx h.ctx c.opened).complete (s.asPk opCtxOpen h) .ok [])) ∧
  (∀ (s : State) (h : Hdr) (lanes groups silo siloMib columns mode rate : Nat) (c : Ctx) (k : Nat),
      s.Takes (.ctxOpen h lanes groups silo siloMib columns mode rate) opCtxOpen h →
      s.accepts .cmd = true →
      (s.ctx h.ctx).st = .closed →
      c = s.ctxAsked h.ctx lanes groups silo siloMib columns mode rate →
      s.openBad c = false →
      s.conflict c = some k →
      exec (.ctxOpen h lanes groups silo siloMib columns mode rate) s = .next ((s.begun opCtxOpen h).complete (s.asPk opCtxOpen h) .noResource [k])) ∧
  (∀ (s : State) (h : Hdr) (lanes groups silo siloMib columns mode rate : Nat) (c : Ctx),
      s.Takes (.ctxOpen h lanes groups silo siloMib columns mode rate) opCtxOpen h →
      s.accepts .cmd = true →
      (s.ctx h.ctx).st = .closed →
      c = s.ctxAsked h.ctx lanes groups silo siloMib columns mode rate →
      s.openBad c = false →
      s.conflict c = none →
      s.openFast c = true →
      exec (.ctxOpen h lanes groups silo siloMib columns mode rate) s = .next ((s.begun opCtxOpen h).complete (s.asPk opCtxOpen h) .rateLimit [])) ∧
  (∀ (s : State) (h : Hdr),
      s.Takes (.ctxClose h) opCtxClose h →
      s.accepts .cmd = true →
      ((s.ctx h.ctx).st = .open ∨ (s.ctx h.ctx).st = .faulted) →
      exec (.ctxClose h) s = .next ((s.begun opCtxClose h).closeCtx h.ctx |>.complete (s.asPk opCtxClose h) .ok [(s.ctx h.ctx).pages.length])) ∧
  (∀ (s : State) (h : Hdr) (mode : Nat),
      s.Takes (.ctxStop h mode) opCtxStop h →
      s.accepts .cmd = true →
      mode ≤ 1 →
      (s.ctx h.ctx).st = .running →
      exec (.ctxStop h mode) s = .next ((s.begun opCtxStop h).stopCtx h.ctx mode (some (s.asPk opCtxStop h))))

/-- A CTX_START of an OPEN context that nothing refuses starts it as startCtx says and completes OK: with the 48-bit global line number of its first line in two words, or with no word when it only writes back. -/
def Obligations.ContextStart : Prop :=
  ∀ (s : State) (h : Hdr) (pos flags : Nat),
      s.Takes (.ctxStart h pos flags) opCtxStart h →
      s.accepts .cmd = true →
      s.dev ≠ devTest →
      s.mode .hlth ≠ .faulted →
      (s.ctx h.ctx).st = .open →
      s.startEntry (s.ctx h.ctx) = none →
      s.startBad (s.ctx h.ctx) (toS 64 pos) flags = false →
      exec (.ctxStart h pos flags) s = .next (((s.begun opCtxStart h).startCtx h.ctx (toS 64 pos) flags).complete (s.asPk opCtxStart h) .ok
      (if (s.ctx h.ctx).wbOnly then [] else words64 ((((s.begun opCtxStart h).startCtx h.ctx (toS 64 pos) flags).ctx h.ctx).global0)))

/-- SYS_STATE to an allowed state other than SLEEP enters it and then completes OK with its code; to SLEEP it completes first. UNIT_QUIESCE of a node that may drain enters a waiting packet with the work found, sets QUIESCE of the subtree or clears its ENABLE by flag 0, and completes at once with 0 items left when nothing drains. UNIT_ABORT aborts the subtree, applies what was held where it breaks a test off, ends the aborts and completes OK with the number of work items. RECLAIM of a FAULTED node takes its holdings back and completes OK with credits, slots and packets taken. -/
def Obligations.DeviceStates : Prop :=
  (∀ (s : State) (h : Hdr) (target v : Nat),
      s.Takes (.sysState h target) opSysState h →
      s.newState target = some v →
      target ≤ 2 →
      v ≠ devSleep →
      exec (.sysState h target) s = .next (((s.begun opSysState h).enterDev v).complete (s.asPk opSysState h) .ok [v])) ∧
  (∀ (s : State) (h : Hdr) (target : Nat),
      s.Takes (.sysState h target) opSysState h →
      s.newState target = some devSleep →
      target ≤ 2 →
      exec (.sysState h target) s = .next (((s.begun opSysState h).complete (s.asPk opSysState h) .ok [devSleep]).enterDev devSleep)) ∧
  (∀ (s : State) (h : Hdr) (n : Node),
      s.Takes (.unitAbort h n.base) opUnitAbort h →
      s.accepts .cmd = true →
      s.mode n ≠ .faulted →
      n ≠ .sys ∧ n ≠ .hlth ∧ n ≠ .mem →
      exec (.unitAbort h n.base) s = .next ((n.subtree.foldl State.abortEnds (s.afterTest (n.subtree.foldl State.writeAbort (s.begun opUnitAbort h)))).complete (s.asPk opUnitAbort h) .ok [(s.begun opUnitAbort h).work n])) ∧
  (∀ (s : State) (h : Hdr) (n : Node),
      s.Takes (.reclaim h n.base) opReclaim h →
      s.accepts .cmd = true →
      s.mode n = .faulted →
      exec (.reclaim h n.base) s = .next (((s.begun opReclaim h).reclaim n).complete (s.asPk opReclaim h) .ok [(s.holding n).req, (s.holding n).resp, (s.holding n).slots, (s.holding n).pks.length])) ∧
  (∀ (s : State) (h : Hdr) (n : Node) (flags : Nat) (b t : State),
      s.Takes (.unitQuiesce h n.base flags) opUnitQuiesce h →
      s.accepts .cmd = true →
      s.mode n ≠ .faulted →
      s.noDrain n = false →
      b = { s.begun opUnitQuiesce h with drains := s.drains ++ [⟨n, s.asPk opUnitQuiesce h, s.now, (s.begun opUnitQuiesce h).work n⟩] } →
      (t = if bit flags 0 then n.subtree.foldl (State.writeQuiesce · true) b else n.subtree.foldl (State.writeEnable · false) b) →
      exec (.unitQuiesce h n.base flags) s = .next (if t.mode n = .draining ∨ t.mode n = .testing then t else t.endDrainWaits n .ok 0))

/-- LAYER_SET of a good descriptor in an OPEN or RUNNING context enters the descriptor, with its palette in format 2, as a change of its layer: into the generation of the next page (when 0) or among the changes that wait for the boundary in place of an earlier one of the same layer and table (when 1), and completes OK. COLOUR_SET does so with 160 bytes of matrix and offsets (table 0) or 65,536 bytes of curves (table 1). -/
def Obligations.LayerPackets : Prop :=
  (∀ (s : State) (h : Hdr) (addr layer w : Nat) (d : List Byte) (b : State),
      s.Takes (.layerSet h addr layer w) opLayerSet h →
      ¬(w = 0 ∧ (s.ctx h.ctx).ninthGeneration = true) →
      layer ≤ 7 →
      w ≤ 1 →
      (s.ctx h.ctx).openOrRunning = true →
      s.accepts .comp = true →
      (layer = 7 → (s.ctx h.ctx).sealedL = none) →
      s.Reads addr 64 d →
      layerBad { desc := d } (s.ctx h.ctx).cols (s.ctx h.ctx).colorants = false →
      (s.ctx h.ctx).pass = false →
      ({ desc := d } : Layer).format ≠ 2 →
      b = (s.begun opLayerSet h).touch 2 addr 64 →
      exec (.layerSet h addr layer w) s = .next ((b.setCtx h.ctx ((b.ctx h.ctx).takeChange w ⟨layer, 0, d, []⟩)).complete (s.asPk opLayerSet h) .ok [])) ∧
  (∀ (s : State) (h : Hdr) (addr layer w : Nat) (d p : List Byte) (b : State),
      s.Takes (.layerSet h addr layer w) opLayerSet h →
      ¬(w = 0 ∧ (s.ctx h.ctx).ninthGeneration = true) →
      layer ≤ 7 →
      w ≤ 1 →
      (s.ctx h.ctx).openOrRunning = true →
      s.accepts .comp = true →
      (layer = 7 → (s.ctx h.ctx).sealedL = none) →
      s.Reads addr 64 d →
      layerBad { desc := d } (s.ctx h.ctx).cols (s.ctx h.ctx).colorants = false →
      (s.ctx h.ctx).pass = false →
      ({ desc := d } : Layer).format = 2 →
      s.Reads ({ desc := d } : Layer).palAddr 8192 p →
      paletteBad p = false →
      b = ((s.begun opLayerSet h).touch 2 addr 64).touch 2 ({ desc := d } : Layer).palAddr 8192 →
      exec (.layerSet h addr layer w) s = .next ((b.setCtx h.ctx ((b.ctx h.ctx).takeChange w ⟨layer, 0, d, b.bytesAt ({ desc := d } : Layer).palAddr 8192⟩)).complete (s.asPk opLayerSet h) .ok [])) ∧
  (∀ (s : State) (h : Hdr) (addr layer table w n : Nat) (d : List Byte) (b : State),
      s.Takes (.colourSet h addr layer table w) opColourSet h →
      ¬(w = 0 ∧ (s.ctx h.ctx).ninthGeneration = true) →
      layer ≤ 7 →
      w ≤ 1 →
      (s.ctx h.ctx).openOrRunning = true →
      s.accepts .comp = true →
      (layer = 7 → (s.ctx h.ctx).sealedL = none) →
      s.Reads addr n d →
      table ≤ 1 →
      (n = (if table = 0 then 160 else 65536)) →
      ((if table = 0 then matBad d else crvBad d) = false) →
      b = (s.begun opColourSet h).touch 2 addr n →
      exec (.colourSet h addr layer table w) s = .next ((b.setCtx h.ctx ((b.ctx h.ctx).takeChange w ⟨layer, table + 1, d, []⟩)).complete (s.asPk opColourSet h) .ok []))

/-- A PAGE_SUBMIT in an OPEN or RUNNING context whose lengths are whole rows and not 0, whose list is readable and good and whose queue holds fewer than 1,024 pages enters a page with its list, its lengths, its number and the layer changes gathered for it, as their generation, at the end of the queue, gathers a new one from then on, and has no completion yet; the queue gives the page its lines. -/
def Obligations.PageSubmit : Prop :=
  ∀ (s : State) (h : Hdr) (list entries length headland number g : Nat) (c : Ctx) (d : List Byte) (es : List ListEntry) (pg : Page) (b : State),
      s.Takes (.pageSubmit h list entries length headland number) opPageSubmit h →
      c = s.ctx h.ctx →
      c.openOrRunning = true →
      s.accepts .comp = true →
      length ≠ 0 →
      length % c.lpr = 0 ∧ headland % c.lpr = 0 →
      s.Reads list (32 * entries) d →
      es = readList d entries →
      pg = { pk := s.asPk opPageSubmit h, id := 0, number := number, length := length, headland := headland, gen := [], list := es, sealed := [], first := none, gap := 0, firstGlobal := 0, marks := 0, fired := 0, layers := none, nextRow := 0, failed := [], failedPoison := [], decoded := [], done := false } →
      ((if c.pass then passListBad s c length es else listBad s (c.layersFor pg) c.sealedL (length / c.lpr) es) = false) →
      c.pages.length < 1024 →
      b = (s.begun opPageSubmit h).touch 2 list (32 * entries) →
      (g = if (b.ctx h.ctx).gen.isEmpty then (b.ctx h.ctx).genId else (b.ctx h.ctx).genId + 1) →
      exec (.pageSubmit h list entries length headland number) s = .next (b.setCtx h.ctx (Ctx.place { b.ctx h.ctx with
      nextId := (b.ctx h.ctx).nextId + 1, gen := [], genId := g,
      pages := (b.ctx h.ctx).pages ++ [{ pg with id := (b.ctx h.ctx).nextId, gen := (b.ctx h.ctx).gen, genId := g }] }))

/-- With no job before it, no gang waiting and a thresher free, a BALE_DECODE that is taken and whose addresses are good is decoded by the first free thresher (unless the throttle share is 256), and a BALE_VERIFY likewise at any share; BALE_DISCARD of a held handle that no job uses releases it and completes OK. -/
def Obligations.BaleDecodePackets : Prop :=
  (∀ (s : State) (h : Hdr) (src dst srcLen dstLen : Nat) (t : Fin 12) (ts : List (Fin 12)),
      s.Takes (.baleDecode h src dst srcLen dstLen) opBaleDecode h →
      s.accepts .bale = true →
      s.baleJobs = [] →
      s.gangs = [] →
      s.freeThreshers = t :: ts →
      s.stalled = false →
      s.badAddr src srcLen = false →
      s.badAddr dst dstLen = false →
      s.dmaFails src srcLen = false →
      exec (.baleDecode h src dst srcLen dstLen) s = .next ((s.begun opBaleDecode h).runDecode (s.asPk opBaleDecode h) t src dst srcLen dstLen)) ∧
  (∀ (s : State) (h : Hdr) (src srcLen : Nat) (t : Fin 12) (ts : List (Fin 12)),
      s.Takes (.baleVerify h src srcLen) opBaleVerify h →
      s.accepts .bale = true →
      s.baleJobs = [] →
      s.gangs = [] →
      s.freeThreshers = t :: ts →
      s.badAddr src srcLen = false →
      s.dmaFails src srcLen = false →
      exec (.baleVerify h src srcLen) s = .next ((s.begun opBaleVerify h).runVerify (s.asPk opBaleVerify h) t src srcLen)) ∧
  (∀ (s : State) (h : Hdr) (handle : Nat),
      s.Takes (.baleDiscard h handle) opBaleDiscard h →
      s.accepts .bale = true →
      s.handleHeld handle = true →
      exec (.baleDiscard h handle) s = .next (((s.begun opBaleDiscard h).setHandle handle {}).complete (s.asPk opBaleDiscard h) .ok []))

/-- With no job or crop before it and a compressor free, a BALE_ENCODE whose layout, coding, addresses and lengths are good is coded by the first free compressor from its first bale on, raw where coding does not shrink it. A BALE_RESUME of a held handle that no job uses marks it busy and continues the job, as soon as the engine it needs is free and nothing waits for it. -/
def Obligations.BaleEncodePackets : Prop :=
  (∀ (s : State) (h : Hdr) (src dst srcLen dstLen coding e flags layout : Nat) (miscoded : Option Nat) (c : Fin 4) (cs : List (Fin 4)),
      s.Takes (.baleEncode h src dst srcLen dstLen coding e flags layout miscoded) opBaleEncode h →
      s.accepts .bale = true →
      s.baleJobs = [] →
      s.freeCompressors = c :: cs →
      s.insp.crops = [] →
      s.stalled = false →
      s.badAddr src srcLen = false →
      s.badAddr dst dstLen = false →
      s.dmaFails src srcLen = false →
      encodeBad (s.privileged h) srcLen coding e (layout % 2 ^ 24) = false →
      exec (.baleEncode h src dst srcLen dstLen coding e flags layout miscoded) s = .next ((s.begun opBaleEncode h).runEncode (s.asPk opBaleEncode h) c ((s.begun opBaleEncode h).encReq (s.asPk opBaleEncode h) coding e flags (layout % 2 ^ 24)) src srcLen 0 dst dstLen miscoded)) ∧
  (∀ (s : State) (h : Hdr) (handle dst dstLen : Nat) (b : State),
      s.Takes (.baleResume h handle dst dstLen) opBaleResume h →
      s.accepts .bale = true →
      s.baleJobs = [] →
      s.stalled = false →
      (if (s.handle handle).encode then s.freeCompressors ≠ [] ∧ s.insp.crops = [] else s.gangs = [] ∧ s.freeThreshers ≠ []) →
      s.badAddr dst dstLen = false →
      s.handleHeld handle = true →
      s.dmaFails (s.handle handle).addr (s.handle handle).remain = false →
      b = (s.begun opBaleResume h).setHandle handle { (s.handle handle) with busy := true } →
      exec (.baleResume h handle dst dstLen) s = .next (b.runResume (s.asPk opBaleResume h) handle dst dstLen))

/-- NMAP_WRITE of readable entries within the map that need no privilege or have it completes BAD_NMAP_ENTRY, records the first bad entry in SCRN_CHECK and changes nothing of the map when an entry is bad; else it gives each lane touched its part of the entries, at once or (when 1, on a live lane) for its boundary, and completes OK with the number of entries. NMAP_READ writes the entries in force to its destination, 8 bytes each, and completes OK, or POISONED when one of them is marked. -/
def Obligations.NozzleMapPackets : Prop :=
  (∀ (s : State) (h : Hdr) (src first n w : Nat) (d : List Byte) (es : List Nat) (b : State) (g reason : Nat),
      s.Takes (.nmapWrite h src first n w) opNmapWrite h →
      s.foreignLane h.ctx first n = false →
      w ≤ 1 →
      first + n ≤ 2 ^ 20 →
      s.accepts .scrn = true →
      s.Reads src (8 * n) d →
      es = words8 d n →
      (s.privileged h = true ∨ es.zipIdx.any (fun e => needsPriv (s.nozzle (first + e.2)) e.1) = false) →
      b = (s.begun opNmapWrite h).touch 2 src (8 * n) →
      b.firstBadEntry first es = some (g, reason) →
      (es.zipIdx.any (fun e => needsPriv (b.nozzle (first + e.2)) e.1) = false) →
      exec (.nmapWrite h src first n w) s = .next ((b.recordCheck reason g).complete (s.asPk opNmapWrite h) .badNmapEntry [])) ∧
  (∀ (s : State) (h : Hdr) (src first n w : Nat) (d : List Byte) (es : List Nat) (b t u : State),
      s.Takes (.nmapWrite h src first n w) opNmapWrite h →
      s.foreignLane h.ctx first n = false →
      w ≤ 1 →
      first + n ≤ 2 ^ 20 →
      s.accepts .scrn = true →
      s.Reads src (8 * n) d →
      es = words8 d n →
      (s.privileged h = true ∨ es.zipIdx.any (fun e => needsPriv (s.nozzle (first + e.2)) e.1) = false) →
      b = (s.begun opNmapWrite h).touch 2 src (8 * n) →
      b.firstBadEntry first es = none →
      (t = b.dropSteps (b.runKeys first n ++ es.flatMap nmBears) (((tgets nmReset b.nmap first n ++ es).filter fun e => !nmDisabled e).map nmRowGroup)) →
      (w = 0 ∨ (lanesOf first n).any (fun l => b.changePending (.nmap l)) = false) →
      (u = if es.zipIdx.any (fun e => needsPriv (b.nozzle (first + e.2)) e.1) then t.audit 11 h.ctx 255 Status.ok.code first n (sha384 (t.bytesAt src (8 * n))) else t) →
      exec (.nmapWrite h src first n w) s = .next
      (((lanesOf first n).foldl (fun (s : State) l => s.tableChange (s.laneLive l) w ⟨.nmap l, (lanePart l first es).1, (lanePart l first es).2, []⟩) u).complete
        (s.asPk opNmapWrite h) .ok [n])) ∧
  (∀ (s : State) (h : Hdr) (dst first n : Nat) (bs : List Byte),
      s.Takes (.nmapRead h dst first n) opNmapRead h →
      s.accepts .scrn = true →
      s.badAddr dst (8 * n) = false →
      first + n ≤ 2 ^ 20 →
      bs = (tgets nmReset s.nmap first n).flatMap (leBytes 8) →
      exec (.nmapRead h dst first n) s = .next (if (List.range n).any (fun i => tget false s.nmapBad (first + i)) then (((s.begun opNmapRead h).writePoisoned 5 dst bs).usePoison 5 0 0).complete (s.asPk opNmapRead h) .poisoned [n]
      else ((s.begun opNmapRead h).writeAt 5 dst bs).complete (s.asPk opNmapRead h) .ok [n]))

/-- NCAL_WRITE of readable entries with no reserved bit within the map gives each lane touched its part of the entries, at once or (when 1, on a live lane) for its boundary, and completes OK with the number of entries. THRESH_LOAD of 65,536 values of at most 4,095 and LEVEL_SET of a good table do so with the array or the colour of the packet. With when 1, no change of the same table may be pending. -/
def Obligations.CalibrationTablePackets : Prop :=
  (∀ (s : State) (h : Hdr) (src first n w : Nat) (d : List Byte) (es : List Nat) (b : State),
      s.Takes (.ncalWrite h src first n w) opNcalWrite h →
      s.foreignLane h.ctx first n = false →
      w ≤ 1 →
      first + n ≤ 2 ^ 20 →
      s.accepts .scrn = true →
      s.Reads src (4 * n) d →
      es = words4 d n →
      (es.any (fun e => decide (ncReserved e ≠ 0)) = false) →
      (w = 0 ∨ (lanesOf first n).any (fun l => s.changePending (.ncal l)) = false) →
      b = (s.begun opNcalWrite h).touch 2 src (4 * n) →
      exec (.ncalWrite h src first n w) s = .next
      (((lanesOf first n).foldl (fun (s : State) l => (s.dropSteps (s.runKeys (lanePart l first es).1 (lanePart l first es).2.length) []).tableChange (s.laneLive l) w
        ⟨.ncal l, (lanePart l first es).1, (lanePart l first es).2, []⟩) b).complete (s.asPk opNcalWrite h) .ok [n])) ∧
  (∀ (s : State) (h : Hdr) (src array w : Nat) (d : List Byte) (b : State),
      s.Takes (.threshLoad h src array w) opThreshLoad h →
      w ≤ 1 →
      array ≤ 7 →
      s.accepts .scrn = true →
      s.Reads src 131072 d →
      ((words2 d 65536).any (fun v => decide (4095 < v)) = false) →
      (w = 0 ∨ s.changePending (.thresh array) = false) →
      b = (s.begun opThreshLoad h).touch 2 src 131072 →
      exec (.threshLoad h src array w) s = .next ((b.tableChange (b.tableLive (.thresh array)) w ⟨.thresh array, 0, words2 d 65536, []⟩).complete (s.asPk opThreshLoad h) .ok [])) ∧
  (∀ (s : State) (h : Hdr) (src colour w : Nat) (d : List Byte) (b : State),
      s.Takes (.levelSet h src colour w) opLevelSet h →
      w ≤ 1 →
      colour ≤ 7 →
      s.accepts .scrn = true →
      s.Reads src 64 d →
      levelBad d = false →
      (w = 0 ∨ s.changePending (.level colour) = false) →
      b = (s.begun opLevelSet h).touch 2 src 64 →
      exec (.levelSet h src colour w) s = .next ((b.tableChange (b.tableLive (.level colour)) w ⟨.level colour, 0, words2 d 14, []⟩).complete (s.asPk opLevelSet h) .ok []))

/-- A COMPOSE_ROW of a context that the compositor serves, whose next page has its lines and whose next row pacing allows begins the page at its first row and, when every thresher that the row needs holds its bale, writes the row, blank when one of them failed; else it asks once for a gang of threshers for the bales that are missing. SILO_COPY of rows within the silo writes for each row a 16-byte header with its number and status and the row, and completes OK with the number of bytes, or POISONED where a row or its tag is poisoned. A THRESHER_GRANT first lets a free compressor code the crops that wait. With enough free threshers for the gang of the earliest deadline, it then takes that gang from the waiting ones and lets a free thresher decode each of its entries in order; with too few nothing is granted; with no gang, the waiting jobs that can run do so. -/
def Obligations.SiloAndComposition : Prop :=
  (∀ (s b : State) (k f : Nat) (p q : Page) (need wait : List (Nat × ListEntry)),
      s.clocked = true →
      s.composes (s.ctx k) = true →
      ((s.ctx k).wbOnly = true → s.stalled = false) →
      (s.ctx k).nextPage = some p →
      p.first = some f →
      s.paceOk (s.ctx k) (f / (s.ctx k).lpr + p.nextRow) = true →
      ((s.ctx k).wbOnly && p.layers.isNone && s.unitHeld (s.ctx k)) = false →
      (b = if p.layers.isNone then s.beginPage k p else s) →
      ((b.ctx k).pages.find? (fun q => decide (q.id = p.id)) = some q) →
      need = q.rowEntries (q.layers.getD []) q.nextRow →
      (wait = need.filter (fun e => !q.failed.contains e.1 && !b.holders.any fun x => decide (x.2 = some ⟨k, q.id, e.1⟩))) →
      wait = [] →
      exec (.composeRow k) s = .next (b.writeRow k q (q.layers.getD []) f (need.any fun e => q.failed.contains e.1) (need.any fun e => q.failedPoison.contains e.1))) ∧
  (∀ (s b : State) (k f : Nat) (p q : Page) (need wait : List (Nat × ListEntry)),
      s.clocked = true →
      s.composes (s.ctx k) = true →
      ((s.ctx k).wbOnly = true → s.stalled = false) →
      (s.ctx k).nextPage = some p →
      p.first = some f →
      s.paceOk (s.ctx k) (f / (s.ctx k).lpr + p.nextRow) = true →
      ((s.ctx k).wbOnly && p.layers.isNone && s.unitHeld (s.ctx k)) = false →
      (b = if p.layers.isNone then s.beginPage k p else s) →
      ((b.ctx k).pages.find? (fun q => decide (q.id = p.id)) = some q) →
      need = q.rowEntries (q.layers.getD []) q.nextRow →
      (wait = need.filter (fun e => !q.failed.contains e.1 && !b.holders.any fun x => decide (x.2 = some ⟨k, q.id, e.1⟩))) →
      wait ≠ [] →
      exec (.composeRow k) s = .next (if b.gangs.contains ⟨k, q.id, f / (s.ctx k).lpr + q.nextRow, wait.map (·.1)⟩ then b
      else { b with gangs := b.gangs ++ [⟨k, q.id, f / (s.ctx k).lpr + q.nextRow, wait.map (·.1)⟩] })) ∧
  (∀ (s : State) (h : Hdr) (first lines dst flags lo n : Nat) (c : Ctx) (b : State) (rows : List (Nat × Nat × List Byte × Bool)) (t u : State),
      s.Takes (.siloCopy h first lines dst flags) opSiloCopy h →
      s.stalled = false →
      c = s.ctx h.ctx →
      c.st ≠ .closed →
      s.accepts .comp = true →
      lines ≠ 0 →
      (lo = first / (if bit flags 0 then 4 * c.lpr else c.lpr)) →
      (n = (first + lines - 1) / (if bit flags 0 then 4 * c.lpr else c.lpr) + 1 - lo) →
      (n ≤ (if bit flags 0 then c.depth / 4 else c.depth)) →
      (bit flags 0 && c.qsOff) = false →
      s.badAddr dst (n * (16 + c.rowSize)) = false →
      b = s.begun opSiloCopy h →
      (rows = (List.range n).map fun i => (lo + i, b.copyRow c (bit flags 0) (lo + i))) →
      (t = rows.foldl (fun s r => (s.noteRead 4 (c.tagAddr (if bit flags 0 then 4 * r.1 + 3 else r.1)) 8).noteRead 4 (if bit flags 0 then c.qsAddr r.1 else c.fullAddr r.1) c.rowSize) b) →
      (u = rows.zipIdx.foldl (fun s r => let bytes := leBytes 4 r.1.1 ++ leBytes 1 r.1.2.1 ++ leBytes 11 0 ++ r.1.2.2.1; let at' := dst + r.2 * (16 + c.rowSize); if r.1.2.2.2 then s.writePoisoned 4 at' bytes else s.writeAt 4 at' bytes) t) →
      (rows.find? (fun r => r.2.2.2) = none) →
      exec (.siloCopy h first lines dst flags) s = .next (u.complete (s.asPk opSiloCopy h) .ok [n * (16 + c.rowSize)])) ∧
  (∀ (s : State) (h : Hdr) (first lines dst flags lo n : Nat) (c : Ctx) (b : State) (rows : List (Nat × Nat × List Byte × Bool)) (bad : Nat × Nat × List Byte × Bool) (t u : State),
      s.Takes (.siloCopy h first lines dst flags) opSiloCopy h →
      s.stalled = false →
      c = s.ctx h.ctx →
      c.st ≠ .closed →
      s.accepts .comp = true →
      lines ≠ 0 →
      (lo = first / (if bit flags 0 then 4 * c.lpr else c.lpr)) →
      (n = (first + lines - 1) / (if bit flags 0 then 4 * c.lpr else c.lpr) + 1 - lo) →
      (n ≤ (if bit flags 0 then c.depth / 4 else c.depth)) →
      (bit flags 0 && c.qsOff) = false →
      s.badAddr dst (n * (16 + c.rowSize)) = false →
      b = s.begun opSiloCopy h →
      (rows = (List.range n).map fun i => (lo + i, b.copyRow c (bit flags 0) (lo + i))) →
      (t = rows.foldl (fun s r => (s.noteRead 4 (c.tagAddr (if bit flags 0 then 4 * r.1 + 3 else r.1)) 8).noteRead 4 (if bit flags 0 then c.qsAddr r.1 else c.fullAddr r.1) c.rowSize) b) →
      (u = rows.zipIdx.foldl (fun s r => let bytes := leBytes 4 r.1.1 ++ leBytes 1 r.1.2.1 ++ leBytes 11 0 ++ r.1.2.2.1; let at' := dst + r.2 * (16 + c.rowSize); if r.1.2.2.2 then s.writePoisoned 4 at' bytes else s.writeAt 4 at' bytes) t) →
      (rows.find? (fun r => r.2.2.2) = some bad) →
      exec (.siloCopy h first lines dst flags) s = .next ((u.usePoison 4 (2 ^ 63 + c.fullAddr bad.1) c.rowSize).complete (s.asPk opSiloCopy h) .poisoned [n * (16 + c.rowSize)])) ∧
  (∀ (s : State) (g : Gang),
      s.clocked = true →
      s.startCrops.nextGang = some g →
      g.entries.length ≤ s.startCrops.freeThreshers.length →
      exec .thresherGrant s = .next ((g.entries.zip s.startCrops.freeThreshers).foldl (fun (t : State) p => t.grantEntry g.ctx g.page p.1 p.2)
      { s.startCrops with gangs := s.startCrops.gangs.filter fun x => decide (x ≠ g) })) ∧
  (∀ (s : State) (g : Gang),
      s.clocked = true →
      s.startCrops.nextGang = some g →
      s.startCrops.freeThreshers.length < g.entries.length →
      exec .thresherGrant s = .next s.startCrops) ∧
  (∀ (s : State),
      s.clocked = true →
      s.startCrops.nextGang = none →
      exec .thresherGrant s = .next s.startCrops.runWaiting)

/-- For a lane of a live context whose next line has its owner, which no change of tables blocks once the boundaries before it are decided and which lies at most 14 lines ahead of the tick, a SWATH_COMPUTE by the slice of the lane stores the swath of the line in the loft, after it has read the rows that it needs, unless a pass-through bale is still missing, and the spare compares when it shadows the lane; with no slice for the lane the line is finished with zeros. -/
def Obligations.ScreeningEngine : Prop :=
  (∀ (s u : State) (lane : Fin 32) (bad : Bool) (c n : Nat) (k : Fin 33),
      s.clocked = true →
      c = s.laneOwner lane.val →
      c ≠ 0 →
      (s.ctx c).live = true →
      n = (s.head lane.val).nextSwath →
      n < (s.ctx c).horizon →
      (s.ctx c).lineOff n = false →
      n ≤ (s.ctx c).line + 14 →
      s.mode .scrn ≠ .faulted →
      u = s.closeTo c n →
      u.dueBlocks c n = false →
      u.laneSlice lane.val = some k →
      (u.swathOf c lane.val n).waits = false →
      (u.ctx c).pass = false →
      exec (.swathCompute lane bad) s = .next (((u.touchRows c lane.val n).storeSwath c lane.val n (u.swathOf c lane.val n)).shadowLine lane.val bad)) ∧
  (∀ (s u : State) (lane : Fin 32) (bad : Bool) (c n : Nat) (k : Fin 33),
      s.clocked = true →
      c = s.laneOwner lane.val →
      c ≠ 0 →
      (s.ctx c).live = true →
      n = (s.head lane.val).nextSwath →
      n < (s.ctx c).horizon →
      (s.ctx c).lineOff n = false →
      n ≤ (s.ctx c).line + 14 →
      s.mode .scrn ≠ .faulted →
      u = s.closeTo c n →
      u.dueBlocks c n = false →
      u.laneSlice lane.val = some k →
      (u.swathOf c lane.val n).waits = false →
      (u.ctx c).pass = true →
      exec (.swathCompute lane bad) s = .next ((((u.touchRows c lane.val n).storeSwath c lane.val n (u.swathOf c lane.val n)).freePass c lane.val n).shadowLine lane.val bad)) ∧
  (∀ (s u : State) (lane : Fin 32) (bad : Bool) (c n : Nat),
      s.clocked = true →
      c = s.laneOwner lane.val →
      c ≠ 0 →
      (s.ctx c).live = true →
      n = (s.head lane.val).nextSwath →
      n < (s.ctx c).horizon →
      (s.ctx c).lineOff n = false →
      n ≤ (s.ctx c).line + 14 →
      s.mode .scrn ≠ .faulted →
      u = s.closeTo c n →
      u.dueBlocks c n = false →
      u.laneSlice lane.val = none →
      exec (.swathCompute lane bad) s = .next (u.finishSwath c lane.val n).1)

/-- When a new period of 2^ROT_LOG2 lines has begun and rotation is enabled and nothing shadows, SLICE_ROTATION makes the spare shadow the next active slice. SHADOW_COMPLETE, after 64 agreeing lines, gives the lane to the spare, which leaves the other slice spare, and counts the rotation. SLICE_FAULT faults a slice, after the record of a failed quick check where a check found it, gives its lane to a spare that works, and a test that it breaks off leaves what was held to be applied. -/
def Obligations.SliceRotation : Prop :=
  (∀ (s : State) (sp : Fin 33) (a : Nat),
      s.clocked = true →
      s.flag R.SCRN_CFG_ROT_EN = true →
      s.gleanFlag 2 = true →
      s.stalled = false →
      s.rotAt < s.globalLine / s.rotPeriod →
      ((List.range 33).any (fun n => (s.slice n).shadows.isSome) = false) →
      s.spare = some sp →
      s.nextActive s.rotNext = some a →
      exec .sliceRotation s = .next { (s.setSlice sp.val { (s.slice sp.val) with shadows := (s.slice a).lane, agreed := 0, checking := false }) with rotAt := s.globalLine / s.rotPeriod, rotNext := (a + 1) % 33 }) ∧
  (∀ (s : State) (n k : Fin 33) (l : Nat),
      s.clocked = true →
      ((List.finRange 33).find? (fun m => (s.slice m.val).shadows.isSome && decide (64 ≤ (s.slice m.val).agreed)) = some n) →
      (s.slice n.val).shadows = some l →
      s.laneSlice l = some k →
      exec .shadowComplete s = .next (((s.setSlice k.val { (s.slice k.val) with lane := none }).setSlice n.val { lane := some l }).count R.SCRN_ROT_COUNT R.SCRN_OVF_ROT_OVF .scrn 1)) ∧
  (∀ (s : State) (n : Fin 33) (l : Nat),
      s.clocked = true →
      ((List.finRange 33).find? (fun m => (s.slice m.val).shadows.isSome && decide (64 ≤ (s.slice m.val).agreed)) = some n) →
      (s.slice n.val).shadows = some l →
      s.laneSlice l = none →
      exec .shadowComplete s = .next ((s.setSlice n.val { lane := some l }).count R.SCRN_ROT_COUNT R.SCRN_OVF_ROT_OVF .scrn 1)) ∧
  (∀ (s : State) (n : Fin 33) (check : Bool),
      s.clocked = true →
      s.mode (.slice n) ≠ .faulted →
      (check = true → (s.slice n.val).checking = true) →
      exec (.sliceFault n check) s = .next (s.afterTest ((if check then s.testDone (.slice n) 0 3 false else s).sliceFails n (if check then .testFail else .fwFault))))

/-- LANE_TRAIN of accepting lanes, none of a RUNNING context, asks every lane of the mask to train at the rate and keeps the packet until all have ended. LANE_LATENCY of lanes that are UP keeps the packet and has eight pings, 10 µs apart, sent on each; with no lane it completes OK with 0. HUB_STATUS of a lane writes the last STATUS with the time at which it arrived, the last HELLO, a zero word and the last TEMP of 64 heads, 544 bytes, and completes OK. -/
def Obligations.HeadLinkPackets : Prop :=
  (∀ (s : State) (h : Hdr) (mask rate : Nat) (b : State),
      s.Takes (.laneTrain h mask rate) opLaneTrain h →
      rate ≤ 1 →
      ((maskList 32 mask).any (fun n => (s.laneCtx n).any fun e => decide (e.st = .running)) = false) →
      s.accepts .hlnk = true →
      ((maskList 32 mask).any (fun n => !s.accepts (headLane n).node) = false) →
      (b = (maskList 32 mask).foldl (fun t n => t.askTrain (headLane n) rate) (s.begun opLaneTrain h)) →
      exec (.laneTrain h mask rate) s = .next (State.finishTrainPks { b with trainPks := b.trainPks ++ [⟨s.asPk opLaneTrain h, maskList 32 mask, 0, 0, false⟩] })) ∧
  (∀ (s : State) (h : Hdr) (mask dst : Nat),
      s.Takes (.laneLatency h mask dst) opLaneLatency h →
      s.accepts .hlnk = true →
      s.badAddr dst (32 * (maskList 32 mask).length) = false →
      ((maskList 32 mask).any (fun l => decide (s.lstate (headLane l) ≠ 5)) = false) →
      maskList 32 mask ≠ [] →
      exec (.laneLatency h mask dst) s = .next ((maskList 32 mask).foldl (fun (s : State) l => s.txRun l) ((List.range 8).foldl (fun (s : State) k => (maskList 32 mask).foldl (fun (s : State) l => s.sendPing l (s.now + k * 160000) (some (h.ring.val * 65536 + h.sq))) s)
      { s.begun opLaneLatency h with latPks := s.latPks ++ [⟨s.asPk opLaneLatency h, h.ring.val * 65536 + h.sq, mask, dst, []⟩] }))) ∧
  (∀ (s : State) (h : Hdr) (mask dst : Nat),
      s.Takes (.laneLatency h mask dst) opLaneLatency h →
      s.accepts .hlnk = true →
      s.badAddr dst 0 = false →
      maskList 32 mask = [] →
      exec (.laneLatency h mask dst) s = .next ((s.begun opLaneLatency h).complete (s.asPk opLaneLatency h) .ok [0])) ∧
  (∀ (s : State) (h : Hdr) (lane dst : Nat),
      s.Takes (.hubStatus h lane dst) opHubStatus h →
      s.accepts .hlnk = true →
      lane ≤ 31 →
      s.badAddr dst 544 = false →
      exec (.hubStatus h lane dst) s = .next (((s.begun opHubStatus h).writeAt 6 dst (leBytes 8 (s.head lane).lastStatus ++ leBytes 8 (s.head lane).statusNs ++
      leBytes 8 (s.head lane).lastHello ++ leBytes 8 0 ++ (List.range 64).flatMap fun k => leBytes 8 (tget 0 (s.head lane).temps k))).complete (s.asPk opHubStatus h) .ok [544]))

/-- ENC_CONFIG of a good block on a channel that paces no RUNNING context configures the channel as encConfigure says. SYNTH_SET of a good block loads a group's synthesizer at once or for the boundary, drops calibration steps of the group and completes OK. COMPARE_SET enters a target of at least 10 ns at the end of its output's queue of at most eight and arms it when it is the first. LATCH_READ writes the oldest records, removes them and answers their number. DIV_SET lets out the pulses whose time has come, sets the divisor, drops the waiting pulses when it is 0 and completes OK. -/
def Obligations.FirePackets : Prop :=
  (∀ (s : State) (h : Hdr) (channel type block : Nat) (d : List Byte) (b : State),
      s.Takes (.encConfig h channel type block) opEncConfig h →
      s.accepts .fire = true →
      channel ≤ 3 →
      type ≤ 3 →
      s.paces channel = false →
      s.Reads block 64 d →
      encBad type d = false →
      b = (s.begun opEncConfig h).touch 2 block 64 →
      exec (.encConfig h channel type block) s = .next (b.encConfigure channel type d (s.asPk opEncConfig h))) ∧
  (∀ (s : State) (h : Hdr) (group w block : Nat) (d : List Byte) (b : State),
      s.Takes (.synthSet h group w block) opSynthSet h →
      s.accepts .fire = true →
      group ≤ 31 →
      w ≤ 1 →
      s.Reads block 64 d →
      synthBad d = false →
      (s.groupOwner group = 0 ∨ fieldN d 0 1 = s.rd (R.SYN_STATE_CHANNEL group)) →
      (w = 0 ∨ s.changePending (.synth group) = false ∧ (s.syn group).later.any (fun e => e.2.isBlock) = false) →
      b = ((s.begun opSynthSet h).touch 2 block 64).dropSteps [] [group] →
      exec (.synthSet h group w block) s = .next ((if w = 1 ∧ (s.ctx (s.groupOwner group)).live = true ∧ s.groupOwner group ≠ 0 then { b with tableChanges := b.tableChanges ++ [⟨.synth group, group, [], d⟩] } else b.applyChange ⟨.synth group, group, [], d⟩).complete (s.asPk opSynthSet h) .ok [])) ∧
  (∀ (s : State) (h : Hdr) (output flags target width : Nat) (b : State),
      s.Takes (.compareSet h output flags target width) opCompareSet h →
      s.accepts .fire = true →
      output ≤ 15 →
      (s.cmp output).queue.length < 8 →
      10 ≤ width →
      s.rd (R.ENC_STATUS_TYPE (s.cmpCh output)) ≠ 7 →
      b = (s.begun opCompareSet h).setCmp output { (s.cmp output) with queue := (s.cmp output).queue ++ [⟨some (s.asPk opCompareSet h), toS 64 target, width, bit flags 0, false⟩] } →
      exec (.compareSet h output flags target width) s = .next (if (s.cmp output).queue.isEmpty then State.armCmp output 8 b else b)) ∧
  (∀ (s : State) (h : Hdr) (input dst most : Nat),
      s.Takes (.latchRead h input dst most) opLatchRead h →
      s.accepts .fire = true →
      input ≤ 7 →
      s.badAddr dst (32 * most) = false →
      exec (.latchRead h input dst most) s = .next ((((s.begun opLatchRead h).setLatch input { (s.latch input) with records := (s.latch input).records.drop most }).writeAt 7 dst ((s.latch input).records.take most).flatten).complete (s.asPk opLatchRead h) .ok [((s.latch input).records.take most).length])) ∧
  (∀ (s : State) (h : Hdr) (output divisor : Nat) (t : State),
      s.Takes (.divSet h output divisor) opDivSet h →
      s.accepts .fire = true →
      output ≤ 1 →
      t = ((s.begun opDivSet h).divDrain output s.now 64).wr (R.DIV_DIVISOR_D output) divisor →
      exec (.divSet h output divisor) s = .next ((if divisor = 0 then t.setDiv output { (t.div output) with queue := [] } else t).complete (s.asPk opDivSet h) .ok []))

/-- CAM_CONFIG of a good block for a camera lane of this device that is up, or whose block leaves the camera off, writes the block into the shadow set and commits it, tells the partner and completes OK. CAM_GENCP of 1 to 1,024 bytes for a camera that is up keeps the request at the end of the lane's queue and sends it when it is the first. STRIPE_SET of a good table loads table and models on every camera lane, voids the calibration estimates and completes OK. -/
def Obligations.CameraPackets : Prop :=
  (∀ (s : State) (h : Hdr) (lane block k : Nat) (d : List Byte) (b : State),
      s.Takes (.camConfig h lane block) opCamConfig h →
      s.ownCam lane = some k →
      s.accepts (camNode k) = true →
      lane < s.camCount →
      s.Reads block 64 d →
      s.camSetBad (camSetOf d) = false →
      (s.pixelLoad s.insp.stripes (fun j => if j = k then camSetOf d else s.camSet j) ≤ 4000000000) →
      (camSetOf d).px * 24 * s.camRate (camSetOf d) ≤ 9700000000 →
      ((camSetOf d).on = true → s.camUp k = true) →
      b = (s.begun opCamConfig h).touch 2 block 64 →
      exec (.camConfig h lane block) s = .next (((State.commitCam { b with shadow := (camFields k (camSetOf d)).foldl (fun (t : Tbl (Option Nat)) (f : FRef × Nat) => tset none t f.1.key (some f.2)) b.shadow } k (camSetOf d)).forwardCam (s.asPk opCamConfig h) .ok [] []).complete (s.asPk opCamConfig h) .ok [])) ∧
  (∀ (s : State) (h : Hdr) (lane req n room reply k : Nat) (d : List Byte) (b : State),
      s.Takes (.camGencp h lane req n room reply) opCamGencp h →
      s.ownCam lane = some k →
      s.accepts (camNode k) = true →
      lane < s.camCount →
      n ≠ 0 ∧ n ≤ 1024 ∧ room ≤ 1024 →
      s.badAddr reply room = false →
      s.Reads req n d →
      s.camUp k = true →
      b = (s.begun opCamGencp h).touch 2 req n →
      exec (.camGencp h lane req n room reply) s = .next
      (if (b.cam k).gencp.isEmpty then (b.setCam k { (b.cam k) with gencp := (b.cam k).gencp ++ [⟨s.asPk opCamGencp h, b.bytesAt req n, room, reply, 0⟩] }).sendGencp k
       else b.setCam k { (b.cam k) with gencp := (b.cam k).gencp ++ [⟨s.asPk opCamGencp h, b.bytesAt req n, room, reply, 0⟩] })) ∧
  (∀ (s : State) (h : Hdr) (table n : Nat) (d : List Byte) (es : List (List Byte)) (reads : List (Nat × Nat)) (xs : List Stripe) (b : State),
      s.Takes (.stripeSet h table n) opStripeSet h →
      s.accepts .insp = true →
      n ≤ 64 →
      s.Reads table (32 * n) d →
      d.length = 32 * n →
      es = chunks 32 n d →
      (reads = (table, 32 * n) :: es.map fun e => (stripeModel e, 12288)) →
      (reads.any (fun q => s.badAddr q.1 q.2 || s.dmaFails q.1 q.2 || s.poisonedAt q.1 q.2) = false) →
      (xs = es.zipIdx.map fun e => { stripeOf e.1 e.2 with model := s.bytesAt (stripeModel e.1) 12288 }) →
      (es.any stripeBad = false ∧ stripesOrdered xs = true ∧ xs.any (fun y => decide (s.camCount ≤ y.lane)) = false ∧ xs.any (fun y => modelBad y.model) = false) →
      (xs.any (fun y => match (s.ownCam y.lane).map s.camSet with | none => false | some set => decide (set.px < y.first + y.px) || (decide ((s.ctx set.ctx).st ≠ .closed) && ((s.ctx set.ctx).pass || (s.ctx set.ctx).qsOff))) = false) →
      s.pixelLoad xs s.camSet ≤ 4000000000 →
      (b = State.voidAll { reads.foldl (fun (t : State) r => t.touch 2 r.1 r.2) (s.begun opStripeSet h) with insp := { (reads.foldl (fun (t : State) r => t.touch 2 r.1 r.2) (s.begun opStripeSet h)).insp with stripes := xs } }) →
      exec (.stripeSet h table n) s = .next (((List.range 8).foldl (fun (t : State) k =>
      (t.setCam k { (t.cam k) with stripesNext := some (xs.filter fun y => decide (t.ownCam y.lane = some k)) }).takeIdle k) b).complete (s.asPk opStripeSet h) .ok []))

/-- STATS_READ and DEFECT_READ select records from their ring under the rules of R360, remove what they pass, and give them out in order. CAL_PROPOSALS writes the oldest proposals, removes them and completes OK with their number and the number of applied ones. CAL_POLICY sets the policy, drops the pending steps when it changes to one other than 0, voids windows and rows when it is 2, and completes OK. -/
def Obligations.InspectionRings : Prop :=
  (∀ (s : State) (h : Hdr) (dst first most : Nat) (sel : List (Nat × List Byte) × Nat),
      s.Takes (.statsRead h dst first most) opStatsRead h →
      s.accepts .insp = true →
      s.badAddr dst (48 * min most 262144) = false →
      sel = (s.begun opStatsRead h).selectRecords s.inspRegion 48 s.insp.tileHead s.insp.tileTail first most →
      exec (.statsRead h dst first most) s = .next (State.giveRecords { s.begun opStatsRead h with insp := { s.insp with tileHead := sel.2 } } (s.asPk opStatsRead h) s.inspRegion 48 dst sel.1)) ∧
  (∀ (s : State) (h : Hdr) (dst first most : Nat) (sel : List (Nat × List Byte) × Nat),
      s.Takes (.defectRead h dst first most) opDefectRead h →
      s.accepts .insp = true →
      s.badAddr dst (32 * min most 262144) = false →
      sel = (s.begun opDefectRead h).selectRecords (s.inspRegion + 12 * 2 ^ 20) 32 s.insp.defHead s.insp.defTail first most →
      exec (.defectRead h dst first most) s = .next (State.giveRecords { s.begun opDefectRead h with insp := { s.insp with defHead := sel.2 } } (s.asPk opDefectRead h) (s.inspRegion + 12 * 2 ^ 20) 32 dst sel.1)) ∧
  (∀ (s : State) (h : Hdr) (dst most : Nat),
      s.Takes (.calProposals h dst most) opCalProposals h →
      s.accepts .cal = true →
      s.badAddr dst (16 * min most s.cal.props.length) = false →
      exec (.calProposals h dst most) s = .next ((State.writeAt { s.begun opCalProposals h with cal := { s.cal with props := s.cal.props.drop most } } 9 dst (s.cal.props.take most).flatten).complete (s.asPk opCalProposals h) .ok
      [(s.cal.props.take most).length, ((s.cal.props.take most).filter fun r => decide (fieldN r 2 2 = 0)).length])) ∧
  (∀ (s : State) (h : Hdr) (policy : Nat) (t : State),
      s.Takes (.calPolicy h policy) opCalPolicy h →
      s.accepts .cal = true →
      policy ≤ 2 →
      (t = State.wr (if policy = 0 ∨ policy = s.calPolicy then s.begun opCalPolicy h else { s.begun opCalPolicy h with cal := { s.cal with steps := [] } }) R.CAL_CFG_POLICY policy) →
      exec (.calPolicy h policy) s = .next ((if policy = 2 then { t with cal := { t.cal with wins := [], dens := [], rows := [] } } else t).complete (s.asPk opCalPolicy h) .ok []))

/-- CAL_SEED in the calibrated RUNNING context, of a pattern whose lines fit a page that no lane has computed yet, keeps the packet with the first line of that page. CAL_ANCHOR of a colorant in a context that is not CLOSED keeps the packet until the patch has passed, and ends at once when it has. CAL_ANCHOR_TIMEOUT ends the oldest anchor 10 s after it was accepted. -/
def Obligations.CalibrationPackets : Prop :=
  (∀ (s : State) (h : Hdr) (pattern lines : Nat) (p : Nat × Nat),
      s.Takes (.calSeed h pattern lines) opCalSeed h →
      s.accepts .cal = true →
      h.ctx = s.calCtx →
      (s.ctx h.ctx).st = .running →
      pattern ≤ 1 →
      lines % (512 * (s.ctx h.ctx).colorants * (s.ctx h.ctx).lpr) = 0 →
      s.seedPage (s.ctx h.ctx) = some p →
      lines ≤ p.2 →
      exec (.calSeed h pattern lines) s = .next { s.begun opCalSeed h with cal := { s.cal with
      seeds := s.cal.seeds ++ [{ pk := s.asPk opCalSeed h, id := h.ring.val * 65536 + h.sq, pattern := pattern, first := p.1, lines := lines }], seedSpans := s.cal.seedSpans ++ [(p.1, lines)] } }) ∧
  (∀ (s : State) (h : Hdr) (colour m pos : Nat) (a : AnchorPk),
      s.Takes (.calAnchor h colour m pos) opCalAnchor h →
      s.accepts .cal = true →
      colour ≤ 7 →
      (s.ctx h.ctx).st ≠ .closed →
      a = ⟨s.asPk opCalAnchor h, colour, m, toS 64 pos, s.now⟩ →
      exec (.calAnchor h colour m pos) s = .next (if s.anchorPassed a.pos then (s.begun opCalAnchor h).endAnchor a else { s.begun opCalAnchor h with cal := { s.cal with anchors := s.cal.anchors ++ [a] } })) ∧
  (∀ (s : State) (t : Nat) (a : AnchorPk) (r : List AnchorPk),
      s.clocked = true →
      s.cal.anchors = a :: r →
      a.since + 160000000000 ≤ t →
      exec (.calAnchorTimeout t) s = .next ((s.advance t).endAnchor a))

/-- DMA_COPY of a multiple of 64 bytes between good addresses writes the bytes of the source to the destination, carries the poison of its parts over, counts each use and completes OK, or UNCORRECTABLE, with the length. MEM_RETIRE of an aligned page below the reserved area outside every silo enters it into the list, logs it and completes OK with the number of retired pages; of a page already retired it only answers; of the 4,097th it completes NO_RESOURCE. MEM_REMAP of a row that is not remapped copies it to a spare, records it, sets REMAP_USED, logs it and answers the spares left. MEM_LOG_READ reads the oldest records from their places in DRAM, writes them to its destination, removes them and answers their number, OK, or POISONED when a place is poisoned. -/
def Obligations.MemoryPackets : Prop :=
  (∀ (s : State) (h : Hdr) (src dst n : Nat) (b : State),
      s.Takes (.dmaCopy h src dst n) opDmaCopy h →
      s.stalled = false →
      s.accepts .mem = true →
      misaligned n 64 = false →
      s.badAddr src n = false ∧ s.badAddr dst n = false →
      s.dmaFails src n = false ∧ s.dmaFails dst n = false →
      b = s.begun opDmaCopy h →
      exec (.dmaCopy h src dst n) s = .next (((b.poisonParts src n).foldl (fun (t : State) p => t.usePoison 0 (src + p.1) p.2) (((b.touch 0 src n).writeAt 0 dst (b.bytesAt src n)).poisonDst dst (b.poisonParts src n))).complete
      (s.asPk opDmaCopy h) (if (b.poisonParts src n).isEmpty then .ok else .uncorrectable) [n])) ∧
  (∀ (s : State) (h : Hdr) (addr : Nat) (b : State),
      s.Takes (.memRetire h addr) opMemRetire h →
      s.accepts .mem = true →
      isDram addr = true ∧ s.badAddr addr 65536 = false →
      misaligned (dramAddr addr) 65536 = false →
      dramAddr addr + 65536 ≤ s.reservedBase →
      s.pageInSilo (dramAddr addr) = false →
      s.retired.contains (dramAddr addr / 65536) = false →
      s.retired.length < 4096 →
      b = { s.begun opMemRetire h with retired := s.retired ++ [dramAddr addr / 65536] } →
      exec (.memRetire h addr) s = .next ((b.logMem (b.memRec 8 0 (dramAddr addr) 0 0xFF)).complete (s.asPk opMemRetire h) .ok [s.retired.length + 1])) ∧
  (∀ (s : State) (h : Hdr) (addr : Nat),
      s.Takes (.memRetire h addr) opMemRetire h →
      s.accepts .mem = true →
      isDram addr = true ∧ s.badAddr addr 65536 = false →
      misaligned (dramAddr addr) 65536 = false →
      dramAddr addr + 65536 ≤ s.reservedBase →
      s.pageInSilo (dramAddr addr) = false →
      s.retired.contains (dramAddr addr / 65536) = true →
      exec (.memRetire h addr) s = .next ((s.begun opMemRetire h).complete (s.asPk opMemRetire h) .ok [s.retired.length])) ∧
  (∀ (s : State) (h : Hdr) (addr : Nat),
      s.Takes (.memRetire h addr) opMemRetire h →
      s.accepts .mem = true →
      isDram addr = true ∧ s.badAddr addr 65536 = false →
      misaligned (dramAddr addr) 65536 = false →
      dramAddr addr + 65536 ≤ s.reservedBase →
      s.pageInSilo (dramAddr addr) = false →
      s.retired.contains (dramAddr addr / 65536) = false →
      4096 ≤ s.retired.length →
      exec (.memRetire h addr) s = .next ((s.begun opMemRetire h).complete (s.asPk opMemRetire h) .noResource [s.retired.length])) ∧
  (∀ (s : State) (h : Hdr) (ch row : Nat) (b t u : State),
      s.Takes (.memRemap h ch row) opMemRemap h →
      s.accepts .mem = true →
      s.channels.contains ch = true →
      row < 2 ^ 22 →
      (s.remapped ch).contains row = false →
      ((List.range 32).any (fun k => decide (Config.spareRow ch k % 2 ^ 22 = row)) = false) →
      s.sparesLeft ch ≠ 0 →
      b = (s.begun opMemRemap h).copyRowErrors ch row →
      t = (State.wr { b with remaps := s.remaps ++ [(ch, row)] } (R.MEM_CH_STATUS_REMAP_USED ch) (State.remapped { b with remaps := s.remaps ++ [(ch, row)] } ch).length) →
      u = t.draw.2.logMem { t.draw.2.memRec 7 0 (Config.free .logField t.draw.1 % 2 ^ 36) 0 0xFF with where' := ch + 4 * (row / 2 ^ 21), geom := row } →
      exec (.memRemap h ch row) s = .next (u.complete (s.asPk opMemRemap h) .ok [t.sparesLeft ch])) ∧
  (∀ (s : State) (h : Hdr) (dst most : Nat) (out : List MemRec) (as : List Nat) (r t : State),
      s.Takes (.memLogRead h dst most) opMemLogRead h →
      s.accepts .mem = true →
      s.badAddr dst (32 * most) = false →
      out = s.memLog.take most →
      (as = (List.range out.length).map fun i => s.logAddr (s.mem.logTail + i)) →
      (r = as.foldl (fun (u : State) a => u.noteRead 0xA a 32) (s.begun opMemLogRead h)) →
      (t = as.foldl (fun (u : State) a => u.cleanWords a 32) (r.takeRecords most)) →
      (as.find? (fun a => r.dramBad a 32) = none) →
      exec (.memLogRead h dst most) s = .next ((t.writeAt 0xA dst (out.flatMap MemRec.bytes)).complete (s.asPk opMemLogRead h) .ok [out.length])) ∧
  (∀ (s : State) (h : Hdr) (dst most : Nat) (out : List MemRec) (as : List Nat) (bad : Nat) (r t : State),
      s.Takes (.memLogRead h dst most) opMemLogRead h →
      s.accepts .mem = true →
      s.badAddr dst (32 * most) = false →
      out = s.memLog.take most →
      (as = (List.range out.length).map fun i => s.logAddr (s.mem.logTail + i)) →
      (r = as.foldl (fun (u : State) a => u.noteRead 0xA a 32) (s.begun opMemLogRead h)) →
      (t = as.foldl (fun (u : State) a => u.cleanWords a 32) (r.takeRecords most)) →
      (as.find? (fun a => r.dramBad a 32) = some bad) →
      exec (.memLogRead h dst most) s = .next (((t.writePoisoned 0xA dst (out.flatMap MemRec.bytes)).usePoison 0xA (2 ^ 63 + bad) 32).complete (s.asPk opMemLogRead h) .poisoned [out.length]))

/-- While the host reaches the registers: a read completes, whatever its byte enables, with the addressed bytes of one and the same 32-bit value, and its byte enables change nothing else; a write that does not enable all four bytes only sets the ACCESS event of SYS. -/
def Obligations.NarrowAccess : Prop :=
  (∀ (s : State) (dw : Nat),
      s.HostReaches →
      ∃ (t : State) (v : Nat), ∀ be : BitVec 4, exec (.lowWordRead dw be) s = .next (t.put (.bar0 (4 * dw) (maskBytes be v)))) ∧
  (∀ (s : State) (dw : Nat) (be : BitVec 4) (v : Word),
      s.HostReaches →
      be ≠ 15#4 →
      exec (.registerWrite dw be v) s = .next (s.raise .sys 4))

/-- While the host reaches the registers. A full write of a word of a 32-bit register that no rule discards and that starts no action stores each field by its type; a discarded one only sets ACCESS in the unit. A write of the high word of a 64-bit register is staged, or discarded with ACCESS where the register may not be written; a write of its low word takes the staged high word and the low word into effect together. A full read of a word of a 32-bit register without RC fields sends it and changes nothing; a read of the low word of a 64-bit register captures the high word, and a read of the high word sends the captured value. A read of an RC field sends the word and leaves in the field the increment of the same clock. A read of SEC_AUDIT_INDEX captures its high word and the chain value. An access outside every register sets ACCESS in the nearest enclosing unit, and a read there sends 0. -/
def Obligations.RegisterAccess : Prop :=
  (∀ (s : State) (dw : Nat) (v : Word) (r : Hit),
      s.HostReaches →
      granAt (4 * dw) = false →
      msixAt (4 * dw) = false →
      headerGap (4 * dw) = false →
      regAt (4 * dw) = some r →
      r.reg.words = 1 →
      s.writeRefused r (r.reg.off + r.reg.stride * r.idx) (v.toNat * 2 ^ (32 * r.word)) = false →
      s.writeAct r (r.reg.off + r.reg.stride * r.idx) (v.toNat * 2 ^ (32 * r.word)) = none →
      exec (.registerWrite dw 15#4 v) s = .next (s.writeFields r (32 * r.word) 32 (v.toNat * 2 ^ (32 * r.word)))) ∧
  (∀ (s : State) (dw : Nat) (v : Word) (r : Hit),
      s.HostReaches →
      granAt (4 * dw) = false →
      msixAt (4 * dw) = false →
      headerGap (4 * dw) = false →
      regAt (4 * dw) = some r →
      r.reg.words = 1 →
      s.writeRefused r (r.reg.off + r.reg.stride * r.idx) (v.toNat * 2 ^ (32 * r.word)) = true →
      exec (.registerWrite dw 15#4 v) s = .next (s.raise r.node 4)) ∧
  (∀ (s : State) (dw : Nat) (v : Word) (r : Hit),
      s.HostReaches →
      granAt (4 * dw) = false →
      msixAt (4 * dw) = false →
      headerGap (4 * dw) = false →
      regAt (4 * dw) = some r →
      r.reg.words = 2 →
      r.word = 1 →
      s.writeGated r (r.reg.off + r.reg.stride * r.idx) = false →
      exec (.registerWrite dw 15#4 v) s = .next { s with staged := tset none s.staged dw (some v.toNat) }) ∧
  (∀ (s : State) (dw : Nat) (v : Word) (r : Hit),
      s.HostReaches →
      granAt (4 * dw) = false →
      msixAt (4 * dw) = false →
      headerGap (4 * dw) = false →
      regAt (4 * dw) = some r →
      r.reg.words = 2 →
      r.word = 1 →
      s.writeGated r (r.reg.off + r.reg.stride * r.idx) = true →
      exec (.registerWrite dw 15#4 v) s = .next (s.raise r.node 4)) ∧
  (∀ (s : State) (dw : Nat) (v : Word) (r : Hit) (hi : Nat),
      s.HostReaches →
      granAt (4 * dw) = false →
      msixAt (4 * dw) = false →
      headerGap (4 * dw) = false →
      regAt (4 * dw) = some r →
      r.reg.words = 2 →
      r.word = 0 →
      tget none s.staged (dw + 1) = some hi →
      exec (.registerWrite dw 15#4 v) s = .next (State.writeReg { s with staged := tset none s.staged (dw + 1) none } r 0 64 (hi * 2 ^ 32 + v.toNat))) ∧
  (∀ (s : State) (dw : Nat) (be : BitVec 4) (r : Hit),
      s.HostReaches →
      granAt (4 * dw) = false →
      msixAt (4 * dw) = false →
      headerGap (4 * dw) = false →
      4 * dw ≠ 0xF00068 →
      regAt (4 * dw) = some r →
      r.word = 0 →
      r.reg.words = 1 →
      (r.wordFields.filter (fun f => decide (f.ty = .rc)) = []) →
      exec (.lowWordRead dw be) s = .next (s.put (.bar0 (4 * dw) (maskBytes be (s.wordView r))))) ∧
  (∀ (s : State) (dw : Nat) (be : BitVec 4) (r : Hit),
      s.HostReaches →
      granAt (4 * dw) = false →
      msixAt (4 * dw) = false →
      headerGap (4 * dw) = false →
      4 * dw ≠ 0xF00068 →
      regAt (4 * dw) = some r →
      r.word = 0 →
      r.reg.words = 2 →
      (r.wordFields.filter (fun f => decide (f.ty = .rc)) = []) →
      exec (.lowWordRead dw be) s = .next (State.put { s with captured := tset none s.captured (dw + 1) (some (s.wordView { r with word := 1 })) } (.bar0 (4 * dw) (maskBytes be (s.wordView r))))) ∧
  (∀ (s : State) (dw : Nat) (be : BitVec 4) (r : Hit) (c : Nat),
      s.HostReaches →
      granAt (4 * dw) = false →
      msixAt (4 * dw) = false →
      headerGap (4 * dw) = false →
      4 * dw ≠ 0xF00068 →
      regAt (4 * dw) = some r →
      r.word = 1 →
      tget none s.captured dw = some c →
      (r.wordFields.filter (fun f => decide (f.ty = .rc)) = []) →
      exec (.lowWordRead dw be) s = .next (s.put (.bar0 (4 * dw) (maskBytes be c)))) ∧
  (∀ (s : State) (dw inc : Nat) (r : Hit),
      s.HostReaches →
      granAt (4 * dw) = false →
      msixAt (4 * dw) = false →
      headerGap (4 * dw) = false →
      4 * dw ≠ 0xF00068 →
      regAt (4 * dw) = some r →
      r.word = 0 →
      r.reg.words = 1 →
      exec (.rcFieldRead dw inc) s = .next (((r.wordFields.filter fun f => decide (f.ty = .rc)).foldl (fun (s : State) f => s.wr (r.fref f) inc) s).put (.bar0 (4 * dw) (maskBytes 15#4 (s.wordView r))))) ∧
  (∀ (s : State),
      s.HostReaches →
      exec .auditIndexRead s = .next (s.readAuditIndex.put (.bar0 0xF00068 (maskBytes 15#4 (s.auditIndex % 2 ^ 32))))) ∧
  (∀ (s : State) (dw : Nat),
      s.HostReaches →
      granAt (4 * dw) = false →
      msixAt (4 * dw) = false →
      headerGap (4 * dw) = false →
      regAt (4 * dw) = none →
      exec (.unmappedAccess dw true) s = .next (s.raise (Node.ofOffset (4 * dw)) 4)) ∧
  (∀ (s : State) (dw : Nat),
      s.HostReaches →
      granAt (4 * dw) = false →
      msixAt (4 * dw) = false →
      headerGap (4 * dw) = false →
      regAt (4 * dw) = none →
      exec (.unmappedAccess dw false) s = .next ((s.raise (Node.ofOffset (4 * dw)) 4).put (.bar0 (4 * dw) 0)))

/-- While the host reaches the registers: ENABLE written to a node that is not FAULTED acts on every node of its subtree, and on SYS stores the bit only; QUIESCE and ABORT likewise where the node may drain or abort; what was held is applied where an abort or a reset breaks a test off; each is discarded with ACCESS on a FAULTED node, and a drain or an abort where the node has none. RESET returns the node and its descendants to reset values: SYS by a device reset, CMD, HLTH and SEC by their own rules. -/
def Obligations.UnitControl : Prop :=
  (∀ (s : State) (n : Node) (on : Bool),
      s.HostReaches →
      s.mode n ≠ .faulted →
      n ≠ .sys →
      (on = false → s.noDrain n = false) →
      exec (.enable n on) s = .next (n.subtree.foldl (State.writeEnable · on) s)) ∧
  (∀ (s : State) (on : Bool),
      s.HostReaches →
      s.mode .sys ≠ .faulted →
      exec (.enable .sys on) s = .next (s.wrB (R.UNIT_CTRL_ENABLE 0) on)) ∧
  (∀ (s : State) (n : Node) (on : Bool),
      s.HostReaches →
      s.mode n = .faulted →
      exec (.enable n on) s = .next (s.raise n 4)) ∧
  (∀ (s : State) (n : Node),
      s.HostReaches →
      n ≠ .sys →
      s.noDrain n = true →
      exec (.enable n false) s = .next (s.raise n 4)) ∧
  (∀ (s : State) (n : Node) (on : Bool),
      s.HostReaches →
      s.mode n ≠ .faulted →
      n ≠ .sys →
      (on = false ∨ s.noDrain n = false) →
      exec (.quiesce n on) s = .next (n.subtree.foldl (State.writeQuiesce · on) s)) ∧
  (∀ (s : State) (n : Node) (on : Bool),
      s.HostReaches →
      (s.mode n = .faulted ∨ (on = true ∧ s.noDrain n = true)) →
      exec (.quiesce n on) s = .next (s.raise n 4)) ∧
  (∀ (s : State) (on : Bool),
      s.HostReaches →
      s.mode .sys ≠ .faulted →
      (on = true → s.noDrain .sys = false) →
      exec (.quiesce .sys on) s = .next s) ∧
  (∀ (s : State) (n : Node),
      s.HostReaches →
      s.mode n ≠ .faulted →
      n ≠ .sys →
      n ≠ .hlth →
      n ≠ .mem →
      exec (.abort n) s = .next (s.afterTest (n.subtree.foldl State.writeAbort s))) ∧
  (∀ (s : State) (n : Node),
      s.HostReaches →
      (s.mode n = .faulted ∨ n = .sys ∨ n = .hlth ∨ n = .mem) →
      exec (.abort n) s = .next (s.raise n 4)) ∧
  (∀ (s : State) (b : BootIn),
      s.HostReaches →
      exec (.reset .sys b) s = .next (s.selfReset 2 b)) ∧
  (∀ (s : State) (b : BootIn),
      s.HostReaches →
      exec (.reset .cmd b) s = .next s.resetCmd.settle) ∧
  (∀ (s : State) (b : BootIn),
      s.HostReaches →
      exec (.reset .hlth b) s = .next s.resetHlth) ∧
  (∀ (s : State) (b : BootIn),
      s.HostReaches →
      exec (.reset .sec b) s = .next ((s.resetNodes .sec).resetSec b.fails.toNat)) ∧
  (∀ (s : State) (n : Node) (b : BootIn),
      s.HostReaches →
      n ≠ .sys →
      n ≠ .cmd →
      n ≠ .hlth →
      n ≠ .sec →
      exec (.reset n b) s = .next (s.afterTest (s.resetNodes n)))

/-- ABORT_COMPLETE of a node whose ABORT bit is set clears it, applies what the node keeps while OFF and sets ABORTED. DRAIN_COMPLETE of a draining node without work ends its drain: it sets QUIESCED and completes the waiting UNIT_QUIESCE packets OK with nothing left, and contexts that waited for it to be taken back into service go on. DRAIN_TIMEOUT of a draining node with work aborts the rest in every draining node of its subtree, but not those packets, sets QUIESCED and ABORTED and completes those packets DRAIN_TIMEOUT with the count that was left, and applies what was held where it breaks a test off. -/
def Obligations.DrainsAndAborts : Prop :=
  (∀ (s : State) (n : Node),
      s.flag (R.UNIT_CTRL_ABORT n.base) = true →
      exec (.abortComplete n) s = .next (((s.wr (R.UNIT_CTRL_ABORT n.base) 0).offHook n).raise n 2)) ∧
  (∀ (s : State) (n : Node),
      s.mode n = .draining →
      s.drainBusy n = false →
      exec (.drainComplete n) s = .next ((((((s.setMode n .normal).offHook n).raise n 1)).endDrainWaits n .ok 0).resumeRaster)) ∧
  (∀ (s : State) (n : Node) (u : State),
      s.mode n = .draining →
      s.drainBusy n = true →
      n.subtree = [n] →
      (u = State.abortOne { s with drains := s.drains.filter fun w => decide (w.node ≠ n) } n) →
      exec (.drainTimeout n) s = .next (s.afterTest (((((({ u with drains := u.drains ++ s.drains.filter fun w => decide (w.node = n) } : State).setMode n .normal).offHook n).raise n 1).raise n 2).endDrainWaits n .drainTimeout (s.work n)))) ∧
  (∀ (s : State) (n : Node),
      s.mode n = .draining →
      s.drainBusy n = true →
      exec (.drainTimeout n) s = .next (s.afterTest (n.subtree.foldl State.drainLate s)))

/-- FAULT_DETECTED of an enabled node other than SYS, CMD and a slice that is not FAULTED breaks off a test of it, drops its work into its holdings, faults it with the status completes the waiting drains DRAIN_TIMEOUT, and applies what the test held. CREDIT_WATCHDOG of a FAULTED node with holdings takes them back, counts in CMD_WDOG and raises WATCHDOG in CMD; a node not yet faulted is faulted CREDIT_TIMEOUT first, its work dropped into its holdings, for CMD the packets of every ring. FW_FAULT empties the rings of every packet fetched, in progress or held, starts a new epoch and faults CMD. -/
def Obligations.UnitFaults : Prop :=
  (∀ (s : State) (n : Node) (st : Status) (req resp slots : Nat) (q : State),
      n ≠ .sys →
      n ≠ .cmd →
      (∀ k, n ≠ .slice k) →
      s.mode n ≠ .faulted →
      (s.mode n = .normal → s.enabled n = true) →
      (q = match s.gl.test with | some (m, _) => (if m = n then s.breakTest else s) | none => s) →
      exec (.faultDetected n st req resp slots) s = .next (s.afterTest (((q.dropWork n st req resp slots).faultNode n st).endDrainWaits n .drainTimeout (q.work n)))) ∧
  (∀ (s : State) (n : Node),
      s.clocked = true →
      n ≠ .sys →
      s.mode n = .faulted →
      s.holding n ≠ {} →
      exec (.creditWatchdog n) s = .next (s.afterTest (((s.reclaim n).count R.CMD_WDOG_FIRES R.CMD_WDOG_FIRES_OVF .cmd 1).raise .cmd 17))) ∧
  (∀ (s : State) (n : Node) (t : State),
      s.clocked = true →
      n ≠ .sys →
      s.mode n ≠ .faulted →
      s.enabled n = true →
      (t = ((if n = .cmd then s.dropCmd else s.dropWork n .creditTimeout 0 0 0).faultNode n .creditTimeout).endDrainWaits n .drainTimeout (s.work n)) →
      exec (.creditWatchdog n) s = .next (s.afterTest (((t.reclaim n).count R.CMD_WDOG_FIRES R.CMD_WDOG_FIRES_OVF .cmd 1).raise .cmd 17))) ∧
  (∀ (s : State) (t : State),
      s.mode .cmd ≠ .faulted →
      s.enabled .cmd = true →
      (t = s.rings.foldl (fun (q : State) e => q.setRing e.1 { (q.ring e.1) with fetched := [], started := [], held := [] }) s) →
      exec .fwFault s = .next (State.faultNode { (t.setMode .cmd .normal) with pkEpoch := t.pkEpoch + 1 } .cmd .fwFault))

/-- While the host reaches the registers. A submission doorbell of an enabled ring whose index is below the ring size and covers at most entries - 1 entries writes RING_SQ_TAIL; any other index halts the ring with BAD_DOORBELL; on a ring that is off it sets ACCESS. A completion doorbell of an enabled ring that frees no more entries than are used writes RING_CQ_HEAD, frees them and writes the held completions, of ring 0 also a waiting event completion; any other index halts the ring; on a ring that is off it sets ACCESS. RESUME clears HALTED. -/
def Obligations.Doorbells : Prop :=
  (∀ (s : State) (r : Fin 256) (v : Word) (b n idx : Nat),
      s.HostReaches →
      b = (Node.ring r).base →
      n = s.entries r →
      idx = v.toNat % 65536 →
      s.enabled (.ring r) = true →
      idx < n →
      (idx + n - s.rd (R.RING_SQ_HEAD_HEAD b) % n) % n ≤ n - 1 →
      exec (.submissionDoorbell r v) s = .next (s.wr (R.RING_SQ_TAIL_TAIL b) idx)) ∧
  (∀ (s : State) (r : Fin 256) (v : Word) (b n idx : Nat),
      s.HostReaches →
      b = (Node.ring r).base →
      n = s.entries r →
      idx = v.toNat % 65536 →
      s.enabled (.ring r) = true →
      (n ≤ idx ∨ n - 1 < (idx + n - s.rd (R.RING_SQ_HEAD_HEAD b) % n) % n) →
      exec (.submissionDoorbell r v) s = .next ((s.haltRing r .badDoorbell (s.rd (R.RING_SQ_HEAD_HEAD b)) true).raise .cmd 19)) ∧
  (∀ (s : State) (r : Fin 256) (v : Word),
      s.HostReaches →
      s.enabled (.ring r) = false →
      exec (.submissionDoorbell r v) s = .next (s.raise (.ring r) 4)) ∧
  (∀ (s : State) (r : Fin 256) (v : Word) (b n idx : Nat) (d : Nat) (t : State),
      s.HostReaches →
      b = (Node.ring r).base →
      n = s.entries r →
      idx = v.toNat % 65536 →
      s.enabled (.ring r) = true →
      idx < n →
      d = (idx + n - s.rd (R.RING_CQ_HEAD_HEAD b) % n) % n →
      d ≤ (s.ring r.val).used →
      t = State.flushHeld ((s.wr (R.RING_CQ_HEAD_HEAD b) idx).setRing r.val { (s.ring r.val) with used := (s.ring r.val).used - d }) r (s.ring r.val).held →
      exec (.completionDoorbell r v) s = .next (if r = 0 then t.flushEvent else t)) ∧
  (∀ (s : State) (r : Fin 256) (v : Word) (b n idx : Nat),
      s.HostReaches →
      b = (Node.ring r).base →
      n = s.entries r →
      idx = v.toNat % 65536 →
      s.enabled (.ring r) = true →
      (n ≤ idx ∨ (s.ring r.val).used < (idx + n - s.rd (R.RING_CQ_HEAD_HEAD b) % n) % n) →
      exec (.completionDoorbell r v) s = .next ((s.haltRing r .badDoorbell (s.rd (R.RING_SQ_HEAD_HEAD b)) true).raise .cmd 19)) ∧
  (∀ (s : State) (r : Fin 256) (v : Word),
      s.HostReaches →
      s.enabled (.ring r) = false →
      exec (.completionDoorbell r v) s = .next (s.raise (.ring r) 4)) ∧
  (∀ (s : State) (r : Fin 256),
      s.HostReaches →
      exec (.ringResume r) s = .next (s.wr (R.RING_STATUS_HALTED (Node.ring r).base) 0))

/-- PACKET_FETCH takes the ring that arbitration gives: ring 0 before every other; when every entry of the packet arrives, it advances RING_SQ_HEAD past them and keeps the header parsed from the bytes, the opcode and the bytes as the newest fetched packet of the ring, and packets whose opcode no command of the table has are completed. An entry that fails three times halts the ring with DMA_ERROR, a poisoned one with POISONED, either at the head. With no ring to serve, only packets without a command are completed. INTERRUPT_COAL_TIMEOUT of a ring with pending notifying completions, COAL_TIME µs after the first of them, sends its vector and leaves none pending. -/
def Obligations.FetchAndInterrupt : Prop :=
  (∀ (s : State) (failed : Nat) (r : Fin 256) (ring left head : Nat) (bs : List Byte) (t : State),
      s.clocked = true →
      s.mode .cmd ≠ .faulted →
      s.arbitrate failed = some (r, ring, left) →
      head = s.rd (R.RING_SQ_HEAD_HEAD (Node.ring r).base) →
      s.sqMark failed r head = .good →
      (∀ i ∈ (List.range (s.sqSize r)).map (head + ·), s.sqMark failed r i = .good) →
      (bs = ((List.range (s.sqSize r)).map (head + ·)).flatMap fun i => s.sqEntry r i) →
      t = State.wr { s with arbRing := ring, arbLeft := left } (R.RING_SQ_HEAD_HEAD (Node.ring r).base) ((head + s.sqSize r) % s.entries r) →
      exec (.packetFetch failed) s = .next ((t.setRing r.val { (t.ring r.val) with fetched := (t.ring r.val).fetched ++ [⟨parseHdr r head bs, fieldN bs 0 2, bs⟩] }).refuseAll)) ∧
  (∀ (s : State) (failed : Nat) (r : Fin 256) (ring left head i : Nat) (is : List Nat) (u : State),
      s.clocked = true →
      s.mode .cmd ≠ .faulted →
      s.arbitrate failed = some (r, ring, left) →
      head = s.rd (R.RING_SQ_HEAD_HEAD (Node.ring r).base) →
      (is = if s.sqMark failed r head ≠ .good then [head] else (List.range (s.sqSize r)).map (head + ·)) →
      (is.find? (fun k => decide (s.sqMark failed r k ≠ .good)) = some i) →
      u = { s with arbRing := ring, arbLeft := left } →
      exec (.packetFetch failed) s = .next ((if s.sqMark failed r i = .poison then (u.usePoison 2 (s.sqAddr r i) 64).haltRing r .poisoned head true else u.haltRing r .dmaError head true).refuseAll)) ∧
  (∀ (s : State) (failed : Nat),
      s.clocked = true →
      s.mode .cmd ≠ .faulted →
      s.arbitrate failed = none →
      exec (.packetFetch failed) s = .next s.refuseAll) ∧
  (∀ (s : State) (r : Fin 256) (t : State),
      s.clocked = true →
      (s.ring r.val).pendingNotify ≠ 0 →
      t = s.advance ((s.ring r.val).notifyAt + 16000 * s.rd (R.RING_INT_COAL_TIME (Node.ring r).base)) →
      exec (.interruptCoalTimeout r) s = .next ((t.setRing r.val { (s.ring r.val) with pendingNotify := 0 }).sendMsix r.val))

/-- While the host reaches the device. A BAR2 read whose bytes are installed, outside the security area, unpoisoned and on no retired page sends the DRAM bytes from the aperture address on. A BAR2 write below the reserved area and on no retired page writes its bytes there. -/
def Obligations.Bar2Accesses : Prop :=
  (∀ (s : State) (off len a : Nat),
      s.HostReaches →
      a = s.bar2Addr off →
      (∀ i < len, s.bar2Gone (a + i) = false ∧ s.secArea (a + i) = false ∧ s.dramBad (a + i) 1 = false) →
      exec (.bar2Read off len) s = .next (State.put (((List.range len).map (a + ·)).foldl (fun (s : State) k => if k = a ∨ k % 8 = 0 then s.noteRead 2 k 1 else s) s) (.bar2 (((List.range len).map (a + ·)).map s.dramByte) false))) ∧
  (∀ (s : State) (off a : Nat) (data : List Byte),
      s.HostReaches →
      a = s.bar2Addr off →
      data ≠ [] →
      a + data.length ≤ s.reservedBase →
      (∀ i < data.length, s.retiredAt (a + i) = false) →
      exec (.bar2Write off data) s = .next (s.dramWrite 2 a data))

/-- While the clocks run, MEM first serves what waits and may be served. A MEM_REQUEST whose channel is free, with nothing waiting for it and its class admitted, is then served: it takes the channel for its service time and takes the physical errors; a read reads each word by its errors, within installed DRAM, a poisoned word of the security area ending in a security error and one that MEM itself reads of a firmware area in a reload; a write writes its bytes, either within installed DRAM; a granary request reads the granary; a sampled request that activates a row counts in MEM_NR; and the service time is entered. Any other MEM_REQUEST waits behind those that came before it. AGE_PROMOTION, at AGE_LIMIT after the arrival of the oldest request that waits outside class 0, promotes it to class 0 when it still waits and counts. SCRUB, unless the level stalls background work or MEM takes none, takes the errors and then visits every installed word of the range: a corrected one, or a poisoned one. A write of eight bytes on the armed channel and an aligned address is stored with the injected fault of INJECT. -/
def Obligations.MemoryRequests : Prop :=
  (∀ (s : State) (kind cls ns addr : Nat) (upsets : List (Nat × Nat)) (sampled : Bool) (len : Nat) (u v t : State),
      s.clocked = true →
      u = s.memRun s.mem.queue.length →
      u.servesNow cls (.dramRead addr len) = true →
      v = (u.takeChannel u.now cls ns (.dramRead addr len) false).upset upsets →
      addr + len ≤ v.dramSize →
      v.secPoison addr len = false →
      (kind ≠ 2 ∨ v.firmwareArea addr = false ∨ v.dramBad addr len = false) →
      t = v.noteRead kind addr len →
      exec (.memRequest kind cls ns (.dramRead addr len) upsets sampled) s = .next (State.served (if (sampled && u.activates (.dramRead addr len)) then t.count R.MEM_NR_COUNT R.MEM_OVF_NR_OVF .mem 1 else t) cls ns)) ∧
  (∀ (s : State) (kind cls ns addr : Nat) (upsets : List (Nat × Nat)) (sampled : Bool) (len : Nat) (u v t : State),
      s.clocked = true →
      u = s.memRun s.mem.queue.length →
      u.servesNow cls (.dramRead addr len) = true →
      v = (u.takeChannel u.now cls ns (.dramRead addr len) false).upset upsets →
      addr + len ≤ v.dramSize →
      v.secPoison addr len = true →
      t = (v.noteRead kind addr len).secError 0 →
      exec (.memRequest kind cls ns (.dramRead addr len) upsets sampled) s = .next (State.served (if (sampled && u.activates (.dramRead addr len)) then t.count R.MEM_NR_COUNT R.MEM_OVF_NR_OVF .mem 1 else t) cls ns)) ∧
  (∀ (s : State) (kind cls ns addr : Nat) (upsets : List (Nat × Nat)) (sampled : Bool) (len : Nat) (u v t : State),
      s.clocked = true →
      u = s.memRun s.mem.queue.length →
      u.servesNow cls (.dramRead addr len) = true →
      v = (u.takeChannel u.now cls ns (.dramRead addr len) false).upset upsets →
      addr + len ≤ v.dramSize →
      v.secPoison addr len = false →
      v.firmwareArea addr = true →
      v.dramBad addr len = true →
      kind = 2 →
      t = ((v.noteRead kind addr len).usePoison kind (2 ^ 63 + addr) len).reloadFirmware addr len →
      exec (.memRequest kind cls ns (.dramRead addr len) upsets sampled) s = .next (State.served (if (sampled && u.activates (.dramRead addr len)) then t.count R.MEM_NR_COUNT R.MEM_OVF_NR_OVF .mem 1 else t) cls ns)) ∧
  (∀ (s : State) (kind cls ns addr : Nat) (upsets : List (Nat × Nat)) (sampled : Bool) (data : List Byte) (u v t : State),
      s.clocked = true →
      u = s.memRun s.mem.queue.length →
      u.servesNow cls (.dramWrite addr data) = true →
      v = (u.takeChannel u.now cls ns (.dramWrite addr data) false).upset upsets →
      addr + data.length ≤ v.dramSize →
      t = v.dramWrite kind addr data →
      exec (.memRequest kind cls ns (.dramWrite addr data) upsets sampled) s = .next (State.served (if (sampled && u.activates (.dramWrite addr data)) then t.count R.MEM_NR_COUNT R.MEM_OVF_NR_OVF .mem 1 else t) cls ns)) ∧
  (∀ (s : State) (kind cls ns addr : Nat) (upsets : List (Nat × Nat)) (sampled : Bool) (parity replayed : Bool) (loft : Option (Nat × Nat × Nat)) (u v t : State),
      s.clocked = true →
      u = s.memRun s.mem.queue.length →
      u.servesNow cls (.gran addr parity replayed loft) = true →
      v = (u.takeChannel u.now cls ns (.gran addr parity replayed loft) false).upset upsets →
      t = v.granRead kind addr parity replayed loft →
      exec (.memRequest kind cls ns (.gran addr parity replayed loft) upsets sampled) s = .next (State.served (if (sampled && u.activates (.gran addr parity replayed loft)) then t.count R.MEM_NR_COUNT R.MEM_OVF_NR_OVF .mem 1 else t) cls ns)) ∧
  (∀ (s : State) (kind cls ns addr : Nat) (upsets : List (Nat × Nat)) (sampled : Bool) (len : Nat) (u v t : State),
      s.clocked = true →
      u = s.memRun s.mem.queue.length →
      u.servesNow cls (.dramRead addr len) = true →
      v = (u.takeChannel u.now cls ns (.dramRead addr len) false).upset upsets →
      v.dramSize < addr + len →
      t = v →
      exec (.memRequest kind cls ns (.dramRead addr len) upsets sampled) s = .next (State.served (if (sampled && u.activates (.dramRead addr len)) then t.count R.MEM_NR_COUNT R.MEM_OVF_NR_OVF .mem 1 else t) cls ns)) ∧
  (∀ (s : State) (kind cls ns addr : Nat) (upsets : List (Nat × Nat)) (sampled : Bool) (data : List Byte) (u v t : State),
      s.clocked = true →
      u = s.memRun s.mem.queue.length →
      u.servesNow cls (.dramWrite addr data) = true →
      v = (u.takeChannel u.now cls ns (.dramWrite addr data) false).upset upsets →
      v.dramSize < addr + data.length →
      t = v →
      exec (.memRequest kind cls ns (.dramWrite addr data) upsets sampled) s = .next (State.served (if (sampled && u.activates (.dramWrite addr data)) then t.count R.MEM_NR_COUNT R.MEM_OVF_NR_OVF .mem 1 else t) cls ns)) ∧
  (∀ (s : State) (kind cls ns : Nat) (req : MemReq) (upsets : List (Nat × Nat)) (sampled : Bool) (u : State),
      s.clocked = true →
      u = s.memRun s.mem.queue.length →
      u.servesNow cls req = false →
      exec (.memRequest kind cls ns req upsets sampled) s = .next { u with mem := { u.mem with queue := u.mem.queue ++ [⟨kind, cls, u.now, ns, req, upsets, sampled, false⟩] } }) ∧
  (∀ (s : State) (w : MemWait) (a u p : State),
      s.clocked = true →
      (s.mem.queue.find? (fun w => decide (w.level ≠ 0)) = some w) →
      a = s.advance (w.at' + s.ageLimit) →
      u = a.memRun a.mem.queue.length →
      u.mem.queue.contains w = true →
      (p = State.count { u with mem := { u.mem with queue := modFirst (fun x => decide (x = w)) (fun x => { x with promoted := true }) u.mem.queue } } R.MEM_PROMOTED_COUNT R.MEM_OVF_PROMOTED_OVF .mem 1) →
      exec .agePromotion s = .next (p.memRun p.mem.queue.length)) ∧
  (∀ (s : State) (w : MemWait) (a u : State),
      s.clocked = true →
      (s.mem.queue.find? (fun w => decide (w.level ≠ 0)) = some w) →
      a = s.advance (w.at' + s.ageLimit) →
      u = a.memRun a.mem.queue.length →
      u.mem.queue.contains w = false →
      exec .agePromotion s = .next u) ∧
  (∀ (s : State) (addr words : Nat) (upsets : List (Nat × Nat)),
      s.clocked = true →
      s.stalled = false →
      s.accepts .mem = true →
      exec (.scrub addr words upsets) s = .next ((wordsOf (addr / 8 * 8) (8 * words)).foldl (fun (s : State) w => if s.dramSize ≤ 8 * w then s else s.scrubWord w) (s.upset upsets))) ∧
  (∀ (s : State) (kind addr : Nat) (data : BitVec 64),
      s.rd R.MEM_TEST_INJECT = 1 →
      addr % 8 = 0 →
      addr + 8 ≤ s.dramSize →
      s.channelOf addr = s.rd R.MEM_TEST_INJ_CH →
      exec (.injectOneBit kind addr data) s = .next (s.dramWrite kind addr (leBytes 8 data.toNat))) ∧
  (∀ (s : State) (kind addr : Nat) (data : BitVec 64),
      s.rd R.MEM_TEST_INJECT = 2 →
      addr % 8 = 0 →
      addr + 8 ≤ s.dramSize →
      s.channelOf addr = s.rd R.MEM_TEST_INJ_CH →
      exec (.injectTwoBits kind addr data) s = .next (s.dramWrite kind addr (leBytes 8 data.toNat))) ∧
  (∀ (s : State) (kind addr : Nat) (data : BitVec 64),
      s.rd R.MEM_TEST_INJECT = 3 →
      addr % 8 = 0 →
      addr + 8 ≤ s.dramSize →
      s.channelOf addr = s.rd R.MEM_TEST_INJ_CH →
      exec (.injectPoison kind addr data) s = .next (s.dramWrite kind addr (leBytes 8 data.toNat)))

/-- REFRESH of a channel in use, not in self-refresh and not with REF_OFF, moves to the instant at which it is due, one interval after the last, serves what waits, takes the channel for TRFC and closes its rows. IMPEDANCE_CALIBRATION lengthens the stall of a channel in use and not in self-refresh by a free time of at most 20 ns; EYE_RECENTRE does so and writes both eye offsets. REFRESH_RATE_POLL of a channel in use above the limit sets HOT with TEMP_RATE the first time; at or below it, it starts the cool time, and after 1 s ends HOT with the event. SELF_REFRESH_ENTRY, with SR_IDLE set, nothing printing and no request waiting for the channel, SR_IDLE ms after the channel was last taken, sets SELF_REFRESH. GRANARY_ROTATION, when due and allowed, starts the copy of the next logical bank; BANK_MOVE moves it to the spare and the freed bank to the self-test. DRAM_TRAINING_END fixes the channel set; a populated channel outside it is logged, its measured fields free, with CH_LOST, and with no channel the boot stays there; ZERO_FILL_END leaves DRAM zero and sets ZERO_DONE. -/
def Obligations.MemoryChannels : Prop :=
  (∀ (s : State) (ch : Fin 4) (due : Nat) (u : State),
      s.clocked = true →
      s.channels.contains ch.val = true →
      s.flag (R.MEM_CH_STATUS_SELF_REFRESH ch.val) = false →
      s.flag R.MEM_TEST_REF_OFF = false →
      due = tget 0 s.mem.refAt ch.val + s.refInterval ch.val →
      u = (s.advance due).memRun (s.advance due).mem.queue.length →
      exec (.refresh ch) s = .next { u with mem := { u.mem with refAt := tset 0 u.mem.refAt ch.val due, taken := tset 0 u.mem.taken ch.val (max due (tget 0 u.mem.taken ch.val) + 16 * u.rd (R.MEM_CH_CFG_TRFC_NS ch.val)), rows := tdrop u.mem.rows (ch.val * 64) (ch.val * 64 + 64) } }) ∧
  (∀ (s : State) (ch : Fin 4),
      s.clocked = true →
      s.channels.contains ch.val = true →
      s.flag (R.MEM_CH_STATUS_SELF_REFRESH ch.val) = false →
      exec (.impedanceCalibration ch) s = .next { (s.draw).2 with mem := { (s.draw).2.mem with taken := tmod 0 (s.draw).2.mem.taken ch.val (· + 16 * (Config.free .eyeStall (s.draw).1 % 21)) } }) ∧
  (∀ (s : State) (ch : Fin 4) (t : Nat),
      s.clocked = true →
      s.channels.contains ch.val = true →
      s.flag (R.MEM_CH_STATUS_HOT ch.val) = false →
      exec (.refreshRatePoll ch true t) s = .next ((State.wr { s.advance t with mem := { (s.advance t).mem with cool := tset none (s.advance t).mem.cool ch.val none } } (R.MEM_CH_STATUS_HOT ch.val) 1).raise .mem 21)) ∧
  (∀ (s : State) (ch : Fin 4) (t : Nat),
      s.clocked = true →
      s.channels.contains ch.val = true →
      s.flag (R.MEM_CH_STATUS_HOT ch.val) = true →
      tget none s.mem.cool ch.val = none →
      exec (.refreshRatePoll ch false t) s = .next { s.advance t with mem := { (s.advance t).mem with cool := tset none (s.advance t).mem.cool ch.val (some (s.advance t).now) } }) ∧
  (∀ (s : State) (ch : Fin 4) (t : Nat) (t0 : Nat),
      s.clocked = true →
      s.channels.contains ch.val = true →
      s.flag (R.MEM_CH_STATUS_HOT ch.val) = true →
      tget none s.mem.cool ch.val = some t0 →
      t0 + 16000000000 ≤ (s.advance t).now →
      exec (.refreshRatePoll ch false t) s = .next ((State.wr { s.advance t with mem := { (s.advance t).mem with cool := tset none (s.advance t).mem.cool ch.val none } } (R.MEM_CH_STATUS_HOT ch.val) 0).raise .mem 21)) ∧
  (∀ (s : State) (ch : Fin 4) (readPs writePs : Nat),
      s.clocked = true →
      s.channels.contains ch.val = true →
      s.flag (R.MEM_CH_STATUS_SELF_REFRESH ch.val) = false →
      exec (.eyeRecentre ch readPs writePs) s = .next ((State.wr { (s.draw).2 with mem := { (s.draw).2.mem with taken := tmod 0 (s.draw).2.mem.taken ch.val (· + 16 * (Config.free .eyeStall (s.draw).1 % 21)) } } (R.MEM_CH_EYE_READ_PS ch.val) readPs).wr (R.MEM_CH_EYE_WRITE_PS ch.val) writePs)) ∧
  (∀ (s : State) (ch : Fin 4),
      s.clocked = true →
      s.rd R.MEM_CFG_SR_IDLE ≠ 0 →
      s.printing = false →
      s.channels.contains ch.val = true →
      (s.mem.queue.any (fun w => decide (s.reqChannel w.req = ch.val)) = false) →
      exec (.selfRefreshEntry ch) s = .next ((s.advance (tget 0 s.mem.taken ch.val + s.rd R.MEM_CFG_SR_IDLE * 16000000)).wr (R.MEM_CH_STATUS_SELF_REFRESH ch.val) 1)) ∧
  (∀ (s : State) (t : Nat) (u : State),
      s.clocked = true →
      u = s.advance t →
      u.accepts .mem = true →
      u.flag R.GRAN_CFG_ROT_EN = true →
      u.gleanFlag 2 = true →
      u.stalled = false →
      u.flag R.GRAN_STATE_PERMANENT = false →
      u.mem.copying = none →
      u.mem.bist = none →
      u.mem.rotAt + max 1 (u.rd R.GRAN_CFG_ROT_S) * 16000000000 ≤ u.now →
      exec (.granaryRotation t) s = .next { u with mem := { u.mem with copying := some u.mem.next, next := (u.mem.next + 1) % 48, rotAt := u.now } }) ∧
  (∀ (s : State) (l : Nat),
      s.clocked = true →
      s.mem.copying = some l →
      exec .bankMove s = .next { s with mem := { s.mem with phys := tset 0 s.mem.phys l (if s.rd R.GRAN_STATE_SPARE = l then 0 else s.rd R.GRAN_STATE_SPARE + 1), copying := none, bist := some (s.physBank l) } }) ∧
  (∀ (s : State) (trained : BitVec 4) (pop use : List Nat),
      s.sysr.stage = BootStage.training →
      (pop = (List.range 4).filter (fun c => s.flag (R.MEM_CH_CFG_POPULATED c))) →
      (use = channelSet ((pop.filter fun c => bit trained.toNat c).foldl (fun m c => m + 2 ^ c) 0)) →
      use ≠ [] →
      (∀ c ∈ pop, use.contains c = true) →
      exec (.dramTrainingEnd trained) s = .next ((List.range 4).foldl (fun (q : State) c => q.wrB (R.MEM_CH_STATUS_TRAINED c) (use.contains c)) (s.boot BootStage.filling))) ∧
  (∀ (s : State) (trained : BitVec 4) (pop use lost : List Nat),
      s.sysr.stage = BootStage.training →
      (pop = (List.range 4).filter (fun c => s.flag (R.MEM_CH_CFG_POPULATED c))) →
      (use = channelSet ((pop.filter fun c => bit trained.toNat c).foldl (fun m c => m + 2 ^ c) 0)) →
      (lost = pop.filter fun c => !use.contains c) →
      exec (.dramTrainingEnd trained) s = .next (State.raiseIf (lost.foldl (fun (q : State) c => (q.draw).2.logMem { (q.draw).2.memRec 11 0 (Config.free .logField (q.draw).1 % 2 ^ 36) 0 0xFF with where' := c, geom := Config.free .logField (q.draw).1 / 2 ^ 36 % 2 ^ 32 })
      ((List.range 4).foldl (fun (q : State) c => q.wrB (R.MEM_CH_STATUS_TRAINED c) (use.contains c)) (s.boot (if use.isEmpty then BootStage.stuck else BootStage.filling)))) (!lost.isEmpty) .mem 27)) ∧
  (∀ (s : State),
      s.sysr.stage = .filling →
      exec .zeroFillEnd s = .next { ((s.boot .filled).wr R.MEM_STATE_ZERO_DONE 1) with dram := [], dramPoison := [], dramErr := [] })

/-- A PTP message that arrives while the clocks run at a port that the PTP clock uses, with its link up and in LISTENING or beyond, is counted in ETH_RX_PTP; then Sync and Follow_Up from the parent form an offset sample, Delay_Resp and the peer-delay responses a delay sample, Delay_Req in MASTER and Pdelay_Req are answered, and Announce feeds the best master clock algorithm; a Sync of the parent restarts its receipt time, and so does an Announce, except in SLAVE or UNCALIBRATED one of another clock than the parent. At a port that does not take PTP messages it is discarded and counted. -/
def Obligations.PtpMessages : Prop :=
  (∀ (s u : State) (port : Fin 2) (t : Nat) (v : State) (source seq origin : Nat) (corr : Int),
      s.clocked = true →
      s.flag (R.ETH_STATE_LINK_UP port.val) = true →
      s.usesPort port.val = true →
      4 ≤ s.pst port.val →
      u = (s.advance t).count (R.ETH_RX_PTP_COUNT port.val) (R.ETH_OVF_RX_OVF port.val) .time 1 →
      u.fromParent port.val source = true →
      v = u.setPort port.val { (u.port port.val) with syncAt := u.now } →
      exec (.sync port source seq true origin corr t) s = .next (v.setPort port.val { (v.port port.val) with pendSync := some (source, seq, v.ingress port.val t, corr) })) ∧
  (∀ (s u : State) (port : Fin 2) (t : Nat) (v : State) (source seq origin : Nat) (corr : Int),
      s.clocked = true →
      s.flag (R.ETH_STATE_LINK_UP port.val) = true →
      s.usesPort port.val = true →
      4 ≤ s.pst port.val →
      u = (s.advance t).count (R.ETH_RX_PTP_COUNT port.val) (R.ETH_OVF_RX_OVF port.val) .time 1 →
      u.fromParent port.val source = true →
      v = u.setPort port.val { (u.port port.val) with syncAt := u.now } →
      exec (.sync port source seq false origin corr t) s = .next (v.syncDone port.val (v.ingress port.val t - 16 * (origin : Int) - corr16 corr))) ∧
  (∀ (s u : State) (port : Fin 2) (t : Nat) (source seq origin : Nat) (corr c t2 : Int),
      s.clocked = true →
      s.flag (R.ETH_STATE_LINK_UP port.val) = true →
      s.usesPort port.val = true →
      4 ≤ s.pst port.val →
      u = (s.advance t).count (R.ETH_RX_PTP_COUNT port.val) (R.ETH_OVF_RX_OVF port.val) .time 1 →
      u.fromParent port.val source = true →
      (u.port port.val).pendSync = some (source, seq, t2, c) →
      exec (.followUp port source seq origin corr t) s = .next ((u.setPort port.val { (u.port port.val) with pendSync := none }).syncDone port.val (t2 - 16 * (origin : Int) - (corr16 c + corr16 corr)))) ∧
  (∀ (s u : State) (port : Fin 2) (t : Nat) (source seq : Nat) (corr : Int),
      s.clocked = true →
      s.flag (R.ETH_STATE_LINK_UP port.val) = true →
      s.usesPort port.val = true →
      4 ≤ s.pst port.val →
      u = (s.advance t).count (R.ETH_RX_PTP_COUNT port.val) (R.ETH_OVF_RX_OVF port.val) .time 1 →
      u.pst port.val = 6 →
      u.ptpFlag 2 = false →
      exec (.delayReq port source seq corr t) s = .next (u.sendPtp port.val 9 seq [u.ingress port.val t, corr, source])) ∧
  (∀ (s u : State) (port : Fin 2) (t : Nat) (source seq requester : Nat) (recv corr t3 diff : Int),
      s.clocked = true →
      s.flag (R.ETH_STATE_LINK_UP port.val) = true →
      s.usesPort port.val = true →
      4 ≤ s.pst port.val →
      u = (s.advance t).count (R.ETH_RX_PTP_COUNT port.val) (R.ETH_OVF_RX_OVF port.val) .time 1 →
      u.fromParent port.val source = true →
      u.ptpFlag 2 = false →
      requester = u.portId port.val →
      (u.port port.val).req = some (seq, t3, diff) →
      exec (.delayResp port source seq requester recv corr t) s = .next ((u.setPort port.val { (u.port port.val) with req := none }).delaySample port.val (sar (diff + (recv - t3 - corr16 corr)) 1))) ∧
  (∀ (s u : State) (port : Fin 2) (t : Nat) (source seq tOut : Nat) (corr : Int),
      s.clocked = true →
      s.flag (R.ETH_STATE_LINK_UP port.val) = true →
      s.usesPort port.val = true →
      4 ≤ s.pst port.val →
      u = (s.advance t).count (R.ETH_RX_PTP_COUNT port.val) (R.ETH_OVF_RX_OVF port.val) .time 1 →
      u.ptpFlag 2 = true →
      u.ptpFlag 1 = true →
      exec (.pdelayReq port source seq corr t tOut) s = .next ((u.sendPtp port.val 3 seq [u.ingress port.val t, 0, source]).sendPtp port.val 10 seq [u.egress port.val (max t tOut), corr, source])) ∧
  (∀ (s u : State) (port : Fin 2) (t : Nat) (source seq tOut : Nat) (corr : Int),
      s.clocked = true →
      s.flag (R.ETH_STATE_LINK_UP port.val) = true →
      s.usesPort port.val = true →
      4 ≤ s.pst port.val →
      u = (s.advance t).count (R.ETH_RX_PTP_COUNT port.val) (R.ETH_OVF_RX_OVF port.val) .time 1 →
      u.ptpFlag 2 = true →
      u.ptpFlag 1 = false →
      exec (.pdelayReq port source seq corr t tOut) s = .next (u.sendPtp port.val 3 seq [0, corr + (u.egress port.val (max t tOut) - u.ingress port.val t) * 4096, source])) ∧
  (∀ (s u : State) (port : Fin 2) (t : Nat) (requester seq : Nat) (recv corr t1 : Int),
      s.clocked = true →
      s.flag (R.ETH_STATE_LINK_UP port.val) = true →
      s.usesPort port.val = true →
      4 ≤ s.pst port.val →
      u = (s.advance t).count (R.ETH_RX_PTP_COUNT port.val) (R.ETH_OVF_RX_OVF port.val) .time 1 →
      (u.port port.val).pdReq = some (seq, t1) →
      requester = u.portId port.val →
      exec (.pdelayResp port requester seq true recv corr t) s = .next (u.setPort port.val { (u.port port.val) with pdResp := some (seq, u.ingress port.val t, recv, corr) })) ∧
  (∀ (s u : State) (port : Fin 2) (t : Nat) (requester seq : Nat) (recv corr t1 : Int),
      s.clocked = true →
      s.flag (R.ETH_STATE_LINK_UP port.val) = true →
      s.usesPort port.val = true →
      4 ≤ s.pst port.val →
      u = (s.advance t).count (R.ETH_RX_PTP_COUNT port.val) (R.ETH_OVF_RX_OVF port.val) .time 1 →
      (u.port port.val).pdReq = some (seq, t1) →
      requester = u.portId port.val →
      exec (.pdelayResp port requester seq false recv corr t) s = .next ((u.setPort port.val { (u.port port.val) with pdReq := none }).delaySample port.val (sar ((u.ingress port.val t - t1) - corr16 corr) 1))) ∧
  (∀ (s u : State) (port : Fin 2) (t : Nat) (requester seq q : Nat) (origin corr recv c t1 t4 : Int),
      s.clocked = true →
      s.flag (R.ETH_STATE_LINK_UP port.val) = true →
      s.usesPort port.val = true →
      4 ≤ s.pst port.val →
      u = (s.advance t).count (R.ETH_RX_PTP_COUNT port.val) (R.ETH_OVF_RX_OVF port.val) .time 1 →
      (u.port port.val).pdReq = some (q, t1) →
      (u.port port.val).pdResp = some (seq, t4, recv, c) →
      requester = u.portId port.val →
      exec (.pdelayRespFollowUp port requester seq origin corr t) s = .next ((u.setPort port.val { (u.port port.val) with pdReq := none, pdResp := none }).delaySample port.val (sar ((t4 - t1) - (origin - recv + corr16 c + corr16 corr)) 1))) ∧
  (∀ (s u : State) (port : Fin 2) (t : Nat) (a : Announce) (x : PtpPort),
      s.clocked = true →
      s.flag (R.ETH_STATE_LINK_UP port.val) = true →
      s.usesPort port.val = true →
      4 ≤ s.pst port.val →
      u = (s.advance t).count (R.ETH_RX_PTP_COUNT port.val) (R.ETH_OVF_RX_OVF port.val) .time 1 →
      a.source / 65536 ≠ u.ptpB 24 8 →
      x = (u.port port.val).note a t (4 * u.annInterval) →
      exec (.announce port a t) s = .next ((u.setPort port.val (if ((decide (u.pst port.val = 9) || decide (u.pst port.val = 8)) && !u.fromParent port.val a.source) then x else { x with annAt := u.now })).bmca)) ∧
  (∀ (s : State) (port : Fin 2),
      s.clocked = true →
      exec (.frameDiscard port) s = .next (s.count (R.ETH_DISCARD_COUNT port.val) (R.ETH_OVF_DISCARD_OVF port.val) .time 1)) ∧
  (∀ (s : State) (port : Fin 2) (source seq origin t : Nat) (twoStep : Bool) (corr : Int),
      s.clocked = true →
      s.flag (R.ETH_STATE_LINK_UP port.val) = true →
      s.usesPort port.val = false →
      exec (.sync port source seq twoStep origin corr t) s = .next ((s.advance t).count (R.ETH_DISCARD_COUNT port.val) (R.ETH_OVF_DISCARD_OVF port.val) .time 1))

/-- While the clocks run: a port in MASTER sends Sync with the next sequence number and, two-step, Follow_Up with the egress time; it sends Announce with its data set; PRE_MASTER counts Announce intervals down and becomes MASTER; a slave port sends Delay_Req, or Pdelay_Req in peer mode, with its egress time kept. At the end of either receipt time, counted from the last Announce or Sync that restarted it, a slave leaves its master; at the end of the Announce receipt time a listening or passive port becomes MASTER, or LISTENING when the clock only follows. A change of the Ethernet link (up 1 ms after its lane gained block lock) sets LINK_UP and LSTATE and the port state, with the event. -/
def Obligations.PtpTimers : Prop :=
  (∀ (s u : State) (port : Fin 2) (t : Nat),
      s.clocked = true →
      u = s.advance t →
      u.pst port.val = 6 →
      exec (.syncInterval port t) s = .next (if u.ptpFlag 1 = true then ((u.setPort port.val { (u.port port.val) with syncSeq := ((u.port port.val).syncSeq + 1) % 65536 }).sendPtp port.val 0 (u.port port.val).syncSeq [0]).sendPtp port.val 8 (u.port port.val).syncSeq [(u.setPort port.val { (u.port port.val) with syncSeq := ((u.port port.val).syncSeq + 1) % 65536 }).egress port.val t] else (u.setPort port.val { (u.port port.val) with syncSeq := ((u.port port.val).syncSeq + 1) % 65536 }).sendPtp port.val 0 (u.port port.val).syncSeq [(u.setPort port.val { (u.port port.val) with syncSeq := ((u.port port.val).syncSeq + 1) % 65536 }).egress port.val t])) ∧
  (∀ (s u : State) (port : Fin 2) (t : Nat) (a : Announce),
      s.clocked = true →
      u = s.advance t →
      u.pst port.val = 6 →
      a = u.annSet port.val →
      exec (.announceInterval port t) s = .next ((u.setPort port.val { (u.port port.val) with annSeq := ((u.port port.val).annSeq + 1) % 65536 }).sendPtp port.val 11 (u.port port.val).annSeq [a.source, a.gm, a.priority1, a.clockClass, a.accuracy, a.variance, a.priority2, a.steps, a.utc, a.timeSource, a.flags])) ∧
  (∀ (s u : State) (port : Fin 2) (t : Nat),
      s.clocked = true →
      u = s.advance t →
      u.pst port.val = 5 →
      exec (.announceInterval port t) s = .next (if (u.port port.val).qual ≤ 1 then u.setPst port.val 6 else u.setPort port.val { (u.port port.val) with qual := (u.port port.val).qual - 1 })) ∧
  (∀ (s u : State) (port : Fin 2) (t : Nat),
      s.clocked = true →
      u = s.advance t →
      u.ptpFlag 2 = true →
      u.usesPort port.val = true →
      4 ≤ u.pst port.val →
      exec (.delayReqInterval port t) s = .next ((u.setPort port.val { (u.port port.val) with reqSeq := ((u.port port.val).reqSeq + 1) % 65536, pdReq := some ((u.port port.val).reqSeq, u.egress port.val t), pdResp := none }).sendPtp port.val 2 (u.port port.val).reqSeq [u.egress port.val t])) ∧
  (∀ (s u : State) (port : Fin 2) (t : Nat) (d : Int),
      s.clocked = true →
      u = s.advance t →
      u.ptpFlag 2 = false →
      (u.pst port.val = 9 ∨ u.pst port.val = 8) →
      (u.port port.val).diff = some d →
      exec (.delayReqInterval port t) s = .next ((u.setPort port.val { (u.port port.val) with reqSeq := ((u.port port.val).reqSeq + 1) % 65536, req := some ((u.port port.val).reqSeq, u.egress port.val t, d) }).sendPtp port.val 1 (u.port port.val).reqSeq [u.egress port.val t])) ∧
  (∀ (s u : State) (port : Fin 2) (t : Nat),
      s.clocked = true →
      u = s.advance t →
      u.ptpFlag 2 = false →
      (u.pst port.val = 9 ∨ u.pst port.val = 8) →
      (u.port port.val).diff = none →
      exec (.delayReqInterval port t) s = .next ((u.setPort port.val { (u.port port.val) with reqSeq := ((u.port port.val).reqSeq + 1) % 65536 }).sendPtp port.val 1 (u.port port.val).reqSeq [u.egress port.val t])) ∧
  (∀ (s : State) (port : Fin 2),
      s.clocked = true →
      s.usesPort port.val = true →
      (s.pst port.val = 9 ∨ s.pst port.val = 8) →
      exec (.announceReceiptTimeout port) s = .next ((s.advance ((s.port port.val).annAt + s.ptpB 13 1 * s.annInterval)).masterLost port.val)) ∧
  (∀ (s t : State) (port : Fin 2),
      s.clocked = true →
      s.usesPort port.val = true →
      (s.pst port.val = 4 ∧ s.ptpFlag 0 = false ∨ s.pst port.val = 7) →
      t = (s.advance ((s.port port.val).annAt + s.ptpB 13 1 * s.annInterval)) →
      exec (.announceReceiptTimeout port) s = .next ((t.setPort port.val { (t.port port.val) with foreign := [] }).setPst port.val (if s.ptpFlag 0 then 4 else 6))) ∧
  (∀ (s : State) (port : Fin 2),
      s.clocked = true →
      (s.pst port.val = 9 ∨ s.pst port.val = 8) →
      exec (.syncReceiptTimeout port) s = .next ((s.advance ((s.port port.val).syncAt + 3 * logInterval (fieldS s.ptp.block 11 1))).masterLost port.val)) ∧
  (∀ (s a u : State) (port : Fin 2),
      s.clocked = true →
      s.accepts (.port port) = true →
      s.flag (R.LANE_STATUS_BLOCK_LOCK (LaneId.eth port).b) = true →
      s.flag (R.ETH_STATE_LINK_UP port.val) = false →
      a = s.advance ((s.lane (.eth port)).lockAt + 16000000) →
      u = ((a.wrB (R.ETH_STATE_LINK_UP port.val) true).wr (R.LANE_STATUS_LSTATE (Node.port port).base) 5).raise .time 20 →
      exec (.linkChange port true) s = .next (if u.usesPort port.val then (u.startPort port.val).ptpListening else u)) ∧
  (∀ (s u : State) (port : Fin 2),
      s.clocked = true →
      s.flag (R.ETH_STATE_LINK_UP port.val) = true →
      u = ((s.wrB (R.ETH_STATE_LINK_UP port.val) false).wr (R.LANE_STATUS_LSTATE (Node.port port).base) 0).raise .time 20 →
      exec (.linkChange port false) s = .next (if u.usesPort port.val then u.setPst port.val 2 else u))

/-- PTP_CONFIG of a good block configures and restarts the PTP clock and waits for its ports. PULSE_SET of a schedule whose start is at least 5 µs ahead of the base arms it and completes OK, or NOT_SYNCED where the output requires a synchronized base, with the first time; a periodic one whose start is nearer is armed at its first period that is far enough and completes PULSE_PAST; a single one disarms the output and completes PULSE_PAST with zeros. TIME_READ completes OK with the value of its base and SYNCED. -/
def Obligations.TimePackets : Prop :=
  (∀ (s : State) (h : Hdr) (block : Nat) (d : List Byte) (b : State),
      s.Takes (.ptpConfig h block) opPtpConfig h →
      s.accepts .time = true →
      s.Reads block 64 d →
      s.ptpBad d = false →
      b = (s.begun opPtpConfig h).touch 2 block 64 →
      exec (.ptpConfig h block) s = .next (b.ptpConfigure (s.asPk opPtpConfig h) d)) ∧
  (∀ (s : State) (h : Hdr) (output base sec ns frac period width : Nat) (start least : Int),
      s.Takes (.pulseSet h output base sec ns frac period width) opPulseSet h →
      s.accepts .time = true →
      output ≤ 7 →
      base ≤ 3 →
      ns ≤ 999999999 →
      sec < 2 ^ 48 →
      frac < 2 ^ 16 →
      8 ≤ width →
      width ≤ 1000000000 →
      (period = 0 ∨ width + 8 ≤ period) →
      start = tbValue sec ns frac →
      least = (s.begun opPulseSet h).baseAt base s.now + 5000 * 65536 →
      least ≤ start →
      exec (.pulseSet h output base sec ns frac period width) s = .next ((((s.begun opPulseSet h).setPls output { (s.pls output) with sched := some ⟨base, start, period, width, 0⟩ })).complete (s.asPk opPulseSet h)
      (if s.unsynced output base then .notSynced else .ok) (tbWords start))) ∧
  (∀ (s : State) (h : Hdr) (output base sec ns frac period width : Nat) (start least : Int),
      s.Takes (.pulseSet h output base sec ns frac period width) opPulseSet h →
      s.accepts .time = true →
      output ≤ 7 →
      base ≤ 3 →
      ns ≤ 999999999 →
      sec < 2 ^ 48 →
      frac < 2 ^ 16 →
      8 ≤ width →
      width ≤ 1000000000 →
      (period = 0 ∨ width + 8 ≤ period) →
      start = tbValue sec ns frac →
      least = (s.begun opPulseSet h).baseAt base s.now + 5000 * 65536 →
      start < least →
      period = 0 →
      exec (.pulseSet h output base sec ns frac period width) s = .next (((s.begun opPulseSet h).setPls output { (s.pls output) with sched := none }).complete (s.asPk opPulseSet h) .pulsePast [0, 0, 0, 0])) ∧
  (∀ (s : State) (h : Hdr) (output base sec ns frac period width : Nat) (start least : Int) (k : Nat),
      s.Takes (.pulseSet h output base sec ns frac period width) opPulseSet h →
      s.accepts .time = true →
      output ≤ 7 →
      base ≤ 3 →
      ns ≤ 999999999 →
      sec < 2 ^ 48 →
      frac < 2 ^ 16 →
      8 ≤ width →
      width ≤ 1000000000 →
      (period = 0 ∨ width + 8 ≤ period) →
      start = tbValue sec ns frac →
      least = (s.begun opPulseSet h).baseAt base s.now + 5000 * 65536 →
      start < least →
      period ≠ 0 →
      k = ((least - start + (period : Int) * 65536 - 1) / ((period : Int) * 65536)).toNat →
      exec (.pulseSet h output base sec ns frac period width) s = .next ((((s.begun opPulseSet h).setPls output { (s.pls output) with sched := some ⟨base, start, period, width, k⟩ })).complete (s.asPk opPulseSet h) .pulsePast
      (tbWords (PlsSched.time ⟨base, start, period, width, k⟩ k)))) ∧
  (∀ (s : State) (h : Hdr) (base : Nat),
      s.Takes (.timeRead h base) opTimeRead h →
      s.accepts .time = true →
      base ≤ 3 →
      exec (.timeRead h base) s = .next ((s.begun opTimeRead h).complete (s.asPk opTimeRead h) .ok (tbWords ((s.begun opTimeRead h).baseAt base s.now) ++ [s.rd (R.TB_STATE_SYNCED base)])))

/-- PULSE_COMMIT of an armed output within 2 µs of its next pulse, TIME accepting and ROOT present, commits the pulse: it moves the schedule on, counts it, drives the output where DRIVE is set and holds it active to the end of its width. PULSE_END of an output whose end has passed leaves it inactive, its pin at the inactive level where DRIVE is set. TB_SET of a free-running base with a good TB_SET_NS steps it to the value set; TB_RATE of one changes its rate at its present value, so without a jump; both are discarded with ACCESS on the base that PTP steers. -/
def Obligations.TimeEvents : Prop :=
  (∀ (s u : State) (out : Fin 8) (t f : Nat) (x : PlsSched),
      u = s.advance t →
      (u.pls out.val).sched = some x →
      f = (u.fireOf x.base (x.time x.next)).toNat →
      f ≤ u.now + 32000 →
      u.accepts .time = true →
      u.hlth.shutdown = false →
      u.hlth.rootLost = false →
      exec (.pulseCommit out t) s = .next (u.commitPulse out.val x x.next f)) ∧
  (∀ (s u : State) (out : Fin 8) (t e : Nat),
      u = s.advance t →
      (u.pls out.val).until' = some e →
      e ≤ u.now →
      exec (.pulseEnd out t) s = .next ((u.setPls out.val { (u.pls out.val) with until' := none }).pulseLevel out.val false e)) ∧
  (∀ (s : State) (base : Fin 4),
      s.HostReaches →
      s.rd (R.TB_STATE_SOURCE base.val) ≠ 1 →
      s.rd (R.TB_SET_NS_NS base.val) ≤ 999999999 →
      exec (.tbSet base) s = .next (s.stepTo base.val (tbValue (s.rd (R.TB_SET_SEC_SEC base.val)) (s.rd (R.TB_SET_NS_NS base.val)) 0))) ∧
  (∀ (s : State) (base : Fin 4),
      s.HostReaches →
      (s.rd (R.TB_STATE_SOURCE base.val) = 1 ∨ 999999999 < s.rd (R.TB_SET_NS_NS base.val)) →
      exec (.tbSet base) s = .next (s.raise .time 4)) ∧
  (∀ (s : State) (base : Fin 4) (v : Word),
      s.HostReaches →
      s.rd (R.TB_STATE_SOURCE base.val) ≠ 1 →
      exec (.tbRate base v) s = .next ((s.setTb base.val ⟨s.now, s.baseAt base.val s.now⟩).wr (R.TB_RATE_RATE base.val) v.toNat)) ∧
  (∀ (s : State) (base : Fin 4) (v : Word),
      s.HostReaches →
      s.rd (R.TB_STATE_SOURCE base.val) = 1 →
      exec (.tbRate base v) s = .next (s.raise .time 4))

/-- On an accepting axis at rest: AXIS_MOVE of a homed axis to a target within its limits, with rate and accelerations in range, writes AX_ACCEL and AX_DECEL, turns the bridges on and starts the move, which ends at once with MOVE_DONE where the target is the position; AXIS_HOME of a good method clears HOMED, sets HOMING and starts homing; AXIS_SET of a good block loads it, drops HOMED when the microstep or direction changes, and completes OK. AXIS_STOP of a moving axis waits for its stop; of one at rest it completes OK with the position, with mode 1 after the bridges are off. -/
def Obligations.AxisPackets : Prop :=
  (∀ (s : State) (h : Hdr) (axis target rate accel decel : Nat) (t u v : State),
      s.Takes (.axisMove h axis target rate accel decel) opAxisMove h →
      s.accepts (axisNode axis) = true →
      axis ≤ 7 →
      (decide (toS 32 target < (s.ax axis).softMin) || decide ((s.ax axis).softMax < toS 32 target) || decide (rate < (s.ax axis).startRate) || decide (1000000 < rate) ||
      decide (accel < 100) || decide (100000000 < accel) || decide (decel < 100) || decide (100000000 < decel)) = false →
      s.axMoving axis = false →
      s.flag (R.AX_STATUS_HOMED (axisB axis)) = true →
      t = ((((s.begun opAxisMove h).wr (R.AX_ACCEL_ACCEL (axisB axis)) accel).wr (R.AX_DECEL_DECEL (axisB axis)) decel).wr (R.AX_STATUS_DECEL_RAISED (axisB axis)) 0).bridgesOn axis →
      u = t.setAx axis { (t.ax axis) with pk := some (s.asPk opAxisMove h) } →
      (v = if rate = (s.ax axis).startRate then (u.axGo axis (decide (toS 32 target < u.axPos axis)) (.move (toS 32 target) rate) (s.ax axis).startRate).startCruise axis rate else u.axGo axis (decide (toS 32 target < u.axPos axis)) (.move (toS 32 target) rate) (s.ax axis).startRate) →
      exec (.axisMove h axis target rate accel decel) s = .next (if toS 32 target = u.axPos axis then v.axisEnd axis .ok 1 else v.inputsAct axis)) ∧
  (∀ (s : State) (h : Hdr) (axis method : Nat) (t u v : State),
      s.Takes (.axisHome h axis method) opAxisHome h →
      s.accepts (axisNode axis) = true →
      axis ≤ 7 →
      method ≤ 3 →
      (method < 2 ∨ (List.range 4).any (fun i => (s.ax axis).homeRef (decide (method % 2 = 0)) i) = true) →
      s.axMoving axis = false →
      t = ((((s.begun opAxisHome h).wr (R.AX_STATUS_HOMED (axisB axis)) 0).wr (R.AX_STATUS_DECEL_RAISED (axisB axis)) 0).wr (R.AX_STATUS_HOMING (axisB axis)) 1).bridgesOn axis →
      u = State.axGo (t.setAx axis { (t.ax axis) with pk := some (s.asPk opAxisHome h) }) axis (decide (method % 2 = 0)) (.home method) (s.ax axis).homeRate →
      (v = if method < 2 then u.setAx axis { (u.ax axis) with cruise := some 0, bSum := 0, bN := 0, fSum := 0, fN := 0 } else u) →
      exec (.axisHome h axis method) s = .next (if (s.ax axis).homeMax = 0 then v.axisEnd axis .homeFail 10 else v.inputsAct axis)) ∧
  (∀ (s : State) (h : Hdr) (axis mode : Nat) (t : State),
      s.Takes (.axisStop h axis mode) opAxisStop h →
      s.accepts (axisNode axis) = true →
      axis ≤ 7 →
      mode ≤ 1 →
      t = (s.begun opAxisStop h).axTo axis s.now →
      t.axMoving axis = true →
      exec (.axisStop h axis mode) s = .next ((t.setAx axis { (t.ax axis) with stops := (t.ax axis).stops ++ [s.asPk opAxisStop h] }).axHalt axis (decide (mode = 1)) 2)) ∧
  (∀ (s : State) (h : Hdr) (axis mode : Nat) (t u : State),
      s.Takes (.axisStop h axis mode) opAxisStop h →
      s.accepts (axisNode axis) = true →
      axis ≤ 7 →
      mode ≤ 1 →
      t = (s.begun opAxisStop h).axTo axis s.now →
      t.axMoving axis = false →
      (u = if mode = 1 then (t.bridgesOff axis).wr (R.AX_STATUS_STOP_REASON (axisB axis)) 2 else t) →
      exec (.axisStop h axis mode) s = .next (u.complete (s.asPk opAxisStop h) .ok [ofS 32 (u.axPos axis)])) ∧
  (∀ (s : State) (h : Hdr) (axis block : Nat) (y : AxisRt) (d : List Byte) (b : State),
      s.Takes (.axisSet h axis block) opAxisSet h →
      s.accepts (axisNode axis) = true →
      axis ≤ 7 →
      s.axMoving axis = false →
      s.Reads block 64 d →
      axisBad d = false →
      y = { (b.ax axis) with block := d } →
      b = (s.begun opAxisSet h).touch 2 block 64 →
      exec (.axisSet h axis block) s = .next ((((if decide (y.micro ≠ (b.ax axis).micro) || decide (y.flag 0 ≠ (b.ax axis).flag 0) then b.wr (R.AX_STATUS_HOMED (axisB axis)) 0 else b).setAx axis y).axInputs axis).complete (s.asPk opAxisSet h) .ok []))

/-- PROFILE_SEGMENT of a moving axis at or after the end of its segment moves it to that instant, starts the next segment with the speed of its profile or stop, and reports the axis to the standby. AX_ACCEL and AX_DECEL take a write while the axis moves and discard it with ACCESS at rest. HOLD_TIMEOUT of an axis held for HOLD_MS lowers the current, or turns the bridges off where I_HOLD is 0. INPUT_EDGE takes a changed raw level with its time and position; INPUT_ACCEPTED takes a level held for DEB_US. CHOPPER_CYCLE begins a drive phase by the sign of the target current; COMPARATOR_TRIP ends it, or faults the axis for overcurrent within blanking. AXIS loads the primary's position, direction, speed and accumulator. -/
def Obligations.AxisEvents : Prop :=
  (∀ (s u v : State) (axis : Fin 8) (t e : Nat) (x : AxisRt),
      s.clocked = true →
      e = (s.ax axis.val).segAt + 160000 →
      s.axMoving axis.val = true →
      e ≤ t →
      u = (s.advance t).axTo axis.val e →
      u.axMoving axis.val = true →
      x = u.ax axis.val →
      v = u.setAx axis.val { x with segAt := e } →
      exec (.profileSegment axis t) s = .next (State.sendAxis (if x.stopping.isSome then v.stopSegment axis.val else match x.job with
        | .move target rate => v.moveSegment axis.val target rate
        | _ => v) axis.val)) ∧
  (∀ (s : State) (axis : Fin 8) (v : Word),
      s.HostReaches →
      s.axMoving axis.val = true →
      exec (.axAccelWrite axis v) s = .next (s.wr (R.AX_ACCEL_ACCEL (axisB axis.val)) v.toNat)) ∧
  (∀ (s : State) (axis : Fin 8) (v : Word),
      s.HostReaches →
      s.axMoving axis.val = false →
      exec (.axAccelWrite axis v) s = .next (s.raise (axisNode axis.val) 4)) ∧
  (∀ (s : State) (axis : Fin 8) (v : Word),
      s.HostReaches →
      s.axMoving axis.val = true →
      exec (.axDecelWrite axis v) s = .next (s.wr (R.AX_DECEL_DECEL (axisB axis.val)) v.toNat)) ∧
  (∀ (s : State) (axis : Fin 8) (v : Word),
      s.HostReaches →
      s.axMoving axis.val = false →
      exec (.axDecelWrite axis v) s = .next (s.raise (axisNode axis.val) 4)) ∧
  (∀ (s u : State) (axis : Fin 8) (t t0 : Nat),
      u = s.advance t →
      (u.ax axis.val).heldAt = some t0 →
      u.flag (R.AX_STATUS_HOLDING (axisB axis.val)) = true →
      u.mode (axisNode axis.val) ≠ .faulted →
      t0 + (u.ax axis.val).holdMs * 16000000 ≤ u.now →
      exec (.holdTimeout axis t) s = .next (if (u.ax axis.val).iHold = 0 then u.bridgesOff axis.val else u.setAx axis.val { (u.ax axis.val) with heldAt := none, low := true })) ∧
  (∀ (s u v w : State) (axis : Fin 8) (input : Fin 4) (level : Bool) (t : Nat) (x : AxisRt),
      u = (s.advance t).axTo axis.val (s.advance t).now →
      (u.rd (R.AX_INPUTS_RAW (axisB axis.val))).testBit input.val ≠ level →
      x = u.ax axis.val →
      v = u.wr (R.AX_INPUTS_RAW (axisB axis.val)) (setBit (u.rd (R.AX_INPUTS_RAW (axisB axis.val))) input.val level) →
      (w = v.setAx axis.val { x with edges := tset [] x.edges input.val (v.now :: ((tget [] x.edges input.val).filter fun k => decide (v.now ≤ k + 16000 * x.debUs))), edgeAt := tset 0 x.edgeAt input.val v.now, edgePos := tset 0 x.edgePos input.val (v.axPos axis.val) }) →
      (x.block = [] ∨ w.enabled (axisNode axis.val) = false) →
      exec (.inputEdge axis input level t) s = .next w) ∧
  (∀ (s u : State) (axis : Fin 8) (input : Fin 4) (level : Bool) (t : Nat),
      u = (s.advance t).axTo axis.val (s.advance t).now →
      (u.rd (R.AX_INPUTS_RAW (axisB axis.val))).testBit input.val = level →
      exec (.inputEdge axis input level t) s = .next u) ∧
  (∀ (s u : State) (axis : Fin 8) (input : Fin 4) (t : Nat),
      u = (s.advance t).axTo axis.val (s.advance t).now →
      (u.rd (R.AX_INPUTS_RAW (axisB axis.val))).testBit input.val ≠ (u.rd (R.AX_INPUTS_ACCEPTED (axisB axis.val))).testBit input.val →
      tget 0 (u.ax axis.val).edgeAt input.val + 16000 * (u.ax axis.val).debUs ≤ u.now →
      (u.ax axis.val).block ≠ [] →
      exec (.inputAccepted axis input t) s = .next (((u.wr (R.AX_INPUTS_ACCEPTED (axisB axis.val)) (setBit (u.rd (R.AX_INPUTS_ACCEPTED (axisB axis.val))) input.val ((u.rd (R.AX_INPUTS_RAW (axisB axis.val))).testBit input.val))).axInputs axis.val).inputActs axis.val input.val (tget 0 (u.ax axis.val).edgePos input.val))) ∧
  (∀ (s u : State) (axis : Fin 8) (second : Bool) (t : Nat) (x : AxisRt) (r : BridgeRt) (k : Int),
      s.clocked = true →
      u = ((s.advance t).axTo axis.val (s.advance t).now).driveOut axis.val second →
      x = u.ax axis.val →
      r = (x.bridge second).run u.now →
      u.flag (R.AX_STATUS_BRIDGES_ON (axisB axis.val)) = true →
      r.live = false →
      r.next ≤ u.now →
      (k = (if second then (u.currents axis.val).2 else (u.currents axis.val).1)) →
      exec (.chopperCycle axis second t) s = .next (if k = 0 then u.setAx axis.val (x.setBridge second { (r.go .slow u.now) with start := u.now, next := u.now + 16 * x.tOff })
      else u.setAx axis.val (x.setBridge second { (r.go (if 0 < k then .drivePos else .driveNeg) u.now) with start := u.now, live := true, thr := min 1023 (k.natAbs + if x.flag 3 then (sar (r.ofs + 8) 4).toNat else 0) }))) ∧
  (∀ (s u : State) (axis : Fin 8) (second : Bool) (t : Nat) (x : AxisRt) (r : BridgeRt),
      u = ((s.advance t).axTo axis.val (s.advance t).now).driveOut axis.val second →
      x = u.ax axis.val →
      r = x.bridge second →
      r.live = true →
      r.start + 16 * x.tBlank ≤ u.now →
      exec (.comparatorTrip axis second t) s = .next ((u.wr (R.AX_STATUS_LOW_CURRENT (axisB axis.val)) 0).endDrive axis.val second ((u.now - r.start) / 16 - x.tBlank) u.now)) ∧
  (∀ (s u : State) (axis : Fin 8) (second : Bool) (t : Nat) (x : AxisRt) (r : BridgeRt),
      u = ((s.advance t).axTo axis.val (s.advance t).now).driveOut axis.val second →
      x = u.ax axis.val →
      r = x.bridge second →
      r.live = true →
      u.now < r.start + 16 * x.tBlank →
      exec (.comparatorTrip axis second t) s = .next (u.overcurrent axis.val)) ∧
  (∀ (s u w : State) (axis : Fin 8) (pos : Int) (v acc : Nat) (neg : Bool) (t : Nat),
      s.clocked = true →
      (s.hear t).standby = true →
      (s.hear t).axMoving axis.val = true →
      u = (s.hear t).axTo axis.val (s.hear t).now →
      w = (u.wrS (R.AX_POS_POS (axisB axis.val)) pos).wrB (R.AX_STATUS_DIR (axisB axis.val)) neg →
      exec (.axis axis pos v acc neg t) s = .next ((w.setAx axis.val { (w.ax axis.val) with v := v, acc := acc % 2 ^ 32, at' := w.now }).axSpeed axis.val v))

/-- Of ring 0 and with YOKE accepting and not FENCED: YOKE_ROLE 0 leaves the pair, sends a HEART and completes OK; YOKE_ROLE 1 or 2 ends any pair and takes the role, to complete when the partner has the other one. YOKE_RESYNC of a paired standby sets RESYNC_PENDING and asks the primary. TAKEOVER of a standby takes the lanes of its mask, or all of them and the press, and completes OK with the mask of lanes taken and their number, or EPOCH_STALE when a lane did not accept the epoch. -/
def Obligations.YokePackets : Prop :=
  (∀ (s : State) (h : Hdr),
      s.Takes (.yokeRole h 0) opYokeRole h →
      s.yk.rolePk = none →
      h.ring.val = 0 →
      s.fencedFor 0 = false →
      s.accepts .yoke = true →
      exec (.yokeRole h 0) s = .next ((s.begun opYokeRole h).leaveRole.sendHeart.complete (s.asPk opYokeRole h) .ok [])) ∧
  (∀ (s : State) (h : Hdr) (role : Nat),
      s.Takes (.yokeRole h role) opYokeRole h →
      s.yk.rolePk = none →
      h.ring.val = 0 →
      (role = 1 ∨ role = 2) →
      s.fencedFor role = false →
      s.accepts .yoke = true →
      exec (.yokeRole h role) s = .next ((s.begun opYokeRole h).unpair.takeRole role (s.asPk opYokeRole h))) ∧
  (∀ (s : State) (h : Hdr),
      s.Takes (.yokeResync h) opYokeResync h →
      s.yk.resyncPk = none →
      h.ring.val = 0 →
      s.flag R.YOKE_STATE_FENCED = false →
      s.accepts .yoke = true →
      s.standby = true →
      s.paired = true →
      exec (.yokeResync h) s = .next ((State.wr { s.begun opYokeResync h with yk := { s.yk with resyncPk := some (s.asPk opYokeResync h) } } R.YOKE_STATE_RESYNC_PENDING 1).sendSeq (.result .resync))) ∧
  (∀ (s : State) (h : Hdr) (mask whole : Nat) (ls : List Nat) (r : State × Nat × List Nat),
      s.Takes (.takeover h mask whole) opTakeover h →
      h.ring.val = 0 →
      whole ≤ 1 →
      s.flag R.YOKE_STATE_FENCED = false →
      s.accepts .yoke = true →
      s.standby = true →
      (ls = if whole = 1 then List.range 32 else maskList 32 mask) →
      (r = if whole = 1 then (s.begun opTakeover h).takeWhole else (s.begun opTakeover h).takeSingle ls) →
      exec (.takeover h mask whole) s = .next (r.1.complete (s.asPk opTakeover h) (if r.2.2.length = ((s.begun opTakeover h).peerLanes ls).length then .ok else .epochStale) [r.2.1, r.2.2.length]))

/-- Each message received while the clocks run is heard at its time. HEART acts by its role and flags. TOKEN of the paired standby is compared with its own tick of that line, or kept until the tick comes. SWATH_CRC of a lane of a live context is kept and compared with this device's own. CHECK starts or ends a check of the lane. MIRROR and RESULT in sequence order are taken and act; out of order they only count as heard; the identity acts without a number. RECORD of a pair enters its tile, defect or proposal ring. -/
def Obligations.YokeMessages : Prop :=
  (∀ (s : State) (role : Fin 4) (fenced owns chk : Bool) (last t : Nat),
      s.clocked = true →
      exec (.heart role fenced owns chk last t) s = .next ((s.hear t).recvHeart role.val fenced owns last)) ∧
  (∀ (s u : State) (ctx : Fin 256) (line global t : Nat),
      s.clocked = true →
      s.standby = true →
      s.paired = true →
      u = { s.hear t with yk := { (s.hear t).yk with lastToken := tset 0 s.yk.lastToken ctx.val (line + 1) } } →
      (s.ticks.find? (fun x => decide (x.1 = ctx.val) && decide (x.2.1 = line)) = none) →
      exec (.token ctx line global t) s = .next { u with tokens := s.tokens ++ [(ctx.val, line, t)] }) ∧
  (∀ (s u : State) (ctx : Fin 256) (line global t : Nat) (k : Nat × Nat × Nat),
      s.clocked = true →
      s.standby = true →
      s.paired = true →
      u = { s.hear t with yk := { (s.hear t).yk with lastToken := tset 0 s.yk.lastToken ctx.val (line + 1) } } →
      (s.ticks.find? (fun x => decide (x.1 = ctx.val) && decide (x.2.1 = line)) = some k) →
      exec (.token ctx line global t) s = .next (State.meet { u with ticks := s.ticks.filter fun y => decide (y ≠ k) } ctx.val line t k.2.2)) ∧
  (∀ (s u : State) (lane : Fin 32) (line : Nat) (marked : Bool) (crc : BitVec 32) (t : Nat),
      s.clocked = true →
      u = s.hear t →
      u.compares = true →
      u.laneOwner lane.val ≠ 0 →
      (u.ctx (u.laneOwner lane.val)).live = true →
      (u.ctx (u.laneOwner lane.val)).firedLines ≤ line →
      exec (.swathCrc lane line marked crc t) s = .next (State.compareCrc { u with peerCrcs := tset none u.peerCrcs (crcKey lane.val line) (some ⟨crc.toNat, marked⟩) } (u.laneOwner lane.val) lane.val line)) ∧
  (∀ (s u : State) (passed : Bool) (lane : Fin 32) (line t : Nat),
      s.clocked = true →
      s.compares = true →
      (u = (if (s.hear t).check = none then { ((s.hear t).wr R.YOKE_STATE_CHECKING 1) with check := some { ctx := (s.hear t).laneOwner lane.val, line := line, lane := lane.val } } else s.hear t)) →
      exec (.check false passed lane line t) s = .next u) ∧
  (∀ (s u : State) (passed : Bool) (lane : Fin 32) (line t : Nat),
      s.clocked = true →
      s.compares = true →
      (u = (if (s.hear t).check = none then { ((s.hear t).wr R.YOKE_STATE_CHECKING 1) with check := some { ctx := (s.hear t).laneOwner lane.val, line := line, lane := lane.val } } else s.hear t)) →
      exec (.check true passed lane line t) s = .next (State.checkOutcome { u with check := u.check.map fun x => { x with peer := some passed } })) ∧
  (∀ (s : State) (q : Nat) (m : MirrorMsg) (t : Nat),
      s.clocked = true →
      (s.hear t).inOrder q = true →
      exec (.mirror q m t) s = .next (((s.hear t).took q).recvMirror m)) ∧
  (∀ (s : State) (q : Nat) (m : MirrorMsg) (t : Nat),
      s.clocked = true →
      (s.hear t).inOrder q = false →
      exec (.mirror q m t) s = .next (s.hear t)) ∧
  (∀ (s : State) (q release : Nat) (side : Bool) (t : Nat),
      s.clocked = true →
      exec (.result q (.identity side release) t) s = .next ((s.hear t).recvResult (.identity side release))) ∧
  (∀ (s : State) (q : Nat) (m : ResultMsg) (t : Nat),
      s.clocked = true →
      (∀ a b, m ≠ .identity a b) →
      (s.hear t).inOrder q = true →
      exec (.result q m t) s = .next (((s.hear t).took q).recvResult m)) ∧
  (∀ (s : State) (kind : Fin 3) (bytes : List Byte) (t : Nat),
      s.clocked = true →
      s.paired = true →
      exec (.record kind bytes t) s = .next (if kind = 0 then (s.hear t).enterTile bytes else if kind = 1 then (s.hear t).enterDefect bytes else (s.hear t).enterProp bytes))

/-- While the clocks run: HEART_INTERVAL sends a HEART, with the identity while a role is held without a pair. MESSAGE_RETRANSMIT sends every unacknowledged message again whose 20 µs have passed and that has been sent fewer than four times, and counts it. PARTNER_DOWN of a pair declares the partner down when nothing was heard for 1 ms or a message failed four times. STEP_LOST gives up every tick and token beyond the tolerance. YOKE_ROLE_TIMEOUT ends a waiting YOKE_ROLE: the device is alone and the packet completes PARTNER_DOWN. AUTOMATIC_TAKEOVER of a paired standby with AUTO, not FENCED or FAULTED, takes the whole press or the lane when the conditions hold. -/
def Obligations.YokeTimers : Prop :=
  (∀ (s : State),
      s.clocked = true →
      exec .heartInterval s = .next (if s.sendHeart.role ≠ 0 ∧ s.sendHeart.flag R.YOKE_STATE_PAIRED = false then s.sendHeart.sendIdentity else s.sendHeart)) ∧
  (∀ (s : State) (t : Nat) (m : YMsg),
      s.clocked = true →
      s.yk.unacked = [m] →
      m.at' + 320000 ≤ t →
      m.tries < 4 →
      exec (.messageRetransmit t) s = .next ((State.sendLoad { s.advance t with yk := { (s.advance t).yk with unacked := [{ m with tries := m.tries + 1, at' := t }] } } m.seq m.load).count R.YOKE_RESENT_COUNT R.YOKE_OVF_RESENT_OVF .yoke 1)) ∧
  (∀ (s : State) (t : Nat),
      s.clocked = true →
      (∀ m ∈ s.yk.unacked, t < m.at' + 320000 ∨ 4 ≤ m.tries) →
      exec (.messageRetransmit t) s = .next (s.advance t)) ∧
  (∀ (s : State) (t : Nat),
      s.clocked = true →
      s.paired = true →
      (s.yk.heard + 16000000 ≤ t ∨ s.yk.unacked.any (fun m => decide (4 ≤ m.tries) && decide (m.at' + 320000 ≤ t)) = true) →
      exec (.partnerDown t) s = .next ((s.advance t).partnerIsDown)) ∧
  (∀ (s : State) (t : Nat) (k : Nat × Nat × Nat),
      s.clocked = true →
      s.ticks = [k] →
      s.tokens = [] →
      k.2.2 + s.stepTol < t →
      exec (.stepLost t) s = .next (State.stepLost { s.advance t with ticks := [], tokens := [] } k.1 k.2.1)) ∧
  (∀ (s : State) (pk : Pk),
      s.clocked = true →
      s.yk.rolePk = some pk →
      exec .yokeRoleTimeout s = .next ((State.leaveRole { (s.advance (s.yk.roleAt + 16000000000)) with yk := { s.yk with rolePk := none } }).complete pk .partnerDown [])) ∧
  (∀ (s : State) (t : Nat),
      s.clocked = true →
      s.standby = true →
      s.flag R.YOKE_STATE_PAIRED = true →
      s.flag R.YOKE_CFG_AUTO = true →
      s.flag R.YOKE_STATE_FENCED = false →
      s.mode .yoke ≠ .faulted →
      (s.advance t).wholeDue t = true →
      exec (.automaticTakeover none t) s = .next ((s.advance t).takeWhole.1)) ∧
  (∀ (s : State) (lane : Fin 32) (t : Nat),
      s.clocked = true →
      s.standby = true →
      s.flag R.YOKE_STATE_PAIRED = true →
      s.flag R.YOKE_CFG_AUTO = true →
      s.flag R.YOKE_STATE_FENCED = false →
      s.mode .yoke ≠ .faulted →
      (s.advance t).laneDue lane.val = true →
      exec (.automaticTakeover (some lane) t) s = .next (((s.advance t).takeSingle [lane.val]).1))

/-- GLEAN_POLICY of a good block stores it and completes OK. GLEAN_RUN of an idle node starts the tests of its mask that the node has, or waits where a test is in progress. While the clocks run: GLEAN_TEST_START of an accepting node, where the policy and the thermal level allow it, begins the test; GLEAN_TEST_END ends it with its result, of the node or of the spare bank, and applies the writes held meanwhile; GLEAN_RELEASE of the node under test breaks it off; COVERAGE_LATE of an overdue part raises COVERAGE once; QUICK_CHECK_END of a lane under check ends it. -/
def Obligations.GleanerCommands : Prop :=
  (∀ (s : State) (h : Hdr) (block : Nat) (d : List Byte) (b : State),
      s.Takes (.gleanPolicy h block) opGleanPolicy h →
      s.accepts .glean = true →
      s.Reads block 64 d →
      gleanBad d = false →
      b = (s.begun opGleanPolicy h).touch 2 block 64 →
      exec (.gleanPolicy h block) s = .next (State.complete { b with gl := { b.gl with block := d } } (s.asPk opGleanPolicy h) .ok [])) ∧
  (∀ (s : State) (h : Hdr) (n : Node) (mask : Nat),
      s.Takes (.gleanRun h n.base mask) opGleanRun h →
      mask ≤ 15 →
      s.accepts .glean = true →
      (s.begun opGleanRun h).nodeState n = .idle →
      s.gl.run = none →
      s.gl.test = none →
      exec (.gleanRun h n.base mask) s = .next (State.nextRun { s.begun opGleanRun h with gl := { s.gl with run := some { pk := s.asPk opGleanRun h, tests := maskList 4 (mask &&& testsOf n), node := n } } } n)) ∧
  (∀ (s : State) (h : Hdr) (n : Node) (mask : Nat),
      s.Takes (.gleanRun h n.base mask) opGleanRun h →
      mask ≤ 15 →
      s.accepts .glean = true →
      (s.begun opGleanRun h).nodeState n = .idle →
      s.gl.run = none →
      s.gl.test.isSome = true →
      exec (.gleanRun h n.base mask) s = .next ({ s.begun opGleanRun h with gl := { s.gl with run := some { pk := s.asPk opGleanRun h, tests := maskList 4 (mask &&& testsOf n), node := n, waits := true } } })) ∧
  (∀ (s : State) (n : Node) (test : Fin 4),
      s.clocked = true →
      s.accepts .glean = true →
      s.hlth.share < 256 →
      s.gleanFlag 0 = true →
      (n = .comp → (s.gleanFlag 1 && (s.inLongHeadland || decide (s.nodeState n = .idle))) = true) →
      s.gleanTests.testBit test.val = true →
      (testsOf n).testBit test.val = true →
      s.gl.test = none →
      s.gl.run = none →
      s.accepts n = true →
      (inPlace n = true ∨ s.nodeState n = .idle) →
      exec (.gleanTestStart n test) s = .next (s.beginTest n test.val)) ∧
  (∀ (s : State) (passed : Bool) (n : Node) (k : Nat),
      s.clocked = true →
      s.gl.test = some (n, k) →
      exec (.gleanTestEnd false passed) s = .next ((s.endTest passed).applyHeld n)) ∧
  (∀ (s : State) (passed : Bool),
      s.clocked = true →
      exec (.gleanTestEnd true passed) s = .next (s.endBankTest passed)) ∧
  (∀ (s : State) (n : Node) (k : Nat),
      s.clocked = true →
      s.gl.test = some (n, k) →
      exec (.gleanRelease n) s = .next (s.breakTest.applyHeld n)) ∧
  (∀ (s : State) (n : Node) (bank : Fin 49) (t : Nat),
      s.clocked = true →
      (testsOf n ≠ 0 ∨ n = .mem) →
      tget false s.gl.late (partKey n bank.val) = false →
      (s.advance t).overdue n bank.val t = true →
      exec (.coverageLate n bank t) s = .next (State.raise { s.advance t with gl := { s.gl with late := tset false s.gl.late (partKey n bank.val) true } } .glean 17)) ∧
  (∀ (s : State) (lane : Fin 32) (fails : BitVec 4) (c : CheckRt),
      s.clocked = true →
      s.check = some c →
      c.lane = lane.val →
      c.own = none →
      exec (.quickCheckEnd lane fails) s = .next (s.quickEnd lane.val fails.toNat))

/-- With HLTH accepting: HEALTH_READ writes the health block of 16,640 bytes, with the rise rounded either way where it is no whole number, and completes OK with its size, or SENSOR_FAULT when more than 16 sensors are ignored. TALLY_READ writes the DRAM tallies of its nozzles, 8 bytes each, and completes OK with their number. THERMAL_SET of a good block sets the thresholds, rise limits and hysteresis and completes OK. -/
def Obligations.HealthPackets : Prop :=
  (∀ (s : State) (h : Hdr) (dst k : Nat) (t : State),
      s.Takes (.healthRead h dst) opHealthRead h →
      s.accepts .hlth = true →
      s.badAddr dst 16640 = false →
      s.dmaFails dst 16640 = false →
      (k = (if s.hlth.rise % 4 = 0 then 0 else Config.free .riseRound (s.begun opHealthRead h).draw.1 % 2)) →
      t = (s.begun opHealthRead h).draw.2.writeAt 15 dst ((s.begun opHealthRead h).draw.2.healthBytes (s.hlth.rise / 4 + k)) →
      exec (.healthRead h dst) s = .next (t.complete (s.asPk opHealthRead h) (if 16 < t.ignored then .sensorFault else .ok) [16640])) ∧
  (∀ (s : State) (h : Hdr) (dst first n : Nat),
      s.Takes (.tallyRead h dst first n) opTallyRead h →
      s.accepts .hlth = true →
      first + n ≤ 1048576 →
      s.badAddr dst (8 * n) = false →
      s.dmaFails dst (8 * n) = false →
      s.dramBad (s.tallyAddr first) (8 * n) = false →
      exec (.tallyRead h dst first n) s = .next ((((s.begun opTallyRead h).noteRead 15 (s.tallyAddr first) (8 * n)).writeAt 15 dst ((tgets 0 s.tallies first n).flatMap (leBytes 8))).complete (s.asPk opTallyRead h) .ok [n])) ∧
  (∀ (s : State) (h : Hdr) (block : Nat) (t : State) (d : List Byte) (b : State),
      s.Takes (.thermalSet h block) opThermalSet h →
      s.accepts .hlth = true →
      s.Reads block 64 d →
      thermalBad d = false →
      t = (((b.wr R.HLTH_THRESH_WARN (fieldN d 0 2)).wr R.HLTH_THRESH_THROTTLE (fieldN d 2 2)).wr R.HLTH_THRESH_CRITICAL (fieldN d 4 2)).wr R.HLTH_THRESH_SHUTDOWN (fieldN d 6 2) →
      b = (s.begun opThermalSet h).touch 2 block 64 →
      exec (.thermalSet h block) s = .next ((((t.wr R.HLTH_RISE_RISE_WARN (fieldN d 8 2)).wr R.HLTH_RISE_RISE_CRIT (fieldN d 10 2)).wr R.HLTH_HYST_HYST (fieldN d 12 1)).complete (s.asPk opThermalSet h) .ok []))

/-- SENSOR_SCAN outside sleep takes the readings, the rise, the levels and the share. HOST_STOP_REQUEST sets or clears HOST in HLTH_STOP. A head TEMP in the head count is stored with its time, and orders the head; with its sensor fault flag a first failure orders VSTEP_MAX. HEAD_SENSOR of a head silent for 5 ms and HEAD_ENABLE_TIMER of a disabled one below its limit for 10 ms order the head. TALLY_FLUSH adds the accumulators of the lane to DRAM when its line is due. HLTH_TALLY_CLR writes its fields and with GO clears the range. HEAD_LIFE_UPDATE predicts the head's life where LIFE is set. AGE_MONITOR advances HLTH_HOURS, stores the drifts and predicts the end of life, with AGE_WARN once. -/
def Obligations.HealthEvents : Prop :=
  (∀ (s : State) (sites : List (Nat × Nat × Int × Int)) (t : Nat),
      s.dev ≠ devSleep →
      exec (.sensorScan sites t) s = .next ((s.advance t).scan sites)) ∧
  (∀ (s : State) (on : Bool),
      s.HostReaches →
      exec (.hostStopRequest on) s = .next (s.wrB R.HLTH_STOP_HOST on)) ∧
  (∀ (s u : State) (lane : Fin 32) (body t k : Nat),
      s.clocked = true →
      k = bits body 8 6 →
      u = (s.advance t).setHead lane.val { (s.head lane.val) with temps := tset 0 (s.head lane.val).temps k body, tempAt := tset 0 (s.head lane.val).tempAt k t } →
      k < s.headCount lane.val →
      body % 256 = 0x33 →
      bit body 32 = false →
      exec (.temp lane body t) s = .next (u.headTemp lane.val k (toS 16 (bits body 16 16)) (bit body 15) t)) ∧
  (∀ (s u : State) (lane : Fin 32) (body t k : Nat),
      s.clocked = true →
      k = bits body 8 6 →
      u = (s.advance t).setHead lane.val { (s.head lane.val) with temps := tset 0 (s.head lane.val).temps k body, tempAt := tset 0 (s.head lane.val).tempAt k t } →
      k < s.headCount lane.val →
      body % 256 = 0x33 →
      bit body 32 = true →
      tget false (s.head lane.val).sensorBad k = false →
      exec (.temp lane body t) s = .next (u.headSensorFails lane.val k)) ∧
  (∀ (s : State) (lane : Fin 32) (head : Fin 64) (t : Nat),
      s.clocked = true →
      tget 0 (s.head lane.val).temps head.val ≠ 0 →
      tget false (s.head lane.val).sensorBad head.val = false →
      tget 0 (s.head lane.val).tempAt head.val + 80000000 ≤ t →
      exec (.headSensor lane head t) s = .next ((s.advance t).headSensorFails lane.val head.val)) ∧
  (∀ (s u : State) (lane : Fin 32) (head : Fin 64) (t since : Nat),
      s.clocked = true →
      tget false (s.head lane.val).disabled head.val = true →
      since = tget 0 (s.head lane.val).belowSince head.val →
      since ≠ 0 →
      since + 160000000 ≤ t + 1 →
      u = (s.advance t).setHead lane.val { (s.head lane.val) with belowSince := tset 0 (s.head lane.val).belowSince head.val 0 } →
      exec (.headEnableTimer lane head t) s = .next (u.orderHead lane.val head.val (u.nextStep lane.val (tget 0 (s.head lane.val).vstep head.val) (toS 16 (bits (tget 0 (s.head lane.val).temps head.val) 16 16))) false)) ∧
  (∀ (s : State) (lane : Fin 32) (due : Nat),
      due = (s.globalLine + 1024 - 32 * lane.val) / 1024 →
      (s.head lane.val).flushes < due →
      exec (.tallyFlush lane) s = .next ((s.setHead lane.val { (s.head lane.val) with flushes := due }).flushTally lane.val)) ∧
  (∀ (s t : State) (lo hi : Word) (v : Nat),
      s.HostReaches →
      v = lo.toNat + hi.toNat * 2 ^ 32 →
      t = ((State.wr { s with staged := tset none s.staged (0xE0006C / 4) none } R.HLTH_TALLY_CLR_FIRST (bits v 0 20)).wr R.HLTH_TALLY_CLR_NUMBER (bits v 32 21)).wr R.HLTH_TALLY_CLR_CLR_OVF (bits v 62 1) →
      exec (.hlthTallyClr lo hi) s = .next (if bit v 63 then t.clearTallies (bits v 0 20) (bits v 32 21) (bit v 62) else t)) ∧
  (∀ (s : State) (lane : Fin 32) (head : Fin 64),
      s.rd (R.HEAD_LIFE_LIFE lane.val) ≠ 0 →
      head.val < s.headCount lane.val →
      exec (.headLifeUpdate lane head) s = .next (s.updateLife lane.val head.val)) ∧
  (∀ (s w t u : State) (drifts : List Nat),
      w = { (s.advance (s.hlth.hourAt + 57600000000000)) with hlth := { s.hlth with hourAt := s.hlth.hourAt + 57600000000000 } } →
      (t = (List.range 16).foldl (fun (q : State) i => q.wr (R.AGE_DRIFT_PPM i) (drifts.getD i 0)) (w.wr R.HLTH_HOURS_HOURS (min 0xFFFFFFFF (w.rd R.HLTH_HOURS_HOURS + 1)))) →
      (u = t.ageEol (min 0xFFFFFFFF (w.rd R.HLTH_HOURS_HOURS + 1)) ((List.range 16).foldl (fun (m : Nat) i => max m (t.rd (R.AGE_DRIFT_PPM i))) 0)) →
      exec (.ageMonitor drifts) s = .next (State.raiseIf { u with hlth := { u.hlth with ageWarned := u.hlth.ageWarned || decide (u.rd R.AGE_EOL_HOURS < 8760) } } (decide (u.rd R.AGE_EOL_HOURS < 8760) && !u.hlth.ageWarned) .hlth 26))

/-- Each of these packets, when taken, is refused for the first reason that holds in the order the spec gives: a bad parameter, SEC off, a DMA error, poison, the module in error, no key, a bad signature or digest, a revoked key, a version rolled back; a refusal of the module is counted and recorded in the audit log, and the packet completes with that status. With no reason to refuse, FW_UPDATE stores the image in the copy that does not run, caches its key, sets STAGED and completes OK with the release; SEAL_LOAD stores the sealed layer and completes OK; KEY_REVOKE revokes the slot, drops its key, withdraws its sealed layers and completes OK with the slots left; SEC_SELF_TEST runs the tests again and completes OK, or MODULE_ERROR when one fails, with the number passed. -/
def Obligations.SecurityPackets : Prop :=
  (∀ (s : State) (h : Hdr) (image len : Nat) (img : List Byte) (f : FwHdr) (b t u v : State) (toB : Bool),
      s.Takes (.fwUpdate h image len) opFwUpdate h →
      img = s.bytesAt image len →
      f = FwHdr.ofBytes (img.take 512) →
      b = s.begun opFwUpdate h →
      t = b.touch 2 image len →
      toB = !t.flag R.SEC_STATE_COPY →
      u = (t.cacheKey f.slot f.key).norWrite (copyBase toB) img →
      (v = { u with nor := if toB then { u.nor with failsB := 0 } else { u.nor with failsA := 0 } }) →
      exec (.fwUpdate h image len) s = .next
      (match firstFail [(badParamOf (s.readAt image len) || decide (len < 512) || (decide ((okBytes (s.readAt image len)).length = len) && (f.bad || decide (len ≠ 512 + f.bodyLen))), .badParam),
          (b.secOff, .unitOff), (dmaErrorOf (s.readAt image len), .dmaError), (poisonedOf (s.readAt image len), .poisoned), (b.secErr, .moduleError),
          (decide (b.imageCheck img = some .sigInvalid), .sigInvalid), (decide (b.imageCheck img = some .keyRevoked), .keyRevoked),
          (decide (b.imageCheck img = some .rollback), .rollback)] with
      | some st => (if secRefusal st then ((t.keepKey st f.slot false f.key).count R.SEC_COUNTS_FW_REJECTS R.SEC_OVF_FREJ_OVF .sec 1).audit 3 0 f.slot st.code f.release f.secver f.digest
          else t).failPk (s.asPk opFwUpdate h) st [(image, len)] []
      | none => (((v.wr R.SEC_STATE_STAGED 1).raise .sec 18).audit 3 0 f.slot 0 f.release f.secver f.digest).complete (s.asPk opFwUpdate h) .ok [f.release])) ∧
  (∀ (s : State) (h : Hdr) (fails : BitVec 4) (b : State),
      s.Takes (.secSelfTest h fails) opSecSelfTest h →
      b = s.begun opSecSelfTest h →
      exec (.secSelfTest h fails) s = .next
      (match firstFail [(b.secOff, .unitOff), (b.secErr, .moduleError)] with
      | some st => b.failPk (s.asPk opSecSelfTest h) st [] []
      | none => (b.moduleTests fails.toNat).complete (s.asPk opSecSelfTest h) (if fails = 0#4 then .ok else .moduleError) [4 - popc 4 fails.toNat])) ∧
  (∀ (s : State) (h : Hdr) (slot : Nat) (sigR sigS msg : List Byte) (b u v : State),
      s.Takes (.keyRevoke h slot sigR sigS msg) opKeyRevoke h →
      b = s.begun opKeyRevoke h →
      u = (b.wr (R.SEC_SLOT_REVOKED slot) 1).dropKey slot →
      v = State.withdrawSlot ((u.raise .sec 19).audit 9 0 slot 0 slot u.slotsLeft []) slot →
      exec (.keyRevoke h slot sigR sigS msg) s = .next
      (match firstFail [(decide (3 < slot) || revokeMsgBad slot msg || b.lastFw slot, .badParam), (b.secOff, .unitOff), (b.secErr, .moduleError),
          ((b.revokers slot).isEmpty, .authRequired), (!(b.revokers slot).any fun k => sigVerifies (b.cached k) msg sigR sigS, .sigInvalid),
          (b.slotRevoked slot, .keyRevoked)] with
      | some st => (if secRefusal st then b.audit 9 0 slot st.code slot b.slotsLeft [] else b).failPk (s.asPk opKeyRevoke h) st [] []
      | none => v.complete (s.asPk opKeyRevoke h) .ok [v.slotsLeft])) ∧
  (∀ (s : State) (h : Hdr) (content len block : Nat) (sigR sigS blk bytes : List Byte) (k : SealBlk) (gotBlk signed tak gotC : Bool) (reads : List (Nat × Nat)) (b t : State),
      s.Takes (.sealLoad h content len block sigR sigS) opSealLoad h →
      blk = s.bytesAt block 74240 →
      k = SealBlk.ofBytes blk →
      gotBlk = decide ((okBytes (s.readAt block 74240)).length = 74240) →
      signed = (s.keyFits k.slot true k.key && sigVerifies k.key (blk.take 128) sigR sigS) →
      tak = (gotBlk && signed && decide (len ≤ 8388608)) →
      (bytes = if tak then s.bytesAt content len else []) →
      gotC = (tak && decide ((okBytes (s.readAt content len)).length = len)) →
      (reads = (block, 74240) :: (if tak then [(content, len)] else [])) →
      b = s.begun opSealLoad h →
      (t = reads.foldl (fun (q : State) r => q.touch 2 r.1 r.2) b) →
      exec (.sealLoad h content len block sigR sigS) s = .next
      (match firstFail [(badParamOf (s.readAt block 74240) || b.badAddr content len ||
            (gotBlk && (k.bad || decide (len ≠ k.len) || k.tablesBad (s.ctx h.ctx) || decide (k.serial < tget 0 b.sec.serials h.ctx) || decide (b.freeKib < k.kib))) ||
            (gotC && b.contentBad k bytes), .badParam),
          (!(s.ctx h.ctx).openOrRunning, .ctxState), (b.secOff, .unitOff),
          (dmaErrorOf (s.readAt block 74240) || (tak && dmaErrorOf (s.readAt content len)), .dmaError),
          (poisonedOf (s.readAt block 74240) || (tak && poisonedOf (s.readAt content len)), .poisoned), (b.secErr, .moduleError),
          (!signed || decide (sha384 bytes ≠ k.contentDigest) || decide (sha384 (blk.drop 256) ≠ k.tableDigest), .sigInvalid),
          (b.slotRevoked k.slot, .keyRevoked)] with
      | some st => (if secRefusal st then (((t.keepKey st k.slot true k.key).count R.SEC_COUNTS_SEAL_REJECTS R.SEC_OVF_SREJ_OVF .sec 1).raise .sec 17).audit 5 h.ctx k.slot st.code k.serial k.len k.contentDigest
          else t).failPk (s.asPk opSealLoad h) st reads []
      | none => ((t.cacheKey k.slot k.key).acceptSeal h.ctx k bytes (blk.drop 256)).complete (s.asPk opSealLoad h) .ok []))

/-- AUDIT_READ writes the newest records from an index on, at most the number asked, and completes OK with their number and the index after or of the last. SEC_PROG outside TEST is discarded with ACCESS; in TEST it stores its fields, and with GO programs an empty slot with the hash and uses, recorded in the audit log, refuses a used one with FAILED and ACCESS, and fails when the module is in error. SEC_SRAM_PARITY drops the cached key of the slot, and caches the running image's key again. -/
def Obligations.SecurityEvents : Prop :=
  (∀ (s : State) (h : Hdr) (dst first most : Nat) (rs : List (List Byte)),
      s.Takes (.auditRead h dst first most) opAuditRead h →
      (rs = ((s.sec.audit.filter fun r => decide (first ≤ fieldN r 0 8)).take most)) →
      s.badAddr dst (160 * most) = false →
      s.secOff = false →
      s.dmaFails dst (160 * rs.length) = false →
      s.secErr = false →
      s.secPoison (s.secBase + storeBytes) ringBytes = false →
      exec (.auditRead h dst first most) s = .next (((s.begun opAuditRead h).writeAt 16 dst (rs.flatMap id)).complete (s.asPk opAuditRead h) .ok
      (words64 rs.length ++ words64 (if rs.isEmpty then (s.begun opAuditRead h).auditIndex else fieldN (rs.getLastD []) 0 8)))) ∧
  (∀ (s : State) (v : Word),
      s.HostReaches →
      s.dev ≠ devTest →
      exec (.secProg v) s = .next (s.raise .sec 4)) ∧
  (∀ (s t : State) (v : Word) (k : Nat),
      s.HostReaches →
      s.dev = devTest →
      k = v.toNat % 4 →
      t = ((s.wr R.SEC_PROG_SLOT k).wr R.SEC_PROG_USE_FW (bits v.toNat 8 1)).wr R.SEC_PROG_USE_SEAL (bits v.toNat 9 1) →
      bit v.toNat 16 = false →
      exec (.secProg v) s = .next t) ∧
  (∀ (s t : State) (v : Word) (k : Nat),
      s.HostReaches →
      s.dev = devTest →
      k = v.toNat % 4 →
      t = ((s.wr R.SEC_PROG_SLOT k).wr R.SEC_PROG_USE_FW (bits v.toNat 8 1)).wr R.SEC_PROG_USE_SEAL (bits v.toNat 9 1) →
      bit v.toNat 16 = true →
      t.secErr = true →
      exec (.secProg v) s = .next (t.wr R.SEC_PROG_FAILED 1)) ∧
  (∀ (s t : State) (v : Word) (k : Nat),
      s.HostReaches →
      s.dev = devTest →
      k = v.toNat % 4 →
      t = ((s.wr R.SEC_PROG_SLOT k).wr R.SEC_PROG_USE_FW (bits v.toNat 8 1)).wr R.SEC_PROG_USE_SEAL (bits v.toNat 9 1) →
      bit v.toNat 16 = true →
      t.secErr = false →
      t.slotUsed k = true →
      exec (.secProg v) s = .next (((t.wr R.SEC_PROG_FAILED 1).raise .sec 4).audit 10 0 k Status.badParam.code k (bits v.toNat 8 2) (beBytes 48 t.progHash))) ∧
  (∀ (s t : State) (v : Word) (k : Nat),
      s.HostReaches →
      s.dev = devTest →
      k = v.toNat % 4 →
      t = ((s.wr R.SEC_PROG_SLOT k).wr R.SEC_PROG_USE_FW (bits v.toNat 8 1)).wr R.SEC_PROG_USE_SEAL (bits v.toNat 9 1) →
      bit v.toNat 16 = true →
      t.secErr = false →
      t.slotUsed k = false →
      exec (.secProg v) s = .next ((State.wr (((State.wr { t with sec := { t.sec with hashes := tset none t.sec.hashes k (some t.progHash) } } (R.SEC_SLOT_PROVISIONED k) 1).wr (R.SEC_SLOT_FW k) (bits v.toNat 8 1)).wr (R.SEC_SLOT_SEAL k) (bits v.toNat 9 1)) R.SEC_PROG_FAILED 0).audit 10 0 k 0 k (bits v.toNat 8 2) (beBytes 48 t.progHash))) ∧
  (∀ (s : State) (slot : Fin 4),
      (s.dropKey slot.val).sec.image = none →
      exec (.secSramParity slot) s = .next (s.dropKey slot.val)) ∧
  (∀ (s : State) (slot : Fin 4) (k : Nat) (key : List Byte),
      (s.dropKey slot.val).sec.image = some (k, key) →
      exec (.secSramParity slot) s = .next (if k = slot.val ∧ (s.dropKey slot.val).slotRevoked k = false then (s.dropKey slot.val).cacheKey k key else s.dropKey slot.val))

/-- POWER_ON_RESET and BROWN_OUT hold the device in a full reset with their cause until POR_N_RELEASE boots it. PERST_N_LOW performs a full reset, or one of the link where PERST_SCOPE is set, none while POR_N is held; PERST_N_RELEASE boots after the full one, else brings the link up with its event. TEST_LOGIC_RESET changes nothing here. ROOT_LOSS squelches the lanes and faults SYS. PCIE_REFERENCE_LOSS takes the link down. BOOT_WATCHDOG during boot counts a failed boot of the copy and resets the device. READY after the zero fill enters RUN with READY_MS and the image's rollback value. -/
def Obligations.ResetAndBoot : Prop :=
  (∀ (s : State),
      exec .powerOnReset s = .next (State.fullReset { s with sysr := { s.sysr with porLow := true } } 0)) ∧
  (∀ (s : State),
      exec .brownOut s = .next (State.fullReset { s with sysr := { s.sysr with porLow := true } } 4)) ∧
  (∀ (s : State) (b : BootIn),
      s.sysr.porLow = true →
      exec (.porNRelease b) s = .next (State.release { s with sysr := { s.sysr with porLow := false } } b)) ∧
  (∀ (s : State),
      s.sysr.perstLow = false →
      s.sysr.porLow = true →
      exec .perstNLow s = .next ({ s with sysr := { s.sysr with perstLow := true, perstFull := true } })) ∧
  (∀ (s u : State),
      s.sysr.perstLow = false →
      s.sysr.porLow = false →
      u = { s with sysr := { s.sysr with perstLow := true, perstFull := false } } →
      s.flag R.SYS_BOARD_PERST_SCOPE = true →
      exec .perstNLow s = .next u.linkReset) ∧
  (∀ (s u : State),
      s.sysr.perstLow = false →
      s.sysr.porLow = false →
      u = { s with sysr := { s.sysr with perstLow := true, perstFull := false } } →
      s.flag R.SYS_BOARD_PERST_SCOPE = false →
      exec .perstNLow s = .next (u.fullReset 1)) ∧
  (∀ (s u : State) (b : BootIn),
      s.sysr.perstLow = true →
      u = { s with sysr := { s.sysr with perstLow := false, perstFull := false, refLost := false } } →
      exec (.perstNRelease b) s = .next (if s.sysr.perstFull then u.release b else u.raise .sys 19)) ∧
  (∀ (s : State),
      exec .testLogicReset s = .next s) ∧
  (∀ (s : State),
      exec .pcieReferenceLoss s = .next { s with sysr := { s.sysr with refLost := true } }) ∧
  (∀ (s u : State) (t : Nat),
      u = (s.advance t).squelchAll →
      exec (.rootLoss t) s = .next (State.faultSys { u with hlth := { u.hlth with rootLost := true } } .rootLoss)) ∧
  (∀ (s : State) (b : BootIn) (c : Bool),
      (s.sysr.stage = BootStage.training ∨ s.sysr.stage = BootStage.filling ∨ s.sysr.stage = BootStage.filled ∨ (s.sysr.stage = BootStage.stuck ∧ s.sec.image.isSome = true)) →
      c = s.flag R.SEC_STATE_COPY →
      exec (.bootWatchdog b) s = .next ((s.setFails c (s.fails c + 1)).selfReset 3 b)) ∧
  (∀ (s u v : State) (t : Nat) (c : Bool),
      s.sysr.stage = BootStage.filled →
      s.dev = devNotReady →
      c = (((((s.advance t).boot BootStage.ready).wr R.SYS_DEV_READY_MS (min 65535 ((s.advance t).now / 16000000))).wr R.SYS_DEV_DEV_STATE devRun)).flag R.SEC_STATE_COPY →
      u = ((((s.advance t).boot BootStage.ready).wr R.SYS_DEV_READY_MS (min 65535 ((s.advance t).now / 16000000))).wr R.SYS_DEV_DEV_STATE devRun).setFails c 0 →
      (v = (if u.rd R.SEC_STATE_ROLLBACK < u.sysr.secver then (u.wr R.SEC_STATE_ROLLBACK u.sysr.secver).audit 4 0 255 0 u.sysr.secver (u.rd R.SEC_STATE_ROLLBACK) [] else u)) →
      exec (.ready t) s = .next ((v.raise .sys 16).raiseIf (decide (v.rd R.SYS_DEV_RESET_CAUSE = 4)) .sys 18))

/-- SLEEP_ENTRY_DONE flushes every lane's tallies, squelches the lanes, puts the channels in self-refresh and stops the clocks; a wake that waited begins. WAKE and SYS_CTRL_WAKE start a wake. WAKE_DONE of a waking device returns it to RUN and runs the accesses that waited, in order. -/
def Obligations.SleepAndWake : Prop :=
  (∀ (s u v : State) (t : Nat),
      s.dev = devSleep →
      s.sysr.entering = true →
      (u = (((List.range 32).foldl (fun (q : State) l => q.flushTally l) (s.advance t)).squelchAll)) →
      (v = u.channels.foldl (fun (q : State) c => q.wr (R.MEM_CH_STATUS_SELF_REFRESH c) 1) u) →
      exec (.sleepEntryDone t) s = .next { v with sysr := { v.sysr with entering := false, vsramRet := true, sleepAt := v.now, waking := v.sysr.wakeWaits, wakeWaits := false } }) ∧
  (∀ (s : State) (t : Nat),
      exec (.wake t) s = .next ((s.advance t).startWake)) ∧
  (∀ (s : State),
      s.HostReaches →
      exec .sysCtrlWake s = .next s.startWake) ∧
  (∀ (s : State),
      s.linkDown = false →
      s.dev = devSleep →
      exec .sysCtrlWake s = .next s.startWake) ∧
  (∀ (s u : State) (t : Nat),
      s.dev = devSleep →
      s.sysr.waking = true →
      u = (s.advance t).wakeUp →
      exec (.wakeDone t) s = .next (u.heldCmds.foldl State.runAccess { u with heldCmds := [] }))

/-- While the clocks run: LINE_COMMIT of an active group of a live context whose channel is neither faulted nor suspended, with no stop reached, commits its next line at the planned time where the crossing plus the offset is the least time that can still be commanded, waits while it lies further ahead, and forces it where it lies in the past. LINE_FIRED of the next line of a live printing context frees its loft lines and fires it. LINE_START_FIRE of a lane with a plan of the group sends what is due on the lane, block slot by block slot; in a slot that begins at or after the planned departure of the earliest plan goes its FIRE block, with the offset that is left, on a lane that this device owns and that carries traffic, or its pages are marked UNDERRUN when it would arrive after the fire time. -/
def Obligations.LinesAndFire : Prop :=
  (∀ (s u : State) (g : Fin 32) (t k e : Nat) (tc : Int),
      s.clocked = true →
      u = s.advance t →
      k = u.groupOwner g.val →
      k ≠ 0 →
      (u.ctx k).live = true →
      u.flag (R.SYN_STATE_ACTIVE g.val) = true →
      u.flag (R.ENC_STATUS_FAULT (u.rd (R.SYN_STATE_CHANNEL g.val))) = false →
      u.mode .fire ≠ .faulted →
      u.flag (R.ENC_STATUS_SUSPENDED (u.rd (R.SYN_STATE_CHANNEL g.val))) = false →
      ((u.ctx k).stopAt.any (fun m => decide (m ≤ u.rd (R.SYN_NEXT_LINE g.val))) = false) →
      e = u.now + u.commitLead g.val →
      (u.accepts .fire = true ∨ (u.ctx k).drainAt.any (fun m => decide (m ≤ u.rd (R.SYN_NEXT_LINE g.val))) = false) →
      u.crossing (u.rd (R.SYN_STATE_CHANNEL g.val)) (u.syn g.val).acc = some tc →
      tc + u.rdS (R.SYN_TOFS_TOFS g.val) = e →
      exec (.lineCommit g t) s = .next (u.commitAt g.val k e false)) ∧
  (∀ (s u : State) (g : Fin 32) (t k e : Nat) (tc : Int),
      s.clocked = true →
      u = s.advance t →
      k = u.groupOwner g.val →
      k ≠ 0 →
      (u.ctx k).live = true →
      u.flag (R.SYN_STATE_ACTIVE g.val) = true →
      u.flag (R.ENC_STATUS_FAULT (u.rd (R.SYN_STATE_CHANNEL g.val))) = false →
      u.mode .fire ≠ .faulted →
      u.flag (R.ENC_STATUS_SUSPENDED (u.rd (R.SYN_STATE_CHANNEL g.val))) = false →
      ((u.ctx k).stopAt.any (fun m => decide (m ≤ u.rd (R.SYN_NEXT_LINE g.val))) = false) →
      e = u.now + u.commitLead g.val →
      (u.accepts .fire = true ∨ (u.ctx k).drainAt.any (fun m => decide (m ≤ u.rd (R.SYN_NEXT_LINE g.val))) = false) →
      u.crossing (u.rd (R.SYN_STATE_CHANNEL g.val)) (u.syn g.val).acc = some tc →
      (e : Int) < tc + u.rdS (R.SYN_TOFS_TOFS g.val) →
      exec (.lineCommit g t) s = .next u) ∧
  (∀ (s u : State) (g : Fin 32) (t k e : Nat) (tc : Int),
      s.clocked = true →
      u = s.advance t →
      k = u.groupOwner g.val →
      k ≠ 0 →
      (u.ctx k).live = true →
      u.flag (R.SYN_STATE_ACTIVE g.val) = true →
      u.flag (R.ENC_STATUS_FAULT (u.rd (R.SYN_STATE_CHANNEL g.val))) = false →
      u.mode .fire ≠ .faulted →
      u.flag (R.ENC_STATUS_SUSPENDED (u.rd (R.SYN_STATE_CHANNEL g.val))) = false →
      ((u.ctx k).stopAt.any (fun m => decide (m ≤ u.rd (R.SYN_NEXT_LINE g.val))) = false) →
      e = u.now + u.commitLead g.val →
      (u.accepts .fire = true ∨ (u.ctx k).drainAt.any (fun m => decide (m ≤ u.rd (R.SYN_NEXT_LINE g.val))) = false) →
      u.crossing (u.rd (R.SYN_STATE_CHANNEL g.val)) (u.syn g.val).acc = some tc →
      tc + u.rdS (R.SYN_TOFS_TOFS g.val) < e →
      exec (.lineCommit g t) s = .next (u.commitForced g.val k e)) ∧
  (∀ (s : State) (ctx line : Nat) (ts : List Nat),
      s.clocked = true →
      ctx ≠ 0 →
      (s.ctx ctx).live = true →
      (s.ctx ctx).wbOnly = false →
      line = (s.ctx ctx).firedLines →
      s.fireTimes ctx line = some ts →
      exec (.lineFired ctx line) s = .next (s.lineFired ctx line ts)) ∧
  (∀ (s : State) (lane group : Fin 32) (t : Nat),
      s.clocked = true →
      (s.head lane.val).waits group.val = true →
      exec (.lineStartFire lane group t) s = .next ((s.advance t).txRun lane.val)) ∧
  (∀ (s : State) (lane group : Fin 32) (t : Nat),
      (s.head lane.val).waits group.val = false →
      exec (.lineStartFire lane group t) s = .next s) ∧
  (∀ (s : State) (lane n : Nat),
      s.txAt lane ≤ 100 * s.now →
      State.txGo lane (n + 1) s = State.txGo lane n (s.txStep lane)) ∧
  (∀ (s u v : State) (lane lat : Nat) (p : FirePlan),
      s.nextPlan lane = some p →
      s.planAt lane p ≤ s.txAt lane →
      lat = s.rd (R.HL_LAT_LAT lane) →
      u = s.dropPlan lane p →
      u.ownsLane lane = true →
      u.carries lane = true →
      v = u.setHead lane { (u.head lane) with fireNext := max (u.head lane).fireNext (p.global + 1) } →
      ¬ 100 * p.t < s.txAt lane + 100 * lat →
      s.txStep lane = (((v.markHeads lane p.group p).sendCtl lane (fireBlock p.group p.global ((100 * (p.t - lat) - s.txAt lane + 50) / 100) (v.epoch lane))).useSlots lane 1)) ∧
  (∀ (s u v : State) (lane lat : Nat) (p : FirePlan),
      s.nextPlan lane = some p →
      s.planAt lane p ≤ s.txAt lane →
      lat = s.rd (R.HL_LAT_LAT lane) →
      u = s.dropPlan lane p →
      u.ownsLane lane = true →
      u.carries lane = true →
      v = u.setHead lane { (u.head lane) with fireNext := max (u.head lane).fireNext (p.global + 1) } →
      100 * p.t < s.txAt lane + 100 * lat →
      s.txStep lane = ((u.groupLines (u.ctx p.ctx) lane p.group p.line).foldl (fun (q : State) l => q.markLine p.ctx l markUnderrun) u))

/-- While the clocks run: a NAK of the lane's epoch for a line whose blocks have left replays its words, or the map update it names. STATUS of a hub that locks, neither holds nor blanks and follows no higher epoch stores the hub's flags, epoch and body with its time, and counts and marks the words it missed. PING on an UP lane has an ALIGN sent. An echo of a known ping forms a latency sample. LANE_LATENCY_TIMEOUT ends the oldest LANE_LATENCY. LANE_TRAFFIC_RESUME of an UP lane with both locks makes it carry traffic again, 1 ms after the lock, from the next swath whose send has not started. -/
def Obligations.HubEvents : Prop :=
  (∀ (s u : State) (lane : Fin 32) (body t : Nat) (l : LoftLine),
      s.clocked = true →
      body % 256 = 0x55 →
      u = (s.advance t).txRun lane.val →
      bits body 48 16 = u.epoch lane.val →
      u.drives lane.val = true →
      bit body 44 = false →
      (u.head lane.val).sentLine (bits body 8 16) = some l →
      exec (.nak lane body t) s = .next (u.replayWords lane.val l (bits body 24 12) (bits body 36 5))) ∧
  (∀ (s u : State) (lane : Fin 32) (body t : Nat),
      s.clocked = true →
      body % 256 = 0x55 →
      u = (s.advance t).txRun lane.val →
      bits body 48 16 = u.epoch lane.val →
      u.drives lane.val = true →
      bit body 44 = true →
      exec (.nak lane body t) s = .next (u.replayMap (u.laneOwner lane.val) lane.val (bits body 8 16) (bits body 24 12) (bits body 36 5))) ∧
  (∀ (s u v : State) (lane : Fin 32) (body t : Nat),
      s.clocked = true →
      body % 256 = 0x66 →
      bit body 8 = false →
      bit body 9 = false →
      bit body 12 = true →
      bits body 32 8 = 0 →
      u = (((((((s.advance t).wr (R.HL_STATE_HUB_HOLD lane.val) (bits body 8 1)).wr (R.HL_STATE_HUB_BLANK lane.val) (bits body 9 1)).wr (R.HL_STATE_HUB_PORT lane.val) (bits body 10 1)).wr (R.HL_STATE_FOLLOWED lane.val) (bits body 11 1)).wr (R.HL_STATE_HUB_RX_LOCK lane.val) (bits body 12 1)).wr (R.HL_STATE_HUB_HI_BER lane.val) (bits body 13 1)).wr (R.HL_EPOCH_HUB_EPOCH lane.val) (bits body 48 16) →
      v = u.setHead lane.val { (u.head lane.val) with lastStatus := body, statusTime := t, statusNs := u.baseNs 0 t, statusLast := some (near16 s.globalLine (bits body 16 16)) } →
      bits body 48 16 ≤ v.epoch lane.val →
      exec (.status lane body t) s = .next v) ∧
  (∀ (s u v w : State) (lane : Fin 32) (body t : Nat),
      s.clocked = true →
      body % 256 = 0x66 →
      bit body 8 = false →
      bit body 9 = false →
      bit body 12 = true →
      bits body 32 8 ≠ 0 →
      u = (((((((s.advance t).wr (R.HL_STATE_HUB_HOLD lane.val) (bits body 8 1)).wr (R.HL_STATE_HUB_BLANK lane.val) (bits body 9 1)).wr (R.HL_STATE_HUB_PORT lane.val) (bits body 10 1)).wr (R.HL_STATE_FOLLOWED lane.val) (bits body 11 1)).wr (R.HL_STATE_HUB_RX_LOCK lane.val) (bits body 12 1)).wr (R.HL_STATE_HUB_HI_BER lane.val) (bits body 13 1)).wr (R.HL_EPOCH_HUB_EPOCH lane.val) (bits body 48 16) →
      w = (u.count (R.HL_MISSED_COUNT lane.val) (R.HL_OVF_MISSED_OVF lane.val) .hlnk (bits body 32 8)).markMissed lane.val (near16 s.globalLine (bits body 16 16)) →
      v = w.setHead lane.val { (w.head lane.val) with lastStatus := body, statusTime := t, statusNs := w.baseNs 0 t, statusLast := some (near16 s.globalLine (bits body 16 16)) } →
      bits body 48 16 ≤ v.epoch lane.val →
      exec (.status lane body t) s = .next v) ∧
  (∀ (s : State) (lane : Fin 32) (t : Nat),
      s.clocked = true →
      s.lstate (headLane lane.val) = 5 →
      exec (.ping lane t) s = .next (((s.advance t).sendPing lane.val t none).txRun lane.val)) ∧
  (∀ (s u : State) (lane : Fin 32) (body t tx : Nat),
      s.clocked = true →
      body % 256 = 0x4B →
      bit body 8 = true →
      tget none (s.head lane.val).pings (bits body 16 16) = some (tx, none) →
      u = (s.advance t).setHead lane.val { (s.head lane.val) with pings := tset none (s.head lane.val).pings (bits body 16 16) none } →
      exec (.align lane body t) s = .next (u.latSample lane.val ((t : Int) - (tx : Int) - (bits body 32 24 : Nat)) (bits body 32 24))) ∧
  (∀ (s : State) (p : LatPk) (rest : List LatPk),
      s.clocked = true →
      s.latPks = p :: rest →
      exec .laneLatencyTimeout s = .next (s.endLatency p)) ∧
  (∀ (s u v : State) (lane : Fin 32),
      s.clocked = true →
      (s.head lane.val).carrying = false →
      u = s.advance ((s.lane (headLane lane.val)).lockAt + 16000000) →
      u.lstate (headLane lane.val) = 5 →
      u.flag (R.LANE_STATUS_BLOCK_LOCK (headLane lane.val).b) = true →
      u.flag (R.HL_STATE_HUB_RX_LOCK lane.val) = true →
      v = u.txRun lane.val →
      exec (.laneTrafficResume lane) s = .next ((v.setHead lane.val { (v.head lane.val) with carrying := true, firstCarried := none, statusLast := none, downTo := (v.head lane.val).sendFrom }).pump lane.val))

/-- While the clocks run: BLOCK_LOCK sets BLOCK_LOCK, CDR_LOCK and SIGNAL, notes the instant and, in the locking state of training, sends a HELLO. LOCK_LOSS counts, clears the lock that was lost with its event, and a lost block lock takes the traffic down. LOS counts and clears SIGNAL with its event, or sets it. INVALID_BLOCK counts a header, sets HI_BER with its event when the window reaches the limit, and loses the lock at the 16th of 64 headers, or counts a type. BER_WINDOW, after the last header of the window where that is invalid, restarts the count and clears HI_BER below the limit. A TRAIN block of a head or yoke lane acts by its kind. 2^20 clean blocks end TUNE; the timers of LOCK and HELLO, a third tap request without answer, and TRAIN_T fail the training with their outcome. START asks an accepting lane to train; RATE is stored and restarts a training at another rate. -/
def Obligations.LaneEvents : Prop :=
  (∀ (s u : State) (l : LaneId),
      s.clocked = true →
      u = s.setLane l { (s.lane l) with badAges := [], lockAt := s.now } →
      exec (.blockLock l) s = .next ((((u.wr (R.LANE_STATUS_BLOCK_LOCK l.b) 1).wr (R.LANE_STATUS_CDR_LOCK l.b) 1).wr (R.LANE_STATUS_SIGNAL l.b) 1).lockInTraining l)) ∧
  (∀ (s u : State) (l : LaneId) (t : Nat),
      s.clocked = true →
      u = (s.advance t).count (R.LANE_EVENTS_LOCK_LOSS l.b) (R.LANE_OVF_LOCK_OVF l.b) l.node 1 →
      exec (.lockLoss l true t) s = .next ((u.wr (R.LANE_STATUS_CDR_LOCK l.b) 0).raise l.node 17)) ∧
  (∀ (s u v : State) (l : LaneId) (t : Nat),
      s.clocked = true →
      u = (s.advance t).count (R.LANE_EVENTS_LOCK_LOSS l.b) (R.LANE_OVF_LOCK_OVF l.b) l.node 1 →
      v = u.setLane l { (u.lane l) with badAges := [] } →
      exec (.lockLoss l false t) s = .next (((v.wr (R.LANE_STATUS_BLOCK_LOCK l.b) 0).raise l.node 17).lockGone l)) ∧
  (∀ (s : State) (l : LaneId) (t : Nat),
      s.clocked = true →
      exec (.los l true t) s = .next (((((s.advance t).count (R.LANE_EVENTS_LOS l.b) (R.LANE_OVF_LOS_OVF l.b) l.node 1)).wr (R.LANE_STATUS_SIGNAL l.b) 0).raise l.node 16)) ∧
  (∀ (s : State) (l : LaneId) (t : Nat),
      s.clocked = true →
      exec (.los l false t) s = .next ((s.advance t).wr (R.LANE_STATUS_SIGNAL l.b) 1)) ∧
  (∀ (s u : State) (l : LaneId) (t : Nat),
      s.clocked = true →
      u = (s.advance t).setLane l { (s.lane l) with berCount := 0 } →
      exec (.berWindow l none t) s = .next (if (s.lane l).berCount < u.berLimit l then u.wr (R.LANE_STATUS_HI_BER l.b) 0 else u)) ∧
  (∀ (s u v : State) (l : LaneId) (g t : Nat),
      s.clocked = true →
      u = (s.advance t).badHeader l g →
      v = u.setLane l { (u.lane l) with berCount := 0 } →
      exec (.berWindow l (some g) t) s = .next (if (u.lane l).berCount < v.berLimit l then v.wr (R.LANE_STATUS_HI_BER l.b) 0 else v)) ∧
  (∀ (s c u v : State) (l : LaneId) (g n : Nat) (a : List Nat),
      s.clocked = true →
      c = s.count (R.LANE_ERR_SH_COUNT l.b) (R.LANE_OVF_SH_OVF l.b) l.node 1 →
      (a = 0 :: (((c.lane l).badAges.map (· + g + 1)).filter fun j => decide (j < 64))) →
      n = (c.lane l).berCount + 1 →
      u = c.setLane l { (c.lane l) with badAges := a, berCount := n, cleanAt := c.now } →
      (v = if u.berLimit l ≤ n ∧ !u.flag (R.LANE_STATUS_HI_BER l.b) then (u.wr (R.LANE_STATUS_HI_BER l.b) 1).raise l.node 18 else u) →
      exec (.invalidBlock l (some g)) s = .next (if 16 ≤ a.length ∧ v.flag (R.LANE_STATUS_BLOCK_LOCK l.b) then v.loseLock l else v)) ∧
  (∀ (s : State) (l : LaneId),
      s.clocked = true →
      exec (.invalidBlock l none) s = .next (s.count (R.LANE_ERR_TYPE_COUNT l.b) (R.LANE_OVF_TYPE_OVF l.b) l.node 1)) ∧
  (∀ (s : State) (l : LaneId) (body : Nat),
      s.clocked = true →
      l.trains = true →
      body % 256 = 0x2D →
      bits body 8 4 = 0 →
      exec (.train l body) s = .next (s.recvHello l body)) ∧
  (∀ (s : State) (l : LaneId) (body : Nat),
      s.clocked = true →
      l.trains = true →
      body % 256 = 0x2D →
      bits body 8 4 = 1 →
      exec (.train l body) s = .next (s.recvTune l body)) ∧
  (∀ (s : State) (l : LaneId) (body : Nat),
      s.clocked = true →
      l.trains = true →
      body % 256 = 0x2D →
      bits body 8 4 = 2 →
      exec (.train l body) s = .next (s.recvTune l body)) ∧
  (∀ (s : State) (l : LaneId) (body : Nat),
      s.clocked = true →
      l.trains = true →
      body % 256 = 0x2D →
      bits body 8 4 = 3 →
      s.training l = true →
      exec (.train l body) s = .next (s.failTrain l 6)) ∧
  (∀ (s u : State) (l : LaneId),
      s.clocked = true →
      l.trains = true →
      s.lstate l = 3 →
      u = (s.advance ((s.lane l).cleanAt + s.slotsTime l (2 ^ 20))).enterTrain l 4 →
      exec (.tuneCleanCount l) s = .next ((u.setLane l { (u.lane l) with readies := 0 }).sendTrain l 2)) ∧
  (∀ (s : State) (l : LaneId),
      s.clocked = true →
      l.trains = true →
      s.lstate l = 1 →
      exec (.trainStateTimeout l) s = .next ((s.advance ((s.lane l).stateAt + 80000000)).failTrain l 2)) ∧
  (∀ (s : State) (l : LaneId),
      s.clocked = true →
      l.trains = true →
      s.lstate l = 2 →
      exec (.trainStateTimeout l) s = .next ((s.advance ((s.lane l).stateAt + 32000000)).failTrain l 3)) ∧
  (∀ (s u : State) (l : LaneId) (a b : Nat),
      s.clocked = true →
      s.training l = true →
      (s.lane l).request = some (a, b) →
      u = s.advance ((s.lane l).reqAt + 1600000) →
      exec (.tapRequestRetry l) s = .next (if 3 ≤ b then u.failTrain l 5 else (u.setLane l { (s.lane l) with request := some (a, b + 1), reqAt := u.now }).sendTrain l 1)) ∧
  (∀ (s : State) (l : LaneId),
      s.clocked = true →
      l.trains = true →
      s.training l = true →
      exec (.trainTExpiry l) s = .next ((s.advance ((s.lane l).startAt + (s.lane l).limit)).failTrain l 5)) ∧
  (∀ (s : State) (l : LaneId),
      s.HostReaches →
      l.trains = true →
      s.accepts l.node = true →
      exec (.laneCtrlStart l) s = .next (s.askTrain l (s.rd (R.LANE_CTRL_RATE l.b)))) ∧
  (∀ (s u : State) (n : Fin 32) (rate : Bool),
      s.HostReaches →
      u = s.wrB (R.LANE_CTRL_RATE (LaneId.head n).b) rate →
      exec (.laneRateWrite (.head n) rate) s = .next (if u.training (.head n) && decide ((u.lane (.head n)).target ≠ b2n rate) then u.abortTrain (.head n) (b2n rate) else u))

/-- While the clocks run: a pair of samples of a sine channel enters the Lissajous window, is corrected, turned into an angle and a count of periods, and moves the position with its edges where the vector is in the ring and the step is at most 1,024 counts. A single quadrature transition that lasts as long as the filter moves the position by 1,024 counts in its direction; two changes in one nanosecond fault the channel with reason 3. A BiSS read with a start bit and a good CRC and no error bit sets WARN and is accepted at its latch time, one with the error bit counts and faults with reason 5, any other is discarded. An SSI read is accepted, from Gray code where the block says so. An index edge going forward stores the position and, from the second on, the count between, with its error outside the tolerance. Standstill after STILL_T sets STANDSTILL. The window of 65,536 pairs ends with its extremes. The end of the fault window completes ENC_CONFIG OK. -/
def Obligations.EncoderEvents : Prop :=
  (∀ (s u v : State) (ch : Fin 4) (x c s1 cc raw q per : Int) (t th o : Nat) (pt last : EncPt),
      s.clocked = true →
      s.rd (R.ENC_STATUS_TYPE ch.val) = 0 →
      (u = (if 65536 ≤ (s.enc ch.val).winN then (s.advance t).endWindow ch.val else s.advance t)) →
      s1 = x - u.rdS (R.ENC_CORR_OFS_S ch.val) →
      cc = sar ((c - u.rdS (R.ENC_CORR_OFS_C ch.val)) * u.rdS (R.ENC_GAIN_GC ch.val) + s1 * u.rdS (R.ENC_GAIN_PH ch.val) + 8192) 14 →
      th = atan4096 (Config.free .angle u.fresh) s1 cc →
      (u.enc ch.val).theta = some o →
      (per = (if 3072 ≤ o ∧ th < 1024 then (u.enc ch.val).periods + 1 else if o < 1024 ∧ 3072 ≤ th then (u.enc ch.val).periods - 1 else (u.enc ch.val).periods)) →
      raw = per * 4096 + th →
      (u.enc ch.val).raw = some q →
      (raw - q).natAbs ≤ 1024 →
      (((u.enc ch.val).radMin * (u.enc ch.val).radMin : Nat) : Int) ≤ s1 * s1 + cc * cc →
      s1 * s1 + cc * cc ≤ (((u.enc ch.val).radMax * (u.enc ch.val).radMax : Nat) : Int) →
      v = State.setEnc { u with fresh := u.fresh + 1 } ch.val (EncRt.lissa { (u.enc ch.val) with theta := some th, periods := per, raw := some raw, badRad := 0 } x c raw) →
      pt = ⟨t, (u.enc ch.val).sense (raw - (u.enc ch.val).zero)⟩ →
      (u.enc ch.val).hist.head? = some last →
      exec (.encoderSample ch x c t) s = .next (v.encMove ch.val pt (sinEdges ⟨last.t, v.encPos ch.val⟩ pt))) ∧
  (∀ (s u : State) (ch : Fin 4) (a b a0 b0 : Bool) (held t d : Nat) (y z : Option Nat),
      s.clocked = true →
      s.rd (R.ENC_STATUS_TYPE ch.val) = 1 →
      (s.enc ch.val).filter ≤ 16 * held →
      (s.enc ch.val).levels = some (a0, b0) →
      ¬ (a0 = a ∧ b0 = b) →
      (y = (if a = a0 then (s.enc ch.val).aAt else some t)) →
      (z = (if b = b0 then (s.enc ch.val).bAt else some t)) →
      u = (s.advance (t + (s.enc ch.val).filter)).setEnc ch.val { (s.enc ch.val) with levels := some (a, b), aAt := y, bAt := z } →
      (y = none ∨ y.map (fun i => i / 16) ≠ z.map (fun i => i / 16)) →
      d = (quadPlace a b + 4 - quadPlace a0 b0) % 4 →
      d ≠ 2 →
      exec (.quadratureTransition ch a b ⟨held, t⟩) s = .next (u.encMove ch.val ⟨t, u.encPos ch.val + (s.enc ch.val).sense (if d = 1 then 1 else -1) * 1024⟩ [(⟨t, u.encPos ch.val + (s.enc ch.val).sense (if d = 1 then 1 else -1) * 1024⟩, (s.enc ch.val).sense (if d = 1 then 1 else -1))])) ∧
  (∀ (s u : State) (ch : Fin 4) (a b a0 b0 : Bool) (held t : Nat),
      s.clocked = true →
      s.rd (R.ENC_STATUS_TYPE ch.val) = 1 →
      (s.enc ch.val).filter ≤ 16 * held →
      (s.enc ch.val).levels = some (a0, b0) →
      a ≠ a0 →
      b ≠ b0 →
      u = (s.advance (t + (s.enc ch.val).filter)).setEnc ch.val { (s.enc ch.val) with levels := some (a, b), aAt := some t, bAt := some t } →
      exec (.quadratureTransition ch a b ⟨held, t⟩) s = .next (u.encFault ch.val 3 .encFault t)) ∧
  (∀ (s : State) (ch : Fin 4) (a b : Bool) (held t : Nat),
      16 * held < s.inputFilter ch.val →
      exec (.quadratureTransition ch a b ⟨held, t⟩) s = .next s) ∧
  (∀ (s : State) (ch : Fin 4) (pos crc t : Nat) (nE nW start : Bool),
      s.clocked = true →
      (s.advance t).rd (R.ENC_STATUS_TYPE ch.val) = 2 →
      (start && decide (crc % 64 = 63 - crc6 ((s.enc ch.val).posBits + 2) (4 * (pos % 2 ^ (s.enc ch.val).posBits) + 2 * b2n nE + b2n nW))) = true →
      nE = true →
      exec (.bissRead ch pos nE nW crc start t) s = .next (((s.advance t).wrB (R.ENC_STATUS_WARN ch.val) (!nW)).acceptRead ch.val (pos % 2 ^ (s.enc ch.val).posBits) (t + (s.enc ch.val).latchNs))) ∧
  (∀ (s : State) (ch : Fin 4) (pos crc t : Nat) (nE nW start : Bool),
      s.clocked = true →
      (s.advance t).rd (R.ENC_STATUS_TYPE ch.val) = 2 →
      (start && decide (crc % 64 = 63 - crc6 ((s.enc ch.val).posBits + 2) (4 * (pos % 2 ^ (s.enc ch.val).posBits) + 2 * b2n nE + b2n nW))) = true →
      nE = false →
      exec (.bissRead ch pos nE nW crc start t) s = .next (((((s.advance t).wrB (R.ENC_STATUS_WARN ch.val) (!nW)).count (R.ENC_DISCARDS_COUNT ch.val) (R.ENC_OVF_DISCARDS_OVF ch.val) .fire 1)).encFault ch.val 5 .encFault (t + (s.enc ch.val).latchNs))) ∧
  (∀ (s : State) (ch : Fin 4) (pos crc t : Nat) (nE nW start : Bool),
      s.clocked = true →
      (s.advance t).rd (R.ENC_STATUS_TYPE ch.val) = 2 →
      (start && decide (crc % 64 = 63 - crc6 ((s.enc ch.val).posBits + 2) (4 * (pos % 2 ^ (s.enc ch.val).posBits) + 2 * b2n nE + b2n nW))) = false →
      exec (.bissRead ch pos nE nW crc start t) s = .next ((s.advance t).discardRead ch.val false (t + (s.enc ch.val).latchNs))) ∧
  (∀ (s : State) (ch : Fin 4) (raw t : Nat),
      s.clocked = true →
      s.rd (R.ENC_STATUS_TYPE ch.val) = 3 →
      exec (.ssiRead ch raw t) s = .next ((s.advance t).acceptRead ch.val (if (s.enc ch.val).gray then ungray 6 (raw % 2 ^ (s.enc ch.val).posBits) else raw % 2 ^ (s.enc ch.val).posBits) (t + (s.enc ch.val).latchNs))) ∧
  (∀ (s : State) (ch : Fin 4) (held : Nat),
      s.clocked = true →
      s.inputFilter ch.val ≤ 16 * held →
      s.rd (R.ENC_STATUS_TYPE ch.val) ≤ 1 →
      (s.enc ch.val).indexCheck = true →
      (s.enc ch.val).forward = true →
      s.flag (R.ENC_STATUS_BACKWARD ch.val) = false →
      (s.enc ch.val).idx = none →
      exec (.indexEdge ⟨ch, held⟩) s = .next (s.setEnc ch.val { (s.enc ch.val) with idx := some (s.encPos ch.val) })) ∧
  (∀ (s u v : State) (ch : Fin 4) (held : Nat) (o : Int),
      s.clocked = true →
      s.inputFilter ch.val ≤ 16 * held →
      s.rd (R.ENC_STATUS_TYPE ch.val) ≤ 1 →
      (s.enc ch.val).indexCheck = true →
      (s.enc ch.val).forward = true →
      s.flag (R.ENC_STATUS_BACKWARD ch.val) = false →
      (s.enc ch.val).idx = some o →
      u = (s.setEnc ch.val { (s.enc ch.val) with idx := some (s.encPos ch.val) }).wr (R.ENC_INDEX_COUNT ch.val) (min 0xFFFFFFFF (s.encPos ch.val - o).toNat) →
      v = (u.count (R.ENC_IDX_ERR_COUNT ch.val) (R.ENC_OVF_IDX_OVF ch.val) .fire 1).raise .fire 17 →
      exec (.indexEdge ⟨ch, held⟩) s = .next (if (s.enc ch.val).indexTol < ((s.encPos ch.val - o) - (s.enc ch.val).indexCounts).natAbs then (if (s.enc ch.val).indexFault then v.encFault ch.val 7 .indexError v.now else v) else u)) ∧
  (∀ (s : State) (ch : Fin 4) (t : Nat),
      s.clocked = true →
      s.rd (R.ENC_STATUS_TYPE ch.val) ≠ 7 →
      (s.advance t).flag (R.ENC_STATUS_STANDSTILL ch.val) = false →
      (s.enc ch.val).lastEdge + (s.enc ch.val).stillT ≤ t →
      exec (.standstill ch t) s = .next (((s.advance t).wr (R.ENC_STATUS_STANDSTILL ch.val) 1).setEnc ch.val { (s.enc ch.val) with edgeDir := 0, edgeN := 0 })) ∧
  (∀ (s u : State) (ch : Fin 4),
      s.clocked = true →
      s.rd (R.ENC_STATUS_TYPE ch.val) = 0 →
      65536 ≤ (s.enc ch.val).winN →
      (s.enc ch.val).autoCorr = false →
      u = (((State.wrS { s with fresh := s.fresh + 1 } (R.ENC_LISSA_S_MAX ch.val) (s.enc ch.val).sMax).wrS (R.ENC_LISSA_S_MIN ch.val) (s.enc ch.val).sMin).wrS (R.ENC_LISSA_C_MAX ch.val) (s.enc ch.val).cMax).wrS (R.ENC_LISSA_C_MIN ch.val) (s.enc ch.val).cMin →
      exec (.lissajousWindow ch) s = .next (u.setEnc ch.val { (s.enc ch.val) with winN := 0 })) ∧
  (∀ (s : State) (ch : Fin 4) (p : Pk),
      s.clocked = true →
      (s.enc ch.val).cfgPk = some p →
      exec (.encConfigFaultWindowEnd ch) s = .next (((s.advance ((s.enc ch.val).cfgAt + 16000000)).setEnc ch.val { (s.enc ch.val) with cfgPk := none }).complete p .ok []))

/-- While the clocks run: an edge that is held for the latch's filter and that the configuration of an enabled latch admits is recorded at once where a sample after it is known, or waits for its record, while fewer than 64 are held, carrying the mark of a loss before it; with 64 held it is lost, counted and raises event 20; one held for less does nothing. At the commit of a compare output, after what is due on it: on a channel at fault nothing is committed; a late target is committed at the instant that can still be commanded; a crossing later than that instant is left, one at that instant commits the pulse at the target, and one before it, or a target that the high-water mark has reached without a crossing on a channel that is not suspended, commits the pulse there; a commit arms the next target. The end of a pulse, whether or not the clocks run, does what is due on the output: an active pulse that has ended clears it and its level, and a committed pulse that is due starts. -/
def Obligations.LatchesAndCompares : Prop :=
  (∀ (s : State) (input : Fin 8) (falling : Bool) (held t : Nat),
      held < s.rd (R.LATCH_CFG_LATCH_FILTER input.val) →
      exec (.latchEdge input falling ⟨held, t⟩) s = .next s) ∧
  (∀ (s u : State) (input : Fin 8) (falling : Bool) (held t : Nat) (before : EncPt),
      s.clocked = true →
      s.rd (R.LATCH_CFG_LATCH_FILTER input.val) ≤ held →
      u = s.advance (t + 16 * s.rd (R.LATCH_CFG_LATCH_FILTER input.val)) →
      s.flag (R.LATCH_CFG_LATCH_ENABLE input.val) = true →
      ((bit (max 1 (s.rd (R.LATCH_CFG_EDGE input.val))) (if falling then 1 else 0)) = true) →
      (s.latch input.val).records.length + (s.latch input.val).edges.length < 64 →
      u.straddle (s.rd (R.LATCH_CFG_CHANNEL input.val)) t = (before, none) →
      exec (.latchEdge input falling ⟨held, t⟩) s = .next (u.setLatch input.val { (s.latch input.val) with edges := (s.latch input.val).edges ++ [⟨t, s.rd (R.LATCH_CFG_CHANNEL input.val), input.val, falling, (s.latch input.val).lostFlag, before⟩], lostFlag := false })) ∧
  (∀ (s u : State) (input : Fin 8) (falling : Bool) (held t : Nat) (before after : EncPt),
      s.clocked = true →
      s.rd (R.LATCH_CFG_LATCH_FILTER input.val) ≤ held →
      u = s.advance (t + 16 * s.rd (R.LATCH_CFG_LATCH_FILTER input.val)) →
      s.flag (R.LATCH_CFG_LATCH_ENABLE input.val) = true →
      ((bit (max 1 (s.rd (R.LATCH_CFG_EDGE input.val))) (if falling then 1 else 0)) = true) →
      (s.latch input.val).records.length + (s.latch input.val).edges.length < 64 →
      u.straddle (s.rd (R.LATCH_CFG_CHANNEL input.val)) t = (before, some after) →
      exec (.latchEdge input falling ⟨held, t⟩) s = .next (u.setLatch input.val { (s.latch input.val) with records := (s.latch input.val).records ++ [u.latchRecord ⟨t, s.rd (R.LATCH_CFG_CHANNEL input.val), input.val, falling, (s.latch input.val).lostFlag, before⟩ after], lostFlag := false })) ∧
  (∀ (s u : State) (input : Fin 8) (falling : Bool) (held t : Nat),
      s.clocked = true →
      s.rd (R.LATCH_CFG_LATCH_FILTER input.val) ≤ held →
      u = s.advance (t + 16 * s.rd (R.LATCH_CFG_LATCH_FILTER input.val)) →
      s.flag (R.LATCH_CFG_LATCH_ENABLE input.val) = true →
      ((bit (max 1 (s.rd (R.LATCH_CFG_EDGE input.val))) (if falling then 1 else 0)) = true) →
      64 ≤ (s.latch input.val).records.length + (s.latch input.val).edges.length →
      exec (.latchEdge input falling ⟨held, t⟩) s = .next (((u.setLatch input.val { (s.latch input.val) with lostFlag := true }).count (R.LATCH_LOST_COUNT input.val) (R.LATCH_OVF_LOST_OVF input.val) .fire 1).raise .fire 20)) ∧
  (∀ (s u : State) (out : Fin 16) (t e : Nat) (x : CmpTarget) (rest : List CmpTarget) (tc : Int),
      s.clocked = true →
      u = (s.advance t).runOut out.val →
      (u.cmp out.val).queue = x :: rest →
      u.flag (R.ENC_STATUS_FAULT (u.cmpCh out.val)) = false →
      u.mode .fire ≠ .faulted →
      e = u.now + u.margin →
      x.late = false →
      u.crossing (u.cmpCh out.val) (x.target * 2 ^ 32) = some tc →
      (e : Int) < tc →
      exec (.compareCommit out t) s = .next u) ∧
  (∀ (s u : State) (out : Fin 16) (t e : Nat) (x : CmpTarget) (rest : List CmpTarget) (tc : Int),
      s.clocked = true →
      u = (s.advance t).runOut out.val →
      (u.cmp out.val).queue = x :: rest →
      u.flag (R.ENC_STATUS_FAULT (u.cmpCh out.val)) = false →
      u.mode .fire ≠ .faulted →
      e = u.now + u.margin →
      x.late = false →
      u.crossing (u.cmpCh out.val) (x.target * 2 ^ 32) = some tc →
      tc = e →
      exec (.compareCommit out t) s = .next (State.armCmp out.val 8 (u.commitPulseAt out.val x (some x.target) e))) ∧
  (∀ (s u : State) (out : Fin 16) (t e : Nat) (x : CmpTarget) (rest : List CmpTarget) (tc : Int),
      s.clocked = true →
      u = (s.advance t).runOut out.val →
      (u.cmp out.val).queue = x :: rest →
      u.flag (R.ENC_STATUS_FAULT (u.cmpCh out.val)) = false →
      u.mode .fire ≠ .faulted →
      e = u.now + u.margin →
      x.late = false →
      u.crossing (u.cmpCh out.val) (x.target * 2 ^ 32) = some tc →
      tc < e →
      exec (.compareCommit out t) s = .next (State.armCmp out.val 8 (u.commitPulseAt out.val x none e))) ∧
  (∀ (s u : State) (out : Fin 16) (t e : Nat) (x : CmpTarget) (rest : List CmpTarget),
      s.clocked = true →
      u = (s.advance t).runOut out.val →
      (u.cmp out.val).queue = x :: rest →
      u.flag (R.ENC_STATUS_FAULT (u.cmpCh out.val)) = false →
      u.mode .fire ≠ .faulted →
      e = u.now + u.margin →
      x.late = false →
      u.crossing (u.cmpCh out.val) (x.target * 2 ^ 32) = none →
      x.target ≤ u.encHwm (u.cmpCh out.val) →
      u.flag (R.ENC_STATUS_SUSPENDED (u.cmpCh out.val)) = false →
      exec (.compareCommit out t) s = .next (State.armCmp out.val 8 (u.commitPulseAt out.val x none e))) ∧
  (∀ (s u : State) (out : Fin 16) (t e : Nat) (x : CmpTarget) (rest : List CmpTarget),
      s.clocked = true →
      u = (s.advance t).runOut out.val →
      (u.cmp out.val).queue = x :: rest →
      u.flag (R.ENC_STATUS_FAULT (u.cmpCh out.val)) = false →
      u.mode .fire ≠ .faulted →
      e = u.now + u.margin →
      x.late = true →
      exec (.compareCommit out t) s = .next (State.armCmp out.val 8 (u.commitPulseAt out.val x none e))) ∧
  (∀ (s u : State) (out : Fin 16) (t : Nat) (x : CmpTarget) (rest : List CmpTarget),
      s.clocked = true →
      u = (s.advance t).runOut out.val →
      (u.cmp out.val).queue = x :: rest →
      u.flag (R.ENC_STATUS_FAULT (u.cmpCh out.val)) = true →
      exec (.compareCommit out t) s = .next u) ∧
  (∀ (s : State) (out : Fin 16) (t : Nat),
      exec (.comparePulseEnd out t) s = .next ((s.advance t).runOut out.val)) ∧
  (∀ (s u : State) (out : Fin 16) (t e : Nat),
      u = s.advance t →
      (s.cmp out.val).active = some e →
      (s.cmp out.val).due = [] →
      e ≤ u.now →
      exec (.comparePulseEnd out t) s = .next ((u.setCmp out.val { (s.cmp out.val) with active := none }).cmpLevel out.val false e)) ∧
  (∀ (s : State) (k n : Nat) (x : CmpPulse) (rest : List CmpPulse),
      (s.cmp k).due = x :: rest →
      (s.cmp k).active = none →
      x.start ≤ s.now →
      s.runCmp k (n + 1) = (s.startPulse k x).runCmp k n)

/-- While the clocks run: a line of an UP camera lane counts; one that a frame still expects joins the buffer of 16 as the frame's next line and is compared when its turn comes; with 16 waiting it is an overrun, counted and marked on the frame; a line beyond the frame's lines or triggers marks the frame too long. A frame ends on a frame end, on the header of a later frame, which the first header of a frame only notes, or on the line time-out. A resend time-out gives the oldest damaged packet up: it counts, its pixels become 0 and the frame is marked. A GenCP reply is written into the packet's buffer and completes it with both lengths; its time-out completes GENCP_TIMEOUT; the next request leaves. A GPIO message of an UP lane stores the inputs. A block-locked enabled camera lane comes UP. An exposure that is over lets the pulse fall. A defect that found no compressor for 1 ms loses its crop. COMMIT of a good set commits it, a bad set raises ACCESS. -/
def Obligations.CameraEvents : Prop :=
  (∀ (s u : State) (cam : Fin 8) (data : List Byte) (unusable : List Nat) (resent t : Nat) (f : CamFrame),
      s.clocked = true →
      s.camUp cam.val = true →
      u = (s.advance t).count (R.CAM_LINES_COUNT (camB cam.val)) (R.CAM_OVF_LINES_OVF (camB cam.val)) (camNode cam.val) 1 →
      (u.cam cam.val).lineFrame = some f →
      f.set.resend = false →
      f.long = false →
      f.lines < f.set.lines →
      f.lines < f.trigs.length →
      (u.cam cam.val).buf.length < 16 →
      data.length = 3 * f.set.px →
      exec (.cameraLine cam data unusable [] resent t) s = .next ((u.setCam cam.val { ((u.cam cam.val).putFrame { f with lines := f.lines + 1, marks := f.marks ||| 0 ||| (if unusable.isEmpty then 0 else 2 ^ 2) }) with buf := (u.cam cam.val).buf ++ [⟨f.no, f.lines, data, unusable, [], u.now⟩] }).pumpCam cam.val)) ∧
  (∀ (s u : State) (cam : Fin 8) (data : List Byte) (unusable : List Nat) (resent t : Nat) (f : CamFrame) (damaged : List (Nat × Nat)),
      s.clocked = true →
      s.camUp cam.val = true →
      u = (s.advance t).count (R.CAM_LINES_COUNT (camB cam.val)) (R.CAM_OVF_LINES_OVF (camB cam.val)) (camNode cam.val) 1 →
      (u.cam cam.val).lineFrame = some f →
      f.set.resend = false →
      f.long = false →
      f.lines < f.set.lines →
      f.lines < f.trigs.length →
      16 ≤ (u.cam cam.val).buf.length →
      exec (.cameraLine cam data unusable damaged resent t) s = .next ((u.count (R.CAM_ERR_OVERRUN (camB cam.val)) (R.CAM_OVF_OVERRUN_OVF (camB cam.val)) (camNode cam.val) 1).markFrame cam.val { f with lines := f.lines + 1 } 3)) ∧
  (∀ (s u : State) (cam : Fin 8) (data : List Byte) (unusable : List Nat) (resent t : Nat) (f : CamFrame) (damaged : List (Nat × Nat)),
      s.clocked = true →
      s.camUp cam.val = true →
      u = (s.advance t).count (R.CAM_LINES_COUNT (camB cam.val)) (R.CAM_OVF_LINES_OVF (camB cam.val)) (camNode cam.val) 1 →
      (u.cam cam.val).lineFrame = some f →
      f.set.resend = false →
      (f.long = true ∨ f.set.lines ≤ f.lines ∨ f.trigs.length ≤ f.lines) →
      exec (.cameraLine cam data unusable damaged resent t) s = .next (u.markFrame cam.val f 1)) ∧
  (∀ (s : State) (cam : Fin 8) (t : Nat) (f : CamFrame),
      s.clocked = true →
      (s.cam cam.val).lineFrame = some f →
      exec (.frameEnd cam 0 t) s = .next ((s.advance t).endFrame cam.val f)) ∧
  (∀ (s : State) (cam : Fin 8) (t : Nat) (f : CamFrame),
      s.clocked = true →
      (s.cam cam.val).lineFrame = some f →
      (f.lines ≠ 0 ∨ f.long = true ∨ f.headed = true) →
      ((s.cam cam.val).frames.any (fun g => decide (f.no < g.no)) = true) →
      exec (.frameEnd cam 1 t) s = .next ((s.advance t).endFrame cam.val f)) ∧
  (∀ (s : State) (cam : Fin 8) (t : Nat) (f : CamFrame),
      s.clocked = true →
      (s.cam cam.val).lineFrame = some f →
      (f.lines ≠ 0 ∨ f.long = true ∨ f.headed = true) →
      ((s.cam cam.val).frames.any (fun g => decide (f.no < g.no)) = false) →
      exec (.frameEnd cam 1 t) s = .next ((s.advance t).setCam cam.val ((s.cam cam.val).putFrame { f with long := true }))) ∧
  (∀ (s : State) (cam : Fin 8) (t : Nat) (f : CamFrame),
      s.clocked = true →
      (s.cam cam.val).lineFrame = some f →
      f.lines = 0 →
      f.long = false →
      f.headed = false →
      exec (.frameEnd cam 1 t) s = .next ((s.advance t).setCam cam.val ((s.cam cam.val).putFrame { f with headed := true }))) ∧
  (∀ (s : State) (cam : Fin 8) (t : Nat) (f : CamFrame) (z : CamTrig),
      s.clocked = true →
      (s.cam cam.val).lineFrame = some f →
      f.trigs.getLast? = some z →
      f.set.lines ≤ f.trigs.length →
      z.t + 16000000 ≤ t →
      exec (.frameEnd cam 2 t) s = .next ((s.advance t).endFrame cam.val f)) ∧
  (∀ (s v u : State) (cam : Fin 8) (l : CamLine) (l2 : CamLine),
      s.clocked = true →
      ((s.cam cam.val).buf.find? (fun q => !q.damaged.isEmpty) = some l) →
      l2 = { l with data := zeroPixels l.data (l.damaged.headD (0, 0)), damaged := l.damaged.drop 1 } →
      (v = s.advance (l.since + 16000 * (((s.cam cam.val).frames.find? fun q => decide (q.no = l.frame)).map CamFrame.set |>.getD (s.camSet cam.val)).resendUs)) →
      u = v.count (R.CAM_CRC_COUNT (camB cam.val)) (R.CAM_OVF_CRC_OVF (camB cam.val)) (.cam cam) 1 →
      exec (.resendTimeout cam) s = .next ((u.setCam cam.val { (s.cam cam.val) with buf := (s.cam cam.val).buf.map (fun q => if q.frame = l.frame ∧ q.k = l.k then l2 else q), frames := (s.cam cam.val).frames.map fun q => if q.no = l.frame then { q with marks := q.marks ||| 2 ^ 2 } else q }).pumpCam cam.val)) ∧
  (∀ (s u : State) (cam : Fin 8) (data : List Byte) (q : GencpReq) (rest : List GencpReq),
      s.clocked = true →
      (s.cam cam.val).gencp = q :: rest →
      u = ((s.setCam cam.val { (s.cam cam.val) with gencp := rest }).writeAt 8 q.addr (data.take q.room)).forwardCam q.pk .ok [(data.take q.room).length, data.length] (data.take q.room) →
      exec (.gencpReply cam data) s = .next ((u.complete q.pk .ok [(data.take q.room).length, data.length]).sendGencp cam.val)) ∧
  (∀ (s u : State) (cam : Fin 8) (q : GencpReq) (rest : List GencpReq),
      s.clocked = true →
      (s.cam cam.val).gencp = q :: rest →
      u = ((s.advance (q.sentAt + 1600000000)).setCam cam.val { (s.cam cam.val) with gencp := rest }).forwardCam q.pk .gencpTimeout [0, 0] [] →
      exec (.gencpTimeout cam) s = .next ((u.complete q.pk .gencpTimeout [0, 0]).sendGencp cam.val)) ∧
  (∀ (s : State) (cam : Fin 8) (inputs : BitVec 8),
      s.clocked = true →
      s.camUp cam.val = true →
      exec (.gpioMessage cam inputs) s = .next (s.wr (R.CAM_STATE_GPIO_IN (camB cam.val)) inputs.toNat)) ∧
  (∀ (s : State) (cam : Fin 8),
      s.clocked = true →
      s.enabled (.cam cam) = true →
      s.flag (R.LANE_STATUS_BLOCK_LOCK (camB cam.val)) = true →
      exec (.camLaneUp cam) s = .next (((s.advance ((s.lane (.cam cam)).lockAt + 16000000)).wr (R.CAM_STATE_UP (camB cam.val)) 1).wr (R.LANE_STATUS_LSTATE (camB cam.val)) 5)) ∧
  (∀ (s : State) (cam : Fin 8) (t e : Nat) (rest : List Nat),
      s.clocked = true →
      (s.cam cam.val).exposures = e :: rest →
      e ≤ t →
      exec (.exposureEnd cam t) s = .next (((s.advance t).setCam cam.val { (s.cam cam.val) with exposures := rest }).put (.camPulse cam.val 0 false))) ∧
  (∀ (s u : State) (t : Nat) (c : CropReq) (rest : List CropReq),
      s.clocked = true →
      u = (s.advance t).startCrops →
      u.insp.crops = c :: rest →
      c.since + 16000000 ≤ t →
      exec (.cropStartTimeout t) s = .next (((State.count { u with insp := { u.insp with crops := rest } } R.INSP_LOST_CROP_LOST R.INSP_OVF_CROP_OVF .insp 1).raise .insp 20).writeDefect c.rec' 0xFFFF)) ∧
  (∀ (s : State) (cam : Fin 8),
      s.HostReaches →
      s.camSetBad (s.camShadow cam.val) = false →
      exec (.commit cam) s = .next (State.takeIdle ((s.setCam cam.val { (s.cam cam.val) with committed := some (s.camShadow cam.val) }).wr (R.CAM_CTRL_COMMIT (camB cam.val)) 1) cam.val)) ∧
  (∀ (s : State) (cam : Fin 8),
      s.HostReaches →
      s.camSetBad (s.camShadow cam.val) = true →
      exec (.commit cam) s = .next (s.access (.cam cam)))

/-- The next command is the one at the front of the queue: a step is exec of it on the state with the rest of the queue. On an empty queue a step lets the fire timeline advance by 1 ns, and while the clocks run MEM, the head lanes and the compare and divided outputs do what is due by then, which is the model's choice of assumption 2. -/
def Obligations.StepRunsFront : Prop :=
  (∀ (s : State) (c : Instr) (rest : List Instr),
      s.pending = c :: rest →
      step s = exec c { s with pending := rest }) ∧
  (∀ (s u : State),
      s.pending = [] →
      u = { s with now := s.now + 16 } →
      step s = .next (if s.clocked then ((u.memRun u.mem.queue.length).runLanes).runOutputs else u))

/-- After reset every register field holds its reset value, no command waits, no event is latched, no node is faulted, draining or under test, every context is CLOSED, no packet is in any ring, and every table of memory is in its canonical form with nothing listed in DRAM. That host memory reads 0 is the model's choice of assumption 3. -/
def Obligations.ResetLeaves : Prop :=
  (∀ f : FRef, State.reset.rd f = f.reset) ∧ State.reset.pending = [] ∧ (∀ n : Node, State.reset.own n = 0 ∧ State.reset.mode n = .normal) ∧ (∀ k, (State.reset.ctx k).st = .closed) ∧ (∀ r, (State.reset.ring r).fetched = [] ∧ (State.reset.ring r).started = []) ∧ State.reset.dram = [] ∧ State.reset.memWf = true

/-- Whatever the state and whatever waits in its queue, a step answers a next state: no command faults or is refused, since the spec gives every error a status, an event or a FAULTED node. -/
def Obligations.NothingStops : Prop :=
  ∀ (s : State),
      ∃ t, step s = .next t

/-- A counter that counts k goes up by k, or to its maximum where that is less. Its overflow flag is set when counts are lost and stays as it was otherwise. OVERFLOW is latched in the node exactly when the flag goes from 0 to 1, and then reported. No other register field and no other node's event changes by the count itself. -/
def Obligations.CountersSaturate : Prop :=
  ∀ (s u : State) (cnt ovf : FRef) (n : Node) (k : Nat),
      cnt.key ≠ ovf.key →
      0 < ovf.width →
      s.rd cnt < 2 ^ cnt.width →
      u = s.countRaw cnt ovf n k →
      u.rd cnt = min (s.rd cnt + k) (2 ^ cnt.width - 1) ∧ u.flag ovf = (s.flag ovf || decide (2 ^ cnt.width ≤ s.rd cnt + k)) ∧ u.own n = (if s.flag ovf = false ∧ 2 ^ cnt.width ≤ s.rd cnt + k then s.own n ||| 2 ^ 3 else s.own n) ∧ (∀ m, m ≠ n → u.own m = s.own m) ∧ (∀ f : FRef, f.key ≠ cnt.key → f.key ≠ ovf.key → u.rd f = s.rd f) ∧ s.count cnt ovf n k = (if s.flag ovf = false ∧ 2 ^ cnt.width ≤ s.rd cnt + k then u.settle else u)

/-- For every s and d up to 4,095, blend of alpha 255 is s, blend of alpha 0 is d, and blend of any alpha stays at or below 4,095. -/
def Obligations.BlendLimits : Prop :=
  ∀ (a c d : Nat),
      a ≤ 255 →
      c ≤ 4095 →
      d ≤ 4095 →
      blend 255 c d = c ∧ blend 0 c d = d ∧ blend a c d ≤ 4095

/-- While the link is up, writing a completion of a ring that uses its own completion ring stores the 64 bytes of the completion, with the current PHASE, at the entry that the tail names, and leaves every other byte of host memory and all of DRAM as they were. The tail moves to the next entry, or to 0 at the end of the ring, where PHASE inverts; the ring has one entry more in use, and its submission side, and every other ring, is as it was. -/
def Obligations.CompletionEntry : Prop :=
  ∀ (s u : State) (r : Fin 256) (c : Cpl) (a tail : Nat),
      s.linkDown = false →
      s.shadowRing r = false →
      tail = s.rd (R.RING_CQ_TAIL_TAIL (Node.ring r).base) →
      tail < s.entries r →
      a = 4096 * s.rd (R.RING_CQ_BASE_ADDR (Node.ring r).base) + 64 * tail →
      u = s.putCpl r c →
      (∀ k, k < 64 → tget 0#8 u.host (a + k) = (cplBytes c (s.flag (R.RING_CQ_TAIL_PHASE (Node.ring r).base)) false).getD k 0#8) ∧
      hostSame s u a (a + 64) ∧ u.dram = s.dram ∧
      u.rd (R.RING_CQ_TAIL_TAIL (Node.ring r).base) = (if s.entries r ≤ tail + 1 then 0 else tail + 1) ∧
      u.flag (R.RING_CQ_TAIL_PHASE (Node.ring r).base) = (if s.entries r ≤ tail + 1 then !s.flag (R.RING_CQ_TAIL_PHASE (Node.ring r).base) else s.flag (R.RING_CQ_TAIL_PHASE (Node.ring r).base)) ∧
      (u.ring r.val).used = (s.ring r.val).used + 1 ∧ (u.ring r.val).fetched = (s.ring r.val).fetched ∧ (u.ring r.val).started = (s.ring r.val).started ∧
      (∀ n, n ≠ r.val → u.ring n = s.ring n)

/-- A well-formed packet that host software has written into the entries at RING_SQ_HEAD, as the layouts of R67 and the opcode tables of R90 have it, and whose fetch succeeds, is fetched as that packet: header, opcode and bytes are those of the packet, RING_SQ_HEAD moves past its entries, the packet's command is what the entry spells, and no well-formed command with that header but other parameters is. -/
def Obligations.PacketEncoding : Prop :=
  ∀ (i : Instr) (h : Hdr) (op failed : Nat) (fs : List (Nat × Nat × Nat)) (s t : State),
      i.wf = true →
      packetFields i = some (h, op, fs) →
      (∀ e ∈ fs, e.1 + e.2.1 ≤ 64 * (1 + h.entries)) →
      h.entries < s.entries h.ring →
      s.rd (R.RING_SQ_HEAD_HEAD (Node.ring h.ring).base) = h.sq →
      (∀ k, k ≤ h.entries → s.sqMark failed h.ring (h.sq + k) = .good) →
      ((List.range (1 + h.entries)).flatMap (fun k => s.sqEntry h.ring (h.sq + k)) = i.entryBytes) →
      (s.ring h.ring.val).fetched = [] →
      t = s.fetchFrom failed h.ring →
      (t.ring h.ring.val).fetched = [⟨h, op, i.entryBytes⟩] ∧
      t.rd (R.RING_SQ_HEAD_HEAD (Node.ring h.ring).base) = (h.sq + 1 + h.entries) % s.entries h.ring ∧ t.spells i = true ∧
      (∀ (j : Instr) (gs : List (Nat × Nat × Nat)) (op' : Nat), packetFields j = some (h, op', gs) → t.spells j = true → op' = op ∧ gs = fs)

/-- From every state whose host memory, DRAM and granary tables are in canonical form (addresses strictly rising, nothing listed that equals what an unlisted address reads as) and whose front command, if any, is well formed, a step leads to a state whose memories are in canonical form again, and whose queue is the old one without its front command: no command is lost, added or reordered. -/
def Obligations.StepKeepsForm : Prop :=
  ∀ (s t : State),
      s.memWf = true →
      (∀ i ∈ s.pending.head?, i.wf = true) →
      step s = .next t →
      t.memWf = true ∧ t.pending = s.pending.tail

/-- From every state whose memories are in canonical form, a well-formed command that memoryReach gives no reach into host memory leaves every byte of it as it was, and one that it gives no reach into DRAM leaves every stored byte of DRAM as it was. Only 58 of the 223 commands may write DRAM; 30 write no host memory, not even a completion. -/
def Obligations.MemoryFrames : Prop :=
  ∀ (s t : State) (c : Instr),
      s.memWf = true →
      c.wf = true →
      exec c s = .next t →
      (c.memoryReach.1 = false → ∀ a, tget 0#8 t.host a = tget 0#8 s.host a) ∧ (c.memoryReach.2 = false → ∀ a, tget 0#8 t.dram a = tget 0#8 s.dram a)
end

