-- ==== Sys2Proof/Laws/Tbl.lean ====
section
/-!
SUPPORT. The sparse table: what is read after a write, and that every write keeps the canonical form.
-/

namespace Sys2Proof.Machine

variable {α : Type} [DecidableEq α] {d : α}

omit [DecidableEq α] in
theorem tabove_filter {t : Tbl α} {x : Nat} (p : Nat × α → Bool) (h : tabove x t = true) : tabove x (t.filter p) = true := by
  induction t with
  | nil => rfl
  | cons e r ih =>
    simp only [tabove, Bool.and_eq_true] at h
    simp only [List.filter]
    split
    · simp only [tabove, Bool.and_eq_true]
      exact ⟨h.1, ih h.2⟩
    · exact ih h.2

omit [DecidableEq α] in
@[simp] theorem tget_terase_self (t : Tbl α) (x : Nat) : tget d (terase t x) x = d := by
  induction t with
  | nil => rfl
  | cons e r ih =>
    obtain ⟨k, w⟩ := e
    by_cases h : k = x
    · simpa [terase, h] using ih
    · simpa [terase, h, tget] using ih

omit [DecidableEq α] in
@[simp] theorem tget_terase_ne (t : Tbl α) {x y : Nat} (h : x ≠ y) : tget d (terase t x) y = tget d t y := by
  induction t with
  | nil => rfl
  | cons e r ih =>
    obtain ⟨k, w⟩ := e
    by_cases hk : k = x
    · have : k ≠ y := fun e => h (hk.symm.trans e)
      simpa [terase, hk, tget, h] using ih
    · by_cases hy : k = y
      · subst hy
        simp [terase, Ne.symm h, tget]
      · simpa [terase, hk, tget, hy] using ih

theorem tget_tcons_self (x : Nat) (v : α) (t : Tbl α) : tget d (tcons d x v (terase t x)) x = v := by
  unfold tcons
  split
  · rename_i hv
    rw [tget_terase_self, hv]
  · simp [tget]

theorem tget_tcons_ne (x y : Nat) (v : α) (t : Tbl α) (h : x ≠ y) : tget d (tcons d x v t) y = tget d t y := by
  unfold tcons
  split
  · rfl
  · simp [tget, h]

omit [DecidableEq α] in
theorem tabove_trans {x y : Nat} {t : Tbl α} (h : x ≤ y) (ht : tabove y t = true) : tabove x t = true := by
  induction t with
  | nil => rfl
  | cons e r ih =>
    simp only [tabove, Bool.and_eq_true, decide_eq_true_eq] at ht ⊢
    exact ⟨Nat.lt_of_le_of_lt h ht.1, ih ht.2⟩

omit [DecidableEq α] in
theorem tget_of_tabove {x : Nat} {t : Tbl α} (h : tabove x t = true) : tget d t x = d := by
  induction t with
  | nil => rfl
  | cons e r ih =>
    obtain ⟨k, w⟩ := e
    simp only [tabove, Bool.and_eq_true, decide_eq_true_eq] at h
    simp only [tget, if_neg (Nat.ne_of_gt h.1)]
    exact ih h.2

omit [DecidableEq α] in
theorem terase_of_tabove {x : Nat} {t : Tbl α} (h : tabove x t = true) : terase t x = t := by
  induction t with
  | nil => rfl
  | cons e r ih =>
    simp only [tabove, Bool.and_eq_true, decide_eq_true_eq] at h
    have ih' : r.filter (fun e => decide (e.1 ≠ x)) = r := ih h.2
    rw [terase, List.filter_cons_of_pos (by simpa using Nat.ne_of_gt h.1), ih']

/-- A write to one key leaves every other key as it was, whatever the form of the table. -/
@[simp] theorem tget_tset_ne (t : Tbl α) {x y : Nat} (v : α) (h : x ≠ y) : tget d (tset d t x v) y = tget d t y := by
  induction t with
  | nil => exact tget_tcons_ne x y v [] h
  | cons e r ih =>
    obtain ⟨k, w⟩ := e
    simp only [tset]
    split
    · rw [tget_tcons_ne x y v _ h, tget_terase_ne _ h]
    · split
      · rename_i hk
        rw [tget_tcons_ne x y v _ h, tget_terase_ne _ h]
        have : k ≠ y := fun e => h (hk.trans e)
        simp [tget, this]
      · simp only [tget, ih]

/-- What is written is what is read, whatever the form of the table. -/
@[simp] theorem tget_tset_self (t : Tbl α) (x : Nat) (v : α) : tget d (tset d t x v) x = v := by
  induction t with
  | nil => exact tget_tcons_self x v []
  | cons e r ih =>
    obtain ⟨k, w⟩ := e
    simp only [tset]
    split
    · exact tget_tcons_self x v _
    · split
      · exact tget_tcons_self x v _
      · rename_i hk
        simp only [tget, if_neg (Ne.symm hk)]
        exact ih

theorem tabove_tset {t : Tbl α} {x k : Nat} {v : α} (hk : k < x) (ht : tabove k t = true) : tabove k (tset d t x v) = true := by
  induction t with
  | nil =>
    simp only [tset, tcons]
    split <;> simp [tabove, hk]
  | cons e r ih =>
    obtain ⟨j, w⟩ := e
    have hf : ∀ t : Tbl α, tabove k t = true → tabove k (tcons d x v (terase t x)) = true := by
      intro t h
      have h2 : tabove k (terase t x) = true := tabove_filter _ h
      unfold tcons
      split
      · exact h2
      · simp [tabove, hk, h2]
    have ht' := ht
    simp only [tabove, Bool.and_eq_true, decide_eq_true_eq] at ht
    simp only [tset]
    split
    · exact hf _ ht'
    · split
      · exact hf _ ht.2
      · simp [tabove, ht.1, ih ht.2]

/-- A write keeps the canonical form. -/
theorem twf_tset {t : Tbl α} (ht : twf d t = true) (x : Nat) (v : α) : twf d (tset d t x v) = true := by
  have hc : ∀ t : Tbl α, twf d t = true → tabove x t = true → twf d (tcons d x v t) = true := by
    intro t h1 h2
    unfold tcons
    split
    · exact h1
    · rename_i hv
      simp [twf, hv, h1, h2]
  induction t with
  | nil => exact hc [] rfl rfl
  | cons e r ih =>
    obtain ⟨k, w⟩ := e
    have ht' := ht
    simp only [twf, Bool.and_eq_true, decide_eq_true_eq] at ht
    simp only [tset]
    split
    · rename_i hk
      have ha : tabove x ((k, w) :: r) = true := by simp [tabove, hk, tabove_trans (Nat.le_of_lt hk) ht.1.2]
      rw [terase_of_tabove ha]
      exact hc _ ht' ha
    · split
      · rename_i hk
        have ha : tabove x r = true := hk ▸ ht.1.2
        rw [terase_of_tabove ha]
        exact hc _ ht.2 ha
      · rename_i h1 h2
        have hkx : k < x := Nat.lt_of_le_of_ne (Nat.le_of_not_lt h1) (Ne.symm h2)
        simp [twf, ht.1.1, tabove_tset hkx ht.1.2, ih ht.2]

theorem twf_tmod {t : Tbl α} (ht : twf d t = true) (x : Nat) (f : α → α) : twf d (tmod d t x f) = true := twf_tset ht x _

/-- A run of writes keeps the canonical form. -/
theorem twf_tsets {t : Tbl α} (ht : twf d t = true) (x : Nat) (vs : List α) : twf d (tsets d t x vs) = true := by
  induction vs generalizing t x with
  | nil => exact ht
  | cons v vs ih => exact ih (twf_tset ht x v) (x + 1)

/-- Dropping entries keeps the canonical form. -/
theorem twf_filter {t : Tbl α} (p : Nat × α → Bool) (h : twf d t = true) : twf d (t.filter p) = true := by
  induction t with
  | nil => rfl
  | cons e r ih =>
    simp only [twf, Bool.and_eq_true] at h
    simp only [List.filter]
    split
    · simp only [twf, Bool.and_eq_true]
      exact ⟨⟨h.1.1, tabove_filter p h.1.2⟩, ih h.2⟩
    · exact ih h.2

theorem twf_tdrop {t : Tbl α} (lo hi : Nat) (h : twf d t = true) : twf d (tdrop t lo hi) = true := twf_filter _ h

/-- Outside a run of writes every key is as it was. -/
theorem tget_tsets_of_out (t : Tbl α) (x : Nat) (vs : List α) (a : Nat) (h : a < x ∨ x + vs.length ≤ a) :
    tget d (tsets d t x vs) a = tget d t a := by
  induction vs generalizing t x with
  | nil => rfl
  | cons v vs ih =>
    simp only [List.length_cons] at h
    rw [tsets, ih _ _ (by omega), tget_tset_ne _ _ (by omega)]

/-- Inside a run of writes each key holds its value. -/
theorem tget_tsets_of_in (t : Tbl α) (x : Nat) (vs : List α) (i : Nat) (h : i < vs.length) :
    tget d (tsets d t x vs) (x + i) = vs[i] := by
  induction vs generalizing t x i with
  | nil => exact absurd h (Nat.not_lt_zero _)
  | cons v vs ih =>
    cases i with
    | zero =>
      rw [tsets, tget_tsets_of_out _ _ _ _ (by omega)]
      exact tget_tset_self _ _ _
    | succ i =>
      have h2 : i < vs.length := by simpa using h
      have := ih (tset d t x v) (x + 1) i h2
      rw [tsets, show x + (i + 1) = x + 1 + i by omega, this]
      rfl

omit [DecidableEq α] in
/-- A run of keys above every key of the table reads as unlisted. -/
theorem tgets_above (t : Tbl α) (x n : Nat) (h : (t.all fun e => decide (e.1 < x)) = true) : tgets d t x n = List.replicate n d := by
  induction n generalizing x with
  | zero => rfl
  | succ n ih =>
    have h1 : tget d t x = d := by
      clear ih
      induction t with
      | nil => rfl
      | cons e r ih =>
        obtain ⟨k, w⟩ := e
        simp only [List.all_cons, Bool.and_eq_true, decide_eq_true_eq] at h
        simp only [tget, if_neg (Nat.ne_of_lt h.1)]
        exact ih h.2
    have h2 : (t.all fun e => decide (e.1 < x + 1)) = true := by
      simp only [List.all_eq_true, decide_eq_true_eq] at h ⊢
      intro e he
      exact Nat.lt_succ_of_lt (h e he)
    rw [tgets, h1, ih (x + 1) h2, List.replicate_succ]

/-- Every field of a run of zero bytes is 0. -/
theorem fieldN_zeros (n a k : Nat) : fieldN (List.replicate n 0#8) a k = 0 := by
  simp only [fieldN, List.drop_replicate, List.take_replicate]
  generalize min k (n - a) = m
  induction m with
  | zero => rfl
  | succ m ih => rw [List.replicate_succ, leNat, ih]; rfl

theorem leNat_zeros (n : Nat) : leNat (List.replicate n 0#8) = 0 := by
  induction n with
  | zero => rfl
  | succ n ih => rw [List.replicate_succ, leNat, ih]; rfl

/-- Every piece of a run of zero bytes spells 0. -/
theorem chunks_zeros (w k n : Nat) : ∀ v ∈ (chunks w k (List.replicate n 0#8)).map leNat, v = 0 := by
  induction k generalizing n with
  | zero => intro v hv; simp [chunks] at hv
  | succ k ih =>
    intro v hv
    cases n with
    | zero => simp [chunks] at hv
    | succ n =>
      rw [List.replicate_succ, chunks, ← List.replicate_succ, List.map_cons, List.mem_cons] at hv
      · rcases hv with hv | hv
        · rw [hv, List.take_replicate, leNat_zeros]
        · rw [List.drop_replicate] at hv
          exact ih _ v hv
      · simp

/-! ## Register fields -/

/-- A field of another key is as it was. -/
theorem State.rd_wr_ne (s : State) {f g : FRef} (v : Nat) (h : f.key ≠ g.key) : (s.wr f v).rd g = s.rd g := by
  simp only [State.rd, State.wr]
  suffices ∀ t : Tbl Nat, tget g.reset (tset f.reset t f.key (v % 2 ^ f.width)) g.key = tget g.reset t g.key from this _
  have hc : ∀ t : Tbl Nat, tget g.reset (tcons f.reset f.key (v % 2 ^ f.width) (terase t f.key)) g.key = tget g.reset t g.key := by
    intro t
    unfold tcons
    split <;> simp [tget, h]
  intro t
  induction t with
  | nil => exact hc []
  | cons e r ih =>
    obtain ⟨k, w⟩ := e
    simp only [tset]
    split
    · exact hc _
    · split
      · rename_i hk
        have : k ≠ g.key := fun e => h (hk.trans e)
        rw [hc]
        simp [tget, this]
      · simp only [tget, ih]

/-- A field holds what was written, cut to its width. -/
@[simp] theorem State.rd_wr_self (s : State) (f : FRef) (v : Nat) : (s.wr f v).rd f = v % 2 ^ f.width := tget_tset_self _ _ _

end Sys2Proof.Machine
end

