-- ==== Sys2Proof/Laws/KeptOps.lean ====
section
/-!
SUPPORT. What the shared operations keep: one lemma a definition, that it leaves the memories in canonical form and the queue as it is, and host memory
(`hm`) or DRAM (`dm`) as well where the lemma leaves them general.
-/

set_option linter.all false

namespace Sys2Proof.Machine

/-- What a step keeps: the memories in canonical form, the queue as it is, and, where they are given, host memory and DRAM as they are. -/
def Kept (hm dm : Option (Tbl Byte)) (qs : List Instr) (s : State) : Prop :=
  s.memWf = true ∧ s.pending = qs ∧ (hm = none ∨ hm = some s.host) ∧ (dm = none ∨ dm = some s.dram)

/-- The same of an outcome and of a state that may be. -/
def KeptO (hm dm : Option (Tbl Byte)) (qs : List Instr) (o : Host.Outcome State Fault Refusal) : Prop := ∀ t, o = .next t → Kept hm dm qs t
def KeptOpt (hm dm : Option (Tbl Byte)) (qs : List Instr) (o : Option State) : Prop := ∀ t, o = some t → Kept hm dm qs t

section
variable {hm dm : Option (Tbl Byte)} {qs : List Instr}

theorem KeptO_next {s : State} (h : Kept hm dm qs s) : KeptO hm dm qs (.next s) := by
  intro t e; cases e; exact h
theorem KeptO_ite {c : Prop} [Decidable c] {a b} (ha : KeptO hm dm qs a) (hb : KeptO hm dm qs b) : KeptO hm dm qs (if c then a else b) := by
  split <;> assumption
theorem Kept_ite {c : Prop} [Decidable c] {a b : State} (ha : Kept hm dm qs a) (hb : Kept hm dm qs b) : Kept hm dm qs (if c then a else b) := by
  split <;> assumption
theorem KeptOpt_none : KeptOpt hm dm qs none := by intro t h; cases h
theorem KeptOpt_some {s : State} (h : Kept hm dm qs s) : KeptOpt hm dm qs (some s) := by intro t e; cases e; exact h
theorem KeptOpt_ite {c : Prop} [Decidable c] {a b} (ha : KeptOpt hm dm qs a) (hb : KeptOpt hm dm qs b) : KeptOpt hm dm qs (if c then a else b) := by
  split <;> assumption
theorem Kept_foldl {α : Type} {f : State → α → State} {l : List α} {s : State} (hs : Kept hm dm qs s)
    (hf : ∀ s x, Kept hm dm qs s → Kept hm dm qs (f s x)) : Kept hm dm qs (l.foldl f s) := by
  induction l generalizing s with
  | nil => exact hs
  | cons x l ih => exact ih (hf s x hs)

theorem Kept_forms {s : State} (h : Kept hm dm qs s) :
    twf 0#8 s.host = true ∧ twf 0#8 s.dram = true ∧ twf nmReset s.nmap = true ∧ twf 0 s.ncal = true ∧ twf 0 s.thresh = true ∧
      twf levelReset s.levels = true := by
  have h1 := h.1
  unfold State.memWf at h1
  simp only [Bool.and_eq_true] at h1
  exact ⟨h1.1.1.1.1.1, h1.1.1.1.1.2, h1.1.1.1.2, h1.1.1.2, h1.1.2, h1.2⟩
theorem Kept_host {s : State} (h : Kept hm dm qs s) : twf 0#8 s.host = true := (Kept_forms h).1
theorem Kept_dram {s : State} (h : Kept hm dm qs s) : twf 0#8 s.dram = true := (Kept_forms h).2.1
theorem Kept_nmap {s : State} (h : Kept hm dm qs s) : twf nmReset s.nmap = true := (Kept_forms h).2.2.1
theorem Kept_ncal {s : State} (h : Kept hm dm qs s) : twf 0 s.ncal = true := (Kept_forms h).2.2.2.1
theorem Kept_thresh {s : State} (h : Kept hm dm qs s) : twf 0 s.thresh = true := (Kept_forms h).2.2.2.2.1
theorem Kept_levels {s : State} (h : Kept hm dm qs s) : twf levelReset s.levels = true := (Kept_forms h).2.2.2.2.2

/-- What is left to show of an operation that changes one of the memories. -/
theorem Kept_parts {s t : State} (h : Kept hm dm qs s) (h1 : twf 0#8 t.host = true) (h2 : twf 0#8 t.dram = true) (h3 : twf nmReset t.nmap = true)
    (h4 : twf 0 t.ncal = true) (h5 : twf 0 t.thresh = true) (h6 : twf levelReset t.levels = true) (hp : t.pending = s.pending := by rfl)
    (hh : hm = none ∨ t.host = s.host := by first | exact Or.inl rfl | exact Or.inr rfl)
    (hd : dm = none ∨ t.dram = s.dram := by first | exact Or.inl rfl | exact Or.inr rfl) : Kept hm dm qs t := by
  obtain ⟨_, g1, g2, g3⟩ := h
  refine ⟨?_, hp.trans g1, ?_, ?_⟩
  · unfold State.memWf
    simp only [h1, h2, h3, h4, h5, h6, Bool.and_self]
  · rcases hh with hh | hh
    · exact Or.inl hh
    · rw [hh]; exact g2
  · rcases hd with hd | hd
    · exact Or.inl hd
    · rw [hd]; exact g3

/-- An operation on the other fields. -/
theorem Kept_mk {s : State} (h : Kept hm dm qs s) {x_now : Nat} {x_fresh : Nat} {x_regs : Tbl Nat} {x_locked : Tbl Bool} {x_captured : Tbl
    (Option Nat)} {x_staged : Tbl (Option Nat)} {x_shadow : Tbl (Option Nat)} {x_events : Tbl Nat} {x_modes : Tbl NodeMode} {x_heldCtrl : Tbl
    HeldCtrl} {x_sysReported : Bool} {x_sent : List Sent} {x_hostMarks : Tbl HostMark} {x_dramPoison : Tbl Bool} {x_dramErr : Tbl Nat} {x_ceRows
    : Tbl Nat} {x_retired : List Nat} {x_remaps : List (Nat × Nat)} {x_memLog : List MemRec} {x_mem : MemRt} {x_tallies : Tbl Nat} {x_rings : Tbl
    RingRt} {x_pkEpoch : Nat} {x_arbRing : Nat} {x_arbLeft : Nat} {x_drains : List DrainWait} {x_holdings : Tbl Holding} {x_ctxs : Tbl Ctx}
    {x_globalLine : Nat} {x_handles : Tbl Handle} {x_baleJobs : List BaleJob} {x_holders : Tbl (Option Holder)} {x_gangs : List Gang} {x_nmapBad
    : Tbl Bool} {x_ncalBad : Tbl Bool} {x_threshBad : Tbl Bool} {x_levelsBad : Tbl Bool} {x_tableChanges : List TableChange} {x_dueChanges : List
    DueChange} {x_slices : Tbl SliceRt} {x_rotNext : Nat} {x_rowCache : List RowSeg} {x_rotAt : Nat} {x_lanes : Tbl TrainRt} {x_trainPks : List
    TrainPk} {x_latPks : List LatPk} {x_heads : Tbl HlRt} {x_encs : Tbl EncRt} {x_syns : Tbl SynRt} {x_cmps : Tbl CmpRt} {x_latches : Tbl
    LatchRt} {x_divs : Tbl DivRt} {x_tbs : Tbl TbRt} {x_ptp : PtpRt} {x_axes : Tbl AxisRt} {x_pulses : Tbl PlsRt} {x_ownCrcs : Tbl (Option
    CrcNote)} {x_peerCrcs : Tbl (Option CrcNote)} {x_check : Option CheckRt} {x_compareFrom : Tbl Nat} {x_tokens : List (Nat × Nat × Nat)}
    {x_ticks : List (Nat × Nat × Nat)} {x_yk : YokeRt} {x_gl : GleanRt} {x_hlth : HlthRt} {x_sec : SecRt} {x_nor : NorRt} {x_sysr : SysRt}
    {x_heldCmds : List Instr} {x_cams : Tbl CamRt} {x_insp : InspRt} {x_cal : CalRt} :
    Kept hm dm qs (State.mk s.pending x_now x_fresh x_regs x_locked x_captured x_staged x_shadow x_events x_modes x_heldCtrl x_sysReported x_sent
    s.host x_hostMarks s.dram x_dramPoison x_dramErr x_ceRows x_retired x_remaps x_memLog x_mem x_tallies x_rings x_pkEpoch x_arbRing x_arbLeft
    x_drains x_holdings x_ctxs x_globalLine x_handles x_baleJobs x_holders x_gangs s.nmap x_nmapBad s.ncal x_ncalBad s.thresh x_threshBad
    s.levels x_levelsBad x_tableChanges x_dueChanges x_slices x_rotNext x_rowCache x_rotAt x_lanes x_trainPks x_latPks x_heads x_encs x_syns
    x_cmps x_latches x_divs x_tbs x_ptp x_axes x_pulses x_ownCrcs x_peerCrcs x_check x_compareFrom x_tokens x_ticks x_yk x_gl x_hlth x_sec x_nor
    x_sysr x_heldCmds x_cams x_insp x_cal) := h

end

theorem State.wr_kept {hm : Option (Tbl Byte)} {dm : Option (Tbl Byte)} {qs : List Instr} (s : State) (f : FRef) (v : Nat) (h_s : Kept hm dm qs
    s) : Kept hm dm qs (State.wr s f v) := by
  unfold State.wr
  repeat' first
    | with_reducible assumption | with_reducible apply Kept_ite | split | with_reducible intro _ _ _
    | with_reducible intro _ _ | with_reducible intro _ | dsimp only | with_reducible apply Kept_mk

theorem State.wrS_kept {hm : Option (Tbl Byte)} {dm : Option (Tbl Byte)} {qs : List Instr} (s : State) (f : FRef) (v : Int) (h_s : Kept hm dm qs
    s) : Kept hm dm qs (State.wrS s f v) := by
  unfold State.wrS
  repeat' first
    | with_reducible assumption | with_reducible apply State.wr_kept | with_reducible apply Kept_ite | split
    | with_reducible intro _ _ _ | with_reducible intro _ _ | with_reducible intro _ | dsimp only

theorem State.wrB_kept {hm : Option (Tbl Byte)} {dm : Option (Tbl Byte)} {qs : List Instr} (s : State) (f : FRef) (v : Bool) (h_s : Kept hm dm qs
    s) : Kept hm dm qs (State.wrB s f v) := by
  unfold State.wrB
  repeat' first
    | with_reducible assumption | with_reducible apply State.wr_kept | with_reducible apply Kept_ite | split
    | with_reducible intro _ _ _ | with_reducible intro _ _ | with_reducible intro _ | dsimp only

theorem State.put_kept {hm : Option (Tbl Byte)} {dm : Option (Tbl Byte)} {qs : List Instr} (s : State) (o : Sent) (h_s : Kept hm dm qs s) : Kept
    hm dm qs (State.put s o) := by
  unfold State.put
  repeat' first
    | with_reducible assumption | with_reducible apply Kept_ite | split | with_reducible intro _ _ _
    | with_reducible intro _ _ | with_reducible intro _ | dsimp only | with_reducible apply Kept_mk

theorem State.puts_kept {hm : Option (Tbl Byte)} {dm : Option (Tbl Byte)} {qs : List Instr} (s : State) (os : List Sent) (h_s : Kept hm dm qs s)
    : Kept hm dm qs (State.puts s os) := by
  unfold State.puts
  repeat' first
    | with_reducible assumption | with_reducible apply State.put_kept | with_reducible apply Kept_ite
    | with_reducible apply Kept_foldl | split | with_reducible intro _ _ _ | with_reducible intro _ _ | with_reducible intro _
    | dsimp only

theorem State.draw_kept {hm : Option (Tbl Byte)} {dm : Option (Tbl Byte)} {qs : List Instr} (s : State) (h_s : Kept hm dm qs s) : Kept hm dm qs
    (State.draw s).2 := by
  unfold State.draw
  repeat' first
    | with_reducible assumption | with_reducible apply Kept_ite | split | with_reducible intro _ _ _
    | with_reducible intro _ _ | with_reducible intro _ | dsimp only | with_reducible apply Kept_mk

theorem State.advance_kept {hm : Option (Tbl Byte)} {dm : Option (Tbl Byte)} {qs : List Instr} (s : State) (t : Nat) (h_s : Kept hm dm qs s) :
    Kept hm dm qs (State.advance s t) := by
  unfold State.advance
  repeat' first
    | with_reducible assumption | with_reducible apply Kept_ite | split | with_reducible intro _ _ _
    | with_reducible intro _ _ | with_reducible intro _ | dsimp only | with_reducible apply Kept_mk

theorem State.setRing_kept {hm : Option (Tbl Byte)} {dm : Option (Tbl Byte)} {qs : List Instr} (s : State) (n : Nat) (r : RingRt) (h_s : Kept hm
    dm qs s) : Kept hm dm qs (State.setRing s n r) := by
  unfold State.setRing
  repeat' first
    | with_reducible assumption | with_reducible apply Kept_ite | split | with_reducible intro _ _ _
    | with_reducible intro _ _ | with_reducible intro _ | dsimp only | with_reducible apply Kept_mk

theorem State.setCtx_kept {hm : Option (Tbl Byte)} {dm : Option (Tbl Byte)} {qs : List Instr} (s : State) (n : Nat) (c : Ctx) (h_s : Kept hm dm
    qs s) : Kept hm dm qs (State.setCtx s n c) := by
  unfold State.setCtx
  repeat' first
    | with_reducible assumption | with_reducible apply Kept_ite | split | with_reducible intro _ _ _
    | with_reducible intro _ _ | with_reducible intro _ | dsimp only | with_reducible apply Kept_mk

theorem State.setHead_kept {hm : Option (Tbl Byte)} {dm : Option (Tbl Byte)} {qs : List Instr} (s : State) (n : Nat) (h : HlRt) (h_s : Kept hm dm
    qs s) : Kept hm dm qs (State.setHead s n h) := by
  unfold State.setHead
  repeat' first
    | with_reducible assumption | with_reducible apply Kept_ite | split | with_reducible intro _ _ _
    | with_reducible intro _ _ | with_reducible intro _ | dsimp only | with_reducible apply Kept_mk

theorem State.setEnc_kept {hm : Option (Tbl Byte)} {dm : Option (Tbl Byte)} {qs : List Instr} (s : State) (n : Nat) (e : EncRt) (h_s : Kept hm dm
    qs s) : Kept hm dm qs (State.setEnc s n e) := by
  unfold State.setEnc
  repeat' first
    | with_reducible assumption | with_reducible apply Kept_ite | split | with_reducible intro _ _ _
    | with_reducible intro _ _ | with_reducible intro _ | dsimp only | with_reducible apply Kept_mk

theorem State.setSyn_kept {hm : Option (Tbl Byte)} {dm : Option (Tbl Byte)} {qs : List Instr} (s : State) (n : Nat) (x : SynRt) (h_s : Kept hm dm
    qs s) : Kept hm dm qs (State.setSyn s n x) := by
  unfold State.setSyn
  repeat' first
    | with_reducible assumption | with_reducible apply Kept_ite | split | with_reducible intro _ _ _
    | with_reducible intro _ _ | with_reducible intro _ | dsimp only | with_reducible apply Kept_mk

theorem State.setCmp_kept {hm : Option (Tbl Byte)} {dm : Option (Tbl Byte)} {qs : List Instr} (s : State) (n : Nat) (x : CmpRt) (h_s : Kept hm dm
    qs s) : Kept hm dm qs (State.setCmp s n x) := by
  unfold State.setCmp
  repeat' first
    | with_reducible assumption | with_reducible apply Kept_ite | split | with_reducible intro _ _ _
    | with_reducible intro _ _ | with_reducible intro _ | dsimp only | with_reducible apply Kept_mk

theorem State.setLatch_kept {hm : Option (Tbl Byte)} {dm : Option (Tbl Byte)} {qs : List Instr} (s : State) (n : Nat) (x : LatchRt) (h_s : Kept
    hm dm qs s) : Kept hm dm qs (State.setLatch s n x) := by
  unfold State.setLatch
  repeat' first
    | with_reducible assumption | with_reducible apply Kept_ite | split | with_reducible intro _ _ _
    | with_reducible intro _ _ | with_reducible intro _ | dsimp only | with_reducible apply Kept_mk

theorem State.setDiv_kept {hm : Option (Tbl Byte)} {dm : Option (Tbl Byte)} {qs : List Instr} (s : State) (n : Nat) (x : DivRt) (h_s : Kept hm dm
    qs s) : Kept hm dm qs (State.setDiv s n x) := by
  unfold State.setDiv
  repeat' first
    | with_reducible assumption | with_reducible apply Kept_ite | split | with_reducible intro _ _ _
    | with_reducible intro _ _ | with_reducible intro _ | dsimp only | with_reducible apply Kept_mk

theorem State.setSlice_kept {hm : Option (Tbl Byte)} {dm : Option (Tbl Byte)} {qs : List Instr} (s : State) (n : Nat) (x : SliceRt) (h_s : Kept
    hm dm qs s) : Kept hm dm qs (State.setSlice s n x) := by
  unfold State.setSlice
  repeat' first
    | with_reducible assumption | with_reducible apply Kept_ite | split | with_reducible intro _ _ _
    | with_reducible intro _ _ | with_reducible intro _ | dsimp only | with_reducible apply Kept_mk

theorem State.setHandle_kept {hm : Option (Tbl Byte)} {dm : Option (Tbl Byte)} {qs : List Instr} (s : State) (n : Nat) (x : Handle) (h_s : Kept
    hm dm qs s) : Kept hm dm qs (State.setHandle s n x) := by
  unfold State.setHandle
  repeat' first
    | with_reducible assumption | with_reducible apply Kept_ite | split | with_reducible intro _ _ _
    | with_reducible intro _ _ | with_reducible intro _ | dsimp only | with_reducible apply Kept_mk

theorem State.setLane_kept {hm : Option (Tbl Byte)} {dm : Option (Tbl Byte)} {qs : List Instr} (s : State) (l : LaneId) (x : TrainRt) (h_s : Kept
    hm dm qs s) : Kept hm dm qs (State.setLane s l x) := by
  unfold State.setLane
  repeat' first
    | with_reducible assumption | with_reducible apply Kept_ite | split | with_reducible intro _ _ _
    | with_reducible intro _ _ | with_reducible intro _ | dsimp only | with_reducible apply Kept_mk

theorem State.setHolder_kept {hm : Option (Tbl Byte)} {dm : Option (Tbl Byte)} {qs : List Instr} (s : State) (n : Nat) (x : Option Holder) (h_s :
    Kept hm dm qs s) : Kept hm dm qs (State.setHolder s n x) := by
  unfold State.setHolder
  repeat' first
    | with_reducible assumption | with_reducible apply Kept_ite | split | with_reducible intro _ _ _
    | with_reducible intro _ _ | with_reducible intro _ | dsimp only | with_reducible apply Kept_mk

theorem State.setCam_kept {hm : Option (Tbl Byte)} {dm : Option (Tbl Byte)} {qs : List Instr} (s : State) (n : Nat) (x : CamRt) (h_s : Kept hm dm
    qs s) : Kept hm dm qs (State.setCam s n x) := by
  unfold State.setCam
  repeat' first
    | with_reducible assumption | with_reducible apply Kept_ite | split | with_reducible intro _ _ _
    | with_reducible intro _ _ | with_reducible intro _ | dsimp only | with_reducible apply Kept_mk

theorem State.setHolding_kept {hm : Option (Tbl Byte)} {dm : Option (Tbl Byte)} {qs : List Instr} (s : State) (n : Node) (x : Holding) (h_s :
    Kept hm dm qs s) : Kept hm dm qs (State.setHolding s n x) := by
  unfold State.setHolding
  repeat' first
    | with_reducible assumption | with_reducible apply Kept_ite | split | with_reducible intro _ _ _
    | with_reducible intro _ _ | with_reducible intro _ | dsimp only | with_reducible apply Kept_mk

theorem mapCtxs_kept {hm : Option (Tbl Byte)} {dm : Option (Tbl Byte)} {qs : List Instr} (s : State) (f : Nat → Ctx → Ctx) (h_s : Kept hm dm qs
    s) : Kept hm dm qs (mapCtxs s f) := by
  unfold mapCtxs
  repeat' first
    | with_reducible assumption | with_reducible apply State.setCtx_kept | with_reducible apply Kept_ite
    | with_reducible apply Kept_foldl | split | with_reducible intro _ _ _ | with_reducible intro _ _ | with_reducible intro _
    | dsimp only

theorem State.setMode_kept {hm : Option (Tbl Byte)} {dm : Option (Tbl Byte)} {qs : List Instr} (s : State) (n : Node) (m : NodeMode) (h_s : Kept
    hm dm qs s) : Kept hm dm qs (State.setMode s n m) := by
  unfold State.setMode
  repeat' first
    | with_reducible assumption | with_reducible apply Kept_ite | split | with_reducible intro _ _ _
    | with_reducible intro _ _ | with_reducible intro _ | dsimp only | with_reducible apply Kept_mk

theorem State.startWake_kept {hm : Option (Tbl Byte)} {dm : Option (Tbl Byte)} {qs : List Instr} (s : State) (h_s : Kept hm dm qs s) : Kept hm dm
    qs (State.startWake s) := by
  unfold State.startWake
  repeat' first
    | with_reducible assumption | with_reducible apply Kept_ite | split | with_reducible intro _ _ _
    | with_reducible intro _ _ | with_reducible intro _ | dsimp only | with_reducible apply Kept_mk

theorem State.hostAt_kept {hm : Option (Tbl Byte)} {dm : Option (Tbl Byte)} {qs : List Instr} (s : State) (unit : Nat) (i : Instr) (f : State →
    State) (h_s : Kept hm dm qs s) (h_f : ∀ (x0 : State), Kept hm dm qs x0 → Kept hm dm qs (f x0)) : Kept hm dm qs (State.hostAt s unit i f) :=
    by
  unfold State.hostAt
  repeat' first
    | with_reducible assumption | with_reducible apply h_f | with_reducible apply State.startWake_kept
    | with_reducible apply Kept_ite | split | with_reducible intro _ _ _ | with_reducible intro _ _ | with_reducible intro _
    | dsimp only | with_reducible apply Kept_mk

theorem State.hostAccess_kept {hm : Option (Tbl Byte)} {dm : Option (Tbl Byte)} {qs : List Instr} (s : State) (n : Node) (i : Instr) (f : State →
    State) (h_s : Kept hm dm qs s) (h_f : ∀ (x0 : State), Kept hm dm qs x0 → Kept hm dm qs (f x0)) : Kept hm dm qs (State.hostAccess s n i f) :=
    by
  unfold State.hostAccess
  repeat' first
    | with_reducible assumption | with_reducible apply h_f | with_reducible apply State.hostAt_kept
    | with_reducible apply Kept_ite | split | with_reducible intro _ _ _ | with_reducible intro _ _ | with_reducible intro _
    | dsimp only

theorem State.latchEvent_kept {hm : Option (Tbl Byte)} {dm : Option (Tbl Byte)} {qs : List Instr} (s : State) (n : Node) (b : Nat) (h_s : Kept hm
    dm qs s) : Kept hm dm qs (State.latchEvent s n b) := by
  unfold State.latchEvent
  repeat' first
    | with_reducible assumption | with_reducible apply Kept_ite | split | with_reducible intro _ _ _
    | with_reducible intro _ _ | with_reducible intro _ | dsimp only | with_reducible apply Kept_mk

theorem State.sendMsix_kept {hm : Option (Tbl Byte)} {dm : Option (Tbl Byte)} {qs : List Instr} (s : State) (v : Nat) (h_s : Kept hm dm qs s) :
    Kept hm dm qs (State.sendMsix s v) := by
  unfold State.sendMsix
  repeat' first
    | with_reducible assumption | with_reducible apply State.wr_kept | with_reducible apply State.put_kept
    | with_reducible apply Kept_ite | split | with_reducible intro _ _ _ | with_reducible intro _ _ | with_reducible intro _
    | dsimp only

theorem State.countRaw_kept {hm : Option (Tbl Byte)} {dm : Option (Tbl Byte)} {qs : List Instr} (s : State) (cnt ovf : FRef) (n : Node) (k : Nat)
    (h_s : Kept hm dm qs s) : Kept hm dm qs (State.countRaw s cnt ovf n k) := by
  unfold State.countRaw
  repeat' first
    | with_reducible assumption | with_reducible apply State.wr_kept | with_reducible apply State.latchEvent_kept
    | with_reducible apply Kept_ite | split | with_reducible intro _ _ _ | with_reducible intro _ _ | with_reducible intro _
    | dsimp only

theorem State.hostWrite_kept {dm : Option (Tbl Byte)} {qs : List Instr} (s : State) (addr : Nat) (bs : List Byte) (h_s : Kept none dm qs s) : Kept none dm qs (State.hostWrite s addr bs) := by
  unfold State.hostWrite
  split
  · exact h_s
  · exact Kept_parts h_s (twf_tsets (by have q := Kept_host h_s; exact q) _ _) (by have q := Kept_dram h_s; exact q) (by have q := Kept_nmap h_s; exact q) (by have q := Kept_ncal h_s; exact q) (by have q := Kept_thresh h_s; exact q) (by have q := Kept_levels h_s; exact q)

theorem State.suppress_kept {hm : Option (Tbl Byte)} {dm : Option (Tbl Byte)} {qs : List Instr} (s : State) (h_s : Kept hm dm qs s) : Kept hm dm
    qs (State.suppress s) := by
  unfold State.suppress
  repeat' first
    | with_reducible assumption | with_reducible apply Kept_ite | split | with_reducible intro _ _ _
    | with_reducible intro _ _ | with_reducible intro _ | dsimp only | with_reducible apply Kept_mk

theorem State.putCpl_kept {dm : Option (Tbl Byte)} {qs : List Instr} (s : State) (r : Fin 256) (c : Cpl) (h_s : Kept none dm qs s) : Kept none dm
    qs (State.putCpl s r c) := by
  unfold State.putCpl
  repeat' first
    | with_reducible assumption | with_reducible apply State.hostWrite_kept | with_reducible apply State.wr_kept
    | with_reducible apply State.wrB_kept | with_reducible apply State.countRaw_kept | with_reducible apply State.setRing_kept
    | with_reducible apply State.sendMsix_kept | with_reducible apply Kept_ite | split | with_reducible intro _ _ _
    | with_reducible intro _ _ | with_reducible intro _ | dsimp only | with_reducible apply Kept_mk

theorem State.settle_kept {dm : Option (Tbl Byte)} {qs : List Instr} (s : State) (h_s : Kept none dm qs s) : Kept none dm qs (State.settle s) :=
    by
  unfold State.settle
  repeat' first
    | with_reducible assumption | with_reducible apply State.sendMsix_kept | with_reducible apply State.putCpl_kept
    | with_reducible apply State.setRing_kept | with_reducible apply State.wr_kept
    | with_reducible apply State.latchEvent_kept | with_reducible apply Kept_ite | split | with_reducible intro _ _ _
    | with_reducible intro _ _ | with_reducible intro _ | dsimp only | with_reducible apply Kept_mk

theorem State.raise_kept {dm : Option (Tbl Byte)} {qs : List Instr} (s : State) (n : Node) (b : Nat) (h_s : Kept none dm qs s) : Kept none dm qs
    (State.raise s n b) := by
  unfold State.raise
  repeat' first
    | with_reducible assumption | with_reducible apply State.latchEvent_kept | with_reducible apply State.settle_kept
    | with_reducible apply Kept_ite | split | with_reducible intro _ _ _ | with_reducible intro _ _ | with_reducible intro _
    | dsimp only

theorem State.count_kept {dm : Option (Tbl Byte)} {qs : List Instr} (s : State) (cnt ovf : FRef) (n : Node) (k : Nat) (h_s : Kept none dm qs s) :
    Kept none dm qs (State.count s cnt ovf n k) := by
  unfold State.count
  repeat' first
    | with_reducible assumption | with_reducible apply State.wr_kept | with_reducible apply State.raise_kept
    | with_reducible apply Kept_ite | split | with_reducible intro _ _ _ | with_reducible intro _ _ | with_reducible intro _
    | dsimp only

theorem State.access_kept {dm : Option (Tbl Byte)} {qs : List Instr} (s : State) (n : Node) (h_s : Kept none dm qs s) : Kept none dm qs
    (State.access s n) := by
  unfold State.access
  repeat' first
    | with_reducible assumption | with_reducible apply State.raise_kept | with_reducible apply Kept_ite | split
    | with_reducible intro _ _ _ | with_reducible intro _ _ | with_reducible intro _ | dsimp only

theorem State.raiseIf_kept {dm : Option (Tbl Byte)} {qs : List Instr} (s : State) (c : Bool) (n : Node) (b : Nat) (h_s : Kept none dm qs s) :
    Kept none dm qs (State.raiseIf s c n b) := by
  unfold State.raiseIf
  repeat' first
    | with_reducible assumption | with_reducible apply State.raise_kept | with_reducible apply Kept_ite | split
    | with_reducible intro _ _ _ | with_reducible intro _ _ | with_reducible intro _ | dsimp only

theorem State.flushHeld_kept {dm : Option (Tbl Byte)} {qs : List Instr} (s : State) (r : Fin 256) (h_s : Kept none dm qs s) : ∀ y0 : List Cpl, Kept none dm qs (State.flushHeld s r y0) := by
  intro l
  induction l generalizing s with
  | nil => exact State.settle_kept _ (State.wrB_kept _ _ _ (State.setRing_kept _ _ _ h_s))
  | cons c cs ih =>
    unfold State.flushHeld
    split
    · exact ih _ (State.putCpl_kept _ _ _ h_s)
    · exact State.settle_kept _ (State.setRing_kept _ _ _ h_s)

theorem State.complCpl_kept {dm : Option (Tbl Byte)} {qs : List Instr} (s : State) (r : Fin 256) (c : Cpl) (h_s : Kept none dm qs s) : Kept none
    dm qs (State.complCpl s r c) := by
  unfold State.complCpl
  repeat' first
    | with_reducible assumption | with_reducible apply State.putCpl_kept | with_reducible apply State.settle_kept
    | with_reducible apply State.setRing_kept | with_reducible apply State.wr_kept | with_reducible apply State.raise_kept
    | with_reducible apply Kept_ite | split | with_reducible intro _ _ _ | with_reducible intro _ _ | with_reducible intro _
    | dsimp only | with_reducible apply Kept_mk

theorem State.sendYoke_kept {hm : Option (Tbl Byte)} {dm : Option (Tbl Byte)} {qs : List Instr} (s : State) (kind : Nat) (fields : List Nat) (h_s
    : Kept hm dm qs s) : Kept hm dm qs (State.sendYoke s kind fields) := by
  unfold State.sendYoke
  repeat' first
    | with_reducible assumption | with_reducible apply State.put_kept | with_reducible apply Kept_ite | split
    | with_reducible intro _ _ _ | with_reducible intro _ _ | with_reducible intro _ | dsimp only
    | with_reducible apply Kept_mk

theorem State.sendLoad_kept {hm : Option (Tbl Byte)} {dm : Option (Tbl Byte)} {qs : List Instr} (s : State) (q : Nat) (m : YLoad) (h_s : Kept hm
    dm qs s) : Kept hm dm qs (State.sendLoad s q m) := by
  unfold State.sendLoad
  repeat' first
    | with_reducible assumption | with_reducible apply State.put_kept | with_reducible apply Kept_ite | split
    | with_reducible intro _ _ _ | with_reducible intro _ _ | with_reducible intro _ | dsimp only
    | with_reducible apply Kept_mk

theorem State.sendKept_kept {hm : Option (Tbl Byte)} {dm : Option (Tbl Byte)} {qs : List Instr} (s : State) (m : YLoad) (h_s : Kept hm dm qs s) :
    Kept hm dm qs (State.sendKept s m) := by
  unfold State.sendKept
  repeat' first
    | with_reducible assumption | with_reducible apply State.sendLoad_kept | with_reducible apply Kept_ite | split
    | with_reducible intro _ _ _ | with_reducible intro _ _ | with_reducible intro _ | dsimp only
    | with_reducible apply Kept_mk

theorem State.sendSeq_kept {hm : Option (Tbl Byte)} {dm : Option (Tbl Byte)} {qs : List Instr} (s : State) (m : YLoad) (h_s : Kept hm dm qs s) :
    Kept hm dm qs (State.sendSeq s m) := by
  unfold State.sendSeq
  repeat' first
    | with_reducible assumption | with_reducible apply State.sendKept_kept | with_reducible apply Kept_ite | split
    | with_reducible intro _ _ _ | with_reducible intro _ _ | with_reducible intro _ | dsimp only

theorem State.hear_kept {hm : Option (Tbl Byte)} {dm : Option (Tbl Byte)} {qs : List Instr} (s : State) (t : Nat) (h_s : Kept hm dm qs s) : Kept
    hm dm qs (State.hear s t) := by
  unfold State.hear
  repeat' first
    | with_reducible assumption | with_reducible apply State.advance_kept | with_reducible apply Kept_ite | split
    | with_reducible intro _ _ _ | with_reducible intro _ _ | with_reducible intro _ | dsimp only
    | with_reducible apply Kept_mk

theorem State.finishCpl_kept {dm : Option (Tbl Byte)} {qs : List Instr} (s : State) (r : Fin 256) (c : Cpl) (h_s : Kept none dm qs s) : Kept none
    dm qs (State.finishCpl s r c) := by
  unfold State.finishCpl
  repeat' first
    | with_reducible assumption | with_reducible apply State.setRing_kept | with_reducible apply State.complCpl_kept
    | with_reducible apply Kept_ite | split | with_reducible intro _ _ _ | with_reducible intro _ _ | with_reducible intro _
    | dsimp only | with_reducible apply Kept_mk

theorem State.noteSuppressed_kept {hm : Option (Tbl Byte)} {dm : Option (Tbl Byte)} {qs : List Instr} (s : State) (p : Pk) (h_s : Kept hm dm qs
    s) : Kept hm dm qs (State.noteSuppressed s p) := by
  unfold State.noteSuppressed
  repeat' first
    | with_reducible assumption | with_reducible apply Kept_ite | split | with_reducible intro _ _ _
    | with_reducible intro _ _ | with_reducible intro _ | dsimp only | with_reducible apply Kept_mk

theorem State.sendCpl_kept {dm : Option (Tbl Byte)} {qs : List Instr} (s : State) (r : Fin 256) (c : Cpl) (h_s : Kept none dm qs s) : Kept none
    dm qs (State.sendCpl s r c) := by
  unfold State.sendCpl
  repeat' first
    | with_reducible assumption | with_reducible apply State.sendKept_kept | with_reducible apply State.finishCpl_kept
    | with_reducible apply Kept_ite | split | with_reducible intro _ _ _ | with_reducible intro _ _ | with_reducible intro _
    | dsimp only

theorem State.releaseCpls_kept {dm : Option (Tbl Byte)} {qs : List Instr} (s : State) (r : Fin 256) (h_s : Kept none dm qs s) : ∀ y0 : Nat, Kept none dm qs (State.releaseCpls s r y0) := by
  intro k
  induction k generalizing s with
  | zero => exact h_s
  | succ k ih =>
    unfold State.releaseCpls
    dsimp only
    split
    · exact h_s
    · exact ih _ (State.sendCpl_kept _ _ _ (State.setRing_kept _ _ _ h_s))

theorem State.complete_kept {dm : Option (Tbl Byte)} {qs : List Instr} (s : State) (p : Pk) (st : Status) (words : List Nat) (h_s : Kept none dm
    qs s) : Kept none dm qs (State.complete s p st words) := by
  unfold State.complete
  repeat' first
    | with_reducible assumption | with_reducible apply State.noteSuppressed_kept | with_reducible apply State.setRing_kept
    | with_reducible apply State.releaseCpls_kept | with_reducible apply Kept_ite | split | with_reducible intro _ _ _
    | with_reducible intro _ _ | with_reducible intro _ | dsimp only | with_reducible apply Kept_mk

theorem State.haltRing_kept {dm : Option (Tbl Byte)} {qs : List Instr} (s : State) (r : Fin 256) (st : Status) (index : Nat) (ownFetch : Bool)
    (h_s : Kept none dm qs s) : Kept none dm qs (State.haltRing s r st index ownFetch) := by
  unfold State.haltRing
  repeat' first
    | with_reducible assumption | with_reducible apply State.wr_kept | with_reducible apply State.setRing_kept
    | with_reducible apply State.raise_kept | with_reducible apply Kept_ite | split | with_reducible intro _ _ _
    | with_reducible intro _ _ | with_reducible intro _ | dsimp only | with_reducible apply Kept_mk

theorem State.logMem_kept {dm : Option (Tbl Byte)} {qs : List Instr} (s : State) (r : MemRec) (h_s : Kept none dm qs s) : Kept none dm qs
    (State.logMem s r) := by
  unfold State.logMem
  repeat' first
    | with_reducible assumption | with_reducible apply State.count_kept | with_reducible apply State.raise_kept
    | with_reducible apply Kept_ite | split | with_reducible intro _ _ _ | with_reducible intro _ _ | with_reducible intro _
    | dsimp only | with_reducible apply Kept_mk

theorem State.correctWord_kept {dm : Option (Tbl Byte)} {qs : List Instr} (s : State) (kind w : Nat) (h_s : Kept none dm qs s) : Kept none dm qs
    (State.correctWord s kind w) := by
  unfold State.correctWord
  repeat' first
    | with_reducible assumption | with_reducible apply State.count_kept | with_reducible apply State.raise_kept
    | with_reducible apply State.logMem_kept | with_reducible apply Kept_ite | split | with_reducible intro _ _ _
    | with_reducible intro _ _ | with_reducible intro _ | dsimp only | with_reducible apply Kept_mk

theorem State.noteUe_kept {dm : Option (Tbl Byte)} {qs : List Instr} (s : State) (kind w type : Nat) (h_s : Kept none dm qs s) : Kept none dm qs
    (State.noteUe s kind w type) := by
  unfold State.noteUe
  repeat' first
    | with_reducible assumption | with_reducible apply State.count_kept | with_reducible apply State.raise_kept
    | with_reducible apply State.logMem_kept | with_reducible apply Kept_ite | split | with_reducible intro _ _ _
    | with_reducible intro _ _ | with_reducible intro _ | dsimp only

theorem State.exitSr_kept {hm : Option (Tbl Byte)} {dm : Option (Tbl Byte)} {qs : List Instr} (s : State) (addr len : Nat) (h_s : Kept hm dm qs
    s) : Kept hm dm qs (State.exitSr s addr len) := by
  unfold State.exitSr
  repeat' first
    | with_reducible assumption | with_reducible apply State.wr_kept | with_reducible apply Kept_ite
    | with_reducible apply Kept_foldl | split | with_reducible intro _ _ _ | with_reducible intro _ _ | with_reducible intro _
    | dsimp only

theorem State.cleanWords_kept {hm : Option (Tbl Byte)} {dm : Option (Tbl Byte)} {qs : List Instr} (s : State) (addr len : Nat) (h_s : Kept hm dm
    qs s) : Kept hm dm qs (State.cleanWords s addr len) := by
  unfold State.cleanWords
  repeat' first
    | with_reducible assumption | with_reducible apply Kept_ite | split | with_reducible intro _ _ _
    | with_reducible intro _ _ | with_reducible intro _ | dsimp only | with_reducible apply Kept_mk

theorem State.noteRead_kept {dm : Option (Tbl Byte)} {qs : List Instr} (s : State) (kind addr len : Nat) (h_s : Kept none dm qs s) : Kept none dm
    qs (State.noteRead s kind addr len) := by
  unfold State.noteRead
  repeat' first
    | with_reducible assumption | with_reducible apply State.noteUe_kept | with_reducible apply State.correctWord_kept
    | with_reducible apply State.exitSr_kept | with_reducible apply Kept_ite | with_reducible apply Kept_foldl | split
    | with_reducible intro _ _ _ | with_reducible intro _ _ | with_reducible intro _ | dsimp only

theorem State.inject_kept {hm : Option (Tbl Byte)} {qs : List Instr} (s : State) (ws : List Nat) (h_s : Kept hm none qs s) : Kept hm none qs (State.inject s ws) := by
  unfold State.inject
  dsimp only
  split
  · exact h_s
  · split
    · exact h_s
    · split
      · exact h_s
      · split
        · exact Kept_parts h_s (by have q := Kept_host h_s; exact q) (twf_tset (twf_tset (by have q := Kept_dram h_s; exact q) _ _) _ _) (by have q := Kept_nmap h_s; exact q) (by have q := Kept_ncal h_s; exact q) (by have q := Kept_thresh h_s; exact q) (by have q := Kept_levels h_s; exact q)
        · exact h_s

theorem State.mergeWord_kept {dm : Option (Tbl Byte)} {qs : List Instr} (s : State) (kind w : Nat) (h_s : Kept none dm qs s) : Kept none dm qs
    (State.mergeWord s kind w) := by
  unfold State.mergeWord
  repeat' first
    | with_reducible assumption | with_reducible apply State.correctWord_kept | with_reducible apply State.noteUe_kept
    | with_reducible apply Kept_ite | split | with_reducible intro _ _ _ | with_reducible intro _ _ | with_reducible intro _
    | dsimp only | with_reducible apply Kept_mk

theorem State.dramWrite_kept {qs : List Instr} (s : State) (kind : Nat) (addr : Nat) (bs : List Byte) (h_s : Kept none none qs s) : Kept none none qs (State.dramWrite s kind addr bs) := by
  unfold State.dramWrite
  dsimp only
  apply State.inject_kept
  generalize hu : List.foldl (fun (s : State) w => s.mergeWord kind w) (s.exitSr addr bs.length) _ = u
  have h : Kept none none qs u := by
    rw [← hu]
    exact Kept_foldl (State.exitSr_kept _ _ _ h_s) (fun s x h => State.mergeWord_kept _ _ _ h)
  refine Kept_parts h (by have q := Kept_host h; exact q) ?_ (by have q := Kept_nmap h; exact q) (by have q := Kept_ncal h; exact q) (by have q := Kept_thresh h; exact q) (by have q := Kept_levels h; exact q)
  show twf 0#8 (if _ then _ else _) = true
  split
  · exact twf_tsets (Kept_dram h) _ _
  · have hd := Kept_dram h
    generalize u.dram = d at hd ⊢
    clear hu
    generalize bs.zipIdx = l
    induction l generalizing d with
    | nil => exact hd
    | cons x l ih =>
      refine ih _ ?_
      show twf 0#8 (if _ then _ else _) = true
      split
      · exact hd
      · exact twf_tset hd _ _

theorem State.poisonRange_kept {hm : Option (Tbl Byte)} {dm : Option (Tbl Byte)} {qs : List Instr} (s : State) (addr len : Nat) (h_s : Kept hm dm
    qs s) : Kept hm dm qs (State.poisonRange s addr len) := by
  unfold State.poisonRange
  repeat' first
    | with_reducible assumption | with_reducible apply Kept_ite | with_reducible apply Kept_foldl | split
    | with_reducible intro _ _ _ | with_reducible intro _ _ | with_reducible intro _ | dsimp only
    | with_reducible apply Kept_mk

theorem State.touch_kept {dm : Option (Tbl Byte)} {qs : List Instr} (s : State) (kind addr len : Nat) (h_s : Kept none dm qs s) : Kept none dm qs
    (State.touch s kind addr len) := by
  unfold State.touch
  repeat' first
    | with_reducible assumption | with_reducible apply State.noteRead_kept | with_reducible apply Kept_ite | split
    | with_reducible intro _ _ _ | with_reducible intro _ _ | with_reducible intro _ | dsimp only

theorem State.writeAt_kept {qs : List Instr} (s : State) (kind addr : Nat) (bs : List Byte) (h_s : Kept none none qs s) : Kept none none qs
    (State.writeAt s kind addr bs) := by
  unfold State.writeAt
  repeat' first
    | with_reducible assumption | with_reducible apply State.dramWrite_kept | with_reducible apply State.suppress_kept
    | with_reducible apply State.hostWrite_kept | with_reducible apply Kept_ite | split | with_reducible intro _ _ _
    | with_reducible intro _ _ | with_reducible intro _ | dsimp only

theorem State.writePoisoned_kept {qs : List Instr} (s : State) (kind addr : Nat) (bs : List Byte) (h_s : Kept none none qs s) : Kept none none qs
    (State.writePoisoned s kind addr bs) := by
  unfold State.writePoisoned
  repeat' first
    | with_reducible assumption | with_reducible apply State.writeAt_kept | with_reducible apply State.poisonRange_kept
    | with_reducible apply State.suppress_kept | with_reducible apply State.put_kept | with_reducible apply Kept_ite | split
    | with_reducible intro _ _ _ | with_reducible intro _ _ | with_reducible intro _ | dsimp only

theorem State.usePoison_kept {dm : Option (Tbl Byte)} {qs : List Instr} (s : State) (kind addr len : Nat) (h_s : Kept none dm qs s) : Kept none
    dm qs (State.usePoison s kind addr len) := by
  unfold State.usePoison
  repeat' first
    | with_reducible assumption | with_reducible apply State.logMem_kept | with_reducible apply State.count_kept
    | with_reducible apply State.raise_kept | with_reducible apply Kept_ite | split | with_reducible intro _ _ _
    | with_reducible intro _ _ | with_reducible intro _ | dsimp only | with_reducible apply Kept_mk

theorem State.faultNode_kept {dm : Option (Tbl Byte)} {qs : List Instr} (s : State) (n : Node) (st : Status) (h_s : Kept none dm qs s) : Kept
    none dm qs (State.faultNode s n st) := by
  unfold State.faultNode
  repeat' first
    | with_reducible assumption | with_reducible apply State.setMode_kept | with_reducible apply State.wr_kept
    | with_reducible apply State.count_kept | with_reducible apply State.raise_kept | with_reducible apply Kept_ite | split
    | with_reducible intro _ _ _ | with_reducible intro _ _ | with_reducible intro _ | dsimp only

theorem State.startPk_kept {hm : Option (Tbl Byte)} {dm : Option (Tbl Byte)} {qs : List Instr} (s : State) (h : Hdr) (op : Nat) (h_s : Kept hm dm
    qs s) : Kept hm dm qs (State.startPk s h op) := by
  unfold State.startPk
  repeat' first
    | with_reducible assumption | with_reducible apply State.setRing_kept | with_reducible apply Kept_ite | split
    | with_reducible intro _ _ _ | with_reducible intro _ _ | with_reducible intro _ | dsimp only
    | with_reducible apply Kept_mk

theorem State.aer_kept {hm : Option (Tbl Byte)} {dm : Option (Tbl Byte)} {qs : List Instr} (s : State) (st : Status) (bus : Bool) (h_s : Kept hm
    dm qs s) : Kept hm dm qs (State.aer s st bus) := by
  unfold State.aer
  repeat' first
    | with_reducible assumption | with_reducible apply Kept_ite | split | with_reducible intro _ _ _
    | with_reducible intro _ _ | with_reducible intro _ | dsimp only | with_reducible apply Kept_mk

theorem State.failPk_kept {dm : Option (Tbl Byte)} {qs : List Instr} (s : State) (p : Pk) (st : Status) (reads : List (Nat × Nat)) (words : List
    Nat) (h_s : Kept none dm qs s) : Kept none dm qs (State.failPk s p st reads words) := by
  unfold State.failPk
  repeat' first
    | with_reducible assumption | with_reducible apply State.usePoison_kept | with_reducible apply State.aer_kept
    | with_reducible apply State.complete_kept | with_reducible apply State.haltRing_kept | with_reducible apply Kept_ite
    | split | with_reducible intro _ _ _ | with_reducible intro _ _ | with_reducible intro _ | dsimp only
    | with_reducible apply Kept_mk

theorem State.packetW_kept {dm : Option (Tbl Byte)} {qs : List Instr} (s : State) (o : OpInfo) (h : Hdr) (reads : List (Nat × Nat)) (words :
    State → List Nat) (chk : State → List (Bool × Status)) (eff : Pk → State → State) (h_s : Kept none dm qs s) (h_eff : ∀ (x0 : Pk) (x1 :
    State), Kept none dm qs x1 → Kept none dm qs (eff x0 x1)) : Kept none dm qs (State.packetW s o h reads words chk eff) := by
  unfold State.packetW
  repeat' first
    | with_reducible assumption | with_reducible apply h_eff | with_reducible apply State.startPk_kept
    | with_reducible apply State.failPk_kept | with_reducible apply State.touch_kept | with_reducible apply Kept_ite
    | with_reducible apply Kept_foldl | split | with_reducible intro _ _ _ | with_reducible intro _ _ | with_reducible intro _
    | dsimp only | with_reducible apply Kept_mk

theorem State.packetR_kept {dm : Option (Tbl Byte)} {qs : List Instr} (s : State) (o : OpInfo) (h : Hdr) (reads : List (Nat × Nat)) (chk : State
    → List (Bool × Status)) (eff : Pk → State → State) (h_s : Kept none dm qs s) (h_eff : ∀ (x0 : Pk) (x1 : State), Kept none dm qs x1 → Kept
    none dm qs (eff x0 x1)) : Kept none dm qs (State.packetR s o h reads chk eff) := by
  unfold State.packetR
  repeat' first
    | with_reducible assumption | with_reducible apply h_eff | with_reducible apply State.packetW_kept
    | with_reducible apply Kept_ite | split | with_reducible intro _ _ _ | with_reducible intro _ _ | with_reducible intro _
    | dsimp only

theorem State.packet_kept {dm : Option (Tbl Byte)} {qs : List Instr} (s : State) (o : OpInfo) (h : Hdr) (chk : State → List (Bool × Status)) (eff
    : Pk → State → State) (h_s : Kept none dm qs s) (h_eff : ∀ (x0 : Pk) (x1 : State), Kept none dm qs x1 → Kept none dm qs (eff x0 x1)) : Kept
    none dm qs (State.packet s o h chk eff) := by
  unfold State.packet
  repeat' first
    | with_reducible assumption | with_reducible apply h_eff | with_reducible apply State.packetR_kept
    | with_reducible apply Kept_ite | split | with_reducible intro _ _ _ | with_reducible intro _ _ | with_reducible intro _
    | dsimp only

theorem State.setTb_kept {hm : Option (Tbl Byte)} {dm : Option (Tbl Byte)} {qs : List Instr} (s : State) (b : Nat) (x : TbRt) (h_s : Kept hm dm
    qs s) : Kept hm dm qs (State.setTb s b x) := by
  unfold State.setTb
  repeat' first
    | with_reducible assumption | with_reducible apply Kept_ite | split | with_reducible intro _ _ _
    | with_reducible intro _ _ | with_reducible intro _ | dsimp only | with_reducible apply Kept_mk

theorem State.setRate_kept {hm : Option (Tbl Byte)} {dm : Option (Tbl Byte)} {qs : List Instr} (s : State) (b : Nat) (rate : Int) (h_s : Kept hm
    dm qs s) : Kept hm dm qs (State.setRate s b rate) := by
  unfold State.setRate
  repeat' first
    | with_reducible assumption | with_reducible apply State.setTb_kept | with_reducible apply State.wrS_kept
    | with_reducible apply Kept_ite | split | with_reducible intro _ _ _ | with_reducible intro _ _ | with_reducible intro _
    | dsimp only

theorem State.stepBase_kept {hm : Option (Tbl Byte)} {dm : Option (Tbl Byte)} {qs : List Instr} (s : State) (b : Nat) (v : Int) (h_s : Kept hm dm
    qs s) : Kept hm dm qs (State.stepBase s b v) := by
  unfold State.stepBase
  repeat' first
    | with_reducible assumption | with_reducible apply State.setTb_kept | with_reducible apply Kept_ite | split
    | with_reducible intro _ _ _ | with_reducible intro _ _ | with_reducible intro _ | dsimp only

theorem State.putAudit_kept {hm : Option (Tbl Byte)} {dm : Option (Tbl Byte)} {qs : List Instr} (s : State) (head : List Byte) (h_s : Kept hm dm
    qs s) : Kept hm dm qs (State.putAudit s head) := by
  unfold State.putAudit
  repeat' first
    | with_reducible assumption | with_reducible apply Kept_ite | split | with_reducible intro _ _ _
    | with_reducible intro _ _ | with_reducible intro _ | dsimp only | with_reducible apply Kept_mk

theorem State.audit_kept {dm : Option (Tbl Byte)} {qs : List Instr} (s : State) (type ctx slot status a b : Nat) (subject : List Byte) (h_s :
    Kept none dm qs s) : Kept none dm qs (State.audit s type ctx slot status a b subject) := by
  unfold State.audit
  repeat' first
    | with_reducible assumption | with_reducible apply State.putAudit_kept | with_reducible apply State.raise_kept
    | with_reducible apply Kept_ite | split | with_reducible intro _ _ _ | with_reducible intro _ _ | with_reducible intro _
    | dsimp only

theorem State.secError_kept {dm : Option (Tbl Byte)} {qs : List Instr} (s : State) (test : Nat) (h_s : Kept none dm qs s) : Kept none dm qs
    (State.secError s test) := by
  unfold State.secError
  repeat' first
    | with_reducible assumption | with_reducible apply State.audit_kept | with_reducible apply State.wr_kept
    | with_reducible apply State.faultNode_kept | with_reducible apply State.raise_kept | with_reducible apply Kept_ite
    | split | with_reducible intro _ _ _ | with_reducible intro _ _ | with_reducible intro _ | dsimp only

theorem State.voidKey_kept {hm : Option (Tbl Byte)} {dm : Option (Tbl Byte)} {qs : List Instr} (s : State) (key : Nat) (h_s : Kept hm dm qs s) :
    Kept hm dm qs (State.voidKey s key) := by
  unfold State.voidKey
  repeat' first
    | with_reducible assumption | with_reducible apply Kept_ite | split | with_reducible intro _ _ _
    | with_reducible intro _ _ | with_reducible intro _ | dsimp only | with_reducible apply Kept_mk

theorem State.voidGroup_kept {hm : Option (Tbl Byte)} {dm : Option (Tbl Byte)} {qs : List Instr} (s : State) (g : Nat) (h_s : Kept hm dm qs s) :
    Kept hm dm qs (State.voidGroup s g) := by
  unfold State.voidGroup
  repeat' first
    | with_reducible assumption | with_reducible apply Kept_ite | with_reducible apply Kept_foldl | split
    | with_reducible intro _ _ _ | with_reducible intro _ _ | with_reducible intro _ | dsimp only
    | with_reducible apply Kept_mk

theorem State.voidAll_kept {hm : Option (Tbl Byte)} {dm : Option (Tbl Byte)} {qs : List Instr} (s : State) (h_s : Kept hm dm qs s) : Kept hm dm
    qs (State.voidAll s) := by
  unfold State.voidAll
  repeat' first
    | with_reducible assumption | with_reducible apply Kept_ite | split | with_reducible intro _ _ _
    | with_reducible intro _ _ | with_reducible intro _ | dsimp only | with_reducible apply Kept_mk

theorem State.voidColour_kept {hm : Option (Tbl Byte)} {dm : Option (Tbl Byte)} {qs : List Instr} (s : State) (j : Nat) (h_s : Kept hm dm qs s) :
    Kept hm dm qs (State.voidColour s j) := by
  unfold State.voidColour
  repeat' first
    | with_reducible assumption | with_reducible apply Kept_ite | split | with_reducible intro _ _ _
    | with_reducible intro _ _ | with_reducible intro _ | dsimp only | with_reducible apply Kept_mk

theorem State.voidNozzles_kept {hm : Option (Tbl Byte)} {dm : Option (Tbl Byte)} {qs : List Instr} (s : State) (first : Nat) (vals : List Nat)
    (map : Bool) (h_s : Kept hm dm qs s) : Kept hm dm qs (State.voidNozzles s first vals map) := by
  unfold State.voidNozzles
  repeat' first
    | with_reducible assumption | with_reducible apply State.voidKey_kept | with_reducible apply State.voidGroup_kept
    | with_reducible apply Kept_ite | with_reducible apply Kept_foldl | split | with_reducible intro _ _ _
    | with_reducible intro _ _ | with_reducible intro _ | dsimp only

theorem State.dropSteps_kept {hm : Option (Tbl Byte)} {dm : Option (Tbl Byte)} {qs : List Instr} (s : State) (keys groups : List Nat) (h_s : Kept
    hm dm qs s) : Kept hm dm qs (State.dropSteps s keys groups) := by
  unfold State.dropSteps
  repeat' first
    | with_reducible assumption | with_reducible apply Kept_ite | split | with_reducible intro _ _ _
    | with_reducible intro _ _ | with_reducible intro _ | dsimp only | with_reducible apply Kept_mk

theorem State.addStep_kept {hm : Option (Tbl Byte)} {dm : Option (Tbl Byte)} {qs : List Instr} (s : State) (x : CalStep) (h_s : Kept hm dm qs s)
    : Kept hm dm qs (State.addStep s x) := by
  unfold State.addStep
  repeat' first
    | with_reducible assumption | with_reducible apply Kept_ite | split | with_reducible intro _ _ _
    | with_reducible intro _ _ | with_reducible intro _ | dsimp only | with_reducible apply Kept_mk

theorem State.moveDelay_kept {hm : Option (Tbl Byte)} {dm : Option (Tbl Byte)} {qs : List Instr} (s : State) (g : Nat) (d : Int) (h_s : Kept hm
    dm qs s) : Kept hm dm qs (State.moveDelay s g d) := by
  unfold State.moveDelay
  repeat' first
    | with_reducible assumption | with_reducible apply State.setSyn_kept | with_reducible apply State.wrS_kept
    | with_reducible apply State.voidGroup_kept | with_reducible apply Kept_ite | split | with_reducible intro _ _ _
    | with_reducible intro _ _ | with_reducible intro _ | dsimp only | with_reducible apply Kept_mk

theorem State.applyDens_kept {hm : Option (Tbl Byte)} {dm : Option (Tbl Byte)} {qs : List Instr} (s : State) (c : Ctx) (x : CalStep) (h_s : Kept hm dm qs s) : Kept hm dm qs (State.applyDens s c x) := by
  unfold State.applyDens
  refine Kept_foldl (State.voidKey_kept _ _ h_s) (fun s e h => ?_)
  exact Kept_parts h (by have q := Kept_host h; exact q) (by have q := Kept_dram h; exact q) (by have q := Kept_nmap h; exact q) (twf_tset (by have q := Kept_ncal h; exact q) _ _) (by have q := Kept_thresh h; exact q) (by have q := Kept_levels h; exact q)

theorem State.stepApplied_kept {dm : Option (Tbl Byte)} {qs : List Instr} (s : State) (h_s : Kept none dm qs s) : Kept none dm qs
    (State.stepApplied s) := by
  unfold State.stepApplied
  repeat' first
    | with_reducible assumption | with_reducible apply State.count_kept | with_reducible apply State.raise_kept
    | with_reducible apply Kept_ite | split | with_reducible intro _ _ _ | with_reducible intro _ _ | with_reducible intro _
    | dsimp only

theorem State.applySteps_kept {dm : Option (Tbl Byte)} {qs : List Instr} (s : State) (ctx m : Nat) (xs : List CalStep) (h_s : Kept none dm qs s)
    : Kept none dm qs (State.applySteps s ctx m xs) := by
  unfold State.applySteps
  repeat' first
    | with_reducible assumption | with_reducible apply State.applyDens_kept | with_reducible apply State.stepApplied_kept
    | with_reducible apply State.setSyn_kept | with_reducible apply State.moveDelay_kept | with_reducible apply Kept_ite
    | with_reducible apply Kept_foldl | split | with_reducible intro _ _ _ | with_reducible intro _ _ | with_reducible intro _
    | dsimp only | with_reducible apply Kept_mk

end Sys2Proof.Machine
end

