-- ==== Sys2Proof/Laws/KeptRaster.lean ====
section
/-!
SUPPORT. What contexts, bales, composition and screening keep: one lemma a definition, that it leaves the memories in canonical form and the queue as it is, and host memory
(`hm`) or DRAM (`dm`) as well where the lemma leaves them general.
-/

set_option linter.all false

namespace Sys2Proof.Machine

theorem State.markLine_kept {hm : Option (Tbl Byte)} {dm : Option (Tbl Byte)} {qs : List Instr} (s : State) (ctx l m : Nat) (h_s : Kept hm dm qs
    s) : Kept hm dm qs (State.markLine s ctx l m) := by
  unfold State.markLine
  repeat' first
    | with_reducible assumption | with_reducible apply State.setCtx_kept | with_reducible apply Kept_ite | split
    | with_reducible intro _ _ _ | with_reducible intro _ _ | with_reducible intro _ | dsimp only

theorem State.markLaneLine_kept {hm : Option (Tbl Byte)} {dm : Option (Tbl Byte)} {qs : List Instr} (s : State) (ctx lane line m : Nat) (h_s :
    Kept hm dm qs s) : Kept hm dm qs (State.markLaneLine s ctx lane line m) := by
  unfold State.markLaneLine
  repeat' first
    | with_reducible assumption | with_reducible apply State.markLine_kept | with_reducible apply Kept_ite
    | with_reducible apply Kept_foldl | split | with_reducible intro _ _ _ | with_reducible intro _ _ | with_reducible intro _
    | dsimp only

theorem State.completePage_kept {dm : Option (Tbl Byte)} {qs : List Instr} (s : State) (ctx : Nat) (p : Page) (st : Status) (marks : Nat) (h_s :
    Kept none dm qs s) : Kept none dm qs (State.completePage s ctx p st marks) := by
  unfold State.completePage
  repeat' first
    | with_reducible assumption | with_reducible apply State.complete_kept | with_reducible apply State.setCtx_kept
    | with_reducible apply Kept_ite | split | with_reducible intro _ _ _ | with_reducible intro _ _ | with_reducible intro _
    | dsimp only | with_reducible apply Kept_mk

theorem State.queueMap_kept {hm : Option (Tbl Byte)} {dm : Option (Tbl Byte)} {qs : List Instr} (s : State) (lane : Nat) (config : Bool) (lo hi :
    Nat) (h_s : Kept hm dm qs s) : Kept hm dm qs (State.queueMap s lane config lo hi) := by
  unfold State.queueMap
  repeat' first
    | with_reducible assumption | with_reducible apply State.setHead_kept | with_reducible apply Kept_ite | split
    | with_reducible intro _ _ _ | with_reducible intro _ _ | with_reducible intro _ | dsimp only
    | with_reducible apply Kept_mk

theorem State.updGroups_kept {hm : Option (Tbl Byte)} {dm : Option (Tbl Byte)} {qs : List Instr} (s : State) (lane : Nat) (h_s : Kept hm dm qs s)
    : Kept hm dm qs (State.updGroups s lane) := by
  unfold State.updGroups
  repeat' first
    | with_reducible assumption | with_reducible apply State.wr_kept | with_reducible apply Kept_ite | split
    | with_reducible intro _ _ _ | with_reducible intro _ _ | with_reducible intro _ | dsimp only

theorem State.moveGroups_kept {hm : Option (Tbl Byte)} {dm : Option (Tbl Byte)} {qs : List Instr} (s : State) (lane : Nat) (h_s : Kept hm dm qs
    s) : Kept hm dm qs (State.moveGroups s lane) := by
  unfold State.moveGroups
  repeat' first
    | with_reducible assumption | with_reducible apply State.updGroups_kept | with_reducible apply State.setHead_kept
    | with_reducible apply Kept_ite | split | with_reducible intro _ _ _ | with_reducible intro _ _ | with_reducible intro _
    | dsimp only | with_reducible apply Kept_mk

theorem State.applySynth_kept {hm : Option (Tbl Byte)} {dm : Option (Tbl Byte)} {qs : List Instr} (s : State) (g : Nat) (b : List Byte) (h_s :
    Kept hm dm qs s) : Kept hm dm qs (State.applySynth s g b) := by
  unfold State.applySynth
  repeat' first
    | with_reducible assumption | with_reducible apply State.setSyn_kept | with_reducible apply State.wr_kept
    | with_reducible apply State.wrS_kept | with_reducible apply Kept_ite | split | with_reducible intro _ _ _
    | with_reducible intro _ _ | with_reducible intro _ | dsimp only | with_reducible apply Kept_mk

theorem State.applySyn_kept {dm : Option (Tbl Byte)} {qs : List Instr} (s : State) (g : Nat) (ch : SynChange) (h_s : Kept none dm qs s) : Kept
    none dm qs (State.applySyn s g ch) := by
  unfold State.applySyn
  repeat' first
    | with_reducible assumption | with_reducible apply State.applySynth_kept | with_reducible apply State.moveDelay_kept
    | with_reducible apply State.stepApplied_kept | with_reducible apply Kept_ite | split | with_reducible intro _ _ _
    | with_reducible intro _ _ | with_reducible intro _ | dsimp only | with_reducible apply Kept_mk

theorem State.putNozzles_kept {hm : Option (Tbl Byte)} {dm : Option (Tbl Byte)} {qs : List Instr} (s : State) (first : Nat) (vals : List Nat) (h_s : Kept hm dm qs s) : Kept hm dm qs (State.putNozzles s first vals) := by
  unfold State.putNozzles
  exact Kept_parts h_s (by have q := Kept_host h_s; exact q) (by have q := Kept_dram h_s; exact q) (twf_tsets (by have q := Kept_nmap h_s; exact q) _ _) (by have q := Kept_ncal h_s; exact q) (by have q := Kept_thresh h_s; exact q) (by have q := Kept_levels h_s; exact q)

theorem State.keepOldMap_kept {hm : Option (Tbl Byte)} {dm : Option (Tbl Byte)} {qs : List Instr} (s : State) (lane : Nat) (was : List (Nat ×
    Nat)) (h_s : Kept hm dm qs s) : Kept hm dm qs (State.keepOldMap s lane was) := by
  unfold State.keepOldMap
  repeat' first
    | with_reducible assumption | with_reducible apply State.setHead_kept | with_reducible apply Kept_ite | split
    | with_reducible intro _ _ _ | with_reducible intro _ _ | with_reducible intro _ | dsimp only
    | with_reducible apply Kept_mk

theorem State.applyChange_kept {hm : Option (Tbl Byte)} {dm : Option (Tbl Byte)} {qs : List Instr} (s : State) (ch : TableChange) (h_s : Kept hm dm qs s) : Kept hm dm qs (State.applyChange s ch) := by
  unfold State.applyChange
  dsimp only
  split
  · have h1 := State.moveGroups_kept _ (by assumption) (State.putNozzles_kept _ ch.first ch.vals (State.keepOldMap_kept _ (by assumption) ((List.range ch.vals.length).map fun i => ((ch.first + i) % 32768, s.nozzle (ch.first + i))) (State.voidNozzles_kept s ch.first ch.vals true h_s)))
    split
    · exact h1
    · split
      · exact State.queueMap_kept _ _ _ _ _ h1
      · exact h1
  · have h := State.voidNozzles_kept s ch.first ch.vals false h_s
    exact Kept_parts h (by have q := Kept_host h; exact q) (by have q := Kept_dram h; exact q) (by have q := Kept_nmap h; exact q) (twf_tsets (by have q := Kept_ncal h; exact q) _ _) (by have q := Kept_thresh h; exact q) (by have q := Kept_levels h; exact q)
  · exact Kept_parts h_s (by have q := Kept_host h_s; exact q) (by have q := Kept_dram h_s; exact q) (by have q := Kept_nmap h_s; exact q) (by have q := Kept_ncal h_s; exact q) (twf_tsets (by have q := Kept_thresh h_s; exact q) _ _) (by have q := Kept_levels h_s; exact q)
  · exact Kept_parts h_s (by have q := Kept_host h_s; exact q) (by have q := Kept_dram h_s; exact q) (by have q := Kept_nmap h_s; exact q) (by have q := Kept_ncal h_s; exact q) (by have q := Kept_thresh h_s; exact q) (twf_tsets (by have q := Kept_levels h_s; exact q) _ _)
  · exact State.wr_kept _ _ _ (State.wr_kept _ _ _ h_s)
  · exact State.applySynth_kept _ _ _ h_s

theorem State.applyAt_kept {hm : Option (Tbl Byte)} {dm : Option (Tbl Byte)} {qs : List Instr} (s : State) (m : Nat) (ch : TableChange) (h_s :
    Kept hm dm qs s) : Kept hm dm qs (State.applyAt s m ch) := by
  unfold State.applyAt
  repeat' first
    | with_reducible assumption | with_reducible apply State.setSyn_kept | with_reducible apply State.applyChange_kept
    | with_reducible apply Kept_ite | split | with_reducible intro _ _ _ | with_reducible intro _ _ | with_reducible intro _
    | dsimp only | with_reducible apply Kept_mk

theorem State.applyDue_kept {dm : Option (Tbl Byte)} {qs : List Instr} (s : State) (d : DueChange) (h_s : Kept none dm qs s) : Kept none dm qs
    (State.applyDue s d) := by
  unfold State.applyDue
  repeat' first
    | with_reducible assumption | with_reducible apply State.applyChange_kept | with_reducible apply State.applySteps_kept
    | with_reducible apply Kept_ite | with_reducible apply Kept_foldl | split | with_reducible intro _ _ _
    | with_reducible intro _ _ | with_reducible intro _ | dsimp only | with_reducible apply Kept_mk

theorem State.settleDue_kept {dm : Option (Tbl Byte)} {qs : List Instr} (s : State) (h_s : Kept none dm qs s) : Kept none dm qs (State.settleDue
    s) := by
  unfold State.settleDue
  repeat' first
    | with_reducible assumption | with_reducible apply State.applyDue_kept | with_reducible apply Kept_ite
    | with_reducible apply Kept_foldl | split | with_reducible intro _ _ _ | with_reducible intro _ _ | with_reducible intro _
    | dsimp only

theorem State.forceDue_kept {dm : Option (Tbl Byte)} {qs : List Instr} (s : State) (ctx m : Nat) (h_s : Kept none dm qs s) : Kept none dm qs
    (State.forceDue s ctx m) := by
  unfold State.forceDue
  repeat' first
    | with_reducible assumption | with_reducible apply State.applyDue_kept | with_reducible apply Kept_ite
    | with_reducible apply Kept_foldl | split | with_reducible intro _ _ _ | with_reducible intro _ _ | with_reducible intro _
    | dsimp only

theorem State.meetBoundary_kept {dm : Option (Tbl Byte)} {qs : List Instr} (s : State) (ctx m : Nat) (chs : List TableChange) (xs : List CalStep)
    (h_s : Kept none dm qs s) : Kept none dm qs (State.meetBoundary s ctx m chs xs) := by
  unfold State.meetBoundary
  repeat' first
    | with_reducible assumption | with_reducible apply State.applyAt_kept | with_reducible apply State.applySteps_kept
    | with_reducible apply State.settleDue_kept | with_reducible apply Kept_ite | with_reducible apply Kept_foldl | split
    | with_reducible intro _ _ _ | with_reducible intro _ _ | with_reducible intro _ | dsimp only
    | with_reducible apply Kept_mk

theorem State.crossLine_kept {hm : Option (Tbl Byte)} {dm : Option (Tbl Byte)} {qs : List Instr} (s : State) (ctx : Nat) (h_s : Kept hm dm qs s)
    : Kept hm dm qs (State.crossLine s ctx) := by
  unfold State.crossLine
  repeat' first
    | with_reducible assumption | with_reducible apply State.setCtx_kept | with_reducible apply Kept_ite | split
    | with_reducible intro _ _ _ | with_reducible intro _ _ | with_reducible intro _ | dsimp only
    | with_reducible apply Kept_mk

theorem State.deferAt_kept {dm : Option (Tbl Byte)} {qs : List Instr} (s : State) (ctx m : Nat) (h_s : Kept none dm qs s) : Kept none dm qs
    (State.deferAt s ctx m) := by
  unfold State.deferAt
  repeat' first
    | with_reducible assumption | with_reducible apply State.setCtx_kept | with_reducible apply State.markLine_kept
    | with_reducible apply State.raise_kept | with_reducible apply Kept_ite | split | with_reducible intro _ _ _
    | with_reducible intro _ _ | with_reducible intro _ | dsimp only | with_reducible apply Kept_mk

theorem State.closeBoundary_kept {dm : Option (Tbl Byte)} {qs : List Instr} (s : State) (ctx : Nat) (b : Nat × Bool) (h_s : Kept none dm qs s) :
    Kept none dm qs (State.closeBoundary s ctx b) := by
  unfold State.closeBoundary
  repeat' first
    | with_reducible assumption | with_reducible apply State.setCtx_kept | with_reducible apply State.deferAt_kept
    | with_reducible apply State.meetBoundary_kept | with_reducible apply Kept_ite | split | with_reducible intro _ _ _
    | with_reducible intro _ _ | with_reducible intro _ | dsimp only | with_reducible apply Kept_mk

theorem State.closeTo_kept {dm : Option (Tbl Byte)} {qs : List Instr} (s : State) (ctx n : Nat) (h_s : Kept none dm qs s) : Kept none dm qs
    (State.closeTo s ctx n) := by
  unfold State.closeTo
  repeat' first
    | with_reducible assumption | with_reducible apply State.closeBoundary_kept | with_reducible apply Kept_ite
    | with_reducible apply Kept_foldl | split | with_reducible intro _ _ _ | with_reducible intro _ _ | with_reducible intro _
    | dsimp only

theorem State.meetLayers_kept {dm : Option (Tbl Byte)} {qs : List Instr} (s : State) (ctx : Nat) (p : Page) (h_s : Kept none dm qs s) : Kept none
    dm qs (State.meetLayers s ctx p) := by
  unfold State.meetLayers
  repeat' first
    | with_reducible assumption | with_reducible apply State.deferAt_kept | with_reducible apply State.setCtx_kept
    | with_reducible apply Kept_ite | split | with_reducible intro _ _ _ | with_reducible intro _ _ | with_reducible intro _
    | dsimp only | with_reducible apply Kept_mk

theorem State.beginPage_kept {dm : Option (Tbl Byte)} {qs : List Instr} (s : State) (ctx : Nat) (p : Page) (h_s : Kept none dm qs s) : Kept none
    dm qs (State.beginPage s ctx p) := by
  unfold State.beginPage
  repeat' first
    | with_reducible assumption | with_reducible apply State.meetLayers_kept | with_reducible apply State.setCtx_kept
    | with_reducible apply State.audit_kept | with_reducible apply Kept_ite | split | with_reducible intro _ _ _
    | with_reducible intro _ _ | with_reducible intro _ | dsimp only | with_reducible apply Kept_mk

theorem State.flushChanges_kept {dm : Option (Tbl Byte)} {qs : List Instr} (s : State) (ctx : Nat) (h_s : Kept none dm qs s) : Kept none dm qs
    (State.flushChanges s ctx) := by
  unfold State.flushChanges
  repeat' first
    | with_reducible assumption | with_reducible apply State.applyDue_kept | with_reducible apply State.applyChange_kept
    | with_reducible apply Kept_ite | with_reducible apply Kept_foldl | split | with_reducible intro _ _ _
    | with_reducible intro _ _ | with_reducible intro _ | dsimp only | with_reducible apply Kept_mk

theorem State.giveBack_kept {dm : Option (Tbl Byte)} {qs : List Instr} (s : State) (g : Nat) (ch : SynChange) (h_s : Kept none dm qs s) : Kept
    none dm qs (State.giveBack s g ch) := by
  unfold State.giveBack
  repeat' first
    | with_reducible assumption | with_reducible apply State.applySyn_kept | with_reducible apply Kept_ite | split
    | with_reducible intro _ _ _ | with_reducible intro _ _ | with_reducible intro _ | dsimp only
    | with_reducible apply Kept_mk

theorem State.releaseLanes_kept {dm : Option (Tbl Byte)} {qs : List Instr} (s : State) (ctx : Nat) (h_s : Kept none dm qs s) : Kept none dm qs
    (State.releaseLanes s ctx) := by
  unfold State.releaseLanes
  repeat' first
    | with_reducible assumption | with_reducible apply State.setHead_kept | with_reducible apply State.setSyn_kept
    | with_reducible apply State.wr_kept | with_reducible apply State.giveBack_kept | with_reducible apply Kept_ite
    | with_reducible apply Kept_foldl | split | with_reducible intro _ _ _ | with_reducible intro _ _ | with_reducible intro _
    | dsimp only | with_reducible apply Kept_mk

theorem State.endContext_kept {dm : Option (Tbl Byte)} {qs : List Instr} (s : State) (ctx : Nat) (abort : Bool) (dest : CtxState) (h_s : Kept
    none dm qs s) : Kept none dm qs (State.endContext s ctx abort dest) := by
  unfold State.endContext
  repeat' first
    | with_reducible assumption | with_reducible apply State.completePage_kept | with_reducible apply State.releaseLanes_kept
    | with_reducible apply State.setCtx_kept | with_reducible apply State.flushChanges_kept
    | with_reducible apply State.complete_kept | with_reducible apply Kept_ite | with_reducible apply Kept_foldl | split
    | with_reducible intro _ _ _ | with_reducible intro _ _ | with_reducible intro _ | dsimp only
    | with_reducible apply Kept_mk

theorem State.abortRaster_kept {dm : Option (Tbl Byte)} {qs : List Instr} (s : State) (n : Node) (h_s : Kept none dm qs s) : Kept none dm qs
    (State.abortRaster s n) := by
  unfold State.abortRaster
  repeat' first
    | with_reducible assumption | with_reducible apply State.endContext_kept | with_reducible apply Kept_ite
    | with_reducible apply Kept_foldl | split | with_reducible intro _ _ _ | with_reducible intro _ _ | with_reducible intro _
    | dsimp only

theorem State.faultRaster_kept {dm : Option (Tbl Byte)} {qs : List Instr} (s : State) (n : Node) (code : Nat) (h_s : Kept none dm qs s) : Kept
    none dm qs (State.faultRaster s n code) := by
  unfold State.faultRaster
  repeat' first
    | with_reducible assumption | with_reducible apply State.endContext_kept | with_reducible apply State.setCtx_kept
    | with_reducible apply Kept_ite | with_reducible apply Kept_foldl | split | with_reducible intro _ _ _
    | with_reducible intro _ _ | with_reducible intro _ | dsimp only | with_reducible apply Kept_mk

theorem State.drainRaster_kept {hm : Option (Tbl Byte)} {dm : Option (Tbl Byte)} {qs : List Instr} (s : State) (n : Node) (h_s : Kept hm dm qs s)
    : Kept hm dm qs (State.drainRaster s n) := by
  unfold State.drainRaster
  repeat' first
    | with_reducible assumption | with_reducible apply State.setCtx_kept | with_reducible apply Kept_ite
    | with_reducible apply Kept_foldl | split | with_reducible intro _ _ _ | with_reducible intro _ _ | with_reducible intro _
    | dsimp only | with_reducible apply Kept_mk

theorem State.countEngine_kept {dm : Option (Tbl Byte)} {qs : List Instr} (s : State) (n : Node) (inB outB bales : Nat) (h_s : Kept none dm qs s)
    : Kept none dm qs (State.countEngine s n inB outB bales) := by
  unfold State.countEngine
  repeat' first
    | with_reducible assumption | with_reducible apply State.count_kept | with_reducible apply Kept_ite | split
    | with_reducible intro _ _ _ | with_reducible intro _ _ | with_reducible intro _ | dsimp only

theorem State.baleFailed_kept {dm : Option (Tbl Byte)} {qs : List Instr} (s : State) (n : Node) (st : Status) (addr len : Nat) (h_s : Kept none
    dm qs s) : Kept none dm qs (State.baleFailed s n st addr len) := by
  unfold State.baleFailed
  repeat' first
    | with_reducible assumption | with_reducible apply State.wr_kept | with_reducible apply State.count_kept
    | with_reducible apply State.usePoison_kept | with_reducible apply State.raise_kept | with_reducible apply Kept_ite
    | split | with_reducible intro _ _ _ | with_reducible intro _ _ | with_reducible intro _ | dsimp only
    | with_reducible apply Kept_mk

theorem State.saveHandle_kept {qs : List Instr} (s : State) (k : Nat) (h : Handle) (h_s : Kept none none qs s) : Kept none none qs
    (State.saveHandle s k h) := by
  unfold State.saveHandle
  repeat' first
    | with_reducible assumption | with_reducible apply State.dramWrite_kept | with_reducible apply State.setHandle_kept
    | with_reducible apply Kept_ite | split | with_reducible intro _ _ _ | with_reducible intro _ _ | with_reducible intro _
    | dsimp only | with_reducible apply Kept_mk

theorem State.finishDecode_kept {qs : List Instr} (s : State) (pk : Pk) (t : Fin 12) (start next remain : Nat) (cur : List Byte) (base had : Nat)
    (dst : Nat) (r : JobRes) (h_s : Kept none none qs s) : Kept none none qs (State.finishDecode s pk t start next remain cur base had dst r) :=
    by
  unfold State.finishDecode
  repeat' first
    | with_reducible assumption | with_reducible apply State.writeAt_kept | with_reducible apply State.countEngine_kept
    | with_reducible apply State.complete_kept | with_reducible apply State.saveHandle_kept
    | with_reducible apply State.raise_kept | with_reducible apply State.baleFailed_kept | with_reducible apply Kept_ite
    | split | with_reducible intro _ _ _ | with_reducible intro _ _ | with_reducible intro _ | dsimp only
    | with_reducible apply Kept_mk

theorem State.runDecode_kept {qs : List Instr} (s : State) (pk : Pk) (t : Fin 12) (src dst srcLen dstLen : Nat) (h_s : Kept none none qs s) :
    Kept none none qs (State.runDecode s pk t src dst srcLen dstLen) := by
  unfold State.runDecode
  repeat' first
    | with_reducible assumption | with_reducible apply State.touch_kept | with_reducible apply State.finishDecode_kept
    | with_reducible apply Kept_ite | split | with_reducible intro _ _ _ | with_reducible intro _ _ | with_reducible intro _
    | dsimp only

theorem State.runVerify_kept {dm : Option (Tbl Byte)} {qs : List Instr} (s : State) (pk : Pk) (t : Fin 12) (src srcLen : Nat) (h_s : Kept none dm
    qs s) : Kept none dm qs (State.runVerify s pk t src srcLen) := by
  unfold State.runVerify
  repeat' first
    | with_reducible assumption | with_reducible apply State.touch_kept | with_reducible apply State.countEngine_kept
    | with_reducible apply State.complete_kept | with_reducible apply State.baleFailed_kept | with_reducible apply Kept_ite
    | split | with_reducible intro _ _ _ | with_reducible intro _ _ | with_reducible intro _ | dsimp only
    | with_reducible apply Kept_mk

theorem State.runEncode_kept {qs : List Instr} (s : State) (pk : Pk) (c : Fin 4) (q : EncReq) (src srcLen bseq dst dstLen : Nat) (miscoded :
    Option Nat) (h_s : Kept none none qs s) : Kept none none qs (State.runEncode s pk c q src srcLen bseq dst dstLen miscoded) := by
  unfold State.runEncode
  repeat' first
    | with_reducible assumption | with_reducible apply State.usePoison_kept | with_reducible apply State.complete_kept
    | with_reducible apply State.touch_kept | with_reducible apply State.writeAt_kept
    | with_reducible apply State.countEngine_kept | with_reducible apply State.wr_kept | with_reducible apply State.count_kept
    | with_reducible apply State.raise_kept | with_reducible apply State.saveHandle_kept | with_reducible apply Kept_ite
    | split | with_reducible intro _ _ _ | with_reducible intro _ _ | with_reducible intro _ | dsimp only
    | with_reducible apply Kept_mk

theorem State.runResume_kept {qs : List Instr} (s : State) (pk : Pk) (k dst dstLen : Nat) (h_s : Kept none none qs s) : Kept none none qs
    (State.runResume s pk k dst dstLen) := by
  unfold State.runResume
  repeat' first
    | with_reducible assumption | with_reducible apply State.setHandle_kept | with_reducible apply State.usePoison_kept
    | with_reducible apply State.complete_kept | with_reducible apply State.runEncode_kept
    | with_reducible apply State.touch_kept | with_reducible apply State.finishDecode_kept | with_reducible apply Kept_ite
    | split | with_reducible intro _ _ _ | with_reducible intro _ _ | with_reducible intro _ | dsimp only
    | with_reducible apply Kept_mk

theorem State.runJob_kept {qs : List Instr} (s : State) (j : BaleJob) (h_s : Kept none none qs s) : Kept none none qs (State.runJob s j) := by
  unfold State.runJob
  repeat' first
    | with_reducible assumption | with_reducible apply State.runDecode_kept | with_reducible apply State.runVerify_kept
    | with_reducible apply State.runResume_kept | with_reducible apply State.runEncode_kept | with_reducible apply Kept_ite
    | split | with_reducible intro _ _ _ | with_reducible intro _ _ | with_reducible intro _ | dsimp only
    | with_reducible apply Kept_mk

theorem State.submitJob_kept {qs : List Instr} (s : State) (j : BaleJob) (h_s : Kept none none qs s) : Kept none none qs (State.submitJob s j) :=
    by
  unfold State.submitJob
  repeat' first
    | with_reducible assumption | with_reducible apply State.runJob_kept | with_reducible apply Kept_ite | split
    | with_reducible intro _ _ _ | with_reducible intro _ _ | with_reducible intro _ | dsimp only
    | with_reducible apply Kept_mk

theorem State.runWaiting_kept {qs : List Instr} (s : State) (h_s : Kept none none qs s) : Kept none none qs (State.runWaiting s) := by
  unfold State.runWaiting
  repeat' first
    | with_reducible assumption | with_reducible apply State.runJob_kept | with_reducible apply Kept_ite
    | with_reducible apply Kept_foldl | split | with_reducible intro _ _ _ | with_reducible intro _ _ | with_reducible intro _
    | dsimp only | with_reducible apply Kept_mk

theorem State.grantEntry_kept {dm : Option (Tbl Byte)} {qs : List Instr} (s : State) (ctx page k : Nat) (t : Fin 12) (h_s : Kept none dm qs s) :
    Kept none dm qs (State.grantEntry s ctx page k t) := by
  unfold State.grantEntry
  repeat' first
    | with_reducible assumption | with_reducible apply State.touch_kept | with_reducible apply State.setCtx_kept
    | with_reducible apply State.setHolder_kept | with_reducible apply State.countEngine_kept
    | with_reducible apply State.audit_kept | with_reducible apply State.count_kept | with_reducible apply State.raise_kept
    | with_reducible apply State.baleFailed_kept | with_reducible apply Kept_ite | split | with_reducible intro _ _ _
    | with_reducible intro _ _ | with_reducible intro _ | dsimp only | with_reducible apply Kept_mk

theorem State.grant_kept {qs : List Instr} (s : State) (h_s : Kept none none qs s) : Kept none none qs (State.grant s) := by
  unfold State.grant
  repeat' first
    | with_reducible assumption | with_reducible apply State.runWaiting_kept | with_reducible apply State.grantEntry_kept
    | with_reducible apply Kept_ite | with_reducible apply Kept_foldl | split | with_reducible intro _ _ _
    | with_reducible intro _ _ | with_reducible intro _ | dsimp only | with_reducible apply Kept_mk

theorem execBaleDecode_kept {qs : List Instr} (h : Hdr) (src dst srcLen dstLen : Nat) (s : State) (h_s : Kept none none qs s) : KeptO none none
    qs (execBaleDecode h src dst srcLen dstLen s) := by
  unfold execBaleDecode
  repeat' first
    | with_reducible assumption | with_reducible apply State.packet_kept | with_reducible apply State.submitJob_kept
    | with_reducible apply Kept_ite | with_reducible apply KeptO_next | with_reducible apply KeptO_ite | split
    | with_reducible intro _ _ _ | with_reducible intro _ _ | with_reducible intro _ | dsimp only

theorem execBaleEncode_kept {qs : List Instr} (h : Hdr) (src dst srcLen dstLen coding e flags layout : Nat) (miscoded : Option Nat) (s : State)
    (h_s : Kept none none qs s) : KeptO none none qs (execBaleEncode h src dst srcLen dstLen coding e flags layout miscoded s) := by
  unfold execBaleEncode
  repeat' first
    | with_reducible assumption | with_reducible apply State.packet_kept | with_reducible apply State.submitJob_kept
    | with_reducible apply Kept_ite | with_reducible apply KeptO_next | with_reducible apply KeptO_ite | split
    | with_reducible intro _ _ _ | with_reducible intro _ _ | with_reducible intro _ | dsimp only

theorem execBaleVerify_kept {qs : List Instr} (h : Hdr) (src srcLen : Nat) (s : State) (h_s : Kept none none qs s) : KeptO none none qs
    (execBaleVerify h src srcLen s) := by
  unfold execBaleVerify
  repeat' first
    | with_reducible assumption | with_reducible apply State.packet_kept | with_reducible apply State.submitJob_kept
    | with_reducible apply Kept_ite | with_reducible apply KeptO_next | with_reducible apply KeptO_ite | split
    | with_reducible intro _ _ _ | with_reducible intro _ _ | with_reducible intro _ | dsimp only

theorem execBaleResume_kept {qs : List Instr} (h : Hdr) (handle dst dstLen : Nat) (s : State) (h_s : Kept none none qs s) : KeptO none none qs
    (execBaleResume h handle dst dstLen s) := by
  unfold execBaleResume
  repeat' first
    | with_reducible assumption | with_reducible apply State.packet_kept | with_reducible apply State.setHandle_kept
    | with_reducible apply State.submitJob_kept | with_reducible apply Kept_ite | with_reducible apply KeptO_next
    | with_reducible apply KeptO_ite | split | with_reducible intro _ _ _ | with_reducible intro _ _ | with_reducible intro _
    | dsimp only | with_reducible apply Kept_mk

theorem execBaleDiscard_kept {dm : Option (Tbl Byte)} {qs : List Instr} (h : Hdr) (handle : Nat) (s : State) (h_s : Kept none dm qs s) : KeptO
    none dm qs (execBaleDiscard h handle s) := by
  unfold execBaleDiscard
  repeat' first
    | with_reducible assumption | with_reducible apply State.packet_kept | with_reducible apply State.setHandle_kept
    | with_reducible apply State.complete_kept | with_reducible apply Kept_ite | with_reducible apply KeptO_next
    | with_reducible apply KeptO_ite | split | with_reducible intro _ _ _ | with_reducible intro _ _ | with_reducible intro _
    | dsimp only | with_reducible apply Kept_mk

theorem execLayerSet_kept {dm : Option (Tbl Byte)} {qs : List Instr} (h : Hdr) (addr layer when' : Nat) (s : State) (h_s : Kept none dm qs s) :
    KeptO none dm qs (execLayerSet h addr layer when' s) := by
  unfold execLayerSet
  repeat' first
    | with_reducible assumption | with_reducible apply State.packetR_kept | with_reducible apply State.setCtx_kept
    | with_reducible apply State.complete_kept | with_reducible apply Kept_ite | with_reducible apply KeptO_next
    | with_reducible apply KeptO_ite | split | with_reducible intro _ _ _ | with_reducible intro _ _ | with_reducible intro _
    | dsimp only | with_reducible apply Kept_mk

theorem execColourSet_kept {dm : Option (Tbl Byte)} {qs : List Instr} (h : Hdr) (addr layer table when' : Nat) (s : State) (h_s : Kept none dm qs
    s) : KeptO none dm qs (execColourSet h addr layer table when' s) := by
  unfold execColourSet
  repeat' first
    | with_reducible assumption | with_reducible apply State.packetR_kept | with_reducible apply State.setCtx_kept
    | with_reducible apply State.complete_kept | with_reducible apply Kept_ite | with_reducible apply KeptO_next
    | with_reducible apply KeptO_ite | split | with_reducible intro _ _ _ | with_reducible intro _ _ | with_reducible intro _
    | dsimp only

theorem execPageSubmit_kept {dm : Option (Tbl Byte)} {qs : List Instr} (h : Hdr) (list entries length headland number : Nat) (s : State) (h_s :
    Kept none dm qs s) : KeptO none dm qs (execPageSubmit h list entries length headland number s) := by
  unfold execPageSubmit
  repeat' first
    | with_reducible assumption | with_reducible apply State.packetR_kept | with_reducible apply State.setCtx_kept
    | with_reducible apply Kept_ite | with_reducible apply KeptO_next | with_reducible apply KeptO_ite | split
    | with_reducible intro _ _ _ | with_reducible intro _ _ | with_reducible intro _ | dsimp only
    | with_reducible apply Kept_mk

theorem State.quarterRow_kept {qs : List Instr} (s : State) (ctx r : Nat) (vs : List Nat) (last : Bool) (h_s : Kept none none qs s) : Kept none
    none qs (State.quarterRow s ctx r vs last) := by
  unfold State.quarterRow
  repeat' first
    | with_reducible assumption | with_reducible apply State.setCtx_kept | with_reducible apply State.dramWrite_kept
    | with_reducible apply Kept_ite | split | with_reducible intro _ _ _ | with_reducible intro _ _ | with_reducible intro _
    | dsimp only | with_reducible apply Kept_mk

theorem State.freeHolders_kept {hm : Option (Tbl Byte)} {dm : Option (Tbl Byte)} {qs : List Instr} (s : State) (ctx : Nat) (p : Page) (ls : List
    Layer) (k : Nat) (last : Bool) (h_s : Kept hm dm qs s) : Kept hm dm qs (State.freeHolders s ctx p ls k last) := by
  unfold State.freeHolders
  repeat' first
    | with_reducible assumption | with_reducible apply State.setCtx_kept | with_reducible apply Kept_ite | split
    | with_reducible intro _ _ _ | with_reducible intro _ _ | with_reducible intro _ | dsimp only
    | with_reducible apply Kept_mk

theorem State.writeRow_kept {qs : List Instr} (s : State) (ctx : Nat) (p : Page) (ls : List Layer) (f : Nat) (blank poison : Bool) (h_s : Kept
    none none qs s) : Kept none none qs (State.writeRow s ctx p ls f blank poison) := by
  unfold State.writeRow
  repeat' first
    | with_reducible assumption | with_reducible apply State.dramWrite_kept | with_reducible apply State.quarterRow_kept
    | with_reducible apply State.wr_kept | with_reducible apply State.count_kept | with_reducible apply State.raise_kept
    | with_reducible apply State.setCtx_kept | with_reducible apply State.freeHolders_kept
    | with_reducible apply State.completePage_kept | with_reducible apply State.endContext_kept
    | with_reducible apply Kept_ite | split | with_reducible intro _ _ _ | with_reducible intro _ _ | with_reducible intro _
    | dsimp only | with_reducible apply Kept_mk

theorem State.composeRow_kept {qs : List Instr} (s : State) (ctx : Nat) (h_s : Kept none none qs s) : Kept none none qs (State.composeRow s ctx)
    := by
  unfold State.composeRow
  repeat' first
    | with_reducible assumption | with_reducible apply State.beginPage_kept | with_reducible apply State.writeRow_kept
    | with_reducible apply Kept_ite | split | with_reducible intro _ _ _ | with_reducible intro _ _ | with_reducible intro _
    | dsimp only | with_reducible apply Kept_mk

theorem execComposeRow_kept {qs : List Instr} (ctx : Nat) (s : State) (h_s : Kept none none qs s) : KeptO none none qs (execComposeRow ctx s) :=
    by
  unfold execComposeRow
  repeat' first
    | with_reducible assumption | with_reducible apply State.composeRow_kept | with_reducible apply Kept_ite
    | with_reducible apply KeptO_next | with_reducible apply KeptO_ite | split | with_reducible intro _ _ _
    | with_reducible intro _ _ | with_reducible intro _ | dsimp only

theorem execSiloCopy_kept {qs : List Instr} (h : Hdr) (first lines dst flags : Nat) (s : State) (h_s : Kept none none qs s) : KeptO none none qs
    (execSiloCopy h first lines dst flags s) := by
  unfold execSiloCopy
  repeat' first
    | with_reducible assumption | with_reducible apply State.packet_kept | with_reducible apply State.noteRead_kept
    | with_reducible apply State.writePoisoned_kept | with_reducible apply State.writeAt_kept
    | with_reducible apply State.usePoison_kept | with_reducible apply State.complete_kept | with_reducible apply Kept_ite
    | with_reducible apply KeptO_next | with_reducible apply KeptO_ite | with_reducible apply Kept_foldl | split
    | with_reducible intro _ _ _ | with_reducible intro _ _ | with_reducible intro _ | dsimp only
    | with_reducible apply Kept_mk

theorem State.mismatch_kept {dm : Option (Tbl Byte)} {qs : List Instr} (s : State) (ctx lane line : Nat) (localMarked peerMarked : Bool) (h_s :
    Kept none dm qs s) : Kept none dm qs (State.mismatch s ctx lane line localMarked peerMarked) := by
  unfold State.mismatch
  repeat' first
    | with_reducible assumption | with_reducible apply State.wrB_kept | with_reducible apply State.wr_kept
    | with_reducible apply State.count_kept | with_reducible apply State.raise_kept | with_reducible apply State.sendYoke_kept
    | with_reducible apply Kept_ite | split | with_reducible intro _ _ _ | with_reducible intro _ _ | with_reducible intro _
    | dsimp only | with_reducible apply Kept_mk

theorem State.compareCrc_kept {dm : Option (Tbl Byte)} {qs : List Instr} (s : State) (ctx lane line : Nat) (h_s : Kept none dm qs s) : Kept none
    dm qs (State.compareCrc s ctx lane line) := by
  unfold State.compareCrc
  repeat' first
    | with_reducible assumption | with_reducible apply State.mismatch_kept | with_reducible apply Kept_ite | split
    | with_reducible intro _ _ _ | with_reducible intro _ _ | with_reducible intro _ | dsimp only
    | with_reducible apply Kept_mk

theorem State.noteCrc_kept {dm : Option (Tbl Byte)} {qs : List Instr} (s : State) (ctx lane line : Nat) (c : CrcNote) (h_s : Kept none dm qs s) :
    Kept none dm qs (State.noteCrc s ctx lane line c) := by
  unfold State.noteCrc
  repeat' first
    | with_reducible assumption | with_reducible apply State.sendYoke_kept | with_reducible apply State.compareCrc_kept
    | with_reducible apply Kept_ite | split | with_reducible intro _ _ _ | with_reducible intro _ _ | with_reducible intro _
    | dsimp only | with_reducible apply Kept_mk

theorem State.crcDue_kept {dm : Option (Tbl Byte)} {qs : List Instr} (s : State) (lane line : Nat) (h_s : Kept none dm qs s) : Kept none dm qs
    (State.crcDue s lane line) := by
  unfold State.crcDue
  repeat' first
    | with_reducible assumption | with_reducible apply State.count_kept | with_reducible apply Kept_ite | split
    | with_reducible intro _ _ _ | with_reducible intro _ _ | with_reducible intro _ | dsimp only
    | with_reducible apply Kept_mk

theorem State.stepLost_kept {dm : Option (Tbl Byte)} {qs : List Instr} (s : State) (ctx line : Nat) (h_s : Kept none dm qs s) : Kept none dm qs
    (State.stepLost s ctx line) := by
  unfold State.stepLost
  repeat' first
    | with_reducible assumption | with_reducible apply State.count_kept | with_reducible apply State.mismatch_kept
    | with_reducible apply Kept_ite | with_reducible apply Kept_foldl | split | with_reducible intro _ _ _
    | with_reducible intro _ _ | with_reducible intro _ | dsimp only

theorem State.meet_kept {dm : Option (Tbl Byte)} {qs : List Instr} (s : State) (ctx line a b : Nat) (h_s : Kept none dm qs s) : Kept none dm qs
    (State.meet s ctx line a b) := by
  unfold State.meet
  repeat' first
    | with_reducible assumption | with_reducible apply State.stepLost_kept | with_reducible apply Kept_ite | split
    | with_reducible intro _ _ _ | with_reducible intro _ _ | with_reducible intro _ | dsimp only

theorem State.tokenTick_kept {dm : Option (Tbl Byte)} {qs : List Instr} (s : State) (ctx line global : Nat) (h_s : Kept none dm qs s) : Kept none
    dm qs (State.tokenTick s ctx line global) := by
  unfold State.tokenTick
  repeat' first
    | with_reducible assumption | with_reducible apply State.sendYoke_kept | with_reducible apply State.meet_kept
    | with_reducible apply Kept_ite | split | with_reducible intro _ _ _ | with_reducible intro _ _ | with_reducible intro _
    | dsimp only | with_reducible apply Kept_mk

theorem State.sendCtl_kept {hm : Option (Tbl Byte)} {dm : Option (Tbl Byte)} {qs : List Instr} (s : State) (lane body : Nat) (h_s : Kept hm dm qs
    s) : Kept hm dm qs (State.sendCtl s lane body) := by
  unfold State.sendCtl
  repeat' first
    | with_reducible assumption | with_reducible apply State.put_kept | with_reducible apply Kept_ite | split
    | with_reducible intro _ _ _ | with_reducible intro _ _ | with_reducible intro _ | dsimp only

theorem State.sendWord_kept {hm : Option (Tbl Byte)} {dm : Option (Tbl Byte)} {qs : List Instr} (s : State) (lane k payload : Nat) (h_s : Kept hm
    dm qs s) : Kept hm dm qs (State.sendWord s lane k payload) := by
  unfold State.sendWord
  repeat' first
    | with_reducible assumption | with_reducible apply State.put_kept | with_reducible apply Kept_ite | split
    | with_reducible intro _ _ _ | with_reducible intro _ _ | with_reducible intro _ | dsimp only

theorem State.lateWords_kept {dm : Option (Tbl Byte)} {qs : List Instr} (s : State) (ctx lane line : Nat) (ks : List Nat) (h_s : Kept none dm qs
    s) : Kept none dm qs (State.lateWords s ctx lane line ks) := by
  unfold State.lateWords
  repeat' first
    | with_reducible assumption | with_reducible apply State.count_kept | with_reducible apply State.raise_kept
    | with_reducible apply State.markLine_kept | with_reducible apply Kept_ite | with_reducible apply Kept_foldl | split
    | with_reducible intro _ _ _ | with_reducible intro _ _ | with_reducible intro _ | dsimp only

theorem State.addTally_kept {hm : Option (Tbl Byte)} {dm : Option (Tbl Byte)} {qs : List Instr} (s : State) (lane b global : Nat) (ws : List (Nat
    × Nat)) (h_s : Kept hm dm qs s) : Kept hm dm qs (State.addTally s lane b global ws) := by
  unfold State.addTally
  repeat' first
    | with_reducible assumption | with_reducible apply State.setHead_kept | with_reducible apply Kept_ite
    | with_reducible apply Kept_foldl | split | with_reducible intro _ _ _ | with_reducible intro _ _ | with_reducible intro _
    | dsimp only | with_reducible apply Kept_mk

theorem State.startGrid_kept {hm : Option (Tbl Byte)} {dm : Option (Tbl Byte)} {qs : List Instr} (s : State) (lane : Nat) (h_s : Kept hm dm qs s)
    : Kept hm dm qs (State.startGrid s lane) := by
  unfold State.startGrid
  repeat' first
    | with_reducible assumption | with_reducible apply State.draw_kept | with_reducible apply State.setHead_kept
    | with_reducible apply Kept_ite | split | with_reducible intro _ _ _ | with_reducible intro _ _ | with_reducible intro _
    | dsimp only | with_reducible apply Kept_mk

theorem State.useSlots_kept {hm : Option (Tbl Byte)} {dm : Option (Tbl Byte)} {qs : List Instr} (s : State) (lane n : Nat) (h_s : Kept hm dm qs
    s) : Kept hm dm qs (State.useSlots s lane n) := by
  unfold State.useSlots
  repeat' first
    | with_reducible assumption | with_reducible apply State.setHead_kept | with_reducible apply Kept_ite | split
    | with_reducible intro _ _ _ | with_reducible intro _ _ | with_reducible intro _ | dsimp only
    | with_reducible apply Kept_mk

theorem State.txIdle_kept {hm : Option (Tbl Byte)} {dm : Option (Tbl Byte)} {qs : List Instr} (s : State) (lane n : Nat) (h_s : Kept hm dm qs s)
    : Kept hm dm qs (State.txIdle s lane n) := by
  unfold State.txIdle
  repeat' first
    | with_reducible assumption | with_reducible apply State.put_kept | with_reducible apply State.setHead_kept
    | with_reducible apply Kept_ite | split | with_reducible intro _ _ _ | with_reducible intro _ _ | with_reducible intro _
    | dsimp only | with_reducible apply Kept_mk

theorem State.txPing_kept {hm : Option (Tbl Byte)} {dm : Option (Tbl Byte)} {qs : List Instr} (s : State) (lane : Nat) (pk : Option Nat) (h_s :
    Kept hm dm qs s) : Kept hm dm qs (State.txPing s lane pk) := by
  unfold State.txPing
  repeat' first
    | with_reducible assumption | with_reducible apply State.setHead_kept | with_reducible apply State.sendCtl_kept
    | with_reducible apply Kept_ite | split | with_reducible intro _ _ _ | with_reducible intro _ _ | with_reducible intro _
    | dsimp only | with_reducible apply Kept_mk

theorem State.markPlan_kept {hm : Option (Tbl Byte)} {dm : Option (Tbl Byte)} {qs : List Instr} (s : State) (lane : Nat) (p : FirePlan) (m : Nat)
    (h_s : Kept hm dm qs s) : Kept hm dm qs (State.markPlan s lane p m) := by
  unfold State.markPlan
  repeat' first
    | with_reducible assumption | with_reducible apply State.markLine_kept | with_reducible apply Kept_ite
    | with_reducible apply Kept_foldl | split | with_reducible intro _ _ _ | with_reducible intro _ _ | with_reducible intro _
    | dsimp only

theorem State.markHeads_kept {hm : Option (Tbl Byte)} {dm : Option (Tbl Byte)} {qs : List Instr} (s : State) (lane g : Nat) (p : FirePlan) (h_s :
    Kept hm dm qs s) : Kept hm dm qs (State.markHeads s lane g p) := by
  unfold State.markHeads
  repeat' first
    | with_reducible assumption | with_reducible apply State.markLine_kept | with_reducible apply Kept_ite
    | with_reducible apply Kept_foldl | split | with_reducible intro _ _ _ | with_reducible intro _ _ | with_reducible intro _
    | dsimp only

theorem State.dropPlan_kept {hm : Option (Tbl Byte)} {dm : Option (Tbl Byte)} {qs : List Instr} (s : State) (lane : Nat) (p : FirePlan) (h_s :
    Kept hm dm qs s) : Kept hm dm qs (State.dropPlan s lane p) := by
  unfold State.dropPlan
  repeat' first
    | with_reducible assumption | with_reducible apply State.setHead_kept | with_reducible apply Kept_ite | split
    | with_reducible intro _ _ _ | with_reducible intro _ _ | with_reducible intro _ | dsimp only
    | with_reducible apply Kept_mk

theorem State.txFire_kept {hm : Option (Tbl Byte)} {dm : Option (Tbl Byte)} {qs : List Instr} (s : State) (lane : Nat) (p : FirePlan) (at' : Nat)
    (h_s : Kept hm dm qs s) : Kept hm dm qs (State.txFire s lane p at') := by
  unfold State.txFire
  repeat' first
    | with_reducible assumption | with_reducible apply State.dropPlan_kept | with_reducible apply State.setHead_kept
    | with_reducible apply State.markPlan_kept | with_reducible apply State.markHeads_kept
    | with_reducible apply State.sendCtl_kept | with_reducible apply State.useSlots_kept | with_reducible apply Kept_ite
    | split | with_reducible intro _ _ _ | with_reducible intro _ _ | with_reducible intro _ | dsimp only
    | with_reducible apply Kept_mk

theorem State.txOrder_kept {hm : Option (Tbl Byte)} {dm : Option (Tbl Byte)} {qs : List Instr} (s : State) (lane head : Nat) (h_s : Kept hm dm qs
    s) : Kept hm dm qs (State.txOrder s lane head) := by
  unfold State.txOrder
  repeat' first
    | with_reducible assumption | with_reducible apply State.setHead_kept | with_reducible apply State.sendCtl_kept
    | with_reducible apply State.useSlots_kept | with_reducible apply Kept_ite | split | with_reducible intro _ _ _
    | with_reducible intro _ _ | with_reducible intro _ | dsimp only | with_reducible apply Kept_mk

theorem State.markPositions_kept {hm : Option (Tbl Byte)} {dm : Option (Tbl Byte)} {qs : List Instr} (s : State) (ctx lane line lo n m : Nat)
    (h_s : Kept hm dm qs s) : Kept hm dm qs (State.markPositions s ctx lane line lo n m) := by
  unfold State.markPositions
  repeat' first
    | with_reducible assumption | with_reducible apply State.markLine_kept | with_reducible apply Kept_ite
    | with_reducible apply Kept_foldl | split | with_reducible intro _ _ _ | with_reducible intro _ _ | with_reducible intro _
    | dsimp only

theorem State.lateMap_kept {dm : Option (Tbl Byte)} {qs : List Instr} (s : State) (ctx lane line at' lo n : Nat) (h_s : Kept none dm qs s) : Kept
    none dm qs (State.lateMap s ctx lane line at' lo n) := by
  unfold State.lateMap
  repeat' first
    | with_reducible assumption | with_reducible apply State.count_kept | with_reducible apply State.raise_kept
    | with_reducible apply State.markPositions_kept | with_reducible apply Kept_ite | with_reducible apply Kept_foldl | split
    | with_reducible intro _ _ _ | with_reducible intro _ _ | with_reducible intro _ | dsimp only

theorem State.txMapWord_kept {dm : Option (Tbl Byte)} {qs : List Instr} (s : State) (ctx lane line at' k word : Nat) (h_s : Kept none dm qs s) :
    Kept none dm qs (State.txMapWord s ctx lane line at' k word) := by
  unfold State.txMapWord
  repeat' first
    | with_reducible assumption | with_reducible apply State.sendWord_kept | with_reducible apply State.lateMap_kept
    | with_reducible apply Kept_ite | split | with_reducible intro _ _ _ | with_reducible intro _ _ | with_reducible intro _
    | dsimp only

theorem State.txMapWords_kept {dm : Option (Tbl Byte)} {qs : List Instr} (s : State) (ctx lane line at' k : Nat) (ws : List Nat) (h_s : Kept none
    dm qs s) : Kept none dm qs (State.txMapWords s ctx lane line at' k ws) := by
  unfold State.txMapWords
  repeat' first
    | with_reducible assumption | with_reducible apply State.txMapWord_kept | with_reducible apply State.useSlots_kept
    | with_reducible apply Kept_ite | with_reducible apply Kept_foldl | split | with_reducible intro _ _ _
    | with_reducible intro _ _ | with_reducible intro _ | dsimp only

theorem State.setReplay_kept {hm : Option (Tbl Byte)} {dm : Option (Tbl Byte)} {qs : List Instr} (s : State) (lane : Nat) (r x : Replay) (h_s :
    Kept hm dm qs s) : Kept hm dm qs (State.setReplay s lane r x) := by
  unfold State.setReplay
  repeat' first
    | with_reducible assumption | with_reducible apply State.setHead_kept | with_reducible apply Kept_ite | split
    | with_reducible intro _ _ _ | with_reducible intro _ _ | with_reducible intro _ | dsimp only
    | with_reducible apply Kept_mk

theorem State.endReplay_kept {hm : Option (Tbl Byte)} {dm : Option (Tbl Byte)} {qs : List Instr} (s : State) (lane : Nat) (r : Replay) (h_s :
    Kept hm dm qs s) : Kept hm dm qs (State.endReplay s lane r) := by
  unfold State.endReplay
  repeat' first
    | with_reducible assumption | with_reducible apply State.setHead_kept | with_reducible apply Kept_ite | split
    | with_reducible intro _ _ _ | with_reducible intro _ _ | with_reducible intro _ | dsimp only
    | with_reducible apply Kept_mk

theorem State.txReplay_kept {dm : Option (Tbl Byte)} {qs : List Instr} (s : State) (lane : Nat) (r : Replay) (n : Nat) (h_s : Kept none dm qs s)
    : Kept none dm qs (State.txReplay s lane r n) := by
  unfold State.txReplay
  repeat' first
    | with_reducible assumption | with_reducible apply State.endReplay_kept | with_reducible apply State.lateWords_kept
    | with_reducible apply State.setReplay_kept | with_reducible apply State.sendCtl_kept
    | with_reducible apply State.lateMap_kept | with_reducible apply State.useSlots_kept
    | with_reducible apply State.txMapWords_kept | with_reducible apply State.sendWord_kept
    | with_reducible apply State.count_kept | with_reducible apply Kept_ite | with_reducible apply Kept_foldl | split
    | with_reducible intro _ _ _ | with_reducible intro _ _ | with_reducible intro _ | dsimp only
    | with_reducible apply Kept_mk

theorem State.txMap_kept {dm : Option (Tbl Byte)} {qs : List Instr} (s : State) (ctx lane : Nat) (m : MapUpdate) (n : Nat) (h_s : Kept none dm qs
    s) : Kept none dm qs (State.txMap s ctx lane m n) := by
  unfold State.txMap
  repeat' first
    | with_reducible assumption | with_reducible apply State.setHead_kept | with_reducible apply State.sendCtl_kept
    | with_reducible apply State.lateMap_kept | with_reducible apply State.useSlots_kept
    | with_reducible apply State.txMapWords_kept | with_reducible apply Kept_ite | split | with_reducible intro _ _ _
    | with_reducible intro _ _ | with_reducible intro _ | dsimp only | with_reducible apply Kept_mk

theorem State.endSwath_kept {hm : Option (Tbl Byte)} {dm : Option (Tbl Byte)} {qs : List Instr} (s : State) (lane : Nat) (h_s : Kept hm dm qs s)
    : Kept hm dm qs (State.endSwath s lane) := by
  unfold State.endSwath
  repeat' first
    | with_reducible assumption | with_reducible apply State.setHead_kept | with_reducible apply Kept_ite | split
    | with_reducible intro _ _ _ | with_reducible intro _ _ | with_reducible intro _ | dsimp only
    | with_reducible apply Kept_mk

theorem State.openSwath_kept {dm : Option (Tbl Byte)} {qs : List Instr} (s : State) (lane : Nat) (l : LoftLine) (h_s : Kept none dm qs s) : Kept
    none dm qs (State.openSwath s lane l) := by
  unfold State.openSwath
  repeat' first
    | with_reducible assumption | with_reducible apply State.noteCrc_kept | with_reducible apply State.setHead_kept
    | with_reducible apply Kept_ite | split | with_reducible intro _ _ _ | with_reducible intro _ _ | with_reducible intro _
    | dsimp only | with_reducible apply Kept_mk

theorem State.txSwath_kept {dm : Option (Tbl Byte)} {qs : List Instr} (s : State) (lane : Nat) (l : LoftLine) (n : Nat) (h_s : Kept none dm qs s)
    : Kept none dm qs (State.txSwath s lane l n) := by
  unfold State.txSwath
  repeat' first
    | with_reducible assumption | with_reducible apply State.openSwath_kept | with_reducible apply State.setHead_kept
    | with_reducible apply State.sendCtl_kept | with_reducible apply State.useSlots_kept
    | with_reducible apply State.endSwath_kept | with_reducible apply State.lateWords_kept
    | with_reducible apply State.sendWord_kept | with_reducible apply State.addTally_kept | with_reducible apply Kept_ite
    | with_reducible apply Kept_foldl | split | with_reducible intro _ _ _ | with_reducible intro _ _ | with_reducible intro _
    | dsimp only | with_reducible apply Kept_mk

theorem State.txStep_kept {dm : Option (Tbl Byte)} {qs : List Instr} (s : State) (lane : Nat) (h_s : Kept none dm qs s) : Kept none dm qs
    (State.txStep s lane) := by
  unfold State.txStep
  repeat' first
    | with_reducible assumption | with_reducible apply State.txFire_kept | with_reducible apply State.txOrder_kept
    | with_reducible apply State.setHead_kept | with_reducible apply State.txPing_kept
    | with_reducible apply State.txIdle_kept | with_reducible apply State.txReplay_kept
    | with_reducible apply State.txMap_kept | with_reducible apply State.txSwath_kept | with_reducible apply Kept_ite | split
    | with_reducible intro _ _ _ | with_reducible intro _ _ | with_reducible intro _ | dsimp only
    | with_reducible apply Kept_mk

theorem State.txGo_kept {dm : Option (Tbl Byte)} {qs : List Instr} (lane : Nat) : ∀ (y0 : Nat) (y1 : State), Kept none dm qs y1 → Kept none dm qs (State.txGo lane y0 y1) := by
  intro k
  induction k with
  | zero => intro s h; exact h
  | succ k ih =>
    intro s h
    unfold State.txGo
    split
    · exact h
    · exact ih _ (State.txStep_kept _ _ h)

theorem State.txRun_kept {dm : Option (Tbl Byte)} {qs : List Instr} (s : State) (lane : Nat) (h_s : Kept none dm qs s) : Kept none dm qs
    (State.txRun s lane) := by
  unfold State.txRun
  repeat' first
    | with_reducible assumption | with_reducible apply State.txGo_kept | with_reducible apply State.txFire_kept
    | with_reducible apply Kept_ite | with_reducible apply Kept_foldl | split | with_reducible intro _ _ _
    | with_reducible intro _ _ | with_reducible intro _ | dsimp only

theorem State.runLanes_kept {dm : Option (Tbl Byte)} {qs : List Instr} (s : State) (h_s : Kept none dm qs s) : Kept none dm qs (State.runLanes s)
    := by
  unfold State.runLanes
  repeat' first
    | with_reducible assumption | with_reducible apply State.txRun_kept | with_reducible apply Kept_ite
    | with_reducible apply Kept_foldl | split | with_reducible intro _ _ _ | with_reducible intro _ _ | with_reducible intro _
    | dsimp only

theorem State.skipSwath_kept {dm : Option (Tbl Byte)} {qs : List Instr} (s : State) (lane : Nat) (l : LoftLine) (h_s : Kept none dm qs s) : Kept
    none dm qs (State.skipSwath s lane l) := by
  unfold State.skipSwath
  repeat' first
    | with_reducible assumption | with_reducible apply State.openSwath_kept | with_reducible apply State.endSwath_kept
    | with_reducible apply State.markLaneLine_kept | with_reducible apply Kept_ite | split | with_reducible intro _ _ _
    | with_reducible intro _ _ | with_reducible intro _ | dsimp only

theorem State.skipSwaths_kept {dm : Option (Tbl Byte)} {qs : List Instr} (lane : Nat) : ∀ (y0 : Nat) (y1 : State), Kept none dm qs y1 → Kept none dm qs (State.skipSwaths lane y0 y1) := by
  intro k
  induction k with
  | zero => intro s h; exact h
  | succ k ih =>
    intro s h
    unfold State.skipSwaths
    split
    · exact h
    · split
      · exact h
      · exact ih _ (State.skipSwath_kept _ _ _ h)

theorem State.pump_kept {dm : Option (Tbl Byte)} {qs : List Instr} (s : State) (lane : Nat) (h_s : Kept none dm qs s) : Kept none dm qs
    (State.pump s lane) := by
  unfold State.pump
  repeat' first
    | with_reducible assumption | with_reducible apply State.skipSwaths_kept | with_reducible apply State.txRun_kept
    | with_reducible apply Kept_ite | split | with_reducible intro _ _ _ | with_reducible intro _ _ | with_reducible intro _
    | dsimp only

theorem State.startSend_kept {dm : Option (Tbl Byte)} {qs : List Instr} (s : State) (lane line : Nat) (h_s : Kept none dm qs s) : Kept none dm qs
    (State.startSend s lane line) := by
  unfold State.startSend
  repeat' first
    | with_reducible assumption | with_reducible apply State.txRun_kept | with_reducible apply State.setHead_kept
    | with_reducible apply State.pump_kept | with_reducible apply Kept_ite | split | with_reducible intro _ _ _
    | with_reducible intro _ _ | with_reducible intro _ | dsimp only | with_reducible apply Kept_mk

theorem State.interrupt_kept {dm : Option (Tbl Byte)} {qs : List Instr} (s : State) (lane : Nat) (h_s : Kept none dm qs s) : Kept none dm qs
    (State.interrupt s lane) := by
  unfold State.interrupt
  repeat' first
    | with_reducible assumption | with_reducible apply State.txRun_kept | with_reducible apply State.setHead_kept
    | with_reducible apply State.skipSwath_kept | with_reducible apply Kept_ite | split | with_reducible intro _ _ _
    | with_reducible intro _ _ | with_reducible intro _ | dsimp only | with_reducible apply Kept_mk

theorem State.tableChange_kept {hm : Option (Tbl Byte)} {dm : Option (Tbl Byte)} {qs : List Instr} (s : State) (live : Bool) (when' : Nat) (ch :
    TableChange) (h_s : Kept hm dm qs s) : Kept hm dm qs (State.tableChange s live when' ch) := by
  unfold State.tableChange
  repeat' first
    | with_reducible assumption | with_reducible apply State.applyChange_kept | with_reducible apply Kept_ite | split
    | with_reducible intro _ _ _ | with_reducible intro _ _ | with_reducible intro _ | dsimp only
    | with_reducible apply Kept_mk

theorem State.recordCheck_kept {hm : Option (Tbl Byte)} {dm : Option (Tbl Byte)} {qs : List Instr} (s : State) (reason g : Nat) (h_s : Kept hm dm
    qs s) : Kept hm dm qs (State.recordCheck s reason g) := by
  unfold State.recordCheck
  repeat' first
    | with_reducible assumption | with_reducible apply State.wr_kept | with_reducible apply Kept_ite | split
    | with_reducible intro _ _ _ | with_reducible intro _ _ | with_reducible intro _ | dsimp only

theorem execNmapWrite_kept {dm : Option (Tbl Byte)} {qs : List Instr} (h : Hdr) (src first entries when' : Nat) (s : State) (h_s : Kept none dm
    qs s) : KeptO none dm qs (execNmapWrite h src first entries when' s) := by
  unfold execNmapWrite
  repeat' first
    | with_reducible assumption | with_reducible apply State.packetR_kept | with_reducible apply State.audit_kept
    | with_reducible apply State.recordCheck_kept | with_reducible apply State.complete_kept
    | with_reducible apply State.dropSteps_kept | with_reducible apply State.tableChange_kept | with_reducible apply Kept_ite
    | with_reducible apply KeptO_next | with_reducible apply KeptO_ite | with_reducible apply Kept_foldl | split
    | with_reducible intro _ _ _ | with_reducible intro _ _ | with_reducible intro _ | dsimp only
    | with_reducible apply Kept_mk

theorem execNmapRead_kept {qs : List Instr} (h : Hdr) (dst first entries : Nat) (s : State) (h_s : Kept none none qs s) : KeptO none none qs
    (execNmapRead h dst first entries s) := by
  unfold execNmapRead
  repeat' first
    | with_reducible assumption | with_reducible apply State.packet_kept | with_reducible apply State.writePoisoned_kept
    | with_reducible apply State.usePoison_kept | with_reducible apply State.complete_kept
    | with_reducible apply State.writeAt_kept | with_reducible apply Kept_ite | with_reducible apply KeptO_next
    | with_reducible apply KeptO_ite | split | with_reducible intro _ _ _ | with_reducible intro _ _ | with_reducible intro _
    | dsimp only

theorem execNcalWrite_kept {dm : Option (Tbl Byte)} {qs : List Instr} (h : Hdr) (src first entries when' : Nat) (s : State) (h_s : Kept none dm
    qs s) : KeptO none dm qs (execNcalWrite h src first entries when' s) := by
  unfold execNcalWrite
  repeat' first
    | with_reducible assumption | with_reducible apply State.packetR_kept | with_reducible apply State.dropSteps_kept
    | with_reducible apply State.tableChange_kept | with_reducible apply State.complete_kept | with_reducible apply Kept_ite
    | with_reducible apply KeptO_next | with_reducible apply KeptO_ite | with_reducible apply Kept_foldl | split
    | with_reducible intro _ _ _ | with_reducible intro _ _ | with_reducible intro _ | dsimp only

theorem execThreshLoad_kept {dm : Option (Tbl Byte)} {qs : List Instr} (h : Hdr) (src array when' : Nat) (s : State) (h_s : Kept none dm qs s) :
    KeptO none dm qs (execThreshLoad h src array when' s) := by
  unfold execThreshLoad
  repeat' first
    | with_reducible assumption | with_reducible apply State.packetR_kept | with_reducible apply State.tableChange_kept
    | with_reducible apply State.complete_kept | with_reducible apply Kept_ite | with_reducible apply KeptO_next
    | with_reducible apply KeptO_ite | split | with_reducible intro _ _ _ | with_reducible intro _ _ | with_reducible intro _
    | dsimp only

theorem execLevelSet_kept {dm : Option (Tbl Byte)} {qs : List Instr} (h : Hdr) (src colour when' : Nat) (s : State) (h_s : Kept none dm qs s) :
    KeptO none dm qs (execLevelSet h src colour when' s) := by
  unfold execLevelSet
  repeat' first
    | with_reducible assumption | with_reducible apply State.packetR_kept | with_reducible apply State.tableChange_kept
    | with_reducible apply State.complete_kept | with_reducible apply Kept_ite | with_reducible apply KeptO_next
    | with_reducible apply KeptO_ite | split | with_reducible intro _ _ _ | with_reducible intro _ _ | with_reducible intro _
    | dsimp only

theorem State.markLines_kept {hm : Option (Tbl Byte)} {dm : Option (Tbl Byte)} {qs : List Instr} (s : State) (ctx : Nat) (ls : List Nat) (m :
    Nat) (h_s : Kept hm dm qs s) : Kept hm dm qs (State.markLines s ctx ls m) := by
  unfold State.markLines
  repeat' first
    | with_reducible assumption | with_reducible apply State.markLine_kept | with_reducible apply Kept_ite
    | with_reducible apply Kept_foldl | split | with_reducible intro _ _ _ | with_reducible intro _ _ | with_reducible intro _
    | dsimp only

theorem State.storeSwath_kept {dm : Option (Tbl Byte)} {qs : List Instr} (s : State) (ctx lane n : Nat) (sw : Swath) (h_s : Kept none dm qs s) :
    Kept none dm qs (State.storeSwath s ctx lane n sw) := by
  unfold State.storeSwath
  repeat' first
    | with_reducible assumption | with_reducible apply State.markLines_kept | with_reducible apply State.count_kept
    | with_reducible apply State.raise_kept | with_reducible apply State.usePoison_kept
    | with_reducible apply State.setHead_kept | with_reducible apply State.settleDue_kept
    | with_reducible apply State.pump_kept | with_reducible apply Kept_ite | split | with_reducible intro _ _ _
    | with_reducible intro _ _ | with_reducible intro _ | dsimp only | with_reducible apply Kept_mk

theorem State.fetchSeg_kept {dm : Option (Tbl Byte)} {qs : List Instr} (s : State) (ctx : Nat) (c : Ctx) (n : Nat) (k : Nat × Nat × Nat) (h_s :
    Kept none dm qs s) : Kept none dm qs (State.fetchSeg s ctx c n k) := by
  unfold State.fetchSeg
  repeat' first
    | with_reducible assumption | with_reducible apply State.noteRead_kept | with_reducible apply Kept_ite | split
    | with_reducible intro _ _ _ | with_reducible intro _ _ | with_reducible intro _ | dsimp only
    | with_reducible apply Kept_mk

theorem State.touchRows_kept {dm : Option (Tbl Byte)} {qs : List Instr} (s : State) (ctx lane n : Nat) (h_s : Kept none dm qs s) : Kept none dm
    qs (State.touchRows s ctx lane n) := by
  unfold State.touchRows
  repeat' first
    | with_reducible assumption | with_reducible apply State.noteRead_kept | with_reducible apply State.fetchSeg_kept
    | with_reducible apply Kept_ite | with_reducible apply Kept_foldl | split | with_reducible intro _ _ _
    | with_reducible intro _ _ | with_reducible intro _ | dsimp only

theorem State.finishSwath_kept {dm : Option (Tbl Byte)} {qs : List Instr} (s : State) (ctx lane n : Nat) (h_s : Kept none dm qs s) : Kept none dm
    qs (State.finishSwath s ctx lane n).1 := by
  unfold State.finishSwath
  repeat' first
    | with_reducible assumption | with_reducible apply State.markLines_kept | with_reducible apply State.storeSwath_kept
    | with_reducible apply State.touchRows_kept | with_reducible apply Kept_ite | split | with_reducible intro _ _ _
    | with_reducible intro _ _ | with_reducible intro _ | dsimp only | with_reducible apply Kept_mk

theorem State.shadowLine_kept {dm : Option (Tbl Byte)} {qs : List Instr} (s : State) (lane : Nat) (bad : Bool) (h_s : Kept none dm qs s) : Kept
    none dm qs (State.shadowLine s lane bad) := by
  unfold State.shadowLine
  repeat' first
    | with_reducible assumption | with_reducible apply State.count_kept | with_reducible apply State.setSlice_kept
    | with_reducible apply State.raise_kept | with_reducible apply Kept_ite | split | with_reducible intro _ _ _
    | with_reducible intro _ _ | with_reducible intro _ | dsimp only | with_reducible apply Kept_mk

theorem State.askPass_kept {hm : Option (Tbl Byte)} {dm : Option (Tbl Byte)} {qs : List Instr} (s : State) (ctx lane n : Nat) (h_s : Kept hm dm
    qs s) : Kept hm dm qs (State.askPass s ctx lane n) := by
  unfold State.askPass
  repeat' first
    | with_reducible assumption | with_reducible apply Kept_ite | split | with_reducible intro _ _ _
    | with_reducible intro _ _ | with_reducible intro _ | dsimp only | with_reducible apply Kept_mk

theorem State.freePass_kept {hm : Option (Tbl Byte)} {dm : Option (Tbl Byte)} {qs : List Instr} (s : State) (ctx lane n : Nat) (h_s : Kept hm dm
    qs s) : Kept hm dm qs (State.freePass s ctx lane n) := by
  unfold State.freePass
  repeat' first
    | with_reducible assumption | with_reducible apply State.setCtx_kept | with_reducible apply Kept_ite | split
    | with_reducible intro _ _ _ | with_reducible intro _ _ | with_reducible intro _ | dsimp only
    | with_reducible apply Kept_mk

theorem State.computeSwath_kept {dm : Option (Tbl Byte)} {qs : List Instr} (s : State) (lane : Nat) (shadowBad : Bool) (h_s : Kept none dm qs s)
    : Kept none dm qs (State.computeSwath s lane shadowBad) := by
  unfold State.computeSwath
  repeat' first
    | with_reducible assumption | with_reducible apply State.closeTo_kept | with_reducible apply State.finishSwath_kept
    | with_reducible apply State.askPass_kept | with_reducible apply State.touchRows_kept
    | with_reducible apply State.storeSwath_kept | with_reducible apply State.freePass_kept
    | with_reducible apply State.shadowLine_kept | with_reducible apply Kept_ite | split | with_reducible intro _ _ _
    | with_reducible intro _ _ | with_reducible intro _ | dsimp only | with_reducible apply Kept_mk

theorem execSwathCompute_kept {dm : Option (Tbl Byte)} {qs : List Instr} (lane : Fin 32) (shadowBad : Bool) (s : State) (h_s : Kept none dm qs s)
    : KeptO none dm qs (execSwathCompute lane shadowBad s) := by
  unfold execSwathCompute
  repeat' first
    | with_reducible assumption | with_reducible apply State.computeSwath_kept | with_reducible apply Kept_ite
    | with_reducible apply KeptO_next | with_reducible apply KeptO_ite | split | with_reducible intro _ _ _
    | with_reducible intro _ _ | with_reducible intro _ | dsimp only

theorem execSliceRotation_kept {hm : Option (Tbl Byte)} {dm : Option (Tbl Byte)} {qs : List Instr} (s : State) (h_s : Kept hm dm qs s) : KeptO hm
    dm qs (execSliceRotation s) := by
  unfold execSliceRotation
  repeat' first
    | with_reducible assumption | with_reducible apply State.setSlice_kept | with_reducible apply Kept_ite
    | with_reducible apply KeptO_next | with_reducible apply KeptO_ite | split | with_reducible intro _ _ _
    | with_reducible intro _ _ | with_reducible intro _ | dsimp only | with_reducible apply Kept_mk

theorem execShadowComplete_kept {dm : Option (Tbl Byte)} {qs : List Instr} (s : State) (h_s : Kept none dm qs s) : KeptO none dm qs
    (execShadowComplete s) := by
  unfold execShadowComplete
  repeat' first
    | with_reducible assumption | with_reducible apply State.setSlice_kept | with_reducible apply State.count_kept
    | with_reducible apply Kept_ite | with_reducible apply KeptO_next | with_reducible apply KeptO_ite | split
    | with_reducible intro _ _ _ | with_reducible intro _ _ | with_reducible intro _ | dsimp only
    | with_reducible apply Kept_mk

theorem State.assignSlices_kept {hm : Option (Tbl Byte)} {dm : Option (Tbl Byte)} {qs : List Instr} (s : State) (lanes : List Nat) (h_s : Kept hm
    dm qs s) : Kept hm dm qs (State.assignSlices s lanes) := by
  unfold State.assignSlices
  repeat' first
    | with_reducible assumption | with_reducible apply State.setSlice_kept | with_reducible apply Kept_ite
    | with_reducible apply Kept_foldl | split | with_reducible intro _ _ _ | with_reducible intro _ _ | with_reducible intro _
    | dsimp only | with_reducible apply Kept_mk

end Sys2Proof.Machine
end

