-- ==== Sys2Proof/Laws/KeptLanes.lean ====
section
/-!
SUPPORT. What lanes, encoders and compares keep: one lemma a definition, that it leaves the memories in canonical form and the queue as it is, and host memory
(`hm`) or DRAM (`dm`) as well where the lemma leaves them general.
-/

set_option linter.all false

namespace Sys2Proof.Machine

theorem State.spent_kept {hm : Option (Tbl Byte)} {dm : Option (Tbl Byte)} {qs : List Instr} (s : State) (l : LaneId) (h_s : Kept hm dm qs s) :
    Kept hm dm qs (State.spent s l) := by
  unfold State.spent
  repeat' first
    | with_reducible assumption | with_reducible apply State.setLane_kept | with_reducible apply State.put_kept
    | with_reducible apply Kept_ite | split | with_reducible intro _ _ _ | with_reducible intro _ _ | with_reducible intro _
    | dsimp only | with_reducible apply Kept_mk

theorem State.enterTrain_kept {hm : Option (Tbl Byte)} {dm : Option (Tbl Byte)} {qs : List Instr} (s : State) (l : LaneId) (st : Nat) (h_s : Kept
    hm dm qs s) : Kept hm dm qs (State.enterTrain s l st) := by
  unfold State.enterTrain
  repeat' first
    | with_reducible assumption | with_reducible apply State.spent_kept | with_reducible apply State.setLane_kept
    | with_reducible apply State.wr_kept | with_reducible apply Kept_ite | split | with_reducible intro _ _ _
    | with_reducible intro _ _ | with_reducible intro _ | dsimp only | with_reducible apply Kept_mk

theorem State.sendTrain_kept {hm : Option (Tbl Byte)} {dm : Option (Tbl Byte)} {qs : List Instr} (s : State) (l : LaneId) (msg : Nat) (h_s : Kept
    hm dm qs s) : Kept hm dm qs (State.sendTrain s l msg) := by
  unfold State.sendTrain
  repeat' first
    | with_reducible assumption | with_reducible apply State.spent_kept | with_reducible apply State.setLane_kept
    | with_reducible apply State.put_kept | with_reducible apply Kept_ite | split | with_reducible intro _ _ _
    | with_reducible intro _ _ | with_reducible intro _ | dsimp only | with_reducible apply Kept_mk

theorem State.finishTrainPks_kept {dm : Option (Tbl Byte)} {qs : List Instr} (s : State) (h_s : Kept none dm qs s) : Kept none dm qs
    (State.finishTrainPks s) := by
  unfold State.finishTrainPks
  repeat' first
    | with_reducible assumption | with_reducible apply State.complete_kept | with_reducible apply Kept_ite
    | with_reducible apply Kept_foldl | split | with_reducible intro _ _ _ | with_reducible intro _ _ | with_reducible intro _
    | dsimp only | with_reducible apply Kept_mk

theorem State.laneTrained_kept {dm : Option (Tbl Byte)} {qs : List Instr} (s : State) (l : LaneId) (up aborted : Bool) (h_s : Kept none dm qs s)
    : Kept none dm qs (State.laneTrained s l up aborted) := by
  unfold State.laneTrained
  repeat' first
    | with_reducible assumption | with_reducible apply State.finishTrainPks_kept | with_reducible apply Kept_ite | split
    | with_reducible intro _ _ _ | with_reducible intro _ _ | with_reducible intro _ | dsimp only
    | with_reducible apply Kept_mk

theorem State.stopCarrying_kept {dm : Option (Tbl Byte)} {qs : List Instr} (s : State) (l : LaneId) (h_s : Kept none dm qs s) : Kept none dm qs
    (State.stopCarrying s l) := by
  unfold State.stopCarrying
  repeat' first
    | with_reducible assumption | with_reducible apply State.interrupt_kept | with_reducible apply Kept_ite | split
    | with_reducible intro _ _ _ | with_reducible intro _ _ | with_reducible intro _ | dsimp only
    | with_reducible apply Kept_mk

theorem State.startTrain_kept {dm : Option (Tbl Byte)} {qs : List Instr} (s : State) (l : LaneId) (rate : Nat) (h_s : Kept none dm qs s) : Kept
    none dm qs (State.startTrain s l rate) := by
  unfold State.startTrain
  repeat' first
    | with_reducible assumption | with_reducible apply State.stopCarrying_kept | with_reducible apply State.enterTrain_kept
    | with_reducible apply State.wr_kept | with_reducible apply State.setLane_kept | with_reducible apply Kept_ite | split
    | with_reducible intro _ _ _ | with_reducible intro _ _ | with_reducible intro _ | dsimp only
    | with_reducible apply Kept_mk

theorem State.failTrain_kept {dm : Option (Tbl Byte)} {qs : List Instr} (s : State) (l : LaneId) (outcome : Nat) (h_s : Kept none dm qs s) : Kept
    none dm qs (State.failTrain s l outcome) := by
  unfold State.failTrain
  repeat' first
    | with_reducible assumption | with_reducible apply State.enterTrain_kept | with_reducible apply State.wr_kept
    | with_reducible apply State.count_kept | with_reducible apply State.raise_kept
    | with_reducible apply State.laneTrained_kept | with_reducible apply Kept_ite | split | with_reducible intro _ _ _
    | with_reducible intro _ _ | with_reducible intro _ | dsimp only

theorem State.upTrain_kept {dm : Option (Tbl Byte)} {qs : List Instr} (s : State) (l : LaneId) (h_s : Kept none dm qs s) : Kept none dm qs
    (State.upTrain s l) := by
  unfold State.upTrain
  repeat' first
    | with_reducible assumption | with_reducible apply State.enterTrain_kept | with_reducible apply State.wr_kept
    | with_reducible apply State.setLane_kept | with_reducible apply State.setHead_kept
    | with_reducible apply State.startGrid_kept | with_reducible apply State.raise_kept
    | with_reducible apply State.laneTrained_kept | with_reducible apply Kept_ite | split | with_reducible intro _ _ _
    | with_reducible intro _ _ | with_reducible intro _ | dsimp only | with_reducible apply Kept_mk

theorem State.abortTrain_kept {dm : Option (Tbl Byte)} {qs : List Instr} (s : State) (l : LaneId) (rate : Nat) (h_s : Kept none dm qs s) : Kept
    none dm qs (State.abortTrain s l rate) := by
  unfold State.abortTrain
  repeat' first
    | with_reducible assumption | with_reducible apply State.spent_kept | with_reducible apply State.puts_kept
    | with_reducible apply State.enterTrain_kept | with_reducible apply State.wr_kept | with_reducible apply State.count_kept
    | with_reducible apply State.raise_kept | with_reducible apply State.laneTrained_kept
    | with_reducible apply State.startTrain_kept | with_reducible apply Kept_ite | split | with_reducible intro _ _ _
    | with_reducible intro _ _ | with_reducible intro _ | dsimp only

theorem State.askTrain_kept {dm : Option (Tbl Byte)} {qs : List Instr} (s : State) (l : LaneId) (rate : Nat) (h_s : Kept none dm qs s) : Kept
    none dm qs (State.askTrain s l rate) := by
  unfold State.askTrain
  repeat' first
    | with_reducible assumption | with_reducible apply State.abortTrain_kept | with_reducible apply State.startTrain_kept
    | with_reducible apply Kept_ite | split | with_reducible intro _ _ _ | with_reducible intro _ _ | with_reducible intro _
    | dsimp only

theorem State.ownRequest_kept {hm : Option (Tbl Byte)} {dm : Option (Tbl Byte)} {qs : List Instr} (s : State) (l : LaneId) (h_s : Kept hm dm qs
    s) : Kept hm dm qs (State.ownRequest s l) := by
  unfold State.ownRequest
  repeat' first
    | with_reducible assumption | with_reducible apply State.setLane_kept | with_reducible apply State.sendTrain_kept
    | with_reducible apply Kept_ite | split | with_reducible intro _ _ _ | with_reducible intro _ _ | with_reducible intro _
    | dsimp only | with_reducible apply Kept_mk

theorem State.lockInTraining_kept {hm : Option (Tbl Byte)} {dm : Option (Tbl Byte)} {qs : List Instr} (s : State) (l : LaneId) (h_s : Kept hm dm
    qs s) : Kept hm dm qs (State.lockInTraining s l) := by
  unfold State.lockInTraining
  repeat' first
    | with_reducible assumption | with_reducible apply State.enterTrain_kept | with_reducible apply State.sendTrain_kept
    | with_reducible apply Kept_ite | split | with_reducible intro _ _ _ | with_reducible intro _ _ | with_reducible intro _
    | dsimp only

theorem State.applyTaps_kept {hm : Option (Tbl Byte)} {dm : Option (Tbl Byte)} {qs : List Instr} (s : State) (l : LaneId) (req rseq : Nat) (h_s :
    Kept hm dm qs s) : Kept hm dm qs (State.applyTaps s l req rseq) := by
  unfold State.applyTaps
  repeat' first
    | with_reducible assumption | with_reducible apply State.wr_kept | with_reducible apply State.enterTrain_kept
    | with_reducible apply State.setLane_kept | with_reducible apply State.sendTrain_kept | with_reducible apply Kept_ite
    | split | with_reducible intro _ _ _ | with_reducible intro _ _ | with_reducible intro _ | dsimp only
    | with_reducible apply Kept_mk

theorem State.noteHello_kept {hm : Option (Tbl Byte)} {dm : Option (Tbl Byte)} {qs : List Instr} (s : State) (l : LaneId) (body : Nat) (h_s :
    Kept hm dm qs s) : Kept hm dm qs (State.noteHello s l body) := by
  unfold State.noteHello
  repeat' first
    | with_reducible assumption | with_reducible apply State.setHead_kept | with_reducible apply State.wr_kept
    | with_reducible apply Kept_ite | split | with_reducible intro _ _ _ | with_reducible intro _ _ | with_reducible intro _
    | dsimp only | with_reducible apply Kept_mk

theorem State.recvHello_kept {dm : Option (Tbl Byte)} {qs : List Instr} (s : State) (l : LaneId) (body : Nat) (h_s : Kept none dm qs s) : Kept
    none dm qs (State.recvHello s l body) := by
  unfold State.recvHello
  repeat' first
    | with_reducible assumption | with_reducible apply State.noteHello_kept | with_reducible apply State.failTrain_kept
    | with_reducible apply State.setLane_kept | with_reducible apply State.enterTrain_kept
    | with_reducible apply State.sendTrain_kept | with_reducible apply State.ownRequest_kept | with_reducible apply Kept_ite
    | split | with_reducible intro _ _ _ | with_reducible intro _ _ | with_reducible intro _ | dsimp only
    | with_reducible apply Kept_mk

theorem State.recvAck_kept {hm : Option (Tbl Byte)} {dm : Option (Tbl Byte)} {qs : List Instr} (s : State) (l : LaneId) (body : Nat) (h_s : Kept
    hm dm qs s) : Kept hm dm qs (State.recvAck s l body) := by
  unfold State.recvAck
  repeat' first
    | with_reducible assumption | with_reducible apply State.setLane_kept | with_reducible apply State.ownRequest_kept
    | with_reducible apply Kept_ite | split | with_reducible intro _ _ _ | with_reducible intro _ _ | with_reducible intro _
    | dsimp only | with_reducible apply Kept_mk

theorem State.recvTune_kept {dm : Option (Tbl Byte)} {qs : List Instr} (s : State) (l : LaneId) (body : Nat) (h_s : Kept none dm qs s) : Kept
    none dm qs (State.recvTune s l body) := by
  unfold State.recvTune
  repeat' first
    | with_reducible assumption | with_reducible apply State.recvAck_kept | with_reducible apply State.applyTaps_kept
    | with_reducible apply State.upTrain_kept | with_reducible apply State.setLane_kept | with_reducible apply Kept_ite
    | split | with_reducible intro _ _ _ | with_reducible intro _ _ | with_reducible intro _ | dsimp only
    | with_reducible apply Kept_mk

theorem State.recvTrain_kept {dm : Option (Tbl Byte)} {qs : List Instr} (s : State) (l : LaneId) (body : Nat) (h_s : Kept none dm qs s) : Kept
    none dm qs (State.recvTrain s l body) := by
  unfold State.recvTrain
  repeat' first
    | with_reducible assumption | with_reducible apply State.recvHello_kept | with_reducible apply State.recvTune_kept
    | with_reducible apply State.failTrain_kept | with_reducible apply Kept_ite | split | with_reducible intro _ _ _
    | with_reducible intro _ _ | with_reducible intro _ | dsimp only | with_reducible apply Kept_mk

theorem execTuneCleanCount_kept {hm : Option (Tbl Byte)} {dm : Option (Tbl Byte)} {qs : List Instr} (l : LaneId) (s : State) (h_s : Kept hm dm qs
    s) : KeptO hm dm qs (execTuneCleanCount l s) := by
  unfold execTuneCleanCount
  repeat' first
    | with_reducible assumption | with_reducible apply State.advance_kept | with_reducible apply State.enterTrain_kept
    | with_reducible apply State.setLane_kept | with_reducible apply State.sendTrain_kept | with_reducible apply Kept_ite
    | with_reducible apply KeptO_next | with_reducible apply KeptO_ite | split | with_reducible intro _ _ _
    | with_reducible intro _ _ | with_reducible intro _ | dsimp only | with_reducible apply Kept_mk

theorem execTrainStateTimeout_kept {dm : Option (Tbl Byte)} {qs : List Instr} (l : LaneId) (s : State) (h_s : Kept none dm qs s) : KeptO none dm
    qs (execTrainStateTimeout l s) := by
  unfold execTrainStateTimeout
  repeat' first
    | with_reducible assumption | with_reducible apply State.advance_kept | with_reducible apply State.failTrain_kept
    | with_reducible apply Kept_ite | with_reducible apply KeptO_next | with_reducible apply KeptO_ite | split
    | with_reducible intro _ _ _ | with_reducible intro _ _ | with_reducible intro _ | dsimp only

theorem execTapRequestRetry_kept {dm : Option (Tbl Byte)} {qs : List Instr} (l : LaneId) (s : State) (h_s : Kept none dm qs s) : KeptO none dm qs
    (execTapRequestRetry l s) := by
  unfold execTapRequestRetry
  repeat' first
    | with_reducible assumption | with_reducible apply State.advance_kept | with_reducible apply State.failTrain_kept
    | with_reducible apply State.setLane_kept | with_reducible apply State.sendTrain_kept | with_reducible apply Kept_ite
    | with_reducible apply KeptO_next | with_reducible apply KeptO_ite | split | with_reducible intro _ _ _
    | with_reducible intro _ _ | with_reducible intro _ | dsimp only | with_reducible apply Kept_mk

theorem execTrainTExpiry_kept {dm : Option (Tbl Byte)} {qs : List Instr} (l : LaneId) (s : State) (h_s : Kept none dm qs s) : KeptO none dm qs
    (execTrainTExpiry l s) := by
  unfold execTrainTExpiry
  repeat' first
    | with_reducible assumption | with_reducible apply State.advance_kept | with_reducible apply State.failTrain_kept
    | with_reducible apply Kept_ite | with_reducible apply KeptO_next | with_reducible apply KeptO_ite | split
    | with_reducible intro _ _ _ | with_reducible intro _ _ | with_reducible intro _ | dsimp only

theorem State.writeStart_kept {dm : Option (Tbl Byte)} {qs : List Instr} (s : State) (l : LaneId) (h_s : Kept none dm qs s) : Kept none dm qs
    (State.writeStart s l) := by
  unfold State.writeStart
  repeat' first
    | with_reducible assumption | with_reducible apply State.askTrain_kept | with_reducible apply Kept_ite | split
    | with_reducible intro _ _ _ | with_reducible intro _ _ | with_reducible intro _ | dsimp only

theorem execLaneTrain_kept {dm : Option (Tbl Byte)} {qs : List Instr} (h : Hdr) (mask rate : Nat) (s : State) (h_s : Kept none dm qs s) : KeptO
    none dm qs (execLaneTrain h mask rate s) := by
  unfold execLaneTrain
  repeat' first
    | with_reducible assumption | with_reducible apply State.packet_kept | with_reducible apply State.askTrain_kept
    | with_reducible apply State.finishTrainPks_kept | with_reducible apply Kept_ite | with_reducible apply KeptO_next
    | with_reducible apply KeptO_ite | with_reducible apply Kept_foldl | split | with_reducible intro _ _ _
    | with_reducible intro _ _ | with_reducible intro _ | dsimp only | with_reducible apply Kept_mk

theorem State.planFire_kept {dm : Option (Tbl Byte)} {qs : List Instr} (s : State) (ctx g line global t : Nat) (h_s : Kept none dm qs s) : Kept
    none dm qs (State.planFire s ctx g line global t) := by
  unfold State.planFire
  repeat' first
    | with_reducible assumption | with_reducible apply State.txRun_kept | with_reducible apply State.setHead_kept
    | with_reducible apply Kept_ite | with_reducible apply Kept_foldl | split | with_reducible intro _ _ _
    | with_reducible intro _ _ | with_reducible intro _ | dsimp only | with_reducible apply Kept_mk

theorem execLineStartFire_kept {dm : Option (Tbl Byte)} {qs : List Instr} (lane : Fin 32) (group : Fin 32) (t : Nat) (s : State) (h_s : Kept none
    dm qs s) : KeptO none dm qs (execLineStartFire lane group t s) := by
  unfold execLineStartFire
  repeat' first
    | with_reducible assumption | with_reducible apply State.advance_kept | with_reducible apply State.txRun_kept
    | with_reducible apply Kept_ite | with_reducible apply KeptO_next | with_reducible apply KeptO_ite | split
    | with_reducible intro _ _ _ | with_reducible intro _ _ | with_reducible intro _ | dsimp only

theorem State.replayExhausted_kept {dm : Option (Tbl Byte)} {qs : List Instr} (s : State) (lane : Nat) (h_s : Kept none dm qs s) : Kept none dm
    qs (State.replayExhausted s lane) := by
  unfold State.replayExhausted
  repeat' first
    | with_reducible assumption | with_reducible apply State.faultNode_kept | with_reducible apply State.sendSeq_kept
    | with_reducible apply State.interrupt_kept | with_reducible apply State.setCtx_kept | with_reducible apply Kept_ite
    | split | with_reducible intro _ _ _ | with_reducible intro _ _ | with_reducible intro _ | dsimp only
    | with_reducible apply Kept_mk

theorem State.replayMap_kept {dm : Option (Tbl Byte)} {qs : List Instr} (s : State) (ctx lane line16 word count : Nat) (h_s : Kept none dm qs s)
    : Kept none dm qs (State.replayMap s ctx lane line16 word count) := by
  unfold State.replayMap
  repeat' first
    | with_reducible assumption | with_reducible apply State.count_kept | with_reducible apply State.markLaneLine_kept
    | with_reducible apply State.replayExhausted_kept | with_reducible apply State.put_kept
    | with_reducible apply State.setHead_kept | with_reducible apply State.txRun_kept | with_reducible apply Kept_ite
    | with_reducible apply Kept_foldl | split | with_reducible intro _ _ _ | with_reducible intro _ _ | with_reducible intro _
    | dsimp only | with_reducible apply Kept_mk

theorem State.replayWords_kept {dm : Option (Tbl Byte)} {qs : List Instr} (s : State) (lane : Nat) (l : LoftLine) (word count : Nat) (h_s : Kept
    none dm qs s) : Kept none dm qs (State.replayWords s lane l word count) := by
  unfold State.replayWords
  repeat' first
    | with_reducible assumption | with_reducible apply State.count_kept | with_reducible apply State.markLaneLine_kept
    | with_reducible apply State.replayExhausted_kept | with_reducible apply State.setHead_kept
    | with_reducible apply State.txRun_kept | with_reducible apply Kept_ite | with_reducible apply Kept_foldl | split
    | with_reducible intro _ _ _ | with_reducible intro _ _ | with_reducible intro _ | dsimp only
    | with_reducible apply Kept_mk

theorem State.recvNak_kept {dm : Option (Tbl Byte)} {qs : List Instr} (s : State) (lane body : Nat) (h_s : Kept none dm qs s) : Kept none dm qs
    (State.recvNak s lane body) := by
  unfold State.recvNak
  repeat' first
    | with_reducible assumption | with_reducible apply State.txRun_kept | with_reducible apply State.replayMap_kept
    | with_reducible apply State.replayWords_kept | with_reducible apply Kept_ite | split | with_reducible intro _ _ _
    | with_reducible intro _ _ | with_reducible intro _ | dsimp only | with_reducible apply Kept_mk

theorem State.markMissed_kept {hm : Option (Tbl Byte)} {dm : Option (Tbl Byte)} {qs : List Instr} (s : State) (lane last : Nat) (h_s : Kept hm dm
    qs s) : Kept hm dm qs (State.markMissed s lane last) := by
  unfold State.markMissed
  repeat' first
    | with_reducible assumption | with_reducible apply State.markLaneLine_kept | with_reducible apply Kept_ite
    | with_reducible apply Kept_foldl | split | with_reducible intro _ _ _ | with_reducible intro _ _ | with_reducible intro _
    | dsimp only | with_reducible apply Kept_mk

theorem State.recvStatus_kept {dm : Option (Tbl Byte)} {qs : List Instr} (s : State) (lane body t : Nat) (h_s : Kept none dm qs s) : Kept none dm
    qs (State.recvStatus s lane body t) := by
  unfold State.recvStatus
  repeat' first
    | with_reducible assumption | with_reducible apply State.advance_kept | with_reducible apply State.wr_kept
    | with_reducible apply State.count_kept | with_reducible apply State.markMissed_kept
    | with_reducible apply State.setHead_kept | with_reducible apply State.raiseIf_kept
    | with_reducible apply State.interrupt_kept | with_reducible apply State.raise_kept
    | with_reducible apply State.txRun_kept | with_reducible apply Kept_ite | split | with_reducible intro _ _ _
    | with_reducible intro _ _ | with_reducible intro _ | dsimp only | with_reducible apply Kept_mk

theorem execLaneTrafficResume_kept {dm : Option (Tbl Byte)} {qs : List Instr} (lane : Fin 32) (s : State) (h_s : Kept none dm qs s) : KeptO none
    dm qs (execLaneTrafficResume lane s) := by
  unfold execLaneTrafficResume
  repeat' first
    | with_reducible assumption | with_reducible apply State.advance_kept | with_reducible apply State.txRun_kept
    | with_reducible apply State.setHead_kept | with_reducible apply State.pump_kept | with_reducible apply Kept_ite
    | with_reducible apply KeptO_next | with_reducible apply KeptO_ite | split | with_reducible intro _ _ _
    | with_reducible intro _ _ | with_reducible intro _ | dsimp only | with_reducible apply Kept_mk

theorem State.sendPing_kept {hm : Option (Tbl Byte)} {dm : Option (Tbl Byte)} {qs : List Instr} (s : State) (lane t : Nat) (pk : Option Nat) (h_s
    : Kept hm dm qs s) : Kept hm dm qs (State.sendPing s lane t pk) := by
  unfold State.sendPing
  repeat' first
    | with_reducible assumption | with_reducible apply State.setHead_kept | with_reducible apply Kept_ite | split
    | with_reducible intro _ _ _ | with_reducible intro _ _ | with_reducible intro _ | dsimp only
    | with_reducible apply Kept_mk

theorem execPing_kept {dm : Option (Tbl Byte)} {qs : List Instr} (lane : Fin 32) (t : Nat) (s : State) (h_s : Kept none dm qs s) : KeptO none dm
    qs (execPing lane t s) := by
  unfold execPing
  repeat' first
    | with_reducible assumption | with_reducible apply State.advance_kept | with_reducible apply State.sendPing_kept
    | with_reducible apply State.txRun_kept | with_reducible apply Kept_ite | with_reducible apply KeptO_next
    | with_reducible apply KeptO_ite | split | with_reducible intro _ _ _ | with_reducible intro _ _ | with_reducible intro _
    | dsimp only

theorem State.latSample_kept {dm : Option (Tbl Byte)} {qs : List Instr} (s : State) (lane : Nat) (rtt : Int) (turn : Nat) (h_s : Kept none dm qs
    s) : Kept none dm qs (State.latSample s lane rtt turn) := by
  unfold State.latSample
  repeat' first
    | with_reducible assumption | with_reducible apply State.setHead_kept | with_reducible apply State.setLane_kept
    | with_reducible apply State.wrS_kept | with_reducible apply State.raiseIf_kept | with_reducible apply Kept_ite | split
    | with_reducible intro _ _ _ | with_reducible intro _ _ | with_reducible intro _ | dsimp only
    | with_reducible apply Kept_mk

theorem State.endLatency_kept {qs : List Instr} (s : State) (p : LatPk) (h_s : Kept none none qs s) : Kept none none qs (State.endLatency s p) :=
    by
  unfold State.endLatency
  repeat' first
    | with_reducible assumption | with_reducible apply State.writeAt_kept | with_reducible apply State.complete_kept
    | with_reducible apply Kept_ite | split | with_reducible intro _ _ _ | with_reducible intro _ _ | with_reducible intro _
    | dsimp only | with_reducible apply Kept_mk

theorem State.freshSample_kept {qs : List Instr} (s : State) (id lane : Nat) (h_s : Kept none none qs s) : Kept none none qs (State.freshSample s
    id lane) := by
  unfold State.freshSample
  repeat' first
    | with_reducible assumption | with_reducible apply State.endLatency_kept | with_reducible apply Kept_ite | split
    | with_reducible intro _ _ _ | with_reducible intro _ _ | with_reducible intro _ | dsimp only
    | with_reducible apply Kept_mk

theorem State.recvAlign_kept {qs : List Instr} (s : State) (lane body t : Nat) (h_s : Kept none none qs s) : Kept none none qs (State.recvAlign s
    lane body t) := by
  unfold State.recvAlign
  repeat' first
    | with_reducible assumption | with_reducible apply State.advance_kept | with_reducible apply State.setHead_kept
    | with_reducible apply State.latSample_kept | with_reducible apply State.freshSample_kept | with_reducible apply Kept_ite
    | split | with_reducible intro _ _ _ | with_reducible intro _ _ | with_reducible intro _ | dsimp only
    | with_reducible apply Kept_mk

theorem execLaneLatencyTimeout_kept {qs : List Instr} (s : State) (h_s : Kept none none qs s) : KeptO none none qs (execLaneLatencyTimeout s) :=
    by
  unfold execLaneLatencyTimeout
  repeat' first
    | with_reducible assumption | with_reducible apply State.endLatency_kept | with_reducible apply Kept_ite
    | with_reducible apply KeptO_next | with_reducible apply KeptO_ite | split | with_reducible intro _ _ _
    | with_reducible intro _ _ | with_reducible intro _ | dsimp only | with_reducible apply Kept_mk

theorem execLaneLatency_kept {dm : Option (Tbl Byte)} {qs : List Instr} (h : Hdr) (mask dst : Nat) (s : State) (h_s : Kept none dm qs s) : KeptO
    none dm qs (execLaneLatency h mask dst s) := by
  unfold execLaneLatency
  repeat' first
    | with_reducible assumption | with_reducible apply State.packet_kept | with_reducible apply State.complete_kept
    | with_reducible apply State.sendPing_kept | with_reducible apply State.txRun_kept | with_reducible apply Kept_ite
    | with_reducible apply KeptO_next | with_reducible apply KeptO_ite | with_reducible apply Kept_foldl | split
    | with_reducible intro _ _ _ | with_reducible intro _ _ | with_reducible intro _ | dsimp only
    | with_reducible apply Kept_mk

theorem execHubStatus_kept {qs : List Instr} (h : Hdr) (lane dst : Nat) (s : State) (h_s : Kept none none qs s) : KeptO none none qs
    (execHubStatus h lane dst s) := by
  unfold execHubStatus
  repeat' first
    | with_reducible assumption | with_reducible apply State.packet_kept | with_reducible apply State.writeAt_kept
    | with_reducible apply State.complete_kept | with_reducible apply Kept_ite | with_reducible apply KeptO_next
    | with_reducible apply KeptO_ite | split | with_reducible intro _ _ _ | with_reducible intro _ _ | with_reducible intro _
    | dsimp only

theorem State.encFault_kept {dm : Option (Tbl Byte)} {qs : List Instr} (s : State) (ch reason : Nat) (code : Status) (t : Nat) (h_s : Kept none
    dm qs s) : Kept none dm qs (State.encFault s ch reason code t) := by
  unfold State.encFault
  repeat' first
    | with_reducible assumption | with_reducible apply State.wr_kept | with_reducible apply State.raise_kept
    | with_reducible apply State.setEnc_kept | with_reducible apply State.complete_kept | with_reducible apply Kept_ite
    | split | with_reducible intro _ _ _ | with_reducible intro _ _ | with_reducible intro _ | dsimp only
    | with_reducible apply Kept_mk

theorem State.divDrain_kept {hm : Option (Tbl Byte)} {dm : Option (Tbl Byte)} {qs : List Instr} (s : State) (d t : Nat) (h_s : Kept hm dm qs s) : ∀ y0 : Nat, Kept hm dm qs (State.divDrain s d t y0) := by
  intro k
  induction k generalizing s with
  | zero => exact h_s
  | succ k ih =>
    unfold State.divDrain
    dsimp only
    split
    · exact h_s
    · split
      · exact h_s
      · exact ih _ (State.put_kept _ _ (State.setDiv_kept _ _ _ h_s))

theorem State.divMove_kept {dm : Option (Tbl Byte)} {qs : List Instr} (s : State) (d : Nat) (p0 p1 : Int) (t : Nat) (h_s : Kept none dm qs s) :
    Kept none dm qs (State.divMove s d p0 p1 t) := by
  unfold State.divMove
  repeat' first
    | with_reducible assumption | with_reducible apply State.divDrain_kept | with_reducible apply State.setDiv_kept
    | with_reducible apply State.count_kept | with_reducible apply State.raise_kept | with_reducible apply Kept_ite | split
    | with_reducible intro _ _ _ | with_reducible intro _ _ | with_reducible intro _ | dsimp only
    | with_reducible apply Kept_mk

theorem State.latchAfter_kept {hm : Option (Tbl Byte)} {dm : Option (Tbl Byte)} {qs : List Instr} (s : State) (ch : Nat) (pt : EncPt) (h_s : Kept
    hm dm qs s) : Kept hm dm qs (State.latchAfter s ch pt) := by
  unfold State.latchAfter
  repeat' first
    | with_reducible assumption | with_reducible apply State.setLatch_kept | with_reducible apply Kept_ite
    | with_reducible apply Kept_foldl | split | with_reducible intro _ _ _ | with_reducible intro _ _ | with_reducible intro _
    | dsimp only | with_reducible apply Kept_mk

theorem State.camAfter_kept {hm : Option (Tbl Byte)} {dm : Option (Tbl Byte)} {qs : List Instr} (s : State) (ch : Nat) (pt : EncPt) (h_s : Kept
    hm dm qs s) : Kept hm dm qs (State.camAfter s ch pt) := by
  unfold State.camAfter
  repeat' first
    | with_reducible assumption | with_reducible apply State.setCam_kept | with_reducible apply Kept_ite
    | with_reducible apply Kept_foldl | split | with_reducible intro _ _ _ | with_reducible intro _ _ | with_reducible intro _
    | dsimp only | with_reducible apply Kept_mk

theorem State.standstill_kept {hm : Option (Tbl Byte)} {dm : Option (Tbl Byte)} {qs : List Instr} (s : State) (ch t : Nat) (h_s : Kept hm dm qs
    s) : Kept hm dm qs (State.standstill s ch t) := by
  unfold State.standstill
  repeat' first
    | with_reducible assumption | with_reducible apply State.wr_kept | with_reducible apply State.setEnc_kept
    | with_reducible apply Kept_ite | split | with_reducible intro _ _ _ | with_reducible intro _ _ | with_reducible intro _
    | dsimp only | with_reducible apply Kept_mk

theorem State.reversal_kept {dm : Option (Tbl Byte)} {qs : List Instr} (s : State) (ch : Nat) (h_s : Kept none dm qs s) : Kept none dm qs
    (State.reversal s ch) := by
  unfold State.reversal
  repeat' first
    | with_reducible assumption | with_reducible apply State.wr_kept | with_reducible apply State.setEnc_kept
    | with_reducible apply State.count_kept | with_reducible apply State.raise_kept | with_reducible apply Kept_ite | split
    | with_reducible intro _ _ _ | with_reducible intro _ _ | with_reducible intro _ | dsimp only
    | with_reducible apply Kept_mk

theorem State.encEdge_kept {hm : Option (Tbl Byte)} {dm : Option (Tbl Byte)} {qs : List Instr} (s : State) (ch : Nat) (pt : EncPt) (dir : Int)
    (h_s : Kept hm dm qs s) : Kept hm dm qs (State.encEdge s ch pt dir) := by
  unfold State.encEdge
  repeat' first
    | with_reducible assumption | with_reducible apply State.wr_kept | with_reducible apply State.wrS_kept
    | with_reducible apply State.setEnc_kept | with_reducible apply Kept_ite | split | with_reducible intro _ _ _
    | with_reducible intro _ _ | with_reducible intro _ | dsimp only | with_reducible apply Kept_mk

theorem State.encMethod_kept {hm : Option (Tbl Byte)} {dm : Option (Tbl Byte)} {qs : List Instr} (s : State) (ch : Nat) (pt : EncPt) (h_s : Kept
    hm dm qs s) : Kept hm dm qs (State.encMethod s ch pt) := by
  unfold State.encMethod
  repeat' first
    | with_reducible assumption | with_reducible apply State.setEnc_kept | with_reducible apply State.wrB_kept
    | with_reducible apply Kept_ite | split | with_reducible intro _ _ _ | with_reducible intro _ _ | with_reducible intro _
    | dsimp only | with_reducible apply Kept_mk

theorem State.encMove_kept {dm : Option (Tbl Byte)} {qs : List Instr} (s : State) (ch : Nat) (pt : EncPt) (edges : List (EncPt × Int)) (h_s :
    Kept none dm qs s) : Kept none dm qs (State.encMove s ch pt edges) := by
  unfold State.encMove
  repeat' first
    | with_reducible assumption | with_reducible apply State.standstill_kept | with_reducible apply State.wrS_kept
    | with_reducible apply State.setEnc_kept | with_reducible apply State.reversal_kept
    | with_reducible apply State.encEdge_kept | with_reducible apply State.wr_kept | with_reducible apply State.encMethod_kept
    | with_reducible apply State.latchAfter_kept | with_reducible apply State.camAfter_kept
    | with_reducible apply State.divMove_kept | with_reducible apply Kept_ite | with_reducible apply Kept_foldl | split
    | with_reducible intro _ _ _ | with_reducible intro _ _ | with_reducible intro _ | dsimp only
    | with_reducible apply Kept_mk

theorem State.endWindow_kept {hm : Option (Tbl Byte)} {dm : Option (Tbl Byte)} {qs : List Instr} (s : State) (ch : Nat) (h_s : Kept hm dm qs s) :
    Kept hm dm qs (State.endWindow s ch) := by
  unfold State.endWindow
  repeat' first
    | with_reducible assumption | with_reducible apply State.wrS_kept | with_reducible apply State.setEnc_kept
    | with_reducible apply Kept_ite | split | with_reducible intro _ _ _ | with_reducible intro _ _ | with_reducible intro _
    | dsimp only | with_reducible apply Kept_mk

theorem State.encSample_kept {dm : Option (Tbl Byte)} {qs : List Instr} (s : State) (ch : Nat) (x c : Int) (t : Nat) (h_s : Kept none dm qs s) :
    Kept none dm qs (State.encSample s ch x c t) := by
  unfold State.encSample
  repeat' first
    | with_reducible assumption | with_reducible apply State.endWindow_kept | with_reducible apply State.setEnc_kept
    | with_reducible apply State.encFault_kept | with_reducible apply State.encMove_kept | with_reducible apply Kept_ite
    | split | with_reducible intro _ _ _ | with_reducible intro _ _ | with_reducible intro _ | dsimp only
    | with_reducible apply Kept_mk

theorem execEncoderSample_kept {dm : Option (Tbl Byte)} {qs : List Instr} (ch : Fin 4) (x c : Int) (t : Nat) (s : State) (h_s : Kept none dm qs
    s) : KeptO none dm qs (execEncoderSample ch x c t s) := by
  unfold execEncoderSample
  repeat' first
    | with_reducible assumption | with_reducible apply State.advance_kept | with_reducible apply State.encSample_kept
    | with_reducible apply Kept_ite | with_reducible apply KeptO_next | with_reducible apply KeptO_ite | split
    | with_reducible intro _ _ _ | with_reducible intro _ _ | with_reducible intro _ | dsimp only

theorem execLissajousWindow_kept {hm : Option (Tbl Byte)} {dm : Option (Tbl Byte)} {qs : List Instr} (ch : Fin 4) (s : State) (h_s : Kept hm dm
    qs s) : KeptO hm dm qs (execLissajousWindow ch s) := by
  unfold execLissajousWindow
  repeat' first
    | with_reducible assumption | with_reducible apply State.endWindow_kept | with_reducible apply Kept_ite
    | with_reducible apply KeptO_next | with_reducible apply KeptO_ite | split | with_reducible intro _ _ _
    | with_reducible intro _ _ | with_reducible intro _ | dsimp only

theorem State.quadrature_kept {dm : Option (Tbl Byte)} {qs : List Instr} (s : State) (ch : Nat) (a b : Bool) (t : Nat) (h_s : Kept none dm qs s)
    : Kept none dm qs (State.quadrature s ch a b t) := by
  unfold State.quadrature
  repeat' first
    | with_reducible assumption | with_reducible apply State.setEnc_kept | with_reducible apply State.encFault_kept
    | with_reducible apply State.encMove_kept | with_reducible apply Kept_ite | split | with_reducible intro _ _ _
    | with_reducible intro _ _ | with_reducible intro _ | dsimp only | with_reducible apply Kept_mk

theorem execQuadratureTransition_kept {dm : Option (Tbl Byte)} {qs : List Instr} (ch : Fin 4) (a b : Bool) (e : InEdge) (s : State) (h_s : Kept
    none dm qs s) : KeptO none dm qs (execQuadratureTransition ch a b e s) := by
  unfold execQuadratureTransition
  repeat' first
    | with_reducible assumption | with_reducible apply State.advance_kept | with_reducible apply State.quadrature_kept
    | with_reducible apply Kept_ite | with_reducible apply KeptO_next | with_reducible apply KeptO_ite | split
    | with_reducible intro _ _ _ | with_reducible intro _ _ | with_reducible intro _ | dsimp only

theorem State.discardRead_kept {dm : Option (Tbl Byte)} {qs : List Instr} (s : State) (ch : Nat) (size : Bool) (t : Nat) (h_s : Kept none dm qs
    s) : Kept none dm qs (State.discardRead s ch size t) := by
  unfold State.discardRead
  repeat' first
    | with_reducible assumption | with_reducible apply State.setEnc_kept | with_reducible apply State.count_kept
    | with_reducible apply State.encFault_kept | with_reducible apply Kept_ite | split | with_reducible intro _ _ _
    | with_reducible intro _ _ | with_reducible intro _ | dsimp only | with_reducible apply Kept_mk

theorem State.acceptRead_kept {dm : Option (Tbl Byte)} {qs : List Instr} (s : State) (ch raw t : Nat) (h_s : Kept none dm qs s) : Kept none dm qs
    (State.acceptRead s ch raw t) := by
  unfold State.acceptRead
  repeat' first
    | with_reducible assumption | with_reducible apply State.setEnc_kept | with_reducible apply State.wrS_kept
    | with_reducible apply State.latchAfter_kept | with_reducible apply State.discardRead_kept
    | with_reducible apply State.encMove_kept | with_reducible apply Kept_ite | split | with_reducible intro _ _ _
    | with_reducible intro _ _ | with_reducible intro _ | dsimp only | with_reducible apply Kept_mk

theorem State.bissRead_kept {dm : Option (Tbl Byte)} {qs : List Instr} (s : State) (ch pos : Nat) (nE nW : Bool) (crc : Nat) (start : Bool) (t :
    Nat) (h_s : Kept none dm qs s) : Kept none dm qs (State.bissRead s ch pos nE nW crc start t) := by
  unfold State.bissRead
  repeat' first
    | with_reducible assumption | with_reducible apply State.discardRead_kept | with_reducible apply State.wrB_kept
    | with_reducible apply State.acceptRead_kept | with_reducible apply State.count_kept
    | with_reducible apply State.encFault_kept | with_reducible apply Kept_ite | split | with_reducible intro _ _ _
    | with_reducible intro _ _ | with_reducible intro _ | dsimp only

theorem execBissRead_kept {dm : Option (Tbl Byte)} {qs : List Instr} (ch : Fin 4) (pos : Nat) (nE nW : Bool) (crc : Nat) (start : Bool) (t : Nat)
    (s : State) (h_s : Kept none dm qs s) : KeptO none dm qs (execBissRead ch pos nE nW crc start t s) := by
  unfold execBissRead
  repeat' first
    | with_reducible assumption | with_reducible apply State.advance_kept | with_reducible apply State.bissRead_kept
    | with_reducible apply Kept_ite | with_reducible apply KeptO_next | with_reducible apply KeptO_ite | split
    | with_reducible intro _ _ _ | with_reducible intro _ _ | with_reducible intro _ | dsimp only

theorem execSsiRead_kept {dm : Option (Tbl Byte)} {qs : List Instr} (ch : Fin 4) (raw t : Nat) (s : State) (h_s : Kept none dm qs s) : KeptO none
    dm qs (execSsiRead ch raw t s) := by
  unfold execSsiRead
  repeat' first
    | with_reducible assumption | with_reducible apply State.advance_kept | with_reducible apply State.acceptRead_kept
    | with_reducible apply Kept_ite | with_reducible apply KeptO_next | with_reducible apply KeptO_ite | split
    | with_reducible intro _ _ _ | with_reducible intro _ _ | with_reducible intro _ | dsimp only

theorem execIndexEdge_kept {dm : Option (Tbl Byte)} {qs : List Instr} (z : ZEdge) (s : State) (h_s : Kept none dm qs s) : KeptO none dm qs
    (execIndexEdge z s) := by
  unfold execIndexEdge
  repeat' first
    | with_reducible assumption | with_reducible apply State.setEnc_kept | with_reducible apply State.wr_kept
    | with_reducible apply State.count_kept | with_reducible apply State.raise_kept | with_reducible apply State.encFault_kept
    | with_reducible apply Kept_ite | with_reducible apply KeptO_next | with_reducible apply KeptO_ite | split
    | with_reducible intro _ _ _ | with_reducible intro _ _ | with_reducible intro _ | dsimp only
    | with_reducible apply Kept_mk

theorem execStandstill_kept {hm : Option (Tbl Byte)} {dm : Option (Tbl Byte)} {qs : List Instr} (ch : Fin 4) (t : Nat) (s : State) (h_s : Kept hm
    dm qs s) : KeptO hm dm qs (execStandstill ch t s) := by
  unfold execStandstill
  repeat' first
    | with_reducible assumption | with_reducible apply State.advance_kept | with_reducible apply State.standstill_kept
    | with_reducible apply Kept_ite | with_reducible apply KeptO_next | with_reducible apply KeptO_ite | split
    | with_reducible intro _ _ _ | with_reducible intro _ _ | with_reducible intro _ | dsimp only

theorem State.encConfigure_kept {dm : Option (Tbl Byte)} {qs : List Instr} (s : State) (ch type : Nat) (b : List Byte) (pk : Pk) (h_s : Kept none
    dm qs s) : Kept none dm qs (State.encConfigure s ch type b pk) := by
  unfold State.encConfigure
  repeat' first
    | with_reducible assumption | with_reducible apply State.complete_kept | with_reducible apply State.wr_kept
    | with_reducible apply State.setEnc_kept | with_reducible apply Kept_ite | with_reducible apply Kept_foldl | split
    | with_reducible intro _ _ _ | with_reducible intro _ _ | with_reducible intro _ | dsimp only
    | with_reducible apply Kept_mk

theorem execEncConfig_kept {dm : Option (Tbl Byte)} {qs : List Instr} (h : Hdr) (channel type block : Nat) (s : State) (h_s : Kept none dm qs s)
    : KeptO none dm qs (execEncConfig h channel type block s) := by
  unfold execEncConfig
  repeat' first
    | with_reducible assumption | with_reducible apply State.packetR_kept | with_reducible apply State.encConfigure_kept
    | with_reducible apply Kept_ite | with_reducible apply KeptO_next | with_reducible apply KeptO_ite | split
    | with_reducible intro _ _ _ | with_reducible intro _ _ | with_reducible intro _ | dsimp only

theorem execEncConfigFaultWindowEnd_kept {dm : Option (Tbl Byte)} {qs : List Instr} (ch : Fin 4) (s : State) (h_s : Kept none dm qs s) : KeptO
    none dm qs (execEncConfigFaultWindowEnd ch s) := by
  unfold execEncConfigFaultWindowEnd
  repeat' first
    | with_reducible assumption | with_reducible apply State.advance_kept | with_reducible apply State.setEnc_kept
    | with_reducible apply State.complete_kept | with_reducible apply Kept_ite | with_reducible apply KeptO_next
    | with_reducible apply KeptO_ite | split | with_reducible intro _ _ _ | with_reducible intro _ _ | with_reducible intro _
    | dsimp only | with_reducible apply Kept_mk

theorem execSynthSet_kept {dm : Option (Tbl Byte)} {qs : List Instr} (h : Hdr) (group when' block : Nat) (s : State) (h_s : Kept none dm qs s) :
    KeptO none dm qs (execSynthSet h group when' block s) := by
  unfold execSynthSet
  repeat' first
    | with_reducible assumption | with_reducible apply State.packetR_kept | with_reducible apply State.dropSteps_kept
    | with_reducible apply State.applyChange_kept | with_reducible apply State.complete_kept | with_reducible apply Kept_ite
    | with_reducible apply KeptO_next | with_reducible apply KeptO_ite | split | with_reducible intro _ _ _
    | with_reducible intro _ _ | with_reducible intro _ | dsimp only | with_reducible apply Kept_mk

theorem State.latchEdge_kept {dm : Option (Tbl Byte)} {qs : List Instr} (s : State) (i : Nat) (falling : Bool) (t : Nat) (h_s : Kept none dm qs
    s) : Kept none dm qs (State.latchEdge s i falling t) := by
  unfold State.latchEdge
  repeat' first
    | with_reducible assumption | with_reducible apply State.setLatch_kept | with_reducible apply State.count_kept
    | with_reducible apply State.raise_kept | with_reducible apply Kept_ite | split | with_reducible intro _ _ _
    | with_reducible intro _ _ | with_reducible intro _ | dsimp only | with_reducible apply Kept_mk

theorem execLatchEdge_kept {dm : Option (Tbl Byte)} {qs : List Instr} (input : Fin 8) (falling : Bool) (e : InEdge) (s : State) (h_s : Kept none
    dm qs s) : KeptO none dm qs (execLatchEdge input falling e s) := by
  unfold execLatchEdge
  repeat' first
    | with_reducible assumption | with_reducible apply State.advance_kept | with_reducible apply State.latchEdge_kept
    | with_reducible apply Kept_ite | with_reducible apply KeptO_next | with_reducible apply KeptO_ite | split
    | with_reducible intro _ _ _ | with_reducible intro _ _ | with_reducible intro _ | dsimp only

theorem execLatchRead_kept {qs : List Instr} (h : Hdr) (input dst most : Nat) (s : State) (h_s : Kept none none qs s) : KeptO none none qs
    (execLatchRead h input dst most s) := by
  unfold execLatchRead
  repeat' first
    | with_reducible assumption | with_reducible apply State.packet_kept | with_reducible apply State.setLatch_kept
    | with_reducible apply State.writeAt_kept | with_reducible apply State.complete_kept | with_reducible apply Kept_ite
    | with_reducible apply KeptO_next | with_reducible apply KeptO_ite | split | with_reducible intro _ _ _
    | with_reducible intro _ _ | with_reducible intro _ | dsimp only | with_reducible apply Kept_mk

theorem State.completeOpt_kept {dm : Option (Tbl Byte)} {qs : List Instr} (s : State) (pk : Option Pk) (st : Status) (words : List Nat) (h_s :
    Kept none dm qs s) : Kept none dm qs (State.completeOpt s pk st words) := by
  unfold State.completeOpt
  repeat' first
    | with_reducible assumption | with_reducible apply State.complete_kept | with_reducible apply Kept_ite | split
    | with_reducible intro _ _ _ | with_reducible intro _ _ | with_reducible intro _ | dsimp only
    | with_reducible apply Kept_mk

theorem State.cmpLevel_kept {hm : Option (Tbl Byte)} {dm : Option (Tbl Byte)} {qs : List Instr} (s : State) (k : Nat) (on : Bool) (t : Nat) (h_s
    : Kept hm dm qs s) : Kept hm dm qs (State.cmpLevel s k on t) := by
  unfold State.cmpLevel
  repeat' first
    | with_reducible assumption | with_reducible apply State.put_kept | with_reducible apply Kept_ite | split
    | with_reducible intro _ _ _ | with_reducible intro _ _ | with_reducible intro _ | dsimp only

theorem State.startPulse_kept {dm : Option (Tbl Byte)} {qs : List Instr} (s : State) (k : Nat) (x : CmpPulse) (h_s : Kept none dm qs s) : Kept
    none dm qs (State.startPulse s k x) := by
  unfold State.startPulse
  repeat' first
    | with_reducible assumption | with_reducible apply State.setCmp_kept | with_reducible apply State.cmpLevel_kept
    | with_reducible apply State.count_kept | with_reducible apply State.completeOpt_kept | with_reducible apply Kept_ite
    | split | with_reducible intro _ _ _ | with_reducible intro _ _ | with_reducible intro _ | dsimp only
    | with_reducible apply Kept_mk

theorem State.endPulse_kept {hm : Option (Tbl Byte)} {dm : Option (Tbl Byte)} {qs : List Instr} (s : State) (k e : Nat) (h_s : Kept hm dm qs s) :
    Kept hm dm qs (State.endPulse s k e) := by
  unfold State.endPulse
  repeat' first
    | with_reducible assumption | with_reducible apply State.setCmp_kept | with_reducible apply State.cmpLevel_kept
    | with_reducible apply Kept_ite | split | with_reducible intro _ _ _ | with_reducible intro _ _ | with_reducible intro _
    | dsimp only | with_reducible apply Kept_mk

theorem State.runCmp_kept {dm : Option (Tbl Byte)} {qs : List Instr} (s : State) (k : Nat) (h_s : Kept none dm qs s) : ∀ y0 : Nat, Kept none dm qs (State.runCmp s k y0) := by
  intro n
  induction n generalizing s with
  | zero => exact h_s
  | succ n ih =>
    unfold State.runCmp
    dsimp only
    split
    · exact ih _ (State.endPulse_kept _ _ _ h_s)
    · exact ih _ (State.startPulse_kept _ _ _ h_s)
    · exact h_s

theorem State.runOut_kept {dm : Option (Tbl Byte)} {qs : List Instr} (s : State) (k : Nat) (h_s : Kept none dm qs s) : Kept none dm qs
    (State.runOut s k) := by
  unfold State.runOut
  repeat' first
    | with_reducible assumption | with_reducible apply State.runCmp_kept | with_reducible apply Kept_ite | split
    | with_reducible intro _ _ _ | with_reducible intro _ _ | with_reducible intro _ | dsimp only

theorem State.runOutputs_kept {dm : Option (Tbl Byte)} {qs : List Instr} (s : State) (h_s : Kept none dm qs s) : Kept none dm qs
    (State.runOutputs s) := by
  unfold State.runOutputs
  repeat' first
    | with_reducible assumption | with_reducible apply State.divDrain_kept | with_reducible apply State.runOut_kept
    | with_reducible apply Kept_ite | with_reducible apply Kept_foldl | split | with_reducible intro _ _ _
    | with_reducible intro _ _ | with_reducible intro _ | dsimp only

theorem State.commitPulseAt_kept {hm : Option (Tbl Byte)} {dm : Option (Tbl Byte)} {qs : List Instr} (s : State) (k : Nat) (x : CmpTarget) (pos :
    Option Int) (t : Nat) (h_s : Kept hm dm qs s) : Kept hm dm qs (State.commitPulseAt s k x pos t) := by
  unfold State.commitPulseAt
  repeat' first
    | with_reducible assumption | with_reducible apply State.setCmp_kept | with_reducible apply Kept_ite | split
    | with_reducible intro _ _ _ | with_reducible intro _ _ | with_reducible intro _ | dsimp only
    | with_reducible apply Kept_mk

theorem State.armCmp_kept {dm : Option (Tbl Byte)} {qs : List Instr} (k : Nat) : ∀ (y0 : Nat) (y1 : State), Kept none dm qs y1 → Kept none dm qs (State.armCmp k y0 y1) := by
  intro n
  induction n with
  | zero => intro s h; exact h
  | succ n ih =>
    intro s h
    unfold State.armCmp
    dsimp only
    split
    · exact h
    · split
      · exact h
      · have h2 := State.raise_kept _ .fire 19 (State.count_kept s (R.CMP_LATE_COUNT k) (R.CMP_OVF_LATE_OVF k) .fire 1 h)
        split
        · split
          · exact State.setCmp_kept _ _ _ h2
          · exact ih _ (State.commitPulseAt_kept _ _ _ _ _ h2)
        · exact ih _ (State.completeOpt_kept _ _ _ _ (State.setCmp_kept _ _ _ h2))

theorem execCompareSet_kept {dm : Option (Tbl Byte)} {qs : List Instr} (h : Hdr) (output flags target width : Nat) (s : State) (h_s : Kept none
    dm qs s) : KeptO none dm qs (execCompareSet h output flags target width s) := by
  unfold execCompareSet
  repeat' first
    | with_reducible assumption | with_reducible apply State.packet_kept | with_reducible apply State.setCmp_kept
    | with_reducible apply State.armCmp_kept | with_reducible apply Kept_ite | with_reducible apply KeptO_next
    | with_reducible apply KeptO_ite | split | with_reducible intro _ _ _ | with_reducible intro _ _ | with_reducible intro _
    | dsimp only | with_reducible apply Kept_mk

theorem State.commitCmp_kept {dm : Option (Tbl Byte)} {qs : List Instr} (s : State) (k : Nat) (h_s : Kept none dm qs s) : Kept none dm qs
    (State.commitCmp s k) := by
  unfold State.commitCmp
  repeat' first
    | with_reducible assumption | with_reducible apply State.armCmp_kept | with_reducible apply State.commitPulseAt_kept
    | with_reducible apply Kept_ite | split | with_reducible intro _ _ _ | with_reducible intro _ _ | with_reducible intro _
    | dsimp only | with_reducible apply Kept_mk

theorem execCompareCommit_kept {dm : Option (Tbl Byte)} {qs : List Instr} (out : Fin 16) (t : Nat) (s : State) (h_s : Kept none dm qs s) : KeptO
    none dm qs (execCompareCommit out t s) := by
  unfold execCompareCommit
  repeat' first
    | with_reducible assumption | with_reducible apply State.advance_kept | with_reducible apply State.runOut_kept
    | with_reducible apply State.commitCmp_kept | with_reducible apply Kept_ite | with_reducible apply KeptO_next
    | with_reducible apply KeptO_ite | split | with_reducible intro _ _ _ | with_reducible intro _ _ | with_reducible intro _
    | dsimp only

theorem execComparePulseEnd_kept {dm : Option (Tbl Byte)} {qs : List Instr} (out : Fin 16) (t : Nat) (s : State) (h_s : Kept none dm qs s) :
    KeptO none dm qs (execComparePulseEnd out t s) := by
  unfold execComparePulseEnd
  repeat' first
    | with_reducible assumption | with_reducible apply State.advance_kept | with_reducible apply State.runOut_kept
    | with_reducible apply Kept_ite | with_reducible apply KeptO_next | with_reducible apply KeptO_ite | split
    | with_reducible intro _ _ _ | with_reducible intro _ _ | with_reducible intro _ | dsimp only

theorem State.abortCompares_kept {dm : Option (Tbl Byte)} {qs : List Instr} (s : State) (h_s : Kept none dm qs s) : Kept none dm qs
    (State.abortCompares s) := by
  unfold State.abortCompares
  repeat' first
    | with_reducible assumption | with_reducible apply State.runOut_kept | with_reducible apply State.endPulse_kept
    | with_reducible apply State.completeOpt_kept | with_reducible apply State.setCmp_kept | with_reducible apply Kept_ite
    | with_reducible apply Kept_foldl | split | with_reducible intro _ _ _ | with_reducible intro _ _ | with_reducible intro _
    | dsimp only | with_reducible apply Kept_mk

theorem execDivSet_kept {dm : Option (Tbl Byte)} {qs : List Instr} (h : Hdr) (output divisor : Nat) (s : State) (h_s : Kept none dm qs s) : KeptO
    none dm qs (execDivSet h output divisor s) := by
  unfold execDivSet
  repeat' first
    | with_reducible assumption | with_reducible apply State.packet_kept | with_reducible apply State.divDrain_kept
    | with_reducible apply State.wr_kept | with_reducible apply State.setDiv_kept | with_reducible apply State.complete_kept
    | with_reducible apply Kept_ite | with_reducible apply KeptO_next | with_reducible apply KeptO_ite | split
    | with_reducible intro _ _ _ | with_reducible intro _ _ | with_reducible intro _ | dsimp only
    | with_reducible apply Kept_mk

end Sys2Proof.Machine
end

