-- ==== Sys2Proof/Laws/KeptVision.lean ====
section
/-!
SUPPORT. What calibration, inspection, lines and contexts keep: one lemma a definition, that it leaves the memories in canonical form and the queue as it is, and host memory
(`hm`) or DRAM (`dm`) as well where the lemma leaves them general.
-/

set_option linter.all false

namespace Sys2Proof.Machine

theorem State.enterProp_kept {dm : Option (Tbl Byte)} {qs : List Instr} (s : State) (r : List Byte) (h_s : Kept none dm qs s) : Kept none dm qs
    (State.enterProp s r) := by
  unfold State.enterProp
  repeat' first
    | with_reducible assumption | with_reducible apply State.count_kept | with_reducible apply State.raise_kept
    | with_reducible apply Kept_ite | split | with_reducible intro _ _ _ | with_reducible intro _ _ | with_reducible intro _
    | dsimp only | with_reducible apply Kept_mk

theorem State.sendRecord_kept {hm : Option (Tbl Byte)} {dm : Option (Tbl Byte)} {qs : List Instr} (s : State) (kind : Nat) (r : List Byte) (h_s :
    Kept hm dm qs s) : Kept hm dm qs (State.sendRecord s kind r) := by
  unfold State.sendRecord
  repeat' first
    | with_reducible assumption | with_reducible apply State.sendYoke_kept | with_reducible apply Kept_ite | split
    | with_reducible intro _ _ _ | with_reducible intro _ _ | with_reducible intro _ | dsimp only

theorem State.propose_kept {dm : Option (Tbl Byte)} {qs : List Instr} (s : State) (r : List Byte) (h_s : Kept none dm qs s) : Kept none dm qs
    (State.propose s r) := by
  unfold State.propose
  repeat' first
    | with_reducible assumption | with_reducible apply State.enterProp_kept | with_reducible apply State.sendRecord_kept
    | with_reducible apply Kept_ite | split | with_reducible intro _ _ _ | with_reducible intro _ _ | with_reducible intro _
    | dsimp only

theorem State.takeStep_kept {hm : Option (Tbl Byte)} {dm : Option (Tbl Byte)} {qs : List Instr} (s : State) (x : CalStep) (h_s : Kept hm dm qs s)
    : Kept hm dm qs (State.takeStep s x) := by
  unfold State.takeStep
  repeat' first
    | with_reducible assumption | with_reducible apply State.addStep_kept | with_reducible apply State.sendSeq_kept
    | with_reducible apply Kept_ite | split | with_reducible intro _ _ _ | with_reducible intro _ _ | with_reducible intro _
    | dsimp only | with_reducible apply Kept_mk

theorem State.compared_kept {dm : Option (Tbl Byte)} {qs : List Instr} (s : State) (row : Bool) (key : Nat) (k : Nat) (prev cur : Int) (ok :
    Bool) (want step : Int) (overlap : Bool) (h_s : Kept none dm qs s) : Kept none dm qs (State.compared s row key k prev cur ok want step
    overlap) := by
  unfold State.compared
  repeat' first
    | with_reducible assumption | with_reducible apply State.count_kept | with_reducible apply State.raise_kept
    | with_reducible apply State.raiseIf_kept | with_reducible apply State.takeStep_kept
    | with_reducible apply State.propose_kept | with_reducible apply Kept_ite | split | with_reducible intro _ _ _
    | with_reducible intro _ _ | with_reducible intro _ | dsimp only | with_reducible apply Kept_mk

theorem State.closeDens_kept {dm : Option (Tbl Byte)} {qs : List Instr} (s : State) (c : Ctx) (win : CalWin) (all : Bool) (key : Nat) (w sum :
    Int) (h_s : Kept none dm qs s) : Kept none dm qs (State.closeDens s c win all key w sum) := by
  unfold State.closeDens
  repeat' first
    | with_reducible assumption | with_reducible apply State.compared_kept | with_reducible apply Kept_ite | split
    | with_reducible intro _ _ _ | with_reducible intro _ _ | with_reducible intro _ | dsimp only
    | with_reducible apply Kept_mk

theorem State.closeRow_kept {dm : Option (Tbl Byte)} {qs : List Instr} (s : State) (c : Ctx) (win : CalWin) (all : Bool) (g : Nat) (h_s : Kept
    none dm qs s) : Kept none dm qs (State.closeRow s c win all g) := by
  unfold State.closeRow
  repeat' first
    | with_reducible assumption | with_reducible apply State.compared_kept | with_reducible apply Kept_ite | split
    | with_reducible intro _ _ _ | with_reducible intro _ _ | with_reducible intro _ | dsimp only
    | with_reducible apply Kept_mk

theorem State.noteStale_kept {dm : Option (Tbl Byte)} {qs : List Instr} (s : State) (k : Nat) (key : Nat) (h_s : Kept none dm qs s) : Kept none
    dm qs (State.noteStale s k key) := by
  unfold State.noteStale
  repeat' first
    | with_reducible assumption | with_reducible apply State.propose_kept | with_reducible apply Kept_ite | split
    | with_reducible intro _ _ _ | with_reducible intro _ _ | with_reducible intro _ | dsimp only
    | with_reducible apply Kept_mk

theorem State.closeWin_kept {dm : Option (Tbl Byte)} {qs : List Instr} (s : State) (k : Nat) (h_s : Kept none dm qs s) : Kept none dm qs
    (State.closeWin s k) := by
  unfold State.closeWin
  repeat' first
    | with_reducible assumption | with_reducible apply State.voidAll_kept | with_reducible apply State.closeDens_kept
    | with_reducible apply State.closeRow_kept | with_reducible apply State.noteStale_kept
    | with_reducible apply State.wr_kept | with_reducible apply State.raise_kept | with_reducible apply Kept_ite
    | with_reducible apply Kept_foldl | split | with_reducible intro _ _ _ | with_reducible intro _ _ | with_reducible intro _
    | dsimp only | with_reducible apply Kept_mk

theorem State.closeGo_kept {dm : Option (Tbl Byte)} {qs : List Instr} : ∀ (y0 : Nat) (y1 : State), Kept none dm qs y1 → Kept none dm qs (State.closeGo y0 y1) := by
  intro k
  induction k with
  | zero => intro s h; exact h
  | succ k ih =>
    intro s h
    unfold State.closeGo
    split
    · exact ih _ (State.closeWin_kept _ _ h)
    · exact h

theorem State.closeWins_kept {dm : Option (Tbl Byte)} {qs : List Instr} (s : State) (h_s : Kept none dm qs s) : Kept none dm qs (State.closeWins
    s) := by
  unfold State.closeWins
  repeat' first
    | with_reducible assumption | with_reducible apply State.closeGo_kept | with_reducible apply Kept_ite
    | with_reducible apply Kept_foldl | split | with_reducible intro _ _ _ | with_reducible intro _ _ | with_reducible intro _
    | dsimp only

theorem State.calStart_kept {hm : Option (Tbl Byte)} {dm : Option (Tbl Byte)} {qs : List Instr} (s : State) (ctx : Nat) (h_s : Kept hm dm qs s) :
    Kept hm dm qs (State.calStart s ctx) := by
  unfold State.calStart
  repeat' first
    | with_reducible assumption | with_reducible apply State.wr_kept | with_reducible apply Kept_ite | split
    | with_reducible intro _ _ _ | with_reducible intro _ _ | with_reducible intro _ | dsimp only
    | with_reducible apply Kept_mk

theorem State.keepLines_kept {hm : Option (Tbl Byte)} {dm : Option (Tbl Byte)} {qs : List Instr} (s : State) (cam : Nat) (lines : List
    AnchorLine) (use : Bool) (h_s : Kept hm dm qs s) : Kept hm dm qs (State.keepLines s cam lines use) := by
  unfold State.keepLines
  repeat' first
    | with_reducible assumption | with_reducible apply State.setCam_kept | with_reducible apply Kept_ite | split
    | with_reducible intro _ _ _ | with_reducible intro _ _ | with_reducible intro _ | dsimp only
    | with_reducible apply Kept_mk

theorem State.foldCal_kept {hm : Option (Tbl Byte)} {dm : Option (Tbl Byte)} {qs : List Instr} (s : State) (x : CalSum) (h_s : Kept hm dm qs s) :
    Kept hm dm qs (State.foldCal s x) := by
  unfold State.foldCal
  repeat' first
    | with_reducible assumption | with_reducible apply State.put_kept | with_reducible apply Kept_ite | split
    | with_reducible intro _ _ _ | with_reducible intro _ _ | with_reducible intro _ | dsimp only
    | with_reducible apply Kept_mk

theorem State.freeInt_kept {hm : Option (Tbl Byte)} {dm : Option (Tbl Byte)} {qs : List Instr} (s : State) (k : Config.FreeKind) (h_s : Kept hm
    dm qs s) : Kept hm dm qs (State.freeInt s k).2 := by
  unfold State.freeInt
  repeat' first
    | with_reducible assumption | with_reducible apply Kept_ite | split | with_reducible intro _ _ _
    | with_reducible intro _ _ | with_reducible intro _ | dsimp only | with_reducible apply Kept_mk

theorem State.endSeed_kept {dm : Option (Tbl Byte)} {qs : List Instr} (s : State) (x : SeedRt) (h_s : Kept none dm qs s) : Kept none dm qs
    (State.endSeed s x) := by
  unfold State.endSeed
  repeat' first
    | with_reducible assumption | with_reducible apply State.freeInt_kept | with_reducible apply State.takeStep_kept
    | with_reducible apply State.propose_kept | with_reducible apply State.complete_kept
    | with_reducible apply State.raise_kept | with_reducible apply Kept_ite | with_reducible apply Kept_foldl | split
    | with_reducible intro _ _ _ | with_reducible intro _ _ | with_reducible intro _ | dsimp only
    | with_reducible apply Kept_mk

theorem State.endSeeds_kept {dm : Option (Tbl Byte)} {qs : List Instr} (s : State) (h_s : Kept none dm qs s) : Kept none dm qs (State.endSeeds s)
    := by
  unfold State.endSeeds
  repeat' first
    | with_reducible assumption | with_reducible apply State.endSeed_kept | with_reducible apply Kept_ite
    | with_reducible apply Kept_foldl | split | with_reducible intro _ _ _ | with_reducible intro _ _ | with_reducible intro _
    | dsimp only

theorem State.endAnchor_kept {dm : Option (Tbl Byte)} {qs : List Instr} (s : State) (x : AnchorPk) (h_s : Kept none dm qs s) : Kept none dm qs
    (State.endAnchor s x) := by
  unfold State.endAnchor
  repeat' first
    | with_reducible assumption | with_reducible apply State.complete_kept | with_reducible apply State.wrS_kept
    | with_reducible apply State.voidColour_kept | with_reducible apply Kept_ite | with_reducible apply Kept_foldl | split
    | with_reducible intro _ _ _ | with_reducible intro _ _ | with_reducible intro _ | dsimp only
    | with_reducible apply Kept_mk

theorem State.endAnchors_kept {dm : Option (Tbl Byte)} {qs : List Instr} (s : State) (h_s : Kept none dm qs s) : Kept none dm qs
    (State.endAnchors s) := by
  unfold State.endAnchors
  repeat' first
    | with_reducible assumption | with_reducible apply State.endAnchor_kept | with_reducible apply Kept_ite
    | with_reducible apply Kept_foldl | split | with_reducible intro _ _ _ | with_reducible intro _ _ | with_reducible intro _
    | dsimp only

theorem State.calFrameEnd_kept {dm : Option (Tbl Byte)} {qs : List Instr} (s : State) (h_s : Kept none dm qs s) : Kept none dm qs
    (State.calFrameEnd s) := by
  unfold State.calFrameEnd
  repeat' first
    | with_reducible assumption | with_reducible apply State.closeWins_kept | with_reducible apply State.endSeeds_kept
    | with_reducible apply State.endAnchors_kept | with_reducible apply Kept_ite | split | with_reducible intro _ _ _
    | with_reducible intro _ _ | with_reducible intro _ | dsimp only

theorem execCalSeed_kept {dm : Option (Tbl Byte)} {qs : List Instr} (h : Hdr) (pattern lines : Nat) (s : State) (h_s : Kept none dm qs s) : KeptO
    none dm qs (execCalSeed h pattern lines s) := by
  unfold execCalSeed
  repeat' first
    | with_reducible assumption | with_reducible apply State.packet_kept | with_reducible apply State.complete_kept
    | with_reducible apply Kept_ite | with_reducible apply KeptO_next | with_reducible apply KeptO_ite | split
    | with_reducible intro _ _ _ | with_reducible intro _ _ | with_reducible intro _ | dsimp only
    | with_reducible apply Kept_mk

theorem execCalAnchor_kept {dm : Option (Tbl Byte)} {qs : List Instr} (h : Hdr) (colour m pos : Nat) (s : State) (h_s : Kept none dm qs s) :
    KeptO none dm qs (execCalAnchor h colour m pos s) := by
  unfold execCalAnchor
  repeat' first
    | with_reducible assumption | with_reducible apply State.packet_kept | with_reducible apply State.endAnchor_kept
    | with_reducible apply Kept_ite | with_reducible apply KeptO_next | with_reducible apply KeptO_ite | split
    | with_reducible intro _ _ _ | with_reducible intro _ _ | with_reducible intro _ | dsimp only
    | with_reducible apply Kept_mk

theorem execCalAnchorTimeout_kept {dm : Option (Tbl Byte)} {qs : List Instr} (t : Nat) (s : State) (h_s : Kept none dm qs s) : KeptO none dm qs
    (execCalAnchorTimeout t s) := by
  unfold execCalAnchorTimeout
  repeat' first
    | with_reducible assumption | with_reducible apply State.advance_kept | with_reducible apply State.endAnchor_kept
    | with_reducible apply Kept_ite | with_reducible apply KeptO_next | with_reducible apply KeptO_ite | split
    | with_reducible intro _ _ _ | with_reducible intro _ _ | with_reducible intro _ | dsimp only
    | with_reducible apply Kept_mk

theorem execCalProposals_kept {qs : List Instr} (h : Hdr) (dst most : Nat) (s : State) (h_s : Kept none none qs s) : KeptO none none qs
    (execCalProposals h dst most s) := by
  unfold execCalProposals
  repeat' first
    | with_reducible assumption | with_reducible apply State.packet_kept | with_reducible apply State.writeAt_kept
    | with_reducible apply State.complete_kept | with_reducible apply Kept_ite | with_reducible apply KeptO_next
    | with_reducible apply KeptO_ite | split | with_reducible intro _ _ _ | with_reducible intro _ _ | with_reducible intro _
    | dsimp only | with_reducible apply Kept_mk

theorem execCalPolicy_kept {dm : Option (Tbl Byte)} {qs : List Instr} (h : Hdr) (policy : Nat) (s : State) (h_s : Kept none dm qs s) : KeptO none
    dm qs (execCalPolicy h policy s) := by
  unfold execCalPolicy
  repeat' first
    | with_reducible assumption | with_reducible apply State.packet_kept | with_reducible apply State.wr_kept
    | with_reducible apply State.complete_kept | with_reducible apply Kept_ite | with_reducible apply KeptO_next
    | with_reducible apply KeptO_ite | split | with_reducible intro _ _ _ | with_reducible intro _ _ | with_reducible intro _
    | dsimp only | with_reducible apply Kept_mk

theorem State.abortCal_kept {dm : Option (Tbl Byte)} {qs : List Instr} (s : State) (h_s : Kept none dm qs s) : Kept none dm qs (State.abortCal s)
    := by
  unfold State.abortCal
  repeat' first
    | with_reducible assumption | with_reducible apply State.complete_kept | with_reducible apply Kept_ite
    | with_reducible apply Kept_foldl | split | with_reducible intro _ _ _ | with_reducible intro _ _ | with_reducible intro _
    | dsimp only | with_reducible apply Kept_mk

theorem State.nextGen_kept {hm : Option (Tbl Byte)} {dm : Option (Tbl Byte)} {qs : List Instr} (s : State) (b : Nat) (h_s : Kept hm dm qs s) :
    Kept hm dm qs (State.nextGen s b) := by
  unfold State.nextGen
  repeat' first
    | with_reducible assumption | with_reducible apply State.wr_kept | with_reducible apply Kept_ite | split
    | with_reducible intro _ _ _ | with_reducible intro _ _ | with_reducible intro _ | dsimp only

theorem State.takeCam_kept {hm : Option (Tbl Byte)} {dm : Option (Tbl Byte)} {qs : List Instr} (s : State) (k : Nat) (h_s : Kept hm dm qs s) :
    Kept hm dm qs (State.takeCam s k) := by
  unfold State.takeCam
  repeat' first
    | with_reducible assumption | with_reducible apply State.wr_kept | with_reducible apply State.nextGen_kept
    | with_reducible apply State.setCam_kept | with_reducible apply Kept_ite | with_reducible apply Kept_foldl | split
    | with_reducible intro _ _ _ | with_reducible intro _ _ | with_reducible intro _ | dsimp only
    | with_reducible apply Kept_mk

theorem State.takeIdle_kept {hm : Option (Tbl Byte)} {dm : Option (Tbl Byte)} {qs : List Instr} (s : State) (k : Nat) (h_s : Kept hm dm qs s) :
    Kept hm dm qs (State.takeIdle s k) := by
  unfold State.takeIdle
  repeat' first
    | with_reducible assumption | with_reducible apply State.takeCam_kept | with_reducible apply Kept_ite | split
    | with_reducible intro _ _ _ | with_reducible intro _ _ | with_reducible intro _ | dsimp only

theorem State.commitCam_kept {hm : Option (Tbl Byte)} {dm : Option (Tbl Byte)} {qs : List Instr} (s : State) (k : Nat) (x : CamSet) (h_s : Kept
    hm dm qs s) : Kept hm dm qs (State.commitCam s k x) := by
  unfold State.commitCam
  repeat' first
    | with_reducible assumption | with_reducible apply State.setCam_kept | with_reducible apply State.wr_kept
    | with_reducible apply State.takeIdle_kept | with_reducible apply Kept_ite | split | with_reducible intro _ _ _
    | with_reducible intro _ _ | with_reducible intro _ | dsimp only | with_reducible apply Kept_mk

theorem State.writeCommit_kept {dm : Option (Tbl Byte)} {qs : List Instr} (s : State) (cam : Fin 8) (h_s : Kept none dm qs s) : Kept none dm qs
    (State.writeCommit s cam) := by
  unfold State.writeCommit
  repeat' first
    | with_reducible assumption | with_reducible apply State.access_kept | with_reducible apply State.commitCam_kept
    | with_reducible apply Kept_ite | split | with_reducible intro _ _ _ | with_reducible intro _ _ | with_reducible intro _
    | dsimp only

theorem execCommit_kept {dm : Option (Tbl Byte)} {qs : List Instr} (cam : Fin 8) (s : State) (h_s : Kept none dm qs s) : KeptO none dm qs
    (execCommit cam s) := by
  unfold execCommit
  repeat' first
    | with_reducible assumption | with_reducible apply State.hostAccess_kept | with_reducible apply State.writeCommit_kept
    | with_reducible apply Kept_ite | with_reducible apply KeptO_next | with_reducible apply KeptO_ite | split
    | with_reducible intro _ _ _ | with_reducible intro _ _ | with_reducible intro _ | dsimp only

theorem State.forwardCam_kept {hm : Option (Tbl Byte)} {dm : Option (Tbl Byte)} {qs : List Instr} (s : State) (pk : Pk) (st : Status) (words :
    List Nat) (bytes : List Byte) (h_s : Kept hm dm qs s) : Kept hm dm qs (State.forwardCam s pk st words bytes) := by
  unfold State.forwardCam
  repeat' first
    | with_reducible assumption | with_reducible apply State.sendSeq_kept | with_reducible apply Kept_ite | split
    | with_reducible intro _ _ _ | with_reducible intro _ _ | with_reducible intro _ | dsimp only

theorem State.camPacket_kept {dm : Option (Tbl Byte)} {qs : List Instr} (s : State) (o : OpInfo) (h : Hdr) (own : Option Nat) (reads : List (Nat
    × Nat)) (dst room : Nat) (chk : State → List (Bool × Status)) (eff : Nat → Pk → State → State) (h_s : Kept none dm qs s) (h_eff : ∀ (x0 :
    Nat) (x1 : Pk) (x2 : State), Kept none dm qs x2 → Kept none dm qs (eff x0 x1 x2)) : Kept none dm qs (State.camPacket s o h own reads dst room
    chk eff) := by
  unfold State.camPacket
  repeat' first
    | with_reducible assumption | with_reducible apply h_eff | with_reducible apply State.packetR_kept
    | with_reducible apply State.forwardCam_kept | with_reducible apply Kept_ite | split | with_reducible intro _ _ _
    | with_reducible intro _ _ | with_reducible intro _ | dsimp only | with_reducible apply Kept_mk

theorem execCamConfig_kept {dm : Option (Tbl Byte)} {qs : List Instr} (h : Hdr) (lane block : Nat) (s : State) (h_s : Kept none dm qs s) : KeptO none dm qs (execCamConfig h lane block s) := by
  unfold execCamConfig
  split
  · exact KeptO_next h_s
  · apply KeptO_next
    apply State.camPacket_kept _ _ _ _ _ _ _ _ _ h_s
    intro k pk s hs
    apply State.complete_kept
    apply State.forwardCam_kept
    apply State.commitCam_kept
    exact Kept_mk hs

theorem execStripeSet_kept {dm : Option (Tbl Byte)} {qs : List Instr} (h : Hdr) (table entries : Nat) (s : State) (h_s : Kept none dm qs s) :
    KeptO none dm qs (execStripeSet h table entries s) := by
  unfold execStripeSet
  repeat' first
    | with_reducible assumption | with_reducible apply State.packetR_kept | with_reducible apply State.voidAll_kept
    | with_reducible apply State.setCam_kept | with_reducible apply State.takeIdle_kept
    | with_reducible apply State.complete_kept | with_reducible apply Kept_ite | with_reducible apply KeptO_next
    | with_reducible apply KeptO_ite | with_reducible apply Kept_foldl | split | with_reducible intro _ _ _
    | with_reducible intro _ _ | with_reducible intro _ | dsimp only | with_reducible apply Kept_mk

theorem State.sendTrigger_kept {hm : Option (Tbl Byte)} {dm : Option (Tbl Byte)} {qs : List Instr} (s : State) (k : Nat) (f : CamFrame) (line :
    Nat) (x : Int) (q t ch : Nat) (h_s : Kept hm dm qs s) : Kept hm dm qs (State.sendTrigger s k f line x q t ch) := by
  unfold State.sendTrigger
  repeat' first
    | with_reducible assumption | with_reducible apply State.setCam_kept | with_reducible apply State.put_kept
    | with_reducible apply Kept_ite | split | with_reducible intro _ _ _ | with_reducible intro _ _ | with_reducible intro _
    | dsimp only | with_reducible apply Kept_mk

theorem State.camTick_kept {hm : Option (Tbl Byte)} {dm : Option (Tbl Byte)} {qs : List Instr} (s : State) (k ctx line : Nat) (x : Int) (q t ch :
    Nat) (h_s : Kept hm dm qs s) : Kept hm dm qs (State.camTick s k ctx line x q t ch) := by
  unfold State.camTick
  repeat' first
    | with_reducible assumption | with_reducible apply State.sendTrigger_kept | with_reducible apply State.takeCam_kept
    | with_reducible apply State.setCam_kept | with_reducible apply State.wr_kept | with_reducible apply Kept_ite | split
    | with_reducible intro _ _ _ | with_reducible intro _ _ | with_reducible intro _ | dsimp only
    | with_reducible apply Kept_mk

theorem State.camTicks_kept {dm : Option (Tbl Byte)} {qs : List Instr} (s : State) (ctx line : Nat) (x : Int) (q t ch : Nat) (h_s : Kept none dm
    qs s) : Kept none dm qs (State.camTicks s ctx line x q t ch) := by
  unfold State.camTicks
  repeat' first
    | with_reducible assumption | with_reducible apply State.camTick_kept | with_reducible apply State.markLine_kept
    | with_reducible apply State.endSeeds_kept | with_reducible apply Kept_ite | with_reducible apply Kept_foldl | split
    | with_reducible intro _ _ _ | with_reducible intro _ _ | with_reducible intro _ | dsimp only

theorem execExposureEnd_kept {hm : Option (Tbl Byte)} {dm : Option (Tbl Byte)} {qs : List Instr} (cam : Fin 8) (t : Nat) (s : State) (h_s : Kept
    hm dm qs s) : KeptO hm dm qs (execExposureEnd cam t s) := by
  unfold execExposureEnd
  repeat' first
    | with_reducible assumption | with_reducible apply State.advance_kept | with_reducible apply State.setCam_kept
    | with_reducible apply State.put_kept | with_reducible apply Kept_ite | with_reducible apply KeptO_next
    | with_reducible apply KeptO_ite | split | with_reducible intro _ _ _ | with_reducible intro _ _ | with_reducible intro _
    | dsimp only | with_reducible apply Kept_mk

theorem State.compareWith_kept {dm : Option (Tbl Byte)} {qs : List Instr} (s : State) (cam : Nat) (f : CamFrame) (ln : CamLine) (tr : CamTrig)
    (h_s : Kept none dm qs s) : Kept none dm qs (State.compareWith s cam f ln tr).1 := by
  unfold State.compareWith
  repeat' first
    | with_reducible assumption | with_reducible apply State.noteRead_kept | with_reducible apply State.usePoison_kept
    | with_reducible apply Kept_ite | with_reducible apply Kept_foldl | split | with_reducible intro _ _ _
    | with_reducible intro _ _ | with_reducible intro _ | dsimp only | with_reducible apply Kept_mk

theorem State.compareLine_kept {dm : Option (Tbl Byte)} {qs : List Instr} (s : State) (cam : Nat) (f : CamFrame) (ln : CamLine) (h_s : Kept none
    dm qs s) : Kept none dm qs (State.compareLine s cam f ln).1 := by
  unfold State.compareLine
  repeat' first
    | with_reducible assumption | with_reducible apply State.compareWith_kept | with_reducible apply Kept_ite | split
    | with_reducible intro _ _ _ | with_reducible intro _ _ | with_reducible intro _ | dsimp only
    | with_reducible apply Kept_mk

theorem State.enterTile_kept {qs : List Instr} (s : State) (r : List Byte) (h_s : Kept none none qs s) : Kept none none qs (State.enterTile s r)
    := by
  unfold State.enterTile
  repeat' first
    | with_reducible assumption | with_reducible apply State.count_kept | with_reducible apply State.raise_kept
    | with_reducible apply State.dramWrite_kept | with_reducible apply Kept_ite | split | with_reducible intro _ _ _
    | with_reducible intro _ _ | with_reducible intro _ | dsimp only | with_reducible apply Kept_mk

theorem State.enterDefect_kept {qs : List Instr} (s : State) (r : List Byte) (h_s : Kept none none qs s) : Kept none none qs (State.enterDefect s
    r) := by
  unfold State.enterDefect
  repeat' first
    | with_reducible assumption | with_reducible apply State.count_kept | with_reducible apply State.raise_kept
    | with_reducible apply State.dramWrite_kept | with_reducible apply Kept_ite | split | with_reducible intro _ _ _
    | with_reducible intro _ _ | with_reducible intro _ | dsimp only | with_reducible apply Kept_mk

theorem State.writeDefect_kept {qs : List Instr} (s : State) (r : List Byte) (slot : Nat) (h_s : Kept none none qs s) : Kept none none qs
    (State.writeDefect s r slot) := by
  unfold State.writeDefect
  repeat' first
    | with_reducible assumption | with_reducible apply State.enterDefect_kept | with_reducible apply State.sendRecord_kept
    | with_reducible apply Kept_ite | split | with_reducible intro _ _ _ | with_reducible intro _ _ | with_reducible intro _
    | dsimp only | with_reducible apply Kept_mk

theorem State.startCrop_kept {qs : List Instr} (s : State) (n : Fin 4) (x : CropReq) (h_s : Kept none none qs s) : Kept none none qs
    (State.startCrop s n x) := by
  unfold State.startCrop
  repeat' first
    | with_reducible assumption | with_reducible apply State.dramWrite_kept | with_reducible apply State.countEngine_kept
    | with_reducible apply State.writeDefect_kept | with_reducible apply Kept_ite | split | with_reducible intro _ _ _
    | with_reducible intro _ _ | with_reducible intro _ | dsimp only | with_reducible apply Kept_mk

theorem State.startCrops_kept {qs : List Instr} (s : State) (h_s : Kept none none qs s) : Kept none none qs (State.startCrops s) := by
  unfold State.startCrops
  repeat' first
    | with_reducible assumption | with_reducible apply State.startCrop_kept | with_reducible apply Kept_ite
    | with_reducible apply Kept_foldl | split | with_reducible intro _ _ _ | with_reducible intro _ _ | with_reducible intro _
    | dsimp only | with_reducible apply Kept_mk

theorem execThresherGrant_kept {qs : List Instr} (s : State) (h_s : Kept none none qs s) : KeptO none none qs (execThresherGrant s) := by
  unfold execThresherGrant
  repeat' first
    | with_reducible assumption | with_reducible apply State.startCrops_kept | with_reducible apply State.grant_kept
    | with_reducible apply Kept_ite | with_reducible apply KeptO_next | with_reducible apply KeptO_ite | split
    | with_reducible intro _ _ _ | with_reducible intro _ _ | with_reducible intro _ | dsimp only

theorem execCropStartTimeout_kept {qs : List Instr} (t : Nat) (s : State) (h_s : Kept none none qs s) : KeptO none none qs (execCropStartTimeout
    t s) := by
  unfold execCropStartTimeout
  repeat' first
    | with_reducible assumption | with_reducible apply State.advance_kept | with_reducible apply State.startCrops_kept
    | with_reducible apply State.count_kept | with_reducible apply State.raise_kept
    | with_reducible apply State.writeDefect_kept | with_reducible apply Kept_ite | with_reducible apply KeptO_next
    | with_reducible apply KeptO_ite | split | with_reducible intro _ _ _ | with_reducible intro _ _ | with_reducible intro _
    | dsimp only | with_reducible apply Kept_mk

theorem State.queueReject_kept {dm : Option (Tbl Byte)} {qs : List Instr} (s : State) (target : Int) (h_s : Kept none dm qs s) : Kept none dm qs
    (State.queueReject s target) := by
  unfold State.queueReject
  repeat' first
    | with_reducible assumption | with_reducible apply State.count_kept | with_reducible apply State.raise_kept
    | with_reducible apply State.setCmp_kept | with_reducible apply State.armCmp_kept | with_reducible apply Kept_ite | split
    | with_reducible intro _ _ _ | with_reducible intro _ _ | with_reducible intro _ | dsimp only
    | with_reducible apply Kept_mk

theorem State.pushReject_kept {dm : Option (Tbl Byte)} {qs : List Instr} (s : State) (target : Int) (h_s : Kept none dm qs s) : Kept none dm qs
    (State.pushReject s target) := by
  unfold State.pushReject
  repeat' first
    | with_reducible assumption | with_reducible apply State.queueReject_kept | with_reducible apply State.sendSeq_kept
    | with_reducible apply Kept_ite | split | with_reducible intro _ _ _ | with_reducible intro _ _ | with_reducible intro _
    | dsimp only

theorem State.endCellRow_kept {qs : List Instr} (s : State) (cam : Nat) (f : CamFrame) (first : Nat) (h_s : Kept none none qs s) : Kept none none
    qs (State.endCellRow s cam f first).1 := by
  unfold State.endCellRow
  repeat' first
    | with_reducible assumption | with_reducible apply State.startCrops_kept | with_reducible apply State.writeDefect_kept
    | with_reducible apply State.pushReject_kept | with_reducible apply Kept_ite | with_reducible apply Kept_foldl | split
    | with_reducible intro _ _ _ | with_reducible intro _ _ | with_reducible intro _ | dsimp only
    | with_reducible apply Kept_mk

theorem State.addShift_kept {hm : Option (Tbl Byte)} {dm : Option (Tbl Byte)} {qs : List Instr} (s : State) (f : FRef) (d : Int) (h_s : Kept hm
    dm qs s) : Kept hm dm qs (State.addShift s f d) := by
  unfold State.addShift
  repeat' first
    | with_reducible assumption | with_reducible apply State.wrS_kept | with_reducible apply State.freeInt_kept
    | with_reducible apply Kept_ite | split | with_reducible intro _ _ _ | with_reducible intro _ _ | with_reducible intro _
    | dsimp only

theorem State.register_kept {dm : Option (Tbl Byte)} {qs : List Instr} (s : State) (cam : Nat) (f : CamFrame) (h_s : Kept none dm qs s) : Kept
    none dm qs (State.register s cam f).1 := by
  unfold State.register
  repeat' first
    | with_reducible assumption | with_reducible apply State.addShift_kept | with_reducible apply State.setCam_kept
    | with_reducible apply State.raiseIf_kept | with_reducible apply Kept_ite | split | with_reducible intro _ _ _
    | with_reducible intro _ _ | with_reducible intro _ | dsimp only | with_reducible apply Kept_mk

theorem State.closeFrame_kept {qs : List Instr} (s : State) (cam : Nat) (f : CamFrame) (abort : Bool) (h_s : Kept none none qs s) : Kept none
    none qs (State.closeFrame s cam f abort) := by
  unfold State.closeFrame
  repeat' first
    | with_reducible assumption | with_reducible apply State.endCellRow_kept | with_reducible apply State.register_kept
    | with_reducible apply State.count_kept | with_reducible apply State.enterTile_kept
    | with_reducible apply State.sendRecord_kept | with_reducible apply State.raiseIf_kept
    | with_reducible apply State.setCam_kept | with_reducible apply State.markLine_kept
    | with_reducible apply State.keepLines_kept | with_reducible apply State.foldCal_kept
    | with_reducible apply State.calFrameEnd_kept | with_reducible apply Kept_ite | with_reducible apply Kept_foldl | split
    | with_reducible intro _ _ _ | with_reducible intro _ _ | with_reducible intro _ | dsimp only
    | with_reducible apply Kept_mk

theorem State.closeFrames_kept {qs : List Instr} (cam : Nat) : ∀ (y0 : Nat) (y1 : State), Kept none none qs y1 → Kept none none qs (State.closeFrames cam y0 y1) := by
  intro n
  induction n with
  | zero => intro s h; exact h
  | succ n ih =>
    intro s h
    unfold State.closeFrames
    split
    · exact h
    · split
      · exact ih _ (State.closeFrame_kept _ _ _ _ h)
      · exact h

theorem State.compareHead_kept {qs : List Instr} (s : State) (cam : Nat) (h_s : Kept none none qs s) : KeptOpt none none qs (State.compareHead s cam) := by
  intro t ht
  unfold State.compareHead at ht
  split at ht
  · cases ht
  · rename_i ln rest _
    dsimp only at ht
    split at ht
    · cases ht
    · split at ht
      · cases ht; exact State.setCam_kept _ _ _ h_s
      · rename_i f _
        cases ht
        apply State.setCam_kept
        have h0 := State.setCam_kept s cam { (s.cam cam) with buf := rest } h_s
        have h1 : ∀ (c : Prop) [Decidable c] (g : CamFrame),
            Kept none none qs (if c then (s.setCam cam { (s.cam cam) with buf := rest }, g) else
              (s.setCam cam { (s.cam cam) with buf := rest }).endCellRow cam f f.cellFirst).1 := by
          intro c _ g
          split
          · exact h0
          · exact State.endCellRow_kept _ _ _ _ h0
        split
        · exact State.endCellRow_kept _ _ _ _ (State.compareLine_kept _ _ _ _ (h1 _ _))
        · exact State.compareLine_kept _ _ _ _ (h1 _ _)

theorem State.compareGo_kept {qs : List Instr} (cam : Nat) : ∀ (y0 : Nat) (y1 : State), Kept none none qs y1 → Kept none none qs (State.compareGo cam y0 y1) := by
  intro n
  induction n with
  | zero => intro s h; exact h
  | succ n ih =>
    intro s h
    unfold State.compareGo
    split
    · rename_i t ht
      exact ih _ (State.compareHead_kept s cam h _ ht)
    · exact h

theorem State.pumpCam_kept {qs : List Instr} (s : State) (cam : Nat) (h_s : Kept none none qs s) : Kept none none qs (State.pumpCam s cam) := by
  unfold State.pumpCam
  repeat' first
    | with_reducible assumption | with_reducible apply State.closeFrames_kept | with_reducible apply State.compareGo_kept
    | with_reducible apply Kept_ite | split | with_reducible intro _ _ _ | with_reducible intro _ _ | with_reducible intro _
    | dsimp only

theorem State.markFrame_kept {hm : Option (Tbl Byte)} {dm : Option (Tbl Byte)} {qs : List Instr} (s : State) (cam : Nat) (f : CamFrame) (m : Nat)
    (h_s : Kept hm dm qs s) : Kept hm dm qs (State.markFrame s cam f m) := by
  unfold State.markFrame
  repeat' first
    | with_reducible assumption | with_reducible apply State.setCam_kept | with_reducible apply Kept_ite | split
    | with_reducible intro _ _ _ | with_reducible intro _ _ | with_reducible intro _ | dsimp only
    | with_reducible apply Kept_mk

theorem State.cameraLine_kept {qs : List Instr} (s : State) (cam : Nat) (data : List Byte) (unusable : List Nat) (damaged : List (Nat × Nat))
    (resent t : Nat) (h_s : Kept none none qs s) : Kept none none qs (State.cameraLine s cam data unusable damaged resent t) := by
  unfold State.cameraLine
  repeat' first
    | with_reducible assumption | with_reducible apply State.advance_kept | with_reducible apply State.count_kept
    | with_reducible apply State.puts_kept | with_reducible apply State.markFrame_kept
    | with_reducible apply State.setCam_kept | with_reducible apply State.pumpCam_kept | with_reducible apply Kept_ite
    | with_reducible apply Kept_foldl | split | with_reducible intro _ _ _ | with_reducible intro _ _ | with_reducible intro _
    | dsimp only | with_reducible apply Kept_mk

theorem execCameraLine_kept {qs : List Instr} (cam : Fin 8) (data : List Byte) (unusable : List Nat) (damaged : List (Nat × Nat)) (resent t :
    Nat) (s : State) (h_s : Kept none none qs s) : KeptO none none qs (execCameraLine cam data unusable damaged resent t s) := by
  unfold execCameraLine
  repeat' first
    | with_reducible assumption | with_reducible apply State.cameraLine_kept | with_reducible apply Kept_ite
    | with_reducible apply KeptO_next | with_reducible apply KeptO_ite | split | with_reducible intro _ _ _
    | with_reducible intro _ _ | with_reducible intro _ | dsimp only

theorem execResendTimeout_kept {qs : List Instr} (cam : Fin 8) (s : State) (h_s : Kept none none qs s) : KeptO none none qs (execResendTimeout
    cam s) := by
  unfold execResendTimeout
  repeat' first
    | with_reducible assumption | with_reducible apply State.put_kept | with_reducible apply State.advance_kept
    | with_reducible apply State.count_kept | with_reducible apply State.setCam_kept | with_reducible apply State.pumpCam_kept
    | with_reducible apply Kept_ite | with_reducible apply KeptO_next | with_reducible apply KeptO_ite | split
    | with_reducible intro _ _ _ | with_reducible intro _ _ | with_reducible intro _ | dsimp only
    | with_reducible apply Kept_mk

theorem State.endFrame_kept {qs : List Instr} (s : State) (cam : Nat) (f : CamFrame) (h_s : Kept none none qs s) : Kept none none qs
    (State.endFrame s cam f) := by
  unfold State.endFrame
  repeat' first
    | with_reducible assumption | with_reducible apply State.setCam_kept | with_reducible apply State.wr_kept
    | with_reducible apply State.pumpCam_kept | with_reducible apply Kept_ite | split | with_reducible intro _ _ _
    | with_reducible intro _ _ | with_reducible intro _ | dsimp only | with_reducible apply Kept_mk

theorem execFrameEnd_kept {qs : List Instr} (cam : Fin 8) (how : Fin 3) (t : Nat) (s : State) (h_s : Kept none none qs s) : KeptO none none qs
    (execFrameEnd cam how t s) := by
  unfold execFrameEnd
  repeat' first
    | with_reducible assumption | with_reducible apply State.advance_kept | with_reducible apply State.endFrame_kept
    | with_reducible apply State.setCam_kept | with_reducible apply Kept_ite | with_reducible apply KeptO_next
    | with_reducible apply KeptO_ite | split | with_reducible intro _ _ _ | with_reducible intro _ _ | with_reducible intro _
    | dsimp only | with_reducible apply Kept_mk

theorem State.abortCam_kept {qs : List Instr} (s : State) (cam : Nat) (h_s : Kept none none qs s) : Kept none none qs (State.abortCam s cam) :=
    by
  unfold State.abortCam
  repeat' first
    | with_reducible assumption | with_reducible apply State.setCam_kept | with_reducible apply State.complete_kept
    | with_reducible apply State.closeFrame_kept | with_reducible apply State.wr_kept | with_reducible apply Kept_ite
    | with_reducible apply Kept_foldl | split | with_reducible intro _ _ _ | with_reducible intro _ _ | with_reducible intro _
    | dsimp only | with_reducible apply Kept_mk

theorem State.giveRecords_kept {qs : List Instr} (s : State) (pk : Pk) (base size dst : Nat) (sel : List (Nat × List Byte)) (h_s : Kept none none
    qs s) : Kept none none qs (State.giveRecords s pk base size dst sel) := by
  unfold State.giveRecords
  repeat' first
    | with_reducible assumption | with_reducible apply State.noteRead_kept | with_reducible apply State.writePoisoned_kept
    | with_reducible apply State.usePoison_kept | with_reducible apply State.complete_kept
    | with_reducible apply State.writeAt_kept | with_reducible apply Kept_ite | with_reducible apply Kept_foldl | split
    | with_reducible intro _ _ _ | with_reducible intro _ _ | with_reducible intro _ | dsimp only
    | with_reducible apply Kept_mk

theorem execStatsRead_kept {qs : List Instr} (h : Hdr) (dst first most : Nat) (s : State) (h_s : Kept none none qs s) : KeptO none none qs
    (execStatsRead h dst first most s) := by
  unfold execStatsRead
  repeat' first
    | with_reducible assumption | with_reducible apply State.packet_kept | with_reducible apply State.giveRecords_kept
    | with_reducible apply Kept_ite | with_reducible apply KeptO_next | with_reducible apply KeptO_ite | split
    | with_reducible intro _ _ _ | with_reducible intro _ _ | with_reducible intro _ | dsimp only
    | with_reducible apply Kept_mk

theorem execDefectRead_kept {qs : List Instr} (h : Hdr) (dst first most : Nat) (s : State) (h_s : Kept none none qs s) : KeptO none none qs
    (execDefectRead h dst first most s) := by
  unfold execDefectRead
  repeat' first
    | with_reducible assumption | with_reducible apply State.packet_kept | with_reducible apply State.giveRecords_kept
    | with_reducible apply Kept_ite | with_reducible apply KeptO_next | with_reducible apply KeptO_ite | split
    | with_reducible intro _ _ _ | with_reducible intro _ _ | with_reducible intro _ | dsimp only
    | with_reducible apply Kept_mk

theorem State.sendGencp_kept {hm : Option (Tbl Byte)} {dm : Option (Tbl Byte)} {qs : List Instr} (s : State) (cam : Nat) (h_s : Kept hm dm qs s)
    : Kept hm dm qs (State.sendGencp s cam) := by
  unfold State.sendGencp
  repeat' first
    | with_reducible assumption | with_reducible apply State.setCam_kept | with_reducible apply State.put_kept
    | with_reducible apply Kept_ite | split | with_reducible intro _ _ _ | with_reducible intro _ _ | with_reducible intro _
    | dsimp only | with_reducible apply Kept_mk

theorem execCamGencp_kept {dm : Option (Tbl Byte)} {qs : List Instr} (h : Hdr) (lane req reqLen room reply : Nat) (s : State) (h_s : Kept none dm qs s) : KeptO none dm qs (execCamGencp h lane req reqLen room reply s) := by
  unfold execCamGencp
  split
  · exact KeptO_next h_s
  · apply KeptO_next
    apply State.camPacket_kept _ _ _ _ _ _ _ _ _ h_s
    intro k pk s hs
    dsimp only
    split
    · exact State.sendGencp_kept _ _ (State.setCam_kept _ _ _ hs)
    · exact State.setCam_kept _ _ _ hs

theorem execGencpReply_kept {qs : List Instr} (cam : Fin 8) (data : List Byte) (s : State) (h_s : Kept none none qs s) : KeptO none none qs
    (execGencpReply cam data s) := by
  unfold execGencpReply
  repeat' first
    | with_reducible assumption | with_reducible apply State.setCam_kept | with_reducible apply State.writeAt_kept
    | with_reducible apply State.forwardCam_kept | with_reducible apply State.complete_kept
    | with_reducible apply State.sendGencp_kept | with_reducible apply Kept_ite | with_reducible apply KeptO_next
    | with_reducible apply KeptO_ite | split | with_reducible intro _ _ _ | with_reducible intro _ _ | with_reducible intro _
    | dsimp only | with_reducible apply Kept_mk

theorem execGencpTimeout_kept {dm : Option (Tbl Byte)} {qs : List Instr} (cam : Fin 8) (s : State) (h_s : Kept none dm qs s) : KeptO none dm qs
    (execGencpTimeout cam s) := by
  unfold execGencpTimeout
  repeat' first
    | with_reducible assumption | with_reducible apply State.advance_kept | with_reducible apply State.setCam_kept
    | with_reducible apply State.forwardCam_kept | with_reducible apply State.complete_kept
    | with_reducible apply State.sendGencp_kept | with_reducible apply Kept_ite | with_reducible apply KeptO_next
    | with_reducible apply KeptO_ite | split | with_reducible intro _ _ _ | with_reducible intro _ _ | with_reducible intro _
    | dsimp only | with_reducible apply Kept_mk

theorem execGpioMessage_kept {hm : Option (Tbl Byte)} {dm : Option (Tbl Byte)} {qs : List Instr} (cam : Fin 8) (inputs : BitVec 8) (s : State)
    (h_s : Kept hm dm qs s) : KeptO hm dm qs (execGpioMessage cam inputs s) := by
  unfold execGpioMessage
  repeat' first
    | with_reducible assumption | with_reducible apply State.wr_kept | with_reducible apply Kept_ite
    | with_reducible apply KeptO_next | with_reducible apply KeptO_ite | split | with_reducible intro _ _ _
    | with_reducible intro _ _ | with_reducible intro _ | dsimp only

theorem execCamLaneUp_kept {hm : Option (Tbl Byte)} {dm : Option (Tbl Byte)} {qs : List Instr} (cam : Fin 8) (s : State) (h_s : Kept hm dm qs s)
    : KeptO hm dm qs (execCamLaneUp cam s) := by
  unfold execCamLaneUp
  repeat' first
    | with_reducible assumption | with_reducible apply State.advance_kept | with_reducible apply State.wr_kept
    | with_reducible apply Kept_ite | with_reducible apply KeptO_next | with_reducible apply KeptO_ite | split
    | with_reducible intro _ _ _ | with_reducible intro _ _ | with_reducible intro _ | dsimp only

theorem State.camDown_kept {dm : Option (Tbl Byte)} {qs : List Instr} (s : State) (cam : Nat) (h_s : Kept none dm qs s) : Kept none dm qs
    (State.camDown s cam) := by
  unfold State.camDown
  repeat' first
    | with_reducible assumption | with_reducible apply State.wr_kept | with_reducible apply State.raiseIf_kept
    | with_reducible apply Kept_ite | split | with_reducible intro _ _ _ | with_reducible intro _ _ | with_reducible intro _
    | dsimp only

theorem State.sendMirror_kept {hm : Option (Tbl Byte)} {dm : Option (Tbl Byte)} {qs : List Instr} (s : State) (h_s : Kept hm dm qs s) : Kept hm
    dm qs (State.sendMirror s) := by
  unfold State.sendMirror
  repeat' first
    | with_reducible assumption | with_reducible apply State.wr_kept | with_reducible apply State.sendSeq_kept
    | with_reducible apply Kept_ite | split | with_reducible intro _ _ _ | with_reducible intro _ _ | with_reducible intro _
    | dsimp only

theorem State.noteReady_kept {hm : Option (Tbl Byte)} {dm : Option (Tbl Byte)} {qs : List Instr} (s : State) (h_s : Kept hm dm qs s) : Kept hm dm
    qs (State.noteReady s) := by
  unfold State.noteReady
  repeat' first
    | with_reducible assumption | with_reducible apply State.wr_kept | with_reducible apply Kept_ite | split
    | with_reducible intro _ _ _ | with_reducible intro _ _ | with_reducible intro _ | dsimp only

theorem State.joinCtx_kept {hm : Option (Tbl Byte)} {dm : Option (Tbl Byte)} {qs : List Instr} (s : State) (ctx : Nat) (c : Ctx) (h_s : Kept hm
    dm qs s) : Kept hm dm qs (State.joinCtx s ctx c) := by
  unfold State.joinCtx
  repeat' first
    | with_reducible assumption | with_reducible apply State.setHead_kept | with_reducible apply State.assignSlices_kept
    | with_reducible apply Kept_ite | with_reducible apply Kept_foldl | split | with_reducible intro _ _ _
    | with_reducible intro _ _ | with_reducible intro _ | dsimp only | with_reducible apply Kept_mk

theorem State.loadMirror_kept {dm : Option (Tbl Byte)} {qs : List Instr} (s : State) (m : Mirror) (h_s : Kept none dm qs s) : m.wf = true → Kept none dm qs (State.loadMirror s m) := by
  intro hm
  unfold State.loadMirror
  dsimp only
  apply State.noteReady_kept
  apply State.wr_kept
  apply Kept_mk
  refine Kept_foldl ?_ (fun s x h => State.joinCtx_kept _ _ _ h)
  refine Kept_foldl ?_ (fun s x h => State.updGroups_kept _ _ h)
  have h : Kept none dm qs ((mirrorRegs.zip m.regs).foldl (fun (s : State) (e : FRef × Nat) => s.wr e.1 e.2) s) := Kept_foldl h_s (fun s x h => State.wr_kept _ _ _ h)
  simp only [Mirror.wf, Bool.and_eq_true] at hm
  exact Kept_parts h (by have q := Kept_host h; exact q) (by have q := Kept_dram h; exact q) hm.1.1.1 hm.1.1.2 hm.1.2 hm.2

theorem State.lateRows_kept {dm : Option (Tbl Byte)} {qs : List Instr} (s : State) (ctx n : Nat) (h_s : Kept none dm qs s) : Kept none dm qs
    (State.lateRows s ctx n) := by
  unfold State.lateRows
  repeat' first
    | with_reducible assumption | with_reducible apply State.count_kept | with_reducible apply State.raise_kept
    | with_reducible apply Kept_ite | split | with_reducible intro _ _ _ | with_reducible intro _ _ | with_reducible intro _
    | dsimp only

theorem State.finishLanes_kept {dm : Option (Tbl Byte)} {qs : List Instr} (s : State) (ctx n : Nat) (h_s : Kept none dm qs s) : Kept none dm qs (State.finishLanes s ctx n).1 := by
  unfold State.finishLanes
  generalize (s.ctx ctx).laneList = l
  have : ∀ (l : List Nat) (a : State × Bool), Kept none dm qs a.1 →
      Kept none dm qs (l.foldl (fun (a : State × Bool) l => let r := a.1.finishSwath ctx l n; (r.1, a.2 || r.2)) a).1 := by
    intro l
    induction l with
    | nil => intro a h; exact h
    | cons x l ih => intro a h; exact ih _ (State.finishSwath_kept _ _ _ _ h)
  exact this l (s, false) h_s

theorem State.deadline_kept {dm : Option (Tbl Byte)} {qs : List Instr} (s : State) (ctx n : Nat) (h_s : Kept none dm qs s) : Kept none dm qs
    (State.deadline s ctx n) := by
  unfold State.deadline
  repeat' first
    | with_reducible assumption | with_reducible apply State.closeTo_kept | with_reducible apply State.forceDue_kept
    | with_reducible apply State.finishLanes_kept | with_reducible apply State.setCtx_kept
    | with_reducible apply State.count_kept | with_reducible apply State.raise_kept | with_reducible apply Kept_ite | split
    | with_reducible intro _ _ _ | with_reducible intro _ _ | with_reducible intro _ | dsimp only
    | with_reducible apply Kept_mk

theorem State.crossTo_kept {hm : Option (Tbl Byte)} {dm : Option (Tbl Byte)} {qs : List Instr} (s : State) (ctx m : Nat) (h_s : Kept hm dm qs s)
    : Kept hm dm qs (State.crossTo s ctx m) := by
  unfold State.crossTo
  repeat' first
    | with_reducible assumption | with_reducible apply State.crossLine_kept | with_reducible apply Kept_ite
    | with_reducible apply Kept_foldl | split | with_reducible intro _ _ _ | with_reducible intro _ _ | with_reducible intro _
    | dsimp only

theorem State.startLine_kept {dm : Option (Tbl Byte)} {qs : List Instr} (s : State) (ctx n : Nat) (h_s : Kept none dm qs s) : Kept none dm qs
    (State.startLine s ctx n) := by
  unfold State.startLine
  repeat' first
    | with_reducible assumption | with_reducible apply State.startSend_kept | with_reducible apply Kept_ite
    | with_reducible apply Kept_foldl | split | with_reducible intro _ _ _ | with_reducible intro _ _ | with_reducible intro _
    | dsimp only

theorem State.resumeCtx_kept {dm : Option (Tbl Byte)} {qs : List Instr} (s : State) (ctx e : Nat) (h_s : Kept none dm qs s) : Kept none dm qs
    (State.resumeCtx s ctx e) := by
  unfold State.resumeCtx
  repeat' first
    | with_reducible assumption | with_reducible apply State.setCtx_kept | with_reducible apply State.setHead_kept
    | with_reducible apply State.settleDue_kept | with_reducible apply State.startLine_kept | with_reducible apply Kept_ite
    | with_reducible apply Kept_foldl | split | with_reducible intro _ _ _ | with_reducible intro _ _ | with_reducible intro _
    | dsimp only | with_reducible apply Kept_mk

theorem State.resumeRaster_kept {dm : Option (Tbl Byte)} {qs : List Instr} (s : State) (h_s : Kept none dm qs s) : Kept none dm qs
    (State.resumeRaster s) := by
  unfold State.resumeRaster
  repeat' first
    | with_reducible assumption | with_reducible apply State.resumeCtx_kept | with_reducible apply Kept_ite
    | with_reducible apply Kept_foldl | split | with_reducible intro _ _ _ | with_reducible intro _ _ | with_reducible intro _
    | dsimp only | with_reducible apply Kept_mk

theorem State.digestTick_kept {hm : Option (Tbl Byte)} {dm : Option (Tbl Byte)} {qs : List Instr} (s : State) (ctx n : Nat) (h_s : Kept hm dm qs
    s) : Kept hm dm qs (State.digestTick s ctx n) := by
  unfold State.digestTick
  repeat' first
    | with_reducible assumption | with_reducible apply State.setCtx_kept | with_reducible apply State.sendSeq_kept
    | with_reducible apply State.sendMirror_kept | with_reducible apply Kept_ite | split | with_reducible intro _ _ _
    | with_reducible intro _ _ | with_reducible intro _ | dsimp only | with_reducible apply Kept_mk

theorem State.tick_kept {dm : Option (Tbl Byte)} {qs : List Instr} (s : State) (ctx n : Nat) (x : Int) (q t ch : Nat) (h_s : Kept none dm qs s) :
    Kept none dm qs (State.tick s ctx n x q t ch) := by
  unfold State.tick
  repeat' first
    | with_reducible assumption | with_reducible apply State.setCtx_kept | with_reducible apply State.tokenTick_kept
    | with_reducible apply State.noteReady_kept | with_reducible apply State.lateRows_kept
    | with_reducible apply State.deadline_kept | with_reducible apply State.crossTo_kept
    | with_reducible apply State.startLine_kept | with_reducible apply State.digestTick_kept
    | with_reducible apply State.camTicks_kept | with_reducible apply Kept_ite | split | with_reducible intro _ _ _
    | with_reducible intro _ _ | with_reducible intro _ | dsimp only | with_reducible apply Kept_mk

theorem State.overspeed_kept {dm : Option (Tbl Byte)} {qs : List Instr} (s : State) (ctx : Nat) (last : Option Nat) (t : Nat) (h_s : Kept none dm
    qs s) : Kept none dm qs (State.overspeed s ctx last t) := by
  unfold State.overspeed
  repeat' first
    | with_reducible assumption | with_reducible apply State.setCtx_kept | with_reducible apply State.raise_kept
    | with_reducible apply Kept_ite | split | with_reducible intro _ _ _ | with_reducible intro _ _ | with_reducible intro _
    | dsimp only | with_reducible apply Kept_mk

theorem State.commitAt_kept {dm : Option (Tbl Byte)} {qs : List Instr} (s : State) (g ctx t : Nat) (forced : Bool) (h_s : Kept none dm qs s) :
    Kept none dm qs (State.commitAt s g ctx t forced) := by
  unfold State.commitAt
  repeat' first
    | with_reducible assumption | with_reducible apply State.closeTo_kept | with_reducible apply State.setSyn_kept
    | with_reducible apply State.wr_kept | with_reducible apply State.applySyn_kept | with_reducible apply State.count_kept
    | with_reducible apply State.raise_kept | with_reducible apply State.planFire_kept
    | with_reducible apply State.overspeed_kept | with_reducible apply State.tick_kept | with_reducible apply Kept_ite
    | with_reducible apply Kept_foldl | split | with_reducible intro _ _ _ | with_reducible intro _ _ | with_reducible intro _
    | dsimp only | with_reducible apply Kept_mk

theorem State.commitForced_kept {dm : Option (Tbl Byte)} {qs : List Instr} (s : State) (g ctx e : Nat) (h_s : Kept none dm qs s) : Kept none dm
    qs (State.commitForced s g ctx e) := by
  unfold State.commitForced
  repeat' first
    | with_reducible assumption | with_reducible apply State.commitAt_kept | with_reducible apply Kept_ite | split
    | with_reducible intro _ _ _ | with_reducible intro _ _ | with_reducible intro _ | dsimp only
    | with_reducible apply Kept_mk

theorem State.commitLine_kept {dm : Option (Tbl Byte)} {qs : List Instr} (s : State) (g : Nat) (h_s : Kept none dm qs s) : Kept none dm qs
    (State.commitLine s g) := by
  unfold State.commitLine
  repeat' first
    | with_reducible assumption | with_reducible apply State.commitAt_kept | with_reducible apply State.commitForced_kept
    | with_reducible apply Kept_ite | split | with_reducible intro _ _ _ | with_reducible intro _ _ | with_reducible intro _
    | dsimp only | with_reducible apply Kept_mk

theorem execLineCommit_kept {dm : Option (Tbl Byte)} {qs : List Instr} (g : Fin 32) (t : Nat) (s : State) (h_s : Kept none dm qs s) : KeptO none
    dm qs (execLineCommit g t s) := by
  unfold execLineCommit
  repeat' first
    | with_reducible assumption | with_reducible apply State.advance_kept | with_reducible apply State.commitLine_kept
    | with_reducible apply Kept_ite | with_reducible apply KeptO_next | with_reducible apply KeptO_ite | split
    | with_reducible intro _ _ _ | with_reducible intro _ _ | with_reducible intro _ | dsimp only

theorem State.donePages_kept {dm : Option (Tbl Byte)} {qs : List Instr} (s : State) (ctx line : Nat) (h_s : Kept none dm qs s) : Kept none dm qs
    (State.donePages s ctx line) := by
  unfold State.donePages
  repeat' first
    | with_reducible assumption | with_reducible apply State.completePage_kept | with_reducible apply Kept_ite
    | with_reducible apply Kept_foldl | split | with_reducible intro _ _ _ | with_reducible intro _ _ | with_reducible intro _
    | dsimp only | with_reducible apply Kept_mk

theorem State.endIfDone_kept {dm : Option (Tbl Byte)} {qs : List Instr} (s : State) (ctx : Nat) (h_s : Kept none dm qs s) : Kept none dm qs
    (State.endIfDone s ctx) := by
  unfold State.endIfDone
  repeat' first
    | with_reducible assumption | with_reducible apply State.endContext_kept | with_reducible apply Kept_ite | split
    | with_reducible intro _ _ _ | with_reducible intro _ _ | with_reducible intro _ | dsimp only
    | with_reducible apply Kept_mk

theorem State.lineFired_kept {dm : Option (Tbl Byte)} {qs : List Instr} (s : State) (ctx line : Nat) (ts : List Nat) (h_s : Kept none dm qs s) :
    Kept none dm qs (State.lineFired s ctx line ts) := by
  unfold State.lineFired
  repeat' first
    | with_reducible assumption | with_reducible apply State.advance_kept | with_reducible apply State.txRun_kept
    | with_reducible apply State.setHead_kept | with_reducible apply State.crcDue_kept
    | with_reducible apply State.setSyn_kept | with_reducible apply State.setCtx_kept
    | with_reducible apply State.donePages_kept | with_reducible apply State.endIfDone_kept | with_reducible apply Kept_ite
    | with_reducible apply Kept_foldl | split | with_reducible intro _ _ _ | with_reducible intro _ _ | with_reducible intro _
    | dsimp only | with_reducible apply Kept_mk

theorem execLineFired_kept {dm : Option (Tbl Byte)} {qs : List Instr} (ctx line : Nat) (s : State) (h_s : Kept none dm qs s) : KeptO none dm qs
    (execLineFired ctx line s) := by
  unfold execLineFired
  repeat' first
    | with_reducible assumption | with_reducible apply State.lineFired_kept | with_reducible apply Kept_ite
    | with_reducible apply KeptO_next | with_reducible apply KeptO_ite | split | with_reducible intro _ _ _
    | with_reducible intro _ _ | with_reducible intro _ | dsimp only | with_reducible apply Kept_mk

theorem State.stopCtx_kept {dm : Option (Tbl Byte)} {qs : List Instr} (s : State) (ctx mode : Nat) (pk : Option Pk) (h_s : Kept none dm qs s) :
    Kept none dm qs (State.stopCtx s ctx mode pk) := by
  unfold State.stopCtx
  repeat' first
    | with_reducible assumption | with_reducible apply State.setCtx_kept | with_reducible apply State.endContext_kept
    | with_reducible apply State.endIfDone_kept | with_reducible apply Kept_ite | with_reducible apply Kept_foldl | split
    | with_reducible intro _ _ _ | with_reducible intro _ _ | with_reducible intro _ | dsimp only
    | with_reducible apply Kept_mk

theorem execNop_kept {dm : Option (Tbl Byte)} {qs : List Instr} (h : Hdr) (s : State) (h_s : Kept none dm qs s) : KeptO none dm qs (execNop h s)
    := by
  unfold execNop
  repeat' first
    | with_reducible assumption | with_reducible apply State.packet_kept | with_reducible apply State.complete_kept
    | with_reducible apply Kept_ite | with_reducible apply KeptO_next | with_reducible apply KeptO_ite | split
    | with_reducible intro _ _ _ | with_reducible intro _ _ | with_reducible intro _ | dsimp only

theorem State.openCtx_kept {qs : List Instr} (s : State) (n : Nat) (c : Ctx) (h_s : Kept none none qs s) : Kept none none qs (State.openCtx s n
    c) := by
  unfold State.openCtx
  repeat' first
    | with_reducible assumption | with_reducible apply State.dramWrite_kept | with_reducible apply State.wr_kept
    | with_reducible apply State.setCtx_kept | with_reducible apply Kept_ite | split | with_reducible intro _ _ _
    | with_reducible intro _ _ | with_reducible intro _ | dsimp only

theorem execCtxOpen_kept {qs : List Instr} (h : Hdr) (lanes groups silo siloMib columns mode rate : Nat) (s : State) (h_s : Kept none none qs s)
    : KeptO none none qs (execCtxOpen h lanes groups silo siloMib columns mode rate s) := by
  unfold execCtxOpen
  repeat' first
    | with_reducible assumption | with_reducible apply State.packet_kept | with_reducible apply State.complete_kept
    | with_reducible apply State.openCtx_kept | with_reducible apply Kept_ite | with_reducible apply KeptO_next
    | with_reducible apply KeptO_ite | split | with_reducible intro _ _ _ | with_reducible intro _ _ | with_reducible intro _
    | dsimp only | with_reducible apply Kept_mk

theorem State.startSyn_kept {hm : Option (Tbl Byte)} {dm : Option (Tbl Byte)} {qs : List Instr} (s : State) (start : Int) (g : Nat) (h_s : Kept
    hm dm qs s) : Kept hm dm qs (State.startSyn s start g) := by
  unfold State.startSyn
  repeat' first
    | with_reducible assumption | with_reducible apply State.setSyn_kept | with_reducible apply State.wr_kept
    | with_reducible apply Kept_ite | split | with_reducible intro _ _ _ | with_reducible intro _ _ | with_reducible intro _
    | dsimp only | with_reducible apply Kept_mk

theorem State.startCtx_kept {dm : Option (Tbl Byte)} {qs : List Instr} (s : State) (n : Nat) (pos : Int) (flags : Nat) (h_s : Kept none dm qs s)
    : Kept none dm qs (State.startCtx s n pos flags) := by
  unfold State.startCtx
  repeat' first
    | with_reducible assumption | with_reducible apply State.setCtx_kept | with_reducible apply State.startSyn_kept
    | with_reducible apply State.calStart_kept | with_reducible apply State.assignSlices_kept
    | with_reducible apply State.crossTo_kept | with_reducible apply State.closeTo_kept
    | with_reducible apply State.queueMap_kept | with_reducible apply State.startLine_kept | with_reducible apply Kept_ite
    | with_reducible apply Kept_foldl | split | with_reducible intro _ _ _ | with_reducible intro _ _ | with_reducible intro _
    | dsimp only | with_reducible apply Kept_mk

theorem execCtxStart_kept {dm : Option (Tbl Byte)} {qs : List Instr} (h : Hdr) (pos : Nat) (flags : Nat) (s : State) (h_s : Kept none dm qs s) :
    KeptO none dm qs (execCtxStart h pos flags s) := by
  unfold execCtxStart
  repeat' first
    | with_reducible assumption | with_reducible apply State.recordCheck_kept | with_reducible apply State.packet_kept
    | with_reducible apply State.startCtx_kept | with_reducible apply State.complete_kept | with_reducible apply Kept_ite
    | with_reducible apply KeptO_next | with_reducible apply KeptO_ite | split | with_reducible intro _ _ _
    | with_reducible intro _ _ | with_reducible intro _ | dsimp only | with_reducible apply Kept_mk

theorem execCtxStop_kept {dm : Option (Tbl Byte)} {qs : List Instr} (h : Hdr) (mode : Nat) (s : State) (h_s : Kept none dm qs s) : KeptO none dm
    qs (execCtxStop h mode s) := by
  unfold execCtxStop
  repeat' first
    | with_reducible assumption | with_reducible apply State.packet_kept | with_reducible apply State.stopCtx_kept
    | with_reducible apply Kept_ite | with_reducible apply KeptO_next | with_reducible apply KeptO_ite | split
    | with_reducible intro _ _ _ | with_reducible intro _ _ | with_reducible intro _ | dsimp only

theorem State.releaseSeal_kept {dm : Option (Tbl Byte)} {qs : List Instr} (s : State) (n : Nat) (h_s : Kept none dm qs s) : Kept none dm qs
    (State.releaseSeal s n) := by
  unfold State.releaseSeal
  repeat' first
    | with_reducible assumption | with_reducible apply State.audit_kept | with_reducible apply Kept_ite | split
    | with_reducible intro _ _ _ | with_reducible intro _ _ | with_reducible intro _ | dsimp only
    | with_reducible apply Kept_mk

theorem State.closeCtx_kept {dm : Option (Tbl Byte)} {qs : List Instr} (s : State) (n : Nat) (h_s : Kept none dm qs s) : Kept none dm qs
    (State.closeCtx s n) := by
  unfold State.closeCtx
  repeat' first
    | with_reducible assumption | with_reducible apply State.completePage_kept | with_reducible apply State.setSlice_kept
    | with_reducible apply State.releaseSeal_kept | with_reducible apply State.setCtx_kept | with_reducible apply Kept_ite
    | with_reducible apply Kept_foldl | split | with_reducible intro _ _ _ | with_reducible intro _ _ | with_reducible intro _
    | dsimp only | with_reducible apply Kept_mk

theorem execCtxClose_kept {dm : Option (Tbl Byte)} {qs : List Instr} (h : Hdr) (s : State) (h_s : Kept none dm qs s) : KeptO none dm qs
    (execCtxClose h s) := by
  unfold execCtxClose
  repeat' first
    | with_reducible assumption | with_reducible apply State.packet_kept | with_reducible apply State.closeCtx_kept
    | with_reducible apply State.complete_kept | with_reducible apply Kept_ite | with_reducible apply KeptO_next
    | with_reducible apply KeptO_ite | split | with_reducible intro _ _ _ | with_reducible intro _ _ | with_reducible intro _
    | dsimp only

theorem execCtxQuery_kept {dm : Option (Tbl Byte)} {qs : List Instr} (h : Hdr) (s : State) (h_s : Kept none dm qs s) : KeptO none dm qs
    (execCtxQuery h s) := by
  unfold execCtxQuery
  repeat' first
    | with_reducible assumption | with_reducible apply State.packet_kept | with_reducible apply State.complete_kept
    | with_reducible apply Kept_ite | with_reducible apply KeptO_next | with_reducible apply KeptO_ite | split
    | with_reducible intro _ _ _ | with_reducible intro _ _ | with_reducible intro _ | dsimp only

end Sys2Proof.Machine
end

