-- ==== Sys2Proof/Laws/KeptMemory.lean ====
section
/-!
SUPPORT. What memory and time keep: one lemma a definition, that it leaves the memories in canonical form and the queue as it is, and host memory
(`hm`) or DRAM (`dm`) as well where the lemma leaves them general.
-/

set_option linter.all false

namespace Sys2Proof.Machine

theorem State.poisonDst_kept {hm : Option (Tbl Byte)} {dm : Option (Tbl Byte)} {qs : List Instr} (s : State) (dst : Nat) (parts : List (Nat ×
    Nat)) (h_s : Kept hm dm qs s) : Kept hm dm qs (State.poisonDst s dst parts) := by
  unfold State.poisonDst
  repeat' first
    | with_reducible assumption | with_reducible apply State.poisonRange_kept | with_reducible apply State.suppress_kept
    | with_reducible apply State.put_kept | with_reducible apply Kept_ite | with_reducible apply Kept_foldl | split
    | with_reducible intro _ _ _ | with_reducible intro _ _ | with_reducible intro _ | dsimp only

theorem execDmaCopy_kept {qs : List Instr} (h : Hdr) (src dst len : Nat) (s : State) (h_s : Kept none none qs s) : KeptO none none qs
    (execDmaCopy h src dst len s) := by
  unfold execDmaCopy
  repeat' first
    | with_reducible assumption | with_reducible apply State.packet_kept | with_reducible apply State.touch_kept
    | with_reducible apply State.writeAt_kept | with_reducible apply State.usePoison_kept
    | with_reducible apply State.poisonDst_kept | with_reducible apply State.complete_kept | with_reducible apply Kept_ite
    | with_reducible apply KeptO_next | with_reducible apply KeptO_ite | with_reducible apply Kept_foldl | split
    | with_reducible intro _ _ _ | with_reducible intro _ _ | with_reducible intro _ | dsimp only

theorem execMemRetire_kept {dm : Option (Tbl Byte)} {qs : List Instr} (h : Hdr) (addr : Nat) (s : State) (h_s : Kept none dm qs s) : KeptO none
    dm qs (execMemRetire h addr s) := by
  unfold execMemRetire
  repeat' first
    | with_reducible assumption | with_reducible apply State.packet_kept | with_reducible apply State.complete_kept
    | with_reducible apply State.logMem_kept | with_reducible apply Kept_ite | with_reducible apply KeptO_next
    | with_reducible apply KeptO_ite | split | with_reducible intro _ _ _ | with_reducible intro _ _ | with_reducible intro _
    | dsimp only | with_reducible apply Kept_mk

theorem State.copyRowErrors_kept {dm : Option (Tbl Byte)} {qs : List Instr} (s : State) (ch row : Nat) (h_s : Kept none dm qs s) : Kept none dm
    qs (State.copyRowErrors s ch row) := by
  unfold State.copyRowErrors
  repeat' first
    | with_reducible assumption | with_reducible apply State.mergeWord_kept | with_reducible apply Kept_ite
    | with_reducible apply Kept_foldl | split | with_reducible intro _ _ _ | with_reducible intro _ _ | with_reducible intro _
    | dsimp only

theorem execMemRemap_kept {dm : Option (Tbl Byte)} {qs : List Instr} (h : Hdr) (ch row : Nat) (s : State) (h_s : Kept none dm qs s) : KeptO none
    dm qs (execMemRemap h ch row s) := by
  unfold execMemRemap
  repeat' first
    | with_reducible assumption | with_reducible apply State.packetW_kept | with_reducible apply State.copyRowErrors_kept
    | with_reducible apply State.wr_kept | with_reducible apply State.draw_kept | with_reducible apply State.logMem_kept
    | with_reducible apply State.complete_kept | with_reducible apply Kept_ite | with_reducible apply KeptO_next
    | with_reducible apply KeptO_ite | split | with_reducible intro _ _ _ | with_reducible intro _ _ | with_reducible intro _
    | dsimp only | with_reducible apply Kept_mk

theorem State.takeRecords_kept {hm : Option (Tbl Byte)} {dm : Option (Tbl Byte)} {qs : List Instr} (s : State) (most : Nat) (h_s : Kept hm dm qs
    s) : Kept hm dm qs (State.takeRecords s most) := by
  unfold State.takeRecords
  repeat' first
    | with_reducible assumption | with_reducible apply Kept_ite | with_reducible apply Kept_foldl | split
    | with_reducible intro _ _ _ | with_reducible intro _ _ | with_reducible intro _ | dsimp only
    | with_reducible apply Kept_mk

theorem execMemLogRead_kept {qs : List Instr} (h : Hdr) (dst most : Nat) (s : State) (h_s : Kept none none qs s) : KeptO none none qs
    (execMemLogRead h dst most s) := by
  unfold execMemLogRead
  repeat' first
    | with_reducible assumption | with_reducible apply State.packet_kept | with_reducible apply State.noteRead_kept
    | with_reducible apply State.cleanWords_kept | with_reducible apply State.takeRecords_kept
    | with_reducible apply State.writePoisoned_kept | with_reducible apply State.usePoison_kept
    | with_reducible apply State.complete_kept | with_reducible apply State.writeAt_kept | with_reducible apply Kept_ite
    | with_reducible apply KeptO_next | with_reducible apply KeptO_ite | with_reducible apply Kept_foldl | split
    | with_reducible intro _ _ _ | with_reducible intro _ _ | with_reducible intro _ | dsimp only
    | with_reducible apply Kept_mk

theorem State.upset_kept {hm : Option (Tbl Byte)} {dm : Option (Tbl Byte)} {qs : List Instr} (s : State) (es : List (Nat × Nat)) (h_s : Kept hm
    dm qs s) : Kept hm dm qs (State.upset s es) := by
  unfold State.upset
  repeat' first
    | with_reducible assumption | with_reducible apply Kept_ite | with_reducible apply Kept_foldl | split
    | with_reducible intro _ _ _ | with_reducible intro _ _ | with_reducible intro _ | dsimp only
    | with_reducible apply Kept_mk

theorem State.degrade_kept {dm : Option (Tbl Byte)} {qs : List Instr} (s : State) (h_s : Kept none dm qs s) : Kept none dm qs (State.degrade s)
    := by
  unfold State.degrade
  repeat' first
    | with_reducible assumption | with_reducible apply State.wr_kept | with_reducible apply State.raise_kept
    | with_reducible apply Kept_ite | split | with_reducible intro _ _ _ | with_reducible intro _ _ | with_reducible intro _
    | dsimp only

theorem State.urgentStep_kept {dm : Option (Tbl Byte)} {qs : List Instr} (s : State) (h_s : Kept none dm qs s) : Kept none dm qs
    (State.urgentStep s) := by
  unfold State.urgentStep
  repeat' first
    | with_reducible assumption | with_reducible apply State.degrade_kept | with_reducible apply Kept_ite | split
    | with_reducible intro _ _ _ | with_reducible intro _ _ | with_reducible intro _ | dsimp only
    | with_reducible apply Kept_mk

theorem State.parityAt_kept {dm : Option (Tbl Byte)} {qs : List Instr} (s : State) (logical : Nat) (h_s : Kept none dm qs s) : Kept none dm qs
    (State.parityAt s logical) := by
  unfold State.parityAt
  repeat' first
    | with_reducible assumption | with_reducible apply State.urgentStep_kept | with_reducible apply Kept_ite | split
    | with_reducible intro _ _ _ | with_reducible intro _ _ | with_reducible intro _ | dsimp only
    | with_reducible apply Kept_mk

theorem State.granLost_kept {dm : Option (Tbl Byte)} {qs : List Instr} (s : State) (addr : Nat) (loft : Option (Nat × Nat × Nat)) (h_s : Kept
    none dm qs s) : Kept none dm qs (State.granLost s addr loft) := by
  unfold State.granLost
  repeat' first
    | with_reducible assumption | with_reducible apply State.setHead_kept | with_reducible apply State.markLaneLine_kept
    | with_reducible apply State.count_kept | with_reducible apply State.raise_kept | with_reducible apply Kept_ite
    | with_reducible apply Kept_foldl | split | with_reducible intro _ _ _ | with_reducible intro _ _ | with_reducible intro _
    | dsimp only | with_reducible apply Kept_mk

theorem State.granRead_kept {dm : Option (Tbl Byte)} {qs : List Instr} (s : State) (kind addr : Nat) (parity replayed : Bool) (loft : Option (Nat
    × Nat × Nat)) (h_s : Kept none dm qs s) : Kept none dm qs (State.granRead s kind addr parity replayed loft) := by
  unfold State.granRead
  repeat' first
    | with_reducible assumption | with_reducible apply State.parityAt_kept | with_reducible apply State.logMem_kept
    | with_reducible apply State.count_kept | with_reducible apply State.raise_kept | with_reducible apply State.granLost_kept
    | with_reducible apply Kept_ite | split | with_reducible intro _ _ _ | with_reducible intro _ _ | with_reducible intro _
    | dsimp only | with_reducible apply Kept_mk

theorem State.served_kept {dm : Option (Tbl Byte)} {qs : List Instr} (s : State) (cls ns : Nat) (h_s : Kept none dm qs s) : Kept none dm qs
    (State.served s cls ns) := by
  unfold State.served
  repeat' first
    | with_reducible assumption | with_reducible apply State.wr_kept | with_reducible apply State.raiseIf_kept
    | with_reducible apply Kept_ite | split | with_reducible intro _ _ _ | with_reducible intro _ _ | with_reducible intro _
    | dsimp only

theorem State.reloadFirmware_kept {hm : Option (Tbl Byte)} {dm : Option (Tbl Byte)} {qs : List Instr} (s : State) (addr len : Nat) (h_s : Kept hm
    dm qs s) : Kept hm dm qs (State.reloadFirmware s addr len) := by
  unfold State.reloadFirmware
  repeat' first
    | with_reducible assumption | with_reducible apply Kept_ite | split | with_reducible intro _ _ _
    | with_reducible intro _ _ | with_reducible intro _ | dsimp only | with_reducible apply Kept_mk

theorem State.readRequest_kept {dm : Option (Tbl Byte)} {qs : List Instr} (s : State) (kind addr len : Nat) (h_s : Kept none dm qs s) : Kept none
    dm qs (State.readRequest s kind addr len) := by
  unfold State.readRequest
  repeat' first
    | with_reducible assumption | with_reducible apply State.noteRead_kept | with_reducible apply State.secError_kept
    | with_reducible apply State.usePoison_kept | with_reducible apply State.reloadFirmware_kept
    | with_reducible apply Kept_ite | split | with_reducible intro _ _ _ | with_reducible intro _ _ | with_reducible intro _
    | dsimp only

theorem State.memRequest_kept {qs : List Instr} (s : State) (kind cls ns : Nat) (req : MemReq) (upsets : List (Nat × Nat)) (sampled : Bool) (h_s
    : Kept none none qs s) : Kept none none qs (State.memRequest s kind cls ns req upsets sampled) := by
  unfold State.memRequest
  repeat' first
    | with_reducible assumption | with_reducible apply State.upset_kept | with_reducible apply State.readRequest_kept
    | with_reducible apply State.dramWrite_kept | with_reducible apply State.granRead_kept
    | with_reducible apply State.count_kept | with_reducible apply State.served_kept | with_reducible apply Kept_ite | split
    | with_reducible intro _ _ _ | with_reducible intro _ _ | with_reducible intro _ | dsimp only
    | with_reducible apply Kept_mk

theorem State.takeChannel_kept {hm : Option (Tbl Byte)} {dm : Option (Tbl Byte)} {qs : List Instr} (s : State) (start cls ns : Nat) (req :
    MemReq) (young : Bool) (h_s : Kept hm dm qs s) : Kept hm dm qs (State.takeChannel s start cls ns req young) := by
  unfold State.takeChannel
  repeat' first
    | with_reducible assumption | with_reducible apply Kept_ite | split | with_reducible intro _ _ _
    | with_reducible intro _ _ | with_reducible intro _ | dsimp only | with_reducible apply Kept_mk

theorem State.serveReq_kept {qs : List Instr} (s : State) (ch : Nat) (w : MemWait) (h_s : Kept none none qs s) : Kept none none qs
    (State.serveReq s ch w) := by
  unfold State.serveReq
  repeat' first
    | with_reducible assumption | with_reducible apply State.takeChannel_kept | with_reducible apply State.memRequest_kept
    | with_reducible apply Kept_ite | split | with_reducible intro _ _ _ | with_reducible intro _ _ | with_reducible intro _
    | dsimp only | with_reducible apply Kept_mk

theorem State.memRun_kept {qs : List Instr} (s : State) (h_s : Kept none none qs s) : ∀ y0 : Nat, Kept none none qs (State.memRun s y0) := by
  intro n
  induction n generalizing s with
  | zero => exact h_s
  | succ n ih =>
    unfold State.memRun
    split
    · exact h_s
    · split
      · exact h_s
      · exact ih _ (State.serveReq_kept _ _ _ h_s)

theorem State.memArrive_kept {qs : List Instr} (s : State) (kind cls ns : Nat) (req : MemReq) (upsets : List (Nat × Nat)) (sampled : Bool) (h_s :
    Kept none none qs s) : Kept none none qs (State.memArrive s kind cls ns req upsets sampled) := by
  unfold State.memArrive
  repeat' first
    | with_reducible assumption | with_reducible apply State.memRun_kept | with_reducible apply State.takeChannel_kept
    | with_reducible apply State.memRequest_kept | with_reducible apply Kept_ite | split | with_reducible intro _ _ _
    | with_reducible intro _ _ | with_reducible intro _ | dsimp only | with_reducible apply Kept_mk

theorem execMemRequest_kept {qs : List Instr} (kind cls ns : Nat) (req : MemReq) (upsets : List (Nat × Nat)) (sampled : Bool) (s : State) (h_s :
    Kept none none qs s) : KeptO none none qs (execMemRequest kind cls ns req upsets sampled s) := by
  unfold execMemRequest
  repeat' first
    | with_reducible assumption | with_reducible apply State.memArrive_kept | with_reducible apply Kept_ite
    | with_reducible apply KeptO_next | with_reducible apply KeptO_ite | split | with_reducible intro _ _ _
    | with_reducible intro _ _ | with_reducible intro _ | dsimp only

theorem execAgePromotion_kept {qs : List Instr} (s : State) (h_s : Kept none none qs s) : KeptO none none qs (execAgePromotion s) := by
  unfold execAgePromotion
  repeat' first
    | with_reducible assumption | with_reducible apply State.advance_kept | with_reducible apply State.memRun_kept
    | with_reducible apply State.count_kept | with_reducible apply Kept_ite | with_reducible apply KeptO_next
    | with_reducible apply KeptO_ite | split | with_reducible intro _ _ _ | with_reducible intro _ _ | with_reducible intro _
    | dsimp only | with_reducible apply Kept_mk

theorem execRefresh_kept {qs : List Instr} (ch : Fin 4) (s : State) (h_s : Kept none none qs s) : KeptO none none qs (execRefresh ch s) := by
  unfold execRefresh
  repeat' first
    | with_reducible assumption | with_reducible apply State.advance_kept | with_reducible apply State.memRun_kept
    | with_reducible apply Kept_ite | with_reducible apply KeptO_next | with_reducible apply KeptO_ite | split
    | with_reducible intro _ _ _ | with_reducible intro _ _ | with_reducible intro _ | dsimp only
    | with_reducible apply Kept_mk

theorem State.pollRefresh_kept {dm : Option (Tbl Byte)} {qs : List Instr} (s : State) (c : Nat) (above : Bool) (t : Nat) (h_s : Kept none dm qs
    s) : Kept none dm qs (State.pollRefresh s c above t) := by
  unfold State.pollRefresh
  repeat' first
    | with_reducible assumption | with_reducible apply State.advance_kept | with_reducible apply State.wr_kept
    | with_reducible apply State.raise_kept | with_reducible apply Kept_ite | split | with_reducible intro _ _ _
    | with_reducible intro _ _ | with_reducible intro _ | dsimp only | with_reducible apply Kept_mk

theorem execRefreshRatePoll_kept {dm : Option (Tbl Byte)} {qs : List Instr} (ch : Fin 4) (above : Bool) (t : Nat) (s : State) (h_s : Kept none dm
    qs s) : KeptO none dm qs (execRefreshRatePoll ch above t s) := by
  unfold execRefreshRatePoll
  repeat' first
    | with_reducible assumption | with_reducible apply State.advance_kept | with_reducible apply State.pollRefresh_kept
    | with_reducible apply Kept_ite | with_reducible apply KeptO_next | with_reducible apply KeptO_ite | split
    | with_reducible intro _ _ _ | with_reducible intro _ _ | with_reducible intro _ | dsimp only

theorem State.stallWork_kept {hm : Option (Tbl Byte)} {dm : Option (Tbl Byte)} {qs : List Instr} (s : State) (ch : Nat) (h_s : Kept hm dm qs s) :
    Kept hm dm qs (State.stallWork s ch) := by
  unfold State.stallWork
  repeat' first
    | with_reducible assumption | with_reducible apply State.draw_kept | with_reducible apply Kept_ite | split
    | with_reducible intro _ _ _ | with_reducible intro _ _ | with_reducible intro _ | dsimp only
    | with_reducible apply Kept_mk

theorem execEyeRecentre_kept {hm : Option (Tbl Byte)} {dm : Option (Tbl Byte)} {qs : List Instr} (ch : Fin 4) (readPs writePs : Nat) (s : State)
    (h_s : Kept hm dm qs s) : KeptO hm dm qs (execEyeRecentre ch readPs writePs s) := by
  unfold execEyeRecentre
  repeat' first
    | with_reducible assumption | with_reducible apply State.stallWork_kept | with_reducible apply State.wr_kept
    | with_reducible apply Kept_ite | with_reducible apply KeptO_next | with_reducible apply KeptO_ite | split
    | with_reducible intro _ _ _ | with_reducible intro _ _ | with_reducible intro _ | dsimp only

theorem execImpedanceCalibration_kept {hm : Option (Tbl Byte)} {dm : Option (Tbl Byte)} {qs : List Instr} (ch : Fin 4) (s : State) (h_s : Kept hm
    dm qs s) : KeptO hm dm qs (execImpedanceCalibration ch s) := by
  unfold execImpedanceCalibration
  repeat' first
    | with_reducible assumption | with_reducible apply State.stallWork_kept | with_reducible apply Kept_ite
    | with_reducible apply KeptO_next | with_reducible apply KeptO_ite | split | with_reducible intro _ _ _
    | with_reducible intro _ _ | with_reducible intro _ | dsimp only

theorem State.scrubWord_kept {dm : Option (Tbl Byte)} {qs : List Instr} (s : State) (w : Nat) (h_s : Kept none dm qs s) : Kept none dm qs
    (State.scrubWord s w) := by
  unfold State.scrubWord
  repeat' first
    | with_reducible assumption | with_reducible apply State.correctWord_kept | with_reducible apply State.noteUe_kept
    | with_reducible apply Kept_ite | split | with_reducible intro _ _ _ | with_reducible intro _ _ | with_reducible intro _
    | dsimp only | with_reducible apply Kept_mk

theorem execScrub_kept {dm : Option (Tbl Byte)} {qs : List Instr} (addr words : Nat) (upsets : List (Nat × Nat)) (s : State) (h_s : Kept none dm
    qs s) : KeptO none dm qs (execScrub addr words upsets s) := by
  unfold execScrub
  repeat' first
    | with_reducible assumption | with_reducible apply State.scrubWord_kept | with_reducible apply State.upset_kept
    | with_reducible apply Kept_ite | with_reducible apply KeptO_next | with_reducible apply KeptO_ite
    | with_reducible apply Kept_foldl | split | with_reducible intro _ _ _ | with_reducible intro _ _ | with_reducible intro _
    | dsimp only

theorem execSelfRefreshEntry_kept {hm : Option (Tbl Byte)} {dm : Option (Tbl Byte)} {qs : List Instr} (ch : Fin 4) (s : State) (h_s : Kept hm dm
    qs s) : KeptO hm dm qs (execSelfRefreshEntry ch s) := by
  unfold execSelfRefreshEntry
  repeat' first
    | with_reducible assumption | with_reducible apply State.advance_kept | with_reducible apply State.wr_kept
    | with_reducible apply Kept_ite | with_reducible apply KeptO_next | with_reducible apply KeptO_ite | split
    | with_reducible intro _ _ _ | with_reducible intro _ _ | with_reducible intro _ | dsimp only

theorem execGranaryRotation_kept {hm : Option (Tbl Byte)} {dm : Option (Tbl Byte)} {qs : List Instr} (t : Nat) (s : State) (h_s : Kept hm dm qs
    s) : KeptO hm dm qs (execGranaryRotation t s) := by
  unfold execGranaryRotation
  repeat' first
    | with_reducible assumption | with_reducible apply State.advance_kept | with_reducible apply Kept_ite
    | with_reducible apply KeptO_next | with_reducible apply KeptO_ite | split | with_reducible intro _ _ _
    | with_reducible intro _ _ | with_reducible intro _ | dsimp only | with_reducible apply Kept_mk

theorem execBankMove_kept {hm : Option (Tbl Byte)} {dm : Option (Tbl Byte)} {qs : List Instr} (s : State) (h_s : Kept hm dm qs s) : KeptO hm dm
    qs (execBankMove s) := by
  unfold execBankMove
  repeat' first
    | with_reducible assumption | with_reducible apply Kept_ite | with_reducible apply KeptO_next
    | with_reducible apply KeptO_ite | split | with_reducible intro _ _ _ | with_reducible intro _ _ | with_reducible intro _
    | dsimp only | with_reducible apply Kept_mk

theorem State.endBist_kept {dm : Option (Tbl Byte)} {qs : List Instr} (s : State) (passed : Bool) (h_s : Kept none dm qs s) : Kept none dm qs
    (State.endBist s passed) := by
  unfold State.endBist
  repeat' first
    | with_reducible assumption | with_reducible apply State.urgentStep_kept | with_reducible apply State.wr_kept
    | with_reducible apply State.degrade_kept | with_reducible apply Kept_ite | split | with_reducible intro _ _ _
    | with_reducible intro _ _ | with_reducible intro _ | dsimp only | with_reducible apply Kept_mk

theorem State.boot_kept {hm : Option (Tbl Byte)} {dm : Option (Tbl Byte)} {qs : List Instr} (s : State) (st : BootStage) (h_s : Kept hm dm qs s)
    : Kept hm dm qs (State.boot s st) := by
  unfold State.boot
  repeat' first
    | with_reducible assumption | with_reducible apply Kept_ite | split | with_reducible intro _ _ _
    | with_reducible intro _ _ | with_reducible intro _ | dsimp only | with_reducible apply Kept_mk

theorem execDramTrainingEnd_kept {dm : Option (Tbl Byte)} {qs : List Instr} (trained : BitVec 4) (s : State) (h_s : Kept none dm qs s) : KeptO
    none dm qs (execDramTrainingEnd trained s) := by
  unfold execDramTrainingEnd
  repeat' first
    | with_reducible assumption | with_reducible apply State.boot_kept | with_reducible apply State.wrB_kept
    | with_reducible apply State.draw_kept | with_reducible apply State.logMem_kept | with_reducible apply State.raiseIf_kept
    | with_reducible apply Kept_ite | with_reducible apply KeptO_next | with_reducible apply KeptO_ite
    | with_reducible apply Kept_foldl | split | with_reducible intro _ _ _ | with_reducible intro _ _ | with_reducible intro _
    | dsimp only | with_reducible apply Kept_mk

theorem execZeroFillEnd_kept {hm : Option (Tbl Byte)} {qs : List Instr} (s : State) (h_s : Kept hm none qs s) : KeptO hm none qs (execZeroFillEnd s) := by
  unfold execZeroFillEnd
  split
  · exact KeptO_next h_s
  · have h := State.wr_kept _ R.MEM_STATE_ZERO_DONE 1 (State.boot_kept s .filled h_s)
    exact KeptO_next (Kept_parts h (by have q := Kept_host h; exact q) rfl (by have q := Kept_nmap h; exact q) (by have q := Kept_ncal h; exact q) (by have q := Kept_thresh h; exact q) (by have q := Kept_levels h; exact q))

theorem State.injectWrite_kept {qs : List Instr} (s : State) (k kind addr : Nat) (data : BitVec 64) (h_s : Kept none none qs s) : Kept none none
    qs (State.injectWrite s k kind addr data) := by
  unfold State.injectWrite
  repeat' first
    | with_reducible assumption | with_reducible apply State.dramWrite_kept | with_reducible apply Kept_ite | split
    | with_reducible intro _ _ _ | with_reducible intro _ _ | with_reducible intro _ | dsimp only

theorem execInjectOneBit_kept {qs : List Instr} (kind addr : Nat) (data : BitVec 64) (s : State) (h_s : Kept none none qs s) : KeptO none none qs
    (execInjectOneBit kind addr data s) := by
  unfold execInjectOneBit
  repeat' first
    | with_reducible assumption | with_reducible apply State.injectWrite_kept | with_reducible apply Kept_ite
    | with_reducible apply KeptO_next | with_reducible apply KeptO_ite | split | with_reducible intro _ _ _
    | with_reducible intro _ _ | with_reducible intro _ | dsimp only

theorem execInjectTwoBits_kept {qs : List Instr} (kind addr : Nat) (data : BitVec 64) (s : State) (h_s : Kept none none qs s) : KeptO none none
    qs (execInjectTwoBits kind addr data s) := by
  unfold execInjectTwoBits
  repeat' first
    | with_reducible assumption | with_reducible apply State.injectWrite_kept | with_reducible apply Kept_ite
    | with_reducible apply KeptO_next | with_reducible apply KeptO_ite | split | with_reducible intro _ _ _
    | with_reducible intro _ _ | with_reducible intro _ | dsimp only

theorem execInjectPoison_kept {qs : List Instr} (kind addr : Nat) (data : BitVec 64) (s : State) (h_s : Kept none none qs s) : KeptO none none qs
    (execInjectPoison kind addr data s) := by
  unfold execInjectPoison
  repeat' first
    | with_reducible assumption | with_reducible apply State.injectWrite_kept | with_reducible apply Kept_ite
    | with_reducible apply KeptO_next | with_reducible apply KeptO_ite | split | with_reducible intro _ _ _
    | with_reducible intro _ _ | with_reducible intro _ | dsimp only

theorem State.setPls_kept {hm : Option (Tbl Byte)} {dm : Option (Tbl Byte)} {qs : List Instr} (s : State) (k : Nat) (x : PlsRt) (h_s : Kept hm dm
    qs s) : Kept hm dm qs (State.setPls s k x) := by
  unfold State.setPls
  repeat' first
    | with_reducible assumption | with_reducible apply Kept_ite | split | with_reducible intro _ _ _
    | with_reducible intro _ _ | with_reducible intro _ | dsimp only | with_reducible apply Kept_mk

theorem State.skipPulses_kept {dm : Option (Tbl Byte)} {qs : List Instr} (s : State) (k n : Nat) (h_s : Kept none dm qs s) : Kept none dm qs
    (State.skipPulses s k n) := by
  unfold State.skipPulses
  repeat' first
    | with_reducible assumption | with_reducible apply State.count_kept | with_reducible apply State.raise_kept
    | with_reducible apply Kept_ite | split | with_reducible intro _ _ _ | with_reducible intro _ _ | with_reducible intro _
    | dsimp only

theorem State.pulseLevel_kept {hm : Option (Tbl Byte)} {dm : Option (Tbl Byte)} {qs : List Instr} (s : State) (k : Nat) (on : Bool) (t : Nat)
    (h_s : Kept hm dm qs s) : Kept hm dm qs (State.pulseLevel s k on t) := by
  unfold State.pulseLevel
  repeat' first
    | with_reducible assumption | with_reducible apply State.put_kept | with_reducible apply Kept_ite | split
    | with_reducible intro _ _ _ | with_reducible intro _ _ | with_reducible intro _ | dsimp only

theorem State.commitPulse_kept {dm : Option (Tbl Byte)} {qs : List Instr} (s : State) (k : Nat) (x : PlsSched) (i f : Nat) (h_s : Kept none dm qs
    s) : Kept none dm qs (State.commitPulse s k x i f) := by
  unfold State.commitPulse
  repeat' first
    | with_reducible assumption | with_reducible apply State.setPls_kept | with_reducible apply State.skipPulses_kept
    | with_reducible apply State.count_kept | with_reducible apply State.pulseLevel_kept | with_reducible apply Kept_ite
    | split | with_reducible intro _ _ _ | with_reducible intro _ _ | with_reducible intro _ | dsimp only
    | with_reducible apply Kept_mk

theorem execPulseCommit_kept {dm : Option (Tbl Byte)} {qs : List Instr} (out : Fin 8) (t : Nat) (s : State) (h_s : Kept none dm qs s) : KeptO
    none dm qs (execPulseCommit out t s) := by
  unfold execPulseCommit
  repeat' first
    | with_reducible assumption | with_reducible apply State.advance_kept | with_reducible apply State.commitPulse_kept
    | with_reducible apply Kept_ite | with_reducible apply KeptO_next | with_reducible apply KeptO_ite | split
    | with_reducible intro _ _ _ | with_reducible intro _ _ | with_reducible intro _ | dsimp only
    | with_reducible apply Kept_mk

theorem execPulseEnd_kept {hm : Option (Tbl Byte)} {dm : Option (Tbl Byte)} {qs : List Instr} (out : Fin 8) (t : Nat) (s : State) (h_s : Kept hm
    dm qs s) : KeptO hm dm qs (execPulseEnd out t s) := by
  unfold execPulseEnd
  repeat' first
    | with_reducible assumption | with_reducible apply State.advance_kept | with_reducible apply State.setPls_kept
    | with_reducible apply State.pulseLevel_kept | with_reducible apply Kept_ite | with_reducible apply KeptO_next
    | with_reducible apply KeptO_ite | split | with_reducible intro _ _ _ | with_reducible intro _ _ | with_reducible intro _
    | dsimp only | with_reducible apply Kept_mk

theorem State.passPulses_kept {dm : Option (Tbl Byte)} {qs : List Instr} (s : State) (b : Nat) (v : Int) (h_s : Kept none dm qs s) : Kept none dm
    qs (State.passPulses s b v) := by
  unfold State.passPulses
  repeat' first
    | with_reducible assumption | with_reducible apply State.draw_kept | with_reducible apply State.skipPulses_kept
    | with_reducible apply State.commitPulse_kept | with_reducible apply Kept_ite | with_reducible apply Kept_foldl | split
    | with_reducible intro _ _ _ | with_reducible intro _ _ | with_reducible intro _ | dsimp only
    | with_reducible apply Kept_mk

theorem State.stepTo_kept {dm : Option (Tbl Byte)} {qs : List Instr} (s : State) (b : Nat) (v : Int) (h_s : Kept none dm qs s) : Kept none dm qs
    (State.stepTo s b v) := by
  unfold State.stepTo
  repeat' first
    | with_reducible assumption | with_reducible apply State.stepBase_kept | with_reducible apply State.passPulses_kept
    | with_reducible apply State.count_kept | with_reducible apply State.raise_kept | with_reducible apply Kept_ite | split
    | with_reducible intro _ _ _ | with_reducible intro _ _ | with_reducible intro _ | dsimp only

theorem execPulseSet_kept {dm : Option (Tbl Byte)} {qs : List Instr} (h : Hdr) (output base sec ns frac period width : Nat) (s : State) (h_s :
    Kept none dm qs s) : KeptO none dm qs (execPulseSet h output base sec ns frac period width s) := by
  unfold execPulseSet
  repeat' first
    | with_reducible assumption | with_reducible apply State.packet_kept | with_reducible apply State.setPls_kept
    | with_reducible apply State.complete_kept | with_reducible apply Kept_ite | with_reducible apply KeptO_next
    | with_reducible apply KeptO_ite | split | with_reducible intro _ _ _ | with_reducible intro _ _ | with_reducible intro _
    | dsimp only | with_reducible apply Kept_mk

theorem execTimeRead_kept {dm : Option (Tbl Byte)} {qs : List Instr} (h : Hdr) (base : Nat) (s : State) (h_s : Kept none dm qs s) : KeptO none dm
    qs (execTimeRead h base s) := by
  unfold execTimeRead
  repeat' first
    | with_reducible assumption | with_reducible apply State.packet_kept | with_reducible apply State.complete_kept
    | with_reducible apply Kept_ite | with_reducible apply KeptO_next | with_reducible apply KeptO_ite | split
    | with_reducible intro _ _ _ | with_reducible intro _ _ | with_reducible intro _ | dsimp only

theorem State.tbSet_kept {dm : Option (Tbl Byte)} {qs : List Instr} (s : State) (b : Nat) (h_s : Kept none dm qs s) : Kept none dm qs
    (State.tbSet s b) := by
  unfold State.tbSet
  repeat' first
    | with_reducible assumption | with_reducible apply State.access_kept | with_reducible apply State.stepTo_kept
    | with_reducible apply Kept_ite | split | with_reducible intro _ _ _ | with_reducible intro _ _ | with_reducible intro _
    | dsimp only

theorem State.tbRateWrite_kept {dm : Option (Tbl Byte)} {qs : List Instr} (s : State) (b v : Nat) (h_s : Kept none dm qs s) : Kept none dm qs
    (State.tbRateWrite s b v) := by
  unfold State.tbRateWrite
  repeat' first
    | with_reducible assumption | with_reducible apply State.access_kept | with_reducible apply State.setTb_kept
    | with_reducible apply State.wr_kept | with_reducible apply Kept_ite | split | with_reducible intro _ _ _
    | with_reducible intro _ _ | with_reducible intro _ | dsimp only

theorem execTbSet_kept {dm : Option (Tbl Byte)} {qs : List Instr} (base : Fin 4) (s : State) (h_s : Kept none dm qs s) : KeptO none dm qs
    (execTbSet base s) := by
  unfold execTbSet
  repeat' first
    | with_reducible assumption | with_reducible apply State.hostAccess_kept | with_reducible apply State.tbSet_kept
    | with_reducible apply Kept_ite | with_reducible apply KeptO_next | with_reducible apply KeptO_ite | split
    | with_reducible intro _ _ _ | with_reducible intro _ _ | with_reducible intro _ | dsimp only

theorem execTbRate_kept {dm : Option (Tbl Byte)} {qs : List Instr} (base : Fin 4) (v : Word) (s : State) (h_s : Kept none dm qs s) : KeptO none
    dm qs (execTbRate base v s) := by
  unfold execTbRate
  repeat' first
    | with_reducible assumption | with_reducible apply State.hostAccess_kept | with_reducible apply State.tbRateWrite_kept
    | with_reducible apply Kept_ite | with_reducible apply KeptO_next | with_reducible apply KeptO_ite | split
    | with_reducible intro _ _ _ | with_reducible intro _ _ | with_reducible intro _ | dsimp only

theorem State.stopPulses_kept {hm : Option (Tbl Byte)} {dm : Option (Tbl Byte)} {qs : List Instr} (s : State) (now' : Bool) (h_s : Kept hm dm qs
    s) : Kept hm dm qs (State.stopPulses s now') := by
  unfold State.stopPulses
  repeat' first
    | with_reducible assumption | with_reducible apply State.setPls_kept | with_reducible apply State.pulseLevel_kept
    | with_reducible apply Kept_ite | with_reducible apply Kept_foldl | split | with_reducible intro _ _ _
    | with_reducible intro _ _ | with_reducible intro _ | dsimp only | with_reducible apply Kept_mk

theorem State.setPort_kept {hm : Option (Tbl Byte)} {dm : Option (Tbl Byte)} {qs : List Instr} (s : State) (p : Nat) (x : PtpPort) (h_s : Kept hm
    dm qs s) : Kept hm dm qs (State.setPort s p x) := by
  unfold State.setPort
  repeat' first
    | with_reducible assumption | with_reducible apply Kept_ite | split | with_reducible intro _ _ _
    | with_reducible intro _ _ | with_reducible intro _ | dsimp only | with_reducible apply Kept_mk

theorem State.sendPtp_kept {dm : Option (Tbl Byte)} {qs : List Instr} (s : State) (p kind seq : Nat) (fields : List Int) (h_s : Kept none dm qs
    s) : Kept none dm qs (State.sendPtp s p kind seq fields) := by
  unfold State.sendPtp
  repeat' first
    | with_reducible assumption | with_reducible apply State.put_kept | with_reducible apply State.count_kept
    | with_reducible apply Kept_ite | split | with_reducible intro _ _ _ | with_reducible intro _ _ | with_reducible intro _
    | dsimp only

theorem State.loseSync_kept {dm : Option (Tbl Byte)} {qs : List Instr} (s : State) (h_s : Kept none dm qs s) : Kept none dm qs (State.loseSync s)
    := by
  unfold State.loseSync
  repeat' first
    | with_reducible assumption | with_reducible apply State.wr_kept | with_reducible apply State.raise_kept
    | with_reducible apply Kept_ite | split | with_reducible intro _ _ _ | with_reducible intro _ _ | with_reducible intro _
    | dsimp only | with_reducible apply Kept_mk

theorem State.setPst_kept {dm : Option (Tbl Byte)} {qs : List Instr} (s : State) (p st : Nat) (h_s : Kept none dm qs s) : Kept none dm qs
    (State.setPst s p st) := by
  unfold State.setPst
  repeat' first
    | with_reducible assumption | with_reducible apply State.wr_kept | with_reducible apply State.raise_kept
    | with_reducible apply State.setPort_kept | with_reducible apply State.loseSync_kept | with_reducible apply State.wrS_kept
    | with_reducible apply Kept_ite | split | with_reducible intro _ _ _ | with_reducible intro _ _ | with_reducible intro _
    | dsimp only | with_reducible apply Kept_mk

theorem State.holdover_kept {hm : Option (Tbl Byte)} {dm : Option (Tbl Byte)} {qs : List Instr} (s : State) (h_s : Kept hm dm qs s) : Kept hm dm
    qs (State.holdover s) := by
  unfold State.holdover
  repeat' first
    | with_reducible assumption | with_reducible apply State.setRate_kept | with_reducible apply State.wr_kept
    | with_reducible apply Kept_ite | split | with_reducible intro _ _ _ | with_reducible intro _ _ | with_reducible intro _
    | dsimp only

theorem State.servo_kept {dm : Option (Tbl Byte)} {qs : List Instr} (s : State) (o : Int) (h_s : Kept none dm qs s) : Kept none dm qs
    (State.servo s o) := by
  unfold State.servo
  repeat' first
    | with_reducible assumption | with_reducible apply State.wrS_kept | with_reducible apply State.loseSync_kept
    | with_reducible apply State.stepTo_kept | with_reducible apply State.setRate_kept | with_reducible apply State.wr_kept
    | with_reducible apply State.raise_kept | with_reducible apply Kept_ite | split | with_reducible intro _ _ _
    | with_reducible intro _ _ | with_reducible intro _ | dsimp only | with_reducible apply Kept_mk

theorem State.delaySample_kept {dm : Option (Tbl Byte)} {qs : List Instr} (s : State) (p : Nat) (d : Int) (h_s : Kept none dm qs s) : Kept none
    dm qs (State.delaySample s p d) := by
  unfold State.delaySample
  repeat' first
    | with_reducible assumption | with_reducible apply State.setPort_kept | with_reducible apply State.wrS_kept
    | with_reducible apply State.count_kept | with_reducible apply Kept_ite | split | with_reducible intro _ _ _
    | with_reducible intro _ _ | with_reducible intro _ | dsimp only | with_reducible apply Kept_mk

theorem State.syncDone_kept {dm : Option (Tbl Byte)} {qs : List Instr} (s : State) (p : Nat) (diff : Int) (h_s : Kept none dm qs s) : Kept none
    dm qs (State.syncDone s p diff) := by
  unfold State.syncDone
  repeat' first
    | with_reducible assumption | with_reducible apply State.setPort_kept | with_reducible apply State.setPst_kept
    | with_reducible apply State.servo_kept | with_reducible apply Kept_ite | split | with_reducible intro _ _ _
    | with_reducible intro _ _ | with_reducible intro _ | dsimp only | with_reducible apply Kept_mk

theorem State.applyDecision_kept {dm : Option (Tbl Byte)} {qs : List Instr} (s : State) (p : Nat) (h_s : Kept none dm qs s) : Kept none dm qs
    (State.applyDecision s p) := by
  unfold State.applyDecision
  repeat' first
    | with_reducible assumption | with_reducible apply State.wrS_kept | with_reducible apply State.setPort_kept
    | with_reducible apply State.setPst_kept | with_reducible apply Kept_ite | split | with_reducible intro _ _ _
    | with_reducible intro _ _ | with_reducible intro _ | dsimp only | with_reducible apply Kept_mk

theorem State.bmca_kept {dm : Option (Tbl Byte)} {qs : List Instr} (s : State) (h_s : Kept none dm qs s) : Kept none dm qs (State.bmca s) := by
  unfold State.bmca
  repeat' first
    | with_reducible assumption | with_reducible apply State.applyDecision_kept | with_reducible apply Kept_ite
    | with_reducible apply Kept_foldl | split | with_reducible intro _ _ _ | with_reducible intro _ _ | with_reducible intro _
    | dsimp only

theorem State.ptpListening_kept {dm : Option (Tbl Byte)} {qs : List Instr} (s : State) (h_s : Kept none dm qs s) : Kept none dm qs
    (State.ptpListening s) := by
  unfold State.ptpListening
  repeat' first
    | with_reducible assumption | with_reducible apply State.complete_kept | with_reducible apply Kept_ite | split
    | with_reducible intro _ _ _ | with_reducible intro _ _ | with_reducible intro _ | dsimp only
    | with_reducible apply Kept_mk

theorem State.startPort_kept {dm : Option (Tbl Byte)} {qs : List Instr} (s : State) (p : Nat) (h_s : Kept none dm qs s) : Kept none dm qs
    (State.startPort s p) := by
  unfold State.startPort
  repeat' first
    | with_reducible assumption | with_reducible apply State.setPort_kept | with_reducible apply State.wr_kept
    | with_reducible apply State.setPst_kept | with_reducible apply Kept_ite | split | with_reducible intro _ _ _
    | with_reducible intro _ _ | with_reducible intro _ | dsimp only | with_reducible apply Kept_mk

theorem State.ptpConfigure_kept {dm : Option (Tbl Byte)} {qs : List Instr} (s : State) (pk : Pk) (b : List Byte) (h_s : Kept none dm qs s) : Kept
    none dm qs (State.ptpConfigure s pk b) := by
  unfold State.ptpConfigure
  repeat' first
    | with_reducible assumption | with_reducible apply State.complete_kept | with_reducible apply State.loseSync_kept
    | with_reducible apply State.wr_kept | with_reducible apply State.setPst_kept | with_reducible apply State.setPort_kept
    | with_reducible apply State.wrB_kept | with_reducible apply State.startPort_kept
    | with_reducible apply State.ptpListening_kept | with_reducible apply Kept_ite | with_reducible apply Kept_foldl | split
    | with_reducible intro _ _ _ | with_reducible intro _ _ | with_reducible intro _ | dsimp only
    | with_reducible apply Kept_mk

theorem execPtpConfig_kept {dm : Option (Tbl Byte)} {qs : List Instr} (h : Hdr) (block : Nat) (s : State) (h_s : Kept none dm qs s) : KeptO none
    dm qs (execPtpConfig h block s) := by
  unfold execPtpConfig
  repeat' first
    | with_reducible assumption | with_reducible apply State.packetR_kept | with_reducible apply State.ptpConfigure_kept
    | with_reducible apply Kept_ite | with_reducible apply KeptO_next | with_reducible apply KeptO_ite | split
    | with_reducible intro _ _ _ | with_reducible intro _ _ | with_reducible intro _ | dsimp only

theorem State.discardFrame_kept {dm : Option (Tbl Byte)} {qs : List Instr} (s : State) (p : Nat) (h_s : Kept none dm qs s) : Kept none dm qs
    (State.discardFrame s p) := by
  unfold State.discardFrame
  repeat' first
    | with_reducible assumption | with_reducible apply State.count_kept | with_reducible apply Kept_ite | split
    | with_reducible intro _ _ _ | with_reducible intro _ _ | with_reducible intro _ | dsimp only

theorem State.ptpMessage_kept {dm : Option (Tbl Byte)} {qs : List Instr} (s : State) (p t : Nat) (f : State → State) (h_s : Kept none dm qs s)
    (h_f : ∀ (x0 : State), Kept none dm qs x0 → Kept none dm qs (f x0)) : Kept none dm qs (State.ptpMessage s p t f) := by
  unfold State.ptpMessage
  repeat' first
    | with_reducible assumption | with_reducible apply h_f | with_reducible apply State.advance_kept
    | with_reducible apply State.discardFrame_kept | with_reducible apply State.count_kept | with_reducible apply Kept_ite
    | split | with_reducible intro _ _ _ | with_reducible intro _ _ | with_reducible intro _ | dsimp only

theorem execSync_kept {dm : Option (Tbl Byte)} {qs : List Instr} (port : Fin 2) (source seq : Nat) (twoStep : Bool) (origin : Nat) (corr : Int)
    (t : Nat) (s : State) (h_s : Kept none dm qs s) : KeptO none dm qs (execSync port source seq twoStep origin corr t s) := by
  unfold execSync
  repeat' first
    | with_reducible assumption | with_reducible apply State.ptpMessage_kept | with_reducible apply State.setPort_kept
    | with_reducible apply State.syncDone_kept | with_reducible apply Kept_ite | with_reducible apply KeptO_next
    | with_reducible apply KeptO_ite | split | with_reducible intro _ _ _ | with_reducible intro _ _ | with_reducible intro _
    | dsimp only | with_reducible apply Kept_mk

theorem execFollowUp_kept {dm : Option (Tbl Byte)} {qs : List Instr} (port : Fin 2) (source seq origin : Nat) (corr : Int) (t : Nat) (s : State)
    (h_s : Kept none dm qs s) : KeptO none dm qs (execFollowUp port source seq origin corr t s) := by
  unfold execFollowUp
  repeat' first
    | with_reducible assumption | with_reducible apply State.ptpMessage_kept | with_reducible apply State.setPort_kept
    | with_reducible apply State.syncDone_kept | with_reducible apply Kept_ite | with_reducible apply KeptO_next
    | with_reducible apply KeptO_ite | split | with_reducible intro _ _ _ | with_reducible intro _ _ | with_reducible intro _
    | dsimp only | with_reducible apply Kept_mk

theorem execDelayReq_kept {dm : Option (Tbl Byte)} {qs : List Instr} (port : Fin 2) (source seq : Nat) (corr : Int) (t : Nat) (s : State) (h_s :
    Kept none dm qs s) : KeptO none dm qs (execDelayReq port source seq corr t s) := by
  unfold execDelayReq
  repeat' first
    | with_reducible assumption | with_reducible apply State.ptpMessage_kept | with_reducible apply State.sendPtp_kept
    | with_reducible apply Kept_ite | with_reducible apply KeptO_next | with_reducible apply KeptO_ite | split
    | with_reducible intro _ _ _ | with_reducible intro _ _ | with_reducible intro _ | dsimp only

theorem execDelayResp_kept {dm : Option (Tbl Byte)} {qs : List Instr} (port : Fin 2) (source seq requester : Nat) (recv : Int) (corr : Int) (t :
    Nat) (s : State) (h_s : Kept none dm qs s) : KeptO none dm qs (execDelayResp port source seq requester recv corr t s) := by
  unfold execDelayResp
  repeat' first
    | with_reducible assumption | with_reducible apply State.ptpMessage_kept | with_reducible apply State.setPort_kept
    | with_reducible apply State.delaySample_kept | with_reducible apply Kept_ite | with_reducible apply KeptO_next
    | with_reducible apply KeptO_ite | split | with_reducible intro _ _ _ | with_reducible intro _ _ | with_reducible intro _
    | dsimp only | with_reducible apply Kept_mk

theorem execPdelayReq_kept {dm : Option (Tbl Byte)} {qs : List Instr} (port : Fin 2) (source seq : Nat) (corr : Int) (t tOut : Nat) (s : State)
    (h_s : Kept none dm qs s) : KeptO none dm qs (execPdelayReq port source seq corr t tOut s) := by
  unfold execPdelayReq
  repeat' first
    | with_reducible assumption | with_reducible apply State.ptpMessage_kept | with_reducible apply State.sendPtp_kept
    | with_reducible apply Kept_ite | with_reducible apply KeptO_next | with_reducible apply KeptO_ite | split
    | with_reducible intro _ _ _ | with_reducible intro _ _ | with_reducible intro _ | dsimp only

theorem execPdelayResp_kept {dm : Option (Tbl Byte)} {qs : List Instr} (port : Fin 2) (requester seq : Nat) (twoStep : Bool) (recv : Int) (corr :
    Int) (t : Nat) (s : State) (h_s : Kept none dm qs s) : KeptO none dm qs (execPdelayResp port requester seq twoStep recv corr t s) := by
  unfold execPdelayResp
  repeat' first
    | with_reducible assumption | with_reducible apply State.ptpMessage_kept | with_reducible apply State.setPort_kept
    | with_reducible apply State.delaySample_kept | with_reducible apply Kept_ite | with_reducible apply KeptO_next
    | with_reducible apply KeptO_ite | split | with_reducible intro _ _ _ | with_reducible intro _ _ | with_reducible intro _
    | dsimp only | with_reducible apply Kept_mk

theorem execPdelayRespFollowUp_kept {dm : Option (Tbl Byte)} {qs : List Instr} (port : Fin 2) (requester seq : Nat) (origin : Int) (corr : Int)
    (t : Nat) (s : State) (h_s : Kept none dm qs s) : KeptO none dm qs (execPdelayRespFollowUp port requester seq origin corr t s) := by
  unfold execPdelayRespFollowUp
  repeat' first
    | with_reducible assumption | with_reducible apply State.ptpMessage_kept | with_reducible apply State.setPort_kept
    | with_reducible apply State.delaySample_kept | with_reducible apply Kept_ite | with_reducible apply KeptO_next
    | with_reducible apply KeptO_ite | split | with_reducible intro _ _ _ | with_reducible intro _ _ | with_reducible intro _
    | dsimp only | with_reducible apply Kept_mk

theorem execAnnounce_kept {dm : Option (Tbl Byte)} {qs : List Instr} (port : Fin 2) (a : Announce) (t : Nat) (s : State) (h_s : Kept none dm qs
    s) : KeptO none dm qs (execAnnounce port a t s) := by
  unfold execAnnounce
  repeat' first
    | with_reducible assumption | with_reducible apply State.ptpMessage_kept | with_reducible apply State.setPort_kept
    | with_reducible apply State.bmca_kept | with_reducible apply Kept_ite | with_reducible apply KeptO_next
    | with_reducible apply KeptO_ite | split | with_reducible intro _ _ _ | with_reducible intro _ _ | with_reducible intro _
    | dsimp only | with_reducible apply Kept_mk

theorem execFrameDiscard_kept {dm : Option (Tbl Byte)} {qs : List Instr} (port : Fin 2) (s : State) (h_s : Kept none dm qs s) : KeptO none dm qs
    (execFrameDiscard port s) := by
  unfold execFrameDiscard
  repeat' first
    | with_reducible assumption | with_reducible apply State.discardFrame_kept | with_reducible apply Kept_ite
    | with_reducible apply KeptO_next | with_reducible apply KeptO_ite | split | with_reducible intro _ _ _
    | with_reducible intro _ _ | with_reducible intro _ | dsimp only

theorem execSyncInterval_kept {dm : Option (Tbl Byte)} {qs : List Instr} (port : Fin 2) (t : Nat) (s : State) (h_s : Kept none dm qs s) : KeptO
    none dm qs (execSyncInterval port t s) := by
  unfold execSyncInterval
  repeat' first
    | with_reducible assumption | with_reducible apply State.advance_kept | with_reducible apply State.setPort_kept
    | with_reducible apply State.sendPtp_kept | with_reducible apply Kept_ite | with_reducible apply KeptO_next
    | with_reducible apply KeptO_ite | split | with_reducible intro _ _ _ | with_reducible intro _ _ | with_reducible intro _
    | dsimp only | with_reducible apply Kept_mk

theorem execAnnounceInterval_kept {dm : Option (Tbl Byte)} {qs : List Instr} (port : Fin 2) (t : Nat) (s : State) (h_s : Kept none dm qs s) :
    KeptO none dm qs (execAnnounceInterval port t s) := by
  unfold execAnnounceInterval
  repeat' first
    | with_reducible assumption | with_reducible apply State.advance_kept | with_reducible apply State.setPst_kept
    | with_reducible apply State.setPort_kept | with_reducible apply State.sendPtp_kept | with_reducible apply Kept_ite
    | with_reducible apply KeptO_next | with_reducible apply KeptO_ite | split | with_reducible intro _ _ _
    | with_reducible intro _ _ | with_reducible intro _ | dsimp only | with_reducible apply Kept_mk

theorem execDelayReqInterval_kept {dm : Option (Tbl Byte)} {qs : List Instr} (port : Fin 2) (t : Nat) (s : State) (h_s : Kept none dm qs s) :
    KeptO none dm qs (execDelayReqInterval port t s) := by
  unfold execDelayReqInterval
  repeat' first
    | with_reducible assumption | with_reducible apply State.advance_kept | with_reducible apply State.setPort_kept
    | with_reducible apply State.sendPtp_kept | with_reducible apply Kept_ite | with_reducible apply KeptO_next
    | with_reducible apply KeptO_ite | split | with_reducible intro _ _ _ | with_reducible intro _ _ | with_reducible intro _
    | dsimp only | with_reducible apply Kept_mk

theorem State.masterLost_kept {dm : Option (Tbl Byte)} {qs : List Instr} (s : State) (p : Nat) (h_s : Kept none dm qs s) : Kept none dm qs
    (State.masterLost s p) := by
  unfold State.masterLost
  repeat' first
    | with_reducible assumption | with_reducible apply State.setPort_kept | with_reducible apply State.setPst_kept
    | with_reducible apply State.holdover_kept | with_reducible apply State.bmca_kept | with_reducible apply Kept_ite | split
    | with_reducible intro _ _ _ | with_reducible intro _ _ | with_reducible intro _ | dsimp only
    | with_reducible apply Kept_mk

theorem execAnnounceReceiptTimeout_kept {dm : Option (Tbl Byte)} {qs : List Instr} (port : Fin 2) (s : State) (h_s : Kept none dm qs s) : KeptO
    none dm qs (execAnnounceReceiptTimeout port s) := by
  unfold execAnnounceReceiptTimeout
  repeat' first
    | with_reducible assumption | with_reducible apply State.advance_kept | with_reducible apply State.setPort_kept
    | with_reducible apply State.setPst_kept | with_reducible apply State.masterLost_kept | with_reducible apply Kept_ite
    | with_reducible apply KeptO_next | with_reducible apply KeptO_ite | split | with_reducible intro _ _ _
    | with_reducible intro _ _ | with_reducible intro _ | dsimp only | with_reducible apply Kept_mk

theorem execSyncReceiptTimeout_kept {dm : Option (Tbl Byte)} {qs : List Instr} (port : Fin 2) (s : State) (h_s : Kept none dm qs s) : KeptO none
    dm qs (execSyncReceiptTimeout port s) := by
  unfold execSyncReceiptTimeout
  repeat' first
    | with_reducible assumption | with_reducible apply State.advance_kept | with_reducible apply State.masterLost_kept
    | with_reducible apply Kept_ite | with_reducible apply KeptO_next | with_reducible apply KeptO_ite | split
    | with_reducible intro _ _ _ | with_reducible intro _ _ | with_reducible intro _ | dsimp only

theorem State.ethLink_kept {dm : Option (Tbl Byte)} {qs : List Instr} (s : State) (p : Nat) (up : Bool) (h_s : Kept none dm qs s) : Kept none dm
    qs (State.ethLink s p up) := by
  unfold State.ethLink
  repeat' first
    | with_reducible assumption | with_reducible apply State.wrB_kept | with_reducible apply State.wr_kept
    | with_reducible apply State.raise_kept | with_reducible apply State.startPort_kept
    | with_reducible apply State.ptpListening_kept | with_reducible apply State.setPst_kept | with_reducible apply Kept_ite
    | split | with_reducible intro _ _ _ | with_reducible intro _ _ | with_reducible intro _ | dsimp only

theorem execLinkChange_kept {dm : Option (Tbl Byte)} {qs : List Instr} (port : Fin 2) (up : Bool) (s : State) (h_s : Kept none dm qs s) : KeptO
    none dm qs (execLinkChange port up s) := by
  unfold execLinkChange
  repeat' first
    | with_reducible assumption | with_reducible apply State.ethLink_kept | with_reducible apply State.advance_kept
    | with_reducible apply Kept_ite | with_reducible apply KeptO_next | with_reducible apply KeptO_ite | split
    | with_reducible intro _ _ _ | with_reducible intro _ _ | with_reducible intro _ | dsimp only

theorem State.abortTime_kept {dm : Option (Tbl Byte)} {qs : List Instr} (s : State) (h_s : Kept none dm qs s) : Kept none dm qs (State.abortTime
    s) := by
  unfold State.abortTime
  repeat' first
    | with_reducible assumption | with_reducible apply State.stopPulses_kept | with_reducible apply State.complete_kept
    | with_reducible apply Kept_ite | split | with_reducible intro _ _ _ | with_reducible intro _ _ | with_reducible intro _
    | dsimp only | with_reducible apply Kept_mk

end Sys2Proof.Machine
end

