-- ==== Sys2Proof/Laws/KeptMotion.lean ====
section
/-!
SUPPORT. What motion, yoke and gleaner keep: one lemma a definition, that it leaves the memories in canonical form and the queue as it is, and host memory
(`hm`) or DRAM (`dm`) as well where the lemma leaves them general.
-/

set_option linter.all false

namespace Sys2Proof.Machine

theorem State.setAx_kept {hm : Option (Tbl Byte)} {dm : Option (Tbl Byte)} {qs : List Instr} (s : State) (n : Nat) (x : AxisRt) (h_s : Kept hm dm
    qs s) : Kept hm dm qs (State.setAx s n x) := by
  unfold State.setAx
  repeat' first
    | with_reducible assumption | with_reducible apply Kept_ite | split | with_reducible intro _ _ _
    | with_reducible intro _ _ | with_reducible intro _ | dsimp only | with_reducible apply Kept_mk

theorem State.bridgesOff_kept {hm : Option (Tbl Byte)} {dm : Option (Tbl Byte)} {qs : List Instr} (s : State) (n : Nat) (h_s : Kept hm dm qs s) :
    Kept hm dm qs (State.bridgesOff s n) := by
  unfold State.bridgesOff
  repeat' first
    | with_reducible assumption | with_reducible apply State.wr_kept | with_reducible apply State.setAx_kept
    | with_reducible apply Kept_ite | split | with_reducible intro _ _ _ | with_reducible intro _ _ | with_reducible intro _
    | dsimp only | with_reducible apply Kept_mk

theorem State.bridgesOn_kept {hm : Option (Tbl Byte)} {dm : Option (Tbl Byte)} {qs : List Instr} (s : State) (n : Nat) (h_s : Kept hm dm qs s) :
    Kept hm dm qs (State.bridgesOn s n) := by
  unfold State.bridgesOn
  repeat' first
    | with_reducible assumption | with_reducible apply State.wr_kept | with_reducible apply State.setAx_kept
    | with_reducible apply Kept_ite | split | with_reducible intro _ _ _ | with_reducible intro _ _ | with_reducible intro _
    | dsimp only | with_reducible apply Kept_mk

theorem State.axisEnd_kept {dm : Option (Tbl Byte)} {qs : List Instr} (s : State) (n : Nat) (st : Status) (reason : Nat) (h_s : Kept none dm qs
    s) : Kept none dm qs (State.axisEnd s n st reason) := by
  unfold State.axisEnd
  repeat' first
    | with_reducible assumption | with_reducible apply State.wr_kept | with_reducible apply State.setAx_kept
    | with_reducible apply State.complete_kept | with_reducible apply State.raise_kept | with_reducible apply Kept_ite
    | with_reducible apply Kept_foldl | split | with_reducible intro _ _ _ | with_reducible intro _ _ | with_reducible intro _
    | dsimp only | with_reducible apply Kept_mk

theorem State.limitTrip_kept {dm : Option (Tbl Byte)} {qs : List Instr} (s : State) (n : Nat) (h_s : Kept none dm qs s) : Kept none dm qs
    (State.limitTrip s n) := by
  unfold State.limitTrip
  repeat' first
    | with_reducible assumption | with_reducible apply State.count_kept | with_reducible apply State.raise_kept
    | with_reducible apply State.wr_kept | with_reducible apply State.axisEnd_kept | with_reducible apply Kept_ite | split
    | with_reducible intro _ _ _ | with_reducible intro _ _ | with_reducible intro _ | dsimp only

theorem State.axGo_kept {hm : Option (Tbl Byte)} {dm : Option (Tbl Byte)} {qs : List Instr} (s : State) (n : Nat) (neg : Bool) (job : AxisJob) (v
    : Nat) (h_s : Kept hm dm qs s) : Kept hm dm qs (State.axGo s n neg job v) := by
  unfold State.axGo
  repeat' first
    | with_reducible assumption | with_reducible apply State.wrB_kept | with_reducible apply State.wr_kept
    | with_reducible apply State.wrS_kept | with_reducible apply State.setAx_kept | with_reducible apply Kept_ite | split
    | with_reducible intro _ _ _ | with_reducible intro _ _ | with_reducible intro _ | dsimp only
    | with_reducible apply Kept_mk

theorem State.limitsAct_kept {dm : Option (Tbl Byte)} {qs : List Instr} (s : State) (n : Nat) (h_s : Kept none dm qs s) : Kept none dm qs
    (State.limitsAct s n) := by
  unfold State.limitsAct
  repeat' first
    | with_reducible assumption | with_reducible apply State.limitTrip_kept | with_reducible apply Kept_ite | split
    | with_reducible intro _ _ _ | with_reducible intro _ _ | with_reducible intro _ | dsimp only

theorem State.homeFound_kept {dm : Option (Tbl Byte)} {qs : List Instr} (s : State) (n : Nat) (at' : Int) (h_s : Kept none dm qs s) : Kept none
    dm qs (State.homeFound s n at') := by
  unfold State.homeFound
  repeat' first
    | with_reducible assumption | with_reducible apply State.wrS_kept | with_reducible apply State.wr_kept
    | with_reducible apply State.axGo_kept | with_reducible apply State.axisEnd_kept
    | with_reducible apply State.limitsAct_kept | with_reducible apply Kept_ite | split | with_reducible intro _ _ _
    | with_reducible intro _ _ | with_reducible intro _ | dsimp only

theorem State.inputActs_kept {dm : Option (Tbl Byte)} {qs : List Instr} (s : State) (n i : Nat) (at' : Int) (h_s : Kept none dm qs s) : Kept none
    dm qs (State.inputActs s n i at') := by
  unfold State.inputActs
  repeat' first
    | with_reducible assumption | with_reducible apply State.homeFound_kept | with_reducible apply State.limitTrip_kept
    | with_reducible apply Kept_ite | split | with_reducible intro _ _ _ | with_reducible intro _ _ | with_reducible intro _
    | dsimp only | with_reducible apply Kept_mk

theorem State.inputsAct_kept {dm : Option (Tbl Byte)} {qs : List Instr} (s : State) (n : Nat) (h_s : Kept none dm qs s) : Kept none dm qs
    (State.inputsAct s n) := by
  unfold State.inputsAct
  repeat' first
    | with_reducible assumption | with_reducible apply State.inputActs_kept | with_reducible apply Kept_ite
    | with_reducible apply Kept_foldl | split | with_reducible intro _ _ _ | with_reducible intro _ _ | with_reducible intro _
    | dsimp only

theorem State.axStall_kept {dm : Option (Tbl Byte)} {qs : List Instr} (s : State) (n : Nat) (h_s : Kept none dm qs s) : Kept none dm qs
    (State.axStall s n) := by
  unfold State.axStall
  repeat' first
    | with_reducible assumption | with_reducible apply State.homeFound_kept | with_reducible apply State.count_kept
    | with_reducible apply State.raise_kept | with_reducible apply State.wr_kept | with_reducible apply State.axisEnd_kept
    | with_reducible apply Kept_ite | split | with_reducible intro _ _ _ | with_reducible intro _ _ | with_reducible intro _
    | dsimp only | with_reducible apply Kept_mk

theorem State.axStep_kept {dm : Option (Tbl Byte)} {qs : List Instr} (s : State) (n : Nat) (h_s : Kept none dm qs s) : Kept none dm qs
    (State.axStep s n) := by
  unfold State.axStep
  repeat' first
    | with_reducible assumption | with_reducible apply State.wrS_kept | with_reducible apply State.setAx_kept
    | with_reducible apply State.axisEnd_kept | with_reducible apply State.axStall_kept | with_reducible apply Kept_ite
    | split | with_reducible intro _ _ _ | with_reducible intro _ _ | with_reducible intro _ | dsimp only
    | with_reducible apply Kept_mk

theorem State.axTo_kept {dm : Option (Tbl Byte)} {qs : List Instr} (s : State) (n t : Nat) (h_s : Kept none dm qs s) : Kept none dm qs
    (State.axTo s n t) := by
  unfold State.axTo
  repeat' first
    | with_reducible assumption | with_reducible apply State.setAx_kept | with_reducible apply State.axStep_kept
    | with_reducible apply Kept_ite | with_reducible apply Kept_foldl | split | with_reducible intro _ _ _
    | with_reducible intro _ _ | with_reducible intro _ | dsimp only | with_reducible apply Kept_mk

theorem State.axSpeed_kept {hm : Option (Tbl Byte)} {dm : Option (Tbl Byte)} {qs : List Instr} (s : State) (n v : Nat) (h_s : Kept hm dm qs s) :
    Kept hm dm qs (State.axSpeed s n v) := by
  unfold State.axSpeed
  repeat' first
    | with_reducible assumption | with_reducible apply State.setAx_kept | with_reducible apply State.wrS_kept
    | with_reducible apply State.wrB_kept | with_reducible apply Kept_ite | split | with_reducible intro _ _ _
    | with_reducible intro _ _ | with_reducible intro _ | dsimp only | with_reducible apply Kept_mk

theorem State.startCruise_kept {hm : Option (Tbl Byte)} {dm : Option (Tbl Byte)} {qs : List Instr} (s : State) (n rate : Nat) (h_s : Kept hm dm
    qs s) : Kept hm dm qs (State.startCruise s n rate) := by
  unfold State.startCruise
  repeat' first
    | with_reducible assumption | with_reducible apply State.setAx_kept | with_reducible apply Kept_ite | split
    | with_reducible intro _ _ _ | with_reducible intro _ _ | with_reducible intro _ | dsimp only
    | with_reducible apply Kept_mk

theorem State.moveSegment_kept {dm : Option (Tbl Byte)} {qs : List Instr} (s : State) (n : Nat) (target : Int) (rate : Nat) (h_s : Kept none dm
    qs s) : Kept none dm qs (State.moveSegment s n target rate) := by
  unfold State.moveSegment
  repeat' first
    | with_reducible assumption | with_reducible apply State.axSpeed_kept | with_reducible apply State.startCruise_kept
    | with_reducible apply State.wr_kept | with_reducible apply State.raise_kept | with_reducible apply State.setAx_kept
    | with_reducible apply Kept_ite | split | with_reducible intro _ _ _ | with_reducible intro _ _ | with_reducible intro _
    | dsimp only | with_reducible apply Kept_mk

theorem State.stopSegment_kept {hm : Option (Tbl Byte)} {dm : Option (Tbl Byte)} {qs : List Instr} (s : State) (n : Nat) (h_s : Kept hm dm qs s)
    : Kept hm dm qs (State.stopSegment s n) := by
  unfold State.stopSegment
  repeat' first
    | with_reducible assumption | with_reducible apply State.axSpeed_kept | with_reducible apply State.setAx_kept
    | with_reducible apply Kept_ite | split | with_reducible intro _ _ _ | with_reducible intro _ _ | with_reducible intro _
    | dsimp only | with_reducible apply Kept_mk

theorem State.sendAxis_kept {hm : Option (Tbl Byte)} {dm : Option (Tbl Byte)} {qs : List Instr} (s : State) (n : Nat) (h_s : Kept hm dm qs s) :
    Kept hm dm qs (State.sendAxis s n) := by
  unfold State.sendAxis
  repeat' first
    | with_reducible assumption | with_reducible apply State.sendYoke_kept | with_reducible apply Kept_ite | split
    | with_reducible intro _ _ _ | with_reducible intro _ _ | with_reducible intro _ | dsimp only

theorem State.segment_kept {dm : Option (Tbl Byte)} {qs : List Instr} (s : State) (n t : Nat) (h_s : Kept none dm qs s) : Kept none dm qs
    (State.segment s n t) := by
  unfold State.segment
  repeat' first
    | with_reducible assumption | with_reducible apply State.axTo_kept | with_reducible apply State.setAx_kept
    | with_reducible apply State.stopSegment_kept | with_reducible apply State.moveSegment_kept
    | with_reducible apply State.sendAxis_kept | with_reducible apply Kept_ite | split | with_reducible intro _ _ _
    | with_reducible intro _ _ | with_reducible intro _ | dsimp only | with_reducible apply Kept_mk

theorem execProfileSegment_kept {dm : Option (Tbl Byte)} {qs : List Instr} (axis : Fin 8) (t : Nat) (s : State) (h_s : Kept none dm qs s) : KeptO
    none dm qs (execProfileSegment axis t s) := by
  unfold execProfileSegment
  repeat' first
    | with_reducible assumption | with_reducible apply State.advance_kept | with_reducible apply State.segment_kept
    | with_reducible apply Kept_ite | with_reducible apply KeptO_next | with_reducible apply KeptO_ite | split
    | with_reducible intro _ _ _ | with_reducible intro _ _ | with_reducible intro _ | dsimp only

theorem State.axHalt_kept {dm : Option (Tbl Byte)} {qs : List Instr} (s : State) (n : Nat) (off : Bool) (reason : Nat) (h_s : Kept none dm qs s)
    : Kept none dm qs (State.axHalt s n off reason) := by
  unfold State.axHalt
  repeat' first
    | with_reducible assumption | with_reducible apply State.axTo_kept | with_reducible apply State.bridgesOff_kept
    | with_reducible apply State.axisEnd_kept | with_reducible apply State.setAx_kept | with_reducible apply Kept_ite | split
    | with_reducible intro _ _ _ | with_reducible intro _ _ | with_reducible intro _ | dsimp only
    | with_reducible apply Kept_mk

theorem execAxisMove_kept {dm : Option (Tbl Byte)} {qs : List Instr} (h : Hdr) (axis target rate accel decel : Nat) (s : State) (h_s : Kept none
    dm qs s) : KeptO none dm qs (execAxisMove h axis target rate accel decel s) := by
  unfold execAxisMove
  repeat' first
    | with_reducible assumption | with_reducible apply State.packet_kept | with_reducible apply State.wr_kept
    | with_reducible apply State.bridgesOn_kept | with_reducible apply State.setAx_kept | with_reducible apply State.axGo_kept
    | with_reducible apply State.startCruise_kept | with_reducible apply State.axisEnd_kept
    | with_reducible apply State.inputsAct_kept | with_reducible apply Kept_ite | with_reducible apply KeptO_next
    | with_reducible apply KeptO_ite | split | with_reducible intro _ _ _ | with_reducible intro _ _ | with_reducible intro _
    | dsimp only | with_reducible apply Kept_mk

theorem execAxisHome_kept {dm : Option (Tbl Byte)} {qs : List Instr} (h : Hdr) (axis method : Nat) (s : State) (h_s : Kept none dm qs s) : KeptO
    none dm qs (execAxisHome h axis method s) := by
  unfold execAxisHome
  repeat' first
    | with_reducible assumption | with_reducible apply State.packet_kept | with_reducible apply State.wr_kept
    | with_reducible apply State.bridgesOn_kept | with_reducible apply State.setAx_kept | with_reducible apply State.axGo_kept
    | with_reducible apply State.axisEnd_kept | with_reducible apply State.inputsAct_kept | with_reducible apply Kept_ite
    | with_reducible apply KeptO_next | with_reducible apply KeptO_ite | split | with_reducible intro _ _ _
    | with_reducible intro _ _ | with_reducible intro _ | dsimp only | with_reducible apply Kept_mk

theorem execAxisStop_kept {dm : Option (Tbl Byte)} {qs : List Instr} (h : Hdr) (axis mode : Nat) (s : State) (h_s : Kept none dm qs s) : KeptO
    none dm qs (execAxisStop h axis mode s) := by
  unfold execAxisStop
  repeat' first
    | with_reducible assumption | with_reducible apply State.packet_kept | with_reducible apply State.axTo_kept
    | with_reducible apply State.setAx_kept | with_reducible apply State.axHalt_kept
    | with_reducible apply State.bridgesOff_kept | with_reducible apply State.wr_kept
    | with_reducible apply State.complete_kept | with_reducible apply Kept_ite | with_reducible apply KeptO_next
    | with_reducible apply KeptO_ite | split | with_reducible intro _ _ _ | with_reducible intro _ _ | with_reducible intro _
    | dsimp only | with_reducible apply Kept_mk

theorem State.axInputs_kept {hm : Option (Tbl Byte)} {dm : Option (Tbl Byte)} {qs : List Instr} (s : State) (n : Nat) (h_s : Kept hm dm qs s) :
    Kept hm dm qs (State.axInputs s n) := by
  unfold State.axInputs
  repeat' first
    | with_reducible assumption | with_reducible apply State.wr_kept | with_reducible apply Kept_ite
    | with_reducible apply Kept_foldl | split | with_reducible intro _ _ _ | with_reducible intro _ _ | with_reducible intro _
    | dsimp only

theorem execAxisSet_kept {dm : Option (Tbl Byte)} {qs : List Instr} (h : Hdr) (axis block : Nat) (s : State) (h_s : Kept none dm qs s) : KeptO
    none dm qs (execAxisSet h axis block s) := by
  unfold execAxisSet
  repeat' first
    | with_reducible assumption | with_reducible apply State.packetR_kept | with_reducible apply State.wr_kept
    | with_reducible apply State.setAx_kept | with_reducible apply State.axInputs_kept
    | with_reducible apply State.complete_kept | with_reducible apply Kept_ite | with_reducible apply KeptO_next
    | with_reducible apply KeptO_ite | split | with_reducible intro _ _ _ | with_reducible intro _ _ | with_reducible intro _
    | dsimp only | with_reducible apply Kept_mk

theorem State.axWrite_kept {dm : Option (Tbl Byte)} {qs : List Instr} (s : State) (n : Nat) (f : FRef) (v : Nat) (h_s : Kept none dm qs s) : Kept
    none dm qs (State.axWrite s n f v) := by
  unfold State.axWrite
  repeat' first
    | with_reducible assumption | with_reducible apply State.wr_kept | with_reducible apply State.access_kept
    | with_reducible apply Kept_ite | split | with_reducible intro _ _ _ | with_reducible intro _ _ | with_reducible intro _
    | dsimp only

theorem execAxAccelWrite_kept {dm : Option (Tbl Byte)} {qs : List Instr} (axis : Fin 8) (v : Word) (s : State) (h_s : Kept none dm qs s) : KeptO
    none dm qs (execAxAccelWrite axis v s) := by
  unfold execAxAccelWrite
  repeat' first
    | with_reducible assumption | with_reducible apply State.hostAccess_kept | with_reducible apply State.axWrite_kept
    | with_reducible apply Kept_ite | with_reducible apply KeptO_next | with_reducible apply KeptO_ite | split
    | with_reducible intro _ _ _ | with_reducible intro _ _ | with_reducible intro _ | dsimp only

theorem execAxDecelWrite_kept {dm : Option (Tbl Byte)} {qs : List Instr} (axis : Fin 8) (v : Word) (s : State) (h_s : Kept none dm qs s) : KeptO
    none dm qs (execAxDecelWrite axis v s) := by
  unfold execAxDecelWrite
  repeat' first
    | with_reducible assumption | with_reducible apply State.hostAccess_kept | with_reducible apply State.axWrite_kept
    | with_reducible apply Kept_ite | with_reducible apply KeptO_next | with_reducible apply KeptO_ite | split
    | with_reducible intro _ _ _ | with_reducible intro _ _ | with_reducible intro _ | dsimp only

theorem execHoldTimeout_kept {hm : Option (Tbl Byte)} {dm : Option (Tbl Byte)} {qs : List Instr} (axis : Fin 8) (t : Nat) (s : State) (h_s : Kept
    hm dm qs s) : KeptO hm dm qs (execHoldTimeout axis t s) := by
  unfold execHoldTimeout
  repeat' first
    | with_reducible assumption | with_reducible apply State.advance_kept | with_reducible apply State.bridgesOff_kept
    | with_reducible apply State.setAx_kept | with_reducible apply Kept_ite | with_reducible apply KeptO_next
    | with_reducible apply KeptO_ite | split | with_reducible intro _ _ _ | with_reducible intro _ _ | with_reducible intro _
    | dsimp only | with_reducible apply Kept_mk

theorem State.axChatter_kept {dm : Option (Tbl Byte)} {qs : List Instr} (s : State) (n : Nat) (h_s : Kept none dm qs s) : Kept none dm qs
    (State.axChatter s n) := by
  unfold State.axChatter
  repeat' first
    | with_reducible assumption | with_reducible apply State.count_kept | with_reducible apply State.raise_kept
    | with_reducible apply State.faultNode_kept | with_reducible apply State.wr_kept | with_reducible apply State.axisEnd_kept
    | with_reducible apply State.setAx_kept | with_reducible apply Kept_ite | split | with_reducible intro _ _ _
    | with_reducible intro _ _ | with_reducible intro _ | dsimp only | with_reducible apply Kept_mk

theorem State.inputEdge_kept {dm : Option (Tbl Byte)} {qs : List Instr} (s : State) (n i : Nat) (level : Bool) (h_s : Kept none dm qs s) : Kept
    none dm qs (State.inputEdge s n i level) := by
  unfold State.inputEdge
  repeat' first
    | with_reducible assumption | with_reducible apply State.axTo_kept | with_reducible apply State.wr_kept
    | with_reducible apply State.setAx_kept | with_reducible apply State.axChatter_kept | with_reducible apply Kept_ite
    | split | with_reducible intro _ _ _ | with_reducible intro _ _ | with_reducible intro _ | dsimp only
    | with_reducible apply Kept_mk

theorem execInputEdge_kept {dm : Option (Tbl Byte)} {qs : List Instr} (axis : Fin 8) (input : Fin 4) (level : Bool) (t : Nat) (s : State) (h_s :
    Kept none dm qs s) : KeptO none dm qs (execInputEdge axis input level t s) := by
  unfold execInputEdge
  repeat' first
    | with_reducible assumption | with_reducible apply State.advance_kept | with_reducible apply State.inputEdge_kept
    | with_reducible apply Kept_ite | with_reducible apply KeptO_next | with_reducible apply KeptO_ite | split
    | with_reducible intro _ _ _ | with_reducible intro _ _ | with_reducible intro _ | dsimp only

theorem State.inputAccept_kept {dm : Option (Tbl Byte)} {qs : List Instr} (s : State) (n i : Nat) (h_s : Kept none dm qs s) : Kept none dm qs
    (State.inputAccept s n i) := by
  unfold State.inputAccept
  repeat' first
    | with_reducible assumption | with_reducible apply State.axTo_kept | with_reducible apply State.wr_kept
    | with_reducible apply State.axInputs_kept | with_reducible apply State.inputActs_kept | with_reducible apply Kept_ite
    | split | with_reducible intro _ _ _ | with_reducible intro _ _ | with_reducible intro _ | dsimp only

theorem execInputAccepted_kept {dm : Option (Tbl Byte)} {qs : List Instr} (axis : Fin 8) (input : Fin 4) (t : Nat) (s : State) (h_s : Kept none
    dm qs s) : KeptO none dm qs (execInputAccepted axis input t s) := by
  unfold execInputAccepted
  repeat' first
    | with_reducible assumption | with_reducible apply State.advance_kept | with_reducible apply State.inputAccept_kept
    | with_reducible apply Kept_ite | with_reducible apply KeptO_next | with_reducible apply KeptO_ite | split
    | with_reducible intro _ _ _ | with_reducible intro _ _ | with_reducible intro _ | dsimp only

theorem State.showOfs_kept {hm : Option (Tbl Byte)} {dm : Option (Tbl Byte)} {qs : List Instr} (s : State) (n : Nat) (second : Bool) (h_s : Kept
    hm dm qs s) : Kept hm dm qs (State.showOfs s n second) := by
  unfold State.showOfs
  repeat' first
    | with_reducible assumption | with_reducible apply State.wr_kept | with_reducible apply State.draw_kept
    | with_reducible apply Kept_ite | split | with_reducible intro _ _ _ | with_reducible intro _ _ | with_reducible intro _
    | dsimp only

theorem State.endDrive_kept {hm : Option (Tbl Byte)} {dm : Option (Tbl Byte)} {qs : List Instr} (s : State) (n : Nat) (second : Bool) (tOn t :
    Nat) (h_s : Kept hm dm qs s) : Kept hm dm qs (State.endDrive s n second tOn t) := by
  unfold State.endDrive
  repeat' first
    | with_reducible assumption | with_reducible apply State.setAx_kept | with_reducible apply State.showOfs_kept
    | with_reducible apply Kept_ite | split | with_reducible intro _ _ _ | with_reducible intro _ _ | with_reducible intro _
    | dsimp only | with_reducible apply Kept_mk

theorem State.driveOut_kept {hm : Option (Tbl Byte)} {dm : Option (Tbl Byte)} {qs : List Instr} (s : State) (n : Nat) (second : Bool) (h_s : Kept
    hm dm qs s) : Kept hm dm qs (State.driveOut s n second) := by
  unfold State.driveOut
  repeat' first
    | with_reducible assumption | with_reducible apply State.wr_kept | with_reducible apply State.endDrive_kept
    | with_reducible apply Kept_ite | split | with_reducible intro _ _ _ | with_reducible intro _ _ | with_reducible intro _
    | dsimp only

theorem State.chopperCycle_kept {dm : Option (Tbl Byte)} {qs : List Instr} (s : State) (n : Nat) (second : Bool) (h_s : Kept none dm qs s) : Kept
    none dm qs (State.chopperCycle s n second) := by
  unfold State.chopperCycle
  repeat' first
    | with_reducible assumption | with_reducible apply State.axTo_kept | with_reducible apply State.driveOut_kept
    | with_reducible apply State.setAx_kept | with_reducible apply Kept_ite | split | with_reducible intro _ _ _
    | with_reducible intro _ _ | with_reducible intro _ | dsimp only | with_reducible apply Kept_mk

theorem execChopperCycle_kept {dm : Option (Tbl Byte)} {qs : List Instr} (axis : Fin 8) (second : Bool) (t : Nat) (s : State) (h_s : Kept none dm
    qs s) : KeptO none dm qs (execChopperCycle axis second t s) := by
  unfold execChopperCycle
  repeat' first
    | with_reducible assumption | with_reducible apply State.advance_kept | with_reducible apply State.chopperCycle_kept
    | with_reducible apply Kept_ite | with_reducible apply KeptO_next | with_reducible apply KeptO_ite | split
    | with_reducible intro _ _ _ | with_reducible intro _ _ | with_reducible intro _ | dsimp only

theorem State.overcurrent_kept {dm : Option (Tbl Byte)} {qs : List Instr} (s : State) (n : Nat) (h_s : Kept none dm qs s) : Kept none dm qs
    (State.overcurrent s n) := by
  unfold State.overcurrent
  repeat' first
    | with_reducible assumption | with_reducible apply State.count_kept | with_reducible apply State.raise_kept
    | with_reducible apply State.bridgesOff_kept | with_reducible apply State.faultNode_kept
    | with_reducible apply State.wr_kept | with_reducible apply State.axisEnd_kept | with_reducible apply Kept_ite | split
    | with_reducible intro _ _ _ | with_reducible intro _ _ | with_reducible intro _ | dsimp only

theorem State.comparatorTrip_kept {dm : Option (Tbl Byte)} {qs : List Instr} (s : State) (n : Nat) (second : Bool) (h_s : Kept none dm qs s) :
    Kept none dm qs (State.comparatorTrip s n second) := by
  unfold State.comparatorTrip
  repeat' first
    | with_reducible assumption | with_reducible apply State.axTo_kept | with_reducible apply State.driveOut_kept
    | with_reducible apply State.overcurrent_kept | with_reducible apply State.wr_kept
    | with_reducible apply State.endDrive_kept | with_reducible apply Kept_ite | split | with_reducible intro _ _ _
    | with_reducible intro _ _ | with_reducible intro _ | dsimp only

theorem execComparatorTrip_kept {dm : Option (Tbl Byte)} {qs : List Instr} (axis : Fin 8) (second : Bool) (t : Nat) (s : State) (h_s : Kept none
    dm qs s) : KeptO none dm qs (execComparatorTrip axis second t s) := by
  unfold execComparatorTrip
  repeat' first
    | with_reducible assumption | with_reducible apply State.advance_kept | with_reducible apply State.comparatorTrip_kept
    | with_reducible apply Kept_ite | with_reducible apply KeptO_next | with_reducible apply KeptO_ite | split
    | with_reducible intro _ _ _ | with_reducible intro _ _ | with_reducible intro _ | dsimp only

theorem State.drainAxis_kept {dm : Option (Tbl Byte)} {qs : List Instr} (s : State) (n : Nat) (h_s : Kept none dm qs s) : Kept none dm qs
    (State.drainAxis s n) := by
  unfold State.drainAxis
  repeat' first
    | with_reducible assumption | with_reducible apply State.axHalt_kept | with_reducible apply Kept_ite | split
    | with_reducible intro _ _ _ | with_reducible intro _ _ | with_reducible intro _ | dsimp only

theorem State.abortAxis_kept {dm : Option (Tbl Byte)} {qs : List Instr} (s : State) (n : Nat) (h_s : Kept none dm qs s) : Kept none dm qs
    (State.abortAxis s n) := by
  unfold State.abortAxis
  repeat' first
    | with_reducible assumption | with_reducible apply State.axHalt_kept | with_reducible apply Kept_ite | split
    | with_reducible intro _ _ _ | with_reducible intro _ _ | with_reducible intro _ | dsimp only

theorem execAxis_kept {dm : Option (Tbl Byte)} {qs : List Instr} (axis : Fin 8) (pos : Int) (v acc : Nat) (neg : Bool) (t : Nat) (s : State) (h_s
    : Kept none dm qs s) : KeptO none dm qs (execAxis axis pos v acc neg t s) := by
  unfold execAxis
  repeat' first
    | with_reducible assumption | with_reducible apply State.hear_kept | with_reducible apply State.axTo_kept
    | with_reducible apply State.wrS_kept | with_reducible apply State.wrB_kept | with_reducible apply State.setAx_kept
    | with_reducible apply State.axSpeed_kept | with_reducible apply Kept_ite | with_reducible apply KeptO_next
    | with_reducible apply KeptO_ite | split | with_reducible intro _ _ _ | with_reducible intro _ _ | with_reducible intro _
    | dsimp only | with_reducible apply Kept_mk

theorem State.sendIdentity_kept {hm : Option (Tbl Byte)} {dm : Option (Tbl Byte)} {qs : List Instr} (s : State) (h_s : Kept hm dm qs s) : Kept hm
    dm qs (State.sendIdentity s) := by
  unfold State.sendIdentity
  repeat' first
    | with_reducible assumption | with_reducible apply State.sendLoad_kept | with_reducible apply Kept_ite | split
    | with_reducible intro _ _ _ | with_reducible intro _ _ | with_reducible intro _ | dsimp only

theorem State.sendHeart_kept {hm : Option (Tbl Byte)} {dm : Option (Tbl Byte)} {qs : List Instr} (s : State) (h_s : Kept hm dm qs s) : Kept hm dm
    qs (State.sendHeart s) := by
  unfold State.sendHeart
  repeat' first
    | with_reducible assumption | with_reducible apply State.sendYoke_kept | with_reducible apply Kept_ite | split
    | with_reducible intro _ _ _ | with_reducible intro _ _ | with_reducible intro _ | dsimp only

theorem State.flushUnacked_kept {dm : Option (Tbl Byte)} {qs : List Instr} (s : State) (h_s : Kept none dm qs s) : Kept none dm qs
    (State.flushUnacked s) := by
  unfold State.flushUnacked
  repeat' first
    | with_reducible assumption | with_reducible apply State.finishCpl_kept | with_reducible apply Kept_ite
    | with_reducible apply Kept_foldl | split | with_reducible intro _ _ _ | with_reducible intro _ _ | with_reducible intro _
    | dsimp only | with_reducible apply Kept_mk

theorem State.endWaits_kept {dm : Option (Tbl Byte)} {qs : List Instr} (s : State) (st : Status) (h_s : Kept none dm qs s) : Kept none dm qs
    (State.endWaits s st) := by
  unfold State.endWaits
  repeat' first
    | with_reducible assumption | with_reducible apply State.complete_kept | with_reducible apply Kept_ite
    | with_reducible apply Kept_foldl | split | with_reducible intro _ _ _ | with_reducible intro _ _ | with_reducible intro _
    | dsimp only | with_reducible apply Kept_mk

theorem State.stopComparing_kept {hm : Option (Tbl Byte)} {dm : Option (Tbl Byte)} {qs : List Instr} (s : State) (h_s : Kept hm dm qs s) : Kept
    hm dm qs (State.stopComparing s) := by
  unfold State.stopComparing
  repeat' first
    | with_reducible assumption | with_reducible apply State.wr_kept | with_reducible apply Kept_ite | split
    | with_reducible intro _ _ _ | with_reducible intro _ _ | with_reducible intro _ | dsimp only
    | with_reducible apply Kept_mk

theorem State.unpair_kept {dm : Option (Tbl Byte)} {qs : List Instr} (s : State) (h_s : Kept none dm qs s) : Kept none dm qs (State.unpair s) :=
    by
  unfold State.unpair
  repeat' first
    | with_reducible assumption | with_reducible apply State.flushUnacked_kept | with_reducible apply State.endWaits_kept
    | with_reducible apply State.stopComparing_kept | with_reducible apply State.wr_kept | with_reducible apply Kept_ite
    | split | with_reducible intro _ _ _ | with_reducible intro _ _ | with_reducible intro _ | dsimp only

theorem State.leaveRole_kept {dm : Option (Tbl Byte)} {qs : List Instr} (s : State) (h_s : Kept none dm qs s) : Kept none dm qs (State.leaveRole
    s) := by
  unfold State.leaveRole
  repeat' first
    | with_reducible assumption | with_reducible apply State.unpair_kept | with_reducible apply State.wr_kept
    | with_reducible apply State.setRing_kept | with_reducible apply Kept_ite | with_reducible apply Kept_foldl | split
    | with_reducible intro _ _ _ | with_reducible intro _ _ | with_reducible intro _ | dsimp only
    | with_reducible apply Kept_mk

theorem State.noteRole_kept {dm : Option (Tbl Byte)} {qs : List Instr} (s : State) (h_s : Kept none dm qs s) : Kept none dm qs (State.noteRole s)
    := by
  unfold State.noteRole
  repeat' first
    | with_reducible assumption | with_reducible apply State.complete_kept | with_reducible apply Kept_ite | split
    | with_reducible intro _ _ _ | with_reducible intro _ _ | with_reducible intro _ | dsimp only
    | with_reducible apply Kept_mk

theorem State.roleFails_kept {dm : Option (Tbl Byte)} {qs : List Instr} (s : State) (h_s : Kept none dm qs s) : Kept none dm qs (State.roleFails
    s) := by
  unfold State.roleFails
  repeat' first
    | with_reducible assumption | with_reducible apply State.leaveRole_kept | with_reducible apply State.complete_kept
    | with_reducible apply Kept_ite | split | with_reducible intro _ _ _ | with_reducible intro _ _ | with_reducible intro _
    | dsimp only | with_reducible apply Kept_mk

theorem State.takeRole_kept {dm : Option (Tbl Byte)} {qs : List Instr} (s : State) (role : Nat) (pk : Pk) (h_s : Kept none dm qs s) : Kept none
    dm qs (State.takeRole s role pk) := by
  unfold State.takeRole
  repeat' first
    | with_reducible assumption | with_reducible apply State.wr_kept | with_reducible apply State.stopComparing_kept
    | with_reducible apply State.endContext_kept | with_reducible apply State.closeCtx_kept
    | with_reducible apply State.sendIdentity_kept | with_reducible apply Kept_ite | with_reducible apply Kept_foldl | split
    | with_reducible intro _ _ _ | with_reducible intro _ _ | with_reducible intro _ | dsimp only
    | with_reducible apply Kept_mk

theorem execYokeRole_kept {dm : Option (Tbl Byte)} {qs : List Instr} (h : Hdr) (role : Nat) (s : State) (h_s : Kept none dm qs s) : KeptO none dm
    qs (execYokeRole h role s) := by
  unfold execYokeRole
  repeat' first
    | with_reducible assumption | with_reducible apply State.packet_kept | with_reducible apply State.leaveRole_kept
    | with_reducible apply State.sendHeart_kept | with_reducible apply State.complete_kept
    | with_reducible apply State.unpair_kept | with_reducible apply State.takeRole_kept | with_reducible apply Kept_ite
    | with_reducible apply KeptO_next | with_reducible apply KeptO_ite | split | with_reducible intro _ _ _
    | with_reducible intro _ _ | with_reducible intro _ | dsimp only

theorem execYokeRoleTimeout_kept {dm : Option (Tbl Byte)} {qs : List Instr} (s : State) (h_s : Kept none dm qs s) : KeptO none dm qs
    (execYokeRoleTimeout s) := by
  unfold execYokeRoleTimeout
  repeat' first
    | with_reducible assumption | with_reducible apply State.advance_kept | with_reducible apply State.roleFails_kept
    | with_reducible apply Kept_ite | with_reducible apply KeptO_next | with_reducible apply KeptO_ite | split
    | with_reducible intro _ _ _ | with_reducible intro _ _ | with_reducible intro _ | dsimp only

theorem State.ackTo_kept {dm : Option (Tbl Byte)} {qs : List Instr} (s : State) (last : Nat) (h_s : Kept none dm qs s) : Kept none dm qs
    (State.ackTo s last) := by
  unfold State.ackTo
  repeat' first
    | with_reducible assumption | with_reducible apply State.finishCpl_kept | with_reducible apply State.sendSeq_kept
    | with_reducible apply Kept_ite | with_reducible apply Kept_foldl | split | with_reducible intro _ _ _
    | with_reducible intro _ _ | with_reducible intro _ | dsimp only | with_reducible apply Kept_mk

theorem execMessageRetransmit_kept {dm : Option (Tbl Byte)} {qs : List Instr} (t : Nat) (s : State) (h_s : Kept none dm qs s) : KeptO none dm qs
    (execMessageRetransmit t s) := by
  unfold execMessageRetransmit
  repeat' first
    | with_reducible assumption | with_reducible apply State.advance_kept | with_reducible apply State.sendLoad_kept
    | with_reducible apply State.count_kept | with_reducible apply Kept_ite | with_reducible apply KeptO_next
    | with_reducible apply KeptO_ite | with_reducible apply Kept_foldl | split | with_reducible intro _ _ _
    | with_reducible intro _ _ | with_reducible intro _ | dsimp only | with_reducible apply Kept_mk

theorem State.partnerIsDown_kept {dm : Option (Tbl Byte)} {qs : List Instr} (s : State) (h_s : Kept none dm qs s) : Kept none dm qs
    (State.partnerIsDown s) := by
  unfold State.partnerIsDown
  repeat' first
    | with_reducible assumption | with_reducible apply State.wr_kept | with_reducible apply State.raise_kept
    | with_reducible apply State.flushUnacked_kept | with_reducible apply State.endWaits_kept
    | with_reducible apply State.stopComparing_kept | with_reducible apply Kept_ite | split | with_reducible intro _ _ _
    | with_reducible intro _ _ | with_reducible intro _ | dsimp only

theorem execPartnerDown_kept {dm : Option (Tbl Byte)} {qs : List Instr} (t : Nat) (s : State) (h_s : Kept none dm qs s) : KeptO none dm qs
    (execPartnerDown t s) := by
  unfold execPartnerDown
  repeat' first
    | with_reducible assumption | with_reducible apply State.advance_kept | with_reducible apply State.partnerIsDown_kept
    | with_reducible apply Kept_ite | with_reducible apply KeptO_next | with_reducible apply KeptO_ite | split
    | with_reducible intro _ _ _ | with_reducible intro _ _ | with_reducible intro _ | dsimp only

theorem State.pairUp_kept {dm : Option (Tbl Byte)} {qs : List Instr} (s : State) (h_s : Kept none dm qs s) : Kept none dm qs (State.pairUp s) :=
    by
  unfold State.pairUp
  repeat' first
    | with_reducible assumption | with_reducible apply State.wr_kept | with_reducible apply State.sendMirror_kept
    | with_reducible apply State.noteRole_kept | with_reducible apply Kept_ite | split | with_reducible intro _ _ _
    | with_reducible intro _ _ | with_reducible intro _ | dsimp only

theorem State.displace_kept {dm : Option (Tbl Byte)} {qs : List Instr} (s : State) (h_s : Kept none dm qs s) : Kept none dm qs (State.displace s)
    := by
  unfold State.displace
  repeat' first
    | with_reducible assumption | with_reducible apply State.wr_kept | with_reducible apply State.unpair_kept
    | with_reducible apply State.raise_kept | with_reducible apply Kept_ite | split | with_reducible intro _ _ _
    | with_reducible intro _ _ | with_reducible intro _ | dsimp only | with_reducible apply Kept_mk

theorem State.peerFenced_kept {dm : Option (Tbl Byte)} {qs : List Instr} (s : State) (h_s : Kept none dm qs s) : Kept none dm qs
    (State.peerFenced s) := by
  unfold State.peerFenced
  repeat' first
    | with_reducible assumption | with_reducible apply State.wr_kept | with_reducible apply State.raise_kept
    | with_reducible apply Kept_ite | split | with_reducible intro _ _ _ | with_reducible intro _ _ | with_reducible intro _
    | dsimp only

theorem State.recvHeart_kept {dm : Option (Tbl Byte)} {qs : List Instr} (s : State) (role : Nat) (fenced owns : Bool) (last : Nat) (h_s : Kept
    none dm qs s) : Kept none dm qs (State.recvHeart s role fenced owns last) := by
  unfold State.recvHeart
  repeat' first
    | with_reducible assumption | with_reducible apply State.ackTo_kept | with_reducible apply State.peerFenced_kept
    | with_reducible apply State.leaveRole_kept | with_reducible apply State.displace_kept
    | with_reducible apply State.unpair_kept | with_reducible apply State.pairUp_kept | with_reducible apply Kept_ite | split
    | with_reducible intro _ _ _ | with_reducible intro _ _ | with_reducible intro _ | dsimp only

theorem execHeart_kept {dm : Option (Tbl Byte)} {qs : List Instr} (role : Fin 4) (fenced owns _checking : Bool) (last t : Nat) (s : State) (h_s :
    Kept none dm qs s) : KeptO none dm qs (execHeart role fenced owns _checking last t s) := by
  unfold execHeart
  repeat' first
    | with_reducible assumption | with_reducible apply State.hear_kept | with_reducible apply State.recvHeart_kept
    | with_reducible apply Kept_ite | with_reducible apply KeptO_next | with_reducible apply KeptO_ite | split
    | with_reducible intro _ _ _ | with_reducible intro _ _ | with_reducible intro _ | dsimp only

theorem execHeartInterval_kept {hm : Option (Tbl Byte)} {dm : Option (Tbl Byte)} {qs : List Instr} (s : State) (h_s : Kept hm dm qs s) : KeptO hm
    dm qs (execHeartInterval s) := by
  unfold execHeartInterval
  repeat' first
    | with_reducible assumption | with_reducible apply State.sendHeart_kept | with_reducible apply State.sendIdentity_kept
    | with_reducible apply Kept_ite | with_reducible apply KeptO_next | with_reducible apply KeptO_ite | split
    | with_reducible intro _ _ _ | with_reducible intro _ _ | with_reducible intro _ | dsimp only

theorem execToken_kept {dm : Option (Tbl Byte)} {qs : List Instr} (ctx : Fin 256) (line _global t : Nat) (s : State) (h_s : Kept none dm qs s) :
    KeptO none dm qs (execToken ctx line _global t s) := by
  unfold execToken
  repeat' first
    | with_reducible assumption | with_reducible apply State.hear_kept | with_reducible apply State.meet_kept
    | with_reducible apply Kept_ite | with_reducible apply KeptO_next | with_reducible apply KeptO_ite | split
    | with_reducible intro _ _ _ | with_reducible intro _ _ | with_reducible intro _ | dsimp only
    | with_reducible apply Kept_mk

theorem execStepLost_kept {dm : Option (Tbl Byte)} {qs : List Instr} (t : Nat) (s : State) (h_s : Kept none dm qs s) : KeptO none dm qs
    (execStepLost t s) := by
  unfold execStepLost
  repeat' first
    | with_reducible assumption | with_reducible apply State.advance_kept | with_reducible apply State.stepLost_kept
    | with_reducible apply Kept_ite | with_reducible apply KeptO_next | with_reducible apply KeptO_ite
    | with_reducible apply Kept_foldl | split | with_reducible intro _ _ _ | with_reducible intro _ _ | with_reducible intro _
    | dsimp only | with_reducible apply Kept_mk

theorem execSwathCrc_kept {dm : Option (Tbl Byte)} {qs : List Instr} (lane : Fin 32) (line : Nat) (marked : Bool) (crc : BitVec 32) (t : Nat) (s
    : State) (h_s : Kept none dm qs s) : KeptO none dm qs (execSwathCrc lane line marked crc t s) := by
  unfold execSwathCrc
  repeat' first
    | with_reducible assumption | with_reducible apply State.hear_kept | with_reducible apply State.compareCrc_kept
    | with_reducible apply Kept_ite | with_reducible apply KeptO_next | with_reducible apply KeptO_ite | split
    | with_reducible intro _ _ _ | with_reducible intro _ _ | with_reducible intro _ | dsimp only
    | with_reducible apply Kept_mk

theorem State.fence_kept {dm : Option (Tbl Byte)} {qs : List Instr} (s : State) (h_s : Kept none dm qs s) : Kept none dm qs (State.fence s) := by
  unfold State.fence
  repeat' first
    | with_reducible assumption | with_reducible apply State.endWaits_kept | with_reducible apply State.unpair_kept
    | with_reducible apply State.wr_kept | with_reducible apply State.faultNode_kept | with_reducible apply State.raise_kept
    | with_reducible apply Kept_ite | split | with_reducible intro _ _ _ | with_reducible intro _ _ | with_reducible intro _
    | dsimp only

theorem State.askResync_kept {hm : Option (Tbl Byte)} {dm : Option (Tbl Byte)} {qs : List Instr} (s : State) (h_s : Kept hm dm qs s) : Kept hm dm
    qs (State.askResync s) := by
  unfold State.askResync
  repeat' first
    | with_reducible assumption | with_reducible apply State.wr_kept | with_reducible apply Kept_ite | split
    | with_reducible intro _ _ _ | with_reducible intro _ _ | with_reducible intro _ | dsimp only

theorem State.checkOutcome_kept {dm : Option (Tbl Byte)} {qs : List Instr} (s : State) (h_s : Kept none dm qs s) : Kept none dm qs
    (State.checkOutcome s) := by
  unfold State.checkOutcome
  repeat' first
    | with_reducible assumption | with_reducible apply State.wr_kept | with_reducible apply State.askResync_kept
    | with_reducible apply State.peerFenced_kept | with_reducible apply State.unpair_kept
    | with_reducible apply State.fence_kept | with_reducible apply Kept_ite | split | with_reducible intro _ _ _
    | with_reducible intro _ _ | with_reducible intro _ | dsimp only | with_reducible apply Kept_mk

theorem execCheck_kept {dm : Option (Tbl Byte)} {qs : List Instr} (done passed : Bool) (lane : Fin 32) (line t : Nat) (s : State) (h_s : Kept
    none dm qs s) : KeptO none dm qs (execCheck done passed lane line t s) := by
  unfold execCheck
  repeat' first
    | with_reducible assumption | with_reducible apply State.hear_kept | with_reducible apply State.wr_kept
    | with_reducible apply State.checkOutcome_kept | with_reducible apply Kept_ite | with_reducible apply KeptO_next
    | with_reducible apply KeptO_ite | split | with_reducible intro _ _ _ | with_reducible intro _ _ | with_reducible intro _
    | dsimp only | with_reducible apply Kept_mk

theorem State.peerStep_kept {hm : Option (Tbl Byte)} {dm : Option (Tbl Byte)} {qs : List Instr} (s : State) (x : CalStep) (h_s : Kept hm dm qs s)
    : Kept hm dm qs (State.peerStep s x) := by
  unfold State.peerStep
  repeat' first
    | with_reducible assumption | with_reducible apply State.addStep_kept | with_reducible apply Kept_ite | split
    | with_reducible intro _ _ _ | with_reducible intro _ _ | with_reducible intro _ | dsimp only
    | with_reducible apply Kept_mk

theorem State.recvLoad_kept {dm : Option (Tbl Byte)} {qs : List Instr} (s : State) (m : Mirror) (h_s : Kept none dm qs s) : m.wf = true → Kept none dm qs (State.recvLoad s m) := by
  intro hm
  unfold State.recvLoad
  dsimp only
  apply State.noteRole_kept
  have h := State.raiseIf_kept _ (!!s.yk.loaded) .yoke 20 (State.wr_kept _ R.YOKE_STATE_RESYNC_PENDING 0 (State.loadMirror_kept s m h_s hm))
  split
  · exact State.complete_kept _ _ _ _ (Kept_mk h)
  · exact h

theorem State.recvDigest_kept {dm : Option (Tbl Byte)} {qs : List Instr} (s : State) (ctx digest : Nat) (h_s : Kept none dm qs s) : Kept none dm
    qs (State.recvDigest s ctx digest) := by
  unfold State.recvDigest
  repeat' first
    | with_reducible assumption | with_reducible apply State.count_kept | with_reducible apply State.raise_kept
    | with_reducible apply State.askResync_kept | with_reducible apply Kept_ite | split | with_reducible intro _ _ _
    | with_reducible intro _ _ | with_reducible intro _ | dsimp only

theorem State.recvMirror_kept {dm : Option (Tbl Byte)} {qs : List Instr} (s : State) (m : MirrorMsg) (h_s : Kept none dm qs s) : m.wf = true → Kept none dm qs (State.recvMirror s m) := by
  intro hm
  unfold State.recvMirror
  split
  · split
    · exact State.recvDigest_kept _ _ _ h_s
    · exact h_s
  · split
    · exact State.recvLoad_kept _ _ h_s hm
    · exact h_s
  · exact State.peerStep_kept _ _ h_s
  · split
    · exact State.wr_kept _ _ _ h_s
    · exact h_s
  · exact Kept_mk h_s
  · exact Kept_mk h_s

theorem State.took_kept {hm : Option (Tbl Byte)} {dm : Option (Tbl Byte)} {qs : List Instr} (s : State) (q : Nat) (h_s : Kept hm dm qs s) : Kept
    hm dm qs (State.took s q) := by
  unfold State.took
  repeat' first
    | with_reducible assumption | with_reducible apply Kept_ite | split | with_reducible intro _ _ _
    | with_reducible intro _ _ | with_reducible intro _ | dsimp only | with_reducible apply Kept_mk

theorem execMirror_kept {dm : Option (Tbl Byte)} {qs : List Instr} (q : Nat) (m : MirrorMsg) (t : Nat) (s : State) (h_s : Kept none dm qs s) : m.wf = true → KeptO none dm qs (execMirror q m t s) := by
  intro hm
  unfold execMirror
  split
  · exact KeptO_next h_s
  · dsimp only
    split
    · exact KeptO_next (State.recvMirror_kept _ _ (State.took_kept _ _ (State.hear_kept _ _ h_s)) hm)
    · exact KeptO_next (State.hear_kept _ _ h_s)

theorem State.recvIdentity_kept {dm : Option (Tbl Byte)} {qs : List Instr} (s : State) (side : Bool) (release : Nat) (h_s : Kept none dm qs s) :
    Kept none dm qs (State.recvIdentity s side release) := by
  unfold State.recvIdentity
  repeat' first
    | with_reducible assumption | with_reducible apply State.roleFails_kept | with_reducible apply Kept_ite | split
    | with_reducible intro _ _ _ | with_reducible intro _ _ | with_reducible intro _ | dsimp only
    | with_reducible apply Kept_mk

theorem State.recvCamera_kept {qs : List Instr} (s : State) (ring sq status : Nat) (words : List Nat) (bytes : List Byte) (h_s : Kept none none
    qs s) : Kept none none qs (State.recvCamera s ring sq status words bytes) := by
  unfold State.recvCamera
  repeat' first
    | with_reducible assumption | with_reducible apply State.writeAt_kept | with_reducible apply State.complete_kept
    | with_reducible apply Kept_ite | split | with_reducible intro _ _ _ | with_reducible intro _ _ | with_reducible intro _
    | dsimp only | with_reducible apply Kept_mk

theorem State.recvCompletion_kept {hm : Option (Tbl Byte)} {dm : Option (Tbl Byte)} {qs : List Instr} (s : State) (ring : Nat) (c : Cpl) (index :
    Nat) (phase : Bool) (head : Nat) (h_s : Kept hm dm qs s) : Kept hm dm qs (State.recvCompletion s ring c index phase head) := by
  unfold State.recvCompletion
  repeat' first
    | with_reducible assumption | with_reducible apply Kept_ite | split | with_reducible intro _ _ _
    | with_reducible intro _ _ | with_reducible intro _ | dsimp only | with_reducible apply Kept_mk

theorem State.recvResult_kept {qs : List Instr} (s : State) (m : ResultMsg) (h_s : Kept none none qs s) : Kept none none qs (State.recvResult s
    m) := by
  unfold State.recvResult
  repeat' first
    | with_reducible assumption | with_reducible apply State.recvIdentity_kept | with_reducible apply State.recvCamera_kept
    | with_reducible apply State.recvCompletion_kept | with_reducible apply State.queueReject_kept
    | with_reducible apply State.wr_kept | with_reducible apply State.sendMirror_kept | with_reducible apply Kept_ite | split
    | with_reducible intro _ _ _ | with_reducible intro _ _ | with_reducible intro _ | dsimp only
    | with_reducible apply Kept_mk

theorem execResult_kept {qs : List Instr} (q : Nat) (m : ResultMsg) (t : Nat) (s : State) (h_s : Kept none none qs s) : KeptO none none qs
    (execResult q m t s) := by
  unfold execResult
  repeat' first
    | with_reducible assumption | with_reducible apply State.hear_kept | with_reducible apply State.recvResult_kept
    | with_reducible apply State.took_kept | with_reducible apply Kept_ite | with_reducible apply KeptO_next
    | with_reducible apply KeptO_ite | split | with_reducible intro _ _ _ | with_reducible intro _ _ | with_reducible intro _
    | dsimp only | with_reducible apply Kept_mk

theorem execRecord_kept {qs : List Instr} (kind : Fin 3) (bytes : List Byte) (t : Nat) (s : State) (h_s : Kept none none qs s) : KeptO none none
    qs (execRecord kind bytes t s) := by
  unfold execRecord
  repeat' first
    | with_reducible assumption | with_reducible apply State.hear_kept | with_reducible apply State.enterTile_kept
    | with_reducible apply State.enterDefect_kept | with_reducible apply State.enterProp_kept | with_reducible apply Kept_ite
    | with_reducible apply KeptO_next | with_reducible apply KeptO_ite | split | with_reducible intro _ _ _
    | with_reducible intro _ _ | with_reducible intro _ | dsimp only | with_reducible apply Kept_mk

theorem execYokeResync_kept {dm : Option (Tbl Byte)} {qs : List Instr} (h : Hdr) (s : State) (h_s : Kept none dm qs s) : KeptO none dm qs
    (execYokeResync h s) := by
  unfold execYokeResync
  repeat' first
    | with_reducible assumption | with_reducible apply State.packet_kept | with_reducible apply State.wr_kept
    | with_reducible apply State.sendSeq_kept | with_reducible apply Kept_ite | with_reducible apply KeptO_next
    | with_reducible apply KeptO_ite | split | with_reducible intro _ _ _ | with_reducible intro _ _ | with_reducible intro _
    | dsimp only | with_reducible apply Kept_mk

theorem State.resumeLane_kept {dm : Option (Tbl Byte)} {qs : List Instr} (s : State) (ctx lane : Nat) (h_s : Kept none dm qs s) : Kept none dm qs
    (State.resumeLane s ctx lane).1 := by
  unfold State.resumeLane
  repeat' first
    | with_reducible assumption | with_reducible apply State.setHead_kept | with_reducible apply State.pump_kept
    | with_reducible apply State.markLaneLine_kept | with_reducible apply State.markLine_kept | with_reducible apply Kept_ite
    | with_reducible apply Kept_foldl | split | with_reducible intro _ _ _ | with_reducible intro _ _ | with_reducible intro _
    | dsimp only | with_reducible apply Kept_mk

theorem State.takeLane_kept {dm : Option (Tbl Byte)} {qs : List Instr} (s : State) (lane since : Nat) (h_s : Kept none dm qs s) : Kept none dm qs
    (State.takeLane s lane since) := by
  unfold State.takeLane
  repeat' first
    | with_reducible assumption | with_reducible apply State.wr_kept | with_reducible apply State.setHead_kept
    | with_reducible apply State.resumeLane_kept | with_reducible apply Kept_ite | split | with_reducible intro _ _ _
    | with_reducible intro _ _ | with_reducible intro _ | dsimp only | with_reducible apply Kept_mk

theorem State.takeLanes_kept {dm : Option (Tbl Byte)} {qs : List Instr} (s : State) (ls : List Nat) (since : Nat → Nat) (h_s : Kept none dm qs s)
    : Kept none dm qs (State.takeLanes s ls since).1 := by
  unfold State.takeLanes
  repeat' first
    | with_reducible assumption | with_reducible apply State.wr_kept | with_reducible apply State.takeLane_kept
    | with_reducible apply Kept_ite | with_reducible apply Kept_foldl | split | with_reducible intro _ _ _
    | with_reducible intro _ _ | with_reducible intro _ | dsimp only

theorem State.takeRing_kept {dm : Option (Tbl Byte)} {qs : List Instr} (s : State) (r : Fin 256) (h_s : Kept none dm qs s) : Kept none dm qs
    (State.takeRing s r) := by
  unfold State.takeRing
  repeat' first
    | with_reducible assumption | with_reducible apply State.wr_kept | with_reducible apply State.wrB_kept
    | with_reducible apply State.setRing_kept | with_reducible apply State.hostWrite_kept
    | with_reducible apply State.complCpl_kept | with_reducible apply Kept_ite | with_reducible apply Kept_foldl | split
    | with_reducible intro _ _ _ | with_reducible intro _ _ | with_reducible intro _ | dsimp only
    | with_reducible apply Kept_mk

theorem State.takeWhole_kept {dm : Option (Tbl Byte)} {qs : List Instr} (s : State) (h_s : Kept none dm qs s) : Kept none dm qs (State.takeWhole
    s).1 := by
  unfold State.takeWhole
  repeat' first
    | with_reducible assumption | with_reducible apply State.endWaits_kept | with_reducible apply State.stopComparing_kept
    | with_reducible apply State.wr_kept | with_reducible apply State.takeRing_kept
    | with_reducible apply State.takeLanes_kept | with_reducible apply State.count_kept
    | with_reducible apply State.raiseIf_kept | with_reducible apply State.raise_kept | with_reducible apply Kept_ite
    | with_reducible apply Kept_foldl | split | with_reducible intro _ _ _ | with_reducible intro _ _ | with_reducible intro _
    | dsimp only | with_reducible apply Kept_mk

theorem State.takeSingle_kept {dm : Option (Tbl Byte)} {qs : List Instr} (s : State) (ls : List Nat) (h_s : Kept none dm qs s) : Kept none dm qs
    (State.takeSingle s ls).1 := by
  unfold State.takeSingle
  repeat' first
    | with_reducible assumption | with_reducible apply State.takeLanes_kept | with_reducible apply State.count_kept
    | with_reducible apply State.raise_kept | with_reducible apply Kept_ite | split | with_reducible intro _ _ _
    | with_reducible intro _ _ | with_reducible intro _ | dsimp only

theorem execTakeover_kept {dm : Option (Tbl Byte)} {qs : List Instr} (h : Hdr) (mask whole : Nat) (s : State) (h_s : Kept none dm qs s) : KeptO
    none dm qs (execTakeover h mask whole s) := by
  unfold execTakeover
  repeat' first
    | with_reducible assumption | with_reducible apply State.packet_kept | with_reducible apply State.takeWhole_kept
    | with_reducible apply State.takeSingle_kept | with_reducible apply State.complete_kept | with_reducible apply Kept_ite
    | with_reducible apply KeptO_next | with_reducible apply KeptO_ite | split | with_reducible intro _ _ _
    | with_reducible intro _ _ | with_reducible intro _ | dsimp only

theorem execAutomaticTakeover_kept {dm : Option (Tbl Byte)} {qs : List Instr} (lane : Option (Fin 32)) (t : Nat) (s : State) (h_s : Kept none dm
    qs s) : KeptO none dm qs (execAutomaticTakeover lane t s) := by
  unfold execAutomaticTakeover
  repeat' first
    | with_reducible assumption | with_reducible apply State.advance_kept | with_reducible apply State.takeWhole_kept
    | with_reducible apply State.takeSingle_kept | with_reducible apply Kept_ite | with_reducible apply KeptO_next
    | with_reducible apply KeptO_ite | split | with_reducible intro _ _ _ | with_reducible intro _ _ | with_reducible intro _
    | dsimp only | with_reducible apply Kept_mk

theorem execGleanPolicy_kept {dm : Option (Tbl Byte)} {qs : List Instr} (h : Hdr) (block : Nat) (s : State) (h_s : Kept none dm qs s) : KeptO
    none dm qs (execGleanPolicy h block s) := by
  unfold execGleanPolicy
  repeat' first
    | with_reducible assumption | with_reducible apply State.packetR_kept | with_reducible apply State.complete_kept
    | with_reducible apply Kept_ite | with_reducible apply KeptO_next | with_reducible apply KeptO_ite | split
    | with_reducible intro _ _ _ | with_reducible intro _ _ | with_reducible intro _ | dsimp only
    | with_reducible apply Kept_mk

theorem State.gleanRecord_kept {hm : Option (Tbl Byte)} {dm : Option (Tbl Byte)} {qs : List Instr} (s : State) (n : Node) (test result : Nat)
    (h_s : Kept hm dm qs s) : Kept hm dm qs (State.gleanRecord s n test result) := by
  unfold State.gleanRecord
  repeat' first
    | with_reducible assumption | with_reducible apply State.wr_kept | with_reducible apply Kept_ite | split
    | with_reducible intro _ _ _ | with_reducible intro _ _ | with_reducible intro _ | dsimp only

theorem State.noteTested_kept {hm : Option (Tbl Byte)} {dm : Option (Tbl Byte)} {qs : List Instr} (s : State) (n : Node) (bank : Nat) (h_s : Kept
    hm dm qs s) : Kept hm dm qs (State.noteTested s n bank) := by
  unfold State.noteTested
  repeat' first
    | with_reducible assumption | with_reducible apply Kept_ite | split | with_reducible intro _ _ _
    | with_reducible intro _ _ | with_reducible intro _ | dsimp only | with_reducible apply Kept_mk

theorem State.testDone_kept {dm : Option (Tbl Byte)} {qs : List Instr} (s : State) (n : Node) (bank test : Nat) (passed : Bool) (h_s : Kept none
    dm qs s) : Kept none dm qs (State.testDone s n bank test passed) := by
  unfold State.testDone
  repeat' first
    | with_reducible assumption | with_reducible apply State.gleanRecord_kept | with_reducible apply State.noteTested_kept
    | with_reducible apply State.count_kept | with_reducible apply State.raise_kept | with_reducible apply Kept_ite | split
    | with_reducible intro _ _ _ | with_reducible intro _ _ | with_reducible intro _ | dsimp only

theorem State.testAborted_kept {dm : Option (Tbl Byte)} {qs : List Instr} (s : State) (n : Node) (test : Nat) (h_s : Kept none dm qs s) : Kept
    none dm qs (State.testAborted s n test) := by
  unfold State.testAborted
  repeat' first
    | with_reducible assumption | with_reducible apply State.gleanRecord_kept | with_reducible apply State.count_kept
    | with_reducible apply Kept_ite | split | with_reducible intro _ _ _ | with_reducible intro _ _ | with_reducible intro _
    | dsimp only

theorem State.beginTest_kept {hm : Option (Tbl Byte)} {dm : Option (Tbl Byte)} {qs : List Instr} (s : State) (n : Node) (test : Nat) (h_s : Kept
    hm dm qs s) : Kept hm dm qs (State.beginTest s n test) := by
  unfold State.beginTest
  repeat' first
    | with_reducible assumption | with_reducible apply State.wr_kept | with_reducible apply State.setMode_kept
    | with_reducible apply Kept_ite | split | with_reducible intro _ _ _ | with_reducible intro _ _ | with_reducible intro _
    | dsimp only | with_reducible apply Kept_mk

theorem State.clearTest_kept {hm : Option (Tbl Byte)} {dm : Option (Tbl Byte)} {qs : List Instr} (s : State) (n : Node) (h_s : Kept hm dm qs s) :
    Kept hm dm qs (State.clearTest s n) := by
  unfold State.clearTest
  repeat' first
    | with_reducible assumption | with_reducible apply State.wr_kept | with_reducible apply State.setMode_kept
    | with_reducible apply Kept_ite | split | with_reducible intro _ _ _ | with_reducible intro _ _ | with_reducible intro _
    | dsimp only | with_reducible apply Kept_mk

theorem State.passNode_kept {hm : Option (Tbl Byte)} {dm : Option (Tbl Byte)} {qs : List Instr} (s : State) (n : Node) (h_s : Kept hm dm qs s) :
    Kept hm dm qs (State.passNode s n) := by
  unfold State.passNode
  repeat' first
    | with_reducible assumption | with_reducible apply State.setSlice_kept | with_reducible apply Kept_ite | split
    | with_reducible intro _ _ _ | with_reducible intro _ _ | with_reducible intro _ | dsimp only
    | with_reducible apply Kept_mk

theorem State.nextRun_kept {dm : Option (Tbl Byte)} {qs : List Instr} (s : State) (n : Node) (h_s : Kept none dm qs s) : Kept none dm qs
    (State.nextRun s n) := by
  unfold State.nextRun
  repeat' first
    | with_reducible assumption | with_reducible apply State.beginTest_kept | with_reducible apply State.passNode_kept
    | with_reducible apply State.complete_kept | with_reducible apply Kept_ite | split | with_reducible intro _ _ _
    | with_reducible intro _ _ | with_reducible intro _ | dsimp only | with_reducible apply Kept_mk

theorem execGleanRun_kept {dm : Option (Tbl Byte)} {qs : List Instr} (h : Hdr) (off mask : Nat) (s : State) (h_s : Kept none dm qs s) : KeptO
    none dm qs (execGleanRun h off mask s) := by
  unfold execGleanRun
  repeat' first
    | with_reducible assumption | with_reducible apply State.packetW_kept | with_reducible apply State.nextRun_kept
    | with_reducible apply Kept_ite | with_reducible apply KeptO_next | with_reducible apply KeptO_ite | split
    | with_reducible intro _ _ _ | with_reducible intro _ _ | with_reducible intro _ | dsimp only
    | with_reducible apply Kept_mk

theorem execGleanTestStart_kept {hm : Option (Tbl Byte)} {dm : Option (Tbl Byte)} {qs : List Instr} (n : Node) (test : Fin 4) (s : State) (h_s :
    Kept hm dm qs s) : KeptO hm dm qs (execGleanTestStart n test s) := by
  unfold execGleanTestStart
  repeat' first
    | with_reducible assumption | with_reducible apply State.beginTest_kept | with_reducible apply Kept_ite
    | with_reducible apply KeptO_next | with_reducible apply KeptO_ite | split | with_reducible intro _ _ _
    | with_reducible intro _ _ | with_reducible intro _ | dsimp only

theorem State.runAfter_kept {dm : Option (Tbl Byte)} {qs : List Instr} (s : State) (own : GleanRun → State) (h_s : Kept none dm qs s) (h_own : ∀
    (x0 : GleanRun), Kept none dm qs (own x0)) : Kept none dm qs (State.runAfter s own) := by
  unfold State.runAfter
  repeat' first
    | with_reducible assumption | with_reducible apply h_own | with_reducible apply State.nextRun_kept
    | with_reducible apply Kept_ite | split | with_reducible intro _ _ _ | with_reducible intro _ _ | with_reducible intro _
    | dsimp only | with_reducible apply Kept_mk

theorem State.breakTest_kept {dm : Option (Tbl Byte)} {qs : List Instr} (s : State) (h_s : Kept none dm qs s) : Kept none dm qs (State.breakTest
    s) := by
  unfold State.breakTest
  repeat' first
    | with_reducible assumption | with_reducible apply State.clearTest_kept | with_reducible apply State.testAborted_kept
    | with_reducible apply State.runAfter_kept | with_reducible apply State.nextRun_kept | with_reducible apply Kept_ite
    | split | with_reducible intro _ _ _ | with_reducible intro _ _ | with_reducible intro _ | dsimp only
    | with_reducible apply Kept_mk

theorem State.sliceFails_kept {dm : Option (Tbl Byte)} {qs : List Instr} (s : State) (n : Fin 33) (code : Status) (h_s : Kept none dm qs s) :
    Kept none dm qs (State.sliceFails s n code) := by
  unfold State.sliceFails
  repeat' first
    | with_reducible assumption | with_reducible apply State.faultNode_kept | with_reducible apply State.setSlice_kept
    | with_reducible apply State.raise_kept | with_reducible apply State.breakTest_kept | with_reducible apply Kept_ite
    | split | with_reducible intro _ _ _ | with_reducible intro _ _ | with_reducible intro _ | dsimp only
    | with_reducible apply Kept_mk

theorem State.failNode_kept {dm : Option (Tbl Byte)} {qs : List Instr} (s : State) (n : Node) (h_s : Kept none dm qs s) : Kept none dm qs
    (State.failNode s n) := by
  unfold State.failNode
  repeat' first
    | with_reducible assumption | with_reducible apply State.sliceFails_kept | with_reducible apply State.faultNode_kept
    | with_reducible apply Kept_ite | split | with_reducible intro _ _ _ | with_reducible intro _ _ | with_reducible intro _
    | dsimp only | with_reducible apply Kept_mk

theorem State.endTest_kept {dm : Option (Tbl Byte)} {qs : List Instr} (s : State) (passed : Bool) (h_s : Kept none dm qs s) : Kept none dm qs
    (State.endTest s passed) := by
  unfold State.endTest
  repeat' first
    | with_reducible assumption | with_reducible apply State.clearTest_kept | with_reducible apply State.testDone_kept
    | with_reducible apply State.failNode_kept | with_reducible apply State.runAfter_kept
    | with_reducible apply State.nextRun_kept | with_reducible apply Kept_ite | split | with_reducible intro _ _ _
    | with_reducible intro _ _ | with_reducible intro _ | dsimp only | with_reducible apply Kept_mk

theorem State.endBankTest_kept {dm : Option (Tbl Byte)} {qs : List Instr} (s : State) (passed : Bool) (h_s : Kept none dm qs s) : Kept none dm qs
    (State.endBankTest s passed) := by
  unfold State.endBankTest
  repeat' first
    | with_reducible assumption | with_reducible apply State.testDone_kept | with_reducible apply State.endBist_kept
    | with_reducible apply Kept_ite | split | with_reducible intro _ _ _ | with_reducible intro _ _ | with_reducible intro _
    | dsimp only | with_reducible apply Kept_mk

theorem State.abortGlean_kept {dm : Option (Tbl Byte)} {qs : List Instr} (s : State) (h_s : Kept none dm qs s) : Kept none dm qs
    (State.abortGlean s) := by
  unfold State.abortGlean
  repeat' first
    | with_reducible assumption | with_reducible apply State.complete_kept | with_reducible apply State.breakTest_kept
    | with_reducible apply Kept_ite | split | with_reducible intro _ _ _ | with_reducible intro _ _ | with_reducible intro _
    | dsimp only | with_reducible apply Kept_mk

theorem execCoverageLate_kept {dm : Option (Tbl Byte)} {qs : List Instr} (n : Node) (bank : Fin 49) (t : Nat) (s : State) (h_s : Kept none dm qs
    s) : KeptO none dm qs (execCoverageLate n bank t s) := by
  unfold execCoverageLate
  repeat' first
    | with_reducible assumption | with_reducible apply State.advance_kept | with_reducible apply State.raise_kept
    | with_reducible apply Kept_ite | with_reducible apply KeptO_next | with_reducible apply KeptO_ite | split
    | with_reducible intro _ _ _ | with_reducible intro _ _ | with_reducible intro _ | dsimp only
    | with_reducible apply Kept_mk

theorem State.sparePassed_kept {dm : Option (Tbl Byte)} {qs : List Instr} (s : State) (k : Fin 33) (h_s : Kept none dm qs s) : Kept none dm qs
    (State.sparePassed s k) := by
  unfold State.sparePassed
  repeat' first
    | with_reducible assumption | with_reducible apply State.testDone_kept | with_reducible apply Kept_ite | split
    | with_reducible intro _ _ _ | with_reducible intro _ _ | with_reducible intro _ | dsimp only
    | with_reducible apply Kept_mk

theorem State.quickEnd_kept {dm : Option (Tbl Byte)} {qs : List Instr} (s : State) (lane fails : Nat) (h_s : Kept none dm qs s) : Kept none dm qs
    (State.quickEnd s lane fails) := by
  unfold State.quickEnd
  repeat' first
    | with_reducible assumption | with_reducible apply State.testDone_kept | with_reducible apply State.sparePassed_kept
    | with_reducible apply State.sliceFails_kept | with_reducible apply State.setSlice_kept
    | with_reducible apply State.sendYoke_kept | with_reducible apply State.checkOutcome_kept | with_reducible apply Kept_ite
    | with_reducible apply Kept_foldl | split | with_reducible intro _ _ _ | with_reducible intro _ _ | with_reducible intro _
    | dsimp only | with_reducible apply Kept_mk

theorem execQuickCheckEnd_kept {dm : Option (Tbl Byte)} {qs : List Instr} (lane : Fin 32) (fails : BitVec 4) (s : State) (h_s : Kept none dm qs
    s) : KeptO none dm qs (execQuickCheckEnd lane fails s) := by
  unfold execQuickCheckEnd
  repeat' first
    | with_reducible assumption | with_reducible apply State.quickEnd_kept | with_reducible apply Kept_ite
    | with_reducible apply KeptO_next | with_reducible apply KeptO_ite | split | with_reducible intro _ _ _
    | with_reducible intro _ _ | with_reducible intro _ | dsimp only | with_reducible apply Kept_mk

end Sys2Proof.Machine
end

