-- ==== Sys2Proof/Laws/KeptSystem.lean ====
section
/-!
SUPPORT. What health, security, boot and units keep: one lemma a definition, that it leaves the memories in canonical form and the queue as it is, and host memory
(`hm`) or DRAM (`dm`) as well where the lemma leaves them general.
-/

set_option linter.all false

namespace Sys2Proof.Machine

theorem State.scanSensors_kept {dm : Option (Tbl Byte)} {qs : List Instr} (s : State) (sites : List (Nat × Nat × Int × Int)) (h_s : Kept none dm
    qs s) : Kept none dm qs (State.scanSensors s sites) := by
  unfold State.scanSensors
  repeat' first
    | with_reducible assumption | with_reducible apply State.wr_kept | with_reducible apply State.count_kept
    | with_reducible apply State.raise_kept | with_reducible apply State.wrS_kept | with_reducible apply State.raiseIf_kept
    | with_reducible apply Kept_ite | with_reducible apply Kept_foldl | split | with_reducible intro _ _ _
    | with_reducible intro _ _ | with_reducible intro _ | dsimp only | with_reducible apply Kept_mk

theorem State.noteRise_kept {hm : Option (Tbl Byte)} {dm : Option (Tbl Byte)} {qs : List Instr} (s : State) (h_s : Kept hm dm qs s) : Kept hm dm
    qs (State.noteRise s) := by
  unfold State.noteRise
  repeat' first
    | with_reducible assumption | with_reducible apply Kept_ite | split | with_reducible intro _ _ _
    | with_reducible intro _ _ | with_reducible intro _ | dsimp only | with_reducible apply Kept_mk

theorem State.setShare_kept {hm : Option (Tbl Byte)} {dm : Option (Tbl Byte)} {qs : List Instr} (s : State) (h_s : Kept hm dm qs s) : Kept hm dm
    qs (State.setShare s) := by
  unfold State.setShare
  repeat' first
    | with_reducible assumption | with_reducible apply State.wr_kept | with_reducible apply Kept_ite | split
    | with_reducible intro _ _ _ | with_reducible intro _ _ | with_reducible intro _ | dsimp only
    | with_reducible apply Kept_mk

theorem State.squelch_kept {dm : Option (Tbl Byte)} {qs : List Instr} (s : State) (l : LaneId) (h_s : Kept none dm qs s) : Kept none dm qs
    (State.squelch s l) := by
  unfold State.squelch
  repeat' first
    | with_reducible assumption | with_reducible apply State.laneTrained_kept | with_reducible apply State.camDown_kept
    | with_reducible apply State.ethLink_kept | with_reducible apply State.stopCarrying_kept
    | with_reducible apply State.enterTrain_kept | with_reducible apply State.wr_kept | with_reducible apply Kept_ite | split
    | with_reducible intro _ _ _ | with_reducible intro _ _ | with_reducible intro _ | dsimp only
    | with_reducible apply Kept_mk

theorem State.squelchAll_kept {dm : Option (Tbl Byte)} {qs : List Instr} (s : State) (h_s : Kept none dm qs s) : Kept none dm qs
    (State.squelchAll s) := by
  unfold State.squelchAll
  repeat' first
    | with_reducible assumption | with_reducible apply State.squelch_kept | with_reducible apply Kept_ite
    | with_reducible apply Kept_foldl | split | with_reducible intro _ _ _ | with_reducible intro _ _ | with_reducible intro _
    | dsimp only

theorem State.freezeAxis_kept {dm : Option (Tbl Byte)} {qs : List Instr} (s : State) (n : Nat) (h_s : Kept none dm qs s) : Kept none dm qs
    (State.freezeAxis s n) := by
  unfold State.freezeAxis
  repeat' first
    | with_reducible assumption | with_reducible apply State.axisEnd_kept | with_reducible apply State.setAx_kept
    | with_reducible apply State.wr_kept | with_reducible apply Kept_ite | split | with_reducible intro _ _ _
    | with_reducible intro _ _ | with_reducible intro _ | dsimp only | with_reducible apply Kept_mk

theorem State.faultSys_kept {dm : Option (Tbl Byte)} {qs : List Instr} (s : State) (st : Status) (h_s : Kept none dm qs s) : Kept none dm qs
    (State.faultSys s st) := by
  unfold State.faultSys
  repeat' first
    | with_reducible assumption | with_reducible apply State.faultNode_kept | with_reducible apply State.wr_kept
    | with_reducible apply State.setMode_kept | with_reducible apply Kept_ite | split | with_reducible intro _ _ _
    | with_reducible intro _ _ | with_reducible intro _ | dsimp only

theorem State.shutDown_kept {dm : Option (Tbl Byte)} {qs : List Instr} (s : State) (h_s : Kept none dm qs s) : Kept none dm qs (State.shutDown s)
    := by
  unfold State.shutDown
  repeat' first
    | with_reducible assumption | with_reducible apply State.faultSys_kept | with_reducible apply State.squelchAll_kept
    | with_reducible apply State.freezeAxis_kept | with_reducible apply State.wr_kept | with_reducible apply Kept_ite
    | with_reducible apply Kept_foldl | split | with_reducible intro _ _ _ | with_reducible intro _ _ | with_reducible intro _
    | dsimp only | with_reducible apply Kept_mk

theorem State.enterCritical_kept {dm : Option (Tbl Byte)} {qs : List Instr} (s : State) (h_s : Kept none dm qs s) : Kept none dm qs
    (State.enterCritical s) := by
  unfold State.enterCritical
  repeat' first
    | with_reducible assumption | with_reducible apply State.count_kept | with_reducible apply State.raise_kept
    | with_reducible apply State.stopCtx_kept | with_reducible apply State.faultNode_kept
    | with_reducible apply State.sendSeq_kept | with_reducible apply Kept_ite | with_reducible apply Kept_foldl | split
    | with_reducible intro _ _ _ | with_reducible intro _ _ | with_reducible intro _ | dsimp only

theorem State.enterLevel_kept {dm : Option (Tbl Byte)} {qs : List Instr} (s : State) (l : Nat) (byT : Bool) (h_s : Kept none dm qs s) : Kept none
    dm qs (State.enterLevel s l byT) := by
  unfold State.enterLevel
  repeat' first
    | with_reducible assumption | with_reducible apply State.wr_kept | with_reducible apply State.raise_kept
    | with_reducible apply State.count_kept | with_reducible apply State.enterCritical_kept
    | with_reducible apply State.shutDown_kept | with_reducible apply Kept_ite | split | with_reducible intro _ _ _
    | with_reducible intro _ _ | with_reducible intro _ | dsimp only | with_reducible apply Kept_mk

theorem State.riseLevels_kept {dm : Option (Tbl Byte)} {qs : List Instr} (s : State) (now old : List Bool) (h_s : Kept none dm qs s) : Kept none
    dm qs (State.riseLevels s now old) := by
  unfold State.riseLevels
  repeat' first
    | with_reducible assumption | with_reducible apply State.enterLevel_kept | with_reducible apply Kept_ite
    | with_reducible apply Kept_foldl | split | with_reducible intro _ _ _ | with_reducible intro _ _ | with_reducible intro _
    | dsimp only | with_reducible apply Kept_mk

theorem State.fallLevels_kept {hm : Option (Tbl Byte)} {dm : Option (Tbl Byte)} {qs : List Instr} (s : State) (h_s : Kept hm dm qs s) : Kept hm
    dm qs (State.fallLevels s) := by
  unfold State.fallLevels
  repeat' first
    | with_reducible assumption | with_reducible apply State.wr_kept | with_reducible apply Kept_ite | split
    | with_reducible intro _ _ _ | with_reducible intro _ _ | with_reducible intro _ | dsimp only
    | with_reducible apply Kept_mk

theorem State.scan_kept {dm : Option (Tbl Byte)} {qs : List Instr} (s : State) (sites : List (Nat × Nat × Int × Int)) (h_s : Kept none dm qs s) :
    Kept none dm qs (State.scan s sites) := by
  unfold State.scan
  repeat' first
    | with_reducible assumption | with_reducible apply State.scanSensors_kept | with_reducible apply State.noteRise_kept
    | with_reducible apply State.riseLevels_kept | with_reducible apply State.fallLevels_kept
    | with_reducible apply State.setShare_kept | with_reducible apply Kept_ite | split | with_reducible intro _ _ _
    | with_reducible intro _ _ | with_reducible intro _ | dsimp only | with_reducible apply Kept_mk

theorem execSensorScan_kept {dm : Option (Tbl Byte)} {qs : List Instr} (sites : List (Nat × Nat × Int × Int)) (t : Nat) (s : State) (h_s : Kept
    none dm qs s) : KeptO none dm qs (execSensorScan sites t s) := by
  unfold execSensorScan
  repeat' first
    | with_reducible assumption | with_reducible apply State.advance_kept | with_reducible apply State.scan_kept
    | with_reducible apply Kept_ite | with_reducible apply KeptO_next | with_reducible apply KeptO_ite | split
    | with_reducible intro _ _ _ | with_reducible intro _ _ | with_reducible intro _ | dsimp only

theorem execThermalSet_kept {dm : Option (Tbl Byte)} {qs : List Instr} (h : Hdr) (block : Nat) (s : State) (h_s : Kept none dm qs s) : KeptO none
    dm qs (execThermalSet h block s) := by
  unfold execThermalSet
  repeat' first
    | with_reducible assumption | with_reducible apply State.packetR_kept | with_reducible apply State.wr_kept
    | with_reducible apply State.complete_kept | with_reducible apply Kept_ite | with_reducible apply KeptO_next
    | with_reducible apply KeptO_ite | split | with_reducible intro _ _ _ | with_reducible intro _ _ | with_reducible intro _
    | dsimp only

theorem execHostStopRequest_kept {hm : Option (Tbl Byte)} {dm : Option (Tbl Byte)} {qs : List Instr} (on : Bool) (s : State) (h_s : Kept hm dm qs
    s) : KeptO hm dm qs (execHostStopRequest on s) := by
  unfold execHostStopRequest
  repeat' first
    | with_reducible assumption | with_reducible apply State.hostAccess_kept | with_reducible apply State.wrB_kept
    | with_reducible apply Kept_ite | with_reducible apply KeptO_next | with_reducible apply KeptO_ite | split
    | with_reducible intro _ _ _ | with_reducible intro _ _ | with_reducible intro _ | dsimp only

theorem State.orderHead_kept {dm : Option (Tbl Byte)} {qs : List Instr} (s : State) (lane head v : Nat) (off : Bool) (h_s : Kept none dm qs s) :
    Kept none dm qs (State.orderHead s lane head v off) := by
  unfold State.orderHead
  repeat' first
    | with_reducible assumption | with_reducible apply State.txRun_kept | with_reducible apply State.setHead_kept
    | with_reducible apply State.raise_kept | with_reducible apply State.raiseIf_kept | with_reducible apply Kept_ite | split
    | with_reducible intro _ _ _ | with_reducible intro _ _ | with_reducible intro _ | dsimp only
    | with_reducible apply Kept_mk

theorem State.headSensorFails_kept {dm : Option (Tbl Byte)} {qs : List Instr} (s : State) (lane head : Nat) (h_s : Kept none dm qs s) : Kept none
    dm qs (State.headSensorFails s lane head) := by
  unfold State.headSensorFails
  repeat' first
    | with_reducible assumption | with_reducible apply State.setHead_kept | with_reducible apply State.orderHead_kept
    | with_reducible apply State.raise_kept | with_reducible apply Kept_ite | split | with_reducible intro _ _ _
    | with_reducible intro _ _ | with_reducible intro _ | dsimp only | with_reducible apply Kept_mk

theorem State.headTemp_kept {dm : Option (Tbl Byte)} {qs : List Instr} (s : State) (lane head : Nat) (x : Int) (limit : Bool) (t : Nat) (h_s :
    Kept none dm qs s) : Kept none dm qs (State.headTemp s lane head x limit t) := by
  unfold State.headTemp
  repeat' first
    | with_reducible assumption | with_reducible apply State.setHead_kept | with_reducible apply State.orderHead_kept
    | with_reducible apply State.count_kept | with_reducible apply State.raise_kept | with_reducible apply Kept_ite | split
    | with_reducible intro _ _ _ | with_reducible intro _ _ | with_reducible intro _ | dsimp only
    | with_reducible apply Kept_mk

theorem State.recvTemp_kept {dm : Option (Tbl Byte)} {qs : List Instr} (s : State) (l body t : Nat) (h_s : Kept none dm qs s) : Kept none dm qs
    (State.recvTemp s l body t) := by
  unfold State.recvTemp
  repeat' first
    | with_reducible assumption | with_reducible apply State.advance_kept | with_reducible apply State.setHead_kept
    | with_reducible apply State.headSensorFails_kept | with_reducible apply State.headTemp_kept
    | with_reducible apply Kept_ite | split | with_reducible intro _ _ _ | with_reducible intro _ _ | with_reducible intro _
    | dsimp only | with_reducible apply Kept_mk

theorem execHeadSensor_kept {dm : Option (Tbl Byte)} {qs : List Instr} (lane : Fin 32) (head : Fin 64) (t : Nat) (s : State) (h_s : Kept none dm
    qs s) : KeptO none dm qs (execHeadSensor lane head t s) := by
  unfold execHeadSensor
  repeat' first
    | with_reducible assumption | with_reducible apply State.advance_kept | with_reducible apply State.headSensorFails_kept
    | with_reducible apply Kept_ite | with_reducible apply KeptO_next | with_reducible apply KeptO_ite | split
    | with_reducible intro _ _ _ | with_reducible intro _ _ | with_reducible intro _ | dsimp only

theorem execHeadEnableTimer_kept {dm : Option (Tbl Byte)} {qs : List Instr} (lane : Fin 32) (head : Fin 64) (t : Nat) (s : State) (h_s : Kept
    none dm qs s) : KeptO none dm qs (execHeadEnableTimer lane head t s) := by
  unfold execHeadEnableTimer
  repeat' first
    | with_reducible assumption | with_reducible apply State.advance_kept | with_reducible apply State.setHead_kept
    | with_reducible apply State.orderHead_kept | with_reducible apply Kept_ite | with_reducible apply KeptO_next
    | with_reducible apply KeptO_ite | split | with_reducible intro _ _ _ | with_reducible intro _ _ | with_reducible intro _
    | dsimp only | with_reducible apply Kept_mk

theorem State.flushOne_kept {dm : Option (Tbl Byte)} {qs : List Instr} (s : State) (g a : Nat) (h_s : Kept none dm qs s) : Kept none dm qs
    (State.flushOne s g a) := by
  unfold State.flushOne
  repeat' first
    | with_reducible assumption | with_reducible apply State.noteRead_kept | with_reducible apply State.usePoison_kept
    | with_reducible apply State.cleanWords_kept | with_reducible apply State.raiseIf_kept | with_reducible apply Kept_ite
    | split | with_reducible intro _ _ _ | with_reducible intro _ _ | with_reducible intro _ | dsimp only
    | with_reducible apply Kept_mk

theorem State.flushTally_kept {dm : Option (Tbl Byte)} {qs : List Instr} (s : State) (lane : Nat) (h_s : Kept none dm qs s) : Kept none dm qs
    (State.flushTally s lane) := by
  unfold State.flushTally
  repeat' first
    | with_reducible assumption | with_reducible apply State.setHead_kept | with_reducible apply State.flushOne_kept
    | with_reducible apply Kept_ite | with_reducible apply Kept_foldl | split | with_reducible intro _ _ _
    | with_reducible intro _ _ | with_reducible intro _ | dsimp only | with_reducible apply Kept_mk

theorem execTallyFlush_kept {dm : Option (Tbl Byte)} {qs : List Instr} (lane : Fin 32) (s : State) (h_s : Kept none dm qs s) : KeptO none dm qs
    (execTallyFlush lane s) := by
  unfold execTallyFlush
  repeat' first
    | with_reducible assumption | with_reducible apply State.setHead_kept | with_reducible apply State.flushTally_kept
    | with_reducible apply Kept_ite | with_reducible apply KeptO_next | with_reducible apply KeptO_ite | split
    | with_reducible intro _ _ _ | with_reducible intro _ _ | with_reducible intro _ | dsimp only
    | with_reducible apply Kept_mk

theorem execTallyRead_kept {qs : List Instr} (h : Hdr) (dst first n : Nat) (s : State) (h_s : Kept none none qs s) : KeptO none none qs
    (execTallyRead h dst first n s) := by
  unfold execTallyRead
  repeat' first
    | with_reducible assumption | with_reducible apply State.packet_kept | with_reducible apply State.noteRead_kept
    | with_reducible apply State.writePoisoned_kept | with_reducible apply State.usePoison_kept
    | with_reducible apply State.complete_kept | with_reducible apply State.writeAt_kept | with_reducible apply Kept_ite
    | with_reducible apply KeptO_next | with_reducible apply KeptO_ite | split | with_reducible intro _ _ _
    | with_reducible intro _ _ | with_reducible intro _ | dsimp only

theorem State.clearTallies_kept {hm : Option (Tbl Byte)} {dm : Option (Tbl Byte)} {qs : List Instr} (s : State) (first n : Nat) (ovf : Bool) (h_s
    : Kept hm dm qs s) : Kept hm dm qs (State.clearTallies s first n ovf) := by
  unfold State.clearTallies
  repeat' first
    | with_reducible assumption | with_reducible apply State.setHead_kept | with_reducible apply Kept_ite
    | with_reducible apply Kept_foldl | split | with_reducible intro _ _ _ | with_reducible intro _ _ | with_reducible intro _
    | dsimp only | with_reducible apply Kept_mk

theorem State.writeTallyClr_kept {hm : Option (Tbl Byte)} {dm : Option (Tbl Byte)} {qs : List Instr} (s : State) (v : Nat) (h_s : Kept hm dm qs
    s) : Kept hm dm qs (State.writeTallyClr s v) := by
  unfold State.writeTallyClr
  repeat' first
    | with_reducible assumption | with_reducible apply State.wr_kept | with_reducible apply State.clearTallies_kept
    | with_reducible apply Kept_ite | split | with_reducible intro _ _ _ | with_reducible intro _ _ | with_reducible intro _
    | dsimp only

theorem execHlthTallyClr_kept {hm : Option (Tbl Byte)} {dm : Option (Tbl Byte)} {qs : List Instr} (lo hi : Word) (s : State) (h_s : Kept hm dm qs
    s) : KeptO hm dm qs (execHlthTallyClr lo hi s) := by
  unfold execHlthTallyClr
  repeat' first
    | with_reducible assumption | with_reducible apply State.hostAccess_kept | with_reducible apply State.writeTallyClr_kept
    | with_reducible apply Kept_ite | with_reducible apply KeptO_next | with_reducible apply KeptO_ite | split
    | with_reducible intro _ _ _ | with_reducible intro _ _ | with_reducible intro _ | dsimp only
    | with_reducible apply Kept_mk

theorem State.updateLife_kept {dm : Option (Tbl Byte)} {qs : List Instr} (s : State) (lane head : Nat) (h_s : Kept none dm qs s) : Kept none dm
    qs (State.updateLife s lane head) := by
  unfold State.updateLife
  repeat' first
    | with_reducible assumption | with_reducible apply State.raiseIf_kept | with_reducible apply Kept_ite
    | with_reducible apply Kept_foldl | split | with_reducible intro _ _ _ | with_reducible intro _ _ | with_reducible intro _
    | dsimp only | with_reducible apply Kept_mk

theorem execHeadLifeUpdate_kept {dm : Option (Tbl Byte)} {qs : List Instr} (lane : Fin 32) (head : Fin 64) (s : State) (h_s : Kept none dm qs s)
    : KeptO none dm qs (execHeadLifeUpdate lane head s) := by
  unfold execHeadLifeUpdate
  repeat' first
    | with_reducible assumption | with_reducible apply State.updateLife_kept | with_reducible apply Kept_ite
    | with_reducible apply KeptO_next | with_reducible apply KeptO_ite | split | with_reducible intro _ _ _
    | with_reducible intro _ _ | with_reducible intro _ | dsimp only

theorem State.ageEol_kept {hm : Option (Tbl Byte)} {dm : Option (Tbl Byte)} {qs : List Instr} (s : State) (hours d : Nat) (h_s : Kept hm dm qs s)
    : Kept hm dm qs (State.ageEol s hours d) := by
  unfold State.ageEol
  repeat' first
    | with_reducible assumption | with_reducible apply State.wr_kept | with_reducible apply State.draw_kept
    | with_reducible apply Kept_ite | split | with_reducible intro _ _ _ | with_reducible intro _ _ | with_reducible intro _
    | dsimp only

theorem execAgeMonitor_kept {dm : Option (Tbl Byte)} {qs : List Instr} (drifts : List Nat) (s : State) (h_s : Kept none dm qs s) : KeptO none dm
    qs (execAgeMonitor drifts s) := by
  unfold execAgeMonitor
  repeat' first
    | with_reducible assumption | with_reducible apply State.advance_kept | with_reducible apply State.wr_kept
    | with_reducible apply State.ageEol_kept | with_reducible apply State.raiseIf_kept | with_reducible apply Kept_ite
    | with_reducible apply KeptO_next | with_reducible apply KeptO_ite | with_reducible apply Kept_foldl | split
    | with_reducible intro _ _ _ | with_reducible intro _ _ | with_reducible intro _ | dsimp only
    | with_reducible apply Kept_mk

theorem execHealthRead_kept {qs : List Instr} (h : Hdr) (dst : Nat) (s : State) (h_s : Kept none none qs s) : KeptO none none qs (execHealthRead
    h dst s) := by
  unfold execHealthRead
  repeat' first
    | with_reducible assumption | with_reducible apply State.packet_kept | with_reducible apply State.draw_kept
    | with_reducible apply State.writeAt_kept | with_reducible apply State.complete_kept | with_reducible apply Kept_ite
    | with_reducible apply KeptO_next | with_reducible apply KeptO_ite | split | with_reducible intro _ _ _
    | with_reducible intro _ _ | with_reducible intro _ | dsimp only

theorem State.cacheKey_kept {hm : Option (Tbl Byte)} {dm : Option (Tbl Byte)} {qs : List Instr} (s : State) (k : Nat) (key : List Byte) (h_s :
    Kept hm dm qs s) : Kept hm dm qs (State.cacheKey s k key) := by
  unfold State.cacheKey
  repeat' first
    | with_reducible assumption | with_reducible apply State.wr_kept | with_reducible apply Kept_ite | split
    | with_reducible intro _ _ _ | with_reducible intro _ _ | with_reducible intro _ | dsimp only
    | with_reducible apply Kept_mk

theorem State.dropKey_kept {hm : Option (Tbl Byte)} {dm : Option (Tbl Byte)} {qs : List Instr} (s : State) (k : Nat) (h_s : Kept hm dm qs s) :
    Kept hm dm qs (State.dropKey s k) := by
  unfold State.dropKey
  repeat' first
    | with_reducible assumption | with_reducible apply State.wr_kept | with_reducible apply Kept_ite | split
    | with_reducible intro _ _ _ | with_reducible intro _ _ | with_reducible intro _ | dsimp only
    | with_reducible apply Kept_mk

theorem State.writeProg_kept {dm : Option (Tbl Byte)} {qs : List Instr} (s : State) (v : Nat) (h_s : Kept none dm qs s) : Kept none dm qs
    (State.writeProg s v) := by
  unfold State.writeProg
  repeat' first
    | with_reducible assumption | with_reducible apply State.access_kept | with_reducible apply State.wr_kept
    | with_reducible apply State.audit_kept | with_reducible apply Kept_ite | split | with_reducible intro _ _ _
    | with_reducible intro _ _ | with_reducible intro _ | dsimp only | with_reducible apply Kept_mk

theorem execSecProg_kept {dm : Option (Tbl Byte)} {qs : List Instr} (v : Word) (s : State) (h_s : Kept none dm qs s) : KeptO none dm qs
    (execSecProg v s) := by
  unfold execSecProg
  repeat' first
    | with_reducible assumption | with_reducible apply State.hostAccess_kept | with_reducible apply State.writeProg_kept
    | with_reducible apply Kept_ite | with_reducible apply KeptO_next | with_reducible apply KeptO_ite | split
    | with_reducible intro _ _ _ | with_reducible intro _ _ | with_reducible intro _ | dsimp only

theorem execSecSramParity_kept {hm : Option (Tbl Byte)} {dm : Option (Tbl Byte)} {qs : List Instr} (slot : Fin 4) (s : State) (h_s : Kept hm dm
    qs s) : KeptO hm dm qs (execSecSramParity slot s) := by
  unfold execSecSramParity
  repeat' first
    | with_reducible assumption | with_reducible apply State.dropKey_kept | with_reducible apply State.cacheKey_kept
    | with_reducible apply Kept_ite | with_reducible apply KeptO_next | with_reducible apply KeptO_ite | split
    | with_reducible intro _ _ _ | with_reducible intro _ _ | with_reducible intro _ | dsimp only
    | with_reducible apply Kept_mk

theorem State.keepKey_kept {hm : Option (Tbl Byte)} {dm : Option (Tbl Byte)} {qs : List Instr} (s : State) (st : Status) (k : Nat) (forSeal :
    Bool) (key : List Byte) (h_s : Kept hm dm qs s) : Kept hm dm qs (State.keepKey s st k forSeal key) := by
  unfold State.keepKey
  repeat' first
    | with_reducible assumption | with_reducible apply State.cacheKey_kept | with_reducible apply Kept_ite | split
    | with_reducible intro _ _ _ | with_reducible intro _ _ | with_reducible intro _ | dsimp only

theorem State.secPacket_kept {dm : Option (Tbl Byte)} {qs : List Instr} (s : State) (o : OpInfo) (h : Hdr) (reads : List (Nat × Nat)) (chk :
    State → List (Bool × Status)) (refuse : Status → State → State) (eff : Pk → State → State) (h_s : Kept none dm qs s) (h_refuse : ∀ (x0 :
    Status) (x1 : State), Kept none dm qs x1 → Kept none dm qs (refuse x0 x1)) (h_eff : ∀ (x0 : Pk) (x1 : State), Kept none dm qs x1 → Kept none
    dm qs (eff x0 x1)) : Kept none dm qs (State.secPacket s o h reads chk refuse eff) := by
  unfold State.secPacket
  repeat' first
    | with_reducible assumption | with_reducible apply h_refuse | with_reducible apply h_eff
    | with_reducible apply State.startPk_kept | with_reducible apply State.failPk_kept | with_reducible apply State.touch_kept
    | with_reducible apply Kept_ite | with_reducible apply Kept_foldl | split | with_reducible intro _ _ _
    | with_reducible intro _ _ | with_reducible intro _ | dsimp only | with_reducible apply Kept_mk

theorem State.norWrite_kept {hm : Option (Tbl Byte)} {dm : Option (Tbl Byte)} {qs : List Instr} (s : State) (a : Nat) (bs : List Byte) (h_s :
    Kept hm dm qs s) : Kept hm dm qs (State.norWrite s a bs) := by
  unfold State.norWrite
  repeat' first
    | with_reducible assumption | with_reducible apply Kept_ite | split | with_reducible intro _ _ _
    | with_reducible intro _ _ | with_reducible intro _ | dsimp only | with_reducible apply Kept_mk

theorem execFwUpdate_kept {dm : Option (Tbl Byte)} {qs : List Instr} (h : Hdr) (image len : Nat) (s : State) (h_s : Kept none dm qs s) : KeptO
    none dm qs (execFwUpdate h image len s) := by
  unfold execFwUpdate
  repeat' first
    | with_reducible assumption | with_reducible apply State.secPacket_kept | with_reducible apply State.keepKey_kept
    | with_reducible apply State.count_kept | with_reducible apply State.audit_kept | with_reducible apply State.cacheKey_kept
    | with_reducible apply State.norWrite_kept | with_reducible apply State.wr_kept | with_reducible apply State.raise_kept
    | with_reducible apply State.complete_kept | with_reducible apply Kept_ite | with_reducible apply KeptO_next
    | with_reducible apply KeptO_ite | split | with_reducible intro _ _ _ | with_reducible intro _ _ | with_reducible intro _
    | dsimp only | with_reducible apply Kept_mk

theorem State.fillPages_kept {qs : List Instr} (s : State) (pages : List Nat) (data : List Byte) (h_s : Kept none none qs s) : Kept none none qs
    (State.fillPages s pages data) := by
  unfold State.fillPages
  repeat' first
    | with_reducible assumption | with_reducible apply State.dramWrite_kept | with_reducible apply Kept_ite
    | with_reducible apply Kept_foldl | split | with_reducible intro _ _ _ | with_reducible intro _ _ | with_reducible intro _
    | dsimp only

theorem State.acceptSeal_kept {qs : List Instr} (s : State) (ctx : Nat) (k : SealBlk) (content tables : List Byte) (h_s : Kept none none qs s) :
    Kept none none qs (State.acceptSeal s ctx k content tables) := by
  unfold State.acceptSeal
  repeat' first
    | with_reducible assumption | with_reducible apply State.fillPages_kept | with_reducible apply State.setCtx_kept
    | with_reducible apply State.count_kept | with_reducible apply State.raise_kept | with_reducible apply State.audit_kept
    | with_reducible apply Kept_ite | split | with_reducible intro _ _ _ | with_reducible intro _ _ | with_reducible intro _
    | dsimp only | with_reducible apply Kept_mk

theorem execSealLoad_kept {qs : List Instr} (h : Hdr) (content len block : Nat) (sigR sigS : List Byte) (s : State) (h_s : Kept none none qs s) :
    KeptO none none qs (execSealLoad h content len block sigR sigS s) := by
  unfold execSealLoad
  repeat' first
    | with_reducible assumption | with_reducible apply State.secPacket_kept | with_reducible apply State.keepKey_kept
    | with_reducible apply State.count_kept | with_reducible apply State.raise_kept | with_reducible apply State.audit_kept
    | with_reducible apply State.cacheKey_kept | with_reducible apply State.acceptSeal_kept
    | with_reducible apply State.complete_kept | with_reducible apply Kept_ite | with_reducible apply KeptO_next
    | with_reducible apply KeptO_ite | split | with_reducible intro _ _ _ | with_reducible intro _ _ | with_reducible intro _
    | dsimp only

theorem State.withdrawSeal_kept {dm : Option (Tbl Byte)} {qs : List Instr} (s : State) (ctx : Nat) (x : SealedSt) (h_s : Kept none dm qs s) :
    Kept none dm qs (State.withdrawSeal s ctx x) := by
  unfold State.withdrawSeal
  repeat' first
    | with_reducible assumption | with_reducible apply State.setCtx_kept | with_reducible apply State.raise_kept
    | with_reducible apply State.audit_kept | with_reducible apply Kept_ite | split | with_reducible intro _ _ _
    | with_reducible intro _ _ | with_reducible intro _ | dsimp only | with_reducible apply Kept_mk

theorem State.withdrawSlot_kept {dm : Option (Tbl Byte)} {qs : List Instr} (s : State) (k : Nat) (h_s : Kept none dm qs s) : Kept none dm qs
    (State.withdrawSlot s k) := by
  unfold State.withdrawSlot
  repeat' first
    | with_reducible assumption | with_reducible apply State.withdrawSeal_kept | with_reducible apply Kept_ite
    | with_reducible apply Kept_foldl | split | with_reducible intro _ _ _ | with_reducible intro _ _ | with_reducible intro _
    | dsimp only | with_reducible apply Kept_mk

theorem execKeyRevoke_kept {dm : Option (Tbl Byte)} {qs : List Instr} (h : Hdr) (slot : Nat) (sigR sigS msg : List Byte) (s : State) (h_s : Kept
    none dm qs s) : KeptO none dm qs (execKeyRevoke h slot sigR sigS msg s) := by
  unfold execKeyRevoke
  repeat' first
    | with_reducible assumption | with_reducible apply State.secPacket_kept | with_reducible apply State.audit_kept
    | with_reducible apply State.wr_kept | with_reducible apply State.dropKey_kept | with_reducible apply State.raise_kept
    | with_reducible apply State.withdrawSlot_kept | with_reducible apply State.complete_kept | with_reducible apply Kept_ite
    | with_reducible apply KeptO_next | with_reducible apply KeptO_ite | split | with_reducible intro _ _ _
    | with_reducible intro _ _ | with_reducible intro _ | dsimp only | with_reducible apply Kept_mk

theorem execAuditRead_kept {qs : List Instr} (h : Hdr) (dst first most : Nat) (s : State) (h_s : Kept none none qs s) : KeptO none none qs
    (execAuditRead h dst first most s) := by
  unfold execAuditRead
  repeat' first
    | with_reducible assumption | with_reducible apply State.audit_kept | with_reducible apply State.packet_kept
    | with_reducible apply State.secError_kept | with_reducible apply State.complete_kept
    | with_reducible apply State.writeAt_kept | with_reducible apply Kept_ite | with_reducible apply KeptO_next
    | with_reducible apply KeptO_ite | split | with_reducible intro _ _ _ | with_reducible intro _ _ | with_reducible intro _
    | dsimp only

theorem State.moduleTests_kept {dm : Option (Tbl Byte)} {qs : List Instr} (s : State) (fails : Nat) (h_s : Kept none dm qs s) : Kept none dm qs
    (State.moduleTests s fails) := by
  unfold State.moduleTests
  repeat' first
    | with_reducible assumption | with_reducible apply State.audit_kept | with_reducible apply State.wr_kept
    | with_reducible apply State.secError_kept | with_reducible apply Kept_ite | split | with_reducible intro _ _ _
    | with_reducible intro _ _ | with_reducible intro _ | dsimp only

theorem execSecSelfTest_kept {dm : Option (Tbl Byte)} {qs : List Instr} (h : Hdr) (fails : BitVec 4) (s : State) (h_s : Kept none dm qs s) :
    KeptO none dm qs (execSecSelfTest h fails s) := by
  unfold execSecSelfTest
  repeat' first
    | with_reducible assumption | with_reducible apply State.secPacket_kept | with_reducible apply State.moduleTests_kept
    | with_reducible apply State.complete_kept | with_reducible apply Kept_ite | with_reducible apply KeptO_next
    | with_reducible apply KeptO_ite | split | with_reducible intro _ _ _ | with_reducible intro _ _ | with_reducible intro _
    | dsimp only

theorem State.readAuditIndex_kept {hm : Option (Tbl Byte)} {dm : Option (Tbl Byte)} {qs : List Instr} (s : State) (h_s : Kept hm dm qs s) : Kept
    hm dm qs (State.readAuditIndex s) := by
  unfold State.readAuditIndex
  repeat' first
    | with_reducible assumption | with_reducible apply Kept_ite | split | with_reducible intro _ _ _
    | with_reducible intro _ _ | with_reducible intro _ | dsimp only | with_reducible apply Kept_mk

theorem State.resetSec_kept {dm : Option (Tbl Byte)} {qs : List Instr} (s : State) (fails : Nat) (h_s : Kept none dm qs s) : Kept none dm qs
    (State.resetSec s fails) := by
  unfold State.resetSec
  repeat' first
    | with_reducible assumption | with_reducible apply State.dropKey_kept | with_reducible apply State.wr_kept
    | with_reducible apply State.moduleTests_kept | with_reducible apply Kept_ite | with_reducible apply Kept_foldl | split
    | with_reducible intro _ _ _ | with_reducible intro _ _ | with_reducible intro _ | dsimp only

theorem State.headLost_kept {dm : Option (Tbl Byte)} {qs : List Instr} (s : State) (n : Fin 32) (h_s : Kept none dm qs s) : Kept none dm qs
    (State.headLost s n) := by
  unfold State.headLost
  repeat' first
    | with_reducible assumption | with_reducible apply State.interrupt_kept | with_reducible apply Kept_ite | split
    | with_reducible intro _ _ _ | with_reducible intro _ _ | with_reducible intro _ | dsimp only

theorem State.lockGone_kept {dm : Option (Tbl Byte)} {qs : List Instr} (s : State) (l : LaneId) (h_s : Kept none dm qs s) : Kept none dm qs
    (State.lockGone s l) := by
  unfold State.lockGone
  repeat' first
    | with_reducible assumption | with_reducible apply State.headLost_kept | with_reducible apply State.camDown_kept
    | with_reducible apply State.ethLink_kept | with_reducible apply Kept_ite | split | with_reducible intro _ _ _
    | with_reducible intro _ _ | with_reducible intro _ | dsimp only | with_reducible apply Kept_mk

theorem execBlockLock_kept {hm : Option (Tbl Byte)} {dm : Option (Tbl Byte)} {qs : List Instr} (l : LaneId) (s : State) (h_s : Kept hm dm qs s) :
    KeptO hm dm qs (execBlockLock l s) := by
  unfold execBlockLock
  repeat' first
    | with_reducible assumption | with_reducible apply State.setLane_kept | with_reducible apply State.wr_kept
    | with_reducible apply State.lockInTraining_kept | with_reducible apply Kept_ite | with_reducible apply KeptO_next
    | with_reducible apply KeptO_ite | split | with_reducible intro _ _ _ | with_reducible intro _ _ | with_reducible intro _
    | dsimp only | with_reducible apply Kept_mk

theorem State.loseLock_kept {dm : Option (Tbl Byte)} {qs : List Instr} (s : State) (l : LaneId) (h_s : Kept none dm qs s) : Kept none dm qs
    (State.loseLock s l) := by
  unfold State.loseLock
  repeat' first
    | with_reducible assumption | with_reducible apply State.count_kept | with_reducible apply State.setLane_kept
    | with_reducible apply State.wr_kept | with_reducible apply State.raise_kept | with_reducible apply State.lockGone_kept
    | with_reducible apply Kept_ite | split | with_reducible intro _ _ _ | with_reducible intro _ _ | with_reducible intro _
    | dsimp only | with_reducible apply Kept_mk

theorem execLockLoss_kept {dm : Option (Tbl Byte)} {qs : List Instr} (l : LaneId) (clock : Bool) (t : Nat) (s : State) (h_s : Kept none dm qs s)
    : KeptO none dm qs (execLockLoss l clock t s) := by
  unfold execLockLoss
  repeat' first
    | with_reducible assumption | with_reducible apply State.advance_kept | with_reducible apply State.count_kept
    | with_reducible apply State.wr_kept | with_reducible apply State.raise_kept | with_reducible apply State.loseLock_kept
    | with_reducible apply Kept_ite | with_reducible apply KeptO_next | with_reducible apply KeptO_ite | split
    | with_reducible intro _ _ _ | with_reducible intro _ _ | with_reducible intro _ | dsimp only

theorem execLos_kept {dm : Option (Tbl Byte)} {qs : List Instr} (l : LaneId) (on : Bool) (t : Nat) (s : State) (h_s : Kept none dm qs s) : KeptO
    none dm qs (execLos l on t s) := by
  unfold execLos
  repeat' first
    | with_reducible assumption | with_reducible apply State.advance_kept | with_reducible apply State.count_kept
    | with_reducible apply State.wr_kept | with_reducible apply State.raise_kept | with_reducible apply Kept_ite
    | with_reducible apply KeptO_next | with_reducible apply KeptO_ite | split | with_reducible intro _ _ _
    | with_reducible intro _ _ | with_reducible intro _ | dsimp only

theorem State.badHeader_kept {dm : Option (Tbl Byte)} {qs : List Instr} (s : State) (l : LaneId) (good : Nat) (h_s : Kept none dm qs s) : Kept
    none dm qs (State.badHeader s l good) := by
  unfold State.badHeader
  repeat' first
    | with_reducible assumption | with_reducible apply State.count_kept | with_reducible apply State.setLane_kept
    | with_reducible apply State.wr_kept | with_reducible apply State.raise_kept | with_reducible apply State.loseLock_kept
    | with_reducible apply Kept_ite | split | with_reducible intro _ _ _ | with_reducible intro _ _ | with_reducible intro _
    | dsimp only | with_reducible apply Kept_mk

theorem State.berEnd_kept {hm : Option (Tbl Byte)} {dm : Option (Tbl Byte)} {qs : List Instr} (s : State) (l : LaneId) (h_s : Kept hm dm qs s) :
    Kept hm dm qs (State.berEnd s l) := by
  unfold State.berEnd
  repeat' first
    | with_reducible assumption | with_reducible apply State.setLane_kept | with_reducible apply State.wr_kept
    | with_reducible apply Kept_ite | split | with_reducible intro _ _ _ | with_reducible intro _ _ | with_reducible intro _
    | dsimp only | with_reducible apply Kept_mk

theorem execBerWindow_kept {dm : Option (Tbl Byte)} {qs : List Instr} (l : LaneId) (last : Option Nat) (t : Nat) (s : State) (h_s : Kept none dm
    qs s) : KeptO none dm qs (execBerWindow l last t s) := by
  unfold execBerWindow
  repeat' first
    | with_reducible assumption | with_reducible apply State.advance_kept | with_reducible apply State.badHeader_kept
    | with_reducible apply State.berEnd_kept | with_reducible apply Kept_ite | with_reducible apply KeptO_next
    | with_reducible apply KeptO_ite | split | with_reducible intro _ _ _ | with_reducible intro _ _ | with_reducible intro _
    | dsimp only | with_reducible apply Kept_mk

theorem execInvalidBlock_kept {dm : Option (Tbl Byte)} {qs : List Instr} (l : LaneId) (good : Option Nat) (s : State) (h_s : Kept none dm qs s) :
    KeptO none dm qs (execInvalidBlock l good s) := by
  unfold execInvalidBlock
  repeat' first
    | with_reducible assumption | with_reducible apply State.badHeader_kept | with_reducible apply State.count_kept
    | with_reducible apply Kept_ite | with_reducible apply KeptO_next | with_reducible apply KeptO_ite | split
    | with_reducible intro _ _ _ | with_reducible intro _ _ | with_reducible intro _ | dsimp only
    | with_reducible apply Kept_mk

theorem execLaneCtrlStart_kept {dm : Option (Tbl Byte)} {qs : List Instr} (l : LaneId) (s : State) (h_s : Kept none dm qs s) : KeptO none dm qs
    (execLaneCtrlStart l s) := by
  unfold execLaneCtrlStart
  repeat' first
    | with_reducible assumption | with_reducible apply State.hostAccess_kept | with_reducible apply State.writeStart_kept
    | with_reducible apply Kept_ite | with_reducible apply KeptO_next | with_reducible apply KeptO_ite | split
    | with_reducible intro _ _ _ | with_reducible intro _ _ | with_reducible intro _ | dsimp only

theorem State.writeRate_kept {dm : Option (Tbl Byte)} {qs : List Instr} (s : State) (l : LaneId) (rate : Bool) (h_s : Kept none dm qs s) : Kept
    none dm qs (State.writeRate s l rate) := by
  unfold State.writeRate
  repeat' first
    | with_reducible assumption | with_reducible apply State.wrB_kept | with_reducible apply State.abortTrain_kept
    | with_reducible apply State.access_kept | with_reducible apply Kept_ite | split | with_reducible intro _ _ _
    | with_reducible intro _ _ | with_reducible intro _ | dsimp only | with_reducible apply Kept_mk

theorem execLaneRateWrite_kept {dm : Option (Tbl Byte)} {qs : List Instr} (l : LaneId) (rate : Bool) (s : State) (h_s : Kept none dm qs s) :
    KeptO none dm qs (execLaneRateWrite l rate s) := by
  unfold execLaneRateWrite
  repeat' first
    | with_reducible assumption | with_reducible apply State.hostAccess_kept | with_reducible apply State.writeRate_kept
    | with_reducible apply Kept_ite | with_reducible apply KeptO_next | with_reducible apply KeptO_ite | split
    | with_reducible intro _ _ _ | with_reducible intro _ _ | with_reducible intro _ | dsimp only

theorem State.clearMsix_kept {hm : Option (Tbl Byte)} {dm : Option (Tbl Byte)} {qs : List Instr} (s : State) (h_s : Kept hm dm qs s) : Kept hm dm
    qs (State.clearMsix s) := by
  unfold State.clearMsix
  repeat' first
    | with_reducible assumption | with_reducible apply Kept_ite | split | with_reducible intro _ _ _
    | with_reducible intro _ _ | with_reducible intro _ | dsimp only | with_reducible apply Kept_mk

theorem State.fullReset_kept {hm : Option (Tbl Byte)} {qs : List Instr} (s : State) (cause : Nat) (h_s : Kept hm none qs s) : Kept hm none qs (State.fullReset s cause) := by
  unfold State.fullReset
  dsimp only
  apply State.wr_kept; apply State.wr_kept; apply State.wr_kept; apply State.wr_kept
  refine Kept_foldl ?_ (fun s x h => ?_)
  · exact Kept_parts h_s (by have q := Kept_host h_s; exact q) rfl rfl rfl rfl rfl
  · apply State.wrB_kept; apply State.wrB_kept; apply State.wrB_kept; apply State.wrB_kept
    exact h

theorem State.takeBoard_kept {hm : Option (Tbl Byte)} {dm : Option (Tbl Byte)} {qs : List Instr} (s : State) (b : List Byte) (h_s : Kept hm dm qs
    s) : Kept hm dm qs (State.takeBoard s b) := by
  unfold State.takeBoard
  repeat' first
    | with_reducible assumption | with_reducible apply State.wr_kept | with_reducible apply State.wrB_kept
    | with_reducible apply Kept_ite | with_reducible apply Kept_foldl | split | with_reducible intro _ _ _
    | with_reducible intro _ _ | with_reducible intro _ | dsimp only

theorem State.setFails_kept {hm : Option (Tbl Byte)} {dm : Option (Tbl Byte)} {qs : List Instr} (s : State) (b : Bool) (n : Nat) (h_s : Kept hm
    dm qs s) : Kept hm dm qs (State.setFails s b n) := by
  unfold State.setFails
  repeat' first
    | with_reducible assumption | with_reducible apply Kept_ite | split | with_reducible intro _ _ _
    | with_reducible intro _ _ | with_reducible intro _ | dsimp only | with_reducible apply Kept_mk

theorem State.noImage_kept {dm : Option (Tbl Byte)} {qs : List Instr} (s : State) (h_s : Kept none dm qs s) : Kept none dm qs (State.noImage s)
    := by
  unfold State.noImage
  repeat' first
    | with_reducible assumption | with_reducible apply State.boot_kept | with_reducible apply State.faultNode_kept
    | with_reducible apply Kept_ite | split | with_reducible intro _ _ _ | with_reducible intro _ _ | with_reducible intro _
    | dsimp only | with_reducible apply Kept_mk

theorem State.loadImage_kept {dm : Option (Tbl Byte)} {qs : List Instr} (s : State) (b : Bool) (h_s : Kept none dm qs s) : Kept none dm qs
    (State.loadImage s b) := by
  unfold State.loadImage
  repeat' first
    | with_reducible assumption | with_reducible apply State.cacheKey_kept | with_reducible apply State.wrB_kept
    | with_reducible apply State.wr_kept | with_reducible apply State.audit_kept | with_reducible apply State.boot_kept
    | with_reducible apply State.takeBoard_kept | with_reducible apply Kept_ite | split | with_reducible intro _ _ _
    | with_reducible intro _ _ | with_reducible intro _ | dsimp only | with_reducible apply Kept_mk

theorem State.bootRom_kept {dm : Option (Tbl Byte)} {qs : List Instr} (s : State) (b : BootIn) (h_s : Kept none dm qs s) : Kept none dm qs
    (State.bootRom s b) := by
  unfold State.bootRom
  repeat' first
    | with_reducible assumption | with_reducible apply State.norWrite_kept | with_reducible apply State.boot_kept
    | with_reducible apply State.moduleTests_kept | with_reducible apply State.count_kept
    | with_reducible apply State.noImage_kept | with_reducible apply State.loadImage_kept | with_reducible apply Kept_ite
    | with_reducible apply Kept_foldl | split | with_reducible intro _ _ _ | with_reducible intro _ _ | with_reducible intro _
    | dsimp only | with_reducible apply Kept_mk

theorem State.release_kept {dm : Option (Tbl Byte)} {qs : List Instr} (s : State) (b : BootIn) (h_s : Kept none dm qs s) : Kept none dm qs
    (State.release s b) := by
  unfold State.release
  repeat' first
    | with_reducible assumption | with_reducible apply State.bootRom_kept | with_reducible apply Kept_ite | split
    | with_reducible intro _ _ _ | with_reducible intro _ _ | with_reducible intro _ | dsimp only

theorem execPowerOnReset_kept {hm : Option (Tbl Byte)} {qs : List Instr} (s : State) (h_s : Kept hm none qs s) : KeptO hm none qs
    (execPowerOnReset s) := by
  unfold execPowerOnReset
  repeat' first
    | with_reducible assumption | with_reducible apply State.fullReset_kept | with_reducible apply Kept_ite
    | with_reducible apply KeptO_next | with_reducible apply KeptO_ite | split | with_reducible intro _ _ _
    | with_reducible intro _ _ | with_reducible intro _ | dsimp only | with_reducible apply Kept_mk

theorem execPorNRelease_kept {dm : Option (Tbl Byte)} {qs : List Instr} (b : BootIn) (s : State) (h_s : Kept none dm qs s) : KeptO none dm qs
    (execPorNRelease b s) := by
  unfold execPorNRelease
  repeat' first
    | with_reducible assumption | with_reducible apply State.release_kept | with_reducible apply Kept_ite
    | with_reducible apply KeptO_next | with_reducible apply KeptO_ite | split | with_reducible intro _ _ _
    | with_reducible intro _ _ | with_reducible intro _ | dsimp only | with_reducible apply Kept_mk

theorem execBrownOut_kept {hm : Option (Tbl Byte)} {qs : List Instr} (s : State) (h_s : Kept hm none qs s) : KeptO hm none qs (execBrownOut s) :=
    by
  unfold execBrownOut
  repeat' first
    | with_reducible assumption | with_reducible apply State.fullReset_kept | with_reducible apply Kept_ite
    | with_reducible apply KeptO_next | with_reducible apply KeptO_ite | split | with_reducible intro _ _ _
    | with_reducible intro _ _ | with_reducible intro _ | dsimp only | with_reducible apply Kept_mk

theorem State.resetCmd_kept {hm : Option (Tbl Byte)} {dm : Option (Tbl Byte)} {qs : List Instr} (s : State) (h_s : Kept hm dm qs s) : Kept hm dm
    qs (State.resetCmd s) := by
  unfold State.resetCmd
  repeat' first
    | with_reducible assumption | with_reducible apply Kept_ite | split | with_reducible intro _ _ _
    | with_reducible intro _ _ | with_reducible intro _ | dsimp only | with_reducible apply Kept_mk

theorem State.linkReset_kept {hm : Option (Tbl Byte)} {dm : Option (Tbl Byte)} {qs : List Instr} (s : State) (h_s : Kept hm dm qs s) : Kept hm dm
    qs (State.linkReset s) := by
  unfold State.linkReset
  repeat' first
    | with_reducible assumption | with_reducible apply State.clearMsix_kept | with_reducible apply State.resetCmd_kept
    | with_reducible apply State.wr_kept | with_reducible apply Kept_ite | split | with_reducible intro _ _ _
    | with_reducible intro _ _ | with_reducible intro _ | dsimp only | with_reducible apply Kept_mk

theorem execPerstNLow_kept {hm : Option (Tbl Byte)} {qs : List Instr} (s : State) (h_s : Kept hm none qs s) : KeptO hm none qs (execPerstNLow s)
    := by
  unfold execPerstNLow
  repeat' first
    | with_reducible assumption | with_reducible apply State.linkReset_kept | with_reducible apply State.fullReset_kept
    | with_reducible apply Kept_ite | with_reducible apply KeptO_next | with_reducible apply KeptO_ite | split
    | with_reducible intro _ _ _ | with_reducible intro _ _ | with_reducible intro _ | dsimp only
    | with_reducible apply Kept_mk

theorem execPerstNRelease_kept {dm : Option (Tbl Byte)} {qs : List Instr} (b : BootIn) (s : State) (h_s : Kept none dm qs s) : KeptO none dm qs
    (execPerstNRelease b s) := by
  unfold execPerstNRelease
  repeat' first
    | with_reducible assumption | with_reducible apply State.release_kept | with_reducible apply State.raise_kept
    | with_reducible apply Kept_ite | with_reducible apply KeptO_next | with_reducible apply KeptO_ite | split
    | with_reducible intro _ _ _ | with_reducible intro _ _ | with_reducible intro _ | dsimp only
    | with_reducible apply Kept_mk

theorem execTestLogicReset_kept {hm : Option (Tbl Byte)} {dm : Option (Tbl Byte)} {qs : List Instr} (s : State) (h_s : Kept hm dm qs s) : KeptO
    hm dm qs (execTestLogicReset s) := by
  unfold execTestLogicReset
  repeat' first
    | with_reducible assumption | with_reducible apply Kept_ite | with_reducible apply KeptO_next
    | with_reducible apply KeptO_ite | split | with_reducible intro _ _ _ | with_reducible intro _ _ | with_reducible intro _
    | dsimp only

theorem execPcieReferenceLoss_kept {hm : Option (Tbl Byte)} {dm : Option (Tbl Byte)} {qs : List Instr} (s : State) (h_s : Kept hm dm qs s) :
    KeptO hm dm qs (execPcieReferenceLoss s) := by
  unfold execPcieReferenceLoss
  repeat' first
    | with_reducible assumption | with_reducible apply Kept_ite | with_reducible apply KeptO_next
    | with_reducible apply KeptO_ite | split | with_reducible intro _ _ _ | with_reducible intro _ _ | with_reducible intro _
    | dsimp only | with_reducible apply Kept_mk

theorem execRootLoss_kept {dm : Option (Tbl Byte)} {qs : List Instr} (t : Nat) (s : State) (h_s : Kept none dm qs s) : KeptO none dm qs
    (execRootLoss t s) := by
  unfold execRootLoss
  repeat' first
    | with_reducible assumption | with_reducible apply State.advance_kept | with_reducible apply State.squelchAll_kept
    | with_reducible apply State.faultSys_kept | with_reducible apply Kept_ite | with_reducible apply KeptO_next
    | with_reducible apply KeptO_ite | split | with_reducible intro _ _ _ | with_reducible intro _ _ | with_reducible intro _
    | dsimp only | with_reducible apply Kept_mk

theorem State.selfReset_kept {qs : List Instr} (s : State) (cause : Nat) (b : BootIn) (h_s : Kept none none qs s) : Kept none none qs
    (State.selfReset s cause b) := by
  unfold State.selfReset
  repeat' first
    | with_reducible assumption | with_reducible apply State.fullReset_kept | with_reducible apply State.release_kept
    | with_reducible apply Kept_ite | split | with_reducible intro _ _ _ | with_reducible intro _ _ | with_reducible intro _
    | dsimp only | with_reducible apply Kept_mk

theorem execBootWatchdog_kept {qs : List Instr} (b : BootIn) (s : State) (h_s : Kept none none qs s) : KeptO none none qs (execBootWatchdog b s)
    := by
  unfold execBootWatchdog
  repeat' first
    | with_reducible assumption | with_reducible apply State.setFails_kept | with_reducible apply State.selfReset_kept
    | with_reducible apply Kept_ite | with_reducible apply KeptO_next | with_reducible apply KeptO_ite | split
    | with_reducible intro _ _ _ | with_reducible intro _ _ | with_reducible intro _ | dsimp only

theorem execReady_kept {dm : Option (Tbl Byte)} {qs : List Instr} (t : Nat) (s : State) (h_s : Kept none dm qs s) : KeptO none dm qs (execReady t
    s) := by
  unfold execReady
  repeat' first
    | with_reducible assumption | with_reducible apply State.advance_kept | with_reducible apply State.boot_kept
    | with_reducible apply State.wr_kept | with_reducible apply State.setFails_kept | with_reducible apply State.audit_kept
    | with_reducible apply State.raise_kept | with_reducible apply State.raiseIf_kept | with_reducible apply Kept_ite
    | with_reducible apply KeptO_next | with_reducible apply KeptO_ite | split | with_reducible intro _ _ _
    | with_reducible intro _ _ | with_reducible intro _ | dsimp only

theorem execSleepEntryDone_kept {dm : Option (Tbl Byte)} {qs : List Instr} (t : Nat) (s : State) (h_s : Kept none dm qs s) : KeptO none dm qs
    (execSleepEntryDone t s) := by
  unfold execSleepEntryDone
  repeat' first
    | with_reducible assumption | with_reducible apply State.flushTally_kept | with_reducible apply State.advance_kept
    | with_reducible apply State.squelchAll_kept | with_reducible apply State.wr_kept | with_reducible apply Kept_ite
    | with_reducible apply KeptO_next | with_reducible apply KeptO_ite | with_reducible apply Kept_foldl | split
    | with_reducible intro _ _ _ | with_reducible intro _ _ | with_reducible intro _ | dsimp only
    | with_reducible apply Kept_mk

theorem execWake_kept {hm : Option (Tbl Byte)} {dm : Option (Tbl Byte)} {qs : List Instr} (t : Nat) (s : State) (h_s : Kept hm dm qs s) : KeptO
    hm dm qs (execWake t s) := by
  unfold execWake
  repeat' first
    | with_reducible assumption | with_reducible apply State.advance_kept | with_reducible apply State.startWake_kept
    | with_reducible apply Kept_ite | with_reducible apply KeptO_next | with_reducible apply KeptO_ite | split
    | with_reducible intro _ _ _ | with_reducible intro _ _ | with_reducible intro _ | dsimp only

theorem State.wakeUp_kept {dm : Option (Tbl Byte)} {qs : List Instr} (s : State) (h_s : Kept none dm qs s) : Kept none dm qs (State.wakeUp s) :=
    by
  unfold State.wakeUp
  repeat' first
    | with_reducible assumption | with_reducible apply State.wr_kept | with_reducible apply State.setEnc_kept
    | with_reducible apply State.bridgesOff_kept | with_reducible apply State.startPort_kept
    | with_reducible apply State.raise_kept | with_reducible apply Kept_ite | with_reducible apply Kept_foldl | split
    | with_reducible intro _ _ _ | with_reducible intro _ _ | with_reducible intro _ | dsimp only
    | with_reducible apply Kept_mk

theorem State.unknownType_kept {dm : Option (Tbl Byte)} {qs : List Instr} (s : State) (l : LaneId) (h_s : Kept none dm qs s) : Kept none dm qs
    (State.unknownType s l) := by
  unfold State.unknownType
  repeat' first
    | with_reducible assumption | with_reducible apply State.count_kept | with_reducible apply Kept_ite | split
    | with_reducible intro _ _ _ | with_reducible intro _ _ | with_reducible intro _ | dsimp only

theorem State.recvHead_kept {qs : List Instr} (s : State) (lane : Fin 32) (body t : Nat) (h_s : Kept none none qs s) : Kept none none qs
    (State.recvHead s lane body t) := by
  unfold State.recvHead
  repeat' first
    | with_reducible assumption | with_reducible apply State.recvTrain_kept | with_reducible apply State.recvTemp_kept
    | with_reducible apply State.recvAlign_kept | with_reducible apply State.advance_kept
    | with_reducible apply State.recvNak_kept | with_reducible apply State.recvStatus_kept
    | with_reducible apply State.unknownType_kept | with_reducible apply Kept_ite | split | with_reducible intro _ _ _
    | with_reducible intro _ _ | with_reducible intro _ | dsimp only | with_reducible apply Kept_mk

theorem State.recvCtl_kept {qs : List Instr} (s : State) (l : LaneId) (body t : Nat) (h_s : Kept none none qs s) : Kept none none qs
    (State.recvCtl s l body t) := by
  unfold State.recvCtl
  repeat' first
    | with_reducible assumption | with_reducible apply State.recvHead_kept | with_reducible apply State.recvTrain_kept
    | with_reducible apply State.unknownType_kept | with_reducible apply Kept_ite | split | with_reducible intro _ _ _
    | with_reducible intro _ _ | with_reducible intro _ | dsimp only | with_reducible apply Kept_mk

theorem State.passTime_kept {qs : List Instr} (s : State) (d : Nat) (h_s : Kept none none qs s) : Kept none none qs (State.passTime s d) := by
  unfold State.passTime
  repeat' first
    | with_reducible assumption | with_reducible apply State.memRun_kept | with_reducible apply State.runLanes_kept
    | with_reducible apply State.runOutputs_kept | with_reducible apply Kept_ite | split | with_reducible intro _ _ _
    | with_reducible intro _ _ | with_reducible intro _ | dsimp only | with_reducible apply Kept_mk

theorem execTrain_kept {qs : List Instr} (l : LaneId) (body : Nat) (s : State) (h_s : Kept none none qs s) : KeptO none none qs (execTrain l body
    s) := by
  unfold execTrain
  repeat' first
    | with_reducible assumption | with_reducible apply State.recvCtl_kept | with_reducible apply Kept_ite
    | with_reducible apply KeptO_next | with_reducible apply KeptO_ite | split | with_reducible intro _ _ _
    | with_reducible intro _ _ | with_reducible intro _ | dsimp only

theorem execNak_kept {qs : List Instr} (lane : Fin 32) (body t : Nat) (s : State) (h_s : Kept none none qs s) : KeptO none none qs (execNak lane
    body t s) := by
  unfold execNak
  repeat' first
    | with_reducible assumption | with_reducible apply State.recvHead_kept | with_reducible apply Kept_ite
    | with_reducible apply KeptO_next | with_reducible apply KeptO_ite | split | with_reducible intro _ _ _
    | with_reducible intro _ _ | with_reducible intro _ | dsimp only

theorem execStatus_kept {qs : List Instr} (lane : Fin 32) (body t : Nat) (s : State) (h_s : Kept none none qs s) : KeptO none none qs (execStatus
    lane body t s) := by
  unfold execStatus
  repeat' first
    | with_reducible assumption | with_reducible apply State.recvHead_kept | with_reducible apply Kept_ite
    | with_reducible apply KeptO_next | with_reducible apply KeptO_ite | split | with_reducible intro _ _ _
    | with_reducible intro _ _ | with_reducible intro _ | dsimp only

theorem execTemp_kept {qs : List Instr} (lane : Fin 32) (body t : Nat) (s : State) (h_s : Kept none none qs s) : KeptO none none qs (execTemp
    lane body t s) := by
  unfold execTemp
  repeat' first
    | with_reducible assumption | with_reducible apply State.recvHead_kept | with_reducible apply Kept_ite
    | with_reducible apply KeptO_next | with_reducible apply KeptO_ite | split | with_reducible intro _ _ _
    | with_reducible intro _ _ | with_reducible intro _ | dsimp only

theorem execAlign_kept {qs : List Instr} (lane : Fin 32) (body t : Nat) (s : State) (h_s : Kept none none qs s) : KeptO none none qs (execAlign
    lane body t s) := by
  unfold execAlign
  repeat' first
    | with_reducible assumption | with_reducible apply State.recvHead_kept | with_reducible apply Kept_ite
    | with_reducible apply KeptO_next | with_reducible apply KeptO_ite | split | with_reducible intro _ _ _
    | with_reducible intro _ _ | with_reducible intro _ | dsimp only

theorem State.offHook_kept {dm : Option (Tbl Byte)} {qs : List Instr} (s : State) (n : Node) (h_s : Kept none dm qs s) : Kept none dm qs
    (State.offHook s n) := by
  unfold State.offHook
  repeat' first
    | with_reducible assumption | with_reducible apply State.setRing_kept | with_reducible apply State.camDown_kept
    | with_reducible apply State.ethLink_kept | with_reducible apply State.bridgesOff_kept | with_reducible apply Kept_ite
    | split | with_reducible intro _ _ _ | with_reducible intro _ _ | with_reducible intro _ | dsimp only
    | with_reducible apply Kept_mk

theorem State.endDrainWaits_kept {dm : Option (Tbl Byte)} {qs : List Instr} (s : State) (n : Node) (st : Status) (left : Nat) (h_s : Kept none dm
    qs s) : Kept none dm qs (State.endDrainWaits s n st left) := by
  unfold State.endDrainWaits
  repeat' first
    | with_reducible assumption | with_reducible apply State.complete_kept | with_reducible apply Kept_ite
    | with_reducible apply Kept_foldl | split | with_reducible intro _ _ _ | with_reducible intro _ _ | with_reducible intro _
    | dsimp only | with_reducible apply Kept_mk

theorem State.drainEnds_kept {dm : Option (Tbl Byte)} {qs : List Instr} (s : State) (n : Node) (h_s : Kept none dm qs s) : Kept none dm qs
    (State.drainEnds s n) := by
  unfold State.drainEnds
  repeat' first
    | with_reducible assumption | with_reducible apply State.setMode_kept | with_reducible apply State.offHook_kept
    | with_reducible apply State.raise_kept | with_reducible apply State.endDrainWaits_kept
    | with_reducible apply State.resumeRaster_kept | with_reducible apply Kept_ite | split | with_reducible intro _ _ _
    | with_reducible intro _ _ | with_reducible intro _ | dsimp only

theorem State.startDrain_kept {dm : Option (Tbl Byte)} {qs : List Instr} (s : State) (n : Node) (h_s : Kept none dm qs s) : Kept none dm qs
    (State.startDrain s n) := by
  unfold State.startDrain
  repeat' first
    | with_reducible assumption | with_reducible apply State.drainRaster_kept | with_reducible apply State.stopPulses_kept
    | with_reducible apply State.drainAxis_kept | with_reducible apply State.setMode_kept
    | with_reducible apply State.drainEnds_kept | with_reducible apply Kept_ite | split | with_reducible intro _ _ _
    | with_reducible intro _ _ | with_reducible intro _ | dsimp only | with_reducible apply Kept_mk

theorem State.enableHook_kept {dm : Option (Tbl Byte)} {qs : List Instr} (s : State) (n : Node) (h_s : Kept none dm qs s) : Kept none dm qs
    (State.enableHook s n) := by
  unfold State.enableHook
  repeat' first
    | with_reducible assumption | with_reducible apply State.wr_kept | with_reducible apply State.setRing_kept
    | with_reducible apply State.flushHeld_kept | with_reducible apply Kept_ite | split | with_reducible intro _ _ _
    | with_reducible intro _ _ | with_reducible intro _ | dsimp only | with_reducible apply Kept_mk

theorem State.hold_kept {hm : Option (Tbl Byte)} {dm : Option (Tbl Byte)} {qs : List Instr} (s : State) (n : Node) (f : HeldCtrl → HeldCtrl) (h_s
    : Kept hm dm qs s) : Kept hm dm qs (State.hold s n f) := by
  unfold State.hold
  repeat' first
    | with_reducible assumption | with_reducible apply Kept_ite | split | with_reducible intro _ _ _
    | with_reducible intro _ _ | with_reducible intro _ | dsimp only | with_reducible apply Kept_mk

theorem State.writeEnable_kept {dm : Option (Tbl Byte)} {qs : List Instr} (s : State) (on : Bool) (n : Node) (h_s : Kept none dm qs s) : Kept
    none dm qs (State.writeEnable s on n) := by
  unfold State.writeEnable
  repeat' first
    | with_reducible assumption | with_reducible apply State.hold_kept | with_reducible apply State.wr_kept
    | with_reducible apply State.enableHook_kept | with_reducible apply State.wrB_kept
    | with_reducible apply State.resumeRaster_kept | with_reducible apply State.startDrain_kept
    | with_reducible apply Kept_ite | split | with_reducible intro _ _ _ | with_reducible intro _ _ | with_reducible intro _
    | dsimp only | with_reducible apply Kept_mk

theorem State.writeQuiesce_kept {dm : Option (Tbl Byte)} {qs : List Instr} (s : State) (on : Bool) (n : Node) (h_s : Kept none dm qs s) : Kept
    none dm qs (State.writeQuiesce s on n) := by
  unfold State.writeQuiesce
  repeat' first
    | with_reducible assumption | with_reducible apply State.hold_kept | with_reducible apply State.wrB_kept
    | with_reducible apply State.startDrain_kept | with_reducible apply State.resumeRaster_kept
    | with_reducible apply Kept_ite | split | with_reducible intro _ _ _ | with_reducible intro _ _ | with_reducible intro _
    | dsimp only | with_reducible apply Kept_mk

theorem State.ctrlEnable_kept {dm : Option (Tbl Byte)} {qs : List Instr} (s : State) (n : Node) (on : Bool) (h_s : Kept none dm qs s) : Kept none
    dm qs (State.ctrlEnable s n on) := by
  unfold State.ctrlEnable
  repeat' first
    | with_reducible assumption | with_reducible apply State.access_kept | with_reducible apply State.wrB_kept
    | with_reducible apply State.writeEnable_kept | with_reducible apply Kept_ite | with_reducible apply Kept_foldl | split
    | with_reducible intro _ _ _ | with_reducible intro _ _ | with_reducible intro _ | dsimp only

theorem State.ctrlQuiesce_kept {dm : Option (Tbl Byte)} {qs : List Instr} (s : State) (n : Node) (on : Bool) (h_s : Kept none dm qs s) : Kept
    none dm qs (State.ctrlQuiesce s n on) := by
  unfold State.ctrlQuiesce
  repeat' first
    | with_reducible assumption | with_reducible apply State.access_kept | with_reducible apply State.writeQuiesce_kept
    | with_reducible apply Kept_ite | with_reducible apply Kept_foldl | split | with_reducible intro _ _ _
    | with_reducible intro _ _ | with_reducible intro _ | dsimp only

theorem execEnable_kept {dm : Option (Tbl Byte)} {qs : List Instr} (n : Node) (on : Bool) (s : State) (h_s : Kept none dm qs s) : KeptO none dm
    qs (execEnable n on s) := by
  unfold execEnable
  repeat' first
    | with_reducible assumption | with_reducible apply State.hostAccess_kept | with_reducible apply State.ctrlEnable_kept
    | with_reducible apply Kept_ite | with_reducible apply KeptO_next | with_reducible apply KeptO_ite | split
    | with_reducible intro _ _ _ | with_reducible intro _ _ | with_reducible intro _ | dsimp only

theorem execQuiesce_kept {dm : Option (Tbl Byte)} {qs : List Instr} (n : Node) (on : Bool) (s : State) (h_s : Kept none dm qs s) : KeptO none dm
    qs (execQuiesce n on s) := by
  unfold execQuiesce
  repeat' first
    | with_reducible assumption | with_reducible apply State.hostAccess_kept | with_reducible apply State.ctrlQuiesce_kept
    | with_reducible apply Kept_ite | with_reducible apply KeptO_next | with_reducible apply KeptO_ite | split
    | with_reducible intro _ _ _ | with_reducible intro _ _ | with_reducible intro _ | dsimp only

set_option maxRecDepth 20000 in
theorem State.takePks_kept {dm : Option (Tbl Byte)} {qs : List Instr} (s : State) (n : Node) (p : Pk → Bool) (h_s : Kept none dm qs s) : Kept
    none dm qs (State.takePks s n p).1 := by
  cases n <;> delta State.takePks <;> dsimp only
  repeat' first
    | with_reducible assumption | with_reducible apply State.setRing_kept | with_reducible apply State.setHandle_kept
    | with_reducible apply State.setEnc_kept | with_reducible apply State.setCmp_kept | with_reducible apply State.setCam_kept
    | with_reducible apply State.setAx_kept | with_reducible apply State.breakTest_kept | with_reducible apply Kept_ite
    | with_reducible apply Kept_foldl | split | with_reducible intro _ _ _ | with_reducible intro _ _ | with_reducible intro _
    | dsimp only | with_reducible apply Kept_mk

theorem State.completeAll_kept {dm : Option (Tbl Byte)} {qs : List Instr} (s : State) (st : Status) (ps : List (Pk × List Nat)) (h_s : Kept none
    dm qs s) : Kept none dm qs (State.completeAll s st ps) := by
  unfold State.completeAll
  repeat' first
    | with_reducible assumption | with_reducible apply State.complete_kept | with_reducible apply Kept_ite
    | with_reducible apply Kept_foldl | split | with_reducible intro _ _ _ | with_reducible intro _ _ | with_reducible intro _
    | dsimp only

theorem State.endPks_kept {dm : Option (Tbl Byte)} {qs : List Instr} (s : State) (n : Node) (st : Status) (p : Pk → Bool) (h_s : Kept none dm qs
    s) : Kept none dm qs (State.endPks s n st p) := by
  unfold State.endPks
  repeat' first
    | with_reducible assumption | with_reducible apply State.takePks_kept | with_reducible apply State.completeAll_kept
    | with_reducible apply Kept_ite | split | with_reducible intro _ _ _ | with_reducible intro _ _ | with_reducible intro _
    | dsimp only

theorem State.abortPages_kept {dm : Option (Tbl Byte)} {qs : List Instr} (s : State) (p : Pk → Bool) (h_s : Kept none dm qs s) : Kept none dm qs
    (State.abortPages s p) := by
  unfold State.abortPages
  repeat' first
    | with_reducible assumption | with_reducible apply State.setCtx_kept | with_reducible apply State.complete_kept
    | with_reducible apply State.endContext_kept | with_reducible apply Kept_ite | with_reducible apply Kept_foldl | split
    | with_reducible intro _ _ _ | with_reducible intro _ _ | with_reducible intro _ | dsimp only
    | with_reducible apply Kept_mk

theorem State.endTraining_kept {dm : Option (Tbl Byte)} {qs : List Instr} (s : State) (l : LaneId) (h_s : Kept none dm qs s) : Kept none dm qs
    (State.endTraining s l) := by
  unfold State.endTraining
  repeat' first
    | with_reducible assumption | with_reducible apply State.enterTrain_kept | with_reducible apply State.wr_kept
    | with_reducible apply State.setLane_kept | with_reducible apply State.laneTrained_kept | with_reducible apply Kept_ite
    | split | with_reducible intro _ _ _ | with_reducible intro _ _ | with_reducible intro _ | dsimp only
    | with_reducible apply Kept_mk

theorem State.abortStarted_kept {dm : Option (Tbl Byte)} {qs : List Instr} (s : State) (p : Pk → Bool) (h_s : Kept none dm qs s) : Kept none dm
    qs (State.abortStarted s p) := by
  unfold State.abortStarted
  repeat' first
    | with_reducible assumption | with_reducible apply State.endPks_kept | with_reducible apply State.endTraining_kept
    | with_reducible apply State.abortAxis_kept | with_reducible apply Kept_ite | with_reducible apply Kept_foldl | split
    | with_reducible intro _ _ _ | with_reducible intro _ _ | with_reducible intro _ | dsimp only

set_option maxRecDepth 20000 in
theorem State.abortOne_kept {qs : List Instr} (s : State) (n : Node) (h_s : Kept none none qs s) : Kept none none qs (State.abortOne s n) := by
  cases n <;> delta State.abortOne <;> dsimp only
  repeat' first
    | with_reducible assumption | with_reducible apply State.endPks_kept | with_reducible apply State.abortPages_kept
    | with_reducible apply State.abortStarted_kept | with_reducible apply State.setHolder_kept
    | with_reducible apply State.abortRaster_kept | with_reducible apply State.endTraining_kept
    | with_reducible apply State.abortCompares_kept | with_reducible apply State.writeDefect_kept
    | with_reducible apply State.abortCam_kept | with_reducible apply State.abortCal_kept
    | with_reducible apply State.abortTime_kept | with_reducible apply State.abortAxis_kept
    | with_reducible apply State.unpair_kept | with_reducible apply State.abortGlean_kept | with_reducible apply Kept_ite
    | with_reducible apply Kept_foldl | split | with_reducible intro _ _ _ | with_reducible intro _ _ | with_reducible intro _
    | dsimp only | with_reducible apply Kept_mk

theorem State.writeAbort_kept {qs : List Instr} (s : State) (n : Node) (h_s : Kept none none qs s) : Kept none none qs (State.writeAbort s n) :=
    by
  unfold State.writeAbort
  repeat' first
    | with_reducible assumption | with_reducible apply State.hold_kept | with_reducible apply State.abortOne_kept
    | with_reducible apply State.setMode_kept | with_reducible apply State.wr_kept
    | with_reducible apply State.endDrainWaits_kept | with_reducible apply Kept_ite | split | with_reducible intro _ _ _
    | with_reducible intro _ _ | with_reducible intro _ | dsimp only | with_reducible apply Kept_mk

theorem State.applyHeld_kept {qs : List Instr} (s : State) (n : Node) (h_s : Kept none none qs s) : Kept none none qs (State.applyHeld s n) := by
  unfold State.applyHeld
  repeat' first
    | with_reducible assumption | with_reducible apply State.writeAbort_kept | with_reducible apply State.writeQuiesce_kept
    | with_reducible apply State.writeEnable_kept | with_reducible apply Kept_ite | split | with_reducible intro _ _ _
    | with_reducible intro _ _ | with_reducible intro _ | dsimp only | with_reducible apply Kept_mk

theorem State.afterTest_kept {qs : List Instr} (s t : State) (h_s : Kept none none qs s) (h_t : Kept none none qs t) : Kept none none qs
    (State.afterTest s t) := by
  unfold State.afterTest
  repeat' first
    | with_reducible assumption | with_reducible apply State.applyHeld_kept | with_reducible apply Kept_ite | split
    | with_reducible intro _ _ _ | with_reducible intro _ _ | with_reducible intro _ | dsimp only
    | with_reducible apply Kept_mk

theorem execSliceFault_kept {qs : List Instr} (n : Fin 33) (check : Bool) (s : State) (h_s : Kept none none qs s) : KeptO none none qs
    (execSliceFault n check s) := by
  unfold execSliceFault
  repeat' first
    | with_reducible assumption | with_reducible apply State.testDone_kept | with_reducible apply State.afterTest_kept
    | with_reducible apply State.sliceFails_kept | with_reducible apply Kept_ite | with_reducible apply KeptO_next
    | with_reducible apply KeptO_ite | split | with_reducible intro _ _ _ | with_reducible intro _ _ | with_reducible intro _
    | dsimp only

theorem State.ctrlAbort_kept {qs : List Instr} (s : State) (n : Node) (h_s : Kept none none qs s) : Kept none none qs (State.ctrlAbort s n) := by
  unfold State.ctrlAbort
  repeat' first
    | with_reducible assumption | with_reducible apply State.access_kept | with_reducible apply State.afterTest_kept
    | with_reducible apply State.writeAbort_kept | with_reducible apply Kept_ite | with_reducible apply Kept_foldl | split
    | with_reducible intro _ _ _ | with_reducible intro _ _ | with_reducible intro _ | dsimp only

theorem execAbort_kept {qs : List Instr} (n : Node) (s : State) (h_s : Kept none none qs s) : KeptO none none qs (execAbort n s) := by
  unfold execAbort
  repeat' first
    | with_reducible assumption | with_reducible apply State.hostAccess_kept | with_reducible apply State.ctrlAbort_kept
    | with_reducible apply Kept_ite | with_reducible apply KeptO_next | with_reducible apply KeptO_ite | split
    | with_reducible intro _ _ _ | with_reducible intro _ _ | with_reducible intro _ | dsimp only

theorem State.abortEnds_kept {dm : Option (Tbl Byte)} {qs : List Instr} (s : State) (n : Node) (h_s : Kept none dm qs s) : Kept none dm qs
    (State.abortEnds s n) := by
  unfold State.abortEnds
  repeat' first
    | with_reducible assumption | with_reducible apply State.wr_kept | with_reducible apply State.offHook_kept
    | with_reducible apply State.raise_kept | with_reducible apply Kept_ite | split | with_reducible intro _ _ _
    | with_reducible intro _ _ | with_reducible intro _ | dsimp only

theorem execAbortComplete_kept {dm : Option (Tbl Byte)} {qs : List Instr} (n : Node) (s : State) (h_s : Kept none dm qs s) : KeptO none dm qs
    (execAbortComplete n s) := by
  unfold execAbortComplete
  repeat' first
    | with_reducible assumption | with_reducible apply State.abortEnds_kept | with_reducible apply Kept_ite
    | with_reducible apply KeptO_next | with_reducible apply KeptO_ite | split | with_reducible intro _ _ _
    | with_reducible intro _ _ | with_reducible intro _ | dsimp only

theorem execDrainComplete_kept {dm : Option (Tbl Byte)} {qs : List Instr} (n : Node) (s : State) (h_s : Kept none dm qs s) : KeptO none dm qs
    (execDrainComplete n s) := by
  unfold execDrainComplete
  repeat' first
    | with_reducible assumption | with_reducible apply State.drainEnds_kept | with_reducible apply Kept_ite
    | with_reducible apply KeptO_next | with_reducible apply KeptO_ite | split | with_reducible intro _ _ _
    | with_reducible intro _ _ | with_reducible intro _ | dsimp only

theorem State.drainLate_kept {qs : List Instr} (s : State) (n : Node) (h_s : Kept none none qs s) : Kept none none qs (State.drainLate s n) := by
  unfold State.drainLate
  repeat' first
    | with_reducible assumption | with_reducible apply State.abortOne_kept | with_reducible apply State.setMode_kept
    | with_reducible apply State.offHook_kept | with_reducible apply State.raise_kept
    | with_reducible apply State.endDrainWaits_kept | with_reducible apply Kept_ite | split | with_reducible intro _ _ _
    | with_reducible intro _ _ | with_reducible intro _ | dsimp only | with_reducible apply Kept_mk

theorem execDrainTimeout_kept {qs : List Instr} (n : Node) (s : State) (h_s : Kept none none qs s) : KeptO none none qs (execDrainTimeout n s) :=
    by
  unfold execDrainTimeout
  repeat' first
    | with_reducible assumption | with_reducible apply State.afterTest_kept | with_reducible apply State.drainLate_kept
    | with_reducible apply Kept_ite | with_reducible apply KeptO_next | with_reducible apply KeptO_ite
    | with_reducible apply Kept_foldl | split | with_reducible intro _ _ _ | with_reducible intro _ _ | with_reducible intro _
    | dsimp only

theorem execGleanTestEnd_kept {qs : List Instr} (bank passed : Bool) (s : State) (h_s : Kept none none qs s) : KeptO none none qs
    (execGleanTestEnd bank passed s) := by
  unfold execGleanTestEnd
  repeat' first
    | with_reducible assumption | with_reducible apply State.endBankTest_kept | with_reducible apply State.afterTest_kept
    | with_reducible apply State.endTest_kept | with_reducible apply Kept_ite | with_reducible apply KeptO_next
    | with_reducible apply KeptO_ite | split | with_reducible intro _ _ _ | with_reducible intro _ _ | with_reducible intro _
    | dsimp only

theorem execGleanRelease_kept {qs : List Instr} (n : Node) (s : State) (h_s : Kept none none qs s) : KeptO none none qs (execGleanRelease n s) :=
    by
  unfold execGleanRelease
  repeat' first
    | with_reducible assumption | with_reducible apply State.afterTest_kept | with_reducible apply State.breakTest_kept
    | with_reducible apply Kept_ite | with_reducible apply KeptO_next | with_reducible apply KeptO_ite | split
    | with_reducible intro _ _ _ | with_reducible intro _ _ | with_reducible intro _ | dsimp only
    | with_reducible apply Kept_mk

theorem State.resetRegs_kept {hm : Option (Tbl Byte)} {dm : Option (Tbl Byte)} {qs : List Instr} (s : State) (lo hi : Nat) (keep : Nat → Bool)
    (h_s : Kept hm dm qs s) : Kept hm dm qs (State.resetRegs s lo hi keep) := by
  unfold State.resetRegs
  repeat' first
    | with_reducible assumption | with_reducible apply Kept_ite | split | with_reducible intro _ _ _
    | with_reducible intro _ _ | with_reducible intro _ | dsimp only | with_reducible apply Kept_mk

set_option maxRecDepth 20000 in
theorem State.clearUnit_kept {hm : Option (Tbl Byte)} {dm : Option (Tbl Byte)} {qs : List Instr} (s : State) (n : Node) (h_s : Kept hm dm qs s) :
    Kept hm dm qs (State.clearUnit s n) := by
  cases n <;> delta State.clearUnit <;> dsimp only
  repeat' first
    | with_reducible assumption | with_reducible apply State.setRing_kept | with_reducible apply State.setHolder_kept
    | with_reducible apply State.setSlice_kept | with_reducible apply State.setHead_kept
    | with_reducible apply State.setLane_kept | with_reducible apply State.setCam_kept | with_reducible apply State.setAx_kept
    | with_reducible apply Kept_ite | with_reducible apply Kept_foldl | split | with_reducible intro _ _ _
    | with_reducible intro _ _ | with_reducible intro _ | dsimp only | with_reducible apply Kept_mk

theorem State.resetHlth_kept {dm : Option (Tbl Byte)} {qs : List Instr} (s : State) (h_s : Kept none dm qs s) : Kept none dm qs (State.resetHlth
    s) := by
  unfold State.resetHlth
  repeat' first
    | with_reducible assumption | with_reducible apply State.access_kept | with_reducible apply State.setMode_kept
    | with_reducible apply State.wr_kept | with_reducible apply State.setShare_kept | with_reducible apply State.settle_kept
    | with_reducible apply Kept_ite | split | with_reducible intro _ _ _ | with_reducible intro _ _ | with_reducible intro _
    | dsimp only | with_reducible apply Kept_mk

theorem State.resetNodes_kept {qs : List Instr} (s : State) (n : Node) (h_s : Kept none none qs s) : Kept none none qs (State.resetNodes s n) :=
    by
  unfold State.resetNodes
  repeat' first
    | with_reducible assumption | with_reducible apply State.breakTest_kept | with_reducible apply State.abortOne_kept
    | with_reducible apply State.endDrainWaits_kept | with_reducible apply State.bridgesOff_kept
    | with_reducible apply State.ethLink_kept | with_reducible apply State.interrupt_kept
    | with_reducible apply State.leaveRole_kept | with_reducible apply State.resetRegs_kept
    | with_reducible apply State.clearUnit_kept | with_reducible apply State.wrB_kept | with_reducible apply State.settle_kept
    | with_reducible apply State.stepBase_kept | with_reducible apply Kept_ite | with_reducible apply Kept_foldl | split
    | with_reducible intro _ _ _ | with_reducible intro _ _ | with_reducible intro _ | dsimp only
    | with_reducible apply Kept_mk

theorem State.ctrlReset_kept {qs : List Instr} (s : State) (n : Node) (b : BootIn) (h_s : Kept none none qs s) : Kept none none qs
    (State.ctrlReset s n b) := by
  unfold State.ctrlReset
  repeat' first
    | with_reducible assumption | with_reducible apply State.selfReset_kept | with_reducible apply State.resetCmd_kept
    | with_reducible apply State.settle_kept | with_reducible apply State.resetHlth_kept
    | with_reducible apply State.resetNodes_kept | with_reducible apply State.resetSec_kept
    | with_reducible apply State.afterTest_kept | with_reducible apply Kept_ite | split | with_reducible intro _ _ _
    | with_reducible intro _ _ | with_reducible intro _ | dsimp only | with_reducible apply Kept_mk

theorem execReset_kept {qs : List Instr} (n : Node) (b : BootIn) (s : State) (h_s : Kept none none qs s) : KeptO none none qs (execReset n b s)
    := by
  unfold execReset
  repeat' first
    | with_reducible assumption | with_reducible apply State.hostAccess_kept | with_reducible apply State.ctrlReset_kept
    | with_reducible apply Kept_ite | with_reducible apply KeptO_next | with_reducible apply KeptO_ite | split
    | with_reducible intro _ _ _ | with_reducible intro _ _ | with_reducible intro _ | dsimp only

theorem execUnitQuery_kept {dm : Option (Tbl Byte)} {qs : List Instr} (h : Hdr) (off : Nat) (s : State) (h_s : Kept none dm qs s) : KeptO none dm
    qs (execUnitQuery h off s) := by
  unfold execUnitQuery
  repeat' first
    | with_reducible assumption | with_reducible apply State.packet_kept | with_reducible apply State.complete_kept
    | with_reducible apply Kept_ite | with_reducible apply KeptO_next | with_reducible apply KeptO_ite | split
    | with_reducible intro _ _ _ | with_reducible intro _ _ | with_reducible intro _ | dsimp only

theorem execUnitQuiesce_kept {dm : Option (Tbl Byte)} {qs : List Instr} (h : Hdr) (off flags : Nat) (s : State) (h_s : Kept none dm qs s) : KeptO
    none dm qs (execUnitQuiesce h off flags s) := by
  unfold execUnitQuiesce
  repeat' first
    | with_reducible assumption | with_reducible apply State.packet_kept | with_reducible apply State.writeQuiesce_kept
    | with_reducible apply State.writeEnable_kept | with_reducible apply State.endDrainWaits_kept
    | with_reducible apply Kept_ite | with_reducible apply KeptO_next | with_reducible apply KeptO_ite
    | with_reducible apply Kept_foldl | split | with_reducible intro _ _ _ | with_reducible intro _ _ | with_reducible intro _
    | dsimp only | with_reducible apply Kept_mk

theorem execUnitAbort_kept {qs : List Instr} (h : Hdr) (off : Nat) (s : State) (h_s : Kept none none qs s) : KeptO none none qs (execUnitAbort h
    off s) := by
  unfold execUnitAbort
  repeat' first
    | with_reducible assumption | with_reducible apply State.packet_kept | with_reducible apply State.afterTest_kept
    | with_reducible apply State.writeAbort_kept | with_reducible apply State.abortEnds_kept
    | with_reducible apply State.complete_kept | with_reducible apply Kept_ite | with_reducible apply KeptO_next
    | with_reducible apply KeptO_ite | with_reducible apply Kept_foldl | split | with_reducible intro _ _ _
    | with_reducible intro _ _ | with_reducible intro _ | dsimp only

theorem State.reclaim_kept {dm : Option (Tbl Byte)} {qs : List Instr} (s : State) (n : Node) (h_s : Kept none dm qs s) : Kept none dm qs
    (State.reclaim s n) := by
  unfold State.reclaim
  repeat' first
    | with_reducible assumption | with_reducible apply State.setHolding_kept | with_reducible apply State.wr_kept
    | with_reducible apply State.completeAll_kept | with_reducible apply Kept_ite | split | with_reducible intro _ _ _
    | with_reducible intro _ _ | with_reducible intro _ | dsimp only | with_reducible apply Kept_mk

theorem execReclaim_kept {dm : Option (Tbl Byte)} {qs : List Instr} (h : Hdr) (off : Nat) (s : State) (h_s : Kept none dm qs s) : KeptO none dm
    qs (execReclaim h off s) := by
  unfold execReclaim
  repeat' first
    | with_reducible assumption | with_reducible apply State.reclaim_kept | with_reducible apply State.packet_kept
    | with_reducible apply State.complete_kept | with_reducible apply Kept_ite | with_reducible apply KeptO_next
    | with_reducible apply KeptO_ite | split | with_reducible intro _ _ _ | with_reducible intro _ _ | with_reducible intro _
    | dsimp only

theorem State.dropWork_kept {dm : Option (Tbl Byte)} {qs : List Instr} (s : State) (n : Node) (st : Status) (req resp slots : Nat) (h_s : Kept none dm qs s) : Kept none dm qs (State.dropWork s n st req resp slots) := by
  have h := State.takePks_kept s n (fun _ => true) h_s
  unfold State.dropWork
  generalize s.takePks n (fun _ => true) = r at h
  obtain ⟨s, ps⟩ := r
  dsimp only at h ⊢
  have h2 := State.setHolding_kept s n ⟨(s.holding n).req + req, (s.holding n).resp + resp, (s.holding n).slots + slots, (s.holding n).pks ++ ps⟩ h
  generalize s.setHolding n _ = u at h2
  split
  · split
    · exact State.setHolding_kept _ _ _ (State.setHolder_kept _ _ _ h2)
    · exact h2
  · exact State.faultRaster_kept _ _ _ h2
  · exact State.faultRaster_kept _ _ _ h2
  · exact State.faultRaster_kept _ _ _ h2
  · exact State.faultRaster_kept _ _ _ h2
  · exact State.faultRaster_kept _ _ _ h2
  · apply State.endTraining_kept
    split
    · exact State.setCtx_kept _ _ _ h2
    · exact h2
  · exact State.stopPulses_kept _ _ h2
  · exact State.axHalt_kept _ _ _ _ h2
  · exact State.unpair_kept _ h2
  · exact h2

theorem execFaultDetected_kept {qs : List Instr} (n : Node) (st : Status) (req resp slots : Nat) (s : State) (h_s : Kept none none qs s) : KeptO
    none none qs (execFaultDetected n st req resp slots s) := by
  unfold execFaultDetected
  repeat' first
    | with_reducible assumption | with_reducible apply State.breakTest_kept | with_reducible apply State.afterTest_kept
    | with_reducible apply State.dropWork_kept | with_reducible apply State.faultNode_kept
    | with_reducible apply State.endDrainWaits_kept | with_reducible apply Kept_ite | with_reducible apply KeptO_next
    | with_reducible apply KeptO_ite | split | with_reducible intro _ _ _ | with_reducible intro _ _ | with_reducible intro _
    | dsimp only | with_reducible apply Kept_mk

theorem State.dropCmd_kept {dm : Option (Tbl Byte)} {qs : List Instr} (s : State) (h_s : Kept none dm qs s) : Kept none dm qs (State.dropCmd s) := by
  have key : ∀ (l : List (Nat × RingRt)) (a : State × List (Pk × List Nat)), Kept none dm qs a.1 →
      Kept none dm qs (l.foldl (fun (a : State × List (Pk × List Nat)) e =>
        ((a.1.takePks (.ring (Fin.ofNat 256 e.1)) fun _ => true).1, a.2 ++ (a.1.takePks (.ring (Fin.ofNat 256 e.1)) fun _ => true).2)) a).1 := by
    intro l
    induction l with
    | nil => intro a h; exact h
    | cons e l ih => intro a h; exact ih _ (State.takePks_kept _ _ _ h)
  exact State.setHolding_kept _ _ _ (State.takePks_kept _ _ _ (key _ _ h_s))

theorem execCreditWatchdog_kept {qs : List Instr} (n : Node) (s : State) (h_s : Kept none none qs s) : KeptO none none qs (execCreditWatchdog n
    s) := by
  unfold execCreditWatchdog
  repeat' first
    | with_reducible assumption | with_reducible apply State.dropCmd_kept | with_reducible apply State.dropWork_kept
    | with_reducible apply State.faultNode_kept | with_reducible apply State.endDrainWaits_kept
    | with_reducible apply State.afterTest_kept | with_reducible apply State.reclaim_kept
    | with_reducible apply State.count_kept | with_reducible apply State.raise_kept | with_reducible apply Kept_ite
    | with_reducible apply KeptO_next | with_reducible apply KeptO_ite | split | with_reducible intro _ _ _
    | with_reducible intro _ _ | with_reducible intro _ | dsimp only | with_reducible apply Kept_mk

theorem execFwFault_kept {dm : Option (Tbl Byte)} {qs : List Instr} (s : State) (h_s : Kept none dm qs s) : KeptO none dm qs (execFwFault s) :=
    by
  unfold execFwFault
  repeat' first
    | with_reducible assumption | with_reducible apply State.setRing_kept | with_reducible apply State.faultNode_kept
    | with_reducible apply State.setMode_kept | with_reducible apply Kept_ite | with_reducible apply KeptO_next
    | with_reducible apply KeptO_ite | with_reducible apply Kept_foldl | split | with_reducible intro _ _ _
    | with_reducible intro _ _ | with_reducible intro _ | dsimp only | with_reducible apply Kept_mk

theorem State.beginSleep_kept {qs : List Instr} (s : State) (h_s : Kept none none qs s) : Kept none none qs (State.beginSleep s) := by
  unfold State.beginSleep
  repeat' first
    | with_reducible assumption | with_reducible apply State.afterTest_kept | with_reducible apply State.breakTest_kept
    | with_reducible apply State.setSlice_kept | with_reducible apply State.wr_kept | with_reducible apply Kept_ite
    | with_reducible apply Kept_foldl | split | with_reducible intro _ _ _ | with_reducible intro _ _ | with_reducible intro _
    | dsimp only | with_reducible apply Kept_mk

theorem State.enterDev_kept {qs : List Instr} (s : State) (v : Nat) (h_s : Kept none none qs s) : Kept none none qs (State.enterDev s v) := by
  unfold State.enterDev
  repeat' first
    | with_reducible assumption | with_reducible apply State.beginSleep_kept | with_reducible apply State.wr_kept
    | with_reducible apply Kept_ite | split | with_reducible intro _ _ _ | with_reducible intro _ _ | with_reducible intro _
    | dsimp only

theorem execSysState_kept {qs : List Instr} (h : Hdr) (target : Nat) (s : State) (h_s : Kept none none qs s) : KeptO none none qs (execSysState h
    target s) := by
  unfold execSysState
  repeat' first
    | with_reducible assumption | with_reducible apply State.packet_kept | with_reducible apply State.complete_kept
    | with_reducible apply State.enterDev_kept | with_reducible apply Kept_ite | with_reducible apply KeptO_next
    | with_reducible apply KeptO_ite | split | with_reducible intro _ _ _ | with_reducible intro _ _ | with_reducible intro _
    | dsimp only

end Sys2Proof.Machine
end

