-- ==== Sys2Proof/Laws/KeptAccess.lean ====
section
/-!
SUPPORT. What rings and register accesses keep: one lemma a definition, that it leaves the memories in canonical form and the queue as it is, and host memory
(`hm`) or DRAM (`dm`) as well where the lemma leaves them general.
-/

set_option linter.all false

namespace Sys2Proof.Machine

theorem State.badDoorbell_kept {dm : Option (Tbl Byte)} {qs : List Instr} (s : State) (r : Fin 256) (h_s : Kept none dm qs s) : Kept none dm qs
    (State.badDoorbell s r) := by
  unfold State.badDoorbell
  repeat' first
    | with_reducible assumption | with_reducible apply State.haltRing_kept | with_reducible apply State.raise_kept
    | with_reducible apply Kept_ite | split | with_reducible intro _ _ _ | with_reducible intro _ _ | with_reducible intro _
    | dsimp only

theorem State.sqDoorbell_kept {dm : Option (Tbl Byte)} {qs : List Instr} (s : State) (r : Fin 256) (v : Nat) (h_s : Kept none dm qs s) : Kept
    none dm qs (State.sqDoorbell s r v) := by
  unfold State.sqDoorbell
  repeat' first
    | with_reducible assumption | with_reducible apply State.access_kept | with_reducible apply State.badDoorbell_kept
    | with_reducible apply State.wr_kept | with_reducible apply Kept_ite | split | with_reducible intro _ _ _
    | with_reducible intro _ _ | with_reducible intro _ | dsimp only

theorem execSubmissionDoorbell_kept {dm : Option (Tbl Byte)} {qs : List Instr} (r : Fin 256) (v : Word) (s : State) (h_s : Kept none dm qs s) :
    KeptO none dm qs (execSubmissionDoorbell r v s) := by
  unfold execSubmissionDoorbell
  repeat' first
    | with_reducible assumption | with_reducible apply State.hostAccess_kept | with_reducible apply State.sqDoorbell_kept
    | with_reducible apply Kept_ite | with_reducible apply KeptO_next | with_reducible apply KeptO_ite | split
    | with_reducible intro _ _ _ | with_reducible intro _ _ | with_reducible intro _ | dsimp only

theorem State.flushEvent_kept {dm : Option (Tbl Byte)} {qs : List Instr} (s : State) (h_s : Kept none dm qs s) : Kept none dm qs
    (State.flushEvent s) := by
  unfold State.flushEvent
  repeat' first
    | with_reducible assumption | with_reducible apply State.setRing_kept | with_reducible apply State.putCpl_kept
    | with_reducible apply State.wr_kept | with_reducible apply State.sendMsix_kept | with_reducible apply Kept_ite | split
    | with_reducible intro _ _ _ | with_reducible intro _ _ | with_reducible intro _ | dsimp only
    | with_reducible apply Kept_mk

theorem State.cqDoorbell_kept {dm : Option (Tbl Byte)} {qs : List Instr} (s : State) (r : Fin 256) (v : Nat) (h_s : Kept none dm qs s) : Kept
    none dm qs (State.cqDoorbell s r v) := by
  unfold State.cqDoorbell
  repeat' first
    | with_reducible assumption | with_reducible apply State.access_kept | with_reducible apply State.badDoorbell_kept
    | with_reducible apply State.wr_kept | with_reducible apply State.setRing_kept | with_reducible apply State.flushHeld_kept
    | with_reducible apply State.flushEvent_kept | with_reducible apply Kept_ite | split | with_reducible intro _ _ _
    | with_reducible intro _ _ | with_reducible intro _ | dsimp only | with_reducible apply Kept_mk

theorem execCompletionDoorbell_kept {dm : Option (Tbl Byte)} {qs : List Instr} (r : Fin 256) (v : Word) (s : State) (h_s : Kept none dm qs s) :
    KeptO none dm qs (execCompletionDoorbell r v s) := by
  unfold execCompletionDoorbell
  repeat' first
    | with_reducible assumption | with_reducible apply State.hostAccess_kept | with_reducible apply State.cqDoorbell_kept
    | with_reducible apply Kept_ite | with_reducible apply KeptO_next | with_reducible apply KeptO_ite | split
    | with_reducible intro _ _ _ | with_reducible intro _ _ | with_reducible intro _ | dsimp only

theorem State.resumeRing_kept {hm : Option (Tbl Byte)} {dm : Option (Tbl Byte)} {qs : List Instr} (s : State) (r : Fin 256) (h_s : Kept hm dm qs
    s) : Kept hm dm qs (State.resumeRing s r) := by
  unfold State.resumeRing
  repeat' first
    | with_reducible assumption | with_reducible apply State.wr_kept | with_reducible apply Kept_ite | split
    | with_reducible intro _ _ _ | with_reducible intro _ _ | with_reducible intro _ | dsimp only

theorem execRingResume_kept {hm : Option (Tbl Byte)} {dm : Option (Tbl Byte)} {qs : List Instr} (r : Fin 256) (s : State) (h_s : Kept hm dm qs s)
    : KeptO hm dm qs (execRingResume r s) := by
  unfold execRingResume
  repeat' first
    | with_reducible assumption | with_reducible apply State.hostAccess_kept | with_reducible apply State.resumeRing_kept
    | with_reducible apply Kept_ite | with_reducible apply KeptO_next | with_reducible apply KeptO_ite | split
    | with_reducible intro _ _ _ | with_reducible intro _ _ | with_reducible intro _ | dsimp only

theorem State.refuseUnknown_kept {dm : Option (Tbl Byte)} {qs : List Instr} (s : State) (r : Fin 256) (h_s : Kept none dm qs s) : ∀ y0 : List Fetched, Kept none dm qs (State.refuseUnknown s r y0) := by
  intro l
  induction l generalizing s with
  | nil => exact h_s
  | cons c cs ih =>
    unfold State.refuseUnknown
    split
    · exact ih _ (State.complete_kept _ _ _ _ (State.startPk_kept _ _ _ h_s))
    · exact h_s

theorem State.refuseAll_kept {dm : Option (Tbl Byte)} {qs : List Instr} (s : State) (h_s : Kept none dm qs s) : Kept none dm qs (State.refuseAll
    s) := by
  unfold State.refuseAll
  repeat' first
    | with_reducible assumption | with_reducible apply State.refuseUnknown_kept | with_reducible apply Kept_ite
    | with_reducible apply Kept_foldl | split | with_reducible intro _ _ _ | with_reducible intro _ _ | with_reducible intro _
    | dsimp only

theorem State.fetchFrom_kept {dm : Option (Tbl Byte)} {qs : List Instr} (s : State) (failed : Nat) (r : Fin 256) (h_s : Kept none dm qs s) : Kept
    none dm qs (State.fetchFrom s failed r) := by
  unfold State.fetchFrom
  repeat' first
    | with_reducible assumption | with_reducible apply State.usePoison_kept | with_reducible apply State.haltRing_kept
    | with_reducible apply State.wr_kept | with_reducible apply State.setRing_kept | with_reducible apply Kept_ite | split
    | with_reducible intro _ _ _ | with_reducible intro _ _ | with_reducible intro _ | dsimp only
    | with_reducible apply Kept_mk

theorem execPacketFetch_kept {dm : Option (Tbl Byte)} {qs : List Instr} (failed : Nat) (s : State) (h_s : Kept none dm qs s) : KeptO none dm qs
    (execPacketFetch failed s) := by
  unfold execPacketFetch
  repeat' first
    | with_reducible assumption | with_reducible apply State.refuseAll_kept | with_reducible apply State.fetchFrom_kept
    | with_reducible apply Kept_ite | with_reducible apply KeptO_next | with_reducible apply KeptO_ite | split
    | with_reducible intro _ _ _ | with_reducible intro _ _ | with_reducible intro _ | dsimp only
    | with_reducible apply Kept_mk

theorem execInterruptCoalTimeout_kept {hm : Option (Tbl Byte)} {dm : Option (Tbl Byte)} {qs : List Instr} (r : Fin 256) (s : State) (h_s : Kept
    hm dm qs s) : KeptO hm dm qs (execInterruptCoalTimeout r s) := by
  unfold execInterruptCoalTimeout
  repeat' first
    | with_reducible assumption | with_reducible apply State.advance_kept | with_reducible apply State.setRing_kept
    | with_reducible apply State.sendMsix_kept | with_reducible apply Kept_ite | with_reducible apply KeptO_next
    | with_reducible apply KeptO_ite | split | with_reducible intro _ _ _ | with_reducible intro _ _ | with_reducible intro _
    | dsimp only | with_reducible apply Kept_mk

theorem State.readBar2_kept {dm : Option (Tbl Byte)} {qs : List Instr} (s : State) (off len : Nat) (h_s : Kept none dm qs s) : Kept none dm qs
    (State.readBar2 s off len) := by
  unfold State.readBar2
  repeat' first
    | with_reducible assumption | with_reducible apply State.noteRead_kept | with_reducible apply State.usePoison_kept
    | with_reducible apply State.put_kept | with_reducible apply State.raiseIf_kept | with_reducible apply Kept_ite
    | with_reducible apply Kept_foldl | split | with_reducible intro _ _ _ | with_reducible intro _ _ | with_reducible intro _
    | dsimp only | with_reducible apply Kept_mk

theorem execBar2Read_kept {dm : Option (Tbl Byte)} {qs : List Instr} (off len : Nat) (s : State) (h_s : Kept none dm qs s) : KeptO none dm qs
    (execBar2Read off len s) := by
  unfold execBar2Read
  repeat' first
    | with_reducible assumption | with_reducible apply State.put_kept | with_reducible apply State.hostAccess_kept
    | with_reducible apply State.readBar2_kept | with_reducible apply Kept_ite | with_reducible apply KeptO_next
    | with_reducible apply KeptO_ite | split | with_reducible intro _ _ _ | with_reducible intro _ _ | with_reducible intro _
    | dsimp only

theorem State.writeBar2_kept {qs : List Instr} (s : State) (off : Nat) (data : List Byte) (h_s : Kept none none qs s) : Kept none none qs
    (State.writeBar2 s off data) := by
  unfold State.writeBar2
  repeat' first
    | with_reducible assumption | with_reducible apply State.dramWrite_kept | with_reducible apply State.raiseIf_kept
    | with_reducible apply Kept_ite | split | with_reducible intro _ _ _ | with_reducible intro _ _ | with_reducible intro _
    | dsimp only

theorem execBar2Write_kept {qs : List Instr} (off : Nat) (data : List Byte) (s : State) (h_s : Kept none none qs s) : KeptO none none qs
    (execBar2Write off data s) := by
  unfold execBar2Write
  repeat' first
    | with_reducible assumption | with_reducible apply State.hostAccess_kept | with_reducible apply State.writeBar2_kept
    | with_reducible apply Kept_ite | with_reducible apply KeptO_next | with_reducible apply KeptO_ite | split
    | with_reducible intro _ _ _ | with_reducible intro _ _ | with_reducible intro _ | dsimp only

theorem State.writeField_kept {hm : Option (Tbl Byte)} {dm : Option (Tbl Byte)} {qs : List Instr} (s : State) (f : FRef) (ty : FieldTy) (locked :
    Bool) (v : Nat) (h_s : Kept hm dm qs s) : Kept hm dm qs (State.writeField s f ty locked v) := by
  unfold State.writeField
  repeat' first
    | with_reducible assumption | with_reducible apply State.wr_kept | with_reducible apply Kept_ite | split
    | with_reducible intro _ _ _ | with_reducible intro _ _ | with_reducible intro _ | dsimp only
    | with_reducible apply Kept_mk

theorem State.writeFields_kept {hm : Option (Tbl Byte)} {dm : Option (Tbl Byte)} {qs : List Instr} (s : State) (h : Hit) (lo w val : Nat) (h_s :
    Kept hm dm qs s) : Kept hm dm qs (State.writeFields s h lo w val) := by
  unfold State.writeFields
  repeat' first
    | with_reducible assumption | with_reducible apply State.writeField_kept | with_reducible apply Kept_ite
    | with_reducible apply Kept_foldl | split | with_reducible intro _ _ _ | with_reducible intro _ _ | with_reducible intro _
    | dsimp only | with_reducible apply Kept_mk

theorem State.writeCtrl_kept {qs : List Instr} (s : State) (n : Node) (v : Nat) (h_s : Kept none none qs s) : Kept none none qs (State.writeCtrl
    s n v) := by
  unfold State.writeCtrl
  repeat' first
    | with_reducible assumption | with_reducible apply State.ctrlReset_kept | with_reducible apply State.ctrlAbort_kept
    | with_reducible apply State.ctrlEnable_kept | with_reducible apply State.ctrlQuiesce_kept | with_reducible apply Kept_ite
    | split | with_reducible intro _ _ _ | with_reducible intro _ _ | with_reducible intro _ | dsimp only
    | with_reducible apply Kept_mk

theorem State.writeEvent_kept {dm : Option (Tbl Byte)} {qs : List Instr} (s : State) (n : Node) (v : Nat) (h_s : Kept none dm qs s) : Kept none
    dm qs (State.writeEvent s n v) := by
  unfold State.writeEvent
  repeat' first
    | with_reducible assumption | with_reducible apply State.settle_kept | with_reducible apply Kept_ite | split
    | with_reducible intro _ _ _ | with_reducible intro _ _ | with_reducible intro _ | dsimp only
    | with_reducible apply Kept_mk

theorem State.writeRingCfg_kept {dm : Option (Tbl Byte)} {qs : List Instr} (s : State) (h : Hit) (r : Fin 256) (v : Nat) (h_s : Kept none dm qs
    s) : Kept none dm qs (State.writeRingCfg s h r v) := by
  unfold State.writeRingCfg
  repeat' first
    | with_reducible assumption | with_reducible apply State.writeFields_kept | with_reducible apply State.wr_kept
    | with_reducible apply State.access_kept | with_reducible apply Kept_ite | split | with_reducible intro _ _ _
    | with_reducible intro _ _ | with_reducible intro _ | dsimp only

theorem State.writeRingStatus_kept {hm : Option (Tbl Byte)} {dm : Option (Tbl Byte)} {qs : List Instr} (s : State) (h : Hit) (r : Fin 256) (v :
    Nat) (h_s : Kept hm dm qs s) : Kept hm dm qs (State.writeRingStatus s h r v) := by
  unfold State.writeRingStatus
  repeat' first
    | with_reducible assumption | with_reducible apply State.writeFields_kept | with_reducible apply State.resumeRing_kept
    | with_reducible apply Kept_ite | split | with_reducible intro _ _ _ | with_reducible intro _ _ | with_reducible intro _
    | dsimp only

theorem State.writeShift_kept {hm : Option (Tbl Byte)} {dm : Option (Tbl Byte)} {qs : List Instr} (s : State) (g v : Nat) (h_s : Kept hm dm qs s)
    : Kept hm dm qs (State.writeShift s g v) := by
  unfold State.writeShift
  repeat' first
    | with_reducible assumption | with_reducible apply State.applyChange_kept | with_reducible apply Kept_ite | split
    | with_reducible intro _ _ _ | with_reducible intro _ _ | with_reducible intro _ | dsimp only
    | with_reducible apply Kept_mk

theorem State.writeLaneCtrl_kept {dm : Option (Tbl Byte)} {qs : List Instr} (s : State) (l : LaneId) (v : Nat) (h_s : Kept none dm qs s) : Kept
    none dm qs (State.writeLaneCtrl s l v) := by
  unfold State.writeLaneCtrl
  repeat' first
    | with_reducible assumption | with_reducible apply State.wrB_kept | with_reducible apply State.access_kept
    | with_reducible apply State.writeRate_kept | with_reducible apply State.writeStart_kept | with_reducible apply Kept_ite
    | split | with_reducible intro _ _ _ | with_reducible intro _ _ | with_reducible intro _ | dsimp only
    | with_reducible apply Kept_mk

theorem State.writeCamCtrl_kept {dm : Option (Tbl Byte)} {qs : List Instr} (s : State) (cam : Fin 8) (v : Nat) (h_s : Kept none dm qs s) : Kept
    none dm qs (State.writeCamCtrl s cam v) := by
  unfold State.writeCamCtrl
  repeat' first
    | with_reducible assumption | with_reducible apply State.wr_kept | with_reducible apply State.put_kept
    | with_reducible apply State.writeCommit_kept | with_reducible apply Kept_ite | split | with_reducible intro _ _ _
    | with_reducible intro _ _ | with_reducible intro _ | dsimp only

theorem State.writeCalCfg_kept {hm : Option (Tbl Byte)} {dm : Option (Tbl Byte)} {qs : List Instr} (s : State) (h : Hit) (v : Nat) (h_s : Kept hm
    dm qs s) : Kept hm dm qs (State.writeCalCfg s h v) := by
  unfold State.writeCalCfg
  repeat' first
    | with_reducible assumption | with_reducible apply State.writeFields_kept | with_reducible apply State.voidAll_kept
    | with_reducible apply Kept_ite | split | with_reducible intro _ _ _ | with_reducible intro _ _ | with_reducible intro _
    | dsimp only

theorem State.laneAct_kept {dm : Option (Tbl Byte)} {qs : List Instr} (s : State) (l : LaneId) (off val : Nat) (h_s : Kept none dm qs s) : KeptOpt none dm qs (State.laneAct s l off val) := by
  intro t ht
  unfold State.laneAct at ht
  split at ht
  · cases ht; exact State.writeLaneCtrl_kept _ _ _ h_s
  · cases ht

theorem State.writeAct_kept {qs : List Instr} (s : State) (h : Hit) (off val : Nat) (h_s : Kept none none qs s) : KeptOpt none none qs (State.writeAct s h off val) := by
  obtain ⟨node, reg, idx, word⟩ := h
  cases node <;> delta State.writeAct <;> dsimp only <;>
  repeat' first
    | with_reducible assumption
    | with_reducible apply KeptOpt_ite
    | with_reducible apply KeptOpt_none
    | with_reducible apply State.laneAct_kept
    | with_reducible apply KeptOpt_some
    | with_reducible apply Kept_ite
    | with_reducible apply State.writeCtrl_kept
    | with_reducible apply State.writeEvent_kept
    | with_reducible apply State.settle_kept
    | with_reducible apply State.writeFields_kept
    | with_reducible apply State.writeRingCfg_kept
    | with_reducible apply State.sqDoorbell_kept
    | with_reducible apply State.cqDoorbell_kept
    | with_reducible apply State.writeRingStatus_kept
    | with_reducible apply State.writeShift_kept
    | with_reducible apply State.writeCalCfg_kept
    | with_reducible apply State.writeCamCtrl_kept
    | with_reducible apply State.tbRateWrite_kept
    | with_reducible apply State.tbSet_kept
    | with_reducible apply State.axWrite_kept
    | with_reducible apply State.writeTallyClr_kept
    | with_reducible apply State.writeProg_kept
    | with_reducible apply State.startWake_kept

theorem State.writeReg_kept {qs : List Instr} (s : State) (h : Hit) (lo w val : Nat) (h_s : Kept none none qs s) : Kept none none qs (State.writeReg s h lo w val) := by
  unfold State.writeReg
  dsimp only
  split
  · exact State.access_kept _ _ h_s
  · split
    · rename_i t ht
      exact State.writeAct_kept _ _ _ _ h_s _ ht
    · exact State.writeFields_kept _ _ _ _ _ h_s

theorem State.writeWord_kept {qs : List Instr} (s : State) (h : Hit) (dw v : Nat) (h_s : Kept none none qs s) : Kept none none qs
    (State.writeWord s h dw v) := by
  unfold State.writeWord
  repeat' first
    | with_reducible assumption | with_reducible apply State.access_kept | with_reducible apply State.writeReg_kept
    | with_reducible apply Kept_ite | split | with_reducible intro _ _ _ | with_reducible intro _ _ | with_reducible intro _
    | dsimp only | with_reducible apply Kept_mk

theorem State.capture_kept {hm : Option (Tbl Byte)} {dm : Option (Tbl Byte)} {qs : List Instr} (s : State) (h : Hit) (dw : Nat) (h_s : Kept hm dm
    qs s) : Kept hm dm qs (State.capture s h dw) := by
  unfold State.capture
  repeat' first
    | with_reducible assumption | with_reducible apply Kept_ite | with_reducible apply Kept_foldl | split
    | with_reducible intro _ _ _ | with_reducible intro _ _ | with_reducible intro _ | dsimp only
    | with_reducible apply Kept_mk

theorem State.readClear_kept {hm : Option (Tbl Byte)} {dm : Option (Tbl Byte)} {qs : List Instr} (s : State) (h : Hit) (inc : Nat) (h_s : Kept hm
    dm qs s) : Kept hm dm qs (State.readClear s h inc) := by
  unfold State.readClear
  repeat' first
    | with_reducible assumption | with_reducible apply State.wr_kept | with_reducible apply Kept_ite
    | with_reducible apply Kept_foldl | split | with_reducible intro _ _ _ | with_reducible intro _ _ | with_reducible intro _
    | dsimp only

theorem State.msixWrite_kept {hm : Option (Tbl Byte)} {dm : Option (Tbl Byte)} {qs : List Instr} (s : State) (off val : Nat) (h_s : Kept hm dm qs
    s) : Kept hm dm qs (State.msixWrite s off val) := by
  unfold State.msixWrite
  repeat' first
    | with_reducible assumption | with_reducible apply State.wr_kept | with_reducible apply State.sendMsix_kept
    | with_reducible apply Kept_ite | split | with_reducible intro _ _ _ | with_reducible intro _ _ | with_reducible intro _
    | dsimp only

theorem State.granWord_kept {hm : Option (Tbl Byte)} {dm : Option (Tbl Byte)} {qs : List Instr} (s : State) (a : Nat) (h_s : Kept hm dm qs s) :
    Kept hm dm qs (State.granWord s a).2 := by
  unfold State.granWord
  repeat' first
    | with_reducible assumption | with_reducible apply Kept_ite | split | with_reducible intro _ _ _
    | with_reducible intro _ _ | with_reducible intro _ | dsimp only | with_reducible apply Kept_mk

theorem State.granWrite_kept {hm : Option (Tbl Byte)} {dm : Option (Tbl Byte)} {qs : List Instr} (s : State) (a v : Nat) (h_s : Kept hm dm qs s) : Kept hm dm qs (State.granWrite s a v) := by
  have h1 := Kept_host h_s
  have h2 := Kept_dram h_s
  have h3 := Kept_nmap h_s
  have h4 := Kept_ncal h_s
  have h5 := Kept_thresh h_s
  have h6 := Kept_levels h_s
  unfold State.granWrite
  split
  · exact Kept_parts h_s h1 h2 (twf_tset h3 _ _) h4 h5 h6
  · split
    · exact Kept_parts h_s h1 h2 h3 (twf_tset h4 _ _) h5 h6
    · split
      · exact Kept_parts h_s h1 h2 h3 h4 (twf_tsets h5 _ _) h6
      · split
        · exact State.setHead_kept _ _ _ h_s
        · exact Kept_mk h_s

theorem State.readNow_kept {dm : Option (Tbl Byte)} {qs : List Instr} (s : State) (dw : Nat) (be : BitVec 4) (inc : Nat) (h_s : Kept none dm qs
    s) : Kept none dm qs (State.readNow s dw be inc) := by
  unfold State.readNow
  repeat' first
    | with_reducible assumption | with_reducible apply State.granWord_kept | with_reducible apply State.put_kept
    | with_reducible apply State.access_kept | with_reducible apply State.readAuditIndex_kept
    | with_reducible apply State.capture_kept | with_reducible apply State.readClear_kept | with_reducible apply Kept_ite
    | split | with_reducible intro _ _ _ | with_reducible intro _ _ | with_reducible intro _ | dsimp only
    | with_reducible apply Kept_mk

theorem State.barRead_kept {dm : Option (Tbl Byte)} {qs : List Instr} (s : State) (dw : Nat) (be : BitVec 4) (inc : Nat) (i : Instr) (h_s : Kept
    none dm qs s) : Kept none dm qs (State.barRead s dw be inc i) := by
  unfold State.barRead
  repeat' first
    | with_reducible assumption | with_reducible apply State.put_kept | with_reducible apply State.hostAt_kept
    | with_reducible apply State.readNow_kept | with_reducible apply Kept_ite | split | with_reducible intro _ _ _
    | with_reducible intro _ _ | with_reducible intro _ | dsimp only

theorem State.writeNow_kept {qs : List Instr} (s : State) (dw : Nat) (be : BitVec 4) (v : Nat) (h_s : Kept none none qs s) : Kept none none qs
    (State.writeNow s dw be v) := by
  unfold State.writeNow
  repeat' first
    | with_reducible assumption | with_reducible apply State.access_kept | with_reducible apply State.granWrite_kept
    | with_reducible apply State.msixWrite_kept | with_reducible apply State.writeWord_kept | with_reducible apply Kept_ite
    | split | with_reducible intro _ _ _ | with_reducible intro _ _ | with_reducible intro _ | dsimp only
    | with_reducible apply Kept_mk

theorem State.barWrite_kept {qs : List Instr} (s : State) (dw : Nat) (be : BitVec 4) (v : Nat) (i : Instr) (h_s : Kept none none qs s) : Kept
    none none qs (State.barWrite s dw be v i) := by
  unfold State.barWrite
  repeat' first
    | with_reducible assumption | with_reducible apply State.hostAt_kept | with_reducible apply State.writeNow_kept
    | with_reducible apply Kept_ite | split | with_reducible intro _ _ _ | with_reducible intro _ _ | with_reducible intro _
    | dsimp only

theorem execRegisterWrite_kept {qs : List Instr} (dw : Nat) (be : BitVec 4) (v : Word) (s : State) (h_s : Kept none none qs s) : KeptO none none
    qs (execRegisterWrite dw be v s) := by
  unfold execRegisterWrite
  repeat' first
    | with_reducible assumption | with_reducible apply State.barWrite_kept | with_reducible apply Kept_ite
    | with_reducible apply KeptO_next | with_reducible apply KeptO_ite | split | with_reducible intro _ _ _
    | with_reducible intro _ _ | with_reducible intro _ | dsimp only

theorem execLowWordRead_kept {dm : Option (Tbl Byte)} {qs : List Instr} (dw : Nat) (be : BitVec 4) (s : State) (h_s : Kept none dm qs s) : KeptO
    none dm qs (execLowWordRead dw be s) := by
  unfold execLowWordRead
  repeat' first
    | with_reducible assumption | with_reducible apply State.barRead_kept | with_reducible apply Kept_ite
    | with_reducible apply KeptO_next | with_reducible apply KeptO_ite | split | with_reducible intro _ _ _
    | with_reducible intro _ _ | with_reducible intro _ | dsimp only

theorem execAuditIndexRead_kept {dm : Option (Tbl Byte)} {qs : List Instr} (s : State) (h_s : Kept none dm qs s) : KeptO none dm qs
    (execAuditIndexRead s) := by
  unfold execAuditIndexRead
  repeat' first
    | with_reducible assumption | with_reducible apply State.barRead_kept | with_reducible apply Kept_ite
    | with_reducible apply KeptO_next | with_reducible apply KeptO_ite | split | with_reducible intro _ _ _
    | with_reducible intro _ _ | with_reducible intro _ | dsimp only

theorem execRcFieldRead_kept {dm : Option (Tbl Byte)} {qs : List Instr} (dw inc : Nat) (s : State) (h_s : Kept none dm qs s) : KeptO none dm qs
    (execRcFieldRead dw inc s) := by
  unfold execRcFieldRead
  repeat' first
    | with_reducible assumption | with_reducible apply State.barRead_kept | with_reducible apply Kept_ite
    | with_reducible apply KeptO_next | with_reducible apply KeptO_ite | split | with_reducible intro _ _ _
    | with_reducible intro _ _ | with_reducible intro _ | dsimp only

theorem execUnmappedAccess_kept {qs : List Instr} (dw : Nat) (write : Bool) (s : State) (h_s : Kept none none qs s) : KeptO none none qs
    (execUnmappedAccess dw write s) := by
  unfold execUnmappedAccess
  repeat' first
    | with_reducible assumption | with_reducible apply State.barWrite_kept | with_reducible apply State.barRead_kept
    | with_reducible apply Kept_ite | with_reducible apply KeptO_next | with_reducible apply KeptO_ite | split
    | with_reducible intro _ _ _ | with_reducible intro _ _ | with_reducible intro _ | dsimp only

theorem State.runAccess_kept {qs : List Instr} (s : State) (i : Instr) (h_s : Kept none none qs s) : Kept none none qs (State.runAccess s i) :=
    by
  unfold State.runAccess
  repeat' first
    | with_reducible assumption | with_reducible apply State.barWrite_kept | with_reducible apply State.barRead_kept
    | with_reducible apply State.hostAccess_kept | with_reducible apply State.ctrlEnable_kept
    | with_reducible apply State.ctrlQuiesce_kept | with_reducible apply State.ctrlAbort_kept
    | with_reducible apply State.ctrlReset_kept | with_reducible apply State.sqDoorbell_kept
    | with_reducible apply State.cqDoorbell_kept | with_reducible apply State.resumeRing_kept
    | with_reducible apply State.readBar2_kept | with_reducible apply State.writeBar2_kept
    | with_reducible apply State.writeStart_kept | with_reducible apply State.writeRate_kept
    | with_reducible apply State.writeCommit_kept | with_reducible apply State.tbSet_kept
    | with_reducible apply State.tbRateWrite_kept | with_reducible apply State.axWrite_kept
    | with_reducible apply State.writeTallyClr_kept | with_reducible apply State.wrB_kept
    | with_reducible apply State.writeProg_kept | with_reducible apply Kept_ite | split | with_reducible intro _ _ _
    | with_reducible intro _ _ | with_reducible intro _ | dsimp only | with_reducible apply Kept_mk

theorem execWakeDone_kept {qs : List Instr} (t : Nat) (s : State) (h_s : Kept none none qs s) : KeptO none none qs (execWakeDone t s) := by
  unfold execWakeDone
  repeat' first
    | with_reducible assumption | with_reducible apply State.advance_kept | with_reducible apply State.wakeUp_kept
    | with_reducible apply State.runAccess_kept | with_reducible apply Kept_ite | with_reducible apply KeptO_next
    | with_reducible apply KeptO_ite | with_reducible apply Kept_foldl | split | with_reducible intro _ _ _
    | with_reducible intro _ _ | with_reducible intro _ | dsimp only | with_reducible apply Kept_mk

theorem execSysCtrlWake_kept {hm : Option (Tbl Byte)} {dm : Option (Tbl Byte)} {qs : List Instr} (s : State) (h_s : Kept hm dm qs s) : KeptO hm
    dm qs (execSysCtrlWake s) := by
  unfold execSysCtrlWake
  repeat' first
    | with_reducible assumption | with_reducible apply State.hostAccess_kept | with_reducible apply State.startWake_kept
    | with_reducible apply Kept_ite | with_reducible apply KeptO_next | with_reducible apply KeptO_ite | split
    | with_reducible intro _ _ _ | with_reducible intro _ _ | with_reducible intro _ | dsimp only

end Sys2Proof.Machine
end

