-- ==== Sys2Proof/Laws/Node.lean ====
section
/-!
SUPPORT. The unit tree and the offsets of its nodes.
-/

namespace Sys2Proof.Machine

theorem Node.sibling_at {n : Nat} (k : Fin n) (first stride : Nat) (group : Node) (mk : Fin n → Node) (hs : 0 < stride) :
    Node.sibling (first + stride * k.val) first stride group mk = mk k := by
  have h0 : stride * k.val / stride = k.val := Nat.mul_div_cancel_left _ hs
  have h1 : ¬ first + stride * k.val < first := by omega
  simp [Node.sibling, h0, h1]

/-- The node that encloses the first byte of a node is that node. -/
theorem Node.ofOffset_base (n : Node) : Node.ofOffset n.base = n := by
  cases n with
  | ring k =>
    have := k.isLt
    have h1 : (0x110400 + 0x400 * k.val) / 0x100000 = 1 := by omega
    have h2 : (0x110400 + 0x400 * k.val) % 0x100000 - 0x10000 = 0x400 + 0x400 * k.val := by omega
    have h3 : ¬ ((0x110400 + 0x400 * k.val) % 0x100000 < 0x10000 ∨ 0x10000 + 257 * 1024 ≤ (0x110400 + 0x400 * k.val) % 0x100000) := by omega
    simp only [Node.base, Node.ofOffset, h1, h2, if_neg h3]
    exact Node.sibling_at k _ _ _ _ (by decide)
  | thresher k =>
    have := k.isLt
    have h1 : (0x211000 + 0x1000 * k.val) / 0x100000 = 2 := by omega
    have h2 : (0x211000 + 0x1000 * k.val) % 0x100000 - 0x10000 = 0x1000 + 0x1000 * k.val := by omega
    simp only [Node.base, Node.ofOffset, h1, h2]
    rw [if_neg (by omega), if_pos (by omega), if_neg (by omega)]
    exact Node.sibling_at k _ _ _ _ (by decide)
  | compressor k =>
    have := k.isLt
    have h1 : (0x221000 + 0x1000 * k.val) / 0x100000 = 2 := by omega
    have h2 : (0x221000 + 0x1000 * k.val) % 0x100000 - 0x20000 = 0x1000 + 0x1000 * k.val := by omega
    simp only [Node.base, Node.ofOffset, h1, h2]
    rw [if_neg (by omega), if_neg (by omega)]
    exact Node.sibling_at k _ _ _ _ (by decide)
  | slice k =>
    have := k.isLt
    have h1 : (0x411000 + 0x1000 * k.val) / 0x100000 = 4 := by omega
    have h2 : (0x411000 + 0x1000 * k.val) % 0x100000 - 0x10000 = 0x1000 + 0x1000 * k.val := by omega
    simp only [Node.base, Node.ofOffset, h1, h2]
    rw [if_neg (by omega)]
    exact Node.sibling_at k _ _ _ _ (by decide)
  | head k =>
    have := k.isLt
    have h1 : (0x540000 + 0x4000 * k.val) / 0x100000 = 5 := by omega
    have h2 : (0x540000 + 0x4000 * k.val) % 0x100000 - 0x40000 = 0 + 0x4000 * k.val := by omega
    simp only [Node.base, Node.ofOffset, h1, h2]
    rw [if_neg (by omega)]
    exact Node.sibling_at k _ _ _ _ (by decide)
  | cam k =>
    have := k.isLt
    have h1 : (0x714000 + 0x4000 * k.val) / 0x100000 = 7 := by omega
    have h2 : (0x714000 + 0x4000 * k.val) % 0x100000 - 0x10000 = 0x4000 + 0x4000 * k.val := by omega
    simp only [Node.base, Node.ofOffset, h1, h2]
    rw [if_neg (by omega)]
    exact Node.sibling_at k _ _ _ _ (by decide)
  | port k =>
    have := k.isLt
    have h1 : (0xA14000 + 0x4000 * k.val) / 0x100000 = 10 := by omega
    have h2 : (0xA14000 + 0x4000 * k.val) % 0x100000 - 0x10000 = 0x4000 + 0x4000 * k.val := by omega
    simp only [Node.base, Node.ofOffset, h1, h2]
    rw [if_neg (by omega)]
    exact Node.sibling_at k _ _ _ _ (by decide)
  | axis k =>
    have := k.isLt
    have h1 : (0xB11000 + 0x1000 * k.val) / 0x100000 = 11 := by omega
    have h2 : (0xB11000 + 0x1000 * k.val) % 0x100000 - 0x10000 = 0x1000 + 0x1000 * k.val := by omega
    simp only [Node.base, Node.ofOffset, h1, h2]
    rw [if_neg (by omega)]
    exact Node.sibling_at k _ _ _ _ (by decide)
  | ylane k =>
    have := k.isLt
    have h1 : (0xC14000 + 0x4000 * k.val) / 0x100000 = 12 := by omega
    have h2 : (0xC14000 + 0x4000 * k.val) % 0x100000 - 0x10000 = 0x4000 + 0x4000 * k.val := by omega
    simp only [Node.base, Node.ofOffset, h1, h2]
    rw [if_neg (by omega)]
    exact Node.sibling_at k _ _ _ _ (by decide)
  | _ => rfl

/-- A node found by its offset. -/
@[simp] theorem Node.atBase_base (n : Node) : Node.atBase n.base = some n := by simp [Node.atBase, Node.ofOffset_base]

/-- No two nodes share a base. -/
theorem Node.base_injective {a b : Node} (h : a.base = b.base) : a = b := by
  rw [← Node.ofOffset_base a, ← Node.ofOffset_base b, h]

end Sys2Proof.Machine
end

