-- ==== Sys2Proof/Laws/State.lean ====
section
/-!
SUPPORT. The updates of the state, field by field: an update changes its own field and leaves every other one.  Each lemma is a
simplification rule, so that no proof unfolds a record update.
-/

namespace Sys2Proof.Machine

/-! ## `State.wr` -/

@[simp] theorem State.wr_pending (s : State) (f : FRef) (v : Nat) : (s.wr f v).pending = s.pending := rfl
@[simp] theorem State.wr_now (s : State) (f : FRef) (v : Nat) : (s.wr f v).now = s.now := rfl
@[simp] theorem State.wr_fresh (s : State) (f : FRef) (v : Nat) : (s.wr f v).fresh = s.fresh := rfl
@[simp] theorem State.wr_locked (s : State) (f : FRef) (v : Nat) : (s.wr f v).locked = s.locked := rfl
@[simp] theorem State.wr_captured (s : State) (f : FRef) (v : Nat) : (s.wr f v).captured = s.captured := rfl
@[simp] theorem State.wr_staged (s : State) (f : FRef) (v : Nat) : (s.wr f v).staged = s.staged := rfl
@[simp] theorem State.wr_shadow (s : State) (f : FRef) (v : Nat) : (s.wr f v).shadow = s.shadow := rfl
@[simp] theorem State.wr_events (s : State) (f : FRef) (v : Nat) : (s.wr f v).events = s.events := rfl
@[simp] theorem State.wr_modes (s : State) (f : FRef) (v : Nat) : (s.wr f v).modes = s.modes := rfl
@[simp] theorem State.wr_heldCtrl (s : State) (f : FRef) (v : Nat) : (s.wr f v).heldCtrl = s.heldCtrl := rfl
@[simp] theorem State.wr_sysReported (s : State) (f : FRef) (v : Nat) : (s.wr f v).sysReported = s.sysReported := rfl
@[simp] theorem State.wr_sent (s : State) (f : FRef) (v : Nat) : (s.wr f v).sent = s.sent := rfl
@[simp] theorem State.wr_host (s : State) (f : FRef) (v : Nat) : (s.wr f v).host = s.host := rfl
@[simp] theorem State.wr_hostMarks (s : State) (f : FRef) (v : Nat) : (s.wr f v).hostMarks = s.hostMarks := rfl
@[simp] theorem State.wr_dram (s : State) (f : FRef) (v : Nat) : (s.wr f v).dram = s.dram := rfl
@[simp] theorem State.wr_dramPoison (s : State) (f : FRef) (v : Nat) : (s.wr f v).dramPoison = s.dramPoison := rfl
@[simp] theorem State.wr_dramErr (s : State) (f : FRef) (v : Nat) : (s.wr f v).dramErr = s.dramErr := rfl
@[simp] theorem State.wr_ceRows (s : State) (f : FRef) (v : Nat) : (s.wr f v).ceRows = s.ceRows := rfl
@[simp] theorem State.wr_retired (s : State) (f : FRef) (v : Nat) : (s.wr f v).retired = s.retired := rfl
@[simp] theorem State.wr_remaps (s : State) (f : FRef) (v : Nat) : (s.wr f v).remaps = s.remaps := rfl
@[simp] theorem State.wr_memLog (s : State) (f : FRef) (v : Nat) : (s.wr f v).memLog = s.memLog := rfl
@[simp] theorem State.wr_mem (s : State) (f : FRef) (v : Nat) : (s.wr f v).mem = s.mem := rfl
@[simp] theorem State.wr_tallies (s : State) (f : FRef) (v : Nat) : (s.wr f v).tallies = s.tallies := rfl
@[simp] theorem State.wr_rings (s : State) (f : FRef) (v : Nat) : (s.wr f v).rings = s.rings := rfl
@[simp] theorem State.wr_pkEpoch (s : State) (f : FRef) (v : Nat) : (s.wr f v).pkEpoch = s.pkEpoch := rfl
@[simp] theorem State.wr_arbRing (s : State) (f : FRef) (v : Nat) : (s.wr f v).arbRing = s.arbRing := rfl
@[simp] theorem State.wr_arbLeft (s : State) (f : FRef) (v : Nat) : (s.wr f v).arbLeft = s.arbLeft := rfl
@[simp] theorem State.wr_drains (s : State) (f : FRef) (v : Nat) : (s.wr f v).drains = s.drains := rfl
@[simp] theorem State.wr_holdings (s : State) (f : FRef) (v : Nat) : (s.wr f v).holdings = s.holdings := rfl
@[simp] theorem State.wr_ctxs (s : State) (f : FRef) (v : Nat) : (s.wr f v).ctxs = s.ctxs := rfl
@[simp] theorem State.wr_globalLine (s : State) (f : FRef) (v : Nat) : (s.wr f v).globalLine = s.globalLine := rfl
@[simp] theorem State.wr_handles (s : State) (f : FRef) (v : Nat) : (s.wr f v).handles = s.handles := rfl
@[simp] theorem State.wr_baleJobs (s : State) (f : FRef) (v : Nat) : (s.wr f v).baleJobs = s.baleJobs := rfl
@[simp] theorem State.wr_holders (s : State) (f : FRef) (v : Nat) : (s.wr f v).holders = s.holders := rfl
@[simp] theorem State.wr_gangs (s : State) (f : FRef) (v : Nat) : (s.wr f v).gangs = s.gangs := rfl
@[simp] theorem State.wr_nmap (s : State) (f : FRef) (v : Nat) : (s.wr f v).nmap = s.nmap := rfl
@[simp] theorem State.wr_nmapBad (s : State) (f : FRef) (v : Nat) : (s.wr f v).nmapBad = s.nmapBad := rfl
@[simp] theorem State.wr_ncal (s : State) (f : FRef) (v : Nat) : (s.wr f v).ncal = s.ncal := rfl
@[simp] theorem State.wr_ncalBad (s : State) (f : FRef) (v : Nat) : (s.wr f v).ncalBad = s.ncalBad := rfl
@[simp] theorem State.wr_thresh (s : State) (f : FRef) (v : Nat) : (s.wr f v).thresh = s.thresh := rfl
@[simp] theorem State.wr_threshBad (s : State) (f : FRef) (v : Nat) : (s.wr f v).threshBad = s.threshBad := rfl
@[simp] theorem State.wr_levels (s : State) (f : FRef) (v : Nat) : (s.wr f v).levels = s.levels := rfl
@[simp] theorem State.wr_levelsBad (s : State) (f : FRef) (v : Nat) : (s.wr f v).levelsBad = s.levelsBad := rfl
@[simp] theorem State.wr_tableChanges (s : State) (f : FRef) (v : Nat) : (s.wr f v).tableChanges = s.tableChanges := rfl
@[simp] theorem State.wr_dueChanges (s : State) (f : FRef) (v : Nat) : (s.wr f v).dueChanges = s.dueChanges := rfl
@[simp] theorem State.wr_slices (s : State) (f : FRef) (v : Nat) : (s.wr f v).slices = s.slices := rfl
@[simp] theorem State.wr_rotNext (s : State) (f : FRef) (v : Nat) : (s.wr f v).rotNext = s.rotNext := rfl
@[simp] theorem State.wr_rowCache (s : State) (f : FRef) (v : Nat) : (s.wr f v).rowCache = s.rowCache := rfl
@[simp] theorem State.wr_rotAt (s : State) (f : FRef) (v : Nat) : (s.wr f v).rotAt = s.rotAt := rfl
@[simp] theorem State.wr_lanes (s : State) (f : FRef) (v : Nat) : (s.wr f v).lanes = s.lanes := rfl
@[simp] theorem State.wr_trainPks (s : State) (f : FRef) (v : Nat) : (s.wr f v).trainPks = s.trainPks := rfl
@[simp] theorem State.wr_latPks (s : State) (f : FRef) (v : Nat) : (s.wr f v).latPks = s.latPks := rfl
@[simp] theorem State.wr_heads (s : State) (f : FRef) (v : Nat) : (s.wr f v).heads = s.heads := rfl
@[simp] theorem State.wr_encs (s : State) (f : FRef) (v : Nat) : (s.wr f v).encs = s.encs := rfl
@[simp] theorem State.wr_syns (s : State) (f : FRef) (v : Nat) : (s.wr f v).syns = s.syns := rfl
@[simp] theorem State.wr_cmps (s : State) (f : FRef) (v : Nat) : (s.wr f v).cmps = s.cmps := rfl
@[simp] theorem State.wr_latches (s : State) (f : FRef) (v : Nat) : (s.wr f v).latches = s.latches := rfl
@[simp] theorem State.wr_divs (s : State) (f : FRef) (v : Nat) : (s.wr f v).divs = s.divs := rfl
@[simp] theorem State.wr_tbs (s : State) (f : FRef) (v : Nat) : (s.wr f v).tbs = s.tbs := rfl
@[simp] theorem State.wr_ptp (s : State) (f : FRef) (v : Nat) : (s.wr f v).ptp = s.ptp := rfl
@[simp] theorem State.wr_axes (s : State) (f : FRef) (v : Nat) : (s.wr f v).axes = s.axes := rfl
@[simp] theorem State.wr_pulses (s : State) (f : FRef) (v : Nat) : (s.wr f v).pulses = s.pulses := rfl
@[simp] theorem State.wr_ownCrcs (s : State) (f : FRef) (v : Nat) : (s.wr f v).ownCrcs = s.ownCrcs := rfl
@[simp] theorem State.wr_peerCrcs (s : State) (f : FRef) (v : Nat) : (s.wr f v).peerCrcs = s.peerCrcs := rfl
@[simp] theorem State.wr_check (s : State) (f : FRef) (v : Nat) : (s.wr f v).check = s.check := rfl
@[simp] theorem State.wr_compareFrom (s : State) (f : FRef) (v : Nat) : (s.wr f v).compareFrom = s.compareFrom := rfl
@[simp] theorem State.wr_tokens (s : State) (f : FRef) (v : Nat) : (s.wr f v).tokens = s.tokens := rfl
@[simp] theorem State.wr_ticks (s : State) (f : FRef) (v : Nat) : (s.wr f v).ticks = s.ticks := rfl
@[simp] theorem State.wr_yk (s : State) (f : FRef) (v : Nat) : (s.wr f v).yk = s.yk := rfl
@[simp] theorem State.wr_gl (s : State) (f : FRef) (v : Nat) : (s.wr f v).gl = s.gl := rfl
@[simp] theorem State.wr_hlth (s : State) (f : FRef) (v : Nat) : (s.wr f v).hlth = s.hlth := rfl
@[simp] theorem State.wr_sec (s : State) (f : FRef) (v : Nat) : (s.wr f v).sec = s.sec := rfl
@[simp] theorem State.wr_nor (s : State) (f : FRef) (v : Nat) : (s.wr f v).nor = s.nor := rfl
@[simp] theorem State.wr_sysr (s : State) (f : FRef) (v : Nat) : (s.wr f v).sysr = s.sysr := rfl
@[simp] theorem State.wr_heldCmds (s : State) (f : FRef) (v : Nat) : (s.wr f v).heldCmds = s.heldCmds := rfl
@[simp] theorem State.wr_cams (s : State) (f : FRef) (v : Nat) : (s.wr f v).cams = s.cams := rfl
@[simp] theorem State.wr_insp (s : State) (f : FRef) (v : Nat) : (s.wr f v).insp = s.insp := rfl
@[simp] theorem State.wr_cal (s : State) (f : FRef) (v : Nat) : (s.wr f v).cal = s.cal := rfl

/-! ## `State.setRing` -/

@[simp] theorem State.setRing_pending (s : State) (n : Nat) (r : RingRt) : (s.setRing n r).pending = s.pending := rfl
@[simp] theorem State.setRing_now (s : State) (n : Nat) (r : RingRt) : (s.setRing n r).now = s.now := rfl
@[simp] theorem State.setRing_fresh (s : State) (n : Nat) (r : RingRt) : (s.setRing n r).fresh = s.fresh := rfl
@[simp] theorem State.setRing_regs (s : State) (n : Nat) (r : RingRt) : (s.setRing n r).regs = s.regs := rfl
@[simp] theorem State.setRing_locked (s : State) (n : Nat) (r : RingRt) : (s.setRing n r).locked = s.locked := rfl
@[simp] theorem State.setRing_captured (s : State) (n : Nat) (r : RingRt) : (s.setRing n r).captured = s.captured := rfl
@[simp] theorem State.setRing_staged (s : State) (n : Nat) (r : RingRt) : (s.setRing n r).staged = s.staged := rfl
@[simp] theorem State.setRing_shadow (s : State) (n : Nat) (r : RingRt) : (s.setRing n r).shadow = s.shadow := rfl
@[simp] theorem State.setRing_events (s : State) (n : Nat) (r : RingRt) : (s.setRing n r).events = s.events := rfl
@[simp] theorem State.setRing_modes (s : State) (n : Nat) (r : RingRt) : (s.setRing n r).modes = s.modes := rfl
@[simp] theorem State.setRing_heldCtrl (s : State) (n : Nat) (r : RingRt) : (s.setRing n r).heldCtrl = s.heldCtrl := rfl
@[simp] theorem State.setRing_sysReported (s : State) (n : Nat) (r : RingRt) : (s.setRing n r).sysReported = s.sysReported := rfl
@[simp] theorem State.setRing_sent (s : State) (n : Nat) (r : RingRt) : (s.setRing n r).sent = s.sent := rfl
@[simp] theorem State.setRing_host (s : State) (n : Nat) (r : RingRt) : (s.setRing n r).host = s.host := rfl
@[simp] theorem State.setRing_hostMarks (s : State) (n : Nat) (r : RingRt) : (s.setRing n r).hostMarks = s.hostMarks := rfl
@[simp] theorem State.setRing_dram (s : State) (n : Nat) (r : RingRt) : (s.setRing n r).dram = s.dram := rfl
@[simp] theorem State.setRing_dramPoison (s : State) (n : Nat) (r : RingRt) : (s.setRing n r).dramPoison = s.dramPoison := rfl
@[simp] theorem State.setRing_dramErr (s : State) (n : Nat) (r : RingRt) : (s.setRing n r).dramErr = s.dramErr := rfl
@[simp] theorem State.setRing_ceRows (s : State) (n : Nat) (r : RingRt) : (s.setRing n r).ceRows = s.ceRows := rfl
@[simp] theorem State.setRing_retired (s : State) (n : Nat) (r : RingRt) : (s.setRing n r).retired = s.retired := rfl
@[simp] theorem State.setRing_remaps (s : State) (n : Nat) (r : RingRt) : (s.setRing n r).remaps = s.remaps := rfl
@[simp] theorem State.setRing_memLog (s : State) (n : Nat) (r : RingRt) : (s.setRing n r).memLog = s.memLog := rfl
@[simp] theorem State.setRing_mem (s : State) (n : Nat) (r : RingRt) : (s.setRing n r).mem = s.mem := rfl
@[simp] theorem State.setRing_tallies (s : State) (n : Nat) (r : RingRt) : (s.setRing n r).tallies = s.tallies := rfl
@[simp] theorem State.setRing_pkEpoch (s : State) (n : Nat) (r : RingRt) : (s.setRing n r).pkEpoch = s.pkEpoch := rfl
@[simp] theorem State.setRing_arbRing (s : State) (n : Nat) (r : RingRt) : (s.setRing n r).arbRing = s.arbRing := rfl
@[simp] theorem State.setRing_arbLeft (s : State) (n : Nat) (r : RingRt) : (s.setRing n r).arbLeft = s.arbLeft := rfl
@[simp] theorem State.setRing_drains (s : State) (n : Nat) (r : RingRt) : (s.setRing n r).drains = s.drains := rfl
@[simp] theorem State.setRing_holdings (s : State) (n : Nat) (r : RingRt) : (s.setRing n r).holdings = s.holdings := rfl
@[simp] theorem State.setRing_ctxs (s : State) (n : Nat) (r : RingRt) : (s.setRing n r).ctxs = s.ctxs := rfl
@[simp] theorem State.setRing_globalLine (s : State) (n : Nat) (r : RingRt) : (s.setRing n r).globalLine = s.globalLine := rfl
@[simp] theorem State.setRing_handles (s : State) (n : Nat) (r : RingRt) : (s.setRing n r).handles = s.handles := rfl
@[simp] theorem State.setRing_baleJobs (s : State) (n : Nat) (r : RingRt) : (s.setRing n r).baleJobs = s.baleJobs := rfl
@[simp] theorem State.setRing_holders (s : State) (n : Nat) (r : RingRt) : (s.setRing n r).holders = s.holders := rfl
@[simp] theorem State.setRing_gangs (s : State) (n : Nat) (r : RingRt) : (s.setRing n r).gangs = s.gangs := rfl
@[simp] theorem State.setRing_nmap (s : State) (n : Nat) (r : RingRt) : (s.setRing n r).nmap = s.nmap := rfl
@[simp] theorem State.setRing_nmapBad (s : State) (n : Nat) (r : RingRt) : (s.setRing n r).nmapBad = s.nmapBad := rfl
@[simp] theorem State.setRing_ncal (s : State) (n : Nat) (r : RingRt) : (s.setRing n r).ncal = s.ncal := rfl
@[simp] theorem State.setRing_ncalBad (s : State) (n : Nat) (r : RingRt) : (s.setRing n r).ncalBad = s.ncalBad := rfl
@[simp] theorem State.setRing_thresh (s : State) (n : Nat) (r : RingRt) : (s.setRing n r).thresh = s.thresh := rfl
@[simp] theorem State.setRing_threshBad (s : State) (n : Nat) (r : RingRt) : (s.setRing n r).threshBad = s.threshBad := rfl
@[simp] theorem State.setRing_levels (s : State) (n : Nat) (r : RingRt) : (s.setRing n r).levels = s.levels := rfl
@[simp] theorem State.setRing_levelsBad (s : State) (n : Nat) (r : RingRt) : (s.setRing n r).levelsBad = s.levelsBad := rfl
@[simp] theorem State.setRing_tableChanges (s : State) (n : Nat) (r : RingRt) : (s.setRing n r).tableChanges = s.tableChanges := rfl
@[simp] theorem State.setRing_dueChanges (s : State) (n : Nat) (r : RingRt) : (s.setRing n r).dueChanges = s.dueChanges := rfl
@[simp] theorem State.setRing_slices (s : State) (n : Nat) (r : RingRt) : (s.setRing n r).slices = s.slices := rfl
@[simp] theorem State.setRing_rotNext (s : State) (n : Nat) (r : RingRt) : (s.setRing n r).rotNext = s.rotNext := rfl
@[simp] theorem State.setRing_rowCache (s : State) (n : Nat) (r : RingRt) : (s.setRing n r).rowCache = s.rowCache := rfl
@[simp] theorem State.setRing_rotAt (s : State) (n : Nat) (r : RingRt) : (s.setRing n r).rotAt = s.rotAt := rfl
@[simp] theorem State.setRing_lanes (s : State) (n : Nat) (r : RingRt) : (s.setRing n r).lanes = s.lanes := rfl
@[simp] theorem State.setRing_trainPks (s : State) (n : Nat) (r : RingRt) : (s.setRing n r).trainPks = s.trainPks := rfl
@[simp] theorem State.setRing_latPks (s : State) (n : Nat) (r : RingRt) : (s.setRing n r).latPks = s.latPks := rfl
@[simp] theorem State.setRing_heads (s : State) (n : Nat) (r : RingRt) : (s.setRing n r).heads = s.heads := rfl
@[simp] theorem State.setRing_encs (s : State) (n : Nat) (r : RingRt) : (s.setRing n r).encs = s.encs := rfl
@[simp] theorem State.setRing_syns (s : State) (n : Nat) (r : RingRt) : (s.setRing n r).syns = s.syns := rfl
@[simp] theorem State.setRing_cmps (s : State) (n : Nat) (r : RingRt) : (s.setRing n r).cmps = s.cmps := rfl
@[simp] theorem State.setRing_latches (s : State) (n : Nat) (r : RingRt) : (s.setRing n r).latches = s.latches := rfl
@[simp] theorem State.setRing_divs (s : State) (n : Nat) (r : RingRt) : (s.setRing n r).divs = s.divs := rfl
@[simp] theorem State.setRing_tbs (s : State) (n : Nat) (r : RingRt) : (s.setRing n r).tbs = s.tbs := rfl
@[simp] theorem State.setRing_ptp (s : State) (n : Nat) (r : RingRt) : (s.setRing n r).ptp = s.ptp := rfl
@[simp] theorem State.setRing_axes (s : State) (n : Nat) (r : RingRt) : (s.setRing n r).axes = s.axes := rfl
@[simp] theorem State.setRing_pulses (s : State) (n : Nat) (r : RingRt) : (s.setRing n r).pulses = s.pulses := rfl
@[simp] theorem State.setRing_ownCrcs (s : State) (n : Nat) (r : RingRt) : (s.setRing n r).ownCrcs = s.ownCrcs := rfl
@[simp] theorem State.setRing_peerCrcs (s : State) (n : Nat) (r : RingRt) : (s.setRing n r).peerCrcs = s.peerCrcs := rfl
@[simp] theorem State.setRing_check (s : State) (n : Nat) (r : RingRt) : (s.setRing n r).check = s.check := rfl
@[simp] theorem State.setRing_compareFrom (s : State) (n : Nat) (r : RingRt) : (s.setRing n r).compareFrom = s.compareFrom := rfl
@[simp] theorem State.setRing_tokens (s : State) (n : Nat) (r : RingRt) : (s.setRing n r).tokens = s.tokens := rfl
@[simp] theorem State.setRing_ticks (s : State) (n : Nat) (r : RingRt) : (s.setRing n r).ticks = s.ticks := rfl
@[simp] theorem State.setRing_yk (s : State) (n : Nat) (r : RingRt) : (s.setRing n r).yk = s.yk := rfl
@[simp] theorem State.setRing_gl (s : State) (n : Nat) (r : RingRt) : (s.setRing n r).gl = s.gl := rfl
@[simp] theorem State.setRing_hlth (s : State) (n : Nat) (r : RingRt) : (s.setRing n r).hlth = s.hlth := rfl
@[simp] theorem State.setRing_sec (s : State) (n : Nat) (r : RingRt) : (s.setRing n r).sec = s.sec := rfl
@[simp] theorem State.setRing_nor (s : State) (n : Nat) (r : RingRt) : (s.setRing n r).nor = s.nor := rfl
@[simp] theorem State.setRing_sysr (s : State) (n : Nat) (r : RingRt) : (s.setRing n r).sysr = s.sysr := rfl
@[simp] theorem State.setRing_heldCmds (s : State) (n : Nat) (r : RingRt) : (s.setRing n r).heldCmds = s.heldCmds := rfl
@[simp] theorem State.setRing_cams (s : State) (n : Nat) (r : RingRt) : (s.setRing n r).cams = s.cams := rfl
@[simp] theorem State.setRing_insp (s : State) (n : Nat) (r : RingRt) : (s.setRing n r).insp = s.insp := rfl
@[simp] theorem State.setRing_cal (s : State) (n : Nat) (r : RingRt) : (s.setRing n r).cal = s.cal := rfl

/-! ## `State.setCtx` -/

@[simp] theorem State.setCtx_pending (s : State) (n : Nat) (c : Ctx) : (s.setCtx n c).pending = s.pending := rfl
@[simp] theorem State.setCtx_now (s : State) (n : Nat) (c : Ctx) : (s.setCtx n c).now = s.now := rfl
@[simp] theorem State.setCtx_fresh (s : State) (n : Nat) (c : Ctx) : (s.setCtx n c).fresh = s.fresh := rfl
@[simp] theorem State.setCtx_regs (s : State) (n : Nat) (c : Ctx) : (s.setCtx n c).regs = s.regs := rfl
@[simp] theorem State.setCtx_locked (s : State) (n : Nat) (c : Ctx) : (s.setCtx n c).locked = s.locked := rfl
@[simp] theorem State.setCtx_captured (s : State) (n : Nat) (c : Ctx) : (s.setCtx n c).captured = s.captured := rfl
@[simp] theorem State.setCtx_staged (s : State) (n : Nat) (c : Ctx) : (s.setCtx n c).staged = s.staged := rfl
@[simp] theorem State.setCtx_shadow (s : State) (n : Nat) (c : Ctx) : (s.setCtx n c).shadow = s.shadow := rfl
@[simp] theorem State.setCtx_events (s : State) (n : Nat) (c : Ctx) : (s.setCtx n c).events = s.events := rfl
@[simp] theorem State.setCtx_modes (s : State) (n : Nat) (c : Ctx) : (s.setCtx n c).modes = s.modes := rfl
@[simp] theorem State.setCtx_heldCtrl (s : State) (n : Nat) (c : Ctx) : (s.setCtx n c).heldCtrl = s.heldCtrl := rfl
@[simp] theorem State.setCtx_sysReported (s : State) (n : Nat) (c : Ctx) : (s.setCtx n c).sysReported = s.sysReported := rfl
@[simp] theorem State.setCtx_sent (s : State) (n : Nat) (c : Ctx) : (s.setCtx n c).sent = s.sent := rfl
@[simp] theorem State.setCtx_host (s : State) (n : Nat) (c : Ctx) : (s.setCtx n c).host = s.host := rfl
@[simp] theorem State.setCtx_hostMarks (s : State) (n : Nat) (c : Ctx) : (s.setCtx n c).hostMarks = s.hostMarks := rfl
@[simp] theorem State.setCtx_dram (s : State) (n : Nat) (c : Ctx) : (s.setCtx n c).dram = s.dram := rfl
@[simp] theorem State.setCtx_dramPoison (s : State) (n : Nat) (c : Ctx) : (s.setCtx n c).dramPoison = s.dramPoison := rfl
@[simp] theorem State.setCtx_dramErr (s : State) (n : Nat) (c : Ctx) : (s.setCtx n c).dramErr = s.dramErr := rfl
@[simp] theorem State.setCtx_ceRows (s : State) (n : Nat) (c : Ctx) : (s.setCtx n c).ceRows = s.ceRows := rfl
@[simp] theorem State.setCtx_retired (s : State) (n : Nat) (c : Ctx) : (s.setCtx n c).retired = s.retired := rfl
@[simp] theorem State.setCtx_remaps (s : State) (n : Nat) (c : Ctx) : (s.setCtx n c).remaps = s.remaps := rfl
@[simp] theorem State.setCtx_memLog (s : State) (n : Nat) (c : Ctx) : (s.setCtx n c).memLog = s.memLog := rfl
@[simp] theorem State.setCtx_mem (s : State) (n : Nat) (c : Ctx) : (s.setCtx n c).mem = s.mem := rfl
@[simp] theorem State.setCtx_tallies (s : State) (n : Nat) (c : Ctx) : (s.setCtx n c).tallies = s.tallies := rfl
@[simp] theorem State.setCtx_rings (s : State) (n : Nat) (c : Ctx) : (s.setCtx n c).rings = s.rings := rfl
@[simp] theorem State.setCtx_pkEpoch (s : State) (n : Nat) (c : Ctx) : (s.setCtx n c).pkEpoch = s.pkEpoch := rfl
@[simp] theorem State.setCtx_arbRing (s : State) (n : Nat) (c : Ctx) : (s.setCtx n c).arbRing = s.arbRing := rfl
@[simp] theorem State.setCtx_arbLeft (s : State) (n : Nat) (c : Ctx) : (s.setCtx n c).arbLeft = s.arbLeft := rfl
@[simp] theorem State.setCtx_drains (s : State) (n : Nat) (c : Ctx) : (s.setCtx n c).drains = s.drains := rfl
@[simp] theorem State.setCtx_holdings (s : State) (n : Nat) (c : Ctx) : (s.setCtx n c).holdings = s.holdings := rfl
@[simp] theorem State.setCtx_globalLine (s : State) (n : Nat) (c : Ctx) : (s.setCtx n c).globalLine = s.globalLine := rfl
@[simp] theorem State.setCtx_handles (s : State) (n : Nat) (c : Ctx) : (s.setCtx n c).handles = s.handles := rfl
@[simp] theorem State.setCtx_baleJobs (s : State) (n : Nat) (c : Ctx) : (s.setCtx n c).baleJobs = s.baleJobs := rfl
@[simp] theorem State.setCtx_holders (s : State) (n : Nat) (c : Ctx) : (s.setCtx n c).holders = s.holders := rfl
@[simp] theorem State.setCtx_gangs (s : State) (n : Nat) (c : Ctx) : (s.setCtx n c).gangs = s.gangs := rfl
@[simp] theorem State.setCtx_nmap (s : State) (n : Nat) (c : Ctx) : (s.setCtx n c).nmap = s.nmap := rfl
@[simp] theorem State.setCtx_nmapBad (s : State) (n : Nat) (c : Ctx) : (s.setCtx n c).nmapBad = s.nmapBad := rfl
@[simp] theorem State.setCtx_ncal (s : State) (n : Nat) (c : Ctx) : (s.setCtx n c).ncal = s.ncal := rfl
@[simp] theorem State.setCtx_ncalBad (s : State) (n : Nat) (c : Ctx) : (s.setCtx n c).ncalBad = s.ncalBad := rfl
@[simp] theorem State.setCtx_thresh (s : State) (n : Nat) (c : Ctx) : (s.setCtx n c).thresh = s.thresh := rfl
@[simp] theorem State.setCtx_threshBad (s : State) (n : Nat) (c : Ctx) : (s.setCtx n c).threshBad = s.threshBad := rfl
@[simp] theorem State.setCtx_levels (s : State) (n : Nat) (c : Ctx) : (s.setCtx n c).levels = s.levels := rfl
@[simp] theorem State.setCtx_levelsBad (s : State) (n : Nat) (c : Ctx) : (s.setCtx n c).levelsBad = s.levelsBad := rfl
@[simp] theorem State.setCtx_tableChanges (s : State) (n : Nat) (c : Ctx) : (s.setCtx n c).tableChanges = s.tableChanges := rfl
@[simp] theorem State.setCtx_dueChanges (s : State) (n : Nat) (c : Ctx) : (s.setCtx n c).dueChanges = s.dueChanges := rfl
@[simp] theorem State.setCtx_slices (s : State) (n : Nat) (c : Ctx) : (s.setCtx n c).slices = s.slices := rfl
@[simp] theorem State.setCtx_rotNext (s : State) (n : Nat) (c : Ctx) : (s.setCtx n c).rotNext = s.rotNext := rfl
@[simp] theorem State.setCtx_rowCache (s : State) (n : Nat) (c : Ctx) : (s.setCtx n c).rowCache = s.rowCache := rfl
@[simp] theorem State.setCtx_rotAt (s : State) (n : Nat) (c : Ctx) : (s.setCtx n c).rotAt = s.rotAt := rfl
@[simp] theorem State.setCtx_lanes (s : State) (n : Nat) (c : Ctx) : (s.setCtx n c).lanes = s.lanes := rfl
@[simp] theorem State.setCtx_trainPks (s : State) (n : Nat) (c : Ctx) : (s.setCtx n c).trainPks = s.trainPks := rfl
@[simp] theorem State.setCtx_latPks (s : State) (n : Nat) (c : Ctx) : (s.setCtx n c).latPks = s.latPks := rfl
@[simp] theorem State.setCtx_heads (s : State) (n : Nat) (c : Ctx) : (s.setCtx n c).heads = s.heads := rfl
@[simp] theorem State.setCtx_encs (s : State) (n : Nat) (c : Ctx) : (s.setCtx n c).encs = s.encs := rfl
@[simp] theorem State.setCtx_syns (s : State) (n : Nat) (c : Ctx) : (s.setCtx n c).syns = s.syns := rfl
@[simp] theorem State.setCtx_cmps (s : State) (n : Nat) (c : Ctx) : (s.setCtx n c).cmps = s.cmps := rfl
@[simp] theorem State.setCtx_latches (s : State) (n : Nat) (c : Ctx) : (s.setCtx n c).latches = s.latches := rfl
@[simp] theorem State.setCtx_divs (s : State) (n : Nat) (c : Ctx) : (s.setCtx n c).divs = s.divs := rfl
@[simp] theorem State.setCtx_tbs (s : State) (n : Nat) (c : Ctx) : (s.setCtx n c).tbs = s.tbs := rfl
@[simp] theorem State.setCtx_ptp (s : State) (n : Nat) (c : Ctx) : (s.setCtx n c).ptp = s.ptp := rfl
@[simp] theorem State.setCtx_axes (s : State) (n : Nat) (c : Ctx) : (s.setCtx n c).axes = s.axes := rfl
@[simp] theorem State.setCtx_pulses (s : State) (n : Nat) (c : Ctx) : (s.setCtx n c).pulses = s.pulses := rfl
@[simp] theorem State.setCtx_ownCrcs (s : State) (n : Nat) (c : Ctx) : (s.setCtx n c).ownCrcs = s.ownCrcs := rfl
@[simp] theorem State.setCtx_peerCrcs (s : State) (n : Nat) (c : Ctx) : (s.setCtx n c).peerCrcs = s.peerCrcs := rfl
@[simp] theorem State.setCtx_check (s : State) (n : Nat) (c : Ctx) : (s.setCtx n c).check = s.check := rfl
@[simp] theorem State.setCtx_compareFrom (s : State) (n : Nat) (c : Ctx) : (s.setCtx n c).compareFrom = s.compareFrom := rfl
@[simp] theorem State.setCtx_tokens (s : State) (n : Nat) (c : Ctx) : (s.setCtx n c).tokens = s.tokens := rfl
@[simp] theorem State.setCtx_ticks (s : State) (n : Nat) (c : Ctx) : (s.setCtx n c).ticks = s.ticks := rfl
@[simp] theorem State.setCtx_yk (s : State) (n : Nat) (c : Ctx) : (s.setCtx n c).yk = s.yk := rfl
@[simp] theorem State.setCtx_gl (s : State) (n : Nat) (c : Ctx) : (s.setCtx n c).gl = s.gl := rfl
@[simp] theorem State.setCtx_hlth (s : State) (n : Nat) (c : Ctx) : (s.setCtx n c).hlth = s.hlth := rfl
@[simp] theorem State.setCtx_sec (s : State) (n : Nat) (c : Ctx) : (s.setCtx n c).sec = s.sec := rfl
@[simp] theorem State.setCtx_nor (s : State) (n : Nat) (c : Ctx) : (s.setCtx n c).nor = s.nor := rfl
@[simp] theorem State.setCtx_sysr (s : State) (n : Nat) (c : Ctx) : (s.setCtx n c).sysr = s.sysr := rfl
@[simp] theorem State.setCtx_heldCmds (s : State) (n : Nat) (c : Ctx) : (s.setCtx n c).heldCmds = s.heldCmds := rfl
@[simp] theorem State.setCtx_cams (s : State) (n : Nat) (c : Ctx) : (s.setCtx n c).cams = s.cams := rfl
@[simp] theorem State.setCtx_insp (s : State) (n : Nat) (c : Ctx) : (s.setCtx n c).insp = s.insp := rfl
@[simp] theorem State.setCtx_cal (s : State) (n : Nat) (c : Ctx) : (s.setCtx n c).cal = s.cal := rfl

/-! ## `State.setHead` -/

@[simp] theorem State.setHead_pending (s : State) (n : Nat) (h : HlRt) : (s.setHead n h).pending = s.pending := rfl
@[simp] theorem State.setHead_now (s : State) (n : Nat) (h : HlRt) : (s.setHead n h).now = s.now := rfl
@[simp] theorem State.setHead_fresh (s : State) (n : Nat) (h : HlRt) : (s.setHead n h).fresh = s.fresh := rfl
@[simp] theorem State.setHead_regs (s : State) (n : Nat) (h : HlRt) : (s.setHead n h).regs = s.regs := rfl
@[simp] theorem State.setHead_locked (s : State) (n : Nat) (h : HlRt) : (s.setHead n h).locked = s.locked := rfl
@[simp] theorem State.setHead_captured (s : State) (n : Nat) (h : HlRt) : (s.setHead n h).captured = s.captured := rfl
@[simp] theorem State.setHead_staged (s : State) (n : Nat) (h : HlRt) : (s.setHead n h).staged = s.staged := rfl
@[simp] theorem State.setHead_shadow (s : State) (n : Nat) (h : HlRt) : (s.setHead n h).shadow = s.shadow := rfl
@[simp] theorem State.setHead_events (s : State) (n : Nat) (h : HlRt) : (s.setHead n h).events = s.events := rfl
@[simp] theorem State.setHead_modes (s : State) (n : Nat) (h : HlRt) : (s.setHead n h).modes = s.modes := rfl
@[simp] theorem State.setHead_heldCtrl (s : State) (n : Nat) (h : HlRt) : (s.setHead n h).heldCtrl = s.heldCtrl := rfl
@[simp] theorem State.setHead_sysReported (s : State) (n : Nat) (h : HlRt) : (s.setHead n h).sysReported = s.sysReported := rfl
@[simp] theorem State.setHead_sent (s : State) (n : Nat) (h : HlRt) : (s.setHead n h).sent = s.sent := rfl
@[simp] theorem State.setHead_host (s : State) (n : Nat) (h : HlRt) : (s.setHead n h).host = s.host := rfl
@[simp] theorem State.setHead_hostMarks (s : State) (n : Nat) (h : HlRt) : (s.setHead n h).hostMarks = s.hostMarks := rfl
@[simp] theorem State.setHead_dram (s : State) (n : Nat) (h : HlRt) : (s.setHead n h).dram = s.dram := rfl
@[simp] theorem State.setHead_dramPoison (s : State) (n : Nat) (h : HlRt) : (s.setHead n h).dramPoison = s.dramPoison := rfl
@[simp] theorem State.setHead_dramErr (s : State) (n : Nat) (h : HlRt) : (s.setHead n h).dramErr = s.dramErr := rfl
@[simp] theorem State.setHead_ceRows (s : State) (n : Nat) (h : HlRt) : (s.setHead n h).ceRows = s.ceRows := rfl
@[simp] theorem State.setHead_retired (s : State) (n : Nat) (h : HlRt) : (s.setHead n h).retired = s.retired := rfl
@[simp] theorem State.setHead_remaps (s : State) (n : Nat) (h : HlRt) : (s.setHead n h).remaps = s.remaps := rfl
@[simp] theorem State.setHead_memLog (s : State) (n : Nat) (h : HlRt) : (s.setHead n h).memLog = s.memLog := rfl
@[simp] theorem State.setHead_mem (s : State) (n : Nat) (h : HlRt) : (s.setHead n h).mem = s.mem := rfl
@[simp] theorem State.setHead_tallies (s : State) (n : Nat) (h : HlRt) : (s.setHead n h).tallies = s.tallies := rfl
@[simp] theorem State.setHead_rings (s : State) (n : Nat) (h : HlRt) : (s.setHead n h).rings = s.rings := rfl
@[simp] theorem State.setHead_pkEpoch (s : State) (n : Nat) (h : HlRt) : (s.setHead n h).pkEpoch = s.pkEpoch := rfl
@[simp] theorem State.setHead_arbRing (s : State) (n : Nat) (h : HlRt) : (s.setHead n h).arbRing = s.arbRing := rfl
@[simp] theorem State.setHead_arbLeft (s : State) (n : Nat) (h : HlRt) : (s.setHead n h).arbLeft = s.arbLeft := rfl
@[simp] theorem State.setHead_drains (s : State) (n : Nat) (h : HlRt) : (s.setHead n h).drains = s.drains := rfl
@[simp] theorem State.setHead_holdings (s : State) (n : Nat) (h : HlRt) : (s.setHead n h).holdings = s.holdings := rfl
@[simp] theorem State.setHead_ctxs (s : State) (n : Nat) (h : HlRt) : (s.setHead n h).ctxs = s.ctxs := rfl
@[simp] theorem State.setHead_globalLine (s : State) (n : Nat) (h : HlRt) : (s.setHead n h).globalLine = s.globalLine := rfl
@[simp] theorem State.setHead_handles (s : State) (n : Nat) (h : HlRt) : (s.setHead n h).handles = s.handles := rfl
@[simp] theorem State.setHead_baleJobs (s : State) (n : Nat) (h : HlRt) : (s.setHead n h).baleJobs = s.baleJobs := rfl
@[simp] theorem State.setHead_holders (s : State) (n : Nat) (h : HlRt) : (s.setHead n h).holders = s.holders := rfl
@[simp] theorem State.setHead_gangs (s : State) (n : Nat) (h : HlRt) : (s.setHead n h).gangs = s.gangs := rfl
@[simp] theorem State.setHead_nmap (s : State) (n : Nat) (h : HlRt) : (s.setHead n h).nmap = s.nmap := rfl
@[simp] theorem State.setHead_nmapBad (s : State) (n : Nat) (h : HlRt) : (s.setHead n h).nmapBad = s.nmapBad := rfl
@[simp] theorem State.setHead_ncal (s : State) (n : Nat) (h : HlRt) : (s.setHead n h).ncal = s.ncal := rfl
@[simp] theorem State.setHead_ncalBad (s : State) (n : Nat) (h : HlRt) : (s.setHead n h).ncalBad = s.ncalBad := rfl
@[simp] theorem State.setHead_thresh (s : State) (n : Nat) (h : HlRt) : (s.setHead n h).thresh = s.thresh := rfl
@[simp] theorem State.setHead_threshBad (s : State) (n : Nat) (h : HlRt) : (s.setHead n h).threshBad = s.threshBad := rfl
@[simp] theorem State.setHead_levels (s : State) (n : Nat) (h : HlRt) : (s.setHead n h).levels = s.levels := rfl
@[simp] theorem State.setHead_levelsBad (s : State) (n : Nat) (h : HlRt) : (s.setHead n h).levelsBad = s.levelsBad := rfl
@[simp] theorem State.setHead_tableChanges (s : State) (n : Nat) (h : HlRt) : (s.setHead n h).tableChanges = s.tableChanges := rfl
@[simp] theorem State.setHead_dueChanges (s : State) (n : Nat) (h : HlRt) : (s.setHead n h).dueChanges = s.dueChanges := rfl
@[simp] theorem State.setHead_slices (s : State) (n : Nat) (h : HlRt) : (s.setHead n h).slices = s.slices := rfl
@[simp] theorem State.setHead_rotNext (s : State) (n : Nat) (h : HlRt) : (s.setHead n h).rotNext = s.rotNext := rfl
@[simp] theorem State.setHead_rowCache (s : State) (n : Nat) (h : HlRt) : (s.setHead n h).rowCache = s.rowCache := rfl
@[simp] theorem State.setHead_rotAt (s : State) (n : Nat) (h : HlRt) : (s.setHead n h).rotAt = s.rotAt := rfl
@[simp] theorem State.setHead_lanes (s : State) (n : Nat) (h : HlRt) : (s.setHead n h).lanes = s.lanes := rfl
@[simp] theorem State.setHead_trainPks (s : State) (n : Nat) (h : HlRt) : (s.setHead n h).trainPks = s.trainPks := rfl
@[simp] theorem State.setHead_latPks (s : State) (n : Nat) (h : HlRt) : (s.setHead n h).latPks = s.latPks := rfl
@[simp] theorem State.setHead_encs (s : State) (n : Nat) (h : HlRt) : (s.setHead n h).encs = s.encs := rfl
@[simp] theorem State.setHead_syns (s : State) (n : Nat) (h : HlRt) : (s.setHead n h).syns = s.syns := rfl
@[simp] theorem State.setHead_cmps (s : State) (n : Nat) (h : HlRt) : (s.setHead n h).cmps = s.cmps := rfl
@[simp] theorem State.setHead_latches (s : State) (n : Nat) (h : HlRt) : (s.setHead n h).latches = s.latches := rfl
@[simp] theorem State.setHead_divs (s : State) (n : Nat) (h : HlRt) : (s.setHead n h).divs = s.divs := rfl
@[simp] theorem State.setHead_tbs (s : State) (n : Nat) (h : HlRt) : (s.setHead n h).tbs = s.tbs := rfl
@[simp] theorem State.setHead_ptp (s : State) (n : Nat) (h : HlRt) : (s.setHead n h).ptp = s.ptp := rfl
@[simp] theorem State.setHead_axes (s : State) (n : Nat) (h : HlRt) : (s.setHead n h).axes = s.axes := rfl
@[simp] theorem State.setHead_pulses (s : State) (n : Nat) (h : HlRt) : (s.setHead n h).pulses = s.pulses := rfl
@[simp] theorem State.setHead_ownCrcs (s : State) (n : Nat) (h : HlRt) : (s.setHead n h).ownCrcs = s.ownCrcs := rfl
@[simp] theorem State.setHead_peerCrcs (s : State) (n : Nat) (h : HlRt) : (s.setHead n h).peerCrcs = s.peerCrcs := rfl
@[simp] theorem State.setHead_check (s : State) (n : Nat) (h : HlRt) : (s.setHead n h).check = s.check := rfl
@[simp] theorem State.setHead_compareFrom (s : State) (n : Nat) (h : HlRt) : (s.setHead n h).compareFrom = s.compareFrom := rfl
@[simp] theorem State.setHead_tokens (s : State) (n : Nat) (h : HlRt) : (s.setHead n h).tokens = s.tokens := rfl
@[simp] theorem State.setHead_ticks (s : State) (n : Nat) (h : HlRt) : (s.setHead n h).ticks = s.ticks := rfl
@[simp] theorem State.setHead_yk (s : State) (n : Nat) (h : HlRt) : (s.setHead n h).yk = s.yk := rfl
@[simp] theorem State.setHead_gl (s : State) (n : Nat) (h : HlRt) : (s.setHead n h).gl = s.gl := rfl
@[simp] theorem State.setHead_hlth (s : State) (n : Nat) (h : HlRt) : (s.setHead n h).hlth = s.hlth := rfl
@[simp] theorem State.setHead_sec (s : State) (n : Nat) (h : HlRt) : (s.setHead n h).sec = s.sec := rfl
@[simp] theorem State.setHead_nor (s : State) (n : Nat) (h : HlRt) : (s.setHead n h).nor = s.nor := rfl
@[simp] theorem State.setHead_sysr (s : State) (n : Nat) (h : HlRt) : (s.setHead n h).sysr = s.sysr := rfl
@[simp] theorem State.setHead_heldCmds (s : State) (n : Nat) (h : HlRt) : (s.setHead n h).heldCmds = s.heldCmds := rfl
@[simp] theorem State.setHead_cams (s : State) (n : Nat) (h : HlRt) : (s.setHead n h).cams = s.cams := rfl
@[simp] theorem State.setHead_insp (s : State) (n : Nat) (h : HlRt) : (s.setHead n h).insp = s.insp := rfl
@[simp] theorem State.setHead_cal (s : State) (n : Nat) (h : HlRt) : (s.setHead n h).cal = s.cal := rfl

/-! ## `State.setEnc` -/

@[simp] theorem State.setEnc_pending (s : State) (n : Nat) (e : EncRt) : (s.setEnc n e).pending = s.pending := rfl
@[simp] theorem State.setEnc_now (s : State) (n : Nat) (e : EncRt) : (s.setEnc n e).now = s.now := rfl
@[simp] theorem State.setEnc_fresh (s : State) (n : Nat) (e : EncRt) : (s.setEnc n e).fresh = s.fresh := rfl
@[simp] theorem State.setEnc_regs (s : State) (n : Nat) (e : EncRt) : (s.setEnc n e).regs = s.regs := rfl
@[simp] theorem State.setEnc_locked (s : State) (n : Nat) (e : EncRt) : (s.setEnc n e).locked = s.locked := rfl
@[simp] theorem State.setEnc_captured (s : State) (n : Nat) (e : EncRt) : (s.setEnc n e).captured = s.captured := rfl
@[simp] theorem State.setEnc_staged (s : State) (n : Nat) (e : EncRt) : (s.setEnc n e).staged = s.staged := rfl
@[simp] theorem State.setEnc_shadow (s : State) (n : Nat) (e : EncRt) : (s.setEnc n e).shadow = s.shadow := rfl
@[simp] theorem State.setEnc_events (s : State) (n : Nat) (e : EncRt) : (s.setEnc n e).events = s.events := rfl
@[simp] theorem State.setEnc_modes (s : State) (n : Nat) (e : EncRt) : (s.setEnc n e).modes = s.modes := rfl
@[simp] theorem State.setEnc_heldCtrl (s : State) (n : Nat) (e : EncRt) : (s.setEnc n e).heldCtrl = s.heldCtrl := rfl
@[simp] theorem State.setEnc_sysReported (s : State) (n : Nat) (e : EncRt) : (s.setEnc n e).sysReported = s.sysReported := rfl
@[simp] theorem State.setEnc_sent (s : State) (n : Nat) (e : EncRt) : (s.setEnc n e).sent = s.sent := rfl
@[simp] theorem State.setEnc_host (s : State) (n : Nat) (e : EncRt) : (s.setEnc n e).host = s.host := rfl
@[simp] theorem State.setEnc_hostMarks (s : State) (n : Nat) (e : EncRt) : (s.setEnc n e).hostMarks = s.hostMarks := rfl
@[simp] theorem State.setEnc_dram (s : State) (n : Nat) (e : EncRt) : (s.setEnc n e).dram = s.dram := rfl
@[simp] theorem State.setEnc_dramPoison (s : State) (n : Nat) (e : EncRt) : (s.setEnc n e).dramPoison = s.dramPoison := rfl
@[simp] theorem State.setEnc_dramErr (s : State) (n : Nat) (e : EncRt) : (s.setEnc n e).dramErr = s.dramErr := rfl
@[simp] theorem State.setEnc_ceRows (s : State) (n : Nat) (e : EncRt) : (s.setEnc n e).ceRows = s.ceRows := rfl
@[simp] theorem State.setEnc_retired (s : State) (n : Nat) (e : EncRt) : (s.setEnc n e).retired = s.retired := rfl
@[simp] theorem State.setEnc_remaps (s : State) (n : Nat) (e : EncRt) : (s.setEnc n e).remaps = s.remaps := rfl
@[simp] theorem State.setEnc_memLog (s : State) (n : Nat) (e : EncRt) : (s.setEnc n e).memLog = s.memLog := rfl
@[simp] theorem State.setEnc_mem (s : State) (n : Nat) (e : EncRt) : (s.setEnc n e).mem = s.mem := rfl
@[simp] theorem State.setEnc_tallies (s : State) (n : Nat) (e : EncRt) : (s.setEnc n e).tallies = s.tallies := rfl
@[simp] theorem State.setEnc_rings (s : State) (n : Nat) (e : EncRt) : (s.setEnc n e).rings = s.rings := rfl
@[simp] theorem State.setEnc_pkEpoch (s : State) (n : Nat) (e : EncRt) : (s.setEnc n e).pkEpoch = s.pkEpoch := rfl
@[simp] theorem State.setEnc_arbRing (s : State) (n : Nat) (e : EncRt) : (s.setEnc n e).arbRing = s.arbRing := rfl
@[simp] theorem State.setEnc_arbLeft (s : State) (n : Nat) (e : EncRt) : (s.setEnc n e).arbLeft = s.arbLeft := rfl
@[simp] theorem State.setEnc_drains (s : State) (n : Nat) (e : EncRt) : (s.setEnc n e).drains = s.drains := rfl
@[simp] theorem State.setEnc_holdings (s : State) (n : Nat) (e : EncRt) : (s.setEnc n e).holdings = s.holdings := rfl
@[simp] theorem State.setEnc_ctxs (s : State) (n : Nat) (e : EncRt) : (s.setEnc n e).ctxs = s.ctxs := rfl
@[simp] theorem State.setEnc_globalLine (s : State) (n : Nat) (e : EncRt) : (s.setEnc n e).globalLine = s.globalLine := rfl
@[simp] theorem State.setEnc_handles (s : State) (n : Nat) (e : EncRt) : (s.setEnc n e).handles = s.handles := rfl
@[simp] theorem State.setEnc_baleJobs (s : State) (n : Nat) (e : EncRt) : (s.setEnc n e).baleJobs = s.baleJobs := rfl
@[simp] theorem State.setEnc_holders (s : State) (n : Nat) (e : EncRt) : (s.setEnc n e).holders = s.holders := rfl
@[simp] theorem State.setEnc_gangs (s : State) (n : Nat) (e : EncRt) : (s.setEnc n e).gangs = s.gangs := rfl
@[simp] theorem State.setEnc_nmap (s : State) (n : Nat) (e : EncRt) : (s.setEnc n e).nmap = s.nmap := rfl
@[simp] theorem State.setEnc_nmapBad (s : State) (n : Nat) (e : EncRt) : (s.setEnc n e).nmapBad = s.nmapBad := rfl
@[simp] theorem State.setEnc_ncal (s : State) (n : Nat) (e : EncRt) : (s.setEnc n e).ncal = s.ncal := rfl
@[simp] theorem State.setEnc_ncalBad (s : State) (n : Nat) (e : EncRt) : (s.setEnc n e).ncalBad = s.ncalBad := rfl
@[simp] theorem State.setEnc_thresh (s : State) (n : Nat) (e : EncRt) : (s.setEnc n e).thresh = s.thresh := rfl
@[simp] theorem State.setEnc_threshBad (s : State) (n : Nat) (e : EncRt) : (s.setEnc n e).threshBad = s.threshBad := rfl
@[simp] theorem State.setEnc_levels (s : State) (n : Nat) (e : EncRt) : (s.setEnc n e).levels = s.levels := rfl
@[simp] theorem State.setEnc_levelsBad (s : State) (n : Nat) (e : EncRt) : (s.setEnc n e).levelsBad = s.levelsBad := rfl
@[simp] theorem State.setEnc_tableChanges (s : State) (n : Nat) (e : EncRt) : (s.setEnc n e).tableChanges = s.tableChanges := rfl
@[simp] theorem State.setEnc_dueChanges (s : State) (n : Nat) (e : EncRt) : (s.setEnc n e).dueChanges = s.dueChanges := rfl
@[simp] theorem State.setEnc_slices (s : State) (n : Nat) (e : EncRt) : (s.setEnc n e).slices = s.slices := rfl
@[simp] theorem State.setEnc_rotNext (s : State) (n : Nat) (e : EncRt) : (s.setEnc n e).rotNext = s.rotNext := rfl
@[simp] theorem State.setEnc_rowCache (s : State) (n : Nat) (e : EncRt) : (s.setEnc n e).rowCache = s.rowCache := rfl
@[simp] theorem State.setEnc_rotAt (s : State) (n : Nat) (e : EncRt) : (s.setEnc n e).rotAt = s.rotAt := rfl
@[simp] theorem State.setEnc_lanes (s : State) (n : Nat) (e : EncRt) : (s.setEnc n e).lanes = s.lanes := rfl
@[simp] theorem State.setEnc_trainPks (s : State) (n : Nat) (e : EncRt) : (s.setEnc n e).trainPks = s.trainPks := rfl
@[simp] theorem State.setEnc_latPks (s : State) (n : Nat) (e : EncRt) : (s.setEnc n e).latPks = s.latPks := rfl
@[simp] theorem State.setEnc_heads (s : State) (n : Nat) (e : EncRt) : (s.setEnc n e).heads = s.heads := rfl
@[simp] theorem State.setEnc_syns (s : State) (n : Nat) (e : EncRt) : (s.setEnc n e).syns = s.syns := rfl
@[simp] theorem State.setEnc_cmps (s : State) (n : Nat) (e : EncRt) : (s.setEnc n e).cmps = s.cmps := rfl
@[simp] theorem State.setEnc_latches (s : State) (n : Nat) (e : EncRt) : (s.setEnc n e).latches = s.latches := rfl
@[simp] theorem State.setEnc_divs (s : State) (n : Nat) (e : EncRt) : (s.setEnc n e).divs = s.divs := rfl
@[simp] theorem State.setEnc_tbs (s : State) (n : Nat) (e : EncRt) : (s.setEnc n e).tbs = s.tbs := rfl
@[simp] theorem State.setEnc_ptp (s : State) (n : Nat) (e : EncRt) : (s.setEnc n e).ptp = s.ptp := rfl
@[simp] theorem State.setEnc_axes (s : State) (n : Nat) (e : EncRt) : (s.setEnc n e).axes = s.axes := rfl
@[simp] theorem State.setEnc_pulses (s : State) (n : Nat) (e : EncRt) : (s.setEnc n e).pulses = s.pulses := rfl
@[simp] theorem State.setEnc_ownCrcs (s : State) (n : Nat) (e : EncRt) : (s.setEnc n e).ownCrcs = s.ownCrcs := rfl
@[simp] theorem State.setEnc_peerCrcs (s : State) (n : Nat) (e : EncRt) : (s.setEnc n e).peerCrcs = s.peerCrcs := rfl
@[simp] theorem State.setEnc_check (s : State) (n : Nat) (e : EncRt) : (s.setEnc n e).check = s.check := rfl
@[simp] theorem State.setEnc_compareFrom (s : State) (n : Nat) (e : EncRt) : (s.setEnc n e).compareFrom = s.compareFrom := rfl
@[simp] theorem State.setEnc_tokens (s : State) (n : Nat) (e : EncRt) : (s.setEnc n e).tokens = s.tokens := rfl
@[simp] theorem State.setEnc_ticks (s : State) (n : Nat) (e : EncRt) : (s.setEnc n e).ticks = s.ticks := rfl
@[simp] theorem State.setEnc_yk (s : State) (n : Nat) (e : EncRt) : (s.setEnc n e).yk = s.yk := rfl
@[simp] theorem State.setEnc_gl (s : State) (n : Nat) (e : EncRt) : (s.setEnc n e).gl = s.gl := rfl
@[simp] theorem State.setEnc_hlth (s : State) (n : Nat) (e : EncRt) : (s.setEnc n e).hlth = s.hlth := rfl
@[simp] theorem State.setEnc_sec (s : State) (n : Nat) (e : EncRt) : (s.setEnc n e).sec = s.sec := rfl
@[simp] theorem State.setEnc_nor (s : State) (n : Nat) (e : EncRt) : (s.setEnc n e).nor = s.nor := rfl
@[simp] theorem State.setEnc_sysr (s : State) (n : Nat) (e : EncRt) : (s.setEnc n e).sysr = s.sysr := rfl
@[simp] theorem State.setEnc_heldCmds (s : State) (n : Nat) (e : EncRt) : (s.setEnc n e).heldCmds = s.heldCmds := rfl
@[simp] theorem State.setEnc_cams (s : State) (n : Nat) (e : EncRt) : (s.setEnc n e).cams = s.cams := rfl
@[simp] theorem State.setEnc_insp (s : State) (n : Nat) (e : EncRt) : (s.setEnc n e).insp = s.insp := rfl
@[simp] theorem State.setEnc_cal (s : State) (n : Nat) (e : EncRt) : (s.setEnc n e).cal = s.cal := rfl

/-! ## `State.setSyn` -/

@[simp] theorem State.setSyn_pending (s : State) (n : Nat) (x : SynRt) : (s.setSyn n x).pending = s.pending := rfl
@[simp] theorem State.setSyn_now (s : State) (n : Nat) (x : SynRt) : (s.setSyn n x).now = s.now := rfl
@[simp] theorem State.setSyn_fresh (s : State) (n : Nat) (x : SynRt) : (s.setSyn n x).fresh = s.fresh := rfl
@[simp] theorem State.setSyn_regs (s : State) (n : Nat) (x : SynRt) : (s.setSyn n x).regs = s.regs := rfl
@[simp] theorem State.setSyn_locked (s : State) (n : Nat) (x : SynRt) : (s.setSyn n x).locked = s.locked := rfl
@[simp] theorem State.setSyn_captured (s : State) (n : Nat) (x : SynRt) : (s.setSyn n x).captured = s.captured := rfl
@[simp] theorem State.setSyn_staged (s : State) (n : Nat) (x : SynRt) : (s.setSyn n x).staged = s.staged := rfl
@[simp] theorem State.setSyn_shadow (s : State) (n : Nat) (x : SynRt) : (s.setSyn n x).shadow = s.shadow := rfl
@[simp] theorem State.setSyn_events (s : State) (n : Nat) (x : SynRt) : (s.setSyn n x).events = s.events := rfl
@[simp] theorem State.setSyn_modes (s : State) (n : Nat) (x : SynRt) : (s.setSyn n x).modes = s.modes := rfl
@[simp] theorem State.setSyn_heldCtrl (s : State) (n : Nat) (x : SynRt) : (s.setSyn n x).heldCtrl = s.heldCtrl := rfl
@[simp] theorem State.setSyn_sysReported (s : State) (n : Nat) (x : SynRt) : (s.setSyn n x).sysReported = s.sysReported := rfl
@[simp] theorem State.setSyn_sent (s : State) (n : Nat) (x : SynRt) : (s.setSyn n x).sent = s.sent := rfl
@[simp] theorem State.setSyn_host (s : State) (n : Nat) (x : SynRt) : (s.setSyn n x).host = s.host := rfl
@[simp] theorem State.setSyn_hostMarks (s : State) (n : Nat) (x : SynRt) : (s.setSyn n x).hostMarks = s.hostMarks := rfl
@[simp] theorem State.setSyn_dram (s : State) (n : Nat) (x : SynRt) : (s.setSyn n x).dram = s.dram := rfl
@[simp] theorem State.setSyn_dramPoison (s : State) (n : Nat) (x : SynRt) : (s.setSyn n x).dramPoison = s.dramPoison := rfl
@[simp] theorem State.setSyn_dramErr (s : State) (n : Nat) (x : SynRt) : (s.setSyn n x).dramErr = s.dramErr := rfl
@[simp] theorem State.setSyn_ceRows (s : State) (n : Nat) (x : SynRt) : (s.setSyn n x).ceRows = s.ceRows := rfl
@[simp] theorem State.setSyn_retired (s : State) (n : Nat) (x : SynRt) : (s.setSyn n x).retired = s.retired := rfl
@[simp] theorem State.setSyn_remaps (s : State) (n : Nat) (x : SynRt) : (s.setSyn n x).remaps = s.remaps := rfl
@[simp] theorem State.setSyn_memLog (s : State) (n : Nat) (x : SynRt) : (s.setSyn n x).memLog = s.memLog := rfl
@[simp] theorem State.setSyn_mem (s : State) (n : Nat) (x : SynRt) : (s.setSyn n x).mem = s.mem := rfl
@[simp] theorem State.setSyn_tallies (s : State) (n : Nat) (x : SynRt) : (s.setSyn n x).tallies = s.tallies := rfl
@[simp] theorem State.setSyn_rings (s : State) (n : Nat) (x : SynRt) : (s.setSyn n x).rings = s.rings := rfl
@[simp] theorem State.setSyn_pkEpoch (s : State) (n : Nat) (x : SynRt) : (s.setSyn n x).pkEpoch = s.pkEpoch := rfl
@[simp] theorem State.setSyn_arbRing (s : State) (n : Nat) (x : SynRt) : (s.setSyn n x).arbRing = s.arbRing := rfl
@[simp] theorem State.setSyn_arbLeft (s : State) (n : Nat) (x : SynRt) : (s.setSyn n x).arbLeft = s.arbLeft := rfl
@[simp] theorem State.setSyn_drains (s : State) (n : Nat) (x : SynRt) : (s.setSyn n x).drains = s.drains := rfl
@[simp] theorem State.setSyn_holdings (s : State) (n : Nat) (x : SynRt) : (s.setSyn n x).holdings = s.holdings := rfl
@[simp] theorem State.setSyn_ctxs (s : State) (n : Nat) (x : SynRt) : (s.setSyn n x).ctxs = s.ctxs := rfl
@[simp] theorem State.setSyn_globalLine (s : State) (n : Nat) (x : SynRt) : (s.setSyn n x).globalLine = s.globalLine := rfl
@[simp] theorem State.setSyn_handles (s : State) (n : Nat) (x : SynRt) : (s.setSyn n x).handles = s.handles := rfl
@[simp] theorem State.setSyn_baleJobs (s : State) (n : Nat) (x : SynRt) : (s.setSyn n x).baleJobs = s.baleJobs := rfl
@[simp] theorem State.setSyn_holders (s : State) (n : Nat) (x : SynRt) : (s.setSyn n x).holders = s.holders := rfl
@[simp] theorem State.setSyn_gangs (s : State) (n : Nat) (x : SynRt) : (s.setSyn n x).gangs = s.gangs := rfl
@[simp] theorem State.setSyn_nmap (s : State) (n : Nat) (x : SynRt) : (s.setSyn n x).nmap = s.nmap := rfl
@[simp] theorem State.setSyn_nmapBad (s : State) (n : Nat) (x : SynRt) : (s.setSyn n x).nmapBad = s.nmapBad := rfl
@[simp] theorem State.setSyn_ncal (s : State) (n : Nat) (x : SynRt) : (s.setSyn n x).ncal = s.ncal := rfl
@[simp] theorem State.setSyn_ncalBad (s : State) (n : Nat) (x : SynRt) : (s.setSyn n x).ncalBad = s.ncalBad := rfl
@[simp] theorem State.setSyn_thresh (s : State) (n : Nat) (x : SynRt) : (s.setSyn n x).thresh = s.thresh := rfl
@[simp] theorem State.setSyn_threshBad (s : State) (n : Nat) (x : SynRt) : (s.setSyn n x).threshBad = s.threshBad := rfl
@[simp] theorem State.setSyn_levels (s : State) (n : Nat) (x : SynRt) : (s.setSyn n x).levels = s.levels := rfl
@[simp] theorem State.setSyn_levelsBad (s : State) (n : Nat) (x : SynRt) : (s.setSyn n x).levelsBad = s.levelsBad := rfl
@[simp] theorem State.setSyn_tableChanges (s : State) (n : Nat) (x : SynRt) : (s.setSyn n x).tableChanges = s.tableChanges := rfl
@[simp] theorem State.setSyn_dueChanges (s : State) (n : Nat) (x : SynRt) : (s.setSyn n x).dueChanges = s.dueChanges := rfl
@[simp] theorem State.setSyn_slices (s : State) (n : Nat) (x : SynRt) : (s.setSyn n x).slices = s.slices := rfl
@[simp] theorem State.setSyn_rotNext (s : State) (n : Nat) (x : SynRt) : (s.setSyn n x).rotNext = s.rotNext := rfl
@[simp] theorem State.setSyn_rowCache (s : State) (n : Nat) (x : SynRt) : (s.setSyn n x).rowCache = s.rowCache := rfl
@[simp] theorem State.setSyn_rotAt (s : State) (n : Nat) (x : SynRt) : (s.setSyn n x).rotAt = s.rotAt := rfl
@[simp] theorem State.setSyn_lanes (s : State) (n : Nat) (x : SynRt) : (s.setSyn n x).lanes = s.lanes := rfl
@[simp] theorem State.setSyn_trainPks (s : State) (n : Nat) (x : SynRt) : (s.setSyn n x).trainPks = s.trainPks := rfl
@[simp] theorem State.setSyn_latPks (s : State) (n : Nat) (x : SynRt) : (s.setSyn n x).latPks = s.latPks := rfl
@[simp] theorem State.setSyn_heads (s : State) (n : Nat) (x : SynRt) : (s.setSyn n x).heads = s.heads := rfl
@[simp] theorem State.setSyn_encs (s : State) (n : Nat) (x : SynRt) : (s.setSyn n x).encs = s.encs := rfl
@[simp] theorem State.setSyn_cmps (s : State) (n : Nat) (x : SynRt) : (s.setSyn n x).cmps = s.cmps := rfl
@[simp] theorem State.setSyn_latches (s : State) (n : Nat) (x : SynRt) : (s.setSyn n x).latches = s.latches := rfl
@[simp] theorem State.setSyn_divs (s : State) (n : Nat) (x : SynRt) : (s.setSyn n x).divs = s.divs := rfl
@[simp] theorem State.setSyn_tbs (s : State) (n : Nat) (x : SynRt) : (s.setSyn n x).tbs = s.tbs := rfl
@[simp] theorem State.setSyn_ptp (s : State) (n : Nat) (x : SynRt) : (s.setSyn n x).ptp = s.ptp := rfl
@[simp] theorem State.setSyn_axes (s : State) (n : Nat) (x : SynRt) : (s.setSyn n x).axes = s.axes := rfl
@[simp] theorem State.setSyn_pulses (s : State) (n : Nat) (x : SynRt) : (s.setSyn n x).pulses = s.pulses := rfl
@[simp] theorem State.setSyn_ownCrcs (s : State) (n : Nat) (x : SynRt) : (s.setSyn n x).ownCrcs = s.ownCrcs := rfl
@[simp] theorem State.setSyn_peerCrcs (s : State) (n : Nat) (x : SynRt) : (s.setSyn n x).peerCrcs = s.peerCrcs := rfl
@[simp] theorem State.setSyn_check (s : State) (n : Nat) (x : SynRt) : (s.setSyn n x).check = s.check := rfl
@[simp] theorem State.setSyn_compareFrom (s : State) (n : Nat) (x : SynRt) : (s.setSyn n x).compareFrom = s.compareFrom := rfl
@[simp] theorem State.setSyn_tokens (s : State) (n : Nat) (x : SynRt) : (s.setSyn n x).tokens = s.tokens := rfl
@[simp] theorem State.setSyn_ticks (s : State) (n : Nat) (x : SynRt) : (s.setSyn n x).ticks = s.ticks := rfl
@[simp] theorem State.setSyn_yk (s : State) (n : Nat) (x : SynRt) : (s.setSyn n x).yk = s.yk := rfl
@[simp] theorem State.setSyn_gl (s : State) (n : Nat) (x : SynRt) : (s.setSyn n x).gl = s.gl := rfl
@[simp] theorem State.setSyn_hlth (s : State) (n : Nat) (x : SynRt) : (s.setSyn n x).hlth = s.hlth := rfl
@[simp] theorem State.setSyn_sec (s : State) (n : Nat) (x : SynRt) : (s.setSyn n x).sec = s.sec := rfl
@[simp] theorem State.setSyn_nor (s : State) (n : Nat) (x : SynRt) : (s.setSyn n x).nor = s.nor := rfl
@[simp] theorem State.setSyn_sysr (s : State) (n : Nat) (x : SynRt) : (s.setSyn n x).sysr = s.sysr := rfl
@[simp] theorem State.setSyn_heldCmds (s : State) (n : Nat) (x : SynRt) : (s.setSyn n x).heldCmds = s.heldCmds := rfl
@[simp] theorem State.setSyn_cams (s : State) (n : Nat) (x : SynRt) : (s.setSyn n x).cams = s.cams := rfl
@[simp] theorem State.setSyn_insp (s : State) (n : Nat) (x : SynRt) : (s.setSyn n x).insp = s.insp := rfl
@[simp] theorem State.setSyn_cal (s : State) (n : Nat) (x : SynRt) : (s.setSyn n x).cal = s.cal := rfl

/-! ## `State.setCmp` -/

@[simp] theorem State.setCmp_pending (s : State) (n : Nat) (x : CmpRt) : (s.setCmp n x).pending = s.pending := rfl
@[simp] theorem State.setCmp_now (s : State) (n : Nat) (x : CmpRt) : (s.setCmp n x).now = s.now := rfl
@[simp] theorem State.setCmp_fresh (s : State) (n : Nat) (x : CmpRt) : (s.setCmp n x).fresh = s.fresh := rfl
@[simp] theorem State.setCmp_regs (s : State) (n : Nat) (x : CmpRt) : (s.setCmp n x).regs = s.regs := rfl
@[simp] theorem State.setCmp_locked (s : State) (n : Nat) (x : CmpRt) : (s.setCmp n x).locked = s.locked := rfl
@[simp] theorem State.setCmp_captured (s : State) (n : Nat) (x : CmpRt) : (s.setCmp n x).captured = s.captured := rfl
@[simp] theorem State.setCmp_staged (s : State) (n : Nat) (x : CmpRt) : (s.setCmp n x).staged = s.staged := rfl
@[simp] theorem State.setCmp_shadow (s : State) (n : Nat) (x : CmpRt) : (s.setCmp n x).shadow = s.shadow := rfl
@[simp] theorem State.setCmp_events (s : State) (n : Nat) (x : CmpRt) : (s.setCmp n x).events = s.events := rfl
@[simp] theorem State.setCmp_modes (s : State) (n : Nat) (x : CmpRt) : (s.setCmp n x).modes = s.modes := rfl
@[simp] theorem State.setCmp_heldCtrl (s : State) (n : Nat) (x : CmpRt) : (s.setCmp n x).heldCtrl = s.heldCtrl := rfl
@[simp] theorem State.setCmp_sysReported (s : State) (n : Nat) (x : CmpRt) : (s.setCmp n x).sysReported = s.sysReported := rfl
@[simp] theorem State.setCmp_sent (s : State) (n : Nat) (x : CmpRt) : (s.setCmp n x).sent = s.sent := rfl
@[simp] theorem State.setCmp_host (s : State) (n : Nat) (x : CmpRt) : (s.setCmp n x).host = s.host := rfl
@[simp] theorem State.setCmp_hostMarks (s : State) (n : Nat) (x : CmpRt) : (s.setCmp n x).hostMarks = s.hostMarks := rfl
@[simp] theorem State.setCmp_dram (s : State) (n : Nat) (x : CmpRt) : (s.setCmp n x).dram = s.dram := rfl
@[simp] theorem State.setCmp_dramPoison (s : State) (n : Nat) (x : CmpRt) : (s.setCmp n x).dramPoison = s.dramPoison := rfl
@[simp] theorem State.setCmp_dramErr (s : State) (n : Nat) (x : CmpRt) : (s.setCmp n x).dramErr = s.dramErr := rfl
@[simp] theorem State.setCmp_ceRows (s : State) (n : Nat) (x : CmpRt) : (s.setCmp n x).ceRows = s.ceRows := rfl
@[simp] theorem State.setCmp_retired (s : State) (n : Nat) (x : CmpRt) : (s.setCmp n x).retired = s.retired := rfl
@[simp] theorem State.setCmp_remaps (s : State) (n : Nat) (x : CmpRt) : (s.setCmp n x).remaps = s.remaps := rfl
@[simp] theorem State.setCmp_memLog (s : State) (n : Nat) (x : CmpRt) : (s.setCmp n x).memLog = s.memLog := rfl
@[simp] theorem State.setCmp_mem (s : State) (n : Nat) (x : CmpRt) : (s.setCmp n x).mem = s.mem := rfl
@[simp] theorem State.setCmp_tallies (s : State) (n : Nat) (x : CmpRt) : (s.setCmp n x).tallies = s.tallies := rfl
@[simp] theorem State.setCmp_rings (s : State) (n : Nat) (x : CmpRt) : (s.setCmp n x).rings = s.rings := rfl
@[simp] theorem State.setCmp_pkEpoch (s : State) (n : Nat) (x : CmpRt) : (s.setCmp n x).pkEpoch = s.pkEpoch := rfl
@[simp] theorem State.setCmp_arbRing (s : State) (n : Nat) (x : CmpRt) : (s.setCmp n x).arbRing = s.arbRing := rfl
@[simp] theorem State.setCmp_arbLeft (s : State) (n : Nat) (x : CmpRt) : (s.setCmp n x).arbLeft = s.arbLeft := rfl
@[simp] theorem State.setCmp_drains (s : State) (n : Nat) (x : CmpRt) : (s.setCmp n x).drains = s.drains := rfl
@[simp] theorem State.setCmp_holdings (s : State) (n : Nat) (x : CmpRt) : (s.setCmp n x).holdings = s.holdings := rfl
@[simp] theorem State.setCmp_ctxs (s : State) (n : Nat) (x : CmpRt) : (s.setCmp n x).ctxs = s.ctxs := rfl
@[simp] theorem State.setCmp_globalLine (s : State) (n : Nat) (x : CmpRt) : (s.setCmp n x).globalLine = s.globalLine := rfl
@[simp] theorem State.setCmp_handles (s : State) (n : Nat) (x : CmpRt) : (s.setCmp n x).handles = s.handles := rfl
@[simp] theorem State.setCmp_baleJobs (s : State) (n : Nat) (x : CmpRt) : (s.setCmp n x).baleJobs = s.baleJobs := rfl
@[simp] theorem State.setCmp_holders (s : State) (n : Nat) (x : CmpRt) : (s.setCmp n x).holders = s.holders := rfl
@[simp] theorem State.setCmp_gangs (s : State) (n : Nat) (x : CmpRt) : (s.setCmp n x).gangs = s.gangs := rfl
@[simp] theorem State.setCmp_nmap (s : State) (n : Nat) (x : CmpRt) : (s.setCmp n x).nmap = s.nmap := rfl
@[simp] theorem State.setCmp_nmapBad (s : State) (n : Nat) (x : CmpRt) : (s.setCmp n x).nmapBad = s.nmapBad := rfl
@[simp] theorem State.setCmp_ncal (s : State) (n : Nat) (x : CmpRt) : (s.setCmp n x).ncal = s.ncal := rfl
@[simp] theorem State.setCmp_ncalBad (s : State) (n : Nat) (x : CmpRt) : (s.setCmp n x).ncalBad = s.ncalBad := rfl
@[simp] theorem State.setCmp_thresh (s : State) (n : Nat) (x : CmpRt) : (s.setCmp n x).thresh = s.thresh := rfl
@[simp] theorem State.setCmp_threshBad (s : State) (n : Nat) (x : CmpRt) : (s.setCmp n x).threshBad = s.threshBad := rfl
@[simp] theorem State.setCmp_levels (s : State) (n : Nat) (x : CmpRt) : (s.setCmp n x).levels = s.levels := rfl
@[simp] theorem State.setCmp_levelsBad (s : State) (n : Nat) (x : CmpRt) : (s.setCmp n x).levelsBad = s.levelsBad := rfl
@[simp] theorem State.setCmp_tableChanges (s : State) (n : Nat) (x : CmpRt) : (s.setCmp n x).tableChanges = s.tableChanges := rfl
@[simp] theorem State.setCmp_dueChanges (s : State) (n : Nat) (x : CmpRt) : (s.setCmp n x).dueChanges = s.dueChanges := rfl
@[simp] theorem State.setCmp_slices (s : State) (n : Nat) (x : CmpRt) : (s.setCmp n x).slices = s.slices := rfl
@[simp] theorem State.setCmp_rotNext (s : State) (n : Nat) (x : CmpRt) : (s.setCmp n x).rotNext = s.rotNext := rfl
@[simp] theorem State.setCmp_rowCache (s : State) (n : Nat) (x : CmpRt) : (s.setCmp n x).rowCache = s.rowCache := rfl
@[simp] theorem State.setCmp_rotAt (s : State) (n : Nat) (x : CmpRt) : (s.setCmp n x).rotAt = s.rotAt := rfl
@[simp] theorem State.setCmp_lanes (s : State) (n : Nat) (x : CmpRt) : (s.setCmp n x).lanes = s.lanes := rfl
@[simp] theorem State.setCmp_trainPks (s : State) (n : Nat) (x : CmpRt) : (s.setCmp n x).trainPks = s.trainPks := rfl
@[simp] theorem State.setCmp_latPks (s : State) (n : Nat) (x : CmpRt) : (s.setCmp n x).latPks = s.latPks := rfl
@[simp] theorem State.setCmp_heads (s : State) (n : Nat) (x : CmpRt) : (s.setCmp n x).heads = s.heads := rfl
@[simp] theorem State.setCmp_encs (s : State) (n : Nat) (x : CmpRt) : (s.setCmp n x).encs = s.encs := rfl
@[simp] theorem State.setCmp_syns (s : State) (n : Nat) (x : CmpRt) : (s.setCmp n x).syns = s.syns := rfl
@[simp] theorem State.setCmp_latches (s : State) (n : Nat) (x : CmpRt) : (s.setCmp n x).latches = s.latches := rfl
@[simp] theorem State.setCmp_divs (s : State) (n : Nat) (x : CmpRt) : (s.setCmp n x).divs = s.divs := rfl
@[simp] theorem State.setCmp_tbs (s : State) (n : Nat) (x : CmpRt) : (s.setCmp n x).tbs = s.tbs := rfl
@[simp] theorem State.setCmp_ptp (s : State) (n : Nat) (x : CmpRt) : (s.setCmp n x).ptp = s.ptp := rfl
@[simp] theorem State.setCmp_axes (s : State) (n : Nat) (x : CmpRt) : (s.setCmp n x).axes = s.axes := rfl
@[simp] theorem State.setCmp_pulses (s : State) (n : Nat) (x : CmpRt) : (s.setCmp n x).pulses = s.pulses := rfl
@[simp] theorem State.setCmp_ownCrcs (s : State) (n : Nat) (x : CmpRt) : (s.setCmp n x).ownCrcs = s.ownCrcs := rfl
@[simp] theorem State.setCmp_peerCrcs (s : State) (n : Nat) (x : CmpRt) : (s.setCmp n x).peerCrcs = s.peerCrcs := rfl
@[simp] theorem State.setCmp_check (s : State) (n : Nat) (x : CmpRt) : (s.setCmp n x).check = s.check := rfl
@[simp] theorem State.setCmp_compareFrom (s : State) (n : Nat) (x : CmpRt) : (s.setCmp n x).compareFrom = s.compareFrom := rfl
@[simp] theorem State.setCmp_tokens (s : State) (n : Nat) (x : CmpRt) : (s.setCmp n x).tokens = s.tokens := rfl
@[simp] theorem State.setCmp_ticks (s : State) (n : Nat) (x : CmpRt) : (s.setCmp n x).ticks = s.ticks := rfl
@[simp] theorem State.setCmp_yk (s : State) (n : Nat) (x : CmpRt) : (s.setCmp n x).yk = s.yk := rfl
@[simp] theorem State.setCmp_gl (s : State) (n : Nat) (x : CmpRt) : (s.setCmp n x).gl = s.gl := rfl
@[simp] theorem State.setCmp_hlth (s : State) (n : Nat) (x : CmpRt) : (s.setCmp n x).hlth = s.hlth := rfl
@[simp] theorem State.setCmp_sec (s : State) (n : Nat) (x : CmpRt) : (s.setCmp n x).sec = s.sec := rfl
@[simp] theorem State.setCmp_nor (s : State) (n : Nat) (x : CmpRt) : (s.setCmp n x).nor = s.nor := rfl
@[simp] theorem State.setCmp_sysr (s : State) (n : Nat) (x : CmpRt) : (s.setCmp n x).sysr = s.sysr := rfl
@[simp] theorem State.setCmp_heldCmds (s : State) (n : Nat) (x : CmpRt) : (s.setCmp n x).heldCmds = s.heldCmds := rfl
@[simp] theorem State.setCmp_cams (s : State) (n : Nat) (x : CmpRt) : (s.setCmp n x).cams = s.cams := rfl
@[simp] theorem State.setCmp_insp (s : State) (n : Nat) (x : CmpRt) : (s.setCmp n x).insp = s.insp := rfl
@[simp] theorem State.setCmp_cal (s : State) (n : Nat) (x : CmpRt) : (s.setCmp n x).cal = s.cal := rfl

/-! ## `State.setLatch` -/

@[simp] theorem State.setLatch_pending (s : State) (n : Nat) (x : LatchRt) : (s.setLatch n x).pending = s.pending := rfl
@[simp] theorem State.setLatch_now (s : State) (n : Nat) (x : LatchRt) : (s.setLatch n x).now = s.now := rfl
@[simp] theorem State.setLatch_fresh (s : State) (n : Nat) (x : LatchRt) : (s.setLatch n x).fresh = s.fresh := rfl
@[simp] theorem State.setLatch_regs (s : State) (n : Nat) (x : LatchRt) : (s.setLatch n x).regs = s.regs := rfl
@[simp] theorem State.setLatch_locked (s : State) (n : Nat) (x : LatchRt) : (s.setLatch n x).locked = s.locked := rfl
@[simp] theorem State.setLatch_captured (s : State) (n : Nat) (x : LatchRt) : (s.setLatch n x).captured = s.captured := rfl
@[simp] theorem State.setLatch_staged (s : State) (n : Nat) (x : LatchRt) : (s.setLatch n x).staged = s.staged := rfl
@[simp] theorem State.setLatch_shadow (s : State) (n : Nat) (x : LatchRt) : (s.setLatch n x).shadow = s.shadow := rfl
@[simp] theorem State.setLatch_events (s : State) (n : Nat) (x : LatchRt) : (s.setLatch n x).events = s.events := rfl
@[simp] theorem State.setLatch_modes (s : State) (n : Nat) (x : LatchRt) : (s.setLatch n x).modes = s.modes := rfl
@[simp] theorem State.setLatch_heldCtrl (s : State) (n : Nat) (x : LatchRt) : (s.setLatch n x).heldCtrl = s.heldCtrl := rfl
@[simp] theorem State.setLatch_sysReported (s : State) (n : Nat) (x : LatchRt) : (s.setLatch n x).sysReported = s.sysReported := rfl
@[simp] theorem State.setLatch_sent (s : State) (n : Nat) (x : LatchRt) : (s.setLatch n x).sent = s.sent := rfl
@[simp] theorem State.setLatch_host (s : State) (n : Nat) (x : LatchRt) : (s.setLatch n x).host = s.host := rfl
@[simp] theorem State.setLatch_hostMarks (s : State) (n : Nat) (x : LatchRt) : (s.setLatch n x).hostMarks = s.hostMarks := rfl
@[simp] theorem State.setLatch_dram (s : State) (n : Nat) (x : LatchRt) : (s.setLatch n x).dram = s.dram := rfl
@[simp] theorem State.setLatch_dramPoison (s : State) (n : Nat) (x : LatchRt) : (s.setLatch n x).dramPoison = s.dramPoison := rfl
@[simp] theorem State.setLatch_dramErr (s : State) (n : Nat) (x : LatchRt) : (s.setLatch n x).dramErr = s.dramErr := rfl
@[simp] theorem State.setLatch_ceRows (s : State) (n : Nat) (x : LatchRt) : (s.setLatch n x).ceRows = s.ceRows := rfl
@[simp] theorem State.setLatch_retired (s : State) (n : Nat) (x : LatchRt) : (s.setLatch n x).retired = s.retired := rfl
@[simp] theorem State.setLatch_remaps (s : State) (n : Nat) (x : LatchRt) : (s.setLatch n x).remaps = s.remaps := rfl
@[simp] theorem State.setLatch_memLog (s : State) (n : Nat) (x : LatchRt) : (s.setLatch n x).memLog = s.memLog := rfl
@[simp] theorem State.setLatch_mem (s : State) (n : Nat) (x : LatchRt) : (s.setLatch n x).mem = s.mem := rfl
@[simp] theorem State.setLatch_tallies (s : State) (n : Nat) (x : LatchRt) : (s.setLatch n x).tallies = s.tallies := rfl
@[simp] theorem State.setLatch_rings (s : State) (n : Nat) (x : LatchRt) : (s.setLatch n x).rings = s.rings := rfl
@[simp] theorem State.setLatch_pkEpoch (s : State) (n : Nat) (x : LatchRt) : (s.setLatch n x).pkEpoch = s.pkEpoch := rfl
@[simp] theorem State.setLatch_arbRing (s : State) (n : Nat) (x : LatchRt) : (s.setLatch n x).arbRing = s.arbRing := rfl
@[simp] theorem State.setLatch_arbLeft (s : State) (n : Nat) (x : LatchRt) : (s.setLatch n x).arbLeft = s.arbLeft := rfl
@[simp] theorem State.setLatch_drains (s : State) (n : Nat) (x : LatchRt) : (s.setLatch n x).drains = s.drains := rfl
@[simp] theorem State.setLatch_holdings (s : State) (n : Nat) (x : LatchRt) : (s.setLatch n x).holdings = s.holdings := rfl
@[simp] theorem State.setLatch_ctxs (s : State) (n : Nat) (x : LatchRt) : (s.setLatch n x).ctxs = s.ctxs := rfl
@[simp] theorem State.setLatch_globalLine (s : State) (n : Nat) (x : LatchRt) : (s.setLatch n x).globalLine = s.globalLine := rfl
@[simp] theorem State.setLatch_handles (s : State) (n : Nat) (x : LatchRt) : (s.setLatch n x).handles = s.handles := rfl
@[simp] theorem State.setLatch_baleJobs (s : State) (n : Nat) (x : LatchRt) : (s.setLatch n x).baleJobs = s.baleJobs := rfl
@[simp] theorem State.setLatch_holders (s : State) (n : Nat) (x : LatchRt) : (s.setLatch n x).holders = s.holders := rfl
@[simp] theorem State.setLatch_gangs (s : State) (n : Nat) (x : LatchRt) : (s.setLatch n x).gangs = s.gangs := rfl
@[simp] theorem State.setLatch_nmap (s : State) (n : Nat) (x : LatchRt) : (s.setLatch n x).nmap = s.nmap := rfl
@[simp] theorem State.setLatch_nmapBad (s : State) (n : Nat) (x : LatchRt) : (s.setLatch n x).nmapBad = s.nmapBad := rfl
@[simp] theorem State.setLatch_ncal (s : State) (n : Nat) (x : LatchRt) : (s.setLatch n x).ncal = s.ncal := rfl
@[simp] theorem State.setLatch_ncalBad (s : State) (n : Nat) (x : LatchRt) : (s.setLatch n x).ncalBad = s.ncalBad := rfl
@[simp] theorem State.setLatch_thresh (s : State) (n : Nat) (x : LatchRt) : (s.setLatch n x).thresh = s.thresh := rfl
@[simp] theorem State.setLatch_threshBad (s : State) (n : Nat) (x : LatchRt) : (s.setLatch n x).threshBad = s.threshBad := rfl
@[simp] theorem State.setLatch_levels (s : State) (n : Nat) (x : LatchRt) : (s.setLatch n x).levels = s.levels := rfl
@[simp] theorem State.setLatch_levelsBad (s : State) (n : Nat) (x : LatchRt) : (s.setLatch n x).levelsBad = s.levelsBad := rfl
@[simp] theorem State.setLatch_tableChanges (s : State) (n : Nat) (x : LatchRt) : (s.setLatch n x).tableChanges = s.tableChanges := rfl
@[simp] theorem State.setLatch_dueChanges (s : State) (n : Nat) (x : LatchRt) : (s.setLatch n x).dueChanges = s.dueChanges := rfl
@[simp] theorem State.setLatch_slices (s : State) (n : Nat) (x : LatchRt) : (s.setLatch n x).slices = s.slices := rfl
@[simp] theorem State.setLatch_rotNext (s : State) (n : Nat) (x : LatchRt) : (s.setLatch n x).rotNext = s.rotNext := rfl
@[simp] theorem State.setLatch_rowCache (s : State) (n : Nat) (x : LatchRt) : (s.setLatch n x).rowCache = s.rowCache := rfl
@[simp] theorem State.setLatch_rotAt (s : State) (n : Nat) (x : LatchRt) : (s.setLatch n x).rotAt = s.rotAt := rfl
@[simp] theorem State.setLatch_lanes (s : State) (n : Nat) (x : LatchRt) : (s.setLatch n x).lanes = s.lanes := rfl
@[simp] theorem State.setLatch_trainPks (s : State) (n : Nat) (x : LatchRt) : (s.setLatch n x).trainPks = s.trainPks := rfl
@[simp] theorem State.setLatch_latPks (s : State) (n : Nat) (x : LatchRt) : (s.setLatch n x).latPks = s.latPks := rfl
@[simp] theorem State.setLatch_heads (s : State) (n : Nat) (x : LatchRt) : (s.setLatch n x).heads = s.heads := rfl
@[simp] theorem State.setLatch_encs (s : State) (n : Nat) (x : LatchRt) : (s.setLatch n x).encs = s.encs := rfl
@[simp] theorem State.setLatch_syns (s : State) (n : Nat) (x : LatchRt) : (s.setLatch n x).syns = s.syns := rfl
@[simp] theorem State.setLatch_cmps (s : State) (n : Nat) (x : LatchRt) : (s.setLatch n x).cmps = s.cmps := rfl
@[simp] theorem State.setLatch_divs (s : State) (n : Nat) (x : LatchRt) : (s.setLatch n x).divs = s.divs := rfl
@[simp] theorem State.setLatch_tbs (s : State) (n : Nat) (x : LatchRt) : (s.setLatch n x).tbs = s.tbs := rfl
@[simp] theorem State.setLatch_ptp (s : State) (n : Nat) (x : LatchRt) : (s.setLatch n x).ptp = s.ptp := rfl
@[simp] theorem State.setLatch_axes (s : State) (n : Nat) (x : LatchRt) : (s.setLatch n x).axes = s.axes := rfl
@[simp] theorem State.setLatch_pulses (s : State) (n : Nat) (x : LatchRt) : (s.setLatch n x).pulses = s.pulses := rfl
@[simp] theorem State.setLatch_ownCrcs (s : State) (n : Nat) (x : LatchRt) : (s.setLatch n x).ownCrcs = s.ownCrcs := rfl
@[simp] theorem State.setLatch_peerCrcs (s : State) (n : Nat) (x : LatchRt) : (s.setLatch n x).peerCrcs = s.peerCrcs := rfl
@[simp] theorem State.setLatch_check (s : State) (n : Nat) (x : LatchRt) : (s.setLatch n x).check = s.check := rfl
@[simp] theorem State.setLatch_compareFrom (s : State) (n : Nat) (x : LatchRt) : (s.setLatch n x).compareFrom = s.compareFrom := rfl
@[simp] theorem State.setLatch_tokens (s : State) (n : Nat) (x : LatchRt) : (s.setLatch n x).tokens = s.tokens := rfl
@[simp] theorem State.setLatch_ticks (s : State) (n : Nat) (x : LatchRt) : (s.setLatch n x).ticks = s.ticks := rfl
@[simp] theorem State.setLatch_yk (s : State) (n : Nat) (x : LatchRt) : (s.setLatch n x).yk = s.yk := rfl
@[simp] theorem State.setLatch_gl (s : State) (n : Nat) (x : LatchRt) : (s.setLatch n x).gl = s.gl := rfl
@[simp] theorem State.setLatch_hlth (s : State) (n : Nat) (x : LatchRt) : (s.setLatch n x).hlth = s.hlth := rfl
@[simp] theorem State.setLatch_sec (s : State) (n : Nat) (x : LatchRt) : (s.setLatch n x).sec = s.sec := rfl
@[simp] theorem State.setLatch_nor (s : State) (n : Nat) (x : LatchRt) : (s.setLatch n x).nor = s.nor := rfl
@[simp] theorem State.setLatch_sysr (s : State) (n : Nat) (x : LatchRt) : (s.setLatch n x).sysr = s.sysr := rfl
@[simp] theorem State.setLatch_heldCmds (s : State) (n : Nat) (x : LatchRt) : (s.setLatch n x).heldCmds = s.heldCmds := rfl
@[simp] theorem State.setLatch_cams (s : State) (n : Nat) (x : LatchRt) : (s.setLatch n x).cams = s.cams := rfl
@[simp] theorem State.setLatch_insp (s : State) (n : Nat) (x : LatchRt) : (s.setLatch n x).insp = s.insp := rfl
@[simp] theorem State.setLatch_cal (s : State) (n : Nat) (x : LatchRt) : (s.setLatch n x).cal = s.cal := rfl

/-! ## `State.setSlice` -/

@[simp] theorem State.setSlice_pending (s : State) (n : Nat) (x : SliceRt) : (s.setSlice n x).pending = s.pending := rfl
@[simp] theorem State.setSlice_now (s : State) (n : Nat) (x : SliceRt) : (s.setSlice n x).now = s.now := rfl
@[simp] theorem State.setSlice_fresh (s : State) (n : Nat) (x : SliceRt) : (s.setSlice n x).fresh = s.fresh := rfl
@[simp] theorem State.setSlice_regs (s : State) (n : Nat) (x : SliceRt) : (s.setSlice n x).regs = s.regs := rfl
@[simp] theorem State.setSlice_locked (s : State) (n : Nat) (x : SliceRt) : (s.setSlice n x).locked = s.locked := rfl
@[simp] theorem State.setSlice_captured (s : State) (n : Nat) (x : SliceRt) : (s.setSlice n x).captured = s.captured := rfl
@[simp] theorem State.setSlice_staged (s : State) (n : Nat) (x : SliceRt) : (s.setSlice n x).staged = s.staged := rfl
@[simp] theorem State.setSlice_shadow (s : State) (n : Nat) (x : SliceRt) : (s.setSlice n x).shadow = s.shadow := rfl
@[simp] theorem State.setSlice_events (s : State) (n : Nat) (x : SliceRt) : (s.setSlice n x).events = s.events := rfl
@[simp] theorem State.setSlice_modes (s : State) (n : Nat) (x : SliceRt) : (s.setSlice n x).modes = s.modes := rfl
@[simp] theorem State.setSlice_heldCtrl (s : State) (n : Nat) (x : SliceRt) : (s.setSlice n x).heldCtrl = s.heldCtrl := rfl
@[simp] theorem State.setSlice_sysReported (s : State) (n : Nat) (x : SliceRt) : (s.setSlice n x).sysReported = s.sysReported := rfl
@[simp] theorem State.setSlice_sent (s : State) (n : Nat) (x : SliceRt) : (s.setSlice n x).sent = s.sent := rfl
@[simp] theorem State.setSlice_host (s : State) (n : Nat) (x : SliceRt) : (s.setSlice n x).host = s.host := rfl
@[simp] theorem State.setSlice_hostMarks (s : State) (n : Nat) (x : SliceRt) : (s.setSlice n x).hostMarks = s.hostMarks := rfl
@[simp] theorem State.setSlice_dram (s : State) (n : Nat) (x : SliceRt) : (s.setSlice n x).dram = s.dram := rfl
@[simp] theorem State.setSlice_dramPoison (s : State) (n : Nat) (x : SliceRt) : (s.setSlice n x).dramPoison = s.dramPoison := rfl
@[simp] theorem State.setSlice_dramErr (s : State) (n : Nat) (x : SliceRt) : (s.setSlice n x).dramErr = s.dramErr := rfl
@[simp] theorem State.setSlice_ceRows (s : State) (n : Nat) (x : SliceRt) : (s.setSlice n x).ceRows = s.ceRows := rfl
@[simp] theorem State.setSlice_retired (s : State) (n : Nat) (x : SliceRt) : (s.setSlice n x).retired = s.retired := rfl
@[simp] theorem State.setSlice_remaps (s : State) (n : Nat) (x : SliceRt) : (s.setSlice n x).remaps = s.remaps := rfl
@[simp] theorem State.setSlice_memLog (s : State) (n : Nat) (x : SliceRt) : (s.setSlice n x).memLog = s.memLog := rfl
@[simp] theorem State.setSlice_mem (s : State) (n : Nat) (x : SliceRt) : (s.setSlice n x).mem = s.mem := rfl
@[simp] theorem State.setSlice_tallies (s : State) (n : Nat) (x : SliceRt) : (s.setSlice n x).tallies = s.tallies := rfl
@[simp] theorem State.setSlice_rings (s : State) (n : Nat) (x : SliceRt) : (s.setSlice n x).rings = s.rings := rfl
@[simp] theorem State.setSlice_pkEpoch (s : State) (n : Nat) (x : SliceRt) : (s.setSlice n x).pkEpoch = s.pkEpoch := rfl
@[simp] theorem State.setSlice_arbRing (s : State) (n : Nat) (x : SliceRt) : (s.setSlice n x).arbRing = s.arbRing := rfl
@[simp] theorem State.setSlice_arbLeft (s : State) (n : Nat) (x : SliceRt) : (s.setSlice n x).arbLeft = s.arbLeft := rfl
@[simp] theorem State.setSlice_drains (s : State) (n : Nat) (x : SliceRt) : (s.setSlice n x).drains = s.drains := rfl
@[simp] theorem State.setSlice_holdings (s : State) (n : Nat) (x : SliceRt) : (s.setSlice n x).holdings = s.holdings := rfl
@[simp] theorem State.setSlice_ctxs (s : State) (n : Nat) (x : SliceRt) : (s.setSlice n x).ctxs = s.ctxs := rfl
@[simp] theorem State.setSlice_globalLine (s : State) (n : Nat) (x : SliceRt) : (s.setSlice n x).globalLine = s.globalLine := rfl
@[simp] theorem State.setSlice_handles (s : State) (n : Nat) (x : SliceRt) : (s.setSlice n x).handles = s.handles := rfl
@[simp] theorem State.setSlice_baleJobs (s : State) (n : Nat) (x : SliceRt) : (s.setSlice n x).baleJobs = s.baleJobs := rfl
@[simp] theorem State.setSlice_holders (s : State) (n : Nat) (x : SliceRt) : (s.setSlice n x).holders = s.holders := rfl
@[simp] theorem State.setSlice_gangs (s : State) (n : Nat) (x : SliceRt) : (s.setSlice n x).gangs = s.gangs := rfl
@[simp] theorem State.setSlice_nmap (s : State) (n : Nat) (x : SliceRt) : (s.setSlice n x).nmap = s.nmap := rfl
@[simp] theorem State.setSlice_nmapBad (s : State) (n : Nat) (x : SliceRt) : (s.setSlice n x).nmapBad = s.nmapBad := rfl
@[simp] theorem State.setSlice_ncal (s : State) (n : Nat) (x : SliceRt) : (s.setSlice n x).ncal = s.ncal := rfl
@[simp] theorem State.setSlice_ncalBad (s : State) (n : Nat) (x : SliceRt) : (s.setSlice n x).ncalBad = s.ncalBad := rfl
@[simp] theorem State.setSlice_thresh (s : State) (n : Nat) (x : SliceRt) : (s.setSlice n x).thresh = s.thresh := rfl
@[simp] theorem State.setSlice_threshBad (s : State) (n : Nat) (x : SliceRt) : (s.setSlice n x).threshBad = s.threshBad := rfl
@[simp] theorem State.setSlice_levels (s : State) (n : Nat) (x : SliceRt) : (s.setSlice n x).levels = s.levels := rfl
@[simp] theorem State.setSlice_levelsBad (s : State) (n : Nat) (x : SliceRt) : (s.setSlice n x).levelsBad = s.levelsBad := rfl
@[simp] theorem State.setSlice_tableChanges (s : State) (n : Nat) (x : SliceRt) : (s.setSlice n x).tableChanges = s.tableChanges := rfl
@[simp] theorem State.setSlice_dueChanges (s : State) (n : Nat) (x : SliceRt) : (s.setSlice n x).dueChanges = s.dueChanges := rfl
@[simp] theorem State.setSlice_rotNext (s : State) (n : Nat) (x : SliceRt) : (s.setSlice n x).rotNext = s.rotNext := rfl
@[simp] theorem State.setSlice_rowCache (s : State) (n : Nat) (x : SliceRt) : (s.setSlice n x).rowCache = s.rowCache := rfl
@[simp] theorem State.setSlice_rotAt (s : State) (n : Nat) (x : SliceRt) : (s.setSlice n x).rotAt = s.rotAt := rfl
@[simp] theorem State.setSlice_lanes (s : State) (n : Nat) (x : SliceRt) : (s.setSlice n x).lanes = s.lanes := rfl
@[simp] theorem State.setSlice_trainPks (s : State) (n : Nat) (x : SliceRt) : (s.setSlice n x).trainPks = s.trainPks := rfl
@[simp] theorem State.setSlice_latPks (s : State) (n : Nat) (x : SliceRt) : (s.setSlice n x).latPks = s.latPks := rfl
@[simp] theorem State.setSlice_heads (s : State) (n : Nat) (x : SliceRt) : (s.setSlice n x).heads = s.heads := rfl
@[simp] theorem State.setSlice_encs (s : State) (n : Nat) (x : SliceRt) : (s.setSlice n x).encs = s.encs := rfl
@[simp] theorem State.setSlice_syns (s : State) (n : Nat) (x : SliceRt) : (s.setSlice n x).syns = s.syns := rfl
@[simp] theorem State.setSlice_cmps (s : State) (n : Nat) (x : SliceRt) : (s.setSlice n x).cmps = s.cmps := rfl
@[simp] theorem State.setSlice_latches (s : State) (n : Nat) (x : SliceRt) : (s.setSlice n x).latches = s.latches := rfl
@[simp] theorem State.setSlice_divs (s : State) (n : Nat) (x : SliceRt) : (s.setSlice n x).divs = s.divs := rfl
@[simp] theorem State.setSlice_tbs (s : State) (n : Nat) (x : SliceRt) : (s.setSlice n x).tbs = s.tbs := rfl
@[simp] theorem State.setSlice_ptp (s : State) (n : Nat) (x : SliceRt) : (s.setSlice n x).ptp = s.ptp := rfl
@[simp] theorem State.setSlice_axes (s : State) (n : Nat) (x : SliceRt) : (s.setSlice n x).axes = s.axes := rfl
@[simp] theorem State.setSlice_pulses (s : State) (n : Nat) (x : SliceRt) : (s.setSlice n x).pulses = s.pulses := rfl
@[simp] theorem State.setSlice_ownCrcs (s : State) (n : Nat) (x : SliceRt) : (s.setSlice n x).ownCrcs = s.ownCrcs := rfl
@[simp] theorem State.setSlice_peerCrcs (s : State) (n : Nat) (x : SliceRt) : (s.setSlice n x).peerCrcs = s.peerCrcs := rfl
@[simp] theorem State.setSlice_check (s : State) (n : Nat) (x : SliceRt) : (s.setSlice n x).check = s.check := rfl
@[simp] theorem State.setSlice_compareFrom (s : State) (n : Nat) (x : SliceRt) : (s.setSlice n x).compareFrom = s.compareFrom := rfl
@[simp] theorem State.setSlice_tokens (s : State) (n : Nat) (x : SliceRt) : (s.setSlice n x).tokens = s.tokens := rfl
@[simp] theorem State.setSlice_ticks (s : State) (n : Nat) (x : SliceRt) : (s.setSlice n x).ticks = s.ticks := rfl
@[simp] theorem State.setSlice_yk (s : State) (n : Nat) (x : SliceRt) : (s.setSlice n x).yk = s.yk := rfl
@[simp] theorem State.setSlice_gl (s : State) (n : Nat) (x : SliceRt) : (s.setSlice n x).gl = s.gl := rfl
@[simp] theorem State.setSlice_hlth (s : State) (n : Nat) (x : SliceRt) : (s.setSlice n x).hlth = s.hlth := rfl
@[simp] theorem State.setSlice_sec (s : State) (n : Nat) (x : SliceRt) : (s.setSlice n x).sec = s.sec := rfl
@[simp] theorem State.setSlice_nor (s : State) (n : Nat) (x : SliceRt) : (s.setSlice n x).nor = s.nor := rfl
@[simp] theorem State.setSlice_sysr (s : State) (n : Nat) (x : SliceRt) : (s.setSlice n x).sysr = s.sysr := rfl
@[simp] theorem State.setSlice_heldCmds (s : State) (n : Nat) (x : SliceRt) : (s.setSlice n x).heldCmds = s.heldCmds := rfl
@[simp] theorem State.setSlice_cams (s : State) (n : Nat) (x : SliceRt) : (s.setSlice n x).cams = s.cams := rfl
@[simp] theorem State.setSlice_insp (s : State) (n : Nat) (x : SliceRt) : (s.setSlice n x).insp = s.insp := rfl
@[simp] theorem State.setSlice_cal (s : State) (n : Nat) (x : SliceRt) : (s.setSlice n x).cal = s.cal := rfl

/-! ## `State.setHandle` -/

@[simp] theorem State.setHandle_pending (s : State) (n : Nat) (x : Handle) : (s.setHandle n x).pending = s.pending := rfl
@[simp] theorem State.setHandle_now (s : State) (n : Nat) (x : Handle) : (s.setHandle n x).now = s.now := rfl
@[simp] theorem State.setHandle_fresh (s : State) (n : Nat) (x : Handle) : (s.setHandle n x).fresh = s.fresh := rfl
@[simp] theorem State.setHandle_regs (s : State) (n : Nat) (x : Handle) : (s.setHandle n x).regs = s.regs := rfl
@[simp] theorem State.setHandle_locked (s : State) (n : Nat) (x : Handle) : (s.setHandle n x).locked = s.locked := rfl
@[simp] theorem State.setHandle_captured (s : State) (n : Nat) (x : Handle) : (s.setHandle n x).captured = s.captured := rfl
@[simp] theorem State.setHandle_staged (s : State) (n : Nat) (x : Handle) : (s.setHandle n x).staged = s.staged := rfl
@[simp] theorem State.setHandle_shadow (s : State) (n : Nat) (x : Handle) : (s.setHandle n x).shadow = s.shadow := rfl
@[simp] theorem State.setHandle_events (s : State) (n : Nat) (x : Handle) : (s.setHandle n x).events = s.events := rfl
@[simp] theorem State.setHandle_modes (s : State) (n : Nat) (x : Handle) : (s.setHandle n x).modes = s.modes := rfl
@[simp] theorem State.setHandle_heldCtrl (s : State) (n : Nat) (x : Handle) : (s.setHandle n x).heldCtrl = s.heldCtrl := rfl
@[simp] theorem State.setHandle_sysReported (s : State) (n : Nat) (x : Handle) : (s.setHandle n x).sysReported = s.sysReported := rfl
@[simp] theorem State.setHandle_sent (s : State) (n : Nat) (x : Handle) : (s.setHandle n x).sent = s.sent := rfl
@[simp] theorem State.setHandle_host (s : State) (n : Nat) (x : Handle) : (s.setHandle n x).host = s.host := rfl
@[simp] theorem State.setHandle_hostMarks (s : State) (n : Nat) (x : Handle) : (s.setHandle n x).hostMarks = s.hostMarks := rfl
@[simp] theorem State.setHandle_dram (s : State) (n : Nat) (x : Handle) : (s.setHandle n x).dram = s.dram := rfl
@[simp] theorem State.setHandle_dramPoison (s : State) (n : Nat) (x : Handle) : (s.setHandle n x).dramPoison = s.dramPoison := rfl
@[simp] theorem State.setHandle_dramErr (s : State) (n : Nat) (x : Handle) : (s.setHandle n x).dramErr = s.dramErr := rfl
@[simp] theorem State.setHandle_ceRows (s : State) (n : Nat) (x : Handle) : (s.setHandle n x).ceRows = s.ceRows := rfl
@[simp] theorem State.setHandle_retired (s : State) (n : Nat) (x : Handle) : (s.setHandle n x).retired = s.retired := rfl
@[simp] theorem State.setHandle_remaps (s : State) (n : Nat) (x : Handle) : (s.setHandle n x).remaps = s.remaps := rfl
@[simp] theorem State.setHandle_memLog (s : State) (n : Nat) (x : Handle) : (s.setHandle n x).memLog = s.memLog := rfl
@[simp] theorem State.setHandle_mem (s : State) (n : Nat) (x : Handle) : (s.setHandle n x).mem = s.mem := rfl
@[simp] theorem State.setHandle_tallies (s : State) (n : Nat) (x : Handle) : (s.setHandle n x).tallies = s.tallies := rfl
@[simp] theorem State.setHandle_rings (s : State) (n : Nat) (x : Handle) : (s.setHandle n x).rings = s.rings := rfl
@[simp] theorem State.setHandle_pkEpoch (s : State) (n : Nat) (x : Handle) : (s.setHandle n x).pkEpoch = s.pkEpoch := rfl
@[simp] theorem State.setHandle_arbRing (s : State) (n : Nat) (x : Handle) : (s.setHandle n x).arbRing = s.arbRing := rfl
@[simp] theorem State.setHandle_arbLeft (s : State) (n : Nat) (x : Handle) : (s.setHandle n x).arbLeft = s.arbLeft := rfl
@[simp] theorem State.setHandle_drains (s : State) (n : Nat) (x : Handle) : (s.setHandle n x).drains = s.drains := rfl
@[simp] theorem State.setHandle_holdings (s : State) (n : Nat) (x : Handle) : (s.setHandle n x).holdings = s.holdings := rfl
@[simp] theorem State.setHandle_ctxs (s : State) (n : Nat) (x : Handle) : (s.setHandle n x).ctxs = s.ctxs := rfl
@[simp] theorem State.setHandle_globalLine (s : State) (n : Nat) (x : Handle) : (s.setHandle n x).globalLine = s.globalLine := rfl
@[simp] theorem State.setHandle_baleJobs (s : State) (n : Nat) (x : Handle) : (s.setHandle n x).baleJobs = s.baleJobs := rfl
@[simp] theorem State.setHandle_holders (s : State) (n : Nat) (x : Handle) : (s.setHandle n x).holders = s.holders := rfl
@[simp] theorem State.setHandle_gangs (s : State) (n : Nat) (x : Handle) : (s.setHandle n x).gangs = s.gangs := rfl
@[simp] theorem State.setHandle_nmap (s : State) (n : Nat) (x : Handle) : (s.setHandle n x).nmap = s.nmap := rfl
@[simp] theorem State.setHandle_nmapBad (s : State) (n : Nat) (x : Handle) : (s.setHandle n x).nmapBad = s.nmapBad := rfl
@[simp] theorem State.setHandle_ncal (s : State) (n : Nat) (x : Handle) : (s.setHandle n x).ncal = s.ncal := rfl
@[simp] theorem State.setHandle_ncalBad (s : State) (n : Nat) (x : Handle) : (s.setHandle n x).ncalBad = s.ncalBad := rfl
@[simp] theorem State.setHandle_thresh (s : State) (n : Nat) (x : Handle) : (s.setHandle n x).thresh = s.thresh := rfl
@[simp] theorem State.setHandle_threshBad (s : State) (n : Nat) (x : Handle) : (s.setHandle n x).threshBad = s.threshBad := rfl
@[simp] theorem State.setHandle_levels (s : State) (n : Nat) (x : Handle) : (s.setHandle n x).levels = s.levels := rfl
@[simp] theorem State.setHandle_levelsBad (s : State) (n : Nat) (x : Handle) : (s.setHandle n x).levelsBad = s.levelsBad := rfl
@[simp] theorem State.setHandle_tableChanges (s : State) (n : Nat) (x : Handle) : (s.setHandle n x).tableChanges = s.tableChanges := rfl
@[simp] theorem State.setHandle_dueChanges (s : State) (n : Nat) (x : Handle) : (s.setHandle n x).dueChanges = s.dueChanges := rfl
@[simp] theorem State.setHandle_slices (s : State) (n : Nat) (x : Handle) : (s.setHandle n x).slices = s.slices := rfl
@[simp] theorem State.setHandle_rotNext (s : State) (n : Nat) (x : Handle) : (s.setHandle n x).rotNext = s.rotNext := rfl
@[simp] theorem State.setHandle_rowCache (s : State) (n : Nat) (x : Handle) : (s.setHandle n x).rowCache = s.rowCache := rfl
@[simp] theorem State.setHandle_rotAt (s : State) (n : Nat) (x : Handle) : (s.setHandle n x).rotAt = s.rotAt := rfl
@[simp] theorem State.setHandle_lanes (s : State) (n : Nat) (x : Handle) : (s.setHandle n x).lanes = s.lanes := rfl
@[simp] theorem State.setHandle_trainPks (s : State) (n : Nat) (x : Handle) : (s.setHandle n x).trainPks = s.trainPks := rfl
@[simp] theorem State.setHandle_latPks (s : State) (n : Nat) (x : Handle) : (s.setHandle n x).latPks = s.latPks := rfl
@[simp] theorem State.setHandle_heads (s : State) (n : Nat) (x : Handle) : (s.setHandle n x).heads = s.heads := rfl
@[simp] theorem State.setHandle_encs (s : State) (n : Nat) (x : Handle) : (s.setHandle n x).encs = s.encs := rfl
@[simp] theorem State.setHandle_syns (s : State) (n : Nat) (x : Handle) : (s.setHandle n x).syns = s.syns := rfl
@[simp] theorem State.setHandle_cmps (s : State) (n : Nat) (x : Handle) : (s.setHandle n x).cmps = s.cmps := rfl
@[simp] theorem State.setHandle_latches (s : State) (n : Nat) (x : Handle) : (s.setHandle n x).latches = s.latches := rfl
@[simp] theorem State.setHandle_divs (s : State) (n : Nat) (x : Handle) : (s.setHandle n x).divs = s.divs := rfl
@[simp] theorem State.setHandle_tbs (s : State) (n : Nat) (x : Handle) : (s.setHandle n x).tbs = s.tbs := rfl
@[simp] theorem State.setHandle_ptp (s : State) (n : Nat) (x : Handle) : (s.setHandle n x).ptp = s.ptp := rfl
@[simp] theorem State.setHandle_axes (s : State) (n : Nat) (x : Handle) : (s.setHandle n x).axes = s.axes := rfl
@[simp] theorem State.setHandle_pulses (s : State) (n : Nat) (x : Handle) : (s.setHandle n x).pulses = s.pulses := rfl
@[simp] theorem State.setHandle_ownCrcs (s : State) (n : Nat) (x : Handle) : (s.setHandle n x).ownCrcs = s.ownCrcs := rfl
@[simp] theorem State.setHandle_peerCrcs (s : State) (n : Nat) (x : Handle) : (s.setHandle n x).peerCrcs = s.peerCrcs := rfl
@[simp] theorem State.setHandle_check (s : State) (n : Nat) (x : Handle) : (s.setHandle n x).check = s.check := rfl
@[simp] theorem State.setHandle_compareFrom (s : State) (n : Nat) (x : Handle) : (s.setHandle n x).compareFrom = s.compareFrom := rfl
@[simp] theorem State.setHandle_tokens (s : State) (n : Nat) (x : Handle) : (s.setHandle n x).tokens = s.tokens := rfl
@[simp] theorem State.setHandle_ticks (s : State) (n : Nat) (x : Handle) : (s.setHandle n x).ticks = s.ticks := rfl
@[simp] theorem State.setHandle_yk (s : State) (n : Nat) (x : Handle) : (s.setHandle n x).yk = s.yk := rfl
@[simp] theorem State.setHandle_gl (s : State) (n : Nat) (x : Handle) : (s.setHandle n x).gl = s.gl := rfl
@[simp] theorem State.setHandle_hlth (s : State) (n : Nat) (x : Handle) : (s.setHandle n x).hlth = s.hlth := rfl
@[simp] theorem State.setHandle_sec (s : State) (n : Nat) (x : Handle) : (s.setHandle n x).sec = s.sec := rfl
@[simp] theorem State.setHandle_nor (s : State) (n : Nat) (x : Handle) : (s.setHandle n x).nor = s.nor := rfl
@[simp] theorem State.setHandle_sysr (s : State) (n : Nat) (x : Handle) : (s.setHandle n x).sysr = s.sysr := rfl
@[simp] theorem State.setHandle_heldCmds (s : State) (n : Nat) (x : Handle) : (s.setHandle n x).heldCmds = s.heldCmds := rfl
@[simp] theorem State.setHandle_cams (s : State) (n : Nat) (x : Handle) : (s.setHandle n x).cams = s.cams := rfl
@[simp] theorem State.setHandle_insp (s : State) (n : Nat) (x : Handle) : (s.setHandle n x).insp = s.insp := rfl
@[simp] theorem State.setHandle_cal (s : State) (n : Nat) (x : Handle) : (s.setHandle n x).cal = s.cal := rfl

/-! ## `State.setLane` -/

@[simp] theorem State.setLane_pending (s : State) (l : LaneId) (x : TrainRt) : (s.setLane l x).pending = s.pending := rfl
@[simp] theorem State.setLane_now (s : State) (l : LaneId) (x : TrainRt) : (s.setLane l x).now = s.now := rfl
@[simp] theorem State.setLane_fresh (s : State) (l : LaneId) (x : TrainRt) : (s.setLane l x).fresh = s.fresh := rfl
@[simp] theorem State.setLane_regs (s : State) (l : LaneId) (x : TrainRt) : (s.setLane l x).regs = s.regs := rfl
@[simp] theorem State.setLane_locked (s : State) (l : LaneId) (x : TrainRt) : (s.setLane l x).locked = s.locked := rfl
@[simp] theorem State.setLane_captured (s : State) (l : LaneId) (x : TrainRt) : (s.setLane l x).captured = s.captured := rfl
@[simp] theorem State.setLane_staged (s : State) (l : LaneId) (x : TrainRt) : (s.setLane l x).staged = s.staged := rfl
@[simp] theorem State.setLane_shadow (s : State) (l : LaneId) (x : TrainRt) : (s.setLane l x).shadow = s.shadow := rfl
@[simp] theorem State.setLane_events (s : State) (l : LaneId) (x : TrainRt) : (s.setLane l x).events = s.events := rfl
@[simp] theorem State.setLane_modes (s : State) (l : LaneId) (x : TrainRt) : (s.setLane l x).modes = s.modes := rfl
@[simp] theorem State.setLane_heldCtrl (s : State) (l : LaneId) (x : TrainRt) : (s.setLane l x).heldCtrl = s.heldCtrl := rfl
@[simp] theorem State.setLane_sysReported (s : State) (l : LaneId) (x : TrainRt) : (s.setLane l x).sysReported = s.sysReported := rfl
@[simp] theorem State.setLane_sent (s : State) (l : LaneId) (x : TrainRt) : (s.setLane l x).sent = s.sent := rfl
@[simp] theorem State.setLane_host (s : State) (l : LaneId) (x : TrainRt) : (s.setLane l x).host = s.host := rfl
@[simp] theorem State.setLane_hostMarks (s : State) (l : LaneId) (x : TrainRt) : (s.setLane l x).hostMarks = s.hostMarks := rfl
@[simp] theorem State.setLane_dram (s : State) (l : LaneId) (x : TrainRt) : (s.setLane l x).dram = s.dram := rfl
@[simp] theorem State.setLane_dramPoison (s : State) (l : LaneId) (x : TrainRt) : (s.setLane l x).dramPoison = s.dramPoison := rfl
@[simp] theorem State.setLane_dramErr (s : State) (l : LaneId) (x : TrainRt) : (s.setLane l x).dramErr = s.dramErr := rfl
@[simp] theorem State.setLane_ceRows (s : State) (l : LaneId) (x : TrainRt) : (s.setLane l x).ceRows = s.ceRows := rfl
@[simp] theorem State.setLane_retired (s : State) (l : LaneId) (x : TrainRt) : (s.setLane l x).retired = s.retired := rfl
@[simp] theorem State.setLane_remaps (s : State) (l : LaneId) (x : TrainRt) : (s.setLane l x).remaps = s.remaps := rfl
@[simp] theorem State.setLane_memLog (s : State) (l : LaneId) (x : TrainRt) : (s.setLane l x).memLog = s.memLog := rfl
@[simp] theorem State.setLane_mem (s : State) (l : LaneId) (x : TrainRt) : (s.setLane l x).mem = s.mem := rfl
@[simp] theorem State.setLane_tallies (s : State) (l : LaneId) (x : TrainRt) : (s.setLane l x).tallies = s.tallies := rfl
@[simp] theorem State.setLane_rings (s : State) (l : LaneId) (x : TrainRt) : (s.setLane l x).rings = s.rings := rfl
@[simp] theorem State.setLane_pkEpoch (s : State) (l : LaneId) (x : TrainRt) : (s.setLane l x).pkEpoch = s.pkEpoch := rfl
@[simp] theorem State.setLane_arbRing (s : State) (l : LaneId) (x : TrainRt) : (s.setLane l x).arbRing = s.arbRing := rfl
@[simp] theorem State.setLane_arbLeft (s : State) (l : LaneId) (x : TrainRt) : (s.setLane l x).arbLeft = s.arbLeft := rfl
@[simp] theorem State.setLane_drains (s : State) (l : LaneId) (x : TrainRt) : (s.setLane l x).drains = s.drains := rfl
@[simp] theorem State.setLane_holdings (s : State) (l : LaneId) (x : TrainRt) : (s.setLane l x).holdings = s.holdings := rfl
@[simp] theorem State.setLane_ctxs (s : State) (l : LaneId) (x : TrainRt) : (s.setLane l x).ctxs = s.ctxs := rfl
@[simp] theorem State.setLane_globalLine (s : State) (l : LaneId) (x : TrainRt) : (s.setLane l x).globalLine = s.globalLine := rfl
@[simp] theorem State.setLane_handles (s : State) (l : LaneId) (x : TrainRt) : (s.setLane l x).handles = s.handles := rfl
@[simp] theorem State.setLane_baleJobs (s : State) (l : LaneId) (x : TrainRt) : (s.setLane l x).baleJobs = s.baleJobs := rfl
@[simp] theorem State.setLane_holders (s : State) (l : LaneId) (x : TrainRt) : (s.setLane l x).holders = s.holders := rfl
@[simp] theorem State.setLane_gangs (s : State) (l : LaneId) (x : TrainRt) : (s.setLane l x).gangs = s.gangs := rfl
@[simp] theorem State.setLane_nmap (s : State) (l : LaneId) (x : TrainRt) : (s.setLane l x).nmap = s.nmap := rfl
@[simp] theorem State.setLane_nmapBad (s : State) (l : LaneId) (x : TrainRt) : (s.setLane l x).nmapBad = s.nmapBad := rfl
@[simp] theorem State.setLane_ncal (s : State) (l : LaneId) (x : TrainRt) : (s.setLane l x).ncal = s.ncal := rfl
@[simp] theorem State.setLane_ncalBad (s : State) (l : LaneId) (x : TrainRt) : (s.setLane l x).ncalBad = s.ncalBad := rfl
@[simp] theorem State.setLane_thresh (s : State) (l : LaneId) (x : TrainRt) : (s.setLane l x).thresh = s.thresh := rfl
@[simp] theorem State.setLane_threshBad (s : State) (l : LaneId) (x : TrainRt) : (s.setLane l x).threshBad = s.threshBad := rfl
@[simp] theorem State.setLane_levels (s : State) (l : LaneId) (x : TrainRt) : (s.setLane l x).levels = s.levels := rfl
@[simp] theorem State.setLane_levelsBad (s : State) (l : LaneId) (x : TrainRt) : (s.setLane l x).levelsBad = s.levelsBad := rfl
@[simp] theorem State.setLane_tableChanges (s : State) (l : LaneId) (x : TrainRt) : (s.setLane l x).tableChanges = s.tableChanges := rfl
@[simp] theorem State.setLane_dueChanges (s : State) (l : LaneId) (x : TrainRt) : (s.setLane l x).dueChanges = s.dueChanges := rfl
@[simp] theorem State.setLane_slices (s : State) (l : LaneId) (x : TrainRt) : (s.setLane l x).slices = s.slices := rfl
@[simp] theorem State.setLane_rotNext (s : State) (l : LaneId) (x : TrainRt) : (s.setLane l x).rotNext = s.rotNext := rfl
@[simp] theorem State.setLane_rowCache (s : State) (l : LaneId) (x : TrainRt) : (s.setLane l x).rowCache = s.rowCache := rfl
@[simp] theorem State.setLane_rotAt (s : State) (l : LaneId) (x : TrainRt) : (s.setLane l x).rotAt = s.rotAt := rfl
@[simp] theorem State.setLane_trainPks (s : State) (l : LaneId) (x : TrainRt) : (s.setLane l x).trainPks = s.trainPks := rfl
@[simp] theorem State.setLane_latPks (s : State) (l : LaneId) (x : TrainRt) : (s.setLane l x).latPks = s.latPks := rfl
@[simp] theorem State.setLane_heads (s : State) (l : LaneId) (x : TrainRt) : (s.setLane l x).heads = s.heads := rfl
@[simp] theorem State.setLane_encs (s : State) (l : LaneId) (x : TrainRt) : (s.setLane l x).encs = s.encs := rfl
@[simp] theorem State.setLane_syns (s : State) (l : LaneId) (x : TrainRt) : (s.setLane l x).syns = s.syns := rfl
@[simp] theorem State.setLane_cmps (s : State) (l : LaneId) (x : TrainRt) : (s.setLane l x).cmps = s.cmps := rfl
@[simp] theorem State.setLane_latches (s : State) (l : LaneId) (x : TrainRt) : (s.setLane l x).latches = s.latches := rfl
@[simp] theorem State.setLane_divs (s : State) (l : LaneId) (x : TrainRt) : (s.setLane l x).divs = s.divs := rfl
@[simp] theorem State.setLane_tbs (s : State) (l : LaneId) (x : TrainRt) : (s.setLane l x).tbs = s.tbs := rfl
@[simp] theorem State.setLane_ptp (s : State) (l : LaneId) (x : TrainRt) : (s.setLane l x).ptp = s.ptp := rfl
@[simp] theorem State.setLane_axes (s : State) (l : LaneId) (x : TrainRt) : (s.setLane l x).axes = s.axes := rfl
@[simp] theorem State.setLane_pulses (s : State) (l : LaneId) (x : TrainRt) : (s.setLane l x).pulses = s.pulses := rfl
@[simp] theorem State.setLane_ownCrcs (s : State) (l : LaneId) (x : TrainRt) : (s.setLane l x).ownCrcs = s.ownCrcs := rfl
@[simp] theorem State.setLane_peerCrcs (s : State) (l : LaneId) (x : TrainRt) : (s.setLane l x).peerCrcs = s.peerCrcs := rfl
@[simp] theorem State.setLane_check (s : State) (l : LaneId) (x : TrainRt) : (s.setLane l x).check = s.check := rfl
@[simp] theorem State.setLane_compareFrom (s : State) (l : LaneId) (x : TrainRt) : (s.setLane l x).compareFrom = s.compareFrom := rfl
@[simp] theorem State.setLane_tokens (s : State) (l : LaneId) (x : TrainRt) : (s.setLane l x).tokens = s.tokens := rfl
@[simp] theorem State.setLane_ticks (s : State) (l : LaneId) (x : TrainRt) : (s.setLane l x).ticks = s.ticks := rfl
@[simp] theorem State.setLane_yk (s : State) (l : LaneId) (x : TrainRt) : (s.setLane l x).yk = s.yk := rfl
@[simp] theorem State.setLane_gl (s : State) (l : LaneId) (x : TrainRt) : (s.setLane l x).gl = s.gl := rfl
@[simp] theorem State.setLane_hlth (s : State) (l : LaneId) (x : TrainRt) : (s.setLane l x).hlth = s.hlth := rfl
@[simp] theorem State.setLane_sec (s : State) (l : LaneId) (x : TrainRt) : (s.setLane l x).sec = s.sec := rfl
@[simp] theorem State.setLane_nor (s : State) (l : LaneId) (x : TrainRt) : (s.setLane l x).nor = s.nor := rfl
@[simp] theorem State.setLane_sysr (s : State) (l : LaneId) (x : TrainRt) : (s.setLane l x).sysr = s.sysr := rfl
@[simp] theorem State.setLane_heldCmds (s : State) (l : LaneId) (x : TrainRt) : (s.setLane l x).heldCmds = s.heldCmds := rfl
@[simp] theorem State.setLane_cams (s : State) (l : LaneId) (x : TrainRt) : (s.setLane l x).cams = s.cams := rfl
@[simp] theorem State.setLane_insp (s : State) (l : LaneId) (x : TrainRt) : (s.setLane l x).insp = s.insp := rfl
@[simp] theorem State.setLane_cal (s : State) (l : LaneId) (x : TrainRt) : (s.setLane l x).cal = s.cal := rfl

/-! ## `State.setHolder` -/

@[simp] theorem State.setHolder_pending (s : State) (n : Nat) (x : Option Holder) : (s.setHolder n x).pending = s.pending := rfl
@[simp] theorem State.setHolder_now (s : State) (n : Nat) (x : Option Holder) : (s.setHolder n x).now = s.now := rfl
@[simp] theorem State.setHolder_fresh (s : State) (n : Nat) (x : Option Holder) : (s.setHolder n x).fresh = s.fresh := rfl
@[simp] theorem State.setHolder_regs (s : State) (n : Nat) (x : Option Holder) : (s.setHolder n x).regs = s.regs := rfl
@[simp] theorem State.setHolder_locked (s : State) (n : Nat) (x : Option Holder) : (s.setHolder n x).locked = s.locked := rfl
@[simp] theorem State.setHolder_captured (s : State) (n : Nat) (x : Option Holder) : (s.setHolder n x).captured = s.captured := rfl
@[simp] theorem State.setHolder_staged (s : State) (n : Nat) (x : Option Holder) : (s.setHolder n x).staged = s.staged := rfl
@[simp] theorem State.setHolder_shadow (s : State) (n : Nat) (x : Option Holder) : (s.setHolder n x).shadow = s.shadow := rfl
@[simp] theorem State.setHolder_events (s : State) (n : Nat) (x : Option Holder) : (s.setHolder n x).events = s.events := rfl
@[simp] theorem State.setHolder_modes (s : State) (n : Nat) (x : Option Holder) : (s.setHolder n x).modes = s.modes := rfl
@[simp] theorem State.setHolder_heldCtrl (s : State) (n : Nat) (x : Option Holder) : (s.setHolder n x).heldCtrl = s.heldCtrl := rfl
@[simp] theorem State.setHolder_sysReported (s : State) (n : Nat) (x : Option Holder) : (s.setHolder n x).sysReported = s.sysReported := rfl
@[simp] theorem State.setHolder_sent (s : State) (n : Nat) (x : Option Holder) : (s.setHolder n x).sent = s.sent := rfl
@[simp] theorem State.setHolder_host (s : State) (n : Nat) (x : Option Holder) : (s.setHolder n x).host = s.host := rfl
@[simp] theorem State.setHolder_hostMarks (s : State) (n : Nat) (x : Option Holder) : (s.setHolder n x).hostMarks = s.hostMarks := rfl
@[simp] theorem State.setHolder_dram (s : State) (n : Nat) (x : Option Holder) : (s.setHolder n x).dram = s.dram := rfl
@[simp] theorem State.setHolder_dramPoison (s : State) (n : Nat) (x : Option Holder) : (s.setHolder n x).dramPoison = s.dramPoison := rfl
@[simp] theorem State.setHolder_dramErr (s : State) (n : Nat) (x : Option Holder) : (s.setHolder n x).dramErr = s.dramErr := rfl
@[simp] theorem State.setHolder_ceRows (s : State) (n : Nat) (x : Option Holder) : (s.setHolder n x).ceRows = s.ceRows := rfl
@[simp] theorem State.setHolder_retired (s : State) (n : Nat) (x : Option Holder) : (s.setHolder n x).retired = s.retired := rfl
@[simp] theorem State.setHolder_remaps (s : State) (n : Nat) (x : Option Holder) : (s.setHolder n x).remaps = s.remaps := rfl
@[simp] theorem State.setHolder_memLog (s : State) (n : Nat) (x : Option Holder) : (s.setHolder n x).memLog = s.memLog := rfl
@[simp] theorem State.setHolder_mem (s : State) (n : Nat) (x : Option Holder) : (s.setHolder n x).mem = s.mem := rfl
@[simp] theorem State.setHolder_tallies (s : State) (n : Nat) (x : Option Holder) : (s.setHolder n x).tallies = s.tallies := rfl
@[simp] theorem State.setHolder_rings (s : State) (n : Nat) (x : Option Holder) : (s.setHolder n x).rings = s.rings := rfl
@[simp] theorem State.setHolder_pkEpoch (s : State) (n : Nat) (x : Option Holder) : (s.setHolder n x).pkEpoch = s.pkEpoch := rfl
@[simp] theorem State.setHolder_arbRing (s : State) (n : Nat) (x : Option Holder) : (s.setHolder n x).arbRing = s.arbRing := rfl
@[simp] theorem State.setHolder_arbLeft (s : State) (n : Nat) (x : Option Holder) : (s.setHolder n x).arbLeft = s.arbLeft := rfl
@[simp] theorem State.setHolder_drains (s : State) (n : Nat) (x : Option Holder) : (s.setHolder n x).drains = s.drains := rfl
@[simp] theorem State.setHolder_holdings (s : State) (n : Nat) (x : Option Holder) : (s.setHolder n x).holdings = s.holdings := rfl
@[simp] theorem State.setHolder_ctxs (s : State) (n : Nat) (x : Option Holder) : (s.setHolder n x).ctxs = s.ctxs := rfl
@[simp] theorem State.setHolder_globalLine (s : State) (n : Nat) (x : Option Holder) : (s.setHolder n x).globalLine = s.globalLine := rfl
@[simp] theorem State.setHolder_handles (s : State) (n : Nat) (x : Option Holder) : (s.setHolder n x).handles = s.handles := rfl
@[simp] theorem State.setHolder_baleJobs (s : State) (n : Nat) (x : Option Holder) : (s.setHolder n x).baleJobs = s.baleJobs := rfl
@[simp] theorem State.setHolder_gangs (s : State) (n : Nat) (x : Option Holder) : (s.setHolder n x).gangs = s.gangs := rfl
@[simp] theorem State.setHolder_nmap (s : State) (n : Nat) (x : Option Holder) : (s.setHolder n x).nmap = s.nmap := rfl
@[simp] theorem State.setHolder_nmapBad (s : State) (n : Nat) (x : Option Holder) : (s.setHolder n x).nmapBad = s.nmapBad := rfl
@[simp] theorem State.setHolder_ncal (s : State) (n : Nat) (x : Option Holder) : (s.setHolder n x).ncal = s.ncal := rfl
@[simp] theorem State.setHolder_ncalBad (s : State) (n : Nat) (x : Option Holder) : (s.setHolder n x).ncalBad = s.ncalBad := rfl
@[simp] theorem State.setHolder_thresh (s : State) (n : Nat) (x : Option Holder) : (s.setHolder n x).thresh = s.thresh := rfl
@[simp] theorem State.setHolder_threshBad (s : State) (n : Nat) (x : Option Holder) : (s.setHolder n x).threshBad = s.threshBad := rfl
@[simp] theorem State.setHolder_levels (s : State) (n : Nat) (x : Option Holder) : (s.setHolder n x).levels = s.levels := rfl
@[simp] theorem State.setHolder_levelsBad (s : State) (n : Nat) (x : Option Holder) : (s.setHolder n x).levelsBad = s.levelsBad := rfl
@[simp] theorem State.setHolder_tableChanges (s : State) (n : Nat) (x : Option Holder) : (s.setHolder n x).tableChanges = s.tableChanges := rfl
@[simp] theorem State.setHolder_dueChanges (s : State) (n : Nat) (x : Option Holder) : (s.setHolder n x).dueChanges = s.dueChanges := rfl
@[simp] theorem State.setHolder_slices (s : State) (n : Nat) (x : Option Holder) : (s.setHolder n x).slices = s.slices := rfl
@[simp] theorem State.setHolder_rotNext (s : State) (n : Nat) (x : Option Holder) : (s.setHolder n x).rotNext = s.rotNext := rfl
@[simp] theorem State.setHolder_rowCache (s : State) (n : Nat) (x : Option Holder) : (s.setHolder n x).rowCache = s.rowCache := rfl
@[simp] theorem State.setHolder_rotAt (s : State) (n : Nat) (x : Option Holder) : (s.setHolder n x).rotAt = s.rotAt := rfl
@[simp] theorem State.setHolder_lanes (s : State) (n : Nat) (x : Option Holder) : (s.setHolder n x).lanes = s.lanes := rfl
@[simp] theorem State.setHolder_trainPks (s : State) (n : Nat) (x : Option Holder) : (s.setHolder n x).trainPks = s.trainPks := rfl
@[simp] theorem State.setHolder_latPks (s : State) (n : Nat) (x : Option Holder) : (s.setHolder n x).latPks = s.latPks := rfl
@[simp] theorem State.setHolder_heads (s : State) (n : Nat) (x : Option Holder) : (s.setHolder n x).heads = s.heads := rfl
@[simp] theorem State.setHolder_encs (s : State) (n : Nat) (x : Option Holder) : (s.setHolder n x).encs = s.encs := rfl
@[simp] theorem State.setHolder_syns (s : State) (n : Nat) (x : Option Holder) : (s.setHolder n x).syns = s.syns := rfl
@[simp] theorem State.setHolder_cmps (s : State) (n : Nat) (x : Option Holder) : (s.setHolder n x).cmps = s.cmps := rfl
@[simp] theorem State.setHolder_latches (s : State) (n : Nat) (x : Option Holder) : (s.setHolder n x).latches = s.latches := rfl
@[simp] theorem State.setHolder_divs (s : State) (n : Nat) (x : Option Holder) : (s.setHolder n x).divs = s.divs := rfl
@[simp] theorem State.setHolder_tbs (s : State) (n : Nat) (x : Option Holder) : (s.setHolder n x).tbs = s.tbs := rfl
@[simp] theorem State.setHolder_ptp (s : State) (n : Nat) (x : Option Holder) : (s.setHolder n x).ptp = s.ptp := rfl
@[simp] theorem State.setHolder_axes (s : State) (n : Nat) (x : Option Holder) : (s.setHolder n x).axes = s.axes := rfl
@[simp] theorem State.setHolder_pulses (s : State) (n : Nat) (x : Option Holder) : (s.setHolder n x).pulses = s.pulses := rfl
@[simp] theorem State.setHolder_ownCrcs (s : State) (n : Nat) (x : Option Holder) : (s.setHolder n x).ownCrcs = s.ownCrcs := rfl
@[simp] theorem State.setHolder_peerCrcs (s : State) (n : Nat) (x : Option Holder) : (s.setHolder n x).peerCrcs = s.peerCrcs := rfl
@[simp] theorem State.setHolder_check (s : State) (n : Nat) (x : Option Holder) : (s.setHolder n x).check = s.check := rfl
@[simp] theorem State.setHolder_compareFrom (s : State) (n : Nat) (x : Option Holder) : (s.setHolder n x).compareFrom = s.compareFrom := rfl
@[simp] theorem State.setHolder_tokens (s : State) (n : Nat) (x : Option Holder) : (s.setHolder n x).tokens = s.tokens := rfl
@[simp] theorem State.setHolder_ticks (s : State) (n : Nat) (x : Option Holder) : (s.setHolder n x).ticks = s.ticks := rfl
@[simp] theorem State.setHolder_yk (s : State) (n : Nat) (x : Option Holder) : (s.setHolder n x).yk = s.yk := rfl
@[simp] theorem State.setHolder_gl (s : State) (n : Nat) (x : Option Holder) : (s.setHolder n x).gl = s.gl := rfl
@[simp] theorem State.setHolder_hlth (s : State) (n : Nat) (x : Option Holder) : (s.setHolder n x).hlth = s.hlth := rfl
@[simp] theorem State.setHolder_sec (s : State) (n : Nat) (x : Option Holder) : (s.setHolder n x).sec = s.sec := rfl
@[simp] theorem State.setHolder_nor (s : State) (n : Nat) (x : Option Holder) : (s.setHolder n x).nor = s.nor := rfl
@[simp] theorem State.setHolder_sysr (s : State) (n : Nat) (x : Option Holder) : (s.setHolder n x).sysr = s.sysr := rfl
@[simp] theorem State.setHolder_heldCmds (s : State) (n : Nat) (x : Option Holder) : (s.setHolder n x).heldCmds = s.heldCmds := rfl
@[simp] theorem State.setHolder_cams (s : State) (n : Nat) (x : Option Holder) : (s.setHolder n x).cams = s.cams := rfl
@[simp] theorem State.setHolder_insp (s : State) (n : Nat) (x : Option Holder) : (s.setHolder n x).insp = s.insp := rfl
@[simp] theorem State.setHolder_cal (s : State) (n : Nat) (x : Option Holder) : (s.setHolder n x).cal = s.cal := rfl

/-! ## `State.setCam` -/

@[simp] theorem State.setCam_pending (s : State) (n : Nat) (x : CamRt) : (s.setCam n x).pending = s.pending := rfl
@[simp] theorem State.setCam_now (s : State) (n : Nat) (x : CamRt) : (s.setCam n x).now = s.now := rfl
@[simp] theorem State.setCam_fresh (s : State) (n : Nat) (x : CamRt) : (s.setCam n x).fresh = s.fresh := rfl
@[simp] theorem State.setCam_regs (s : State) (n : Nat) (x : CamRt) : (s.setCam n x).regs = s.regs := rfl
@[simp] theorem State.setCam_locked (s : State) (n : Nat) (x : CamRt) : (s.setCam n x).locked = s.locked := rfl
@[simp] theorem State.setCam_captured (s : State) (n : Nat) (x : CamRt) : (s.setCam n x).captured = s.captured := rfl
@[simp] theorem State.setCam_staged (s : State) (n : Nat) (x : CamRt) : (s.setCam n x).staged = s.staged := rfl
@[simp] theorem State.setCam_shadow (s : State) (n : Nat) (x : CamRt) : (s.setCam n x).shadow = s.shadow := rfl
@[simp] theorem State.setCam_events (s : State) (n : Nat) (x : CamRt) : (s.setCam n x).events = s.events := rfl
@[simp] theorem State.setCam_modes (s : State) (n : Nat) (x : CamRt) : (s.setCam n x).modes = s.modes := rfl
@[simp] theorem State.setCam_heldCtrl (s : State) (n : Nat) (x : CamRt) : (s.setCam n x).heldCtrl = s.heldCtrl := rfl
@[simp] theorem State.setCam_sysReported (s : State) (n : Nat) (x : CamRt) : (s.setCam n x).sysReported = s.sysReported := rfl
@[simp] theorem State.setCam_sent (s : State) (n : Nat) (x : CamRt) : (s.setCam n x).sent = s.sent := rfl
@[simp] theorem State.setCam_host (s : State) (n : Nat) (x : CamRt) : (s.setCam n x).host = s.host := rfl
@[simp] theorem State.setCam_hostMarks (s : State) (n : Nat) (x : CamRt) : (s.setCam n x).hostMarks = s.hostMarks := rfl
@[simp] theorem State.setCam_dram (s : State) (n : Nat) (x : CamRt) : (s.setCam n x).dram = s.dram := rfl
@[simp] theorem State.setCam_dramPoison (s : State) (n : Nat) (x : CamRt) : (s.setCam n x).dramPoison = s.dramPoison := rfl
@[simp] theorem State.setCam_dramErr (s : State) (n : Nat) (x : CamRt) : (s.setCam n x).dramErr = s.dramErr := rfl
@[simp] theorem State.setCam_ceRows (s : State) (n : Nat) (x : CamRt) : (s.setCam n x).ceRows = s.ceRows := rfl
@[simp] theorem State.setCam_retired (s : State) (n : Nat) (x : CamRt) : (s.setCam n x).retired = s.retired := rfl
@[simp] theorem State.setCam_remaps (s : State) (n : Nat) (x : CamRt) : (s.setCam n x).remaps = s.remaps := rfl
@[simp] theorem State.setCam_memLog (s : State) (n : Nat) (x : CamRt) : (s.setCam n x).memLog = s.memLog := rfl
@[simp] theorem State.setCam_mem (s : State) (n : Nat) (x : CamRt) : (s.setCam n x).mem = s.mem := rfl
@[simp] theorem State.setCam_tallies (s : State) (n : Nat) (x : CamRt) : (s.setCam n x).tallies = s.tallies := rfl
@[simp] theorem State.setCam_rings (s : State) (n : Nat) (x : CamRt) : (s.setCam n x).rings = s.rings := rfl
@[simp] theorem State.setCam_pkEpoch (s : State) (n : Nat) (x : CamRt) : (s.setCam n x).pkEpoch = s.pkEpoch := rfl
@[simp] theorem State.setCam_arbRing (s : State) (n : Nat) (x : CamRt) : (s.setCam n x).arbRing = s.arbRing := rfl
@[simp] theorem State.setCam_arbLeft (s : State) (n : Nat) (x : CamRt) : (s.setCam n x).arbLeft = s.arbLeft := rfl
@[simp] theorem State.setCam_drains (s : State) (n : Nat) (x : CamRt) : (s.setCam n x).drains = s.drains := rfl
@[simp] theorem State.setCam_holdings (s : State) (n : Nat) (x : CamRt) : (s.setCam n x).holdings = s.holdings := rfl
@[simp] theorem State.setCam_ctxs (s : State) (n : Nat) (x : CamRt) : (s.setCam n x).ctxs = s.ctxs := rfl
@[simp] theorem State.setCam_globalLine (s : State) (n : Nat) (x : CamRt) : (s.setCam n x).globalLine = s.globalLine := rfl
@[simp] theorem State.setCam_handles (s : State) (n : Nat) (x : CamRt) : (s.setCam n x).handles = s.handles := rfl
@[simp] theorem State.setCam_baleJobs (s : State) (n : Nat) (x : CamRt) : (s.setCam n x).baleJobs = s.baleJobs := rfl
@[simp] theorem State.setCam_holders (s : State) (n : Nat) (x : CamRt) : (s.setCam n x).holders = s.holders := rfl
@[simp] theorem State.setCam_gangs (s : State) (n : Nat) (x : CamRt) : (s.setCam n x).gangs = s.gangs := rfl
@[simp] theorem State.setCam_nmap (s : State) (n : Nat) (x : CamRt) : (s.setCam n x).nmap = s.nmap := rfl
@[simp] theorem State.setCam_nmapBad (s : State) (n : Nat) (x : CamRt) : (s.setCam n x).nmapBad = s.nmapBad := rfl
@[simp] theorem State.setCam_ncal (s : State) (n : Nat) (x : CamRt) : (s.setCam n x).ncal = s.ncal := rfl
@[simp] theorem State.setCam_ncalBad (s : State) (n : Nat) (x : CamRt) : (s.setCam n x).ncalBad = s.ncalBad := rfl
@[simp] theorem State.setCam_thresh (s : State) (n : Nat) (x : CamRt) : (s.setCam n x).thresh = s.thresh := rfl
@[simp] theorem State.setCam_threshBad (s : State) (n : Nat) (x : CamRt) : (s.setCam n x).threshBad = s.threshBad := rfl
@[simp] theorem State.setCam_levels (s : State) (n : Nat) (x : CamRt) : (s.setCam n x).levels = s.levels := rfl
@[simp] theorem State.setCam_levelsBad (s : State) (n : Nat) (x : CamRt) : (s.setCam n x).levelsBad = s.levelsBad := rfl
@[simp] theorem State.setCam_tableChanges (s : State) (n : Nat) (x : CamRt) : (s.setCam n x).tableChanges = s.tableChanges := rfl
@[simp] theorem State.setCam_dueChanges (s : State) (n : Nat) (x : CamRt) : (s.setCam n x).dueChanges = s.dueChanges := rfl
@[simp] theorem State.setCam_slices (s : State) (n : Nat) (x : CamRt) : (s.setCam n x).slices = s.slices := rfl
@[simp] theorem State.setCam_rotNext (s : State) (n : Nat) (x : CamRt) : (s.setCam n x).rotNext = s.rotNext := rfl
@[simp] theorem State.setCam_rowCache (s : State) (n : Nat) (x : CamRt) : (s.setCam n x).rowCache = s.rowCache := rfl
@[simp] theorem State.setCam_rotAt (s : State) (n : Nat) (x : CamRt) : (s.setCam n x).rotAt = s.rotAt := rfl
@[simp] theorem State.setCam_lanes (s : State) (n : Nat) (x : CamRt) : (s.setCam n x).lanes = s.lanes := rfl
@[simp] theorem State.setCam_trainPks (s : State) (n : Nat) (x : CamRt) : (s.setCam n x).trainPks = s.trainPks := rfl
@[simp] theorem State.setCam_latPks (s : State) (n : Nat) (x : CamRt) : (s.setCam n x).latPks = s.latPks := rfl
@[simp] theorem State.setCam_heads (s : State) (n : Nat) (x : CamRt) : (s.setCam n x).heads = s.heads := rfl
@[simp] theorem State.setCam_encs (s : State) (n : Nat) (x : CamRt) : (s.setCam n x).encs = s.encs := rfl
@[simp] theorem State.setCam_syns (s : State) (n : Nat) (x : CamRt) : (s.setCam n x).syns = s.syns := rfl
@[simp] theorem State.setCam_cmps (s : State) (n : Nat) (x : CamRt) : (s.setCam n x).cmps = s.cmps := rfl
@[simp] theorem State.setCam_latches (s : State) (n : Nat) (x : CamRt) : (s.setCam n x).latches = s.latches := rfl
@[simp] theorem State.setCam_divs (s : State) (n : Nat) (x : CamRt) : (s.setCam n x).divs = s.divs := rfl
@[simp] theorem State.setCam_tbs (s : State) (n : Nat) (x : CamRt) : (s.setCam n x).tbs = s.tbs := rfl
@[simp] theorem State.setCam_ptp (s : State) (n : Nat) (x : CamRt) : (s.setCam n x).ptp = s.ptp := rfl
@[simp] theorem State.setCam_axes (s : State) (n : Nat) (x : CamRt) : (s.setCam n x).axes = s.axes := rfl
@[simp] theorem State.setCam_pulses (s : State) (n : Nat) (x : CamRt) : (s.setCam n x).pulses = s.pulses := rfl
@[simp] theorem State.setCam_ownCrcs (s : State) (n : Nat) (x : CamRt) : (s.setCam n x).ownCrcs = s.ownCrcs := rfl
@[simp] theorem State.setCam_peerCrcs (s : State) (n : Nat) (x : CamRt) : (s.setCam n x).peerCrcs = s.peerCrcs := rfl
@[simp] theorem State.setCam_check (s : State) (n : Nat) (x : CamRt) : (s.setCam n x).check = s.check := rfl
@[simp] theorem State.setCam_compareFrom (s : State) (n : Nat) (x : CamRt) : (s.setCam n x).compareFrom = s.compareFrom := rfl
@[simp] theorem State.setCam_tokens (s : State) (n : Nat) (x : CamRt) : (s.setCam n x).tokens = s.tokens := rfl
@[simp] theorem State.setCam_ticks (s : State) (n : Nat) (x : CamRt) : (s.setCam n x).ticks = s.ticks := rfl
@[simp] theorem State.setCam_yk (s : State) (n : Nat) (x : CamRt) : (s.setCam n x).yk = s.yk := rfl
@[simp] theorem State.setCam_gl (s : State) (n : Nat) (x : CamRt) : (s.setCam n x).gl = s.gl := rfl
@[simp] theorem State.setCam_hlth (s : State) (n : Nat) (x : CamRt) : (s.setCam n x).hlth = s.hlth := rfl
@[simp] theorem State.setCam_sec (s : State) (n : Nat) (x : CamRt) : (s.setCam n x).sec = s.sec := rfl
@[simp] theorem State.setCam_nor (s : State) (n : Nat) (x : CamRt) : (s.setCam n x).nor = s.nor := rfl
@[simp] theorem State.setCam_sysr (s : State) (n : Nat) (x : CamRt) : (s.setCam n x).sysr = s.sysr := rfl
@[simp] theorem State.setCam_heldCmds (s : State) (n : Nat) (x : CamRt) : (s.setCam n x).heldCmds = s.heldCmds := rfl
@[simp] theorem State.setCam_insp (s : State) (n : Nat) (x : CamRt) : (s.setCam n x).insp = s.insp := rfl
@[simp] theorem State.setCam_cal (s : State) (n : Nat) (x : CamRt) : (s.setCam n x).cal = s.cal := rfl

/-! ## `State.setHolding` -/

@[simp] theorem State.setHolding_pending (s : State) (n : Node) (x : Holding) : (s.setHolding n x).pending = s.pending := rfl
@[simp] theorem State.setHolding_now (s : State) (n : Node) (x : Holding) : (s.setHolding n x).now = s.now := rfl
@[simp] theorem State.setHolding_fresh (s : State) (n : Node) (x : Holding) : (s.setHolding n x).fresh = s.fresh := rfl
@[simp] theorem State.setHolding_regs (s : State) (n : Node) (x : Holding) : (s.setHolding n x).regs = s.regs := rfl
@[simp] theorem State.setHolding_locked (s : State) (n : Node) (x : Holding) : (s.setHolding n x).locked = s.locked := rfl
@[simp] theorem State.setHolding_captured (s : State) (n : Node) (x : Holding) : (s.setHolding n x).captured = s.captured := rfl
@[simp] theorem State.setHolding_staged (s : State) (n : Node) (x : Holding) : (s.setHolding n x).staged = s.staged := rfl
@[simp] theorem State.setHolding_shadow (s : State) (n : Node) (x : Holding) : (s.setHolding n x).shadow = s.shadow := rfl
@[simp] theorem State.setHolding_events (s : State) (n : Node) (x : Holding) : (s.setHolding n x).events = s.events := rfl
@[simp] theorem State.setHolding_modes (s : State) (n : Node) (x : Holding) : (s.setHolding n x).modes = s.modes := rfl
@[simp] theorem State.setHolding_heldCtrl (s : State) (n : Node) (x : Holding) : (s.setHolding n x).heldCtrl = s.heldCtrl := rfl
@[simp] theorem State.setHolding_sysReported (s : State) (n : Node) (x : Holding) : (s.setHolding n x).sysReported = s.sysReported := rfl
@[simp] theorem State.setHolding_sent (s : State) (n : Node) (x : Holding) : (s.setHolding n x).sent = s.sent := rfl
@[simp] theorem State.setHolding_host (s : State) (n : Node) (x : Holding) : (s.setHolding n x).host = s.host := rfl
@[simp] theorem State.setHolding_hostMarks (s : State) (n : Node) (x : Holding) : (s.setHolding n x).hostMarks = s.hostMarks := rfl
@[simp] theorem State.setHolding_dram (s : State) (n : Node) (x : Holding) : (s.setHolding n x).dram = s.dram := rfl
@[simp] theorem State.setHolding_dramPoison (s : State) (n : Node) (x : Holding) : (s.setHolding n x).dramPoison = s.dramPoison := rfl
@[simp] theorem State.setHolding_dramErr (s : State) (n : Node) (x : Holding) : (s.setHolding n x).dramErr = s.dramErr := rfl
@[simp] theorem State.setHolding_ceRows (s : State) (n : Node) (x : Holding) : (s.setHolding n x).ceRows = s.ceRows := rfl
@[simp] theorem State.setHolding_retired (s : State) (n : Node) (x : Holding) : (s.setHolding n x).retired = s.retired := rfl
@[simp] theorem State.setHolding_remaps (s : State) (n : Node) (x : Holding) : (s.setHolding n x).remaps = s.remaps := rfl
@[simp] theorem State.setHolding_memLog (s : State) (n : Node) (x : Holding) : (s.setHolding n x).memLog = s.memLog := rfl
@[simp] theorem State.setHolding_mem (s : State) (n : Node) (x : Holding) : (s.setHolding n x).mem = s.mem := rfl
@[simp] theorem State.setHolding_tallies (s : State) (n : Node) (x : Holding) : (s.setHolding n x).tallies = s.tallies := rfl
@[simp] theorem State.setHolding_rings (s : State) (n : Node) (x : Holding) : (s.setHolding n x).rings = s.rings := rfl
@[simp] theorem State.setHolding_pkEpoch (s : State) (n : Node) (x : Holding) : (s.setHolding n x).pkEpoch = s.pkEpoch := rfl
@[simp] theorem State.setHolding_arbRing (s : State) (n : Node) (x : Holding) : (s.setHolding n x).arbRing = s.arbRing := rfl
@[simp] theorem State.setHolding_arbLeft (s : State) (n : Node) (x : Holding) : (s.setHolding n x).arbLeft = s.arbLeft := rfl
@[simp] theorem State.setHolding_drains (s : State) (n : Node) (x : Holding) : (s.setHolding n x).drains = s.drains := rfl
@[simp] theorem State.setHolding_ctxs (s : State) (n : Node) (x : Holding) : (s.setHolding n x).ctxs = s.ctxs := rfl
@[simp] theorem State.setHolding_globalLine (s : State) (n : Node) (x : Holding) : (s.setHolding n x).globalLine = s.globalLine := rfl
@[simp] theorem State.setHolding_handles (s : State) (n : Node) (x : Holding) : (s.setHolding n x).handles = s.handles := rfl
@[simp] theorem State.setHolding_baleJobs (s : State) (n : Node) (x : Holding) : (s.setHolding n x).baleJobs = s.baleJobs := rfl
@[simp] theorem State.setHolding_holders (s : State) (n : Node) (x : Holding) : (s.setHolding n x).holders = s.holders := rfl
@[simp] theorem State.setHolding_gangs (s : State) (n : Node) (x : Holding) : (s.setHolding n x).gangs = s.gangs := rfl
@[simp] theorem State.setHolding_nmap (s : State) (n : Node) (x : Holding) : (s.setHolding n x).nmap = s.nmap := rfl
@[simp] theorem State.setHolding_nmapBad (s : State) (n : Node) (x : Holding) : (s.setHolding n x).nmapBad = s.nmapBad := rfl
@[simp] theorem State.setHolding_ncal (s : State) (n : Node) (x : Holding) : (s.setHolding n x).ncal = s.ncal := rfl
@[simp] theorem State.setHolding_ncalBad (s : State) (n : Node) (x : Holding) : (s.setHolding n x).ncalBad = s.ncalBad := rfl
@[simp] theorem State.setHolding_thresh (s : State) (n : Node) (x : Holding) : (s.setHolding n x).thresh = s.thresh := rfl
@[simp] theorem State.setHolding_threshBad (s : State) (n : Node) (x : Holding) : (s.setHolding n x).threshBad = s.threshBad := rfl
@[simp] theorem State.setHolding_levels (s : State) (n : Node) (x : Holding) : (s.setHolding n x).levels = s.levels := rfl
@[simp] theorem State.setHolding_levelsBad (s : State) (n : Node) (x : Holding) : (s.setHolding n x).levelsBad = s.levelsBad := rfl
@[simp] theorem State.setHolding_tableChanges (s : State) (n : Node) (x : Holding) : (s.setHolding n x).tableChanges = s.tableChanges := rfl
@[simp] theorem State.setHolding_dueChanges (s : State) (n : Node) (x : Holding) : (s.setHolding n x).dueChanges = s.dueChanges := rfl
@[simp] theorem State.setHolding_slices (s : State) (n : Node) (x : Holding) : (s.setHolding n x).slices = s.slices := rfl
@[simp] theorem State.setHolding_rotNext (s : State) (n : Node) (x : Holding) : (s.setHolding n x).rotNext = s.rotNext := rfl
@[simp] theorem State.setHolding_rowCache (s : State) (n : Node) (x : Holding) : (s.setHolding n x).rowCache = s.rowCache := rfl
@[simp] theorem State.setHolding_rotAt (s : State) (n : Node) (x : Holding) : (s.setHolding n x).rotAt = s.rotAt := rfl
@[simp] theorem State.setHolding_lanes (s : State) (n : Node) (x : Holding) : (s.setHolding n x).lanes = s.lanes := rfl
@[simp] theorem State.setHolding_trainPks (s : State) (n : Node) (x : Holding) : (s.setHolding n x).trainPks = s.trainPks := rfl
@[simp] theorem State.setHolding_latPks (s : State) (n : Node) (x : Holding) : (s.setHolding n x).latPks = s.latPks := rfl
@[simp] theorem State.setHolding_heads (s : State) (n : Node) (x : Holding) : (s.setHolding n x).heads = s.heads := rfl
@[simp] theorem State.setHolding_encs (s : State) (n : Node) (x : Holding) : (s.setHolding n x).encs = s.encs := rfl
@[simp] theorem State.setHolding_syns (s : State) (n : Node) (x : Holding) : (s.setHolding n x).syns = s.syns := rfl
@[simp] theorem State.setHolding_cmps (s : State) (n : Node) (x : Holding) : (s.setHolding n x).cmps = s.cmps := rfl
@[simp] theorem State.setHolding_latches (s : State) (n : Node) (x : Holding) : (s.setHolding n x).latches = s.latches := rfl
@[simp] theorem State.setHolding_divs (s : State) (n : Node) (x : Holding) : (s.setHolding n x).divs = s.divs := rfl
@[simp] theorem State.setHolding_tbs (s : State) (n : Node) (x : Holding) : (s.setHolding n x).tbs = s.tbs := rfl
@[simp] theorem State.setHolding_ptp (s : State) (n : Node) (x : Holding) : (s.setHolding n x).ptp = s.ptp := rfl
@[simp] theorem State.setHolding_axes (s : State) (n : Node) (x : Holding) : (s.setHolding n x).axes = s.axes := rfl
@[simp] theorem State.setHolding_pulses (s : State) (n : Node) (x : Holding) : (s.setHolding n x).pulses = s.pulses := rfl
@[simp] theorem State.setHolding_ownCrcs (s : State) (n : Node) (x : Holding) : (s.setHolding n x).ownCrcs = s.ownCrcs := rfl
@[simp] theorem State.setHolding_peerCrcs (s : State) (n : Node) (x : Holding) : (s.setHolding n x).peerCrcs = s.peerCrcs := rfl
@[simp] theorem State.setHolding_check (s : State) (n : Node) (x : Holding) : (s.setHolding n x).check = s.check := rfl
@[simp] theorem State.setHolding_compareFrom (s : State) (n : Node) (x : Holding) : (s.setHolding n x).compareFrom = s.compareFrom := rfl
@[simp] theorem State.setHolding_tokens (s : State) (n : Node) (x : Holding) : (s.setHolding n x).tokens = s.tokens := rfl
@[simp] theorem State.setHolding_ticks (s : State) (n : Node) (x : Holding) : (s.setHolding n x).ticks = s.ticks := rfl
@[simp] theorem State.setHolding_yk (s : State) (n : Node) (x : Holding) : (s.setHolding n x).yk = s.yk := rfl
@[simp] theorem State.setHolding_gl (s : State) (n : Node) (x : Holding) : (s.setHolding n x).gl = s.gl := rfl
@[simp] theorem State.setHolding_hlth (s : State) (n : Node) (x : Holding) : (s.setHolding n x).hlth = s.hlth := rfl
@[simp] theorem State.setHolding_sec (s : State) (n : Node) (x : Holding) : (s.setHolding n x).sec = s.sec := rfl
@[simp] theorem State.setHolding_nor (s : State) (n : Node) (x : Holding) : (s.setHolding n x).nor = s.nor := rfl
@[simp] theorem State.setHolding_sysr (s : State) (n : Node) (x : Holding) : (s.setHolding n x).sysr = s.sysr := rfl
@[simp] theorem State.setHolding_heldCmds (s : State) (n : Node) (x : Holding) : (s.setHolding n x).heldCmds = s.heldCmds := rfl
@[simp] theorem State.setHolding_cams (s : State) (n : Node) (x : Holding) : (s.setHolding n x).cams = s.cams := rfl
@[simp] theorem State.setHolding_insp (s : State) (n : Node) (x : Holding) : (s.setHolding n x).insp = s.insp := rfl
@[simp] theorem State.setHolding_cal (s : State) (n : Node) (x : Holding) : (s.setHolding n x).cal = s.cal := rfl

/-! ## `State.setMode` -/

@[simp] theorem State.setMode_pending (s : State) (n : Node) (m : NodeMode) : (s.setMode n m).pending = s.pending := rfl
@[simp] theorem State.setMode_now (s : State) (n : Node) (m : NodeMode) : (s.setMode n m).now = s.now := rfl
@[simp] theorem State.setMode_fresh (s : State) (n : Node) (m : NodeMode) : (s.setMode n m).fresh = s.fresh := rfl
@[simp] theorem State.setMode_regs (s : State) (n : Node) (m : NodeMode) : (s.setMode n m).regs = s.regs := rfl
@[simp] theorem State.setMode_locked (s : State) (n : Node) (m : NodeMode) : (s.setMode n m).locked = s.locked := rfl
@[simp] theorem State.setMode_captured (s : State) (n : Node) (m : NodeMode) : (s.setMode n m).captured = s.captured := rfl
@[simp] theorem State.setMode_staged (s : State) (n : Node) (m : NodeMode) : (s.setMode n m).staged = s.staged := rfl
@[simp] theorem State.setMode_shadow (s : State) (n : Node) (m : NodeMode) : (s.setMode n m).shadow = s.shadow := rfl
@[simp] theorem State.setMode_events (s : State) (n : Node) (m : NodeMode) : (s.setMode n m).events = s.events := rfl
@[simp] theorem State.setMode_heldCtrl (s : State) (n : Node) (m : NodeMode) : (s.setMode n m).heldCtrl = s.heldCtrl := rfl
@[simp] theorem State.setMode_sysReported (s : State) (n : Node) (m : NodeMode) : (s.setMode n m).sysReported = s.sysReported := rfl
@[simp] theorem State.setMode_sent (s : State) (n : Node) (m : NodeMode) : (s.setMode n m).sent = s.sent := rfl
@[simp] theorem State.setMode_host (s : State) (n : Node) (m : NodeMode) : (s.setMode n m).host = s.host := rfl
@[simp] theorem State.setMode_hostMarks (s : State) (n : Node) (m : NodeMode) : (s.setMode n m).hostMarks = s.hostMarks := rfl
@[simp] theorem State.setMode_dram (s : State) (n : Node) (m : NodeMode) : (s.setMode n m).dram = s.dram := rfl
@[simp] theorem State.setMode_dramPoison (s : State) (n : Node) (m : NodeMode) : (s.setMode n m).dramPoison = s.dramPoison := rfl
@[simp] theorem State.setMode_dramErr (s : State) (n : Node) (m : NodeMode) : (s.setMode n m).dramErr = s.dramErr := rfl
@[simp] theorem State.setMode_ceRows (s : State) (n : Node) (m : NodeMode) : (s.setMode n m).ceRows = s.ceRows := rfl
@[simp] theorem State.setMode_retired (s : State) (n : Node) (m : NodeMode) : (s.setMode n m).retired = s.retired := rfl
@[simp] theorem State.setMode_remaps (s : State) (n : Node) (m : NodeMode) : (s.setMode n m).remaps = s.remaps := rfl
@[simp] theorem State.setMode_memLog (s : State) (n : Node) (m : NodeMode) : (s.setMode n m).memLog = s.memLog := rfl
@[simp] theorem State.setMode_mem (s : State) (n : Node) (m : NodeMode) : (s.setMode n m).mem = s.mem := rfl
@[simp] theorem State.setMode_tallies (s : State) (n : Node) (m : NodeMode) : (s.setMode n m).tallies = s.tallies := rfl
@[simp] theorem State.setMode_rings (s : State) (n : Node) (m : NodeMode) : (s.setMode n m).rings = s.rings := rfl
@[simp] theorem State.setMode_pkEpoch (s : State) (n : Node) (m : NodeMode) : (s.setMode n m).pkEpoch = s.pkEpoch := rfl
@[simp] theorem State.setMode_arbRing (s : State) (n : Node) (m : NodeMode) : (s.setMode n m).arbRing = s.arbRing := rfl
@[simp] theorem State.setMode_arbLeft (s : State) (n : Node) (m : NodeMode) : (s.setMode n m).arbLeft = s.arbLeft := rfl
@[simp] theorem State.setMode_drains (s : State) (n : Node) (m : NodeMode) : (s.setMode n m).drains = s.drains := rfl
@[simp] theorem State.setMode_holdings (s : State) (n : Node) (m : NodeMode) : (s.setMode n m).holdings = s.holdings := rfl
@[simp] theorem State.setMode_ctxs (s : State) (n : Node) (m : NodeMode) : (s.setMode n m).ctxs = s.ctxs := rfl
@[simp] theorem State.setMode_globalLine (s : State) (n : Node) (m : NodeMode) : (s.setMode n m).globalLine = s.globalLine := rfl
@[simp] theorem State.setMode_handles (s : State) (n : Node) (m : NodeMode) : (s.setMode n m).handles = s.handles := rfl
@[simp] theorem State.setMode_baleJobs (s : State) (n : Node) (m : NodeMode) : (s.setMode n m).baleJobs = s.baleJobs := rfl
@[simp] theorem State.setMode_holders (s : State) (n : Node) (m : NodeMode) : (s.setMode n m).holders = s.holders := rfl
@[simp] theorem State.setMode_gangs (s : State) (n : Node) (m : NodeMode) : (s.setMode n m).gangs = s.gangs := rfl
@[simp] theorem State.setMode_nmap (s : State) (n : Node) (m : NodeMode) : (s.setMode n m).nmap = s.nmap := rfl
@[simp] theorem State.setMode_nmapBad (s : State) (n : Node) (m : NodeMode) : (s.setMode n m).nmapBad = s.nmapBad := rfl
@[simp] theorem State.setMode_ncal (s : State) (n : Node) (m : NodeMode) : (s.setMode n m).ncal = s.ncal := rfl
@[simp] theorem State.setMode_ncalBad (s : State) (n : Node) (m : NodeMode) : (s.setMode n m).ncalBad = s.ncalBad := rfl
@[simp] theorem State.setMode_thresh (s : State) (n : Node) (m : NodeMode) : (s.setMode n m).thresh = s.thresh := rfl
@[simp] theorem State.setMode_threshBad (s : State) (n : Node) (m : NodeMode) : (s.setMode n m).threshBad = s.threshBad := rfl
@[simp] theorem State.setMode_levels (s : State) (n : Node) (m : NodeMode) : (s.setMode n m).levels = s.levels := rfl
@[simp] theorem State.setMode_levelsBad (s : State) (n : Node) (m : NodeMode) : (s.setMode n m).levelsBad = s.levelsBad := rfl
@[simp] theorem State.setMode_tableChanges (s : State) (n : Node) (m : NodeMode) : (s.setMode n m).tableChanges = s.tableChanges := rfl
@[simp] theorem State.setMode_dueChanges (s : State) (n : Node) (m : NodeMode) : (s.setMode n m).dueChanges = s.dueChanges := rfl
@[simp] theorem State.setMode_slices (s : State) (n : Node) (m : NodeMode) : (s.setMode n m).slices = s.slices := rfl
@[simp] theorem State.setMode_rotNext (s : State) (n : Node) (m : NodeMode) : (s.setMode n m).rotNext = s.rotNext := rfl
@[simp] theorem State.setMode_rowCache (s : State) (n : Node) (m : NodeMode) : (s.setMode n m).rowCache = s.rowCache := rfl
@[simp] theorem State.setMode_rotAt (s : State) (n : Node) (m : NodeMode) : (s.setMode n m).rotAt = s.rotAt := rfl
@[simp] theorem State.setMode_lanes (s : State) (n : Node) (m : NodeMode) : (s.setMode n m).lanes = s.lanes := rfl
@[simp] theorem State.setMode_trainPks (s : State) (n : Node) (m : NodeMode) : (s.setMode n m).trainPks = s.trainPks := rfl
@[simp] theorem State.setMode_latPks (s : State) (n : Node) (m : NodeMode) : (s.setMode n m).latPks = s.latPks := rfl
@[simp] theorem State.setMode_heads (s : State) (n : Node) (m : NodeMode) : (s.setMode n m).heads = s.heads := rfl
@[simp] theorem State.setMode_encs (s : State) (n : Node) (m : NodeMode) : (s.setMode n m).encs = s.encs := rfl
@[simp] theorem State.setMode_syns (s : State) (n : Node) (m : NodeMode) : (s.setMode n m).syns = s.syns := rfl
@[simp] theorem State.setMode_cmps (s : State) (n : Node) (m : NodeMode) : (s.setMode n m).cmps = s.cmps := rfl
@[simp] theorem State.setMode_latches (s : State) (n : Node) (m : NodeMode) : (s.setMode n m).latches = s.latches := rfl
@[simp] theorem State.setMode_divs (s : State) (n : Node) (m : NodeMode) : (s.setMode n m).divs = s.divs := rfl
@[simp] theorem State.setMode_tbs (s : State) (n : Node) (m : NodeMode) : (s.setMode n m).tbs = s.tbs := rfl
@[simp] theorem State.setMode_ptp (s : State) (n : Node) (m : NodeMode) : (s.setMode n m).ptp = s.ptp := rfl
@[simp] theorem State.setMode_axes (s : State) (n : Node) (m : NodeMode) : (s.setMode n m).axes = s.axes := rfl
@[simp] theorem State.setMode_pulses (s : State) (n : Node) (m : NodeMode) : (s.setMode n m).pulses = s.pulses := rfl
@[simp] theorem State.setMode_ownCrcs (s : State) (n : Node) (m : NodeMode) : (s.setMode n m).ownCrcs = s.ownCrcs := rfl
@[simp] theorem State.setMode_peerCrcs (s : State) (n : Node) (m : NodeMode) : (s.setMode n m).peerCrcs = s.peerCrcs := rfl
@[simp] theorem State.setMode_check (s : State) (n : Node) (m : NodeMode) : (s.setMode n m).check = s.check := rfl
@[simp] theorem State.setMode_compareFrom (s : State) (n : Node) (m : NodeMode) : (s.setMode n m).compareFrom = s.compareFrom := rfl
@[simp] theorem State.setMode_tokens (s : State) (n : Node) (m : NodeMode) : (s.setMode n m).tokens = s.tokens := rfl
@[simp] theorem State.setMode_ticks (s : State) (n : Node) (m : NodeMode) : (s.setMode n m).ticks = s.ticks := rfl
@[simp] theorem State.setMode_yk (s : State) (n : Node) (m : NodeMode) : (s.setMode n m).yk = s.yk := rfl
@[simp] theorem State.setMode_gl (s : State) (n : Node) (m : NodeMode) : (s.setMode n m).gl = s.gl := rfl
@[simp] theorem State.setMode_hlth (s : State) (n : Node) (m : NodeMode) : (s.setMode n m).hlth = s.hlth := rfl
@[simp] theorem State.setMode_sec (s : State) (n : Node) (m : NodeMode) : (s.setMode n m).sec = s.sec := rfl
@[simp] theorem State.setMode_nor (s : State) (n : Node) (m : NodeMode) : (s.setMode n m).nor = s.nor := rfl
@[simp] theorem State.setMode_sysr (s : State) (n : Node) (m : NodeMode) : (s.setMode n m).sysr = s.sysr := rfl
@[simp] theorem State.setMode_heldCmds (s : State) (n : Node) (m : NodeMode) : (s.setMode n m).heldCmds = s.heldCmds := rfl
@[simp] theorem State.setMode_cams (s : State) (n : Node) (m : NodeMode) : (s.setMode n m).cams = s.cams := rfl
@[simp] theorem State.setMode_insp (s : State) (n : Node) (m : NodeMode) : (s.setMode n m).insp = s.insp := rfl
@[simp] theorem State.setMode_cal (s : State) (n : Node) (m : NodeMode) : (s.setMode n m).cal = s.cal := rfl

/-! ## `State.latchEvent` -/

@[simp] theorem State.latchEvent_pending (s : State) (n : Node) (b : Nat) : (s.latchEvent n b).pending = s.pending := rfl
@[simp] theorem State.latchEvent_now (s : State) (n : Node) (b : Nat) : (s.latchEvent n b).now = s.now := rfl
@[simp] theorem State.latchEvent_fresh (s : State) (n : Node) (b : Nat) : (s.latchEvent n b).fresh = s.fresh := rfl
@[simp] theorem State.latchEvent_regs (s : State) (n : Node) (b : Nat) : (s.latchEvent n b).regs = s.regs := rfl
@[simp] theorem State.latchEvent_locked (s : State) (n : Node) (b : Nat) : (s.latchEvent n b).locked = s.locked := rfl
@[simp] theorem State.latchEvent_captured (s : State) (n : Node) (b : Nat) : (s.latchEvent n b).captured = s.captured := rfl
@[simp] theorem State.latchEvent_staged (s : State) (n : Node) (b : Nat) : (s.latchEvent n b).staged = s.staged := rfl
@[simp] theorem State.latchEvent_shadow (s : State) (n : Node) (b : Nat) : (s.latchEvent n b).shadow = s.shadow := rfl
@[simp] theorem State.latchEvent_modes (s : State) (n : Node) (b : Nat) : (s.latchEvent n b).modes = s.modes := rfl
@[simp] theorem State.latchEvent_heldCtrl (s : State) (n : Node) (b : Nat) : (s.latchEvent n b).heldCtrl = s.heldCtrl := rfl
@[simp] theorem State.latchEvent_sysReported (s : State) (n : Node) (b : Nat) : (s.latchEvent n b).sysReported = s.sysReported := rfl
@[simp] theorem State.latchEvent_sent (s : State) (n : Node) (b : Nat) : (s.latchEvent n b).sent = s.sent := rfl
@[simp] theorem State.latchEvent_host (s : State) (n : Node) (b : Nat) : (s.latchEvent n b).host = s.host := rfl
@[simp] theorem State.latchEvent_hostMarks (s : State) (n : Node) (b : Nat) : (s.latchEvent n b).hostMarks = s.hostMarks := rfl
@[simp] theorem State.latchEvent_dram (s : State) (n : Node) (b : Nat) : (s.latchEvent n b).dram = s.dram := rfl
@[simp] theorem State.latchEvent_dramPoison (s : State) (n : Node) (b : Nat) : (s.latchEvent n b).dramPoison = s.dramPoison := rfl
@[simp] theorem State.latchEvent_dramErr (s : State) (n : Node) (b : Nat) : (s.latchEvent n b).dramErr = s.dramErr := rfl
@[simp] theorem State.latchEvent_ceRows (s : State) (n : Node) (b : Nat) : (s.latchEvent n b).ceRows = s.ceRows := rfl
@[simp] theorem State.latchEvent_retired (s : State) (n : Node) (b : Nat) : (s.latchEvent n b).retired = s.retired := rfl
@[simp] theorem State.latchEvent_remaps (s : State) (n : Node) (b : Nat) : (s.latchEvent n b).remaps = s.remaps := rfl
@[simp] theorem State.latchEvent_memLog (s : State) (n : Node) (b : Nat) : (s.latchEvent n b).memLog = s.memLog := rfl
@[simp] theorem State.latchEvent_mem (s : State) (n : Node) (b : Nat) : (s.latchEvent n b).mem = s.mem := rfl
@[simp] theorem State.latchEvent_tallies (s : State) (n : Node) (b : Nat) : (s.latchEvent n b).tallies = s.tallies := rfl
@[simp] theorem State.latchEvent_rings (s : State) (n : Node) (b : Nat) : (s.latchEvent n b).rings = s.rings := rfl
@[simp] theorem State.latchEvent_pkEpoch (s : State) (n : Node) (b : Nat) : (s.latchEvent n b).pkEpoch = s.pkEpoch := rfl
@[simp] theorem State.latchEvent_arbRing (s : State) (n : Node) (b : Nat) : (s.latchEvent n b).arbRing = s.arbRing := rfl
@[simp] theorem State.latchEvent_arbLeft (s : State) (n : Node) (b : Nat) : (s.latchEvent n b).arbLeft = s.arbLeft := rfl
@[simp] theorem State.latchEvent_drains (s : State) (n : Node) (b : Nat) : (s.latchEvent n b).drains = s.drains := rfl
@[simp] theorem State.latchEvent_holdings (s : State) (n : Node) (b : Nat) : (s.latchEvent n b).holdings = s.holdings := rfl
@[simp] theorem State.latchEvent_ctxs (s : State) (n : Node) (b : Nat) : (s.latchEvent n b).ctxs = s.ctxs := rfl
@[simp] theorem State.latchEvent_globalLine (s : State) (n : Node) (b : Nat) : (s.latchEvent n b).globalLine = s.globalLine := rfl
@[simp] theorem State.latchEvent_handles (s : State) (n : Node) (b : Nat) : (s.latchEvent n b).handles = s.handles := rfl
@[simp] theorem State.latchEvent_baleJobs (s : State) (n : Node) (b : Nat) : (s.latchEvent n b).baleJobs = s.baleJobs := rfl
@[simp] theorem State.latchEvent_holders (s : State) (n : Node) (b : Nat) : (s.latchEvent n b).holders = s.holders := rfl
@[simp] theorem State.latchEvent_gangs (s : State) (n : Node) (b : Nat) : (s.latchEvent n b).gangs = s.gangs := rfl
@[simp] theorem State.latchEvent_nmap (s : State) (n : Node) (b : Nat) : (s.latchEvent n b).nmap = s.nmap := rfl
@[simp] theorem State.latchEvent_nmapBad (s : State) (n : Node) (b : Nat) : (s.latchEvent n b).nmapBad = s.nmapBad := rfl
@[simp] theorem State.latchEvent_ncal (s : State) (n : Node) (b : Nat) : (s.latchEvent n b).ncal = s.ncal := rfl
@[simp] theorem State.latchEvent_ncalBad (s : State) (n : Node) (b : Nat) : (s.latchEvent n b).ncalBad = s.ncalBad := rfl
@[simp] theorem State.latchEvent_thresh (s : State) (n : Node) (b : Nat) : (s.latchEvent n b).thresh = s.thresh := rfl
@[simp] theorem State.latchEvent_threshBad (s : State) (n : Node) (b : Nat) : (s.latchEvent n b).threshBad = s.threshBad := rfl
@[simp] theorem State.latchEvent_levels (s : State) (n : Node) (b : Nat) : (s.latchEvent n b).levels = s.levels := rfl
@[simp] theorem State.latchEvent_levelsBad (s : State) (n : Node) (b : Nat) : (s.latchEvent n b).levelsBad = s.levelsBad := rfl
@[simp] theorem State.latchEvent_tableChanges (s : State) (n : Node) (b : Nat) : (s.latchEvent n b).tableChanges = s.tableChanges := rfl
@[simp] theorem State.latchEvent_dueChanges (s : State) (n : Node) (b : Nat) : (s.latchEvent n b).dueChanges = s.dueChanges := rfl
@[simp] theorem State.latchEvent_slices (s : State) (n : Node) (b : Nat) : (s.latchEvent n b).slices = s.slices := rfl
@[simp] theorem State.latchEvent_rotNext (s : State) (n : Node) (b : Nat) : (s.latchEvent n b).rotNext = s.rotNext := rfl
@[simp] theorem State.latchEvent_rowCache (s : State) (n : Node) (b : Nat) : (s.latchEvent n b).rowCache = s.rowCache := rfl
@[simp] theorem State.latchEvent_rotAt (s : State) (n : Node) (b : Nat) : (s.latchEvent n b).rotAt = s.rotAt := rfl
@[simp] theorem State.latchEvent_lanes (s : State) (n : Node) (b : Nat) : (s.latchEvent n b).lanes = s.lanes := rfl
@[simp] theorem State.latchEvent_trainPks (s : State) (n : Node) (b : Nat) : (s.latchEvent n b).trainPks = s.trainPks := rfl
@[simp] theorem State.latchEvent_latPks (s : State) (n : Node) (b : Nat) : (s.latchEvent n b).latPks = s.latPks := rfl
@[simp] theorem State.latchEvent_heads (s : State) (n : Node) (b : Nat) : (s.latchEvent n b).heads = s.heads := rfl
@[simp] theorem State.latchEvent_encs (s : State) (n : Node) (b : Nat) : (s.latchEvent n b).encs = s.encs := rfl
@[simp] theorem State.latchEvent_syns (s : State) (n : Node) (b : Nat) : (s.latchEvent n b).syns = s.syns := rfl
@[simp] theorem State.latchEvent_cmps (s : State) (n : Node) (b : Nat) : (s.latchEvent n b).cmps = s.cmps := rfl
@[simp] theorem State.latchEvent_latches (s : State) (n : Node) (b : Nat) : (s.latchEvent n b).latches = s.latches := rfl
@[simp] theorem State.latchEvent_divs (s : State) (n : Node) (b : Nat) : (s.latchEvent n b).divs = s.divs := rfl
@[simp] theorem State.latchEvent_tbs (s : State) (n : Node) (b : Nat) : (s.latchEvent n b).tbs = s.tbs := rfl
@[simp] theorem State.latchEvent_ptp (s : State) (n : Node) (b : Nat) : (s.latchEvent n b).ptp = s.ptp := rfl
@[simp] theorem State.latchEvent_axes (s : State) (n : Node) (b : Nat) : (s.latchEvent n b).axes = s.axes := rfl
@[simp] theorem State.latchEvent_pulses (s : State) (n : Node) (b : Nat) : (s.latchEvent n b).pulses = s.pulses := rfl
@[simp] theorem State.latchEvent_ownCrcs (s : State) (n : Node) (b : Nat) : (s.latchEvent n b).ownCrcs = s.ownCrcs := rfl
@[simp] theorem State.latchEvent_peerCrcs (s : State) (n : Node) (b : Nat) : (s.latchEvent n b).peerCrcs = s.peerCrcs := rfl
@[simp] theorem State.latchEvent_check (s : State) (n : Node) (b : Nat) : (s.latchEvent n b).check = s.check := rfl
@[simp] theorem State.latchEvent_compareFrom (s : State) (n : Node) (b : Nat) : (s.latchEvent n b).compareFrom = s.compareFrom := rfl
@[simp] theorem State.latchEvent_tokens (s : State) (n : Node) (b : Nat) : (s.latchEvent n b).tokens = s.tokens := rfl
@[simp] theorem State.latchEvent_ticks (s : State) (n : Node) (b : Nat) : (s.latchEvent n b).ticks = s.ticks := rfl
@[simp] theorem State.latchEvent_yk (s : State) (n : Node) (b : Nat) : (s.latchEvent n b).yk = s.yk := rfl
@[simp] theorem State.latchEvent_gl (s : State) (n : Node) (b : Nat) : (s.latchEvent n b).gl = s.gl := rfl
@[simp] theorem State.latchEvent_hlth (s : State) (n : Node) (b : Nat) : (s.latchEvent n b).hlth = s.hlth := rfl
@[simp] theorem State.latchEvent_sec (s : State) (n : Node) (b : Nat) : (s.latchEvent n b).sec = s.sec := rfl
@[simp] theorem State.latchEvent_nor (s : State) (n : Node) (b : Nat) : (s.latchEvent n b).nor = s.nor := rfl
@[simp] theorem State.latchEvent_sysr (s : State) (n : Node) (b : Nat) : (s.latchEvent n b).sysr = s.sysr := rfl
@[simp] theorem State.latchEvent_heldCmds (s : State) (n : Node) (b : Nat) : (s.latchEvent n b).heldCmds = s.heldCmds := rfl
@[simp] theorem State.latchEvent_cams (s : State) (n : Node) (b : Nat) : (s.latchEvent n b).cams = s.cams := rfl
@[simp] theorem State.latchEvent_insp (s : State) (n : Node) (b : Nat) : (s.latchEvent n b).insp = s.insp := rfl
@[simp] theorem State.latchEvent_cal (s : State) (n : Node) (b : Nat) : (s.latchEvent n b).cal = s.cal := rfl

/-! ## `State.advance` -/

@[simp] theorem State.advance_pending (s : State) (t : Nat) : (s.advance t).pending = s.pending := rfl
@[simp] theorem State.advance_fresh (s : State) (t : Nat) : (s.advance t).fresh = s.fresh := rfl
@[simp] theorem State.advance_regs (s : State) (t : Nat) : (s.advance t).regs = s.regs := rfl
@[simp] theorem State.advance_locked (s : State) (t : Nat) : (s.advance t).locked = s.locked := rfl
@[simp] theorem State.advance_captured (s : State) (t : Nat) : (s.advance t).captured = s.captured := rfl
@[simp] theorem State.advance_staged (s : State) (t : Nat) : (s.advance t).staged = s.staged := rfl
@[simp] theorem State.advance_shadow (s : State) (t : Nat) : (s.advance t).shadow = s.shadow := rfl
@[simp] theorem State.advance_events (s : State) (t : Nat) : (s.advance t).events = s.events := rfl
@[simp] theorem State.advance_modes (s : State) (t : Nat) : (s.advance t).modes = s.modes := rfl
@[simp] theorem State.advance_heldCtrl (s : State) (t : Nat) : (s.advance t).heldCtrl = s.heldCtrl := rfl
@[simp] theorem State.advance_sysReported (s : State) (t : Nat) : (s.advance t).sysReported = s.sysReported := rfl
@[simp] theorem State.advance_sent (s : State) (t : Nat) : (s.advance t).sent = s.sent := rfl
@[simp] theorem State.advance_host (s : State) (t : Nat) : (s.advance t).host = s.host := rfl
@[simp] theorem State.advance_hostMarks (s : State) (t : Nat) : (s.advance t).hostMarks = s.hostMarks := rfl
@[simp] theorem State.advance_dram (s : State) (t : Nat) : (s.advance t).dram = s.dram := rfl
@[simp] theorem State.advance_dramPoison (s : State) (t : Nat) : (s.advance t).dramPoison = s.dramPoison := rfl
@[simp] theorem State.advance_dramErr (s : State) (t : Nat) : (s.advance t).dramErr = s.dramErr := rfl
@[simp] theorem State.advance_ceRows (s : State) (t : Nat) : (s.advance t).ceRows = s.ceRows := rfl
@[simp] theorem State.advance_retired (s : State) (t : Nat) : (s.advance t).retired = s.retired := rfl
@[simp] theorem State.advance_remaps (s : State) (t : Nat) : (s.advance t).remaps = s.remaps := rfl
@[simp] theorem State.advance_memLog (s : State) (t : Nat) : (s.advance t).memLog = s.memLog := rfl
@[simp] theorem State.advance_mem (s : State) (t : Nat) : (s.advance t).mem = s.mem := rfl
@[simp] theorem State.advance_tallies (s : State) (t : Nat) : (s.advance t).tallies = s.tallies := rfl
@[simp] theorem State.advance_rings (s : State) (t : Nat) : (s.advance t).rings = s.rings := rfl
@[simp] theorem State.advance_pkEpoch (s : State) (t : Nat) : (s.advance t).pkEpoch = s.pkEpoch := rfl
@[simp] theorem State.advance_arbRing (s : State) (t : Nat) : (s.advance t).arbRing = s.arbRing := rfl
@[simp] theorem State.advance_arbLeft (s : State) (t : Nat) : (s.advance t).arbLeft = s.arbLeft := rfl
@[simp] theorem State.advance_drains (s : State) (t : Nat) : (s.advance t).drains = s.drains := rfl
@[simp] theorem State.advance_holdings (s : State) (t : Nat) : (s.advance t).holdings = s.holdings := rfl
@[simp] theorem State.advance_ctxs (s : State) (t : Nat) : (s.advance t).ctxs = s.ctxs := rfl
@[simp] theorem State.advance_globalLine (s : State) (t : Nat) : (s.advance t).globalLine = s.globalLine := rfl
@[simp] theorem State.advance_handles (s : State) (t : Nat) : (s.advance t).handles = s.handles := rfl
@[simp] theorem State.advance_baleJobs (s : State) (t : Nat) : (s.advance t).baleJobs = s.baleJobs := rfl
@[simp] theorem State.advance_holders (s : State) (t : Nat) : (s.advance t).holders = s.holders := rfl
@[simp] theorem State.advance_gangs (s : State) (t : Nat) : (s.advance t).gangs = s.gangs := rfl
@[simp] theorem State.advance_nmap (s : State) (t : Nat) : (s.advance t).nmap = s.nmap := rfl
@[simp] theorem State.advance_nmapBad (s : State) (t : Nat) : (s.advance t).nmapBad = s.nmapBad := rfl
@[simp] theorem State.advance_ncal (s : State) (t : Nat) : (s.advance t).ncal = s.ncal := rfl
@[simp] theorem State.advance_ncalBad (s : State) (t : Nat) : (s.advance t).ncalBad = s.ncalBad := rfl
@[simp] theorem State.advance_thresh (s : State) (t : Nat) : (s.advance t).thresh = s.thresh := rfl
@[simp] theorem State.advance_threshBad (s : State) (t : Nat) : (s.advance t).threshBad = s.threshBad := rfl
@[simp] theorem State.advance_levels (s : State) (t : Nat) : (s.advance t).levels = s.levels := rfl
@[simp] theorem State.advance_levelsBad (s : State) (t : Nat) : (s.advance t).levelsBad = s.levelsBad := rfl
@[simp] theorem State.advance_tableChanges (s : State) (t : Nat) : (s.advance t).tableChanges = s.tableChanges := rfl
@[simp] theorem State.advance_dueChanges (s : State) (t : Nat) : (s.advance t).dueChanges = s.dueChanges := rfl
@[simp] theorem State.advance_slices (s : State) (t : Nat) : (s.advance t).slices = s.slices := rfl
@[simp] theorem State.advance_rotNext (s : State) (t : Nat) : (s.advance t).rotNext = s.rotNext := rfl
@[simp] theorem State.advance_rowCache (s : State) (t : Nat) : (s.advance t).rowCache = s.rowCache := rfl
@[simp] theorem State.advance_rotAt (s : State) (t : Nat) : (s.advance t).rotAt = s.rotAt := rfl
@[simp] theorem State.advance_lanes (s : State) (t : Nat) : (s.advance t).lanes = s.lanes := rfl
@[simp] theorem State.advance_trainPks (s : State) (t : Nat) : (s.advance t).trainPks = s.trainPks := rfl
@[simp] theorem State.advance_latPks (s : State) (t : Nat) : (s.advance t).latPks = s.latPks := rfl
@[simp] theorem State.advance_heads (s : State) (t : Nat) : (s.advance t).heads = s.heads := rfl
@[simp] theorem State.advance_encs (s : State) (t : Nat) : (s.advance t).encs = s.encs := rfl
@[simp] theorem State.advance_syns (s : State) (t : Nat) : (s.advance t).syns = s.syns := rfl
@[simp] theorem State.advance_cmps (s : State) (t : Nat) : (s.advance t).cmps = s.cmps := rfl
@[simp] theorem State.advance_latches (s : State) (t : Nat) : (s.advance t).latches = s.latches := rfl
@[simp] theorem State.advance_divs (s : State) (t : Nat) : (s.advance t).divs = s.divs := rfl
@[simp] theorem State.advance_tbs (s : State) (t : Nat) : (s.advance t).tbs = s.tbs := rfl
@[simp] theorem State.advance_ptp (s : State) (t : Nat) : (s.advance t).ptp = s.ptp := rfl
@[simp] theorem State.advance_axes (s : State) (t : Nat) : (s.advance t).axes = s.axes := rfl
@[simp] theorem State.advance_pulses (s : State) (t : Nat) : (s.advance t).pulses = s.pulses := rfl
@[simp] theorem State.advance_ownCrcs (s : State) (t : Nat) : (s.advance t).ownCrcs = s.ownCrcs := rfl
@[simp] theorem State.advance_peerCrcs (s : State) (t : Nat) : (s.advance t).peerCrcs = s.peerCrcs := rfl
@[simp] theorem State.advance_check (s : State) (t : Nat) : (s.advance t).check = s.check := rfl
@[simp] theorem State.advance_compareFrom (s : State) (t : Nat) : (s.advance t).compareFrom = s.compareFrom := rfl
@[simp] theorem State.advance_tokens (s : State) (t : Nat) : (s.advance t).tokens = s.tokens := rfl
@[simp] theorem State.advance_ticks (s : State) (t : Nat) : (s.advance t).ticks = s.ticks := rfl
@[simp] theorem State.advance_yk (s : State) (t : Nat) : (s.advance t).yk = s.yk := rfl
@[simp] theorem State.advance_gl (s : State) (t : Nat) : (s.advance t).gl = s.gl := rfl
@[simp] theorem State.advance_hlth (s : State) (t : Nat) : (s.advance t).hlth = s.hlth := rfl
@[simp] theorem State.advance_sec (s : State) (t : Nat) : (s.advance t).sec = s.sec := rfl
@[simp] theorem State.advance_nor (s : State) (t : Nat) : (s.advance t).nor = s.nor := rfl
@[simp] theorem State.advance_sysr (s : State) (t : Nat) : (s.advance t).sysr = s.sysr := rfl
@[simp] theorem State.advance_heldCmds (s : State) (t : Nat) : (s.advance t).heldCmds = s.heldCmds := rfl
@[simp] theorem State.advance_cams (s : State) (t : Nat) : (s.advance t).cams = s.cams := rfl
@[simp] theorem State.advance_insp (s : State) (t : Nat) : (s.advance t).insp = s.insp := rfl
@[simp] theorem State.advance_cal (s : State) (t : Nat) : (s.advance t).cal = s.cal := rfl

/-! ## `State.suppress` -/

@[simp] theorem State.suppress_pending (s : State) : (s.suppress).pending = s.pending := rfl
@[simp] theorem State.suppress_now (s : State) : (s.suppress).now = s.now := rfl
@[simp] theorem State.suppress_fresh (s : State) : (s.suppress).fresh = s.fresh := rfl
@[simp] theorem State.suppress_regs (s : State) : (s.suppress).regs = s.regs := rfl
@[simp] theorem State.suppress_locked (s : State) : (s.suppress).locked = s.locked := rfl
@[simp] theorem State.suppress_captured (s : State) : (s.suppress).captured = s.captured := rfl
@[simp] theorem State.suppress_staged (s : State) : (s.suppress).staged = s.staged := rfl
@[simp] theorem State.suppress_shadow (s : State) : (s.suppress).shadow = s.shadow := rfl
@[simp] theorem State.suppress_events (s : State) : (s.suppress).events = s.events := rfl
@[simp] theorem State.suppress_modes (s : State) : (s.suppress).modes = s.modes := rfl
@[simp] theorem State.suppress_heldCtrl (s : State) : (s.suppress).heldCtrl = s.heldCtrl := rfl
@[simp] theorem State.suppress_sysReported (s : State) : (s.suppress).sysReported = s.sysReported := rfl
@[simp] theorem State.suppress_sent (s : State) : (s.suppress).sent = s.sent := rfl
@[simp] theorem State.suppress_host (s : State) : (s.suppress).host = s.host := rfl
@[simp] theorem State.suppress_hostMarks (s : State) : (s.suppress).hostMarks = s.hostMarks := rfl
@[simp] theorem State.suppress_dram (s : State) : (s.suppress).dram = s.dram := rfl
@[simp] theorem State.suppress_dramPoison (s : State) : (s.suppress).dramPoison = s.dramPoison := rfl
@[simp] theorem State.suppress_dramErr (s : State) : (s.suppress).dramErr = s.dramErr := rfl
@[simp] theorem State.suppress_ceRows (s : State) : (s.suppress).ceRows = s.ceRows := rfl
@[simp] theorem State.suppress_retired (s : State) : (s.suppress).retired = s.retired := rfl
@[simp] theorem State.suppress_remaps (s : State) : (s.suppress).remaps = s.remaps := rfl
@[simp] theorem State.suppress_memLog (s : State) : (s.suppress).memLog = s.memLog := rfl
@[simp] theorem State.suppress_mem (s : State) : (s.suppress).mem = s.mem := rfl
@[simp] theorem State.suppress_tallies (s : State) : (s.suppress).tallies = s.tallies := rfl
@[simp] theorem State.suppress_rings (s : State) : (s.suppress).rings = s.rings := rfl
@[simp] theorem State.suppress_pkEpoch (s : State) : (s.suppress).pkEpoch = s.pkEpoch := rfl
@[simp] theorem State.suppress_arbRing (s : State) : (s.suppress).arbRing = s.arbRing := rfl
@[simp] theorem State.suppress_arbLeft (s : State) : (s.suppress).arbLeft = s.arbLeft := rfl
@[simp] theorem State.suppress_drains (s : State) : (s.suppress).drains = s.drains := rfl
@[simp] theorem State.suppress_holdings (s : State) : (s.suppress).holdings = s.holdings := rfl
@[simp] theorem State.suppress_ctxs (s : State) : (s.suppress).ctxs = s.ctxs := rfl
@[simp] theorem State.suppress_globalLine (s : State) : (s.suppress).globalLine = s.globalLine := rfl
@[simp] theorem State.suppress_handles (s : State) : (s.suppress).handles = s.handles := rfl
@[simp] theorem State.suppress_baleJobs (s : State) : (s.suppress).baleJobs = s.baleJobs := rfl
@[simp] theorem State.suppress_holders (s : State) : (s.suppress).holders = s.holders := rfl
@[simp] theorem State.suppress_gangs (s : State) : (s.suppress).gangs = s.gangs := rfl
@[simp] theorem State.suppress_nmap (s : State) : (s.suppress).nmap = s.nmap := rfl
@[simp] theorem State.suppress_nmapBad (s : State) : (s.suppress).nmapBad = s.nmapBad := rfl
@[simp] theorem State.suppress_ncal (s : State) : (s.suppress).ncal = s.ncal := rfl
@[simp] theorem State.suppress_ncalBad (s : State) : (s.suppress).ncalBad = s.ncalBad := rfl
@[simp] theorem State.suppress_thresh (s : State) : (s.suppress).thresh = s.thresh := rfl
@[simp] theorem State.suppress_threshBad (s : State) : (s.suppress).threshBad = s.threshBad := rfl
@[simp] theorem State.suppress_levels (s : State) : (s.suppress).levels = s.levels := rfl
@[simp] theorem State.suppress_levelsBad (s : State) : (s.suppress).levelsBad = s.levelsBad := rfl
@[simp] theorem State.suppress_tableChanges (s : State) : (s.suppress).tableChanges = s.tableChanges := rfl
@[simp] theorem State.suppress_dueChanges (s : State) : (s.suppress).dueChanges = s.dueChanges := rfl
@[simp] theorem State.suppress_slices (s : State) : (s.suppress).slices = s.slices := rfl
@[simp] theorem State.suppress_rotNext (s : State) : (s.suppress).rotNext = s.rotNext := rfl
@[simp] theorem State.suppress_rowCache (s : State) : (s.suppress).rowCache = s.rowCache := rfl
@[simp] theorem State.suppress_rotAt (s : State) : (s.suppress).rotAt = s.rotAt := rfl
@[simp] theorem State.suppress_lanes (s : State) : (s.suppress).lanes = s.lanes := rfl
@[simp] theorem State.suppress_trainPks (s : State) : (s.suppress).trainPks = s.trainPks := rfl
@[simp] theorem State.suppress_latPks (s : State) : (s.suppress).latPks = s.latPks := rfl
@[simp] theorem State.suppress_heads (s : State) : (s.suppress).heads = s.heads := rfl
@[simp] theorem State.suppress_encs (s : State) : (s.suppress).encs = s.encs := rfl
@[simp] theorem State.suppress_syns (s : State) : (s.suppress).syns = s.syns := rfl
@[simp] theorem State.suppress_cmps (s : State) : (s.suppress).cmps = s.cmps := rfl
@[simp] theorem State.suppress_latches (s : State) : (s.suppress).latches = s.latches := rfl
@[simp] theorem State.suppress_divs (s : State) : (s.suppress).divs = s.divs := rfl
@[simp] theorem State.suppress_tbs (s : State) : (s.suppress).tbs = s.tbs := rfl
@[simp] theorem State.suppress_ptp (s : State) : (s.suppress).ptp = s.ptp := rfl
@[simp] theorem State.suppress_axes (s : State) : (s.suppress).axes = s.axes := rfl
@[simp] theorem State.suppress_pulses (s : State) : (s.suppress).pulses = s.pulses := rfl
@[simp] theorem State.suppress_ownCrcs (s : State) : (s.suppress).ownCrcs = s.ownCrcs := rfl
@[simp] theorem State.suppress_peerCrcs (s : State) : (s.suppress).peerCrcs = s.peerCrcs := rfl
@[simp] theorem State.suppress_check (s : State) : (s.suppress).check = s.check := rfl
@[simp] theorem State.suppress_compareFrom (s : State) : (s.suppress).compareFrom = s.compareFrom := rfl
@[simp] theorem State.suppress_tokens (s : State) : (s.suppress).tokens = s.tokens := rfl
@[simp] theorem State.suppress_ticks (s : State) : (s.suppress).ticks = s.ticks := rfl
@[simp] theorem State.suppress_gl (s : State) : (s.suppress).gl = s.gl := rfl
@[simp] theorem State.suppress_hlth (s : State) : (s.suppress).hlth = s.hlth := rfl
@[simp] theorem State.suppress_sec (s : State) : (s.suppress).sec = s.sec := rfl
@[simp] theorem State.suppress_nor (s : State) : (s.suppress).nor = s.nor := rfl
@[simp] theorem State.suppress_sysr (s : State) : (s.suppress).sysr = s.sysr := rfl
@[simp] theorem State.suppress_heldCmds (s : State) : (s.suppress).heldCmds = s.heldCmds := rfl
@[simp] theorem State.suppress_cams (s : State) : (s.suppress).cams = s.cams := rfl
@[simp] theorem State.suppress_insp (s : State) : (s.suppress).insp = s.insp := rfl
@[simp] theorem State.suppress_cal (s : State) : (s.suppress).cal = s.cal := rfl

/-! ## `State.startPk` -/

@[simp] theorem State.startPk_pending (s : State) (h : Hdr) (op : Nat) : (s.startPk h op).pending = s.pending := rfl
@[simp] theorem State.startPk_now (s : State) (h : Hdr) (op : Nat) : (s.startPk h op).now = s.now := rfl
@[simp] theorem State.startPk_fresh (s : State) (h : Hdr) (op : Nat) : (s.startPk h op).fresh = s.fresh := rfl
@[simp] theorem State.startPk_regs (s : State) (h : Hdr) (op : Nat) : (s.startPk h op).regs = s.regs := rfl
@[simp] theorem State.startPk_locked (s : State) (h : Hdr) (op : Nat) : (s.startPk h op).locked = s.locked := rfl
@[simp] theorem State.startPk_captured (s : State) (h : Hdr) (op : Nat) : (s.startPk h op).captured = s.captured := rfl
@[simp] theorem State.startPk_staged (s : State) (h : Hdr) (op : Nat) : (s.startPk h op).staged = s.staged := rfl
@[simp] theorem State.startPk_shadow (s : State) (h : Hdr) (op : Nat) : (s.startPk h op).shadow = s.shadow := rfl
@[simp] theorem State.startPk_events (s : State) (h : Hdr) (op : Nat) : (s.startPk h op).events = s.events := rfl
@[simp] theorem State.startPk_modes (s : State) (h : Hdr) (op : Nat) : (s.startPk h op).modes = s.modes := rfl
@[simp] theorem State.startPk_heldCtrl (s : State) (h : Hdr) (op : Nat) : (s.startPk h op).heldCtrl = s.heldCtrl := rfl
@[simp] theorem State.startPk_sysReported (s : State) (h : Hdr) (op : Nat) : (s.startPk h op).sysReported = s.sysReported := rfl
@[simp] theorem State.startPk_sent (s : State) (h : Hdr) (op : Nat) : (s.startPk h op).sent = s.sent := rfl
@[simp] theorem State.startPk_host (s : State) (h : Hdr) (op : Nat) : (s.startPk h op).host = s.host := rfl
@[simp] theorem State.startPk_hostMarks (s : State) (h : Hdr) (op : Nat) : (s.startPk h op).hostMarks = s.hostMarks := rfl
@[simp] theorem State.startPk_dram (s : State) (h : Hdr) (op : Nat) : (s.startPk h op).dram = s.dram := rfl
@[simp] theorem State.startPk_dramPoison (s : State) (h : Hdr) (op : Nat) : (s.startPk h op).dramPoison = s.dramPoison := rfl
@[simp] theorem State.startPk_dramErr (s : State) (h : Hdr) (op : Nat) : (s.startPk h op).dramErr = s.dramErr := rfl
@[simp] theorem State.startPk_ceRows (s : State) (h : Hdr) (op : Nat) : (s.startPk h op).ceRows = s.ceRows := rfl
@[simp] theorem State.startPk_retired (s : State) (h : Hdr) (op : Nat) : (s.startPk h op).retired = s.retired := rfl
@[simp] theorem State.startPk_remaps (s : State) (h : Hdr) (op : Nat) : (s.startPk h op).remaps = s.remaps := rfl
@[simp] theorem State.startPk_memLog (s : State) (h : Hdr) (op : Nat) : (s.startPk h op).memLog = s.memLog := rfl
@[simp] theorem State.startPk_mem (s : State) (h : Hdr) (op : Nat) : (s.startPk h op).mem = s.mem := rfl
@[simp] theorem State.startPk_tallies (s : State) (h : Hdr) (op : Nat) : (s.startPk h op).tallies = s.tallies := rfl
@[simp] theorem State.startPk_pkEpoch (s : State) (h : Hdr) (op : Nat) : (s.startPk h op).pkEpoch = s.pkEpoch := rfl
@[simp] theorem State.startPk_arbRing (s : State) (h : Hdr) (op : Nat) : (s.startPk h op).arbRing = s.arbRing := rfl
@[simp] theorem State.startPk_arbLeft (s : State) (h : Hdr) (op : Nat) : (s.startPk h op).arbLeft = s.arbLeft := rfl
@[simp] theorem State.startPk_drains (s : State) (h : Hdr) (op : Nat) : (s.startPk h op).drains = s.drains := rfl
@[simp] theorem State.startPk_holdings (s : State) (h : Hdr) (op : Nat) : (s.startPk h op).holdings = s.holdings := rfl
@[simp] theorem State.startPk_ctxs (s : State) (h : Hdr) (op : Nat) : (s.startPk h op).ctxs = s.ctxs := rfl
@[simp] theorem State.startPk_globalLine (s : State) (h : Hdr) (op : Nat) : (s.startPk h op).globalLine = s.globalLine := rfl
@[simp] theorem State.startPk_handles (s : State) (h : Hdr) (op : Nat) : (s.startPk h op).handles = s.handles := rfl
@[simp] theorem State.startPk_baleJobs (s : State) (h : Hdr) (op : Nat) : (s.startPk h op).baleJobs = s.baleJobs := rfl
@[simp] theorem State.startPk_holders (s : State) (h : Hdr) (op : Nat) : (s.startPk h op).holders = s.holders := rfl
@[simp] theorem State.startPk_gangs (s : State) (h : Hdr) (op : Nat) : (s.startPk h op).gangs = s.gangs := rfl
@[simp] theorem State.startPk_nmap (s : State) (h : Hdr) (op : Nat) : (s.startPk h op).nmap = s.nmap := rfl
@[simp] theorem State.startPk_nmapBad (s : State) (h : Hdr) (op : Nat) : (s.startPk h op).nmapBad = s.nmapBad := rfl
@[simp] theorem State.startPk_ncal (s : State) (h : Hdr) (op : Nat) : (s.startPk h op).ncal = s.ncal := rfl
@[simp] theorem State.startPk_ncalBad (s : State) (h : Hdr) (op : Nat) : (s.startPk h op).ncalBad = s.ncalBad := rfl
@[simp] theorem State.startPk_thresh (s : State) (h : Hdr) (op : Nat) : (s.startPk h op).thresh = s.thresh := rfl
@[simp] theorem State.startPk_threshBad (s : State) (h : Hdr) (op : Nat) : (s.startPk h op).threshBad = s.threshBad := rfl
@[simp] theorem State.startPk_levels (s : State) (h : Hdr) (op : Nat) : (s.startPk h op).levels = s.levels := rfl
@[simp] theorem State.startPk_levelsBad (s : State) (h : Hdr) (op : Nat) : (s.startPk h op).levelsBad = s.levelsBad := rfl
@[simp] theorem State.startPk_tableChanges (s : State) (h : Hdr) (op : Nat) : (s.startPk h op).tableChanges = s.tableChanges := rfl
@[simp] theorem State.startPk_dueChanges (s : State) (h : Hdr) (op : Nat) : (s.startPk h op).dueChanges = s.dueChanges := rfl
@[simp] theorem State.startPk_slices (s : State) (h : Hdr) (op : Nat) : (s.startPk h op).slices = s.slices := rfl
@[simp] theorem State.startPk_rotNext (s : State) (h : Hdr) (op : Nat) : (s.startPk h op).rotNext = s.rotNext := rfl
@[simp] theorem State.startPk_rowCache (s : State) (h : Hdr) (op : Nat) : (s.startPk h op).rowCache = s.rowCache := rfl
@[simp] theorem State.startPk_rotAt (s : State) (h : Hdr) (op : Nat) : (s.startPk h op).rotAt = s.rotAt := rfl
@[simp] theorem State.startPk_lanes (s : State) (h : Hdr) (op : Nat) : (s.startPk h op).lanes = s.lanes := rfl
@[simp] theorem State.startPk_trainPks (s : State) (h : Hdr) (op : Nat) : (s.startPk h op).trainPks = s.trainPks := rfl
@[simp] theorem State.startPk_latPks (s : State) (h : Hdr) (op : Nat) : (s.startPk h op).latPks = s.latPks := rfl
@[simp] theorem State.startPk_heads (s : State) (h : Hdr) (op : Nat) : (s.startPk h op).heads = s.heads := rfl
@[simp] theorem State.startPk_encs (s : State) (h : Hdr) (op : Nat) : (s.startPk h op).encs = s.encs := rfl
@[simp] theorem State.startPk_syns (s : State) (h : Hdr) (op : Nat) : (s.startPk h op).syns = s.syns := rfl
@[simp] theorem State.startPk_cmps (s : State) (h : Hdr) (op : Nat) : (s.startPk h op).cmps = s.cmps := rfl
@[simp] theorem State.startPk_latches (s : State) (h : Hdr) (op : Nat) : (s.startPk h op).latches = s.latches := rfl
@[simp] theorem State.startPk_divs (s : State) (h : Hdr) (op : Nat) : (s.startPk h op).divs = s.divs := rfl
@[simp] theorem State.startPk_tbs (s : State) (h : Hdr) (op : Nat) : (s.startPk h op).tbs = s.tbs := rfl
@[simp] theorem State.startPk_ptp (s : State) (h : Hdr) (op : Nat) : (s.startPk h op).ptp = s.ptp := rfl
@[simp] theorem State.startPk_axes (s : State) (h : Hdr) (op : Nat) : (s.startPk h op).axes = s.axes := rfl
@[simp] theorem State.startPk_pulses (s : State) (h : Hdr) (op : Nat) : (s.startPk h op).pulses = s.pulses := rfl
@[simp] theorem State.startPk_ownCrcs (s : State) (h : Hdr) (op : Nat) : (s.startPk h op).ownCrcs = s.ownCrcs := rfl
@[simp] theorem State.startPk_peerCrcs (s : State) (h : Hdr) (op : Nat) : (s.startPk h op).peerCrcs = s.peerCrcs := rfl
@[simp] theorem State.startPk_check (s : State) (h : Hdr) (op : Nat) : (s.startPk h op).check = s.check := rfl
@[simp] theorem State.startPk_compareFrom (s : State) (h : Hdr) (op : Nat) : (s.startPk h op).compareFrom = s.compareFrom := rfl
@[simp] theorem State.startPk_tokens (s : State) (h : Hdr) (op : Nat) : (s.startPk h op).tokens = s.tokens := rfl
@[simp] theorem State.startPk_ticks (s : State) (h : Hdr) (op : Nat) : (s.startPk h op).ticks = s.ticks := rfl
@[simp] theorem State.startPk_yk (s : State) (h : Hdr) (op : Nat) : (s.startPk h op).yk = s.yk := rfl
@[simp] theorem State.startPk_gl (s : State) (h : Hdr) (op : Nat) : (s.startPk h op).gl = s.gl := rfl
@[simp] theorem State.startPk_hlth (s : State) (h : Hdr) (op : Nat) : (s.startPk h op).hlth = s.hlth := rfl
@[simp] theorem State.startPk_sec (s : State) (h : Hdr) (op : Nat) : (s.startPk h op).sec = s.sec := rfl
@[simp] theorem State.startPk_nor (s : State) (h : Hdr) (op : Nat) : (s.startPk h op).nor = s.nor := rfl
@[simp] theorem State.startPk_sysr (s : State) (h : Hdr) (op : Nat) : (s.startPk h op).sysr = s.sysr := rfl
@[simp] theorem State.startPk_heldCmds (s : State) (h : Hdr) (op : Nat) : (s.startPk h op).heldCmds = s.heldCmds := rfl
@[simp] theorem State.startPk_cams (s : State) (h : Hdr) (op : Nat) : (s.startPk h op).cams = s.cams := rfl
@[simp] theorem State.startPk_insp (s : State) (h : Hdr) (op : Nat) : (s.startPk h op).insp = s.insp := rfl
@[simp] theorem State.startPk_cal (s : State) (h : Hdr) (op : Nat) : (s.startPk h op).cal = s.cal := rfl

/-! ## `State.put` -/

@[simp] theorem State.put_pending (s : State) (o : Sent) : (s.put o).pending = s.pending := by unfold State.put; split <;> rfl
@[simp] theorem State.put_now (s : State) (o : Sent) : (s.put o).now = s.now := by unfold State.put; split <;> rfl
@[simp] theorem State.put_fresh (s : State) (o : Sent) : (s.put o).fresh = s.fresh := by unfold State.put; split <;> rfl
@[simp] theorem State.put_regs (s : State) (o : Sent) : (s.put o).regs = s.regs := by unfold State.put; split <;> rfl
@[simp] theorem State.put_locked (s : State) (o : Sent) : (s.put o).locked = s.locked := by unfold State.put; split <;> rfl
@[simp] theorem State.put_captured (s : State) (o : Sent) : (s.put o).captured = s.captured := by unfold State.put; split <;> rfl
@[simp] theorem State.put_staged (s : State) (o : Sent) : (s.put o).staged = s.staged := by unfold State.put; split <;> rfl
@[simp] theorem State.put_shadow (s : State) (o : Sent) : (s.put o).shadow = s.shadow := by unfold State.put; split <;> rfl
@[simp] theorem State.put_events (s : State) (o : Sent) : (s.put o).events = s.events := by unfold State.put; split <;> rfl
@[simp] theorem State.put_modes (s : State) (o : Sent) : (s.put o).modes = s.modes := by unfold State.put; split <;> rfl
@[simp] theorem State.put_heldCtrl (s : State) (o : Sent) : (s.put o).heldCtrl = s.heldCtrl := by unfold State.put; split <;> rfl
@[simp] theorem State.put_sysReported (s : State) (o : Sent) : (s.put o).sysReported = s.sysReported := by unfold State.put; split <;> rfl
@[simp] theorem State.put_host (s : State) (o : Sent) : (s.put o).host = s.host := by unfold State.put; split <;> rfl
@[simp] theorem State.put_hostMarks (s : State) (o : Sent) : (s.put o).hostMarks = s.hostMarks := by unfold State.put; split <;> rfl
@[simp] theorem State.put_dram (s : State) (o : Sent) : (s.put o).dram = s.dram := by unfold State.put; split <;> rfl
@[simp] theorem State.put_dramPoison (s : State) (o : Sent) : (s.put o).dramPoison = s.dramPoison := by unfold State.put; split <;> rfl
@[simp] theorem State.put_dramErr (s : State) (o : Sent) : (s.put o).dramErr = s.dramErr := by unfold State.put; split <;> rfl
@[simp] theorem State.put_ceRows (s : State) (o : Sent) : (s.put o).ceRows = s.ceRows := by unfold State.put; split <;> rfl
@[simp] theorem State.put_retired (s : State) (o : Sent) : (s.put o).retired = s.retired := by unfold State.put; split <;> rfl
@[simp] theorem State.put_remaps (s : State) (o : Sent) : (s.put o).remaps = s.remaps := by unfold State.put; split <;> rfl
@[simp] theorem State.put_memLog (s : State) (o : Sent) : (s.put o).memLog = s.memLog := by unfold State.put; split <;> rfl
@[simp] theorem State.put_mem (s : State) (o : Sent) : (s.put o).mem = s.mem := by unfold State.put; split <;> rfl
@[simp] theorem State.put_tallies (s : State) (o : Sent) : (s.put o).tallies = s.tallies := by unfold State.put; split <;> rfl
@[simp] theorem State.put_rings (s : State) (o : Sent) : (s.put o).rings = s.rings := by unfold State.put; split <;> rfl
@[simp] theorem State.put_pkEpoch (s : State) (o : Sent) : (s.put o).pkEpoch = s.pkEpoch := by unfold State.put; split <;> rfl
@[simp] theorem State.put_arbRing (s : State) (o : Sent) : (s.put o).arbRing = s.arbRing := by unfold State.put; split <;> rfl
@[simp] theorem State.put_arbLeft (s : State) (o : Sent) : (s.put o).arbLeft = s.arbLeft := by unfold State.put; split <;> rfl
@[simp] theorem State.put_drains (s : State) (o : Sent) : (s.put o).drains = s.drains := by unfold State.put; split <;> rfl
@[simp] theorem State.put_holdings (s : State) (o : Sent) : (s.put o).holdings = s.holdings := by unfold State.put; split <;> rfl
@[simp] theorem State.put_ctxs (s : State) (o : Sent) : (s.put o).ctxs = s.ctxs := by unfold State.put; split <;> rfl
@[simp] theorem State.put_globalLine (s : State) (o : Sent) : (s.put o).globalLine = s.globalLine := by unfold State.put; split <;> rfl
@[simp] theorem State.put_handles (s : State) (o : Sent) : (s.put o).handles = s.handles := by unfold State.put; split <;> rfl
@[simp] theorem State.put_baleJobs (s : State) (o : Sent) : (s.put o).baleJobs = s.baleJobs := by unfold State.put; split <;> rfl
@[simp] theorem State.put_holders (s : State) (o : Sent) : (s.put o).holders = s.holders := by unfold State.put; split <;> rfl
@[simp] theorem State.put_gangs (s : State) (o : Sent) : (s.put o).gangs = s.gangs := by unfold State.put; split <;> rfl
@[simp] theorem State.put_nmap (s : State) (o : Sent) : (s.put o).nmap = s.nmap := by unfold State.put; split <;> rfl
@[simp] theorem State.put_nmapBad (s : State) (o : Sent) : (s.put o).nmapBad = s.nmapBad := by unfold State.put; split <;> rfl
@[simp] theorem State.put_ncal (s : State) (o : Sent) : (s.put o).ncal = s.ncal := by unfold State.put; split <;> rfl
@[simp] theorem State.put_ncalBad (s : State) (o : Sent) : (s.put o).ncalBad = s.ncalBad := by unfold State.put; split <;> rfl
@[simp] theorem State.put_thresh (s : State) (o : Sent) : (s.put o).thresh = s.thresh := by unfold State.put; split <;> rfl
@[simp] theorem State.put_threshBad (s : State) (o : Sent) : (s.put o).threshBad = s.threshBad := by unfold State.put; split <;> rfl
@[simp] theorem State.put_levels (s : State) (o : Sent) : (s.put o).levels = s.levels := by unfold State.put; split <;> rfl
@[simp] theorem State.put_levelsBad (s : State) (o : Sent) : (s.put o).levelsBad = s.levelsBad := by unfold State.put; split <;> rfl
@[simp] theorem State.put_tableChanges (s : State) (o : Sent) : (s.put o).tableChanges = s.tableChanges := by unfold State.put; split <;> rfl
@[simp] theorem State.put_dueChanges (s : State) (o : Sent) : (s.put o).dueChanges = s.dueChanges := by unfold State.put; split <;> rfl
@[simp] theorem State.put_slices (s : State) (o : Sent) : (s.put o).slices = s.slices := by unfold State.put; split <;> rfl
@[simp] theorem State.put_rotNext (s : State) (o : Sent) : (s.put o).rotNext = s.rotNext := by unfold State.put; split <;> rfl
@[simp] theorem State.put_rowCache (s : State) (o : Sent) : (s.put o).rowCache = s.rowCache := by unfold State.put; split <;> rfl
@[simp] theorem State.put_rotAt (s : State) (o : Sent) : (s.put o).rotAt = s.rotAt := by unfold State.put; split <;> rfl
@[simp] theorem State.put_lanes (s : State) (o : Sent) : (s.put o).lanes = s.lanes := by unfold State.put; split <;> rfl
@[simp] theorem State.put_trainPks (s : State) (o : Sent) : (s.put o).trainPks = s.trainPks := by unfold State.put; split <;> rfl
@[simp] theorem State.put_latPks (s : State) (o : Sent) : (s.put o).latPks = s.latPks := by unfold State.put; split <;> rfl
@[simp] theorem State.put_heads (s : State) (o : Sent) : (s.put o).heads = s.heads := by unfold State.put; split <;> rfl
@[simp] theorem State.put_encs (s : State) (o : Sent) : (s.put o).encs = s.encs := by unfold State.put; split <;> rfl
@[simp] theorem State.put_syns (s : State) (o : Sent) : (s.put o).syns = s.syns := by unfold State.put; split <;> rfl
@[simp] theorem State.put_cmps (s : State) (o : Sent) : (s.put o).cmps = s.cmps := by unfold State.put; split <;> rfl
@[simp] theorem State.put_latches (s : State) (o : Sent) : (s.put o).latches = s.latches := by unfold State.put; split <;> rfl
@[simp] theorem State.put_divs (s : State) (o : Sent) : (s.put o).divs = s.divs := by unfold State.put; split <;> rfl
@[simp] theorem State.put_tbs (s : State) (o : Sent) : (s.put o).tbs = s.tbs := by unfold State.put; split <;> rfl
@[simp] theorem State.put_ptp (s : State) (o : Sent) : (s.put o).ptp = s.ptp := by unfold State.put; split <;> rfl
@[simp] theorem State.put_axes (s : State) (o : Sent) : (s.put o).axes = s.axes := by unfold State.put; split <;> rfl
@[simp] theorem State.put_pulses (s : State) (o : Sent) : (s.put o).pulses = s.pulses := by unfold State.put; split <;> rfl
@[simp] theorem State.put_ownCrcs (s : State) (o : Sent) : (s.put o).ownCrcs = s.ownCrcs := by unfold State.put; split <;> rfl
@[simp] theorem State.put_peerCrcs (s : State) (o : Sent) : (s.put o).peerCrcs = s.peerCrcs := by unfold State.put; split <;> rfl
@[simp] theorem State.put_check (s : State) (o : Sent) : (s.put o).check = s.check := by unfold State.put; split <;> rfl
@[simp] theorem State.put_compareFrom (s : State) (o : Sent) : (s.put o).compareFrom = s.compareFrom := by unfold State.put; split <;> rfl
@[simp] theorem State.put_tokens (s : State) (o : Sent) : (s.put o).tokens = s.tokens := by unfold State.put; split <;> rfl
@[simp] theorem State.put_ticks (s : State) (o : Sent) : (s.put o).ticks = s.ticks := by unfold State.put; split <;> rfl
@[simp] theorem State.put_yk (s : State) (o : Sent) : (s.put o).yk = s.yk := by unfold State.put; split <;> rfl
@[simp] theorem State.put_gl (s : State) (o : Sent) : (s.put o).gl = s.gl := by unfold State.put; split <;> rfl
@[simp] theorem State.put_hlth (s : State) (o : Sent) : (s.put o).hlth = s.hlth := by unfold State.put; split <;> rfl
@[simp] theorem State.put_sec (s : State) (o : Sent) : (s.put o).sec = s.sec := by unfold State.put; split <;> rfl
@[simp] theorem State.put_nor (s : State) (o : Sent) : (s.put o).nor = s.nor := by unfold State.put; split <;> rfl
@[simp] theorem State.put_sysr (s : State) (o : Sent) : (s.put o).sysr = s.sysr := by unfold State.put; split <;> rfl
@[simp] theorem State.put_heldCmds (s : State) (o : Sent) : (s.put o).heldCmds = s.heldCmds := by unfold State.put; split <;> rfl
@[simp] theorem State.put_cams (s : State) (o : Sent) : (s.put o).cams = s.cams := by unfold State.put; split <;> rfl
@[simp] theorem State.put_insp (s : State) (o : Sent) : (s.put o).insp = s.insp := by unfold State.put; split <;> rfl
@[simp] theorem State.put_cal (s : State) (o : Sent) : (s.put o).cal = s.cal := by unfold State.put; split <;> rfl

/-! ## `State.hostWrite` -/

@[simp] theorem State.hostWrite_pending (s : State) (addr : Nat) (bs : List Byte) : (s.hostWrite addr bs).pending = s.pending := by unfold State.hostWrite; split <;> rfl
@[simp] theorem State.hostWrite_now (s : State) (addr : Nat) (bs : List Byte) : (s.hostWrite addr bs).now = s.now := by unfold State.hostWrite; split <;> rfl
@[simp] theorem State.hostWrite_fresh (s : State) (addr : Nat) (bs : List Byte) : (s.hostWrite addr bs).fresh = s.fresh := by unfold State.hostWrite; split <;> rfl
@[simp] theorem State.hostWrite_regs (s : State) (addr : Nat) (bs : List Byte) : (s.hostWrite addr bs).regs = s.regs := by unfold State.hostWrite; split <;> rfl
@[simp] theorem State.hostWrite_locked (s : State) (addr : Nat) (bs : List Byte) : (s.hostWrite addr bs).locked = s.locked := by unfold State.hostWrite; split <;> rfl
@[simp] theorem State.hostWrite_captured (s : State) (addr : Nat) (bs : List Byte) : (s.hostWrite addr bs).captured = s.captured := by unfold State.hostWrite; split <;> rfl
@[simp] theorem State.hostWrite_staged (s : State) (addr : Nat) (bs : List Byte) : (s.hostWrite addr bs).staged = s.staged := by unfold State.hostWrite; split <;> rfl
@[simp] theorem State.hostWrite_shadow (s : State) (addr : Nat) (bs : List Byte) : (s.hostWrite addr bs).shadow = s.shadow := by unfold State.hostWrite; split <;> rfl
@[simp] theorem State.hostWrite_events (s : State) (addr : Nat) (bs : List Byte) : (s.hostWrite addr bs).events = s.events := by unfold State.hostWrite; split <;> rfl
@[simp] theorem State.hostWrite_modes (s : State) (addr : Nat) (bs : List Byte) : (s.hostWrite addr bs).modes = s.modes := by unfold State.hostWrite; split <;> rfl
@[simp] theorem State.hostWrite_heldCtrl (s : State) (addr : Nat) (bs : List Byte) : (s.hostWrite addr bs).heldCtrl = s.heldCtrl := by unfold State.hostWrite; split <;> rfl
@[simp] theorem State.hostWrite_sysReported (s : State) (addr : Nat) (bs : List Byte) : (s.hostWrite addr bs).sysReported = s.sysReported := by unfold State.hostWrite; split <;> rfl
@[simp] theorem State.hostWrite_sent (s : State) (addr : Nat) (bs : List Byte) : (s.hostWrite addr bs).sent = s.sent := by unfold State.hostWrite; split <;> rfl
@[simp] theorem State.hostWrite_hostMarks (s : State) (addr : Nat) (bs : List Byte) : (s.hostWrite addr bs).hostMarks = s.hostMarks := by unfold State.hostWrite; split <;> rfl
@[simp] theorem State.hostWrite_dram (s : State) (addr : Nat) (bs : List Byte) : (s.hostWrite addr bs).dram = s.dram := by unfold State.hostWrite; split <;> rfl
@[simp] theorem State.hostWrite_dramPoison (s : State) (addr : Nat) (bs : List Byte) : (s.hostWrite addr bs).dramPoison = s.dramPoison := by unfold State.hostWrite; split <;> rfl
@[simp] theorem State.hostWrite_dramErr (s : State) (addr : Nat) (bs : List Byte) : (s.hostWrite addr bs).dramErr = s.dramErr := by unfold State.hostWrite; split <;> rfl
@[simp] theorem State.hostWrite_ceRows (s : State) (addr : Nat) (bs : List Byte) : (s.hostWrite addr bs).ceRows = s.ceRows := by unfold State.hostWrite; split <;> rfl
@[simp] theorem State.hostWrite_retired (s : State) (addr : Nat) (bs : List Byte) : (s.hostWrite addr bs).retired = s.retired := by unfold State.hostWrite; split <;> rfl
@[simp] theorem State.hostWrite_remaps (s : State) (addr : Nat) (bs : List Byte) : (s.hostWrite addr bs).remaps = s.remaps := by unfold State.hostWrite; split <;> rfl
@[simp] theorem State.hostWrite_memLog (s : State) (addr : Nat) (bs : List Byte) : (s.hostWrite addr bs).memLog = s.memLog := by unfold State.hostWrite; split <;> rfl
@[simp] theorem State.hostWrite_mem (s : State) (addr : Nat) (bs : List Byte) : (s.hostWrite addr bs).mem = s.mem := by unfold State.hostWrite; split <;> rfl
@[simp] theorem State.hostWrite_tallies (s : State) (addr : Nat) (bs : List Byte) : (s.hostWrite addr bs).tallies = s.tallies := by unfold State.hostWrite; split <;> rfl
@[simp] theorem State.hostWrite_rings (s : State) (addr : Nat) (bs : List Byte) : (s.hostWrite addr bs).rings = s.rings := by unfold State.hostWrite; split <;> rfl
@[simp] theorem State.hostWrite_pkEpoch (s : State) (addr : Nat) (bs : List Byte) : (s.hostWrite addr bs).pkEpoch = s.pkEpoch := by unfold State.hostWrite; split <;> rfl
@[simp] theorem State.hostWrite_arbRing (s : State) (addr : Nat) (bs : List Byte) : (s.hostWrite addr bs).arbRing = s.arbRing := by unfold State.hostWrite; split <;> rfl
@[simp] theorem State.hostWrite_arbLeft (s : State) (addr : Nat) (bs : List Byte) : (s.hostWrite addr bs).arbLeft = s.arbLeft := by unfold State.hostWrite; split <;> rfl
@[simp] theorem State.hostWrite_drains (s : State) (addr : Nat) (bs : List Byte) : (s.hostWrite addr bs).drains = s.drains := by unfold State.hostWrite; split <;> rfl
@[simp] theorem State.hostWrite_holdings (s : State) (addr : Nat) (bs : List Byte) : (s.hostWrite addr bs).holdings = s.holdings := by unfold State.hostWrite; split <;> rfl
@[simp] theorem State.hostWrite_ctxs (s : State) (addr : Nat) (bs : List Byte) : (s.hostWrite addr bs).ctxs = s.ctxs := by unfold State.hostWrite; split <;> rfl
@[simp] theorem State.hostWrite_globalLine (s : State) (addr : Nat) (bs : List Byte) : (s.hostWrite addr bs).globalLine = s.globalLine := by unfold State.hostWrite; split <;> rfl
@[simp] theorem State.hostWrite_handles (s : State) (addr : Nat) (bs : List Byte) : (s.hostWrite addr bs).handles = s.handles := by unfold State.hostWrite; split <;> rfl
@[simp] theorem State.hostWrite_baleJobs (s : State) (addr : Nat) (bs : List Byte) : (s.hostWrite addr bs).baleJobs = s.baleJobs := by unfold State.hostWrite; split <;> rfl
@[simp] theorem State.hostWrite_holders (s : State) (addr : Nat) (bs : List Byte) : (s.hostWrite addr bs).holders = s.holders := by unfold State.hostWrite; split <;> rfl
@[simp] theorem State.hostWrite_gangs (s : State) (addr : Nat) (bs : List Byte) : (s.hostWrite addr bs).gangs = s.gangs := by unfold State.hostWrite; split <;> rfl
@[simp] theorem State.hostWrite_nmap (s : State) (addr : Nat) (bs : List Byte) : (s.hostWrite addr bs).nmap = s.nmap := by unfold State.hostWrite; split <;> rfl
@[simp] theorem State.hostWrite_nmapBad (s : State) (addr : Nat) (bs : List Byte) : (s.hostWrite addr bs).nmapBad = s.nmapBad := by unfold State.hostWrite; split <;> rfl
@[simp] theorem State.hostWrite_ncal (s : State) (addr : Nat) (bs : List Byte) : (s.hostWrite addr bs).ncal = s.ncal := by unfold State.hostWrite; split <;> rfl
@[simp] theorem State.hostWrite_ncalBad (s : State) (addr : Nat) (bs : List Byte) : (s.hostWrite addr bs).ncalBad = s.ncalBad := by unfold State.hostWrite; split <;> rfl
@[simp] theorem State.hostWrite_thresh (s : State) (addr : Nat) (bs : List Byte) : (s.hostWrite addr bs).thresh = s.thresh := by unfold State.hostWrite; split <;> rfl
@[simp] theorem State.hostWrite_threshBad (s : State) (addr : Nat) (bs : List Byte) : (s.hostWrite addr bs).threshBad = s.threshBad := by unfold State.hostWrite; split <;> rfl
@[simp] theorem State.hostWrite_levels (s : State) (addr : Nat) (bs : List Byte) : (s.hostWrite addr bs).levels = s.levels := by unfold State.hostWrite; split <;> rfl
@[simp] theorem State.hostWrite_levelsBad (s : State) (addr : Nat) (bs : List Byte) : (s.hostWrite addr bs).levelsBad = s.levelsBad := by unfold State.hostWrite; split <;> rfl
@[simp] theorem State.hostWrite_tableChanges (s : State) (addr : Nat) (bs : List Byte) : (s.hostWrite addr bs).tableChanges = s.tableChanges := by unfold State.hostWrite; split <;> rfl
@[simp] theorem State.hostWrite_dueChanges (s : State) (addr : Nat) (bs : List Byte) : (s.hostWrite addr bs).dueChanges = s.dueChanges := by unfold State.hostWrite; split <;> rfl
@[simp] theorem State.hostWrite_slices (s : State) (addr : Nat) (bs : List Byte) : (s.hostWrite addr bs).slices = s.slices := by unfold State.hostWrite; split <;> rfl
@[simp] theorem State.hostWrite_rotNext (s : State) (addr : Nat) (bs : List Byte) : (s.hostWrite addr bs).rotNext = s.rotNext := by unfold State.hostWrite; split <;> rfl
@[simp] theorem State.hostWrite_rowCache (s : State) (addr : Nat) (bs : List Byte) : (s.hostWrite addr bs).rowCache = s.rowCache := by unfold State.hostWrite; split <;> rfl
@[simp] theorem State.hostWrite_rotAt (s : State) (addr : Nat) (bs : List Byte) : (s.hostWrite addr bs).rotAt = s.rotAt := by unfold State.hostWrite; split <;> rfl
@[simp] theorem State.hostWrite_lanes (s : State) (addr : Nat) (bs : List Byte) : (s.hostWrite addr bs).lanes = s.lanes := by unfold State.hostWrite; split <;> rfl
@[simp] theorem State.hostWrite_trainPks (s : State) (addr : Nat) (bs : List Byte) : (s.hostWrite addr bs).trainPks = s.trainPks := by unfold State.hostWrite; split <;> rfl
@[simp] theorem State.hostWrite_latPks (s : State) (addr : Nat) (bs : List Byte) : (s.hostWrite addr bs).latPks = s.latPks := by unfold State.hostWrite; split <;> rfl
@[simp] theorem State.hostWrite_heads (s : State) (addr : Nat) (bs : List Byte) : (s.hostWrite addr bs).heads = s.heads := by unfold State.hostWrite; split <;> rfl
@[simp] theorem State.hostWrite_encs (s : State) (addr : Nat) (bs : List Byte) : (s.hostWrite addr bs).encs = s.encs := by unfold State.hostWrite; split <;> rfl
@[simp] theorem State.hostWrite_syns (s : State) (addr : Nat) (bs : List Byte) : (s.hostWrite addr bs).syns = s.syns := by unfold State.hostWrite; split <;> rfl
@[simp] theorem State.hostWrite_cmps (s : State) (addr : Nat) (bs : List Byte) : (s.hostWrite addr bs).cmps = s.cmps := by unfold State.hostWrite; split <;> rfl
@[simp] theorem State.hostWrite_latches (s : State) (addr : Nat) (bs : List Byte) : (s.hostWrite addr bs).latches = s.latches := by unfold State.hostWrite; split <;> rfl
@[simp] theorem State.hostWrite_divs (s : State) (addr : Nat) (bs : List Byte) : (s.hostWrite addr bs).divs = s.divs := by unfold State.hostWrite; split <;> rfl
@[simp] theorem State.hostWrite_tbs (s : State) (addr : Nat) (bs : List Byte) : (s.hostWrite addr bs).tbs = s.tbs := by unfold State.hostWrite; split <;> rfl
@[simp] theorem State.hostWrite_ptp (s : State) (addr : Nat) (bs : List Byte) : (s.hostWrite addr bs).ptp = s.ptp := by unfold State.hostWrite; split <;> rfl
@[simp] theorem State.hostWrite_axes (s : State) (addr : Nat) (bs : List Byte) : (s.hostWrite addr bs).axes = s.axes := by unfold State.hostWrite; split <;> rfl
@[simp] theorem State.hostWrite_pulses (s : State) (addr : Nat) (bs : List Byte) : (s.hostWrite addr bs).pulses = s.pulses := by unfold State.hostWrite; split <;> rfl
@[simp] theorem State.hostWrite_ownCrcs (s : State) (addr : Nat) (bs : List Byte) : (s.hostWrite addr bs).ownCrcs = s.ownCrcs := by unfold State.hostWrite; split <;> rfl
@[simp] theorem State.hostWrite_peerCrcs (s : State) (addr : Nat) (bs : List Byte) : (s.hostWrite addr bs).peerCrcs = s.peerCrcs := by unfold State.hostWrite; split <;> rfl
@[simp] theorem State.hostWrite_check (s : State) (addr : Nat) (bs : List Byte) : (s.hostWrite addr bs).check = s.check := by unfold State.hostWrite; split <;> rfl
@[simp] theorem State.hostWrite_compareFrom (s : State) (addr : Nat) (bs : List Byte) : (s.hostWrite addr bs).compareFrom = s.compareFrom := by unfold State.hostWrite; split <;> rfl
@[simp] theorem State.hostWrite_tokens (s : State) (addr : Nat) (bs : List Byte) : (s.hostWrite addr bs).tokens = s.tokens := by unfold State.hostWrite; split <;> rfl
@[simp] theorem State.hostWrite_ticks (s : State) (addr : Nat) (bs : List Byte) : (s.hostWrite addr bs).ticks = s.ticks := by unfold State.hostWrite; split <;> rfl
@[simp] theorem State.hostWrite_yk (s : State) (addr : Nat) (bs : List Byte) : (s.hostWrite addr bs).yk = s.yk := by unfold State.hostWrite; split <;> rfl
@[simp] theorem State.hostWrite_gl (s : State) (addr : Nat) (bs : List Byte) : (s.hostWrite addr bs).gl = s.gl := by unfold State.hostWrite; split <;> rfl
@[simp] theorem State.hostWrite_hlth (s : State) (addr : Nat) (bs : List Byte) : (s.hostWrite addr bs).hlth = s.hlth := by unfold State.hostWrite; split <;> rfl
@[simp] theorem State.hostWrite_sec (s : State) (addr : Nat) (bs : List Byte) : (s.hostWrite addr bs).sec = s.sec := by unfold State.hostWrite; split <;> rfl
@[simp] theorem State.hostWrite_nor (s : State) (addr : Nat) (bs : List Byte) : (s.hostWrite addr bs).nor = s.nor := by unfold State.hostWrite; split <;> rfl
@[simp] theorem State.hostWrite_sysr (s : State) (addr : Nat) (bs : List Byte) : (s.hostWrite addr bs).sysr = s.sysr := by unfold State.hostWrite; split <;> rfl
@[simp] theorem State.hostWrite_heldCmds (s : State) (addr : Nat) (bs : List Byte) : (s.hostWrite addr bs).heldCmds = s.heldCmds := by unfold State.hostWrite; split <;> rfl
@[simp] theorem State.hostWrite_cams (s : State) (addr : Nat) (bs : List Byte) : (s.hostWrite addr bs).cams = s.cams := by unfold State.hostWrite; split <;> rfl
@[simp] theorem State.hostWrite_insp (s : State) (addr : Nat) (bs : List Byte) : (s.hostWrite addr bs).insp = s.insp := by unfold State.hostWrite; split <;> rfl
@[simp] theorem State.hostWrite_cal (s : State) (addr : Nat) (bs : List Byte) : (s.hostWrite addr bs).cal = s.cal := by unfold State.hostWrite; split <;> rfl

/-! ## What the readers of other fields see -/

@[simp] theorem State.wr_ring (s : State) (f : FRef) (v : Nat) (k : Nat) : (s.wr f v).ring k = s.ring k := rfl
@[simp] theorem State.wr_ctx (s : State) (f : FRef) (v : Nat) (k : Nat) : (s.wr f v).ctx k = s.ctx k := rfl
@[simp] theorem State.wr_head (s : State) (f : FRef) (v : Nat) (k : Nat) : (s.wr f v).head k = s.head k := rfl
@[simp] theorem State.wr_enc (s : State) (f : FRef) (v : Nat) (k : Nat) : (s.wr f v).enc k = s.enc k := rfl
@[simp] theorem State.wr_syn (s : State) (f : FRef) (v : Nat) (k : Nat) : (s.wr f v).syn k = s.syn k := rfl
@[simp] theorem State.wr_cmp (s : State) (f : FRef) (v : Nat) (k : Nat) : (s.wr f v).cmp k = s.cmp k := rfl
@[simp] theorem State.wr_latch (s : State) (f : FRef) (v : Nat) (k : Nat) : (s.wr f v).latch k = s.latch k := rfl
@[simp] theorem State.wr_slice (s : State) (f : FRef) (v : Nat) (k : Nat) : (s.wr f v).slice k = s.slice k := rfl
@[simp] theorem State.wr_lane (s : State) (f : FRef) (v : Nat) (l' : LaneId) : (s.wr f v).lane l' = s.lane l' := rfl
@[simp] theorem State.wr_cam (s : State) (f : FRef) (v : Nat) (k : Nat) : (s.wr f v).cam k = s.cam k := rfl
@[simp] theorem State.wr_mode (s : State) (f : FRef) (v : Nat) (m' : Node) : (s.wr f v).mode m' = s.mode m' := rfl
@[simp] theorem State.wr_own (s : State) (f : FRef) (v : Nat) (m' : Node) : (s.wr f v).own m' = s.own m' := rfl
@[simp] theorem State.wr_linkDown (s : State) (f : FRef) (v : Nat)  : (s.wr f v).linkDown = s.linkDown := rfl

@[simp] theorem State.setRing_ctx (s : State) (n : Nat) (r : RingRt) (k : Nat) : (s.setRing n r).ctx k = s.ctx k := rfl
@[simp] theorem State.setRing_head (s : State) (n : Nat) (r : RingRt) (k : Nat) : (s.setRing n r).head k = s.head k := rfl
@[simp] theorem State.setRing_enc (s : State) (n : Nat) (r : RingRt) (k : Nat) : (s.setRing n r).enc k = s.enc k := rfl
@[simp] theorem State.setRing_syn (s : State) (n : Nat) (r : RingRt) (k : Nat) : (s.setRing n r).syn k = s.syn k := rfl
@[simp] theorem State.setRing_cmp (s : State) (n : Nat) (r : RingRt) (k : Nat) : (s.setRing n r).cmp k = s.cmp k := rfl
@[simp] theorem State.setRing_latch (s : State) (n : Nat) (r : RingRt) (k : Nat) : (s.setRing n r).latch k = s.latch k := rfl
@[simp] theorem State.setRing_slice (s : State) (n : Nat) (r : RingRt) (k : Nat) : (s.setRing n r).slice k = s.slice k := rfl
@[simp] theorem State.setRing_lane (s : State) (n : Nat) (r : RingRt) (l' : LaneId) : (s.setRing n r).lane l' = s.lane l' := rfl
@[simp] theorem State.setRing_cam (s : State) (n : Nat) (r : RingRt) (k : Nat) : (s.setRing n r).cam k = s.cam k := rfl
@[simp] theorem State.setRing_mode (s : State) (n : Nat) (r : RingRt) (m' : Node) : (s.setRing n r).mode m' = s.mode m' := rfl
@[simp] theorem State.setRing_own (s : State) (n : Nat) (r : RingRt) (m' : Node) : (s.setRing n r).own m' = s.own m' := rfl
@[simp] theorem State.setRing_rd (s : State) (n : Nat) (r : RingRt) (g : FRef) : (s.setRing n r).rd g = s.rd g := rfl
@[simp] theorem State.setRing_flag (s : State) (n : Nat) (r : RingRt) (g : FRef) : (s.setRing n r).flag g = s.flag g := rfl
@[simp] theorem State.setRing_clocked (s : State) (n : Nat) (r : RingRt)  : (s.setRing n r).clocked = s.clocked := rfl
@[simp] theorem State.setRing_linkDown (s : State) (n : Nat) (r : RingRt)  : (s.setRing n r).linkDown = s.linkDown := rfl
@[simp] theorem State.setRing_accepts (s : State) (n : Nat) (r : RingRt) (m' : Node) : (s.setRing n r).accepts m' = s.accepts m' := rfl
@[simp] theorem State.setRing_entries (s : State) (n : Nat) (r : RingRt) (q : Fin 256) : (s.setRing n r).entries q = s.entries q := rfl
@[simp] theorem State.setRing_dev (s : State) (n : Nat) (r : RingRt)  : (s.setRing n r).dev = s.dev := rfl
@[simp] theorem State.setRing_enabled (s : State) (n : Nat) (r : RingRt) (m' : Node) : (s.setRing n r).enabled m' = s.enabled m' := rfl

@[simp] theorem State.setCtx_ring (s : State) (n : Nat) (c : Ctx) (k : Nat) : (s.setCtx n c).ring k = s.ring k := rfl
@[simp] theorem State.setCtx_head (s : State) (n : Nat) (c : Ctx) (k : Nat) : (s.setCtx n c).head k = s.head k := rfl
@[simp] theorem State.setCtx_enc (s : State) (n : Nat) (c : Ctx) (k : Nat) : (s.setCtx n c).enc k = s.enc k := rfl
@[simp] theorem State.setCtx_syn (s : State) (n : Nat) (c : Ctx) (k : Nat) : (s.setCtx n c).syn k = s.syn k := rfl
@[simp] theorem State.setCtx_cmp (s : State) (n : Nat) (c : Ctx) (k : Nat) : (s.setCtx n c).cmp k = s.cmp k := rfl
@[simp] theorem State.setCtx_latch (s : State) (n : Nat) (c : Ctx) (k : Nat) : (s.setCtx n c).latch k = s.latch k := rfl
@[simp] theorem State.setCtx_slice (s : State) (n : Nat) (c : Ctx) (k : Nat) : (s.setCtx n c).slice k = s.slice k := rfl
@[simp] theorem State.setCtx_lane (s : State) (n : Nat) (c : Ctx) (l' : LaneId) : (s.setCtx n c).lane l' = s.lane l' := rfl
@[simp] theorem State.setCtx_cam (s : State) (n : Nat) (c : Ctx) (k : Nat) : (s.setCtx n c).cam k = s.cam k := rfl
@[simp] theorem State.setCtx_mode (s : State) (n : Nat) (c : Ctx) (m' : Node) : (s.setCtx n c).mode m' = s.mode m' := rfl
@[simp] theorem State.setCtx_own (s : State) (n : Nat) (c : Ctx) (m' : Node) : (s.setCtx n c).own m' = s.own m' := rfl
@[simp] theorem State.setCtx_rd (s : State) (n : Nat) (c : Ctx) (g : FRef) : (s.setCtx n c).rd g = s.rd g := rfl
@[simp] theorem State.setCtx_flag (s : State) (n : Nat) (c : Ctx) (g : FRef) : (s.setCtx n c).flag g = s.flag g := rfl
@[simp] theorem State.setCtx_clocked (s : State) (n : Nat) (c : Ctx)  : (s.setCtx n c).clocked = s.clocked := rfl
@[simp] theorem State.setCtx_linkDown (s : State) (n : Nat) (c : Ctx)  : (s.setCtx n c).linkDown = s.linkDown := rfl
@[simp] theorem State.setCtx_accepts (s : State) (n : Nat) (c : Ctx) (m' : Node) : (s.setCtx n c).accepts m' = s.accepts m' := rfl
@[simp] theorem State.setCtx_entries (s : State) (n : Nat) (c : Ctx) (q : Fin 256) : (s.setCtx n c).entries q = s.entries q := rfl
@[simp] theorem State.setCtx_dev (s : State) (n : Nat) (c : Ctx)  : (s.setCtx n c).dev = s.dev := rfl
@[simp] theorem State.setCtx_enabled (s : State) (n : Nat) (c : Ctx) (m' : Node) : (s.setCtx n c).enabled m' = s.enabled m' := rfl

@[simp] theorem State.setHead_ring (s : State) (n : Nat) (h : HlRt) (k : Nat) : (s.setHead n h).ring k = s.ring k := rfl
@[simp] theorem State.setHead_ctx (s : State) (n : Nat) (h : HlRt) (k : Nat) : (s.setHead n h).ctx k = s.ctx k := rfl
@[simp] theorem State.setHead_enc (s : State) (n : Nat) (h : HlRt) (k : Nat) : (s.setHead n h).enc k = s.enc k := rfl
@[simp] theorem State.setHead_syn (s : State) (n : Nat) (h : HlRt) (k : Nat) : (s.setHead n h).syn k = s.syn k := rfl
@[simp] theorem State.setHead_cmp (s : State) (n : Nat) (h : HlRt) (k : Nat) : (s.setHead n h).cmp k = s.cmp k := rfl
@[simp] theorem State.setHead_latch (s : State) (n : Nat) (h : HlRt) (k : Nat) : (s.setHead n h).latch k = s.latch k := rfl
@[simp] theorem State.setHead_slice (s : State) (n : Nat) (h : HlRt) (k : Nat) : (s.setHead n h).slice k = s.slice k := rfl
@[simp] theorem State.setHead_lane (s : State) (n : Nat) (h : HlRt) (l' : LaneId) : (s.setHead n h).lane l' = s.lane l' := rfl
@[simp] theorem State.setHead_cam (s : State) (n : Nat) (h : HlRt) (k : Nat) : (s.setHead n h).cam k = s.cam k := rfl
@[simp] theorem State.setHead_mode (s : State) (n : Nat) (h : HlRt) (m' : Node) : (s.setHead n h).mode m' = s.mode m' := rfl
@[simp] theorem State.setHead_own (s : State) (n : Nat) (h : HlRt) (m' : Node) : (s.setHead n h).own m' = s.own m' := rfl
@[simp] theorem State.setHead_rd (s : State) (n : Nat) (h : HlRt) (g : FRef) : (s.setHead n h).rd g = s.rd g := rfl
@[simp] theorem State.setHead_flag (s : State) (n : Nat) (h : HlRt) (g : FRef) : (s.setHead n h).flag g = s.flag g := rfl
@[simp] theorem State.setHead_clocked (s : State) (n : Nat) (h : HlRt)  : (s.setHead n h).clocked = s.clocked := rfl
@[simp] theorem State.setHead_linkDown (s : State) (n : Nat) (h : HlRt)  : (s.setHead n h).linkDown = s.linkDown := rfl
@[simp] theorem State.setHead_accepts (s : State) (n : Nat) (h : HlRt) (m' : Node) : (s.setHead n h).accepts m' = s.accepts m' := rfl
@[simp] theorem State.setHead_entries (s : State) (n : Nat) (h : HlRt) (q : Fin 256) : (s.setHead n h).entries q = s.entries q := rfl
@[simp] theorem State.setHead_dev (s : State) (n : Nat) (h : HlRt)  : (s.setHead n h).dev = s.dev := rfl
@[simp] theorem State.setHead_enabled (s : State) (n : Nat) (h : HlRt) (m' : Node) : (s.setHead n h).enabled m' = s.enabled m' := rfl

@[simp] theorem State.setEnc_ring (s : State) (n : Nat) (e : EncRt) (k : Nat) : (s.setEnc n e).ring k = s.ring k := rfl
@[simp] theorem State.setEnc_ctx (s : State) (n : Nat) (e : EncRt) (k : Nat) : (s.setEnc n e).ctx k = s.ctx k := rfl
@[simp] theorem State.setEnc_head (s : State) (n : Nat) (e : EncRt) (k : Nat) : (s.setEnc n e).head k = s.head k := rfl
@[simp] theorem State.setEnc_syn (s : State) (n : Nat) (e : EncRt) (k : Nat) : (s.setEnc n e).syn k = s.syn k := rfl
@[simp] theorem State.setEnc_cmp (s : State) (n : Nat) (e : EncRt) (k : Nat) : (s.setEnc n e).cmp k = s.cmp k := rfl
@[simp] theorem State.setEnc_latch (s : State) (n : Nat) (e : EncRt) (k : Nat) : (s.setEnc n e).latch k = s.latch k := rfl
@[simp] theorem State.setEnc_slice (s : State) (n : Nat) (e : EncRt) (k : Nat) : (s.setEnc n e).slice k = s.slice k := rfl
@[simp] theorem State.setEnc_lane (s : State) (n : Nat) (e : EncRt) (l' : LaneId) : (s.setEnc n e).lane l' = s.lane l' := rfl
@[simp] theorem State.setEnc_cam (s : State) (n : Nat) (e : EncRt) (k : Nat) : (s.setEnc n e).cam k = s.cam k := rfl
@[simp] theorem State.setEnc_mode (s : State) (n : Nat) (e : EncRt) (m' : Node) : (s.setEnc n e).mode m' = s.mode m' := rfl
@[simp] theorem State.setEnc_own (s : State) (n : Nat) (e : EncRt) (m' : Node) : (s.setEnc n e).own m' = s.own m' := rfl
@[simp] theorem State.setEnc_rd (s : State) (n : Nat) (e : EncRt) (g : FRef) : (s.setEnc n e).rd g = s.rd g := rfl
@[simp] theorem State.setEnc_flag (s : State) (n : Nat) (e : EncRt) (g : FRef) : (s.setEnc n e).flag g = s.flag g := rfl
@[simp] theorem State.setEnc_clocked (s : State) (n : Nat) (e : EncRt)  : (s.setEnc n e).clocked = s.clocked := rfl
@[simp] theorem State.setEnc_linkDown (s : State) (n : Nat) (e : EncRt)  : (s.setEnc n e).linkDown = s.linkDown := rfl
@[simp] theorem State.setEnc_accepts (s : State) (n : Nat) (e : EncRt) (m' : Node) : (s.setEnc n e).accepts m' = s.accepts m' := rfl
@[simp] theorem State.setEnc_entries (s : State) (n : Nat) (e : EncRt) (q : Fin 256) : (s.setEnc n e).entries q = s.entries q := rfl
@[simp] theorem State.setEnc_dev (s : State) (n : Nat) (e : EncRt)  : (s.setEnc n e).dev = s.dev := rfl
@[simp] theorem State.setEnc_enabled (s : State) (n : Nat) (e : EncRt) (m' : Node) : (s.setEnc n e).enabled m' = s.enabled m' := rfl

@[simp] theorem State.setSyn_ring (s : State) (n : Nat) (x : SynRt) (k : Nat) : (s.setSyn n x).ring k = s.ring k := rfl
@[simp] theorem State.setSyn_ctx (s : State) (n : Nat) (x : SynRt) (k : Nat) : (s.setSyn n x).ctx k = s.ctx k := rfl
@[simp] theorem State.setSyn_head (s : State) (n : Nat) (x : SynRt) (k : Nat) : (s.setSyn n x).head k = s.head k := rfl
@[simp] theorem State.setSyn_enc (s : State) (n : Nat) (x : SynRt) (k : Nat) : (s.setSyn n x).enc k = s.enc k := rfl
@[simp] theorem State.setSyn_cmp (s : State) (n : Nat) (x : SynRt) (k : Nat) : (s.setSyn n x).cmp k = s.cmp k := rfl
@[simp] theorem State.setSyn_latch (s : State) (n : Nat) (x : SynRt) (k : Nat) : (s.setSyn n x).latch k = s.latch k := rfl
@[simp] theorem State.setSyn_slice (s : State) (n : Nat) (x : SynRt) (k : Nat) : (s.setSyn n x).slice k = s.slice k := rfl
@[simp] theorem State.setSyn_lane (s : State) (n : Nat) (x : SynRt) (l' : LaneId) : (s.setSyn n x).lane l' = s.lane l' := rfl
@[simp] theorem State.setSyn_cam (s : State) (n : Nat) (x : SynRt) (k : Nat) : (s.setSyn n x).cam k = s.cam k := rfl
@[simp] theorem State.setSyn_mode (s : State) (n : Nat) (x : SynRt) (m' : Node) : (s.setSyn n x).mode m' = s.mode m' := rfl
@[simp] theorem State.setSyn_own (s : State) (n : Nat) (x : SynRt) (m' : Node) : (s.setSyn n x).own m' = s.own m' := rfl
@[simp] theorem State.setSyn_rd (s : State) (n : Nat) (x : SynRt) (g : FRef) : (s.setSyn n x).rd g = s.rd g := rfl
@[simp] theorem State.setSyn_flag (s : State) (n : Nat) (x : SynRt) (g : FRef) : (s.setSyn n x).flag g = s.flag g := rfl
@[simp] theorem State.setSyn_clocked (s : State) (n : Nat) (x : SynRt)  : (s.setSyn n x).clocked = s.clocked := rfl
@[simp] theorem State.setSyn_linkDown (s : State) (n : Nat) (x : SynRt)  : (s.setSyn n x).linkDown = s.linkDown := rfl
@[simp] theorem State.setSyn_accepts (s : State) (n : Nat) (x : SynRt) (m' : Node) : (s.setSyn n x).accepts m' = s.accepts m' := rfl
@[simp] theorem State.setSyn_entries (s : State) (n : Nat) (x : SynRt) (q : Fin 256) : (s.setSyn n x).entries q = s.entries q := rfl
@[simp] theorem State.setSyn_dev (s : State) (n : Nat) (x : SynRt)  : (s.setSyn n x).dev = s.dev := rfl
@[simp] theorem State.setSyn_enabled (s : State) (n : Nat) (x : SynRt) (m' : Node) : (s.setSyn n x).enabled m' = s.enabled m' := rfl

@[simp] theorem State.setCmp_ring (s : State) (n : Nat) (x : CmpRt) (k : Nat) : (s.setCmp n x).ring k = s.ring k := rfl
@[simp] theorem State.setCmp_ctx (s : State) (n : Nat) (x : CmpRt) (k : Nat) : (s.setCmp n x).ctx k = s.ctx k := rfl
@[simp] theorem State.setCmp_head (s : State) (n : Nat) (x : CmpRt) (k : Nat) : (s.setCmp n x).head k = s.head k := rfl
@[simp] theorem State.setCmp_enc (s : State) (n : Nat) (x : CmpRt) (k : Nat) : (s.setCmp n x).enc k = s.enc k := rfl
@[simp] theorem State.setCmp_syn (s : State) (n : Nat) (x : CmpRt) (k : Nat) : (s.setCmp n x).syn k = s.syn k := rfl
@[simp] theorem State.setCmp_latch (s : State) (n : Nat) (x : CmpRt) (k : Nat) : (s.setCmp n x).latch k = s.latch k := rfl
@[simp] theorem State.setCmp_slice (s : State) (n : Nat) (x : CmpRt) (k : Nat) : (s.setCmp n x).slice k = s.slice k := rfl
@[simp] theorem State.setCmp_lane (s : State) (n : Nat) (x : CmpRt) (l' : LaneId) : (s.setCmp n x).lane l' = s.lane l' := rfl
@[simp] theorem State.setCmp_cam (s : State) (n : Nat) (x : CmpRt) (k : Nat) : (s.setCmp n x).cam k = s.cam k := rfl
@[simp] theorem State.setCmp_mode (s : State) (n : Nat) (x : CmpRt) (m' : Node) : (s.setCmp n x).mode m' = s.mode m' := rfl
@[simp] theorem State.setCmp_own (s : State) (n : Nat) (x : CmpRt) (m' : Node) : (s.setCmp n x).own m' = s.own m' := rfl
@[simp] theorem State.setCmp_rd (s : State) (n : Nat) (x : CmpRt) (g : FRef) : (s.setCmp n x).rd g = s.rd g := rfl
@[simp] theorem State.setCmp_flag (s : State) (n : Nat) (x : CmpRt) (g : FRef) : (s.setCmp n x).flag g = s.flag g := rfl
@[simp] theorem State.setCmp_clocked (s : State) (n : Nat) (x : CmpRt)  : (s.setCmp n x).clocked = s.clocked := rfl
@[simp] theorem State.setCmp_linkDown (s : State) (n : Nat) (x : CmpRt)  : (s.setCmp n x).linkDown = s.linkDown := rfl
@[simp] theorem State.setCmp_accepts (s : State) (n : Nat) (x : CmpRt) (m' : Node) : (s.setCmp n x).accepts m' = s.accepts m' := rfl
@[simp] theorem State.setCmp_entries (s : State) (n : Nat) (x : CmpRt) (q : Fin 256) : (s.setCmp n x).entries q = s.entries q := rfl
@[simp] theorem State.setCmp_dev (s : State) (n : Nat) (x : CmpRt)  : (s.setCmp n x).dev = s.dev := rfl
@[simp] theorem State.setCmp_enabled (s : State) (n : Nat) (x : CmpRt) (m' : Node) : (s.setCmp n x).enabled m' = s.enabled m' := rfl

@[simp] theorem State.setLatch_ring (s : State) (n : Nat) (x : LatchRt) (k : Nat) : (s.setLatch n x).ring k = s.ring k := rfl
@[simp] theorem State.setLatch_ctx (s : State) (n : Nat) (x : LatchRt) (k : Nat) : (s.setLatch n x).ctx k = s.ctx k := rfl
@[simp] theorem State.setLatch_head (s : State) (n : Nat) (x : LatchRt) (k : Nat) : (s.setLatch n x).head k = s.head k := rfl
@[simp] theorem State.setLatch_enc (s : State) (n : Nat) (x : LatchRt) (k : Nat) : (s.setLatch n x).enc k = s.enc k := rfl
@[simp] theorem State.setLatch_syn (s : State) (n : Nat) (x : LatchRt) (k : Nat) : (s.setLatch n x).syn k = s.syn k := rfl
@[simp] theorem State.setLatch_cmp (s : State) (n : Nat) (x : LatchRt) (k : Nat) : (s.setLatch n x).cmp k = s.cmp k := rfl
@[simp] theorem State.setLatch_slice (s : State) (n : Nat) (x : LatchRt) (k : Nat) : (s.setLatch n x).slice k = s.slice k := rfl
@[simp] theorem State.setLatch_lane (s : State) (n : Nat) (x : LatchRt) (l' : LaneId) : (s.setLatch n x).lane l' = s.lane l' := rfl
@[simp] theorem State.setLatch_cam (s : State) (n : Nat) (x : LatchRt) (k : Nat) : (s.setLatch n x).cam k = s.cam k := rfl
@[simp] theorem State.setLatch_mode (s : State) (n : Nat) (x : LatchRt) (m' : Node) : (s.setLatch n x).mode m' = s.mode m' := rfl
@[simp] theorem State.setLatch_own (s : State) (n : Nat) (x : LatchRt) (m' : Node) : (s.setLatch n x).own m' = s.own m' := rfl
@[simp] theorem State.setLatch_rd (s : State) (n : Nat) (x : LatchRt) (g : FRef) : (s.setLatch n x).rd g = s.rd g := rfl
@[simp] theorem State.setLatch_flag (s : State) (n : Nat) (x : LatchRt) (g : FRef) : (s.setLatch n x).flag g = s.flag g := rfl
@[simp] theorem State.setLatch_clocked (s : State) (n : Nat) (x : LatchRt)  : (s.setLatch n x).clocked = s.clocked := rfl
@[simp] theorem State.setLatch_linkDown (s : State) (n : Nat) (x : LatchRt)  : (s.setLatch n x).linkDown = s.linkDown := rfl
@[simp] theorem State.setLatch_accepts (s : State) (n : Nat) (x : LatchRt) (m' : Node) : (s.setLatch n x).accepts m' = s.accepts m' := rfl
@[simp] theorem State.setLatch_entries (s : State) (n : Nat) (x : LatchRt) (q : Fin 256) : (s.setLatch n x).entries q = s.entries q := rfl
@[simp] theorem State.setLatch_dev (s : State) (n : Nat) (x : LatchRt)  : (s.setLatch n x).dev = s.dev := rfl
@[simp] theorem State.setLatch_enabled (s : State) (n : Nat) (x : LatchRt) (m' : Node) : (s.setLatch n x).enabled m' = s.enabled m' := rfl

@[simp] theorem State.setSlice_ring (s : State) (n : Nat) (x : SliceRt) (k : Nat) : (s.setSlice n x).ring k = s.ring k := rfl
@[simp] theorem State.setSlice_ctx (s : State) (n : Nat) (x : SliceRt) (k : Nat) : (s.setSlice n x).ctx k = s.ctx k := rfl
@[simp] theorem State.setSlice_head (s : State) (n : Nat) (x : SliceRt) (k : Nat) : (s.setSlice n x).head k = s.head k := rfl
@[simp] theorem State.setSlice_enc (s : State) (n : Nat) (x : SliceRt) (k : Nat) : (s.setSlice n x).enc k = s.enc k := rfl
@[simp] theorem State.setSlice_syn (s : State) (n : Nat) (x : SliceRt) (k : Nat) : (s.setSlice n x).syn k = s.syn k := rfl
@[simp] theorem State.setSlice_cmp (s : State) (n : Nat) (x : SliceRt) (k : Nat) : (s.setSlice n x).cmp k = s.cmp k := rfl
@[simp] theorem State.setSlice_latch (s : State) (n : Nat) (x : SliceRt) (k : Nat) : (s.setSlice n x).latch k = s.latch k := rfl
@[simp] theorem State.setSlice_lane (s : State) (n : Nat) (x : SliceRt) (l' : LaneId) : (s.setSlice n x).lane l' = s.lane l' := rfl
@[simp] theorem State.setSlice_cam (s : State) (n : Nat) (x : SliceRt) (k : Nat) : (s.setSlice n x).cam k = s.cam k := rfl
@[simp] theorem State.setSlice_mode (s : State) (n : Nat) (x : SliceRt) (m' : Node) : (s.setSlice n x).mode m' = s.mode m' := rfl
@[simp] theorem State.setSlice_own (s : State) (n : Nat) (x : SliceRt) (m' : Node) : (s.setSlice n x).own m' = s.own m' := rfl
@[simp] theorem State.setSlice_rd (s : State) (n : Nat) (x : SliceRt) (g : FRef) : (s.setSlice n x).rd g = s.rd g := rfl
@[simp] theorem State.setSlice_flag (s : State) (n : Nat) (x : SliceRt) (g : FRef) : (s.setSlice n x).flag g = s.flag g := rfl
@[simp] theorem State.setSlice_clocked (s : State) (n : Nat) (x : SliceRt)  : (s.setSlice n x).clocked = s.clocked := rfl
@[simp] theorem State.setSlice_linkDown (s : State) (n : Nat) (x : SliceRt)  : (s.setSlice n x).linkDown = s.linkDown := rfl
@[simp] theorem State.setSlice_accepts (s : State) (n : Nat) (x : SliceRt) (m' : Node) : (s.setSlice n x).accepts m' = s.accepts m' := rfl
@[simp] theorem State.setSlice_entries (s : State) (n : Nat) (x : SliceRt) (q : Fin 256) : (s.setSlice n x).entries q = s.entries q := rfl
@[simp] theorem State.setSlice_dev (s : State) (n : Nat) (x : SliceRt)  : (s.setSlice n x).dev = s.dev := rfl
@[simp] theorem State.setSlice_enabled (s : State) (n : Nat) (x : SliceRt) (m' : Node) : (s.setSlice n x).enabled m' = s.enabled m' := rfl

@[simp] theorem State.setHandle_ring (s : State) (n : Nat) (x : Handle) (k : Nat) : (s.setHandle n x).ring k = s.ring k := rfl
@[simp] theorem State.setHandle_ctx (s : State) (n : Nat) (x : Handle) (k : Nat) : (s.setHandle n x).ctx k = s.ctx k := rfl
@[simp] theorem State.setHandle_head (s : State) (n : Nat) (x : Handle) (k : Nat) : (s.setHandle n x).head k = s.head k := rfl
@[simp] theorem State.setHandle_enc (s : State) (n : Nat) (x : Handle) (k : Nat) : (s.setHandle n x).enc k = s.enc k := rfl
@[simp] theorem State.setHandle_syn (s : State) (n : Nat) (x : Handle) (k : Nat) : (s.setHandle n x).syn k = s.syn k := rfl
@[simp] theorem State.setHandle_cmp (s : State) (n : Nat) (x : Handle) (k : Nat) : (s.setHandle n x).cmp k = s.cmp k := rfl
@[simp] theorem State.setHandle_latch (s : State) (n : Nat) (x : Handle) (k : Nat) : (s.setHandle n x).latch k = s.latch k := rfl
@[simp] theorem State.setHandle_slice (s : State) (n : Nat) (x : Handle) (k : Nat) : (s.setHandle n x).slice k = s.slice k := rfl
@[simp] theorem State.setHandle_lane (s : State) (n : Nat) (x : Handle) (l' : LaneId) : (s.setHandle n x).lane l' = s.lane l' := rfl
@[simp] theorem State.setHandle_cam (s : State) (n : Nat) (x : Handle) (k : Nat) : (s.setHandle n x).cam k = s.cam k := rfl
@[simp] theorem State.setHandle_mode (s : State) (n : Nat) (x : Handle) (m' : Node) : (s.setHandle n x).mode m' = s.mode m' := rfl
@[simp] theorem State.setHandle_own (s : State) (n : Nat) (x : Handle) (m' : Node) : (s.setHandle n x).own m' = s.own m' := rfl
@[simp] theorem State.setHandle_rd (s : State) (n : Nat) (x : Handle) (g : FRef) : (s.setHandle n x).rd g = s.rd g := rfl
@[simp] theorem State.setHandle_flag (s : State) (n : Nat) (x : Handle) (g : FRef) : (s.setHandle n x).flag g = s.flag g := rfl
@[simp] theorem State.setHandle_clocked (s : State) (n : Nat) (x : Handle)  : (s.setHandle n x).clocked = s.clocked := rfl
@[simp] theorem State.setHandle_linkDown (s : State) (n : Nat) (x : Handle)  : (s.setHandle n x).linkDown = s.linkDown := rfl
@[simp] theorem State.setHandle_accepts (s : State) (n : Nat) (x : Handle) (m' : Node) : (s.setHandle n x).accepts m' = s.accepts m' := rfl
@[simp] theorem State.setHandle_entries (s : State) (n : Nat) (x : Handle) (q : Fin 256) : (s.setHandle n x).entries q = s.entries q := rfl
@[simp] theorem State.setHandle_dev (s : State) (n : Nat) (x : Handle)  : (s.setHandle n x).dev = s.dev := rfl
@[simp] theorem State.setHandle_enabled (s : State) (n : Nat) (x : Handle) (m' : Node) : (s.setHandle n x).enabled m' = s.enabled m' := rfl

@[simp] theorem State.setLane_ring (s : State) (l : LaneId) (x : TrainRt) (k : Nat) : (s.setLane l x).ring k = s.ring k := rfl
@[simp] theorem State.setLane_ctx (s : State) (l : LaneId) (x : TrainRt) (k : Nat) : (s.setLane l x).ctx k = s.ctx k := rfl
@[simp] theorem State.setLane_head (s : State) (l : LaneId) (x : TrainRt) (k : Nat) : (s.setLane l x).head k = s.head k := rfl
@[simp] theorem State.setLane_enc (s : State) (l : LaneId) (x : TrainRt) (k : Nat) : (s.setLane l x).enc k = s.enc k := rfl
@[simp] theorem State.setLane_syn (s : State) (l : LaneId) (x : TrainRt) (k : Nat) : (s.setLane l x).syn k = s.syn k := rfl
@[simp] theorem State.setLane_cmp (s : State) (l : LaneId) (x : TrainRt) (k : Nat) : (s.setLane l x).cmp k = s.cmp k := rfl
@[simp] theorem State.setLane_latch (s : State) (l : LaneId) (x : TrainRt) (k : Nat) : (s.setLane l x).latch k = s.latch k := rfl
@[simp] theorem State.setLane_slice (s : State) (l : LaneId) (x : TrainRt) (k : Nat) : (s.setLane l x).slice k = s.slice k := rfl
@[simp] theorem State.setLane_cam (s : State) (l : LaneId) (x : TrainRt) (k : Nat) : (s.setLane l x).cam k = s.cam k := rfl
@[simp] theorem State.setLane_mode (s : State) (l : LaneId) (x : TrainRt) (m' : Node) : (s.setLane l x).mode m' = s.mode m' := rfl
@[simp] theorem State.setLane_own (s : State) (l : LaneId) (x : TrainRt) (m' : Node) : (s.setLane l x).own m' = s.own m' := rfl
@[simp] theorem State.setLane_rd (s : State) (l : LaneId) (x : TrainRt) (g : FRef) : (s.setLane l x).rd g = s.rd g := rfl
@[simp] theorem State.setLane_flag (s : State) (l : LaneId) (x : TrainRt) (g : FRef) : (s.setLane l x).flag g = s.flag g := rfl
@[simp] theorem State.setLane_clocked (s : State) (l : LaneId) (x : TrainRt)  : (s.setLane l x).clocked = s.clocked := rfl
@[simp] theorem State.setLane_linkDown (s : State) (l : LaneId) (x : TrainRt)  : (s.setLane l x).linkDown = s.linkDown := rfl
@[simp] theorem State.setLane_accepts (s : State) (l : LaneId) (x : TrainRt) (m' : Node) : (s.setLane l x).accepts m' = s.accepts m' := rfl
@[simp] theorem State.setLane_entries (s : State) (l : LaneId) (x : TrainRt) (q : Fin 256) : (s.setLane l x).entries q = s.entries q := rfl
@[simp] theorem State.setLane_dev (s : State) (l : LaneId) (x : TrainRt)  : (s.setLane l x).dev = s.dev := rfl
@[simp] theorem State.setLane_enabled (s : State) (l : LaneId) (x : TrainRt) (m' : Node) : (s.setLane l x).enabled m' = s.enabled m' := rfl

@[simp] theorem State.setHolder_ring (s : State) (n : Nat) (x : Option Holder) (k : Nat) : (s.setHolder n x).ring k = s.ring k := rfl
@[simp] theorem State.setHolder_ctx (s : State) (n : Nat) (x : Option Holder) (k : Nat) : (s.setHolder n x).ctx k = s.ctx k := rfl
@[simp] theorem State.setHolder_head (s : State) (n : Nat) (x : Option Holder) (k : Nat) : (s.setHolder n x).head k = s.head k := rfl
@[simp] theorem State.setHolder_enc (s : State) (n : Nat) (x : Option Holder) (k : Nat) : (s.setHolder n x).enc k = s.enc k := rfl
@[simp] theorem State.setHolder_syn (s : State) (n : Nat) (x : Option Holder) (k : Nat) : (s.setHolder n x).syn k = s.syn k := rfl
@[simp] theorem State.setHolder_cmp (s : State) (n : Nat) (x : Option Holder) (k : Nat) : (s.setHolder n x).cmp k = s.cmp k := rfl
@[simp] theorem State.setHolder_latch (s : State) (n : Nat) (x : Option Holder) (k : Nat) : (s.setHolder n x).latch k = s.latch k := rfl
@[simp] theorem State.setHolder_slice (s : State) (n : Nat) (x : Option Holder) (k : Nat) : (s.setHolder n x).slice k = s.slice k := rfl
@[simp] theorem State.setHolder_lane (s : State) (n : Nat) (x : Option Holder) (l' : LaneId) : (s.setHolder n x).lane l' = s.lane l' := rfl
@[simp] theorem State.setHolder_cam (s : State) (n : Nat) (x : Option Holder) (k : Nat) : (s.setHolder n x).cam k = s.cam k := rfl
@[simp] theorem State.setHolder_mode (s : State) (n : Nat) (x : Option Holder) (m' : Node) : (s.setHolder n x).mode m' = s.mode m' := rfl
@[simp] theorem State.setHolder_own (s : State) (n : Nat) (x : Option Holder) (m' : Node) : (s.setHolder n x).own m' = s.own m' := rfl
@[simp] theorem State.setHolder_rd (s : State) (n : Nat) (x : Option Holder) (g : FRef) : (s.setHolder n x).rd g = s.rd g := rfl
@[simp] theorem State.setHolder_flag (s : State) (n : Nat) (x : Option Holder) (g : FRef) : (s.setHolder n x).flag g = s.flag g := rfl
@[simp] theorem State.setHolder_clocked (s : State) (n : Nat) (x : Option Holder)  : (s.setHolder n x).clocked = s.clocked := rfl
@[simp] theorem State.setHolder_linkDown (s : State) (n : Nat) (x : Option Holder)  : (s.setHolder n x).linkDown = s.linkDown := rfl
@[simp] theorem State.setHolder_accepts (s : State) (n : Nat) (x : Option Holder) (m' : Node) : (s.setHolder n x).accepts m' = s.accepts m' := rfl
@[simp] theorem State.setHolder_entries (s : State) (n : Nat) (x : Option Holder) (q : Fin 256) : (s.setHolder n x).entries q = s.entries q := rfl
@[simp] theorem State.setHolder_dev (s : State) (n : Nat) (x : Option Holder)  : (s.setHolder n x).dev = s.dev := rfl
@[simp] theorem State.setHolder_enabled (s : State) (n : Nat) (x : Option Holder) (m' : Node) : (s.setHolder n x).enabled m' = s.enabled m' := rfl

@[simp] theorem State.setCam_ring (s : State) (n : Nat) (x : CamRt) (k : Nat) : (s.setCam n x).ring k = s.ring k := rfl
@[simp] theorem State.setCam_ctx (s : State) (n : Nat) (x : CamRt) (k : Nat) : (s.setCam n x).ctx k = s.ctx k := rfl
@[simp] theorem State.setCam_head (s : State) (n : Nat) (x : CamRt) (k : Nat) : (s.setCam n x).head k = s.head k := rfl
@[simp] theorem State.setCam_enc (s : State) (n : Nat) (x : CamRt) (k : Nat) : (s.setCam n x).enc k = s.enc k := rfl
@[simp] theorem State.setCam_syn (s : State) (n : Nat) (x : CamRt) (k : Nat) : (s.setCam n x).syn k = s.syn k := rfl
@[simp] theorem State.setCam_cmp (s : State) (n : Nat) (x : CamRt) (k : Nat) : (s.setCam n x).cmp k = s.cmp k := rfl
@[simp] theorem State.setCam_latch (s : State) (n : Nat) (x : CamRt) (k : Nat) : (s.setCam n x).latch k = s.latch k := rfl
@[simp] theorem State.setCam_slice (s : State) (n : Nat) (x : CamRt) (k : Nat) : (s.setCam n x).slice k = s.slice k := rfl
@[simp] theorem State.setCam_lane (s : State) (n : Nat) (x : CamRt) (l' : LaneId) : (s.setCam n x).lane l' = s.lane l' := rfl
@[simp] theorem State.setCam_mode (s : State) (n : Nat) (x : CamRt) (m' : Node) : (s.setCam n x).mode m' = s.mode m' := rfl
@[simp] theorem State.setCam_own (s : State) (n : Nat) (x : CamRt) (m' : Node) : (s.setCam n x).own m' = s.own m' := rfl
@[simp] theorem State.setCam_rd (s : State) (n : Nat) (x : CamRt) (g : FRef) : (s.setCam n x).rd g = s.rd g := rfl
@[simp] theorem State.setCam_flag (s : State) (n : Nat) (x : CamRt) (g : FRef) : (s.setCam n x).flag g = s.flag g := rfl
@[simp] theorem State.setCam_clocked (s : State) (n : Nat) (x : CamRt)  : (s.setCam n x).clocked = s.clocked := rfl
@[simp] theorem State.setCam_linkDown (s : State) (n : Nat) (x : CamRt)  : (s.setCam n x).linkDown = s.linkDown := rfl
@[simp] theorem State.setCam_accepts (s : State) (n : Nat) (x : CamRt) (m' : Node) : (s.setCam n x).accepts m' = s.accepts m' := rfl
@[simp] theorem State.setCam_entries (s : State) (n : Nat) (x : CamRt) (q : Fin 256) : (s.setCam n x).entries q = s.entries q := rfl
@[simp] theorem State.setCam_dev (s : State) (n : Nat) (x : CamRt)  : (s.setCam n x).dev = s.dev := rfl
@[simp] theorem State.setCam_enabled (s : State) (n : Nat) (x : CamRt) (m' : Node) : (s.setCam n x).enabled m' = s.enabled m' := rfl

@[simp] theorem State.setHolding_ring (s : State) (n : Node) (x : Holding) (k : Nat) : (s.setHolding n x).ring k = s.ring k := rfl
@[simp] theorem State.setHolding_ctx (s : State) (n : Node) (x : Holding) (k : Nat) : (s.setHolding n x).ctx k = s.ctx k := rfl
@[simp] theorem State.setHolding_head (s : State) (n : Node) (x : Holding) (k : Nat) : (s.setHolding n x).head k = s.head k := rfl
@[simp] theorem State.setHolding_enc (s : State) (n : Node) (x : Holding) (k : Nat) : (s.setHolding n x).enc k = s.enc k := rfl
@[simp] theorem State.setHolding_syn (s : State) (n : Node) (x : Holding) (k : Nat) : (s.setHolding n x).syn k = s.syn k := rfl
@[simp] theorem State.setHolding_cmp (s : State) (n : Node) (x : Holding) (k : Nat) : (s.setHolding n x).cmp k = s.cmp k := rfl
@[simp] theorem State.setHolding_latch (s : State) (n : Node) (x : Holding) (k : Nat) : (s.setHolding n x).latch k = s.latch k := rfl
@[simp] theorem State.setHolding_slice (s : State) (n : Node) (x : Holding) (k : Nat) : (s.setHolding n x).slice k = s.slice k := rfl
@[simp] theorem State.setHolding_lane (s : State) (n : Node) (x : Holding) (l' : LaneId) : (s.setHolding n x).lane l' = s.lane l' := rfl
@[simp] theorem State.setHolding_cam (s : State) (n : Node) (x : Holding) (k : Nat) : (s.setHolding n x).cam k = s.cam k := rfl
@[simp] theorem State.setHolding_mode (s : State) (n : Node) (x : Holding) (m' : Node) : (s.setHolding n x).mode m' = s.mode m' := rfl
@[simp] theorem State.setHolding_own (s : State) (n : Node) (x : Holding) (m' : Node) : (s.setHolding n x).own m' = s.own m' := rfl
@[simp] theorem State.setHolding_rd (s : State) (n : Node) (x : Holding) (g : FRef) : (s.setHolding n x).rd g = s.rd g := rfl
@[simp] theorem State.setHolding_flag (s : State) (n : Node) (x : Holding) (g : FRef) : (s.setHolding n x).flag g = s.flag g := rfl
@[simp] theorem State.setHolding_clocked (s : State) (n : Node) (x : Holding)  : (s.setHolding n x).clocked = s.clocked := rfl
@[simp] theorem State.setHolding_linkDown (s : State) (n : Node) (x : Holding)  : (s.setHolding n x).linkDown = s.linkDown := rfl
@[simp] theorem State.setHolding_accepts (s : State) (n : Node) (x : Holding) (m' : Node) : (s.setHolding n x).accepts m' = s.accepts m' := rfl
@[simp] theorem State.setHolding_entries (s : State) (n : Node) (x : Holding) (q : Fin 256) : (s.setHolding n x).entries q = s.entries q := rfl
@[simp] theorem State.setHolding_dev (s : State) (n : Node) (x : Holding)  : (s.setHolding n x).dev = s.dev := rfl
@[simp] theorem State.setHolding_enabled (s : State) (n : Node) (x : Holding) (m' : Node) : (s.setHolding n x).enabled m' = s.enabled m' := rfl

@[simp] theorem State.setMode_ring (s : State) (n : Node) (m : NodeMode) (k : Nat) : (s.setMode n m).ring k = s.ring k := rfl
@[simp] theorem State.setMode_ctx (s : State) (n : Node) (m : NodeMode) (k : Nat) : (s.setMode n m).ctx k = s.ctx k := rfl
@[simp] theorem State.setMode_head (s : State) (n : Node) (m : NodeMode) (k : Nat) : (s.setMode n m).head k = s.head k := rfl
@[simp] theorem State.setMode_enc (s : State) (n : Node) (m : NodeMode) (k : Nat) : (s.setMode n m).enc k = s.enc k := rfl
@[simp] theorem State.setMode_syn (s : State) (n : Node) (m : NodeMode) (k : Nat) : (s.setMode n m).syn k = s.syn k := rfl
@[simp] theorem State.setMode_cmp (s : State) (n : Node) (m : NodeMode) (k : Nat) : (s.setMode n m).cmp k = s.cmp k := rfl
@[simp] theorem State.setMode_latch (s : State) (n : Node) (m : NodeMode) (k : Nat) : (s.setMode n m).latch k = s.latch k := rfl
@[simp] theorem State.setMode_slice (s : State) (n : Node) (m : NodeMode) (k : Nat) : (s.setMode n m).slice k = s.slice k := rfl
@[simp] theorem State.setMode_lane (s : State) (n : Node) (m : NodeMode) (l' : LaneId) : (s.setMode n m).lane l' = s.lane l' := rfl
@[simp] theorem State.setMode_cam (s : State) (n : Node) (m : NodeMode) (k : Nat) : (s.setMode n m).cam k = s.cam k := rfl
@[simp] theorem State.setMode_own (s : State) (n : Node) (m : NodeMode) (m' : Node) : (s.setMode n m).own m' = s.own m' := rfl
@[simp] theorem State.setMode_rd (s : State) (n : Node) (m : NodeMode) (g : FRef) : (s.setMode n m).rd g = s.rd g := rfl
@[simp] theorem State.setMode_flag (s : State) (n : Node) (m : NodeMode) (g : FRef) : (s.setMode n m).flag g = s.flag g := rfl
@[simp] theorem State.setMode_clocked (s : State) (n : Node) (m : NodeMode)  : (s.setMode n m).clocked = s.clocked := rfl
@[simp] theorem State.setMode_linkDown (s : State) (n : Node) (m : NodeMode)  : (s.setMode n m).linkDown = s.linkDown := rfl
@[simp] theorem State.setMode_entries (s : State) (n : Node) (m : NodeMode) (q : Fin 256) : (s.setMode n m).entries q = s.entries q := rfl
@[simp] theorem State.setMode_dev (s : State) (n : Node) (m : NodeMode)  : (s.setMode n m).dev = s.dev := rfl
@[simp] theorem State.setMode_enabled (s : State) (n : Node) (m : NodeMode) (m' : Node) : (s.setMode n m).enabled m' = s.enabled m' := rfl

@[simp] theorem State.latchEvent_ring (s : State) (n : Node) (b : Nat) (k : Nat) : (s.latchEvent n b).ring k = s.ring k := rfl
@[simp] theorem State.latchEvent_ctx (s : State) (n : Node) (b : Nat) (k : Nat) : (s.latchEvent n b).ctx k = s.ctx k := rfl
@[simp] theorem State.latchEvent_head (s : State) (n : Node) (b : Nat) (k : Nat) : (s.latchEvent n b).head k = s.head k := rfl
@[simp] theorem State.latchEvent_enc (s : State) (n : Node) (b : Nat) (k : Nat) : (s.latchEvent n b).enc k = s.enc k := rfl
@[simp] theorem State.latchEvent_syn (s : State) (n : Node) (b : Nat) (k : Nat) : (s.latchEvent n b).syn k = s.syn k := rfl
@[simp] theorem State.latchEvent_cmp (s : State) (n : Node) (b : Nat) (k : Nat) : (s.latchEvent n b).cmp k = s.cmp k := rfl
@[simp] theorem State.latchEvent_latch (s : State) (n : Node) (b : Nat) (k : Nat) : (s.latchEvent n b).latch k = s.latch k := rfl
@[simp] theorem State.latchEvent_slice (s : State) (n : Node) (b : Nat) (k : Nat) : (s.latchEvent n b).slice k = s.slice k := rfl
@[simp] theorem State.latchEvent_lane (s : State) (n : Node) (b : Nat) (l' : LaneId) : (s.latchEvent n b).lane l' = s.lane l' := rfl
@[simp] theorem State.latchEvent_cam (s : State) (n : Node) (b : Nat) (k : Nat) : (s.latchEvent n b).cam k = s.cam k := rfl
@[simp] theorem State.latchEvent_mode (s : State) (n : Node) (b : Nat) (m' : Node) : (s.latchEvent n b).mode m' = s.mode m' := rfl
@[simp] theorem State.latchEvent_rd (s : State) (n : Node) (b : Nat) (g : FRef) : (s.latchEvent n b).rd g = s.rd g := rfl
@[simp] theorem State.latchEvent_flag (s : State) (n : Node) (b : Nat) (g : FRef) : (s.latchEvent n b).flag g = s.flag g := rfl
@[simp] theorem State.latchEvent_clocked (s : State) (n : Node) (b : Nat)  : (s.latchEvent n b).clocked = s.clocked := rfl
@[simp] theorem State.latchEvent_linkDown (s : State) (n : Node) (b : Nat)  : (s.latchEvent n b).linkDown = s.linkDown := rfl
@[simp] theorem State.latchEvent_accepts (s : State) (n : Node) (b : Nat) (m' : Node) : (s.latchEvent n b).accepts m' = s.accepts m' := rfl
@[simp] theorem State.latchEvent_entries (s : State) (n : Node) (b : Nat) (q : Fin 256) : (s.latchEvent n b).entries q = s.entries q := rfl
@[simp] theorem State.latchEvent_dev (s : State) (n : Node) (b : Nat)  : (s.latchEvent n b).dev = s.dev := rfl
@[simp] theorem State.latchEvent_enabled (s : State) (n : Node) (b : Nat) (m' : Node) : (s.latchEvent n b).enabled m' = s.enabled m' := rfl

@[simp] theorem State.advance_ring (s : State) (t : Nat) (k : Nat) : (s.advance t).ring k = s.ring k := rfl
@[simp] theorem State.advance_ctx (s : State) (t : Nat) (k : Nat) : (s.advance t).ctx k = s.ctx k := rfl
@[simp] theorem State.advance_head (s : State) (t : Nat) (k : Nat) : (s.advance t).head k = s.head k := rfl
@[simp] theorem State.advance_enc (s : State) (t : Nat) (k : Nat) : (s.advance t).enc k = s.enc k := rfl
@[simp] theorem State.advance_syn (s : State) (t : Nat) (k : Nat) : (s.advance t).syn k = s.syn k := rfl
@[simp] theorem State.advance_cmp (s : State) (t : Nat) (k : Nat) : (s.advance t).cmp k = s.cmp k := rfl
@[simp] theorem State.advance_latch (s : State) (t : Nat) (k : Nat) : (s.advance t).latch k = s.latch k := rfl
@[simp] theorem State.advance_slice (s : State) (t : Nat) (k : Nat) : (s.advance t).slice k = s.slice k := rfl
@[simp] theorem State.advance_lane (s : State) (t : Nat) (l' : LaneId) : (s.advance t).lane l' = s.lane l' := rfl
@[simp] theorem State.advance_cam (s : State) (t : Nat) (k : Nat) : (s.advance t).cam k = s.cam k := rfl
@[simp] theorem State.advance_mode (s : State) (t : Nat) (m' : Node) : (s.advance t).mode m' = s.mode m' := rfl
@[simp] theorem State.advance_own (s : State) (t : Nat) (m' : Node) : (s.advance t).own m' = s.own m' := rfl
@[simp] theorem State.advance_rd (s : State) (t : Nat) (g : FRef) : (s.advance t).rd g = s.rd g := rfl
@[simp] theorem State.advance_flag (s : State) (t : Nat) (g : FRef) : (s.advance t).flag g = s.flag g := rfl
@[simp] theorem State.advance_clocked (s : State) (t : Nat)  : (s.advance t).clocked = s.clocked := rfl
@[simp] theorem State.advance_linkDown (s : State) (t : Nat)  : (s.advance t).linkDown = s.linkDown := rfl
@[simp] theorem State.advance_accepts (s : State) (t : Nat) (m' : Node) : (s.advance t).accepts m' = s.accepts m' := rfl
@[simp] theorem State.advance_entries (s : State) (t : Nat) (q : Fin 256) : (s.advance t).entries q = s.entries q := rfl
@[simp] theorem State.advance_dev (s : State) (t : Nat)  : (s.advance t).dev = s.dev := rfl
@[simp] theorem State.advance_enabled (s : State) (t : Nat) (m' : Node) : (s.advance t).enabled m' = s.enabled m' := rfl

@[simp] theorem State.startPk_ctx (s : State) (h : Hdr) (op : Nat) (k : Nat) : (s.startPk h op).ctx k = s.ctx k := rfl
@[simp] theorem State.startPk_head (s : State) (h : Hdr) (op : Nat) (k : Nat) : (s.startPk h op).head k = s.head k := rfl
@[simp] theorem State.startPk_enc (s : State) (h : Hdr) (op : Nat) (k : Nat) : (s.startPk h op).enc k = s.enc k := rfl
@[simp] theorem State.startPk_syn (s : State) (h : Hdr) (op : Nat) (k : Nat) : (s.startPk h op).syn k = s.syn k := rfl
@[simp] theorem State.startPk_cmp (s : State) (h : Hdr) (op : Nat) (k : Nat) : (s.startPk h op).cmp k = s.cmp k := rfl
@[simp] theorem State.startPk_latch (s : State) (h : Hdr) (op : Nat) (k : Nat) : (s.startPk h op).latch k = s.latch k := rfl
@[simp] theorem State.startPk_slice (s : State) (h : Hdr) (op : Nat) (k : Nat) : (s.startPk h op).slice k = s.slice k := rfl
@[simp] theorem State.startPk_lane (s : State) (h : Hdr) (op : Nat) (l' : LaneId) : (s.startPk h op).lane l' = s.lane l' := rfl
@[simp] theorem State.startPk_cam (s : State) (h : Hdr) (op : Nat) (k : Nat) : (s.startPk h op).cam k = s.cam k := rfl
@[simp] theorem State.startPk_mode (s : State) (h : Hdr) (op : Nat) (m' : Node) : (s.startPk h op).mode m' = s.mode m' := rfl
@[simp] theorem State.startPk_own (s : State) (h : Hdr) (op : Nat) (m' : Node) : (s.startPk h op).own m' = s.own m' := rfl
@[simp] theorem State.startPk_rd (s : State) (h : Hdr) (op : Nat) (g : FRef) : (s.startPk h op).rd g = s.rd g := rfl
@[simp] theorem State.startPk_flag (s : State) (h : Hdr) (op : Nat) (g : FRef) : (s.startPk h op).flag g = s.flag g := rfl
@[simp] theorem State.startPk_clocked (s : State) (h : Hdr) (op : Nat)  : (s.startPk h op).clocked = s.clocked := rfl
@[simp] theorem State.startPk_linkDown (s : State) (h : Hdr) (op : Nat)  : (s.startPk h op).linkDown = s.linkDown := rfl
@[simp] theorem State.startPk_accepts (s : State) (h : Hdr) (op : Nat) (m' : Node) : (s.startPk h op).accepts m' = s.accepts m' := rfl
@[simp] theorem State.startPk_entries (s : State) (h : Hdr) (op : Nat) (q : Fin 256) : (s.startPk h op).entries q = s.entries q := rfl
@[simp] theorem State.startPk_dev (s : State) (h : Hdr) (op : Nat)  : (s.startPk h op).dev = s.dev := rfl
@[simp] theorem State.startPk_enabled (s : State) (h : Hdr) (op : Nat) (m' : Node) : (s.startPk h op).enabled m' = s.enabled m' := rfl

end Sys2Proof.Machine
end

