-- ==== Sys2Proof/Laws/Ops.lean ====
section
/-!
SUPPORT. What the shared operations can do, once each: which memory, which rings and which register fields they leave as they are.
-/

namespace Sys2Proof.Machine

/-- Two states have the same host memory, DRAM, rings and packet epoch. -/
def sameStores (s t : State) : Prop := t.host = s.host ∧ t.dram = s.dram ∧ t.rings = s.rings

/-- Putting something out changes the record of what was put out, and nothing else. -/
theorem State.put_frame (s : State) (o : Sent) : sameStores s (s.put o) ∧ (s.put o).regs = s.regs ∧ (s.put o).events = s.events := by
  unfold State.put sameStores
  split <;> simp

/-- An MSI-X vector writes no memory, and of the registers at most its pending bit. -/
theorem State.sendMsix_frame (s : State) (v : Nat) :
    sameStores s (s.sendMsix v) ∧ (s.sendMsix v).events = s.events ∧ ∀ f : FRef, (msixPending v).key ≠ f.key → (s.sendMsix v).rd f = s.rd f := by
  unfold State.sendMsix
  split
  · exact ⟨⟨rfl, rfl, rfl⟩, rfl, fun _ _ => rfl⟩
  · split
    · exact ⟨⟨rfl, rfl, rfl⟩, rfl, fun f h => State.rd_wr_ne _ _ h⟩
    · have h := State.put_frame s (.msix v (s.rd (msixAddrHi v) * 2 ^ 32 + s.rd (msixAddrLo v)) (s.rd (msixData v)))
      refine ⟨h.1, h.2.2, fun f _ => ?_⟩
      exact congrArg (fun q => tget f.reset q f.key) h.2.1

/-- A count changes its counter, its overflow flag and the events of its node, and nothing else (R52). -/
theorem State.countRaw_frame (s : State) (c o : FRef) (n : Node) (k : Nat) :
    sameStores s (s.countRaw c o n k) ∧ ∀ f : FRef, c.key ≠ f.key → o.key ≠ f.key → (s.countRaw c o n k).rd f = s.rd f := by
  unfold State.countRaw
  dsimp only
  split
  · exact ⟨⟨rfl, rfl, rfl⟩, fun f h _ => State.rd_wr_ne _ _ h⟩
  · split
    · exact ⟨⟨rfl, rfl, rfl⟩, fun f h _ => State.rd_wr_ne _ _ h⟩
    · refine ⟨⟨rfl, rfl, rfl⟩, fun f h h2 => ?_⟩
      show ((s.wr c _).wr o 1).rd f = _
      rw [State.rd_wr_ne _ _ h2, State.rd_wr_ne _ _ h]

/-- A completion is 64 bytes (R71). -/
theorem cplBytes_length (c : Cpl) (p sh : Bool) : (cplBytes c p sh).length = 64 := by
  simp [cplBytes, leBytes, List.length_flatMap] <;> decide

end Sys2Proof.Machine
end

