-- ==== Sys2Proof/Laws/Packets.lean ====
section
/-!
SUPPORT. What the shared operations of packets and of host accesses do, once each.
-/

namespace Sys2Proof.Machine

@[simp] theorem State.hdrFail_startPk (s : State) (h h' : Hdr) (op : Nat) (o : OpInfo) : (s.startPk h op).hdrFail o h' = s.hdrFail o h' := rfl

@[simp] theorem State.privileged_startPk (s : State) (h h' : Hdr) (op : Nat) : (s.startPk h op).privileged h' = s.privileged h' := rfl

@[simp] theorem State.badAddr_startPk (s : State) (h : Hdr) (op a n : Nat) : (s.startPk h op).badAddr a n = s.badAddr a n := rfl

@[simp] theorem State.dmaFails_startPk (s : State) (h : Hdr) (op a n : Nat) : (s.startPk h op).dmaFails a n = s.dmaFails a n := rfl

@[simp] theorem State.poisonedAt_startPk (s : State) (h : Hdr) (op a n : Nat) : (s.startPk h op).poisonedAt a n = s.poisonedAt a n := rfl

@[simp] theorem State.bytesAt_startPk (s : State) (h : Hdr) (op a n : Nat) : (s.startPk h op).bytesAt a n = s.bytesAt a n := rfl

@[simp] theorem State.readAt_startPk (s : State) (h : Hdr) (op a n : Nat) : (s.startPk h op).readAt a n = s.readAt a n := rfl

@[simp] theorem State.openBad_startPk (s : State) (h : Hdr) (op : Nat) (c : Ctx) : (s.startPk h op).openBad c = s.openBad c := rfl

@[simp] theorem State.conflict_startPk (s : State) (h : Hdr) (op : Nat) (c : Ctx) : (s.startPk h op).conflict c = s.conflict c := rfl

@[simp] theorem State.openFast_startPk (s : State) (h : Hdr) (op : Nat) (c : Ctx) : (s.startPk h op).openFast c = s.openFast c := rfl

@[simp] theorem State.newState_startPk (s : State) (h : Hdr) (op : Nat) (v : Nat) : (s.startPk h op).newState v = s.newState v := rfl

@[simp] theorem State.noDrain_startPk (s : State) (h : Hdr) (op : Nat) (n : Node) : (s.startPk h op).noDrain n = s.noDrain n := rfl

@[simp] theorem State.handleHeld_startPk (s : State) (h : Hdr) (op : Nat) (k : Nat) : (s.startPk h op).handleHeld k = s.handleHeld k := rfl

@[simp] theorem State.handle_startPk (s : State) (h : Hdr) (op : Nat) (k : Nat) : (s.startPk h op).handle k = s.handle k := rfl

@[simp] theorem State.changePending_startPk (s : State) (h : Hdr) (op : Nat) (c : TableId) : (s.startPk h op).changePending c = s.changePending c := rfl

@[simp] theorem State.foreignLane_startPk (s : State) (h : Hdr) (op : Nat) (c a n : Nat) : (s.startPk h op).foreignLane c a n = s.foreignLane c a n := rfl

@[simp] theorem State.standby_startPk (s : State) (h : Hdr) (op : Nat)  : (s.startPk h op).standby = s.standby := rfl

@[simp] theorem State.paired_startPk (s : State) (h : Hdr) (op : Nat)  : (s.startPk h op).paired = s.paired := rfl

@[simp] theorem State.tableLive_startPk (s : State) (h : Hdr) (op : Nat) (c : TableId) : (s.startPk h op).tableLive c = s.tableLive c := rfl

@[simp] theorem State.laneLive_startPk (s : State) (h : Hdr) (op : Nat) (l : Nat) : (s.startPk h op).laneLive l = s.laneLive l := rfl

/-- What `readAt` answers where the read gives bytes. -/
theorem State.readAt_of_reads {s : State} {a n : Nat} {b : List Byte} (h : s.Reads a n b) : s.readAt a n = .ok b := by
  obtain ⟨h1, h2, h3, h4⟩ := h
  simp [State.readAt, h1, h2, h3, h4]

/-- With the link up and no line of host memory marked, every read of host memory gives its bytes. -/
theorem State.reads_host {s : State} {a : Nat} (n : Nat) (hl : s.linkDown = false) (hm : s.hostMarks = []) (ha : isDram a = false) :
    s.Reads a n (s.bytesAt a n) := by
  have hmark : s.hostMark a n = .good := by
    simp [State.hostMark, hm, tget]
  refine ⟨?_, ?_, ?_, rfl⟩
  · simp [State.badAddr, ha]
  · simp [State.dmaFails, hl, hmark]
  · simp [State.poisonedAt, ha, hmark]

/-- A packet that is taken and that nothing refuses has its effect, after the reads of its descriptors have touched DRAM. -/
theorem State.packetW_runs {s : State} {o : OpInfo} {h : Hdr} {reads : List (Nat × Nat)} {words : State → List Nat}
    {chk : State → List (Bool × Status)} {eff : Pk → State → State} (hm : s.mayStart h = true) (hf : s.hdrFail o h = none)
    (hc : firstFail (chk (s.begun o h)) = none) :
    s.packetW o h reads words chk eff = eff (s.asPk o h) (reads.foldl (fun s r => s.touch 2 r.1 r.2) (s.begun o h)) := by
  simp only [State.begun] at hc
  simp [State.packetW, hm, hf, hc, State.begun, State.asPk]

/-- A packet that is taken and that its unit refuses completes with the first status that applies. -/
theorem State.packetW_refused {s : State} {o : OpInfo} {h : Hdr} {reads : List (Nat × Nat)} {words : State → List Nat}
    {chk : State → List (Bool × Status)} {eff : Pk → State → State} {st : Status} (hm : s.mayStart h = true)
    (hf : s.hdrFail o h = none) (hc : firstFail (chk (s.begun o h)) = some st) :
    s.packetW o h reads words chk eff =
      let t := reads.foldl (fun s r => s.touch 2 r.1 r.2) (s.begun o h)
      t.failPk (s.asPk o h) st reads (words t) := by
  simp only [State.begun] at hc
  simp [State.packetW, hm, hf, hc, State.begun, State.asPk]

/-- The same for a packet of a camera lane of this device (R501). -/
theorem State.camPacket_runs {s : State} {o : OpInfo} {h : Hdr} {k : Nat} {reads : List (Nat × Nat)} {dst room : Nat}
    {chk : State → List (Bool × Status)} {eff : Nat → Pk → State → State} (hm : s.mayStart h = true) (hf : s.hdrFail o h = none)
    (hc : firstFail (chk (s.begun o h)) = none) :
    s.camPacket o h (some k) reads dst room chk eff = eff k (s.asPk o h) (reads.foldl (fun s r => s.touch 2 r.1 r.2) (s.begun o h)) := by
  have h1 : s.startFails o h chk = none := by
    have hc' : firstFail (chk (s.startPk h o.op)) = none := hc
    have hf' : (s.startPk h o.op).hdrFail o h = none := hf
    rw [State.startFails, if_pos hm, hf', hc']; rfl
  simp only [State.camPacket, h1]
  rw [State.packetR, State.packetW_runs hm hf hc]

/-- A packet whose header fails completes with that status, and nothing else happens. -/
theorem State.packetW_badHdr {s : State} {o : OpInfo} {h : Hdr} {reads : List (Nat × Nat)} {words : State → List Nat}
    {chk : State → List (Bool × Status)} {eff : Pk → State → State} {st : Status} (hm : s.mayStart h = true)
    (hf : s.hdrFail o h = some st) :
    s.packetW o h reads words chk eff = (s.begun o h).failPk (s.asPk o h) st [] [] := by
  simp [State.packetW, hm, hf, State.begun, State.asPk]

/-- A packet that may not start leaves the state as it is. -/
theorem State.packetW_waits {s : State} {o : OpInfo} {h : Hdr} {reads : List (Nat × Nat)} {words : State → List Nat}
    {chk : State → List (Bool × Status)} {eff : Pk → State → State} (hm : s.mayStart h = false) :
    s.packetW o h reads words chk eff = s := by
  simp [State.packetW, hm]

/-- No refusal of a list applies when none of its conditions holds. -/
@[simp] theorem firstFail_nil : firstFail [] = none := rfl

@[simp] theorem firstFail_cons_true (st : Status) (r : List (Bool × Status)) : firstFail ((true, st) :: r) = some st := rfl

@[simp] theorem firstFail_cons_false (st : Status) (r : List (Bool × Status)) : firstFail ((false, st) :: r) = firstFail r := rfl

/-- The host's access takes place where the host reaches the register. -/
theorem State.hostAt_reaches {s : State} (hr : s.HostReaches) (unit : Nat) (i : Instr) (f : State → State) : s.hostAt unit i f = f s := by
  obtain ⟨h1, h2, h3⟩ := hr
  simp [State.hostAt, h1, h2, h3]

theorem State.hostAccess_reaches {s : State} (hr : s.HostReaches) (n : Node) (i : Instr) (f : State → State) : s.hostAccess n i f = f s :=
  State.hostAt_reaches hr _ i f

/-- While the link is down, an access of the host is lost (R608). -/
theorem State.hostAt_linkDown {s : State} (h : s.linkDown = true) (unit : Nat) (i : Instr) (f : State → State) : s.hostAt unit i f = s := by
  simp [State.hostAt, h]

/-- A packet of SEC that is taken is refused for the first refusal of its list, or has its effect (R88, R565). -/
theorem State.secPacket_taken {s : State} {o : OpInfo} {h : Hdr} {reads : List (Nat × Nat)} {chk : State → List (Bool × Status)}
    {refuse : Status → State → State} {eff : Pk → State → State} (hm : s.mayStart h = true) (hf : s.hdrFail o h = none) :
    s.secPacket o h reads chk refuse eff =
      match firstFail (chk (s.begun o h)) with
      | some st => (if secRefusal st then refuse st (reads.foldl (fun s r => s.touch 2 r.1 r.2) (s.begun o h))
          else reads.foldl (fun s r => s.touch 2 r.1 r.2) (s.begun o h)).failPk (s.asPk o h) st reads []
      | none => eff (s.asPk o h) (reads.foldl (fun s r => s.touch 2 r.1 r.2) (s.begun o h)) := by
  have hf' : (s.startPk h o.op).hdrFail o h = none := hf
  simp only [State.secPacket, hm, hf', Bool.not_true, Bool.false_eq_true, ↓reduceIte]
  rfl

/-- A PTP message that arrives at a port in use, its link up and its state LISTENING or beyond, counts and acts (R447). -/
theorem State.ptpMessage_runs {s : State} {p t : Nat} (f : State → State) (hl : s.flag (R.ETH_STATE_LINK_UP p) = true)
    (hu : s.usesPort p = true) (hp : 4 ≤ s.pst p) :
    s.ptpMessage p t f = f ((s.advance t).count (R.ETH_RX_PTP_COUNT p) (R.ETH_OVF_RX_OVF p) .time 1) := by
  have e1 : (s.advance t).flag (R.ETH_STATE_LINK_UP p) = true := hl
  have e2 : (s.advance t).usesPort p = true := hu
  have e3 : ¬ (s.advance t).pst p < 4 := Nat.not_lt.mpr hp
  simp [State.ptpMessage, e1, e2, e3]

end Sys2Proof.Machine
end

