-- ==== Sys2Proof/Laws/Wire.lean ====
section
/-!
SUPPORT. What the scrambler and the block coding of Machine/Wire.lean say about each other: a receiver that starts from the sender's state
reads back what was sent.
-/

namespace Sys2Proof.Machine

/-- A bit that is scrambled twice over the same state is itself. -/
theorem scrambleBit_twice (st : List Bool) (b : Bool) : scrambleBit st (scrambleBit st b) = b := by
  unfold scrambleBit
  cases b <;> cases st.getD 38 false <;> cases st.getD 57 false <;> rfl

/-- Descrambling undoes scrambling, and both leave the same state. -/
theorem descramble_scramble (st bs : List Bool) : descramble st (scramble st bs).1 = (bs, (scramble st bs).2) := by
  induction bs generalizing st with
  | nil => rfl
  | cons b bs ih => simp [scramble, descramble, ih, scrambleBit_twice]

/-- Scrambling keeps the number of bits. -/
theorem scramble_length (st bs : List Bool) : (scramble st bs).1.length = bs.length := by
  induction bs generalizing st with
  | nil => rfl
  | cons b bs ih => simp [scramble, ih]

/-- The bits of a number below 2^n are the number again. -/
theorem bitsNat_natBits (n v : Nat) (h : v < 2 ^ n) : bitsNat (natBits n v) = v := by
  induction n generalizing v with
  | zero => simp only [natBits, bitsNat]; omega
  | succ n ih =>
    have hv : v / 2 < 2 ^ n := by omega
    have hb : b2n (decide (v % 2 = 1)) = v % 2 := by
      rcases Nat.mod_two_eq_zero_or_one v with e | e <;> simp [e, b2n]
    simp only [natBits, bitsNat, ih _ hv, hb]
    omega

/-- A receiver in the sender's state reads back the block that was sent (R223, R224). -/
theorem rxBlock_wireBlock (st : List Bool) (data : Bool) (body : Nat) (h : body < 2 ^ 64) :
    rxBlock st (wireBlock st (data, body)).1 = some (data, body) := by
  cases data <;> simp [wireBlock, syncBits, rxBlock, descramble_scramble, bodyBits, bitsNat_natBits 64 body h]

end Sys2Proof.Machine
end

