-- ==== Sys2Proof/Tests/Slice0.lean ====
section
/-!
SUPPORT. The author's own tests: small states, the examples that the spec works out, an ill-formed command for each check of WellFormed.lean,
and, for every clause of a statement that has hypotheses, a state and operands that meet all of them together.
-/

set_option linter.all false
set_option Elab.async false
set_option maxRecDepth 4000
set_option exponentiation.threshold 500

namespace Sys2Proof.Tests

open Sys2Proof Sys2Proof.Machine

/-! ## Small states -/

/-- The machine in RUN with nodes enabled. -/
def wOn (ns : List Node) : State := ns.foldl (fun (s : State) n => s.wr (R.UNIT_CTRL_ENABLE n.base) 1) ((State.reset.wr R.SYS_DEV_DEV_STATE 1).wr (R.RING_CFG_PRIV_OK (Node.ring 0).base) 1)
/-- CMD and one channel of 1 GiB. -/
def wRam : State := ((wOn [.cmd]).wr (R.MEM_CH_STATUS_TRAINED 0) 1).wr (R.MEM_CH_CFG_CAP_GIB 0) 1
def hS : Hdr := { ring := 0, sq := 0, ctx := 0 }
def hJ : Hdr := { ring := 0, sq := 0, ctx := 1 }
/-- Bytes in host memory. -/
def wHost (s : State) (a : Nat) (bs : List Nat) : State := { s with host := tsets 0#8 s.host a (bs.map (BitVec.ofNat 8)) }
/-- An OPEN context 1 of 16 columns with one colorant in a device with COMP, CMD and SCRN enabled. -/
def wCtx : State := (wOn [.cmd, .comp, .scrn]).setCtx 1 { st := .open, cols := 16, mode := 1 }
/-- A layer descriptor of 16 × 16 samples. -/
def wDesc (format : Nat) : List Nat := [0, 0, 0, 0, 0, 0, 0, 0, 16, 0, 0, 0, 16, 0, 0, 0, 16, 0, 0, 0, format, 1, 1, 0, 0, 1, 1, 0, 0, 0, 0, 0, 0, 4]
/-- A page of four lines without layers, its last row to be composed. -/
def wPg : Page := { pk := ⟨hJ, 0x0403, 0⟩, id := 0, number := 0, length := 4, headland := 0, gen := [], list := [], sealed := [], first := some 0, gap := 0, firstGlobal := 0, marks := 0, fired := 0, layers := some [], nextRow := 3, failed := [], failedPoison := [], decoded := [], done := false }
/-- A page with one layer and one bale. -/
def wPg2 : Page := { wPg with layers := some [{ desc := (wDesc 0).map (BitVec.ofNat 8) }], list := [⟨0, 64, 0, 0, 0, 0, 16, 0⟩] }
def wPage : State := wCtx.setCtx 1 { st := .open, cols := 16, mode := 1, cfg := 4 * 256, pages := [wPg] }
def wPage2 : State := wCtx.setCtx 1 { st := .open, cols := 16, mode := 1, cfg := 4 * 256, pages := [wPg2] }
/-- An OPEN context with a silo of rows in DRAM. -/
def wSilo : State := (wOn [.comp]).setCtx 1 { st := .open, cols := 16, mode := 1, depth := 4, pages := [] }
/-- The same with poison in the tag of row 3. -/
def wSiloBad : State := { wSilo with dramPoison := [((wSilo.ctx 1).tagAddr 3 / 8, true)] }
/-- A RUNNING context 1 that owns lane 0, whose line 0 has its owner. -/
def wLine0 : State := (wOn [.cmd, .comp, .scrn, .slices, .slice 0]).setCtx 1 { st := .running, cols := 16, mode := 1, lanes := 0x80000001, groups := 1, depth := 4, horizon := 8 }
def wLine : State := (wLine0.wr (R.SCRN_LANE_ACTIVE_ACTIVE 0) 1).setSlice 0 { lane := some 0 }
def wLinePass : State := ((wLine0.setCtx 1 { st := .running, cols := 16, mode := 9, lanes := 1, groups := 1, horizon := 8 }).wr (R.SCRN_LANE_ACTIVE_ACTIVE 0) 1).setSlice 0 { lane := some 0 }
/-- Slice 0 spare, slice 32 active for lane 5, a period past. -/
def wSlices : State := { (((wOn [.scrn, .slices, .slice 0, .slice 32, .glean]).setSlice 32 { lane := some 5 }).wr R.SCRN_CFG_ROT_EN 1) with globalLine := 2 ^ 40, rotNext := 3, gl := { block := List.replicate 64 255#8 } }
/-- A head lane that is UP. -/
def wUp (n : Nat) : State := (wOn [.hlnk, .head (Fin.ofNat 32 n)]).wr (R.LANE_STATUS_LSTATE (headLane n).b) 5
def wQuad : List Nat := [0, 1, 1, 0, 16, 0, 0, 0, 0xE8, 3, 0, 0, 1]
def wSyn : List Nat := [0, 0, 0, 0, 0, 0, 0, 0, 0, 0, 0, 0, 16]
/-- The calibrated context 1 runs with a page of 512 lines placed. -/
def wSeed : State := ((wOn [.cal]).wr R.CAL_CFG_CTX 1).setCtx 1 { st := .running, mode := 1, pages := [{ wPg with length := 512 }] }
/-- One channel of 1 GiB in use. -/
def wDram : State := ((wOn [.mem]).wr (R.MEM_CH_STATUS_TRAINED 0) 1).wr (R.MEM_CH_CFG_CAP_GIB 0) 1
/-- The register word at an offset of BAR0. -/
def wHit (off : Nat) : Hit := (regAt off).getD ⟨.sys, ⟨"", 0, 0, 0, 0, 1, []⟩, 0, 0⟩
/-- The granary rotation is allowed and due every second. -/
def wRot : State := { (((wOn [.mem]).wr R.GRAN_CFG_ROT_EN 1).wr R.GRAN_CFG_ROT_S 1) with gl := { block := List.replicate 64 255#8 } }
/-- The announced master of `wPtp`. -/
def wAnn : Announce := { source := 0x70001, gm := 7, priority1 := 1, clockClass := 6, accuracy := 0, variance := 0, priority2 := 1, steps := 0 }
/-- Port 0 in use, its link up, in a PORT_STATE, with flags of the PTP block; its parent is `wAnn`. -/
def wPtp (st flags : Nat) (x : PtpPort) : State :=
  (((wOn [.time, .ports, .port 0]).wr (R.ETH_STATE_LINK_UP 0) 1).wr (R.ETH_STATE_PORT_STATE 0) st).setPort 0 x |> fun (q : State) =>
    { q with ptp := { q.ptp with block := [1#8, 0#8, 0#8, BitVec.ofNat 8 flags] ++ List.replicate 20 0#8 ++ [9#8] ++ List.replicate 39 0#8, parent := some wAnn } }
/-- Axis 7 configured: rates from 10, positions ± 1000, home reference on input 0, currents of 1. -/
def wAxBlock : List Byte :=
  leBytes 1 4 ++ leBytes 1 0 ++ leBytes 2 100 ++ leBytes 2 0 ++ leBytes 2 1 ++ leBytes 4 10 ++ leBytes 4 1000 ++ leBytes 4 (2 ^ 32 - 1000) ++
  leBytes 4 1000 ++ leBytes 2 1000 ++ leBytes 2 100 ++ leBytes 2 500 ++ leBytes 2 4 ++ leBytes 2 500 ++ leBytes 2 1 ++ leBytes 2 0x0009 ++ leBytes 2 1 ++
  leBytes 1 3 ++ leBytes 1 64 ++ leBytes 2 0 ++ leBytes 4 10 ++ leBytes 4 100 ++ leBytes 4 0 ++ leBytes 4 5 ++ leBytes 4 0
def wAxis : State := (((wOn [.mot, .axes, .axis 7]).setAx 7 { block := wAxBlock }).wr (R.AX_STATUS_HOMED (axisB 7)) 1)
/-- Axis 7 moves; its next segment ends at 10 µs. -/
def wMoves : State := (wAxis.wr (R.AX_STATUS_MOVING (axisB 7)) 1).wr (R.AX_STATUS_BRIDGES_ON (axisB 7)) 1
/-- A paired device of a role that has met its partner. -/
def wYoke (role : Nat) : State :=
  { (((wOn [.yoke, .cmd]).wr R.YOKE_STATE_ROLE role).wr R.YOKE_STATE_PAIRED 1) with yk := { met := true } }
/-- The standby whose context 1 runs on lane 0. -/
def wStby : State := (wYoke 2).setCtx 1 { st := .running, cols := 16, lanes := 1, groups := 1 }
/-- The standby may take over by itself; the partner has reported its lane 3 lost. -/
def wDue : State := { (((wYoke 2).wr R.YOKE_CFG_AUTO 1).wr R.YOKE_LANES_OWNED 0) with yk := { met := true, peerFaults := [3] } }
/-- The gleaner is on with every test and rotation allowed; INSP is idle. -/
def wGlean : State := { (wOn [.glean, .insp]) with gl := { block := List.replicate 64 255#8 } }
/-- A good gleaner policy. -/
def wPolicy : List Nat := [7, 0, 32, 0, 1, 0, 100, 0, 60, 0, 0, 0, 15]
/-- A good block of thermal thresholds. -/
def wThermal : List Nat := [0, 20, 0x40, 21, 0x80, 22, 0xC0, 23, 32, 0, 64, 0, 5]
/-- Group 0 of the running context 1 is paced by encoder channel 0 at one count each 20/16 ns; its next line lies 1000 counts ahead. -/
def wPace : State :=
  (((((wLine0.wr (R.SYN_STATE_ACTIVE 0) 1).wr (R.ENC_STATUS_TYPE 0) 1).wr (R.ENC_STATUS_UNCERTAIN 0) 0).wr (R.ENC_STATUS_STANDSTILL 0) 0).setEnc 0
    { hist := [⟨0, 0⟩], step := 1, stepDt := 20 }).setSyn 0 { acc := 1000 * 2 ^ 32 }
/-- The line 0 of `wPace` has its fire time. -/
def wDueLine : State := wPace.setSyn 0 { acc := 1000 * 2 ^ 32, due := [(0, 5, 16)] }
/-- Head lane 3 carries traffic, with a plan of group 0 and one line in the loft. -/
def wCarry : State :=
  (((wUp 3).wr (R.HL_STATE_HUB_RX_LOCK 3) 1).wr (R.LANE_STATUS_BLOCK_LOCK (headLane 3).b) 1).setHead 3
    { carrying := true, plans := [⟨0, 1, 0, 5, 100000⟩], pings := [(7, some (1, none))],
      loft := [(0, some ⟨1, 0, 5, [1, 2, 3], true, false, []⟩)] }
/-- Encoder channel 2 configured as a type, its position 1,020, at the block's least values. -/
def wEncBlock : List Byte :=
  leBytes 1 2 ++ leBytes 1 1 ++ leBytes 2 1 ++ leBytes 2 16 ++ leBytes 2 0 ++ leBytes 4 1000 ++ leBytes 4 1 ++ leBytes 8 0 ++ leBytes 8 0 ++ leBytes 8 0 ++
  leBytes 2 0 ++ leBytes 2 32767 ++ leBytes 1 0 ++ leBytes 1 24 ++ leBytes 18 0
def wChan (type : Nat) : State :=
  (((wOn [.fire]).wr (R.ENC_STATUS_TYPE 2) type).wrS (R.ENC_POS_POS 2) 1020).setEnc 2
    { block := wEncBlock, hist := [⟨0, 1020⟩], raw := some 1020, theta := some 1020, forward := true }
/-- `wChan 0` with unit gains. -/
def wSine : State := (wChan 0).wrS (R.ENC_GAIN_GC 2) 16384
/-- Latch 7 on channel 2, for both edges. -/
def wLatch : State := (((wChan 1).wr (R.LATCH_CFG_LATCH_ENABLE 7) 1).wr (R.LATCH_CFG_CHANNEL 7) 2).wr (R.LATCH_CFG_EDGE 7) 3
/-- Compare output 15 waits for a target on the moving channel 0. -/
def wCmp (target : Int) : State := wPace.setCmp 15 { queue := [⟨none, target, 10, false, false⟩] }
/-- Camera lane 7 is UP and holds the open frame 5 of 64 lines of 4 pixels, two lines triggered. -/
def wCamFrame : CamFrame :=
  { no := 5, gen := 0, set := { px := 4, lines := 64, ctx := 1, div := 1, on := true, exposure := 100, cxs := 65536, resendUs := 10 }, stripes := [],
    trigs := [⟨0, 0, 0, 16, 0, ⟨0, 0⟩, some (0, 0)⟩, ⟨1, 0, 0, 32, 0, ⟨0, 0⟩, some (0, 0)⟩] }
def wCam : State :=
  ((wOn [.insp, .cams, .cam 7]).wr (R.CAM_STATE_UP (camB 7)) 1).setCam 7 { frames := [wCamFrame], gencp := [⟨⟨hJ, 0x0803, 0⟩, [1#8], 4, 0, 0⟩], exposures := [160] }
/-- A defect record waits for a compressor since time 0. -/
def wCrop : State := { wOn [.insp] with insp := { (State.reset).insp with crops := [⟨7, List.replicate 32 0#8, [], 0⟩] } }
/-- A packet's entries stand at the head of its ring of 64 entries. -/
def wRing (i : Instr) (h : Hdr) : State :=
  { (wOn [.cmd, .ring h.ring]).wr (R.RING_SQ_HEAD_HEAD (Node.ring h.ring).base) h.sq with
    host := (List.range (1 + h.entries)).foldl (fun t k => tsets 0#8 t (64 * ((h.sq + k) % 64)) ((i.entryBytes.drop (64 * k)).take 64)) [] }
def wDma : Instr := .dmaCopy { ring := 255, sq := 62, ctx := 255, notify := true, fence := true, seq := 1 } (2 ^ 63) 4096 (2 ^ 32 - 1)
def wRevoke : Instr :=
  .keyRevoke { ring := 255, sq := 62, ctx := 0, priv := true, seq := 0xFFFF, entries := 2 } 6 (List.replicate 48 1#8) (List.replicate 48 2#8) (List.replicate 32 3#8)
/-- Where no word of DRAM carries poison or an error and no page is retired, SEC reads no poison. -/
theorem secPoison_clean (s : State) (addr len : Nat) (h1 : s.dramPoison = []) (h2 : s.dramErr = []) (h3 : s.retired = []) :
    s.secPoison addr len = false := by
  have hb : ∀ a n, s.dramBad a n = false := by intro a n; simp [State.dramBad, State.retiredAt, h1, h2, h3, tget]
  simp [State.secPoison, hb]
/-- A channel of 1 GiB; the oldest record's place in DRAM is poisoned. -/
def wLog0 : State := { wDram with memLog := [⟨0, 0, 0, 0, 0, 0, 0, 0, 0⟩] }
def wLog : State := { wLog0 with dramPoison := [(wLog0.logAddr 0 / 8, true)] }
/-- One packet waits in ring 3; its entry arrives poisoned. -/
def wPoisonSq : State := { ((wOn [.cmd, .rings, .ring 3]).wr (R.RING_CFG_LOG2_ENTRIES (Node.ring 3).base) 8).wr (R.RING_SQ_TAIL_TAIL (Node.ring 3).base) 1 with hostMarks := [(0, .poison)] }
/-- The last word of the security area, poisoned. -/
def wSecAddr : Nat := wDram.secBase + 16 * 2 ^ 20 - 8
def wSecBad : State := { wDram with dramPoison := [(wSecAddr / 8, true)] }
/-- The first word of MEM's own area, poisoned. -/
def wFwAddr : Nat := wDram.reservedBase
def wFwBad : State := { wDram with dramPoison := [(wFwAddr / 8, true)] }
/-- The channel is taken for a second. -/
def wDramBusy : State := { wDram with mem := { wDram.mem with taken := [(0, 16000000000)] } }
/-- A read of class 1 waits since reset, for a free channel, and for the taken one. -/
def wWait : MemWait := ⟨0, 1, 0, 80, .dramRead 8 8, [], true, false⟩
def wDramWait : State := { wDram with mem := { wDram.mem with queue := [wWait] } }
def wDramTaken : State := { wDramBusy with mem := { wDramBusy.mem with queue := [wWait] } }

/-! ## Values of the spec's examples and tables -/

/-- A walk from HLNK: its ID and shape words, the offset and the ID of its lane 5 (the example after R29). -/
theorem test_unit_walk :
    (State.reset.headerWords .hlnk).take 3 = [0x00060001, 0x00200010, 0x00040000] ∧ (Node.head 5).base = 0x00554000 ∧
      (State.reset.headerWords (.head 5)).take 1 = [0x00200501] := by
  decide

/-- A write of one byte of UNIT_CTRL of COMP enables nothing and sets ACCESS of SYS (R14). -/
theorem test_narrow_write :
    (match exec (.registerWrite ((Node.comp.base + 0x10) / 4) 1#4 1#32) (wOn []) with | .next t => (t.enabled .comp, bit (t.own .sys) 4) | _ => (true, false)) = (false, true) := by
  decide

/-- The LZ coding of "ABCABCABCABX" (the example after R112). -/
theorem test_lz_example :
    wordsOut (lzWords 12 8 8 [0x66#8, 0x41#8, 0x42#8, 0x43#8, 0x03#8, 0x00#8, 0x20#8, 0x58#8] [] 0).1 =
      [0x41#8, 0x42#8, 0x43#8, 0x41#8, 0x42#8, 0x43#8, 0x41#8, 0x42#8, 0x43#8, 0x41#8, 0x42#8, 0x58#8] := by
  decide

/-- The symbols and the group parameter of the NL bale (the example after R119). -/
theorem test_nl_example :
    nlMapped 1 1 4 [100#8, 103#8, 110#8, 111#8, 101#8, 104#8, 108#8, 115#8] [] 0 = [17, 2, 4, 0, 0, 0, 1, 6] ∧ nlBestK [17, 2, 4, 0, 0, 0, 1, 6] = 1 := by
  decide

/-- Substitution, calibration and the drop level of the nozzle of the example after R202. -/
theorem test_screening_example :
    substitute 1606 none (some 963) 128 = 2088 ∧ calibrate 2088 200 (-40) = 2187 ∧ overlapWeight 255 2187 = 2187 ∧
      dropLevel 2187 2500 3 (fun k => (k * 1365, (k + 1) * 1365)) = 1 := by
  decide

/-- The samples of layer 0 of the example after R166. -/
theorem test_in12_example : [10, 20, 30, 255].map (in12 1) = [160, 321, 481, 4095] := by decide

/-- The nozzle of position 1,000 lies in word 33 (the example after R203). -/
theorem test_swath_words_example : sheaf 2 = 30 ∧ swathWords 32768 2 = 1093 := by decide

/-- CRC-32C of the string "123456789", the value that R106 gives. -/
theorem test_crc32c_check_value : crc32c [0x31#8, 0x32#8, 0x33#8, 0x34#8, 0x35#8, 0x36#8, 0x37#8, 0x38#8, 0x39#8] = 0xE3069283 := by decide

/-- Arithmetic shifts round towards minus infinity (the example of the conventions). -/
theorem test_arithmetic_shift : sar (-300) 8 = -2 := by decide

/-- SHA-384 (FIPS 180-4): two of its constants, and the first bytes of the digest of "abc". -/
theorem test_sha384 : rootFraction 2 23 = 0xcbbb9d5dc1059ed8 ∧ rootFraction 3 2 = 0x428a2f98d728ae22 ∧ shaPrimes.length = 80 ∧
    (sha384 [0x61#8, 0x62#8, 0x63#8]).take 4 = [0xcb#8, 0x00#8, 0x75#8, 0x3f#8] := by
  decide +kernel

/-- The bits of a control block with no scrambled bit before it: header 1, 0 (R223), then bit 0 of the body first, and the 40th bit of the body
combined with the first (R224). -/
theorem test_wire_bits : ((wireBlock (List.replicate 58 false) (false, 1)).1.zipIdx.filter fun x => x.1).map (·.2) = [0, 2, 41, 60] := by
  decide

/-! ## Well-formedness: a good command of each kind, and an ill-formed one for each check, which the check refuses -/

/-- Whether every command of a list is well formed; whether every one is refused. -/
def allWf (l : List Instr) : Bool := l.all Instr.wf
def noneWf (l : List Instr) : Bool := l.all fun i => !i.wf

theorem test_wf_good : allWf [.nop hJ, .dmaCopy hJ (2 ^ 63) (2 ^ 64 - 1) (2 ^ 32 - 1), .registerWrite (2 ^ 26 - 1) 15#4 0#32, .bar2Read (2 ^ 32 - 4) 4,
    .encoderSample 0 (-8192) 8191 0, .record 2 (List.replicate 16 0#8) 0, .ageMonitor (List.replicate 16 0), .axis 0 (-(2 ^ 31)) 0 0 false 0] = true := by
  decide

theorem test_ill_formed_header : noneWf [.nop { hJ with sq := 65536 }, .nop { hJ with ctx := 256 }, .nop { hJ with seq := 65536 }, .nop { hJ with entries := 256 }] = true := by
  decide

theorem test_ill_formed_field : noneWf [.dmaCopy hJ (2 ^ 64) 0 0, .sysState hJ 256, .ctxStop hJ 256, .memRemap hJ 256 0] = true := by decide

theorem test_ill_formed_access : noneWf [.registerWrite (2 ^ 26) 15#4 0#32, .lowWordRead (2 ^ 26) 15#4, .rcFieldRead (2 ^ 26) 0, .unmappedAccess (2 ^ 26) true,
    .bar2Read 0 0, .bar2Read (2 ^ 32 - 4) 5, .bar2Write 0 [], .bar2Write (2 ^ 32) [0#8]] = true := by
  decide

theorem test_ill_formed_boot : noneWf [.reset .sys { prog := [(2 ^ 32, [0#8])] }, .porNRelease { prog := [(2 ^ 32, [0#8])] },
    .perstNRelease { prog := [(2 ^ 32, [0#8])] }, .bootWatchdog { prog := [(2 ^ 32, [0#8])] }] = true := by
  decide

theorem test_ill_formed_signatures : noneWf [.sealLoad { hJ with entries := 2 } 0 0 0 [] (List.replicate 48 0#8), .sealLoad { hJ with entries := 2 } 0 0 0 (List.replicate 48 0#8) [],
    .keyRevoke hJ 0 [] (List.replicate 48 0#8) (List.replicate 32 0#8), .keyRevoke hJ 0 (List.replicate 48 0#8) [] (List.replicate 32 0#8),
    .keyRevoke hJ 0 (List.replicate 48 0#8) (List.replicate 48 0#8) []] = true := by
  decide

theorem test_ill_formed_lines : noneWf [.composeRow 256, .lineFired 256 0, .lineFired 0 (2 ^ 32)] = true := by decide

theorem test_ill_formed_bodies : noneWf [.nak 0 (2 ^ 64) 0, .status 0 (2 ^ 64) 0, .temp 0 (2 ^ 64) 0, .align 0 (2 ^ 64) 0, .train (.head 0) (2 ^ 64)] = true := by
  decide

theorem test_ill_formed_samples : noneWf [.encoderSample 0 (-8193) 0 0, .encoderSample 0 8192 0 0, .encoderSample 0 0 (-8193) 0, .encoderSample 0 0 8192 0,
    .bissRead 0 (2 ^ 64) true true 0 true 0, .bissRead 0 0 true true 64 true 0, .ssiRead 0 (2 ^ 64) 0] = true := by
  decide

theorem test_ill_formed_camera_line : noneWf [.cameraLine 0 [0#8] [] [(1, 1)] 0 0] = true := by decide

theorem test_ill_formed_gencp (data : List Byte) (h : data.length = 65536) : (Instr.gencpReply 0 data).wf = false := by
  simp [Instr.wf, Instr.operandsFit, h]

theorem test_ill_formed_memory : noneWf [.memRequest 256 0 0 (.dramRead 0 1) [] false, .memRequest 0 4 0 (.dramRead 0 1) [] false, .memRequest 0 0 0 (.dramRead 0 0) [] false,
    .memRequest 0 0 0 (.dramRead (2 ^ 36) 1) [] false, .memRequest 0 0 0 (.dramWrite 0 []) [] false, .memRequest 0 0 0 (.dramWrite (2 ^ 36) [0#8]) [] false,
    .scrub (2 ^ 36) 1 [], .injectOneBit 256 0 0#64, .injectOneBit 0 4 0#64, .injectTwoBits 256 0 0#64, .injectTwoBits 0 4 0#64, .injectPoison 256 0 0#64, .injectPoison 0 4 0#64] = true := by
  decide

theorem test_ill_formed_granary : noneWf [.memRequest 0 0 0 (.gran (48 * 2 ^ 20) true true none) [] false] = true := by decide

theorem test_ill_formed_ptp : noneWf [.sync 0 (2 ^ 80) 0 true 0 0 0, .sync 0 0 65536 true 0 0 0, .followUp 0 (2 ^ 80) 0 0 0 0, .followUp 0 0 65536 0 0 0, .delayReq 0 (2 ^ 80) 0 0 0,
    .delayReq 0 0 65536 0 0, .delayResp 0 (2 ^ 80) 0 0 0 0 0, .delayResp 0 0 65536 0 0 0 0, .delayResp 0 0 0 (2 ^ 80) 0 0 0, .pdelayReq 0 (2 ^ 80) 0 0 0 0,
    .pdelayReq 0 0 65536 0 0 0, .pdelayReq 0 0 0 0 1 0, .pdelayResp 0 (2 ^ 80) 0 true 0 0 0, .pdelayResp 0 0 65536 true 0 0 0, .pdelayRespFollowUp 0 (2 ^ 80) 0 0 0 0,
    .pdelayRespFollowUp 0 0 65536 0 0 0] = true := by
  decide

theorem test_ill_formed_announce : noneWf ([{ wAnn with source := 2 ^ 80 }, { wAnn with gm := 2 ^ 64 }, { wAnn with priority1 := 256 }, { wAnn with clockClass := 256 },
    { wAnn with accuracy := 256 }, { wAnn with variance := 65536 }, { wAnn with priority2 := 256 }, { wAnn with steps := 65536 }, { wAnn with timeSource := 256 },
    { wAnn with flags := 65536 }].map fun a => .announce 0 a 0) = true := by
  decide

theorem test_ill_formed_yoke : noneWf [.token 0 (2 ^ 32) 0 0, .token 0 0 (2 ^ 48) 0, .swathCrc 0 (2 ^ 32) false 0#32 0, .heart 1 false true false 65536 0, .check true true 0 (2 ^ 32) 0,
    .mirror 65536 .stops 0, .result 65536 .resync 0, .axis 0 (-(2 ^ 31) - 1) 0 0 false 0, .axis 0 (2 ^ 31) 0 0 false 0, .record 0 [] 0, .record 1 [] 0, .record 2 [] 0] = true := by
  decide

/-- A mirrored state whose map, calibration, threshold or level tables are not in canonical form. -/
theorem test_ill_formed_mirror : noneWf (([{ nmap := [(0, nmReset)] }, { ncal := [(1, 1), (0, 1)] }, { thresh := [(0, 0)] },
    { levels := [(0, levelReset)] }] : List Mirror).map fun m => .mirror 0 (.load m) 0) = true := by
  decide

theorem test_ill_formed_health : noneWf [.sensorScan [] 0, .ageMonitor [], .ageMonitor (List.replicate 16 (2 ^ 32))] = true := by decide


/-! ## Every hypothesis can be met: the witnesses of the statements, in the order of their clauses -/

theorem witness_system_packets_1 :
    ((wOn [.sys]).Takes (.nop (hS)) opNop (hS)) ∧ ((wOn [.sys]).accepts .sys = true) := by
  decide

theorem witness_system_packets_2 :
    ((wOn []).Takes (.unitQuery (hS) (.ring 255 : Node).base) opUnitQuery (hS)) := by
  decide

theorem witness_system_packets_3 :
    ((wOn [.cmd]).Takes (.ctxQuery (hJ)) opCtxQuery (hJ)) ∧ ((wOn [.cmd]).accepts .cmd = true) := by
  decide

theorem witness_context_open_close_1 :
    ((wRam).Takes (.ctxOpen (hJ) (1) (1) (0x8000000000000000) (1) (65536) (9) (1000)) opCtxOpen (hJ)) ∧ ((wRam).accepts .cmd = true) ∧ (((wRam).ctx (hJ).ctx).st = .closed) ∧ (((wRam).ctxAsked (hJ).ctx (1) (1) (0x8000000000000000) (1) (65536) (9) (1000) : Ctx) = (wRam).ctxAsked (hJ).ctx (1) (1) (0x8000000000000000) (1) (65536) (9) (1000)) ∧ ((wRam).openBad ((wRam).ctxAsked (hJ).ctx (1) (1) (0x8000000000000000) (1) (65536) (9) (1000) : Ctx) = false) ∧ ((wRam).conflict ((wRam).ctxAsked (hJ).ctx (1) (1) (0x8000000000000000) (1) (65536) (9) (1000) : Ctx) = none) ∧ ((wRam).openFast ((wRam).ctxAsked (hJ).ctx (1) (1) (0x8000000000000000) (1) (65536) (9) (1000) : Ctx) = false) := by
  exact ⟨by decide, by decide, by decide, rfl, by decide, by decide, by decide⟩

theorem witness_context_open_close_2 :
    ((wRam.setCtx 2 { st := .open, groups := 1 }).Takes (.ctxOpen (hJ) (1) (1) (0x8000000000000000) (1) (65536) (9) (1000)) opCtxOpen (hJ)) ∧ ((wRam.setCtx 2 { st := .open, groups := 1 }).accepts .cmd = true) ∧ (((wRam.setCtx 2 { st := .open, groups := 1 }).ctx (hJ).ctx).st = .closed) ∧ (((wRam.setCtx 2 { st := .open, groups := 1 }).ctxAsked (hJ).ctx (1) (1) (0x8000000000000000) (1) (65536) (9) (1000) : Ctx) = (wRam.setCtx 2 { st := .open, groups := 1 }).ctxAsked (hJ).ctx (1) (1) (0x8000000000000000) (1) (65536) (9) (1000)) ∧ ((wRam.setCtx 2 { st := .open, groups := 1 }).openBad ((wRam.setCtx 2 { st := .open, groups := 1 }).ctxAsked (hJ).ctx (1) (1) (0x8000000000000000) (1) (65536) (9) (1000) : Ctx) = false) ∧ ((wRam.setCtx 2 { st := .open, groups := 1 }).conflict ((wRam.setCtx 2 { st := .open, groups := 1 }).ctxAsked (hJ).ctx (1) (1) (0x8000000000000000) (1) (65536) (9) (1000) : Ctx) = some (2)) := by
  exact ⟨by decide, by decide, by decide, rfl, by decide, by decide⟩

theorem witness_context_open_close_3 :
    ((wRam).Takes (.ctxOpen (hJ) (1) (1) (0x8000000000000000) (1) (65536) (9) (160001)) opCtxOpen (hJ)) ∧ ((wRam).accepts .cmd = true) ∧ (((wRam).ctx (hJ).ctx).st = .closed) ∧ (((wRam).ctxAsked (hJ).ctx (1) (1) (0x8000000000000000) (1) (65536) (9) (160001) : Ctx) = (wRam).ctxAsked (hJ).ctx (1) (1) (0x8000000000000000) (1) (65536) (9) (160001)) ∧ ((wRam).openBad ((wRam).ctxAsked (hJ).ctx (1) (1) (0x8000000000000000) (1) (65536) (9) (160001) : Ctx) = false) ∧ ((wRam).conflict ((wRam).ctxAsked (hJ).ctx (1) (1) (0x8000000000000000) (1) (65536) (9) (160001) : Ctx) = none) ∧ ((wRam).openFast ((wRam).ctxAsked (hJ).ctx (1) (1) (0x8000000000000000) (1) (65536) (9) (160001) : Ctx) = true) := by
  exact ⟨by decide, by decide, by decide, rfl, by decide, by decide, by decide⟩

theorem witness_context_open_close_4 :
    (((wOn [.cmd]).setCtx 1 { st := .open }).Takes (.ctxClose (hJ)) opCtxClose (hJ)) ∧ (((wOn [.cmd]).setCtx 1 { st := .open }).accepts .cmd = true) ∧ ((((wOn [.cmd]).setCtx 1 { st := .open }).ctx (hJ).ctx).st = .open ∨ (((wOn [.cmd]).setCtx 1 { st := .open }).ctx (hJ).ctx).st = .faulted) := by
  decide

theorem witness_context_open_close_5 :
    (((wOn [.cmd]).setCtx 1 { st := .faulted }).Takes (.ctxClose (hJ)) opCtxClose (hJ)) ∧ (((wOn [.cmd]).setCtx 1 { st := .faulted }).accepts .cmd = true) ∧ ((((wOn [.cmd]).setCtx 1 { st := .faulted }).ctx (hJ).ctx).st = .open ∨ (((wOn [.cmd]).setCtx 1 { st := .faulted }).ctx (hJ).ctx).st = .faulted) := by
  decide

theorem witness_context_open_close_6 :
    (((wOn [.cmd]).setCtx 1 { st := .running }).Takes (.ctxStop (hJ) (1)) opCtxStop (hJ)) ∧ (((wOn [.cmd]).setCtx 1 { st := .running }).accepts .cmd = true) ∧ ((1) ≤ 1) ∧ ((((wOn [.cmd]).setCtx 1 { st := .running }).ctx (hJ).ctx).st = .running) := by
  decide

theorem witness_context_start_1 :
    (((wOn [.cmd]).setCtx 1 { st := .open, cfg := 2 }).Takes (.ctxStart (hJ) (0) (0)) opCtxStart (hJ)) ∧ (((wOn [.cmd]).setCtx 1 { st := .open, cfg := 2 }).accepts .cmd = true) ∧ (((wOn [.cmd]).setCtx 1 { st := .open, cfg := 2 }).dev ≠ devTest) ∧ (((wOn [.cmd]).setCtx 1 { st := .open, cfg := 2 }).mode .hlth ≠ .faulted) ∧ ((((wOn [.cmd]).setCtx 1 { st := .open, cfg := 2 }).ctx (hJ).ctx).st = .open) ∧ (((wOn [.cmd]).setCtx 1 { st := .open, cfg := 2 }).startEntry (((wOn [.cmd]).setCtx 1 { st := .open, cfg := 2 }).ctx (hJ).ctx) = none) ∧ (((wOn [.cmd]).setCtx 1 { st := .open, cfg := 2 }).startBad (((wOn [.cmd]).setCtx 1 { st := .open, cfg := 2 }).ctx (hJ).ctx) (toS 64 (0)) (0) = false) := by
  decide

theorem witness_device_states_1 :
    ((wOn []).Takes (.sysState ({ hS with priv := true }) (2)) opSysState ({ hS with priv := true })) ∧ ((wOn []).newState (2) = some (devTest)) ∧ ((2) ≤ 2) ∧ ((devTest) ≠ devSleep) := by
  decide

theorem witness_device_states_2 :
    ((wOn []).Takes (.sysState ({ hS with priv := true }) (1)) opSysState ({ hS with priv := true })) ∧ ((wOn []).newState (1) = some devSleep) ∧ ((1) ≤ 2) := by
  decide

theorem witness_device_states_3 :
    ((wOn [.cmd]).Takes (.unitAbort (hS) (.slice 32 : Node).base) opUnitAbort (hS)) ∧ ((wOn [.cmd]).accepts .cmd = true) ∧ ((wOn [.cmd]).mode (.slice 32 : Node) ≠ .faulted) ∧ ((.slice 32 : Node) ≠ .sys ∧ (.slice 32 : Node) ≠ .hlth ∧ (.slice 32 : Node) ≠ .mem) := by
  decide

theorem witness_device_states_4 :
    (((wOn [.cmd, .mem]).setMode .mem .faulted).Takes (.reclaim ({ hS with priv := true }) (.mem : Node).base) opReclaim ({ hS with priv := true })) ∧ (((wOn [.cmd, .mem]).setMode .mem .faulted).accepts .cmd = true) ∧ (((wOn [.cmd, .mem]).setMode .mem .faulted).mode (.mem : Node) = .faulted) := by
  decide

theorem witness_device_states_5 :
    ∃ (b : State) (t : State), ((wOn [.cmd, .cal]).Takes (.unitQuiesce (hS) (.cal : Node).base (1)) opUnitQuiesce (hS)) ∧ ((wOn [.cmd, .cal]).accepts .cmd = true) ∧ ((wOn [.cmd, .cal]).mode (.cal : Node) ≠ .faulted) ∧ ((wOn [.cmd, .cal]).noDrain (.cal : Node) = false) ∧ (b = { (wOn [.cmd, .cal]).begun opUnitQuiesce (hS) with drains := (wOn [.cmd, .cal]).drains ++ [⟨(.cal : Node), (wOn [.cmd, .cal]).asPk opUnitQuiesce (hS), (wOn [.cmd, .cal]).now, ((wOn [.cmd, .cal]).begun opUnitQuiesce (hS)).work (.cal : Node)⟩] }) ∧ (t = if bit (1) 0 then (.cal : Node).subtree.foldl (State.writeQuiesce · true) b else (.cal : Node).subtree.foldl (State.writeEnable · false) b) := by
  exact ⟨_, _, by decide, by decide, by decide, by decide, rfl, rfl⟩

theorem witness_layer_packets_1 :
    ((wHost wCtx 0 (wDesc 0)).Takes (.layerSet (hJ) (0) (7) (1)) opLayerSet (hJ)) ∧ (¬((1) = 0 ∧ ((wHost wCtx 0 (wDesc 0)).ctx (hJ).ctx).ninthGeneration = true)) ∧ ((7) ≤ 7) ∧ ((1) ≤ 1) ∧ (((wHost wCtx 0 (wDesc 0)).ctx (hJ).ctx).openOrRunning = true) ∧ ((wHost wCtx 0 (wDesc 0)).accepts .comp = true) ∧ (((7) = 7 → ((wHost wCtx 0 (wDesc 0)).ctx (hJ).ctx).sealedL = none)) ∧ ((wHost wCtx 0 (wDesc 0)).Reads (0) 64 ((wHost wCtx 0 (wDesc 0)).bytesAt 0 64 : List Byte)) ∧ (layerBad { desc := ((wHost wCtx 0 (wDesc 0)).bytesAt 0 64 : List Byte) } ((wHost wCtx 0 (wDesc 0)).ctx (hJ).ctx).cols ((wHost wCtx 0 (wDesc 0)).ctx (hJ).ctx).colorants = false) ∧ (((wHost wCtx 0 (wDesc 0)).ctx (hJ).ctx).pass = false) ∧ (({ desc := ((wHost wCtx 0 (wDesc 0)).bytesAt 0 64 : List Byte) } : Layer).format ≠ 2) ∧ ((((wHost wCtx 0 (wDesc 0)).begun opLayerSet (hJ)).touch 2 (0) 64) = ((wHost wCtx 0 (wDesc 0)).begun opLayerSet (hJ)).touch 2 (0) 64) := by
  exact ⟨by decide, by decide, by decide, by decide, by decide, by decide, by decide, by decide, by decide, by decide, by decide, rfl⟩

theorem witness_layer_packets_2 :
    ((wHost wCtx 0 (wDesc 2)).Takes (.layerSet (hJ) (0) (0) (0)) opLayerSet (hJ)) ∧ (¬((0) = 0 ∧ ((wHost wCtx 0 (wDesc 2)).ctx (hJ).ctx).ninthGeneration = true)) ∧ ((0) ≤ 7) ∧ ((0) ≤ 1) ∧ (((wHost wCtx 0 (wDesc 2)).ctx (hJ).ctx).openOrRunning = true) ∧ ((wHost wCtx 0 (wDesc 2)).accepts .comp = true) ∧ (((0) = 7 → ((wHost wCtx 0 (wDesc 2)).ctx (hJ).ctx).sealedL = none)) ∧ ((wHost wCtx 0 (wDesc 2)).Reads (0) 64 ((wHost wCtx 0 (wDesc 2)).bytesAt 0 64 : List Byte)) ∧ (layerBad { desc := ((wHost wCtx 0 (wDesc 2)).bytesAt 0 64 : List Byte) } ((wHost wCtx 0 (wDesc 2)).ctx (hJ).ctx).cols ((wHost wCtx 0 (wDesc 2)).ctx (hJ).ctx).colorants = false) ∧ (((wHost wCtx 0 (wDesc 2)).ctx (hJ).ctx).pass = false) ∧ (({ desc := ((wHost wCtx 0 (wDesc 2)).bytesAt 0 64 : List Byte) } : Layer).format = 2) ∧ ((wHost wCtx 0 (wDesc 2)).Reads ({ desc := ((wHost wCtx 0 (wDesc 2)).bytesAt 0 64 : List Byte) } : Layer).palAddr 8192 ((wHost wCtx 0 (wDesc 2)).bytesAt 1024 8192 : List Byte)) ∧ (paletteBad ((wHost wCtx 0 (wDesc 2)).bytesAt 1024 8192 : List Byte) = false) ∧ (((((wHost wCtx 0 (wDesc 2)).begun opLayerSet (hJ)).touch 2 (0) 64).touch 2 ({ desc := ((wHost wCtx 0 (wDesc 2)).bytesAt 0 64 : List Byte) } : Layer).palAddr 8192) = (((wHost wCtx 0 (wDesc 2)).begun opLayerSet (hJ)).touch 2 (0) 64).touch 2 ({ desc := ((wHost wCtx 0 (wDesc 2)).bytesAt 0 64 : List Byte) } : Layer).palAddr 8192) := by
  refine ⟨by decide, by decide, by decide, by decide, by decide, by decide, by decide, by decide, by decide, by decide, by decide, ⟨by decide, by decide, by decide, rfl⟩, ?_, rfl⟩
  show paletteBad (tgets 0#8 _ 1024 8192) = false
  rw [tgets_above _ _ _ (by decide)]
  simp only [paletteBad, fieldN_zeros]
  rfl

theorem witness_layer_packets_3 :
    ((wCtx).Takes (.colourSet (hJ) (0) (7) (0) (1)) opColourSet (hJ)) ∧ (¬((1) = 0 ∧ ((wCtx).ctx (hJ).ctx).ninthGeneration = true)) ∧ ((7) ≤ 7) ∧ ((1) ≤ 1) ∧ (((wCtx).ctx (hJ).ctx).openOrRunning = true) ∧ ((wCtx).accepts .comp = true) ∧ (((7) = 7 → ((wCtx).ctx (hJ).ctx).sealedL = none)) ∧ ((wCtx).Reads (0) (160) ((wCtx).bytesAt 0 160 : List Byte)) ∧ ((0) ≤ 1) ∧ ((160) = (if (0) = 0 then 160 else 65536)) ∧ ((if (0) = 0 then matBad ((wCtx).bytesAt 0 160 : List Byte) else crvBad ((wCtx).bytesAt 0 160 : List Byte)) = false) ∧ ((((wCtx).begun opColourSet (hJ)).touch 2 (0) (160)) = ((wCtx).begun opColourSet (hJ)).touch 2 (0) (160)) := by
  exact ⟨by decide, by decide, by decide, by decide, by decide, by decide, by decide, by decide, by decide, by decide, by decide, rfl⟩

theorem witness_page_submit_1 :
    ((wHost (wCtx.setCtx 1 { st := .open, cols := 16, mode := 1, layers := List.replicate 8 {} }) 0 []).Takes (.pageSubmit (hJ) (0) (0) (4) (0) (9)) opPageSubmit (hJ)) ∧ (((wHost (wCtx.setCtx 1 { st := .open, cols := 16, mode := 1, layers := List.replicate 8 {} }) 0 []).ctx 1 : Ctx) = (wHost (wCtx.setCtx 1 { st := .open, cols := 16, mode := 1, layers := List.replicate 8 {} }) 0 []).ctx (hJ).ctx) ∧ (((wHost (wCtx.setCtx 1 { st := .open, cols := 16, mode := 1, layers := List.replicate 8 {} }) 0 []).ctx 1 : Ctx).openOrRunning = true) ∧ ((wHost (wCtx.setCtx 1 { st := .open, cols := 16, mode := 1, layers := List.replicate 8 {} }) 0 []).accepts .comp = true) ∧ ((4) ≠ 0) ∧ ((4) % ((wHost (wCtx.setCtx 1 { st := .open, cols := 16, mode := 1, layers := List.replicate 8 {} }) 0 []).ctx 1 : Ctx).lpr = 0 ∧ (0) % ((wHost (wCtx.setCtx 1 { st := .open, cols := 16, mode := 1, layers := List.replicate 8 {} }) 0 []).ctx 1 : Ctx).lpr = 0) ∧ ((wHost (wCtx.setCtx 1 { st := .open, cols := 16, mode := 1, layers := List.replicate 8 {} }) 0 []).Reads (0) (32 * (0)) ([] : List Byte)) ∧ (([] : List ListEntry) = readList ([] : List Byte) (0)) ∧ (({ pk := (wHost (wCtx.setCtx 1 { st := .open, cols := 16, mode := 1, layers := List.replicate 8 {} }) 0 []).asPk opPageSubmit (hJ), id := 0, number := (9), length := (4), headland := (0), gen := [], list := ([] : List ListEntry), sealed := [], first := none, gap := 0, firstGlobal := 0, marks := 0, fired := 0, layers := none, nextRow := 0, failed := [], failedPoison := [], decoded := [], done := false } : Page) = { pk := (wHost (wCtx.setCtx 1 { st := .open, cols := 16, mode := 1, layers := List.replicate 8 {} }) 0 []).asPk opPageSubmit (hJ), id := 0, number := (9), length := (4), headland := (0), gen := [], list := ([] : List ListEntry), sealed := [], first := none, gap := 0, firstGlobal := 0, marks := 0, fired := 0, layers := none, nextRow := 0, failed := [], failedPoison := [], decoded := [], done := false }) ∧ ((if ((wHost (wCtx.setCtx 1 { st := .open, cols := 16, mode := 1, layers := List.replicate 8 {} }) 0 []).ctx 1 : Ctx).pass then passListBad (wHost (wCtx.setCtx 1 { st := .open, cols := 16, mode := 1, layers := List.replicate 8 {} }) 0 []) ((wHost (wCtx.setCtx 1 { st := .open, cols := 16, mode := 1, layers := List.replicate 8 {} }) 0 []).ctx 1 : Ctx) (4) ([] : List ListEntry) else listBad (wHost (wCtx.setCtx 1 { st := .open, cols := 16, mode := 1, layers := List.replicate 8 {} }) 0 []) (((wHost (wCtx.setCtx 1 { st := .open, cols := 16, mode := 1, layers := List.replicate 8 {} }) 0 []).ctx 1 : Ctx).layersFor ({ pk := (wHost (wCtx.setCtx 1 { st := .open, cols := 16, mode := 1, layers := List.replicate 8 {} }) 0 []).asPk opPageSubmit (hJ), id := 0, number := (9), length := (4), headland := (0), gen := [], list := ([] : List ListEntry), sealed := [], first := none, gap := 0, firstGlobal := 0, marks := 0, fired := 0, layers := none, nextRow := 0, failed := [], failedPoison := [], decoded := [], done := false } : Page)) ((wHost (wCtx.setCtx 1 { st := .open, cols := 16, mode := 1, layers := List.replicate 8 {} }) 0 []).ctx 1 : Ctx).sealedL ((4) / ((wHost (wCtx.setCtx 1 { st := .open, cols := 16, mode := 1, layers := List.replicate 8 {} }) 0 []).ctx 1 : Ctx).lpr) ([] : List ListEntry)) = false) ∧ (((wHost (wCtx.setCtx 1 { st := .open, cols := 16, mode := 1, layers := List.replicate 8 {} }) 0 []).ctx 1 : Ctx).pages.length < 1024) ∧ ((((wHost (wCtx.setCtx 1 { st := .open, cols := 16, mode := 1, layers := List.replicate 8 {} }) 0 []).begun opPageSubmit (hJ)).touch 2 0 0) = ((wHost (wCtx.setCtx 1 { st := .open, cols := 16, mode := 1, layers := List.replicate 8 {} }) 0 []).begun opPageSubmit (hJ)).touch 2 (0) (32 * (0))) ∧ ((0) = if ((((wHost (wCtx.setCtx 1 { st := .open, cols := 16, mode := 1, layers := List.replicate 8 {} }) 0 []).begun opPageSubmit (hJ)).touch 2 0 0).ctx (hJ).ctx).gen.isEmpty then ((((wHost (wCtx.setCtx 1 { st := .open, cols := 16, mode := 1, layers := List.replicate 8 {} }) 0 []).begun opPageSubmit (hJ)).touch 2 0 0).ctx (hJ).ctx).genId else ((((wHost (wCtx.setCtx 1 { st := .open, cols := 16, mode := 1, layers := List.replicate 8 {} }) 0 []).begun opPageSubmit (hJ)).touch 2 0 0).ctx (hJ).ctx).genId + 1) := by
  exact ⟨by decide, by decide, by decide, by decide, by decide, by decide, by decide, by decide, rfl, by decide, by decide, by decide, by decide⟩

theorem witness_bale_decode_packets_1 :
    ((wOn [.bale, .threshers, .thresher 3]).Takes (.baleDecode (hS) (0) (4096) (64) (64)) opBaleDecode (hS)) ∧ ((wOn [.bale, .threshers, .thresher 3]).accepts .bale = true) ∧ ((wOn [.bale, .threshers, .thresher 3]).baleJobs = []) ∧ ((wOn [.bale, .threshers, .thresher 3]).gangs = []) ∧ ((wOn [.bale, .threshers, .thresher 3]).freeThreshers = (3 : Fin 12) :: ([] : List (Fin 12))) ∧ ((wOn [.bale, .threshers, .thresher 3]).stalled = false) ∧ ((wOn [.bale, .threshers, .thresher 3]).badAddr (0) (64) = false) ∧ ((wOn [.bale, .threshers, .thresher 3]).badAddr (4096) (64) = false) ∧ ((wOn [.bale, .threshers, .thresher 3]).dmaFails (0) (64) = false) := by
  decide

theorem witness_bale_decode_packets_2 :
    ((wOn [.bale, .threshers, .thresher 11]).Takes (.baleVerify (hS) (0) (64)) opBaleVerify (hS)) ∧ ((wOn [.bale, .threshers, .thresher 11]).accepts .bale = true) ∧ ((wOn [.bale, .threshers, .thresher 11]).baleJobs = []) ∧ ((wOn [.bale, .threshers, .thresher 11]).gangs = []) ∧ ((wOn [.bale, .threshers, .thresher 11]).freeThreshers = (11 : Fin 12) :: ([] : List (Fin 12))) ∧ ((wOn [.bale, .threshers, .thresher 11]).badAddr (0) (64) = false) ∧ ((wOn [.bale, .threshers, .thresher 11]).dmaFails (0) (64) = false) := by
  decide

theorem witness_bale_decode_packets_3 :
    (((wOn [.bale]).setHandle 31 { held := true }).Takes (.baleDiscard (hS) (31)) opBaleDiscard (hS)) ∧ (((wOn [.bale]).setHandle 31 { held := true }).accepts .bale = true) ∧ (((wOn [.bale]).setHandle 31 { held := true }).handleHeld (31) = true) := by
  decide

theorem witness_bale_encode_packets_1 :
    ((wOn [.bale, .compressors, .compressor 2]).Takes (.baleEncode (hS) (0) (4096) (64) (4096) (0) (0) (1) (15 * 256) (none : Option Nat)) opBaleEncode (hS)) ∧ ((wOn [.bale, .compressors, .compressor 2]).accepts .bale = true) ∧ ((wOn [.bale, .compressors, .compressor 2]).baleJobs = []) ∧ ((wOn [.bale, .compressors, .compressor 2]).freeCompressors = (2 : Fin 4) :: ([] : List (Fin 4))) ∧ ((wOn [.bale, .compressors, .compressor 2]).insp.crops = []) ∧ ((wOn [.bale, .compressors, .compressor 2]).stalled = false) ∧ ((wOn [.bale, .compressors, .compressor 2]).badAddr (0) (64) = false) ∧ ((wOn [.bale, .compressors, .compressor 2]).badAddr (4096) (4096) = false) ∧ ((wOn [.bale, .compressors, .compressor 2]).dmaFails (0) (64) = false) ∧ (encodeBad ((wOn [.bale, .compressors, .compressor 2]).privileged (hS)) (64) (0) (0) ((15 * 256) % 2 ^ 24) = false) := by
  decide

theorem witness_bale_encode_packets_2 :
    (((wOn [.bale, .threshers, .thresher 0]).setHandle 0 { held := true }).Takes (.baleResume (hS) (0) (0) (64)) opBaleResume (hS)) ∧ (((wOn [.bale, .threshers, .thresher 0]).setHandle 0 { held := true }).accepts .bale = true) ∧ (((wOn [.bale, .threshers, .thresher 0]).setHandle 0 { held := true }).baleJobs = []) ∧ (((wOn [.bale, .threshers, .thresher 0]).setHandle 0 { held := true }).stalled = false) ∧ ((if (((wOn [.bale, .threshers, .thresher 0]).setHandle 0 { held := true }).handle (0)).encode then ((wOn [.bale, .threshers, .thresher 0]).setHandle 0 { held := true }).freeCompressors ≠ [] ∧ ((wOn [.bale, .threshers, .thresher 0]).setHandle 0 { held := true }).insp.crops = [] else ((wOn [.bale, .threshers, .thresher 0]).setHandle 0 { held := true }).gangs = [] ∧ ((wOn [.bale, .threshers, .thresher 0]).setHandle 0 { held := true }).freeThreshers ≠ [])) ∧ (((wOn [.bale, .threshers, .thresher 0]).setHandle 0 { held := true }).badAddr (0) (64) = false) ∧ (((wOn [.bale, .threshers, .thresher 0]).setHandle 0 { held := true }).handleHeld (0) = true) ∧ (((wOn [.bale, .threshers, .thresher 0]).setHandle 0 { held := true }).dmaFails (((wOn [.bale, .threshers, .thresher 0]).setHandle 0 { held := true }).handle (0)).addr (((wOn [.bale, .threshers, .thresher 0]).setHandle 0 { held := true }).handle (0)).remain = false) ∧ (((((wOn [.bale, .threshers, .thresher 0]).setHandle 0 { held := true }).begun opBaleResume (hS)).setHandle (0) { (((wOn [.bale, .threshers, .thresher 0]).setHandle 0 { held := true }).handle (0)) with busy := true }) = (((wOn [.bale, .threshers, .thresher 0]).setHandle 0 { held := true }).begun opBaleResume (hS)).setHandle (0) { (((wOn [.bale, .threshers, .thresher 0]).setHandle 0 { held := true }).handle (0)) with busy := true }) := by
  exact ⟨by decide, by decide, by decide, by decide, by decide, by decide, by decide, by decide, rfl⟩

theorem witness_nozzle_map_packets_1 :
    ((wHost wCtx 0 [0, 0, 0, 0, 0, 0, 0, 255]).Takes (.nmapWrite (hJ) (0) (0) (1) (0)) opNmapWrite (hJ)) ∧ ((wHost wCtx 0 [0, 0, 0, 0, 0, 0, 0, 255]).foreignLane (hJ).ctx (0) (1) = false) ∧ ((0) ≤ 1) ∧ ((0) + (1) ≤ 2 ^ 20) ∧ ((wHost wCtx 0 [0, 0, 0, 0, 0, 0, 0, 255]).accepts .scrn = true) ∧ ((wHost wCtx 0 [0, 0, 0, 0, 0, 0, 0, 255]).Reads (0) (8 * (1)) ((wHost wCtx 0 [0, 0, 0, 0, 0, 0, 0, 255]).bytesAt 0 8 : List Byte)) ∧ (([0xFF00000000000000] : List Nat) = words8 ((wHost wCtx 0 [0, 0, 0, 0, 0, 0, 0, 255]).bytesAt 0 8 : List Byte) (1)) ∧ (((wHost wCtx 0 [0, 0, 0, 0, 0, 0, 0, 255]).privileged (hJ) = true ∨ ([0xFF00000000000000] : List Nat).zipIdx.any (fun e => needsPriv ((wHost wCtx 0 [0, 0, 0, 0, 0, 0, 0, 255]).nozzle ((0) + e.2)) e.1) = false)) ∧ ((((wHost wCtx 0 [0, 0, 0, 0, 0, 0, 0, 255]).begun opNmapWrite (hJ)).touch 2 0 8) = ((wHost wCtx 0 [0, 0, 0, 0, 0, 0, 0, 255]).begun opNmapWrite (hJ)).touch 2 (0) (8 * (1))) ∧ ((((wHost wCtx 0 [0, 0, 0, 0, 0, 0, 0, 255]).begun opNmapWrite (hJ)).touch 2 0 8).firstBadEntry (0) ([0xFF00000000000000] : List Nat) = some ((0), (1))) ∧ (([0xFF00000000000000] : List Nat).zipIdx.any (fun e => needsPriv ((((wHost wCtx 0 [0, 0, 0, 0, 0, 0, 0, 255]).begun opNmapWrite (hJ)).touch 2 0 8).nozzle ((0) + e.2)) e.1) = false) := by
  decide

theorem witness_nozzle_map_packets_2 :
    ((wCtx).Takes (.nmapWrite (hS) (0) (1048575) (1) (1)) opNmapWrite (hS)) ∧ ((wCtx).foreignLane (hS).ctx (1048575) (1) = false) ∧ ((1) ≤ 1) ∧ ((1048575) + (1) ≤ 2 ^ 20) ∧ ((wCtx).accepts .scrn = true) ∧ ((wCtx).Reads (0) (8 * (1)) ((wCtx).bytesAt 0 8 : List Byte)) ∧ (([0] : List Nat) = words8 ((wCtx).bytesAt 0 8 : List Byte) (1)) ∧ (((wCtx).privileged (hS) = true ∨ ([0] : List Nat).zipIdx.any (fun e => needsPriv ((wCtx).nozzle ((1048575) + e.2)) e.1) = false)) ∧ ((((wCtx).begun opNmapWrite (hS)).touch 2 0 8) = ((wCtx).begun opNmapWrite (hS)).touch 2 (0) (8 * (1))) ∧ ((((wCtx).begun opNmapWrite (hS)).touch 2 0 8).firstBadEntry (1048575) ([0] : List Nat) = none) ∧ (((((wCtx).begun opNmapWrite (hS)).touch 2 0 8).dropSteps ((((wCtx).begun opNmapWrite (hS)).touch 2 0 8).runKeys (1048575) (1) ++ ([0] : List Nat).flatMap nmBears) (((tgets nmReset (((wCtx).begun opNmapWrite (hS)).touch 2 0 8).nmap (1048575) (1) ++ ([0] : List Nat)).filter fun e => !nmDisabled e).map nmRowGroup)) = (((wCtx).begun opNmapWrite (hS)).touch 2 0 8).dropSteps ((((wCtx).begun opNmapWrite (hS)).touch 2 0 8).runKeys (1048575) (1) ++ ([0] : List Nat).flatMap nmBears) (((tgets nmReset (((wCtx).begun opNmapWrite (hS)).touch 2 0 8).nmap (1048575) (1) ++ ([0] : List Nat)).filter fun e => !nmDisabled e).map nmRowGroup)) ∧ (((1) = 0 ∨ (lanesOf (1048575) (1)).any (fun l => (((wCtx).begun opNmapWrite (hS)).touch 2 0 8).changePending (.nmap l)) = false)) ∧ ((((((wCtx).begun opNmapWrite (hS)).touch 2 0 8).dropSteps ((((wCtx).begun opNmapWrite (hS)).touch 2 0 8).runKeys (1048575) (1) ++ ([0] : List Nat).flatMap nmBears) (((tgets nmReset (((wCtx).begun opNmapWrite (hS)).touch 2 0 8).nmap (1048575) (1) ++ ([0] : List Nat)).filter fun e => !nmDisabled e).map nmRowGroup))) = if ([0] : List Nat).zipIdx.any (fun e => needsPriv ((((wCtx).begun opNmapWrite (hS)).touch 2 0 8).nozzle ((1048575) + e.2)) e.1) then ((((wCtx).begun opNmapWrite (hS)).touch 2 0 8).dropSteps ((((wCtx).begun opNmapWrite (hS)).touch 2 0 8).runKeys (1048575) (1) ++ ([0] : List Nat).flatMap nmBears) (((tgets nmReset (((wCtx).begun opNmapWrite (hS)).touch 2 0 8).nmap (1048575) (1) ++ ([0] : List Nat)).filter fun e => !nmDisabled e).map nmRowGroup)).audit 11 (hS).ctx 255 Status.ok.code (1048575) (1) (sha384 (((((wCtx).begun opNmapWrite (hS)).touch 2 0 8).dropSteps ((((wCtx).begun opNmapWrite (hS)).touch 2 0 8).runKeys (1048575) (1) ++ ([0] : List Nat).flatMap nmBears) (((tgets nmReset (((wCtx).begun opNmapWrite (hS)).touch 2 0 8).nmap (1048575) (1) ++ ([0] : List Nat)).filter fun e => !nmDisabled e).map nmRowGroup)).bytesAt (0) (8 * (1)))) else ((((wCtx).begun opNmapWrite (hS)).touch 2 0 8).dropSteps ((((wCtx).begun opNmapWrite (hS)).touch 2 0 8).runKeys (1048575) (1) ++ ([0] : List Nat).flatMap nmBears) (((tgets nmReset (((wCtx).begun opNmapWrite (hS)).touch 2 0 8).nmap (1048575) (1) ++ ([0] : List Nat)).filter fun e => !nmDisabled e).map nmRowGroup))) := by
  exact ⟨by decide, by decide, by decide, by decide, by decide, by decide, by decide, by decide, by decide, by decide, rfl, by decide, by decide⟩

theorem witness_nozzle_map_packets_3 :
    ((wCtx).Takes (.nmapRead (hJ) (0) (1048575) (1)) opNmapRead (hJ)) ∧ ((wCtx).accepts .scrn = true) ∧ ((wCtx).badAddr (0) (8 * (1)) = false) ∧ ((1048575) + (1) ≤ 2 ^ 20) ∧ (((tgets nmReset (wCtx).nmap 1048575 1).flatMap (leBytes 8) : List Byte) = (tgets nmReset (wCtx).nmap (1048575) (1)).flatMap (leBytes 8)) := by
  decide

theorem witness_calibration_table_packets_1 :
    ((wCtx).Takes (.ncalWrite (hJ) (0) (1048575) (1) (1)) opNcalWrite (hJ)) ∧ ((wCtx).foreignLane (hJ).ctx (1048575) (1) = false) ∧ ((1) ≤ 1) ∧ ((1048575) + (1) ≤ 2 ^ 20) ∧ ((wCtx).accepts .scrn = true) ∧ ((wCtx).Reads (0) (4 * (1)) ((wCtx).bytesAt 0 4 : List Byte)) ∧ (([0] : List Nat) = words4 ((wCtx).bytesAt 0 4 : List Byte) (1)) ∧ (([0] : List Nat).any (fun e => decide (ncReserved e ≠ 0)) = false) ∧ (((1) = 0 ∨ (lanesOf (1048575) (1)).any (fun l => (wCtx).changePending (.ncal l)) = false)) ∧ ((((wCtx).begun opNcalWrite (hJ)).touch 2 0 4) = ((wCtx).begun opNcalWrite (hJ)).touch 2 (0) (4 * (1))) := by
  decide

theorem witness_calibration_table_packets_2 :
    ((wCtx).Takes (.threshLoad (hJ) (0) (7) (1)) opThreshLoad (hJ)) ∧ ((1) ≤ 1) ∧ ((7) ≤ 7) ∧ ((wCtx).accepts .scrn = true) ∧ ((wCtx).Reads (0) 131072 ((wCtx).bytesAt 0 131072 : List Byte)) ∧ ((words2 ((wCtx).bytesAt 0 131072 : List Byte) 65536).any (fun v => decide (4095 < v)) = false) ∧ (((1) = 0 ∨ (wCtx).changePending (.thresh (7)) = false)) ∧ ((((wCtx).begun opThreshLoad (hJ)).touch 2 0 131072) = ((wCtx).begun opThreshLoad (hJ)).touch 2 (0) 131072) := by
  refine ⟨by decide, by decide, by decide, by decide, State.reads_host _ (by decide) (by decide) (by decide), ?_, by decide, rfl⟩
  show (words2 (tgets 0#8 _ 0 131072) 65536).any (fun v => decide (4095 < v)) = false
  rw [tgets_above _ _ _ (by decide)]
  simp only [List.any_eq_false, decide_eq_true_eq]
  intro v hv
  rw [chunks_zeros 2 65536 131072 v hv]
  decide

theorem witness_calibration_table_packets_3 :
    ((wCtx).Takes (.levelSet (hJ) (0) (7) (1)) opLevelSet (hJ)) ∧ ((1) ≤ 1) ∧ ((7) ≤ 7) ∧ ((wCtx).accepts .scrn = true) ∧ ((wCtx).Reads (0) 64 ((wCtx).bytesAt 0 64 : List Byte)) ∧ (levelBad ((wCtx).bytesAt 0 64 : List Byte) = false) ∧ (((1) = 0 ∨ (wCtx).changePending (.level (7)) = false)) ∧ ((((wCtx).begun opLevelSet (hJ)).touch 2 0 64) = ((wCtx).begun opLevelSet (hJ)).touch 2 (0) 64) := by
  decide

theorem witness_silo_and_composition_1 :
    ((wPage).clocked = true) ∧ ((wPage).composes ((wPage).ctx (1)) = true) ∧ ((((wPage).ctx (1)).wbOnly = true → (wPage).stalled = false)) ∧ (((wPage).ctx (1)).nextPage = some (wPg : Page)) ∧ ((wPg : Page).first = some (0)) ∧ ((wPage).paceOk ((wPage).ctx (1)) ((0) / ((wPage).ctx (1)).lpr + (wPg : Page).nextRow) = true) ∧ ((((wPage).ctx (1)).wbOnly && (wPg : Page).layers.isNone && (wPage).unitHeld ((wPage).ctx (1))) = false) ∧ (((wPage)) = if (wPg : Page).layers.isNone then (wPage).beginPage (1) (wPg : Page) else (wPage)) ∧ ((((wPage)).ctx (1)).pages.find? (fun (wPg : Page) => decide ((wPg : Page).id = (wPg : Page).id)) = some (wPg : Page)) ∧ ((([] : List (Nat × ListEntry)) : List (Nat × ListEntry)) = (wPg : Page).rowEntries ((wPg : Page).layers.getD []) (wPg : Page).nextRow) ∧ ((([] : List (Nat × ListEntry)) : List (Nat × ListEntry)) = (([] : List (Nat × ListEntry)) : List (Nat × ListEntry)).filter (fun e => !(wPg : Page).failed.contains e.1 && !((wPage)).holders.any fun x => decide (x.2 = some ⟨(1), (wPg : Page).id, e.1⟩))) ∧ ((([] : List (Nat × ListEntry)) : List (Nat × ListEntry)) = []) := by
  decide

theorem witness_silo_and_composition_2 :
    ((wPage2).clocked = true) ∧ ((wPage2).composes ((wPage2).ctx (1)) = true) ∧ ((((wPage2).ctx (1)).wbOnly = true → (wPage2).stalled = false)) ∧ (((wPage2).ctx (1)).nextPage = some (wPg2 : Page)) ∧ ((wPg2 : Page).first = some (0)) ∧ ((wPage2).paceOk ((wPage2).ctx (1)) ((0) / ((wPage2).ctx (1)).lpr + (wPg2 : Page).nextRow) = true) ∧ ((((wPage2).ctx (1)).wbOnly && (wPg2 : Page).layers.isNone && (wPage2).unitHeld ((wPage2).ctx (1))) = false) ∧ (((wPage2)) = if (wPg2 : Page).layers.isNone then (wPage2).beginPage (1) (wPg2 : Page) else (wPage2)) ∧ ((((wPage2)).ctx (1)).pages.find? (fun (wPg2 : Page) => decide ((wPg2 : Page).id = (wPg2 : Page).id)) = some (wPg2 : Page)) ∧ ((wPg2.rowEntries (wPg2.layers.getD []) wPg2.nextRow : List (Nat × ListEntry)) = (wPg2 : Page).rowEntries ((wPg2 : Page).layers.getD []) (wPg2 : Page).nextRow) ∧ (((wPg2.rowEntries (wPg2.layers.getD []) wPg2.nextRow : List (Nat × ListEntry)) : List (Nat × ListEntry)) = (wPg2.rowEntries (wPg2.layers.getD []) wPg2.nextRow : List (Nat × ListEntry)).filter (fun e => !(wPg2 : Page).failed.contains e.1 && !((wPage2)).holders.any fun x => decide (x.2 = some ⟨(1), (wPg2 : Page).id, e.1⟩))) ∧ (((wPg2.rowEntries (wPg2.layers.getD []) wPg2.nextRow : List (Nat × ListEntry)) : List (Nat × ListEntry)) ≠ []) := by
  decide

theorem witness_silo_and_composition_3 :
    ((wSilo).Takes (.siloCopy (hJ) (3) (1) (4096) (0)) opSiloCopy (hJ)) ∧ ((wSilo).stalled = false) ∧ (((wSilo).ctx 1 : Ctx) = (wSilo).ctx (hJ).ctx) ∧ (((wSilo).ctx 1 : Ctx).st ≠ .closed) ∧ ((wSilo).accepts .comp = true) ∧ ((1) ≠ 0) ∧ ((3) = (3) / (if bit (0) 0 then 4 * ((wSilo).ctx 1 : Ctx).lpr else ((wSilo).ctx 1 : Ctx).lpr)) ∧ ((1) = ((3) + (1) - 1) / (if bit (0) 0 then 4 * ((wSilo).ctx 1 : Ctx).lpr else ((wSilo).ctx 1 : Ctx).lpr) + 1 - (3)) ∧ ((1) ≤ (if bit (0) 0 then ((wSilo).ctx 1 : Ctx).depth / 4 else ((wSilo).ctx 1 : Ctx).depth)) ∧ ((bit (0) 0 && ((wSilo).ctx 1 : Ctx).qsOff) = false) ∧ ((wSilo).badAddr (4096) ((1) * (16 + ((wSilo).ctx 1 : Ctx).rowSize)) = false) ∧ (((wSilo).begun opSiloCopy (hJ)) = (wSilo).begun opSiloCopy (hJ)) ∧ (((List.range (1)).map fun i => ((3) + i, (((wSilo).begun opSiloCopy (hJ)).copyRow ((wSilo).ctx 1 : Ctx) (bit (0) 0) ((3) + i))) : List (Nat × Nat × List Byte × Bool)) = (List.range (1)).map fun i => ((3) + i, ((wSilo).begun opSiloCopy (hJ)).copyRow ((wSilo).ctx 1 : Ctx) (bit (0) 0) ((3) + i))) ∧ ((((List.range (1)).map fun i => ((3) + i, (((wSilo).begun opSiloCopy (hJ)).copyRow ((wSilo).ctx 1 : Ctx) (bit (0) 0) ((3) + i))) : List (Nat × Nat × List Byte × Bool)).foldl (fun (wSilo) r => ((wSilo).noteRead 4 (((wSilo).ctx 1 : Ctx).tagAddr (if bit (0) 0 then 4 * r.1 + 3 else r.1)) 8).noteRead 4 (if bit (0) 0 then ((wSilo).ctx 1 : Ctx).qsAddr r.1 else ((wSilo).ctx 1 : Ctx).fullAddr r.1) ((wSilo).ctx 1 : Ctx).rowSize) ((wSilo).begun opSiloCopy (hJ))) = ((List.range (1)).map fun i => ((3) + i, (((wSilo).begun opSiloCopy (hJ)).copyRow ((wSilo).ctx 1 : Ctx) (bit (0) 0) ((3) + i))) : List (Nat × Nat × List Byte × Bool)).foldl (fun (wSilo) r => ((wSilo).noteRead 4 (((wSilo).ctx 1 : Ctx).tagAddr (if bit (0) 0 then 4 * r.1 + 3 else r.1)) 8).noteRead 4 (if bit (0) 0 then ((wSilo).ctx 1 : Ctx).qsAddr r.1 else ((wSilo).ctx 1 : Ctx).fullAddr r.1) ((wSilo).ctx 1 : Ctx).rowSize) ((wSilo).begun opSiloCopy (hJ))) ∧ ((((List.range (1)).map fun i => ((3) + i, (((wSilo).begun opSiloCopy (hJ)).copyRow ((wSilo).ctx 1 : Ctx) (bit (0) 0) ((3) + i))) : List (Nat × Nat × List Byte × Bool)).zipIdx.foldl (fun (wSilo) r => let bytes := leBytes 4 r.1.1 ++ leBytes 1 r.1.2.1 ++ leBytes 11 0 ++ r.1.2.2.1; let at' := (4096) + r.2 * (16 + ((wSilo).ctx 1 : Ctx).rowSize); if r.1.2.2.2 then (wSilo).writePoisoned 4 at' bytes else (wSilo).writeAt 4 at' bytes) (((List.range (1)).map fun i => ((3) + i, (((wSilo).begun opSiloCopy (hJ)).copyRow ((wSilo).ctx 1 : Ctx) (bit (0) 0) ((3) + i))) : List (Nat × Nat × List Byte × Bool)).foldl (fun (wSilo) r => ((wSilo).noteRead 4 (((wSilo).ctx 1 : Ctx).tagAddr (if bit (0) 0 then 4 * r.1 + 3 else r.1)) 8).noteRead 4 (if bit (0) 0 then ((wSilo).ctx 1 : Ctx).qsAddr r.1 else ((wSilo).ctx 1 : Ctx).fullAddr r.1) ((wSilo).ctx 1 : Ctx).rowSize) ((wSilo).begun opSiloCopy (hJ)))) = ((List.range (1)).map fun i => ((3) + i, (((wSilo).begun opSiloCopy (hJ)).copyRow ((wSilo).ctx 1 : Ctx) (bit (0) 0) ((3) + i))) : List (Nat × Nat × List Byte × Bool)).zipIdx.foldl (fun (wSilo) r => let bytes := leBytes 4 r.1.1 ++ leBytes 1 r.1.2.1 ++ leBytes 11 0 ++ r.1.2.2.1; let at' := (4096) + r.2 * (16 + ((wSilo).ctx 1 : Ctx).rowSize); if r.1.2.2.2 then (wSilo).writePoisoned 4 at' bytes else (wSilo).writeAt 4 at' bytes) (((List.range (1)).map fun i => ((3) + i, (((wSilo).begun opSiloCopy (hJ)).copyRow ((wSilo).ctx 1 : Ctx) (bit (0) 0) ((3) + i))) : List (Nat × Nat × List Byte × Bool)).foldl (fun (wSilo) r => ((wSilo).noteRead 4 (((wSilo).ctx 1 : Ctx).tagAddr (if bit (0) 0 then 4 * r.1 + 3 else r.1)) 8).noteRead 4 (if bit (0) 0 then ((wSilo).ctx 1 : Ctx).qsAddr r.1 else ((wSilo).ctx 1 : Ctx).fullAddr r.1) ((wSilo).ctx 1 : Ctx).rowSize) ((wSilo).begun opSiloCopy (hJ)))) ∧ (((List.range (1)).map fun i => ((3) + i, (((wSilo).begun opSiloCopy (hJ)).copyRow ((wSilo).ctx 1 : Ctx) (bit (0) 0) ((3) + i))) : List (Nat × Nat × List Byte × Bool)).find? (fun r => r.2.2.2) = none) := by
  exact ⟨by decide, by decide, by decide, by decide, by decide, by decide, by decide, by decide, by decide, by decide, by decide, rfl, by decide, rfl, rfl, by decide⟩

theorem witness_silo_and_composition_4 :
    ((wSiloBad).Takes (.siloCopy (hJ) (3) (1) (4096) (0)) opSiloCopy (hJ)) ∧ ((wSiloBad).stalled = false) ∧ (((wSiloBad).ctx 1 : Ctx) = (wSiloBad).ctx (hJ).ctx) ∧ (((wSiloBad).ctx 1 : Ctx).st ≠ .closed) ∧ ((wSiloBad).accepts .comp = true) ∧ ((1) ≠ 0) ∧ ((3) = (3) / (if bit (0) 0 then 4 * ((wSiloBad).ctx 1 : Ctx).lpr else ((wSiloBad).ctx 1 : Ctx).lpr)) ∧ ((1) = ((3) + (1) - 1) / (if bit (0) 0 then 4 * ((wSiloBad).ctx 1 : Ctx).lpr else ((wSiloBad).ctx 1 : Ctx).lpr) + 1 - (3)) ∧ ((1) ≤ (if bit (0) 0 then ((wSiloBad).ctx 1 : Ctx).depth / 4 else ((wSiloBad).ctx 1 : Ctx).depth)) ∧ ((bit (0) 0 && ((wSiloBad).ctx 1 : Ctx).qsOff) = false) ∧ ((wSiloBad).badAddr (4096) ((1) * (16 + ((wSiloBad).ctx 1 : Ctx).rowSize)) = false) ∧ (((wSiloBad).begun opSiloCopy (hJ)) = (wSiloBad).begun opSiloCopy (hJ)) ∧ (((List.range (1)).map fun i => ((3) + i, (((wSiloBad).begun opSiloCopy (hJ)).copyRow ((wSiloBad).ctx 1 : Ctx) (bit (0) 0) ((3) + i))) : List (Nat × Nat × List Byte × Bool)) = (List.range (1)).map fun i => ((3) + i, ((wSiloBad).begun opSiloCopy (hJ)).copyRow ((wSiloBad).ctx 1 : Ctx) (bit (0) 0) ((3) + i))) ∧ ((((List.range (1)).map fun i => ((3) + i, (((wSiloBad).begun opSiloCopy (hJ)).copyRow ((wSiloBad).ctx 1 : Ctx) (bit (0) 0) ((3) + i))) : List (Nat × Nat × List Byte × Bool)).foldl (fun (wSiloBad) r => ((wSiloBad).noteRead 4 (((wSiloBad).ctx 1 : Ctx).tagAddr (if bit (0) 0 then 4 * r.1 + 3 else r.1)) 8).noteRead 4 (if bit (0) 0 then ((wSiloBad).ctx 1 : Ctx).qsAddr r.1 else ((wSiloBad).ctx 1 : Ctx).fullAddr r.1) ((wSiloBad).ctx 1 : Ctx).rowSize) ((wSiloBad).begun opSiloCopy (hJ))) = ((List.range (1)).map fun i => ((3) + i, (((wSiloBad).begun opSiloCopy (hJ)).copyRow ((wSiloBad).ctx 1 : Ctx) (bit (0) 0) ((3) + i))) : List (Nat × Nat × List Byte × Bool)).foldl (fun (wSiloBad) r => ((wSiloBad).noteRead 4 (((wSiloBad).ctx 1 : Ctx).tagAddr (if bit (0) 0 then 4 * r.1 + 3 else r.1)) 8).noteRead 4 (if bit (0) 0 then ((wSiloBad).ctx 1 : Ctx).qsAddr r.1 else ((wSiloBad).ctx 1 : Ctx).fullAddr r.1) ((wSiloBad).ctx 1 : Ctx).rowSize) ((wSiloBad).begun opSiloCopy (hJ))) ∧ ((((List.range (1)).map fun i => ((3) + i, (((wSiloBad).begun opSiloCopy (hJ)).copyRow ((wSiloBad).ctx 1 : Ctx) (bit (0) 0) ((3) + i))) : List (Nat × Nat × List Byte × Bool)).zipIdx.foldl (fun (wSiloBad) r => let bytes := leBytes 4 r.1.1 ++ leBytes 1 r.1.2.1 ++ leBytes 11 0 ++ r.1.2.2.1; let at' := (4096) + r.2 * (16 + ((wSiloBad).ctx 1 : Ctx).rowSize); if r.1.2.2.2 then (wSiloBad).writePoisoned 4 at' bytes else (wSiloBad).writeAt 4 at' bytes) (((List.range (1)).map fun i => ((3) + i, (((wSiloBad).begun opSiloCopy (hJ)).copyRow ((wSiloBad).ctx 1 : Ctx) (bit (0) 0) ((3) + i))) : List (Nat × Nat × List Byte × Bool)).foldl (fun (wSiloBad) r => ((wSiloBad).noteRead 4 (((wSiloBad).ctx 1 : Ctx).tagAddr (if bit (0) 0 then 4 * r.1 + 3 else r.1)) 8).noteRead 4 (if bit (0) 0 then ((wSiloBad).ctx 1 : Ctx).qsAddr r.1 else ((wSiloBad).ctx 1 : Ctx).fullAddr r.1) ((wSiloBad).ctx 1 : Ctx).rowSize) ((wSiloBad).begun opSiloCopy (hJ)))) = ((List.range (1)).map fun i => ((3) + i, (((wSiloBad).begun opSiloCopy (hJ)).copyRow ((wSiloBad).ctx 1 : Ctx) (bit (0) 0) ((3) + i))) : List (Nat × Nat × List Byte × Bool)).zipIdx.foldl (fun (wSiloBad) r => let bytes := leBytes 4 r.1.1 ++ leBytes 1 r.1.2.1 ++ leBytes 11 0 ++ r.1.2.2.1; let at' := (4096) + r.2 * (16 + ((wSiloBad).ctx 1 : Ctx).rowSize); if r.1.2.2.2 then (wSiloBad).writePoisoned 4 at' bytes else (wSiloBad).writeAt 4 at' bytes) (((List.range (1)).map fun i => ((3) + i, (((wSiloBad).begun opSiloCopy (hJ)).copyRow ((wSiloBad).ctx 1 : Ctx) (bit (0) 0) ((3) + i))) : List (Nat × Nat × List Byte × Bool)).foldl (fun (wSiloBad) r => ((wSiloBad).noteRead 4 (((wSiloBad).ctx 1 : Ctx).tagAddr (if bit (0) 0 then 4 * r.1 + 3 else r.1)) 8).noteRead 4 (if bit (0) 0 then ((wSiloBad).ctx 1 : Ctx).qsAddr r.1 else ((wSiloBad).ctx 1 : Ctx).fullAddr r.1) ((wSiloBad).ctx 1 : Ctx).rowSize) ((wSiloBad).begun opSiloCopy (hJ)))) ∧ (((List.range (1)).map fun i => ((3) + i, (((wSiloBad).begun opSiloCopy (hJ)).copyRow ((wSiloBad).ctx 1 : Ctx) (bit (0) 0) ((3) + i))) : List (Nat × Nat × List Byte × Bool)).find? (fun r => r.2.2.2) = some (((3 : Nat), 2, List.replicate 16 0#8, true) : Nat × Nat × List Byte × Bool)) := by
  exact ⟨by decide, by decide, by decide, by decide, by decide, by decide, by decide, by decide, by decide, by decide, by decide, rfl, by decide, rfl, rfl, by decide⟩

theorem witness_silo_and_composition_5 :
    (({ wOn [.bale, .threshers, .thresher 0] with gangs := [(⟨1, 0, 0, [0]⟩ : Gang)] }).clocked = true) ∧ (({ wOn [.bale, .threshers, .thresher 0] with gangs := [(⟨1, 0, 0, [0]⟩ : Gang)] }).startCrops.nextGang = some ((⟨1, 0, 0, [0]⟩ : Gang) : Gang)) ∧ (((⟨1, 0, 0, [0]⟩ : Gang) : Gang).entries.length ≤ ({ wOn [.bale, .threshers, .thresher 0] with gangs := [(⟨1, 0, 0, [0]⟩ : Gang)] }).startCrops.freeThreshers.length) := by
  decide

theorem witness_silo_and_composition_6 :
    (({ wOn [] with gangs := [(⟨1, 0, 0, [0]⟩ : Gang)] }).clocked = true) ∧ (({ wOn [] with gangs := [(⟨1, 0, 0, [0]⟩ : Gang)] }).startCrops.nextGang = some ((⟨1, 0, 0, [0]⟩ : Gang) : Gang)) ∧ (({ wOn [] with gangs := [(⟨1, 0, 0, [0]⟩ : Gang)] }).startCrops.freeThreshers.length < ((⟨1, 0, 0, [0]⟩ : Gang) : Gang).entries.length) := by
  decide

theorem witness_silo_and_composition_7 :
    ((wOn []).clocked = true) ∧ ((wOn []).startCrops.nextGang = none) := by
  decide

theorem witness_screening_engine_1 :
    ((wLine).clocked = true) ∧ ((1) = (wLine).laneOwner (0 : Fin 32).val) ∧ ((1) ≠ 0) ∧ (((wLine).ctx (1)).live = true) ∧ ((0) = ((wLine).head (0 : Fin 32).val).nextSwath) ∧ ((0) < ((wLine).ctx (1)).horizon) ∧ (((wLine).ctx (1)).lineOff (0) = false) ∧ ((0) ≤ ((wLine).ctx (1)).line + 14) ∧ ((wLine).mode .scrn ≠ .faulted) ∧ (((wLine).closeTo 1 0) = (wLine).closeTo (1) (0)) ∧ (((wLine).closeTo 1 0).dueBlocks (1) (0) = false) ∧ (((wLine).closeTo 1 0).laneSlice (0 : Fin 32).val = some (0 : Fin 33)) ∧ ((((wLine).closeTo 1 0).swathOf (1) (0 : Fin 32).val (0)).waits = false) ∧ ((((wLine).closeTo 1 0).ctx (1)).pass = false) := by
  decide

theorem witness_screening_engine_2 :
    ((wLinePass).clocked = true) ∧ ((1) = (wLinePass).laneOwner (0 : Fin 32).val) ∧ ((1) ≠ 0) ∧ (((wLinePass).ctx (1)).live = true) ∧ ((0) = ((wLinePass).head (0 : Fin 32).val).nextSwath) ∧ ((0) < ((wLinePass).ctx (1)).horizon) ∧ (((wLinePass).ctx (1)).lineOff (0) = false) ∧ ((0) ≤ ((wLinePass).ctx (1)).line + 14) ∧ ((wLinePass).mode .scrn ≠ .faulted) ∧ (((wLinePass).closeTo 1 0) = (wLinePass).closeTo (1) (0)) ∧ (((wLinePass).closeTo 1 0).dueBlocks (1) (0) = false) ∧ (((wLinePass).closeTo 1 0).laneSlice (0 : Fin 32).val = some (0 : Fin 33)) ∧ ((((wLinePass).closeTo 1 0).swathOf (1) (0 : Fin 32).val (0)).waits = false) ∧ ((((wLinePass).closeTo 1 0).ctx (1)).pass = true) := by
  decide

theorem witness_screening_engine_3 :
    ((wLine0).clocked = true) ∧ ((1) = (wLine0).laneOwner (31 : Fin 32).val) ∧ ((1) ≠ 0) ∧ (((wLine0).ctx (1)).live = true) ∧ ((0) = ((wLine0).head (31 : Fin 32).val).nextSwath) ∧ ((0) < ((wLine0).ctx (1)).horizon) ∧ (((wLine0).ctx (1)).lineOff (0) = false) ∧ ((0) ≤ ((wLine0).ctx (1)).line + 14) ∧ ((wLine0).mode .scrn ≠ .faulted) ∧ (((wLine0).closeTo 1 0) = (wLine0).closeTo (1) (0)) ∧ (((wLine0).closeTo 1 0).dueBlocks (1) (0) = false) ∧ (((wLine0).closeTo 1 0).laneSlice (31 : Fin 32).val = none) := by
  decide

theorem witness_slice_rotation_1 :
    ((wSlices).clocked = true) ∧ ((wSlices).flag R.SCRN_CFG_ROT_EN = true) ∧ ((wSlices).gleanFlag 2 = true) ∧ ((wSlices).stalled = false) ∧ ((wSlices).rotAt < (wSlices).globalLine / (wSlices).rotPeriod) ∧ ((List.range 33).any (fun n => ((wSlices).slice n).shadows.isSome) = false) ∧ ((wSlices).spare = some (0 : Fin 33)) ∧ ((wSlices).nextActive (wSlices).rotNext = some (32)) := by
  decide

theorem witness_slice_rotation_2 :
    ((wSlices.setSlice 0 { shadows := some 5, agreed := 64 }).clocked = true) ∧ ((List.finRange 33).find? (fun m => ((wSlices.setSlice 0 { shadows := some 5, agreed := 64 }).slice m.val).shadows.isSome && decide (64 ≤ ((wSlices.setSlice 0 { shadows := some 5, agreed := 64 }).slice m.val).agreed)) = some (0 : Fin 33)) ∧ (((wSlices.setSlice 0 { shadows := some 5, agreed := 64 }).slice (0 : Fin 33).val).shadows = some (5)) ∧ ((wSlices.setSlice 0 { shadows := some 5, agreed := 64 }).laneSlice (5) = some (32 : Fin 33)) := by
  decide

theorem witness_slice_rotation_3 :
    ((wSlices.setSlice 0 { shadows := some 6, agreed := 64 }).clocked = true) ∧ ((List.finRange 33).find? (fun m => ((wSlices.setSlice 0 { shadows := some 6, agreed := 64 }).slice m.val).shadows.isSome && decide (64 ≤ ((wSlices.setSlice 0 { shadows := some 6, agreed := 64 }).slice m.val).agreed)) = some (0 : Fin 33)) ∧ (((wSlices.setSlice 0 { shadows := some 6, agreed := 64 }).slice (0 : Fin 33).val).shadows = some (6)) ∧ ((wSlices.setSlice 0 { shadows := some 6, agreed := 64 }).laneSlice (6) = none) := by
  decide

theorem witness_slice_rotation_4 :
    ((wSlices).clocked = true) ∧ ((wSlices).mode (.slice (32 : Fin 33)) ≠ .faulted) ∧ (((false) = true → ((wSlices).slice (32 : Fin 33).val).checking = true)) := by
  decide

theorem witness_slice_rotation_5 :
    ((wSlices.setSlice 32 { checking := true }).clocked = true) ∧ ((wSlices.setSlice 32 { checking := true }).mode (.slice (32 : Fin 33)) ≠ .faulted) ∧ (((true) = true → ((wSlices.setSlice 32 { checking := true }).slice (32 : Fin 33).val).checking = true)) := by
  decide

theorem witness_head_link_packets_1 :
    ((wOn [.hlnk, .head 0, .head 31]).Takes (.laneTrain (hJ) (0x80000001) (1)) opLaneTrain (hJ)) ∧ ((1) ≤ 1) ∧ ((maskList 32 (0x80000001)).any (fun n => ((wOn [.hlnk, .head 0, .head 31]).laneCtx n).any fun e => decide (e.st = .running)) = false) ∧ ((wOn [.hlnk, .head 0, .head 31]).accepts .hlnk = true) ∧ ((maskList 32 (0x80000001)).any (fun n => !(wOn [.hlnk, .head 0, .head 31]).accepts (headLane n).node) = false) ∧ (((maskList 32 (0x80000001)).foldl (fun t n => t.askTrain (headLane n) (1)) ((wOn [.hlnk, .head 0, .head 31]).begun opLaneTrain (hJ))) = (maskList 32 (0x80000001)).foldl (fun t n => t.askTrain (headLane n) (1)) ((wOn [.hlnk, .head 0, .head 31]).begun opLaneTrain (hJ))) := by
  exact ⟨by decide, by decide, by decide, by decide, by decide, rfl⟩

theorem witness_head_link_packets_2 :
    ((wUp 31).Takes (.laneLatency (hJ) (0x80000000) (0)) opLaneLatency (hJ)) ∧ ((wUp 31).accepts .hlnk = true) ∧ ((wUp 31).badAddr (0) (32 * (maskList 32 (0x80000000)).length) = false) ∧ ((maskList 32 (0x80000000)).any (fun l => decide ((wUp 31).lstate (headLane l) ≠ 5)) = false) ∧ (maskList 32 (0x80000000) ≠ []) := by
  decide

theorem witness_head_link_packets_3 :
    ((wUp 31).Takes (.laneLatency (hJ) (0) (0)) opLaneLatency (hJ)) ∧ ((wUp 31).accepts .hlnk = true) ∧ ((wUp 31).badAddr (0) 0 = false) ∧ (maskList 32 (0) = []) := by
  decide

theorem witness_head_link_packets_4 :
    ((wUp 31).Takes (.hubStatus (hJ) (31) (0)) opHubStatus (hJ)) ∧ ((wUp 31).accepts .hlnk = true) ∧ ((31) ≤ 31) ∧ ((wUp 31).badAddr (0) 544 = false) := by
  decide

theorem witness_fire_packets_1 :
    ((wHost (wOn [.fire]) 0 wQuad).Takes (.encConfig (hJ) (3) (1) (0)) opEncConfig (hJ)) ∧ ((wHost (wOn [.fire]) 0 wQuad).accepts .fire = true) ∧ ((3) ≤ 3) ∧ ((1) ≤ 3) ∧ ((wHost (wOn [.fire]) 0 wQuad).paces (3) = false) ∧ ((wHost (wOn [.fire]) 0 wQuad).Reads (0) 64 ((wHost (wOn [.fire]) 0 wQuad).bytesAt 0 64 : List Byte)) ∧ (encBad (1) ((wHost (wOn [.fire]) 0 wQuad).bytesAt 0 64 : List Byte) = false) ∧ ((((wHost (wOn [.fire]) 0 wQuad).begun opEncConfig (hJ)).touch 2 0 64) = ((wHost (wOn [.fire]) 0 wQuad).begun opEncConfig (hJ)).touch 2 (0) 64) := by
  decide

theorem witness_fire_packets_2 :
    ((wHost (wOn [.fire]) 0 wSyn).Takes (.synthSet (hJ) (31) (1) (0)) opSynthSet (hJ)) ∧ ((wHost (wOn [.fire]) 0 wSyn).accepts .fire = true) ∧ ((31) ≤ 31) ∧ ((1) ≤ 1) ∧ ((wHost (wOn [.fire]) 0 wSyn).Reads (0) 64 ((wHost (wOn [.fire]) 0 wSyn).bytesAt 0 64 : List Byte)) ∧ (synthBad ((wHost (wOn [.fire]) 0 wSyn).bytesAt 0 64 : List Byte) = false) ∧ (((wHost (wOn [.fire]) 0 wSyn).groupOwner (31) = 0 ∨ fieldN ((wHost (wOn [.fire]) 0 wSyn).bytesAt 0 64 : List Byte) 0 1 = (wHost (wOn [.fire]) 0 wSyn).rd (R.SYN_STATE_CHANNEL (31)))) ∧ (((1) = 0 ∨ (wHost (wOn [.fire]) 0 wSyn).changePending (.synth (31)) = false ∧ ((wHost (wOn [.fire]) 0 wSyn).syn (31)).later.any (fun e => e.2.isBlock) = false)) ∧ (((((wHost (wOn [.fire]) 0 wSyn).begun opSynthSet (hJ)).touch 2 0 64).dropSteps [] [(31)]) = (((wHost (wOn [.fire]) 0 wSyn).begun opSynthSet (hJ)).touch 2 (0) 64).dropSteps [] [(31)]) := by
  decide

theorem witness_fire_packets_3 :
    (((wOn [.fire]).wr (R.ENC_STATUS_TYPE 0) 1).Takes (.compareSet (hJ) (15) (1) (0) (10)) opCompareSet (hJ)) ∧ (((wOn [.fire]).wr (R.ENC_STATUS_TYPE 0) 1).accepts .fire = true) ∧ ((15) ≤ 15) ∧ ((((wOn [.fire]).wr (R.ENC_STATUS_TYPE 0) 1).cmp (15)).queue.length < 8) ∧ (10 ≤ (10)) ∧ (((wOn [.fire]).wr (R.ENC_STATUS_TYPE 0) 1).rd (R.ENC_STATUS_TYPE (((wOn [.fire]).wr (R.ENC_STATUS_TYPE 0) 1).cmpCh (15))) ≠ 7) ∧ (((((wOn [.fire]).wr (R.ENC_STATUS_TYPE 0) 1).begun opCompareSet (hJ)).setCmp (15) { (((wOn [.fire]).wr (R.ENC_STATUS_TYPE 0) 1).cmp (15)) with queue := (((wOn [.fire]).wr (R.ENC_STATUS_TYPE 0) 1).cmp (15)).queue ++ [⟨some (((wOn [.fire]).wr (R.ENC_STATUS_TYPE 0) 1).asPk opCompareSet (hJ)), toS 64 (0), (10), bit (1) 0, false⟩] }) = (((wOn [.fire]).wr (R.ENC_STATUS_TYPE 0) 1).begun opCompareSet (hJ)).setCmp (15) { (((wOn [.fire]).wr (R.ENC_STATUS_TYPE 0) 1).cmp (15)) with queue := (((wOn [.fire]).wr (R.ENC_STATUS_TYPE 0) 1).cmp (15)).queue ++ [⟨some (((wOn [.fire]).wr (R.ENC_STATUS_TYPE 0) 1).asPk opCompareSet (hJ)), toS 64 (0), (10), bit (1) 0, false⟩] }) := by
  exact ⟨by decide, by decide, by decide, by decide, by decide, by decide, rfl⟩

theorem witness_fire_packets_4 :
    ((wOn [.fire]).Takes (.latchRead (hJ) (7) (0) (1)) opLatchRead (hJ)) ∧ ((wOn [.fire]).accepts .fire = true) ∧ ((7) ≤ 7) ∧ ((wOn [.fire]).badAddr (0) (32 * (1)) = false) := by
  decide

theorem witness_fire_packets_5 :
    ((wOn [.fire]).Takes (.divSet (hJ) (1) (5)) opDivSet (hJ)) ∧ ((wOn [.fire]).accepts .fire = true) ∧ ((1) ≤ 1) ∧ (((((wOn [.fire]).begun opDivSet (hJ)).divDrain (1) (wOn [.fire]).now 64).wr (R.DIV_DIVISOR_D (1)) (5)) = (((wOn [.fire]).begun opDivSet (hJ)).divDrain (1) (wOn [.fire]).now 64).wr (R.DIV_DIVISOR_D (1)) (5)) := by
  exact ⟨by decide, by decide, by decide, rfl⟩

theorem witness_fire_packets_6 :
    ((wOn [.fire]).Takes (.divSet (hJ) (1) (0)) opDivSet (hJ)) ∧ ((wOn [.fire]).accepts .fire = true) ∧ ((1) ≤ 1) ∧ (((((wOn [.fire]).begun opDivSet (hJ)).divDrain (1) (wOn [.fire]).now 64).wr (R.DIV_DIVISOR_D (1)) (0)) = (((wOn [.fire]).begun opDivSet (hJ)).divDrain (1) (wOn [.fire]).now 64).wr (R.DIV_DIVISOR_D (1)) (0)) := by
  exact ⟨by decide, by decide, by decide, rfl⟩

theorem witness_camera_packets_1 :
    ((wOn [.insp, .cams, .cam 7]).Takes (.camConfig (hJ) (7) (0)) opCamConfig (hJ)) ∧ ((wOn [.insp, .cams, .cam 7]).ownCam (7) = some (7)) ∧ ((wOn [.insp, .cams, .cam 7]).accepts (camNode (7)) = true) ∧ ((7) < (wOn [.insp, .cams, .cam 7]).camCount) ∧ ((wOn [.insp, .cams, .cam 7]).Reads (0) 64 ((wOn [.insp, .cams, .cam 7]).bytesAt 0 64 : List Byte)) ∧ ((wOn [.insp, .cams, .cam 7]).camSetBad (camSetOf ((wOn [.insp, .cams, .cam 7]).bytesAt 0 64 : List Byte)) = false) ∧ ((wOn [.insp, .cams, .cam 7]).pixelLoad (wOn [.insp, .cams, .cam 7]).insp.stripes (fun j => if j = (7) then camSetOf ((wOn [.insp, .cams, .cam 7]).bytesAt 0 64 : List Byte) else (wOn [.insp, .cams, .cam 7]).camSet j) ≤ 4000000000) ∧ ((camSetOf ((wOn [.insp, .cams, .cam 7]).bytesAt 0 64 : List Byte)).px * 24 * (wOn [.insp, .cams, .cam 7]).camRate (camSetOf ((wOn [.insp, .cams, .cam 7]).bytesAt 0 64 : List Byte)) ≤ 9700000000) ∧ (((camSetOf ((wOn [.insp, .cams, .cam 7]).bytesAt 0 64 : List Byte)).on = true → (wOn [.insp, .cams, .cam 7]).camUp (7) = true)) ∧ ((((wOn [.insp, .cams, .cam 7]).begun opCamConfig (hJ)).touch 2 0 64) = ((wOn [.insp, .cams, .cam 7]).begun opCamConfig (hJ)).touch 2 (0) 64) := by
  decide

theorem witness_camera_packets_2 :
    (((wOn [.insp, .cams, .cam 7]).wr (R.CAM_STATE_UP (camB 7)) 1).Takes (.camGencp (hJ) (7) (0) (1024) (1024) (2048)) opCamGencp (hJ)) ∧ (((wOn [.insp, .cams, .cam 7]).wr (R.CAM_STATE_UP (camB 7)) 1).ownCam (7) = some (7)) ∧ (((wOn [.insp, .cams, .cam 7]).wr (R.CAM_STATE_UP (camB 7)) 1).accepts (camNode (7)) = true) ∧ ((7) < ((wOn [.insp, .cams, .cam 7]).wr (R.CAM_STATE_UP (camB 7)) 1).camCount) ∧ ((1024) ≠ 0 ∧ (1024) ≤ 1024 ∧ (1024) ≤ 1024) ∧ (((wOn [.insp, .cams, .cam 7]).wr (R.CAM_STATE_UP (camB 7)) 1).badAddr (2048) (1024) = false) ∧ (((wOn [.insp, .cams, .cam 7]).wr (R.CAM_STATE_UP (camB 7)) 1).Reads (0) (1024) (((wOn [.insp, .cams, .cam 7]).wr (R.CAM_STATE_UP (camB 7)) 1).bytesAt 0 1024 : List Byte)) ∧ (((wOn [.insp, .cams, .cam 7]).wr (R.CAM_STATE_UP (camB 7)) 1).camUp (7) = true) ∧ (((((wOn [.insp, .cams, .cam 7]).wr (R.CAM_STATE_UP (camB 7)) 1).begun opCamGencp (hJ)).touch 2 0 1024) = (((wOn [.insp, .cams, .cam 7]).wr (R.CAM_STATE_UP (camB 7)) 1).begun opCamGencp (hJ)).touch 2 (0) (1024)) := by
  decide

theorem witness_camera_packets_3 :
    ((wOn [.insp]).Takes (.stripeSet (hJ) (0) (0)) opStripeSet (hJ)) ∧ ((wOn [.insp]).accepts .insp = true) ∧ ((0) ≤ 64) ∧ ((wOn [.insp]).Reads (0) (32 * (0)) ([] : List Byte)) ∧ (([] : List Byte).length = 32 * (0)) ∧ (([] : List (List Byte)) = chunks 32 (0) ([] : List Byte)) ∧ (([(0, 0)] : List (Nat × Nat)) = ((0), 32 * (0)) :: ([] : List (List Byte)).map fun e => (stripeModel e, 12288)) ∧ (([(0, 0)] : List (Nat × Nat)).any (fun q => (wOn [.insp]).badAddr q.1 q.2 || (wOn [.insp]).dmaFails q.1 q.2 || (wOn [.insp]).poisonedAt q.1 q.2) = false) ∧ (([] : List Stripe) = ([] : List (List Byte)).zipIdx.map fun e => { stripeOf e.1 e.2 with model := (wOn [.insp]).bytesAt (stripeModel e.1) 12288 }) ∧ (([] : List (List Byte)).any stripeBad = false ∧ stripesOrdered ([] : List Stripe) = true ∧ ([] : List Stripe).any (fun y => decide ((wOn [.insp]).camCount ≤ y.lane)) = false ∧ ([] : List Stripe).any (fun y => modelBad y.model) = false) ∧ (([] : List Stripe).any (fun y => match ((wOn [.insp]).ownCam y.lane).map (wOn [.insp]).camSet with | none => false | some set => decide (set.px < y.first + y.px) || (decide (((wOn [.insp]).ctx set.ctx).st ≠ .closed) && (((wOn [.insp]).ctx set.ctx).pass || ((wOn [.insp]).ctx set.ctx).qsOff))) = false) ∧ ((wOn [.insp]).pixelLoad ([] : List Stripe) (wOn [.insp]).camSet ≤ 4000000000) ∧ ((State.voidAll { ((wOn [.insp]).begun opStripeSet (hJ)).touch 2 0 0 with insp := { (((wOn [.insp]).begun opStripeSet (hJ)).touch 2 0 0).insp with stripes := [] } }) = State.voidAll { ([(0, 0)] : List (Nat × Nat)).foldl (fun (t : State) r => t.touch 2 r.1 r.2) ((wOn [.insp]).begun opStripeSet (hJ)) with insp := { (([(0, 0)] : List (Nat × Nat)).foldl (fun (t : State) r => t.touch 2 r.1 r.2) ((wOn [.insp]).begun opStripeSet (hJ))).insp with stripes := ([] : List Stripe) } }) := by
  decide

theorem witness_inspection_rings_1 :
    ((wOn [.insp]).Takes (.statsRead (hJ) (0) (0) (1)) opStatsRead (hJ)) ∧ ((wOn [.insp]).accepts .insp = true) ∧ ((wOn [.insp]).badAddr (0) (48 * min (1) 262144) = false) ∧ ((((wOn [.insp]).begun opStatsRead (hJ)).selectRecords (wOn [.insp]).inspRegion 48 0 0 0 1 : List (Nat × List Byte) × Nat) = ((wOn [.insp]).begun opStatsRead (hJ)).selectRecords (wOn [.insp]).inspRegion 48 (wOn [.insp]).insp.tileHead (wOn [.insp]).insp.tileTail (0) (1)) := by
  decide

theorem witness_inspection_rings_2 :
    ((wOn [.insp]).Takes (.defectRead (hJ) (0) (0) (1)) opDefectRead (hJ)) ∧ ((wOn [.insp]).accepts .insp = true) ∧ ((wOn [.insp]).badAddr (0) (32 * min (1) 262144) = false) ∧ ((((wOn [.insp]).begun opDefectRead (hJ)).selectRecords ((wOn [.insp]).inspRegion + 12 * 2 ^ 20) 32 0 0 0 1 : List (Nat × List Byte) × Nat) = ((wOn [.insp]).begun opDefectRead (hJ)).selectRecords ((wOn [.insp]).inspRegion + 12 * 2 ^ 20) 32 (wOn [.insp]).insp.defHead (wOn [.insp]).insp.defTail (0) (1)) := by
  decide

theorem witness_inspection_rings_3 :
    ((wOn [.cal]).Takes (.calProposals (hJ) (0) (1)) opCalProposals (hJ)) ∧ ((wOn [.cal]).accepts .cal = true) ∧ ((wOn [.cal]).badAddr (0) (16 * min (1) (wOn [.cal]).cal.props.length) = false) := by
  decide

theorem witness_inspection_rings_4 :
    ((wOn [.cal]).Takes (.calPolicy (hJ) (0)) opCalPolicy (hJ)) ∧ ((wOn [.cal]).accepts .cal = true) ∧ ((0) ≤ 2) ∧ ((State.wr (if (0) = 0 ∨ (0) = (wOn [.cal]).calPolicy then (wOn [.cal]).begun opCalPolicy (hJ) else { (wOn [.cal]).begun opCalPolicy (hJ) with cal := { (wOn [.cal]).cal with steps := [] } }) R.CAL_CFG_POLICY (0)) = State.wr (if (0) = 0 ∨ (0) = (wOn [.cal]).calPolicy then (wOn [.cal]).begun opCalPolicy (hJ) else { (wOn [.cal]).begun opCalPolicy (hJ) with cal := { (wOn [.cal]).cal with steps := [] } }) R.CAL_CFG_POLICY (0)) := by
  exact ⟨by decide, by decide, by decide, rfl⟩

theorem witness_inspection_rings_5 :
    ((wOn [.cal]).Takes (.calPolicy (hJ) (1)) opCalPolicy (hJ)) ∧ ((wOn [.cal]).accepts .cal = true) ∧ ((1) ≤ 2) ∧ ((State.wr (if (1) = 0 ∨ (1) = (wOn [.cal]).calPolicy then (wOn [.cal]).begun opCalPolicy (hJ) else { (wOn [.cal]).begun opCalPolicy (hJ) with cal := { (wOn [.cal]).cal with steps := [] } }) R.CAL_CFG_POLICY (1)) = State.wr (if (1) = 0 ∨ (1) = (wOn [.cal]).calPolicy then (wOn [.cal]).begun opCalPolicy (hJ) else { (wOn [.cal]).begun opCalPolicy (hJ) with cal := { (wOn [.cal]).cal with steps := [] } }) R.CAL_CFG_POLICY (1)) := by
  exact ⟨by decide, by decide, by decide, rfl⟩

theorem witness_inspection_rings_6 :
    ((wOn [.cal]).Takes (.calPolicy (hJ) (2)) opCalPolicy (hJ)) ∧ ((wOn [.cal]).accepts .cal = true) ∧ ((2) ≤ 2) ∧ ((State.wr (if (2) = 0 ∨ (2) = (wOn [.cal]).calPolicy then (wOn [.cal]).begun opCalPolicy (hJ) else { (wOn [.cal]).begun opCalPolicy (hJ) with cal := { (wOn [.cal]).cal with steps := [] } }) R.CAL_CFG_POLICY (2)) = State.wr (if (2) = 0 ∨ (2) = (wOn [.cal]).calPolicy then (wOn [.cal]).begun opCalPolicy (hJ) else { (wOn [.cal]).begun opCalPolicy (hJ) with cal := { (wOn [.cal]).cal with steps := [] } }) R.CAL_CFG_POLICY (2)) := by
  exact ⟨by decide, by decide, by decide, rfl⟩

theorem witness_calibration_packets_1 :
    ((wSeed).Takes (.calSeed (hJ) (1) (512)) opCalSeed (hJ)) ∧ ((wSeed).accepts .cal = true) ∧ ((hJ).ctx = (wSeed).calCtx) ∧ (((wSeed).ctx (hJ).ctx).st = .running) ∧ ((1) ≤ 1) ∧ ((512) % (512 * ((wSeed).ctx (hJ).ctx).colorants * ((wSeed).ctx (hJ).ctx).lpr) = 0) ∧ ((wSeed).seedPage ((wSeed).ctx (hJ).ctx) = some ((0, 512) : Nat × Nat)) ∧ ((512) ≤ ((0, 512) : Nat × Nat).2) := by
  decide

theorem witness_calibration_packets_2 :
    (((wOn [.cal]).setCtx 1 { st := .open }).Takes (.calAnchor (hJ) (7) (100) (5)) opCalAnchor (hJ)) ∧ (((wOn [.cal]).setCtx 1 { st := .open }).accepts .cal = true) ∧ ((7) ≤ 7) ∧ ((((wOn [.cal]).setCtx 1 { st := .open }).ctx (hJ).ctx).st ≠ .closed) ∧ ((⟨((wOn [.cal]).setCtx 1 { st := .open }).asPk opCalAnchor (hJ), (7), (100), toS 64 (5), ((wOn [.cal]).setCtx 1 { st := .open }).now⟩ : AnchorPk) = ⟨((wOn [.cal]).setCtx 1 { st := .open }).asPk opCalAnchor (hJ), (7), (100), toS 64 (5), ((wOn [.cal]).setCtx 1 { st := .open }).now⟩) := by
  exact ⟨by decide, by decide, by decide, by decide, rfl⟩

theorem witness_calibration_packets_3 :
    (({ wOn [.cal] with cal := { anchors := [⟨⟨hJ, 0x0902, 0⟩, 7, 0, 0, 0⟩] } }).clocked = true) ∧ (({ wOn [.cal] with cal := { anchors := [⟨⟨hJ, 0x0902, 0⟩, 7, 0, 0, 0⟩] } }).cal.anchors = (⟨⟨hJ, 0x0902, 0⟩, 7, 0, 0, 0⟩ : AnchorPk) :: ([] : List AnchorPk)) ∧ ((⟨⟨hJ, 0x0902, 0⟩, 7, 0, 0, 0⟩ : AnchorPk).since + 160000000000 ≤ (160000000000)) := by
  decide

theorem witness_memory_packets_1 :
    ((wHost (wOn [.mem]) 0 [1, 2, 3]).Takes (.dmaCopy (hJ) (0) (4096) (64)) opDmaCopy (hJ)) ∧ ((wHost (wOn [.mem]) 0 [1, 2, 3]).stalled = false) ∧ ((wHost (wOn [.mem]) 0 [1, 2, 3]).accepts .mem = true) ∧ (misaligned (64) 64 = false) ∧ ((wHost (wOn [.mem]) 0 [1, 2, 3]).badAddr (0) (64) = false ∧ (wHost (wOn [.mem]) 0 [1, 2, 3]).badAddr (4096) (64) = false) ∧ ((wHost (wOn [.mem]) 0 [1, 2, 3]).dmaFails (0) (64) = false ∧ (wHost (wOn [.mem]) 0 [1, 2, 3]).dmaFails (4096) (64) = false) ∧ (((wHost (wOn [.mem]) 0 [1, 2, 3]).begun opDmaCopy (hJ)) = (wHost (wOn [.mem]) 0 [1, 2, 3]).begun opDmaCopy (hJ)) := by
  exact ⟨by decide, by decide, by decide, by decide, by decide, by decide, rfl⟩

theorem witness_memory_packets_2 :
    ((wDram).Takes (.memRetire (hS) (2 ^ 63 + (2 ^ 30 - 2 ^ 27 - 65536))) opMemRetire (hS)) ∧ ((wDram).accepts .mem = true) ∧ (isDram (2 ^ 63 + (2 ^ 30 - 2 ^ 27 - 65536)) = true ∧ (wDram).badAddr (2 ^ 63 + (2 ^ 30 - 2 ^ 27 - 65536)) 65536 = false) ∧ (misaligned (dramAddr (2 ^ 63 + (2 ^ 30 - 2 ^ 27 - 65536))) 65536 = false) ∧ (dramAddr (2 ^ 63 + (2 ^ 30 - 2 ^ 27 - 65536)) + 65536 ≤ (wDram).reservedBase) ∧ ((wDram).pageInSilo (dramAddr (2 ^ 63 + (2 ^ 30 - 2 ^ 27 - 65536))) = false) ∧ ((wDram).retired.contains (dramAddr (2 ^ 63 + (2 ^ 30 - 2 ^ 27 - 65536)) / 65536) = false) ∧ ((wDram).retired.length < 4096) ∧ (({ (wDram).begun opMemRetire (hS) with retired := (wDram).retired ++ [dramAddr (2 ^ 63 + (2 ^ 30 - 2 ^ 27 - 65536)) / 65536] }) = { (wDram).begun opMemRetire (hS) with retired := (wDram).retired ++ [dramAddr (2 ^ 63 + (2 ^ 30 - 2 ^ 27 - 65536)) / 65536] }) := by
  exact ⟨by decide, by decide, by decide, by decide, by decide, by decide, by decide, by decide, rfl⟩

theorem witness_memory_packets_3 :
    (({ wDram with retired := [14335] }).Takes (.memRetire (hS) (2 ^ 63 + (2 ^ 30 - 2 ^ 27 - 65536))) opMemRetire (hS)) ∧ (({ wDram with retired := [14335] }).accepts .mem = true) ∧ (isDram (2 ^ 63 + (2 ^ 30 - 2 ^ 27 - 65536)) = true ∧ ({ wDram with retired := [14335] }).badAddr (2 ^ 63 + (2 ^ 30 - 2 ^ 27 - 65536)) 65536 = false) ∧ (misaligned (dramAddr (2 ^ 63 + (2 ^ 30 - 2 ^ 27 - 65536))) 65536 = false) ∧ (dramAddr (2 ^ 63 + (2 ^ 30 - 2 ^ 27 - 65536)) + 65536 ≤ ({ wDram with retired := [14335] }).reservedBase) ∧ (({ wDram with retired := [14335] }).pageInSilo (dramAddr (2 ^ 63 + (2 ^ 30 - 2 ^ 27 - 65536))) = false) ∧ (({ wDram with retired := [14335] }).retired.contains (dramAddr (2 ^ 63 + (2 ^ 30 - 2 ^ 27 - 65536)) / 65536) = true) := by
  decide

theorem witness_memory_packets_4 :
    (({ wDram with retired := List.replicate 4096 0 }).Takes (.memRetire (hS) (2 ^ 63 + (2 ^ 30 - 2 ^ 27 - 65536))) opMemRetire (hS)) ∧ (({ wDram with retired := List.replicate 4096 0 }).accepts .mem = true) ∧ (isDram (2 ^ 63 + (2 ^ 30 - 2 ^ 27 - 65536)) = true ∧ ({ wDram with retired := List.replicate 4096 0 }).badAddr (2 ^ 63 + (2 ^ 30 - 2 ^ 27 - 65536)) 65536 = false) ∧ (misaligned (dramAddr (2 ^ 63 + (2 ^ 30 - 2 ^ 27 - 65536))) 65536 = false) ∧ (dramAddr (2 ^ 63 + (2 ^ 30 - 2 ^ 27 - 65536)) + 65536 ≤ ({ wDram with retired := List.replicate 4096 0 }).reservedBase) ∧ (({ wDram with retired := List.replicate 4096 0 }).pageInSilo (dramAddr (2 ^ 63 + (2 ^ 30 - 2 ^ 27 - 65536))) = false) ∧ (({ wDram with retired := List.replicate 4096 0 }).retired.contains (dramAddr (2 ^ 63 + (2 ^ 30 - 2 ^ 27 - 65536)) / 65536) = false) ∧ (4096 ≤ ({ wDram with retired := List.replicate 4096 0 }).retired.length) := by
  refine ⟨by decide, by decide, by decide, by decide, by decide, by decide, ?_, ?_⟩
  · show (List.replicate 4096 0).contains 14335 = false
    rw [List.contains_eq_mem]
    exact decide_eq_false (fun e => absurd (List.eq_of_mem_replicate e) (by decide))
  · exact (List.length_replicate ..).ge

theorem witness_memory_packets_5 : ∃ row,
    wDram.Takes (.memRemap hS 0 row) opMemRemap hS ∧ wDram.accepts .mem = true ∧ wDram.channels.contains 0 = true ∧ row < 2 ^ 22 ∧
      (wDram.remapped 0).contains row = false ∧ (List.range 32).any (fun k => decide (Config.spareRow 0 k % 2 ^ 22 = row)) = false ∧
      wDram.sparesLeft 0 ≠ 0 := by
  have hx : ∃ row, row < 33 ∧ row ∉ (List.range 32).map fun k => Config.spareRow 0 k % 2 ^ 22 := by
    by_contra hc
    push Not at hc
    have hsub : List.range 33 ⊆ (List.range 32).map fun k => Config.spareRow 0 k % 2 ^ 22 := by
      intro r hr
      exact hc r (List.mem_range.mp hr)
    have hlen := (List.nodup_range.subperm hsub).length_le
    simp at hlen
  obtain ⟨row, h1, h2⟩ := hx
  refine ⟨row, ⟨rfl, by decide, by decide⟩, by decide, by decide, by omega, rfl, ?_, by decide⟩
  simp only [List.any_eq_false, decide_eq_true_eq]
  intro k hk e
  exact h2 (List.mem_map.mpr ⟨k, hk, e⟩)

theorem witness_memory_packets_6 :
    ((wOn [.mem]).Takes (.memLogRead (hJ) (0) (1)) opMemLogRead (hJ)) ∧ ((wOn [.mem]).accepts .mem = true) ∧ ((wOn [.mem]).badAddr (0) (32 * (1)) = false) ∧ ((([] : List MemRec) : List MemRec) = (wOn [.mem]).memLog.take (1)) ∧ ((([] : List Nat) : List Nat) = (List.range (([] : List MemRec) : List MemRec).length).map fun i => (wOn [.mem]).logAddr ((wOn [.mem]).mem.logTail + i)) ∧ (((wOn [.mem]).begun opMemLogRead (hJ)) = (([] : List Nat) : List Nat).foldl (fun (u : State) a => u.noteRead 0xA a 32) ((wOn [.mem]).begun opMemLogRead (hJ))) ∧ ((((wOn [.mem]).begun opMemLogRead (hJ)).takeRecords 1) = (([] : List Nat) : List Nat).foldl (fun (u : State) a => u.cleanWords a 32) (((wOn [.mem]).begun opMemLogRead (hJ)).takeRecords (1))) ∧ ((([] : List Nat) : List Nat).find? (fun a => ((wOn [.mem]).begun opMemLogRead (hJ)).dramBad a 32) = none) := by
  decide

theorem witness_memory_packets_7 :
    ((wLog).Takes (.memLogRead (hJ) (0) (1)) opMemLogRead (hJ)) ∧ ((wLog).accepts .mem = true) ∧ ((wLog).badAddr (0) (32 * (1)) = false) ∧ ((wLog.memLog : List MemRec) = (wLog).memLog.take (1)) ∧ (([wLog.logAddr 0] : List Nat) = (List.range (wLog.memLog : List MemRec).length).map fun i => (wLog).logAddr ((wLog).mem.logTail + i)) ∧ ((((wLog).begun opMemLogRead (hJ)).noteRead 0xA (wLog.logAddr 0) 32) = ([wLog.logAddr 0] : List Nat).foldl (fun (u : State) a => u.noteRead 0xA a 32) ((wLog).begun opMemLogRead (hJ))) ∧ ((State.cleanWords ((((wLog).begun opMemLogRead (hJ)).noteRead 0xA (wLog.logAddr 0) 32).takeRecords 1) (wLog.logAddr 0) 32) = ([wLog.logAddr 0] : List Nat).foldl (fun (u : State) a => u.cleanWords a 32) ((((wLog).begun opMemLogRead (hJ)).noteRead 0xA (wLog.logAddr 0) 32).takeRecords (1))) ∧ (([wLog.logAddr 0] : List Nat).find? (fun a => (((wLog).begun opMemLogRead (hJ)).noteRead 0xA (wLog.logAddr 0) 32).dramBad a 32) = some (wLog.logAddr 0)) := by
  decide

theorem witness_narrow_access_1 :
    ((State.reset).HostReaches) := by
  decide

theorem witness_narrow_access_2 :
    ((State.reset).HostReaches) ∧ ((3#4 : BitVec 4) ≠ 15#4) := by
  decide

theorem witness_register_access_1 :
    ((State.reset).HostReaches) ∧ (granAt (4 * (5)) = false) ∧ (msixAt (4 * (5)) = false) ∧ (headerGap (4 * (5)) = false) ∧ (regAt (4 * (5)) = some (wHit 20 : Hit)) ∧ ((wHit 20 : Hit).reg.words = 1) ∧ ((State.reset).writeRefused (wHit 20 : Hit) ((wHit 20 : Hit).reg.off + (wHit 20 : Hit).reg.stride * (wHit 20 : Hit).idx) ((0xFFFFFFFF : Word).toNat * 2 ^ (32 * (wHit 20 : Hit).word)) = false) ∧ ((State.reset).writeAct (wHit 20 : Hit) ((wHit 20 : Hit).reg.off + (wHit 20 : Hit).reg.stride * (wHit 20 : Hit).idx) ((0xFFFFFFFF : Word).toNat * 2 ^ (32 * (wHit 20 : Hit).word)) = none) := by
  decide

theorem witness_register_access_2 :
    ((State.reset).HostReaches) ∧ (granAt (4 * (0xF000C0 / 4)) = false) ∧ (msixAt (4 * (0xF000C0 / 4)) = false) ∧ (headerGap (4 * (0xF000C0 / 4)) = false) ∧ (regAt (4 * (0xF000C0 / 4)) = some (wHit 0xF000C0 : Hit)) ∧ ((wHit 0xF000C0 : Hit).reg.words = 1) ∧ ((State.reset).writeRefused (wHit 0xF000C0 : Hit) ((wHit 0xF000C0 : Hit).reg.off + (wHit 0xF000C0 : Hit).reg.stride * (wHit 0xF000C0 : Hit).idx) ((1 : Word).toNat * 2 ^ (32 * (wHit 0xF000C0 : Hit).word)) = true) := by
  decide

theorem witness_register_access_3 :
    ((State.reset).HostReaches) ∧ (granAt (4 * ((0x100044) / 4)) = false) ∧ (msixAt (4 * ((0x100044) / 4)) = false) ∧ (headerGap (4 * ((0x100044) / 4)) = false) ∧ (regAt (4 * ((0x100044) / 4)) = some (wHit 0x100044 : Hit)) ∧ ((wHit 0x100044 : Hit).reg.words = 2) ∧ ((wHit 0x100044 : Hit).word = 1) ∧ ((State.reset).writeGated (wHit 0x100044 : Hit) ((wHit 0x100044 : Hit).reg.off + (wHit 0x100044 : Hit).reg.stride * (wHit 0x100044 : Hit).idx) = false) := by
  decide

theorem witness_register_access_4 :
    ((wOn [.cmd, .rings, .ring 0]).HostReaches) ∧ (granAt (4 * (((Node.ring 0).base + 0x44) / 4)) = false) ∧ (msixAt (4 * (((Node.ring 0).base + 0x44) / 4)) = false) ∧ (headerGap (4 * (((Node.ring 0).base + 0x44) / 4)) = false) ∧ (regAt (4 * (((Node.ring 0).base + 0x44) / 4)) = some (wHit ((Node.ring 0).base + 0x44) : Hit)) ∧ ((wHit ((Node.ring 0).base + 0x44) : Hit).reg.words = 2) ∧ ((wHit ((Node.ring 0).base + 0x44) : Hit).word = 1) ∧ ((wOn [.cmd, .rings, .ring 0]).writeGated (wHit ((Node.ring 0).base + 0x44) : Hit) ((wHit ((Node.ring 0).base + 0x44) : Hit).reg.off + (wHit ((Node.ring 0).base + 0x44) : Hit).reg.stride * (wHit ((Node.ring 0).base + 0x44) : Hit).idx) = true) := by
  decide +kernel

theorem witness_register_access_5 :
    (({ State.reset with staged := [(0x100040 / 4 + 1, some 3)] }).HostReaches) ∧ (granAt (4 * (0x100040 / 4)) = false) ∧ (msixAt (4 * (0x100040 / 4)) = false) ∧ (headerGap (4 * (0x100040 / 4)) = false) ∧ (regAt (4 * (0x100040 / 4)) = some (wHit 0x100040 : Hit)) ∧ ((wHit 0x100040 : Hit).reg.words = 2) ∧ ((wHit 0x100040 : Hit).word = 0) ∧ (tget none ({ State.reset with staged := [(0x100040 / 4 + 1, some 3)] }).staged ((0x100040 / 4) + 1) = some (3)) := by
  decide

theorem witness_register_access_6 :
    ((State.reset).HostReaches) ∧ (granAt (4 * (16)) = false) ∧ (msixAt (4 * (16)) = false) ∧ (headerGap (4 * (16)) = false) ∧ (4 * (16) ≠ 0xF00068) ∧ (regAt (4 * (16)) = some (wHit 64 : Hit)) ∧ ((wHit 64 : Hit).word = 0) ∧ ((wHit 64 : Hit).reg.words = 1) ∧ ((wHit 64 : Hit).wordFields.filter (fun f => decide (f.ty = .rc)) = []) := by
  decide

theorem witness_register_access_7 :
    ((State.reset).HostReaches) ∧ (granAt (4 * (0x100040 / 4)) = false) ∧ (msixAt (4 * (0x100040 / 4)) = false) ∧ (headerGap (4 * (0x100040 / 4)) = false) ∧ (4 * (0x100040 / 4) ≠ 0xF00068) ∧ (regAt (4 * (0x100040 / 4)) = some (wHit 0x100040 : Hit)) ∧ ((wHit 0x100040 : Hit).word = 0) ∧ ((wHit 0x100040 : Hit).reg.words = 2) ∧ ((wHit 0x100040 : Hit).wordFields.filter (fun f => decide (f.ty = .rc)) = []) := by
  decide

theorem witness_register_access_8 :
    (({ State.reset with captured := [(0x100044 / 4, some 3)] }).HostReaches) ∧ (granAt (4 * (0x100044 / 4)) = false) ∧ (msixAt (4 * (0x100044 / 4)) = false) ∧ (headerGap (4 * (0x100044 / 4)) = false) ∧ (4 * (0x100044 / 4) ≠ 0xF00068) ∧ (regAt (4 * (0x100044 / 4)) = some (wHit 0x100044 : Hit)) ∧ ((wHit 0x100044 : Hit).word = 1) ∧ (tget none ({ State.reset with captured := [(0x100044 / 4, some 3)] }).captured (0x100044 / 4) = some (3)) ∧ ((wHit 0x100044 : Hit).wordFields.filter (fun f => decide (f.ty = .rc)) = []) := by
  decide

theorem witness_register_access_9 :
    ((State.reset).HostReaches) ∧ (granAt (4 * ((Node.mem.base + 0x50) / 4)) = false) ∧ (msixAt (4 * ((Node.mem.base + 0x50) / 4)) = false) ∧ (headerGap (4 * ((Node.mem.base + 0x50) / 4)) = false) ∧ (4 * ((Node.mem.base + 0x50) / 4) ≠ 0xF00068) ∧ (regAt (4 * ((Node.mem.base + 0x50) / 4)) = some (wHit (Node.mem.base + 0x50) : Hit)) ∧ ((wHit (Node.mem.base + 0x50) : Hit).word = 0) ∧ ((wHit (Node.mem.base + 0x50) : Hit).reg.words = 1) := by
  decide

theorem witness_register_access_10 :
    ((State.reset).HostReaches) := by
  decide

theorem witness_register_access_11 :
    ((State.reset).HostReaches) ∧ (granAt (4 * (0x200)) = false) ∧ (msixAt (4 * (0x200)) = false) ∧ (headerGap (4 * (0x200)) = false) ∧ (regAt (4 * (0x200)) = none) := by
  decide

theorem witness_register_access_12 :
    ((State.reset).HostReaches) ∧ (granAt (4 * (0x200)) = false) ∧ (msixAt (4 * (0x200)) = false) ∧ (headerGap (4 * (0x200)) = false) ∧ (regAt (4 * (0x200)) = none) := by
  decide

theorem witness_unit_control_1 :
    ((wOn [.cal]).HostReaches) ∧ ((wOn [.cal]).mode (.cal : Node) ≠ .faulted) ∧ ((.cal : Node) ≠ .sys) ∧ ((false) = false → (wOn [.cal]).noDrain (.cal : Node) = false) := by
  decide

theorem witness_unit_control_2 :
    ((State.reset).HostReaches) ∧ ((State.reset).mode .sys ≠ .faulted) := by
  decide

theorem witness_unit_control_3 :
    ((State.reset.setMode .cal .faulted).HostReaches) ∧ ((State.reset.setMode .cal .faulted).mode (.cal : Node) = .faulted) := by
  decide

theorem witness_unit_control_4 :
    ((State.reset).HostReaches) ∧ ((.hlth : Node) ≠ .sys) ∧ ((State.reset).noDrain (.hlth : Node) = true) := by
  decide

theorem witness_unit_control_5 :
    ((wOn [.cal]).HostReaches) ∧ ((wOn [.cal]).mode (.cal : Node) ≠ .faulted) ∧ ((.cal : Node) ≠ .sys) ∧ ((true) = false ∨ (wOn [.cal]).noDrain (.cal : Node) = false) := by
  decide

theorem witness_unit_control_6 :
    ((State.reset.setMode .cal .faulted).HostReaches) ∧ ((State.reset.setMode .cal .faulted).mode (.cal : Node) = .faulted ∨ ((true) = true ∧ (State.reset.setMode .cal .faulted).noDrain (.cal : Node) = true)) := by
  decide

theorem witness_unit_control_7 :
    ((State.reset).HostReaches) ∧ ((State.reset).mode .sys ≠ .faulted) ∧ ((false) = true → (State.reset).noDrain .sys = false) := by
  decide

theorem witness_unit_control_8 :
    ((wOn [.cal]).HostReaches) ∧ ((wOn [.cal]).mode (.cal : Node) ≠ .faulted) ∧ ((.cal : Node) ≠ .sys) ∧ ((.cal : Node) ≠ .hlth) ∧ ((.cal : Node) ≠ .mem) := by
  decide

theorem witness_unit_control_9 :
    ((wOn [.mem]).HostReaches) ∧ ((wOn [.mem]).mode (.mem : Node) = .faulted ∨ (.mem : Node) = .sys ∨ (.mem : Node) = .hlth ∨ (.mem : Node) = .mem) := by
  decide

theorem witness_unit_control_10 :
    ((State.reset).HostReaches) := by
  decide

theorem witness_unit_control_11 :
    ((State.reset).HostReaches) := by
  decide

theorem witness_unit_control_12 :
    ((State.reset).HostReaches) := by
  decide

theorem witness_unit_control_13 :
    ((State.reset).HostReaches) := by
  decide

theorem witness_unit_control_14 :
    ((State.reset).HostReaches) ∧ ((.cal : Node) ≠ .sys) ∧ ((.cal : Node) ≠ .cmd) ∧ ((.cal : Node) ≠ .hlth) ∧ ((.cal : Node) ≠ .sec) := by
  decide

theorem witness_drains_and_aborts_1 :
    (((wOn [.cal]).wr (R.UNIT_CTRL_ABORT Node.cal.base) 1).flag (R.UNIT_CTRL_ABORT (.cal : Node).base) = true) := by
  decide

theorem witness_drains_and_aborts_2 :
    (((wOn [.cal]).setMode .cal .draining).mode (.cal : Node) = .draining) ∧ (((wOn [.cal]).setMode .cal .draining).drainBusy (.cal : Node) = false) := by
  decide

theorem witness_drains_and_aborts_3 :
    ((State.setMode { (wOn [.glean]) with gl := { test := some (.cal, 0) } } .glean .draining).mode (.glean : Node) = .draining) ∧ ((State.setMode { (wOn [.glean]) with gl := { test := some (.cal, 0) } } .glean .draining).drainBusy (.glean : Node) = true) ∧ ((.glean : Node).subtree = [(.glean : Node)]) ∧ ((State.abortOne { (State.setMode { (wOn [.glean]) with gl := { test := some (.cal, 0) } } .glean .draining) with drains := (State.setMode { (wOn [.glean]) with gl := { test := some (.cal, 0) } } .glean .draining).drains.filter fun w => decide (w.node ≠ (.glean : Node)) } (.glean : Node)) = State.abortOne { (State.setMode { (wOn [.glean]) with gl := { test := some (.cal, 0) } } .glean .draining) with drains := (State.setMode { (wOn [.glean]) with gl := { test := some (.cal, 0) } } .glean .draining).drains.filter fun w => decide (w.node ≠ (.glean : Node)) } (.glean : Node)) := by
  exact ⟨by decide, by decide, by decide, rfl⟩

theorem witness_drains_and_aborts_4 :
    ((State.setMode { (wOn [.glean]) with gl := { test := some (.cal, 0) } } .glean .draining).mode (.glean : Node) = .draining) ∧ ((State.setMode { (wOn [.glean]) with gl := { test := some (.cal, 0) } } .glean .draining).drainBusy (.glean : Node) = true) := by
  decide

theorem witness_unit_faults_1 :
    ((.bale : Node) ≠ .sys) ∧ ((.bale : Node) ≠ .cmd) ∧ (∀ k, (.bale : Node) ≠ .slice k) ∧ ((wOn [.bale]).mode (.bale : Node) ≠ .faulted) ∧ ((wOn [.bale]).mode (.bale : Node) = .normal → (wOn [.bale]).enabled (.bale : Node) = true) ∧ (((wOn [.bale])) = match (wOn [.bale]).gl.test with | some (m, _) => (if m = (.bale : Node) then (wOn [.bale]).breakTest else (wOn [.bale])) | none => (wOn [.bale])) := by
  refine ⟨by decide, by decide, ?_, by decide, by decide, rfl⟩
  intro k hk
  cases hk

theorem witness_unit_faults_2 :
    ((.mem : Node) ≠ .sys) ∧ ((.mem : Node) ≠ .cmd) ∧ (∀ k, (.mem : Node) ≠ .slice k) ∧ ((State.setMode { (wOn [.glean, .mem]) with gl := { test := some (.mem, 0) } } .mem .testing).mode (.mem : Node) ≠ .faulted) ∧ ((State.setMode { (wOn [.glean, .mem]) with gl := { test := some (.mem, 0) } } .mem .testing).mode (.mem : Node) = .normal → (State.setMode { (wOn [.glean, .mem]) with gl := { test := some (.mem, 0) } } .mem .testing).enabled (.mem : Node) = true) ∧ (((State.setMode { (wOn [.glean, .mem]) with gl := { test := some (.mem, 0) } } .mem .testing).breakTest) = match (State.setMode { (wOn [.glean, .mem]) with gl := { test := some (.mem, 0) } } .mem .testing).gl.test with | some (m, _) => (if m = (.mem : Node) then (State.setMode { (wOn [.glean, .mem]) with gl := { test := some (.mem, 0) } } .mem .testing).breakTest else (State.setMode { (wOn [.glean, .mem]) with gl := { test := some (.mem, 0) } } .mem .testing)) | none => (State.setMode { (wOn [.glean, .mem]) with gl := { test := some (.mem, 0) } } .mem .testing)) := by
  refine ⟨by decide, by decide, ?_, by decide, by decide, rfl⟩
  intro k hk
  cases hk

theorem witness_unit_faults_3 :
    ((((wOn [.bale]).setMode .bale .faulted).setHolding .bale ⟨1, 0, 0, []⟩).clocked = true) ∧ ((.bale : Node) ≠ .sys) ∧ ((((wOn [.bale]).setMode .bale .faulted).setHolding .bale ⟨1, 0, 0, []⟩).mode (.bale : Node) = .faulted) ∧ ((((wOn [.bale]).setMode .bale .faulted).setHolding .bale ⟨1, 0, 0, []⟩).holding (.bale : Node) ≠ {}) := by
  decide

theorem witness_unit_faults_4 :
    ((wOn [.bale]).clocked = true) ∧ ((.bale : Node) ≠ .sys) ∧ ((wOn [.bale]).mode (.bale : Node) ≠ .faulted) ∧ ((wOn [.bale]).enabled (.bale : Node) = true) ∧ (((((wOn [.bale]).dropWork (.bale : Node) .creditTimeout 0 0 0).faultNode (.bale : Node) .creditTimeout).endDrainWaits (.bale : Node) .drainTimeout ((wOn [.bale]).work (.bale : Node))) = ((if (.bale : Node) = .cmd then (wOn [.bale]).dropCmd else (wOn [.bale]).dropWork (.bale : Node) .creditTimeout 0 0 0).faultNode (.bale : Node) .creditTimeout).endDrainWaits (.bale : Node) .drainTimeout ((wOn [.bale]).work (.bale : Node))) := by
  decide

theorem witness_unit_faults_5 :
    ((wOn [.cmd]).mode .cmd ≠ .faulted) ∧ ((wOn [.cmd]).enabled .cmd = true) ∧ (((wOn [.cmd])) = (wOn [.cmd]).rings.foldl (fun (q : State) e => q.setRing e.1 { (q.ring e.1) with fetched := [], started := [], held := [] }) (wOn [.cmd])) := by
  decide

theorem witness_doorbells_1 :
    (((wOn [.cmd, .rings, .ring 3]).wr (R.RING_CFG_LOG2_ENTRIES (Node.ring 3).base) 8).HostReaches) ∧ (((Node.ring (3 : Fin 256)).base) = (Node.ring (3 : Fin 256)).base) ∧ ((((wOn [.cmd, .rings, .ring 3]).wr (R.RING_CFG_LOG2_ENTRIES (Node.ring 3).base) 8).entries (3 : Fin 256)) = ((wOn [.cmd, .rings, .ring 3]).wr (R.RING_CFG_LOG2_ENTRIES (Node.ring 3).base) 8).entries (3 : Fin 256)) ∧ (((9 : Word).toNat % 65536) = (9 : Word).toNat % 65536) ∧ (((wOn [.cmd, .rings, .ring 3]).wr (R.RING_CFG_LOG2_ENTRIES (Node.ring 3).base) 8).enabled (.ring (3 : Fin 256)) = true) ∧ (((9 : Word).toNat % 65536) < (((wOn [.cmd, .rings, .ring 3]).wr (R.RING_CFG_LOG2_ENTRIES (Node.ring 3).base) 8).entries (3 : Fin 256))) ∧ ((((9 : Word).toNat % 65536) + (((wOn [.cmd, .rings, .ring 3]).wr (R.RING_CFG_LOG2_ENTRIES (Node.ring 3).base) 8).entries (3 : Fin 256)) - ((wOn [.cmd, .rings, .ring 3]).wr (R.RING_CFG_LOG2_ENTRIES (Node.ring 3).base) 8).rd (R.RING_SQ_HEAD_HEAD ((Node.ring (3 : Fin 256)).base)) % (((wOn [.cmd, .rings, .ring 3]).wr (R.RING_CFG_LOG2_ENTRIES (Node.ring 3).base) 8).entries (3 : Fin 256))) % (((wOn [.cmd, .rings, .ring 3]).wr (R.RING_CFG_LOG2_ENTRIES (Node.ring 3).base) 8).entries (3 : Fin 256)) ≤ (((wOn [.cmd, .rings, .ring 3]).wr (R.RING_CFG_LOG2_ENTRIES (Node.ring 3).base) 8).entries (3 : Fin 256)) - 1) := by
  exact ⟨by decide, rfl, rfl, rfl, by decide, by decide, by decide⟩

theorem witness_doorbells_2 :
    (((wOn [.cmd, .rings, .ring 3]).wr (R.RING_CFG_LOG2_ENTRIES (Node.ring 3).base) 8).HostReaches) ∧ (((Node.ring (3 : Fin 256)).base) = (Node.ring (3 : Fin 256)).base) ∧ ((((wOn [.cmd, .rings, .ring 3]).wr (R.RING_CFG_LOG2_ENTRIES (Node.ring 3).base) 8).entries (3 : Fin 256)) = ((wOn [.cmd, .rings, .ring 3]).wr (R.RING_CFG_LOG2_ENTRIES (Node.ring 3).base) 8).entries (3 : Fin 256)) ∧ (((4096 : Word).toNat % 65536) = (4096 : Word).toNat % 65536) ∧ (((wOn [.cmd, .rings, .ring 3]).wr (R.RING_CFG_LOG2_ENTRIES (Node.ring 3).base) 8).enabled (.ring (3 : Fin 256)) = true) ∧ ((((wOn [.cmd, .rings, .ring 3]).wr (R.RING_CFG_LOG2_ENTRIES (Node.ring 3).base) 8).entries (3 : Fin 256)) ≤ ((4096 : Word).toNat % 65536) ∨ (((wOn [.cmd, .rings, .ring 3]).wr (R.RING_CFG_LOG2_ENTRIES (Node.ring 3).base) 8).entries (3 : Fin 256)) - 1 < (((4096 : Word).toNat % 65536) + (((wOn [.cmd, .rings, .ring 3]).wr (R.RING_CFG_LOG2_ENTRIES (Node.ring 3).base) 8).entries (3 : Fin 256)) - ((wOn [.cmd, .rings, .ring 3]).wr (R.RING_CFG_LOG2_ENTRIES (Node.ring 3).base) 8).rd (R.RING_SQ_HEAD_HEAD ((Node.ring (3 : Fin 256)).base)) % (((wOn [.cmd, .rings, .ring 3]).wr (R.RING_CFG_LOG2_ENTRIES (Node.ring 3).base) 8).entries (3 : Fin 256))) % (((wOn [.cmd, .rings, .ring 3]).wr (R.RING_CFG_LOG2_ENTRIES (Node.ring 3).base) 8).entries (3 : Fin 256))) := by
  exact ⟨by decide, rfl, rfl, rfl, by decide, by decide⟩

theorem witness_doorbells_3 :
    ((State.reset).HostReaches) ∧ ((State.reset).enabled (.ring (3 : Fin 256)) = false) := by
  decide

theorem witness_doorbells_4 :
    ((((wOn [.cmd, .rings, .ring 3]).wr (R.RING_CFG_LOG2_ENTRIES (Node.ring 3).base) 8).setRing 3 { used := 9 }).HostReaches) ∧ (((Node.ring (3 : Fin 256)).base) = (Node.ring (3 : Fin 256)).base) ∧ (((((wOn [.cmd, .rings, .ring 3]).wr (R.RING_CFG_LOG2_ENTRIES (Node.ring 3).base) 8).setRing 3 { used := 9 }).entries (3 : Fin 256)) = (((wOn [.cmd, .rings, .ring 3]).wr (R.RING_CFG_LOG2_ENTRIES (Node.ring 3).base) 8).setRing 3 { used := 9 }).entries (3 : Fin 256)) ∧ (((9 : Word).toNat % 65536) = (9 : Word).toNat % 65536) ∧ ((((wOn [.cmd, .rings, .ring 3]).wr (R.RING_CFG_LOG2_ENTRIES (Node.ring 3).base) 8).setRing 3 { used := 9 }).enabled (.ring (3 : Fin 256)) = true) ∧ (((9 : Word).toNat % 65536) < ((((wOn [.cmd, .rings, .ring 3]).wr (R.RING_CFG_LOG2_ENTRIES (Node.ring 3).base) 8).setRing 3 { used := 9 }).entries (3 : Fin 256))) ∧ (((((9 : Word).toNat % 65536) + ((((wOn [.cmd, .rings, .ring 3]).wr (R.RING_CFG_LOG2_ENTRIES (Node.ring 3).base) 8).setRing 3 { used := 9 }).entries (3 : Fin 256)) - (((wOn [.cmd, .rings, .ring 3]).wr (R.RING_CFG_LOG2_ENTRIES (Node.ring 3).base) 8).setRing 3 { used := 9 }).rd (R.RING_CQ_HEAD_HEAD ((Node.ring (3 : Fin 256)).base)) % ((((wOn [.cmd, .rings, .ring 3]).wr (R.RING_CFG_LOG2_ENTRIES (Node.ring 3).base) 8).setRing 3 { used := 9 }).entries (3 : Fin 256))) % ((((wOn [.cmd, .rings, .ring 3]).wr (R.RING_CFG_LOG2_ENTRIES (Node.ring 3).base) 8).setRing 3 { used := 9 }).entries (3 : Fin 256))) = (((9 : Word).toNat % 65536) + ((((wOn [.cmd, .rings, .ring 3]).wr (R.RING_CFG_LOG2_ENTRIES (Node.ring 3).base) 8).setRing 3 { used := 9 }).entries (3 : Fin 256)) - (((wOn [.cmd, .rings, .ring 3]).wr (R.RING_CFG_LOG2_ENTRIES (Node.ring 3).base) 8).setRing 3 { used := 9 }).rd (R.RING_CQ_HEAD_HEAD ((Node.ring (3 : Fin 256)).base)) % ((((wOn [.cmd, .rings, .ring 3]).wr (R.RING_CFG_LOG2_ENTRIES (Node.ring 3).base) 8).setRing 3 { used := 9 }).entries (3 : Fin 256))) % ((((wOn [.cmd, .rings, .ring 3]).wr (R.RING_CFG_LOG2_ENTRIES (Node.ring 3).base) 8).setRing 3 { used := 9 }).entries (3 : Fin 256))) ∧ (((((9 : Word).toNat % 65536) + ((((wOn [.cmd, .rings, .ring 3]).wr (R.RING_CFG_LOG2_ENTRIES (Node.ring 3).base) 8).setRing 3 { used := 9 }).entries (3 : Fin 256)) - (((wOn [.cmd, .rings, .ring 3]).wr (R.RING_CFG_LOG2_ENTRIES (Node.ring 3).base) 8).setRing 3 { used := 9 }).rd (R.RING_CQ_HEAD_HEAD ((Node.ring (3 : Fin 256)).base)) % ((((wOn [.cmd, .rings, .ring 3]).wr (R.RING_CFG_LOG2_ENTRIES (Node.ring 3).base) 8).setRing 3 { used := 9 }).entries (3 : Fin 256))) % ((((wOn [.cmd, .rings, .ring 3]).wr (R.RING_CFG_LOG2_ENTRIES (Node.ring 3).base) 8).setRing 3 { used := 9 }).entries (3 : Fin 256))) ≤ ((((wOn [.cmd, .rings, .ring 3]).wr (R.RING_CFG_LOG2_ENTRIES (Node.ring 3).base) 8).setRing 3 { used := 9 }).ring (3 : Fin 256).val).used) ∧ ((State.flushHeld (((((wOn [.cmd, .rings, .ring 3]).wr (R.RING_CFG_LOG2_ENTRIES (Node.ring 3).base) 8).setRing 3 { used := 9 }).wr (R.RING_CQ_HEAD_HEAD ((Node.ring (3 : Fin 256)).base)) ((9 : Word).toNat % 65536)).setRing (3 : Fin 256).val { ((((wOn [.cmd, .rings, .ring 3]).wr (R.RING_CFG_LOG2_ENTRIES (Node.ring 3).base) 8).setRing 3 { used := 9 }).ring (3 : Fin 256).val) with used := ((((wOn [.cmd, .rings, .ring 3]).wr (R.RING_CFG_LOG2_ENTRIES (Node.ring 3).base) 8).setRing 3 { used := 9 }).ring (3 : Fin 256).val).used - ((((9 : Word).toNat % 65536) + ((((wOn [.cmd, .rings, .ring 3]).wr (R.RING_CFG_LOG2_ENTRIES (Node.ring 3).base) 8).setRing 3 { used := 9 }).entries (3 : Fin 256)) - (((wOn [.cmd, .rings, .ring 3]).wr (R.RING_CFG_LOG2_ENTRIES (Node.ring 3).base) 8).setRing 3 { used := 9 }).rd (R.RING_CQ_HEAD_HEAD ((Node.ring (3 : Fin 256)).base)) % ((((wOn [.cmd, .rings, .ring 3]).wr (R.RING_CFG_LOG2_ENTRIES (Node.ring 3).base) 8).setRing 3 { used := 9 }).entries (3 : Fin 256))) % ((((wOn [.cmd, .rings, .ring 3]).wr (R.RING_CFG_LOG2_ENTRIES (Node.ring 3).base) 8).setRing 3 { used := 9 }).entries (3 : Fin 256))) }) (3 : Fin 256) ((((wOn [.cmd, .rings, .ring 3]).wr (R.RING_CFG_LOG2_ENTRIES (Node.ring 3).base) 8).setRing 3 { used := 9 }).ring (3 : Fin 256).val).held) = State.flushHeld (((((wOn [.cmd, .rings, .ring 3]).wr (R.RING_CFG_LOG2_ENTRIES (Node.ring 3).base) 8).setRing 3 { used := 9 }).wr (R.RING_CQ_HEAD_HEAD ((Node.ring (3 : Fin 256)).base)) ((9 : Word).toNat % 65536)).setRing (3 : Fin 256).val { ((((wOn [.cmd, .rings, .ring 3]).wr (R.RING_CFG_LOG2_ENTRIES (Node.ring 3).base) 8).setRing 3 { used := 9 }).ring (3 : Fin 256).val) with used := ((((wOn [.cmd, .rings, .ring 3]).wr (R.RING_CFG_LOG2_ENTRIES (Node.ring 3).base) 8).setRing 3 { used := 9 }).ring (3 : Fin 256).val).used - ((((9 : Word).toNat % 65536) + ((((wOn [.cmd, .rings, .ring 3]).wr (R.RING_CFG_LOG2_ENTRIES (Node.ring 3).base) 8).setRing 3 { used := 9 }).entries (3 : Fin 256)) - (((wOn [.cmd, .rings, .ring 3]).wr (R.RING_CFG_LOG2_ENTRIES (Node.ring 3).base) 8).setRing 3 { used := 9 }).rd (R.RING_CQ_HEAD_HEAD ((Node.ring (3 : Fin 256)).base)) % ((((wOn [.cmd, .rings, .ring 3]).wr (R.RING_CFG_LOG2_ENTRIES (Node.ring 3).base) 8).setRing 3 { used := 9 }).entries (3 : Fin 256))) % ((((wOn [.cmd, .rings, .ring 3]).wr (R.RING_CFG_LOG2_ENTRIES (Node.ring 3).base) 8).setRing 3 { used := 9 }).entries (3 : Fin 256))) }) (3 : Fin 256) ((((wOn [.cmd, .rings, .ring 3]).wr (R.RING_CFG_LOG2_ENTRIES (Node.ring 3).base) 8).setRing 3 { used := 9 }).ring (3 : Fin 256).val).held) := by
  exact ⟨by decide, rfl, rfl, rfl, by decide, by decide, rfl, by decide, rfl⟩

theorem witness_doorbells_5 :
    (((wOn [.cmd, .rings, .ring 3]).wr (R.RING_CFG_LOG2_ENTRIES (Node.ring 3).base) 8).HostReaches) ∧ (((Node.ring (3 : Fin 256)).base) = (Node.ring (3 : Fin 256)).base) ∧ ((((wOn [.cmd, .rings, .ring 3]).wr (R.RING_CFG_LOG2_ENTRIES (Node.ring 3).base) 8).entries (3 : Fin 256)) = ((wOn [.cmd, .rings, .ring 3]).wr (R.RING_CFG_LOG2_ENTRIES (Node.ring 3).base) 8).entries (3 : Fin 256)) ∧ (((9 : Word).toNat % 65536) = (9 : Word).toNat % 65536) ∧ (((wOn [.cmd, .rings, .ring 3]).wr (R.RING_CFG_LOG2_ENTRIES (Node.ring 3).base) 8).enabled (.ring (3 : Fin 256)) = true) ∧ ((((wOn [.cmd, .rings, .ring 3]).wr (R.RING_CFG_LOG2_ENTRIES (Node.ring 3).base) 8).entries (3 : Fin 256)) ≤ ((9 : Word).toNat % 65536) ∨ (((wOn [.cmd, .rings, .ring 3]).wr (R.RING_CFG_LOG2_ENTRIES (Node.ring 3).base) 8).ring (3 : Fin 256).val).used < (((9 : Word).toNat % 65536) + (((wOn [.cmd, .rings, .ring 3]).wr (R.RING_CFG_LOG2_ENTRIES (Node.ring 3).base) 8).entries (3 : Fin 256)) - ((wOn [.cmd, .rings, .ring 3]).wr (R.RING_CFG_LOG2_ENTRIES (Node.ring 3).base) 8).rd (R.RING_CQ_HEAD_HEAD ((Node.ring (3 : Fin 256)).base)) % (((wOn [.cmd, .rings, .ring 3]).wr (R.RING_CFG_LOG2_ENTRIES (Node.ring 3).base) 8).entries (3 : Fin 256))) % (((wOn [.cmd, .rings, .ring 3]).wr (R.RING_CFG_LOG2_ENTRIES (Node.ring 3).base) 8).entries (3 : Fin 256))) := by
  exact ⟨by decide, rfl, rfl, rfl, by decide, by decide⟩

theorem witness_doorbells_6 :
    ((State.reset).HostReaches) ∧ ((State.reset).enabled (.ring (3 : Fin 256)) = false) := by
  decide

theorem witness_doorbells_7 :
    ((State.reset).HostReaches) := by
  decide

theorem witness_fetch_and_interrupt_1 : ∃ (s : State) (r : Fin 256) (ring left head : Nat),
    s.clocked = true ∧ s.mode .cmd ≠ .faulted ∧ s.arbitrate 0 = some (r, ring, left) ∧ head = s.rd (R.RING_SQ_HEAD_HEAD (Node.ring r).base) ∧
      s.sqMark 0 r head = .good ∧ ∀ i ∈ (List.range (s.sqSize r)).map (head + ·), s.sqMark 0 r i = .good :=
  ⟨((wOn [.cmd, .rings, .ring 3]).wr (R.RING_CFG_LOG2_ENTRIES (Node.ring 3).base) 8).wr (R.RING_SQ_TAIL_TAIL (Node.ring 3).base) 1, 3, 3, 0, 0,
    by decide, by decide, by decide, by decide, by decide, by decide⟩

theorem witness_fetch_and_interrupt_2 :
    ((((wOn [.cmd, .rings, .ring 3]).wr (R.RING_CFG_LOG2_ENTRIES (Node.ring 3).base) 8).wr (R.RING_SQ_TAIL_TAIL (Node.ring 3).base) 1).clocked = true) ∧ ((((wOn [.cmd, .rings, .ring 3]).wr (R.RING_CFG_LOG2_ENTRIES (Node.ring 3).base) 8).wr (R.RING_SQ_TAIL_TAIL (Node.ring 3).base) 1).mode .cmd ≠ .faulted) ∧ ((((wOn [.cmd, .rings, .ring 3]).wr (R.RING_CFG_LOG2_ENTRIES (Node.ring 3).base) 8).wr (R.RING_SQ_TAIL_TAIL (Node.ring 3).base) 1).arbitrate (3) = some ((3 : Fin 256), (3), (0))) ∧ ((0) = (((wOn [.cmd, .rings, .ring 3]).wr (R.RING_CFG_LOG2_ENTRIES (Node.ring 3).base) 8).wr (R.RING_SQ_TAIL_TAIL (Node.ring 3).base) 1).rd (R.RING_SQ_HEAD_HEAD (Node.ring (3 : Fin 256)).base)) ∧ (([0] : List Nat) = if (((wOn [.cmd, .rings, .ring 3]).wr (R.RING_CFG_LOG2_ENTRIES (Node.ring 3).base) 8).wr (R.RING_SQ_TAIL_TAIL (Node.ring 3).base) 1).sqMark (3) (3 : Fin 256) (0) ≠ .good then [(0)] else (List.range ((((wOn [.cmd, .rings, .ring 3]).wr (R.RING_CFG_LOG2_ENTRIES (Node.ring 3).base) 8).wr (R.RING_SQ_TAIL_TAIL (Node.ring 3).base) 1).sqSize (3 : Fin 256))).map ((0) + ·)) ∧ (([0] : List Nat).find? (fun k => decide ((((wOn [.cmd, .rings, .ring 3]).wr (R.RING_CFG_LOG2_ENTRIES (Node.ring 3).base) 8).wr (R.RING_SQ_TAIL_TAIL (Node.ring 3).base) 1).sqMark (3) (3 : Fin 256) k ≠ .good)) = some (0)) ∧ (({ (((wOn [.cmd, .rings, .ring 3]).wr (R.RING_CFG_LOG2_ENTRIES (Node.ring 3).base) 8).wr (R.RING_SQ_TAIL_TAIL (Node.ring 3).base) 1) with arbRing := 3, arbLeft := 0 }) = { (((wOn [.cmd, .rings, .ring 3]).wr (R.RING_CFG_LOG2_ENTRIES (Node.ring 3).base) 8).wr (R.RING_SQ_TAIL_TAIL (Node.ring 3).base) 1) with arbRing := (3), arbLeft := (0) }) := by
  decide

theorem witness_fetch_and_interrupt_3 :
    ((wPoisonSq).clocked = true) ∧ ((wPoisonSq).mode .cmd ≠ .faulted) ∧ ((wPoisonSq).arbitrate (0) = some ((3 : Fin 256), (3), (0))) ∧ ((0) = (wPoisonSq).rd (R.RING_SQ_HEAD_HEAD (Node.ring (3 : Fin 256)).base)) ∧ (([0] : List Nat) = if (wPoisonSq).sqMark (0) (3 : Fin 256) (0) ≠ .good then [(0)] else (List.range ((wPoisonSq).sqSize (3 : Fin 256))).map ((0) + ·)) ∧ (([0] : List Nat).find? (fun k => decide ((wPoisonSq).sqMark (0) (3 : Fin 256) k ≠ .good)) = some (0)) ∧ (({ (wPoisonSq) with arbRing := 3, arbLeft := 0 }) = { (wPoisonSq) with arbRing := (3), arbLeft := (0) }) := by
  decide

theorem witness_fetch_and_interrupt_4 :
    ((wOn [.cmd]).clocked = true) ∧ ((wOn [.cmd]).mode .cmd ≠ .faulted) ∧ ((wOn [.cmd]).arbitrate (0) = none) := by
  decide

theorem witness_fetch_and_interrupt_5 :
    (((wOn []).setRing 5 { pendingNotify := 2 }).clocked = true) ∧ ((((wOn []).setRing 5 { pendingNotify := 2 }).ring (5 : Fin 256).val).pendingNotify ≠ 0) ∧ ((((wOn []).setRing 5 { pendingNotify := 2 }).advance ((((wOn []).setRing 5 { pendingNotify := 2 }).ring 5).notifyAt + 16000 * ((wOn []).setRing 5 { pendingNotify := 2 }).rd (R.RING_INT_COAL_TIME (Node.ring 5).base))) = ((wOn []).setRing 5 { pendingNotify := 2 }).advance ((((wOn []).setRing 5 { pendingNotify := 2 }).ring (5 : Fin 256).val).notifyAt + 16000 * ((wOn []).setRing 5 { pendingNotify := 2 }).rd (R.RING_INT_COAL_TIME (Node.ring (5 : Fin 256)).base))) := by
  decide

theorem witness_bar2_accesses_1 :
    ((wDram).HostReaches) ∧ (((wDram).bar2Addr (8)) = (wDram).bar2Addr (8)) ∧ (∀ i < (3), (wDram).bar2Gone (((wDram).bar2Addr (8)) + i) = false ∧ (wDram).secArea (((wDram).bar2Addr (8)) + i) = false ∧ (wDram).dramBad (((wDram).bar2Addr (8)) + i) 1 = false) := by
  decide

theorem witness_bar2_accesses_2 :
    ((wDram).HostReaches) ∧ (((wDram).bar2Addr (8)) = (wDram).bar2Addr (8)) ∧ (([1#8, 2#8] : List Byte) ≠ []) ∧ (((wDram).bar2Addr (8)) + ([1#8, 2#8] : List Byte).length ≤ (wDram).reservedBase) ∧ (∀ i < ([1#8, 2#8] : List Byte).length, (wDram).retiredAt (((wDram).bar2Addr (8)) + i) = false) := by
  exact ⟨by decide, rfl, by decide, by decide, by decide⟩

theorem witness_memory_requests_1 :
    ((wDram).clocked = true) ∧ (((wDram).memRun (wDram).mem.queue.length) = (wDram).memRun (wDram).mem.queue.length) ∧ (((wDram).memRun (wDram).mem.queue.length).servesNow (0) (.dramRead (8) (8)) = true) ∧ (((((wDram).memRun (wDram).mem.queue.length).takeChannel ((wDram).memRun (wDram).mem.queue.length).now (0) (80) (.dramRead (8) (8)) false).upset ([(1, 5)] : List (Nat × Nat))) = (((wDram).memRun (wDram).mem.queue.length).takeChannel ((wDram).memRun (wDram).mem.queue.length).now (0) (80) (.dramRead (8) (8)) false).upset ([(1, 5)] : List (Nat × Nat))) ∧ ((8) + (8) ≤ ((((wDram).memRun (wDram).mem.queue.length).takeChannel ((wDram).memRun (wDram).mem.queue.length).now (0) (80) (.dramRead (8) (8)) false).upset ([(1, 5)] : List (Nat × Nat))).dramSize) ∧ (((((wDram).memRun (wDram).mem.queue.length).takeChannel ((wDram).memRun (wDram).mem.queue.length).now (0) (80) (.dramRead (8) (8)) false).upset ([(1, 5)] : List (Nat × Nat))).secPoison (8) (8) = false) ∧ (((0) ≠ 2 ∨ ((((wDram).memRun (wDram).mem.queue.length).takeChannel ((wDram).memRun (wDram).mem.queue.length).now (0) (80) (.dramRead (8) (8)) false).upset ([(1, 5)] : List (Nat × Nat))).firmwareArea (8) = false ∨ ((((wDram).memRun (wDram).mem.queue.length).takeChannel ((wDram).memRun (wDram).mem.queue.length).now (0) (80) (.dramRead (8) (8)) false).upset ([(1, 5)] : List (Nat × Nat))).dramBad (8) (8) = false)) ∧ ((((((wDram).memRun (wDram).mem.queue.length).takeChannel ((wDram).memRun (wDram).mem.queue.length).now (0) (80) (.dramRead (8) (8)) false).upset ([(1, 5)] : List (Nat × Nat))).noteRead (0) (8) (8)) = ((((wDram).memRun (wDram).mem.queue.length).takeChannel ((wDram).memRun (wDram).mem.queue.length).now (0) (80) (.dramRead (8) (8)) false).upset ([(1, 5)] : List (Nat × Nat))).noteRead (0) (8) (8)) := by
  exact ⟨by decide, rfl, by decide, rfl, by decide, by decide, by decide, rfl⟩

theorem witness_memory_requests_2 :
    ((wSecBad).clocked = true) ∧ (((wSecBad).memRun (wSecBad).mem.queue.length) = (wSecBad).memRun (wSecBad).mem.queue.length) ∧ (((wSecBad).memRun (wSecBad).mem.queue.length).servesNow (0) (.dramRead (wSecAddr) (8)) = true) ∧ (((((wSecBad).memRun (wSecBad).mem.queue.length).takeChannel ((wSecBad).memRun (wSecBad).mem.queue.length).now (0) (80) (.dramRead (wSecAddr) (8)) false).upset ([(1, 5)] : List (Nat × Nat))) = (((wSecBad).memRun (wSecBad).mem.queue.length).takeChannel ((wSecBad).memRun (wSecBad).mem.queue.length).now (0) (80) (.dramRead (wSecAddr) (8)) false).upset ([(1, 5)] : List (Nat × Nat))) ∧ ((wSecAddr) + (8) ≤ ((((wSecBad).memRun (wSecBad).mem.queue.length).takeChannel ((wSecBad).memRun (wSecBad).mem.queue.length).now (0) (80) (.dramRead (wSecAddr) (8)) false).upset ([(1, 5)] : List (Nat × Nat))).dramSize) ∧ (((((wSecBad).memRun (wSecBad).mem.queue.length).takeChannel ((wSecBad).memRun (wSecBad).mem.queue.length).now (0) (80) (.dramRead (wSecAddr) (8)) false).upset ([(1, 5)] : List (Nat × Nat))).secPoison (wSecAddr) (8) = true) ∧ (((((((wSecBad).memRun (wSecBad).mem.queue.length).takeChannel ((wSecBad).memRun (wSecBad).mem.queue.length).now (0) (80) (.dramRead (wSecAddr) (8)) false).upset ([(1, 5)] : List (Nat × Nat))).noteRead (0) (wSecAddr) (8)).secError 0) = (((((wSecBad).memRun (wSecBad).mem.queue.length).takeChannel ((wSecBad).memRun (wSecBad).mem.queue.length).now (0) (80) (.dramRead (wSecAddr) (8)) false).upset ([(1, 5)] : List (Nat × Nat))).noteRead (0) (wSecAddr) (8)).secError 0) := by
  exact ⟨by decide, rfl, by decide, rfl, by decide, by decide, rfl⟩

theorem witness_memory_requests_3 :
    ((wFwBad).clocked = true) ∧ (((wFwBad).memRun (wFwBad).mem.queue.length) = (wFwBad).memRun (wFwBad).mem.queue.length) ∧ (((wFwBad).memRun (wFwBad).mem.queue.length).servesNow (0) (.dramRead (wFwAddr) (8)) = true) ∧ (((((wFwBad).memRun (wFwBad).mem.queue.length).takeChannel ((wFwBad).memRun (wFwBad).mem.queue.length).now (0) (80) (.dramRead (wFwAddr) (8)) false).upset ([(1, 5)] : List (Nat × Nat))) = (((wFwBad).memRun (wFwBad).mem.queue.length).takeChannel ((wFwBad).memRun (wFwBad).mem.queue.length).now (0) (80) (.dramRead (wFwAddr) (8)) false).upset ([(1, 5)] : List (Nat × Nat))) ∧ ((wFwAddr) + (8) ≤ ((((wFwBad).memRun (wFwBad).mem.queue.length).takeChannel ((wFwBad).memRun (wFwBad).mem.queue.length).now (0) (80) (.dramRead (wFwAddr) (8)) false).upset ([(1, 5)] : List (Nat × Nat))).dramSize) ∧ (((((wFwBad).memRun (wFwBad).mem.queue.length).takeChannel ((wFwBad).memRun (wFwBad).mem.queue.length).now (0) (80) (.dramRead (wFwAddr) (8)) false).upset ([(1, 5)] : List (Nat × Nat))).secPoison (wFwAddr) (8) = false) ∧ (((((wFwBad).memRun (wFwBad).mem.queue.length).takeChannel ((wFwBad).memRun (wFwBad).mem.queue.length).now (0) (80) (.dramRead (wFwAddr) (8)) false).upset ([(1, 5)] : List (Nat × Nat))).firmwareArea (wFwAddr) = true) ∧ (((((wFwBad).memRun (wFwBad).mem.queue.length).takeChannel ((wFwBad).memRun (wFwBad).mem.queue.length).now (0) (80) (.dramRead (wFwAddr) (8)) false).upset ([(1, 5)] : List (Nat × Nat))).dramBad (wFwAddr) (8) = true) ∧ ((2) = 2) ∧ ((((((((wFwBad).memRun (wFwBad).mem.queue.length).takeChannel ((wFwBad).memRun (wFwBad).mem.queue.length).now (0) (80) (.dramRead (wFwAddr) (8)) false).upset ([(1, 5)] : List (Nat × Nat))).noteRead (2) (wFwAddr) (8)).usePoison (2) (2 ^ 63 + (wFwAddr)) (8)).reloadFirmware (wFwAddr) (8)) = ((((((wFwBad).memRun (wFwBad).mem.queue.length).takeChannel ((wFwBad).memRun (wFwBad).mem.queue.length).now (0) (80) (.dramRead (wFwAddr) (8)) false).upset ([(1, 5)] : List (Nat × Nat))).noteRead (2) (wFwAddr) (8)).usePoison (2) (2 ^ 63 + (wFwAddr)) (8)).reloadFirmware (wFwAddr) (8)) := by
  exact ⟨by decide, rfl, by decide, rfl, by decide, by decide, by decide, by decide, rfl, rfl⟩

theorem witness_memory_requests_4 :
    ((wDram).clocked = true) ∧ (((wDram).memRun (wDram).mem.queue.length) = (wDram).memRun (wDram).mem.queue.length) ∧ (((wDram).memRun (wDram).mem.queue.length).servesNow (0) (.dramWrite (8) ([1#8] : List Byte)) = true) ∧ (((((wDram).memRun (wDram).mem.queue.length).takeChannel ((wDram).memRun (wDram).mem.queue.length).now (0) (80) (.dramWrite (8) ([1#8] : List Byte)) false).upset ([(1, 5)] : List (Nat × Nat))) = (((wDram).memRun (wDram).mem.queue.length).takeChannel ((wDram).memRun (wDram).mem.queue.length).now (0) (80) (.dramWrite (8) ([1#8] : List Byte)) false).upset ([(1, 5)] : List (Nat × Nat))) ∧ ((8) + ([1#8] : List Byte).length ≤ ((((wDram).memRun (wDram).mem.queue.length).takeChannel ((wDram).memRun (wDram).mem.queue.length).now (0) (80) (.dramWrite (8) ([1#8] : List Byte)) false).upset ([(1, 5)] : List (Nat × Nat))).dramSize) ∧ ((((((wDram).memRun (wDram).mem.queue.length).takeChannel ((wDram).memRun (wDram).mem.queue.length).now (0) (80) (.dramWrite (8) ([1#8] : List Byte)) false).upset ([(1, 5)] : List (Nat × Nat))).dramWrite (0) (8) ([1#8] : List Byte)) = ((((wDram).memRun (wDram).mem.queue.length).takeChannel ((wDram).memRun (wDram).mem.queue.length).now (0) (80) (.dramWrite (8) ([1#8] : List Byte)) false).upset ([(1, 5)] : List (Nat × Nat))).dramWrite (0) (8) ([1#8] : List Byte)) := by
  exact ⟨by decide, rfl, by decide, rfl, by decide, rfl⟩

theorem witness_memory_requests_5 :
    ((wDram).clocked = true) ∧ (((wDram).memRun (wDram).mem.queue.length) = (wDram).memRun (wDram).mem.queue.length) ∧ (((wDram).memRun (wDram).mem.queue.length).servesNow (0) (.gran (8) (true) (true) (none : Option (Nat × Nat × Nat))) = true) ∧ (((((wDram).memRun (wDram).mem.queue.length).takeChannel ((wDram).memRun (wDram).mem.queue.length).now (0) (80) (.gran (8) (true) (true) (none : Option (Nat × Nat × Nat))) false).upset ([(1, 5)] : List (Nat × Nat))) = (((wDram).memRun (wDram).mem.queue.length).takeChannel ((wDram).memRun (wDram).mem.queue.length).now (0) (80) (.gran (8) (true) (true) (none : Option (Nat × Nat × Nat))) false).upset ([(1, 5)] : List (Nat × Nat))) ∧ ((((((wDram).memRun (wDram).mem.queue.length).takeChannel ((wDram).memRun (wDram).mem.queue.length).now (0) (80) (.gran (8) (true) (true) (none : Option (Nat × Nat × Nat))) false).upset ([(1, 5)] : List (Nat × Nat))).granRead (0) (8) (true) (true) (none : Option (Nat × Nat × Nat))) = ((((wDram).memRun (wDram).mem.queue.length).takeChannel ((wDram).memRun (wDram).mem.queue.length).now (0) (80) (.gran (8) (true) (true) (none : Option (Nat × Nat × Nat))) false).upset ([(1, 5)] : List (Nat × Nat))).granRead (0) (8) (true) (true) (none : Option (Nat × Nat × Nat))) := by
  exact ⟨by decide, rfl, by decide, rfl, rfl⟩

theorem witness_memory_requests_6 :
    ((wDram).clocked = true) ∧ (((wDram).memRun (wDram).mem.queue.length) = (wDram).memRun (wDram).mem.queue.length) ∧ (((wDram).memRun (wDram).mem.queue.length).servesNow (0) (.dramRead (2 ^ 40) (1)) = true) ∧ (((((wDram).memRun (wDram).mem.queue.length).takeChannel ((wDram).memRun (wDram).mem.queue.length).now (0) (80) (.dramRead (2 ^ 40) (1)) false).upset ([(1, 5)] : List (Nat × Nat))) = (((wDram).memRun (wDram).mem.queue.length).takeChannel ((wDram).memRun (wDram).mem.queue.length).now (0) (80) (.dramRead (2 ^ 40) (1)) false).upset ([(1, 5)] : List (Nat × Nat))) ∧ (((((wDram).memRun (wDram).mem.queue.length).takeChannel ((wDram).memRun (wDram).mem.queue.length).now (0) (80) (.dramRead (2 ^ 40) (1)) false).upset ([(1, 5)] : List (Nat × Nat))).dramSize < (2 ^ 40) + (1)) ∧ ((((((wDram).memRun (wDram).mem.queue.length).takeChannel ((wDram).memRun (wDram).mem.queue.length).now (0) (80) (.dramRead (2 ^ 40) (1)) false).upset ([(1, 5)] : List (Nat × Nat)))) = ((((wDram).memRun (wDram).mem.queue.length).takeChannel ((wDram).memRun (wDram).mem.queue.length).now (0) (80) (.dramRead (2 ^ 40) (1)) false).upset ([(1, 5)] : List (Nat × Nat)))) := by
  exact ⟨by decide, rfl, by decide, rfl, by decide, rfl⟩

theorem witness_memory_requests_7 :
    ((wDram).clocked = true) ∧ (((wDram).memRun (wDram).mem.queue.length) = (wDram).memRun (wDram).mem.queue.length) ∧ (((wDram).memRun (wDram).mem.queue.length).servesNow (0) (.dramWrite (2 ^ 40) ([1#8] : List Byte)) = true) ∧ (((((wDram).memRun (wDram).mem.queue.length).takeChannel ((wDram).memRun (wDram).mem.queue.length).now (0) (80) (.dramWrite (2 ^ 40) ([1#8] : List Byte)) false).upset ([(1, 5)] : List (Nat × Nat))) = (((wDram).memRun (wDram).mem.queue.length).takeChannel ((wDram).memRun (wDram).mem.queue.length).now (0) (80) (.dramWrite (2 ^ 40) ([1#8] : List Byte)) false).upset ([(1, 5)] : List (Nat × Nat))) ∧ (((((wDram).memRun (wDram).mem.queue.length).takeChannel ((wDram).memRun (wDram).mem.queue.length).now (0) (80) (.dramWrite (2 ^ 40) ([1#8] : List Byte)) false).upset ([(1, 5)] : List (Nat × Nat))).dramSize < (2 ^ 40) + ([1#8] : List Byte).length) ∧ ((((((wDram).memRun (wDram).mem.queue.length).takeChannel ((wDram).memRun (wDram).mem.queue.length).now (0) (80) (.dramWrite (2 ^ 40) ([1#8] : List Byte)) false).upset ([(1, 5)] : List (Nat × Nat)))) = ((((wDram).memRun (wDram).mem.queue.length).takeChannel ((wDram).memRun (wDram).mem.queue.length).now (0) (80) (.dramWrite (2 ^ 40) ([1#8] : List Byte)) false).upset ([(1, 5)] : List (Nat × Nat)))) := by
  exact ⟨by decide, rfl, by decide, rfl, by decide, rfl⟩

theorem witness_memory_requests_8 :
    ((wDramBusy).clocked = true) ∧ (((wDramBusy).memRun (wDramBusy).mem.queue.length) = (wDramBusy).memRun (wDramBusy).mem.queue.length) ∧ (((wDramBusy).memRun (wDramBusy).mem.queue.length).servesNow (1) (MemReq.dramRead 8 8 : MemReq) = false) := by
  exact ⟨by decide, rfl, by decide⟩

theorem witness_memory_requests_9 :
    ((wDramTaken).clocked = true) ∧ ((wDramTaken).mem.queue.find? (fun (wWait : MemWait) => decide ((wWait : MemWait).level ≠ 0)) = some (wWait : MemWait)) ∧ (((wDramTaken).advance ((wWait : MemWait).at' + (wDramTaken).ageLimit)) = (wDramTaken).advance ((wWait : MemWait).at' + (wDramTaken).ageLimit)) ∧ ((((wDramTaken).advance ((wWait : MemWait).at' + (wDramTaken).ageLimit)).memRun ((wDramTaken).advance ((wWait : MemWait).at' + (wDramTaken).ageLimit)).mem.queue.length) = ((wDramTaken).advance ((wWait : MemWait).at' + (wDramTaken).ageLimit)).memRun ((wDramTaken).advance ((wWait : MemWait).at' + (wDramTaken).ageLimit)).mem.queue.length) ∧ ((((wDramTaken).advance ((wWait : MemWait).at' + (wDramTaken).ageLimit)).memRun ((wDramTaken).advance ((wWait : MemWait).at' + (wDramTaken).ageLimit)).mem.queue.length).mem.queue.contains (wWait : MemWait) = true) ∧ ((State.count { (((wDramTaken).advance ((wWait : MemWait).at' + (wDramTaken).ageLimit)).memRun ((wDramTaken).advance ((wWait : MemWait).at' + (wDramTaken).ageLimit)).mem.queue.length) with mem := { (((wDramTaken).advance ((wWait : MemWait).at' + (wDramTaken).ageLimit)).memRun ((wDramTaken).advance ((wWait : MemWait).at' + (wDramTaken).ageLimit)).mem.queue.length).mem with queue := modFirst (fun x => decide (x = wWait)) (fun x => { x with promoted := true }) (((wDramTaken).advance ((wWait : MemWait).at' + (wDramTaken).ageLimit)).memRun ((wDramTaken).advance ((wWait : MemWait).at' + (wDramTaken).ageLimit)).mem.queue.length).mem.queue } } R.MEM_PROMOTED_COUNT R.MEM_OVF_PROMOTED_OVF .mem 1) = State.count { (((wDramTaken).advance ((wWait : MemWait).at' + (wDramTaken).ageLimit)).memRun ((wDramTaken).advance ((wWait : MemWait).at' + (wDramTaken).ageLimit)).mem.queue.length) with mem := { (((wDramTaken).advance ((wWait : MemWait).at' + (wDramTaken).ageLimit)).memRun ((wDramTaken).advance ((wWait : MemWait).at' + (wDramTaken).ageLimit)).mem.queue.length).mem with queue := modFirst (fun x => decide (x = (wWait : MemWait))) (fun x => { x with promoted := true }) (((wDramTaken).advance ((wWait : MemWait).at' + (wDramTaken).ageLimit)).memRun ((wDramTaken).advance ((wWait : MemWait).at' + (wDramTaken).ageLimit)).mem.queue.length).mem.queue } } R.MEM_PROMOTED_COUNT R.MEM_OVF_PROMOTED_OVF .mem 1) := by
  exact ⟨by decide, by decide, rfl, rfl, by decide, by decide⟩

theorem witness_memory_requests_10 :
    ((wDramWait).clocked = true) ∧ ((wDramWait).mem.queue.find? (fun (wWait : MemWait) => decide ((wWait : MemWait).level ≠ 0)) = some (wWait : MemWait)) ∧ (((wDramWait).advance ((wWait : MemWait).at' + (wDramWait).ageLimit)) = (wDramWait).advance ((wWait : MemWait).at' + (wDramWait).ageLimit)) ∧ ((((wDramWait).advance ((wWait : MemWait).at' + (wDramWait).ageLimit)).memRun ((wDramWait).advance ((wWait : MemWait).at' + (wDramWait).ageLimit)).mem.queue.length) = ((wDramWait).advance ((wWait : MemWait).at' + (wDramWait).ageLimit)).memRun ((wDramWait).advance ((wWait : MemWait).at' + (wDramWait).ageLimit)).mem.queue.length) ∧ ((((wDramWait).advance ((wWait : MemWait).at' + (wDramWait).ageLimit)).memRun ((wDramWait).advance ((wWait : MemWait).at' + (wDramWait).ageLimit)).mem.queue.length).mem.queue.contains (wWait : MemWait) = false) := by
  exact ⟨by decide, by decide, rfl, rfl, by decide⟩

theorem witness_memory_requests_11 :
    ((wDram).clocked = true) ∧ ((wDram).stalled = false) ∧ ((wDram).accepts .mem = true) := by
  decide

theorem witness_memory_requests_12 :
    ((wDram.wr R.MEM_TEST_INJECT 1).rd R.MEM_TEST_INJECT = 1) ∧ ((64) % 8 = 0) ∧ ((64) + 8 ≤ (wDram.wr R.MEM_TEST_INJECT 1).dramSize) ∧ ((wDram.wr R.MEM_TEST_INJECT 1).channelOf (64) = (wDram.wr R.MEM_TEST_INJECT 1).rd R.MEM_TEST_INJ_CH) := by
  decide

theorem witness_memory_requests_13 :
    ((wDram.wr R.MEM_TEST_INJECT 2).rd R.MEM_TEST_INJECT = 2) ∧ ((64) % 8 = 0) ∧ ((64) + 8 ≤ (wDram.wr R.MEM_TEST_INJECT 2).dramSize) ∧ ((wDram.wr R.MEM_TEST_INJECT 2).channelOf (64) = (wDram.wr R.MEM_TEST_INJECT 2).rd R.MEM_TEST_INJ_CH) := by
  decide

theorem witness_memory_requests_14 :
    ((wDram.wr R.MEM_TEST_INJECT 3).rd R.MEM_TEST_INJECT = 3) ∧ ((64) % 8 = 0) ∧ ((64) + 8 ≤ (wDram.wr R.MEM_TEST_INJECT 3).dramSize) ∧ ((wDram.wr R.MEM_TEST_INJECT 3).channelOf (64) = (wDram.wr R.MEM_TEST_INJECT 3).rd R.MEM_TEST_INJ_CH) := by
  decide

theorem witness_memory_channels_1 :
    ((wDram).clocked = true) ∧ ((wDram).channels.contains (0 : Fin 4).val = true) ∧ ((wDram).flag (R.MEM_CH_STATUS_SELF_REFRESH (0 : Fin 4).val) = false) ∧ ((wDram).flag R.MEM_TEST_REF_OFF = false) ∧ ((62400) = tget 0 (wDram).mem.refAt (0 : Fin 4).val + (wDram).refInterval (0 : Fin 4).val) ∧ ((((wDram).advance (62400)).memRun ((wDram).advance (62400)).mem.queue.length) = ((wDram).advance (62400)).memRun ((wDram).advance (62400)).mem.queue.length) := by
  exact ⟨by decide, by decide, by decide, by decide, by decide, rfl⟩

theorem witness_memory_channels_2 :
    ((wDram).clocked = true) ∧ ((wDram).channels.contains (0 : Fin 4).val = true) ∧ ((wDram).flag (R.MEM_CH_STATUS_SELF_REFRESH (0 : Fin 4).val) = false) := by
  decide

theorem witness_memory_channels_3 :
    ((wDram).clocked = true) ∧ ((wDram).channels.contains (0 : Fin 4).val = true) ∧ ((wDram).flag (R.MEM_CH_STATUS_HOT (0 : Fin 4).val) = false) := by
  decide

theorem witness_memory_channels_4 :
    ((wDram.wr (R.MEM_CH_STATUS_HOT 0) 1).clocked = true) ∧ ((wDram.wr (R.MEM_CH_STATUS_HOT 0) 1).channels.contains (0 : Fin 4).val = true) ∧ ((wDram.wr (R.MEM_CH_STATUS_HOT 0) 1).flag (R.MEM_CH_STATUS_HOT (0 : Fin 4).val) = true) ∧ (tget none (wDram.wr (R.MEM_CH_STATUS_HOT 0) 1).mem.cool (0 : Fin 4).val = none) := by
  decide

theorem witness_memory_channels_5 :
    (({ (wDram.wr (R.MEM_CH_STATUS_HOT 0) 1) with mem := { wDram.mem with cool := [(0, some 0)] } }).clocked = true) ∧ (({ (wDram.wr (R.MEM_CH_STATUS_HOT 0) 1) with mem := { wDram.mem with cool := [(0, some 0)] } }).channels.contains (0 : Fin 4).val = true) ∧ (({ (wDram.wr (R.MEM_CH_STATUS_HOT 0) 1) with mem := { wDram.mem with cool := [(0, some 0)] } }).flag (R.MEM_CH_STATUS_HOT (0 : Fin 4).val) = true) ∧ (tget none ({ (wDram.wr (R.MEM_CH_STATUS_HOT 0) 1) with mem := { wDram.mem with cool := [(0, some 0)] } }).mem.cool (0 : Fin 4).val = some (0)) ∧ ((0) + 16000000000 ≤ (({ (wDram.wr (R.MEM_CH_STATUS_HOT 0) 1) with mem := { wDram.mem with cool := [(0, some 0)] } }).advance (16000000000)).now) := by
  decide

theorem witness_memory_channels_6 :
    ((wDram).clocked = true) ∧ ((wDram).channels.contains (0 : Fin 4).val = true) ∧ ((wDram).flag (R.MEM_CH_STATUS_SELF_REFRESH (0 : Fin 4).val) = false) := by
  decide

theorem witness_memory_channels_7 :
    ((wDram.wr R.MEM_CFG_SR_IDLE 1).clocked = true) ∧ ((wDram.wr R.MEM_CFG_SR_IDLE 1).rd R.MEM_CFG_SR_IDLE ≠ 0) ∧ ((wDram.wr R.MEM_CFG_SR_IDLE 1).printing = false) ∧ ((wDram.wr R.MEM_CFG_SR_IDLE 1).channels.contains (0 : Fin 4).val = true) ∧ ((wDram.wr R.MEM_CFG_SR_IDLE 1).mem.queue.any (fun w => decide ((wDram.wr R.MEM_CFG_SR_IDLE 1).reqChannel w.req = (0 : Fin 4).val)) = false) := by
  decide

theorem witness_memory_channels_8 :
    ((wRot).clocked = true) ∧ (((wRot).advance (16000000000)) = (wRot).advance (16000000000)) ∧ (((wRot).advance (16000000000)).accepts .mem = true) ∧ (((wRot).advance (16000000000)).flag R.GRAN_CFG_ROT_EN = true) ∧ (((wRot).advance (16000000000)).gleanFlag 2 = true) ∧ (((wRot).advance (16000000000)).stalled = false) ∧ (((wRot).advance (16000000000)).flag R.GRAN_STATE_PERMANENT = false) ∧ (((wRot).advance (16000000000)).mem.copying = none) ∧ (((wRot).advance (16000000000)).mem.bist = none) ∧ (((wRot).advance (16000000000)).mem.rotAt + max 1 (((wRot).advance (16000000000)).rd R.GRAN_CFG_ROT_S) * 16000000000 ≤ ((wRot).advance (16000000000)).now) := by
  exact ⟨by decide, rfl, by decide, by decide, by decide, by decide, by decide, by decide, by decide, by decide⟩

theorem witness_memory_channels_9 :
    (({ State.reset with mem := { State.reset.mem with copying := some 3 } }).clocked = true) ∧ (({ State.reset with mem := { State.reset.mem with copying := some 3 } }).mem.copying = some (3)) := by
  decide

theorem witness_memory_channels_10 :
    (((List.range 4).foldl (fun (q : State) c => q.wr (R.MEM_CH_CFG_POPULATED c) 1) (State.reset.boot BootStage.training)).sysr.stage = BootStage.training) ∧ (([0, 1, 2, 3] : List Nat) = (List.range 4).filter (fun c => ((List.range 4).foldl (fun (q : State) c => q.wr (R.MEM_CH_CFG_POPULATED c) 1) (State.reset.boot BootStage.training)).flag (R.MEM_CH_CFG_POPULATED c))) ∧ (([0, 1, 2, 3] : List Nat) = channelSet ((([0, 1, 2, 3] : List Nat).filter fun c => bit (15#4 : BitVec 4).toNat c).foldl (fun m c => m + 2 ^ c) 0)) ∧ (([0, 1, 2, 3] : List Nat) ≠ []) ∧ (∀ c ∈ ([0, 1, 2, 3] : List Nat), ([0, 1, 2, 3] : List Nat).contains c = true) := by
  decide

theorem witness_memory_channels_11 :
    (((List.range 4).foldl (fun (q : State) c => q.wr (R.MEM_CH_CFG_POPULATED c) 1) (State.reset.boot BootStage.training)).sysr.stage = BootStage.training) ∧ (([0, 1, 2, 3] : List Nat) = (List.range 4).filter (fun c => ((List.range 4).foldl (fun (q : State) c => q.wr (R.MEM_CH_CFG_POPULATED c) 1) (State.reset.boot BootStage.training)).flag (R.MEM_CH_CFG_POPULATED c))) ∧ (([0, 1] : List Nat) = channelSet ((([0, 1, 2, 3] : List Nat).filter fun c => bit (7#4 : BitVec 4).toNat c).foldl (fun m c => m + 2 ^ c) 0)) ∧ (([2, 3] : List Nat) = ([0, 1, 2, 3] : List Nat).filter fun c => !([0, 1] : List Nat).contains c) := by
  decide

theorem witness_memory_channels_12 :
    ((State.reset.boot .filling).sysr.stage = .filling) := by
  decide

theorem witness_ptp_messages_1 :
    ((wPtp 9 0 {}).clocked = true) ∧ ((wPtp 9 0 {}).flag (R.ETH_STATE_LINK_UP (0 : Fin 2).val) = true) ∧ ((wPtp 9 0 {}).usesPort (0 : Fin 2).val = true) ∧ (4 ≤ (wPtp 9 0 {}).pst (0 : Fin 2).val) ∧ ((((wPtp 9 0 {}).advance (5)).count (R.ETH_RX_PTP_COUNT (0 : Fin 2).val) (R.ETH_OVF_RX_OVF (0 : Fin 2).val) .time 1) = ((wPtp 9 0 {}).advance (5)).count (R.ETH_RX_PTP_COUNT (0 : Fin 2).val) (R.ETH_OVF_RX_OVF (0 : Fin 2).val) .time 1) ∧ ((((wPtp 9 0 {}).advance (5)).count (R.ETH_RX_PTP_COUNT (0 : Fin 2).val) (R.ETH_OVF_RX_OVF (0 : Fin 2).val) .time 1).fromParent (0 : Fin 2).val (0x70001) = true) ∧ (((((wPtp 9 0 {}).advance (5)).count (R.ETH_RX_PTP_COUNT (0 : Fin 2).val) (R.ETH_OVF_RX_OVF (0 : Fin 2).val) .time 1).setPort (0 : Fin 2).val { ((((wPtp 9 0 {}).advance (5)).count (R.ETH_RX_PTP_COUNT (0 : Fin 2).val) (R.ETH_OVF_RX_OVF (0 : Fin 2).val) .time 1).port (0 : Fin 2).val) with syncAt := (((wPtp 9 0 {}).advance (5)).count (R.ETH_RX_PTP_COUNT (0 : Fin 2).val) (R.ETH_OVF_RX_OVF (0 : Fin 2).val) .time 1).now }) = (((wPtp 9 0 {}).advance (5)).count (R.ETH_RX_PTP_COUNT (0 : Fin 2).val) (R.ETH_OVF_RX_OVF (0 : Fin 2).val) .time 1).setPort (0 : Fin 2).val { ((((wPtp 9 0 {}).advance (5)).count (R.ETH_RX_PTP_COUNT (0 : Fin 2).val) (R.ETH_OVF_RX_OVF (0 : Fin 2).val) .time 1).port (0 : Fin 2).val) with syncAt := (((wPtp 9 0 {}).advance (5)).count (R.ETH_RX_PTP_COUNT (0 : Fin 2).val) (R.ETH_OVF_RX_OVF (0 : Fin 2).val) .time 1).now }) := by
  exact ⟨by decide, by decide, by decide, by decide, rfl, by decide, rfl⟩

theorem witness_ptp_messages_2 :
    ((wPtp 9 0 {}).clocked = true) ∧ ((wPtp 9 0 {}).flag (R.ETH_STATE_LINK_UP (0 : Fin 2).val) = true) ∧ ((wPtp 9 0 {}).usesPort (0 : Fin 2).val = true) ∧ (4 ≤ (wPtp 9 0 {}).pst (0 : Fin 2).val) ∧ ((((wPtp 9 0 {}).advance (5)).count (R.ETH_RX_PTP_COUNT (0 : Fin 2).val) (R.ETH_OVF_RX_OVF (0 : Fin 2).val) .time 1) = ((wPtp 9 0 {}).advance (5)).count (R.ETH_RX_PTP_COUNT (0 : Fin 2).val) (R.ETH_OVF_RX_OVF (0 : Fin 2).val) .time 1) ∧ ((((wPtp 9 0 {}).advance (5)).count (R.ETH_RX_PTP_COUNT (0 : Fin 2).val) (R.ETH_OVF_RX_OVF (0 : Fin 2).val) .time 1).fromParent (0 : Fin 2).val (0x70001) = true) ∧ (((((wPtp 9 0 {}).advance (5)).count (R.ETH_RX_PTP_COUNT (0 : Fin 2).val) (R.ETH_OVF_RX_OVF (0 : Fin 2).val) .time 1).setPort (0 : Fin 2).val { ((((wPtp 9 0 {}).advance (5)).count (R.ETH_RX_PTP_COUNT (0 : Fin 2).val) (R.ETH_OVF_RX_OVF (0 : Fin 2).val) .time 1).port (0 : Fin 2).val) with syncAt := (((wPtp 9 0 {}).advance (5)).count (R.ETH_RX_PTP_COUNT (0 : Fin 2).val) (R.ETH_OVF_RX_OVF (0 : Fin 2).val) .time 1).now }) = (((wPtp 9 0 {}).advance (5)).count (R.ETH_RX_PTP_COUNT (0 : Fin 2).val) (R.ETH_OVF_RX_OVF (0 : Fin 2).val) .time 1).setPort (0 : Fin 2).val { ((((wPtp 9 0 {}).advance (5)).count (R.ETH_RX_PTP_COUNT (0 : Fin 2).val) (R.ETH_OVF_RX_OVF (0 : Fin 2).val) .time 1).port (0 : Fin 2).val) with syncAt := (((wPtp 9 0 {}).advance (5)).count (R.ETH_RX_PTP_COUNT (0 : Fin 2).val) (R.ETH_OVF_RX_OVF (0 : Fin 2).val) .time 1).now }) := by
  exact ⟨by decide, by decide, by decide, by decide, rfl, by decide, rfl⟩

theorem witness_ptp_messages_3 :
    ((wPtp 9 2 { pendSync := some (0x70001, 1, 80, 0) }).clocked = true) ∧ ((wPtp 9 2 { pendSync := some (0x70001, 1, 80, 0) }).flag (R.ETH_STATE_LINK_UP (0 : Fin 2).val) = true) ∧ ((wPtp 9 2 { pendSync := some (0x70001, 1, 80, 0) }).usesPort (0 : Fin 2).val = true) ∧ (4 ≤ (wPtp 9 2 { pendSync := some (0x70001, 1, 80, 0) }).pst (0 : Fin 2).val) ∧ ((((wPtp 9 2 { pendSync := some (0x70001, 1, 80, 0) }).advance (5)).count (R.ETH_RX_PTP_COUNT (0 : Fin 2).val) (R.ETH_OVF_RX_OVF (0 : Fin 2).val) .time 1) = ((wPtp 9 2 { pendSync := some (0x70001, 1, 80, 0) }).advance (5)).count (R.ETH_RX_PTP_COUNT (0 : Fin 2).val) (R.ETH_OVF_RX_OVF (0 : Fin 2).val) .time 1) ∧ ((((wPtp 9 2 { pendSync := some (0x70001, 1, 80, 0) }).advance (5)).count (R.ETH_RX_PTP_COUNT (0 : Fin 2).val) (R.ETH_OVF_RX_OVF (0 : Fin 2).val) .time 1).fromParent (0 : Fin 2).val (0x70001) = true) ∧ (((((wPtp 9 2 { pendSync := some (0x70001, 1, 80, 0) }).advance (5)).count (R.ETH_RX_PTP_COUNT (0 : Fin 2).val) (R.ETH_OVF_RX_OVF (0 : Fin 2).val) .time 1).port (0 : Fin 2).val).pendSync = some ((0x70001), (1), (80 : Int), (0 : Int))) := by
  exact ⟨by decide, by decide, by decide, by decide, rfl, by decide, by decide⟩

theorem witness_ptp_messages_4 :
    ((wPtp 6 0 {}).clocked = true) ∧ ((wPtp 6 0 {}).flag (R.ETH_STATE_LINK_UP (0 : Fin 2).val) = true) ∧ ((wPtp 6 0 {}).usesPort (0 : Fin 2).val = true) ∧ (4 ≤ (wPtp 6 0 {}).pst (0 : Fin 2).val) ∧ ((((wPtp 6 0 {}).advance (5)).count (R.ETH_RX_PTP_COUNT (0 : Fin 2).val) (R.ETH_OVF_RX_OVF (0 : Fin 2).val) .time 1) = ((wPtp 6 0 {}).advance (5)).count (R.ETH_RX_PTP_COUNT (0 : Fin 2).val) (R.ETH_OVF_RX_OVF (0 : Fin 2).val) .time 1) ∧ ((((wPtp 6 0 {}).advance (5)).count (R.ETH_RX_PTP_COUNT (0 : Fin 2).val) (R.ETH_OVF_RX_OVF (0 : Fin 2).val) .time 1).pst (0 : Fin 2).val = 6) ∧ ((((wPtp 6 0 {}).advance (5)).count (R.ETH_RX_PTP_COUNT (0 : Fin 2).val) (R.ETH_OVF_RX_OVF (0 : Fin 2).val) .time 1).ptpFlag 2 = false) := by
  exact ⟨by decide, by decide, by decide, by decide, rfl, by decide, by decide⟩

theorem witness_ptp_messages_5 :
    ((wPtp 9 0 { req := some (1, 80, 5) }).clocked = true) ∧ ((wPtp 9 0 { req := some (1, 80, 5) }).flag (R.ETH_STATE_LINK_UP (0 : Fin 2).val) = true) ∧ ((wPtp 9 0 { req := some (1, 80, 5) }).usesPort (0 : Fin 2).val = true) ∧ (4 ≤ (wPtp 9 0 { req := some (1, 80, 5) }).pst (0 : Fin 2).val) ∧ ((((wPtp 9 0 { req := some (1, 80, 5) }).advance (5)).count (R.ETH_RX_PTP_COUNT (0 : Fin 2).val) (R.ETH_OVF_RX_OVF (0 : Fin 2).val) .time 1) = ((wPtp 9 0 { req := some (1, 80, 5) }).advance (5)).count (R.ETH_RX_PTP_COUNT (0 : Fin 2).val) (R.ETH_OVF_RX_OVF (0 : Fin 2).val) .time 1) ∧ ((((wPtp 9 0 { req := some (1, 80, 5) }).advance (5)).count (R.ETH_RX_PTP_COUNT (0 : Fin 2).val) (R.ETH_OVF_RX_OVF (0 : Fin 2).val) .time 1).fromParent (0 : Fin 2).val (0x70001) = true) ∧ ((((wPtp 9 0 { req := some (1, 80, 5) }).advance (5)).count (R.ETH_RX_PTP_COUNT (0 : Fin 2).val) (R.ETH_OVF_RX_OVF (0 : Fin 2).val) .time 1).ptpFlag 2 = false) ∧ (((((wPtp 9 0 { req := some (1, 80, 5) }).advance (5)).count (R.ETH_RX_PTP_COUNT (0 : Fin 2).val) (R.ETH_OVF_RX_OVF (0 : Fin 2).val) .time 1).portId (0 : Fin 2).val) = (((wPtp 9 0 { req := some (1, 80, 5) }).advance (5)).count (R.ETH_RX_PTP_COUNT (0 : Fin 2).val) (R.ETH_OVF_RX_OVF (0 : Fin 2).val) .time 1).portId (0 : Fin 2).val) ∧ (((((wPtp 9 0 { req := some (1, 80, 5) }).advance (5)).count (R.ETH_RX_PTP_COUNT (0 : Fin 2).val) (R.ETH_OVF_RX_OVF (0 : Fin 2).val) .time 1).port (0 : Fin 2).val).req = some ((1), (80 : Int), (5 : Int))) := by
  exact ⟨by decide, by decide, by decide, by decide, rfl, by decide, by decide, rfl, by decide⟩

theorem witness_ptp_messages_6 :
    ((wPtp 9 6 {}).clocked = true) ∧ ((wPtp 9 6 {}).flag (R.ETH_STATE_LINK_UP (0 : Fin 2).val) = true) ∧ ((wPtp 9 6 {}).usesPort (0 : Fin 2).val = true) ∧ (4 ≤ (wPtp 9 6 {}).pst (0 : Fin 2).val) ∧ ((((wPtp 9 6 {}).advance (5)).count (R.ETH_RX_PTP_COUNT (0 : Fin 2).val) (R.ETH_OVF_RX_OVF (0 : Fin 2).val) .time 1) = ((wPtp 9 6 {}).advance (5)).count (R.ETH_RX_PTP_COUNT (0 : Fin 2).val) (R.ETH_OVF_RX_OVF (0 : Fin 2).val) .time 1) ∧ ((((wPtp 9 6 {}).advance (5)).count (R.ETH_RX_PTP_COUNT (0 : Fin 2).val) (R.ETH_OVF_RX_OVF (0 : Fin 2).val) .time 1).ptpFlag 2 = true) ∧ ((((wPtp 9 6 {}).advance (5)).count (R.ETH_RX_PTP_COUNT (0 : Fin 2).val) (R.ETH_OVF_RX_OVF (0 : Fin 2).val) .time 1).ptpFlag 1 = true) := by
  exact ⟨by decide, by decide, by decide, by decide, rfl, by decide, by decide⟩

theorem witness_ptp_messages_7 :
    ((wPtp 9 4 {}).clocked = true) ∧ ((wPtp 9 4 {}).flag (R.ETH_STATE_LINK_UP (0 : Fin 2).val) = true) ∧ ((wPtp 9 4 {}).usesPort (0 : Fin 2).val = true) ∧ (4 ≤ (wPtp 9 4 {}).pst (0 : Fin 2).val) ∧ ((((wPtp 9 4 {}).advance (5)).count (R.ETH_RX_PTP_COUNT (0 : Fin 2).val) (R.ETH_OVF_RX_OVF (0 : Fin 2).val) .time 1) = ((wPtp 9 4 {}).advance (5)).count (R.ETH_RX_PTP_COUNT (0 : Fin 2).val) (R.ETH_OVF_RX_OVF (0 : Fin 2).val) .time 1) ∧ ((((wPtp 9 4 {}).advance (5)).count (R.ETH_RX_PTP_COUNT (0 : Fin 2).val) (R.ETH_OVF_RX_OVF (0 : Fin 2).val) .time 1).ptpFlag 2 = true) ∧ ((((wPtp 9 4 {}).advance (5)).count (R.ETH_RX_PTP_COUNT (0 : Fin 2).val) (R.ETH_OVF_RX_OVF (0 : Fin 2).val) .time 1).ptpFlag 1 = false) := by
  exact ⟨by decide, by decide, by decide, by decide, rfl, by decide, by decide⟩

theorem witness_ptp_messages_8 :
    ((wPtp 9 6 { pdReq := some (1, 80) }).clocked = true) ∧ ((wPtp 9 6 { pdReq := some (1, 80) }).flag (R.ETH_STATE_LINK_UP (0 : Fin 2).val) = true) ∧ ((wPtp 9 6 { pdReq := some (1, 80) }).usesPort (0 : Fin 2).val = true) ∧ (4 ≤ (wPtp 9 6 { pdReq := some (1, 80) }).pst (0 : Fin 2).val) ∧ ((((wPtp 9 6 { pdReq := some (1, 80) }).advance (5)).count (R.ETH_RX_PTP_COUNT (0 : Fin 2).val) (R.ETH_OVF_RX_OVF (0 : Fin 2).val) .time 1) = ((wPtp 9 6 { pdReq := some (1, 80) }).advance (5)).count (R.ETH_RX_PTP_COUNT (0 : Fin 2).val) (R.ETH_OVF_RX_OVF (0 : Fin 2).val) .time 1) ∧ (((((wPtp 9 6 { pdReq := some (1, 80) }).advance (5)).count (R.ETH_RX_PTP_COUNT (0 : Fin 2).val) (R.ETH_OVF_RX_OVF (0 : Fin 2).val) .time 1).port (0 : Fin 2).val).pdReq = some ((1), (80 : Int))) ∧ (((((wPtp 9 6 { pdReq := some (1, 80) }).advance (5)).count (R.ETH_RX_PTP_COUNT (0 : Fin 2).val) (R.ETH_OVF_RX_OVF (0 : Fin 2).val) .time 1).portId (0 : Fin 2).val) = (((wPtp 9 6 { pdReq := some (1, 80) }).advance (5)).count (R.ETH_RX_PTP_COUNT (0 : Fin 2).val) (R.ETH_OVF_RX_OVF (0 : Fin 2).val) .time 1).portId (0 : Fin 2).val) := by
  exact ⟨by decide, by decide, by decide, by decide, rfl, by decide, rfl⟩

theorem witness_ptp_messages_9 :
    ((wPtp 9 4 { pdReq := some (1, 80) }).clocked = true) ∧ ((wPtp 9 4 { pdReq := some (1, 80) }).flag (R.ETH_STATE_LINK_UP (0 : Fin 2).val) = true) ∧ ((wPtp 9 4 { pdReq := some (1, 80) }).usesPort (0 : Fin 2).val = true) ∧ (4 ≤ (wPtp 9 4 { pdReq := some (1, 80) }).pst (0 : Fin 2).val) ∧ ((((wPtp 9 4 { pdReq := some (1, 80) }).advance (5)).count (R.ETH_RX_PTP_COUNT (0 : Fin 2).val) (R.ETH_OVF_RX_OVF (0 : Fin 2).val) .time 1) = ((wPtp 9 4 { pdReq := some (1, 80) }).advance (5)).count (R.ETH_RX_PTP_COUNT (0 : Fin 2).val) (R.ETH_OVF_RX_OVF (0 : Fin 2).val) .time 1) ∧ (((((wPtp 9 4 { pdReq := some (1, 80) }).advance (5)).count (R.ETH_RX_PTP_COUNT (0 : Fin 2).val) (R.ETH_OVF_RX_OVF (0 : Fin 2).val) .time 1).port (0 : Fin 2).val).pdReq = some ((1), (80 : Int))) ∧ (((((wPtp 9 4 { pdReq := some (1, 80) }).advance (5)).count (R.ETH_RX_PTP_COUNT (0 : Fin 2).val) (R.ETH_OVF_RX_OVF (0 : Fin 2).val) .time 1).portId (0 : Fin 2).val) = (((wPtp 9 4 { pdReq := some (1, 80) }).advance (5)).count (R.ETH_RX_PTP_COUNT (0 : Fin 2).val) (R.ETH_OVF_RX_OVF (0 : Fin 2).val) .time 1).portId (0 : Fin 2).val) := by
  exact ⟨by decide, by decide, by decide, by decide, rfl, by decide, rfl⟩

theorem witness_ptp_messages_10 :
    ((wPtp 9 6 { pdReq := some (1, 80), pdResp := some (1, 90, 85, 0) }).clocked = true) ∧ ((wPtp 9 6 { pdReq := some (1, 80), pdResp := some (1, 90, 85, 0) }).flag (R.ETH_STATE_LINK_UP (0 : Fin 2).val) = true) ∧ ((wPtp 9 6 { pdReq := some (1, 80), pdResp := some (1, 90, 85, 0) }).usesPort (0 : Fin 2).val = true) ∧ (4 ≤ (wPtp 9 6 { pdReq := some (1, 80), pdResp := some (1, 90, 85, 0) }).pst (0 : Fin 2).val) ∧ ((((wPtp 9 6 { pdReq := some (1, 80), pdResp := some (1, 90, 85, 0) }).advance (5)).count (R.ETH_RX_PTP_COUNT (0 : Fin 2).val) (R.ETH_OVF_RX_OVF (0 : Fin 2).val) .time 1) = ((wPtp 9 6 { pdReq := some (1, 80), pdResp := some (1, 90, 85, 0) }).advance (5)).count (R.ETH_RX_PTP_COUNT (0 : Fin 2).val) (R.ETH_OVF_RX_OVF (0 : Fin 2).val) .time 1) ∧ (((((wPtp 9 6 { pdReq := some (1, 80), pdResp := some (1, 90, 85, 0) }).advance (5)).count (R.ETH_RX_PTP_COUNT (0 : Fin 2).val) (R.ETH_OVF_RX_OVF (0 : Fin 2).val) .time 1).port (0 : Fin 2).val).pdReq = some ((1), (80 : Int))) ∧ (((((wPtp 9 6 { pdReq := some (1, 80), pdResp := some (1, 90, 85, 0) }).advance (5)).count (R.ETH_RX_PTP_COUNT (0 : Fin 2).val) (R.ETH_OVF_RX_OVF (0 : Fin 2).val) .time 1).port (0 : Fin 2).val).pdResp = some ((1), (90 : Int), (85 : Int), (0 : Int))) ∧ (((((wPtp 9 6 { pdReq := some (1, 80), pdResp := some (1, 90, 85, 0) }).advance (5)).count (R.ETH_RX_PTP_COUNT (0 : Fin 2).val) (R.ETH_OVF_RX_OVF (0 : Fin 2).val) .time 1).portId (0 : Fin 2).val) = (((wPtp 9 6 { pdReq := some (1, 80), pdResp := some (1, 90, 85, 0) }).advance (5)).count (R.ETH_RX_PTP_COUNT (0 : Fin 2).val) (R.ETH_OVF_RX_OVF (0 : Fin 2).val) .time 1).portId (0 : Fin 2).val) := by
  exact ⟨by decide, by decide, by decide, by decide, rfl, by decide, by decide, rfl⟩

theorem witness_ptp_messages_11 :
    ((wPtp 9 0 {}).clocked = true) ∧ ((wPtp 9 0 {}).flag (R.ETH_STATE_LINK_UP (0 : Fin 2).val) = true) ∧ ((wPtp 9 0 {}).usesPort (0 : Fin 2).val = true) ∧ (4 ≤ (wPtp 9 0 {}).pst (0 : Fin 2).val) ∧ ((((wPtp 9 0 {}).advance (5)).count (R.ETH_RX_PTP_COUNT (0 : Fin 2).val) (R.ETH_OVF_RX_OVF (0 : Fin 2).val) .time 1) = ((wPtp 9 0 {}).advance (5)).count (R.ETH_RX_PTP_COUNT (0 : Fin 2).val) (R.ETH_OVF_RX_OVF (0 : Fin 2).val) .time 1) ∧ ((wAnn : Announce).source / 65536 ≠ (((wPtp 9 0 {}).advance (5)).count (R.ETH_RX_PTP_COUNT (0 : Fin 2).val) (R.ETH_OVF_RX_OVF (0 : Fin 2).val) .time 1).ptpB 24 8) ∧ ((((((wPtp 9 0 {}).advance (5)).count (R.ETH_RX_PTP_COUNT (0 : Fin 2).val) (R.ETH_OVF_RX_OVF (0 : Fin 2).val) .time 1).port (0 : Fin 2).val).note (wAnn : Announce) (5) (4 * (((wPtp 9 0 {}).advance (5)).count (R.ETH_RX_PTP_COUNT (0 : Fin 2).val) (R.ETH_OVF_RX_OVF (0 : Fin 2).val) .time 1).annInterval) : PtpPort) = ((((wPtp 9 0 {}).advance (5)).count (R.ETH_RX_PTP_COUNT (0 : Fin 2).val) (R.ETH_OVF_RX_OVF (0 : Fin 2).val) .time 1).port (0 : Fin 2).val).note (wAnn : Announce) (5) (4 * (((wPtp 9 0 {}).advance (5)).count (R.ETH_RX_PTP_COUNT (0 : Fin 2).val) (R.ETH_OVF_RX_OVF (0 : Fin 2).val) .time 1).annInterval)) := by
  exact ⟨by decide, by decide, by decide, by decide, rfl, by decide, rfl⟩

theorem witness_ptp_messages_12 :
    ((wPtp 9 0 {}).clocked = true) := by
  decide

theorem witness_ptp_messages_13 :
    (({ wPtp 9 0 {} with ptp := {} }).clocked = true) ∧ (({ wPtp 9 0 {} with ptp := {} }).flag (R.ETH_STATE_LINK_UP (0 : Fin 2).val) = true) ∧ (({ wPtp 9 0 {} with ptp := {} }).usesPort (0 : Fin 2).val = false) := by
  decide

theorem witness_ptp_timers_1 :
    ((wPtp 6 2 { syncSeq := 65535 }).clocked = true) ∧ (((wPtp 6 2 { syncSeq := 65535 }).advance (5)) = (wPtp 6 2 { syncSeq := 65535 }).advance (5)) ∧ (((wPtp 6 2 { syncSeq := 65535 }).advance (5)).pst (0 : Fin 2).val = 6) := by
  exact ⟨by decide, rfl, by decide⟩

theorem witness_ptp_timers_2 :
    ((wPtp 6 2 {}).clocked = true) ∧ (((wPtp 6 2 {}).advance (5)) = (wPtp 6 2 {}).advance (5)) ∧ (((wPtp 6 2 {}).advance (5)).pst (0 : Fin 2).val = 6) ∧ ((((wPtp 6 2 {}).advance (5)).annSet (0 : Fin 2).val : Announce) = ((wPtp 6 2 {}).advance (5)).annSet (0 : Fin 2).val) := by
  exact ⟨by decide, rfl, by decide, rfl⟩

theorem witness_ptp_timers_3 :
    ((wPtp 5 2 {}).clocked = true) ∧ (((wPtp 5 2 {}).advance (5)) = (wPtp 5 2 {}).advance (5)) ∧ (((wPtp 5 2 {}).advance (5)).pst (0 : Fin 2).val = 5) := by
  exact ⟨by decide, rfl, by decide⟩

theorem witness_ptp_timers_4 :
    ((wPtp 9 4 {}).clocked = true) ∧ (((wPtp 9 4 {}).advance (5)) = (wPtp 9 4 {}).advance (5)) ∧ (((wPtp 9 4 {}).advance (5)).ptpFlag 2 = true) ∧ (((wPtp 9 4 {}).advance (5)).usesPort (0 : Fin 2).val = true) ∧ (4 ≤ ((wPtp 9 4 {}).advance (5)).pst (0 : Fin 2).val) := by
  exact ⟨by decide, rfl, by decide, by decide, by decide⟩

theorem witness_ptp_timers_5 :
    ((wPtp 9 0 { diff := some 4 }).clocked = true) ∧ (((wPtp 9 0 { diff := some 4 }).advance (5)) = (wPtp 9 0 { diff := some 4 }).advance (5)) ∧ (((wPtp 9 0 { diff := some 4 }).advance (5)).ptpFlag 2 = false) ∧ (((wPtp 9 0 { diff := some 4 }).advance (5)).pst (0 : Fin 2).val = 9 ∨ ((wPtp 9 0 { diff := some 4 }).advance (5)).pst (0 : Fin 2).val = 8) ∧ ((((wPtp 9 0 { diff := some 4 }).advance (5)).port (0 : Fin 2).val).diff = some (4 : Int)) := by
  exact ⟨by decide, rfl, by decide, by decide, by decide⟩

theorem witness_ptp_timers_6 :
    ((wPtp 8 0 {}).clocked = true) ∧ (((wPtp 8 0 {}).advance (5)) = (wPtp 8 0 {}).advance (5)) ∧ (((wPtp 8 0 {}).advance (5)).ptpFlag 2 = false) ∧ (((wPtp 8 0 {}).advance (5)).pst (0 : Fin 2).val = 9 ∨ ((wPtp 8 0 {}).advance (5)).pst (0 : Fin 2).val = 8) ∧ ((((wPtp 8 0 {}).advance (5)).port (0 : Fin 2).val).diff = none) := by
  exact ⟨by decide, rfl, by decide, by decide, by decide⟩

theorem witness_ptp_timers_7 :
    ((wPtp 9 0 {}).clocked = true) ∧ ((wPtp 9 0 {}).usesPort (0 : Fin 2).val = true) ∧ ((wPtp 9 0 {}).pst (0 : Fin 2).val = 9 ∨ (wPtp 9 0 {}).pst (0 : Fin 2).val = 8) := by
  decide

theorem witness_ptp_timers_8 :
    ((wPtp 4 0 {}).clocked = true) ∧ ((wPtp 4 0 {}).usesPort (0 : Fin 2).val = true) ∧ ((wPtp 4 0 {}).pst (0 : Fin 2).val = 4 ∧ (wPtp 4 0 {}).ptpFlag 0 = false ∨ (wPtp 4 0 {}).pst (0 : Fin 2).val = 7) ∧ ((((wPtp 4 0 {}).advance (((wPtp 4 0 {}).port (0 : Fin 2).val).annAt + (wPtp 4 0 {}).ptpB 13 1 * (wPtp 4 0 {}).annInterval))) = ((wPtp 4 0 {}).advance (((wPtp 4 0 {}).port (0 : Fin 2).val).annAt + (wPtp 4 0 {}).ptpB 13 1 * (wPtp 4 0 {}).annInterval))) := by
  exact ⟨by decide, by decide, by decide, rfl⟩

theorem witness_ptp_timers_9 :
    ((wPtp 7 1 {}).clocked = true) ∧ ((wPtp 7 1 {}).usesPort (0 : Fin 2).val = true) ∧ ((wPtp 7 1 {}).pst (0 : Fin 2).val = 4 ∧ (wPtp 7 1 {}).ptpFlag 0 = false ∨ (wPtp 7 1 {}).pst (0 : Fin 2).val = 7) ∧ ((((wPtp 7 1 {}).advance (((wPtp 7 1 {}).port (0 : Fin 2).val).annAt + (wPtp 7 1 {}).ptpB 13 1 * (wPtp 7 1 {}).annInterval))) = ((wPtp 7 1 {}).advance (((wPtp 7 1 {}).port (0 : Fin 2).val).annAt + (wPtp 7 1 {}).ptpB 13 1 * (wPtp 7 1 {}).annInterval))) := by
  exact ⟨by decide, by decide, by decide, rfl⟩

theorem witness_ptp_timers_10 :
    ((wPtp 8 0 {}).clocked = true) ∧ ((wPtp 8 0 {}).pst (0 : Fin 2).val = 9 ∨ (wPtp 8 0 {}).pst (0 : Fin 2).val = 8) := by
  decide

theorem witness_ptp_timers_11 :
    ((((wPtp 2 0 {}).wr (R.ETH_STATE_LINK_UP 0) 0).wr (R.LANE_STATUS_BLOCK_LOCK (LaneId.eth 0).b) 1).clocked = true) ∧ ((((wPtp 2 0 {}).wr (R.ETH_STATE_LINK_UP 0) 0).wr (R.LANE_STATUS_BLOCK_LOCK (LaneId.eth 0).b) 1).accepts (.port (0 : Fin 2)) = true) ∧ ((((wPtp 2 0 {}).wr (R.ETH_STATE_LINK_UP 0) 0).wr (R.LANE_STATUS_BLOCK_LOCK (LaneId.eth 0).b) 1).flag (R.LANE_STATUS_BLOCK_LOCK (LaneId.eth (0 : Fin 2)).b) = true) ∧ ((((wPtp 2 0 {}).wr (R.ETH_STATE_LINK_UP 0) 0).wr (R.LANE_STATUS_BLOCK_LOCK (LaneId.eth 0).b) 1).flag (R.ETH_STATE_LINK_UP (0 : Fin 2).val) = false) ∧ (((((wPtp 2 0 {}).wr (R.ETH_STATE_LINK_UP 0) 0).wr (R.LANE_STATUS_BLOCK_LOCK (LaneId.eth 0).b) 1).advance (((((wPtp 2 0 {}).wr (R.ETH_STATE_LINK_UP 0) 0).wr (R.LANE_STATUS_BLOCK_LOCK (LaneId.eth 0).b) 1).lane (.eth (0 : Fin 2))).lockAt + 16000000)) = (((wPtp 2 0 {}).wr (R.ETH_STATE_LINK_UP 0) 0).wr (R.LANE_STATUS_BLOCK_LOCK (LaneId.eth 0).b) 1).advance (((((wPtp 2 0 {}).wr (R.ETH_STATE_LINK_UP 0) 0).wr (R.LANE_STATUS_BLOCK_LOCK (LaneId.eth 0).b) 1).lane (.eth (0 : Fin 2))).lockAt + 16000000)) ∧ ((((((((wPtp 2 0 {}).wr (R.ETH_STATE_LINK_UP 0) 0).wr (R.LANE_STATUS_BLOCK_LOCK (LaneId.eth 0).b) 1).advance (((((wPtp 2 0 {}).wr (R.ETH_STATE_LINK_UP 0) 0).wr (R.LANE_STATUS_BLOCK_LOCK (LaneId.eth 0).b) 1).lane (.eth (0 : Fin 2))).lockAt + 16000000)).wrB (R.ETH_STATE_LINK_UP (0 : Fin 2).val) true).wr (R.LANE_STATUS_LSTATE (Node.port (0 : Fin 2)).base) 5).raise .time 20) = ((((((wPtp 2 0 {}).wr (R.ETH_STATE_LINK_UP 0) 0).wr (R.LANE_STATUS_BLOCK_LOCK (LaneId.eth 0).b) 1).advance (((((wPtp 2 0 {}).wr (R.ETH_STATE_LINK_UP 0) 0).wr (R.LANE_STATUS_BLOCK_LOCK (LaneId.eth 0).b) 1).lane (.eth (0 : Fin 2))).lockAt + 16000000)).wrB (R.ETH_STATE_LINK_UP (0 : Fin 2).val) true).wr (R.LANE_STATUS_LSTATE (Node.port (0 : Fin 2)).base) 5).raise .time 20) := by
  exact ⟨by decide, by decide, by decide, by decide, rfl, rfl⟩

theorem witness_ptp_timers_12 :
    ((wPtp 9 0 {}).clocked = true) ∧ ((wPtp 9 0 {}).flag (R.ETH_STATE_LINK_UP (0 : Fin 2).val) = true) ∧ (((((wPtp 9 0 {}).wrB (R.ETH_STATE_LINK_UP (0 : Fin 2).val) false).wr (R.LANE_STATUS_LSTATE (Node.port (0 : Fin 2)).base) 0).raise .time 20) = (((wPtp 9 0 {}).wrB (R.ETH_STATE_LINK_UP (0 : Fin 2).val) false).wr (R.LANE_STATUS_LSTATE (Node.port (0 : Fin 2)).base) 0).raise .time 20) := by
  exact ⟨by decide, by decide, rfl⟩

theorem witness_time_packets_1 :
    ((wHost ((wOn [.time]).wr (R.ETH_MAC_ADDR 0) 1) 0 ([0, 0, 0, 0, 0, 0, 0, 0, 0, 0, 0, 0, 0, 3, 0, 0, 0, 0, 0, 0, 0, 0, 0, 0, 1, 0, 0, 0, 0, 0, 0, 0, 0, 0, 0, 0, 1, 0, 0, 0, 1, 0, 1, 0, 1, 0, 0, 0])).Takes (.ptpConfig (hS) (0)) opPtpConfig (hS)) ∧ ((wHost ((wOn [.time]).wr (R.ETH_MAC_ADDR 0) 1) 0 ([0, 0, 0, 0, 0, 0, 0, 0, 0, 0, 0, 0, 0, 3, 0, 0, 0, 0, 0, 0, 0, 0, 0, 0, 1, 0, 0, 0, 0, 0, 0, 0, 0, 0, 0, 0, 1, 0, 0, 0, 1, 0, 1, 0, 1, 0, 0, 0])).accepts .time = true) ∧ ((wHost ((wOn [.time]).wr (R.ETH_MAC_ADDR 0) 1) 0 ([0, 0, 0, 0, 0, 0, 0, 0, 0, 0, 0, 0, 0, 3, 0, 0, 0, 0, 0, 0, 0, 0, 0, 0, 1, 0, 0, 0, 0, 0, 0, 0, 0, 0, 0, 0, 1, 0, 0, 0, 1, 0, 1, 0, 1, 0, 0, 0])).Reads (0) 64 ((wHost ((wOn [.time]).wr (R.ETH_MAC_ADDR 0) 1) 0 ([0, 0, 0, 0, 0, 0, 0, 0, 0, 0, 0, 0, 0, 3, 0, 0, 0, 0, 0, 0, 0, 0, 0, 0, 1, 0, 0, 0, 0, 0, 0, 0, 0, 0, 0, 0, 1, 0, 0, 0, 1, 0, 1, 0, 1, 0, 0, 0])).bytesAt 0 64 : List Byte)) ∧ ((wHost ((wOn [.time]).wr (R.ETH_MAC_ADDR 0) 1) 0 ([0, 0, 0, 0, 0, 0, 0, 0, 0, 0, 0, 0, 0, 3, 0, 0, 0, 0, 0, 0, 0, 0, 0, 0, 1, 0, 0, 0, 0, 0, 0, 0, 0, 0, 0, 0, 1, 0, 0, 0, 1, 0, 1, 0, 1, 0, 0, 0])).ptpBad ((wHost ((wOn [.time]).wr (R.ETH_MAC_ADDR 0) 1) 0 ([0, 0, 0, 0, 0, 0, 0, 0, 0, 0, 0, 0, 0, 3, 0, 0, 0, 0, 0, 0, 0, 0, 0, 0, 1, 0, 0, 0, 0, 0, 0, 0, 0, 0, 0, 0, 1, 0, 0, 0, 1, 0, 1, 0, 1, 0, 0, 0])).bytesAt 0 64 : List Byte) = false) ∧ ((((wHost ((wOn [.time]).wr (R.ETH_MAC_ADDR 0) 1) 0 ([0, 0, 0, 0, 0, 0, 0, 0, 0, 0, 0, 0, 0, 3, 0, 0, 0, 0, 0, 0, 0, 0, 0, 0, 1, 0, 0, 0, 0, 0, 0, 0, 0, 0, 0, 0, 1, 0, 0, 0, 1, 0, 1, 0, 1, 0, 0, 0])).begun opPtpConfig (hS)).touch 2 0 64) = ((wHost ((wOn [.time]).wr (R.ETH_MAC_ADDR 0) 1) 0 ([0, 0, 0, 0, 0, 0, 0, 0, 0, 0, 0, 0, 0, 3, 0, 0, 0, 0, 0, 0, 0, 0, 0, 0, 1, 0, 0, 0, 0, 0, 0, 0, 0, 0, 0, 0, 1, 0, 0, 0, 1, 0, 1, 0, 1, 0, 0, 0])).begun opPtpConfig (hS)).touch 2 (0) 64) := by
  decide

theorem witness_time_packets_2 :
    ((wOn [.time]).Takes (.pulseSet (hJ) (7) (3) (1) (0) (0) (0) (8)) opPulseSet (hJ)) ∧ ((wOn [.time]).accepts .time = true) ∧ ((7) ≤ 7) ∧ ((3) ≤ 3) ∧ ((0) ≤ 999999999) ∧ ((1) < 2 ^ 48) ∧ ((0) < 2 ^ 16) ∧ (8 ≤ (8)) ∧ ((8) ≤ 1000000000) ∧ ((0) = 0 ∨ (8) + 8 ≤ (0)) ∧ ((tbValue (1) (0) (0) : Int) = tbValue (1) (0) (0)) ∧ ((((wOn [.time]).begun opPulseSet (hJ)).baseAt (3) (wOn [.time]).now + 5000 * 65536 : Int) = ((wOn [.time]).begun opPulseSet (hJ)).baseAt (3) (wOn [.time]).now + 5000 * 65536) ∧ ((((wOn [.time]).begun opPulseSet (hJ)).baseAt (3) (wOn [.time]).now + 5000 * 65536 : Int) ≤ (tbValue (1) (0) (0) : Int)) := by
  exact ⟨by decide, by decide, by decide, by decide, by decide, by decide, by decide, by decide, by decide, by decide, rfl, rfl, by decide⟩

theorem witness_time_packets_3 :
    ((wOn [.time]).Takes (.pulseSet (hJ) (7) (3) (0) (0) (0) (0) (8)) opPulseSet (hJ)) ∧ ((wOn [.time]).accepts .time = true) ∧ ((7) ≤ 7) ∧ ((3) ≤ 3) ∧ ((0) ≤ 999999999) ∧ ((0) < 2 ^ 48) ∧ ((0) < 2 ^ 16) ∧ (8 ≤ (8)) ∧ ((8) ≤ 1000000000) ∧ ((0) = 0 ∨ (8) + 8 ≤ (0)) ∧ ((tbValue (0) (0) (0) : Int) = tbValue (0) (0) (0)) ∧ ((((wOn [.time]).begun opPulseSet (hJ)).baseAt (3) (wOn [.time]).now + 5000 * 65536 : Int) = ((wOn [.time]).begun opPulseSet (hJ)).baseAt (3) (wOn [.time]).now + 5000 * 65536) ∧ ((tbValue (0) (0) (0) : Int) < (((wOn [.time]).begun opPulseSet (hJ)).baseAt (3) (wOn [.time]).now + 5000 * 65536 : Int)) ∧ ((0) = 0) := by
  exact ⟨by decide, by decide, by decide, by decide, by decide, by decide, by decide, by decide, by decide, by decide, rfl, rfl, by decide, rfl⟩

theorem witness_time_packets_4 :
    ((wOn [.time]).Takes (.pulseSet (hJ) (7) (3) (0) (0) (0) (16) (8)) opPulseSet (hJ)) ∧ ((wOn [.time]).accepts .time = true) ∧ ((7) ≤ 7) ∧ ((3) ≤ 3) ∧ ((0) ≤ 999999999) ∧ ((0) < 2 ^ 48) ∧ ((0) < 2 ^ 16) ∧ (8 ≤ (8)) ∧ ((8) ≤ 1000000000) ∧ ((16) = 0 ∨ (8) + 8 ≤ (16)) ∧ ((tbValue (0) (0) (0) : Int) = tbValue (0) (0) (0)) ∧ ((((wOn [.time]).begun opPulseSet (hJ)).baseAt (3) (wOn [.time]).now + 5000 * 65536 : Int) = ((wOn [.time]).begun opPulseSet (hJ)).baseAt (3) (wOn [.time]).now + 5000 * 65536) ∧ ((tbValue (0) (0) (0) : Int) < (((wOn [.time]).begun opPulseSet (hJ)).baseAt (3) (wOn [.time]).now + 5000 * 65536 : Int)) ∧ ((16) ≠ 0) ∧ (((((((wOn [.time]).begun opPulseSet (hJ)).baseAt (3) (wOn [.time]).now + 5000 * 65536 : Int) - (tbValue (0) (0) (0) : Int) + ((16) : Int) * 65536 - 1) / (((16) : Int) * 65536)).toNat) = (((((wOn [.time]).begun opPulseSet (hJ)).baseAt (3) (wOn [.time]).now + 5000 * 65536 : Int) - (tbValue (0) (0) (0) : Int) + ((16) : Int) * 65536 - 1) / (((16) : Int) * 65536)).toNat) := by
  exact ⟨by decide, by decide, by decide, by decide, by decide, by decide, by decide, by decide, by decide, by decide, rfl, rfl, by decide, by decide, rfl⟩

theorem witness_time_packets_5 :
    ((wOn [.time]).Takes (.timeRead (hJ) (3)) opTimeRead (hJ)) ∧ ((wOn [.time]).accepts .time = true) ∧ ((3) ≤ 3) := by
  decide

theorem witness_time_events_1 :
    ((((wOn [.time]).setPls 2 { sched := some ⟨0, 65536 * 100, 0, 8, 0⟩ }).advance (16)) = ((wOn [.time]).setPls 2 { sched := some ⟨0, 65536 * 100, 0, 8, 0⟩ }).advance (16)) ∧ (((((wOn [.time]).setPls 2 { sched := some ⟨0, 65536 * 100, 0, 8, 0⟩ }).advance (16)).pls (2 : Fin 8).val).sched = some (⟨0, 65536 * 100, 0, 8, 0⟩ : PlsSched)) ∧ ((1600) = ((((wOn [.time]).setPls 2 { sched := some ⟨0, 65536 * 100, 0, 8, 0⟩ }).advance (16)).fireOf (⟨0, 65536 * 100, 0, 8, 0⟩ : PlsSched).base ((⟨0, 65536 * 100, 0, 8, 0⟩ : PlsSched).time (⟨0, 65536 * 100, 0, 8, 0⟩ : PlsSched).next)).toNat) ∧ ((1600) ≤ (((wOn [.time]).setPls 2 { sched := some ⟨0, 65536 * 100, 0, 8, 0⟩ }).advance (16)).now + 32000) ∧ ((((wOn [.time]).setPls 2 { sched := some ⟨0, 65536 * 100, 0, 8, 0⟩ }).advance (16)).accepts .time = true) ∧ ((((wOn [.time]).setPls 2 { sched := some ⟨0, 65536 * 100, 0, 8, 0⟩ }).advance (16)).hlth.shutdown = false) ∧ ((((wOn [.time]).setPls 2 { sched := some ⟨0, 65536 * 100, 0, 8, 0⟩ }).advance (16)).hlth.rootLost = false) := by
  exact ⟨rfl, by decide, by decide, by decide, by decide, by decide, by decide⟩

theorem witness_time_events_2 :
    ((((wOn [.time]).setPls 7 { until' := some 16 }).advance (16)) = ((wOn [.time]).setPls 7 { until' := some 16 }).advance (16)) ∧ (((((wOn [.time]).setPls 7 { until' := some 16 }).advance (16)).pls (7 : Fin 8).val).until' = some (16)) ∧ ((16) ≤ (((wOn [.time]).setPls 7 { until' := some 16 }).advance (16)).now) := by
  exact ⟨rfl, by decide, by decide⟩

theorem witness_time_events_3 :
    ((State.reset).HostReaches) ∧ ((State.reset).rd (R.TB_STATE_SOURCE (3 : Fin 4).val) ≠ 1) ∧ ((State.reset).rd (R.TB_SET_NS_NS (3 : Fin 4).val) ≤ 999999999) := by
  decide

theorem witness_time_events_4 :
    ((State.reset.wr (R.TB_STATE_SOURCE 3) 1).HostReaches) ∧ ((State.reset.wr (R.TB_STATE_SOURCE 3) 1).rd (R.TB_STATE_SOURCE (3 : Fin 4).val) = 1 ∨ 999999999 < (State.reset.wr (R.TB_STATE_SOURCE 3) 1).rd (R.TB_SET_NS_NS (3 : Fin 4).val)) := by
  decide

theorem witness_time_events_5 :
    ((State.reset).HostReaches) ∧ ((State.reset).rd (R.TB_STATE_SOURCE (3 : Fin 4).val) ≠ 1) := by
  decide

theorem witness_time_events_6 :
    ((State.reset.wr (R.TB_STATE_SOURCE 3) 1).HostReaches) ∧ ((State.reset.wr (R.TB_STATE_SOURCE 3) 1).rd (R.TB_STATE_SOURCE (3 : Fin 4).val) = 1) := by
  decide

theorem witness_axis_packets_1 :
    ((wAxis).Takes (.axisMove (hJ) (7) (1000) (10) (100) (100000000)) opAxisMove (hJ)) ∧ ((wAxis).accepts (axisNode (7)) = true) ∧ ((7) ≤ 7) ∧ ((decide (toS 32 (1000) < ((wAxis).ax (7)).softMin) || decide (((wAxis).ax (7)).softMax < toS 32 (1000)) || decide ((10) < ((wAxis).ax (7)).startRate) || decide (1000000 < (10)) ||
      decide ((100) < 100) || decide (100000000 < (100)) || decide ((100000000) < 100) || decide (100000000 < (100000000))) = false) ∧ ((wAxis).axMoving (7) = false) ∧ ((wAxis).flag (R.AX_STATUS_HOMED (axisB (7))) = true) ∧ (((((((wAxis).begun opAxisMove (hJ)).wr (R.AX_ACCEL_ACCEL (axisB (7))) (100)).wr (R.AX_DECEL_DECEL (axisB (7))) (100000000)).wr (R.AX_STATUS_DECEL_RAISED (axisB (7))) 0).bridgesOn (7)) = (((((wAxis).begun opAxisMove (hJ)).wr (R.AX_ACCEL_ACCEL (axisB (7))) (100)).wr (R.AX_DECEL_DECEL (axisB (7))) (100000000)).wr (R.AX_STATUS_DECEL_RAISED (axisB (7))) 0).bridgesOn (7)) ∧ ((((((((wAxis).begun opAxisMove (hJ)).wr (R.AX_ACCEL_ACCEL (axisB (7))) (100)).wr (R.AX_DECEL_DECEL (axisB (7))) (100000000)).wr (R.AX_STATUS_DECEL_RAISED (axisB (7))) 0).bridgesOn (7)).setAx (7) { (((((((wAxis).begun opAxisMove (hJ)).wr (R.AX_ACCEL_ACCEL (axisB (7))) (100)).wr (R.AX_DECEL_DECEL (axisB (7))) (100000000)).wr (R.AX_STATUS_DECEL_RAISED (axisB (7))) 0).bridgesOn (7)).ax (7)) with pk := some ((wAxis).asPk opAxisMove (hJ)) }) = ((((((wAxis).begun opAxisMove (hJ)).wr (R.AX_ACCEL_ACCEL (axisB (7))) (100)).wr (R.AX_DECEL_DECEL (axisB (7))) (100000000)).wr (R.AX_STATUS_DECEL_RAISED (axisB (7))) 0).bridgesOn (7)).setAx (7) { (((((((wAxis).begun opAxisMove (hJ)).wr (R.AX_ACCEL_ACCEL (axisB (7))) (100)).wr (R.AX_DECEL_DECEL (axisB (7))) (100000000)).wr (R.AX_STATUS_DECEL_RAISED (axisB (7))) 0).bridgesOn (7)).ax (7)) with pk := some ((wAxis).asPk opAxisMove (hJ)) }) ∧ ((if (10) = ((wAxis).ax (7)).startRate then ((((((((wAxis).begun opAxisMove (hJ)).wr (R.AX_ACCEL_ACCEL (axisB (7))) (100)).wr (R.AX_DECEL_DECEL (axisB (7))) (100000000)).wr (R.AX_STATUS_DECEL_RAISED (axisB (7))) 0).bridgesOn (7)).setAx (7) { (((((((wAxis).begun opAxisMove (hJ)).wr (R.AX_ACCEL_ACCEL (axisB (7))) (100)).wr (R.AX_DECEL_DECEL (axisB (7))) (100000000)).wr (R.AX_STATUS_DECEL_RAISED (axisB (7))) 0).bridgesOn (7)).ax (7)) with pk := some ((wAxis).asPk opAxisMove (hJ)) }).axGo (7) (decide (toS 32 (1000) < (((((((wAxis).begun opAxisMove (hJ)).wr (R.AX_ACCEL_ACCEL (axisB (7))) (100)).wr (R.AX_DECEL_DECEL (axisB (7))) (100000000)).wr (R.AX_STATUS_DECEL_RAISED (axisB (7))) 0).bridgesOn (7)).setAx (7) { (((((((wAxis).begun opAxisMove (hJ)).wr (R.AX_ACCEL_ACCEL (axisB (7))) (100)).wr (R.AX_DECEL_DECEL (axisB (7))) (100000000)).wr (R.AX_STATUS_DECEL_RAISED (axisB (7))) 0).bridgesOn (7)).ax (7)) with pk := some ((wAxis).asPk opAxisMove (hJ)) }).axPos (7))) (.move (toS 32 (1000)) (10)) ((wAxis).ax (7)).startRate).startCruise (7) (10) else (((((((wAxis).begun opAxisMove (hJ)).wr (R.AX_ACCEL_ACCEL (axisB (7))) (100)).wr (R.AX_DECEL_DECEL (axisB (7))) (100000000)).wr (R.AX_STATUS_DECEL_RAISED (axisB (7))) 0).bridgesOn (7)).setAx (7) { (((((((wAxis).begun opAxisMove (hJ)).wr (R.AX_ACCEL_ACCEL (axisB (7))) (100)).wr (R.AX_DECEL_DECEL (axisB (7))) (100000000)).wr (R.AX_STATUS_DECEL_RAISED (axisB (7))) 0).bridgesOn (7)).ax (7)) with pk := some ((wAxis).asPk opAxisMove (hJ)) }).axGo (7) (decide (toS 32 (1000) < (((((((wAxis).begun opAxisMove (hJ)).wr (R.AX_ACCEL_ACCEL (axisB (7))) (100)).wr (R.AX_DECEL_DECEL (axisB (7))) (100000000)).wr (R.AX_STATUS_DECEL_RAISED (axisB (7))) 0).bridgesOn (7)).setAx (7) { (((((((wAxis).begun opAxisMove (hJ)).wr (R.AX_ACCEL_ACCEL (axisB (7))) (100)).wr (R.AX_DECEL_DECEL (axisB (7))) (100000000)).wr (R.AX_STATUS_DECEL_RAISED (axisB (7))) 0).bridgesOn (7)).ax (7)) with pk := some ((wAxis).asPk opAxisMove (hJ)) }).axPos (7))) (.move (toS 32 (1000)) (10)) ((wAxis).ax (7)).startRate) = if (10) = ((wAxis).ax (7)).startRate then ((((((((wAxis).begun opAxisMove (hJ)).wr (R.AX_ACCEL_ACCEL (axisB (7))) (100)).wr (R.AX_DECEL_DECEL (axisB (7))) (100000000)).wr (R.AX_STATUS_DECEL_RAISED (axisB (7))) 0).bridgesOn (7)).setAx (7) { (((((((wAxis).begun opAxisMove (hJ)).wr (R.AX_ACCEL_ACCEL (axisB (7))) (100)).wr (R.AX_DECEL_DECEL (axisB (7))) (100000000)).wr (R.AX_STATUS_DECEL_RAISED (axisB (7))) 0).bridgesOn (7)).ax (7)) with pk := some ((wAxis).asPk opAxisMove (hJ)) }).axGo (7) (decide (toS 32 (1000) < (((((((wAxis).begun opAxisMove (hJ)).wr (R.AX_ACCEL_ACCEL (axisB (7))) (100)).wr (R.AX_DECEL_DECEL (axisB (7))) (100000000)).wr (R.AX_STATUS_DECEL_RAISED (axisB (7))) 0).bridgesOn (7)).setAx (7) { (((((((wAxis).begun opAxisMove (hJ)).wr (R.AX_ACCEL_ACCEL (axisB (7))) (100)).wr (R.AX_DECEL_DECEL (axisB (7))) (100000000)).wr (R.AX_STATUS_DECEL_RAISED (axisB (7))) 0).bridgesOn (7)).ax (7)) with pk := some ((wAxis).asPk opAxisMove (hJ)) }).axPos (7))) (.move (toS 32 (1000)) (10)) ((wAxis).ax (7)).startRate).startCruise (7) (10) else (((((((wAxis).begun opAxisMove (hJ)).wr (R.AX_ACCEL_ACCEL (axisB (7))) (100)).wr (R.AX_DECEL_DECEL (axisB (7))) (100000000)).wr (R.AX_STATUS_DECEL_RAISED (axisB (7))) 0).bridgesOn (7)).setAx (7) { (((((((wAxis).begun opAxisMove (hJ)).wr (R.AX_ACCEL_ACCEL (axisB (7))) (100)).wr (R.AX_DECEL_DECEL (axisB (7))) (100000000)).wr (R.AX_STATUS_DECEL_RAISED (axisB (7))) 0).bridgesOn (7)).ax (7)) with pk := some ((wAxis).asPk opAxisMove (hJ)) }).axGo (7) (decide (toS 32 (1000) < (((((((wAxis).begun opAxisMove (hJ)).wr (R.AX_ACCEL_ACCEL (axisB (7))) (100)).wr (R.AX_DECEL_DECEL (axisB (7))) (100000000)).wr (R.AX_STATUS_DECEL_RAISED (axisB (7))) 0).bridgesOn (7)).setAx (7) { (((((((wAxis).begun opAxisMove (hJ)).wr (R.AX_ACCEL_ACCEL (axisB (7))) (100)).wr (R.AX_DECEL_DECEL (axisB (7))) (100000000)).wr (R.AX_STATUS_DECEL_RAISED (axisB (7))) 0).bridgesOn (7)).ax (7)) with pk := some ((wAxis).asPk opAxisMove (hJ)) }).axPos (7))) (.move (toS 32 (1000)) (10)) ((wAxis).ax (7)).startRate) := by
  exact ⟨by decide, by decide, by decide, by decide, by decide, by decide, rfl, rfl, rfl⟩

theorem witness_axis_packets_2 :
    ((wAxis).Takes (.axisHome (hJ) (7) (1)) opAxisHome (hJ)) ∧ ((wAxis).accepts (axisNode (7)) = true) ∧ ((7) ≤ 7) ∧ ((1) ≤ 3) ∧ (((1) < 2 ∨ (List.range 4).any (fun i => ((wAxis).ax (7)).homeRef (decide ((1) % 2 = 0)) i) = true)) ∧ ((wAxis).axMoving (7) = false) ∧ (((((((wAxis).begun opAxisHome (hJ)).wr (R.AX_STATUS_HOMED (axisB (7))) 0).wr (R.AX_STATUS_DECEL_RAISED (axisB (7))) 0).wr (R.AX_STATUS_HOMING (axisB (7))) 1).bridgesOn (7)) = (((((wAxis).begun opAxisHome (hJ)).wr (R.AX_STATUS_HOMED (axisB (7))) 0).wr (R.AX_STATUS_DECEL_RAISED (axisB (7))) 0).wr (R.AX_STATUS_HOMING (axisB (7))) 1).bridgesOn (7)) ∧ ((State.axGo (((((((wAxis).begun opAxisHome (hJ)).wr (R.AX_STATUS_HOMED (axisB (7))) 0).wr (R.AX_STATUS_DECEL_RAISED (axisB (7))) 0).wr (R.AX_STATUS_HOMING (axisB (7))) 1).bridgesOn (7)).setAx (7) { (((((((wAxis).begun opAxisHome (hJ)).wr (R.AX_STATUS_HOMED (axisB (7))) 0).wr (R.AX_STATUS_DECEL_RAISED (axisB (7))) 0).wr (R.AX_STATUS_HOMING (axisB (7))) 1).bridgesOn (7)).ax (7)) with pk := some ((wAxis).asPk opAxisHome (hJ)) }) (7) (decide ((1) % 2 = 0)) (.home (1)) ((wAxis).ax (7)).homeRate) = State.axGo (((((((wAxis).begun opAxisHome (hJ)).wr (R.AX_STATUS_HOMED (axisB (7))) 0).wr (R.AX_STATUS_DECEL_RAISED (axisB (7))) 0).wr (R.AX_STATUS_HOMING (axisB (7))) 1).bridgesOn (7)).setAx (7) { (((((((wAxis).begun opAxisHome (hJ)).wr (R.AX_STATUS_HOMED (axisB (7))) 0).wr (R.AX_STATUS_DECEL_RAISED (axisB (7))) 0).wr (R.AX_STATUS_HOMING (axisB (7))) 1).bridgesOn (7)).ax (7)) with pk := some ((wAxis).asPk opAxisHome (hJ)) }) (7) (decide ((1) % 2 = 0)) (.home (1)) ((wAxis).ax (7)).homeRate) ∧ ((if (1) < 2 then (State.axGo (((((((wAxis).begun opAxisHome (hJ)).wr (R.AX_STATUS_HOMED (axisB (7))) 0).wr (R.AX_STATUS_DECEL_RAISED (axisB (7))) 0).wr (R.AX_STATUS_HOMING (axisB (7))) 1).bridgesOn (7)).setAx (7) { (((((((wAxis).begun opAxisHome (hJ)).wr (R.AX_STATUS_HOMED (axisB (7))) 0).wr (R.AX_STATUS_DECEL_RAISED (axisB (7))) 0).wr (R.AX_STATUS_HOMING (axisB (7))) 1).bridgesOn (7)).ax (7)) with pk := some ((wAxis).asPk opAxisHome (hJ)) }) (7) (decide ((1) % 2 = 0)) (.home (1)) ((wAxis).ax (7)).homeRate).setAx (7) { ((State.axGo (((((((wAxis).begun opAxisHome (hJ)).wr (R.AX_STATUS_HOMED (axisB (7))) 0).wr (R.AX_STATUS_DECEL_RAISED (axisB (7))) 0).wr (R.AX_STATUS_HOMING (axisB (7))) 1).bridgesOn (7)).setAx (7) { (((((((wAxis).begun opAxisHome (hJ)).wr (R.AX_STATUS_HOMED (axisB (7))) 0).wr (R.AX_STATUS_DECEL_RAISED (axisB (7))) 0).wr (R.AX_STATUS_HOMING (axisB (7))) 1).bridgesOn (7)).ax (7)) with pk := some ((wAxis).asPk opAxisHome (hJ)) }) (7) (decide ((1) % 2 = 0)) (.home (1)) ((wAxis).ax (7)).homeRate).ax (7)) with cruise := some 0, bSum := 0, bN := 0, fSum := 0, fN := 0 } else (State.axGo (((((((wAxis).begun opAxisHome (hJ)).wr (R.AX_STATUS_HOMED (axisB (7))) 0).wr (R.AX_STATUS_DECEL_RAISED (axisB (7))) 0).wr (R.AX_STATUS_HOMING (axisB (7))) 1).bridgesOn (7)).setAx (7) { (((((((wAxis).begun opAxisHome (hJ)).wr (R.AX_STATUS_HOMED (axisB (7))) 0).wr (R.AX_STATUS_DECEL_RAISED (axisB (7))) 0).wr (R.AX_STATUS_HOMING (axisB (7))) 1).bridgesOn (7)).ax (7)) with pk := some ((wAxis).asPk opAxisHome (hJ)) }) (7) (decide ((1) % 2 = 0)) (.home (1)) ((wAxis).ax (7)).homeRate)) = if (1) < 2 then (State.axGo (((((((wAxis).begun opAxisHome (hJ)).wr (R.AX_STATUS_HOMED (axisB (7))) 0).wr (R.AX_STATUS_DECEL_RAISED (axisB (7))) 0).wr (R.AX_STATUS_HOMING (axisB (7))) 1).bridgesOn (7)).setAx (7) { (((((((wAxis).begun opAxisHome (hJ)).wr (R.AX_STATUS_HOMED (axisB (7))) 0).wr (R.AX_STATUS_DECEL_RAISED (axisB (7))) 0).wr (R.AX_STATUS_HOMING (axisB (7))) 1).bridgesOn (7)).ax (7)) with pk := some ((wAxis).asPk opAxisHome (hJ)) }) (7) (decide ((1) % 2 = 0)) (.home (1)) ((wAxis).ax (7)).homeRate).setAx (7) { ((State.axGo (((((((wAxis).begun opAxisHome (hJ)).wr (R.AX_STATUS_HOMED (axisB (7))) 0).wr (R.AX_STATUS_DECEL_RAISED (axisB (7))) 0).wr (R.AX_STATUS_HOMING (axisB (7))) 1).bridgesOn (7)).setAx (7) { (((((((wAxis).begun opAxisHome (hJ)).wr (R.AX_STATUS_HOMED (axisB (7))) 0).wr (R.AX_STATUS_DECEL_RAISED (axisB (7))) 0).wr (R.AX_STATUS_HOMING (axisB (7))) 1).bridgesOn (7)).ax (7)) with pk := some ((wAxis).asPk opAxisHome (hJ)) }) (7) (decide ((1) % 2 = 0)) (.home (1)) ((wAxis).ax (7)).homeRate).ax (7)) with cruise := some 0, bSum := 0, bN := 0, fSum := 0, fN := 0 } else (State.axGo (((((((wAxis).begun opAxisHome (hJ)).wr (R.AX_STATUS_HOMED (axisB (7))) 0).wr (R.AX_STATUS_DECEL_RAISED (axisB (7))) 0).wr (R.AX_STATUS_HOMING (axisB (7))) 1).bridgesOn (7)).setAx (7) { (((((((wAxis).begun opAxisHome (hJ)).wr (R.AX_STATUS_HOMED (axisB (7))) 0).wr (R.AX_STATUS_DECEL_RAISED (axisB (7))) 0).wr (R.AX_STATUS_HOMING (axisB (7))) 1).bridgesOn (7)).ax (7)) with pk := some ((wAxis).asPk opAxisHome (hJ)) }) (7) (decide ((1) % 2 = 0)) (.home (1)) ((wAxis).ax (7)).homeRate)) := by
  exact ⟨by decide, by decide, by decide, by decide, by decide, by decide, rfl, rfl, rfl⟩

theorem witness_axis_packets_3 :
    ((wMoves).Takes (.axisStop (hJ) (7) (1)) opAxisStop (hJ)) ∧ ((wMoves).accepts (axisNode (7)) = true) ∧ ((7) ≤ 7) ∧ ((1) ≤ 1) ∧ ((((wMoves).begun opAxisStop (hJ)).axTo (7) (wMoves).now) = ((wMoves).begun opAxisStop (hJ)).axTo (7) (wMoves).now) ∧ ((((wMoves).begun opAxisStop (hJ)).axTo (7) (wMoves).now).axMoving (7) = true) := by
  exact ⟨by decide, by decide, by decide, by decide, rfl, by decide⟩

theorem witness_axis_packets_4 :
    ((wAxis).Takes (.axisStop (hJ) (7) (0)) opAxisStop (hJ)) ∧ ((wAxis).accepts (axisNode (7)) = true) ∧ ((7) ≤ 7) ∧ ((0) ≤ 1) ∧ ((((wAxis).begun opAxisStop (hJ)).axTo (7) (wAxis).now) = ((wAxis).begun opAxisStop (hJ)).axTo (7) (wAxis).now) ∧ ((((wAxis).begun opAxisStop (hJ)).axTo (7) (wAxis).now).axMoving (7) = false) ∧ ((if (0) = 1 then ((((wAxis).begun opAxisStop (hJ)).axTo (7) (wAxis).now).bridgesOff (7)).wr (R.AX_STATUS_STOP_REASON (axisB (7))) 2 else (((wAxis).begun opAxisStop (hJ)).axTo (7) (wAxis).now)) = if (0) = 1 then ((((wAxis).begun opAxisStop (hJ)).axTo (7) (wAxis).now).bridgesOff (7)).wr (R.AX_STATUS_STOP_REASON (axisB (7))) 2 else (((wAxis).begun opAxisStop (hJ)).axTo (7) (wAxis).now)) := by
  exact ⟨by decide, by decide, by decide, by decide, rfl, by decide, rfl⟩

theorem witness_axis_packets_5 :
    (({ wAxis with host := tsets 0#8 [] 0 wAxBlock }).Takes (.axisSet (hJ) (7) (0)) opAxisSet (hJ)) ∧ (({ wAxis with host := tsets 0#8 [] 0 wAxBlock }).accepts (axisNode (7)) = true) ∧ ((7) ≤ 7) ∧ (({ wAxis with host := tsets 0#8 [] 0 wAxBlock }).axMoving (7) = false) ∧ (({ wAxis with host := tsets 0#8 [] 0 wAxBlock }).Reads (0) 64 (({ wAxis with host := tsets 0#8 [] 0 wAxBlock }).bytesAt 0 64 : List Byte)) ∧ (axisBad (({ wAxis with host := tsets 0#8 [] 0 wAxBlock }).bytesAt 0 64 : List Byte) = false) ∧ (({ (((({ wAxis with host := tsets 0#8 [] 0 wAxBlock }).begun opAxisSet (hJ)).touch 2 0 64).ax (7)) with block := (({ wAxis with host := tsets 0#8 [] 0 wAxBlock }).bytesAt 0 64 : List Byte) } : AxisRt) = { (((({ wAxis with host := tsets 0#8 [] 0 wAxBlock }).begun opAxisSet (hJ)).touch 2 0 64).ax (7)) with block := (({ wAxis with host := tsets 0#8 [] 0 wAxBlock }).bytesAt 0 64 : List Byte) }) ∧ (((({ wAxis with host := tsets 0#8 [] 0 wAxBlock }).begun opAxisSet (hJ)).touch 2 0 64) = (({ wAxis with host := tsets 0#8 [] 0 wAxBlock }).begun opAxisSet (hJ)).touch 2 (0) 64) := by
  exact ⟨by decide, by decide, by decide, by decide, by decide, by decide, rfl, by decide⟩

theorem witness_axis_events_1 :
    ((wMoves).clocked = true) ∧ ((((wMoves).ax (7 : Fin 8).val).segAt + 160000) = ((wMoves).ax (7 : Fin 8).val).segAt + 160000) ∧ ((wMoves).axMoving (7 : Fin 8).val = true) ∧ ((((wMoves).ax (7 : Fin 8).val).segAt + 160000) ≤ (160000)) ∧ ((((wMoves).advance (160000)).axTo (7 : Fin 8).val (((wMoves).ax (7 : Fin 8).val).segAt + 160000)) = ((wMoves).advance (160000)).axTo (7 : Fin 8).val (((wMoves).ax (7 : Fin 8).val).segAt + 160000)) ∧ ((((wMoves).advance (160000)).axTo (7 : Fin 8).val (((wMoves).ax (7 : Fin 8).val).segAt + 160000)).axMoving (7 : Fin 8).val = true) ∧ (((((wMoves).advance (160000)).axTo (7 : Fin 8).val (((wMoves).ax (7 : Fin 8).val).segAt + 160000)).ax (7 : Fin 8).val : AxisRt) = (((wMoves).advance (160000)).axTo (7 : Fin 8).val (((wMoves).ax (7 : Fin 8).val).segAt + 160000)).ax (7 : Fin 8).val) ∧ (((((wMoves).advance (160000)).axTo (7 : Fin 8).val (((wMoves).ax (7 : Fin 8).val).segAt + 160000)).setAx (7 : Fin 8).val { ((((wMoves).advance (160000)).axTo (7 : Fin 8).val (((wMoves).ax (7 : Fin 8).val).segAt + 160000)).ax (7 : Fin 8).val : AxisRt) with segAt := (((wMoves).ax (7 : Fin 8).val).segAt + 160000) }) = (((wMoves).advance (160000)).axTo (7 : Fin 8).val (((wMoves).ax (7 : Fin 8).val).segAt + 160000)).setAx (7 : Fin 8).val { ((((wMoves).advance (160000)).axTo (7 : Fin 8).val (((wMoves).ax (7 : Fin 8).val).segAt + 160000)).ax (7 : Fin 8).val : AxisRt) with segAt := (((wMoves).ax (7 : Fin 8).val).segAt + 160000) }) := by
  exact ⟨by decide, rfl, by decide, by decide, rfl, by decide, rfl, rfl⟩

theorem witness_axis_events_2 :
    ((wMoves).HostReaches) ∧ ((wMoves).axMoving (7 : Fin 8).val = true) := by
  decide

theorem witness_axis_events_3 :
    ((wAxis).HostReaches) ∧ ((wAxis).axMoving (7 : Fin 8).val = false) := by
  decide

theorem witness_axis_events_4 :
    ((wMoves).HostReaches) ∧ ((wMoves).axMoving (7 : Fin 8).val = true) := by
  decide

theorem witness_axis_events_5 :
    ((wAxis).HostReaches) ∧ ((wAxis).axMoving (7 : Fin 8).val = false) := by
  decide

theorem witness_axis_events_6 :
    ((((wAxis.setAx 7 { block := wAxBlock, heldAt := some 0 }).wr (R.AX_STATUS_HOLDING (axisB 7)) 1).advance (16000000)) = ((wAxis.setAx 7 { block := wAxBlock, heldAt := some 0 }).wr (R.AX_STATUS_HOLDING (axisB 7)) 1).advance (16000000)) ∧ (((((wAxis.setAx 7 { block := wAxBlock, heldAt := some 0 }).wr (R.AX_STATUS_HOLDING (axisB 7)) 1).advance (16000000)).ax (7 : Fin 8).val).heldAt = some (0)) ∧ ((((wAxis.setAx 7 { block := wAxBlock, heldAt := some 0 }).wr (R.AX_STATUS_HOLDING (axisB 7)) 1).advance (16000000)).flag (R.AX_STATUS_HOLDING (axisB (7 : Fin 8).val)) = true) ∧ ((((wAxis.setAx 7 { block := wAxBlock, heldAt := some 0 }).wr (R.AX_STATUS_HOLDING (axisB 7)) 1).advance (16000000)).mode (axisNode (7 : Fin 8).val) ≠ .faulted) ∧ ((0) + ((((wAxis.setAx 7 { block := wAxBlock, heldAt := some 0 }).wr (R.AX_STATUS_HOLDING (axisB 7)) 1).advance (16000000)).ax (7 : Fin 8).val).holdMs * 16000000 ≤ (((wAxis.setAx 7 { block := wAxBlock, heldAt := some 0 }).wr (R.AX_STATUS_HOLDING (axisB 7)) 1).advance (16000000)).now) := by
  exact ⟨rfl, by decide, by decide, by decide, by decide⟩

theorem witness_axis_events_7 :
    ((((State.reset).advance (16)).axTo (7 : Fin 8).val ((State.reset).advance (16)).now) = ((State.reset).advance (16)).axTo (7 : Fin 8).val ((State.reset).advance (16)).now) ∧ (((((State.reset).advance (16)).axTo (7 : Fin 8).val ((State.reset).advance (16)).now).rd (R.AX_INPUTS_RAW (axisB (7 : Fin 8).val))).testBit (3 : Fin 4).val ≠ (true)) ∧ (((((State.reset).advance (16)).axTo (7 : Fin 8).val ((State.reset).advance (16)).now).ax (7 : Fin 8).val : AxisRt) = (((State.reset).advance (16)).axTo (7 : Fin 8).val ((State.reset).advance (16)).now).ax (7 : Fin 8).val) ∧ (((((State.reset).advance (16)).axTo (7 : Fin 8).val ((State.reset).advance (16)).now).wr (R.AX_INPUTS_RAW (axisB (7 : Fin 8).val)) (setBit ((((State.reset).advance (16)).axTo (7 : Fin 8).val ((State.reset).advance (16)).now).rd (R.AX_INPUTS_RAW (axisB (7 : Fin 8).val))) (3 : Fin 4).val (true))) = (((State.reset).advance (16)).axTo (7 : Fin 8).val ((State.reset).advance (16)).now).wr (R.AX_INPUTS_RAW (axisB (7 : Fin 8).val)) (setBit ((((State.reset).advance (16)).axTo (7 : Fin 8).val ((State.reset).advance (16)).now).rd (R.AX_INPUTS_RAW (axisB (7 : Fin 8).val))) (3 : Fin 4).val (true))) ∧ ((((((State.reset).advance (16)).axTo (7 : Fin 8).val ((State.reset).advance (16)).now).wr (R.AX_INPUTS_RAW (axisB (7 : Fin 8).val)) (setBit ((((State.reset).advance (16)).axTo (7 : Fin 8).val ((State.reset).advance (16)).now).rd (R.AX_INPUTS_RAW (axisB (7 : Fin 8).val))) (3 : Fin 4).val (true))).setAx (7 : Fin 8).val { ((((State.reset).advance (16)).axTo (7 : Fin 8).val ((State.reset).advance (16)).now).ax (7 : Fin 8).val : AxisRt) with edges := tset [] ((((State.reset).advance (16)).axTo (7 : Fin 8).val ((State.reset).advance (16)).now).ax (7 : Fin 8).val : AxisRt).edges (3 : Fin 4).val (((((State.reset).advance (16)).axTo (7 : Fin 8).val ((State.reset).advance (16)).now).wr (R.AX_INPUTS_RAW (axisB (7 : Fin 8).val)) (setBit ((((State.reset).advance (16)).axTo (7 : Fin 8).val ((State.reset).advance (16)).now).rd (R.AX_INPUTS_RAW (axisB (7 : Fin 8).val))) (3 : Fin 4).val (true))).now :: ((tget [] ((((State.reset).advance (16)).axTo (7 : Fin 8).val ((State.reset).advance (16)).now).ax (7 : Fin 8).val : AxisRt).edges (3 : Fin 4).val).filter fun k => decide (((((State.reset).advance (16)).axTo (7 : Fin 8).val ((State.reset).advance (16)).now).wr (R.AX_INPUTS_RAW (axisB (7 : Fin 8).val)) (setBit ((((State.reset).advance (16)).axTo (7 : Fin 8).val ((State.reset).advance (16)).now).rd (R.AX_INPUTS_RAW (axisB (7 : Fin 8).val))) (3 : Fin 4).val (true))).now ≤ k + 16000 * ((((State.reset).advance (16)).axTo (7 : Fin 8).val ((State.reset).advance (16)).now).ax (7 : Fin 8).val : AxisRt).debUs))), edgeAt := tset 0 ((((State.reset).advance (16)).axTo (7 : Fin 8).val ((State.reset).advance (16)).now).ax (7 : Fin 8).val : AxisRt).edgeAt (3 : Fin 4).val ((((State.reset).advance (16)).axTo (7 : Fin 8).val ((State.reset).advance (16)).now).wr (R.AX_INPUTS_RAW (axisB (7 : Fin 8).val)) (setBit ((((State.reset).advance (16)).axTo (7 : Fin 8).val ((State.reset).advance (16)).now).rd (R.AX_INPUTS_RAW (axisB (7 : Fin 8).val))) (3 : Fin 4).val (true))).now, edgePos := tset 0 ((((State.reset).advance (16)).axTo (7 : Fin 8).val ((State.reset).advance (16)).now).ax (7 : Fin 8).val : AxisRt).edgePos (3 : Fin 4).val (((((State.reset).advance (16)).axTo (7 : Fin 8).val ((State.reset).advance (16)).now).wr (R.AX_INPUTS_RAW (axisB (7 : Fin 8).val)) (setBit ((((State.reset).advance (16)).axTo (7 : Fin 8).val ((State.reset).advance (16)).now).rd (R.AX_INPUTS_RAW (axisB (7 : Fin 8).val))) (3 : Fin 4).val (true))).axPos (7 : Fin 8).val) }) = ((((State.reset).advance (16)).axTo (7 : Fin 8).val ((State.reset).advance (16)).now).wr (R.AX_INPUTS_RAW (axisB (7 : Fin 8).val)) (setBit ((((State.reset).advance (16)).axTo (7 : Fin 8).val ((State.reset).advance (16)).now).rd (R.AX_INPUTS_RAW (axisB (7 : Fin 8).val))) (3 : Fin 4).val (true))).setAx (7 : Fin 8).val { ((((State.reset).advance (16)).axTo (7 : Fin 8).val ((State.reset).advance (16)).now).ax (7 : Fin 8).val : AxisRt) with edges := tset [] ((((State.reset).advance (16)).axTo (7 : Fin 8).val ((State.reset).advance (16)).now).ax (7 : Fin 8).val : AxisRt).edges (3 : Fin 4).val (((((State.reset).advance (16)).axTo (7 : Fin 8).val ((State.reset).advance (16)).now).wr (R.AX_INPUTS_RAW (axisB (7 : Fin 8).val)) (setBit ((((State.reset).advance (16)).axTo (7 : Fin 8).val ((State.reset).advance (16)).now).rd (R.AX_INPUTS_RAW (axisB (7 : Fin 8).val))) (3 : Fin 4).val (true))).now :: ((tget [] ((((State.reset).advance (16)).axTo (7 : Fin 8).val ((State.reset).advance (16)).now).ax (7 : Fin 8).val : AxisRt).edges (3 : Fin 4).val).filter fun k => decide (((((State.reset).advance (16)).axTo (7 : Fin 8).val ((State.reset).advance (16)).now).wr (R.AX_INPUTS_RAW (axisB (7 : Fin 8).val)) (setBit ((((State.reset).advance (16)).axTo (7 : Fin 8).val ((State.reset).advance (16)).now).rd (R.AX_INPUTS_RAW (axisB (7 : Fin 8).val))) (3 : Fin 4).val (true))).now ≤ k + 16000 * ((((State.reset).advance (16)).axTo (7 : Fin 8).val ((State.reset).advance (16)).now).ax (7 : Fin 8).val : AxisRt).debUs))), edgeAt := tset 0 ((((State.reset).advance (16)).axTo (7 : Fin 8).val ((State.reset).advance (16)).now).ax (7 : Fin 8).val : AxisRt).edgeAt (3 : Fin 4).val ((((State.reset).advance (16)).axTo (7 : Fin 8).val ((State.reset).advance (16)).now).wr (R.AX_INPUTS_RAW (axisB (7 : Fin 8).val)) (setBit ((((State.reset).advance (16)).axTo (7 : Fin 8).val ((State.reset).advance (16)).now).rd (R.AX_INPUTS_RAW (axisB (7 : Fin 8).val))) (3 : Fin 4).val (true))).now, edgePos := tset 0 ((((State.reset).advance (16)).axTo (7 : Fin 8).val ((State.reset).advance (16)).now).ax (7 : Fin 8).val : AxisRt).edgePos (3 : Fin 4).val (((((State.reset).advance (16)).axTo (7 : Fin 8).val ((State.reset).advance (16)).now).wr (R.AX_INPUTS_RAW (axisB (7 : Fin 8).val)) (setBit ((((State.reset).advance (16)).axTo (7 : Fin 8).val ((State.reset).advance (16)).now).rd (R.AX_INPUTS_RAW (axisB (7 : Fin 8).val))) (3 : Fin 4).val (true))).axPos (7 : Fin 8).val) }) ∧ (((((State.reset).advance (16)).axTo (7 : Fin 8).val ((State.reset).advance (16)).now).ax (7 : Fin 8).val : AxisRt).block = [] ∨ (((((State.reset).advance (16)).axTo (7 : Fin 8).val ((State.reset).advance (16)).now).wr (R.AX_INPUTS_RAW (axisB (7 : Fin 8).val)) (setBit ((((State.reset).advance (16)).axTo (7 : Fin 8).val ((State.reset).advance (16)).now).rd (R.AX_INPUTS_RAW (axisB (7 : Fin 8).val))) (3 : Fin 4).val (true))).setAx (7 : Fin 8).val { ((((State.reset).advance (16)).axTo (7 : Fin 8).val ((State.reset).advance (16)).now).ax (7 : Fin 8).val : AxisRt) with edges := tset [] ((((State.reset).advance (16)).axTo (7 : Fin 8).val ((State.reset).advance (16)).now).ax (7 : Fin 8).val : AxisRt).edges (3 : Fin 4).val (((((State.reset).advance (16)).axTo (7 : Fin 8).val ((State.reset).advance (16)).now).wr (R.AX_INPUTS_RAW (axisB (7 : Fin 8).val)) (setBit ((((State.reset).advance (16)).axTo (7 : Fin 8).val ((State.reset).advance (16)).now).rd (R.AX_INPUTS_RAW (axisB (7 : Fin 8).val))) (3 : Fin 4).val (true))).now :: ((tget [] ((((State.reset).advance (16)).axTo (7 : Fin 8).val ((State.reset).advance (16)).now).ax (7 : Fin 8).val : AxisRt).edges (3 : Fin 4).val).filter fun k => decide (((((State.reset).advance (16)).axTo (7 : Fin 8).val ((State.reset).advance (16)).now).wr (R.AX_INPUTS_RAW (axisB (7 : Fin 8).val)) (setBit ((((State.reset).advance (16)).axTo (7 : Fin 8).val ((State.reset).advance (16)).now).rd (R.AX_INPUTS_RAW (axisB (7 : Fin 8).val))) (3 : Fin 4).val (true))).now ≤ k + 16000 * ((((State.reset).advance (16)).axTo (7 : Fin 8).val ((State.reset).advance (16)).now).ax (7 : Fin 8).val : AxisRt).debUs))), edgeAt := tset 0 ((((State.reset).advance (16)).axTo (7 : Fin 8).val ((State.reset).advance (16)).now).ax (7 : Fin 8).val : AxisRt).edgeAt (3 : Fin 4).val ((((State.reset).advance (16)).axTo (7 : Fin 8).val ((State.reset).advance (16)).now).wr (R.AX_INPUTS_RAW (axisB (7 : Fin 8).val)) (setBit ((((State.reset).advance (16)).axTo (7 : Fin 8).val ((State.reset).advance (16)).now).rd (R.AX_INPUTS_RAW (axisB (7 : Fin 8).val))) (3 : Fin 4).val (true))).now, edgePos := tset 0 ((((State.reset).advance (16)).axTo (7 : Fin 8).val ((State.reset).advance (16)).now).ax (7 : Fin 8).val : AxisRt).edgePos (3 : Fin 4).val (((((State.reset).advance (16)).axTo (7 : Fin 8).val ((State.reset).advance (16)).now).wr (R.AX_INPUTS_RAW (axisB (7 : Fin 8).val)) (setBit ((((State.reset).advance (16)).axTo (7 : Fin 8).val ((State.reset).advance (16)).now).rd (R.AX_INPUTS_RAW (axisB (7 : Fin 8).val))) (3 : Fin 4).val (true))).axPos (7 : Fin 8).val) }).enabled (axisNode (7 : Fin 8).val) = false) := by
  exact ⟨rfl, by decide, rfl, rfl, rfl, by decide⟩

theorem witness_axis_events_8 :
    ((((State.reset).advance (16)).axTo (7 : Fin 8).val ((State.reset).advance (16)).now) = ((State.reset).advance (16)).axTo (7 : Fin 8).val ((State.reset).advance (16)).now) ∧ (((((State.reset).advance (16)).axTo (7 : Fin 8).val ((State.reset).advance (16)).now).rd (R.AX_INPUTS_RAW (axisB (7 : Fin 8).val))).testBit (3 : Fin 4).val = (false)) := by
  exact ⟨rfl, by decide⟩

theorem witness_axis_events_9 :
    ((((wAxis.wr (R.AX_INPUTS_RAW (axisB 7)) 8).advance (160000000)).axTo (7 : Fin 8).val ((wAxis.wr (R.AX_INPUTS_RAW (axisB 7)) 8).advance (160000000)).now) = ((wAxis.wr (R.AX_INPUTS_RAW (axisB 7)) 8).advance (160000000)).axTo (7 : Fin 8).val ((wAxis.wr (R.AX_INPUTS_RAW (axisB 7)) 8).advance (160000000)).now) ∧ (((((wAxis.wr (R.AX_INPUTS_RAW (axisB 7)) 8).advance (160000000)).axTo (7 : Fin 8).val ((wAxis.wr (R.AX_INPUTS_RAW (axisB 7)) 8).advance (160000000)).now).rd (R.AX_INPUTS_RAW (axisB (7 : Fin 8).val))).testBit (3 : Fin 4).val ≠ ((((wAxis.wr (R.AX_INPUTS_RAW (axisB 7)) 8).advance (160000000)).axTo (7 : Fin 8).val ((wAxis.wr (R.AX_INPUTS_RAW (axisB 7)) 8).advance (160000000)).now).rd (R.AX_INPUTS_ACCEPTED (axisB (7 : Fin 8).val))).testBit (3 : Fin 4).val) ∧ (tget 0 ((((wAxis.wr (R.AX_INPUTS_RAW (axisB 7)) 8).advance (160000000)).axTo (7 : Fin 8).val ((wAxis.wr (R.AX_INPUTS_RAW (axisB 7)) 8).advance (160000000)).now).ax (7 : Fin 8).val).edgeAt (3 : Fin 4).val + 16000 * ((((wAxis.wr (R.AX_INPUTS_RAW (axisB 7)) 8).advance (160000000)).axTo (7 : Fin 8).val ((wAxis.wr (R.AX_INPUTS_RAW (axisB 7)) 8).advance (160000000)).now).ax (7 : Fin 8).val).debUs ≤ (((wAxis.wr (R.AX_INPUTS_RAW (axisB 7)) 8).advance (160000000)).axTo (7 : Fin 8).val ((wAxis.wr (R.AX_INPUTS_RAW (axisB 7)) 8).advance (160000000)).now).now) ∧ (((((wAxis.wr (R.AX_INPUTS_RAW (axisB 7)) 8).advance (160000000)).axTo (7 : Fin 8).val ((wAxis.wr (R.AX_INPUTS_RAW (axisB 7)) 8).advance (160000000)).now).ax (7 : Fin 8).val).block ≠ []) := by
  exact ⟨rfl, by decide, by decide, by decide⟩

theorem witness_axis_events_10 :
    ((wMoves).clocked = true) ∧ (((((wMoves).advance (16)).axTo (7 : Fin 8).val ((wMoves).advance (16)).now).driveOut (7 : Fin 8).val (true)) = (((wMoves).advance (16)).axTo (7 : Fin 8).val ((wMoves).advance (16)).now).driveOut (7 : Fin 8).val (true)) ∧ ((((((wMoves).advance (16)).axTo (7 : Fin 8).val ((wMoves).advance (16)).now).driveOut (7 : Fin 8).val (true)).ax (7 : Fin 8).val : AxisRt) = ((((wMoves).advance (16)).axTo (7 : Fin 8).val ((wMoves).advance (16)).now).driveOut (7 : Fin 8).val (true)).ax (7 : Fin 8).val) ∧ ((((((((wMoves).advance (16)).axTo (7 : Fin 8).val ((wMoves).advance (16)).now).driveOut (7 : Fin 8).val (true)).ax (7 : Fin 8).val : AxisRt).bridge (true)).run ((((wMoves).advance (16)).axTo (7 : Fin 8).val ((wMoves).advance (16)).now).driveOut (7 : Fin 8).val (true)).now : BridgeRt) = ((((((wMoves).advance (16)).axTo (7 : Fin 8).val ((wMoves).advance (16)).now).driveOut (7 : Fin 8).val (true)).ax (7 : Fin 8).val : AxisRt).bridge (true)).run ((((wMoves).advance (16)).axTo (7 : Fin 8).val ((wMoves).advance (16)).now).driveOut (7 : Fin 8).val (true)).now) ∧ (((((wMoves).advance (16)).axTo (7 : Fin 8).val ((wMoves).advance (16)).now).driveOut (7 : Fin 8).val (true)).flag (R.AX_STATUS_BRIDGES_ON (axisB (7 : Fin 8).val)) = true) ∧ ((((((((wMoves).advance (16)).axTo (7 : Fin 8).val ((wMoves).advance (16)).now).driveOut (7 : Fin 8).val (true)).ax (7 : Fin 8).val : AxisRt).bridge (true)).run ((((wMoves).advance (16)).axTo (7 : Fin 8).val ((wMoves).advance (16)).now).driveOut (7 : Fin 8).val (true)).now : BridgeRt).live = false) ∧ ((((((((wMoves).advance (16)).axTo (7 : Fin 8).val ((wMoves).advance (16)).now).driveOut (7 : Fin 8).val (true)).ax (7 : Fin 8).val : AxisRt).bridge (true)).run ((((wMoves).advance (16)).axTo (7 : Fin 8).val ((wMoves).advance (16)).now).driveOut (7 : Fin 8).val (true)).now : BridgeRt).next ≤ ((((wMoves).advance (16)).axTo (7 : Fin 8).val ((wMoves).advance (16)).now).driveOut (7 : Fin 8).val (true)).now) ∧ (((if (true) then (((((wMoves).advance (16)).axTo (7 : Fin 8).val ((wMoves).advance (16)).now).driveOut (7 : Fin 8).val (true)).currents (7 : Fin 8).val).2 else (((((wMoves).advance (16)).axTo (7 : Fin 8).val ((wMoves).advance (16)).now).driveOut (7 : Fin 8).val (true)).currents (7 : Fin 8).val).1) : Int) = (if (true) then (((((wMoves).advance (16)).axTo (7 : Fin 8).val ((wMoves).advance (16)).now).driveOut (7 : Fin 8).val (true)).currents (7 : Fin 8).val).2 else (((((wMoves).advance (16)).axTo (7 : Fin 8).val ((wMoves).advance (16)).now).driveOut (7 : Fin 8).val (true)).currents (7 : Fin 8).val).1)) := by
  exact ⟨by decide, rfl, rfl, rfl, by decide, by decide, by decide, rfl⟩

theorem witness_axis_events_11 :
    (((((wMoves.setAx 7 { block := wAxBlock, b := { live := true, gate := .drivePos } }).advance (1616)).axTo (7 : Fin 8).val ((wMoves.setAx 7 { block := wAxBlock, b := { live := true, gate := .drivePos } }).advance (1616)).now).driveOut (7 : Fin 8).val (true)) = (((wMoves.setAx 7 { block := wAxBlock, b := { live := true, gate := .drivePos } }).advance (1616)).axTo (7 : Fin 8).val ((wMoves.setAx 7 { block := wAxBlock, b := { live := true, gate := .drivePos } }).advance (1616)).now).driveOut (7 : Fin 8).val (true)) ∧ ((((((wMoves.setAx 7 { block := wAxBlock, b := { live := true, gate := .drivePos } }).advance (1616)).axTo (7 : Fin 8).val ((wMoves.setAx 7 { block := wAxBlock, b := { live := true, gate := .drivePos } }).advance (1616)).now).driveOut (7 : Fin 8).val (true)).ax (7 : Fin 8).val : AxisRt) = ((((wMoves.setAx 7 { block := wAxBlock, b := { live := true, gate := .drivePos } }).advance (1616)).axTo (7 : Fin 8).val ((wMoves.setAx 7 { block := wAxBlock, b := { live := true, gate := .drivePos } }).advance (1616)).now).driveOut (7 : Fin 8).val (true)).ax (7 : Fin 8).val) ∧ (((((((wMoves.setAx 7 { block := wAxBlock, b := { live := true, gate := .drivePos } }).advance (1616)).axTo (7 : Fin 8).val ((wMoves.setAx 7 { block := wAxBlock, b := { live := true, gate := .drivePos } }).advance (1616)).now).driveOut (7 : Fin 8).val (true)).ax (7 : Fin 8).val : AxisRt).bridge (true) : BridgeRt) = (((((wMoves.setAx 7 { block := wAxBlock, b := { live := true, gate := .drivePos } }).advance (1616)).axTo (7 : Fin 8).val ((wMoves.setAx 7 { block := wAxBlock, b := { live := true, gate := .drivePos } }).advance (1616)).now).driveOut (7 : Fin 8).val (true)).ax (7 : Fin 8).val : AxisRt).bridge (true)) ∧ (((((((wMoves.setAx 7 { block := wAxBlock, b := { live := true, gate := .drivePos } }).advance (1616)).axTo (7 : Fin 8).val ((wMoves.setAx 7 { block := wAxBlock, b := { live := true, gate := .drivePos } }).advance (1616)).now).driveOut (7 : Fin 8).val (true)).ax (7 : Fin 8).val : AxisRt).bridge (true) : BridgeRt).live = true) ∧ (((((((wMoves.setAx 7 { block := wAxBlock, b := { live := true, gate := .drivePos } }).advance (1616)).axTo (7 : Fin 8).val ((wMoves.setAx 7 { block := wAxBlock, b := { live := true, gate := .drivePos } }).advance (1616)).now).driveOut (7 : Fin 8).val (true)).ax (7 : Fin 8).val : AxisRt).bridge (true) : BridgeRt).start + 16 * (((((wMoves.setAx 7 { block := wAxBlock, b := { live := true, gate := .drivePos } }).advance (1616)).axTo (7 : Fin 8).val ((wMoves.setAx 7 { block := wAxBlock, b := { live := true, gate := .drivePos } }).advance (1616)).now).driveOut (7 : Fin 8).val (true)).ax (7 : Fin 8).val : AxisRt).tBlank ≤ ((((wMoves.setAx 7 { block := wAxBlock, b := { live := true, gate := .drivePos } }).advance (1616)).axTo (7 : Fin 8).val ((wMoves.setAx 7 { block := wAxBlock, b := { live := true, gate := .drivePos } }).advance (1616)).now).driveOut (7 : Fin 8).val (true)).now) := by
  exact ⟨rfl, rfl, rfl, by decide, by decide⟩

theorem witness_axis_events_12 :
    (((((wMoves.setAx 7 { block := wAxBlock, b := { live := true, gate := .drivePos } }).advance (1)).axTo (7 : Fin 8).val ((wMoves.setAx 7 { block := wAxBlock, b := { live := true, gate := .drivePos } }).advance (1)).now).driveOut (7 : Fin 8).val (true)) = (((wMoves.setAx 7 { block := wAxBlock, b := { live := true, gate := .drivePos } }).advance (1)).axTo (7 : Fin 8).val ((wMoves.setAx 7 { block := wAxBlock, b := { live := true, gate := .drivePos } }).advance (1)).now).driveOut (7 : Fin 8).val (true)) ∧ ((((((wMoves.setAx 7 { block := wAxBlock, b := { live := true, gate := .drivePos } }).advance (1)).axTo (7 : Fin 8).val ((wMoves.setAx 7 { block := wAxBlock, b := { live := true, gate := .drivePos } }).advance (1)).now).driveOut (7 : Fin 8).val (true)).ax (7 : Fin 8).val : AxisRt) = ((((wMoves.setAx 7 { block := wAxBlock, b := { live := true, gate := .drivePos } }).advance (1)).axTo (7 : Fin 8).val ((wMoves.setAx 7 { block := wAxBlock, b := { live := true, gate := .drivePos } }).advance (1)).now).driveOut (7 : Fin 8).val (true)).ax (7 : Fin 8).val) ∧ (((((((wMoves.setAx 7 { block := wAxBlock, b := { live := true, gate := .drivePos } }).advance (1)).axTo (7 : Fin 8).val ((wMoves.setAx 7 { block := wAxBlock, b := { live := true, gate := .drivePos } }).advance (1)).now).driveOut (7 : Fin 8).val (true)).ax (7 : Fin 8).val : AxisRt).bridge (true) : BridgeRt) = (((((wMoves.setAx 7 { block := wAxBlock, b := { live := true, gate := .drivePos } }).advance (1)).axTo (7 : Fin 8).val ((wMoves.setAx 7 { block := wAxBlock, b := { live := true, gate := .drivePos } }).advance (1)).now).driveOut (7 : Fin 8).val (true)).ax (7 : Fin 8).val : AxisRt).bridge (true)) ∧ (((((((wMoves.setAx 7 { block := wAxBlock, b := { live := true, gate := .drivePos } }).advance (1)).axTo (7 : Fin 8).val ((wMoves.setAx 7 { block := wAxBlock, b := { live := true, gate := .drivePos } }).advance (1)).now).driveOut (7 : Fin 8).val (true)).ax (7 : Fin 8).val : AxisRt).bridge (true) : BridgeRt).live = true) ∧ (((((wMoves.setAx 7 { block := wAxBlock, b := { live := true, gate := .drivePos } }).advance (1)).axTo (7 : Fin 8).val ((wMoves.setAx 7 { block := wAxBlock, b := { live := true, gate := .drivePos } }).advance (1)).now).driveOut (7 : Fin 8).val (true)).now < ((((((wMoves.setAx 7 { block := wAxBlock, b := { live := true, gate := .drivePos } }).advance (1)).axTo (7 : Fin 8).val ((wMoves.setAx 7 { block := wAxBlock, b := { live := true, gate := .drivePos } }).advance (1)).now).driveOut (7 : Fin 8).val (true)).ax (7 : Fin 8).val : AxisRt).bridge (true) : BridgeRt).start + 16 * (((((wMoves.setAx 7 { block := wAxBlock, b := { live := true, gate := .drivePos } }).advance (1)).axTo (7 : Fin 8).val ((wMoves.setAx 7 { block := wAxBlock, b := { live := true, gate := .drivePos } }).advance (1)).now).driveOut (7 : Fin 8).val (true)).ax (7 : Fin 8).val : AxisRt).tBlank) := by
  exact ⟨rfl, rfl, rfl, by decide, by decide⟩

theorem witness_axis_events_13 :
    ((wMoves.wr R.YOKE_STATE_ROLE 2).clocked = true) ∧ (((wMoves.wr R.YOKE_STATE_ROLE 2).hear (16)).standby = true) ∧ (((wMoves.wr R.YOKE_STATE_ROLE 2).hear (16)).axMoving (7 : Fin 8).val = true) ∧ ((((wMoves.wr R.YOKE_STATE_ROLE 2).hear (16)).axTo (7 : Fin 8).val ((wMoves.wr R.YOKE_STATE_ROLE 2).hear (16)).now) = ((wMoves.wr R.YOKE_STATE_ROLE 2).hear (16)).axTo (7 : Fin 8).val ((wMoves.wr R.YOKE_STATE_ROLE 2).hear (16)).now) ∧ ((((((wMoves.wr R.YOKE_STATE_ROLE 2).hear (16)).axTo (7 : Fin 8).val ((wMoves.wr R.YOKE_STATE_ROLE 2).hear (16)).now).wrS (R.AX_POS_POS (axisB (7 : Fin 8).val)) (-5 : Int)).wrB (R.AX_STATUS_DIR (axisB (7 : Fin 8).val)) (true)) = ((((wMoves.wr R.YOKE_STATE_ROLE 2).hear (16)).axTo (7 : Fin 8).val ((wMoves.wr R.YOKE_STATE_ROLE 2).hear (16)).now).wrS (R.AX_POS_POS (axisB (7 : Fin 8).val)) (-5 : Int)).wrB (R.AX_STATUS_DIR (axisB (7 : Fin 8).val)) (true)) := by
  exact ⟨by decide, by decide, by decide, rfl, rfl⟩

theorem witness_yoke_packets_1 :
    ((wYoke 1).Takes (.yokeRole ({ hS with priv := true }) 0) opYokeRole ({ hS with priv := true })) ∧ ((wYoke 1).yk.rolePk = none) ∧ (({ hS with priv := true }).ring.val = 0) ∧ ((wYoke 1).fencedFor 0 = false) ∧ ((wYoke 1).accepts .yoke = true) := by
  decide

theorem witness_yoke_packets_2 :
    ((wYoke 0).Takes (.yokeRole ({ hS with priv := true }) (1)) opYokeRole ({ hS with priv := true })) ∧ ((wYoke 0).yk.rolePk = none) ∧ (({ hS with priv := true }).ring.val = 0) ∧ ((1) = 1 ∨ (1) = 2) ∧ ((wYoke 0).fencedFor (1) = false) ∧ ((wYoke 0).accepts .yoke = true) := by
  decide

theorem witness_yoke_packets_3 :
    ((wYoke 0).Takes (.yokeRole ({ hS with priv := true }) (2)) opYokeRole ({ hS with priv := true })) ∧ ((wYoke 0).yk.rolePk = none) ∧ (({ hS with priv := true }).ring.val = 0) ∧ ((2) = 1 ∨ (2) = 2) ∧ ((wYoke 0).fencedFor (2) = false) ∧ ((wYoke 0).accepts .yoke = true) := by
  decide

theorem witness_yoke_packets_4 :
    ((wYoke 2).Takes (.yokeResync (hS)) opYokeResync (hS)) ∧ ((wYoke 2).yk.resyncPk = none) ∧ ((hS).ring.val = 0) ∧ ((wYoke 2).flag R.YOKE_STATE_FENCED = false) ∧ ((wYoke 2).accepts .yoke = true) ∧ ((wYoke 2).standby = true) ∧ ((wYoke 2).paired = true) := by
  decide

theorem witness_yoke_packets_5 :
    ((wYoke 2).Takes (.takeover (hS) (0x80000001) (0)) opTakeover (hS)) ∧ ((hS).ring.val = 0) ∧ ((0) ≤ 1) ∧ ((wYoke 2).flag R.YOKE_STATE_FENCED = false) ∧ ((wYoke 2).accepts .yoke = true) ∧ ((wYoke 2).standby = true) ∧ ((if (0) = 1 then List.range 32 else maskList 32 (0x80000001) : List Nat) = if (0) = 1 then List.range 32 else maskList 32 (0x80000001)) ∧ ((if (0) = 1 then ((wYoke 2).begun opTakeover (hS)).takeWhole else ((wYoke 2).begun opTakeover (hS)).takeSingle (if (0) = 1 then List.range 32 else maskList 32 (0x80000001) : List Nat) : State × Nat × List Nat) = if (0) = 1 then ((wYoke 2).begun opTakeover (hS)).takeWhole else ((wYoke 2).begun opTakeover (hS)).takeSingle (if (0) = 1 then List.range 32 else maskList 32 (0x80000001) : List Nat)) := by
  exact ⟨by decide, by decide, by decide, by decide, by decide, by decide, rfl, rfl⟩

theorem witness_yoke_packets_6 :
    ((wYoke 2).Takes (.takeover (hS) (0x80000001) (1)) opTakeover (hS)) ∧ ((hS).ring.val = 0) ∧ ((1) ≤ 1) ∧ ((wYoke 2).flag R.YOKE_STATE_FENCED = false) ∧ ((wYoke 2).accepts .yoke = true) ∧ ((wYoke 2).standby = true) ∧ ((if (1) = 1 then List.range 32 else maskList 32 (0x80000001) : List Nat) = if (1) = 1 then List.range 32 else maskList 32 (0x80000001)) ∧ ((if (1) = 1 then ((wYoke 2).begun opTakeover (hS)).takeWhole else ((wYoke 2).begun opTakeover (hS)).takeSingle (if (1) = 1 then List.range 32 else maskList 32 (0x80000001) : List Nat) : State × Nat × List Nat) = if (1) = 1 then ((wYoke 2).begun opTakeover (hS)).takeWhole else ((wYoke 2).begun opTakeover (hS)).takeSingle (if (1) = 1 then List.range 32 else maskList 32 (0x80000001) : List Nat)) := by
  exact ⟨by decide, by decide, by decide, by decide, by decide, by decide, rfl, rfl⟩

theorem witness_yoke_messages_1 :
    ((wYoke 1).clocked = true) := by
  decide

theorem witness_yoke_messages_2 :
    ((wYoke 2).clocked = true) ∧ ((wYoke 2).standby = true) ∧ ((wYoke 2).paired = true) ∧ (({ (wYoke 2).hear (16) with yk := { ((wYoke 2).hear (16)).yk with lastToken := tset 0 (wYoke 2).yk.lastToken (1 : Fin 256).val ((0) + 1) } }) = { (wYoke 2).hear (16) with yk := { ((wYoke 2).hear (16)).yk with lastToken := tset 0 (wYoke 2).yk.lastToken (1 : Fin 256).val ((0) + 1) } }) ∧ ((wYoke 2).ticks.find? (fun x => decide (x.1 = (1 : Fin 256).val) && decide (x.2.1 = (0))) = none) := by
  exact ⟨by decide, by decide, by decide, rfl, by decide⟩

theorem witness_yoke_messages_3 :
    (({ wYoke 2 with ticks := [(1, 0, 12)] }).clocked = true) ∧ (({ wYoke 2 with ticks := [(1, 0, 12)] }).standby = true) ∧ (({ wYoke 2 with ticks := [(1, 0, 12)] }).paired = true) ∧ (({ ({ wYoke 2 with ticks := [(1, 0, 12)] }).hear (16) with yk := { (({ wYoke 2 with ticks := [(1, 0, 12)] }).hear (16)).yk with lastToken := tset 0 ({ wYoke 2 with ticks := [(1, 0, 12)] }).yk.lastToken (1 : Fin 256).val ((0) + 1) } }) = { ({ wYoke 2 with ticks := [(1, 0, 12)] }).hear (16) with yk := { (({ wYoke 2 with ticks := [(1, 0, 12)] }).hear (16)).yk with lastToken := tset 0 ({ wYoke 2 with ticks := [(1, 0, 12)] }).yk.lastToken (1 : Fin 256).val ((0) + 1) } }) ∧ (({ wYoke 2 with ticks := [(1, 0, 12)] }).ticks.find? (fun x => decide (x.1 = (1 : Fin 256).val) && decide (x.2.1 = (0))) = some ((1, 0, 12) : Nat × Nat × Nat)) := by
  exact ⟨by decide, by decide, by decide, rfl, by decide⟩

theorem witness_yoke_messages_4 :
    ((wStby).clocked = true) ∧ (((wStby).hear (16)) = (wStby).hear (16)) ∧ (((wStby).hear (16)).compares = true) ∧ (((wStby).hear (16)).laneOwner (0 : Fin 32).val ≠ 0) ∧ ((((wStby).hear (16)).ctx (((wStby).hear (16)).laneOwner (0 : Fin 32).val)).live = true) ∧ ((((wStby).hear (16)).ctx (((wStby).hear (16)).laneOwner (0 : Fin 32).val)).firedLines ≤ (3)) := by
  exact ⟨by decide, rfl, by decide, by decide, by decide, by decide⟩

theorem witness_yoke_messages_5 :
    ((wStby).clocked = true) ∧ ((wStby).compares = true) ∧ ((if ((wStby).hear (16)).check = none then { (((wStby).hear (16)).wr R.YOKE_STATE_CHECKING 1) with check := some { ctx := ((wStby).hear (16)).laneOwner (0 : Fin 32).val, line := (3), lane := (0 : Fin 32).val } } else (wStby).hear (16)) = (if ((wStby).hear (16)).check = none then { (((wStby).hear (16)).wr R.YOKE_STATE_CHECKING 1) with check := some { ctx := ((wStby).hear (16)).laneOwner (0 : Fin 32).val, line := (3), lane := (0 : Fin 32).val } } else (wStby).hear (16))) := by
  exact ⟨by decide, by decide, rfl⟩

theorem witness_yoke_messages_6 :
    ((wStby).clocked = true) ∧ ((wStby).compares = true) ∧ ((if ((wStby).hear (16)).check = none then { (((wStby).hear (16)).wr R.YOKE_STATE_CHECKING 1) with check := some { ctx := ((wStby).hear (16)).laneOwner (0 : Fin 32).val, line := (3), lane := (0 : Fin 32).val } } else (wStby).hear (16)) = (if ((wStby).hear (16)).check = none then { (((wStby).hear (16)).wr R.YOKE_STATE_CHECKING 1) with check := some { ctx := ((wStby).hear (16)).laneOwner (0 : Fin 32).val, line := (3), lane := (0 : Fin 32).val } } else (wStby).hear (16))) := by
  exact ⟨by decide, by decide, rfl⟩

theorem witness_yoke_messages_7 :
    ((wYoke 2).clocked = true) ∧ (((wYoke 2).hear (16)).inOrder (1) = true) := by
  decide

theorem witness_yoke_messages_8 :
    ((wYoke 2).clocked = true) ∧ (((wYoke 2).hear (16)).inOrder (2) = false) := by
  decide

theorem witness_yoke_messages_9 :
    ((wYoke 2).clocked = true) := by
  decide

theorem witness_yoke_messages_10 :
    ((wYoke 2).clocked = true) ∧ (∀ a b, (.resync : ResultMsg) ≠ .identity a b) ∧ (((wYoke 2).hear (16)).inOrder (1) = true) := by
  exact ⟨by decide, (fun _ _ e => nomatch e), by decide⟩

theorem witness_yoke_messages_11 :
    ((wYoke 2).clocked = true) ∧ ((wYoke 2).paired = true) := by
  decide

theorem witness_yoke_timers_1 :
    ((wYoke 1).clocked = true) := by
  decide

theorem witness_yoke_timers_2 :
    (({ wYoke 1 with yk := { met := true, unacked := [⟨1, .result .resync, 1, 0⟩] } }).clocked = true) ∧ (({ wYoke 1 with yk := { met := true, unacked := [⟨1, .result .resync, 1, 0⟩] } }).yk.unacked = [(⟨1, .result .resync, 1, 0⟩ : YMsg)]) ∧ ((⟨1, .result .resync, 1, 0⟩ : YMsg).at' + 320000 ≤ (320000)) ∧ ((⟨1, .result .resync, 1, 0⟩ : YMsg).tries < 4) := by
  decide

theorem witness_yoke_timers_3 :
    ((wYoke 1).clocked = true) ∧ (∀ m ∈ (wYoke 1).yk.unacked, (320000) < m.at' + 320000 ∨ 4 ≤ m.tries) := by
  decide

theorem witness_yoke_timers_4 :
    ((wYoke 1).clocked = true) ∧ ((wYoke 1).paired = true) ∧ ((wYoke 1).yk.heard + 16000000 ≤ (16000000) ∨ (wYoke 1).yk.unacked.any (fun m => decide (4 ≤ m.tries) && decide (m.at' + 320000 ≤ (16000000))) = true) := by
  decide

theorem witness_yoke_timers_5 :
    (({ wYoke 2 with ticks := [(1, 0, 12)] }).clocked = true) ∧ (({ wYoke 2 with ticks := [(1, 0, 12)] }).ticks = [((1, 0, 12) : Nat × Nat × Nat)]) ∧ (({ wYoke 2 with ticks := [(1, 0, 12)] }).tokens = []) ∧ (((1, 0, 12) : Nat × Nat × Nat).2.2 + ({ wYoke 2 with ticks := [(1, 0, 12)] }).stepTol < (10000000)) := by
  decide

theorem witness_yoke_timers_6 :
    (({ wYoke 1 with yk := { rolePk := some ⟨hS, 0x0D01, 0⟩ } }).clocked = true) ∧ (({ wYoke 1 with yk := { rolePk := some ⟨hS, 0x0D01, 0⟩ } }).yk.rolePk = some (⟨hS, 0x0D01, 0⟩ : Pk)) := by
  decide

theorem witness_yoke_timers_7 :
    ((((wYoke 2).wr R.YOKE_CFG_AUTO 1).wr R.YOKE_STATE_PARTNER_FENCED 1).clocked = true) ∧ ((((wYoke 2).wr R.YOKE_CFG_AUTO 1).wr R.YOKE_STATE_PARTNER_FENCED 1).standby = true) ∧ ((((wYoke 2).wr R.YOKE_CFG_AUTO 1).wr R.YOKE_STATE_PARTNER_FENCED 1).flag R.YOKE_STATE_PAIRED = true) ∧ ((((wYoke 2).wr R.YOKE_CFG_AUTO 1).wr R.YOKE_STATE_PARTNER_FENCED 1).flag R.YOKE_CFG_AUTO = true) ∧ ((((wYoke 2).wr R.YOKE_CFG_AUTO 1).wr R.YOKE_STATE_PARTNER_FENCED 1).flag R.YOKE_STATE_FENCED = false) ∧ ((((wYoke 2).wr R.YOKE_CFG_AUTO 1).wr R.YOKE_STATE_PARTNER_FENCED 1).mode .yoke ≠ .faulted) ∧ (((((wYoke 2).wr R.YOKE_CFG_AUTO 1).wr R.YOKE_STATE_PARTNER_FENCED 1).advance (16)).wholeDue (16) = true) := by
  decide

theorem witness_yoke_timers_8 :
    ((wDue).clocked = true) ∧ ((wDue).standby = true) ∧ ((wDue).flag R.YOKE_STATE_PAIRED = true) ∧ ((wDue).flag R.YOKE_CFG_AUTO = true) ∧ ((wDue).flag R.YOKE_STATE_FENCED = false) ∧ ((wDue).mode .yoke ≠ .faulted) ∧ (((wDue).advance (16)).laneDue (3 : Fin 32).val = true) := by
  decide

theorem witness_gleaner_commands_1 :
    ((wHost (wOn [.glean]) 0 wPolicy).Takes (.gleanPolicy (hS) (0)) opGleanPolicy (hS)) ∧ ((wHost (wOn [.glean]) 0 wPolicy).accepts .glean = true) ∧ ((wHost (wOn [.glean]) 0 wPolicy).Reads (0) 64 ((wHost (wOn [.glean]) 0 wPolicy).bytesAt 0 64 : List Byte)) ∧ (gleanBad ((wHost (wOn [.glean]) 0 wPolicy).bytesAt 0 64 : List Byte) = false) ∧ ((((wHost (wOn [.glean]) 0 wPolicy).begun opGleanPolicy (hS)).touch 2 0 64) = ((wHost (wOn [.glean]) 0 wPolicy).begun opGleanPolicy (hS)).touch 2 (0) 64) := by
  decide

theorem witness_gleaner_commands_2 :
    ((wGlean).Takes (.gleanRun (hS) (.insp : Node).base (15)) opGleanRun (hS)) ∧ ((15) ≤ 15) ∧ ((wGlean).accepts .glean = true) ∧ (((wGlean).begun opGleanRun (hS)).nodeState (.insp : Node) = .idle) ∧ ((wGlean).gl.run = none) ∧ ((wGlean).gl.test = none) := by
  decide

theorem witness_gleaner_commands_3 :
    (({ wGlean with gl := { test := some (.comp, 0) } }).Takes (.gleanRun (hS) (.insp : Node).base (15)) opGleanRun (hS)) ∧ ((15) ≤ 15) ∧ (({ wGlean with gl := { test := some (.comp, 0) } }).accepts .glean = true) ∧ ((({ wGlean with gl := { test := some (.comp, 0) } }).begun opGleanRun (hS)).nodeState (.insp : Node) = .idle) ∧ (({ wGlean with gl := { test := some (.comp, 0) } }).gl.run = none) ∧ (({ wGlean with gl := { test := some (.comp, 0) } }).gl.test.isSome = true) := by
  decide

theorem witness_gleaner_commands_4 :
    ((wGlean).clocked = true) ∧ ((wGlean).accepts .glean = true) ∧ ((wGlean).hlth.share < 256) ∧ ((wGlean).gleanFlag 0 = true) ∧ ((.insp : Node) = .comp → ((wGlean).gleanFlag 1 && ((wGlean).inLongHeadland || decide ((wGlean).nodeState (.insp : Node) = .idle))) = true) ∧ ((wGlean).gleanTests.testBit (1 : Fin 4).val = true) ∧ ((testsOf (.insp : Node)).testBit (1 : Fin 4).val = true) ∧ ((wGlean).gl.test = none) ∧ ((wGlean).gl.run = none) ∧ ((wGlean).accepts (.insp : Node) = true) ∧ (inPlace (.insp : Node) = true ∨ (wGlean).nodeState (.insp : Node) = .idle) := by
  decide

theorem witness_gleaner_commands_5 :
    (({ wGlean with gl := { test := some (.insp, 0) } }).clocked = true) ∧ (({ wGlean with gl := { test := some (.insp, 0) } }).gl.test = some ((.insp : Node), (0))) := by
  decide

theorem witness_gleaner_commands_6 :
    ((wGlean).clocked = true) := by
  decide

theorem witness_gleaner_commands_7 :
    (({ wGlean with gl := { test := some (.insp, 0) } }).clocked = true) ∧ (({ wGlean with gl := { test := some (.insp, 0) } }).gl.test = some ((.insp : Node), (0))) := by
  decide

theorem witness_gleaner_commands_8 :
    ((wGlean).clocked = true) ∧ (testsOf (.insp : Node) ≠ 0 ∨ (.insp : Node) = .mem) ∧ (tget false (wGlean).gl.late (partKey (.insp : Node) (0 : Fin 49).val) = false) ∧ (((wGlean).advance (2 ^ 70)).overdue (.insp : Node) (0 : Fin 49).val (2 ^ 70) = true) := by
  decide

theorem witness_gleaner_commands_9 :
    (({ wStby with check := some { ctx := 1, line := 0, lane := 3 } }).clocked = true) ∧ (({ wStby with check := some { ctx := 1, line := 0, lane := 3 } }).check = some ({ ctx := 1, line := 0, lane := 3 } : CheckRt)) ∧ (({ ctx := 1, line := 0, lane := 3 } : CheckRt).lane = (3 : Fin 32).val) ∧ (({ ctx := 1, line := 0, lane := 3 } : CheckRt).own = none) := by
  decide

theorem witness_health_packets_1 :
    ((wOn [.hlth]).Takes (.healthRead (hJ) (0)) opHealthRead (hJ)) ∧ ((wOn [.hlth]).accepts .hlth = true) ∧ ((wOn [.hlth]).badAddr (0) 16640 = false) ∧ ((wOn [.hlth]).dmaFails (0) 16640 = false) ∧ ((if (wOn [.hlth]).hlth.rise % 4 = 0 then 0 else Config.free .riseRound ((wOn [.hlth]).begun opHealthRead (hJ)).draw.1 % 2) = (if (wOn [.hlth]).hlth.rise % 4 = 0 then 0 else Config.free .riseRound ((wOn [.hlth]).begun opHealthRead (hJ)).draw.1 % 2)) ∧ ((((wOn [.hlth]).begun opHealthRead (hJ)).draw.2.writeAt 15 (0) (((wOn [.hlth]).begun opHealthRead (hJ)).draw.2.healthBytes ((wOn [.hlth]).hlth.rise / 4 + (if (wOn [.hlth]).hlth.rise % 4 = 0 then 0 else Config.free .riseRound ((wOn [.hlth]).begun opHealthRead (hJ)).draw.1 % 2)))) = ((wOn [.hlth]).begun opHealthRead (hJ)).draw.2.writeAt 15 (0) (((wOn [.hlth]).begun opHealthRead (hJ)).draw.2.healthBytes ((wOn [.hlth]).hlth.rise / 4 + (if (wOn [.hlth]).hlth.rise % 4 = 0 then 0 else Config.free .riseRound ((wOn [.hlth]).begun opHealthRead (hJ)).draw.1 % 2)))) := by
  exact ⟨by decide, by decide, by decide, by decide, rfl, rfl⟩

theorem witness_health_packets_2 :
    ((wOn [.hlth]).Takes (.tallyRead (hJ) (0) (1048575) (1)) opTallyRead (hJ)) ∧ ((wOn [.hlth]).accepts .hlth = true) ∧ ((1048575) + (1) ≤ 1048576) ∧ ((wOn [.hlth]).badAddr (0) (8 * (1)) = false) ∧ ((wOn [.hlth]).dmaFails (0) (8 * (1)) = false) ∧ ((wOn [.hlth]).dramBad ((wOn [.hlth]).tallyAddr (1048575)) (8 * (1)) = false) := by
  decide

theorem witness_health_packets_3 :
    ((wHost (wOn [.hlth]) 0 wThermal).Takes (.thermalSet ({ hS with priv := true }) (0)) opThermalSet ({ hS with priv := true })) ∧ ((wHost (wOn [.hlth]) 0 wThermal).accepts .hlth = true) ∧ ((wHost (wOn [.hlth]) 0 wThermal).Reads (0) 64 ((wHost (wOn [.hlth]) 0 wThermal).bytesAt 0 64 : List Byte)) ∧ (thermalBad ((wHost (wOn [.hlth]) 0 wThermal).bytesAt 0 64 : List Byte) = false) ∧ ((((((((wHost (wOn [.hlth]) 0 wThermal).begun opThermalSet ({ hS with priv := true })).touch 2 0 64).wr R.HLTH_THRESH_WARN (fieldN ((wHost (wOn [.hlth]) 0 wThermal).bytesAt 0 64 : List Byte) 0 2)).wr R.HLTH_THRESH_THROTTLE (fieldN ((wHost (wOn [.hlth]) 0 wThermal).bytesAt 0 64 : List Byte) 2 2)).wr R.HLTH_THRESH_CRITICAL (fieldN ((wHost (wOn [.hlth]) 0 wThermal).bytesAt 0 64 : List Byte) 4 2)).wr R.HLTH_THRESH_SHUTDOWN (fieldN ((wHost (wOn [.hlth]) 0 wThermal).bytesAt 0 64 : List Byte) 6 2)) = ((((((wHost (wOn [.hlth]) 0 wThermal).begun opThermalSet ({ hS with priv := true })).touch 2 0 64).wr R.HLTH_THRESH_WARN (fieldN ((wHost (wOn [.hlth]) 0 wThermal).bytesAt 0 64 : List Byte) 0 2)).wr R.HLTH_THRESH_THROTTLE (fieldN ((wHost (wOn [.hlth]) 0 wThermal).bytesAt 0 64 : List Byte) 2 2)).wr R.HLTH_THRESH_CRITICAL (fieldN ((wHost (wOn [.hlth]) 0 wThermal).bytesAt 0 64 : List Byte) 4 2)).wr R.HLTH_THRESH_SHUTDOWN (fieldN ((wHost (wOn [.hlth]) 0 wThermal).bytesAt 0 64 : List Byte) 6 2)) ∧ ((((wHost (wOn [.hlth]) 0 wThermal).begun opThermalSet ({ hS with priv := true })).touch 2 0 64) = ((wHost (wOn [.hlth]) 0 wThermal).begun opThermalSet ({ hS with priv := true })).touch 2 (0) 64) := by
  exact ⟨by decide, by decide, by decide, by decide, rfl, by decide⟩

theorem witness_health_events_1 :
    ((State.reset).dev ≠ devSleep) := by
  decide

theorem witness_health_events_2 :
    ((State.reset).HostReaches) := by
  decide

theorem witness_health_events_3 :
    ((State.reset.wr (R.HL_STATE_HEADS 3) 63).clocked = true) ∧ ((bits (0x00000533) 8 6) = bits (0x00000533) 8 6) ∧ ((((State.reset.wr (R.HL_STATE_HEADS 3) 63).advance (16)).setHead (3 : Fin 32).val { ((State.reset.wr (R.HL_STATE_HEADS 3) 63).head (3 : Fin 32).val) with temps := tset 0 ((State.reset.wr (R.HL_STATE_HEADS 3) 63).head (3 : Fin 32).val).temps (bits (0x00000533) 8 6) (0x00000533), tempAt := tset 0 ((State.reset.wr (R.HL_STATE_HEADS 3) 63).head (3 : Fin 32).val).tempAt (bits (0x00000533) 8 6) (16) }) = ((State.reset.wr (R.HL_STATE_HEADS 3) 63).advance (16)).setHead (3 : Fin 32).val { ((State.reset.wr (R.HL_STATE_HEADS 3) 63).head (3 : Fin 32).val) with temps := tset 0 ((State.reset.wr (R.HL_STATE_HEADS 3) 63).head (3 : Fin 32).val).temps (bits (0x00000533) 8 6) (0x00000533), tempAt := tset 0 ((State.reset.wr (R.HL_STATE_HEADS 3) 63).head (3 : Fin 32).val).tempAt (bits (0x00000533) 8 6) (16) }) ∧ ((bits (0x00000533) 8 6) < (State.reset.wr (R.HL_STATE_HEADS 3) 63).headCount (3 : Fin 32).val) ∧ ((0x00000533) % 256 = 0x33) ∧ (bit (0x00000533) 32 = false) := by
  exact ⟨by decide, rfl, rfl, by decide, by decide, by decide⟩

theorem witness_health_events_4 :
    ((State.reset.wr (R.HL_STATE_HEADS 3) 63).clocked = true) ∧ ((bits (0x100000533) 8 6) = bits (0x100000533) 8 6) ∧ ((((State.reset.wr (R.HL_STATE_HEADS 3) 63).advance (16)).setHead (3 : Fin 32).val { ((State.reset.wr (R.HL_STATE_HEADS 3) 63).head (3 : Fin 32).val) with temps := tset 0 ((State.reset.wr (R.HL_STATE_HEADS 3) 63).head (3 : Fin 32).val).temps (bits (0x100000533) 8 6) (0x100000533), tempAt := tset 0 ((State.reset.wr (R.HL_STATE_HEADS 3) 63).head (3 : Fin 32).val).tempAt (bits (0x100000533) 8 6) (16) }) = ((State.reset.wr (R.HL_STATE_HEADS 3) 63).advance (16)).setHead (3 : Fin 32).val { ((State.reset.wr (R.HL_STATE_HEADS 3) 63).head (3 : Fin 32).val) with temps := tset 0 ((State.reset.wr (R.HL_STATE_HEADS 3) 63).head (3 : Fin 32).val).temps (bits (0x100000533) 8 6) (0x100000533), tempAt := tset 0 ((State.reset.wr (R.HL_STATE_HEADS 3) 63).head (3 : Fin 32).val).tempAt (bits (0x100000533) 8 6) (16) }) ∧ ((bits (0x100000533) 8 6) < (State.reset.wr (R.HL_STATE_HEADS 3) 63).headCount (3 : Fin 32).val) ∧ ((0x100000533) % 256 = 0x33) ∧ (bit (0x100000533) 32 = true) ∧ (tget false ((State.reset.wr (R.HL_STATE_HEADS 3) 63).head (3 : Fin 32).val).sensorBad (bits (0x100000533) 8 6) = false) := by
  exact ⟨by decide, rfl, rfl, by decide, by decide, by decide, by decide⟩

theorem witness_health_events_5 :
    ((State.reset.setHead 3 { temps := [(5, 1)] }).clocked = true) ∧ (tget 0 ((State.reset.setHead 3 { temps := [(5, 1)] }).head (3 : Fin 32).val).temps (5 : Fin 64).val ≠ 0) ∧ (tget false ((State.reset.setHead 3 { temps := [(5, 1)] }).head (3 : Fin 32).val).sensorBad (5 : Fin 64).val = false) ∧ (tget 0 ((State.reset.setHead 3 { temps := [(5, 1)] }).head (3 : Fin 32).val).tempAt (5 : Fin 64).val + 80000000 ≤ (80000000)) := by
  decide

theorem witness_health_events_6 :
    ((State.reset.setHead 3 { temps := [(5, 1)], disabled := [(5, true)], belowSince := [(5, 1)] }).clocked = true) ∧ (tget false ((State.reset.setHead 3 { temps := [(5, 1)], disabled := [(5, true)], belowSince := [(5, 1)] }).head (3 : Fin 32).val).disabled (5 : Fin 64).val = true) ∧ ((1) = tget 0 ((State.reset.setHead 3 { temps := [(5, 1)], disabled := [(5, true)], belowSince := [(5, 1)] }).head (3 : Fin 32).val).belowSince (5 : Fin 64).val) ∧ ((1) ≠ 0) ∧ ((1) + 160000000 ≤ (160000000) + 1) ∧ ((((State.reset.setHead 3 { temps := [(5, 1)], disabled := [(5, true)], belowSince := [(5, 1)] }).advance (160000000)).setHead (3 : Fin 32).val { ((State.reset.setHead 3 { temps := [(5, 1)], disabled := [(5, true)], belowSince := [(5, 1)] }).head (3 : Fin 32).val) with belowSince := tset 0 ((State.reset.setHead 3 { temps := [(5, 1)], disabled := [(5, true)], belowSince := [(5, 1)] }).head (3 : Fin 32).val).belowSince (5 : Fin 64).val 0 }) = ((State.reset.setHead 3 { temps := [(5, 1)], disabled := [(5, true)], belowSince := [(5, 1)] }).advance (160000000)).setHead (3 : Fin 32).val { ((State.reset.setHead 3 { temps := [(5, 1)], disabled := [(5, true)], belowSince := [(5, 1)] }).head (3 : Fin 32).val) with belowSince := tset 0 ((State.reset.setHead 3 { temps := [(5, 1)], disabled := [(5, true)], belowSince := [(5, 1)] }).head (3 : Fin 32).val).belowSince (5 : Fin 64).val 0 }) := by
  exact ⟨by decide, by decide, by decide, by decide, by decide, rfl⟩

theorem witness_health_events_7 :
    ((1) = ((State.reset).globalLine + 1024 - 32 * (0 : Fin 32).val) / 1024) ∧ (((State.reset).head (0 : Fin 32).val).flushes < (1)) := by
  decide

theorem witness_health_events_8 :
    ((State.reset).HostReaches) ∧ (((5 : Word).toNat + (0x80000001 : Word).toNat * 2 ^ 32) = (5 : Word).toNat + (0x80000001 : Word).toNat * 2 ^ 32) ∧ ((((State.wr { (State.reset) with staged := tset none (State.reset).staged (0xE0006C / 4) none } R.HLTH_TALLY_CLR_FIRST (bits ((5 : Word).toNat + (0x80000001 : Word).toNat * 2 ^ 32) 0 20)).wr R.HLTH_TALLY_CLR_NUMBER (bits ((5 : Word).toNat + (0x80000001 : Word).toNat * 2 ^ 32) 32 21)).wr R.HLTH_TALLY_CLR_CLR_OVF (bits ((5 : Word).toNat + (0x80000001 : Word).toNat * 2 ^ 32) 62 1)) = ((State.wr { (State.reset) with staged := tset none (State.reset).staged (0xE0006C / 4) none } R.HLTH_TALLY_CLR_FIRST (bits ((5 : Word).toNat + (0x80000001 : Word).toNat * 2 ^ 32) 0 20)).wr R.HLTH_TALLY_CLR_NUMBER (bits ((5 : Word).toNat + (0x80000001 : Word).toNat * 2 ^ 32) 32 21)).wr R.HLTH_TALLY_CLR_CLR_OVF (bits ((5 : Word).toNat + (0x80000001 : Word).toNat * 2 ^ 32) 62 1)) := by
  exact ⟨by decide, rfl, rfl⟩

theorem witness_health_events_9 :
    (((State.reset.wr (R.HEAD_LIFE_LIFE 3) 1).wr (R.HL_STATE_HEADS 3) 63).rd (R.HEAD_LIFE_LIFE (3 : Fin 32).val) ≠ 0) ∧ ((63 : Fin 64).val < ((State.reset.wr (R.HEAD_LIFE_LIFE 3) 1).wr (R.HL_STATE_HEADS 3) 63).headCount (3 : Fin 32).val) := by
  decide

theorem witness_health_events_10 :
    (({ ((State.reset).advance ((State.reset).hlth.hourAt + 57600000000000)) with hlth := { (State.reset).hlth with hourAt := (State.reset).hlth.hourAt + 57600000000000 } }) = { ((State.reset).advance ((State.reset).hlth.hourAt + 57600000000000)) with hlth := { (State.reset).hlth with hourAt := (State.reset).hlth.hourAt + 57600000000000 } }) ∧ (((List.range 16).foldl (fun (q : State) i => q.wr (R.AGE_DRIFT_PPM i) (([5] : List Nat).getD i 0)) (({ ((State.reset).advance ((State.reset).hlth.hourAt + 57600000000000)) with hlth := { (State.reset).hlth with hourAt := (State.reset).hlth.hourAt + 57600000000000 } }).wr R.HLTH_HOURS_HOURS (min 0xFFFFFFFF (({ ((State.reset).advance ((State.reset).hlth.hourAt + 57600000000000)) with hlth := { (State.reset).hlth with hourAt := (State.reset).hlth.hourAt + 57600000000000 } }).rd R.HLTH_HOURS_HOURS + 1)))) = (List.range 16).foldl (fun (q : State) i => q.wr (R.AGE_DRIFT_PPM i) (([5] : List Nat).getD i 0)) (({ ((State.reset).advance ((State.reset).hlth.hourAt + 57600000000000)) with hlth := { (State.reset).hlth with hourAt := (State.reset).hlth.hourAt + 57600000000000 } }).wr R.HLTH_HOURS_HOURS (min 0xFFFFFFFF (({ ((State.reset).advance ((State.reset).hlth.hourAt + 57600000000000)) with hlth := { (State.reset).hlth with hourAt := (State.reset).hlth.hourAt + 57600000000000 } }).rd R.HLTH_HOURS_HOURS + 1)))) ∧ ((((List.range 16).foldl (fun (q : State) i => q.wr (R.AGE_DRIFT_PPM i) (([5] : List Nat).getD i 0)) (({ ((State.reset).advance ((State.reset).hlth.hourAt + 57600000000000)) with hlth := { (State.reset).hlth with hourAt := (State.reset).hlth.hourAt + 57600000000000 } }).wr R.HLTH_HOURS_HOURS (min 0xFFFFFFFF (({ ((State.reset).advance ((State.reset).hlth.hourAt + 57600000000000)) with hlth := { (State.reset).hlth with hourAt := (State.reset).hlth.hourAt + 57600000000000 } }).rd R.HLTH_HOURS_HOURS + 1)))).ageEol (min 0xFFFFFFFF (({ ((State.reset).advance ((State.reset).hlth.hourAt + 57600000000000)) with hlth := { (State.reset).hlth with hourAt := (State.reset).hlth.hourAt + 57600000000000 } }).rd R.HLTH_HOURS_HOURS + 1)) ((List.range 16).foldl (fun (m : Nat) i => max m (((List.range 16).foldl (fun (q : State) i => q.wr (R.AGE_DRIFT_PPM i) (([5] : List Nat).getD i 0)) (({ ((State.reset).advance ((State.reset).hlth.hourAt + 57600000000000)) with hlth := { (State.reset).hlth with hourAt := (State.reset).hlth.hourAt + 57600000000000 } }).wr R.HLTH_HOURS_HOURS (min 0xFFFFFFFF (({ ((State.reset).advance ((State.reset).hlth.hourAt + 57600000000000)) with hlth := { (State.reset).hlth with hourAt := (State.reset).hlth.hourAt + 57600000000000 } }).rd R.HLTH_HOURS_HOURS + 1)))).rd (R.AGE_DRIFT_PPM i))) 0)) = ((List.range 16).foldl (fun (q : State) i => q.wr (R.AGE_DRIFT_PPM i) (([5] : List Nat).getD i 0)) (({ ((State.reset).advance ((State.reset).hlth.hourAt + 57600000000000)) with hlth := { (State.reset).hlth with hourAt := (State.reset).hlth.hourAt + 57600000000000 } }).wr R.HLTH_HOURS_HOURS (min 0xFFFFFFFF (({ ((State.reset).advance ((State.reset).hlth.hourAt + 57600000000000)) with hlth := { (State.reset).hlth with hourAt := (State.reset).hlth.hourAt + 57600000000000 } }).rd R.HLTH_HOURS_HOURS + 1)))).ageEol (min 0xFFFFFFFF (({ ((State.reset).advance ((State.reset).hlth.hourAt + 57600000000000)) with hlth := { (State.reset).hlth with hourAt := (State.reset).hlth.hourAt + 57600000000000 } }).rd R.HLTH_HOURS_HOURS + 1)) ((List.range 16).foldl (fun (m : Nat) i => max m (((List.range 16).foldl (fun (q : State) i => q.wr (R.AGE_DRIFT_PPM i) (([5] : List Nat).getD i 0)) (({ ((State.reset).advance ((State.reset).hlth.hourAt + 57600000000000)) with hlth := { (State.reset).hlth with hourAt := (State.reset).hlth.hourAt + 57600000000000 } }).wr R.HLTH_HOURS_HOURS (min 0xFFFFFFFF (({ ((State.reset).advance ((State.reset).hlth.hourAt + 57600000000000)) with hlth := { (State.reset).hlth with hourAt := (State.reset).hlth.hourAt + 57600000000000 } }).rd R.HLTH_HOURS_HOURS + 1)))).rd (R.AGE_DRIFT_PPM i))) 0)) := by
  exact ⟨rfl, rfl, rfl⟩

theorem witness_security_packets_1 :
    ((wOn [.sec]).Takes (.fwUpdate ({ hS with priv := true }) (0) (4608)) opFwUpdate ({ hS with priv := true })) ∧ (((wOn [.sec]).bytesAt (0) (4608) : List Byte) = (wOn [.sec]).bytesAt (0) (4608)) ∧ ((FwHdr.ofBytes (((wOn [.sec]).bytesAt (0) (4608) : List Byte).take 512) : FwHdr) = FwHdr.ofBytes (((wOn [.sec]).bytesAt (0) (4608) : List Byte).take 512)) ∧ (((wOn [.sec]).begun opFwUpdate ({ hS with priv := true })) = (wOn [.sec]).begun opFwUpdate ({ hS with priv := true })) ∧ ((((wOn [.sec]).begun opFwUpdate ({ hS with priv := true })).touch 2 (0) (4608)) = ((wOn [.sec]).begun opFwUpdate ({ hS with priv := true })).touch 2 (0) (4608)) ∧ ((!(((wOn [.sec]).begun opFwUpdate ({ hS with priv := true })).touch 2 (0) (4608)).flag R.SEC_STATE_COPY) = !(((wOn [.sec]).begun opFwUpdate ({ hS with priv := true })).touch 2 (0) (4608)).flag R.SEC_STATE_COPY) ∧ ((((((wOn [.sec]).begun opFwUpdate ({ hS with priv := true })).touch 2 (0) (4608)).cacheKey (FwHdr.ofBytes (((wOn [.sec]).bytesAt (0) (4608) : List Byte).take 512) : FwHdr).slot (FwHdr.ofBytes (((wOn [.sec]).bytesAt (0) (4608) : List Byte).take 512) : FwHdr).key).norWrite (copyBase (!(((wOn [.sec]).begun opFwUpdate ({ hS with priv := true })).touch 2 (0) (4608)).flag R.SEC_STATE_COPY)) ((wOn [.sec]).bytesAt (0) (4608) : List Byte)) = ((((wOn [.sec]).begun opFwUpdate ({ hS with priv := true })).touch 2 (0) (4608)).cacheKey (FwHdr.ofBytes (((wOn [.sec]).bytesAt (0) (4608) : List Byte).take 512) : FwHdr).slot (FwHdr.ofBytes (((wOn [.sec]).bytesAt (0) (4608) : List Byte).take 512) : FwHdr).key).norWrite (copyBase (!(((wOn [.sec]).begun opFwUpdate ({ hS with priv := true })).touch 2 (0) (4608)).flag R.SEC_STATE_COPY)) ((wOn [.sec]).bytesAt (0) (4608) : List Byte)) ∧ (({ (((((wOn [.sec]).begun opFwUpdate ({ hS with priv := true })).touch 2 (0) (4608)).cacheKey (FwHdr.ofBytes (((wOn [.sec]).bytesAt (0) (4608) : List Byte).take 512) : FwHdr).slot (FwHdr.ofBytes (((wOn [.sec]).bytesAt (0) (4608) : List Byte).take 512) : FwHdr).key).norWrite (copyBase (!(((wOn [.sec]).begun opFwUpdate ({ hS with priv := true })).touch 2 (0) (4608)).flag R.SEC_STATE_COPY)) ((wOn [.sec]).bytesAt (0) (4608) : List Byte)) with nor := if (!(((wOn [.sec]).begun opFwUpdate ({ hS with priv := true })).touch 2 (0) (4608)).flag R.SEC_STATE_COPY) then { (((((wOn [.sec]).begun opFwUpdate ({ hS with priv := true })).touch 2 (0) (4608)).cacheKey (FwHdr.ofBytes (((wOn [.sec]).bytesAt (0) (4608) : List Byte).take 512) : FwHdr).slot (FwHdr.ofBytes (((wOn [.sec]).bytesAt (0) (4608) : List Byte).take 512) : FwHdr).key).norWrite (copyBase (!(((wOn [.sec]).begun opFwUpdate ({ hS with priv := true })).touch 2 (0) (4608)).flag R.SEC_STATE_COPY)) ((wOn [.sec]).bytesAt (0) (4608) : List Byte)).nor with failsB := 0 } else { (((((wOn [.sec]).begun opFwUpdate ({ hS with priv := true })).touch 2 (0) (4608)).cacheKey (FwHdr.ofBytes (((wOn [.sec]).bytesAt (0) (4608) : List Byte).take 512) : FwHdr).slot (FwHdr.ofBytes (((wOn [.sec]).bytesAt (0) (4608) : List Byte).take 512) : FwHdr).key).norWrite (copyBase (!(((wOn [.sec]).begun opFwUpdate ({ hS with priv := true })).touch 2 (0) (4608)).flag R.SEC_STATE_COPY)) ((wOn [.sec]).bytesAt (0) (4608) : List Byte)).nor with failsA := 0 } }) = { (((((wOn [.sec]).begun opFwUpdate ({ hS with priv := true })).touch 2 (0) (4608)).cacheKey (FwHdr.ofBytes (((wOn [.sec]).bytesAt (0) (4608) : List Byte).take 512) : FwHdr).slot (FwHdr.ofBytes (((wOn [.sec]).bytesAt (0) (4608) : List Byte).take 512) : FwHdr).key).norWrite (copyBase (!(((wOn [.sec]).begun opFwUpdate ({ hS with priv := true })).touch 2 (0) (4608)).flag R.SEC_STATE_COPY)) ((wOn [.sec]).bytesAt (0) (4608) : List Byte)) with nor := if (!(((wOn [.sec]).begun opFwUpdate ({ hS with priv := true })).touch 2 (0) (4608)).flag R.SEC_STATE_COPY) then { (((((wOn [.sec]).begun opFwUpdate ({ hS with priv := true })).touch 2 (0) (4608)).cacheKey (FwHdr.ofBytes (((wOn [.sec]).bytesAt (0) (4608) : List Byte).take 512) : FwHdr).slot (FwHdr.ofBytes (((wOn [.sec]).bytesAt (0) (4608) : List Byte).take 512) : FwHdr).key).norWrite (copyBase (!(((wOn [.sec]).begun opFwUpdate ({ hS with priv := true })).touch 2 (0) (4608)).flag R.SEC_STATE_COPY)) ((wOn [.sec]).bytesAt (0) (4608) : List Byte)).nor with failsB := 0 } else { (((((wOn [.sec]).begun opFwUpdate ({ hS with priv := true })).touch 2 (0) (4608)).cacheKey (FwHdr.ofBytes (((wOn [.sec]).bytesAt (0) (4608) : List Byte).take 512) : FwHdr).slot (FwHdr.ofBytes (((wOn [.sec]).bytesAt (0) (4608) : List Byte).take 512) : FwHdr).key).norWrite (copyBase (!(((wOn [.sec]).begun opFwUpdate ({ hS with priv := true })).touch 2 (0) (4608)).flag R.SEC_STATE_COPY)) ((wOn [.sec]).bytesAt (0) (4608) : List Byte)).nor with failsA := 0 } }) := by
  exact ⟨by decide, rfl, rfl, rfl, rfl, rfl, rfl, rfl⟩

theorem witness_security_packets_2 :
    ((wOn [.sec]).Takes (.secSelfTest ({ hS with priv := true }) (0 : BitVec 4)) opSecSelfTest ({ hS with priv := true })) ∧ (((wOn [.sec]).begun opSecSelfTest ({ hS with priv := true })) = (wOn [.sec]).begun opSecSelfTest ({ hS with priv := true })) := by
  exact ⟨by decide, rfl⟩

theorem witness_security_packets_3 :
    ((wOn [.sec]).Takes (.keyRevoke ({ hS with priv := true, entries := 2 }) (1) ([] : List Byte) ([] : List Byte) ([] : List Byte)) opKeyRevoke ({ hS with priv := true, entries := 2 })) ∧ (((wOn [.sec]).begun opKeyRevoke ({ hS with priv := true, entries := 2 })) = (wOn [.sec]).begun opKeyRevoke ({ hS with priv := true, entries := 2 })) ∧ (((((wOn [.sec]).begun opKeyRevoke ({ hS with priv := true, entries := 2 })).wr (R.SEC_SLOT_REVOKED (1)) 1).dropKey (1)) = (((wOn [.sec]).begun opKeyRevoke ({ hS with priv := true, entries := 2 })).wr (R.SEC_SLOT_REVOKED (1)) 1).dropKey (1)) ∧ ((State.withdrawSlot ((((((wOn [.sec]).begun opKeyRevoke ({ hS with priv := true, entries := 2 })).wr (R.SEC_SLOT_REVOKED (1)) 1).dropKey (1)).raise .sec 19).audit 9 0 (1) 0 (1) ((((wOn [.sec]).begun opKeyRevoke ({ hS with priv := true, entries := 2 })).wr (R.SEC_SLOT_REVOKED (1)) 1).dropKey (1)).slotsLeft []) (1)) = State.withdrawSlot ((((((wOn [.sec]).begun opKeyRevoke ({ hS with priv := true, entries := 2 })).wr (R.SEC_SLOT_REVOKED (1)) 1).dropKey (1)).raise .sec 19).audit 9 0 (1) 0 (1) ((((wOn [.sec]).begun opKeyRevoke ({ hS with priv := true, entries := 2 })).wr (R.SEC_SLOT_REVOKED (1)) 1).dropKey (1)).slotsLeft []) (1)) := by
  exact ⟨by decide, rfl, rfl, rfl⟩

theorem witness_security_packets_4 : ∃ h, (wOn [.sec]).Takes (.sealLoad h 0 0 0 [] []) opSealLoad h := ⟨{ hJ with priv := true, entries := 2 }, by decide⟩

theorem witness_security_events_1 :
    ((wOn [.sec]).Takes (.auditRead (hJ) (0) (0) (1)) opAuditRead (hJ)) ∧ (((((wOn [.sec]).sec.audit.filter fun r => decide ((0) ≤ fieldN r 0 8)).take (1)) : List (List Byte)) = (((wOn [.sec]).sec.audit.filter fun r => decide ((0) ≤ fieldN r 0 8)).take (1))) ∧ ((wOn [.sec]).badAddr (0) (160 * (1)) = false) ∧ ((wOn [.sec]).secOff = false) ∧ ((wOn [.sec]).dmaFails (0) (160 * ((((wOn [.sec]).sec.audit.filter fun r => decide ((0) ≤ fieldN r 0 8)).take (1)) : List (List Byte)).length) = false) ∧ ((wOn [.sec]).secErr = false) ∧ ((wOn [.sec]).secPoison ((wOn [.sec]).secBase + storeBytes) ringBytes = false) := by
  exact ⟨by decide, rfl, by decide, by decide, by decide, by decide, secPoison_clean _ _ _ rfl rfl rfl⟩

theorem witness_security_events_2 :
    ((State.reset).HostReaches) ∧ ((State.reset).dev ≠ devTest) := by
  decide

theorem witness_security_events_3 :
    ((State.reset.wr R.SYS_DEV_DEV_STATE devTest).HostReaches) ∧ ((State.reset.wr R.SYS_DEV_DEV_STATE devTest).dev = devTest) ∧ (((0x101 : Word).toNat % 4) = (0x101 : Word).toNat % 4) ∧ (((((State.reset.wr R.SYS_DEV_DEV_STATE devTest).wr R.SEC_PROG_SLOT ((0x101 : Word).toNat % 4)).wr R.SEC_PROG_USE_FW (bits (0x101 : Word).toNat 8 1)).wr R.SEC_PROG_USE_SEAL (bits (0x101 : Word).toNat 9 1)) = (((State.reset.wr R.SYS_DEV_DEV_STATE devTest).wr R.SEC_PROG_SLOT ((0x101 : Word).toNat % 4)).wr R.SEC_PROG_USE_FW (bits (0x101 : Word).toNat 8 1)).wr R.SEC_PROG_USE_SEAL (bits (0x101 : Word).toNat 9 1)) ∧ (bit (0x101 : Word).toNat 16 = false) := by
  exact ⟨by decide, by decide, rfl, rfl, by decide⟩

theorem witness_security_events_4 :
    (((State.reset.wr R.SYS_DEV_DEV_STATE devTest).wr R.SEC_STATE_MSTATE 2).HostReaches) ∧ (((State.reset.wr R.SYS_DEV_DEV_STATE devTest).wr R.SEC_STATE_MSTATE 2).dev = devTest) ∧ (((0x10101 : Word).toNat % 4) = (0x10101 : Word).toNat % 4) ∧ ((((((State.reset.wr R.SYS_DEV_DEV_STATE devTest).wr R.SEC_STATE_MSTATE 2).wr R.SEC_PROG_SLOT ((0x10101 : Word).toNat % 4)).wr R.SEC_PROG_USE_FW (bits (0x10101 : Word).toNat 8 1)).wr R.SEC_PROG_USE_SEAL (bits (0x10101 : Word).toNat 9 1)) = ((((State.reset.wr R.SYS_DEV_DEV_STATE devTest).wr R.SEC_STATE_MSTATE 2).wr R.SEC_PROG_SLOT ((0x10101 : Word).toNat % 4)).wr R.SEC_PROG_USE_FW (bits (0x10101 : Word).toNat 8 1)).wr R.SEC_PROG_USE_SEAL (bits (0x10101 : Word).toNat 9 1)) ∧ (bit (0x10101 : Word).toNat 16 = true) ∧ ((((((State.reset.wr R.SYS_DEV_DEV_STATE devTest).wr R.SEC_STATE_MSTATE 2).wr R.SEC_PROG_SLOT ((0x10101 : Word).toNat % 4)).wr R.SEC_PROG_USE_FW (bits (0x10101 : Word).toNat 8 1)).wr R.SEC_PROG_USE_SEAL (bits (0x10101 : Word).toNat 9 1)).secErr = true) := by
  exact ⟨by decide, by decide, rfl, rfl, by decide, by decide⟩

theorem witness_security_events_5 :
    (((State.reset.wr R.SYS_DEV_DEV_STATE devTest).wr (R.SEC_SLOT_PROVISIONED 1) 1).HostReaches) ∧ (((State.reset.wr R.SYS_DEV_DEV_STATE devTest).wr (R.SEC_SLOT_PROVISIONED 1) 1).dev = devTest) ∧ (((0x10101 : Word).toNat % 4) = (0x10101 : Word).toNat % 4) ∧ ((((((State.reset.wr R.SYS_DEV_DEV_STATE devTest).wr (R.SEC_SLOT_PROVISIONED 1) 1).wr R.SEC_PROG_SLOT ((0x10101 : Word).toNat % 4)).wr R.SEC_PROG_USE_FW (bits (0x10101 : Word).toNat 8 1)).wr R.SEC_PROG_USE_SEAL (bits (0x10101 : Word).toNat 9 1)) = ((((State.reset.wr R.SYS_DEV_DEV_STATE devTest).wr (R.SEC_SLOT_PROVISIONED 1) 1).wr R.SEC_PROG_SLOT ((0x10101 : Word).toNat % 4)).wr R.SEC_PROG_USE_FW (bits (0x10101 : Word).toNat 8 1)).wr R.SEC_PROG_USE_SEAL (bits (0x10101 : Word).toNat 9 1)) ∧ (bit (0x10101 : Word).toNat 16 = true) ∧ ((((((State.reset.wr R.SYS_DEV_DEV_STATE devTest).wr (R.SEC_SLOT_PROVISIONED 1) 1).wr R.SEC_PROG_SLOT ((0x10101 : Word).toNat % 4)).wr R.SEC_PROG_USE_FW (bits (0x10101 : Word).toNat 8 1)).wr R.SEC_PROG_USE_SEAL (bits (0x10101 : Word).toNat 9 1)).secErr = false) ∧ ((((((State.reset.wr R.SYS_DEV_DEV_STATE devTest).wr (R.SEC_SLOT_PROVISIONED 1) 1).wr R.SEC_PROG_SLOT ((0x10101 : Word).toNat % 4)).wr R.SEC_PROG_USE_FW (bits (0x10101 : Word).toNat 8 1)).wr R.SEC_PROG_USE_SEAL (bits (0x10101 : Word).toNat 9 1)).slotUsed ((0x10101 : Word).toNat % 4) = true) := by
  exact ⟨by decide, by decide, rfl, rfl, by decide, by decide, by decide⟩

theorem witness_security_events_6 :
    ((State.reset.wr R.SYS_DEV_DEV_STATE devTest).HostReaches) ∧ ((State.reset.wr R.SYS_DEV_DEV_STATE devTest).dev = devTest) ∧ (((0x10101 : Word).toNat % 4) = (0x10101 : Word).toNat % 4) ∧ (((((State.reset.wr R.SYS_DEV_DEV_STATE devTest).wr R.SEC_PROG_SLOT ((0x10101 : Word).toNat % 4)).wr R.SEC_PROG_USE_FW (bits (0x10101 : Word).toNat 8 1)).wr R.SEC_PROG_USE_SEAL (bits (0x10101 : Word).toNat 9 1)) = (((State.reset.wr R.SYS_DEV_DEV_STATE devTest).wr R.SEC_PROG_SLOT ((0x10101 : Word).toNat % 4)).wr R.SEC_PROG_USE_FW (bits (0x10101 : Word).toNat 8 1)).wr R.SEC_PROG_USE_SEAL (bits (0x10101 : Word).toNat 9 1)) ∧ (bit (0x10101 : Word).toNat 16 = true) ∧ (((((State.reset.wr R.SYS_DEV_DEV_STATE devTest).wr R.SEC_PROG_SLOT ((0x10101 : Word).toNat % 4)).wr R.SEC_PROG_USE_FW (bits (0x10101 : Word).toNat 8 1)).wr R.SEC_PROG_USE_SEAL (bits (0x10101 : Word).toNat 9 1)).secErr = false) ∧ (((((State.reset.wr R.SYS_DEV_DEV_STATE devTest).wr R.SEC_PROG_SLOT ((0x10101 : Word).toNat % 4)).wr R.SEC_PROG_USE_FW (bits (0x10101 : Word).toNat 8 1)).wr R.SEC_PROG_USE_SEAL (bits (0x10101 : Word).toNat 9 1)).slotUsed ((0x10101 : Word).toNat % 4) = false) := by
  exact ⟨by decide, by decide, rfl, rfl, by decide, by decide, by decide⟩

theorem witness_security_events_7 :
    (((State.reset).dropKey (3 : Fin 4).val).sec.image = none) := by
  decide

theorem witness_security_events_8 :
    ((({ State.reset with sec := { State.reset.sec with image := some (3, [4#8]) } }).dropKey (3 : Fin 4).val).sec.image = some ((3), ([4#8] : List Byte))) := by
  decide

theorem witness_reset_and_boot_1 :
    ((State.reset).sysr.porLow = true) := by
  decide

theorem witness_reset_and_boot_2 :
    ((State.reset).sysr.perstLow = false) ∧ ((State.reset).sysr.porLow = true) := by
  decide

theorem witness_reset_and_boot_3 :
    ((State.wr { State.reset with sysr := { State.reset.sysr with porLow := false } } R.SYS_BOARD_PERST_SCOPE 1).sysr.perstLow = false) ∧ ((State.wr { State.reset with sysr := { State.reset.sysr with porLow := false } } R.SYS_BOARD_PERST_SCOPE 1).sysr.porLow = false) ∧ (({ (State.wr { State.reset with sysr := { State.reset.sysr with porLow := false } } R.SYS_BOARD_PERST_SCOPE 1) with sysr := { (State.wr { State.reset with sysr := { State.reset.sysr with porLow := false } } R.SYS_BOARD_PERST_SCOPE 1).sysr with perstLow := true, perstFull := false } }) = { (State.wr { State.reset with sysr := { State.reset.sysr with porLow := false } } R.SYS_BOARD_PERST_SCOPE 1) with sysr := { (State.wr { State.reset with sysr := { State.reset.sysr with porLow := false } } R.SYS_BOARD_PERST_SCOPE 1).sysr with perstLow := true, perstFull := false } }) ∧ ((State.wr { State.reset with sysr := { State.reset.sysr with porLow := false } } R.SYS_BOARD_PERST_SCOPE 1).flag R.SYS_BOARD_PERST_SCOPE = true) := by
  exact ⟨by decide, by decide, rfl, by decide⟩

theorem witness_reset_and_boot_4 :
    (({ State.reset with sysr := { State.reset.sysr with porLow := false } }).sysr.perstLow = false) ∧ (({ State.reset with sysr := { State.reset.sysr with porLow := false } }).sysr.porLow = false) ∧ (({ ({ State.reset with sysr := { State.reset.sysr with porLow := false } }) with sysr := { ({ State.reset with sysr := { State.reset.sysr with porLow := false } }).sysr with perstLow := true, perstFull := false } }) = { ({ State.reset with sysr := { State.reset.sysr with porLow := false } }) with sysr := { ({ State.reset with sysr := { State.reset.sysr with porLow := false } }).sysr with perstLow := true, perstFull := false } }) ∧ (({ State.reset with sysr := { State.reset.sysr with porLow := false } }).flag R.SYS_BOARD_PERST_SCOPE = false) := by
  exact ⟨by decide, by decide, rfl, by decide⟩

theorem witness_reset_and_boot_5 :
    (({ State.reset with sysr := { State.reset.sysr with perstLow := true } }).sysr.perstLow = true) ∧ (({ ({ State.reset with sysr := { State.reset.sysr with perstLow := true } }) with sysr := { ({ State.reset with sysr := { State.reset.sysr with perstLow := true } }).sysr with perstLow := false, perstFull := false, refLost := false } }) = { ({ State.reset with sysr := { State.reset.sysr with perstLow := true } }) with sysr := { ({ State.reset with sysr := { State.reset.sysr with perstLow := true } }).sysr with perstLow := false, perstFull := false, refLost := false } }) := by
  exact ⟨by decide, rfl⟩

theorem witness_reset_and_boot_6 :
    ((((State.reset).advance (16)).squelchAll) = ((State.reset).advance (16)).squelchAll) := by
  exact rfl

theorem witness_reset_and_boot_7 :
    ((State.reset.boot BootStage.filling).sysr.stage = BootStage.training ∨ (State.reset.boot BootStage.filling).sysr.stage = BootStage.filling ∨ (State.reset.boot BootStage.filling).sysr.stage = BootStage.filled ∨ ((State.reset.boot BootStage.filling).sysr.stage = BootStage.stuck ∧ (State.reset.boot BootStage.filling).sec.image.isSome = true)) ∧ (((State.reset.boot BootStage.filling).flag R.SEC_STATE_COPY) = (State.reset.boot BootStage.filling).flag R.SEC_STATE_COPY) := by
  exact ⟨by decide, rfl⟩

theorem witness_reset_and_boot_8 :
    ((State.reset.boot BootStage.filled).sysr.stage = BootStage.filled) ∧ ((State.reset.boot BootStage.filled).dev = devNotReady) ∧ ((((((((State.reset.boot BootStage.filled).advance (16)).boot BootStage.ready).wr R.SYS_DEV_READY_MS (min 65535 (((State.reset.boot BootStage.filled).advance (16)).now / 16000000))).wr R.SYS_DEV_DEV_STATE devRun)).flag R.SEC_STATE_COPY) = ((((((State.reset.boot BootStage.filled).advance (16)).boot BootStage.ready).wr R.SYS_DEV_READY_MS (min 65535 (((State.reset.boot BootStage.filled).advance (16)).now / 16000000))).wr R.SYS_DEV_DEV_STATE devRun)).flag R.SEC_STATE_COPY) ∧ (((((((State.reset.boot BootStage.filled).advance (16)).boot BootStage.ready).wr R.SYS_DEV_READY_MS (min 65535 (((State.reset.boot BootStage.filled).advance (16)).now / 16000000))).wr R.SYS_DEV_DEV_STATE devRun).setFails (((((((State.reset.boot BootStage.filled).advance (16)).boot BootStage.ready).wr R.SYS_DEV_READY_MS (min 65535 (((State.reset.boot BootStage.filled).advance (16)).now / 16000000))).wr R.SYS_DEV_DEV_STATE devRun)).flag R.SEC_STATE_COPY) 0) = (((((State.reset.boot BootStage.filled).advance (16)).boot BootStage.ready).wr R.SYS_DEV_READY_MS (min 65535 (((State.reset.boot BootStage.filled).advance (16)).now / 16000000))).wr R.SYS_DEV_DEV_STATE devRun).setFails (((((((State.reset.boot BootStage.filled).advance (16)).boot BootStage.ready).wr R.SYS_DEV_READY_MS (min 65535 (((State.reset.boot BootStage.filled).advance (16)).now / 16000000))).wr R.SYS_DEV_DEV_STATE devRun)).flag R.SEC_STATE_COPY) 0) ∧ (((if ((((((State.reset.boot BootStage.filled).advance (16)).boot BootStage.ready).wr R.SYS_DEV_READY_MS (min 65535 (((State.reset.boot BootStage.filled).advance (16)).now / 16000000))).wr R.SYS_DEV_DEV_STATE devRun).setFails (((((((State.reset.boot BootStage.filled).advance (16)).boot BootStage.ready).wr R.SYS_DEV_READY_MS (min 65535 (((State.reset.boot BootStage.filled).advance (16)).now / 16000000))).wr R.SYS_DEV_DEV_STATE devRun)).flag R.SEC_STATE_COPY) 0).rd R.SEC_STATE_ROLLBACK < ((((((State.reset.boot BootStage.filled).advance (16)).boot BootStage.ready).wr R.SYS_DEV_READY_MS (min 65535 (((State.reset.boot BootStage.filled).advance (16)).now / 16000000))).wr R.SYS_DEV_DEV_STATE devRun).setFails (((((((State.reset.boot BootStage.filled).advance (16)).boot BootStage.ready).wr R.SYS_DEV_READY_MS (min 65535 (((State.reset.boot BootStage.filled).advance (16)).now / 16000000))).wr R.SYS_DEV_DEV_STATE devRun)).flag R.SEC_STATE_COPY) 0).sysr.secver then (((((((State.reset.boot BootStage.filled).advance (16)).boot BootStage.ready).wr R.SYS_DEV_READY_MS (min 65535 (((State.reset.boot BootStage.filled).advance (16)).now / 16000000))).wr R.SYS_DEV_DEV_STATE devRun).setFails (((((((State.reset.boot BootStage.filled).advance (16)).boot BootStage.ready).wr R.SYS_DEV_READY_MS (min 65535 (((State.reset.boot BootStage.filled).advance (16)).now / 16000000))).wr R.SYS_DEV_DEV_STATE devRun)).flag R.SEC_STATE_COPY) 0).wr R.SEC_STATE_ROLLBACK ((((((State.reset.boot BootStage.filled).advance (16)).boot BootStage.ready).wr R.SYS_DEV_READY_MS (min 65535 (((State.reset.boot BootStage.filled).advance (16)).now / 16000000))).wr R.SYS_DEV_DEV_STATE devRun).setFails (((((((State.reset.boot BootStage.filled).advance (16)).boot BootStage.ready).wr R.SYS_DEV_READY_MS (min 65535 (((State.reset.boot BootStage.filled).advance (16)).now / 16000000))).wr R.SYS_DEV_DEV_STATE devRun)).flag R.SEC_STATE_COPY) 0).sysr.secver).audit 4 0 255 0 ((((((State.reset.boot BootStage.filled).advance (16)).boot BootStage.ready).wr R.SYS_DEV_READY_MS (min 65535 (((State.reset.boot BootStage.filled).advance (16)).now / 16000000))).wr R.SYS_DEV_DEV_STATE devRun).setFails (((((((State.reset.boot BootStage.filled).advance (16)).boot BootStage.ready).wr R.SYS_DEV_READY_MS (min 65535 (((State.reset.boot BootStage.filled).advance (16)).now / 16000000))).wr R.SYS_DEV_DEV_STATE devRun)).flag R.SEC_STATE_COPY) 0).sysr.secver (((((((State.reset.boot BootStage.filled).advance (16)).boot BootStage.ready).wr R.SYS_DEV_READY_MS (min 65535 (((State.reset.boot BootStage.filled).advance (16)).now / 16000000))).wr R.SYS_DEV_DEV_STATE devRun).setFails (((((((State.reset.boot BootStage.filled).advance (16)).boot BootStage.ready).wr R.SYS_DEV_READY_MS (min 65535 (((State.reset.boot BootStage.filled).advance (16)).now / 16000000))).wr R.SYS_DEV_DEV_STATE devRun)).flag R.SEC_STATE_COPY) 0).rd R.SEC_STATE_ROLLBACK) [] else ((((((State.reset.boot BootStage.filled).advance (16)).boot BootStage.ready).wr R.SYS_DEV_READY_MS (min 65535 (((State.reset.boot BootStage.filled).advance (16)).now / 16000000))).wr R.SYS_DEV_DEV_STATE devRun).setFails (((((((State.reset.boot BootStage.filled).advance (16)).boot BootStage.ready).wr R.SYS_DEV_READY_MS (min 65535 (((State.reset.boot BootStage.filled).advance (16)).now / 16000000))).wr R.SYS_DEV_DEV_STATE devRun)).flag R.SEC_STATE_COPY) 0))) = (if ((((((State.reset.boot BootStage.filled).advance (16)).boot BootStage.ready).wr R.SYS_DEV_READY_MS (min 65535 (((State.reset.boot BootStage.filled).advance (16)).now / 16000000))).wr R.SYS_DEV_DEV_STATE devRun).setFails (((((((State.reset.boot BootStage.filled).advance (16)).boot BootStage.ready).wr R.SYS_DEV_READY_MS (min 65535 (((State.reset.boot BootStage.filled).advance (16)).now / 16000000))).wr R.SYS_DEV_DEV_STATE devRun)).flag R.SEC_STATE_COPY) 0).rd R.SEC_STATE_ROLLBACK < ((((((State.reset.boot BootStage.filled).advance (16)).boot BootStage.ready).wr R.SYS_DEV_READY_MS (min 65535 (((State.reset.boot BootStage.filled).advance (16)).now / 16000000))).wr R.SYS_DEV_DEV_STATE devRun).setFails (((((((State.reset.boot BootStage.filled).advance (16)).boot BootStage.ready).wr R.SYS_DEV_READY_MS (min 65535 (((State.reset.boot BootStage.filled).advance (16)).now / 16000000))).wr R.SYS_DEV_DEV_STATE devRun)).flag R.SEC_STATE_COPY) 0).sysr.secver then (((((((State.reset.boot BootStage.filled).advance (16)).boot BootStage.ready).wr R.SYS_DEV_READY_MS (min 65535 (((State.reset.boot BootStage.filled).advance (16)).now / 16000000))).wr R.SYS_DEV_DEV_STATE devRun).setFails (((((((State.reset.boot BootStage.filled).advance (16)).boot BootStage.ready).wr R.SYS_DEV_READY_MS (min 65535 (((State.reset.boot BootStage.filled).advance (16)).now / 16000000))).wr R.SYS_DEV_DEV_STATE devRun)).flag R.SEC_STATE_COPY) 0).wr R.SEC_STATE_ROLLBACK ((((((State.reset.boot BootStage.filled).advance (16)).boot BootStage.ready).wr R.SYS_DEV_READY_MS (min 65535 (((State.reset.boot BootStage.filled).advance (16)).now / 16000000))).wr R.SYS_DEV_DEV_STATE devRun).setFails (((((((State.reset.boot BootStage.filled).advance (16)).boot BootStage.ready).wr R.SYS_DEV_READY_MS (min 65535 (((State.reset.boot BootStage.filled).advance (16)).now / 16000000))).wr R.SYS_DEV_DEV_STATE devRun)).flag R.SEC_STATE_COPY) 0).sysr.secver).audit 4 0 255 0 ((((((State.reset.boot BootStage.filled).advance (16)).boot BootStage.ready).wr R.SYS_DEV_READY_MS (min 65535 (((State.reset.boot BootStage.filled).advance (16)).now / 16000000))).wr R.SYS_DEV_DEV_STATE devRun).setFails (((((((State.reset.boot BootStage.filled).advance (16)).boot BootStage.ready).wr R.SYS_DEV_READY_MS (min 65535 (((State.reset.boot BootStage.filled).advance (16)).now / 16000000))).wr R.SYS_DEV_DEV_STATE devRun)).flag R.SEC_STATE_COPY) 0).sysr.secver (((((((State.reset.boot BootStage.filled).advance (16)).boot BootStage.ready).wr R.SYS_DEV_READY_MS (min 65535 (((State.reset.boot BootStage.filled).advance (16)).now / 16000000))).wr R.SYS_DEV_DEV_STATE devRun).setFails (((((((State.reset.boot BootStage.filled).advance (16)).boot BootStage.ready).wr R.SYS_DEV_READY_MS (min 65535 (((State.reset.boot BootStage.filled).advance (16)).now / 16000000))).wr R.SYS_DEV_DEV_STATE devRun)).flag R.SEC_STATE_COPY) 0).rd R.SEC_STATE_ROLLBACK) [] else ((((((State.reset.boot BootStage.filled).advance (16)).boot BootStage.ready).wr R.SYS_DEV_READY_MS (min 65535 (((State.reset.boot BootStage.filled).advance (16)).now / 16000000))).wr R.SYS_DEV_DEV_STATE devRun).setFails (((((((State.reset.boot BootStage.filled).advance (16)).boot BootStage.ready).wr R.SYS_DEV_READY_MS (min 65535 (((State.reset.boot BootStage.filled).advance (16)).now / 16000000))).wr R.SYS_DEV_DEV_STATE devRun)).flag R.SEC_STATE_COPY) 0))) := by
  exact ⟨by decide, by decide, rfl, rfl, rfl⟩

theorem witness_sleep_and_wake_1 :
    ((State.wr { State.reset with sysr := { State.reset.sysr with entering := true } } R.SYS_DEV_DEV_STATE devSleep).dev = devSleep) ∧ ((State.wr { State.reset with sysr := { State.reset.sysr with entering := true } } R.SYS_DEV_DEV_STATE devSleep).sysr.entering = true) ∧ (((((List.range 32).foldl (fun (q : State) l => q.flushTally l) ((State.wr { State.reset with sysr := { State.reset.sysr with entering := true } } R.SYS_DEV_DEV_STATE devSleep).advance (16))).squelchAll)) = (((List.range 32).foldl (fun (q : State) l => q.flushTally l) ((State.wr { State.reset with sysr := { State.reset.sysr with entering := true } } R.SYS_DEV_DEV_STATE devSleep).advance (16))).squelchAll)) ∧ ((((((List.range 32).foldl (fun (q : State) l => q.flushTally l) ((State.wr { State.reset with sysr := { State.reset.sysr with entering := true } } R.SYS_DEV_DEV_STATE devSleep).advance (16))).squelchAll)).channels.foldl (fun (q : State) c => q.wr (R.MEM_CH_STATUS_SELF_REFRESH c) 1) ((((List.range 32).foldl (fun (q : State) l => q.flushTally l) ((State.wr { State.reset with sysr := { State.reset.sysr with entering := true } } R.SYS_DEV_DEV_STATE devSleep).advance (16))).squelchAll))) = ((((List.range 32).foldl (fun (q : State) l => q.flushTally l) ((State.wr { State.reset with sysr := { State.reset.sysr with entering := true } } R.SYS_DEV_DEV_STATE devSleep).advance (16))).squelchAll)).channels.foldl (fun (q : State) c => q.wr (R.MEM_CH_STATUS_SELF_REFRESH c) 1) ((((List.range 32).foldl (fun (q : State) l => q.flushTally l) ((State.wr { State.reset with sysr := { State.reset.sysr with entering := true } } R.SYS_DEV_DEV_STATE devSleep).advance (16))).squelchAll))) := by
  exact ⟨by decide, by decide, rfl, rfl⟩

theorem witness_sleep_and_wake_2 :
    ((State.reset).HostReaches) := by
  decide

theorem witness_sleep_and_wake_3 :
    ((State.wr State.reset R.SYS_DEV_DEV_STATE devSleep).linkDown = false) ∧ ((State.wr State.reset R.SYS_DEV_DEV_STATE devSleep).dev = devSleep) := by
  decide

theorem witness_sleep_and_wake_4 :
    ((State.wr { State.reset with sysr := { State.reset.sysr with waking := true } } R.SYS_DEV_DEV_STATE devSleep).dev = devSleep) ∧ ((State.wr { State.reset with sysr := { State.reset.sysr with waking := true } } R.SYS_DEV_DEV_STATE devSleep).sysr.waking = true) ∧ ((((State.wr { State.reset with sysr := { State.reset.sysr with waking := true } } R.SYS_DEV_DEV_STATE devSleep).advance (16)).wakeUp) = ((State.wr { State.reset with sysr := { State.reset.sysr with waking := true } } R.SYS_DEV_DEV_STATE devSleep).advance (16)).wakeUp) := by
  exact ⟨by decide, by decide, rfl⟩

theorem witness_lines_and_fire_1 :
    ((wPace).clocked = true) ∧ (((wPace).advance (0)) = (wPace).advance (0)) ∧ ((1) = ((wPace).advance (0)).groupOwner (0 : Fin 32).val) ∧ ((1) ≠ 0) ∧ ((((wPace).advance (0)).ctx (1)).live = true) ∧ (((wPace).advance (0)).flag (R.SYN_STATE_ACTIVE (0 : Fin 32).val) = true) ∧ (((wPace).advance (0)).flag (R.ENC_STATUS_FAULT (((wPace).advance (0)).rd (R.SYN_STATE_CHANNEL (0 : Fin 32).val))) = false) ∧ (((wPace).advance (0)).mode .fire ≠ .faulted) ∧ (((wPace).advance (0)).flag (R.ENC_STATUS_SUSPENDED (((wPace).advance (0)).rd (R.SYN_STATE_CHANNEL (0 : Fin 32).val))) = false) ∧ ((((wPace).advance (0)).ctx (1)).stopAt.any (fun m => decide (m ≤ ((wPace).advance (0)).rd (R.SYN_NEXT_LINE (0 : Fin 32).val))) = false) ∧ ((20000) = ((wPace).advance (0)).now + ((wPace).advance (0)).commitLead (0 : Fin 32).val) ∧ (((wPace).advance (0)).accepts .fire = true ∨ (((wPace).advance (0)).ctx (1)).drainAt.any (fun m => decide (m ≤ ((wPace).advance (0)).rd (R.SYN_NEXT_LINE (0 : Fin 32).val))) = false) ∧ (((wPace).advance (0)).crossing (((wPace).advance (0)).rd (R.SYN_STATE_CHANNEL (0 : Fin 32).val)) (((wPace).advance (0)).syn (0 : Fin 32).val).acc = some (20000 : Int)) ∧ ((20000 : Int) + ((wPace).advance (0)).rdS (R.SYN_TOFS_TOFS (0 : Fin 32).val) = (20000)) := by
  exact ⟨by decide, rfl, by decide, by decide, by decide, by decide, by decide, by decide, by decide, by decide, by decide, by decide, by decide, by decide⟩

theorem witness_lines_and_fire_2 :
    ((wPace.setSyn 0 { acc := 2000 * 2 ^ 32 }).clocked = true) ∧ (((wPace.setSyn 0 { acc := 2000 * 2 ^ 32 }).advance (0)) = (wPace.setSyn 0 { acc := 2000 * 2 ^ 32 }).advance (0)) ∧ ((1) = ((wPace.setSyn 0 { acc := 2000 * 2 ^ 32 }).advance (0)).groupOwner (0 : Fin 32).val) ∧ ((1) ≠ 0) ∧ ((((wPace.setSyn 0 { acc := 2000 * 2 ^ 32 }).advance (0)).ctx (1)).live = true) ∧ (((wPace.setSyn 0 { acc := 2000 * 2 ^ 32 }).advance (0)).flag (R.SYN_STATE_ACTIVE (0 : Fin 32).val) = true) ∧ (((wPace.setSyn 0 { acc := 2000 * 2 ^ 32 }).advance (0)).flag (R.ENC_STATUS_FAULT (((wPace.setSyn 0 { acc := 2000 * 2 ^ 32 }).advance (0)).rd (R.SYN_STATE_CHANNEL (0 : Fin 32).val))) = false) ∧ (((wPace.setSyn 0 { acc := 2000 * 2 ^ 32 }).advance (0)).mode .fire ≠ .faulted) ∧ (((wPace.setSyn 0 { acc := 2000 * 2 ^ 32 }).advance (0)).flag (R.ENC_STATUS_SUSPENDED (((wPace.setSyn 0 { acc := 2000 * 2 ^ 32 }).advance (0)).rd (R.SYN_STATE_CHANNEL (0 : Fin 32).val))) = false) ∧ ((((wPace.setSyn 0 { acc := 2000 * 2 ^ 32 }).advance (0)).ctx (1)).stopAt.any (fun m => decide (m ≤ ((wPace.setSyn 0 { acc := 2000 * 2 ^ 32 }).advance (0)).rd (R.SYN_NEXT_LINE (0 : Fin 32).val))) = false) ∧ ((20000) = ((wPace.setSyn 0 { acc := 2000 * 2 ^ 32 }).advance (0)).now + ((wPace.setSyn 0 { acc := 2000 * 2 ^ 32 }).advance (0)).commitLead (0 : Fin 32).val) ∧ (((wPace.setSyn 0 { acc := 2000 * 2 ^ 32 }).advance (0)).accepts .fire = true ∨ (((wPace.setSyn 0 { acc := 2000 * 2 ^ 32 }).advance (0)).ctx (1)).drainAt.any (fun m => decide (m ≤ ((wPace.setSyn 0 { acc := 2000 * 2 ^ 32 }).advance (0)).rd (R.SYN_NEXT_LINE (0 : Fin 32).val))) = false) ∧ (((wPace.setSyn 0 { acc := 2000 * 2 ^ 32 }).advance (0)).crossing (((wPace.setSyn 0 { acc := 2000 * 2 ^ 32 }).advance (0)).rd (R.SYN_STATE_CHANNEL (0 : Fin 32).val)) (((wPace.setSyn 0 { acc := 2000 * 2 ^ 32 }).advance (0)).syn (0 : Fin 32).val).acc = some (40000 : Int)) ∧ (((20000) : Int) < (40000 : Int) + ((wPace.setSyn 0 { acc := 2000 * 2 ^ 32 }).advance (0)).rdS (R.SYN_TOFS_TOFS (0 : Fin 32).val)) := by
  exact ⟨by decide, rfl, by decide, by decide, by decide, by decide, by decide, by decide, by decide, by decide, by decide, by decide, by decide, by decide⟩

theorem witness_lines_and_fire_3 :
    ((wPace.setSyn 0 { acc := 100 * 2 ^ 32 }).clocked = true) ∧ (((wPace.setSyn 0 { acc := 100 * 2 ^ 32 }).advance (0)) = (wPace.setSyn 0 { acc := 100 * 2 ^ 32 }).advance (0)) ∧ ((1) = ((wPace.setSyn 0 { acc := 100 * 2 ^ 32 }).advance (0)).groupOwner (0 : Fin 32).val) ∧ ((1) ≠ 0) ∧ ((((wPace.setSyn 0 { acc := 100 * 2 ^ 32 }).advance (0)).ctx (1)).live = true) ∧ (((wPace.setSyn 0 { acc := 100 * 2 ^ 32 }).advance (0)).flag (R.SYN_STATE_ACTIVE (0 : Fin 32).val) = true) ∧ (((wPace.setSyn 0 { acc := 100 * 2 ^ 32 }).advance (0)).flag (R.ENC_STATUS_FAULT (((wPace.setSyn 0 { acc := 100 * 2 ^ 32 }).advance (0)).rd (R.SYN_STATE_CHANNEL (0 : Fin 32).val))) = false) ∧ (((wPace.setSyn 0 { acc := 100 * 2 ^ 32 }).advance (0)).mode .fire ≠ .faulted) ∧ (((wPace.setSyn 0 { acc := 100 * 2 ^ 32 }).advance (0)).flag (R.ENC_STATUS_SUSPENDED (((wPace.setSyn 0 { acc := 100 * 2 ^ 32 }).advance (0)).rd (R.SYN_STATE_CHANNEL (0 : Fin 32).val))) = false) ∧ ((((wPace.setSyn 0 { acc := 100 * 2 ^ 32 }).advance (0)).ctx (1)).stopAt.any (fun m => decide (m ≤ ((wPace.setSyn 0 { acc := 100 * 2 ^ 32 }).advance (0)).rd (R.SYN_NEXT_LINE (0 : Fin 32).val))) = false) ∧ ((20000) = ((wPace.setSyn 0 { acc := 100 * 2 ^ 32 }).advance (0)).now + ((wPace.setSyn 0 { acc := 100 * 2 ^ 32 }).advance (0)).commitLead (0 : Fin 32).val) ∧ (((wPace.setSyn 0 { acc := 100 * 2 ^ 32 }).advance (0)).accepts .fire = true ∨ (((wPace.setSyn 0 { acc := 100 * 2 ^ 32 }).advance (0)).ctx (1)).drainAt.any (fun m => decide (m ≤ ((wPace.setSyn 0 { acc := 100 * 2 ^ 32 }).advance (0)).rd (R.SYN_NEXT_LINE (0 : Fin 32).val))) = false) ∧ (((wPace.setSyn 0 { acc := 100 * 2 ^ 32 }).advance (0)).crossing (((wPace.setSyn 0 { acc := 100 * 2 ^ 32 }).advance (0)).rd (R.SYN_STATE_CHANNEL (0 : Fin 32).val)) (((wPace.setSyn 0 { acc := 100 * 2 ^ 32 }).advance (0)).syn (0 : Fin 32).val).acc = some (2000 : Int)) ∧ ((2000 : Int) + ((wPace.setSyn 0 { acc := 100 * 2 ^ 32 }).advance (0)).rdS (R.SYN_TOFS_TOFS (0 : Fin 32).val) < (20000)) := by
  exact ⟨by decide, rfl, by decide, by decide, by decide, by decide, by decide, by decide, by decide, by decide, by decide, by decide, by decide, by decide⟩

theorem witness_lines_and_fire_4 :
    ((wDueLine).clocked = true) ∧ ((1) ≠ 0) ∧ (((wDueLine).ctx (1)).live = true) ∧ (((wDueLine).ctx (1)).wbOnly = false) ∧ ((0) = ((wDueLine).ctx (1)).firedLines) ∧ ((wDueLine).fireTimes (1) (0) = some ([16] : List Nat)) := by
  decide

theorem witness_lines_and_fire_5 :
    ((wCarry).clocked = true) ∧ (((wCarry).head (3 : Fin 32).val).waits (0 : Fin 32).val = true) := by
  decide

theorem witness_lines_and_fire_6 :
    (((wCarry).head (3 : Fin 32).val).waits (1 : Fin 32).val = false) := by
  decide

theorem witness_lines_and_fire_7 :
    ((wCarry).txAt (3) ≤ 100 * (wCarry).now) := by
  decide

theorem witness_lines_and_fire_8 :
    ((wCarry.setHead 3 { (wCarry.head 3) with slot := wCarry.planAt 3 ⟨0, 1, 0, 5, 100000⟩ / wCarry.slotU 3 + 1 }).nextPlan (3) = some (⟨0, 1, 0, 5, 100000⟩ : FirePlan)) ∧ ((wCarry.setHead 3 { (wCarry.head 3) with slot := wCarry.planAt 3 ⟨0, 1, 0, 5, 100000⟩ / wCarry.slotU 3 + 1 }).planAt (3) (⟨0, 1, 0, 5, 100000⟩ : FirePlan) ≤ (wCarry.setHead 3 { (wCarry.head 3) with slot := wCarry.planAt 3 ⟨0, 1, 0, 5, 100000⟩ / wCarry.slotU 3 + 1 }).txAt (3)) ∧ (((wCarry.setHead 3 { (wCarry.head 3) with slot := wCarry.planAt 3 ⟨0, 1, 0, 5, 100000⟩ / wCarry.slotU 3 + 1 }).rd (R.HL_LAT_LAT (3))) = (wCarry.setHead 3 { (wCarry.head 3) with slot := wCarry.planAt 3 ⟨0, 1, 0, 5, 100000⟩ / wCarry.slotU 3 + 1 }).rd (R.HL_LAT_LAT (3))) ∧ (((wCarry.setHead 3 { (wCarry.head 3) with slot := wCarry.planAt 3 ⟨0, 1, 0, 5, 100000⟩ / wCarry.slotU 3 + 1 }).dropPlan (3) (⟨0, 1, 0, 5, 100000⟩ : FirePlan)) = (wCarry.setHead 3 { (wCarry.head 3) with slot := wCarry.planAt 3 ⟨0, 1, 0, 5, 100000⟩ / wCarry.slotU 3 + 1 }).dropPlan (3) (⟨0, 1, 0, 5, 100000⟩ : FirePlan)) ∧ (((wCarry.setHead 3 { (wCarry.head 3) with slot := wCarry.planAt 3 ⟨0, 1, 0, 5, 100000⟩ / wCarry.slotU 3 + 1 }).dropPlan (3) (⟨0, 1, 0, 5, 100000⟩ : FirePlan)).ownsLane (3) = true) ∧ (((wCarry.setHead 3 { (wCarry.head 3) with slot := wCarry.planAt 3 ⟨0, 1, 0, 5, 100000⟩ / wCarry.slotU 3 + 1 }).dropPlan (3) (⟨0, 1, 0, 5, 100000⟩ : FirePlan)).carries (3) = true) ∧ ((((wCarry.setHead 3 { (wCarry.head 3) with slot := wCarry.planAt 3 ⟨0, 1, 0, 5, 100000⟩ / wCarry.slotU 3 + 1 }).dropPlan (3) (⟨0, 1, 0, 5, 100000⟩ : FirePlan)).setHead (3) { (((wCarry.setHead 3 { (wCarry.head 3) with slot := wCarry.planAt 3 ⟨0, 1, 0, 5, 100000⟩ / wCarry.slotU 3 + 1 }).dropPlan (3) (⟨0, 1, 0, 5, 100000⟩ : FirePlan)).head (3)) with fireNext := max (((wCarry.setHead 3 { (wCarry.head 3) with slot := wCarry.planAt 3 ⟨0, 1, 0, 5, 100000⟩ / wCarry.slotU 3 + 1 }).dropPlan (3) (⟨0, 1, 0, 5, 100000⟩ : FirePlan)).head (3)).fireNext ((⟨0, 1, 0, 5, 100000⟩ : FirePlan).global + 1) }) = ((wCarry.setHead 3 { (wCarry.head 3) with slot := wCarry.planAt 3 ⟨0, 1, 0, 5, 100000⟩ / wCarry.slotU 3 + 1 }).dropPlan (3) (⟨0, 1, 0, 5, 100000⟩ : FirePlan)).setHead (3) { (((wCarry.setHead 3 { (wCarry.head 3) with slot := wCarry.planAt 3 ⟨0, 1, 0, 5, 100000⟩ / wCarry.slotU 3 + 1 }).dropPlan (3) (⟨0, 1, 0, 5, 100000⟩ : FirePlan)).head (3)) with fireNext := max (((wCarry.setHead 3 { (wCarry.head 3) with slot := wCarry.planAt 3 ⟨0, 1, 0, 5, 100000⟩ / wCarry.slotU 3 + 1 }).dropPlan (3) (⟨0, 1, 0, 5, 100000⟩ : FirePlan)).head (3)).fireNext ((⟨0, 1, 0, 5, 100000⟩ : FirePlan).global + 1) }) ∧ (¬ 100 * (⟨0, 1, 0, 5, 100000⟩ : FirePlan).t < (wCarry.setHead 3 { (wCarry.head 3) with slot := wCarry.planAt 3 ⟨0, 1, 0, 5, 100000⟩ / wCarry.slotU 3 + 1 }).txAt (3) + 100 * ((wCarry.setHead 3 { (wCarry.head 3) with slot := wCarry.planAt 3 ⟨0, 1, 0, 5, 100000⟩ / wCarry.slotU 3 + 1 }).rd (R.HL_LAT_LAT (3)))) := by
  exact ⟨by decide, by decide, rfl, rfl, by decide, by decide, rfl, by decide⟩

theorem witness_lines_and_fire_9 :
    ((wCarry.setHead 3 { (wCarry.head 3) with slot := 10 ^ 6 }).nextPlan (3) = some (⟨0, 1, 0, 5, 100000⟩ : FirePlan)) ∧ ((wCarry.setHead 3 { (wCarry.head 3) with slot := 10 ^ 6 }).planAt (3) (⟨0, 1, 0, 5, 100000⟩ : FirePlan) ≤ (wCarry.setHead 3 { (wCarry.head 3) with slot := 10 ^ 6 }).txAt (3)) ∧ (((wCarry.setHead 3 { (wCarry.head 3) with slot := 10 ^ 6 }).rd (R.HL_LAT_LAT (3))) = (wCarry.setHead 3 { (wCarry.head 3) with slot := 10 ^ 6 }).rd (R.HL_LAT_LAT (3))) ∧ (((wCarry.setHead 3 { (wCarry.head 3) with slot := 10 ^ 6 }).dropPlan (3) (⟨0, 1, 0, 5, 100000⟩ : FirePlan)) = (wCarry.setHead 3 { (wCarry.head 3) with slot := 10 ^ 6 }).dropPlan (3) (⟨0, 1, 0, 5, 100000⟩ : FirePlan)) ∧ (((wCarry.setHead 3 { (wCarry.head 3) with slot := 10 ^ 6 }).dropPlan (3) (⟨0, 1, 0, 5, 100000⟩ : FirePlan)).ownsLane (3) = true) ∧ (((wCarry.setHead 3 { (wCarry.head 3) with slot := 10 ^ 6 }).dropPlan (3) (⟨0, 1, 0, 5, 100000⟩ : FirePlan)).carries (3) = true) ∧ ((((wCarry.setHead 3 { (wCarry.head 3) with slot := 10 ^ 6 }).dropPlan (3) (⟨0, 1, 0, 5, 100000⟩ : FirePlan)).setHead (3) { (((wCarry.setHead 3 { (wCarry.head 3) with slot := 10 ^ 6 }).dropPlan (3) (⟨0, 1, 0, 5, 100000⟩ : FirePlan)).head (3)) with fireNext := max (((wCarry.setHead 3 { (wCarry.head 3) with slot := 10 ^ 6 }).dropPlan (3) (⟨0, 1, 0, 5, 100000⟩ : FirePlan)).head (3)).fireNext ((⟨0, 1, 0, 5, 100000⟩ : FirePlan).global + 1) }) = ((wCarry.setHead 3 { (wCarry.head 3) with slot := 10 ^ 6 }).dropPlan (3) (⟨0, 1, 0, 5, 100000⟩ : FirePlan)).setHead (3) { (((wCarry.setHead 3 { (wCarry.head 3) with slot := 10 ^ 6 }).dropPlan (3) (⟨0, 1, 0, 5, 100000⟩ : FirePlan)).head (3)) with fireNext := max (((wCarry.setHead 3 { (wCarry.head 3) with slot := 10 ^ 6 }).dropPlan (3) (⟨0, 1, 0, 5, 100000⟩ : FirePlan)).head (3)).fireNext ((⟨0, 1, 0, 5, 100000⟩ : FirePlan).global + 1) }) ∧ (100 * (⟨0, 1, 0, 5, 100000⟩ : FirePlan).t < (wCarry.setHead 3 { (wCarry.head 3) with slot := 10 ^ 6 }).txAt (3) + 100 * ((wCarry.setHead 3 { (wCarry.head 3) with slot := 10 ^ 6 }).rd (R.HL_LAT_LAT (3)))) := by
  exact ⟨by decide, by decide, rfl, rfl, by decide, by decide, rfl, by decide⟩

theorem witness_hub_events_1 :
    ((wCarry).clocked = true) ∧ ((0x55 + 5 * 256 + 2 ^ 48) % 256 = 0x55) ∧ ((((wCarry).advance (16)).txRun (3 : Fin 32).val) = ((wCarry).advance (16)).txRun (3 : Fin 32).val) ∧ (bits (0x55 + 5 * 256 + 2 ^ 48) 48 16 = (((wCarry).advance (16)).txRun (3 : Fin 32).val).epoch (3 : Fin 32).val) ∧ ((((wCarry).advance (16)).txRun (3 : Fin 32).val).drives (3 : Fin 32).val = true) ∧ (bit (0x55 + 5 * 256 + 2 ^ 48) 44 = false) ∧ (((((wCarry).advance (16)).txRun (3 : Fin 32).val).head (3 : Fin 32).val).sentLine (bits (0x55 + 5 * 256 + 2 ^ 48) 8 16) = some (⟨1, 0, 5, [1, 2, 3], true, false, []⟩ : LoftLine)) := by
  exact ⟨by decide, by decide, rfl, by decide, by decide, by decide, by decide⟩

theorem witness_hub_events_2 :
    ((wCarry).clocked = true) ∧ ((0x55 + 2 ^ 44 + 2 ^ 48) % 256 = 0x55) ∧ ((((wCarry).advance (16)).txRun (3 : Fin 32).val) = ((wCarry).advance (16)).txRun (3 : Fin 32).val) ∧ (bits (0x55 + 2 ^ 44 + 2 ^ 48) 48 16 = (((wCarry).advance (16)).txRun (3 : Fin 32).val).epoch (3 : Fin 32).val) ∧ ((((wCarry).advance (16)).txRun (3 : Fin 32).val).drives (3 : Fin 32).val = true) ∧ (bit (0x55 + 2 ^ 44 + 2 ^ 48) 44 = true) := by
  exact ⟨by decide, by decide, rfl, by decide, by decide, by decide⟩

theorem witness_hub_events_3 :
    ((wCarry).clocked = true) ∧ ((0x1066 + 0x40000 + 2 ^ 48) % 256 = 0x66) ∧ (bit (0x1066 + 0x40000 + 2 ^ 48) 8 = false) ∧ (bit (0x1066 + 0x40000 + 2 ^ 48) 9 = false) ∧ (bit (0x1066 + 0x40000 + 2 ^ 48) 12 = true) ∧ (bits (0x1066 + 0x40000 + 2 ^ 48) 32 8 = 0) ∧ ((((((((((wCarry).advance (16)).wr (R.HL_STATE_HUB_HOLD (3 : Fin 32).val) (bits (0x1066 + 0x40000 + 2 ^ 48) 8 1)).wr (R.HL_STATE_HUB_BLANK (3 : Fin 32).val) (bits (0x1066 + 0x40000 + 2 ^ 48) 9 1)).wr (R.HL_STATE_HUB_PORT (3 : Fin 32).val) (bits (0x1066 + 0x40000 + 2 ^ 48) 10 1)).wr (R.HL_STATE_FOLLOWED (3 : Fin 32).val) (bits (0x1066 + 0x40000 + 2 ^ 48) 11 1)).wr (R.HL_STATE_HUB_RX_LOCK (3 : Fin 32).val) (bits (0x1066 + 0x40000 + 2 ^ 48) 12 1)).wr (R.HL_STATE_HUB_HI_BER (3 : Fin 32).val) (bits (0x1066 + 0x40000 + 2 ^ 48) 13 1)).wr (R.HL_EPOCH_HUB_EPOCH (3 : Fin 32).val) (bits (0x1066 + 0x40000 + 2 ^ 48) 48 16)) = ((((((((wCarry).advance (16)).wr (R.HL_STATE_HUB_HOLD (3 : Fin 32).val) (bits (0x1066 + 0x40000 + 2 ^ 48) 8 1)).wr (R.HL_STATE_HUB_BLANK (3 : Fin 32).val) (bits (0x1066 + 0x40000 + 2 ^ 48) 9 1)).wr (R.HL_STATE_HUB_PORT (3 : Fin 32).val) (bits (0x1066 + 0x40000 + 2 ^ 48) 10 1)).wr (R.HL_STATE_FOLLOWED (3 : Fin 32).val) (bits (0x1066 + 0x40000 + 2 ^ 48) 11 1)).wr (R.HL_STATE_HUB_RX_LOCK (3 : Fin 32).val) (bits (0x1066 + 0x40000 + 2 ^ 48) 12 1)).wr (R.HL_STATE_HUB_HI_BER (3 : Fin 32).val) (bits (0x1066 + 0x40000 + 2 ^ 48) 13 1)).wr (R.HL_EPOCH_HUB_EPOCH (3 : Fin 32).val) (bits (0x1066 + 0x40000 + 2 ^ 48) 48 16)) ∧ (((((((((((wCarry).advance (16)).wr (R.HL_STATE_HUB_HOLD (3 : Fin 32).val) (bits (0x1066 + 0x40000 + 2 ^ 48) 8 1)).wr (R.HL_STATE_HUB_BLANK (3 : Fin 32).val) (bits (0x1066 + 0x40000 + 2 ^ 48) 9 1)).wr (R.HL_STATE_HUB_PORT (3 : Fin 32).val) (bits (0x1066 + 0x40000 + 2 ^ 48) 10 1)).wr (R.HL_STATE_FOLLOWED (3 : Fin 32).val) (bits (0x1066 + 0x40000 + 2 ^ 48) 11 1)).wr (R.HL_STATE_HUB_RX_LOCK (3 : Fin 32).val) (bits (0x1066 + 0x40000 + 2 ^ 48) 12 1)).wr (R.HL_STATE_HUB_HI_BER (3 : Fin 32).val) (bits (0x1066 + 0x40000 + 2 ^ 48) 13 1)).wr (R.HL_EPOCH_HUB_EPOCH (3 : Fin 32).val) (bits (0x1066 + 0x40000 + 2 ^ 48) 48 16)).setHead (3 : Fin 32).val { ((((((((((wCarry).advance (16)).wr (R.HL_STATE_HUB_HOLD (3 : Fin 32).val) (bits (0x1066 + 0x40000 + 2 ^ 48) 8 1)).wr (R.HL_STATE_HUB_BLANK (3 : Fin 32).val) (bits (0x1066 + 0x40000 + 2 ^ 48) 9 1)).wr (R.HL_STATE_HUB_PORT (3 : Fin 32).val) (bits (0x1066 + 0x40000 + 2 ^ 48) 10 1)).wr (R.HL_STATE_FOLLOWED (3 : Fin 32).val) (bits (0x1066 + 0x40000 + 2 ^ 48) 11 1)).wr (R.HL_STATE_HUB_RX_LOCK (3 : Fin 32).val) (bits (0x1066 + 0x40000 + 2 ^ 48) 12 1)).wr (R.HL_STATE_HUB_HI_BER (3 : Fin 32).val) (bits (0x1066 + 0x40000 + 2 ^ 48) 13 1)).wr (R.HL_EPOCH_HUB_EPOCH (3 : Fin 32).val) (bits (0x1066 + 0x40000 + 2 ^ 48) 48 16)).head (3 : Fin 32).val) with lastStatus := (0x1066 + 0x40000 + 2 ^ 48), statusTime := (16), statusNs := (((((((((wCarry).advance (16)).wr (R.HL_STATE_HUB_HOLD (3 : Fin 32).val) (bits (0x1066 + 0x40000 + 2 ^ 48) 8 1)).wr (R.HL_STATE_HUB_BLANK (3 : Fin 32).val) (bits (0x1066 + 0x40000 + 2 ^ 48) 9 1)).wr (R.HL_STATE_HUB_PORT (3 : Fin 32).val) (bits (0x1066 + 0x40000 + 2 ^ 48) 10 1)).wr (R.HL_STATE_FOLLOWED (3 : Fin 32).val) (bits (0x1066 + 0x40000 + 2 ^ 48) 11 1)).wr (R.HL_STATE_HUB_RX_LOCK (3 : Fin 32).val) (bits (0x1066 + 0x40000 + 2 ^ 48) 12 1)).wr (R.HL_STATE_HUB_HI_BER (3 : Fin 32).val) (bits (0x1066 + 0x40000 + 2 ^ 48) 13 1)).wr (R.HL_EPOCH_HUB_EPOCH (3 : Fin 32).val) (bits (0x1066 + 0x40000 + 2 ^ 48) 48 16)).baseNs 0 (16), statusLast := some (near16 (wCarry).globalLine (bits (0x1066 + 0x40000 + 2 ^ 48) 16 16)) }) = (((((((((wCarry).advance (16)).wr (R.HL_STATE_HUB_HOLD (3 : Fin 32).val) (bits (0x1066 + 0x40000 + 2 ^ 48) 8 1)).wr (R.HL_STATE_HUB_BLANK (3 : Fin 32).val) (bits (0x1066 + 0x40000 + 2 ^ 48) 9 1)).wr (R.HL_STATE_HUB_PORT (3 : Fin 32).val) (bits (0x1066 + 0x40000 + 2 ^ 48) 10 1)).wr (R.HL_STATE_FOLLOWED (3 : Fin 32).val) (bits (0x1066 + 0x40000 + 2 ^ 48) 11 1)).wr (R.HL_STATE_HUB_RX_LOCK (3 : Fin 32).val) (bits (0x1066 + 0x40000 + 2 ^ 48) 12 1)).wr (R.HL_STATE_HUB_HI_BER (3 : Fin 32).val) (bits (0x1066 + 0x40000 + 2 ^ 48) 13 1)).wr (R.HL_EPOCH_HUB_EPOCH (3 : Fin 32).val) (bits (0x1066 + 0x40000 + 2 ^ 48) 48 16)).setHead (3 : Fin 32).val { ((((((((((wCarry).advance (16)).wr (R.HL_STATE_HUB_HOLD (3 : Fin 32).val) (bits (0x1066 + 0x40000 + 2 ^ 48) 8 1)).wr (R.HL_STATE_HUB_BLANK (3 : Fin 32).val) (bits (0x1066 + 0x40000 + 2 ^ 48) 9 1)).wr (R.HL_STATE_HUB_PORT (3 : Fin 32).val) (bits (0x1066 + 0x40000 + 2 ^ 48) 10 1)).wr (R.HL_STATE_FOLLOWED (3 : Fin 32).val) (bits (0x1066 + 0x40000 + 2 ^ 48) 11 1)).wr (R.HL_STATE_HUB_RX_LOCK (3 : Fin 32).val) (bits (0x1066 + 0x40000 + 2 ^ 48) 12 1)).wr (R.HL_STATE_HUB_HI_BER (3 : Fin 32).val) (bits (0x1066 + 0x40000 + 2 ^ 48) 13 1)).wr (R.HL_EPOCH_HUB_EPOCH (3 : Fin 32).val) (bits (0x1066 + 0x40000 + 2 ^ 48) 48 16)).head (3 : Fin 32).val) with lastStatus := (0x1066 + 0x40000 + 2 ^ 48), statusTime := (16), statusNs := (((((((((wCarry).advance (16)).wr (R.HL_STATE_HUB_HOLD (3 : Fin 32).val) (bits (0x1066 + 0x40000 + 2 ^ 48) 8 1)).wr (R.HL_STATE_HUB_BLANK (3 : Fin 32).val) (bits (0x1066 + 0x40000 + 2 ^ 48) 9 1)).wr (R.HL_STATE_HUB_PORT (3 : Fin 32).val) (bits (0x1066 + 0x40000 + 2 ^ 48) 10 1)).wr (R.HL_STATE_FOLLOWED (3 : Fin 32).val) (bits (0x1066 + 0x40000 + 2 ^ 48) 11 1)).wr (R.HL_STATE_HUB_RX_LOCK (3 : Fin 32).val) (bits (0x1066 + 0x40000 + 2 ^ 48) 12 1)).wr (R.HL_STATE_HUB_HI_BER (3 : Fin 32).val) (bits (0x1066 + 0x40000 + 2 ^ 48) 13 1)).wr (R.HL_EPOCH_HUB_EPOCH (3 : Fin 32).val) (bits (0x1066 + 0x40000 + 2 ^ 48) 48 16)).baseNs 0 (16), statusLast := some (near16 (wCarry).globalLine (bits (0x1066 + 0x40000 + 2 ^ 48) 16 16)) }) ∧ (bits (0x1066 + 0x40000 + 2 ^ 48) 48 16 ≤ ((((((((((wCarry).advance (16)).wr (R.HL_STATE_HUB_HOLD (3 : Fin 32).val) (bits (0x1066 + 0x40000 + 2 ^ 48) 8 1)).wr (R.HL_STATE_HUB_BLANK (3 : Fin 32).val) (bits (0x1066 + 0x40000 + 2 ^ 48) 9 1)).wr (R.HL_STATE_HUB_PORT (3 : Fin 32).val) (bits (0x1066 + 0x40000 + 2 ^ 48) 10 1)).wr (R.HL_STATE_FOLLOWED (3 : Fin 32).val) (bits (0x1066 + 0x40000 + 2 ^ 48) 11 1)).wr (R.HL_STATE_HUB_RX_LOCK (3 : Fin 32).val) (bits (0x1066 + 0x40000 + 2 ^ 48) 12 1)).wr (R.HL_STATE_HUB_HI_BER (3 : Fin 32).val) (bits (0x1066 + 0x40000 + 2 ^ 48) 13 1)).wr (R.HL_EPOCH_HUB_EPOCH (3 : Fin 32).val) (bits (0x1066 + 0x40000 + 2 ^ 48) 48 16)).setHead (3 : Fin 32).val { ((((((((((wCarry).advance (16)).wr (R.HL_STATE_HUB_HOLD (3 : Fin 32).val) (bits (0x1066 + 0x40000 + 2 ^ 48) 8 1)).wr (R.HL_STATE_HUB_BLANK (3 : Fin 32).val) (bits (0x1066 + 0x40000 + 2 ^ 48) 9 1)).wr (R.HL_STATE_HUB_PORT (3 : Fin 32).val) (bits (0x1066 + 0x40000 + 2 ^ 48) 10 1)).wr (R.HL_STATE_FOLLOWED (3 : Fin 32).val) (bits (0x1066 + 0x40000 + 2 ^ 48) 11 1)).wr (R.HL_STATE_HUB_RX_LOCK (3 : Fin 32).val) (bits (0x1066 + 0x40000 + 2 ^ 48) 12 1)).wr (R.HL_STATE_HUB_HI_BER (3 : Fin 32).val) (bits (0x1066 + 0x40000 + 2 ^ 48) 13 1)).wr (R.HL_EPOCH_HUB_EPOCH (3 : Fin 32).val) (bits (0x1066 + 0x40000 + 2 ^ 48) 48 16)).head (3 : Fin 32).val) with lastStatus := (0x1066 + 0x40000 + 2 ^ 48), statusTime := (16), statusNs := (((((((((wCarry).advance (16)).wr (R.HL_STATE_HUB_HOLD (3 : Fin 32).val) (bits (0x1066 + 0x40000 + 2 ^ 48) 8 1)).wr (R.HL_STATE_HUB_BLANK (3 : Fin 32).val) (bits (0x1066 + 0x40000 + 2 ^ 48) 9 1)).wr (R.HL_STATE_HUB_PORT (3 : Fin 32).val) (bits (0x1066 + 0x40000 + 2 ^ 48) 10 1)).wr (R.HL_STATE_FOLLOWED (3 : Fin 32).val) (bits (0x1066 + 0x40000 + 2 ^ 48) 11 1)).wr (R.HL_STATE_HUB_RX_LOCK (3 : Fin 32).val) (bits (0x1066 + 0x40000 + 2 ^ 48) 12 1)).wr (R.HL_STATE_HUB_HI_BER (3 : Fin 32).val) (bits (0x1066 + 0x40000 + 2 ^ 48) 13 1)).wr (R.HL_EPOCH_HUB_EPOCH (3 : Fin 32).val) (bits (0x1066 + 0x40000 + 2 ^ 48) 48 16)).baseNs 0 (16), statusLast := some (near16 (wCarry).globalLine (bits (0x1066 + 0x40000 + 2 ^ 48) 16 16)) }).epoch (3 : Fin 32).val) := by
  exact ⟨by decide, by decide, by decide, by decide, by decide, by decide, rfl, rfl, by decide⟩

theorem witness_hub_events_4 :
    ∃ (u : State) (w : State) (v : State), ((wCarry).clocked = true) ∧ ((0x1066 + 0x40000 + 2 ^ 48 + 2 ^ 32) % 256 = 0x66) ∧ (bit (0x1066 + 0x40000 + 2 ^ 48 + 2 ^ 32) 8 = false) ∧ (bit (0x1066 + 0x40000 + 2 ^ 48 + 2 ^ 32) 9 = false) ∧ (bit (0x1066 + 0x40000 + 2 ^ 48 + 2 ^ 32) 12 = true) ∧ (bits (0x1066 + 0x40000 + 2 ^ 48 + 2 ^ 32) 32 8 ≠ 0) ∧ (u = ((((((((wCarry).advance (16)).wr (R.HL_STATE_HUB_HOLD (3 : Fin 32).val) (bits (0x1066 + 0x40000 + 2 ^ 48 + 2 ^ 32) 8 1)).wr (R.HL_STATE_HUB_BLANK (3 : Fin 32).val) (bits (0x1066 + 0x40000 + 2 ^ 48 + 2 ^ 32) 9 1)).wr (R.HL_STATE_HUB_PORT (3 : Fin 32).val) (bits (0x1066 + 0x40000 + 2 ^ 48 + 2 ^ 32) 10 1)).wr (R.HL_STATE_FOLLOWED (3 : Fin 32).val) (bits (0x1066 + 0x40000 + 2 ^ 48 + 2 ^ 32) 11 1)).wr (R.HL_STATE_HUB_RX_LOCK (3 : Fin 32).val) (bits (0x1066 + 0x40000 + 2 ^ 48 + 2 ^ 32) 12 1)).wr (R.HL_STATE_HUB_HI_BER (3 : Fin 32).val) (bits (0x1066 + 0x40000 + 2 ^ 48 + 2 ^ 32) 13 1)).wr (R.HL_EPOCH_HUB_EPOCH (3 : Fin 32).val) (bits (0x1066 + 0x40000 + 2 ^ 48 + 2 ^ 32) 48 16)) ∧ (w = (u.count (R.HL_MISSED_COUNT (3 : Fin 32).val) (R.HL_OVF_MISSED_OVF (3 : Fin 32).val) .hlnk (bits (0x1066 + 0x40000 + 2 ^ 48 + 2 ^ 32) 32 8)).markMissed (3 : Fin 32).val (near16 (wCarry).globalLine (bits (0x1066 + 0x40000 + 2 ^ 48 + 2 ^ 32) 16 16))) ∧ (v = w.setHead (3 : Fin 32).val { (w.head (3 : Fin 32).val) with lastStatus := (0x1066 + 0x40000 + 2 ^ 48 + 2 ^ 32), statusTime := (16), statusNs := w.baseNs 0 (16), statusLast := some (near16 (wCarry).globalLine (bits (0x1066 + 0x40000 + 2 ^ 48 + 2 ^ 32) 16 16)) }) ∧ (bits (0x1066 + 0x40000 + 2 ^ 48 + 2 ^ 32) 48 16 ≤ v.epoch (3 : Fin 32).val) := by
  exact ⟨_, _, _, by decide, by decide, by decide, by decide, by decide, by decide, rfl, rfl, rfl, by decide⟩

theorem witness_hub_events_5 :
    ((wUp 3).clocked = true) ∧ ((wUp 3).lstate (headLane (3 : Fin 32).val) = 5) := by
  decide

theorem witness_hub_events_6 :
    ((wCarry).clocked = true) ∧ ((0x14B + 7 * 65536 + 2 ^ 33) % 256 = 0x4B) ∧ (bit (0x14B + 7 * 65536 + 2 ^ 33) 8 = true) ∧ (tget none ((wCarry).head (3 : Fin 32).val).pings (bits (0x14B + 7 * 65536 + 2 ^ 33) 16 16) = some ((1), none)) ∧ ((((wCarry).advance (161)).setHead (3 : Fin 32).val { ((wCarry).head (3 : Fin 32).val) with pings := tset none ((wCarry).head (3 : Fin 32).val).pings (bits (0x14B + 7 * 65536 + 2 ^ 33) 16 16) none }) = ((wCarry).advance (161)).setHead (3 : Fin 32).val { ((wCarry).head (3 : Fin 32).val) with pings := tset none ((wCarry).head (3 : Fin 32).val).pings (bits (0x14B + 7 * 65536 + 2 ^ 33) 16 16) none }) := by
  exact ⟨by decide, by decide, by decide, by decide, rfl⟩

theorem witness_hub_events_7 :
    (({ wUp 3 with latPks := [⟨⟨hJ, 0x0603, 0⟩, 0, 8, 0, []⟩] }).clocked = true) ∧ (({ wUp 3 with latPks := [⟨⟨hJ, 0x0603, 0⟩, 0, 8, 0, []⟩] }).latPks = (⟨⟨hJ, 0x0603, 0⟩, 0, 8, 0, []⟩ : LatPk) :: ([] : List LatPk)) := by
  decide

theorem witness_hub_events_8 :
    ((wCarry.setHead 3 {}).clocked = true) ∧ (((wCarry.setHead 3 {}).head (3 : Fin 32).val).carrying = false) ∧ (((wCarry.setHead 3 {}).advance (((wCarry.setHead 3 {}).lane (headLane (3 : Fin 32).val)).lockAt + 16000000)) = (wCarry.setHead 3 {}).advance (((wCarry.setHead 3 {}).lane (headLane (3 : Fin 32).val)).lockAt + 16000000)) ∧ (((wCarry.setHead 3 {}).advance (((wCarry.setHead 3 {}).lane (headLane (3 : Fin 32).val)).lockAt + 16000000)).lstate (headLane (3 : Fin 32).val) = 5) ∧ (((wCarry.setHead 3 {}).advance (((wCarry.setHead 3 {}).lane (headLane (3 : Fin 32).val)).lockAt + 16000000)).flag (R.LANE_STATUS_BLOCK_LOCK (headLane (3 : Fin 32).val).b) = true) ∧ (((wCarry.setHead 3 {}).advance (((wCarry.setHead 3 {}).lane (headLane (3 : Fin 32).val)).lockAt + 16000000)).flag (R.HL_STATE_HUB_RX_LOCK (3 : Fin 32).val) = true) ∧ ((((wCarry.setHead 3 {}).advance (((wCarry.setHead 3 {}).lane (headLane (3 : Fin 32).val)).lockAt + 16000000)).txRun (3 : Fin 32).val) = ((wCarry.setHead 3 {}).advance (((wCarry.setHead 3 {}).lane (headLane (3 : Fin 32).val)).lockAt + 16000000)).txRun (3 : Fin 32).val) := by
  exact ⟨by decide, by decide, rfl, by decide, by decide, by decide, rfl⟩

theorem witness_lane_events_1 :
    ((State.reset).clocked = true) ∧ (((State.reset).setLane (.yoke 3 : LaneId) { ((State.reset).lane (.yoke 3 : LaneId)) with badAges := [], lockAt := (State.reset).now }) = (State.reset).setLane (.yoke 3 : LaneId) { ((State.reset).lane (.yoke 3 : LaneId)) with badAges := [], lockAt := (State.reset).now }) := by
  exact ⟨by decide, rfl⟩

theorem witness_lane_events_2 :
    ((State.reset).clocked = true) ∧ ((((State.reset).advance (16)).count (R.LANE_EVENTS_LOCK_LOSS (.head 3 : LaneId).b) (R.LANE_OVF_LOCK_OVF (.head 3 : LaneId).b) (.head 3 : LaneId).node 1) = ((State.reset).advance (16)).count (R.LANE_EVENTS_LOCK_LOSS (.head 3 : LaneId).b) (R.LANE_OVF_LOCK_OVF (.head 3 : LaneId).b) (.head 3 : LaneId).node 1) := by
  exact ⟨by decide, rfl⟩

theorem witness_lane_events_3 :
    ((State.reset).clocked = true) ∧ ((((State.reset).advance (16)).count (R.LANE_EVENTS_LOCK_LOSS (.cam 3 : LaneId).b) (R.LANE_OVF_LOCK_OVF (.cam 3 : LaneId).b) (.cam 3 : LaneId).node 1) = ((State.reset).advance (16)).count (R.LANE_EVENTS_LOCK_LOSS (.cam 3 : LaneId).b) (R.LANE_OVF_LOCK_OVF (.cam 3 : LaneId).b) (.cam 3 : LaneId).node 1) ∧ (((((State.reset).advance (16)).count (R.LANE_EVENTS_LOCK_LOSS (.cam 3 : LaneId).b) (R.LANE_OVF_LOCK_OVF (.cam 3 : LaneId).b) (.cam 3 : LaneId).node 1).setLane (.cam 3 : LaneId) { ((((State.reset).advance (16)).count (R.LANE_EVENTS_LOCK_LOSS (.cam 3 : LaneId).b) (R.LANE_OVF_LOCK_OVF (.cam 3 : LaneId).b) (.cam 3 : LaneId).node 1).lane (.cam 3 : LaneId)) with badAges := [] }) = (((State.reset).advance (16)).count (R.LANE_EVENTS_LOCK_LOSS (.cam 3 : LaneId).b) (R.LANE_OVF_LOCK_OVF (.cam 3 : LaneId).b) (.cam 3 : LaneId).node 1).setLane (.cam 3 : LaneId) { ((((State.reset).advance (16)).count (R.LANE_EVENTS_LOCK_LOSS (.cam 3 : LaneId).b) (R.LANE_OVF_LOCK_OVF (.cam 3 : LaneId).b) (.cam 3 : LaneId).node 1).lane (.cam 3 : LaneId)) with badAges := [] }) := by
  exact ⟨by decide, rfl, rfl⟩

theorem witness_lane_events_4 :
    ((State.reset).clocked = true) := by
  decide

theorem witness_lane_events_5 :
    ((State.reset).clocked = true) := by
  decide

theorem witness_lane_events_6 :
    ((State.reset).clocked = true) ∧ ((((State.reset).advance (16)).setLane (.head 3 : LaneId) { ((State.reset).lane (.head 3 : LaneId)) with berCount := 0 }) = ((State.reset).advance (16)).setLane (.head 3 : LaneId) { ((State.reset).lane (.head 3 : LaneId)) with berCount := 0 }) := by
  exact ⟨by decide, rfl⟩

theorem witness_lane_events_7 :
    ∃ (u : State) (v : State), ((State.reset).clocked = true) ∧ (u = ((State.reset).advance (16)).badHeader (.head 3 : LaneId) (7)) ∧ (v = u.setLane (.head 3 : LaneId) { (u.lane (.head 3 : LaneId)) with berCount := 0 }) := by
  exact ⟨_, _, by decide, rfl, rfl⟩

theorem witness_lane_events_8 :
    ∃ (c : State), ((State.reset).clocked = true) ∧ (c = (State.reset).count (R.LANE_ERR_SH_COUNT (.head 3 : LaneId).b) (R.LANE_OVF_SH_OVF (.head 3 : LaneId).b) (.head 3 : LaneId).node 1) ∧ (([0] : List Nat) = 0 :: (((c.lane (.head 3 : LaneId)).badAges.map (· + (5) + 1)).filter fun j => decide (j < 64))) ∧ ((1) = (c.lane (.head 3 : LaneId)).berCount + 1) ∧ ((c.setLane (.head 3 : LaneId) { (c.lane (.head 3 : LaneId)) with badAges := ([0] : List Nat), berCount := (1), cleanAt := c.now }) = c.setLane (.head 3 : LaneId) { (c.lane (.head 3 : LaneId)) with badAges := ([0] : List Nat), berCount := (1), cleanAt := c.now }) ∧ ((if (c.setLane (.head 3 : LaneId) { (c.lane (.head 3 : LaneId)) with badAges := ([0] : List Nat), berCount := (1), cleanAt := c.now }).berLimit (.head 3 : LaneId) ≤ (1) ∧ !(c.setLane (.head 3 : LaneId) { (c.lane (.head 3 : LaneId)) with badAges := ([0] : List Nat), berCount := (1), cleanAt := c.now }).flag (R.LANE_STATUS_HI_BER (.head 3 : LaneId).b) then ((c.setLane (.head 3 : LaneId) { (c.lane (.head 3 : LaneId)) with badAges := ([0] : List Nat), berCount := (1), cleanAt := c.now }).wr (R.LANE_STATUS_HI_BER (.head 3 : LaneId).b) 1).raise (.head 3 : LaneId).node 18 else (c.setLane (.head 3 : LaneId) { (c.lane (.head 3 : LaneId)) with badAges := ([0] : List Nat), berCount := (1), cleanAt := c.now })) = if (c.setLane (.head 3 : LaneId) { (c.lane (.head 3 : LaneId)) with badAges := ([0] : List Nat), berCount := (1), cleanAt := c.now }).berLimit (.head 3 : LaneId) ≤ (1) ∧ !(c.setLane (.head 3 : LaneId) { (c.lane (.head 3 : LaneId)) with badAges := ([0] : List Nat), berCount := (1), cleanAt := c.now }).flag (R.LANE_STATUS_HI_BER (.head 3 : LaneId).b) then ((c.setLane (.head 3 : LaneId) { (c.lane (.head 3 : LaneId)) with badAges := ([0] : List Nat), berCount := (1), cleanAt := c.now }).wr (R.LANE_STATUS_HI_BER (.head 3 : LaneId).b) 1).raise (.head 3 : LaneId).node 18 else (c.setLane (.head 3 : LaneId) { (c.lane (.head 3 : LaneId)) with badAges := ([0] : List Nat), berCount := (1), cleanAt := c.now })) := by
  exact ⟨_, by decide, rfl, by decide, by decide, rfl, rfl⟩

theorem witness_lane_events_9 :
    ((State.reset).clocked = true) := by
  decide

theorem witness_lane_events_10 :
    ((State.reset).clocked = true) ∧ ((.yoke 0 : LaneId).trains = true) ∧ ((0x2D + 0 * 256) % 256 = 0x2D) ∧ (bits (0x2D + 0 * 256) 8 4 = 0) := by
  decide

theorem witness_lane_events_11 :
    ((State.reset).clocked = true) ∧ ((.yoke 0 : LaneId).trains = true) ∧ ((0x2D + 1 * 256) % 256 = 0x2D) ∧ (bits (0x2D + 1 * 256) 8 4 = 1) := by
  decide

theorem witness_lane_events_12 :
    ((State.reset).clocked = true) ∧ ((.yoke 0 : LaneId).trains = true) ∧ ((0x2D + 2 * 256) % 256 = 0x2D) ∧ (bits (0x2D + 2 * 256) 8 4 = 2) := by
  decide

theorem witness_lane_events_13 :
    ((State.reset.wr (R.LANE_STATUS_LSTATE (LaneId.yoke 0).b) 2).clocked = true) ∧ ((.yoke 0 : LaneId).trains = true) ∧ ((0x32D) % 256 = 0x2D) ∧ (bits (0x32D) 8 4 = 3) ∧ ((State.reset.wr (R.LANE_STATUS_LSTATE (LaneId.yoke 0).b) 2).training (.yoke 0 : LaneId) = true) := by
  decide

theorem witness_lane_events_14 :
    ((State.reset.wr (R.LANE_STATUS_LSTATE (LaneId.yoke 0).b) 3).clocked = true) ∧ ((.yoke 0 : LaneId).trains = true) ∧ ((State.reset.wr (R.LANE_STATUS_LSTATE (LaneId.yoke 0).b) 3).lstate (.yoke 0 : LaneId) = 3) ∧ ((((State.reset.wr (R.LANE_STATUS_LSTATE (LaneId.yoke 0).b) 3).advance (((State.reset.wr (R.LANE_STATUS_LSTATE (LaneId.yoke 0).b) 3).lane (.yoke 0 : LaneId)).cleanAt + (State.reset.wr (R.LANE_STATUS_LSTATE (LaneId.yoke 0).b) 3).slotsTime (.yoke 0 : LaneId) (2 ^ 20))).enterTrain (.yoke 0 : LaneId) 4) = ((State.reset.wr (R.LANE_STATUS_LSTATE (LaneId.yoke 0).b) 3).advance (((State.reset.wr (R.LANE_STATUS_LSTATE (LaneId.yoke 0).b) 3).lane (.yoke 0 : LaneId)).cleanAt + (State.reset.wr (R.LANE_STATUS_LSTATE (LaneId.yoke 0).b) 3).slotsTime (.yoke 0 : LaneId) (2 ^ 20))).enterTrain (.yoke 0 : LaneId) 4) := by
  exact ⟨by decide, by decide, by decide, rfl⟩

theorem witness_lane_events_15 :
    ((State.reset.wr (R.LANE_STATUS_LSTATE (LaneId.yoke 0).b) 1).clocked = true) ∧ ((.yoke 0 : LaneId).trains = true) ∧ ((State.reset.wr (R.LANE_STATUS_LSTATE (LaneId.yoke 0).b) 1).lstate (.yoke 0 : LaneId) = 1) := by
  decide

theorem witness_lane_events_16 :
    ((State.reset.wr (R.LANE_STATUS_LSTATE (LaneId.yoke 0).b) 2).clocked = true) ∧ ((.yoke 0 : LaneId).trains = true) ∧ ((State.reset.wr (R.LANE_STATUS_LSTATE (LaneId.yoke 0).b) 2).lstate (.yoke 0 : LaneId) = 2) := by
  decide

theorem witness_lane_events_17 :
    (((State.reset.wr (R.LANE_STATUS_LSTATE (LaneId.yoke 0).b) 3).setLane (.yoke 0) { request := some (1, 0) }).clocked = true) ∧ (((State.reset.wr (R.LANE_STATUS_LSTATE (LaneId.yoke 0).b) 3).setLane (.yoke 0) { request := some (1, 0) }).training (.yoke 0 : LaneId) = true) ∧ ((((State.reset.wr (R.LANE_STATUS_LSTATE (LaneId.yoke 0).b) 3).setLane (.yoke 0) { request := some (1, 0) }).lane (.yoke 0 : LaneId)).request = some ((1), (0))) ∧ ((((State.reset.wr (R.LANE_STATUS_LSTATE (LaneId.yoke 0).b) 3).setLane (.yoke 0) { request := some (1, 0) }).advance ((((State.reset.wr (R.LANE_STATUS_LSTATE (LaneId.yoke 0).b) 3).setLane (.yoke 0) { request := some (1, 0) }).lane (.yoke 0 : LaneId)).reqAt + 1600000)) = ((State.reset.wr (R.LANE_STATUS_LSTATE (LaneId.yoke 0).b) 3).setLane (.yoke 0) { request := some (1, 0) }).advance ((((State.reset.wr (R.LANE_STATUS_LSTATE (LaneId.yoke 0).b) 3).setLane (.yoke 0) { request := some (1, 0) }).lane (.yoke 0 : LaneId)).reqAt + 1600000)) := by
  exact ⟨by decide, by decide, by decide, rfl⟩

theorem witness_lane_events_18 :
    ((State.reset.wr (R.LANE_STATUS_LSTATE (LaneId.yoke 0).b) 2).clocked = true) ∧ ((.yoke 0 : LaneId).trains = true) ∧ ((State.reset.wr (R.LANE_STATUS_LSTATE (LaneId.yoke 0).b) 2).training (.yoke 0 : LaneId) = true) := by
  decide

theorem witness_lane_events_19 :
    ((wOn [.hlnk, .head 3]).HostReaches) ∧ ((.head 3 : LaneId).trains = true) ∧ ((wOn [.hlnk, .head 3]).accepts (.head 3 : LaneId).node = true) := by
  decide

theorem witness_lane_events_20 :
    ((State.reset).HostReaches) ∧ (((State.reset).wrB (R.LANE_CTRL_RATE (LaneId.head (3 : Fin 32)).b) (true)) = (State.reset).wrB (R.LANE_CTRL_RATE (LaneId.head (3 : Fin 32)).b) (true)) := by
  exact ⟨by decide, rfl⟩

theorem witness_encoder_events_1 :
    ∃ (u : State) (v : State) (s1 : Int) (cc : Int) (th : Nat) (per : Int) (raw : Int) (pt : EncPt), ((wSine).clocked = true) ∧ ((wSine).rd (R.ENC_STATUS_TYPE (2 : Fin 4).val) = 0) ∧ (u = (if 65536 ≤ ((wSine).enc (2 : Fin 4).val).winN then ((wSine).advance (160)).endWindow (2 : Fin 4).val else (wSine).advance (160))) ∧ (s1 = (10000 : Int) - u.rdS (R.ENC_CORR_OFS_S (2 : Fin 4).val)) ∧ (cc = sar (((0 : Int) - u.rdS (R.ENC_CORR_OFS_C (2 : Fin 4).val)) * u.rdS (R.ENC_GAIN_GC (2 : Fin 4).val) + s1 * u.rdS (R.ENC_GAIN_PH (2 : Fin 4).val) + 8192) 14) ∧ (th = atan4096 (Config.free .angle u.fresh) s1 cc) ∧ ((u.enc (2 : Fin 4).val).theta = some (1020)) ∧ (per = (if 3072 ≤ (1020) ∧ th < 1024 then (u.enc (2 : Fin 4).val).periods + 1 else if (1020) < 1024 ∧ 3072 ≤ th then (u.enc (2 : Fin 4).val).periods - 1 else (u.enc (2 : Fin 4).val).periods)) ∧ (raw = per * 4096 + th) ∧ ((u.enc (2 : Fin 4).val).raw = some (1020 : Int)) ∧ ((raw - (1020 : Int)).natAbs ≤ 1024) ∧ ((((u.enc (2 : Fin 4).val).radMin * (u.enc (2 : Fin 4).val).radMin : Nat) : Int) ≤ s1 * s1 + cc * cc) ∧ (s1 * s1 + cc * cc ≤ (((u.enc (2 : Fin 4).val).radMax * (u.enc (2 : Fin 4).val).radMax : Nat) : Int)) ∧ (v = State.setEnc { u with fresh := u.fresh + 1 } (2 : Fin 4).val (EncRt.lissa { (u.enc (2 : Fin 4).val) with theta := some th, periods := per, raw := some raw, badRad := 0 } (10000 : Int) (0 : Int) raw)) ∧ (pt = ⟨(160), (u.enc (2 : Fin 4).val).sense (raw - (u.enc (2 : Fin 4).val).zero)⟩) ∧ ((u.enc (2 : Fin 4).val).hist.head? = some (⟨0, 1020⟩ : EncPt)) := by
  exact ⟨_, _, _, _, _, _, _, _, by decide, by decide, rfl, rfl, rfl, rfl, by decide, rfl, rfl, by decide, by decide, by decide, by decide, rfl, rfl, by decide⟩

theorem witness_encoder_events_2 :
    ∃ (u : State), (((wChan 1).setEnc 2 { ((wChan 1).enc 2) with levels := some (false, false) }).clocked = true) ∧ (((wChan 1).setEnc 2 { ((wChan 1).enc 2) with levels := some (false, false) }).rd (R.ENC_STATUS_TYPE (2 : Fin 4).val) = 1) ∧ ((((wChan 1).setEnc 2 { ((wChan 1).enc 2) with levels := some (false, false) }).enc (2 : Fin 4).val).filter ≤ 16 * (65535)) ∧ ((((wChan 1).setEnc 2 { ((wChan 1).enc 2) with levels := some (false, false) }).enc (2 : Fin 4).val).levels = some ((false), (false))) ∧ (¬ ((false) = (true) ∧ (false) = (false))) ∧ ((some 160 : Option Nat) = (if (true) = (false) then (((wChan 1).setEnc 2 { ((wChan 1).enc 2) with levels := some (false, false) }).enc (2 : Fin 4).val).aAt else some (160))) ∧ ((none : Option Nat) = (if (false) = (false) then (((wChan 1).setEnc 2 { ((wChan 1).enc 2) with levels := some (false, false) }).enc (2 : Fin 4).val).bAt else some (160))) ∧ (u = (((wChan 1).setEnc 2 { ((wChan 1).enc 2) with levels := some (false, false) }).advance ((160) + (((wChan 1).setEnc 2 { ((wChan 1).enc 2) with levels := some (false, false) }).enc (2 : Fin 4).val).filter)).setEnc (2 : Fin 4).val { (((wChan 1).setEnc 2 { ((wChan 1).enc 2) with levels := some (false, false) }).enc (2 : Fin 4).val) with levels := some ((true), (false)), aAt := (some 160 : Option Nat), bAt := (none : Option Nat) }) ∧ (((some 160 : Option Nat) = none ∨ (some 160 : Option Nat).map (fun i => i / 16) ≠ (none : Option Nat).map (fun i => i / 16))) ∧ ((quadPlace true false) = (quadPlace (true) (false) + 4 - quadPlace (false) (false)) % 4) ∧ ((quadPlace true false) ≠ 2) := by
  exact ⟨_, by decide, by decide, by decide, by decide, by decide, by decide, by decide, rfl, by decide, by decide, by decide⟩

theorem witness_encoder_events_3 :
    ∃ (u : State), (((wChan 1).setEnc 2 { ((wChan 1).enc 2) with levels := some (false, false) }).clocked = true) ∧ (((wChan 1).setEnc 2 { ((wChan 1).enc 2) with levels := some (false, false) }).rd (R.ENC_STATUS_TYPE (2 : Fin 4).val) = 1) ∧ ((((wChan 1).setEnc 2 { ((wChan 1).enc 2) with levels := some (false, false) }).enc (2 : Fin 4).val).filter ≤ 16 * (65535)) ∧ ((((wChan 1).setEnc 2 { ((wChan 1).enc 2) with levels := some (false, false) }).enc (2 : Fin 4).val).levels = some ((false), (false))) ∧ ((true) ≠ (false)) ∧ ((true) ≠ (false)) ∧ (u = (((wChan 1).setEnc 2 { ((wChan 1).enc 2) with levels := some (false, false) }).advance ((160) + (((wChan 1).setEnc 2 { ((wChan 1).enc 2) with levels := some (false, false) }).enc (2 : Fin 4).val).filter)).setEnc (2 : Fin 4).val { (((wChan 1).setEnc 2 { ((wChan 1).enc 2) with levels := some (false, false) }).enc (2 : Fin 4).val) with levels := some ((true), (true)), aAt := some (160), bAt := some (160) }) := by
  exact ⟨_, by decide, by decide, by decide, by decide, by decide, by decide, rfl⟩

theorem witness_encoder_events_4 :
    (16 * (0) < ((wChan 1).setEnc 2 { ((wChan 1).enc 2) with block := List.replicate 64 255#8 }).inputFilter (2 : Fin 4).val) := by
  decide

theorem witness_encoder_events_5 :
    ((wChan 2).clocked = true) ∧ (((wChan 2).advance (160)).rd (R.ENC_STATUS_TYPE (2 : Fin 4).val) = 2) ∧ (((true) && decide ((63 - crc6 26 (4 * 5 + 3)) % 64 = 63 - crc6 (((wChan 2).enc (2 : Fin 4).val).posBits + 2) (4 * ((5) % 2 ^ ((wChan 2).enc (2 : Fin 4).val).posBits) + 2 * b2n (true) + b2n (true)))) = true) ∧ ((true) = true) := by
  exact ⟨by decide, by decide, by decide, rfl⟩

theorem witness_encoder_events_6 :
    ((wChan 2).clocked = true) ∧ (((wChan 2).advance (160)).rd (R.ENC_STATUS_TYPE (2 : Fin 4).val) = 2) ∧ (((true) && decide ((63 - crc6 26 (4 * 5 + 1)) % 64 = 63 - crc6 (((wChan 2).enc (2 : Fin 4).val).posBits + 2) (4 * ((5) % 2 ^ ((wChan 2).enc (2 : Fin 4).val).posBits) + 2 * b2n (false) + b2n (true)))) = true) ∧ ((false) = false) := by
  exact ⟨by decide, by decide, by decide, rfl⟩

theorem witness_encoder_events_7 :
    ((wChan 2).clocked = true) ∧ (((wChan 2).advance (160)).rd (R.ENC_STATUS_TYPE (2 : Fin 4).val) = 2) ∧ (((false) && decide ((0) % 64 = 63 - crc6 (((wChan 2).enc (2 : Fin 4).val).posBits + 2) (4 * ((5) % 2 ^ ((wChan 2).enc (2 : Fin 4).val).posBits) + 2 * b2n (true) + b2n (true)))) = false) := by
  decide

theorem witness_encoder_events_8 :
    ((wChan 3).clocked = true) ∧ ((wChan 3).rd (R.ENC_STATUS_TYPE (2 : Fin 4).val) = 3) := by
  decide

theorem witness_encoder_events_9 :
    ((wChan 1).clocked = true) ∧ ((wChan 1).inputFilter (2 : Fin 4).val ≤ 16 * (65535)) ∧ ((wChan 1).rd (R.ENC_STATUS_TYPE (2 : Fin 4).val) ≤ 1) ∧ (((wChan 1).enc (2 : Fin 4).val).indexCheck = true) ∧ (((wChan 1).enc (2 : Fin 4).val).forward = true) ∧ ((wChan 1).flag (R.ENC_STATUS_BACKWARD (2 : Fin 4).val) = false) ∧ (((wChan 1).enc (2 : Fin 4).val).idx = none) := by
  decide

theorem witness_encoder_events_10 :
    ∃ (u : State) (v : State), (((wChan 1).setEnc 2 { ((wChan 1).enc 2) with idx := some 5 }).clocked = true) ∧ (((wChan 1).setEnc 2 { ((wChan 1).enc 2) with idx := some 5 }).inputFilter (2 : Fin 4).val ≤ 16 * (65535)) ∧ (((wChan 1).setEnc 2 { ((wChan 1).enc 2) with idx := some 5 }).rd (R.ENC_STATUS_TYPE (2 : Fin 4).val) ≤ 1) ∧ ((((wChan 1).setEnc 2 { ((wChan 1).enc 2) with idx := some 5 }).enc (2 : Fin 4).val).indexCheck = true) ∧ ((((wChan 1).setEnc 2 { ((wChan 1).enc 2) with idx := some 5 }).enc (2 : Fin 4).val).forward = true) ∧ (((wChan 1).setEnc 2 { ((wChan 1).enc 2) with idx := some 5 }).flag (R.ENC_STATUS_BACKWARD (2 : Fin 4).val) = false) ∧ ((((wChan 1).setEnc 2 { ((wChan 1).enc 2) with idx := some 5 }).enc (2 : Fin 4).val).idx = some (5 : Int)) ∧ (u = (((wChan 1).setEnc 2 { ((wChan 1).enc 2) with idx := some 5 }).setEnc (2 : Fin 4).val { (((wChan 1).setEnc 2 { ((wChan 1).enc 2) with idx := some 5 }).enc (2 : Fin 4).val) with idx := some (((wChan 1).setEnc 2 { ((wChan 1).enc 2) with idx := some 5 }).encPos (2 : Fin 4).val) }).wr (R.ENC_INDEX_COUNT (2 : Fin 4).val) (min 0xFFFFFFFF (((wChan 1).setEnc 2 { ((wChan 1).enc 2) with idx := some 5 }).encPos (2 : Fin 4).val - (5 : Int)).toNat)) ∧ (v = (u.count (R.ENC_IDX_ERR_COUNT (2 : Fin 4).val) (R.ENC_OVF_IDX_OVF (2 : Fin 4).val) .fire 1).raise .fire 17) := by
  exact ⟨_, _, by decide, by decide, by decide, by decide, by decide, by decide, by decide, rfl, rfl⟩

theorem witness_encoder_events_11 :
    (((wChan 1).wr (R.ENC_STATUS_STANDSTILL 2) 0).clocked = true) ∧ (((wChan 1).wr (R.ENC_STATUS_STANDSTILL 2) 0).rd (R.ENC_STATUS_TYPE (2 : Fin 4).val) ≠ 7) ∧ ((((wChan 1).wr (R.ENC_STATUS_STANDSTILL 2) 0).advance (16000000)).flag (R.ENC_STATUS_STANDSTILL (2 : Fin 4).val) = false) ∧ ((((wChan 1).wr (R.ENC_STATUS_STANDSTILL 2) 0).enc (2 : Fin 4).val).lastEdge + (((wChan 1).wr (R.ENC_STATUS_STANDSTILL 2) 0).enc (2 : Fin 4).val).stillT ≤ (16000000)) := by
  decide

theorem witness_encoder_events_12 :
    ∃ (u : State), (((wChan 0).setEnc 2 { winN := 65536, sMax := 5, block := [] }).clocked = true) ∧ (((wChan 0).setEnc 2 { winN := 65536, sMax := 5, block := [] }).rd (R.ENC_STATUS_TYPE (2 : Fin 4).val) = 0) ∧ (65536 ≤ (((wChan 0).setEnc 2 { winN := 65536, sMax := 5, block := [] }).enc (2 : Fin 4).val).winN) ∧ ((((wChan 0).setEnc 2 { winN := 65536, sMax := 5, block := [] }).enc (2 : Fin 4).val).autoCorr = false) ∧ (u = (((State.wrS { ((wChan 0).setEnc 2 { winN := 65536, sMax := 5, block := [] }) with fresh := ((wChan 0).setEnc 2 { winN := 65536, sMax := 5, block := [] }).fresh + 1 } (R.ENC_LISSA_S_MAX (2 : Fin 4).val) (((wChan 0).setEnc 2 { winN := 65536, sMax := 5, block := [] }).enc (2 : Fin 4).val).sMax).wrS (R.ENC_LISSA_S_MIN (2 : Fin 4).val) (((wChan 0).setEnc 2 { winN := 65536, sMax := 5, block := [] }).enc (2 : Fin 4).val).sMin).wrS (R.ENC_LISSA_C_MAX (2 : Fin 4).val) (((wChan 0).setEnc 2 { winN := 65536, sMax := 5, block := [] }).enc (2 : Fin 4).val).cMax).wrS (R.ENC_LISSA_C_MIN (2 : Fin 4).val) (((wChan 0).setEnc 2 { winN := 65536, sMax := 5, block := [] }).enc (2 : Fin 4).val).cMin) := by
  exact ⟨_, by decide, by decide, by decide, by decide, rfl⟩

theorem witness_encoder_events_13 :
    (((wChan 1).setEnc 2 { cfgPk := some ⟨hJ, 0x0701, 0⟩ }).clocked = true) ∧ ((((wChan 1).setEnc 2 { cfgPk := some ⟨hJ, 0x0701, 0⟩ }).enc (2 : Fin 4).val).cfgPk = some (⟨hJ, 0x0701, 0⟩ : Pk)) := by
  decide

theorem witness_latches_and_compares_1 :
    ((0) < (wLatch.wr (R.LATCH_CFG_LATCH_FILTER 7) 1).rd (R.LATCH_CFG_LATCH_FILTER (7 : Fin 8).val)) := by
  decide

theorem witness_latches_and_compares_2 :
    ((wLatch).clocked = true) ∧ ((wLatch).rd (R.LATCH_CFG_LATCH_FILTER (7 : Fin 8).val) ≤ (65535)) ∧ (((wLatch).advance ((160) + 16 * (wLatch).rd (R.LATCH_CFG_LATCH_FILTER (7 : Fin 8).val))) = (wLatch).advance ((160) + 16 * (wLatch).rd (R.LATCH_CFG_LATCH_FILTER (7 : Fin 8).val))) ∧ ((wLatch).flag (R.LATCH_CFG_LATCH_ENABLE (7 : Fin 8).val) = true) ∧ ((bit (max 1 ((wLatch).rd (R.LATCH_CFG_EDGE (7 : Fin 8).val))) (if (true) then 1 else 0)) = true) ∧ (((wLatch).latch (7 : Fin 8).val).records.length + ((wLatch).latch (7 : Fin 8).val).edges.length < 64) ∧ (((wLatch).advance ((160) + 16 * (wLatch).rd (R.LATCH_CFG_LATCH_FILTER (7 : Fin 8).val))).straddle ((wLatch).rd (R.LATCH_CFG_CHANNEL (7 : Fin 8).val)) (160) = ((⟨0, 1020⟩ : EncPt), none)) := by
  exact ⟨by decide, by decide, rfl, by decide, by decide, by decide, by decide⟩

theorem witness_latches_and_compares_3 :
    ((wLatch).clocked = true) ∧ ((wLatch).rd (R.LATCH_CFG_LATCH_FILTER (7 : Fin 8).val) ≤ (65535)) ∧ (((wLatch).advance ((0) + 16 * (wLatch).rd (R.LATCH_CFG_LATCH_FILTER (7 : Fin 8).val))) = (wLatch).advance ((0) + 16 * (wLatch).rd (R.LATCH_CFG_LATCH_FILTER (7 : Fin 8).val))) ∧ ((wLatch).flag (R.LATCH_CFG_LATCH_ENABLE (7 : Fin 8).val) = true) ∧ ((bit (max 1 ((wLatch).rd (R.LATCH_CFG_EDGE (7 : Fin 8).val))) (if (true) then 1 else 0)) = true) ∧ (((wLatch).latch (7 : Fin 8).val).records.length + ((wLatch).latch (7 : Fin 8).val).edges.length < 64) ∧ (((wLatch).advance ((0) + 16 * (wLatch).rd (R.LATCH_CFG_LATCH_FILTER (7 : Fin 8).val))).straddle ((wLatch).rd (R.LATCH_CFG_CHANNEL (7 : Fin 8).val)) (0) = ((⟨0, 1020⟩ : EncPt), some (⟨0, 1020⟩ : EncPt))) := by
  exact ⟨by decide, by decide, rfl, by decide, by decide, by decide, by decide⟩

theorem witness_latches_and_compares_4 :
    ((wLatch.setLatch 7 { records := List.replicate 64 [] }).clocked = true) ∧ ((wLatch.setLatch 7 { records := List.replicate 64 [] }).rd (R.LATCH_CFG_LATCH_FILTER (7 : Fin 8).val) ≤ (65535)) ∧ (((wLatch.setLatch 7 { records := List.replicate 64 [] }).advance ((160) + 16 * (wLatch.setLatch 7 { records := List.replicate 64 [] }).rd (R.LATCH_CFG_LATCH_FILTER (7 : Fin 8).val))) = (wLatch.setLatch 7 { records := List.replicate 64 [] }).advance ((160) + 16 * (wLatch.setLatch 7 { records := List.replicate 64 [] }).rd (R.LATCH_CFG_LATCH_FILTER (7 : Fin 8).val))) ∧ ((wLatch.setLatch 7 { records := List.replicate 64 [] }).flag (R.LATCH_CFG_LATCH_ENABLE (7 : Fin 8).val) = true) ∧ ((bit (max 1 ((wLatch.setLatch 7 { records := List.replicate 64 [] }).rd (R.LATCH_CFG_EDGE (7 : Fin 8).val))) (if (true) then 1 else 0)) = true) ∧ (64 ≤ ((wLatch.setLatch 7 { records := List.replicate 64 [] }).latch (7 : Fin 8).val).records.length + ((wLatch.setLatch 7 { records := List.replicate 64 [] }).latch (7 : Fin 8).val).edges.length) := by
  exact ⟨by decide, by decide, rfl, by decide, by decide, by decide⟩

theorem witness_latches_and_compares_5 :
    ((wCmp 2000).clocked = true) ∧ ((((wCmp 2000).advance 0).runOut 15) = ((wCmp 2000).advance (0)).runOut (15 : Fin 16).val) ∧ (((((wCmp 2000).advance 0).runOut 15).cmp (15 : Fin 16).val).queue = (⟨none, 2000, 10, false, false⟩ : CmpTarget) :: ([] : List CmpTarget)) ∧ ((((wCmp 2000).advance 0).runOut 15).flag (R.ENC_STATUS_FAULT ((((wCmp 2000).advance 0).runOut 15).cmpCh (15 : Fin 16).val)) = false) ∧ ((((wCmp 2000).advance 0).runOut 15).mode .fire ≠ .faulted) ∧ (((((wCmp 2000).advance 0).runOut 15).now + (((wCmp 2000).advance 0).runOut 15).margin) = (((wCmp 2000).advance 0).runOut 15).now + (((wCmp 2000).advance 0).runOut 15).margin) ∧ ((⟨none, 2000, 10, false, false⟩ : CmpTarget).late = false) ∧ ((((wCmp 2000).advance 0).runOut 15).crossing ((((wCmp 2000).advance 0).runOut 15).cmpCh (15 : Fin 16).val) ((⟨none, 2000, 10, false, false⟩ : CmpTarget).target * 2 ^ 32) = some (40000 : Int)) ∧ ((((((wCmp 2000).advance 0).runOut 15).now + (((wCmp 2000).advance 0).runOut 15).margin) : Int) < (40000 : Int)) := by
  decide

theorem witness_latches_and_compares_6 :
    ((wCmp 200).clocked = true) ∧ ((((wCmp 200).advance 0).runOut 15) = ((wCmp 200).advance (0)).runOut (15 : Fin 16).val) ∧ (((((wCmp 200).advance 0).runOut 15).cmp (15 : Fin 16).val).queue = (⟨none, 200, 10, false, false⟩ : CmpTarget) :: ([] : List CmpTarget)) ∧ ((((wCmp 200).advance 0).runOut 15).flag (R.ENC_STATUS_FAULT ((((wCmp 200).advance 0).runOut 15).cmpCh (15 : Fin 16).val)) = false) ∧ ((((wCmp 200).advance 0).runOut 15).mode .fire ≠ .faulted) ∧ (((((wCmp 200).advance 0).runOut 15).now + (((wCmp 200).advance 0).runOut 15).margin) = (((wCmp 200).advance 0).runOut 15).now + (((wCmp 200).advance 0).runOut 15).margin) ∧ ((⟨none, 200, 10, false, false⟩ : CmpTarget).late = false) ∧ ((((wCmp 200).advance 0).runOut 15).crossing ((((wCmp 200).advance 0).runOut 15).cmpCh (15 : Fin 16).val) ((⟨none, 200, 10, false, false⟩ : CmpTarget).target * 2 ^ 32) = some (4000 : Int)) ∧ ((4000 : Int) = ((((wCmp 200).advance 0).runOut 15).now + (((wCmp 200).advance 0).runOut 15).margin)) := by
  decide

theorem witness_latches_and_compares_7 :
    ((wCmp 100).clocked = true) ∧ ((((wCmp 100).advance 0).runOut 15) = ((wCmp 100).advance (0)).runOut (15 : Fin 16).val) ∧ (((((wCmp 100).advance 0).runOut 15).cmp (15 : Fin 16).val).queue = (⟨none, 100, 10, false, false⟩ : CmpTarget) :: ([] : List CmpTarget)) ∧ ((((wCmp 100).advance 0).runOut 15).flag (R.ENC_STATUS_FAULT ((((wCmp 100).advance 0).runOut 15).cmpCh (15 : Fin 16).val)) = false) ∧ ((((wCmp 100).advance 0).runOut 15).mode .fire ≠ .faulted) ∧ (((((wCmp 100).advance 0).runOut 15).now + (((wCmp 100).advance 0).runOut 15).margin) = (((wCmp 100).advance 0).runOut 15).now + (((wCmp 100).advance 0).runOut 15).margin) ∧ ((⟨none, 100, 10, false, false⟩ : CmpTarget).late = false) ∧ ((((wCmp 100).advance 0).runOut 15).crossing ((((wCmp 100).advance 0).runOut 15).cmpCh (15 : Fin 16).val) ((⟨none, 100, 10, false, false⟩ : CmpTarget).target * 2 ^ 32) = some (2000 : Int)) ∧ ((2000 : Int) < ((((wCmp 100).advance 0).runOut 15).now + (((wCmp 100).advance 0).runOut 15).margin)) := by
  decide

theorem witness_latches_and_compares_8 :
    (((wCmp (-5)).setEnc 0 { hist := [⟨0, 0⟩] }).clocked = true) ∧ (((((wCmp (-5)).setEnc 0 { hist := [⟨0, 0⟩] }).advance 0).runOut 15) = (((wCmp (-5)).setEnc 0 { hist := [⟨0, 0⟩] }).advance (0)).runOut (15 : Fin 16).val) ∧ ((((((wCmp (-5)).setEnc 0 { hist := [⟨0, 0⟩] }).advance 0).runOut 15).cmp (15 : Fin 16).val).queue = (⟨none, -5, 10, false, false⟩ : CmpTarget) :: ([] : List CmpTarget)) ∧ (((((wCmp (-5)).setEnc 0 { hist := [⟨0, 0⟩] }).advance 0).runOut 15).flag (R.ENC_STATUS_FAULT (((((wCmp (-5)).setEnc 0 { hist := [⟨0, 0⟩] }).advance 0).runOut 15).cmpCh (15 : Fin 16).val)) = false) ∧ (((((wCmp (-5)).setEnc 0 { hist := [⟨0, 0⟩] }).advance 0).runOut 15).mode .fire ≠ .faulted) ∧ ((((((wCmp (-5)).setEnc 0 { hist := [⟨0, 0⟩] }).advance 0).runOut 15).now + ((((wCmp (-5)).setEnc 0 { hist := [⟨0, 0⟩] }).advance 0).runOut 15).margin) = ((((wCmp (-5)).setEnc 0 { hist := [⟨0, 0⟩] }).advance 0).runOut 15).now + ((((wCmp (-5)).setEnc 0 { hist := [⟨0, 0⟩] }).advance 0).runOut 15).margin) ∧ ((⟨none, -5, 10, false, false⟩ : CmpTarget).late = false) ∧ (((((wCmp (-5)).setEnc 0 { hist := [⟨0, 0⟩] }).advance 0).runOut 15).crossing (((((wCmp (-5)).setEnc 0 { hist := [⟨0, 0⟩] }).advance 0).runOut 15).cmpCh (15 : Fin 16).val) ((⟨none, -5, 10, false, false⟩ : CmpTarget).target * 2 ^ 32) = none) ∧ ((⟨none, -5, 10, false, false⟩ : CmpTarget).target ≤ ((((wCmp (-5)).setEnc 0 { hist := [⟨0, 0⟩] }).advance 0).runOut 15).encHwm (((((wCmp (-5)).setEnc 0 { hist := [⟨0, 0⟩] }).advance 0).runOut 15).cmpCh (15 : Fin 16).val)) ∧ (((((wCmp (-5)).setEnc 0 { hist := [⟨0, 0⟩] }).advance 0).runOut 15).flag (R.ENC_STATUS_SUSPENDED (((((wCmp (-5)).setEnc 0 { hist := [⟨0, 0⟩] }).advance 0).runOut 15).cmpCh (15 : Fin 16).val)) = false) := by
  decide

theorem witness_latches_and_compares_9 :
    ((wPace.setCmp 15 { queue := [⟨none, 100, 10, false, true⟩] }).clocked = true) ∧ ((((wPace.setCmp 15 { queue := [⟨none, 100, 10, false, true⟩] }).advance 0).runOut 15) = ((wPace.setCmp 15 { queue := [⟨none, 100, 10, false, true⟩] }).advance (0)).runOut (15 : Fin 16).val) ∧ (((((wPace.setCmp 15 { queue := [⟨none, 100, 10, false, true⟩] }).advance 0).runOut 15).cmp (15 : Fin 16).val).queue = (⟨none, 100, 10, false, true⟩ : CmpTarget) :: ([] : List CmpTarget)) ∧ ((((wPace.setCmp 15 { queue := [⟨none, 100, 10, false, true⟩] }).advance 0).runOut 15).flag (R.ENC_STATUS_FAULT ((((wPace.setCmp 15 { queue := [⟨none, 100, 10, false, true⟩] }).advance 0).runOut 15).cmpCh (15 : Fin 16).val)) = false) ∧ ((((wPace.setCmp 15 { queue := [⟨none, 100, 10, false, true⟩] }).advance 0).runOut 15).mode .fire ≠ .faulted) ∧ (((((wPace.setCmp 15 { queue := [⟨none, 100, 10, false, true⟩] }).advance 0).runOut 15).now + (((wPace.setCmp 15 { queue := [⟨none, 100, 10, false, true⟩] }).advance 0).runOut 15).margin) = (((wPace.setCmp 15 { queue := [⟨none, 100, 10, false, true⟩] }).advance 0).runOut 15).now + (((wPace.setCmp 15 { queue := [⟨none, 100, 10, false, true⟩] }).advance 0).runOut 15).margin) ∧ ((⟨none, 100, 10, false, true⟩ : CmpTarget).late = true) := by
  decide

theorem witness_latches_and_compares_10 :
    (((wCmp 200).wr (R.ENC_STATUS_FAULT 0) 1).clocked = true) ∧ (((((wCmp 200).wr (R.ENC_STATUS_FAULT 0) 1).advance 0).runOut 15) = (((wCmp 200).wr (R.ENC_STATUS_FAULT 0) 1).advance (0)).runOut (15 : Fin 16).val) ∧ ((((((wCmp 200).wr (R.ENC_STATUS_FAULT 0) 1).advance 0).runOut 15).cmp (15 : Fin 16).val).queue = (⟨none, 200, 10, false, false⟩ : CmpTarget) :: ([] : List CmpTarget)) ∧ (((((wCmp 200).wr (R.ENC_STATUS_FAULT 0) 1).advance 0).runOut 15).flag (R.ENC_STATUS_FAULT (((((wCmp 200).wr (R.ENC_STATUS_FAULT 0) 1).advance 0).runOut 15).cmpCh (15 : Fin 16).val)) = true) := by
  decide

theorem witness_latches_and_compares_11 :
    (((State.reset.setCmp 15 { active := some 160 }).advance (160)) = (State.reset.setCmp 15 { active := some 160 }).advance (160)) ∧ (((State.reset.setCmp 15 { active := some 160 }).cmp (15 : Fin 16).val).active = some (160)) ∧ (((State.reset.setCmp 15 { active := some 160 }).cmp (15 : Fin 16).val).due = []) ∧ ((160) ≤ ((State.reset.setCmp 15 { active := some 160 }).advance (160)).now) := by
  exact ⟨rfl, by decide, by decide, by decide⟩

theorem witness_latches_and_compares_12 :
    (((State.reset.setCmp 15 { due := [⟨none, 10, 0, some 5, false⟩] }).cmp (15)).due = (⟨none, 10, 0, some 5, false⟩ : CmpPulse) :: ([] : List CmpPulse)) ∧ (((State.reset.setCmp 15 { due := [⟨none, 10, 0, some 5, false⟩] }).cmp (15)).active = none) ∧ ((⟨none, 10, 0, some 5, false⟩ : CmpPulse).start ≤ (State.reset.setCmp 15 { due := [⟨none, 10, 0, some 5, false⟩] }).now) := by
  decide

theorem witness_camera_events_1 :
    ∃ (u : State), ((wCam).clocked = true) ∧ ((wCam).camUp (7 : Fin 8).val = true) ∧ (u = ((wCam).advance (160)).count (R.CAM_LINES_COUNT (camB (7 : Fin 8).val)) (R.CAM_OVF_LINES_OVF (camB (7 : Fin 8).val)) (camNode (7 : Fin 8).val) 1) ∧ ((u.cam (7 : Fin 8).val).lineFrame = some (wCamFrame : CamFrame)) ∧ ((wCamFrame : CamFrame).set.resend = false) ∧ ((wCamFrame : CamFrame).long = false) ∧ ((wCamFrame : CamFrame).lines < (wCamFrame : CamFrame).set.lines) ∧ ((wCamFrame : CamFrame).lines < (wCamFrame : CamFrame).trigs.length) ∧ ((u.cam (7 : Fin 8).val).buf.length < 16) ∧ ((List.replicate 12 1#8 : List Byte).length = 3 * (wCamFrame : CamFrame).set.px) := by
  exact ⟨_, by decide, by decide, rfl, by decide, by decide, by decide, by decide, by decide, by decide, by decide⟩

theorem witness_camera_events_2 :
    ∃ (u : State), ((wCam.setCam 7 { frames := [wCamFrame], buf := List.replicate 16 ⟨5, 0, [], [], [], 0⟩ }).clocked = true) ∧ ((wCam.setCam 7 { frames := [wCamFrame], buf := List.replicate 16 ⟨5, 0, [], [], [], 0⟩ }).camUp (7 : Fin 8).val = true) ∧ (u = ((wCam.setCam 7 { frames := [wCamFrame], buf := List.replicate 16 ⟨5, 0, [], [], [], 0⟩ }).advance (160)).count (R.CAM_LINES_COUNT (camB (7 : Fin 8).val)) (R.CAM_OVF_LINES_OVF (camB (7 : Fin 8).val)) (camNode (7 : Fin 8).val) 1) ∧ ((u.cam (7 : Fin 8).val).lineFrame = some (wCamFrame : CamFrame)) ∧ ((wCamFrame : CamFrame).set.resend = false) ∧ ((wCamFrame : CamFrame).long = false) ∧ ((wCamFrame : CamFrame).lines < (wCamFrame : CamFrame).set.lines) ∧ ((wCamFrame : CamFrame).lines < (wCamFrame : CamFrame).trigs.length) ∧ (16 ≤ (u.cam (7 : Fin 8).val).buf.length) := by
  exact ⟨_, by decide, by decide, rfl, by decide, by decide, by decide, by decide, by decide, by decide⟩

theorem witness_camera_events_3 :
    ∃ (u : State), ((wCam.setCam 7 { frames := [{ wCamFrame with lines := 2 }] }).clocked = true) ∧ ((wCam.setCam 7 { frames := [{ wCamFrame with lines := 2 }] }).camUp (7 : Fin 8).val = true) ∧ (u = ((wCam.setCam 7 { frames := [{ wCamFrame with lines := 2 }] }).advance (160)).count (R.CAM_LINES_COUNT (camB (7 : Fin 8).val)) (R.CAM_OVF_LINES_OVF (camB (7 : Fin 8).val)) (camNode (7 : Fin 8).val) 1) ∧ ((u.cam (7 : Fin 8).val).lineFrame = some ({ wCamFrame with lines := 2 } : CamFrame)) ∧ (({ wCamFrame with lines := 2 } : CamFrame).set.resend = false) ∧ ((({ wCamFrame with lines := 2 } : CamFrame).long = true ∨ ({ wCamFrame with lines := 2 } : CamFrame).set.lines ≤ ({ wCamFrame with lines := 2 } : CamFrame).lines ∨ ({ wCamFrame with lines := 2 } : CamFrame).trigs.length ≤ ({ wCamFrame with lines := 2 } : CamFrame).lines)) := by
  exact ⟨_, by decide, by decide, rfl, by decide, by decide, by decide⟩

theorem witness_camera_events_4 :
    ((wCam).clocked = true) ∧ (((wCam).cam (7 : Fin 8).val).lineFrame = some (wCamFrame : CamFrame)) := by
  decide

theorem witness_camera_events_5 :
    ((wCam.setCam 7 { frames := [{ wCamFrame with lines := 2 }, { wCamFrame with no := 6 }] }).clocked = true) ∧ (((wCam.setCam 7 { frames := [{ wCamFrame with lines := 2 }, { wCamFrame with no := 6 }] }).cam (7 : Fin 8).val).lineFrame = some ({ wCamFrame with lines := 2 } : CamFrame)) ∧ ((({ wCamFrame with lines := 2 } : CamFrame).lines ≠ 0 ∨ ({ wCamFrame with lines := 2 } : CamFrame).long = true ∨ ({ wCamFrame with lines := 2 } : CamFrame).headed = true)) ∧ (((wCam.setCam 7 { frames := [{ wCamFrame with lines := 2 }, { wCamFrame with no := 6 }] }).cam (7 : Fin 8).val).frames.any (fun g => decide (({ wCamFrame with lines := 2 } : CamFrame).no < g.no)) = true) := by
  decide

theorem witness_camera_events_6 :
    ((wCam.setCam 7 { frames := [{ wCamFrame with lines := 2 }] }).clocked = true) ∧ (((wCam.setCam 7 { frames := [{ wCamFrame with lines := 2 }] }).cam (7 : Fin 8).val).lineFrame = some ({ wCamFrame with lines := 2 } : CamFrame)) ∧ ((({ wCamFrame with lines := 2 } : CamFrame).lines ≠ 0 ∨ ({ wCamFrame with lines := 2 } : CamFrame).long = true ∨ ({ wCamFrame with lines := 2 } : CamFrame).headed = true)) ∧ (((wCam.setCam 7 { frames := [{ wCamFrame with lines := 2 }] }).cam (7 : Fin 8).val).frames.any (fun g => decide (({ wCamFrame with lines := 2 } : CamFrame).no < g.no)) = false) := by
  decide

theorem witness_camera_events_7 :
    ((wCam).clocked = true) ∧ (((wCam).cam (7 : Fin 8).val).lineFrame = some (wCamFrame : CamFrame)) ∧ ((wCamFrame : CamFrame).lines = 0) ∧ ((wCamFrame : CamFrame).long = false) ∧ ((wCamFrame : CamFrame).headed = false) := by
  decide

theorem witness_camera_events_8 :
    ((wCam.setCam 7 { frames := [{ wCamFrame with set := { wCamFrame.set with lines := 2 } }] }).clocked = true) ∧ (((wCam.setCam 7 { frames := [{ wCamFrame with set := { wCamFrame.set with lines := 2 } }] }).cam (7 : Fin 8).val).lineFrame = some ({ wCamFrame with set := { wCamFrame.set with lines := 2 } } : CamFrame)) ∧ (({ wCamFrame with set := { wCamFrame.set with lines := 2 } } : CamFrame).trigs.getLast? = some (⟨1, 0, 0, 32, 0, ⟨0, 0⟩, some (0, 0)⟩ : CamTrig)) ∧ (({ wCamFrame with set := { wCamFrame.set with lines := 2 } } : CamFrame).set.lines ≤ ({ wCamFrame with set := { wCamFrame.set with lines := 2 } } : CamFrame).trigs.length) ∧ ((⟨1, 0, 0, 32, 0, ⟨0, 0⟩, some (0, 0)⟩ : CamTrig).t + 16000000 ≤ (16000032)) := by
  decide

theorem witness_camera_events_9 :
    ∃ (v : State) (l2 : CamLine) (u : State), ((wCam.setCam 7 { frames := [wCamFrame], buf := [⟨5, 0, List.replicate 30 1#8, [], [(0, 5)], 0⟩] }).clocked = true) ∧ (((wCam.setCam 7 { frames := [wCamFrame], buf := [⟨5, 0, List.replicate 30 1#8, [], [(0, 5)], 0⟩] }).cam (7 : Fin 8).val).buf.find? (fun q => !q.damaged.isEmpty) = some (⟨5, 0, List.replicate 30 1#8, [], [(0, 5)], 0⟩ : CamLine)) ∧ (l2 = { (⟨5, 0, List.replicate 30 1#8, [], [(0, 5)], 0⟩ : CamLine) with data := zeroPixels (⟨5, 0, List.replicate 30 1#8, [], [(0, 5)], 0⟩ : CamLine).data ((⟨5, 0, List.replicate 30 1#8, [], [(0, 5)], 0⟩ : CamLine).damaged.headD (0, 0)), damaged := (⟨5, 0, List.replicate 30 1#8, [], [(0, 5)], 0⟩ : CamLine).damaged.drop 1 }) ∧ (v = (wCam.setCam 7 { frames := [wCamFrame], buf := [⟨5, 0, List.replicate 30 1#8, [], [(0, 5)], 0⟩] }).advance ((⟨5, 0, List.replicate 30 1#8, [], [(0, 5)], 0⟩ : CamLine).since + 16000 * ((((wCam.setCam 7 { frames := [wCamFrame], buf := [⟨5, 0, List.replicate 30 1#8, [], [(0, 5)], 0⟩] }).cam (7 : Fin 8).val).frames.find? fun q => decide (q.no = (⟨5, 0, List.replicate 30 1#8, [], [(0, 5)], 0⟩ : CamLine).frame)).map CamFrame.set |>.getD ((wCam.setCam 7 { frames := [wCamFrame], buf := [⟨5, 0, List.replicate 30 1#8, [], [(0, 5)], 0⟩] }).camSet (7 : Fin 8).val)).resendUs)) ∧ (u = v.count (R.CAM_CRC_COUNT (camB (7 : Fin 8).val)) (R.CAM_OVF_CRC_OVF (camB (7 : Fin 8).val)) (.cam (7 : Fin 8)) 1) := by
  exact ⟨_, _, _, by decide, by decide, rfl, rfl, rfl⟩

theorem witness_camera_events_10 :
    ∃ (u : State), ((wCam).clocked = true) ∧ (((wCam).cam (7 : Fin 8).val).gencp = (⟨⟨hJ, 0x0803, 0⟩, [1#8], 4, 0, 0⟩ : GencpReq) :: ([] : List GencpReq)) ∧ (u = (((wCam).setCam (7 : Fin 8).val { ((wCam).cam (7 : Fin 8).val) with gencp := ([] : List GencpReq) }).writeAt 8 (⟨⟨hJ, 0x0803, 0⟩, [1#8], 4, 0, 0⟩ : GencpReq).addr (([1#8, 2#8] : List Byte).take (⟨⟨hJ, 0x0803, 0⟩, [1#8], 4, 0, 0⟩ : GencpReq).room)).forwardCam (⟨⟨hJ, 0x0803, 0⟩, [1#8], 4, 0, 0⟩ : GencpReq).pk .ok [(([1#8, 2#8] : List Byte).take (⟨⟨hJ, 0x0803, 0⟩, [1#8], 4, 0, 0⟩ : GencpReq).room).length, ([1#8, 2#8] : List Byte).length] (([1#8, 2#8] : List Byte).take (⟨⟨hJ, 0x0803, 0⟩, [1#8], 4, 0, 0⟩ : GencpReq).room)) := by
  exact ⟨_, by decide, by decide, rfl⟩

theorem witness_camera_events_11 :
    ∃ (u : State), ((wCam).clocked = true) ∧ (((wCam).cam (7 : Fin 8).val).gencp = (⟨⟨hJ, 0x0803, 0⟩, [1#8], 4, 0, 0⟩ : GencpReq) :: ([] : List GencpReq)) ∧ (u = (((wCam).advance ((⟨⟨hJ, 0x0803, 0⟩, [1#8], 4, 0, 0⟩ : GencpReq).sentAt + 1600000000)).setCam (7 : Fin 8).val { ((wCam).cam (7 : Fin 8).val) with gencp := ([] : List GencpReq) }).forwardCam (⟨⟨hJ, 0x0803, 0⟩, [1#8], 4, 0, 0⟩ : GencpReq).pk .gencpTimeout [0, 0] []) := by
  exact ⟨_, by decide, by decide, rfl⟩

theorem witness_camera_events_12 :
    ((wCam).clocked = true) ∧ ((wCam).camUp (7 : Fin 8).val = true) := by
  decide

theorem witness_camera_events_13 :
    ((wCam.wr (R.LANE_STATUS_BLOCK_LOCK (camB 7)) 1).clocked = true) ∧ ((wCam.wr (R.LANE_STATUS_BLOCK_LOCK (camB 7)) 1).enabled (.cam (7 : Fin 8)) = true) ∧ ((wCam.wr (R.LANE_STATUS_BLOCK_LOCK (camB 7)) 1).flag (R.LANE_STATUS_BLOCK_LOCK (camB (7 : Fin 8).val)) = true) := by
  decide

theorem witness_camera_events_14 :
    ((wCam).clocked = true) ∧ (((wCam).cam (7 : Fin 8).val).exposures = (160) :: ([] : List Nat)) ∧ ((160) ≤ (160)) := by
  decide

theorem witness_camera_events_15 :
    ∃ (u : State), ((wCrop).clocked = true) ∧ (u = ((wCrop).advance (16000000)).startCrops) ∧ (u.insp.crops = (⟨7, List.replicate 32 0#8, [], 0⟩ : CropReq) :: ([] : List CropReq)) ∧ ((⟨7, List.replicate 32 0#8, [], 0⟩ : CropReq).since + 16000000 ≤ (16000000)) := by
  exact ⟨_, by decide, rfl, by decide, by decide⟩

theorem witness_camera_events_16 :
    ((wOn [.insp, .cam 7]).HostReaches) ∧ ((wOn [.insp, .cam 7]).camSetBad ((wOn [.insp, .cam 7]).camShadow (7 : Fin 8).val) = false) := by
  decide

theorem witness_camera_events_17 :
    (((wOn [.insp, .cam 7]).wr (R.CAM_SET_CAM_ON (camB 7)) 1).HostReaches) ∧ (((wOn [.insp, .cam 7]).wr (R.CAM_SET_CAM_ON (camB 7)) 1).camSetBad (((wOn [.insp, .cam 7]).wr (R.CAM_SET_CAM_ON (camB 7)) 1).camShadow (7 : Fin 8).val) = true) := by
  decide

theorem witness_step_runs_front_1 :
    (({ State.reset with pending := [.packetFetch 0] }).pending = (.packetFetch 0 : Instr) :: ([] : List Instr)) := by
  decide

theorem witness_step_runs_front_2 :
    ((State.reset).pending = []) ∧ (({ State.reset with now := State.reset.now + 16 }) = { (State.reset) with now := (State.reset).now + 16 }) := by
  decide

theorem witness_counters_saturate_1 :
    ∃ (u : State), ((⟨0x600080, 0, 32, 0⟩ : FRef).key ≠ (⟨0x600084, 0, 1, 0⟩ : FRef).key) ∧ (0 < (⟨0x600084, 0, 1, 0⟩ : FRef).width) ∧ ((State.reset).rd (⟨0x600080, 0, 32, 0⟩ : FRef) < 2 ^ (⟨0x600080, 0, 32, 0⟩ : FRef).width) ∧ (u = (State.reset).countRaw (⟨0x600080, 0, 32, 0⟩ : FRef) (⟨0x600084, 0, 1, 0⟩ : FRef) (.fire : Node) (2 ^ 33)) := by
  exact ⟨_, by decide, by decide, by decide, rfl⟩

theorem witness_blend_limits_1 :
    ((255) ≤ 255) ∧ ((4095) ≤ 4095) ∧ ((4095) ≤ 4095) := by
  decide

theorem witness_completion_entry_1 :
    ∃ (a : Nat) (u : State), ((wOn [.cmd, .ring 255]).linkDown = false) ∧ ((wOn [.cmd, .ring 255]).shadowRing (255 : Fin 256) = false) ∧ ((0) = (wOn [.cmd, .ring 255]).rd (R.RING_CQ_TAIL_TAIL (Node.ring (255 : Fin 256)).base)) ∧ ((0) < (wOn [.cmd, .ring 255]).entries (255 : Fin 256)) ∧ (a = 4096 * (wOn [.cmd, .ring 255]).rd (R.RING_CQ_BASE_ADDR (Node.ring (255 : Fin 256)).base) + 64 * (0)) ∧ (u = (wOn [.cmd, .ring 255]).putCpl (255 : Fin 256) ({ status := 0, seq := 1, op := 0x0101, ctx := 0, sq := 0, notify := true, event := false, words := [] } : Cpl)) := by
  exact ⟨_, _, by decide, by decide, by decide, by decide, rfl, rfl⟩

theorem witness_packet_encoding_1 :
    ∃ t : State, wDma.wf = true ∧ packetFields wDma = some ({ ring := 255, sq := 62, ctx := 255, notify := true, fence := true, seq := 1 }, 0x0A01, [(8, 8, 2 ^ 63), (16, 8, 4096), (24, 4, 2 ^ 32 - 1)]) ∧
      (∀ e ∈ [(8, 8, 2 ^ 63), (16, 8, 4096), (24, 4, 2 ^ 32 - 1)], e.1 + e.2.1 ≤ 64 * (1 + 0)) ∧ 0 < (wRing wDma { ring := 255, sq := 62, ctx := 255, notify := true, fence := true, seq := 1 }).entries 255 ∧
      (wRing wDma { ring := 255, sq := 62, ctx := 255, notify := true, fence := true, seq := 1 }).rd (R.RING_SQ_HEAD_HEAD (Node.ring 255).base) = 62 ∧
      (∀ k, k ≤ 0 → (wRing wDma { ring := 255, sq := 62, ctx := 255, notify := true, fence := true, seq := 1 }).sqMark 0 255 (62 + k) = .good) ∧
      (List.range (1 + 0)).flatMap (fun k => (wRing wDma { ring := 255, sq := 62, ctx := 255, notify := true, fence := true, seq := 1 }).sqEntry 255 (62 + k)) = wDma.entryBytes ∧
      ((wRing wDma { ring := 255, sq := 62, ctx := 255, notify := true, fence := true, seq := 1 }).ring 255).fetched = [] ∧ t = (wRing wDma { ring := 255, sq := 62, ctx := 255, notify := true, fence := true, seq := 1 }).fetchFrom 0 255 := by
  refine ⟨_, ?_, rfl, ?_, ?_, ?_, ?_, ?_, ?_, rfl⟩ <;> decide

theorem witness_packet_encoding_2 :
    ∃ t : State, wRevoke.wf = true ∧ packetFields wRevoke = some ({ ring := 255, sq := 62, ctx := 0, priv := true, seq := 0xFFFF, entries := 2 }, 0x1004, [(8, 1, 6), (64, 48, leNat (List.replicate 48 1#8)), (112, 48, leNat (List.replicate 48 2#8)), (160, 32, leNat (List.replicate 32 3#8))]) ∧
      (∀ e ∈ [(8, 1, 6), (64, 48, leNat (List.replicate 48 1#8)), (112, 48, leNat (List.replicate 48 2#8)), (160, 32, leNat (List.replicate 32 3#8))], e.1 + e.2.1 ≤ 64 * (1 + 2)) ∧ 2 < (wRing wRevoke { ring := 255, sq := 62, ctx := 0, priv := true, seq := 0xFFFF, entries := 2 }).entries 255 ∧
      (wRing wRevoke { ring := 255, sq := 62, ctx := 0, priv := true, seq := 0xFFFF, entries := 2 }).rd (R.RING_SQ_HEAD_HEAD (Node.ring 255).base) = 62 ∧
      (∀ k, k ≤ 2 → (wRing wRevoke { ring := 255, sq := 62, ctx := 0, priv := true, seq := 0xFFFF, entries := 2 }).sqMark 0 255 (62 + k) = .good) ∧
      (List.range (1 + 2)).flatMap (fun k => (wRing wRevoke { ring := 255, sq := 62, ctx := 0, priv := true, seq := 0xFFFF, entries := 2 }).sqEntry 255 (62 + k)) = wRevoke.entryBytes ∧
      ((wRing wRevoke { ring := 255, sq := 62, ctx := 0, priv := true, seq := 0xFFFF, entries := 2 }).ring 255).fetched = [] ∧ t = (wRing wRevoke { ring := 255, sq := 62, ctx := 0, priv := true, seq := 0xFFFF, entries := 2 }).fetchFrom 0 255 := by
  refine ⟨_, ?_, rfl, ?_, ?_, ?_, ?_, ?_, ?_, rfl⟩ <;> decide

theorem witness_step_keeps_form_1 :
    ∃ (t : State), (({ wHost State.reset 5 [1, 2] with pending := [.los (.eth 1) true 16, .packetFetch 0] }).memWf = true) ∧ ((∀ i ∈ ({ wHost State.reset 5 [1, 2] with pending := [.los (.eth 1) true 16, .packetFetch 0] }).pending.head?, i.wf = true)) ∧ (step ({ wHost State.reset 5 [1, 2] with pending := [.los (.eth 1) true 16, .packetFetch 0] }) = .next t) := by
  exact ⟨_, by decide, by decide, rfl⟩

theorem witness_memory_frames_1 :
    ∃ (t : State), ((wHost (wUp 3) 5 [1, 2]).memWf = true) ∧ ((Instr.blockLock (.head 3) : Instr).wf = true) ∧ (exec (Instr.blockLock (.head 3) : Instr) (wHost (wUp 3) 5 [1, 2]) = .next t) := by
  exact ⟨_, by decide, by decide, rfl⟩

end Sys2Proof.Tests
end

section
/-!
SUPPORT. One step, and the state after reset.
-/

namespace Sys2Proof.Machine

theorem step_of_pending_cons {s : State} {c : Instr} {rest : List Instr} (h : s.pending = c :: rest) :
    step s = exec c { s with pending := rest } := by
  simp only [step, h]

theorem step_of_pending_nil {s : State} (h : s.pending = []) : step s = .next (s.passTime 16) := by
  simp only [step, h, State.idle]

/-- The fire timeline goes on in every state; what the CORE and FABRIC clocks drive goes on while they run (R20, R295). -/
theorem passTime_eq (s : State) (d : Nat) :
    s.passTime d =
      if s.clocked then
        ((State.memRun { s with now := s.now + d } s.mem.queue.length).runLanes).runOutputs
      else { s with now := s.now + d } := by
  have hc : State.clocked { s with now := s.now + d } = s.clocked := rfl
  cases h : s.clocked <;> simp [State.passTime, hc, h]

/-- Settles O52: a step runs the front command, or idles for 1 ns where none waits. -/
theorem stepRunsFront : Obligations.StepRunsFront := by
  refine ⟨fun s c rest h => step_of_pending_cons h, fun s u h hu => ?_⟩
  rw [step_of_pending_nil h, passTime_eq, hu]

/-- A field that the register table does not list holds its value at reset (R21). -/
theorem rd_reset (f : FRef) : State.reset.rd f = f.reset := rfl

/-- Settles O53: `State.reset` lists nothing in any table, so that everything reads as its default. -/
theorem resetLeaves : Obligations.ResetLeaves := by
  have hnode (n : Node) : State.reset.own n = 0 ∧ State.reset.mode n = .normal := ⟨rfl, rfl⟩
  have hring (r : Nat) : (State.reset.ring r).fetched = [] ∧ (State.reset.ring r).started = [] := ⟨rfl, rfl⟩
  have hmem : State.reset.memWf = true := rfl
  exact ⟨rd_reset, rfl, hnode, fun _ => rfl, hring, rfl, hmem⟩

end Sys2Proof.Machine
end

section
/-!
SUPPORT. What every command keeps, assembled from the laws of its meaning: the memories stay in canonical form, the queue stays as it is,
and a memory that `Instr.memoryReach` gives the command no reach into keeps its bytes.
-/

namespace Sys2Proof.Machine

/-- What is asked of a memory under a command: with reach into it nothing, without reach that it stays `m`. -/
def spared (reach : Bool) (m : Option (Tbl Byte)) : Option (Tbl Byte) := bif reach then none else m

/-- The tables of a mirrored state that a well-formed message brings are in canonical form. -/
theorem mirrorMsg_wf_of_wf {q : Nat} {m : MirrorMsg} {t : Nat} (hw : (Instr.mirror q m t).wf = true) : m.wf = true := by
  simp only [Instr.wf, Instr.operandsFit, Bool.and_eq_true] at hw
  exact hw.2.2

/-- Every well-formed command keeps the memories in canonical form and the queue, and the memories that it has no reach into. -/
theorem exec_kept {hm dm : Option (Tbl Byte)} {qs : List Instr} (i : Instr) (s : State) (hw : i.wf = true)
    (hs : Kept (spared i.memoryReach.1 hm) (spared i.memoryReach.2 dm) qs s) :
    KeptO (spared i.memoryReach.1 hm) (spared i.memoryReach.2 dm) qs (exec i s) := by
  cases i with
  | registerWrite dw be v => exact execRegisterWrite_kept dw be v s hs
  | lowWordRead dw be => exact execLowWordRead_kept dw be s hs
  | auditIndexRead => exact execAuditIndexRead_kept s hs
  | rcFieldRead dw inc => exact execRcFieldRead_kept dw inc s hs
  | unmappedAccess dw write => exact execUnmappedAccess_kept dw write s hs
  | enable n on => exact execEnable_kept n on s hs
  | quiesce n on => exact execQuiesce_kept n on s hs
  | abort n => exact execAbort_kept n s hs
  | abortComplete n => exact execAbortComplete_kept n s hs
  | reset n b => exact execReset_kept n b s hs
  | drainComplete n => exact execDrainComplete_kept n s hs
  | drainTimeout n => exact execDrainTimeout_kept n s hs
  | submissionDoorbell r v => exact execSubmissionDoorbell_kept r v s hs
  | completionDoorbell r v => exact execCompletionDoorbell_kept r v s hs
  | ringResume r => exact execRingResume_kept r s hs
  | packetFetch failed => exact execPacketFetch_kept failed s hs
  | interruptCoalTimeout r => exact execInterruptCoalTimeout_kept r s hs
  | creditWatchdog n => exact execCreditWatchdog_kept n s hs
  | fwFault => exact execFwFault_kept s hs
  | bar2Read off len => exact execBar2Read_kept off len s hs
  | bar2Write off data => exact execBar2Write_kept off data s hs
  | nop h => exact execNop_kept h s hs
  | sysState h target => exact execSysState_kept h target s hs
  | unitQuery h off => exact execUnitQuery_kept h off s hs
  | ctxOpen h lanes groups silo siloMib columns mode rate => exact execCtxOpen_kept h lanes groups silo siloMib columns mode rate s hs
  | ctxStart h pos flags => exact execCtxStart_kept h pos flags s hs
  | ctxStop h mode => exact execCtxStop_kept h mode s hs
  | ctxClose h => exact execCtxClose_kept h s hs
  | ctxQuery h => exact execCtxQuery_kept h s hs
  | unitQuiesce h off flags => exact execUnitQuiesce_kept h off flags s hs
  | unitAbort h off => exact execUnitAbort_kept h off s hs
  | reclaim h off => exact execReclaim_kept h off s hs
  | baleDecode h src dst srcLen dstLen => exact execBaleDecode_kept h src dst srcLen dstLen s hs
  | baleEncode h src dst srcLen dstLen coding e flags layout miscoded => exact execBaleEncode_kept h src dst srcLen dstLen coding e flags layout miscoded s hs
  | baleVerify h src srcLen => exact execBaleVerify_kept h src srcLen s hs
  | baleResume h handle dst dstLen => exact execBaleResume_kept h handle dst dstLen s hs
  | baleDiscard h handle => exact execBaleDiscard_kept h handle s hs
  | layerSet h addr layer when => exact execLayerSet_kept h addr layer when s hs
  | colourSet h addr layer table when => exact execColourSet_kept h addr layer table when s hs
  | pageSubmit h list entries length headland number => exact execPageSubmit_kept h list entries length headland number s hs
  | siloCopy h first lines dst flags => exact execSiloCopy_kept h first lines dst flags s hs
  | nmapWrite h src first entries when => exact execNmapWrite_kept h src first entries when s hs
  | nmapRead h dst first entries => exact execNmapRead_kept h dst first entries s hs
  | ncalWrite h src first entries when => exact execNcalWrite_kept h src first entries when s hs
  | threshLoad h src array when => exact execThreshLoad_kept h src array when s hs
  | levelSet h src colour when => exact execLevelSet_kept h src colour when s hs
  | laneTrain h mask rate => exact execLaneTrain_kept h mask rate s hs
  | laneLatency h mask dst => exact execLaneLatency_kept h mask dst s hs
  | hubStatus h lane dst => exact execHubStatus_kept h lane dst s hs
  | encConfig h channel type block => exact execEncConfig_kept h channel type block s hs
  | synthSet h group when block => exact execSynthSet_kept h group when block s hs
  | compareSet h output flags target width => exact execCompareSet_kept h output flags target width s hs
  | latchRead h input dst most => exact execLatchRead_kept h input dst most s hs
  | divSet h output divisor => exact execDivSet_kept h output divisor s hs
  | camConfig h lane block => exact execCamConfig_kept h lane block s hs
  | camGencp h lane req reqLen room reply => exact execCamGencp_kept h lane req reqLen room reply s hs
  | stripeSet h table entries => exact execStripeSet_kept h table entries s hs
  | statsRead h dst first most => exact execStatsRead_kept h dst first most s hs
  | defectRead h dst first most => exact execDefectRead_kept h dst first most s hs
  | calSeed h pattern lines => exact execCalSeed_kept h pattern lines s hs
  | calAnchor h colour m pos => exact execCalAnchor_kept h colour m pos s hs
  | calProposals h dst most => exact execCalProposals_kept h dst most s hs
  | calPolicy h policy => exact execCalPolicy_kept h policy s hs
  | dmaCopy h src dst len => exact execDmaCopy_kept h src dst len s hs
  | memRetire h addr => exact execMemRetire_kept h addr s hs
  | memRemap h ch row => exact execMemRemap_kept h ch row s hs
  | memLogRead h dst most => exact execMemLogRead_kept h dst most s hs
  | ptpConfig h block => exact execPtpConfig_kept h block s hs
  | pulseSet h output base sec ns frac period width => exact execPulseSet_kept h output base sec ns frac period width s hs
  | timeRead h base => exact execTimeRead_kept h base s hs
  | axisMove h axis target rate accel decel => exact execAxisMove_kept h axis target rate accel decel s hs
  | axisHome h axis method => exact execAxisHome_kept h axis method s hs
  | axisStop h axis mode => exact execAxisStop_kept h axis mode s hs
  | axisSet h axis block => exact execAxisSet_kept h axis block s hs
  | yokeRole h role => exact execYokeRole_kept h role s hs
  | takeover h mask whole => exact execTakeover_kept h mask whole s hs
  | yokeResync h => exact execYokeResync_kept h s hs
  | gleanRun h off mask => exact execGleanRun_kept h off mask s hs
  | gleanPolicy h block => exact execGleanPolicy_kept h block s hs
  | healthRead h dst => exact execHealthRead_kept h dst s hs
  | tallyRead h dst first n => exact execTallyRead_kept h dst first n s hs
  | thermalSet h block => exact execThermalSet_kept h block s hs
  | fwUpdate h image len => exact execFwUpdate_kept h image len s hs
  | sealLoad h content len block sigR sigS => exact execSealLoad_kept h content len block sigR sigS s hs
  | auditRead h dst first most => exact execAuditRead_kept h dst first most s hs
  | keyRevoke h slot sigR sigS msg => exact execKeyRevoke_kept h slot sigR sigS msg s hs
  | secSelfTest h fails => exact execSecSelfTest_kept h fails s hs
  | thresherGrant => exact execThresherGrant_kept s hs
  | composeRow ctx => exact execComposeRow_kept ctx s hs
  | swathCompute lane shadowBad => exact execSwathCompute_kept lane shadowBad s hs
  | sliceRotation => exact execSliceRotation_kept s hs
  | shadowComplete => exact execShadowComplete_kept s hs
  | sliceFault n check => exact execSliceFault_kept n check s hs
  | lineCommit g t => exact execLineCommit_kept g t s hs
  | lineFired ctx line => exact execLineFired_kept ctx line s hs
  | lineStartFire lane group t => exact execLineStartFire_kept lane group t s hs
  | nak lane body t => exact execNak_kept lane body t s hs
  | status lane body t => exact execStatus_kept lane body t s hs
  | temp lane body t => exact execTemp_kept lane body t s hs
  | ping lane t => exact execPing_kept lane t s hs
  | align lane body t => exact execAlign_kept lane body t s hs
  | laneLatencyTimeout => exact execLaneLatencyTimeout_kept s hs
  | train l body => exact execTrain_kept l body s hs
  | blockLock l => exact execBlockLock_kept l s hs
  | lockLoss l clock t => exact execLockLoss_kept l clock t s hs
  | los l on t => exact execLos_kept l on t s hs
  | berWindow l last t => exact execBerWindow_kept l last t s hs
  | tuneCleanCount l => exact execTuneCleanCount_kept l s hs
  | trainStateTimeout l => exact execTrainStateTimeout_kept l s hs
  | tapRequestRetry l => exact execTapRequestRetry_kept l s hs
  | trainTExpiry l => exact execTrainTExpiry_kept l s hs
  | laneCtrlStart l => exact execLaneCtrlStart_kept l s hs
  | laneRateWrite l rate => exact execLaneRateWrite_kept l rate s hs
  | laneTrafficResume lane => exact execLaneTrafficResume_kept lane s hs
  | encoderSample ch x c t => exact execEncoderSample_kept ch x c t s hs
  | quadratureTransition ch a b e => exact execQuadratureTransition_kept ch a b e s hs
  | bissRead ch pos nE nW crc start t => exact execBissRead_kept ch pos nE nW crc start t s hs
  | ssiRead ch raw t => exact execSsiRead_kept ch raw t s hs
  | indexEdge z => exact execIndexEdge_kept z s hs
  | standstill ch t => exact execStandstill_kept ch t s hs
  | lissajousWindow ch => exact execLissajousWindow_kept ch s hs
  | latchEdge input falling e => exact execLatchEdge_kept input falling e s hs
  | compareCommit out t => exact execCompareCommit_kept out t s hs
  | comparePulseEnd out t => exact execComparePulseEnd_kept out t s hs
  | cameraLine cam data unusable damaged resent t => exact execCameraLine_kept cam data unusable damaged resent t s hs
  | frameEnd cam how t => exact execFrameEnd_kept cam how t s hs
  | resendTimeout cam => exact execResendTimeout_kept cam s hs
  | gencpReply cam data => exact execGencpReply_kept cam data s hs
  | gencpTimeout cam => exact execGencpTimeout_kept cam s hs
  | gpioMessage cam inputs => exact execGpioMessage_kept cam inputs s hs
  | camLaneUp cam => exact execCamLaneUp_kept cam s hs
  | commit cam => exact execCommit_kept cam s hs
  | calAnchorTimeout t => exact execCalAnchorTimeout_kept t s hs
  | memRequest kind cls ns req upsets sampled => exact execMemRequest_kept kind cls ns req upsets sampled s hs
  | agePromotion => exact execAgePromotion_kept s hs
  | refresh ch => exact execRefresh_kept ch s hs
  | refreshRatePoll ch above t => exact execRefreshRatePoll_kept ch above t s hs
  | eyeRecentre ch readPs writePs => exact execEyeRecentre_kept ch readPs writePs s hs
  | impedanceCalibration ch => exact execImpedanceCalibration_kept ch s hs
  | scrub addr words upsets => exact execScrub_kept addr words upsets s hs
  | selfRefreshEntry ch => exact execSelfRefreshEntry_kept ch s hs
  | granaryRotation t => exact execGranaryRotation_kept t s hs
  | bankMove => exact execBankMove_kept s hs
  | dramTrainingEnd trained => exact execDramTrainingEnd_kept trained s hs
  | zeroFillEnd => exact execZeroFillEnd_kept s hs
  | sync port source seq twoStep origin corr t => exact execSync_kept port source seq twoStep origin corr t s hs
  | followUp port source seq origin corr t => exact execFollowUp_kept port source seq origin corr t s hs
  | delayReq port source seq corr t => exact execDelayReq_kept port source seq corr t s hs
  | delayResp port source seq requester recv corr t => exact execDelayResp_kept port source seq requester recv corr t s hs
  | pdelayReq port source seq corr t tOut => exact execPdelayReq_kept port source seq corr t tOut s hs
  | pdelayResp port requester seq twoStep recv corr t => exact execPdelayResp_kept port requester seq twoStep recv corr t s hs
  | pdelayRespFollowUp port requester seq origin corr t => exact execPdelayRespFollowUp_kept port requester seq origin corr t s hs
  | announce port a t => exact execAnnounce_kept port a t s hs
  | frameDiscard port => exact execFrameDiscard_kept port s hs
  | syncInterval port t => exact execSyncInterval_kept port t s hs
  | announceInterval port t => exact execAnnounceInterval_kept port t s hs
  | delayReqInterval port t => exact execDelayReqInterval_kept port t s hs
  | announceReceiptTimeout port => exact execAnnounceReceiptTimeout_kept port s hs
  | syncReceiptTimeout port => exact execSyncReceiptTimeout_kept port s hs
  | linkChange port up => exact execLinkChange_kept port up s hs
  | pulseCommit out t => exact execPulseCommit_kept out t s hs
  | pulseEnd out t => exact execPulseEnd_kept out t s hs
  | tbSet base => exact execTbSet_kept base s hs
  | tbRate base v => exact execTbRate_kept base v s hs
  | profileSegment axis t => exact execProfileSegment_kept axis t s hs
  | chopperCycle axis second t => exact execChopperCycle_kept axis second t s hs
  | comparatorTrip axis second t => exact execComparatorTrip_kept axis second t s hs
  | inputEdge axis input level t => exact execInputEdge_kept axis input level t s hs
  | inputAccepted axis input t => exact execInputAccepted_kept axis input t s hs
  | holdTimeout axis t => exact execHoldTimeout_kept axis t s hs
  | axAccelWrite axis v => exact execAxAccelWrite_kept axis v s hs
  | axDecelWrite axis v => exact execAxDecelWrite_kept axis v s hs
  | token ctx line global t => exact execToken_kept ctx line global t s hs
  | swathCrc lane line marked crc t => exact execSwathCrc_kept lane line marked crc t s hs
  | heart role fenced owns checking last t => exact execHeart_kept role fenced owns checking last t s hs
  | heartInterval => exact execHeartInterval_kept s hs
  | check done passed lane line t => exact execCheck_kept done passed lane line t s hs
  | quickCheckEnd lane fails => exact execQuickCheckEnd_kept lane fails s hs
  | mirror q m t => exact execMirror_kept q m t s hs (mirrorMsg_wf_of_wf hw)
  | result q m t => exact execResult_kept q m t s hs
  | axis axis pos v acc neg t => exact execAxis_kept axis pos v acc neg t s hs
  | record kind bytes t => exact execRecord_kept kind bytes t s hs
  | messageRetransmit t => exact execMessageRetransmit_kept t s hs
  | partnerDown t => exact execPartnerDown_kept t s hs
  | automaticTakeover lane t => exact execAutomaticTakeover_kept lane t s hs
  | gleanTestStart n test => exact execGleanTestStart_kept n test s hs
  | gleanTestEnd bank passed => exact execGleanTestEnd_kept bank passed s hs
  | gleanRelease n => exact execGleanRelease_kept n s hs
  | coverageLate n bank t => exact execCoverageLate_kept n bank t s hs
  | sensorScan sites t => exact execSensorScan_kept sites t s hs
  | headSensor lane head t => exact execHeadSensor_kept lane head t s hs
  | headEnableTimer lane head t => exact execHeadEnableTimer_kept lane head t s hs
  | tallyFlush lane => exact execTallyFlush_kept lane s hs
  | headLifeUpdate lane head => exact execHeadLifeUpdate_kept lane head s hs
  | ageMonitor drifts => exact execAgeMonitor_kept drifts s hs
  | hlthTallyClr lo hi => exact execHlthTallyClr_kept lo hi s hs
  | hostStopRequest on => exact execHostStopRequest_kept on s hs
  | injectOneBit kind addr data => exact execInjectOneBit_kept kind addr data s hs
  | injectTwoBits kind addr data => exact execInjectTwoBits_kept kind addr data s hs
  | injectPoison kind addr data => exact execInjectPoison_kept kind addr data s hs
  | secProg v => exact execSecProg_kept v s hs
  | secSramParity slot => exact execSecSramParity_kept slot s hs
  | powerOnReset => exact execPowerOnReset_kept s hs
  | porNRelease b => exact execPorNRelease_kept b s hs
  | brownOut => exact execBrownOut_kept s hs
  | perstNLow => exact execPerstNLow_kept s hs
  | perstNRelease b => exact execPerstNRelease_kept b s hs
  | testLogicReset => exact execTestLogicReset_kept s hs
  | rootLoss t => exact execRootLoss_kept t s hs
  | bootWatchdog b => exact execBootWatchdog_kept b s hs
  | ready t => exact execReady_kept t s hs
  | sleepEntryDone t => exact execSleepEntryDone_kept t s hs
  | wake t => exact execWake_kept t s hs
  | sysCtrlWake => exact execSysCtrlWake_kept s hs
  | wakeDone t => exact execWakeDone_kept t s hs
  | stepLost t => exact execStepLost_kept t s hs
  | encConfigFaultWindowEnd ch => exact execEncConfigFaultWindowEnd_kept ch s hs
  | yokeRoleTimeout => exact execYokeRoleTimeout_kept s hs
  | cropStartTimeout t => exact execCropStartTimeout_kept t s hs
  | exposureEnd cam t => exact execExposureEnd_kept cam t s hs
  | pcieReferenceLoss => exact execPcieReferenceLoss_kept s hs
  | invalidBlock l good => exact execInvalidBlock_kept l good s hs
  | faultDetected n st req resp slots => exact execFaultDetected_kept n st req resp slots s hs

/-- A state whose memories are in canonical form keeps its own queue and its own memories. -/
theorem Kept_self {s : State} (h : s.memWf = true) : Kept (some s.host) (some s.dram) s.pending s :=
  ⟨h, rfl, Or.inr rfl, Or.inr rfl⟩

/-- What is kept with memories given is kept with any of them left open. -/
theorem Kept_spared {s : State} {hm dm : Option (Tbl Byte)} {qs : List Instr} (h : Kept hm dm qs s) (a b : Bool) :
    Kept (spared a hm) (spared b dm) qs s := by
  obtain ⟨hwf, hq, hh, hd⟩ := h
  refine ⟨hwf, hq, ?_, ?_⟩
  · cases a
    · exact hh
    · exact Or.inl rfl
  · cases b
    · exact hd
    · exact Or.inl rfl

/-- Settles O59: on an empty queue the block idles; else the front command runs on the state with the rest of the queue, and `exec_kept`
says what it keeps. -/
theorem stepKeepsForm : Obligations.StepKeepsForm := by
  intro s t hm hw hstep
  cases hq : s.pending with
  | nil =>
    rw [step_of_pending_nil hq] at hstep
    cases hstep
    obtain ⟨hform, hqueue, -, -⟩ := State.passTime_kept s 16 (Kept_spared (Kept_self hm) true true)
    exact ⟨hform, hqueue.trans hq⟩
  | cons i rest =>
    rw [step_of_pending_cons hq] at hstep
    have hi : i.wf = true := hw i (by rw [hq]; rfl)
    have hs : Kept (some s.host) (some s.dram) rest { s with pending := rest } := Kept_self hm
    obtain ⟨hform, hqueue, -, -⟩ := exec_kept i _ hi (Kept_spared hs _ _) t hstep
    exact ⟨hform, hqueue⟩

end Sys2Proof.Machine
end

section
/-!
SUPPORT. The bytes of a packet (R10, R67, R90): what a layout of fields reads back as, where the fields of each opcode stand, what a fetch
that succeeds leaves, and which commands a fetched packet spells.
-/

namespace Sys2Proof.Machine

/-! ## Little-endian fields -/

/-- The bytes of a number, lowest first, spell what fits in them (R10). -/
theorem leNat_bytes (n v : Nat) : leNat ((List.range n).map fun k => BitVec.ofNat 8 (v / 2 ^ (8 * k))) = v % 2 ^ (8 * n) := by
  induction n generalizing v with
  | zero => simp [leNat, Nat.mod_one]
  | succ n ih =>
    have hshift (k : Nat) : v / 2 ^ (8 * (k + 1)) = v / 256 / 2 ^ (8 * k) := by
      rw [Nat.div_div_eq_div_mul, show 8 * (k + 1) = 8 + 8 * k by omega, Nat.pow_add]
    have hpow : 2 ^ (8 * (n + 1)) = 256 * 2 ^ (8 * n) := by
      rw [show 8 * (n + 1) = 8 + 8 * n by omega, Nat.pow_add]
    simp only [List.range_succ_eq_map, List.map_cons, List.map_map, Function.comp_def, Nat.succ_eq_add_one, hshift, leNat, ih, hpow,
      Nat.mod_mul, BitVec.toNat_ofNat, Nat.mul_zero, Nat.pow_zero, Nat.div_one]

/-- A field of a run of bytes given by position. -/
theorem fieldN_map_range (g : Nat → Byte) {m off n : Nat} (h : off + n ≤ m) :
    fieldN ((List.range m).map g) off n = leNat ((List.range n).map fun k => g (off + k)) := by
  have hbytes : (((List.range m).map g).drop off).take n = (List.range n).map fun k => g (off + k) := by
    apply List.ext_getElem
    · simp; omega
    · intro k hk hk'
      simp
  rw [fieldN, hbytes]

/-- A field that lies in the first of two runs of bytes. -/
theorem fieldN_append_left (as bs : List Byte) {off n : Nat} (h : off + n ≤ as.length) : fieldN (as ++ bs) off n = fieldN as off n := by
  rw [fieldN, fieldN, List.drop_append_of_le_length (by omega), List.take_append_of_le_length (by rw [List.length_drop]; omega)]

/-! ## Layouts -/

/-- The fields of a layout rise from byte `lo` on and do not overlap. -/
def fieldsApart : Nat → List (Nat × Nat × Nat) → Bool
  | _, [] => true
  | lo, e :: r => decide (lo ≤ e.1) && fieldsApart (e.1 + e.2.1) r

theorem le_of_mem_fieldsApart {lo : Nat} {fs : List (Nat × Nat × Nat)} (ha : fieldsApart lo fs = true) {e : Nat × Nat × Nat} (he : e ∈ fs) :
    lo ≤ e.1 := by
  induction fs generalizing lo with
  | nil => cases he
  | cons f r ih =>
    simp only [fieldsApart, Bool.and_eq_true, decide_eq_true_eq] at ha
    obtain ⟨hlo, hr⟩ := ha
    rcases List.mem_cons.mp he with rfl | he
    · exact hlo
    · have := ih hr he
      omega

theorem layoutByte_cons (f : Nat × Nat × Nat) (r : List (Nat × Nat × Nat)) (i : Nat) :
    layoutByte (f :: r) i =
      if f.1 ≤ i ∧ i < f.1 + f.2.1 then BitVec.ofNat 8 (f.2.2 / 2 ^ (8 * (i - f.1))) else layoutByte r i := by
  by_cases h : f.1 ≤ i ∧ i < f.1 + f.2.1 <;> simp [layoutByte, h]

/-- Where fields do not overlap, each byte of a field is a byte of its value. -/
theorem layoutByte_of_mem {lo : Nat} {fs : List (Nat × Nat × Nat)} (ha : fieldsApart lo fs = true) {e : Nat × Nat × Nat} (he : e ∈ fs)
    {k : Nat} (hk : k < e.2.1) : layoutByte fs (e.1 + k) = BitVec.ofNat 8 (e.2.2 / 2 ^ (8 * k)) := by
  induction fs generalizing lo with
  | nil => cases he
  | cons f r ih =>
    simp only [fieldsApart, Bool.and_eq_true, decide_eq_true_eq] at ha
    rw [layoutByte_cons]
    rcases List.mem_cons.mp he with rfl | he
    · rw [if_pos (by omega), Nat.add_sub_cancel_left]
    · have hge := le_of_mem_fieldsApart ha.2 he
      rw [if_neg (by omega), ih ha.2 he]

/-- A field of a layout reads back as its value. -/
theorem fieldN_layout {lo m : Nat} {fs : List (Nat × Nat × Nat)} (ha : fieldsApart lo fs = true) {e : Nat × Nat × Nat} (he : e ∈ fs)
    (hm : e.1 + e.2.1 ≤ m) (hv : e.2.2 < 2 ^ (8 * e.2.1)) : fieldN ((List.range m).map (layoutByte fs)) e.1 e.2.1 = e.2.2 := by
  have hbytes : ((List.range e.2.1).map fun k => layoutByte fs (e.1 + k)) = (List.range e.2.1).map fun k => BitVec.ofNat 8 (e.2.2 / 2 ^ (8 * k)) :=
    List.map_congr_left fun k hk => layoutByte_of_mem ha he (List.mem_range.mp hk)
  rw [fieldN_map_range _ hm, hbytes, leNat_bytes, Nat.mod_eq_of_lt hv]

/-! ## The layouts of the opcodes -/

/-- Where the parameters of an opcode stand: byte offset and bytes of each (R90). -/
def opLayout : Nat → List (Nat × Nat)
  | 0x0101 | 0x0204 | 0x0205 | 0x0D03 | 0x1005 => []
  | 0x0102 | 0x0203 | 0x0904 | 0x0B03 | 0x0D01 => [(8, 1)]
  | 0x0103 | 0x0207 | 0x0208 | 0x0305 => [(8, 4)]
  | 0x0201 => [(8, 4), (12, 4), (16, 8), (24, 4), (28, 4), (32, 4), (36, 4)]
  | 0x0202 | 0x0803 | 0x0903 | 0x0A04 | 0x1001 => [(8, 8), (16, 4)]
  | 0x0206 | 0x0E01 => [(8, 4), (12, 4)]
  | 0x0301 => [(8, 8), (16, 8), (24, 4), (28, 4)]
  | 0x0302 => [(8, 8), (16, 8), (24, 4), (28, 4), (32, 1), (33, 1), (34, 2), (36, 4)]
  | 0x0303 => [(8, 8), (24, 4)]
  | 0x0304 => [(8, 4), (16, 8), (28, 4)]
  | 0x0401 | 0x0504 | 0x0505 => [(8, 8), (16, 1), (17, 1)]
  | 0x0402 => [(8, 8), (16, 1), (17, 1), (18, 1)]
  | 0x0403 => [(8, 8), (16, 4), (20, 4), (24, 4), (28, 4)]
  | 0x0404 => [(8, 4), (12, 4), (16, 8), (24, 4)]
  | 0x0501 | 0x0503 => [(8, 8), (16, 4), (20, 4), (24, 1)]
  | 0x0502 | 0x0804 | 0x0805 | 0x0F02 => [(8, 8), (16, 4), (20, 4)]
  | 0x0601 | 0x0D02 => [(8, 4), (12, 1)]
  | 0x0602 => [(8, 4), (16, 8)]
  | 0x0603 | 0x0801 | 0x0C04 => [(8, 1), (16, 8)]
  | 0x0701 | 0x0702 => [(8, 1), (9, 1), (16, 8)]
  | 0x0703 => [(8, 1), (9, 1), (16, 8), (24, 4)]
  | 0x0704 => [(8, 1), (16, 8), (24, 4)]
  | 0x0705 | 0x0901 | 0x0A03 => [(8, 1), (12, 4)]
  | 0x0802 => [(8, 1), (16, 8), (24, 2), (26, 2), (32, 8)]
  | 0x0902 => [(8, 1), (12, 4), (16, 8)]
  | 0x0A01 | 0x1003 => [(8, 8), (16, 8), (24, 4)]
  | 0x0A02 | 0x0B01 | 0x0E02 | 0x0F01 | 0x0F03 => [(8, 8)]
  | 0x0B02 => [(8, 1), (9, 1), (16, 8), (24, 4), (28, 4), (32, 4), (36, 4)]
  | 0x0C01 => [(8, 1), (12, 4), (16, 4), (20, 4), (24, 4)]
  | 0x0C02 | 0x0C03 => [(8, 1), (9, 1)]
  | 0x1002 => [(8, 8), (16, 4), (24, 8), (64, 48), (112, 48)]
  | 0x1004 => [(8, 1), (64, 48), (112, 48), (160, 32)]
  | _ => []

/-- Where the fields of a layout stand: byte offset and bytes of each. -/
def fieldPlaces (fs : List (Nat × Nat × Nat)) : List (Nat × Nat) := fs.map fun e => (e.1, e.2.1)

/-- Of each packet command: its opcode has 16 bits, its parameters stand where the opcode has them, behind the header and apart. -/
theorem packetFields_layout {i : Instr} {h : Hdr} {op : Nat} {fs : List (Nat × Nat × Nat)} (hp : packetFields i = some (h, op, fs)) :
    op < 65536 ∧ fieldPlaces fs = opLayout op ∧ fieldsApart 7 fs = true := by
  cases i <;> cases hp <;> exact ⟨by decide, rfl, rfl⟩

/-- Fields at the same places with the values that the same bytes have there are the same. -/
theorem fields_eq_of_read {bs : List Byte} {fs gs : List (Nat × Nat × Nat)} (hl : fieldPlaces gs = fieldPlaces fs)
    (hf : ∀ e ∈ fs, fieldN bs e.1 e.2.1 = e.2.2) (hg : ∀ e ∈ gs, fieldN bs e.1 e.2.1 = e.2.2) : gs = fs := by
  have hread (l : List (Nat × Nat × Nat)) (h : ∀ e ∈ l, fieldN bs e.1 e.2.1 = e.2.2) :
      (fieldPlaces l).map (fun p => (p.1, p.2, fieldN bs p.1 p.2)) = l := by
    rw [fieldPlaces, List.map_map]
    exact (List.map_congr_left fun e he => by simp [h e he]).trans (List.map_id l)
  rw [← hread gs hg, ← hread fs hf, hl]

/-! ## The entries of a packet -/

section
variable {i : Instr} {h : Hdr} {op : Nat} {fs : List (Nat × Nat × Nat)}

/-- The header of a well-formed packet and its parameters fit their bytes (R67). -/
theorem packet_fits (hw : i.wf = true) (hp : packetFields i = some (h, op, fs)) :
    (h.sq < 65536 ∧ h.ctx < 256 ∧ h.seq < 65536 ∧ h.entries < 256) ∧ ∀ e ∈ fs, e.2.2 < 2 ^ (8 * e.2.1) := by
  have hfit : i.fieldsFit = true := by
    simp only [Instr.wf, Bool.and_eq_true] at hw
    exact hw.1
  simpa [Instr.fieldsFit, hp, Hdr.wf] using hfit

/-- Every field of a packet, of its header or of its parameters, reads back from its entries. -/
theorem fieldN_entryBytes (hp : packetFields i = some (h, op, fs)) {e : Nat × Nat × Nat} (he : e ∈ hdrLayout h op ++ fs)
    (hm : e.1 + e.2.1 ≤ 64 * (1 + h.entries)) (hv : e.2.2 < 2 ^ (8 * e.2.1)) : fieldN i.entryBytes e.1 e.2.1 = e.2.2 := by
  obtain ⟨-, -, hbehind⟩ := packetFields_layout hp
  have hapart : fieldsApart 0 (hdrLayout h op ++ fs) = true := hbehind
  simp only [Instr.entryBytes, hp]
  exact fieldN_layout hapart he hm hv

/-- A field of the header reads back from the entries (R67). -/
theorem fieldN_header (hp : packetFields i = some (h, op, fs)) {off n v : Nat} (he : (off, n, v) ∈ hdrLayout h op) (hm : off + n ≤ 7)
    (hv : v < 2 ^ (8 * n)) : fieldN i.entryBytes off n = v :=
  fieldN_entryBytes hp (List.mem_append_left _ he) (by simp only; omega) hv

/-- The opcode that a packet's entries carry. -/
theorem opcode_entryBytes (hp : packetFields i = some (h, op, fs)) : fieldN i.entryBytes 0 2 = op :=
  fieldN_header hp (by simp [hdrLayout]) (by decide) (packetFields_layout hp).1

/-- The entry count that a packet's entries carry. -/
theorem count_entryBytes (hw : i.wf = true) (hp : packetFields i = some (h, op, fs)) : fieldN i.entryBytes 6 1 = h.entries := by
  obtain ⟨⟨-, -, -, hcount⟩, -⟩ := packet_fits hw hp
  exact fieldN_header hp (by simp [hdrLayout]) (by decide) hcount

/-- The header that a packet's entries carry is the packet's (R67). -/
theorem parseHdr_entryBytes (hw : i.wf = true) (hp : packetFields i = some (h, op, fs)) : parseHdr h.ring h.sq i.entryBytes = h := by
  obtain ⟨⟨-, hctx, hseq, -⟩, -⟩ := packet_fits hw hp
  have hcount := count_entryBytes hw hp
  have hc : fieldN i.entryBytes 2 1 = h.ctx := fieldN_header hp (by simp [hdrLayout]) (by decide) hctx
  have hs : fieldN i.entryBytes 4 2 = h.seq := fieldN_header hp (by simp [hdrLayout]) (by decide) hseq
  have hf : fieldN i.entryBytes 3 1 = b2n h.notify + 2 * b2n h.fence + 4 * b2n h.priv := by
    refine fieldN_header hp (by simp [hdrLayout]) (by decide) ?_
    cases h.notify <;> cases h.fence <;> cases h.priv <;> decide
  have hbits : bit (b2n h.notify + 2 * b2n h.fence + 4 * b2n h.priv) 0 = h.notify ∧
      bit (b2n h.notify + 2 * b2n h.fence + 4 * b2n h.priv) 1 = h.fence ∧
      bit (b2n h.notify + 2 * b2n h.fence + 4 * b2n h.priv) 2 = h.priv := by
    cases h.notify <;> cases h.fence <;> cases h.priv <;> decide
  obtain ⟨hn, hfe, hpr⟩ := hbits
  simp only [parseHdr, hc, hs, hf, hcount, hn, hfe, hpr]

end

/-! ## The fetch -/

theorem tgets_length {α : Type} (d : α) (t : Tbl α) (x n : Nat) : (tgets d t x n).length = n := by
  induction n generalizing x with
  | zero => rfl
  | succ n ih => simp [tgets, ih]

/-- A submission entry is 64 bytes (R67). -/
theorem State.sqEntry_length (s : State) (r : Fin 256) (k : Nat) : (s.sqEntry r k).length = 64 := tgets_length _ _ _ _

/-- A ring has at most 65,536 entries (R59). -/
theorem State.entries_le (s : State) (r : Fin 256) : s.entries r ≤ 2 ^ 16 :=
  Nat.pow_le_pow_right (by decide) (by omega)

theorem State.entries_pos (s : State) (r : Fin 256) : 0 < s.entries r := Nat.pow_pos (by decide)

/-- The entries of the packet at the head, where its count can be covered (R63, R69). -/
theorem State.sqSize_of_count {s : State} {r : Fin 256} {head k : Nat} (hh : s.rd (R.RING_SQ_HEAD_HEAD (Node.ring r).base) = head)
    (hc : fieldN (s.sqEntry r head) 6 1 = k) (hk : k < s.entries r) : s.sqSize r = 1 + k := by
  simp only [State.sqSize, hh, hc, if_neg (Nat.not_le.mpr hk)]

@[simp] theorem State.ring_setRing_self (s : State) (n : Nat) (r : RingRt) : (s.setRing n r).ring n = r := tget_tset_self _ _ _

/-- A fetch all of whose entries arrive (R63): the packet stands behind those that the ring has fetched, and RING_SQ_HEAD is past it. -/
theorem State.fetchFrom_of_good {s : State} {failed head n : Nat} {r : Fin 256} {bs : List Byte}
    (hh : s.rd (R.RING_SQ_HEAD_HEAD (Node.ring r).base) = head) (hn : s.sqSize r = 1 + n)
    (hg : ∀ k, k ≤ n → s.sqMark failed r (head + k) = .good)
    (hb : ((List.range (1 + n)).flatMap fun k => s.sqEntry r (head + k)) = bs) :
    s.fetchFrom failed r = (s.wr (R.RING_SQ_HEAD_HEAD (Node.ring r).base) ((head + (1 + n)) % s.entries r)).setRing r.val
      { s.ring r.val with fetched := (s.ring r.val).fetched ++ [⟨parseHdr r head bs, fieldN bs 0 2, bs⟩] } := by
  have hhead : s.sqMark failed r head = .good := hg 0 (Nat.zero_le _)
  have hall : ((List.range (1 + n)).map (head + ·)).find? (fun k => decide (s.sqMark failed r k ≠ .good)) = none := by
    simp only [List.find?_eq_none, List.mem_map, List.mem_range, decide_eq_true_eq, not_not]
    rintro _ ⟨k, hk, rfl⟩
    exact hg k (by omega)
  have hbytes : ((List.range (1 + n)).map (head + ·)).flatMap (fun k => s.sqEntry r k) = bs := by
    rw [List.flatMap_map, hb]
  simp only [State.fetchFrom, hh, hn, hhead, ne_eq, not_true_eq_false, if_false, hall, hbytes, List.length_map, List.length_range,
    State.wr_ring]

/-- Which commands the packet fetched first spells (R67, R90). -/
theorem State.spells_iff_of_fetched {s : State} {i : Instr} {h : Hdr} {op : Nat} {fs : List (Nat × Nat × Nat)} {f : Fetched}
    {rest : List Fetched} (hp : packetFields i = some (h, op, fs)) (hf : (s.ring h.ring.val).fetched = f :: rest) :
    s.spells i = true ↔ f.op = op ∧ ∀ e ∈ fs, fieldN f.bytes e.1 e.2.1 = e.2.2 := by
  simp only [State.spells, hp, hf, Bool.and_eq_true, decide_eq_true_eq, List.all_eq_true]

/-- Settles O58: each field of the packet's layout reads back from its entries, and the places of the fields follow from the opcode, so
that the bytes fix header, opcode and parameters. -/
theorem packetEncoding : Obligations.PacketEncoding := by
  intro i h op failed fs s t hw hp hin hent hhead hgood hbytes hnone ht
  obtain ⟨-, hvals⟩ := packet_fits hw hp
  have hfirst : fieldN (s.sqEntry h.ring h.sq) 6 1 = h.entries := by
    have happ : s.sqEntry h.ring h.sq ++ (List.range h.entries).flatMap (fun k => s.sqEntry h.ring (h.sq + (k + 1))) = i.entryBytes := by
      rw [← hbytes, Nat.add_comm, List.range_succ_eq_map, List.flatMap_cons, List.flatMap_map]
      rfl
    rw [← count_entryBytes hw hp, ← happ, fieldN_append_left _ _ (by simp [State.sqEntry_length])]
  have hfetch := State.fetchFrom_of_good hhead (State.sqSize_of_count hhead hfirst hent) hgood hbytes
  rw [parseHdr_entryBytes hw hp, opcode_entryBytes hp, hnone, List.nil_append, ← ht] at hfetch
  have hfetched : (t.ring h.ring.val).fetched = [⟨h, op, i.entryBytes⟩] := by
    rw [hfetch, State.ring_setRing_self]
  have hmoved : t.rd (R.RING_SQ_HEAD_HEAD (Node.ring h.ring).base) = (h.sq + 1 + h.entries) % s.entries h.ring := by
    have hlt : (h.sq + (1 + h.entries)) % s.entries h.ring < 2 ^ 16 :=
      (Nat.mod_lt _ (s.entries_pos h.ring)).trans_le (s.entries_le h.ring)
    rw [hfetch, State.setRing_rd, State.rd_wr_self, Nat.add_assoc]
    exact Nat.mod_eq_of_lt hlt
  have hreads : ∀ e ∈ fs, fieldN i.entryBytes e.1 e.2.1 = e.2.2 := fun e he =>
    fieldN_entryBytes hp (List.mem_append_right _ he) (hin e he) (hvals e he)
  refine ⟨hfetched, hmoved, (State.spells_iff_of_fetched hp hfetched).mpr ⟨rfl, hreads⟩, fun j gs op' hj hspell => ?_⟩
  obtain ⟨rfl, hreads'⟩ := (State.spells_iff_of_fetched hj hfetched).mp hspell
  obtain ⟨-, hplaces, -⟩ := packetFields_layout hp
  obtain ⟨-, hplaces', -⟩ := packetFields_layout hj
  exact ⟨rfl, fields_eq_of_read (hplaces'.trans hplaces.symm) hreads hreads'⟩

end Sys2Proof.Machine
end

section
/-!
SUPPORT. What an access of the host to BAR0 does where it reaches the registers (R14 to R17, R40).
-/

namespace Sys2Proof.Machine

section
variable {s : State} {dw inc : Nat} {be : BitVec 4} {r : Hit}

theorem State.barRead_reaches (hr : s.HostReaches) (i : Instr) : s.barRead dw be inc i = s.readNow dw be inc := by
  have hs : s.hlth.shutdown = false := hr.2.1
  simp [State.barRead, hs, State.hostAt_reaches hr]

theorem State.barWrite_reaches (hr : s.HostReaches) (v : Nat) (i : Instr) : s.barWrite dw be v i = s.writeNow dw be v :=
  State.hostAt_reaches hr _ i _

/-- An offset lies in a node's registers proper: not in the granary window, the MSI-X table or the gap of a node's header (R28, R39). -/
def plainOffset (off : Nat) : Prop := granAt off = false ∧ msixAt off = false ∧ headerGap off = false

theorem State.writeNow_hit (hp : plainOffset (4 * dw)) (ha : regAt (4 * dw) = some r) (v : Nat) :
    s.writeNow dw 15#4 v = s.writeWord r dw v := by
  obtain ⟨hg, hm, hh⟩ := hp
  simp [State.writeNow, hg, hm, hh, ha]

theorem State.writeNow_unmapped (hp : plainOffset (4 * dw)) (ha : regAt (4 * dw) = none) (v : Nat) :
    s.writeNow dw 15#4 v = s.access (Node.ofOffset (4 * dw)) := by
  obtain ⟨hg, hm, hh⟩ := hp
  simp [State.writeNow, hg, hm, hh, ha]

theorem State.readNow_hit (hp : plainOffset (4 * dw)) (ha : regAt (4 * dw) = some r) (hx : 4 * dw ≠ 0xF00068) :
    s.readNow dw be inc = ((s.capture r dw).readClear r inc).put (.bar0 (4 * dw) (maskBytes be (s.readVal r dw))) := by
  obtain ⟨hg, hm, hh⟩ := hp
  simp [State.readNow, hg, hm, hh, ha, hx]

theorem State.readNow_unmapped (hp : plainOffset (4 * dw)) (ha : regAt (4 * dw) = none) :
    s.readNow dw be inc = (s.access (Node.ofOffset (4 * dw))).put (.bar0 (4 * dw) 0) := by
  obtain ⟨hg, hm, hh⟩ := hp
  simp [State.readNow, hg, hm, hh, ha]

/-- SEC_AUDIT_INDEX stands at its offset in the map of registers (R589). -/
theorem regAt_auditIndex : plainOffset (4 * (0xF00068 / 4)) ∧ (regAt (4 * (0xF00068 / 4))).isSome = true := by
  unfold plainOffset
  decide

theorem State.readNow_auditIndex :
    s.readNow (0xF00068 / 4) be inc = s.readAuditIndex.put (.bar0 0xF00068 (maskBytes be (s.auditIndex % 2 ^ 32))) := by
  obtain ⟨⟨hg, hm, hh⟩, ha⟩ := regAt_auditIndex
  obtain ⟨r, ha⟩ := Option.isSome_iff_exists.mp ha
  simp only [State.readNow, hg, hm, hh, ha]
  rfl

/-! Words of registers. -/

theorem State.writeWord_single (hw : r.reg.words = 1) (v : Nat) :
    s.writeWord r dw v = s.writeReg r (32 * r.word) 32 (v * 2 ^ (32 * r.word)) := by
  simp [State.writeWord, hw]

theorem State.writeWord_high (hw : r.reg.words = 2) (h1 : r.word = 1) (v : Nat) :
    s.writeWord r dw v =
      if s.writeGated r (r.reg.off + r.reg.stride * r.idx) then s.access r.node
      else { s with staged := tset none s.staged dw (some v) } := by
  simp [State.writeWord, hw, h1]

theorem State.writeWord_low {hi : Nat} (hw : r.reg.words = 2) (h0 : r.word = 0) (hs : tget none s.staged (dw + 1) = some hi) (v : Nat) :
    s.writeWord r dw v =
      State.writeReg { s with staged := tset none s.staged (dw + 1) none } r 0 64 (hi * 2 ^ 32 + v) := by
  simp [State.writeWord, hw, h0, hs]

theorem State.writeReg_stores {lo w val : Nat} (hf : s.writeRefused r (r.reg.off + r.reg.stride * r.idx) val = false)
    (ha : s.writeAct r (r.reg.off + r.reg.stride * r.idx) val = none) : s.writeReg r lo w val = s.writeFields r lo w val := by
  simp [State.writeReg, hf, ha]

theorem State.writeReg_refused {lo w val : Nat} (hf : s.writeRefused r (r.reg.off + r.reg.stride * r.idx) val = true) :
    s.writeReg r lo w val = s.access r.node := by
  simp [State.writeReg, hf]

/-- A word without RC fields is left as it is by its read (R23). -/
theorem State.readClear_of_noRc (hc : r.wordFields.filter (fun f => decide (f.ty = .rc)) = []) : s.readClear r inc = s := by
  simp [State.readClear, hc]

theorem State.capture_single (hw : r.reg.words = 1) : s.capture r dw = s := by
  simp [State.capture, hw]

theorem State.capture_low (h0 : r.word = 0) (hw : r.reg.words = 2) :
    s.capture r dw = { s with captured := tset none s.captured (dw + 1) (some (s.wordView { r with word := 1 })) } := by
  simp [State.capture, h0, hw]

theorem State.capture_high (h1 : r.word = 1) : s.capture r dw = s := by
  simp [State.capture, h1]

theorem State.readVal_low (h0 : r.word = 0) : s.readVal r dw = s.wordView r := by
  simp [State.readVal, h0]

theorem State.readVal_high {c : Nat} (h1 : r.word = 1) (hc : tget none s.captured dw = some c) : s.readVal r dw = c := by
  simp [State.readVal, h1, hc]

/-! The commands. -/

theorem exec_registerWrite_hit (hr : s.HostReaches) (hp : plainOffset (4 * dw)) (ha : regAt (4 * dw) = some r) (v : Word) :
    exec (.registerWrite dw 15#4 v) s = .next (s.writeWord r dw v.toNat) := by
  show Host.Outcome.next (s.barWrite dw 15#4 v.toNat _) = _
  rw [State.barWrite_reaches hr, State.writeNow_hit hp ha]

theorem exec_lowWordRead_hit (hr : s.HostReaches) (hp : plainOffset (4 * dw)) (ha : regAt (4 * dw) = some r) (hx : 4 * dw ≠ 0xF00068) :
    exec (.lowWordRead dw be) s = .next (((s.capture r dw).readClear r 0).put (.bar0 (4 * dw) (maskBytes be (s.readVal r dw)))) := by
  show Host.Outcome.next (s.barRead dw be 0 _) = _
  rw [State.barRead_reaches hr, State.readNow_hit hp ha hx]

theorem exec_rcFieldRead_hit (hr : s.HostReaches) (hp : plainOffset (4 * dw)) (ha : regAt (4 * dw) = some r) (hx : 4 * dw ≠ 0xF00068) :
    exec (.rcFieldRead dw inc) s = .next (((s.capture r dw).readClear r inc).put (.bar0 (4 * dw) (maskBytes 15#4 (s.readVal r dw)))) := by
  show Host.Outcome.next (s.barRead dw 15#4 inc _) = _
  rw [State.barRead_reaches hr, State.readNow_hit hp ha hx]

theorem exec_auditIndexRead_reaches (hr : s.HostReaches) :
    exec .auditIndexRead s = .next (s.readAuditIndex.put (.bar0 0xF00068 (maskBytes 15#4 (s.auditIndex % 2 ^ 32)))) := by
  show Host.Outcome.next (s.barRead (0xF00068 / 4) 15#4 0 _) = _
  rw [State.barRead_reaches hr, State.readNow_auditIndex]

theorem exec_unmappedWrite (hr : s.HostReaches) (hp : plainOffset (4 * dw)) (ha : regAt (4 * dw) = none) :
    exec (.unmappedAccess dw true) s = .next (s.access (Node.ofOffset (4 * dw))) := by
  show Host.Outcome.next (s.barWrite dw 15#4 0 _) = _
  rw [State.barWrite_reaches hr, State.writeNow_unmapped hp ha]

theorem exec_unmappedRead (hr : s.HostReaches) (hp : plainOffset (4 * dw)) (ha : regAt (4 * dw) = none) :
    exec (.unmappedAccess dw false) s = .next ((s.access (Node.ofOffset (4 * dw))).put (.bar0 (4 * dw) 0)) := by
  show Host.Outcome.next (s.barRead dw 15#4 0 _) = _
  rw [State.barRead_reaches hr, State.readNow_unmapped hp ha]

end

/-- Settles O21: one clause per kind of access. -/
theorem registerAccess : Obligations.RegisterAccess := by
  refine ⟨?store, ?discard, ?stage, ?stageGated, ?low, ?read, ?capture, ?high, ?rc, ?audit, ?unmappedWrite, ?unmappedRead⟩
  case store =>
    intro s dw v r hr hg hm hh ha hw hf hn
    rw [exec_registerWrite_hit hr ⟨hg, hm, hh⟩ ha, State.writeWord_single hw, State.writeReg_stores hf hn]
  case discard =>
    intro s dw v r hr hg hm hh ha hw hf
    rw [exec_registerWrite_hit hr ⟨hg, hm, hh⟩ ha, State.writeWord_single hw, State.writeReg_refused hf, State.access]
  case stage =>
    intro s dw v r hr hg hm hh ha hw h1 hgate
    rw [exec_registerWrite_hit hr ⟨hg, hm, hh⟩ ha, State.writeWord_high hw h1, hgate]
    rfl
  case stageGated =>
    intro s dw v r hr hg hm hh ha hw h1 hgate
    rw [exec_registerWrite_hit hr ⟨hg, hm, hh⟩ ha, State.writeWord_high hw h1, hgate]
    rfl
  case low =>
    intro s dw v r hi hr hg hm hh ha hw h0 hs
    rw [exec_registerWrite_hit hr ⟨hg, hm, hh⟩ ha, State.writeWord_low hw h0 hs]
  case read =>
    intro s dw be r hr hg hm hh hx ha h0 hw hc
    rw [exec_lowWordRead_hit hr ⟨hg, hm, hh⟩ ha hx, State.capture_single hw, State.readClear_of_noRc hc, State.readVal_low h0]
  case capture =>
    intro s dw be r hr hg hm hh hx ha h0 hw hc
    rw [exec_lowWordRead_hit hr ⟨hg, hm, hh⟩ ha hx, State.capture_low h0 hw, State.readClear_of_noRc hc, State.readVal_low h0]
  case high =>
    intro s dw be r c hr hg hm hh hx ha h1 hcap hc
    rw [exec_lowWordRead_hit hr ⟨hg, hm, hh⟩ ha hx, State.capture_high h1, State.readClear_of_noRc hc, State.readVal_high h1 hcap]
  case rc =>
    intro s dw inc r hr hg hm hh hx ha h0 hw
    rw [exec_rcFieldRead_hit hr ⟨hg, hm, hh⟩ ha hx, State.capture_single hw, State.readVal_low h0, State.readClear]
  case audit => exact fun s hr => exec_auditIndexRead_reaches hr
  case unmappedWrite => exact fun s dw hr hg hm hh ha => exec_unmappedWrite hr ⟨hg, hm, hh⟩ ha
  case unmappedRead => exact fun s dw hr hg hm hh ha => exec_unmappedRead hr ⟨hg, hm, hh⟩ ha

end Sys2Proof.Machine
end

section
/-!
SUPPORT. No command faults or is refused (R34, R92): every branch of every meaning ends in a next state.
-/

namespace Sys2Proof.Machine

theorem runsOn_next (t : State) : runsOn (.next t) = true := rfl

/-- An outcome with two branches runs on where both do. -/
theorem runsOn_ite {c : Prop} [Decidable c] {a b : Host.Outcome State Fault Refusal} (ha : runsOn a = true) (hb : runsOn b = true) :
    runsOn (if c then a else b) = true := by
  split <;> assumption

/-- What runs on answers a next state. -/
theorem exists_next_of_runsOn {o : Host.Outcome State Fault Refusal} (h : runsOn o = true) : ∃ t, o = .next t := by
  cases o with
  | next t => exact ⟨t, rfl⟩
  | fault r => cases h
  | refused r => cases h

/-! ## Meanings with branches of their own -/

theorem execIndexEdge_runsOn (z : ZEdge) (s : State) : runsOn (execIndexEdge z s) = true := by
  refine runsOn_ite rfl (runsOn_ite rfl ?_)
  split
  · rfl
  · exact runsOn_ite rfl rfl

theorem execFrameEnd_runsOn (cam : Fin 8) (how : Fin 3) (t : Nat) (s : State) : runsOn (execFrameEnd cam how t s) = true := by
  refine runsOn_ite rfl ?_
  dsimp only
  split
  · rfl
  · split
    · rfl
    · exact runsOn_ite rfl (runsOn_ite rfl rfl)
    · exact runsOn_ite rfl rfl

theorem execDelayReqInterval_runsOn (port : Fin 2) (t : Nat) (s : State) : runsOn (execDelayReqInterval port t s) = true := by
  refine runsOn_ite rfl (runsOn_ite rfl (runsOn_ite rfl ?_))
  split <;> rfl

theorem execPulseCommit_runsOn (out : Fin 8) (t : Nat) (s : State) : runsOn (execPulseCommit out t s) = true := by
  unfold execPulseCommit
  dsimp only
  split
  · rfl
  · exact runsOn_ite rfl rfl

theorem execPulseEnd_runsOn (out : Fin 8) (t : Nat) (s : State) : runsOn (execPulseEnd out t s) = true := by
  unfold execPulseEnd
  dsimp only
  split
  · rfl
  · exact runsOn_ite rfl rfl

theorem execHoldTimeout_runsOn (axis : Fin 8) (t : Nat) (s : State) : runsOn (execHoldTimeout axis t s) = true := by
  unfold execHoldTimeout
  dsimp only
  split
  · rfl
  · exact runsOn_ite rfl rfl

theorem execToken_runsOn (ctx : Fin 256) (line global t : Nat) (s : State) : runsOn (execToken ctx line global t s) = true := by
  refine runsOn_ite rfl (runsOn_ite rfl ?_)
  dsimp only
  split <;> rfl

theorem execAutomaticTakeover_runsOn (lane : Option (Fin 32)) (t : Nat) (s : State) : runsOn (execAutomaticTakeover lane t s) = true := by
  refine runsOn_ite rfl (runsOn_ite rfl ?_)
  cases lane with
  | none => exact runsOn_ite rfl rfl
  | some l => exact runsOn_ite rfl rfl

theorem execSecSramParity_runsOn (slot : Fin 4) (s : State) : runsOn (execSecSramParity slot s) = true := by
  unfold execSecSramParity
  dsimp only
  split <;> rfl

theorem execFaultDetected_runsOn (n : Node) (st : Status) (req resp slots : Nat) (s : State) :
    runsOn (execFaultDetected n st req resp slots s) = true := by
  unfold execFaultDetected
  split
  · rfl
  · rfl
  · rfl
  · exact runsOn_ite rfl rfl

/-! ## Every command -/

/-- The arms stand by the form of their meanings: a next state; conditions, each branch a next state; a case split under conditions. -/
theorem exec_runsOn (i : Instr) (s : State) : runsOn (exec i s) = true := by
  cases i with
  | registerWrite | lowWordRead | auditIndexRead | rcFieldRead | unmappedAccess | enable | quiesce | abort | abortComplete
  | reset | submissionDoorbell | completionDoorbell | ringResume | bar2Write | laneCtrlStart | laneRateWrite | comparePulseEnd
  | commit | tbSet | tbRate | comparatorTrip | inputEdge | inputAccepted | axAccelWrite | axDecelWrite | ageMonitor
  | hlthTallyClr | hostStopRequest | injectOneBit | injectTwoBits | injectPoison | secProg | powerOnReset | brownOut
  | testLogicReset | rootLoss | wake | sysCtrlWake | pcieReferenceLoss => exact runsOn_next _
  | drainComplete | drainTimeout | interruptCoalTimeout | fwFault | bar2Read | nop | sysState | unitQuery | ctxOpen | ctxStart
  | ctxStop | ctxClose | ctxQuery | unitQuiesce | unitAbort | reclaim | baleDecode | baleEncode | baleVerify | baleResume
  | baleDiscard | pageSubmit | nmapWrite | nmapRead | ncalWrite | threshLoad | levelSet | laneTrain | laneLatency | hubStatus
  | encConfig | synthSet | latchRead | divSet | camConfig | camGencp | stripeSet | statsRead | defectRead | calSeed | calAnchor
  | calProposals | calPolicy | memRetire | memRemap | memLogRead | ptpConfig | pulseSet | timeRead | axisStop | takeover
  | gleanRun | gleanPolicy | healthRead | tallyRead | thermalSet | fwUpdate | sealLoad | auditRead | keyRevoke | secSelfTest
  | thresherGrant | composeRow | swathCompute | lineCommit | nak | status | temp | align | train | blockLock | encoderSample
  | bissRead | compareCommit | cameraLine | memRequest | dramTrainingEnd | zeroFillEnd | sync | followUp | delayReq | delayResp
  | pdelayReq | pdelayResp | pdelayRespFollowUp | announce | frameDiscard | profileSegment | chopperCycle | heart | heartInterval
  | messageRetransmit | sensorScan | tallyFlush | headLifeUpdate | porNRelease | bootWatchdog | ready | sleepEntryDone | wakeDone
  | stepLost | yokeRoleTimeout =>
    exact runsOn_ite (runsOn_next _) (runsOn_next _)
  | creditWatchdog | layerSet | colourSet | siloCopy | compareSet | dmaCopy | axisMove | axisHome | axisSet | yokeRole
  | yokeResync | sliceFault | lineStartFire | ping | lockLoss | los | tuneCleanCount | trainTExpiry | laneTrafficResume
  | quadratureTransition | ssiRead | standstill | lissajousWindow | latchEdge | gpioMessage | camLaneUp | refresh
  | refreshRatePoll | eyeRecentre | impedanceCalibration | scrub | selfRefreshEntry | granaryRotation | syncInterval
  | syncReceiptTimeout | swathCrc | quickCheckEnd | mirror | axis | gleanTestStart | gleanTestEnd | coverageLate | headSensor
  | headEnableTimer | perstNRelease =>
    exact runsOn_ite (runsOn_next _) (runsOn_ite (runsOn_next _) (runsOn_next _))
  | announceInterval | linkChange | check | partnerDown | perstNLow =>
    exact runsOn_ite (runsOn_next _) (runsOn_ite (runsOn_next _) (runsOn_ite (runsOn_next _) (runsOn_next _)))
  | trainStateTimeout | announceReceiptTimeout =>
    exact runsOn_ite (runsOn_next _) (runsOn_ite (runsOn_next _) (runsOn_ite (runsOn_next _) (runsOn_ite (runsOn_next _) (runsOn_next _))))
  | packetFetch | shadowComplete | laneLatencyTimeout | berWindow | resendTimeout | gencpReply | gencpTimeout | bankMove
  | encConfigFaultWindowEnd | invalidBlock =>
    refine runsOn_ite rfl ?_
    split <;> rfl
  | sliceRotation | lineFired | record =>
    refine runsOn_ite rfl (runsOn_ite rfl ?_)
    split <;> rfl
  | calAnchorTimeout | agePromotion | result | cropStartTimeout | exposureEnd =>
    refine runsOn_ite rfl ?_
    split
    · rfl
    · exact runsOn_ite rfl rfl
  | gleanRelease =>
    refine runsOn_ite rfl ?_
    split
    · exact runsOn_ite rfl rfl
    · rfl
  | tapRequestRetry =>
    refine runsOn_ite rfl ?_
    split
    · rfl
    · exact runsOn_ite rfl (runsOn_ite rfl rfl)
  | indexEdge z => exact execIndexEdge_runsOn z s
  | frameEnd cam how t => exact execFrameEnd_runsOn cam how t s
  | delayReqInterval port t => exact execDelayReqInterval_runsOn port t s
  | pulseCommit out t => exact execPulseCommit_runsOn out t s
  | pulseEnd out t => exact execPulseEnd_runsOn out t s
  | holdTimeout axis t => exact execHoldTimeout_runsOn axis t s
  | token ctx line global t => exact execToken_runsOn ctx line global t s
  | automaticTakeover lane t => exact execAutomaticTakeover_runsOn lane t s
  | secSramParity slot => exact execSecSramParity_runsOn slot s
  | faultDetected n st req resp slots => exact execFaultDetected_runsOn n st req resp slots s

/-- Settles O54: an empty queue idles, and `exec_runsOn` says that the front command runs on. -/
theorem nothingStops : Obligations.NothingStops := by
  intro s
  cases hq : s.pending with
  | nil => exact ⟨_, step_of_pending_nil hq⟩
  | cons i rest =>
    rw [step_of_pending_cons hq]
    exact exists_next_of_runsOn (exec_runsOn i _)

end Sys2Proof.Machine
end

section
/-!
SUPPORT. What one count does (R52, R53): to the counter, to its overflow flag, to the events of its node, and what it leaves unchanged.
-/

namespace Sys2Proof.Machine

/-! ## Events -/

theorem State.own_latchEvent_same (s : State) (n : Node) (b : Nat) : (s.latchEvent n b).own n = s.own n ||| 2 ^ b :=
  tget_tset_self _ _ _

theorem State.own_latchEvent_other (s : State) {m n : Node} (b : Nat) (h : m ≠ n) : (s.latchEvent n b).own m = s.own m :=
  tget_tset_ne _ _ fun e => h (Node.base_injective e.symm)

/-! ## The three outcomes of a count -/

section
variable {s : State} {cnt ovf : FRef} {n : Node} {k : Nat}

/-- Nothing is lost: the counter goes up. -/
theorem State.countRaw_fits (h : s.rd cnt + k < 2 ^ cnt.width) : s.countRaw cnt ovf n k = s.wr cnt (s.rd cnt + k) := by
  simp [State.countRaw, h]

/-- Counts are lost where the flag is already set. -/
theorem State.countRaw_lost_again (hk : cnt.key ≠ ovf.key) (h : 2 ^ cnt.width ≤ s.rd cnt + k) (hf : s.flag ovf = true) :
    s.countRaw cnt ovf n k = s.wr cnt (2 ^ cnt.width - 1) := by
  have hf' : (s.wr cnt (2 ^ cnt.width - 1)).flag ovf = true := by rw [State.flag, State.rd_wr_ne _ _ hk]; exact hf
  simp [State.countRaw, Nat.not_lt.mpr h, hf']

/-- Counts are lost for the first time: the flag goes to 1, and the event is latched. -/
theorem State.countRaw_lost_first (hk : cnt.key ≠ ovf.key) (h : 2 ^ cnt.width ≤ s.rd cnt + k) (hf : s.flag ovf = false) :
    s.countRaw cnt ovf n k = ((s.wr cnt (2 ^ cnt.width - 1)).wr ovf 1).latchEvent n 3 := by
  have hf' : (s.wr cnt (2 ^ cnt.width - 1)).flag ovf = false := by rw [State.flag, State.rd_wr_ne _ _ hk]; exact hf
  simp [State.countRaw, Nat.not_lt.mpr h, hf']

/-- `State.count` is `State.countRaw`, and the report of the event that the first loss latches (R53). -/
theorem State.count_eq (hk : cnt.key ≠ ovf.key) :
    s.count cnt ovf n k =
      if s.flag ovf = false ∧ 2 ^ cnt.width ≤ s.rd cnt + k then (s.countRaw cnt ovf n k).settle else s.countRaw cnt ovf n k := by
  have hf : (s.wr cnt (2 ^ cnt.width - 1)).flag ovf = s.flag ovf := by rw [State.flag, State.rd_wr_ne _ _ hk]; rfl
  by_cases h : s.rd cnt + k < 2 ^ cnt.width
  · simp [State.count, State.countRaw, h]
  · cases ho : s.flag ovf <;> simp [State.count, State.countRaw, State.raise, h, hf, ho, Nat.not_lt.mp h]

end

/-- Settles O55: nothing is lost, or counts are lost again, or counts are lost for the first time; the report is `State.count_eq`. -/
theorem countersSaturate : Obligations.CountersSaturate := by
  intro s u cnt ovf n k hk hw hlt hu
  have hmax : (2 ^ cnt.width - 1) % 2 ^ cnt.width = 2 ^ cnt.width - 1 := Nat.mod_eq_of_lt (Nat.sub_lt (Nat.two_pow_pos _) Nat.one_pos)
  have hone : 1 % 2 ^ ovf.width = 1 := Nat.mod_eq_of_lt (Nat.one_lt_two_pow hw.ne')
  have hkeep (v : Nat) (f : FRef) (hf : f.key ≠ cnt.key) : (s.wr cnt v).rd f = s.rd f := State.rd_wr_ne s v hf.symm
  have hflag (v : Nat) : (s.wr cnt v).flag ovf = s.flag ovf := by rw [State.flag, hkeep v ovf hk.symm, State.flag]
  have hcount := hu ▸ State.count_eq (s := s) (n := n) (k := k) hk
  rcases Nat.lt_or_ge (s.rd cnt + k) (2 ^ cnt.width) with h | h
  · rw [State.countRaw_fits h] at hu
    subst hu
    refine ⟨?_, ?_, ?_, fun m hm => rfl, fun f hc ho => hkeep _ f hc, hcount⟩
    · rw [State.rd_wr_self, Nat.mod_eq_of_lt h]; omega
    · simp [hflag, h]
    · simp [h]
  cases hf : s.flag ovf with
  | true =>
    rw [State.countRaw_lost_again hk h hf] at hu
    subst hu
    refine ⟨?_, ?_, ?_, fun m hm => rfl, fun f hc ho => hkeep _ f hc, hf ▸ hcount⟩
    · rw [State.rd_wr_self, hmax]; omega
    · simp [hflag, hf]
    · simp
  | false =>
    rw [State.countRaw_lost_first hk h hf] at hu
    subst hu
    refine ⟨?_, ?_, ?_, fun m hm => State.own_latchEvent_other _ _ hm, ?_, hf ▸ hcount⟩
    · rw [State.latchEvent_rd, State.rd_wr_ne _ _ hk.symm, State.rd_wr_self, hmax]; omega
    · simp [State.flag, hone, h]
    · simp [State.own_latchEvent_same, h]
    · intro f hc ho
      rw [State.latchEvent_rd, State.rd_wr_ne _ _ ho.symm, hkeep _ f hc]

end Sys2Proof.Machine
end

section
/-!
SUPPORT. What the host's writes to `UNIT_CTRL` of a node do (R33 to R36, R93, R94, R97, R549, R596, R608).
-/

namespace Sys2Proof.Machine

section
variable {s : State} {n : Node} {on : Bool}

/-! ## `ENABLE` and `QUIESCE` -/

theorem State.ctrlEnable_subtree (hm : s.mode n ≠ .faulted) (hs : n ≠ .sys) (hd : on = false → s.noDrain n = false) :
    s.ctrlEnable n on = n.subtree.foldl (State.writeEnable · on) s := by
  have hd' : ¬ ((!on) = true ∧ s.noDrain n = true) := by
    rintro ⟨h0, h1⟩
    rw [hd (by simpa using h0)] at h1
    cases h1
  rw [State.ctrlEnable, if_neg hm, if_neg hs, if_neg hd']

theorem State.ctrlEnable_sys (hm : s.mode .sys ≠ .faulted) : s.ctrlEnable .sys on = s.wrB (R.UNIT_CTRL_ENABLE 0) on := by
  rw [State.ctrlEnable, if_neg hm, if_pos rfl]

theorem State.ctrlEnable_faulted (hm : s.mode n = .faulted) : s.ctrlEnable n on = s.access n := by
  rw [State.ctrlEnable, if_pos hm]

/-- A write that would start a drain of a node without one is discarded, faulted or not (R97). -/
theorem State.ctrlEnable_noDrain (hs : n ≠ .sys) (hd : s.noDrain n = true) : s.ctrlEnable n false = s.access n := by
  simp [State.ctrlEnable, hs, hd]

theorem State.ctrlQuiesce_subtree (hm : s.mode n ≠ .faulted) (hs : n ≠ .sys) (hd : on = false ∨ s.noDrain n = false) :
    s.ctrlQuiesce n on = n.subtree.foldl (State.writeQuiesce · on) s := by
  have hd' : ¬ (s.mode n = .faulted ∨ (on = true ∧ s.noDrain n = true)) := by
    rintro (h | ⟨h0, h1⟩)
    · exact hm h
    · rcases hd with hd | hd
      · exact absurd h0 (by simp [hd])
      · exact absurd h1 (by simp [hd])
  rw [State.ctrlQuiesce, if_neg hd', if_neg hs]

theorem State.ctrlQuiesce_refused (h : s.mode n = .faulted ∨ (on = true ∧ s.noDrain n = true)) : s.ctrlQuiesce n on = s.access n := by
  rw [State.ctrlQuiesce, if_pos h]

/-- SYS never drains (R97), so that `QUIESCE` of SYS is at most cleared, which leaves all as it is. -/
theorem State.ctrlQuiesce_sys (hm : s.mode .sys ≠ .faulted) (hd : on = true → s.noDrain .sys = false) : s.ctrlQuiesce .sys on = s := by
  have hd' : ¬ (s.mode .sys = .faulted ∨ (on = true ∧ s.noDrain .sys = true)) := by
    rintro (h | ⟨h0, h1⟩)
    · exact hm h
    · exact absurd h1 (by simp [hd h0])
  rw [State.ctrlQuiesce, if_neg hd', if_pos rfl]

/-! ## `ABORT` -/

theorem State.abortRefused_eq_true : s.abortRefused n = true ↔ s.mode n = .faulted ∨ n = .sys ∨ n = .hlth ∨ n = .mem :=
  decide_eq_true_iff

/-- A node that is not FAULTED and is none of SYS, HLTH and MEM may be aborted (R34, R97). -/
theorem State.abortRefused_eq_false (hm : s.mode n ≠ .faulted) (hs : n ≠ .sys) (hh : n ≠ .hlth) (he : n ≠ .mem) :
    s.abortRefused n = false := by
  simp [State.abortRefused, hm, hs, hh, he]

/-! ## `RESET` -/

theorem State.ctrlReset_unit (b : BootIn) (hs : n ≠ .sys) (hc : n ≠ .cmd) (hh : n ≠ .hlth) (he : n ≠ .sec) :
    s.ctrlReset n b = s.afterTest (s.resetNodes n) := by
  unfold State.ctrlReset
  split
  · exact absurd rfl hs
  · exact absurd rfl hc
  · exact absurd rfl hh
  · exact absurd rfl he
  · rfl

/-! ## The commands -/

theorem exec_enable_reaches (hr : s.HostReaches) : exec (.enable n on) s = .next (s.ctrlEnable n on) :=
  congrArg Host.Outcome.next (State.hostAccess_reaches hr _ _ _)

theorem exec_quiesce_reaches (hr : s.HostReaches) : exec (.quiesce n on) s = .next (s.ctrlQuiesce n on) :=
  congrArg Host.Outcome.next (State.hostAccess_reaches hr _ _ _)

theorem exec_abort_reaches (hr : s.HostReaches) : exec (.abort n) s = .next (s.ctrlAbort n) :=
  congrArg Host.Outcome.next (State.hostAccess_reaches hr _ _ _)

theorem exec_reset_reaches (hr : s.HostReaches) (b : BootIn) : exec (.reset n b) s = .next (s.ctrlReset n b) :=
  congrArg Host.Outcome.next (State.hostAccess_reaches hr _ _ _)

end

/-- Settles O22: where the host reaches the registers each command is the write of its bit, and each clause is a case of that write. -/
theorem unitControl : Obligations.UnitControl := by
  refine ⟨?enable, ?enableSys, ?enableFaulted, ?enableNoDrain, ?quiesce, ?quiesceRefused, ?quiesceSys, ?abort, ?abortRefused,
    ?resetSys, ?resetCmd, ?resetHlth, ?resetSec, ?reset⟩
  case enable =>
    intro s n on hr hm hs hd
    rw [exec_enable_reaches hr, State.ctrlEnable_subtree hm hs hd]
  case enableSys =>
    intro s on hr hm
    rw [exec_enable_reaches hr, State.ctrlEnable_sys hm]
  case enableFaulted =>
    intro s n on hr hm
    rw [exec_enable_reaches hr, State.ctrlEnable_faulted hm, State.access]
  case enableNoDrain =>
    intro s n hr hs hd
    rw [exec_enable_reaches hr, State.ctrlEnable_noDrain hs hd, State.access]
  case quiesce =>
    intro s n on hr hm hs hd
    rw [exec_quiesce_reaches hr, State.ctrlQuiesce_subtree hm hs hd]
  case quiesceRefused =>
    intro s n on hr h
    rw [exec_quiesce_reaches hr, State.ctrlQuiesce_refused h, State.access]
  case quiesceSys =>
    intro s on hr hm hd
    rw [exec_quiesce_reaches hr, State.ctrlQuiesce_sys hm hd]
  case abort =>
    intro s n hr hm hs hh he
    rw [exec_abort_reaches hr, State.ctrlAbort, State.abortRefused_eq_false hm hs hh he]
    rfl
  case abortRefused =>
    intro s n hr h
    rw [exec_abort_reaches hr, State.ctrlAbort, if_pos (State.abortRefused_eq_true.mpr h), State.access]
  case resetSys => exact fun s b hr => exec_reset_reaches hr b
  case resetCmd => exact fun s b hr => exec_reset_reaches hr b
  case resetHlth => exact fun s b hr => exec_reset_reaches hr b
  case resetSec => exact fun s b hr => exec_reset_reaches hr b
  case reset =>
    intro s n b hr hs hc hh he
    rw [exec_reset_reaches hr, State.ctrlReset_unit b hs hc hh he]

end Sys2Proof.Machine
end

section
/-!
SUPPORT. The packets about the device state and about nodes, where they are taken and nothing refuses them (R34, R93 to R100, R614).
-/

namespace Sys2Proof.Machine

section
variable {s : State} {h : Hdr} {n : Node}

/-- A unit that accepts work refuses by its own conditions alone. -/
theorem firstFail_rank0 {unit : Node} {own : List (Bool × Status)} (ha : s.accepts unit = true) :
    firstFail (rank0 s unit false false own) = firstFail own := by
  simp [rank0, ha]

/-- A packet command that is taken and that its unit does not refuse has its effect on the state in which it is in progress. -/
theorem State.packet_outcome {i : Instr} {o : OpInfo} {chk : State → List (Bool × Status)} {eff : Pk → State → State} (ht : s.Takes i o h)
    (hc : firstFail (chk (s.begun o h)) = none) :
    (if !s.spells i then Host.Outcome.next s else .next (s.packet o h chk eff) : Host.Outcome State Fault Refusal) =
      .next (eff (s.asPk o h) (s.begun o h)) := by
  obtain ⟨hs, hm, hf⟩ := ht
  rw [hs, State.packet, State.packetR, State.packetW_runs hm hf hc]
  rfl

/-- `SYS_STATE` to a state that the device may enter (R614 to R616): it completes first where it enters SLEEP. -/
theorem exec_sysState_runs {target v : Nat} (ht : s.Takes (.sysState h target) opSysState h) (hv : s.newState target = some v)
    (hb : target ≤ 2) :
    exec (.sysState h target) s = .next
      (if v = devSleep then ((s.begun opSysState h).complete (s.asPk opSysState h) .ok [v]).enterDev v
       else ((s.begun opSysState h).enterDev v).complete (s.asPk opSysState h) .ok [v]) := by
  have hv' : (s.begun opSysState h).newState target = some v := hv
  refine (State.packet_outcome ht ?_).trans ?_
  · simp [hv', Nat.not_lt.mpr hb]
  · simp [hv']

/-- `UNIT_ABORT` of a node that an abort acts on (R34, R96, R97). -/
theorem exec_unitAbort_runs (ht : s.Takes (.unitAbort h n.base) opUnitAbort h) (ha : s.accepts .cmd = true)
    (hr : s.abortRefused n = false) :
    exec (.unitAbort h n.base) s = .next
      ((n.subtree.foldl State.abortEnds ((s.begun opUnitAbort h).afterTest (n.subtree.foldl State.writeAbort (s.begun opUnitAbort h)))).complete
        (s.asPk opUnitAbort h) .ok [(s.begun opUnitAbort h).work n]) := by
  have ha' : (s.begun opUnitAbort h).accepts .cmd = true := ha
  have hr' : (s.begun opUnitAbort h).abortRefused n = false := hr
  refine (State.packet_outcome ht ?_).trans ?_
  · simp [firstFail_rank0 ha', hr']
  · simp

/-- `RECLAIM` of a FAULTED node (R100). -/
theorem exec_reclaim_runs (ht : s.Takes (.reclaim h n.base) opReclaim h) (ha : s.accepts .cmd = true) (hn : s.mode n = .faulted) :
    exec (.reclaim h n.base) s = .next (((s.begun opReclaim h).reclaim n).complete (s.asPk opReclaim h) .ok
      [(s.holding n).req, (s.holding n).resp, (s.holding n).slots, (s.holding n).pks.length]) := by
  have ha' : (s.begun opReclaim h).accepts .cmd = true := ha
  have hn' : (s.begun opReclaim h).mode n = .faulted := hn
  have hx : (s.begun opReclaim h).holding n = s.holding n := rfl
  refine (State.packet_outcome ht ?_).trans ?_
  · simp [firstFail_rank0 ha', hn']
  · simp [hx]

/-- `UNIT_QUIESCE` of a node that may drain (R34, R93): the packet waits, and completes at once where nothing drains. -/
theorem exec_unitQuiesce_runs {flags : Nat} {b t : State} (ht : s.Takes (.unitQuiesce h n.base flags) opUnitQuiesce h)
    (ha : s.accepts .cmd = true) (hn : s.mode n ≠ .faulted) (hd : s.noDrain n = false)
    (hb : b = { s.begun opUnitQuiesce h with
      drains := s.drains ++ [⟨n, s.asPk opUnitQuiesce h, s.now, (s.begun opUnitQuiesce h).work n⟩] })
    (hw : t = if bit flags 0 then n.subtree.foldl (State.writeQuiesce · true) b else n.subtree.foldl (State.writeEnable · false) b) :
    exec (.unitQuiesce h n.base flags) s = .next (if t.mode n = .draining ∨ t.mode n = .testing then t else t.endDrainWaits n .ok 0) := by
  have ha' : (s.begun opUnitQuiesce h).accepts .cmd = true := ha
  have hn' : (s.begun opUnitQuiesce h).mode n ≠ .faulted := hn
  have hd' : (s.begun opUnitQuiesce h).noDrain n = false := hd
  refine (State.packet_outcome ht ?_).trans ?_
  · simp [firstFail_rank0 ha', hn', hd']
  · rw [Node.atBase_base, Option.getD_some, hw, hb]
    rfl

end

/-- Settles O4: one clause per packet, `SYS_STATE` by whether it completes before or after. -/
theorem deviceStates : Obligations.DeviceStates := by
  refine ⟨?state, ?sleep, ?abort, ?reclaim, ?quiesce⟩
  case state =>
    intro s h target v ht hv hb hne
    rw [exec_sysState_runs ht hv hb, if_neg hne]
  case sleep =>
    intro s h target ht hv hb
    rw [exec_sysState_runs ht hv hb, if_pos rfl]
  case abort =>
    intro s h n ht ha hm ⟨hs, hh, he⟩
    rw [exec_unitAbort_runs ht ha (State.abortRefused_eq_false hm hs hh he)]
    rfl
  case reclaim => exact fun s h n => exec_reclaim_runs
  case quiesce => exact fun s h n flags b t => exec_unitQuiesce_runs

end Sys2Proof.Machine
end

section
/-!
SUPPORT. What a unit's own fault, the credit watchdog and a fault of the command processor do (R34, R72, R98 to R100).
-/

namespace Sys2Proof.Machine

section
variable {s : State} {n : Node}

/-- A node that is not FAULTED and, where it is in no other mode, is enabled finds its fault (R34); SYS, CMD and the slices have their own
faults. -/
theorem exec_faultDetected_runs (st : Status) (req resp slots : Nat) (hs : n ≠ .sys) (hc : n ≠ .cmd) (hk : ∀ k, n ≠ .slice k)
    (hm : s.mode n ≠ .faulted) (he : s.mode n = .normal → s.enabled n = true) {q : State}
    (hq : q = match s.gl.test with | some (m, _) => (if m = n then s.breakTest else s) | none => s) :
    exec (.faultDetected n st req resp slots) s =
      .next (s.afterTest (((q.dropWork n st req resp slots).faultNode n st).endDrainWaits n .drainTimeout (q.work n))) := by
  have hrun : ¬ (s.mode n = .faulted ∨ ((!s.enabled n) = true ∧ s.mode n = .normal)) := by
    rintro (h | ⟨h0, h1⟩)
    · exact hm h
    · exact absurd h0 (by simp [he h1])
  show execFaultDetected n st req resp slots s = _
  unfold execFaultDetected
  split
  · exact absurd rfl hs
  · exact absurd rfl hc
  · exact absurd rfl (hk _)
  · subst hq
    exact if_neg hrun

/-- The watchdog takes back what a FAULTED node holds (R98, R100). -/
theorem exec_creditWatchdog_faulted (hc : s.clocked = true) (hs : n ≠ .sys) (hm : s.mode n = .faulted) (hx : s.holding n ≠ {}) :
    exec (.creditWatchdog n) s =
      .next (s.afterTest (((s.reclaim n).count R.CMD_WDOG_FIRES R.CMD_WDOG_FIRES_OVF .cmd 1).raise .cmd 17)) := by
  show execCreditWatchdog n s = _
  simp [execCreditWatchdog, hc, hs, hm, hx]

/-- The watchdog faults a node that is not FAULTED, and takes back what it then holds (R99). -/
theorem exec_creditWatchdog_faults {t : State} (hc : s.clocked = true) (hs : n ≠ .sys) (hm : s.mode n ≠ .faulted)
    (he : s.enabled n = true)
    (ht : t = ((if n = .cmd then s.dropCmd else s.dropWork n .creditTimeout 0 0 0).faultNode n .creditTimeout).endDrainWaits n
      .drainTimeout (s.work n)) :
    exec (.creditWatchdog n) s =
      .next (s.afterTest (((t.reclaim n).count R.CMD_WDOG_FIRES R.CMD_WDOG_FIRES_OVF .cmd 1).raise .cmd 17)) := by
  show execCreditWatchdog n s = _
  simp [execCreditWatchdog, hc, hs, hm, he, ht]

/-- The command processor faults where it is enabled and not FAULTED (R72). -/
theorem exec_fwFault_runs {t : State} (hm : s.mode .cmd ≠ .faulted) (he : s.enabled .cmd = true)
    (ht : t = s.rings.foldl (fun (q : State) e => q.setRing e.1 { (q.ring e.1) with fetched := [], started := [], held := [] }) s) :
    exec .fwFault s = .next (State.faultNode { (t.setMode .cmd .normal) with pkEpoch := t.pkEpoch + 1 } .cmd .fwFault) := by
  have hrun : ¬ (s.mode .cmd = .faulted ∨ (!s.enabled .cmd) = true) := by simp [hm, he]
  show execFwFault s = _
  rw [execFwFault, if_neg hrun, ht]

end

/-- Settles O24: one clause per command, `CREDIT_WATCHDOG` by whether the node is FAULTED already. -/
theorem unitFaults : Obligations.UnitFaults := by
  refine ⟨?detected, ?watchdog, ?watchdogFaults, ?firmware⟩
  case detected => exact fun s n st req resp slots q hs hc hk hm he hq => exec_faultDetected_runs st req resp slots hs hc hk hm he hq
  case watchdog => exact fun s n hc hs hm hx => exec_creditWatchdog_faulted hc hs hm hx
  case watchdogFaults => exact fun s n t hc hs hm he ht => exec_creditWatchdog_faults hc hs hm he ht
  case firmware => exact fun s t hm he ht => exec_fwFault_runs hm he ht

end Sys2Proof.Machine
end

section
/-!
SUPPORT. Resets from the pins, lost clocks and the end of the boot (R42, R573, R605 to R611).
-/

namespace Sys2Proof.Machine

section
variable {s : State}

/-- `POR_N` goes high: the boot of a device that it held in reset (R610). -/
theorem exec_porNRelease_runs (b : BootIn) (h : s.sysr.porLow = true) :
    exec (.porNRelease b) s = .next (State.release { s with sysr := { s.sysr with porLow := false } } b) :=
  if_pos h

/-- `PERST_N` goes low: while `POR_N` is low the full reset goes on; else the scope of the board record decides (R608, R609). -/
theorem exec_perstNLow_runs (h : s.sysr.perstLow = false) :
    exec .perstNLow s =
      let u := { s with sysr := { s.sysr with perstLow := true, perstFull := s.sysr.porLow } }
      if s.sysr.porLow then .next u else if s.flag R.SYS_BOARD_PERST_SCOPE then .next u.linkReset else .next (u.fullReset 1) :=
  if_neg (by simp [h])

/-- `PERST_N` goes high: the boot of the full reset, or the link comes up (R608, R610). -/
theorem exec_perstNRelease_runs (b : BootIn) (h : s.sysr.perstLow = true) :
    exec (.perstNRelease b) s =
      let u := { s with sysr := { s.sysr with perstLow := false, perstFull := false, refLost := false } }
      .next (if s.sysr.perstFull then u.release b else u.raise .sys 19) := by
  show execPerstNRelease b s = _
  cases hf : s.sysr.perstFull <;> simp [execPerstNRelease, h, hf]

end

/-- Settles O44: a command whose clause has no condition is the clause by definition; else the condition decides its branch. -/
theorem resetAndBoot : Obligations.ResetAndBoot := by
  refine ⟨?powerOn, ?brownOut, ?porRelease, ?perstHeld, ?perstLink, ?perstFull, ?perstRelease, ?testLogic, ?reference, ?root,
    ?watchdog, ?ready⟩
  case powerOn => exact fun s => rfl
  case brownOut => exact fun s => rfl
  case porRelease => exact fun s b h => exec_porNRelease_runs b h
  case perstHeld =>
    intro s hl hp
    rw [exec_perstNLow_runs hl]
    simp [hp]
  case perstLink =>
    intro s u hl hp hu hf
    rw [exec_perstNLow_runs hl, hu]
    simp [hp, hf]
  case perstFull =>
    intro s u hl hp hu hf
    rw [exec_perstNLow_runs hl, hu]
    simp [hp, hf]
  case perstRelease =>
    intro s u b hl hu
    rw [exec_perstNRelease_runs b hl, hu]
  case testLogic => exact fun s => rfl
  case reference => exact fun s => rfl
  case root =>
    intro s u t hu
    rw [hu]
    rfl
  case watchdog =>
    intro s b c h hc
    rw [hc]
    exact if_pos h
  case ready =>
    intro s u v t c hb hd hc hu hv
    subst hv hu hc
    exact if_neg (by simp [hb, hd])

end Sys2Proof.Machine
end

section
/-!
SUPPORT. Which memories a command leaves as they are (R68, R71, R389).
-/

namespace Sys2Proof.Machine

/-- A well-formed command leaves the memories that it has no reach into as they are. -/
theorem exec_spares {s t : State} {c : Instr} (hm : s.memWf = true) (hw : c.wf = true) (ht : exec c s = .next t) :
    (c.memoryReach.1 = false → t.host = s.host) ∧ (c.memoryReach.2 = false → t.dram = s.dram) := by
  obtain ⟨-, -, hh, hd⟩ := exec_kept c s hw (Kept_spared (Kept_self hm) _ _) t ht
  constructor
  · intro h
    simpa [spared, h, eq_comm] using hh
  · intro h
    simpa [spared, h, eq_comm] using hd

/-- Settles O60: the tables that `exec_spares` leaves as they are read as before at every address. -/
theorem memoryFrames : Obligations.MemoryFrames := by
  intro s t c hm hw ht
  obtain ⟨hhost, hdram⟩ := exec_spares hm hw ht
  exact ⟨fun h a => by rw [hhost h], fun h a => by rw [hdram h]⟩

end Sys2Proof.Machine
end

section
/-!
SUPPORT. What writing one completion does (R71, R73, R74): to host memory, to the tail of its ring, and what it leaves unchanged.
-/

namespace Sys2Proof.Machine

section
variable {s : State} {r : Fin 256} {c : Cpl}

theorem State.flag_wrB_self (s : State) {f : FRef} (v : Bool) (hf : 0 < f.width) : (s.wrB f v).flag f = v := by
  have hone : 1 % 2 ^ f.width = 1 := Nat.mod_eq_of_lt (Nat.one_lt_two_pow hf.ne')
  cases v <;> simp [State.flag, State.wrB, b2n, hone]

theorem State.ring_setRing_ne (s : State) {m n : Nat} (rt : RingRt) (h : n ≠ m) : (s.setRing m rt).ring n = s.ring n :=
  tget_tset_ne _ _ h.symm

/-- A ring's registers lie outside the pending bits of the MSI-X vectors. -/
theorem msixPending_key_ne_ring (v : Fin 256) (r : Fin 256) {f : FRef} (hf : (Node.ring r).base ≤ f.addr) : (msixPending v).key ≠ f.key := by
  have hb : 0x110400 ≤ (Node.ring r).base := Nat.le_add_right _ _
  simp only [msixPending, FRef.key]
  omega

/-- The address of the entry of its own completion ring that the tail names (R73). -/
def State.cqEntry (s : State) (r : Fin 256) : Nat :=
  4096 * s.rd (R.RING_CQ_BASE_ADDR (Node.ring r).base) + 64 * s.rd (R.RING_CQ_TAIL_TAIL (Node.ring r).base)

/-- The tail stands on the last entry of its ring. -/
def State.cqWraps (s : State) (r : Fin 256) : Bool := decide (s.entries r ≤ s.rd (R.RING_CQ_TAIL_TAIL (Node.ring r).base) + 1)

/-- The first part of `State.putCpl`: the entry is stored and the tail moved. -/
def State.cqMoved (s : State) (r : Fin 256) (c : Cpl) : State :=
  let b := (Node.ring r).base
  let phase := s.flag (R.RING_CQ_TAIL_PHASE b)
  ((s.hostWrite (s.cqEntry r) (cplBytes c phase false)).wr (R.RING_CQ_TAIL_TAIL b)
    (if s.cqWraps r then 0 else s.rd (R.RING_CQ_TAIL_TAIL b) + 1)).wrB (R.RING_CQ_TAIL_PHASE b) (if s.cqWraps r then !phase else phase)

/-- After that the completion is counted. -/
def State.cqStored (s : State) (r : Fin 256) (c : Cpl) : State :=
  (s.cqMoved r c).countRaw (R.RING_DONE_COUNT (Node.ring r).base) (R.RING_STATUS_DONE_OVF (Node.ring r).base) (.ring r) 1

/-- The last part of `State.putCpl`: the vector of a notifying completion, `n` of which were pending, is sent or waits (R76). -/
def State.cqNotify (s : State) (r : Fin 256) (c : Cpl) (n : Nat) : State :=
  if c.notify then
    if s.rd (R.RING_INT_COAL_COUNT (Node.ring r).base) ≤ n + 1 ∨ s.rd (R.RING_INT_COAL_TIME (Node.ring r).base) = 0 then
      (s.setRing r.val { s.ring r.val with pendingNotify := 0 }).sendMsix r.val
    else s
  else s

/-- The record of a ring with one completion more (R74, R76). -/
def RingRt.withCpl (rt : RingRt) (c : Cpl) (now : Nat) : RingRt :=
  { rt with used := rt.used + 1, pendingNotify := rt.pendingNotify + b2n c.notify,
            notifyAt := if c.notify && decide (rt.pendingNotify = 0) then now else rt.notifyAt }

/-- A completion of a ring that uses its own completion ring. -/
theorem State.putCpl_eq (hsh : s.shadowRing r = false) :
    s.putCpl r c = ((s.cqStored r c).setRing r.val (((s.cqStored r c).ring r.val).withCpl c (s.cqStored r c).now)).cqNotify r c
      ((s.cqStored r c).ring r.val).pendingNotify := by
  simp only [State.putCpl, hsh, State.cqStored, State.cqMoved, State.cqEntry, State.cqWraps]
  rfl

/-- A vector that is sent or waits leaves memories, registers and rings as they are, but for its pending bit and the pending completions
of its own ring. -/
theorem State.cqNotify_frame (s : State) (r : Fin 256) (c : Cpl) (n : Nat) :
    (s.cqNotify r c n).host = s.host ∧ (s.cqNotify r c n).dram = s.dram ∧
    (∀ f : FRef, (msixPending r).key ≠ f.key → (s.cqNotify r c n).rd f = s.rd f) ∧
    (∃ k, (s.cqNotify r c n).ring r.val = { s.ring r.val with pendingNotify := k }) ∧
    ∀ m, m ≠ r.val → (s.cqNotify r c n).ring m = s.ring m := by
  unfold State.cqNotify
  split
  · split
    · obtain ⟨⟨hh, hd, hr⟩, -, hrd⟩ := State.sendMsix_frame (s.setRing r.val { s.ring r.val with pendingNotify := 0 }) r.val
      have hring (m : Nat) := congrArg (fun t => tget ({} : RingRt) t m) hr
      exact ⟨hh, hd, hrd, ⟨0, (hring r.val).trans (State.ring_setRing_self _ _ _)⟩,
        fun m hm => (hring m).trans (State.ring_setRing_ne _ _ hm)⟩
    · exact ⟨rfl, rfl, fun f _ => rfl, ⟨_, rfl⟩, fun m _ => rfl⟩
  · exact ⟨rfl, rfl, fun f _ => rfl, ⟨_, rfl⟩, fun m _ => rfl⟩

/-- Counting a completion leaves the fields of RING_CQ_TAIL as they are. -/
theorem State.countRaw_done_rd {f : FRef} (ha : f.addr = (Node.ring r).base + 0x6C) (hlo : f.lo < 1024) :
    (s.countRaw (R.RING_DONE_COUNT (Node.ring r).base) (R.RING_STATUS_DONE_OVF (Node.ring r).base) (.ring r) 1).rd f = s.rd f := by
  obtain ⟨-, hrd⟩ := State.countRaw_frame s (R.RING_DONE_COUNT (Node.ring r).base) (R.RING_STATUS_DONE_OVF (Node.ring r).base) (.ring r) 1
  apply hrd <;> simp only [FRef.key, R.RING_DONE_COUNT, R.RING_STATUS_DONE_OVF, ha] <;> omega

/-- The entry is stored where the tail stands (R71, R73). -/
theorem State.cqStored_frame (hl : s.linkDown = false) :
    (s.cqStored r c).host = tsets 0#8 s.host (s.cqEntry r) (cplBytes c (s.flag (R.RING_CQ_TAIL_PHASE (Node.ring r).base)) false) ∧
    (s.cqStored r c).dram = s.dram ∧ (s.cqStored r c).rings = s.rings := by
  obtain ⟨⟨hh, hd, hr⟩, -⟩ :=
    State.countRaw_frame (s.cqMoved r c) (R.RING_DONE_COUNT (Node.ring r).base) (R.RING_STATUS_DONE_OVF (Node.ring r).base) (.ring r) 1
  refine ⟨hh.trans ?_, hd.trans ?_, hr.trans ?_⟩ <;> simp [State.cqMoved, State.wrB, State.hostWrite, hl]

/-- The tail moves to the next entry, or to the first one after the last (R73). -/
theorem State.cqStored_tail :
    (s.cqStored r c).rd (R.RING_CQ_TAIL_TAIL (Node.ring r).base) =
      if s.cqWraps r then 0 else s.rd (R.RING_CQ_TAIL_TAIL (Node.ring r).base) + 1 := by
  have hn : s.entries r ≤ 2 ^ 16 := s.entries_le r
  have hk : (R.RING_CQ_TAIL_PHASE (Node.ring r).base).key ≠ (R.RING_CQ_TAIL_TAIL (Node.ring r).base).key := by
    simp [FRef.key, R.RING_CQ_TAIL_PHASE, R.RING_CQ_TAIL_TAIL]
  rw [State.cqStored, State.countRaw_done_rd rfl (show 0 < 1024 by decide), State.cqMoved, State.wrB, State.rd_wr_ne _ _ hk, State.rd_wr_self]
  apply Nat.mod_eq_of_lt
  simp only [State.cqWraps, decide_eq_true_eq]
  show _ < 2 ^ 16
  split <;> omega

/-- PHASE inverts where the tail goes back to the first entry (R73). -/
theorem State.cqStored_phase :
    (s.cqStored r c).flag (R.RING_CQ_TAIL_PHASE (Node.ring r).base) =
      if s.cqWraps r then !s.flag (R.RING_CQ_TAIL_PHASE (Node.ring r).base) else s.flag (R.RING_CQ_TAIL_PHASE (Node.ring r).base) := by
  rw [State.cqStored, State.flag, State.countRaw_done_rd rfl (show 16 < 1024 by decide), ← State.flag, State.cqMoved,
    State.flag_wrB_self _ _ Nat.one_pos]

end

/-- Settles O57: `State.putCpl_eq` cuts the write into what is stored, the ring's record and the vector; each has its frame. -/
theorem completionEntry : Obligations.CompletionEntry := by
  intro s u r c a tail hl hsh htail _ ha hu
  subst htail ha
  obtain ⟨hhost, hdram, hrings⟩ := State.cqStored_frame (r := r) (c := c) hl
  have hring (n : Nat) : (s.cqStored r c).ring n = s.ring n := congrArg (fun t => tget ({} : RingRt) t n) hrings
  rw [State.putCpl_eq hsh, hring] at hu
  obtain ⟨hh, hd, hrd, ⟨k, hself⟩, hother⟩ := State.cqNotify_frame
    ((s.cqStored r c).setRing r.val ((s.ring r.val).withCpl c (s.cqStored r c).now)) r c (s.ring r.val).pendingNotify
  rw [← hu] at hh hd hrd hself hother
  rw [State.setRing_host, hhost] at hh
  rw [State.setRing_dram, hdram] at hd
  simp only [State.setRing_rd] at hrd
  rw [State.ring_setRing_self] at hself
  have hreg {f : FRef} (hf : (Node.ring r).base ≤ f.addr) : u.rd f = (s.cqStored r c).rd f := hrd f (msixPending_key_ne_ring r r hf)
  have hlen := cplBytes_length c (s.flag (R.RING_CQ_TAIL_PHASE (Node.ring r).base)) false
  refine ⟨fun i hi => ?_, fun x hx => ?_, hd, ?_, ?_, ?_, ?_, ?_, fun n hn => ?_⟩
  · rw [hh, State.cqEntry, tget_tsets_of_in _ _ _ _ (by omega), List.getD_eq_getElem _ _ (by omega)]
  · rw [hh, State.cqEntry, tget_tsets_of_out _ _ _ _ (by omega)]
  · rw [hreg (Nat.le_add_right _ _), State.cqStored_tail]
    simp [State.cqWraps]
  · rw [State.flag, hreg (Nat.le_add_right _ _), ← State.flag, State.cqStored_phase]
    simp [State.cqWraps]
  · rw [hself]; rfl
  · rw [hself]; rfl
  · rw [hself]; rfl
  · rw [hother n hn, State.ring_setRing_ne _ _ hn, hring]

end Sys2Proof.Machine
end

section
/-!
SUPPORT. The packets about contexts, and `NOP` and `UNIT_QUERY`, where they are taken (R84 to R90, R309).
-/

namespace Sys2Proof.Machine

/-- Settles O1: each packet has no refusal of its own but `UNIT_OFF`, and completes with what it reads. -/
theorem systemPackets : Obligations.SystemPackets := by
  refine ⟨?nop, ?unitQuery, ?ctxQuery⟩
  case nop =>
    intro s h ht ha
    exact State.packet_outcome ht (firstFail_rank0 (s := s.begun opNop h) ha)
  case unitQuery =>
    intro s h n ht
    refine (State.packet_outcome ht ?_).trans ?_
    · simp
    · rw [Node.atBase_base, Option.getD_some]
  case ctxQuery =>
    intro s h ht ha
    exact State.packet_outcome ht (firstFail_rank0 (s := s.begun opCtxQuery h) ha)

section
variable {s : State} {h : Hdr}

/-- A `CTX_OPEN` of a CLOSED context with good parameters: it is refused for a shared lane or group, then for its rate, or opens (R85, R90). -/
theorem exec_ctxOpen_runs {lanes groups silo siloMib columns mode rate : Nat} {c : Ctx}
    (ht : s.Takes (.ctxOpen h lanes groups silo siloMib columns mode rate) opCtxOpen h) (ha : s.accepts .cmd = true)
    (hst : (s.ctx h.ctx).st = .closed) (hc : c = s.ctxAsked h.ctx lanes groups silo siloMib columns mode rate) (hb : s.openBad c = false) :
    exec (.ctxOpen h lanes groups silo siloMib columns mode rate) s = .next
      (match s.conflict c with
       | some k => (s.begun opCtxOpen h).complete (s.asPk opCtxOpen h) .noResource [k]
       | none => if s.openFast c then (s.begun opCtxOpen h).complete (s.asPk opCtxOpen h) .rateLimit []
           else ((s.begun opCtxOpen h).openCtx h.ctx c).complete (s.asPk opCtxOpen h) .ok []) := by
  subst hc
  have ha' : (s.begun opCtxOpen h).accepts .cmd = true := ha
  refine State.packet_outcome ht ?_
  have hbad : (s.begun opCtxOpen h).openBad (s.ctxAsked h.ctx lanes groups silo siloMib columns mode rate) = false := hb
  have hclosed : ((s.begun opCtxOpen h).ctx h.ctx).st = .closed := hst
  simp [hbad, hclosed, firstFail_rank0 ha']

theorem exec_ctxClose_runs (ht : s.Takes (.ctxClose h) opCtxClose h) (ha : s.accepts .cmd = true)
    (hst : (s.ctx h.ctx).st = .open ∨ (s.ctx h.ctx).st = .faulted) :
    exec (.ctxClose h) s = .next (((s.begun opCtxClose h).closeCtx h.ctx).complete (s.asPk opCtxClose h) .ok [(s.ctx h.ctx).pages.length]) := by
  have ha' : (s.begun opCtxClose h).accepts .cmd = true := ha
  have hst' : ((s.begun opCtxClose h).ctx h.ctx).st = .open ∨ ((s.begun opCtxClose h).ctx h.ctx).st = .faulted := hst
  refine State.packet_outcome ht ?_
  rcases hst' with hst' | hst' <;> simp [hst', firstFail_rank0 ha']

theorem exec_ctxStop_runs {mode : Nat} (ht : s.Takes (.ctxStop h mode) opCtxStop h) (ha : s.accepts .cmd = true) (hm : mode ≤ 1)
    (hst : (s.ctx h.ctx).st = .running) :
    exec (.ctxStop h mode) s = .next ((s.begun opCtxStop h).stopCtx h.ctx mode (some (s.asPk opCtxStop h))) := by
  have ha' : (s.begun opCtxStop h).accepts .cmd = true := ha
  have hst' : ((s.begun opCtxStop h).ctx h.ctx).st = .running := hst
  refine State.packet_outcome ht ?_
  simp [hst', Nat.not_lt.mpr hm, firstFail_rank0 ha']

/-- `CTX_START` of an OPEN context that nothing refuses (R84, R309): no entry fails, so that SCRN_CHECK records none. -/
theorem exec_ctxStart_runs {pos flags : Nat} (ht : s.Takes (.ctxStart h pos flags) opCtxStart h) (ha : s.accepts .cmd = true)
    (hd : s.dev ≠ devTest) (hh : s.mode .hlth ≠ .faulted) (hst : (s.ctx h.ctx).st = .open) (he : s.startEntry (s.ctx h.ctx) = none)
    (hb : s.startBad (s.ctx h.ctx) (toS 64 pos) flags = false) :
    exec (.ctxStart h pos flags) s = .next (((s.begun opCtxStart h).startCtx h.ctx (toS 64 pos) flags).complete (s.asPk opCtxStart h) .ok
      (if (s.ctx h.ctx).wbOnly then [] else words64 (((s.begun opCtxStart h).startCtx h.ctx (toS 64 pos) flags).ctx h.ctx).global0)) := by
  have ha' : (s.begun opCtxStart h).accepts .cmd = true := ha
  have hd' : (s.begun opCtxStart h).dev ≠ devTest := hd
  have hh' : (s.begun opCtxStart h).mode .hlth ≠ .faulted := hh
  have hb' : (s.begun opCtxStart h).startBad (s.ctx h.ctx) (toS 64 pos) flags = false := hb
  show execCtxStart h pos flags s = _
  simp only [execCtxStart, he]
  refine State.packet_outcome ht ?_
  simp [hst, ha', hd', hh', hb']

end

/-- Settles O2: the three ends of a `CTX_OPEN` exclude each other; `CTX_CLOSE` and `CTX_STOP` have one each. -/
theorem contextOpenClose : Obligations.ContextOpenClose := by
  refine ⟨?opens, ?shared, ?fast, ?close, ?stop⟩
  case opens =>
    intro s h lanes groups silo siloMib columns mode rate c ht ha hst hc hb hn hf
    rw [exec_ctxOpen_runs ht ha hst hc hb, hn, hf]
    rfl
  case shared =>
    intro s h lanes groups silo siloMib columns mode rate c k ht ha hst hc hb hk
    rw [exec_ctxOpen_runs ht ha hst hc hb, hk]
  case fast =>
    intro s h lanes groups silo siloMib columns mode rate c ht ha hst hc hb hn hf
    rw [exec_ctxOpen_runs ht ha hst hc hb, hn, hf]
    rfl
  case close => exact fun s h => exec_ctxClose_runs
  case stop => exact fun s h mode => exec_ctxStop_runs

/-- Settles O3, by `exec_ctxStart_runs`. -/
theorem contextStart : Obligations.ContextStart := fun _ _ _ _ => exec_ctxStart_runs

end Sys2Proof.Machine
end

section
/-!
SUPPORT. The packets about bales, where they are taken and the engine that they need is free (R123 to R139).
-/

namespace Sys2Proof.Machine

section
variable {s : State} {h : Hdr}

/-- A job that can run, with none before it, runs at once (R123, R139). -/
theorem State.submitJob_runs {j : BaleJob} (hr : s.jobReady j = true) (hj : s.baleJobs = []) : s.submitJob j = s.runJob j := by
  simp [State.submitJob, hr, hj]

theorem State.submitJob_decode {pk : Pk} {src dst srcLen dstLen : Nat} {t : Fin 12} {ts : List (Fin 12)} (hj : s.baleJobs = [])
    (hg : s.gangs = []) (hf : s.freeThreshers = t :: ts) (hs : s.stalled = false) :
    s.submitJob (.decode pk src dst srcLen dstLen) = s.runDecode pk t src dst srcLen dstLen := by
  rw [State.submitJob_runs (by simp [State.jobReady, hs, hg, hf]) hj]
  simp [State.runJob, hf]

/-- A verify is not deferrable: it runs at any throttle share (R547). -/
theorem State.submitJob_verify {pk : Pk} {src srcLen : Nat} {t : Fin 12} {ts : List (Fin 12)} (hj : s.baleJobs = []) (hg : s.gangs = [])
    (hf : s.freeThreshers = t :: ts) : s.submitJob (.verify pk src srcLen) = s.runVerify pk t src srcLen := by
  rw [State.submitJob_runs (by simp [State.jobReady, hg, hf]) hj]
  simp [State.runJob, hf]

theorem State.submitJob_encode {pk : Pk} {src dst srcLen dstLen coding e flags layout : Nat} {miscoded : Option Nat} {c : Fin 4}
    {cs : List (Fin 4)} (hj : s.baleJobs = []) (hf : s.freeCompressors = c :: cs) (hc : s.insp.crops = []) (hs : s.stalled = false) :
    s.submitJob (.encode pk src dst srcLen dstLen coding e flags layout miscoded) =
      s.runEncode pk c (s.encReq pk coding e flags layout) src srcLen 0 dst dstLen miscoded := by
  rw [State.submitJob_runs (by simp [State.jobReady, hs, hc, hf]) hj]
  simp [State.runJob, hf]

/-- The engine that the job of a handle needs is free, and nothing waits for it (R132, R139, R156). -/
theorem State.submitJob_resume {pk : Pk} {k dst dstLen : Nat} (hj : s.baleJobs = []) (hs : s.stalled = false)
    (hf : if (s.handle k).encode then s.freeCompressors ≠ [] ∧ s.insp.crops = [] else s.gangs = [] ∧ s.freeThreshers ≠ []) :
    s.submitJob (.resume pk k dst dstLen) = s.runResume pk k dst dstLen := by
  refine State.submitJob_runs ?_ hj
  cases he : (s.handle k).encode with
  | true =>
    obtain ⟨hfree, hcrops⟩ : s.freeCompressors ≠ [] ∧ s.insp.crops = [] := by simpa [he] using hf
    simp [State.jobReady, hs, he, hfree, hcrops]
  | false =>
    obtain ⟨hgangs, hfree⟩ : s.gangs = [] ∧ s.freeThreshers ≠ [] := by simpa [he] using hf
    simp [State.jobReady, hs, he, hfree, hgangs]

@[simp] theorem State.handle_setHandle_self (s : State) (k : Nat) (x : Handle) : (s.setHandle k x).handle k = x := tget_tset_self _ _ _

end

/-- Settles O7: the packet is not refused, and the job that it submits runs at once. -/
theorem baleDecodePackets : Obligations.BaleDecodePackets := by
  refine ⟨?decode, ?verify, ?discard⟩
  case decode =>
    intro s h src dst srcLen dstLen t ts ht ha hj hg hf hs hsrc hdst hd
    refine (State.packet_outcome ht ?_).trans (congrArg _ (State.submitJob_decode (s := s.begun opBaleDecode h) hj hg hf hs))
    simp [State.begun, hsrc, hdst, hd, ha]
  case verify =>
    intro s h src srcLen t ts ht ha hj hg hf hsrc hd
    refine (State.packet_outcome ht ?_).trans (congrArg _ (State.submitJob_verify (s := s.begun opBaleVerify h) hj hg hf))
    simp [State.begun, hsrc, hd, ha]
  case discard =>
    intro s h handle ht ha hh
    refine State.packet_outcome ht ?_
    simp [State.begun, hh, ha]

/-- Settles O8: the packet is not refused, and the job that it submits runs at once; a resumed one with its handle marked busy. -/
theorem baleEncodePackets : Obligations.BaleEncodePackets := by
  refine ⟨?encode, ?resume⟩
  case encode =>
    intro s h src dst srcLen dstLen coding e flags layout miscoded c cs ht ha hj hf hc hs hsrc hdst hd hb
    refine (State.packet_outcome ht ?_).trans (congrArg _ (State.submitJob_encode (s := s.begun opBaleEncode h) hj hf hc hs))
    generalize layout % 2 ^ 24 = lay at hb ⊢
    simp [State.begun, hsrc, hdst, hd, ha, hb]
  case resume =>
    intro s h handle dst dstLen b ht ha hj hs hf hdst hh hd hb
    have hjob : b.submitJob (.resume (s.asPk opBaleResume h) handle dst dstLen) = b.runResume (s.asPk opBaleResume h) handle dst dstLen := by
      subst hb
      refine State.submitJob_resume hj hs ?_
      rw [State.handle_setHandle_self]
      exact hf
    rw [← hjob, hb]
    refine State.packet_outcome ht ?_
    simp [State.begun, hdst, hh, hd, ha]

end Sys2Proof.Machine
end

section
/-!
SUPPORT. How aborts and drains end (R93 to R95).
-/

namespace Sys2Proof.Machine

section
variable {s : State} {n : Node}

theorem State.abortEnds_of_abort (h : s.flag (R.UNIT_CTRL_ABORT n.base) = true) :
    s.abortEnds n = ((s.wr (R.UNIT_CTRL_ABORT n.base) 0).offHook n).raise n 2 :=
  if_pos h

/-- The bound of a draining node that still works passes (R95): what is left in its subtree is aborted. -/
theorem exec_drainTimeout_late (hm : s.mode n = .draining) (hb : s.drainBusy n = true) :
    exec (.drainTimeout n) s = .next (s.afterTest (n.subtree.foldl State.drainLate s)) :=
  if_pos ⟨hm, hb⟩

/-- The node's own part of that: the packets that wait for it are set aside from the abort, and complete with what was left. -/
theorem State.drainLate_of_draining {u : State} (hm : s.mode n = .draining)
    (hu : u = State.abortOne { s with drains := s.drains.filter fun w => decide (w.node ≠ n) } n) :
    s.drainLate n = ((((({ u with drains := u.drains ++ s.drains.filter fun w => decide (w.node = n) } : State).setMode n .normal).offHook
      n).raise n 1).raise n 2).endDrainWaits n .drainTimeout (s.work n) := by
  rw [hu]
  exact if_neg (not_not_intro hm)

end

/-- Settles O23: each command's condition holds, so that its branch is taken; a leaf's subtree is the leaf alone. -/
theorem drainsAndAborts : Obligations.DrainsAndAborts := by
  refine ⟨?abort, ?drain, ?leaf, ?late⟩
  case abort => exact fun s n h => congrArg _ (State.abortEnds_of_abort h)
  case drain => exact fun s n hm hb => if_pos ⟨hm, by simp [hb]⟩
  case leaf =>
    intro s n u hm hb hn hu
    rw [exec_drainTimeout_late hm hb, hn, List.foldl_cons, List.foldl_nil, State.drainLate_of_draining hm hu]
  case late => exact fun s n => exec_drainTimeout_late

end Sys2Proof.Machine
end

section
/-!
SUPPORT. The doorbells of a ring and its resume (R62, R63, R74, R83).
-/

namespace Sys2Proof.Machine

section
variable {s : State} {r : Fin 256} {idx : Nat} {v : Word}

/-- What a submission doorbell with an index does (R62, R63). -/
theorem State.sqDoorbell_eq (hv : idx = v.toNat % 65536) :
    s.sqDoorbell r v.toNat =
      if !s.enabled (.ring r) then s.access (.ring r)
      else if s.entries r ≤ idx ∨
          s.entries r - 1 < (idx + s.entries r - s.rd (R.RING_SQ_HEAD_HEAD (Node.ring r).base) % s.entries r) % s.entries r then
        s.badDoorbell r
      else s.wr (R.RING_SQ_TAIL_TAIL (Node.ring r).base) idx := by
  rw [hv]
  rfl

/-- What a completion doorbell with an index that frees `d` entries does (R62, R74, R77). -/
theorem State.cqDoorbell_eq {d : Nat} (hv : idx = v.toNat % 65536)
    (hd : d = (idx + s.entries r - s.rd (R.RING_CQ_HEAD_HEAD (Node.ring r).base) % s.entries r) % s.entries r) :
    s.cqDoorbell r v.toNat =
      if !s.enabled (.ring r) then s.access (.ring r)
      else if s.entries r ≤ idx ∨ (s.ring r.val).used < d then s.badDoorbell r
      else
        let t := State.flushHeld ((s.wr (R.RING_CQ_HEAD_HEAD (Node.ring r).base) idx).setRing r.val
          { s.ring r.val with used := (s.ring r.val).used - d }) r (s.ring r.val).held
        if r = 0 then t.flushEvent else t := by
  rw [hd, hv]
  rfl

theorem exec_submissionDoorbell_reaches (hr : s.HostReaches) : exec (.submissionDoorbell r v) s = .next (s.sqDoorbell r v.toNat) :=
  congrArg Host.Outcome.next (State.hostAccess_reaches hr _ _ _)

theorem exec_completionDoorbell_reaches (hr : s.HostReaches) : exec (.completionDoorbell r v) s = .next (s.cqDoorbell r v.toNat) :=
  congrArg Host.Outcome.next (State.hostAccess_reaches hr _ _ _)

theorem exec_ringResume_reaches (hr : s.HostReaches) : exec (.ringResume r) s = .next (s.resumeRing r) :=
  congrArg Host.Outcome.next (State.hostAccess_reaches hr _ _ _)

end

/-- Settles O25: where the host reaches the registers each command is its doorbell, and each clause is a branch of that. -/
theorem doorbells : Obligations.Doorbells := by
  refine ⟨?sqTail, ?sqBad, ?sqOff, ?cqHead, ?cqBad, ?cqOff, ?resume⟩
  case sqTail =>
    rintro s r v _ _ idx hr rfl rfl hv he hi hd
    rw [exec_submissionDoorbell_reaches hr, State.sqDoorbell_eq hv, if_neg (by simp [he]), if_neg]
    exact not_or.mpr ⟨Nat.not_le.mpr hi, Nat.not_lt.mpr hd⟩
  case sqBad =>
    rintro s r v _ _ idx hr rfl rfl hv he hbad
    rw [exec_submissionDoorbell_reaches hr, State.sqDoorbell_eq hv, if_neg (by simp [he]), if_pos hbad, State.badDoorbell]
  case sqOff =>
    intro s r v hr he
    rw [exec_submissionDoorbell_reaches hr, State.sqDoorbell_eq rfl, if_pos (by simp [he]), State.access]
  case cqHead =>
    rintro s r v _ _ idx d t hr rfl rfl hv he hi hd hle ht
    rw [exec_completionDoorbell_reaches hr, State.cqDoorbell_eq hv hd, if_neg (by simp [he]), if_neg, ht]
    exact not_or.mpr ⟨Nat.not_le.mpr hi, Nat.not_lt.mpr hle⟩
  case cqBad =>
    rintro s r v _ _ idx hr rfl rfl hv he hbad
    rw [exec_completionDoorbell_reaches hr, State.cqDoorbell_eq hv rfl, if_neg (by simp [he]), if_pos hbad, State.badDoorbell]
  case cqOff =>
    intro s r v hr he
    rw [exec_completionDoorbell_reaches hr, State.cqDoorbell_eq rfl rfl, if_pos (by simp [he]), State.access]
  case resume =>
    intro s r hr
    rw [exec_ringResume_reaches hr, State.resumeRing]

end Sys2Proof.Machine
end

section
/-!
SUPPORT. The DRAM aperture, where every byte of an access may be reached (R59, R391, R392, R418, R424).
-/

namespace Sys2Proof.Machine

section
variable {s : State} {off a : Nat}

/-- A BAR2 read all of whose bytes may be read sends them: nothing is left out, found poisoned or beyond installed DRAM. -/
theorem State.readBar2_good {len : Nat} (ha : a = s.bar2Addr off)
    (hg : ∀ i < len, s.bar2Gone (a + i) = false ∧ s.secArea (a + i) = false ∧ s.dramBad (a + i) 1 = false) :
    s.readBar2 off len =
      State.put (((List.range len).map (a + ·)).foldl (fun (s : State) k => if k = a ∨ k % 8 = 0 then s.noteRead 2 k 1 else s) s)
        (.bar2 (((List.range len).map (a + ·)).map s.dramByte) false) := by
  subst ha
  have hmem : ∀ x ∈ (List.range len).map (s.bar2Addr off + ·), s.bar2Gone x = false ∧ s.secArea x = false ∧ s.dramBad x 1 = false := by
    simpa using hg
  unfold State.readBar2
  dsimp only
  generalize (List.range len).map (s.bar2Addr off + ·) = as at hmem ⊢
  have hshown : as.filter (fun x => !s.bar2Gone x && !s.secArea x) = as := by
    refine List.filter_eq_self.mpr fun x hx => ?_
    obtain ⟨hgone, hsec, -⟩ := hmem x hx
    simp [hgone, hsec]
  have hdata : as.map (fun x => if s.bar2Gone x || s.secArea x then 0#8 else s.dramByte x) = as.map s.dramByte := by
    refine List.map_congr_left fun x hx => ?_
    obtain ⟨hgone, hsec, -⟩ := hmem x hx
    simp [hgone, hsec]
  have hbad : as.find? (fun x => s.dramBad x 1) = none := by
    refine List.find?_eq_none.mpr fun x hx => ?_
    obtain ⟨-, -, hbad⟩ := hmem x hx
    simp [hbad]
  have hgone : as.any (fun x => s.bar2Gone x) = false := by
    refine List.any_eq_false.mpr fun x hx => ?_
    obtain ⟨hgone, -, -⟩ := hmem x hx
    simp [hgone]
  simp only [hshown, hdata, hbad, hgone, Option.isSome_none, State.raiseIf, Bool.false_eq_true, if_false]

/-- A BAR2 write below the reserved area and outside retired pages writes all of its bytes. -/
theorem State.writeBar2_good {data : List Byte} (ha : a = s.bar2Addr off) (hne : data ≠ []) (hres : a + data.length ≤ s.reservedBase)
    (hret : ∀ i < data.length, s.retiredAt (a + i) = false) : s.writeBar2 off data = s.dramWrite 2 a data := by
  subst ha
  have hdropped : (List.range data.length).any
      (fun i => decide (s.reservedBase ≤ s.bar2Addr off + i) || s.retiredAt (s.bar2Addr off + i)) = false := by
    refine List.any_eq_false.mpr fun i hi => ?_
    have hi := List.mem_range.mp hi
    simp [hret i hi]
    omega
  have hkept : data.take (s.reservedBase - s.bar2Addr off) = data := List.take_of_length_le (by omega)
  simp [State.writeBar2, hdropped, hkept, hne, State.raiseIf]

/-- After a shutdown a BAR2 read gives 0; else it is an access of the host (R551). -/
theorem exec_bar2Read_reaches {len : Nat} (hr : s.HostReaches) : exec (.bar2Read off len) s = .next (s.readBar2 off len) := by
  have hs : s.hlth.shutdown = false := hr.2.1
  show execBar2Read off len s = _
  rw [execBar2Read, hs, State.hostAccess_reaches hr]
  rfl

theorem exec_bar2Write_reaches {data : List Byte} (hr : s.HostReaches) : exec (.bar2Write off data) s = .next (s.writeBar2 off data) :=
  congrArg Host.Outcome.next (State.hostAccess_reaches hr _ _ _)

end

/-- Settles O27: the host's access takes place, and reaches every one of its bytes. -/
theorem bar2Accesses : Obligations.Bar2Accesses := by
  constructor
  · intro s off len a hr ha hg
    rw [exec_bar2Read_reaches hr, State.readBar2_good ha hg]
  · intro s off a data hr ha hne hres hret
    rw [exec_bar2Write_reaches hr, State.writeBar2_good ha hne hres hret]

end Sys2Proof.Machine
end

section
/-!
SUPPORT. The blend of two composed values (R165, R166).
-/

namespace Sys2Proof.Machine

/-- The rounded division of R165 gives back a composed value from 255 times it. -/
theorem blend_of_weighted_eq {a s d v : Nat} (hv : v ≤ 4095) (h : a * s + (255 - a) * d = 255 * v) : blend a s d = v := by
  simp only [blend, h]
  omega

theorem blend_le_of_weighted_le {a s d m : Nat} (hm : m ≤ 4095) (h : a * s + (255 - a) * d ≤ 255 * m) : blend a s d ≤ m := by
  simp only [blend]
  generalize a * s + (255 - a) * d = t at h ⊢
  omega

/-- A blend stays within the bound of its two values, since its weights add up to 255. -/
theorem blend_le {a s d m : Nat} (ha : a ≤ 255) (hs : s ≤ m) (hd : d ≤ m) (hm : m ≤ 4095) : blend a s d ≤ m := by
  refine blend_le_of_weighted_le hm ?_
  calc a * s + (255 - a) * d ≤ a * m + (255 - a) * m := by gcongr
    _ = 255 * m := by rw [← Nat.add_mul, Nat.add_sub_cancel' ha]

/-- Settles O56: with alpha 255 or 0 one weight is 0, and any blend stays within the bound of its values. -/
theorem blendLimits : Obligations.BlendLimits := by
  intro a c d ha hc hd
  have hopaque : blend 255 c d = c := blend_of_weighted_eq hc (by simp)
  have htransparent : blend 0 c d = d := blend_of_weighted_eq hd (by simp)
  exact ⟨hopaque, htransparent, blend_le ha hc hd le_rfl⟩

end Sys2Proof.Machine
end

section
/-!
SUPPORT. The packets about layers and pages, where they are taken and nothing refuses them (R147, R148, R150 to R155, R163).
-/

namespace Sys2Proof.Machine

section
variable {s : State} {h : Hdr} {i : Instr} {o : OpInfo} {reads : List (Nat × Nat)} {chk : State → List (Bool × Status)}
  {eff : Pk → State → State}

/-- A packet command that reads descriptors, that is taken and not refused, has its effect after its reads have touched DRAM. -/
theorem State.packetR_outcome (ht : s.Takes i o h) (hc : firstFail (chk (s.begun o h)) = none) :
    (if !s.spells i then Host.Outcome.next s else .next (s.packetR o h reads chk eff) : Host.Outcome State Fault Refusal) =
      .next (eff (s.asPk o h) (reads.foldl (fun s r => s.touch 2 r.1 r.2) (s.begun o h))) := by
  obtain ⟨hs, hm, hf⟩ := ht
  rw [hs, State.packetR, State.packetW_runs hm hf hc]
  rfl

/-- The same for a packet command that a condition of its own, `held`, may keep from starting. -/
theorem State.packetR_outcome_of_not_held {held : Prop} [Decidable held] (hh : ¬held) (ht : s.Takes i o h)
    (hc : firstFail (chk (s.begun o h)) = none) :
    (if !s.spells i then Host.Outcome.next s else if held then .next s else .next (s.packetR o h reads chk eff) :
      Host.Outcome State Fault Refusal) =
      .next (eff (s.asPk o h) (reads.foldl (fun s r => s.touch 2 r.1 r.2) (s.begun o h))) := by
  rw [if_neg hh]
  exact State.packetR_outcome ht hc

end

/-- The refusal `SEALED_LAYER` does not apply where layer 7 holds no sealed layer (R167). -/
theorem sealedLayer_refusal_eq_false {layer : Nat} {sl : Option SealedSt} (hs : layer = 7 → sl = none) :
    (decide (layer = 7) && sl.isSome) = false := by
  by_cases h7 : layer = 7
  · simp [hs h7]
  · simp [h7]

/-- Settles O5: none of the packets is held back or refused; a descriptor of format 2 reads its palette too. -/
theorem layerPackets : Obligations.LayerPackets := by
  refine ⟨?plain, ?palette, ?colour⟩
  case plain =>
    rintro s h addr layer w d b ht hg hl hw hst ha hsl ⟨hr1, hr2, hr3, rfl⟩ hbad hpass hfmt rfl
    refine (State.packetR_outcome_of_not_held hg ht ?_).trans ?_
    · simp [State.begun, Nat.not_lt.mpr hl, Nat.not_lt.mpr hw, hst, ha, sealedLayer_refusal_eq_false hsl, hr1, hr2, hr3, hbad, hpass, hfmt]
    · simp [hfmt]
  case palette =>
    rintro s h addr layer w d p b ht hg hl hw hst ha hsl ⟨hr1, hr2, hr3, rfl⟩ hbad hpass hfmt ⟨hp1, hp2, hp3, rfl⟩ hpal rfl
    refine (State.packetR_outcome_of_not_held hg ht ?_).trans ?_
    · simp [State.begun, Nat.not_lt.mpr hl, Nat.not_lt.mpr hw, hst, ha, sealedLayer_refusal_eq_false hsl, hr1, hr2, hr3, hbad, hpass,
        hp1, hp2, hp3, hpal]
    · simp [hfmt, hr1, hr3, hp1]
  case colour =>
    rintro s h addr layer table w n d b ht hg hl hw hst ha hsl ⟨hr1, hr2, hr3, rfl⟩ htb rfl hbad rfl
    refine State.packetR_outcome_of_not_held hg ht ?_
    simp [State.begun, Nat.not_lt.mpr hl, Nat.not_lt.mpr hw, Nat.not_lt.mpr htb, hst, ha, sealedLayer_refusal_eq_false hsl, hr1, hr2, hr3,
      hbad]

@[simp] theorem listBad_startPk (s : State) (h : Hdr) (op : Nat) (ls : List Layer) (sl : Option SealedSt) (rows : Nat)
    (es : List ListEntry) : listBad (s.startPk h op) ls sl rows es = listBad s ls sl rows es := rfl

@[simp] theorem passListBad_startPk (s : State) (h : Hdr) (op : Nat) (c : Ctx) (length : Nat) (es : List ListEntry) :
    passListBad (s.startPk h op) c length es = passListBad s c length es := rfl

/-- Settles O6: the packet is not refused, and its effect is `Ctx.addPage`. -/
theorem pageSubmit : Obligations.PageSubmit := by
  rintro s h list entries length headland number g c d es pg b ht rfl hst ha hlen ⟨hrow, hhead⟩ ⟨hr1, hr2, hr3, rfl⟩ rfl rfl
    hlist hfull rfl rfl
  rw [State.asPk] at hlist
  refine State.packetR_outcome ht ?_
  simp [State.begun, hst, ha, hlen, hrow, hhead, hr1, hr2, hr3, hlist, Nat.not_le.mpr hfull]

end Sys2Proof.Machine
end

section
/-!
SUPPORT. Composing rows, granting threshers, and copying rows out of the silo (R156, R158, R176, R177).
-/

namespace Sys2Proof.Machine

section
variable {s b : State} {k f : Nat} {p q : Page} {need wait : List (Nat × ListEntry)}

/-- The compositor begins the page, and then writes its next row, or asks once for the gang that the row still needs. -/
theorem State.composeRow_paced (hc : s.composes (s.ctx k) = true) (hs : (s.ctx k).wbOnly = true → s.stalled = false)
    (hp : (s.ctx k).nextPage = some p) (hf : p.first = some f) (hpace : s.paceOk (s.ctx k) (f / (s.ctx k).lpr + p.nextRow) = true)
    (hheld : ((s.ctx k).wbOnly && p.layers.isNone && s.unitHeld (s.ctx k)) = false)
    (hb : b = if p.layers.isNone then s.beginPage k p else s)
    (hq : (b.ctx k).pages.find? (fun q => decide (q.id = p.id)) = some q)
    (hneed : need = q.rowEntries (q.layers.getD []) q.nextRow)
    (hwait : wait = need.filter fun e => !q.failed.contains e.1 && !b.holders.any fun x => decide (x.2 = some ⟨k, q.id, e.1⟩)) :
    s.composeRow k =
      if wait = [] then
        b.writeRow k q (q.layers.getD []) f (need.any fun e => q.failed.contains e.1) (need.any fun e => q.failedPoison.contains e.1)
      else if b.gangs.contains ⟨k, q.id, f / (s.ctx k).lpr + q.nextRow, wait.map (·.1)⟩ then b
      else { b with gangs := b.gangs ++ [⟨k, q.id, f / (s.ctx k).lpr + q.nextRow, wait.map (·.1)⟩] } := by
  have hstall : ((s.ctx k).wbOnly && s.stalled) = false := by
    cases hw : (s.ctx k).wbOnly
    · rfl
    · exact hs hw
  rw [State.composeRow]
  simp only [hc, hstall, hp, hf, hpace, hheld, ← hb, hq, ← hneed, ← hwait, Bool.not_true, Bool.or_false, Bool.false_eq_true, if_false,
    List.isEmpty_iff]

theorem exec_composeRow_clocked (hc : s.clocked = true) : exec (.composeRow k) s = .next (s.composeRow k) := by
  show execComposeRow k s = _
  rw [execComposeRow, hc]
  rfl

end

section
variable {s : State} {g : Gang}

/-- With enough threshers free, the gang takes one for each of its entries, in order (R156). -/
theorem State.grant_gang (hg : s.nextGang = some g) (hfree : g.entries.length ≤ s.freeThreshers.length) :
    s.grant = (g.entries.zip s.freeThreshers).foldl (fun t p => t.grantEntry g.ctx g.page p.1 p.2)
      { s with gangs := s.gangs.filter fun x => decide (x ≠ g) } := by
  simp only [State.grant, hg, if_neg (Nat.not_lt.mpr hfree)]

theorem State.grant_too_few (hg : s.nextGang = some g) (hfree : s.freeThreshers.length < g.entries.length) : s.grant = s := by
  simp only [State.grant, hg, if_pos hfree]

theorem State.grant_no_gang (hg : s.nextGang = none) : s.grant = s.runWaiting := by
  simp only [State.grant, hg]

theorem exec_thresherGrant_clocked (hc : s.clocked = true) : exec .thresherGrant s = .next s.startCrops.grant := by
  show execThresherGrant s = _
  rw [execThresherGrant, hc]
  rfl

end

/-- Settles O11: the row waits for no bale or for some; no copied row is poisoned or one is; the first gang finds its threshers, too few
of them, or there is none. -/
theorem siloAndComposition : Obligations.SiloAndComposition := by
  refine ⟨?writes, ?asks, ?copies, ?poisoned, ?gang, ?tooFew, ?noGang⟩
  case writes =>
    intro s b k f p q need wait hclk hc hs hp hf hpace hheld hb hq hneed hwait hnone
    rw [exec_composeRow_clocked hclk, State.composeRow_paced hc hs hp hf hpace hheld hb hq hneed hwait, if_pos hnone]
  case asks =>
    intro s b k f p q need wait hclk hc hs hp hf hpace hheld hb hq hneed hwait hsome
    rw [exec_composeRow_clocked hclk, State.composeRow_paced hc hs hp hf hpace hheld hb hq hneed hwait, if_neg hsome]
  case copies =>
    rintro s h first lines dst flags lo n c b rows t u ht hs rfl hst ha hl rfl rfl hn hq hd rfl rfl rfl rfl hclean
    refine (State.packetR_outcome_of_not_held (by simp [hs]) ht ?_).trans ?_
    · simp [State.begun, hst, ha, hl, Nat.not_lt.mpr hn, hq, hd]
    · simp only [List.foldl_nil, hclean]
  case poisoned =>
    rintro s h first lines dst flags lo n c b rows bad t u ht hs rfl hst ha hl rfl rfl hn hq hd rfl rfl rfl rfl hbad
    refine (State.packetR_outcome_of_not_held (by simp [hs]) ht ?_).trans ?_
    · simp [State.begun, hst, ha, hl, Nat.not_lt.mpr hn, hq, hd]
    · simp only [List.foldl_nil, hbad]
  case gang =>
    intro s g hclk hg hfree
    rw [exec_thresherGrant_clocked hclk, State.grant_gang hg hfree]
  case tooFew =>
    intro s g hclk hg hfree
    rw [exec_thresherGrant_clocked hclk, State.grant_too_few hg hfree]
  case noGang =>
    intro s hclk hg
    rw [exec_thresherGrant_clocked hclk, State.grant_no_gang hg]

end Sys2Proof.Machine
end

section
/-!
SUPPORT. The packets about the nozzle map, the calibration, the thresholds and the levels, where they are taken (R184 to R198, R206 to
R209).
-/

namespace Sys2Proof.Machine

section
variable {s : State} {h : Hdr}

/-- A packet command that reads one block, and that is taken and not refused, has its effect after that read has touched DRAM. -/
theorem State.packetR_outcome_of_read {i : Instr} {o : OpInfo} {a len : Nat} {chk : State → List (Bool × Status)}
    {eff : Pk → State → State} (ht : s.Takes i o h) (hc : firstFail (chk (s.begun o h)) = none) :
    (if !s.spells i then Host.Outcome.next s else .next (s.packetR o h [(a, len)] chk eff) : Host.Outcome State Fault Refusal) =
      .next (eff (s.asPk o h) ((s.begun o h).touch 2 a len)) :=
  State.packetR_outcome ht hc

/-- A unit that accepts work, with good parameters and a source that is read, refuses by the opcode's own conditions alone (R88). -/
theorem firstFail_rank_ok {unit : Node} {bad : Bool} {d : List Byte} {own : List (Bool × Status)} (ha : s.accepts unit = true)
    (hb : bad = false) : firstFail (rank s unit bad false (.ok d) own) = firstFail own := by
  simp [rank, badParamOf, dmaErrorOf, poisonedOf, ha, hb]

/-- `TABLE_PENDING` does not apply at once, nor where no change of the table is pending (R209). -/
theorem not_when1_and_pending {w : Nat} {pending : Bool} (h : w = 0 ∨ pending = false) : ¬(w = 1 ∧ pending = true) := by
  rcases h with rfl | rfl <;> simp

/-- The same as the last refusal of a packet. -/
theorem firstFail_tablePending {w : Nat} {pending : Bool} (h : w = 0 ∨ pending = false) :
    firstFail [(decide (w = 1) && pending, .tablePending)] = none := by
  have hnot : (decide (w = 1) && pending) = false := by simpa using not_when1_and_pending h
  rw [hnot]
  rfl

/-- `WHEN` is 0 or 1, and the entries lie within the map (R182, R207). -/
theorem mapRange_good {first n w : Nat} (hw : w ≤ 1) (hn : first + n ≤ 2 ^ 20) :
    (decide (1 < w) || decide (2 ^ 20 < first + n)) = false := by
  rw [decide_eq_false (Nat.not_lt.mpr hw), decide_eq_false (Nat.not_lt.mpr hn), Bool.or_false]

/-- `WHEN` is 0 or 1, and the array or the colour is one of 8. -/
theorem tableIndex_good {k w : Nat} (hw : w ≤ 1) (hk : k ≤ 7) : (decide (1 < w) || decide (7 < k)) = false := by
  rw [decide_eq_false (Nat.not_lt.mpr hw), decide_eq_false (Nat.not_lt.mpr hk), Bool.or_false]

/-- Nothing refuses an `NMAP_WRITE` before its entries are checked. -/
theorem State.nmapWrite_not_refused {src first n w : Nat} {d : List Byte} (hl : s.foreignLane h.ctx first n = false) (hw : w ≤ 1)
    (hn : first + n ≤ 2 ^ 20) (ha : s.accepts .scrn = true) (hr : s.Reads src (8 * n) d)
    (hp : s.privileged h = true ∨ (words8 d n).zipIdx.any (fun e => needsPriv (s.nozzle (first + e.2)) e.1) = false) :
    firstFail ((s.foreignLane h.ctx first n, .badContext) ::
      rank s .scrn (decide (1 < w) || decide (2 ^ 20 < first + n)) false (s.readAt src (8 * n))
        [(!s.privileged h && (words8 d n).zipIdx.any (fun e => needsPriv (s.nozzle (first + e.2)) e.1), .notPriv)]) = none := by
  have hpriv : (!s.privileged h && (words8 d n).zipIdx.any (fun e => needsPriv (s.nozzle (first + e.2)) e.1)) = false := by
    rcases hp with hp | hp <;> simp only [hp, Bool.not_true, Bool.false_and, Bool.and_false]
  rw [hl, firstFail_cons_false, State.readAt_of_reads hr, firstFail_rank_ok ha (mapRange_good hw hn), hpriv]
  rfl

end

/-- Settles O9: nothing refuses the packets, and each clause is a branch of the effect. -/
theorem nozzleMapPackets : Obligations.NozzleMapPackets := by
  refine ⟨?bad, ?writes, ?reads⟩
  case bad =>
    rintro s h src first n w d _ b g reason ht hl hw hn ha ⟨hr1, hr2, hr3, rfl⟩ rfl hp rfl hbad hseal
    refine (State.packetR_outcome_of_read ht ?_).trans ?_
    · exact State.nmapWrite_not_refused (s := s.begun opNmapWrite h) hl hw hn ha ⟨hr1, hr2, hr3, rfl⟩ hp
    · simp only [hbad, hseal, Bool.false_eq_true, if_false]
  case writes =>
    rintro s h src first n w d _ b _ _ ht hl hw hn ha ⟨hr1, hr2, hr3, rfl⟩ rfl hp rfl hgood rfl hpend rfl
    refine (State.packetR_outcome_of_read ht ?_).trans ?_
    · exact State.nmapWrite_not_refused (s := s.begun opNmapWrite h) hl hw hn ha ⟨hr1, hr2, hr3, rfl⟩ hp
    · simp only [hgood, if_neg (not_when1_and_pending hpend)]
  case reads =>
    rintro s h dst first n _ ht ha hd hn rfl
    have hb : (s.badAddr dst (8 * n) || decide (2 ^ 20 < first + n)) = false := by
      rw [hd, decide_eq_false (Nat.not_lt.mpr hn), Bool.or_false]
    refine State.packet_outcome ht ?_
    show firstFail (rank0 (s.begun opNmapRead h) .scrn (s.badAddr dst (8 * n) || decide (2 ^ 20 < first + n)) false []) = none
    rw [hb]
    exact firstFail_rank0 (s := s.begun opNmapRead h) ha

/-- Settles O10: nothing refuses the packets; `WHEN` 0 makes no change pending. -/
theorem calibrationTablePackets : Obligations.CalibrationTablePackets := by
  refine ⟨?ncal, ?thresh, ?level⟩
  case ncal =>
    rintro s h src first n w d _ b ht hl hw hn ha ⟨hr1, hr2, hr3, rfl⟩ rfl hres hpend rfl
    have hlane : (s.begun opNcalWrite h).foreignLane h.ctx first n = false := hl
    refine State.packetR_outcome_of_read ht ?_
    rw [hlane, firstFail_cons_false, State.readAt_of_reads ⟨hr1, hr2, hr3, rfl⟩]
    refine (firstFail_rank_ok ha ?_).trans (firstFail_tablePending hpend)
    rw [mapRange_good hw hn, hres, Bool.and_false, Bool.false_or]
  case thresh =>
    rintro s h src array w d b ht hw hk ha ⟨hr1, hr2, hr3, rfl⟩ hv hpend rfl
    refine State.packetR_outcome_of_read ht ?_
    rw [State.readAt_of_reads ⟨hr1, hr2, hr3, rfl⟩]
    refine (firstFail_rank_ok ha ?_).trans (firstFail_tablePending hpend)
    rw [tableIndex_good hw hk, hv, Bool.and_false, Bool.false_or]
  case level =>
    rintro s h src colour w d b ht hw hk ha ⟨hr1, hr2, hr3, rfl⟩ hbad hpend rfl
    refine State.packetR_outcome_of_read ht ?_
    rw [State.readAt_of_reads ⟨hr1, hr2, hr3, rfl⟩]
    refine (firstFail_rank_ok ha ?_).trans (firstFail_tablePending hpend)
    rw [tableIndex_good hw hk, hbad, Bool.and_false, Bool.false_or]

end Sys2Proof.Machine
end

section
/-!
SUPPORT. The swath of a lane for its next line (R187, R207, R220, R242).
-/

namespace Sys2Proof.Machine

section
variable {s u : State} {lane c n : Nat} {bad : Bool}

/-- A slice may compute the next line `n` of a lane: a live context `c` owns the lane, the line has its owner and lies at most 14 lines
ahead of the tick, and SCRN is not FAULTED (R187, R207, R242). -/
structure State.LineOpen (s : State) (lane c n : Nat) : Prop where
  owner : c = s.laneOwner lane
  owned : c ≠ 0
  live : (s.ctx c).live = true
  next : n = (s.head lane).nextSwath
  lineOwned : n < (s.ctx c).horizon
  on : (s.ctx c).lineOff n = false
  near : n ≤ (s.ctx c).line + 14
  works : s.mode .scrn ≠ .faulted

/-- Then a slice of the lane stores the swath, where no change blocks the line and no pass-through bale is missing, and the spare
compares. -/
theorem State.computeSwath_stores {k : Fin 33} (ho : s.LineOpen lane c n) (hu : u = s.closeTo c n) (hd : u.dueBlocks c n = false)
    (hk : u.laneSlice lane = some k) (hw : (u.swathOf c lane n).waits = false) :
    s.computeSwath lane bad =
      (if (u.ctx c).pass then ((u.touchRows c lane n).storeSwath c lane n (u.swathOf c lane n)).freePass c lane n
        else (u.touchRows c lane n).storeSwath c lane n (u.swathOf c lane n)).shadowLine lane bad := by
  obtain ⟨rfl, hc, hlive, rfl, hline, hon, hnear, hworks⟩ := ho
  subst hu
  simp [State.computeSwath, hc, hlive, Nat.not_le.mpr hline, Nat.not_lt.mpr hnear, hon, hworks, hd, hk, hw]

/-- With no slice for the lane, the line is finished (R220). -/
theorem State.computeSwath_finishes (ho : s.LineOpen lane c n) (hu : u = s.closeTo c n) (hd : u.dueBlocks c n = false)
    (hk : u.laneSlice lane = none) : s.computeSwath lane bad = (u.finishSwath c lane n).1 := by
  obtain ⟨rfl, hc, hlive, rfl, hline, hon, hnear, hworks⟩ := ho
  subst hu
  simp [State.computeSwath, hc, hlive, Nat.not_le.mpr hline, Nat.not_lt.mpr hnear, hon, hworks, hd, hk]

end

theorem exec_swathCompute_clocked {s : State} {lane : Fin 32} {bad : Bool} (hc : s.clocked = true) :
    exec (.swathCompute lane bad) s = .next (s.computeSwath lane.val bad) := by
  show execSwathCompute lane bad s = _
  rw [execSwathCompute, hc]
  rfl

/-- Settles O12: the lane has a slice, and its context screens or passes through; or it has none. -/
theorem screeningEngine : Obligations.ScreeningEngine := by
  refine ⟨?screens, ?passes, ?noSlice⟩
  case screens =>
    intro s u lane bad c n k hclk howner howned hlive hnext hline hon hnear hworks hu hd hk hw hpass
    rw [exec_swathCompute_clocked hclk, State.computeSwath_stores ⟨howner, howned, hlive, hnext, hline, hon, hnear, hworks⟩ hu hd hk hw,
      hpass, if_neg Bool.false_ne_true]
  case passes =>
    intro s u lane bad c n k hclk howner howned hlive hnext hline hon hnear hworks hu hd hk hw hpass
    rw [exec_swathCompute_clocked hclk, State.computeSwath_stores ⟨howner, howned, hlive, hnext, hline, hon, hnear, hworks⟩ hu hd hk hw,
      hpass, if_pos rfl]
  case noSlice =>
    intro s u lane bad c n hclk howner howned hlive hnext hline hon hnear hworks hu hd hk
    rw [exec_swathCompute_clocked hclk, State.computeSwath_finishes ⟨howner, howned, hlive, hnext, hline, hon, hnear, hworks⟩ hu hd hk]

end Sys2Proof.Machine
end

section
/-!
SUPPORT. The spare slice: its rotation, its take-over of a lane, and the faults of slices (R216 to R219).
-/

namespace Sys2Proof.Machine

section
variable {s : State} {n : Fin 33} {l : Nat}

/-- At the first line of a new period the spare, with none shadowing, begins to shadow the next active slice (R216, R531). -/
theorem exec_sliceRotation_shadows {sp : Fin 33} {a : Nat} (hc : s.clocked = true) (he : s.flag R.SCRN_CFG_ROT_EN = true)
    (hg : s.gleanFlag 2 = true) (hst : s.stalled = false) (hp : s.rotAt < s.globalLine / s.rotPeriod)
    (hno : (List.range 33).any (fun n => (s.slice n).shadows.isSome) = false) (hsp : s.spare = some sp)
    (ha : s.nextActive s.rotNext = some a) :
    exec .sliceRotation s = .next { (s.setSlice sp.val { (s.slice sp.val) with
      shadows := (s.slice a).lane, agreed := 0, checking := false }) with
      rotAt := s.globalLine / s.rotPeriod, rotNext := (a + 1) % 33 } := by
  have hdue : ¬(!s.flag R.SCRN_CFG_ROT_EN ∨ !s.gleanFlag 2 ∨ s.stalled ∨ s.globalLine / s.rotPeriod ≤ s.rotAt ∨
      (List.range 33).any fun n => (s.slice n).shadows.isSome) := by
    rw [he, hg, hst, hno]
    simpa using hp
  show execSliceRotation s = _
  simp only [execSliceRotation, hc, Bool.not_true, Bool.false_eq_true, if_false, if_neg hdue, hsp, ha]

/-- Once its 64 lines agree, the shadow serves the lane, and the slice that served it, if any, is free (R216). -/
theorem exec_shadowComplete_takesOver (hc : s.clocked = true)
    (hn : (List.finRange 33).find? (fun m => (s.slice m.val).shadows.isSome && decide (64 ≤ (s.slice m.val).agreed)) = some n)
    (hl : (s.slice n.val).shadows = some l) :
    exec .shadowComplete s = .next ((((s.laneSlice l).elim s fun k => s.setSlice k.val { (s.slice k.val) with lane := none }).setSlice n.val
      { lane := some l }).count R.SCRN_ROT_COUNT R.SCRN_OVF_ROT_OVF .scrn 1) := by
  show execShadowComplete s = _
  simp only [execShadowComplete, hc, hn, hl, Bool.not_true, Bool.false_eq_true, if_false, Option.getD_some]
  cases s.laneSlice l <;> rfl

/-- A slice that works may fault, and one that is being checked may fail its check (R218, R219). -/
theorem exec_sliceFault_fails {check : Bool} (hc : s.clocked = true) (hm : s.mode (.slice n) ≠ .faulted)
    (hk : check = true → (s.slice n.val).checking = true) :
    exec (.sliceFault n check) s = .next (s.afterTest ((if check then s.testDone (.slice n) 0 3 false else s).sliceFails n
      (if check then .testFail else .fwFault))) := by
  have hfails : ¬(s.mode (.slice n) = .faulted ∨ check ∧ !(s.slice n.val).checking) := by
    rintro (hf | ⟨hcheck, hnot⟩)
    · exact hm hf
    · simp [hk hcheck] at hnot
  show execSliceFault n check s = _
  simp only [execSliceFault, hc, Bool.not_true, Bool.false_eq_true, if_false, if_neg hfails]

end

/-- Settles O13: one clause per command, `SHADOW_COMPLETE` by whether a slice served the lane. -/
theorem sliceRotation : Obligations.SliceRotation := by
  refine ⟨?rotation, ?served, ?unserved, ?fault⟩
  case rotation => exact fun s sp a => exec_sliceRotation_shadows
  case served =>
    intro s n k l hc hn hl hk
    rw [exec_shadowComplete_takesOver hc hn hl, hk]
    rfl
  case unserved =>
    intro s n l hc hn hl hk
    rw [exec_shadowComplete_takesOver hc hn hl, hk]
    rfl
  case fault => exact fun s n check => exec_sliceFault_fails

end Sys2Proof.Machine
end

section
/-!
SUPPORT. The control blocks that a hub sends, told apart by their type (R239).
-/

namespace Sys2Proof.Machine

/-- While the clocks run, an event takes place. -/
theorem event_of_clocked {s : State} {o : Host.Outcome State Fault Refusal} (hc : s.clocked = true) :
    (if !s.clocked then .next s else o) = o :=
  if_neg (by simp [hc])

section
variable {s : State} {lane : Fin 32} {body t : Nat}

theorem exec_temp_received (hc : s.clocked = true) (hb : body % 256 = 0x33) :
    exec (.temp lane body t) s = .next (s.recvTemp lane.val body t) := by
  refine (event_of_clocked hc).trans ?_
  simp only [State.recvHead, hb]

theorem exec_align_received (hc : s.clocked = true) (hb : body % 256 = 0x4B) :
    exec (.align lane body t) s = .next (s.recvAlign lane.val body t) := by
  refine (event_of_clocked hc).trans ?_
  simp only [State.recvHead, hb]

theorem exec_nak_received (hc : s.clocked = true) (hb : body % 256 = 0x55) :
    exec (.nak lane body t) s = .next ((s.advance t).recvNak lane.val body) := by
  refine (event_of_clocked hc).trans ?_
  simp only [State.recvHead, hb]

theorem exec_status_received (hc : s.clocked = true) (hb : body % 256 = 0x66) :
    exec (.status lane body t) s = .next (s.recvStatus lane.val body t) := by
  refine (event_of_clocked hc).trans ?_
  simp only [State.recvHead, hb]

/-- A `TRAIN` block acts on head lanes and on yoke lanes (R230, R504). -/
theorem exec_train_received {l : LaneId} (hc : s.clocked = true) (hl : l.trains = true) (hb : body % 256 = 0x2D) :
    exec (.train l body) s = .next (s.recvTrain l body) := by
  refine (event_of_clocked hc).trans ?_
  cases l with
  | head n => simp only [State.recvCtl, State.recvHead, hb]
  | yoke n => simp only [State.recvCtl, hb, if_true]
  | cam n => cases hl
  | eth n => cases hl

end

end Sys2Proof.Machine
end

section
/-!
SUPPORT. The packets of the head link, where they are taken and nothing refuses them (R234, R261, R273).
-/

namespace Sys2Proof.Machine

section
variable {s : State} {h : Hdr} {mask dst : Nat}

/-- `LANE_TRAIN` at a rate that there is, of lanes that accept work and print for no RUNNING context, is not refused (R234, R237). -/
theorem State.laneTrain_not_refused {rate : Nat} (hr : rate ≤ 1)
    (hrun : ((maskList 32 mask).any fun n => (s.laneCtx n).any fun c => decide (c.st = .running)) = false)
    (ha : s.accepts .hlnk = true) (hl : ((maskList 32 mask).any fun n => !s.accepts (headLane n).node) = false) :
    firstFail [(decide (1 < rate), .badParam),
      ((maskList 32 mask).any fun n => (s.laneCtx n).any fun c => decide (c.st = .running), .ctxState),
      (!s.accepts .hlnk || (maskList 32 mask).any fun n => !s.accepts (headLane n).node, .unitOff)] = none := by
  rw [decide_eq_false (Nat.not_lt.mpr hr), hrun, ha, hl]
  rfl

/-- `LANE_LATENCY` of lanes that are all UP is not refused (R261). -/
theorem State.laneLatency_not_refused (ha : s.accepts .hlnk = true) (hd : s.badAddr dst (32 * (maskList 32 mask).length) = false)
    (hup : ((maskList 32 mask).any fun l => decide (s.lstate (headLane l) ≠ 5)) = false) :
    firstFail (rank0 s .hlnk (s.badAddr dst (32 * (maskList 32 mask).length)) false
      [((maskList 32 mask).any fun l => decide (s.lstate (headLane l) ≠ 5), .laneDown)]) = none := by
  rw [hd, hup]
  exact firstFail_rank0 ha

/-- `HUB_STATUS` of one of the 32 lanes is not refused (R273). -/
theorem State.hubStatus_not_refused {lane : Nat} (ha : s.accepts .hlnk = true) (hl : lane ≤ 31) (hd : s.badAddr dst 544 = false) :
    firstFail (rank0 s .hlnk (decide (31 < lane) || s.badAddr dst 544) false []) = none := by
  rw [decide_eq_false (Nat.not_lt.mpr hl), hd]
  exact firstFail_rank0 ha

end

/-- Settles O14: none of the packets is refused; `LANE_LATENCY` completes at once where its mask names no lane. -/
theorem headLinkPackets : Obligations.HeadLinkPackets := by
  refine ⟨?train, ?pings, ?noLane, ?hubStatus⟩
  case train =>
    rintro s h mask rate _ ht hr hrun ha hl rfl
    exact State.packet_outcome ht (State.laneTrain_not_refused (s := s.begun opLaneTrain h) hr hrun ha hl)
  case pings =>
    intro s h mask dst ht ha hd hup hne
    refine (State.packet_outcome ht (State.laneLatency_not_refused (s := s.begun opLaneLatency h) ha hd hup)).trans ?_
    exact congrArg _ (if_neg (by simpa using hne))
  case noLane =>
    intro s h mask dst ht ha hd hnil
    have hd' : s.badAddr dst (32 * (maskList 32 mask).length) = false := by rw [hnil]; exact hd
    have hup : ((maskList 32 mask).any fun l => decide (s.lstate (headLane l) ≠ 5)) = false := by rw [hnil]; rfl
    refine (State.packet_outcome ht (State.laneLatency_not_refused (s := s.begun opLaneLatency h) ha hd' hup)).trans ?_
    exact congrArg _ (if_pos (by simp [hnil]))
  case hubStatus =>
    intro s h lane dst ht ha hl hd
    exact State.packet_outcome ht (State.hubStatus_not_refused (s := s.begun opHubStatus h) ha hl hd)

end Sys2Proof.Machine
end

section
/-!
SUPPORT. Line commits, fired lines and the slots in which FIRE blocks go (R242, R245, R304, R312 to R314, R330, R639).
-/

namespace Sys2Proof.Machine

section
variable {u : State} {g k e : Nat} {tc : Int}

/-- The synthesizer of a group looks for its next line, with `e` the earliest fire time that can still be commanded: the group is active
in a live context `k`, its channel is neither faulted nor suspended, FIRE is not FAULTED, and no stop is reached (R304, R312, R313, R330). -/
structure State.GroupGoes (u : State) (g k e : Nat) : Prop where
  owner : k = u.groupOwner g
  owned : k ≠ 0
  live : (u.ctx k).live = true
  active : u.flag (R.SYN_STATE_ACTIVE g) = true
  fault : u.flag (R.ENC_STATUS_FAULT (u.rd (R.SYN_STATE_CHANNEL g))) = false
  works : u.mode .fire ≠ .faulted
  suspended : u.flag (R.ENC_STATUS_SUSPENDED (u.rd (R.SYN_STATE_CHANNEL g))) = false
  noStop : ((u.ctx k).stopAt.any fun m => decide (m ≤ u.rd (R.SYN_NEXT_LINE g))) = false
  earliest : e = u.now + u.commitLead g
  noDrain : u.accepts .fire = true ∨ ((u.ctx k).drainAt.any fun m => decide (m ≤ u.rd (R.SYN_NEXT_LINE g))) = false

/-- The line then waits, is committed at its planned time, or is forced, by where that time lies (R313). -/
theorem State.commitLine_planned (h : u.GroupGoes g k e)
    (hx : u.crossing (u.rd (R.SYN_STATE_CHANNEL g)) (u.syn g).acc = some tc) :
    u.commitLine g = if (e : Int) < tc + u.rdS (R.SYN_TOFS_TOFS g) then u
      else if tc + u.rdS (R.SYN_TOFS_TOFS g) = e then u.commitAt g k e false else u.commitForced g k e := by
  obtain ⟨rfl, hk, hlive, hact, hfault, hworks, hsusp, hstop, rfl, hdrain⟩ := h
  have hdrain' : ¬((!u.accepts .fire) = true ∧
      ((u.ctx (u.groupOwner g)).drainAt.any fun m => decide (m ≤ u.rd (R.SYN_NEXT_LINE g))) = true) := by
    rintro ⟨h0, h1⟩
    rcases hdrain with hacc | hnone
    · simp [hacc] at h0
    · simp [hnone] at h1
  simp only [State.commitLine, hx, hk, hlive, hact, hfault, hworks, hsusp, hstop, hdrain', Bool.not_true, Bool.false_eq_true, or_self,
    if_false]

theorem exec_lineCommit_planned {s : State} {n : Fin 32} {t : Nat} (hc : s.clocked = true) (hu : u = s.advance t)
    (h : u.GroupGoes n.val k e) (hx : u.crossing (u.rd (R.SYN_STATE_CHANNEL n.val)) (u.syn n.val).acc = some tc) :
    exec (.lineCommit n t) s = .next (if (e : Int) < tc + u.rdS (R.SYN_TOFS_TOFS n.val) then u
      else if tc + u.rdS (R.SYN_TOFS_TOFS n.val) = e then u.commitAt n.val k e false else u.commitForced n.val k e) := by
  rw [← State.commitLine_planned h hx, hu]
  exact event_of_clocked hc

end

section
variable {s u : State} {lane at' : Nat} {p : FirePlan}

/-- In a slot that begins at or after the planned departure of the earliest plan goes its FIRE block (R245, R246). -/
theorem State.txStep_fire (hp : s.nextPlan lane = some p) (hat : s.planAt lane p ≤ s.txAt lane) :
    s.txStep lane = s.txFire lane p (s.txAt lane) := by
  have hdue : (some p).filter (fun p => decide (s.planAt lane p ≤ s.txAt lane)) = some p := by simp [hat]
  simp only [State.txStep, hp, hdue]

/-- On a lane that this device owns and that carries traffic, a FIRE block leaves unless it would arrive after the fire time, where its
pages are marked (R245, R639). -/
theorem State.txFire_driven (hu : u = s.dropPlan lane p) (ho : u.ownsLane lane = true) (hc : u.carries lane = true) :
    s.txFire lane p at' =
      if 100 * p.t < at' + 100 * s.rd (R.HL_LAT_LAT lane) then u.markPlan lane p markUnderrun
      else
        let v := u.setHead lane { (u.head lane) with fireNext := max (u.head lane).fireNext (p.global + 1) }
        ((v.markHeads lane p.group p).sendCtl lane (fireBlock p.group p.global
          ((100 * (p.t - s.rd (R.HL_LAT_LAT lane)) - at' + 50) / 100) (v.epoch lane))).useSlots lane 1 := by
  subst hu
  simp only [State.txFire, ho, hc, Bool.not_true, Bool.false_eq_true, if_false]

end

/-- Settles O46: a commit by where the planned time lies, the slots of a lane one by one, and a FIRE block by whether it would come too
late. -/
theorem linesAndFire : Obligations.LinesAndFire := by
  refine ⟨?commit, ?waits, ?forced, ?fired, ?start, ?noPlan, ?slot, ?fire, ?late⟩
  case commit =>
    intro s u g t k e tc hc hu hk hk0 hl hact hf hm hsu hst he hdr hx ht
    rw [exec_lineCommit_planned hc hu ⟨hk, hk0, hl, hact, hf, hm, hsu, hst, he, hdr⟩ hx, if_neg (by omega), if_pos ht]
  case waits =>
    intro s u g t k e tc hc hu hk hk0 hl hact hf hm hsu hst he hdr hx ht
    rw [exec_lineCommit_planned hc hu ⟨hk, hk0, hl, hact, hf, hm, hsu, hst, he, hdr⟩ hx, if_pos ht]
  case forced =>
    intro s u g t k e tc hc hu hk hk0 hl hact hf hm hsu hst he hdr hx ht
    rw [exec_lineCommit_planned hc hu ⟨hk, hk0, hl, hact, hf, hm, hsu, hst, he, hdr⟩ hx, if_neg (by omega), if_neg (by omega)]
  case fired =>
    rintro s ctx _ ts hc h0 hl hw rfl hts
    have hgo : ¬(ctx = 0 ∨ (!(s.ctx ctx).live) = true ∨ (s.ctx ctx).wbOnly = true ∨ (s.ctx ctx).firedLines ≠ (s.ctx ctx).firedLines) := by
      simp [h0, hl, hw]
    refine (event_of_clocked hc).trans ((if_neg hgo).trans ?_)
    rw [hts]
  case start => exact fun s lane group t hc hw => (event_of_clocked hc).trans (if_pos hw)
  case noPlan =>
    intro s lane group t hw
    show execLineStartFire lane group t s = _
    rw [execLineStartFire, hw, if_neg Bool.false_ne_true, ite_self]
  case slot => exact fun s lane n h => if_neg (Nat.not_lt.mpr h)
  case fire =>
    rintro s u _ lane _ p hp hat rfl hu ho hc rfl hlate
    rw [State.txStep_fire hp hat, State.txFire_driven hu ho hc, if_neg hlate]
  case late =>
    rintro s u _ lane _ p hp hat rfl hu ho hc - hlate
    rw [State.txStep_fire hp hat, State.txFire_driven hu ho hc, if_pos hlate, State.markPlan]

end Sys2Proof.Machine
end

section
/-!
SUPPORT. What a hub's `NAK`, `STATUS` and `ALIGN` do on a head lane (R250, R256, R259, R265, R268, R523).
-/

namespace Sys2Proof.Machine

section
variable {s u v w : State} {lane body t : Nat}

/-- A `NAK` of the lane's epoch, on a lane that this device drives, is not ignored (R250, R255). -/
theorem State.not_nakIgnored (he : bits body 48 16 = u.epoch lane) (hd : u.drives lane = true) :
    ¬(bits body 48 16 ≠ u.epoch lane ∨ (!u.drives lane) = true) := by
  simp [he, hd]

theorem State.recvNak_map (hu : u = s.txRun lane) (he : bits body 48 16 = u.epoch lane) (hd : u.drives lane = true)
    (hm : bit body 44 = true) :
    s.recvNak lane body = u.replayMap (u.laneOwner lane) lane (bits body 8 16) (bits body 24 12) (bits body 36 5) := by
  subst hu
  exact (if_neg (State.not_nakIgnored he hd)).trans (if_pos hm)

theorem State.recvNak_words {l : LoftLine} (hu : u = s.txRun lane) (he : bits body 48 16 = u.epoch lane) (hd : u.drives lane = true)
    (hm : bit body 44 = false) (hl : (u.head lane).sentLine (bits body 8 16) = some l) :
    s.recvNak lane body = u.replayWords lane l (bits body 24 12) (bits body 36 5) := by
  subst hu
  simp only [State.recvNak, if_neg (State.not_nakIgnored he hd), hm, hl, Bool.false_eq_true, if_false]

/-- The hub's flags and epoch as `HL_STATE` and `HL_EPOCH` show them (R256, R265). -/
def State.storeHub (s : State) (lane body : Nat) : State :=
  ((((((s.wr (R.HL_STATE_HUB_HOLD lane) (bits body 8 1)).wr (R.HL_STATE_HUB_BLANK lane) (bits body 9 1)).wr
    (R.HL_STATE_HUB_PORT lane) (bits body 10 1)).wr (R.HL_STATE_FOLLOWED lane) (bits body 11 1)).wr
    (R.HL_STATE_HUB_RX_LOCK lane) (bits body 12 1)).wr (R.HL_STATE_HUB_HI_BER lane) (bits body 13 1)).wr
    (R.HL_EPOCH_HUB_EPOCH lane) (bits body 48 16)

/-- The words that a hub has missed count, and mark their pages (R256). -/
def State.noteMissed (s : State) (lane body : Nat) : State :=
  if bits body 32 8 = 0 then s
  else (s.count (R.HL_MISSED_COUNT lane) (R.HL_OVF_MISSED_OVF lane) .hlnk (bits body 32 8)).markMissed lane
    (near16 s.globalLine (bits body 16 16))

/-- `STATUS` of a hub that locks, neither holds nor blanks and follows no higher epoch is stored, and is all that it does (R256, R265). -/
theorem State.recvStatus_quiet (hhold : bit body 8 = false) (hblank : bit body 9 = false) (hlock : bit body 12 = true)
    (hw : w = ((s.advance t).storeHub lane body).noteMissed lane body)
    (hv : v = w.setHead lane { (w.head lane) with
      lastStatus := body, statusTime := t, statusNs := w.baseNs 0 t, statusLast := some (near16 s.globalLine (bits body 16 16)) })
    (he : bits body 48 16 ≤ v.epoch lane) : s.recvStatus lane body t = v := by
  rw [hv, hw] at he
  have hepoch := Nat.not_lt.mpr he
  simp only [State.recvStatus, hhold, hblank, hlock, Bool.or_self, State.raiseIf, if_true, Bool.false_eq_true, if_false]
  rw [hv, hw]
  exact if_neg hepoch

/-- The echo of a known ping of the lane's own forms a sample (R259). -/
theorem State.recvAlign_echo {tx : Nat} (he : bit body 8 = true)
    (hp : tget none (s.head lane).pings (bits body 16 16) = some (tx, none))
    (hu : u = (s.advance t).setHead lane { (s.head lane) with pings := tset none (s.head lane).pings (bits body 16 16) none }) :
    s.recvAlign lane body t = u.latSample lane ((t : Int) - (tx : Int) - (bits body 32 24 : Nat)) (bits body 32 24) := by
  subst hu
  simp only [State.recvAlign, he, State.advance_head, hp, Bool.not_true, Bool.false_eq_true, if_false]

end

section
variable {s u v : State} {lane : Fin 32}

/-- An UP lane that carries nothing, with both locks, carries traffic again 1 ms after its lock (R269). -/
theorem exec_laneTrafficResume_resumes (hc : s.clocked = true) (hidle : (s.head lane.val).carrying = false)
    (hu : u = s.advance ((s.lane (headLane lane.val)).lockAt + 16000000)) (hup : u.lstate (headLane lane.val) = 5)
    (hlock : u.flag (R.LANE_STATUS_BLOCK_LOCK (headLane lane.val).b) = true) (hrx : u.flag (R.HL_STATE_HUB_RX_LOCK lane.val) = true)
    (hv : v = u.txRun lane.val) :
    exec (.laneTrafficResume lane) s = .next ((v.setHead lane.val { (v.head lane.val) with
      carrying := true, firstCarried := none, statusLast := none, downTo := (v.head lane.val).sendFrom }).pump lane.val) := by
  subst hu hv
  refine (event_of_clocked hc).trans (if_neg ?_)
  rintro (h | h | h | h)
  · exact absurd h (by simp [hidle])
  · exact h hup
  · exact absurd h (by simp [hlock])
  · exact absurd h (by simp [hrx])

end

/-- Settles O47: one clause per command, `NAK` by what it names and `STATUS` by whether the hub has missed words. -/
theorem hubEvents : Obligations.HubEvents := by
  refine ⟨?nakWords, ?nakMap, ?status, ?statusMissed, ?ping, ?echo, ?latency, ?resume⟩
  case nakWords =>
    intro s u lane body t l hc hb hu he hd hm hl
    rw [exec_nak_received hc hb, State.recvNak_words hu he hd hm hl]
  case nakMap =>
    intro s u lane body t hc hb hu he hd hm
    rw [exec_nak_received hc hb, State.recvNak_map hu he hd hm]
  case status =>
    rintro s u v lane body t hc hb hhold hblank hlock hmiss hu hv he
    have hw : u = ((s.advance t).storeHub lane.val body).noteMissed lane.val body := hu.trans (if_pos hmiss).symm
    rw [exec_status_received hc hb, State.recvStatus_quiet hhold hblank hlock hw hv he]
  case statusMissed =>
    rintro s _ v w lane body t hc hb hhold hblank hlock hmiss rfl hw hv he
    have hw' : w = ((s.advance t).storeHub lane.val body).noteMissed lane.val body := hw.trans (if_neg hmiss).symm
    rw [exec_status_received hc hb, State.recvStatus_quiet hhold hblank hlock hw' hv he]
  case ping => exact fun s lane t hc hup => (event_of_clocked hc).trans (if_pos hup)
  case echo =>
    intro s u lane body t tx hc hb he hp hu
    rw [exec_align_received hc hb, State.recvAlign_echo he hp hu]
  case latency =>
    intro s p rest hc hp
    refine (event_of_clocked hc).trans ?_
    rw [hp]
  case resume => exact fun s u v lane => exec_laneTrafficResume_resumes

end Sys2Proof.Machine
end

section
/-!
SUPPORT. What a lane's receiver reports, and the training of a lane (R225 to R227, R230 to R236, R239).
-/

namespace Sys2Proof.Machine

section
variable {s c u v : State} {l : LaneId} {a : List Nat} {g n body : Nat}

/-- An invalid sync header counts, sets `HI_BER` at the limit of the window, and the sixteenth of 64 headers loses lock (R225, R227). -/
theorem State.badHeader_eq (hc : c = s.count (R.LANE_ERR_SH_COUNT l.b) (R.LANE_OVF_SH_OVF l.b) l.node 1)
    (ha : a = 0 :: (((c.lane l).badAges.map (· + g + 1)).filter fun j => decide (j < 64))) (hn : n = (c.lane l).berCount + 1)
    (hu : u = c.setLane l { (c.lane l) with badAges := a, berCount := n, cleanAt := c.now })
    (hv : v = if u.berLimit l ≤ n ∧ !u.flag (R.LANE_STATUS_HI_BER l.b) then (u.wr (R.LANE_STATUS_HI_BER l.b) 1).raise l.node 18 else u) :
    s.badHeader l g = if 16 ≤ a.length ∧ v.flag (R.LANE_STATUS_BLOCK_LOCK l.b) then v.loseLock l else v := by
  subst hc ha hn hu hv
  rfl

/-- 2 ms of HELLO end the training; a lane in HELLO is not in LOCKING (R230). -/
theorem exec_trainStateTimeout_hello (hc : s.clocked = true) (hl : l.trains = true) (hst : s.lstate l = 2) :
    exec (.trainStateTimeout l) s = .next ((s.advance ((s.lane l).stateAt + 32000000)).failTrain l 3) := by
  have hnot : ¬ s.lstate l = 1 := by omega
  refine (event_of_clocked hc).trans ((if_neg (by simp [hl])).trans ?_)
  rw [if_neg hnot, if_pos hst]

/-- A tap request without an answer for 100 µs is sent again, and the third ends the training (R230). -/
theorem exec_tapRequestRetry_runs {m : Nat} (hc : s.clocked = true) (ht : s.training l = true)
    (hr : (s.lane l).request = some (m, n)) (hu : u = s.advance ((s.lane l).reqAt + 1600000)) :
    exec (.tapRequestRetry l) s = .next (if 3 ≤ n then u.failTrain l 5
      else (u.setLane l { (s.lane l) with request := some (m, n + 1), reqAt := u.now }).sendTrain l 1) := by
  subst hu
  refine (event_of_clocked hc).trans ?_
  simp only [hr, ht, Bool.not_true, Bool.false_eq_true, if_false]
  split <;> rfl

theorem exec_laneCtrlStart_reaches (hr : s.HostReaches) : exec (.laneCtrlStart l) s = .next (s.writeStart l) :=
  congrArg Host.Outcome.next (State.hostAccess_reaches hr _ _ _)

theorem exec_laneRateWrite_reaches {rate : Bool} (hr : s.HostReaches) : exec (.laneRateWrite l rate) s = .next (s.writeRate l rate) :=
  congrArg Host.Outcome.next (State.hostAccess_reaches hr _ _ _)

/-- `START` trains a lane that trains and accepts work (R230, R234). -/
theorem State.writeStart_accepted (hl : l.trains = true) (ha : s.accepts l.node = true) :
    s.writeStart l = s.askTrain l (s.rd (R.LANE_CTRL_RATE l.b)) :=
  if_pos (by simp [hl, ha])

/-! The kinds of a `TRAIN` block (R230, R232). -/

theorem State.recvTrain_hello (hm : bits body 8 4 = 0) : s.recvTrain l body = s.recvHello l body := by
  simp only [State.recvTrain, hm]

theorem State.recvTrain_tune (hm : bits body 8 4 = 1) : s.recvTrain l body = s.recvTune l body := by
  simp only [State.recvTrain, hm]

theorem State.recvTrain_ready (hm : bits body 8 4 = 2) : s.recvTrain l body = s.recvTune l body := by
  simp only [State.recvTrain, hm]

theorem State.recvTrain_abort (hm : bits body 8 4 = 3) (ht : s.training l = true) : s.recvTrain l body = s.failTrain l 6 := by
  simp only [State.recvTrain, hm, ht, if_true]

end

/-- Settles O48: one clause per command and per kind of its report. -/
theorem laneEvents : Obligations.LaneEvents := by
  refine ⟨?blockLock, ?clockLoss, ?lockLoss, ?signalLoss, ?signal, ?berWindow, ?berLast, ?header, ?type, ?hello, ?tune, ?ready, ?abort,
    ?clean, ?locking, ?inHello, ?retry, ?trainT, ?start, ?rate⟩
  case blockLock =>
    rintro s _ l hc rfl
    exact event_of_clocked hc
  case clockLoss =>
    rintro s _ l t hc rfl
    exact event_of_clocked hc
  case lockLoss =>
    rintro s _ _ l t hc rfl rfl
    exact event_of_clocked hc
  case signalLoss => exact fun s l t hc => event_of_clocked hc
  case signal => exact fun s l t hc => event_of_clocked hc
  case berWindow =>
    rintro s _ l t hc rfl
    exact event_of_clocked hc
  case berLast =>
    rintro s _ _ l g t hc rfl rfl
    exact event_of_clocked hc
  case header =>
    intro s c u v l g n a hclk hc ha hn hu hv
    refine (event_of_clocked hclk).trans ?_
    rw [State.badHeader_eq hc ha hn hu hv]
  case type => exact fun s l hc => event_of_clocked hc
  case hello =>
    intro s l body hc hl hb hm
    rw [exec_train_received hc hl hb, State.recvTrain_hello hm]
  case tune =>
    intro s l body hc hl hb hm
    rw [exec_train_received hc hl hb, State.recvTrain_tune hm]
  case ready =>
    intro s l body hc hl hb hm
    rw [exec_train_received hc hl hb, State.recvTrain_ready hm]
  case abort =>
    intro s l body hc hl hb hm ht
    rw [exec_train_received hc hl hb, State.recvTrain_abort hm ht]
  case clean =>
    rintro s _ l hc hl hst rfl
    exact (event_of_clocked hc).trans (if_neg (by simp [hl, hst]))
  case locking =>
    intro s l hc hl hst
    exact (event_of_clocked hc).trans ((if_neg (by simp [hl])).trans (if_pos hst))
  case inHello => exact fun s l => exec_trainStateTimeout_hello
  case retry => exact fun s u l a b => exec_tapRequestRetry_runs
  case trainT => exact fun s l hc hl ht => (event_of_clocked hc).trans (if_pos ⟨hl, ht⟩)
  case start =>
    intro s l hr hl ha
    rw [exec_laneCtrlStart_reaches hr, State.writeStart_accepted hl ha]
  case rate =>
    rintro s _ n rate hr rfl
    rw [exec_laneRateWrite_reaches hr, State.writeRate]

end Sys2Proof.Machine
end

section
/-!
SUPPORT. Sensors, heads, tallies and ageing (R537, R550 to R554, R558, R561 to R563).
-/

namespace Sys2Proof.Machine

section
variable {s u : State} {l k body t : Nat}

/-- A report of a head in the head count, with a valid temperature, orders the head by it (R552, R553). -/
theorem State.recvTemp_valid (hk : k = bits body 8 6)
    (hu : u = (s.advance t).setHead l { (s.head l) with temps := tset 0 (s.head l).temps k body, tempAt := tset 0 (s.head l).tempAt k t })
    (hin : k < s.headCount l) (hv : bit body 32 = false) :
    s.recvTemp l body t = u.headTemp l k (toS 16 (bits body 16 16)) (bit body 15) t := by
  subst hk hu
  refine (if_neg (Nat.not_le.mpr hin)).trans ?_
  rw [if_neg (by simp [hv])]
  rfl

/-- The first report that a head's sensor has failed orders `VSTEP_MAX` (R554). -/
theorem State.recvTemp_fault (hk : k = bits body 8 6)
    (hu : u = (s.advance t).setHead l { (s.head l) with temps := tset 0 (s.head l).temps k body, tempAt := tset 0 (s.head l).tempAt k t })
    (hin : k < s.headCount l) (hv : bit body 32 = true) (hfirst : tget false (s.head l).sensorBad k = false) :
    s.recvTemp l body t = u.headSensorFails l k := by
  subst hk hu
  refine (if_neg (Nat.not_le.mpr hin)).trans ((if_pos hv).trans (if_neg ?_))
  simp [hfirst]

end

section
variable {s : State} {lane : Fin 32} {head : Fin 64} {t : Nat}

/-- A head that has reported before and then nothing for 5 ms has lost its sensor (R554). -/
theorem exec_headSensor_silent (hc : s.clocked = true) (hr : tget 0 (s.head lane.val).temps head.val ≠ 0)
    (hg : tget false (s.head lane.val).sensorBad head.val = false) (hl : tget 0 (s.head lane.val).tempAt head.val + 80000000 ≤ t) :
    exec (.headSensor lane head t) s = .next ((s.advance t).headSensorFails lane.val head.val) := by
  refine (event_of_clocked hc).trans (if_neg ?_)
  rintro (h | h | h)
  · exact hr h
  · exact absurd h (by simp [hg])
  · exact absurd h (Nat.not_lt.mpr hl)

/-- A disabled head that has been below its limit for 10 ms is enabled (R553). -/
theorem exec_headEnableTimer_enables {u : State} {since : Nat} (hc : s.clocked = true)
    (hd : tget false (s.head lane.val).disabled head.val = true) (hs : since = tget 0 (s.head lane.val).belowSince head.val)
    (h0 : since ≠ 0) (hl : since + 160000000 ≤ t + 1)
    (hu : u = (s.advance t).setHead lane.val { (s.head lane.val) with belowSince := tset 0 (s.head lane.val).belowSince head.val 0 }) :
    exec (.headEnableTimer lane head t) s = .next (u.orderHead lane.val head.val (u.nextStep lane.val
      (tget 0 (s.head lane.val).vstep head.val) (toS 16 (bits (tget 0 (s.head lane.val).temps head.val) 16 16))) false) := by
  subst hs hu
  refine (event_of_clocked hc).trans (if_neg ?_)
  rintro (h | h | h)
  · exact absurd h (by simp [hd])
  · exact h0 h
  · exact absurd h (Nat.not_lt.mpr hl)

end

/-- `AGE_MONITOR` in its stages: the hour passes, the hours and the drifts are stored, and the end of life is predicted (R563). -/
theorem exec_ageMonitor_stages {s w t u : State} {drifts : List Nat}
    (hw : w = { (s.advance (s.hlth.hourAt + 57600000000000)) with hlth := { s.hlth with hourAt := s.hlth.hourAt + 57600000000000 } })
    (ht : t = (List.range 16).foldl (fun (q : State) i => q.wr (R.AGE_DRIFT_PPM i) (drifts.getD i 0))
      (w.wr R.HLTH_HOURS_HOURS (min 0xFFFFFFFF (w.rd R.HLTH_HOURS_HOURS + 1))))
    (hu : u = t.ageEol (min 0xFFFFFFFF (w.rd R.HLTH_HOURS_HOURS + 1))
      ((List.range 16).foldl (fun (m : Nat) i => max m (t.rd (R.AGE_DRIFT_PPM i))) 0)) :
    exec (.ageMonitor drifts) s = .next (State.raiseIf
      { u with hlth := { u.hlth with ageWarned := u.hlth.ageWarned || decide (u.rd R.AGE_EOL_HOURS < 8760) } }
      (decide (u.rd R.AGE_EOL_HOURS < 8760) && !u.hlth.ageWarned) .hlth 26) := by
  show execAgeMonitor drifts s = _
  unfold execAgeMonitor
  extract_lets hour advanced health passed hours counted drifted predicted
  have hpassed : passed = w := hw.symm
  have hdrifted : drifted = t := by rw [ht, ← hpassed]
  have hpredicted : predicted = u := by rw [hu, ← hdrifted, ← hpassed]
  clear_value predicted
  subst hpredicted
  rfl

/-- Settles O41: one clause per command, `TEMP` by whether the head's sensor has failed. -/
theorem healthEvents : Obligations.HealthEvents := by
  refine ⟨?scan, ?stop, ?temp, ?tempFault, ?silent, ?enable, ?flush, ?clear, ?life, ?age⟩
  case scan => exact fun s sites t hd => if_neg hd
  case stop => exact fun s on hr => congrArg _ (State.hostAccess_reaches hr _ _ _)
  case temp =>
    intro s u lane body t k hc hk hu hin hb hv
    rw [exec_temp_received hc hb, State.recvTemp_valid hk hu hin hv]
  case tempFault =>
    intro s u lane body t k hc hk hu hin hb hv hfirst
    rw [exec_temp_received hc hb, State.recvTemp_fault hk hu hin hv hfirst]
  case silent => exact fun s lane head t => exec_headSensor_silent
  case enable => exact fun s u lane head t since => exec_headEnableTimer_enables
  case flush =>
    rintro s lane _ rfl hdue
    exact if_neg (Nat.not_le.mpr hdue)
  case clear =>
    rintro s _ lo hi _ hr rfl rfl
    exact congrArg _ (State.hostAccess_reaches hr _ _ _)
  case life =>
    intro s lane head hl hin
    show execHeadLifeUpdate lane head s = _
    rw [execHeadLifeUpdate, if_neg (not_or.mpr ⟨hl, Nat.not_le.mpr hin⟩)]
  case age => exact fun s w t u drifts => exec_ageMonitor_stages

end Sys2Proof.Machine
end

section
/-!
SUPPORT. The packets of the FIRE unit, where they are taken and nothing refuses them (R279 to R282, R306 to R308, R320, R322, R323, R328).
-/

namespace Sys2Proof.Machine

section
variable {s : State} {d : List Byte} {a : Nat}

/-- A block that is read and good, on a channel that paces no RUNNING context, configures one of the 4 channels (R280, R281). -/
theorem State.encConfig_not_refused {channel type : Nat} (ha : s.accepts .fire = true) (hc : channel ≤ 3) (ht : type ≤ 3)
    (hp : s.paces channel = false) (hr : s.Reads a 64 d) (hb : encBad type d = false) :
    firstFail (rank s .fire (decide (3 < channel) || decide (3 < type) || (!(okBytes (s.readAt a 64)).isEmpty && encBad type d))
      (s.paces channel) (s.readAt a 64) []) = none := by
  rw [hp, State.readAt_of_reads hr]
  refine firstFail_rank_ok ha ?_
  rw [decide_eq_false (Nat.not_lt.mpr hc), decide_eq_false (Nat.not_lt.mpr ht), hb, Bool.and_false, Bool.or_false, Bool.or_false]

/-- A context that holds the group keeps its channel (R307). -/
theorem synthChannel_kept {k c c' : Nat} (h : k = 0 ∨ c = c') : (decide (k ≠ 0) && decide (c ≠ c')) = false := by
  rcases h with rfl | rfl <;> simp

/-- A good block for one of the 32 groups, of the channel that its context paces by, is not refused where no block of the group is
pending (R307, R308, R310). -/
theorem State.synthSet_not_refused {group w k : Nat} {pending : Bool} (ha : s.accepts .fire = true) (hg : group ≤ 31) (hw : w ≤ 1)
    (hr : s.Reads a 64 d) (hb : synthBad d = false) (hk : k = 0 ∨ fieldN d 0 1 = s.rd (R.SYN_STATE_CHANNEL group))
    (hp : w = 0 ∨ pending = false) :
    firstFail (rank s .fire (decide (31 < group) || decide (1 < w) || (!(okBytes (s.readAt a 64)).isEmpty &&
        (synthBad d || (decide (k ≠ 0) && decide (fieldN d 0 1 ≠ s.rd (R.SYN_STATE_CHANNEL group)))))) false (s.readAt a 64)
      [(decide (w = 1) && pending, .tablePending)]) = none := by
  rw [State.readAt_of_reads hr]
  refine (firstFail_rank_ok ha ?_).trans (firstFail_tablePending hp)
  rw [decide_eq_false (Nat.not_lt.mpr hg), decide_eq_false (Nat.not_lt.mpr hw), hb, synthChannel_kept hk, Bool.or_false, Bool.and_false,
    Bool.or_false]

/-- A target of at least 10 ns for one of the 16 outputs, on a channel that has a type, is not refused (R322). -/
theorem State.compareSet_not_refused {output width : Nat} (ha : s.accepts .fire = true) (ho : output ≤ 15) (hw : 10 ≤ width)
    (ht : s.rd (R.ENC_STATUS_TYPE (s.cmpCh output)) ≠ 7) :
    firstFail (rank0 s .fire (decide (15 < output) || decide (width < 10) || decide (s.rd (R.ENC_STATUS_TYPE (s.cmpCh output)) = 7))
      false []) = none := by
  rw [decide_eq_false (Nat.not_lt.mpr ho), decide_eq_false (Nat.not_lt.mpr hw), decide_eq_false ht]
  exact firstFail_rank0 ha

/-- The records of one of the 8 inputs are read into a good buffer (R320). -/
theorem State.latchRead_not_refused {input n : Nat} (ha : s.accepts .fire = true) (hi : input ≤ 7) (hd : s.badAddr a n = false) :
    firstFail (rank0 s .fire (decide (7 < input) || s.badAddr a n) false []) = none := by
  rw [decide_eq_false (Nat.not_lt.mpr hi), hd]
  exact firstFail_rank0 ha

/-- One of the 2 divided outputs takes any divisor (R328). -/
theorem State.divSet_not_refused {output : Nat} (ha : s.accepts .fire = true) (ho : output ≤ 1) :
    firstFail (rank0 s .fire (decide (1 < output)) false []) = none := by
  rw [decide_eq_false (Nat.not_lt.mpr ho)]
  exact firstFail_rank0 ha

end

/-- Settles O15: nothing refuses the packets, and a queue of less than 8 targets does not hold `COMPARE_SET` back. -/
theorem firePackets : Obligations.FirePackets := by
  refine ⟨?encConfig, ?synthSet, ?compareSet, ?latchRead, ?divSet⟩
  case encConfig =>
    rintro s h channel type block _ _ ht ha hc hty hp ⟨hr1, hr2, hr3, rfl⟩ hbad rfl
    exact State.packetR_outcome_of_read ht
      (State.encConfig_not_refused (s := s.begun opEncConfig h) ha hc hty hp ⟨hr1, hr2, hr3, rfl⟩ hbad)
  case synthSet =>
    rintro s h group w block _ _ ht ha hg hw ⟨hr1, hr2, hr3, rfl⟩ hbad hk hpend rfl
    have hp : w = 0 ∨ (s.changePending (.synth group) || (s.syn group).later.any fun e => e.2.isBlock) = false := by
      simpa only [Bool.or_eq_false_iff] using hpend
    refine (State.packetR_outcome_of_read ht
      (State.synthSet_not_refused (s := s.begun opSynthSet h) ha hg hw ⟨hr1, hr2, hr3, rfl⟩ hbad hk hp)).trans ?_
    simp only [Bool.and_eq_true, decide_eq_true_eq]
  case compareSet =>
    rintro s h output flags target width _ ht ha ho hq hw hty rfl
    have hroom : ¬(output < 16 ∧ 8 ≤ (s.cmp output).queue.length) := fun hfull => Nat.not_le.mpr hq hfull.2
    exact State.packetR_outcome_of_not_held hroom ht
      (State.compareSet_not_refused (s := s.begun opCompareSet h) ha ho hw hty)
  case latchRead =>
    intro s h input dst most ht ha hi hd
    exact State.packet_outcome ht (State.latchRead_not_refused (s := s.begun opLatchRead h) ha hi hd)
  case divSet =>
    rintro s h output divisor _ ht ha ho rfl
    exact State.packet_outcome ht (State.divSet_not_refused (s := s.begun opDivSet h) ha ho)

end Sys2Proof.Machine
end

section
/-!
SUPPORT. What the encoder inputs do to a channel of their type while the clocks run (R282 to R292, R296, R300).
-/

namespace Sys2Proof.Machine

/-! ## Sine and cosine -/

section
variable {s u v : State} {ch t th o : Nat} {x c s1 cc raw q per : Int} {pt last : EncPt}

/-- A vector within the ring is not bad (R286). -/
theorem inRing_not_bad {lo hi : Nat} {r : Int} (hlo : ((lo * lo : Nat) : Int) ≤ r) (hhi : r ≤ ((hi * hi : Nat) : Int)) :
    (decide (r < (lo * lo : Nat)) || decide (((hi * hi : Nat) : Int) < r)) = false := by
  rw [decide_eq_false (Int.not_lt.mpr hlo), decide_eq_false (Int.not_lt.mpr hhi), Bool.or_false]

/-- The pair of samples is corrected to `s1` and `cc` and turned into the angle `th`, the periods `per` and the raw position `raw` of a
channel that has an angle `o` and a raw position `q` already; the vector lies in the ring, and the step is at most 1,024 counts (R283 to
R287). -/
structure State.GoodPair (u : State) (ch : Nat) (x c s1 cc raw q per : Int) (th o : Nat) : Prop where
  sine : s1 = x - u.rdS (R.ENC_CORR_OFS_S ch)
  cosine : cc = sar ((c - u.rdS (R.ENC_CORR_OFS_C ch)) * u.rdS (R.ENC_GAIN_GC ch) + s1 * u.rdS (R.ENC_GAIN_PH ch) + 8192) 14
  angle : th = atan4096 (Config.free .angle u.fresh) s1 cc
  angleBefore : (u.enc ch).theta = some o
  periods : per = if 3072 ≤ o ∧ th < 1024 then (u.enc ch).periods + 1
    else if o < 1024 ∧ 3072 ≤ th then (u.enc ch).periods - 1 else (u.enc ch).periods
  position : raw = per * 4096 + th
  positionBefore : (u.enc ch).raw = some q
  step : (raw - q).natAbs ≤ 1024
  inner : (((u.enc ch).radMin * (u.enc ch).radMin : Nat) : Int) ≤ s1 * s1 + cc * cc
  outer : s1 * s1 + cc * cc ≤ (((u.enc ch).radMax * (u.enc ch).radMax : Nat) : Int)

/-- Such a pair enters the window and moves the channel without a fault (R283 to R288). -/
theorem State.encSample_good (hty : s.rd (R.ENC_STATUS_TYPE ch) = 0)
    (hu : u = if 65536 ≤ (s.enc ch).winN then s.endWindow ch else s) (h : u.GoodPair ch x c s1 cc raw q per th o)
    (hv : v = State.setEnc { u with fresh := u.fresh + 1 } ch
      (EncRt.lissa { (u.enc ch) with theta := some th, periods := per, raw := some raw, badRad := 0 } x c raw))
    (hpt : pt = ⟨t, (u.enc ch).sense (raw - (u.enc ch).zero)⟩) (hlast : (u.enc ch).hist.head? = some last) :
    s.encSample ch x c t = v.encMove ch pt (sinEdges ⟨last.t, v.encPos ch⟩ pt) := by
  obtain ⟨hs1, hcc, hth, ho, hper, hraw, hq, hstep, hlo, hhi⟩ := h
  have henc : State.enc { u with fresh := u.fresh + 1 } ch = u.enc ch := rfl
  have hring := inRing_not_bad hlo hhi
  have hjump : decide (1024 < (raw - q).natAbs) = false := decide_eq_false (Nat.not_lt.mpr hstep)
  have hfew : ¬4 ≤ 0 := by decide
  simp only [State.encSample, hty, ← hu, ← hs1, ← hcc, ← hth, henc, ho, ← hper, ← hraw, hq, hring, hjump, hlast, Option.getD_some,
    ne_eq, not_true_eq_false, Bool.false_eq_true, if_false, hfew, ← hv, ← hpt]

end

/-- The end of a window without automatic correction shows its extremes and begins the next one (R288). -/
theorem State.endWindow_uncorrected {s : State} {ch : Nat} (ha : (s.enc ch).autoCorr = false) :
    s.endWindow ch = ((((State.wrS { s with fresh := s.fresh + 1 } (R.ENC_LISSA_S_MAX ch) (s.enc ch).sMax).wrS
      (R.ENC_LISSA_S_MIN ch) (s.enc ch).sMin).wrS (R.ENC_LISSA_C_MAX ch) (s.enc ch).cMax).wrS
      (R.ENC_LISSA_C_MIN ch) (s.enc ch).cMin).setEnc ch { (s.enc ch) with winN := 0 } := by
  simp only [State.endWindow, ha, Bool.false_and, Bool.false_eq_true, if_false]

/-! ## A/B/Z -/

section
variable {s : State} {ch : Fin 4} {a b : Bool} {held t : Nat}

/-- A transition that is held for the filter counts with the instant at which it began (R289). -/
theorem exec_quadratureTransition_held (hc : s.clocked = true) (hty : s.rd (R.ENC_STATUS_TYPE ch.val) = 1)
    (hf : (s.enc ch.val).filter ≤ 16 * held) :
    exec (.quadratureTransition ch a b ⟨held, t⟩) s = .next ((s.advance (t + (s.enc ch.val).filter)).quadrature ch.val a b t) := by
  have hw : s.inputFilter ch.val = (s.enc ch.val).filter := if_pos hty
  refine (event_of_clocked hc).trans ?_
  simp only [hw, if_neg (Nat.not_lt.mpr hf)]

theorem exec_quadratureTransition_short (hf : 16 * held < s.inputFilter ch.val) :
    exec (.quadratureTransition ch a b ⟨held, t⟩) s = .next s := by
  show execQuadratureTransition ch a b ⟨held, t⟩ s = _
  rw [execQuadratureTransition, if_pos hf, ite_self]

end

/-- Two changes lie in one nanosecond (R289). -/
def oneNs (y z : Option Nat) : Bool :=
  match y, z with
  | some i, some j => decide (i / 16 = j / 16)
  | _, _ => false

theorem oneNs_of_apart {y z : Option Nat} (h : y = none ∨ y.map (fun i => i / 16) ≠ z.map (fun i => i / 16)) : oneNs y z = false := by
  cases y with
  | none => rfl
  | some i =>
    cases z with
    | none => rfl
    | some j => exact decide_eq_false fun hij => by simp [hij] at h

theorem quadPlace_opposite {a b a0 b0 : Bool} (ha : a ≠ a0) (hb : b ≠ b0) : (quadPlace a b + 4 - quadPlace a0 b0) % 4 = 2 := by
  revert a b a0 b0
  decide

section
variable {s u : State} {ch t : Nat} {a b a0 b0 : Bool} {y z : Option Nat}

/-- New levels on a channel that knows those before them: two changes in one nanosecond are a fault, and a step to a neighbouring place
moves the position by 1,024 counts (R289). -/
theorem State.quadrature_known (hty : s.rd (R.ENC_STATUS_TYPE ch) = 1) (hl : (s.enc ch).levels = some (a0, b0)) (hne : ¬(a0 = a ∧ b0 = b))
    (hy : y = if a = a0 then (s.enc ch).aAt else some t) (hz : z = if b = b0 then (s.enc ch).bAt else some t)
    (hu : u = s.setEnc ch { (s.enc ch) with levels := some (a, b), aAt := y, bAt := z }) :
    s.quadrature ch a b t =
      let v := if oneNs y z then u.encFault ch 3 .encFault t else u
      let d := (quadPlace a b + 4 - quadPlace a0 b0) % 4
      if d = 2 then v
      else
        let dir := (s.enc ch).sense (if d = 1 then 1 else -1)
        v.encMove ch ⟨t, v.encPos ch + dir * 1024⟩ [(⟨t, v.encPos ch + dir * 1024⟩, dir)] := by
  have hchange : ¬some (a0, b0) = some (a, b) := fun h => hne (by simpa using h)
  have huty : u.rd (R.ENC_STATUS_TYPE ch) = 1 := by rw [hu]; exact hty
  simp only [State.quadrature, hl, hchange, if_false, Option.getD_some, Option.isNone_some, Bool.false_eq_true, ← hy, ← hz, ← hu, huty,
    ne_eq, not_true_eq_false]
  rfl

end

/-! ## BiSS-C and SSI -/

section
variable {s : State} {ch : Fin 4} {pos crc t : Nat} {nE nW start : Bool}

/-- The read had its start bit in time and its CRC is right (R290). -/
def State.bissGood (s : State) (ch pos : Nat) (nE nW : Bool) (crc : Nat) (start : Bool) : Bool :=
  start && decide (crc % 64 = 63 - crc6 ((s.enc ch).posBits + 2) (4 * (pos % 2 ^ (s.enc ch).posBits) + 2 * b2n nE + b2n nW))

/-- A BiSS read is discarded, or sets WARN and is accepted, or has its error bit set (low) and is a fault (R290). -/
theorem exec_bissRead_eq (hc : s.clocked = true) (hty : (s.advance t).rd (R.ENC_STATUS_TYPE ch.val) = 2) :
    exec (.bissRead ch pos nE nW crc start t) s = .next
      (if s.bissGood ch.val pos nE nW crc start then
        let u := (s.advance t).wrB (R.ENC_STATUS_WARN ch.val) (!nW)
        if nE then u.acceptRead ch.val (pos % 2 ^ (s.enc ch.val).posBits) (t + (s.enc ch.val).latchNs)
        else (u.count (R.ENC_DISCARDS_COUNT ch.val) (R.ENC_OVF_DISCARDS_OVF ch.val) .fire 1).encFault ch.val 5 .encFault
          (t + (s.enc ch.val).latchNs)
      else (s.advance t).discardRead ch.val false (t + (s.enc ch.val).latchNs)) := by
  refine (event_of_clocked hc).trans (congrArg _ ?_)
  have hgood : (start && decide (crc % 64 = 63 - crc6 (((s.advance t).enc ch.val).posBits + 2)
      (4 * (pos % 2 ^ ((s.advance t).enc ch.val).posBits) + 2 * b2n nE + b2n nW))) = s.bissGood ch.val pos nE nW crc start := rfl
  rw [State.bissRead]
  simp only [hty, hgood, ne_eq, not_true_eq_false, if_false]
  cases s.bissGood ch.val pos nE nW crc start <;> rfl

end

theorem exec_ssiRead_accepts {s : State} {ch : Fin 4} {raw t : Nat} (hc : s.clocked = true) (hty : s.rd (R.ENC_STATUS_TYPE ch.val) = 3) :
    exec (.ssiRead ch raw t) s = .next ((s.advance t).acceptRead ch.val (if (s.enc ch.val).gray then
      ungray 6 (raw % 2 ^ (s.enc ch.val).posBits) else raw % 2 ^ (s.enc ch.val).posBits) (t + (s.enc ch.val).latchNs)) :=
  (event_of_clocked hc).trans (if_neg (not_not.mpr hty))

/-! ## Index and standstill -/

section
variable {s : State} {ch : Fin 4} {held : Nat}

/-- The edge of Z counts: it is held for the filter, on a channel that checks its index, going forward (R296). -/
structure State.IndexCounts (s : State) (ch held : Nat) : Prop where
  isHeld : s.inputFilter ch ≤ 16 * held
  type : s.rd (R.ENC_STATUS_TYPE ch) ≤ 1
  checks : (s.enc ch).indexCheck = true
  forward : (s.enc ch).forward = true
  notBackward : s.flag (R.ENC_STATUS_BACKWARD ch) = false

/-- The first index edge stores the position; a later one gives the count between too, and is an error outside the tolerance (R296). -/
theorem exec_indexEdge_counts (hc : s.clocked = true) (h : s.IndexCounts ch.val held) :
    exec (.indexEdge ⟨ch, held⟩) s =
      let w := s.setEnc ch.val { (s.enc ch.val) with idx := some (s.encPos ch.val) }
      match (s.enc ch.val).idx with
      | none => .next w
      | some o =>
        let u := w.wr (R.ENC_INDEX_COUNT ch.val) (min 0xFFFFFFFF (s.encPos ch.val - o).toNat)
        let v := (u.count (R.ENC_IDX_ERR_COUNT ch.val) (R.ENC_OVF_IDX_OVF ch.val) .fire 1).raise .fire 17
        .next (if (s.enc ch.val).indexTol < ((s.encPos ch.val - o) - (s.enc ch.val).indexCounts).natAbs then
          (if (s.enc ch.val).indexFault then v.encFault ch.val 7 .indexError v.now else v) else u) := by
  obtain ⟨hheld, hty, hcheck, hfwd, hback⟩ := h
  refine (event_of_clocked hc).trans ((if_neg ?_).trans ?_)
  · simp [Nat.not_lt.mpr hheld, Nat.not_lt.mpr hty, hcheck, hfwd, hback]
  · rcases (s.enc ch.val).idx with _ | o
    · rfl
    · exact (apply_ite Host.Outcome.next _ _ _).symm

end

theorem State.standstill_begins {s : State} {ch t : Nat} (hf : s.flag (R.ENC_STATUS_STANDSTILL ch) = false)
    (ht : (s.enc ch).lastEdge + (s.enc ch).stillT ≤ t) :
    s.standstill ch t = (s.wr (R.ENC_STATUS_STANDSTILL ch) 1).setEnc ch { (s.enc ch) with edgeDir := 0, edgeN := 0 } := by
  simp only [State.standstill, hf, decide_eq_true ht, Bool.not_false, Bool.and_self, if_true]

/-- Settles O49: one clause per command; a quadrature transition by how many of its levels change, a BiSS read by its CRC and its error
bit, an index edge by whether it is the first. -/
theorem encoderEvents : Obligations.EncoderEvents := by
  refine ⟨?sample, ?step, ?both, ?short, ?accepted, ?error, ?discarded, ?ssi, ?firstIndex, ?index, ?still, ?window, ?configured⟩
  case sample =>
    intro s u v ch x c s1 cc raw q per t th o pt last hc hty hu hs1 hcc hth ho hper hraw hq hstep hlo hhi hv hpt hlast
    have hpair : u.GoodPair ch.val x c s1 cc raw q per th o := ⟨hs1, hcc, hth, ho, hper, hraw, hq, hstep, hlo, hhi⟩
    exact (event_of_clocked hc).trans (congrArg _ (State.encSample_good (s := s.advance t) hty hu hpair hv hpt hlast))
  case step =>
    intro s u ch a b a0 b0 held t d y z hc hty hf hl hne hy hz hu hapart hd hd2
    refine (exec_quadratureTransition_held hc hty hf).trans (congrArg _ ?_)
    rw [State.quadrature_known (s := s.advance (t + (s.enc ch.val).filter)) hty hl hne hy hz hu, oneNs_of_apart hapart, ← hd]
    exact if_neg hd2
  case both =>
    intro s u ch a b a0 b0 held t hc hty hf hl ha hb hu
    refine (exec_quadratureTransition_held hc hty hf).trans (congrArg _ ?_)
    rw [State.quadrature_known (s := s.advance (t + (s.enc ch.val).filter)) hty hl (fun h => ha h.1.symm) (if_neg ha).symm
      (if_neg hb).symm hu, quadPlace_opposite ha hb]
    simp [oneNs]
  case short => exact fun s ch a b held t => exec_quadratureTransition_short
  case accepted =>
    rintro s ch pos crc t nE nW start hc hty hgood rfl
    exact (exec_bissRead_eq hc hty).trans (congrArg _ (if_pos hgood))
  case error =>
    rintro s ch pos crc t nE nW start hc hty hgood rfl
    exact (exec_bissRead_eq hc hty).trans (congrArg _ (if_pos hgood))
  case discarded =>
    intro s ch pos crc t nE nW start hc hty hbad
    exact (exec_bissRead_eq hc hty).trans (congrArg _ (if_neg (Bool.eq_false_iff.mp hbad)))
  case ssi => exact fun s ch raw t => exec_ssiRead_accepts
  case firstIndex =>
    intro s ch held hc hheld hty hcheck hfwd hback hidx
    rw [exec_indexEdge_counts hc ⟨hheld, hty, hcheck, hfwd, hback⟩, hidx]
  case index =>
    rintro s _ _ ch held o hc hheld hty hcheck hfwd hback hidx rfl rfl
    rw [exec_indexEdge_counts hc ⟨hheld, hty, hcheck, hfwd, hback⟩, hidx]
  case still =>
    intro s ch t hc hty hf ht
    exact (event_of_clocked hc).trans ((if_neg hty).trans (congrArg _ (State.standstill_begins hf ht)))
  case window =>
    rintro s _ ch hc hty hn ha rfl
    exact (event_of_clocked hc).trans ((if_pos ⟨hty, hn⟩).trans (congrArg _ (State.endWindow_uncorrected ha)))
  case configured =>
    intro s ch p hc hp
    refine (event_of_clocked hc).trans ?_
    rw [hp]

end Sys2Proof.Machine
end

section
/-!
SUPPORT. Latch edges and position compares: a held edge on an enabled latch, and an armed target on a channel that is not at fault (R316
to R319, R323, R324).
-/

namespace Sys2Proof.Machine

section
variable {s u : State} {i t : Nat} {input : Fin 8} {falling : Bool} {held : Nat}

/-- The latch is enabled, and its configuration admits rising or falling edges (R316). -/
def State.latchAdmits (s : State) (i : Nat) (falling : Bool) : Prop :=
  s.flag (R.LATCH_CFG_LATCH_ENABLE i) = true ∧ bit (max 1 (s.rd (R.LATCH_CFG_EDGE i))) (if falling then 1 else 0) = true

/-- With 64 held, an admitted edge is lost (R319). -/
theorem State.latchEdge_full (h : s.latchAdmits i falling) (hfull : 64 ≤ (s.latch i).records.length + (s.latch i).edges.length) :
    s.latchEdge i falling t =
      ((s.setLatch i { (s.latch i) with lostFlag := true }).count (R.LATCH_LOST_COUNT i) (R.LATCH_OVF_LOST_OVF i) .fire 1).raise .fire 20 := by
  obtain ⟨hon, hedge⟩ := h
  simp only [State.latchEdge, hon, hedge, Bool.not_true, Bool.or_self, Bool.false_eq_true, if_false, if_pos hfull]

/-- An admitted edge that fits waits while its channel has no point after it (R318). -/
theorem State.latchEdge_waits {before : EncPt} (h : s.latchAdmits i falling)
    (hroom : (s.latch i).records.length + (s.latch i).edges.length < 64)
    (hpts : s.straddle (s.rd (R.LATCH_CFG_CHANNEL i)) t = (before, none)) :
    s.latchEdge i falling t = s.setLatch i { (s.latch i) with
      edges := (s.latch i).edges ++ [⟨t, s.rd (R.LATCH_CFG_CHANNEL i), i, falling, (s.latch i).lostFlag, before⟩], lostFlag := false } := by
  obtain ⟨hon, hedge⟩ := h
  simp only [State.latchEdge, hon, hedge, Bool.not_true, Bool.or_self, Bool.false_eq_true, if_false, if_neg (Nat.not_le.mpr hroom), hpts]

/-- It is recorded at once where its channel has one (R318). -/
theorem State.latchEdge_records {before after : EncPt} (h : s.latchAdmits i falling)
    (hroom : (s.latch i).records.length + (s.latch i).edges.length < 64)
    (hpts : s.straddle (s.rd (R.LATCH_CFG_CHANNEL i)) t = (before, some after)) :
    s.latchEdge i falling t = s.setLatch i { (s.latch i) with
      records := (s.latch i).records ++
        [s.latchRecord ⟨t, s.rd (R.LATCH_CFG_CHANNEL i), i, falling, (s.latch i).lostFlag, before⟩ after], lostFlag := false } := by
  obtain ⟨hon, hedge⟩ := h
  simp only [State.latchEdge, hon, hedge, Bool.not_true, Bool.or_self, Bool.false_eq_true, if_false, if_neg (Nat.not_le.mpr hroom), hpts]

/-- An edge whose level is held for the latch's filter counts from the end of the filter on (R316, R319). -/
theorem exec_latchEdge_held (hc : s.clocked = true) (hf : s.rd (R.LATCH_CFG_LATCH_FILTER input.val) ≤ held)
    (hu : u = s.advance (t + 16 * s.rd (R.LATCH_CFG_LATCH_FILTER input.val))) :
    exec (.latchEdge input falling ⟨held, t⟩) s = .next (u.latchEdge input.val falling t) := by
  rw [hu]
  exact (event_of_clocked hc).trans (if_neg (Nat.not_lt.mpr hf))

theorem exec_latchEdge_short (hf : held < s.rd (R.LATCH_CFG_LATCH_FILTER input.val)) :
    exec (.latchEdge input falling ⟨held, t⟩) s = .next s := by
  show execLatchEdge input falling ⟨held, t⟩ s = _
  rw [execLatchEdge, if_pos hf, ite_self]

end

section
variable {s u : State} {k e t : Nat} {out : Fin 16} {x : CmpTarget} {rest : List CmpTarget} {tc : Int}

/-- The target at the head of the output's queue is armed on a channel that is not at fault, with `e` the earliest instant that can still
be commanded (R323, R324, R330). -/
structure State.CmpGoes (u : State) (k e : Nat) (x : CmpTarget) (rest : List CmpTarget) : Prop where
  queue : (u.cmp k).queue = x :: rest
  fault : u.flag (R.ENC_STATUS_FAULT (u.cmpCh k)) = false
  works : u.mode .fire ≠ .faulted
  earliest : e = u.now + u.margin

/-- The head of the queue is committed at `e`, at the position `pos`, and the next target is armed (R323, R324). -/
def State.commitHead (u : State) (k e : Nat) (x : CmpTarget) (pos : Option Int) : State :=
  State.armCmp k 8 (u.commitPulseAt k x pos e)

/-- A late target that a fault held is driven as soon as it can be (R323). -/
theorem State.commitCmp_late (h : u.CmpGoes k e x rest) (hl : x.late = true) : u.commitCmp k = u.commitHead k e x none := by
  obtain ⟨hq, hf, hw, rfl⟩ := h
  simp only [State.commitCmp, State.commitHead, hq, hf, hw, hl, Bool.false_eq_true, or_self, if_false, if_true]

/-- A predicted crossing is left while it lies further ahead than the margin, and is committed at the target only where it is on time
(R324). -/
theorem State.commitCmp_crossing (h : u.CmpGoes k e x rest) (hl : x.late = false)
    (hx : u.crossing (u.cmpCh k) (x.target * 2 ^ 32) = some tc) :
    u.commitCmp k = if (e : Int) < tc then u else u.commitHead k e x (if tc = e then some x.target else none) := by
  obtain ⟨hq, hf, hw, rfl⟩ := h
  simp only [State.commitCmp, State.commitHead, hq, hf, hw, hl, hx, Bool.false_eq_true, or_self, if_false]

/-- Without a prediction, the high-water mark says that the target has been reached (R324). -/
theorem State.commitCmp_reached (h : u.CmpGoes k e x rest) (hl : x.late = false)
    (hx : u.crossing (u.cmpCh k) (x.target * 2 ^ 32) = none) (hr : x.target ≤ u.encHwm (u.cmpCh k))
    (hs : u.flag (R.ENC_STATUS_SUSPENDED (u.cmpCh k)) = false) : u.commitCmp k = u.commitHead k e x none := by
  obtain ⟨hq, hf, hw, rfl⟩ := h
  simp only [State.commitCmp, State.commitHead, hq, hf, hw, hl, hx, hr, hs, Bool.false_eq_true, or_self, if_false, Bool.not_false,
    and_self, if_true]

/-- On a channel at fault nothing is committed (R330). -/
theorem State.commitCmp_fault (hf : u.flag (R.ENC_STATUS_FAULT (u.cmpCh k)) = true) : u.commitCmp k = u := by
  simp only [State.commitCmp, hf, true_or, if_true]
  split <;> rfl

theorem exec_compareCommit_clocked (hc : s.clocked = true) (hu : u = (s.advance t).runOut out.val) :
    exec (.compareCommit out t) s = .next (u.commitCmp out.val) := by
  rw [hu]
  exact event_of_clocked hc

/-- With no pulse due, the end of the active one is all that an output does (R324). -/
theorem State.runOut_active_ended (ha : (s.cmp k).active = some e) (hd : (s.cmp k).due = []) (he : e ≤ s.now) :
    s.runOut k = s.endPulse k e := by
  have hdue : (([] : List CmpPulse).head?.filter fun x => decide (x.start ≤ s.now)) = none := rfl
  have hend : ((some e).filter fun e => decide (e ≤ s.now) && (none : Option CmpPulse).all fun x => decide (e < x.start)) = some e := by
    simp [he]
  simp only [State.runOut, State.runCmp, ha, hd, hdue, hend]
  rfl

/-- With no pulse active, the first committed one starts once it is due (R324). -/
theorem State.runCmp_due {n : Nat} {p : CmpPulse} {ps : List CmpPulse} (hd : (s.cmp k).due = p :: ps) (ha : (s.cmp k).active = none)
    (hp : p.start ≤ s.now) : s.runCmp k (n + 1) = (s.startPulse k p).runCmp k n := by
  have hdue : ((p :: ps).head?.filter fun x => decide (x.start ≤ s.now)) = some p := by simp [hp]
  simp only [State.runCmp, ha, hd, hdue, Option.filter_none]

end

/-- Settles O50: an edge by whether it is held, fits and has a point after it; a commit by whether the target is late and where its
crossing lies. -/
theorem latchesAndCompares : Obligations.LatchesAndCompares := by
  refine ⟨?short, ?waits, ?records, ?lost, ?ahead, ?onTime, ?near, ?reached, ?late, ?fault, ?pulseEnd, ?ended, ?starts⟩
  case short => exact fun s input falling held t => exec_latchEdge_short
  case waits =>
    rintro s _ input falling held t before hc hf rfl hon hedge hroom hpts
    exact (exec_latchEdge_held hc hf rfl).trans
      (congrArg _ (State.latchEdge_waits (s := s.advance (t + 16 * s.rd (R.LATCH_CFG_LATCH_FILTER input.val))) ⟨hon, hedge⟩ hroom hpts))
  case records =>
    rintro s _ input falling held t before after hc hf rfl hon hedge hroom hpts
    exact (exec_latchEdge_held hc hf rfl).trans
      (congrArg _ (State.latchEdge_records (s := s.advance (t + 16 * s.rd (R.LATCH_CFG_LATCH_FILTER input.val))) ⟨hon, hedge⟩ hroom hpts))
  case lost =>
    rintro s _ input falling held t hc hf rfl hon hedge hfull
    exact (exec_latchEdge_held hc hf rfl).trans
      (congrArg _ (State.latchEdge_full (s := s.advance (t + 16 * s.rd (R.LATCH_CFG_LATCH_FILTER input.val))) ⟨hon, hedge⟩ hfull))
  case ahead =>
    intro s u out t e x rest tc hc hu hq hf hw he hl hx ht
    rw [exec_compareCommit_clocked hc hu, State.commitCmp_crossing ⟨hq, hf, hw, he⟩ hl hx, if_pos ht]
  case onTime =>
    rintro s u out t e x rest _ hc hu hq hf hw he hl hx rfl
    rw [exec_compareCommit_clocked hc hu, State.commitCmp_crossing ⟨hq, hf, hw, he⟩ hl hx, if_neg (Int.lt_irrefl _), if_pos rfl,
      State.commitHead]
  case near =>
    intro s u out t e x rest tc hc hu hq hf hw he hl hx ht
    rw [exec_compareCommit_clocked hc hu, State.commitCmp_crossing ⟨hq, hf, hw, he⟩ hl hx, if_neg (Int.not_lt.mpr ht.le), if_neg ht.ne,
      State.commitHead]
  case reached =>
    intro s u out t e x rest hc hu hq hf hw he hl hx hr hs
    rw [exec_compareCommit_clocked hc hu, State.commitCmp_reached ⟨hq, hf, hw, he⟩ hl hx hr hs, State.commitHead]
  case late =>
    intro s u out t e x rest hc hu hq hf hw he hl
    rw [exec_compareCommit_clocked hc hu, State.commitCmp_late ⟨hq, hf, hw, he⟩ hl, State.commitHead]
  case fault =>
    intro s u out t x rest hc hu _ hf
    rw [exec_compareCommit_clocked hc hu, State.commitCmp_fault hf]
  case pulseEnd => exact fun s out t => rfl
  case ended =>
    rintro s _ out t e rfl ha hd he
    exact congrArg _ (State.runOut_active_ended (s := s.advance t) ha hd he)
  case starts => exact fun s k n x rest => State.runCmp_due

end Sys2Proof.Machine
end

section
/-!
SUPPORT. The packets of the cameras and the stripe table, where they are taken and nothing refuses them (R336, R339 to R341, R346, R348,
R386, R501).
-/

namespace Sys2Proof.Machine

/-- A packet for a camera lane of this device that is taken and not refused has its effect on that lane (R501). -/
theorem State.camPacket_outcome {s : State} {i : Instr} {o : OpInfo} {h : Hdr} {own : Option Nat} {k a len dst room : Nat}
    {chk : State → List (Bool × Status)} {eff : Nat → Pk → State → State} (ht : s.Takes i o h) (hk : own = some k)
    (hc : firstFail (chk (s.begun o h)) = none) :
    (if !s.spells i then Host.Outcome.next s else .next (s.camPacket o h own [(a, len)] dst room chk eff) :
      Host.Outcome State Fault Refusal) = .next (eff k (s.asPk o h) ((s.begun o h).touch 2 a len)) := by
  obtain ⟨hs, hm, hf⟩ := ht
  rw [hs, hk, State.camPacket_runs hm hf hc]
  rfl

section
variable {s : State} {own : Option Nat} {lane k a : Nat} {d : List Byte}

/-- A lane that is up, or that its block leaves off, is not refused for being down (R90). -/
theorem State.camDown_not_refused {on : Bool} (hup : on = true → s.camUp k = true) :
    firstFail [((some k).isSome && on && !s.camUp k, .camDown)] = none := by
  cases on with
  | false => rfl
  | true => rw [hup rfl]; rfl

/-- A good block, of a rate that the winnower and the lane bear, is not refused (R341, R348, R386). -/
theorem State.camConfig_not_refused (hk : own = some k) (ha : s.accepts (camNode k) = true) (hl : lane < s.camCount) (hr : s.Reads a 64 d)
    (hb : s.camSetBad (camSetOf d) = false)
    (hpx : s.pixelLoad s.insp.stripes (fun j => if j = k then camSetOf d else s.camSet j) ≤ 4000000000)
    (hrate : (camSetOf d).px * 24 * s.camRate (camSetOf d) ≤ 9700000000) (hup : (camSetOf d).on = true → s.camUp k = true) :
    firstFail (rank s (if own.isSome then camNode (own.getD 0) else .insp)
      (decide (s.camCount ≤ lane) ||
        (!(okBytes (s.readAt a 64)).isEmpty && own.isSome && (s.camSetBad (camSetOf d) ||
          decide (4000000000 < s.pixelLoad s.insp.stripes (fun j => if j = own.getD 0 then camSetOf d else s.camSet j)) ||
          decide (9700000000 < (camSetOf d).px * 24 * s.camRate (camSetOf d))))) false (s.readAt a 64)
      [(own.isSome && (camSetOf d).on && !s.camUp (own.getD 0), .camDown)]) = none := by
  subst hk
  rw [State.readAt_of_reads hr]
  refine (firstFail_rank_ok ha ?_).trans (State.camDown_not_refused hup)
  rw [decide_eq_false (Nat.not_le.mpr hl), hb, Option.getD_some, decide_eq_false (Nat.not_lt.mpr hpx),
    decide_eq_false (Nat.not_lt.mpr hrate), Bool.or_false, Bool.or_false, Bool.and_false, Bool.or_false]

/-- A request of 1 to 1,024 bytes for a camera that is up is not refused (R336). -/
theorem State.camGencp_not_refused {n room reply : Nat} (hk : own = some k) (ha : s.accepts (camNode k) = true) (hl : lane < s.camCount)
    (hn : n ≠ 0 ∧ n ≤ 1024 ∧ room ≤ 1024) (hrep : s.badAddr reply room = false) (hr : s.Reads a n d) (hup : s.camUp k = true) :
    firstFail (rank s (if own.isSome then camNode (own.getD 0) else .insp)
      (decide (s.camCount ≤ lane) || decide (n = 0) || decide (1024 < n) || decide (1024 < room) || s.badAddr reply room) false
      (s.readAt a n)
      [(own.isSome && !s.camUp (own.getD 0), .camDown)]) = none := by
  obtain ⟨hn0, hnmax, hroom⟩ := hn
  subst hk
  rw [State.readAt_of_reads hr]
  refine (firstFail_rank_ok ha ?_).trans (State.camDown_not_refused (on := true) fun _ => hup)
  rw [decide_eq_false (Nat.not_le.mpr hl), decide_eq_false hn0, decide_eq_false (Nat.not_lt.mpr hnmax),
    decide_eq_false (Nat.not_lt.mpr hroom), hrep]
  rfl

end

/-! ## The stripe table -/

/-- No range of a list fails to be read: every address is valid, every transfer succeeds and nothing arrives poisoned. -/
theorem State.reads_good {s : State} {reads : List (Nat × Nat)}
    (h : reads.any (fun q => s.badAddr q.1 q.2 || s.dmaFails q.1 q.2 || s.poisonedAt q.1 q.2) = false) :
    reads.any (fun q => s.badAddr q.1 q.2) = false ∧ reads.any (fun q => s.dmaFails q.1 q.2) = false ∧
      reads.any (fun q => s.poisonedAt q.1 q.2) = false := by
  simp only [List.any_eq_false, Bool.or_eq_true, not_or] at h ⊢
  exact ⟨fun q hq => (h q hq).1.1, fun q hq => (h q hq).1.2, fun q hq => (h q hq).2⟩

/-- A good table of at most 64 stripes, whose models are read and good, is not refused (R339 to R341, R357). -/
theorem State.stripeSet_not_refused {s : State} {n : Nat} {got models : Bool} {es : List (List Byte)} {xs : List Stripe}
    {reads : List (Nat × Nat)} {laneBad : Stripe → Bool} (ha : s.accepts .insp = true) (hn : n ≤ 64)
    (hreads : reads.any (fun q => s.badAddr q.1 q.2 || s.dmaFails q.1 q.2 || s.poisonedAt q.1 q.2) = false)
    (hgood : es.any stripeBad = false ∧ stripesOrdered xs = true ∧ xs.any (fun x => decide (s.camCount ≤ x.lane)) = false ∧
      xs.any (fun x => modelBad x.model) = false)
    (hlane : xs.any laneBad = false) (hpx : s.pixelLoad xs s.camSet ≤ 4000000000) :
    firstFail
      [(decide (64 < n) || reads.any (fun q => s.badAddr q.1 q.2) ||
          (got && (es.any stripeBad || !stripesOrdered xs || xs.any (fun x => decide (s.camCount ≤ x.lane)) || xs.any laneBad ||
            (models && xs.any fun x => modelBad x.model))), .badParam),
        (!s.accepts .insp, .unitOff), (reads.any (fun q => s.dmaFails q.1 q.2), .dmaError),
        (reads.any (fun q => s.poisonedAt q.1 q.2), .poisoned), (decide (4000000000 < s.pixelLoad xs s.camSet), .pixelRate)] = none := by
  obtain ⟨hbad, hdma, hpoison⟩ := State.reads_good hreads
  obtain ⟨hentry, horder, hcount, hmodel⟩ := hgood
  rw [decide_eq_false (Nat.not_lt.mpr hn), hbad, hentry, horder, hcount, hlane, hmodel, ha, hdma, hpoison,
    decide_eq_false (Nat.not_lt.mpr hpx)]
  simp

/-- Settles O16: nothing refuses the packets; the table is read with the models that it names. -/
theorem cameraPackets : Obligations.CameraPackets := by
  refine ⟨?config, ?gencp, ?stripes⟩
  case config =>
    rintro s h lane block k _ _ ht hk ha hl ⟨hr1, hr2, hr3, rfl⟩ hb hpx hrate hup rfl
    exact State.camPacket_outcome ht hk
      (State.camConfig_not_refused (s := s.begun opCamConfig h) hk ha hl ⟨hr1, hr2, hr3, rfl⟩ hb hpx hrate hup)
  case gencp =>
    rintro s h lane req n room reply k d _ ht hk ha hl hn hrep hr hup rfl
    exact State.camPacket_outcome ht hk (State.camGencp_not_refused (s := s.begun opCamGencp h) hk ha hl hn hrep hr hup)
  case stripes =>
    rintro s h table n _ _ _ _ _ ht ha hn ⟨hr1, hr2, hr3, rfl⟩ hlen rfl rfl hreads rfl hgood hlane hpx rfl
    have hwhole : (okBytes (s.readAt table (32 * n))).length = 32 * n := by
      rw [State.readAt_of_reads ⟨hr1, hr2, hr3, rfl⟩]
      exact hlen
    show execStripeSet h table n s = _
    simp only [execStripeSet, hwhole, hn, and_self, if_true]
    exact State.packetR_outcome ht (State.stripeSet_not_refused (s := s.begun opStripeSet h) ha hn hreads hgood hlane hpx)

end Sys2Proof.Machine
end

section
/-!
SUPPORT. The packets that read the inspection's records and set the calibration's policy, seeds and anchors, where they are taken and
nothing refuses them (R360, R362, R374, R376, R377, R381, R382).
-/

namespace Sys2Proof.Machine

section
variable {s : State} {h : Hdr}

/-- A packet that reads no descriptor, for a unit that accepts work and with good parameters, is refused by nothing (R88). -/
theorem firstFail_rank0_ok {unit : Node} {bad : Bool} (ha : s.accepts unit = true) (hb : bad = false) :
    firstFail (rank0 s unit bad false []) = none := by
  rw [hb]
  exact firstFail_rank0 ha

/-- A pattern that fits its page, in the calibrated RUNNING context, is not refused (R377). -/
theorem State.calSeed_not_refused {pattern lines per : Nat} {late : Bool} (ha : s.accepts .cal = true) (hc : h.ctx = s.calCtx)
    (hst : (s.ctx h.ctx).st = .running) (hp : pattern ≤ 1) (hl : lines % per = 0) (hfit : late = false) :
    firstFail ((decide (h.ctx ≠ s.calCtx), .badContext) ::
      rank0 s .cal (decide (1 < pattern) || decide (lines % per ≠ 0) || (decide ((s.ctx h.ctx).st = .running) && late))
        (!decide ((s.ctx h.ctx).st = .running)) []) = none := by
  rw [decide_eq_false (not_not.mpr hc), firstFail_cons_false, decide_eq_true hst]
  refine firstFail_rank0_ok ha ?_
  rw [decide_eq_false (Nat.not_lt.mpr hp), decide_eq_false (not_not.mpr hl), hfit]
  rfl

/-- A colorant of a context that is not CLOSED is not refused (R381). -/
theorem State.calAnchor_not_refused {colour : Nat} (ha : s.accepts .cal = true) (hc : colour ≤ 7) (hst : (s.ctx h.ctx).st ≠ .closed) :
    firstFail (rank0 s .cal (decide (7 < colour)) (decide ((s.ctx h.ctx).st = .closed)) []) = none := by
  rw [decide_eq_false hst]
  exact firstFail_rank0_ok ha (decide_eq_false (Nat.not_lt.mpr hc))

end

/-- Settles O17: nothing refuses the packets, and the effect of each is what it is claimed to do. -/
theorem inspectionRings : Obligations.InspectionRings := by
  refine ⟨?stats, ?defects, ?proposals, ?policy⟩
  case stats =>
    rintro s h dst first most _ ht ha hd rfl
    exact State.packet_outcome ht (firstFail_rank0_ok (s := s.begun opStatsRead h) ha hd)
  case defects =>
    rintro s h dst first most _ ht ha hd rfl
    exact State.packet_outcome ht (firstFail_rank0_ok (s := s.begun opDefectRead h) ha hd)
  case proposals =>
    intro s h dst most ht ha hd
    exact State.packet_outcome ht (firstFail_rank0_ok (s := s.begun opCalProposals h) ha hd)
  case policy =>
    rintro s h policy _ ht ha hp rfl
    exact State.packet_outcome ht (firstFail_rank0_ok (s := s.begun opCalPolicy h) ha (decide_eq_false (Nat.not_lt.mpr hp)))

/-- While the clocks run, the oldest anchor ends once it has waited 10 s (R382). -/
theorem exec_calAnchorTimeout_due {s : State} {t : Nat} {a : AnchorPk} {r : List AnchorPk} (hc : s.clocked = true)
    (hq : s.cal.anchors = a :: r) (ht : a.since + 160000000000 ≤ t) :
    exec (.calAnchorTimeout t) s = .next ((s.advance t).endAnchor a) := by
  have hq' : (s.advance t).cal.anchors = a :: r := hq
  refine (event_of_clocked hc).trans ?_
  simp only [hq', if_pos ht]

/-- Settles O18: a seed that is not refused has a page, whose first line it keeps. -/
theorem calibrationPackets : Obligations.CalibrationPackets := by
  refine ⟨?seed, ?anchor, ?timeout⟩
  case seed =>
    intro s h pattern lines p ht ha hc hst hp hl hpage hfit
    have hpage' : (s.begun opCalSeed h).seedPage (s.ctx h.ctx) = some p := hpage
    refine (State.packet_outcome ht (State.calSeed_not_refused (s := s.begun opCalSeed h) ha hc hst hp hl ?_)).trans ?_
    · simp only [hpage', decide_eq_false (Nat.not_lt.mpr hfit)]
    · simp only [hpage']
      rfl
  case anchor =>
    rintro s h colour m pos _ ht ha hc hst rfl
    exact State.packet_outcome ht (State.calAnchor_not_refused (s := s.begun opCalAnchor h) ha hc hst)
  case timeout => exact fun s t a r => exec_calAnchorTimeout_due

end Sys2Proof.Machine
end

section
/-!
SUPPORT. What comes from the cameras while the clocks run: lines, frame ends, resends, GenCP replies, inputs and pulses; and the commit of
a camera's shadow set (R333, R335, R336, R344 to R347, R350, R351, R363, R386).
-/

namespace Sys2Proof.Machine

/-! ## Lines -/

section
variable {s u : State} {cam t resent : Nat} {f : CamFrame} {data : List Byte} {unusable : List Nat} {damaged : List (Nat × Nat)}

/-- A line at `t` of a lane that is up has counted, in the state `u`, and the next line of an image belongs to the frame `f`, which asks for
no resends (R344, R350). -/
structure State.LineCounted (s u : State) (cam t : Nat) (f : CamFrame) : Prop where
  up : s.camUp cam = true
  counted : u = (s.advance t).count (R.CAM_LINES_COUNT (camB cam)) (R.CAM_OVF_LINES_OVF (camB cam)) (camNode cam) 1
  frame : (u.cam cam).lineFrame = some f
  noResend : f.set.resend = false

/-- The frame still expects a line: it is not too long, and lacks lines both of its set and of its triggers (R344, R345). -/
structure CamFrame.Expects (f : CamFrame) : Prop where
  notLong : f.long = false
  lacksLine : f.lines < f.set.lines
  triggered : f.lines < f.trigs.length

theorem CamFrame.Expects.not_over (h : f.Expects) : ¬(f.long = true ∨ f.set.lines ≤ f.lines ∨ f.trigs.length ≤ f.lines) := by
  obtain ⟨hlong, hlines, htrigs⟩ := h
  rw [hlong, not_or, not_or]
  exact ⟨Bool.false_ne_true, Nat.not_le.mpr hlines, Nat.not_le.mpr htrigs⟩

/-- A line beyond those of the frame marks it too long (R350). -/
theorem State.cameraLine_over (h : s.LineCounted u cam t f)
    (ho : f.long = true ∨ f.set.lines ≤ f.lines ∨ f.trigs.length ≤ f.lines) :
    s.cameraLine cam data unusable damaged resent t = u.markFrame cam f 1 := by
  obtain ⟨hup, hu, hf, hr⟩ := h
  have hup' : (s.advance t).camUp cam = true := hup
  simp only [State.cameraLine, hup', ← hu, hf, hr, Bool.not_true, Bool.false_eq_true, if_false, if_pos ho]

/-- An expected line that finds 16 waiting is an overrun (R350). -/
theorem State.cameraLine_overrun (h : s.LineCounted u cam t f) (he : f.Expects) (hb : 16 ≤ (u.cam cam).buf.length) :
    s.cameraLine cam data unusable damaged resent t =
      (u.count (R.CAM_ERR_OVERRUN (camB cam)) (R.CAM_OVF_OVERRUN_OVF (camB cam)) (camNode cam) 1).markFrame cam
        { f with lines := f.lines + 1 } 3 := by
  obtain ⟨hup, hu, hf, hr⟩ := h
  have hup' : (s.advance t).camUp cam = true := hup
  simp only [State.cameraLine, hup', ← hu, hf, hr, Bool.not_true, Bool.false_eq_true, if_false, if_neg he.not_over, if_pos hb]

/-- Bytes of the length that is asked for are neither padded nor cut. -/
theorem padded_of_length {n : Nat} (h : data.length = n) : (data ++ List.replicate (n - data.length) 0#8).take n = data := by
  subst h
  simp

/-- An expected line that is whole and undamaged joins the buffer, and is compared when its turn comes (R342, R350). -/
theorem State.cameraLine_joins (h : s.LineCounted u cam t f) (he : f.Expects) (hb : (u.cam cam).buf.length < 16)
    (hd : data.length = 3 * f.set.px) :
    s.cameraLine cam data unusable [] resent t = (u.setCam cam { ((u.cam cam).putFrame { f with
      lines := f.lines + 1, marks := f.marks ||| 0 ||| (if unusable.isEmpty then 0 else 2 ^ 2) }) with
        buf := (u.cam cam).buf ++ [⟨f.no, f.lines, data, unusable, [], u.now⟩] }).pumpCam cam := by
  obtain ⟨hup, hu, hf, hr⟩ := h
  have hup' : (s.advance t).camUp cam = true := hup
  have hpad : decide (data.length ≠ 3 * f.set.px) = false := decide_eq_false (not_not.mpr hd)
  simp only [State.cameraLine, hup', ← hu, hf, hr, hpad, padded_of_length hd, Bool.not_true, Bool.false_eq_true, if_false,
    if_neg he.not_over, if_neg (Nat.not_le.mpr hb), List.isEmpty_nil, if_true, true_and, List.foldl_nil]
  rfl

theorem exec_cameraLine_clocked {c : Fin 8} (hc : s.clocked = true) :
    exec (.cameraLine c data unusable damaged resent t) s = .next (s.cameraLine c.val data unusable damaged resent t) :=
  event_of_clocked hc

end

/-! ## Frames -/

section
variable {s : State} {cam : Fin 8} {t : Nat} {f : CamFrame}

theorem exec_frameEnd_footer (hc : s.clocked = true) (hf : (s.cam cam.val).lineFrame = some f) :
    exec (.frameEnd cam 0 t) s = .next ((s.advance t).endFrame cam.val f) := by
  have hf' : ((s.advance t).cam cam.val).lineFrame = some f := hf
  refine (event_of_clocked hc).trans ?_
  simp only [hf']

/-- The first header of a frame is its own, and is noted, which R345 leaves to the model; another one is that of a later frame, which ends
this one where it has been triggered; where it has not, this one takes no more lines. -/
theorem exec_frameEnd_header (hc : s.clocked = true) (hf : (s.cam cam.val).lineFrame = some f) :
    exec (.frameEnd cam 1 t) s = .next
      (if f.lines = 0 ∧ f.long = false ∧ f.headed = false then
        (s.advance t).setCam cam.val ((s.cam cam.val).putFrame { f with headed := true })
      else if (s.cam cam.val).frames.any (fun g => decide (f.no < g.no)) then (s.advance t).endFrame cam.val f
      else (s.advance t).setCam cam.val ((s.cam cam.val).putFrame { f with long := true })) := by
  have hcam : (s.advance t).cam cam.val = s.cam cam.val := rfl
  refine (event_of_clocked hc).trans ?_
  simp only [hcam, hf, Bool.not_eq_true', apply_ite Host.Outcome.next]

/-- A header that is not the frame's first is not noted. -/
theorem CamFrame.not_first_header (h : f.lines ≠ 0 ∨ f.long = true ∨ f.headed = true) :
    ¬(f.lines = 0 ∧ f.long = false ∧ f.headed = false) := by
  rintro ⟨hl, hlong, hhead⟩
  simp [hl, hlong, hhead] at h

/-- A frame that has all its triggers ends 1 ms after the last one (R345). -/
theorem exec_frameEnd_timeout {z : CamTrig} (hc : s.clocked = true) (hf : (s.cam cam.val).lineFrame = some f)
    (hz : f.trigs.getLast? = some z) (hn : f.set.lines ≤ f.trigs.length) (ht : z.t + 16000000 ≤ t) :
    exec (.frameEnd cam 2 t) s = .next ((s.advance t).endFrame cam.val f) := by
  have hf' : ((s.advance t).cam cam.val).lineFrame = some f := hf
  refine (event_of_clocked hc).trans ?_
  simp only [hf', hz, Option.map_some, Option.getD_some, decide_eq_true hn, decide_eq_true ht, Bool.and_self, Bool.true_or, if_true]

/-- The oldest damaged packet of a lane is given up: its pixels become 0, and its frame is marked (R350). -/
theorem exec_resendTimeout_due {l : CamLine} (hc : s.clocked = true)
    (hl : (s.cam cam.val).buf.find? (fun q => !q.damaged.isEmpty) = some l) :
    exec (.resendTimeout cam) s = .next
      ((((s.advance (l.since + 16000 * (((s.cam cam.val).frames.find? fun q => decide (q.no = l.frame)).map CamFrame.set
          |>.getD (s.camSet cam.val)).resendUs)).count (R.CAM_CRC_COUNT (camB cam.val)) (R.CAM_OVF_CRC_OVF (camB cam.val))
          (.cam cam) 1).setCam cam.val { (s.cam cam.val) with
          buf := (s.cam cam.val).buf.map (fun q => if q.frame = l.frame ∧ q.k = l.k then
            { l with data := zeroPixels l.data (l.damaged.headD (0, 0)), damaged := l.damaged.drop 1 } else q),
          frames := (s.cam cam.val).frames.map fun q => if q.no = l.frame then { q with marks := q.marks ||| 2 ^ 2 } else q }).pumpCam
        cam.val) := by
  refine (event_of_clocked hc).trans ?_
  simp only [hl]
  rfl

/-- The oldest exposure that is over lets the pulse fall (R335). -/
theorem exec_exposureEnd_due {e : Nat} {rest : List Nat} (hc : s.clocked = true) (hq : (s.cam cam.val).exposures = e :: rest)
    (he : e ≤ t) :
    exec (.exposureEnd cam t) s =
      .next (((s.advance t).setCam cam.val { (s.cam cam.val) with exposures := rest }).put (.camPulse cam.val 0 false)) := by
  have hcam : (s.advance t).cam cam.val = s.cam cam.val := rfl
  refine (event_of_clocked hc).trans ?_
  simp only [hcam, hq, if_pos he]

end

/-! ## GenCP, the lane and crops -/

section
variable {s u : State} {cam : Fin 8} {t : Nat}

/-- A reply ends the oldest request of its lane (R336). -/
theorem exec_gencpReply_oldest {data : List Byte} {q : GencpReq} {rest : List GencpReq} (hc : s.clocked = true)
    (hq : (s.cam cam.val).gencp = q :: rest) :
    exec (.gencpReply cam data) s = .next
      (((((s.setCam cam.val { (s.cam cam.val) with gencp := rest }).writeAt 8 q.addr (data.take q.room)).forwardCam q.pk .ok
        [(data.take q.room).length, data.length] (data.take q.room)).complete q.pk .ok
        [(data.take q.room).length, data.length]).sendGencp cam.val) := by
  refine (event_of_clocked hc).trans ?_
  simp only [hq]

/-- The oldest request that no reply came to ends 100 ms after it was sent (R336). -/
theorem exec_gencpTimeout_oldest {q : GencpReq} {rest : List GencpReq} (hc : s.clocked = true) (hq : (s.cam cam.val).gencp = q :: rest) :
    exec (.gencpTimeout cam) s = .next
      (((((s.advance (q.sentAt + 1600000000)).setCam cam.val { (s.cam cam.val) with gencp := rest }).forwardCam q.pk .gencpTimeout
        [0, 0] []).complete q.pk .gencpTimeout [0, 0]).sendGencp cam.val) := by
  refine (event_of_clocked hc).trans ?_
  simp only [hq]

/-- The oldest crop that still waits after 1 ms is lost; its defect is recorded without one (R363). -/
theorem exec_cropStartTimeout_due {c : CropReq} {rest : List CropReq} (hc : s.clocked = true) (hu : u = (s.advance t).startCrops)
    (hq : u.insp.crops = c :: rest) (ht : c.since + 16000000 ≤ t) :
    exec (.cropStartTimeout t) s = .next
      (((State.count { u with insp := { u.insp with crops := rest } } R.INSP_LOST_CROP_LOST R.INSP_OVF_CROP_OVF .insp 1).raise .insp
        20).writeDefect c.rec' 0xFFFF) := by
  refine (event_of_clocked hc).trans ?_
  simp only [← hu, hq, if_pos ht]

/-- The host's `COMMIT` commits a good shadow set, and raises `ACCESS` for a bad one (R386). -/
theorem exec_commit_reaches (hr : s.HostReaches) :
    exec (.commit cam) s = .next
      (if s.camSetBad (s.camShadow cam.val) then s.access (.cam cam) else s.commitCam cam.val (s.camShadow cam.val)) :=
  congrArg _ (State.hostAccess_reaches hr _ _ _)

end

/-- Settles O51: a line by what its frame still expects, a header by whether it is the frame's first, each other event by the oldest thing
that waits for it. -/
theorem cameraEvents : Obligations.CameraEvents := by
  refine ⟨?joins, ?overrun, ?tooLong, ?footer, ?later, ?untriggered, ?first, ?timeout, ?resend, ?reply, ?noReply, ?gpio, ?laneUp,
    ?exposure, ?crop, ?commitGood, ?commitBad⟩
  case joins =>
    intro s u cam data unusable resent t f hc hup hu hf hr hlong hlines htrigs hb hd
    rw [exec_cameraLine_clocked hc, State.cameraLine_joins ⟨hup, hu, hf, hr⟩ ⟨hlong, hlines, htrigs⟩ hb hd]
  case overrun =>
    intro s u cam data unusable resent t f damaged hc hup hu hf hr hlong hlines htrigs hb
    rw [exec_cameraLine_clocked hc, State.cameraLine_overrun ⟨hup, hu, hf, hr⟩ ⟨hlong, hlines, htrigs⟩ hb]
  case tooLong =>
    intro s u cam data unusable resent t f damaged hc hup hu hf hr ho
    rw [exec_cameraLine_clocked hc, State.cameraLine_over ⟨hup, hu, hf, hr⟩ ho]
  case footer => exact fun s cam t f => exec_frameEnd_footer
  case later =>
    intro s cam t f hc hf hnot hlater
    rw [exec_frameEnd_header hc hf, if_neg (CamFrame.not_first_header hnot), if_pos hlater]
  case untriggered =>
    intro s cam t f hc hf hnot hlater
    rw [exec_frameEnd_header hc hf, if_neg (CamFrame.not_first_header hnot), if_neg (Bool.eq_false_iff.mp hlater)]
  case first =>
    intro s cam t f hc hf hlines hlong hhead
    rw [exec_frameEnd_header hc hf, if_pos ⟨hlines, hlong, hhead⟩]
  case timeout => exact fun s cam t f z => exec_frameEnd_timeout
  case resend =>
    rintro s _ _ cam l _ hc hl rfl rfl rfl
    exact exec_resendTimeout_due hc hl
  case reply =>
    rintro s _ cam data q rest hc hq rfl
    exact exec_gencpReply_oldest hc hq
  case noReply =>
    rintro s _ cam q rest hc hq rfl
    exact exec_gencpTimeout_oldest hc hq
  case gpio =>
    intro s cam inputs hc hup
    exact (event_of_clocked hc).trans (if_pos hup)
  case laneUp =>
    intro s cam hc hen hlock
    exact (event_of_clocked hc).trans (if_pos (by rw [hen, hlock]; rfl))
  case exposure => exact fun s cam t e rest => exec_exposureEnd_due
  case crop => exact fun s u t c rest => exec_cropStartTimeout_due
  case commitGood =>
    intro s cam hr hgood
    rw [exec_commit_reaches hr, if_neg (Bool.eq_false_iff.mp hgood), State.commitCam]
  case commitBad =>
    intro s cam hr hbad
    rw [exec_commit_reaches hr, if_pos hbad]

end Sys2Proof.Machine
end

section
/-!
SUPPORT. The packets of MEM, where they are taken and nothing refuses them (R416, R421 to R423, R636).
-/

namespace Sys2Proof.Machine

section
variable {s : State} {h : Hdr}

/-- A copy of whole 64-byte lines between good addresses, whose transfers succeed, is not refused (R416). -/
theorem State.dmaCopy_not_refused {src dst n : Nat} (ha : s.accepts .mem = true) (hn : misaligned n 64 = false)
    (hbad : s.badAddr src n = false ∧ s.badAddr dst n = false) (hfail : s.dmaFails src n = false ∧ s.dmaFails dst n = false) :
    firstFail [(misaligned n 64 || s.badAddr src n || s.badAddr dst n, .badParam), (!s.accepts .mem, .unitOff),
      (s.dmaFails src n || s.dmaFails dst n, .dmaError)] = none := by
  obtain ⟨hbadSrc, hbadDst⟩ := hbad
  obtain ⟨hfailSrc, hfailDst⟩ := hfail
  rw [ha, hn, hbadSrc, hbadDst, hfailSrc, hfailDst]
  rfl

/-- `DMA_COPY` does not wait while deferrable work goes on (R547), and copies the bytes with their poison. -/
theorem exec_dmaCopy_runs {src dst n : Nat} {b : State} (ht : s.Takes (.dmaCopy h src dst n) opDmaCopy h) (hst : s.stalled = false)
    (ha : s.accepts .mem = true) (hn : misaligned n 64 = false) (hbad : s.badAddr src n = false ∧ s.badAddr dst n = false)
    (hfail : s.dmaFails src n = false ∧ s.dmaFails dst n = false) (hb : b = s.begun opDmaCopy h) :
    exec (.dmaCopy h src dst n) s = .next
      (((b.poisonParts src n).foldl (fun (t : State) p => t.usePoison 0 (src + p.1) p.2)
        (((b.touch 0 src n).writeAt 0 dst (b.bytesAt src n)).poisonDst dst (b.poisonParts src n))).complete (s.asPk opDmaCopy h)
        (if (b.poisonParts src n).isEmpty then .ok else .uncorrectable) [n]) := by
  subst hb
  show execDmaCopy h src dst n s = _
  rw [execDmaCopy, if_neg (Bool.eq_false_iff.mp hst)]
  exact State.packet_outcome ht (State.dmaCopy_not_refused (s := s.begun opDmaCopy h) ha hn hbad hfail)

/-- The page at an address may be retired: it is an aligned one of installed DRAM, below the reserved area and in no silo (R423, R636). -/
structure State.MayRetire (s : State) (addr : Nat) : Prop where
  installed : isDram addr = true ∧ s.badAddr addr 65536 = false
  aligned : misaligned (dramAddr addr) 65536 = false
  below : dramAddr addr + 65536 ≤ s.reservedBase
  unused : s.pageInSilo (dramAddr addr) = false

/-- A packet in progress changes nothing of what a retirement asks for. -/
theorem State.MayRetire.begun {addr : Nat} (hp : s.MayRetire addr) (o : OpInfo) (h : Hdr) : (s.begun o h).MayRetire addr :=
  ⟨hp.installed, hp.aligned, hp.below, hp.unused⟩

theorem State.MayRetire.not_refused {addr : Nat} (hp : s.MayRetire addr) (ha : s.accepts .mem = true) :
    firstFail (rank0 s .mem (!isDram addr || s.badAddr addr 65536 || misaligned (dramAddr addr) 65536 ||
      decide (s.reservedBase < dramAddr addr + 65536)) false [(s.pageInSilo (dramAddr addr), .retireInUse)]) = none := by
  obtain ⟨⟨hd, hb⟩, hm, hr, hu⟩ := hp
  rw [hd, hb, hm, decide_eq_false (Nat.not_lt.mpr hr), hu]
  exact firstFail_rank0 ha

/-- `MEM_RETIRE` of a page that may be retired answers for one that is retired, refuses one beyond 4,096, and retires any other (R423). -/
theorem exec_memRetire_runs {addr : Nat} (ht : s.Takes (.memRetire h addr) opMemRetire h) (ha : s.accepts .mem = true)
    (hp : s.MayRetire addr) :
    exec (.memRetire h addr) s = .next
      (let b : State := { s.begun opMemRetire h with retired := s.retired ++ [dramAddr addr / 65536] }
       if s.retired.contains (dramAddr addr / 65536) then (s.begun opMemRetire h).complete (s.asPk opMemRetire h) .ok [s.retired.length]
       else if 4096 ≤ s.retired.length then (s.begun opMemRetire h).complete (s.asPk opMemRetire h) .noResource [s.retired.length]
       else (b.logMem (b.memRec 8 0 (dramAddr addr) 0 0xFF)).complete (s.asPk opMemRetire h) .ok [b.retired.length]) :=
  State.packet_outcome ht ((hp.begun opMemRetire h).not_refused ha)

/-- A row of a channel in use that is no spare row and not remapped is not refused while a spare is left (R422). -/
theorem State.memRemap_not_refused {ch row : Nat} (ha : s.accepts .mem = true) (hch : s.channels.contains ch = true) (hrow : row < 2 ^ 22)
    (hnew : (s.remapped ch).contains row = false)
    (hspare : (List.range 32).any (fun k => decide (Config.spareRow ch k % 2 ^ 22 = row)) = false) (hleft : s.sparesLeft ch ≠ 0) :
    firstFail (rank0 s .mem (!s.channels.contains ch || decide (2 ^ 22 ≤ row) || (s.remapped ch).contains row ||
      (List.range 32).any (fun k => decide (Config.spareRow ch k % 2 ^ 22 = row))) false
      [(decide (s.sparesLeft ch = 0), .remapFull)]) = none := by
  rw [hch, decide_eq_false (Nat.not_le.mpr hrow), hnew, hspare, decide_eq_false hleft]
  exact firstFail_rank0 ha

/-- The same as `State.packet_outcome` for a packet whose refusals carry words. -/
theorem State.packetW_outcome {i : Instr} {o : OpInfo} {words : State → List Nat} {chk : State → List (Bool × Status)}
    {eff : Pk → State → State} (ht : s.Takes i o h) (hc : firstFail (chk (s.begun o h)) = none) :
    (if !s.spells i then Host.Outcome.next s else .next (s.packetW o h [] words chk eff) : Host.Outcome State Fault Refusal) =
      .next (eff (s.asPk o h) (s.begun o h)) := by
  obtain ⟨hs, hm, hf⟩ := ht
  rw [hs, State.packetW_runs hm hf hc]
  rfl

/-- `MEM_LOG_READ` to a good address is refused by nothing; whether one of the records' places is bad decides how it ends (R418, R421). -/
theorem exec_memLogRead_runs {dst most : Nat} {out : List MemRec} {as : List Nat} {r t : State}
    (ht : s.Takes (.memLogRead h dst most) opMemLogRead h) (ha : s.accepts .mem = true) (hd : s.badAddr dst (32 * most) = false)
    (hout : out = s.memLog.take most) (has : as = (List.range out.length).map fun i => s.logAddr (s.mem.logTail + i))
    (hr : r = as.foldl (fun (u : State) a => u.noteRead 0xA a 32) (s.begun opMemLogRead h))
    (hclean : t = as.foldl (fun (u : State) a => u.cleanWords a 32) (r.takeRecords most)) :
    exec (.memLogRead h dst most) s = .next
      (match as.find? (fun a => r.dramBad a 32) with
       | some bad => ((t.writePoisoned 0xA dst (out.flatMap MemRec.bytes)).usePoison 0xA (2 ^ 63 + bad) 32).complete (s.asPk opMemLogRead h)
           .poisoned [out.length]
       | none => (t.writeAt 0xA dst (out.flatMap MemRec.bytes)).complete (s.asPk opMemLogRead h) .ok [out.length]) := by
  subst hclean hr has hout
  exact State.packet_outcome ht (firstFail_rank0_ok (s := s.begun opMemLogRead h) ha hd)

end

/-- Settles O19: nothing refuses the packets; a page is told apart by the list of the retired ones, a log read by its records' places. -/
theorem memoryPackets : Obligations.MemoryPackets := by
  refine ⟨?copy, ?retires, ?already, ?full, ?remap, ?logRead, ?logPoisoned⟩
  case copy => exact fun s h src dst n b => exec_dmaCopy_runs
  case retires =>
    rintro s h addr _ ht ha hd hm hr hp hnew hroom rfl
    rw [exec_memRetire_runs ht ha ⟨hd, hm, hr, hp⟩, if_neg (Bool.eq_false_iff.mp hnew), if_neg (Nat.not_le.mpr hroom),
      List.length_append]
    rfl
  case already =>
    intro s h addr ht ha hd hm hr hp hin
    rw [exec_memRetire_runs ht ha ⟨hd, hm, hr, hp⟩, if_pos hin]
  case full =>
    intro s h addr ht ha hd hm hr hp hnew hfull
    rw [exec_memRetire_runs ht ha ⟨hd, hm, hr, hp⟩, if_neg (Bool.eq_false_iff.mp hnew), if_pos hfull]
  case remap =>
    rintro s h ch row _ _ _ ht ha hch hrow hnew hspare hleft rfl rfl rfl
    exact State.packetW_outcome ht (State.memRemap_not_refused (s := s.begun opMemRemap h) ha hch hrow hnew hspare hleft)
  case logRead =>
    intro s h dst most out as r t ht ha hd hout has hr hclean hgood
    rw [exec_memLogRead_runs ht ha hd hout has hr hclean, hgood]
  case logPoisoned =>
    intro s h dst most out as bad r t ht ha hd hout has hr hclean hbad
    rw [exec_memLogRead_runs ht ha hd hout has hr hclean, hbad]

end Sys2Proof.Machine
end

section
/-!
SUPPORT. The requests that reach MEM, age promotion, the scrub and injection (R398, R399, R401, R403, R409, R412, R434).
-/

namespace Sys2Proof.Machine

/-! ## Requests -/

/-- What a request that MEM serves finds or stores, apart from the channel, the errors that come over DRAM and the counts. -/
def State.meetReq (s : State) (kind : Nat) : MemReq → State
  | .dramRead addr len => s.readRequest kind addr len
  | .dramWrite addr data => if s.dramSize < addr + data.length then s else s.dramWrite kind addr data
  | .gran addr parity replayed loft => s.granRead kind addr parity replayed loft

section
variable {s u v t : State} {kind cls ns addr len : Nat} {req : MemReq} {upsets : List (Nat × Nat)} {sampled : Bool}

/-- Serving a request is what it meets, after the errors, and then the sampled activate and the service time (R402, R406). -/
theorem State.memRequest_eq (ht : t = (s.upset upsets).meetReq kind req) :
    s.memRequest kind cls ns req upsets sampled =
      State.served (if sampled then t.count R.MEM_NR_COUNT R.MEM_OVF_NR_OVF .mem 1 else t) cls ns := by
  subst ht
  cases req <;> rfl

/-- A request that may be served at once takes its channel and is served (R398). -/
theorem exec_memRequest_served (hc : s.clocked = true) (hu : u = s.memRun s.mem.queue.length) (hn : u.servesNow cls req = true)
    (hv : v = (u.takeChannel u.now cls ns req false).upset upsets) (ht : t = v.meetReq kind req) :
    exec (.memRequest kind cls ns req upsets sampled) s = .next
      (State.served (if (sampled && u.activates req) then t.count R.MEM_NR_COUNT R.MEM_OVF_NR_OVF .mem 1 else t) cls ns) := by
  subst hv
  refine (event_of_clocked hc).trans (congrArg _ ?_)
  rw [State.memArrive, ← hu, if_pos hn, State.memRequest_eq ht]

/-- Any other request joins the end of the queue (R398). -/
theorem exec_memRequest_waits (hc : s.clocked = true) (hu : u = s.memRun s.mem.queue.length) (hn : u.servesNow cls req = false) :
    exec (.memRequest kind cls ns req upsets sampled) s =
      .next { u with mem := { u.mem with queue := u.mem.queue ++ [⟨kind, cls, u.now, ns, req, upsets, sampled, false⟩] } } := by
  refine (event_of_clocked hc).trans (congrArg _ ?_)
  rw [State.memArrive, ← hu, if_neg (Bool.eq_false_iff.mp hn)]

theorem State.readRequest_outside (hd : s.dramSize < addr + len) : s.readRequest kind addr len = s := if_pos hd

/-- A read of a poisoned word of the security area is a security error (R598). -/
theorem State.readRequest_security (hd : addr + len ≤ s.dramSize) (hs : s.secPoison addr len = true) :
    s.readRequest kind addr len = (s.noteRead kind addr len).secError 0 := by
  rw [State.readRequest, if_neg (Nat.not_lt.mpr hd), if_pos hs]

/-- A read by MEM's own firmware of a bad word of its areas reloads them (R391, R418). -/
theorem State.readRequest_firmware (hd : addr + len ≤ s.dramSize) (hs : s.secPoison addr len = false)
    (hf : kind = 2 ∧ s.firmwareArea addr = true ∧ s.dramBad addr len = true) :
    s.readRequest kind addr len = ((s.noteRead kind addr len).usePoison kind (2 ^ 63 + addr) len).reloadFirmware addr len := by
  rw [State.readRequest, if_neg (Nat.not_lt.mpr hd), if_neg (Bool.eq_false_iff.mp hs), if_pos hf]

/-- Any other read within installed DRAM only reads each word by its errors (R411). -/
theorem State.readRequest_plain (hd : addr + len ≤ s.dramSize) (hs : s.secPoison addr len = false)
    (hf : kind ≠ 2 ∨ s.firmwareArea addr = false ∨ s.dramBad addr len = false) :
    s.readRequest kind addr len = s.noteRead kind addr len := by
  have hnot : ¬(kind = 2 ∧ s.firmwareArea addr = true ∧ s.dramBad addr len = true) := by
    rintro ⟨hk, ha, hb⟩
    simp [hk, ha, hb] at hf
  rw [State.readRequest, if_neg (Nat.not_lt.mpr hd), if_neg (Bool.eq_false_iff.mp hs), if_neg hnot]

end

/-! ## Age promotion, scrub and injection -/

section
variable {s : State}

/-- `AGE_PROMOTION` serves what may be served by the age limit of the oldest request below class 0, and promotes that one if it still
waits (R399). -/
theorem exec_agePromotion_oldest {w : MemWait} {a u : State} (hc : s.clocked = true)
    (hw : s.mem.queue.find? (fun w => decide (w.level ≠ 0)) = some w) (ha : a = s.advance (w.at' + s.ageLimit))
    (hu : u = a.memRun a.mem.queue.length) :
    exec .agePromotion s = .next
      (let p := State.count { u with mem := { u.mem with
          queue := modFirst (fun x => decide (x = w)) (fun x => { x with promoted := true }) u.mem.queue } }
          R.MEM_PROMOTED_COUNT R.MEM_OVF_PROMOTED_OVF .mem 1
       if u.mem.queue.contains w then p.memRun p.mem.queue.length else u) := by
  subst ha
  refine (event_of_clocked hc).trans ?_
  simp only [hw, ← hu]
  cases u.mem.queue.contains w <;> rfl

/-- `SCRUB` runs while background work is not stalled and MEM takes work (R412). -/
theorem exec_scrub_runs {addr words : Nat} {upsets : List (Nat × Nat)} (hc : s.clocked = true) (hst : s.stalled = false)
    (ha : s.accepts .mem = true) :
    exec (.scrub addr words upsets) s = .next ((wordsOf (addr / 8 * 8) (8 * words)).foldl
      (fun (s : State) w => if s.dramSize ≤ 8 * w then s else s.scrubWord w) (s.upset upsets)) :=
  (event_of_clocked hc).trans (if_neg (by rw [hst, ha]; decide))

/-- A write of an installed word of the armed channel is the one that the fault is injected into (R434). -/
theorem State.injectWrite_armed {k kind addr : Nat} {data : BitVec 64} (hk : s.rd R.MEM_TEST_INJECT = k) (ha : addr % 8 = 0)
    (hd : addr + 8 ≤ s.dramSize) (hch : s.channelOf addr = s.rd R.MEM_TEST_INJ_CH) :
    s.injectWrite k kind addr data = s.dramWrite kind addr (leBytes 8 data.toNat) :=
  if_neg (by simp [hk, ha, hch, Nat.not_lt.mpr hd])

end

/-- Settles O28: a request by whether it may be served at once, and then by what it meets; the other events by what waits or is armed. -/
theorem memoryRequests : Obligations.MemoryRequests := by
  refine ⟨?read, ?security, ?firmware, ?write, ?granary, ?readOutside, ?writeOutside, ?waits, ?promoted, ?served, ?scrub, ?oneBit,
    ?twoBits, ?poison⟩
  case read =>
    intro s kind cls ns addr upsets sampled len u v t hc hu hn hv hd hs hf ht
    exact exec_memRequest_served hc hu hn hv (ht.trans (State.readRequest_plain hd hs hf).symm)
  case security =>
    intro s kind cls ns addr upsets sampled len u v t hc hu hn hv hd hs ht
    exact exec_memRequest_served hc hu hn hv (ht.trans (State.readRequest_security hd hs).symm)
  case firmware =>
    intro s kind cls ns addr upsets sampled len u v t hc hu hn hv hd hs hf hb hk ht
    exact exec_memRequest_served hc hu hn hv (ht.trans (State.readRequest_firmware hd hs ⟨hk, hf, hb⟩).symm)
  case write =>
    intro s kind cls ns addr upsets sampled data u v t hc hu hn hv hd ht
    exact exec_memRequest_served hc hu hn hv (ht.trans (if_neg (Nat.not_lt.mpr hd)).symm)
  case granary => exact fun s kind cls ns addr upsets sampled parity replayed loft u v t => exec_memRequest_served
  case readOutside =>
    intro s kind cls ns addr upsets sampled len u v t hc hu hn hv hd ht
    exact exec_memRequest_served hc hu hn hv (ht.trans (State.readRequest_outside hd).symm)
  case writeOutside =>
    intro s kind cls ns addr upsets sampled data u v t hc hu hn hv hd ht
    exact exec_memRequest_served hc hu hn hv (ht.trans (if_pos hd).symm)
  case waits => exact fun s kind cls ns req upsets sampled u => exec_memRequest_waits
  case promoted =>
    rintro s w a u _ hc hw ha hu hin rfl
    rw [exec_agePromotion_oldest hc hw ha hu, if_pos hin]
  case served =>
    intro s w a u hc hw ha hu hout
    rw [exec_agePromotion_oldest hc hw ha hu, if_neg (Bool.eq_false_iff.mp hout)]
  case scrub => exact fun s addr words upsets => exec_scrub_runs
  case oneBit => exact fun s kind addr data hk ha hd hch => congrArg _ (State.injectWrite_armed hk ha hd hch)
  case twoBits => exact fun s kind addr data hk ha hd hch => congrArg _ (State.injectWrite_armed hk ha hd hch)
  case poison => exact fun s kind addr data hk ha hd hch => congrArg _ (State.injectWrite_armed hk ha hd hch)

end Sys2Proof.Machine
end

section
/-!
SUPPORT. The timers of DRAM channels, the granary's rotation, and the boot's training and zero fill (R394, R395, R397, R404, R405, R408,
R431).
-/

namespace Sys2Proof.Machine

/-! ## Channels in use -/

section
variable {s : State} {ch : Fin 4}

/-- A channel in use and not in self-refresh has refresh stalls, in which its calibrations run (R397, R408). -/
theorem State.channel_not_skipped (hch : s.channels.contains ch.val = true) (hsr : s.flag (R.MEM_CH_STATUS_SELF_REFRESH ch.val) = false) :
    ¬((!s.channels.contains ch.val) = true ∨ s.flag (R.MEM_CH_STATUS_SELF_REFRESH ch.val) = true) := by
  rw [hch, hsr]
  decide

/-- A refresh that is due first serves what waits, then takes the channel and closes its rows (R404, R407). -/
theorem exec_refresh_runs {due : Nat} {u : State} (hc : s.clocked = true) (hch : s.channels.contains ch.val = true)
    (hsr : s.flag (R.MEM_CH_STATUS_SELF_REFRESH ch.val) = false) (hoff : s.flag R.MEM_TEST_REF_OFF = false)
    (hdue : due = tget 0 s.mem.refAt ch.val + s.refInterval ch.val)
    (hu : u = (s.advance due).memRun (s.advance due).mem.queue.length) :
    exec (.refresh ch) s = .next { u with mem := { u.mem with
      refAt := tset 0 u.mem.refAt ch.val due,
      taken := tset 0 u.mem.taken ch.val (max due (tget 0 u.mem.taken ch.val) + 16 * u.rd (R.MEM_CH_CFG_TRFC_NS ch.val)),
      rows := tdrop u.mem.rows (ch.val * 64) (ch.val * 64 + 64) } } := by
  subst hu hdue
  exact (event_of_clocked hc).trans (if_neg (by rw [hch, hsr, hoff]; decide))

theorem exec_impedanceCalibration_stalls (hc : s.clocked = true) (hch : s.channels.contains ch.val = true)
    (hsr : s.flag (R.MEM_CH_STATUS_SELF_REFRESH ch.val) = false) : exec (.impedanceCalibration ch) s = .next (s.stallWork ch.val) :=
  (event_of_clocked hc).trans (if_neg (State.channel_not_skipped hch hsr))

theorem exec_eyeRecentre_writes {readPs writePs : Nat} (hc : s.clocked = true) (hch : s.channels.contains ch.val = true)
    (hsr : s.flag (R.MEM_CH_STATUS_SELF_REFRESH ch.val) = false) :
    exec (.eyeRecentre ch readPs writePs) s =
      .next (((s.stallWork ch.val).wr (R.MEM_CH_EYE_READ_PS ch.val) readPs).wr (R.MEM_CH_EYE_WRITE_PS ch.val) writePs) :=
  (event_of_clocked hc).trans (if_neg (State.channel_not_skipped hch hsr))

/-- Note since when channel `c` has been at or below the limit (R405). -/
def State.setCool (s : State) (c : Nat) (v : Option Nat) : State := { s with mem := { s.mem with cool := tset none s.mem.cool c v } }

theorem exec_refreshRatePoll_inUse {above : Bool} {t : Nat} (hc : s.clocked = true) (hch : s.channels.contains ch.val = true) :
    exec (.refreshRatePoll ch above t) s = .next (s.pollRefresh ch.val above t) :=
  (event_of_clocked hc).trans (if_neg (by rw [hch]; decide))

/-- A channel that comes above the limit is HOT from then on (R405). -/
theorem State.pollRefresh_heats {c t : Nat} (hh : s.flag (R.MEM_CH_STATUS_HOT c) = false) :
    s.pollRefresh c true t = (((s.advance t).setCool c none).wr (R.MEM_CH_STATUS_HOT c) 1).raise .mem 21 := by
  have hh' : (s.advance t).flag (R.MEM_CH_STATUS_HOT c) = false := hh
  rw [State.pollRefresh, hh']
  rfl

/-- A hot channel that is found at or below the limit begins to cool, and is no longer HOT 1 s later (R405). -/
theorem State.pollRefresh_cools {c t : Nat} (hh : s.flag (R.MEM_CH_STATUS_HOT c) = true) :
    s.pollRefresh c false t = match tget none s.mem.cool c with
      | none => (s.advance t).setCool c (some (s.advance t).now)
      | some t0 => if t0 + 16000000000 ≤ (s.advance t).now then
          (((s.advance t).setCool c none).wr (R.MEM_CH_STATUS_HOT c) 0).raise .mem 21 else s.advance t := by
  have hh' : (s.advance t).flag (R.MEM_CH_STATUS_HOT c) = true := hh
  rw [State.pollRefresh, hh']
  rfl

/-- A channel that nothing waits for enters self-refresh `SR_IDLE` ms after it was last taken (R408). -/
theorem exec_selfRefreshEntry_enters (hc : s.clocked = true) (hi : s.rd R.MEM_CFG_SR_IDLE ≠ 0) (hp : s.printing = false)
    (hch : s.channels.contains ch.val = true) (hq : s.mem.queue.any (fun w => decide (s.reqChannel w.req = ch.val)) = false) :
    exec (.selfRefreshEntry ch) s = .next ((s.advance (tget 0 s.mem.taken ch.val + s.rd R.MEM_CFG_SR_IDLE * 16000000)).wr
      (R.MEM_CH_STATUS_SELF_REFRESH ch.val) 1) :=
  (event_of_clocked hc).trans (if_neg (by simp only [hi, hp, hch, hq]; decide))

end

/-! ## Rotation of the granary -/

section
variable {s u : State}

/-- A rotation step starts where the period is over, and neither the unit, the policy, the load nor an earlier step keeps it (R431). -/
theorem exec_granaryRotation_starts {t : Nat} (hc : s.clocked = true) (hu : u = s.advance t) (ha : u.accepts .mem = true)
    (hen : u.flag R.GRAN_CFG_ROT_EN = true) (hg : u.gleanFlag 2 = true) (hst : u.stalled = false)
    (hperm : u.flag R.GRAN_STATE_PERMANENT = false) (hcopy : u.mem.copying = none) (hbist : u.mem.bist = none)
    (hdue : u.mem.rotAt + max 1 (u.rd R.GRAN_CFG_ROT_S) * 16000000000 ≤ u.now) :
    exec (.granaryRotation t) s =
      .next { u with mem := { u.mem with copying := some u.mem.next, next := (u.mem.next + 1) % 48, rotAt := u.now } } := by
  subst hu
  refine (event_of_clocked hc).trans (if_neg ?_)
  rw [ha, hen, hg, hst, hperm, hcopy, hbist]
  simpa using hdue

theorem exec_bankMove_copied {l : Nat} (hc : s.clocked = true) (hl : s.mem.copying = some l) :
    exec .bankMove s = .next { s with mem := { s.mem with
      phys := tset 0 s.mem.phys l (if s.rd R.GRAN_STATE_SPARE = l then 0 else s.rd R.GRAN_STATE_SPARE + 1),
      copying := none, bist := some (s.physBank l) } } := by
  refine (event_of_clocked hc).trans ?_
  simp only [hl]

end

/-! ## Training and zero fill -/

section
variable {s : State}

/-- The end of the training fixes the channel set, and reports each populated channel outside it (R393, R394). -/
theorem exec_dramTrainingEnd_training {trained : BitVec 4} {pop use lost : List Nat} (hs : s.sysr.stage = .training)
    (hpop : pop = (List.range 4).filter (fun c => s.flag (R.MEM_CH_CFG_POPULATED c)))
    (huse : use = channelSet ((pop.filter fun c => bit trained.toNat c).foldl (fun m c => m + 2 ^ c) 0))
    (hlost : lost = pop.filter fun c => !use.contains c) :
    exec (.dramTrainingEnd trained) s = .next (State.raiseIf
      (lost.foldl (fun (q : State) c => (q.draw).2.logMem { (q.draw).2.memRec 11 0 (Config.free .logField (q.draw).1 % 2 ^ 36) 0 0xFF with
          where' := c, geom := Config.free .logField (q.draw).1 / 2 ^ 36 % 2 ^ 32 })
        ((List.range 4).foldl (fun (q : State) c => q.wrB (R.MEM_CH_STATUS_TRAINED c) (use.contains c))
          (s.boot (if use.isEmpty then BootStage.stuck else BootStage.filling)))) (!lost.isEmpty) .mem 27) := by
  subst hlost huse hpop
  exact if_neg (not_not.mpr hs)

/-- No channel is lost where the set holds every populated one. -/
theorem lostChannels_eq_nil {pop use : List Nat} (h : ∀ c ∈ pop, use.contains c = true) : pop.filter (fun c => !use.contains c) = [] := by
  rw [List.filter_eq_nil_iff]
  intro c hc
  simp [List.contains_iff_mem.mp (h c hc)]

end

/-- Settles O29: a poll by whether its channel is hot and since when it cools, each other event by what lets it happen. -/
theorem memoryChannels : Obligations.MemoryChannels := by
  refine ⟨?refresh, ?impedance, ?heats, ?beginsToCool, ?cooled, ?eye, ?selfRefresh, ?rotation, ?bankMove, ?trained, ?lost, ?zeroFill⟩
  case refresh => exact fun s ch due u => exec_refresh_runs
  case impedance => exact fun s ch => exec_impedanceCalibration_stalls
  case heats =>
    intro s ch t hc hch hh
    rw [exec_refreshRatePoll_inUse hc hch, State.pollRefresh_heats hh, State.setCool]
  case beginsToCool =>
    intro s ch t hc hch hh hcool
    rw [exec_refreshRatePoll_inUse hc hch, State.pollRefresh_cools hh, hcool, State.setCool]
  case cooled =>
    intro s ch t t0 hc hch hh hcool ht
    simp only [exec_refreshRatePoll_inUse hc hch, State.pollRefresh_cools hh, hcool, if_pos ht, State.setCool]
  case eye => exact fun s ch readPs writePs => exec_eyeRecentre_writes
  case selfRefresh => exact fun s ch => exec_selfRefreshEntry_enters
  case rotation => exact fun s t u => exec_granaryRotation_starts
  case bankMove => exact fun s l => exec_bankMove_copied
  case trained =>
    intro s trained pop use hs hpop huse hne hall
    have hset : use.isEmpty = false := Bool.eq_false_iff.mpr (mt List.isEmpty_iff.mp hne)
    rw [exec_dramTrainingEnd_training hs hpop huse rfl, lostChannels_eq_nil hall, hset]
    rfl
  case lost => exact fun s trained pop use lost => exec_dramTrainingEnd_training
  case zeroFill => exact fun s hs => if_neg (not_not.mpr hs)

end Sys2Proof.Machine
end

section
/-!
SUPPORT. PTP messages that arrive at an Ethernet port, and their answers (R447, R452 to R458).
-/

namespace Sys2Proof.Machine

/-! ## Ports that take messages -/

/-- A PTP message that arrives at `t` is taken at a port in use, its link up and its state LISTENING or beyond; counted, it leaves the
state `u` (R447). -/
structure State.TakesPtp (s : State) (p t : Nat) (u : State) : Prop where
  clocked : s.clocked = true
  linkUp : s.flag (R.ETH_STATE_LINK_UP p) = true
  used : s.usesPort p = true
  listens : 4 ≤ s.pst p
  counted : u = (s.advance t).count (R.ETH_RX_PTP_COUNT p) (R.ETH_OVF_RX_OVF p) .time 1

section
variable {s u : State} {port : Fin 2} {t source seq requester : Nat} {corr : Int}

/-- A message that is taken acts on the state in which it is counted. -/
theorem State.TakesPtp.outcome (h : s.TakesPtp port.val t u) (f : State → State) :
    (if !s.clocked then Host.Outcome.next s else .next (s.ptpMessage port.val t f) : Host.Outcome State Fault Refusal) = .next (f u) := by
  obtain ⟨hc, hl, hu, hp, rfl⟩ := h
  rw [event_of_clocked hc, State.ptpMessage_runs f hl hu hp]

/-- A message at a port that the PTP clock does not use, its link up, is discarded (R447). -/
theorem State.ptpMessage_unused {p : Nat} (f : State → State) (hl : s.flag (R.ETH_STATE_LINK_UP p) = true) (hu : s.usesPort p = false) :
    s.ptpMessage p t f = (s.advance t).discardFrame p := by
  have hl' : (s.advance t).flag (R.ETH_STATE_LINK_UP p) = true := hl
  have hu' : (s.advance t).usesPort p = false := hu
  simp [State.ptpMessage, hl', hu']

/-! ## Sync and Follow_Up -/

/-- A Sync of the parent restarts its receipt time, and then waits for its Follow_Up or is complete (R455, R456, R458). -/
theorem exec_sync_fromParent {v : State} {origin : Nat} {twoStep : Bool} (h : s.TakesPtp port.val t u)
    (hpar : u.fromParent port.val source = true) (hv : v = u.setPort port.val { u.port port.val with syncAt := u.now }) :
    exec (.sync port source seq twoStep origin corr t) s = .next
      (if twoStep then v.setPort port.val { v.port port.val with pendSync := some (source, seq, v.ingress port.val t, corr) }
       else v.syncDone port.val (v.ingress port.val t - 16 * (origin : Int) - corr16 corr)) := by
  subst hv
  exact (h.outcome _).trans (congrArg _ (if_neg (by rw [hpar]; decide)))

theorem exec_followUp_completes {origin : Nat} {c t2 : Int} (h : s.TakesPtp port.val t u) (hpar : u.fromParent port.val source = true)
    (hp : (u.port port.val).pendSync = some (source, seq, t2, c)) :
    exec (.followUp port source seq origin corr t) s = .next ((u.setPort port.val { u.port port.val with pendSync := none }).syncDone
      port.val (t2 - 16 * (origin : Int) - (corr16 c + corr16 corr))) := by
  refine (h.outcome _).trans (congrArg _ ?_)
  simp only [hp]
  exact if_pos ⟨trivial, trivial, hpar⟩

/-! ## Delay requests and responses -/

theorem exec_delayReq_answers (h : s.TakesPtp port.val t u) (hm : u.pst port.val = 6) (hp2p : u.ptpFlag 2 = false) :
    exec (.delayReq port source seq corr t) s = .next (u.sendPtp port.val 9 seq [u.ingress port.val t, corr, source]) :=
  (h.outcome _).trans (congrArg _ (if_neg (not_or.mpr ⟨not_not.mpr hm, Bool.eq_false_iff.mp hp2p⟩)))

theorem exec_delayResp_samples {recv t3 diff : Int} (h : s.TakesPtp port.val t u) (hpar : u.fromParent port.val source = true)
    (hp2p : u.ptpFlag 2 = false) (hid : requester = u.portId port.val) (hq : (u.port port.val).req = some (seq, t3, diff)) :
    exec (.delayResp port source seq requester recv corr t) s = .next ((u.setPort port.val { u.port port.val with req := none }).delaySample
      port.val (sar (diff + (recv - t3 - corr16 corr)) 1)) := by
  refine (h.outcome _).trans (congrArg _ ?_)
  simp only [hq]
  exact if_pos ⟨trivial, hid, hpar, by rw [hp2p]; rfl⟩

/-- Under `P2P` a Pdelay_Req is answered, with both stamps in two messages or with the turnaround time in one (R455). -/
theorem exec_pdelayReq_answers {tOut : Nat} (h : s.TakesPtp port.val t u) (hp2p : u.ptpFlag 2 = true) :
    exec (.pdelayReq port source seq corr t tOut) s = .next
      (if u.ptpFlag 1 then
        (u.sendPtp port.val 3 seq [u.ingress port.val t, 0, source]).sendPtp port.val 10 seq [u.egress port.val (max t tOut), corr, source]
       else u.sendPtp port.val 3 seq [0, corr + (u.egress port.val (max t tOut) - u.ingress port.val t) * 4096, source]) :=
  (h.outcome _).trans (congrArg _ (if_neg (by rw [hp2p]; decide)))

/-- The response to the port's own Pdelay_Req waits for its follow-up or forms a delay sample (R456). -/
theorem exec_pdelayResp_own {twoStep : Bool} {recv t1 : Int} (h : s.TakesPtp port.val t u) (hq : (u.port port.val).pdReq = some (seq, t1))
    (hid : requester = u.portId port.val) :
    exec (.pdelayResp port requester seq twoStep recv corr t) s = .next
      (if twoStep then u.setPort port.val { u.port port.val with pdResp := some (seq, u.ingress port.val t, recv, corr) }
       else (u.setPort port.val { u.port port.val with pdReq := none }).delaySample port.val
        (sar ((u.ingress port.val t - t1) - corr16 corr) 1)) := by
  refine (h.outcome _).trans (congrArg _ ?_)
  simp only [hq]
  exact if_neg (not_or.mpr ⟨not_not.mpr rfl, not_not.mpr hid⟩)

theorem exec_pdelayRespFollowUp_samples {q : Nat} {origin recv c t1 t4 : Int} (h : s.TakesPtp port.val t u)
    (hq : (u.port port.val).pdReq = some (q, t1)) (hr : (u.port port.val).pdResp = some (seq, t4, recv, c))
    (hid : requester = u.portId port.val) :
    exec (.pdelayRespFollowUp port requester seq origin corr t) s = .next
      ((u.setPort port.val { u.port port.val with pdReq := none, pdResp := none }).delaySample port.val
        (sar ((t4 - t1) - (origin - recv + corr16 c + corr16 corr)) 1)) := by
  refine (h.outcome _).trans (congrArg _ ?_)
  simp only [hq, hr]
  exact if_neg (not_or.mpr ⟨not_not.mpr rfl, not_not.mpr hid⟩)

/-! ## Announce -/

/-- An Announce of another clock than the own one is entered, and the algorithm runs (R452). -/
theorem exec_announce_foreign {a : Announce} {x : PtpPort} (h : s.TakesPtp port.val t u) (ha : a.source / 65536 ≠ u.ptpB 24 8)
    (hx : x = (u.port port.val).note a t (4 * u.annInterval)) :
    exec (.announce port a t) s = .next ((u.setPort port.val
      (if ((decide (u.pst port.val = 9) || decide (u.pst port.val = 8)) && !u.fromParent port.val a.source) then x
       else { x with annAt := u.now })).bmca) := by
  subst hx
  exact (h.outcome _).trans (congrArg _ (if_neg ha))

end

/-- Settles O30: a message that the port takes acts on the state in which it is counted; else it is discarded. -/
theorem ptpMessages : Obligations.PtpMessages := by
  refine ⟨?syncTwoStep, ?syncOneStep, ?followUp, ?delayReq, ?delayResp, ?pdelayReqTwoStep, ?pdelayReqOneStep, ?pdelayRespTwoStep,
    ?pdelayRespOneStep, ?pdelayFollowUp, ?announce, ?discard, ?unused⟩
  case syncTwoStep => exact fun s u port t v source seq origin corr hc hl hu hp hn => exec_sync_fromParent ⟨hc, hl, hu, hp, hn⟩
  case syncOneStep => exact fun s u port t v source seq origin corr hc hl hu hp hn => exec_sync_fromParent ⟨hc, hl, hu, hp, hn⟩
  case followUp => exact fun s u port t source seq origin corr c t2 hc hl hu hp hn => exec_followUp_completes ⟨hc, hl, hu, hp, hn⟩
  case delayReq => exact fun s u port t source seq corr hc hl hu hp hn => exec_delayReq_answers ⟨hc, hl, hu, hp, hn⟩
  case delayResp =>
    exact fun s u port t source seq requester recv corr t3 diff hc hl hu hp hn => exec_delayResp_samples ⟨hc, hl, hu, hp, hn⟩
  case pdelayReqTwoStep =>
    intro s u port t source seq tOut corr hc hl hu hp hn hp2p htwo
    rw [exec_pdelayReq_answers ⟨hc, hl, hu, hp, hn⟩ hp2p, if_pos htwo]
  case pdelayReqOneStep =>
    intro s u port t source seq tOut corr hc hl hu hp hn hp2p hone
    rw [exec_pdelayReq_answers ⟨hc, hl, hu, hp, hn⟩ hp2p, if_neg (Bool.eq_false_iff.mp hone)]
  case pdelayRespTwoStep => exact fun s u port t requester seq recv corr t1 hc hl hu hp hn => exec_pdelayResp_own ⟨hc, hl, hu, hp, hn⟩
  case pdelayRespOneStep => exact fun s u port t requester seq recv corr t1 hc hl hu hp hn => exec_pdelayResp_own ⟨hc, hl, hu, hp, hn⟩
  case pdelayFollowUp =>
    exact fun s u port t requester seq q origin corr recv c t1 t4 hc hl hu hp hn =>
      exec_pdelayRespFollowUp_samples ⟨hc, hl, hu, hp, hn⟩
  case announce => exact fun s u port t a x hc hl hu hp hn => exec_announce_foreign ⟨hc, hl, hu, hp, hn⟩
  case discard => exact fun s port hc => event_of_clocked hc
  case unused =>
    exact fun s port source seq origin t twoStep corr hc hl hu =>
      (event_of_clocked hc).trans (congrArg _ (State.ptpMessage_unused _ hl hu))

end Sys2Proof.Machine
end

section
/-!
SUPPORT. The intervals and receipt time-outs of PTP ports, and the Ethernet links (R445, R452, R455, R456, R459).
-/

namespace Sys2Proof.Machine

/-! ## Intervals -/

/-- A port that has sent Delay_Req, its egress time `t1`: it keeps that time where a Sync has been complete (R456). -/
def PtpPort.asked (x : PtpPort) (t1 : Int) : PtpPort :=
  match x.diff with
  | none => { x with reqSeq := (x.reqSeq + 1) % 65536 }
  | some d => { x with reqSeq := (x.reqSeq + 1) % 65536, req := some (x.reqSeq, t1, d) }

theorem PtpPort.asked_of_diff {x : PtpPort} {d : Int} (h : x.diff = some d) (t1 : Int) :
    x.asked t1 = { x with reqSeq := (x.reqSeq + 1) % 65536, req := some (x.reqSeq, t1, d) } := by
  simp only [PtpPort.asked, h]

theorem PtpPort.asked_of_no_diff {x : PtpPort} (h : x.diff = none) (t1 : Int) :
    x.asked t1 = { x with reqSeq := (x.reqSeq + 1) % 65536 } := by
  simp only [PtpPort.asked, h]

section
variable {s u : State} {port : Fin 2} {t : Nat}

/-- A port in MASTER sends Sync with its egress time, in one message or in two (R455). -/
theorem exec_syncInterval_master (hc : s.clocked = true) (hu : u = s.advance t) (hm : u.pst port.val = 6) :
    exec (.syncInterval port t) s = .next
      (let q := (u.port port.val).syncSeq
       let v := u.setPort port.val { u.port port.val with syncSeq := (q + 1) % 65536 }
       if u.ptpFlag 1 then (v.sendPtp port.val 0 q [0]).sendPtp port.val 8 q [v.egress port.val t]
       else v.sendPtp port.val 0 q [v.egress port.val t]) := by
  subst hu
  exact (event_of_clocked hc).trans (if_neg (not_not.mpr hm))

theorem exec_announceInterval_master {a : Announce} (hc : s.clocked = true) (hu : u = s.advance t) (hm : u.pst port.val = 6)
    (ha : a = u.annSet port.val) :
    exec (.announceInterval port t) s = .next
      ((u.setPort port.val { u.port port.val with annSeq := ((u.port port.val).annSeq + 1) % 65536 }).sendPtp port.val 11
        (u.port port.val).annSeq [a.source, a.gm, a.priority1, a.clockClass, a.accuracy, a.variance, a.priority2, a.steps, a.utc,
          a.timeSource, a.flags]) := by
  subst hu ha
  have hpre : (s.advance t).pst port.val ≠ psPreMaster := by rw [hm]; decide
  exact (event_of_clocked hc).trans ((if_neg hpre).trans (if_neg (not_not.mpr hm)))

theorem exec_announceInterval_preMaster (hc : s.clocked = true) (hu : u = s.advance t) (hm : u.pst port.val = 5) :
    exec (.announceInterval port t) s = .next
      (if (u.port port.val).qual ≤ 1 then u.setPst port.val 6
       else u.setPort port.val { u.port port.val with qual := (u.port port.val).qual - 1 }) := by
  subst hu
  exact (event_of_clocked hc).trans (if_pos hm)

theorem exec_delayReqInterval_peer (hc : s.clocked = true) (hu : u = s.advance t) (hp2p : u.ptpFlag 2 = true)
    (huse : u.usesPort port.val = true) (hst : 4 ≤ u.pst port.val) :
    exec (.delayReqInterval port t) s = .next
      ((u.setPort port.val { u.port port.val with
          reqSeq := ((u.port port.val).reqSeq + 1) % 65536
          pdReq := some ((u.port port.val).reqSeq, u.egress port.val t)
          pdResp := none }).sendPtp port.val 2 (u.port port.val).reqSeq [u.egress port.val t]) := by
  subst hu
  exact (event_of_clocked hc).trans ((if_pos hp2p).trans (congrArg _ (if_pos ⟨huse, hst⟩)))

/-- A slave port sends Delay_Req (R456). -/
theorem exec_delayReqInterval_slave (hc : s.clocked = true) (hu : u = s.advance t) (hp2p : u.ptpFlag 2 = false)
    (hst : u.pst port.val = 9 ∨ u.pst port.val = 8) :
    exec (.delayReqInterval port t) s = .next
      ((u.setPort port.val ((u.port port.val).asked (u.egress port.val t))).sendPtp port.val 1 (u.port port.val).reqSeq
        [u.egress port.val t]) := by
  subst hu
  have hslave : ¬((s.advance t).pst port.val ≠ psSlave ∧ (s.advance t).pst port.val ≠ psUncal) :=
    not_and_or.mpr (hst.imp not_not.mpr not_not.mpr)
  refine (event_of_clocked hc).trans ((if_neg (Bool.eq_false_iff.mp hp2p)).trans ((if_neg hslave).trans ?_))
  cases hd : ((s.advance t).port port.val).diff with
  | none => rw [PtpPort.asked_of_no_diff hd, hd]
  | some d => rw [PtpPort.asked_of_diff hd, hd]

end

/-! ## Receipt time-outs -/

section
variable {s t : State} {port : Fin 2}

/-- The Announce receipt time ends at a port in use that neither leads nor is about to, and that may do other than listen: a listening or
passive port takes over, a slave leaves its master (R452, R459). -/
theorem exec_announceReceiptTimeout_ends (hc : s.clocked = true) (hu : s.usesPort port.val = true)
    (hst : s.pst port.val = 4 ∧ s.ptpFlag 0 = false ∨ s.pst port.val = 7 ∨ s.pst port.val = 8 ∨ s.pst port.val = 9)
    (ht : t = s.advance ((s.port port.val).annAt + s.ptpB 13 1 * s.annInterval)) :
    exec (.announceReceiptTimeout port) s =
      if s.pst port.val = 4 ∨ s.pst port.val = 7 then
        .next ((t.setPort port.val { t.port port.val with foreign := [] }).setPst port.val (if s.ptpFlag 0 then 4 else 6))
      else .next (t.masterLost port.val) := by
  subst ht
  have hin : ¬((!s.usesPort port.val) = true ∨ s.pst port.val < 4 ∨ s.pst port.val = psPreMaster ∨ s.pst port.val = psMaster) := by
    rcases hst with ⟨h, -⟩ | h | h | h <;> rw [hu, h] <;> decide
  have hmay : ¬(s.pst port.val = psListening ∧ s.ptpFlag 0 = true) := by
    rcases hst with ⟨-, h⟩ | h | h | h <;> simp [h, psListening]
  exact (event_of_clocked hc).trans ((if_neg hin).trans (if_neg hmay))

end

/-! ## Ethernet links -/

section
variable {s u : State} {port : Fin 2}

/-- A link that changes is recorded and reported, and starts or stops a port in use (R445, R446, R452). -/
theorem State.ethLink_changes {up : Bool} (hl : s.flag (R.ETH_STATE_LINK_UP port.val) = !up)
    (hu : u = ((s.wrB (R.ETH_STATE_LINK_UP port.val) up).wr (R.LANE_STATUS_LSTATE (Node.port port).base) (if up then 5 else 0)).raise
      .time 20) :
    s.ethLink port.val up =
      if u.usesPort port.val then (if up then (u.startPort port.val).ptpListening else u.setPst port.val 2) else u := by
  have hport : Fin.ofNat 2 port.val = port := Fin.ofNat_val_eq_self port
  have hne : ¬up = s.flag (R.ETH_STATE_LINK_UP port.val) := by rw [hl]; cases up <;> decide
  simp only [State.ethLink, if_neg hne, hport, ← hu]
  cases u.usesPort port.val <;> rfl

/-- A link comes up 1 ms after its lane has gained block lock (R445). -/
theorem exec_linkChange_up (hc : s.clocked = true) (ha : s.accepts (.port port) = true)
    (hb : s.flag (R.LANE_STATUS_BLOCK_LOCK (LaneId.eth port).b) = true) :
    exec (.linkChange port true) s = .next ((s.advance ((s.lane (.eth port)).lockAt + 16000000)).ethLink port.val true) := by
  refine (event_of_clocked hc).trans ((if_neg (by decide)).trans (if_neg ?_))
  rw [ha, hb]
  decide

theorem exec_linkChange_down (hc : s.clocked = true) : exec (.linkChange port false) s = .next (s.ethLink port.val false) :=
  event_of_clocked hc

end

/-- Settles O31: one clause per timer and state of the port, and per direction in which the link changes. -/
theorem ptpTimers : Obligations.PtpTimers := by
  refine ⟨?sync, ?announce, ?preMaster, ?peer, ?slaveAfterSync, ?slaveBeforeSync, ?slaveTimeout, ?unledTimeout, ?syncTimeout, ?linkUp,
    ?linkDown⟩
  case sync => exact fun s u port t => exec_syncInterval_master
  case announce => exact fun s u port t a => exec_announceInterval_master
  case preMaster => exact fun s u port t => exec_announceInterval_preMaster
  case peer => exact fun s u port t => exec_delayReqInterval_peer
  case slaveAfterSync =>
    intro s u port t d hc hu hp2p hst hd
    rw [exec_delayReqInterval_slave hc hu hp2p hst, PtpPort.asked_of_diff hd]
  case slaveBeforeSync =>
    intro s u port t hc hu hp2p hst hd
    rw [exec_delayReqInterval_slave hc hu hp2p hst, PtpPort.asked_of_no_diff hd]
  case slaveTimeout =>
    intro s port hc hu hst
    have hslave : ¬(s.pst port.val = 4 ∨ s.pst port.val = 7) := by omega
    rw [exec_announceReceiptTimeout_ends hc hu (.inr (.inr hst.symm)) rfl, if_neg hslave]
  case unledTimeout =>
    intro s t port hc hu hst ht
    rw [exec_announceReceiptTimeout_ends hc hu (hst.imp_right .inl) ht, if_pos (hst.imp_left And.left)]
  case syncTimeout => exact fun s port hc hst => (event_of_clocked hc).trans (if_pos hst)
  case linkUp =>
    rintro s _ u port hc ha hb hl rfl hu
    have hl' : (s.advance ((s.lane (.eth port)).lockAt + 16000000)).flag (R.ETH_STATE_LINK_UP port.val) = !true := hl
    rw [exec_linkChange_up hc ha hb, State.ethLink_changes hl' hu]
    rfl
  case linkDown =>
    intro s u port hc hl hu
    rw [exec_linkChange_down hc, State.ethLink_changes hl hu]
    rfl

end Sys2Proof.Machine
end

section
/-!
SUPPORT. The packets of TIME, where they are taken and nothing refuses them (R443, R449 to R451, R460, R461, R464, R465).
-/

namespace Sys2Proof.Machine

/-- A good block configures the PTP clock (R450). -/
theorem State.ptpConfig_not_refused {s : State} {block : Nat} {d : List Byte} (ha : s.accepts .time = true) (hr : s.Reads block 64 d)
    (hb : s.ptpBad d = false) :
    firstFail (rank s .time (!(okBytes (s.readAt block 64)).isEmpty && s.ptpBad d) false (s.readAt block 64) []) = none := by
  rw [hb, Bool.and_false, State.readAt_of_reads hr]
  exact firstFail_rank_ok ha rfl

/-- The parameters of a `PULSE_SET` that is not refused (R460, R465). -/
structure PulseGood (output base sec ns frac period width : Nat) : Prop where
  output : output ≤ 7
  base : base ≤ 3
  ns : ns ≤ 999999999
  sec : sec < 2 ^ 48
  frac : frac < 2 ^ 16
  wide : 8 ≤ width
  narrow : width ≤ 1000000000
  period : period = 0 ∨ width + 8 ≤ period

section
variable {s : State} {h : Hdr} {output base sec ns frac period width : Nat} {start least : Int}

theorem PulseGood.not_refused (hg : PulseGood output base sec ns frac period width) (ha : s.accepts .time = true) :
    firstFail (rank0 s .time (decide (7 < output) || decide (3 < base) || decide (999999999 < ns) || decide (2 ^ 48 ≤ sec) ||
        decide (2 ^ 16 ≤ frac) || decide (width < 8) || decide (1000000000 < width) || (decide (period ≠ 0) && decide (period < width + 8)))
      false []) = none := by
  obtain ⟨ho, hb, hn, hs, hf, hw, hw', hp⟩ := hg
  refine firstFail_rank0_ok ha ?_
  rw [decide_eq_false (Nat.not_lt.mpr ho), decide_eq_false (Nat.not_lt.mpr hb), decide_eq_false (Nat.not_lt.mpr hn),
    decide_eq_false (Nat.not_le.mpr hs), decide_eq_false (Nat.not_le.mpr hf), decide_eq_false (Nat.not_lt.mpr hw),
    decide_eq_false (Nat.not_lt.mpr hw')]
  rcases hp with hp | hp
  · simp [hp]
  · simp [Nat.not_lt.mpr hp]

/-- The effect of `PULSE_SET` on the state that it finds (R460, R461, R464). -/
def State.pulseSet (s : State) (pk : Pk) (output base period width : Nat) (start least : Int) : State :=
  let past := decide (start < least)
  let step : Int := (period : Int) * 65536
  let k := if past ∧ period ≠ 0 then ((least - start + step - 1) / step).toNat else 0
  let x : PlsSched := ⟨base, start, period, width, k⟩
  if past ∧ period = 0 then (s.setPls output { (s.pls output) with sched := none }).complete pk .pulsePast [0, 0, 0, 0]
  else
    let s := s.setPls output { (s.pls output) with sched := some x }
    s.complete pk (if past then .pulsePast else if s.unsynced output base then .notSynced else .ok) (tbWords (x.time k))

theorem exec_pulseSet_good (ht : s.Takes (.pulseSet h output base sec ns frac period width) opPulseSet h) (ha : s.accepts .time = true)
    (hg : PulseGood output base sec ns frac period width) (hs : start = tbValue sec ns frac)
    (hl : least = (s.begun opPulseSet h).baseAt base s.now + 5000 * 65536) :
    exec (.pulseSet h output base sec ns frac period width) s =
      .next ((s.begun opPulseSet h).pulseSet (s.asPk opPulseSet h) output base period width start least) := by
  subst hs hl
  exact State.packet_outcome ht (hg.not_refused (s := s.begun opPulseSet h) ha)

variable {pk : Pk}

/-- The first pulse of a schedule is at its start (R461). -/
theorem PlsSched.time_zero (x : PlsSched) : x.time 0 = x.start := by simp [PlsSched.time]

theorem State.pulseSet_ahead (hl : least ≤ start) :
    s.pulseSet pk output base period width start least =
      (s.setPls output { s.pls output with sched := some ⟨base, start, period, width, 0⟩ }).complete pk
        (if s.unsynced output base then .notSynced else .ok) (tbWords start) := by
  have hpast : decide (start < least) = false := decide_eq_false (Int.not_lt.mpr hl)
  simp only [State.pulseSet, hpast, Bool.false_eq_true, false_and, if_false, PlsSched.time_zero]
  rfl

theorem State.pulseSet_past_single (hl : start < least) (hp : period = 0) :
    s.pulseSet pk output base period width start least =
      (s.setPls output { s.pls output with sched := none }).complete pk .pulsePast [0, 0, 0, 0] :=
  if_pos ⟨decide_eq_true hl, hp⟩

theorem State.pulseSet_past_periodic {k : Nat} (hl : start < least) (hp : period ≠ 0)
    (hk : k = ((least - start + (period : Int) * 65536 - 1) / ((period : Int) * 65536)).toNat) :
    s.pulseSet pk output base period width start least =
      (s.setPls output { s.pls output with sched := some ⟨base, start, period, width, k⟩ }).complete pk .pulsePast
        (tbWords (PlsSched.time ⟨base, start, period, width, k⟩ k)) := by
  subst hk
  simp only [State.pulseSet, decide_eq_true hl, hp, ne_eq, not_false_eq_true, and_self, and_false, if_true, if_false]

/-- `TIME_READ` of one of the 4 bases is not refused (R443). -/
theorem State.timeRead_not_refused (ha : s.accepts .time = true) (hb : base ≤ 3) :
    firstFail (rank0 s .time (decide (3 < base)) false []) = none :=
  firstFail_rank0_ok ha (decide_eq_false (Nat.not_lt.mpr hb))

end

/-- Settles O32: nothing refuses the packets; a schedule is told apart by whether its start is far enough ahead and has a period. -/
theorem timePackets : Obligations.TimePackets := by
  refine ⟨?ptpConfig, ?ahead, ?single, ?periodic, ?timeRead⟩
  case ptpConfig =>
    rintro s h block _ _ ht ha ⟨hr1, hr2, hr3, rfl⟩ hb rfl
    exact State.packetR_outcome_of_read ht (State.ptpConfig_not_refused (s := s.begun opPtpConfig h) ha ⟨hr1, hr2, hr3, rfl⟩ hb)
  case ahead =>
    intro s h output base sec ns frac period width start least ht ha ho hb hn hs hf hw hw' hp hst hl hle
    rw [exec_pulseSet_good ht ha ⟨ho, hb, hn, hs, hf, hw, hw', hp⟩ hst hl, State.pulseSet_ahead hle]
    rfl
  case single =>
    intro s h output base sec ns frac period width start least ht ha ho hb hn hs hf hw hw' hp hst hl hlt hz
    rw [exec_pulseSet_good ht ha ⟨ho, hb, hn, hs, hf, hw, hw', hp⟩ hst hl, State.pulseSet_past_single hlt hz]
    rfl
  case periodic =>
    intro s h output base sec ns frac period width start least k ht ha ho hb hn hs hf hw hw' hp hst hl hlt hz hk
    rw [exec_pulseSet_good ht ha ⟨ho, hb, hn, hs, hf, hw, hw', hp⟩ hst hl, State.pulseSet_past_periodic hlt hz hk]
    rfl
  case timeRead =>
    intro s h base ht ha hb
    exact State.packet_outcome ht (State.timeRead_not_refused (s := s.begun opTimeRead h) ha hb)

end Sys2Proof.Machine
end

section
/-!
SUPPORT. The commit and the end of timed pulses, and the host's writes of time bases (R438, R439, R442, R461, R462, R465).
-/

namespace Sys2Proof.Machine

section
variable {s u : State}

/-- A pulse due within 2 µs is committed where TIME takes work and its clock is there (R462, R465). -/
theorem exec_pulseCommit_due {out : Fin 8} {t f : Nat} {x : PlsSched} (hu : u = s.advance t) (hx : (u.pls out.val).sched = some x)
    (hf : f = (u.fireOf x.base (x.time x.next)).toNat) (hdue : f ≤ u.now + 32000) (ha : u.accepts .time = true)
    (hon : u.hlth.shutdown = false) (hroot : u.hlth.rootLost = false) :
    exec (.pulseCommit out t) s = .next (u.commitPulse out.val x x.next f) := by
  subst hu hf
  show execPulseCommit out t s = _
  simp only [execPulseCommit, hx]
  exact if_neg (by rw [ha, hon, hroot]; simpa using hdue)

theorem exec_pulseEnd_over {out : Fin 8} {t e : Nat} (hu : u = s.advance t) (he : (u.pls out.val).until' = some e) (hover : e ≤ u.now) :
    exec (.pulseEnd out t) s =
      .next ((u.setPls out.val { u.pls out.val with until' := none }).pulseLevel out.val false e) := by
  subst hu
  show execPulseEnd out t s = _
  simp only [execPulseEnd, he]
  exact if_pos hover

variable {base : Fin 4}

theorem exec_tbSet_reaches (hr : s.HostReaches) : exec (.tbSet base) s = .next (s.tbSet base.val) :=
  congrArg Host.Outcome.next (State.hostAccess_reaches hr _ _ _)

theorem exec_tbRate_reaches (hr : s.HostReaches) (v : Word) : exec (.tbRate base v) s = .next (s.tbRateWrite base.val v.toNat) :=
  congrArg Host.Outcome.next (State.hostAccess_reaches hr _ _ _)

end

/-- Settles O33: a pulse that is due or over is acted on; the host's write of a base by whether PTP steers it. -/
theorem timeEvents : Obligations.TimeEvents := by
  refine ⟨?commit, ?pulseEnd, ?set, ?setRefused, ?rate, ?rateRefused⟩
  case commit => exact fun s u out t f x => exec_pulseCommit_due
  case pulseEnd => exact fun s u out t e => exec_pulseEnd_over
  case set =>
    intro s base hr hfree hns
    exact (exec_tbSet_reaches hr).trans (congrArg _ (if_neg (not_or.mpr ⟨hfree, Nat.not_lt.mpr hns⟩)))
  case setRefused => exact fun s base hr hbad => (exec_tbSet_reaches hr).trans (congrArg _ (if_pos hbad))
  case rate => exact fun s base v hr hfree => (exec_tbRate_reaches hr v).trans (congrArg _ (if_neg hfree))
  case rateRefused => exact fun s base v hr hptp => (exec_tbRate_reaches hr v).trans (congrArg _ (if_pos hptp))

end Sys2Proof.Machine
end

section
/-!
SUPPORT. The packets of an axis at rest, and `AXIS_STOP`, where they are taken and nothing refuses them (R468, R475, R479, R481, R482,
R486).
-/

namespace Sys2Proof.Machine

section
variable {s t u v : State} {h : Hdr} {axis : Nat}

/-- An axis that accepts work, with good parameters, refuses by the opcode's own conditions alone (R88, R468). -/
theorem firstFail_axRank_ok {bad : Bool} {own : List (Bool × Status)} (ha : s.accepts (axisNode axis) = true) (hle : axis ≤ 7)
    (hb : bad = false) : firstFail (s.axRank axis bad own) = firstFail own := by
  have hparam : (decide (7 < axis) || bad) = false := by simp [Nat.not_lt.mpr hle, hb]
  rw [State.axRank, hparam, ha]
  rfl

/-- An axis at rest does not keep its packet waiting (R478). -/
theorem State.axis_not_held (hm : s.axMoving axis = false) : ¬(axis < 8 ∧ s.axMoving axis = true) :=
  fun hh => Bool.eq_false_iff.mp hm hh.2

/-- A homing that looks for a home reference has one for its direction (R486). -/
theorem homeMethod_good {method : Nat} {x : AxisRt} (hm : method ≤ 3)
    (href : method < 2 ∨ (List.range 4).any (fun i => x.homeRef (decide (method % 2 = 0)) i) = true) :
    (decide (3 < method) || (decide (2 ≤ method) && !(List.range 4).any fun i => x.homeRef (decide (method % 2 = 0)) i)) = false := by
  rw [decide_eq_false (Nat.not_lt.mpr hm), Bool.false_or]
  rcases href with hstall | href
  · rw [decide_eq_false (Nat.not_le.mpr hstall), Bool.false_and]
  · rw [href, Bool.not_true, Bool.and_false]

/-- A block that is read and that R481 does not refuse is loaded. -/
theorem State.axisSet_not_refused {block : Nat} {d : List Byte} (ha : s.accepts (axisNode axis) = true) (hle : axis ≤ 7)
    (hr : s.Reads block 64 d) (hb : axisBad d = false) :
    firstFail (rank s (axisNode axis) (decide (7 < axis) || (!(okBytes (s.readAt block 64)).isEmpty && axisBad d)) false
      (s.readAt block 64) []) = none := by
  rw [State.readAt_of_reads hr, hb, Bool.and_false, Bool.or_false]
  exact firstFail_rank_ok ha (decide_eq_false (Nat.not_lt.mpr hle))

variable {mode : Nat}

/-- The effect of `AXIS_STOP` on the state to which the axis has stepped (R479). -/
def State.axisStop (s : State) (pk : Pk) (axis mode : Nat) : State :=
  if s.axMoving axis then (s.setAx axis { s.ax axis with stops := (s.ax axis).stops ++ [pk] }).axHalt axis (decide (mode = 1)) 2
  else
    let s := if mode = 1 then (s.bridgesOff axis).wr (R.AX_STATUS_STOP_REASON (axisB axis)) 2 else s
    s.complete pk .ok [ofS 32 (s.axPos axis)]

theorem exec_axisStop_good (ht : s.Takes (.axisStop h axis mode) opAxisStop h) (ha : s.accepts (axisNode axis) = true) (hle : axis ≤ 7)
    (hm : mode ≤ 1) (hu : t = (s.begun opAxisStop h).axTo axis s.now) :
    exec (.axisStop h axis mode) s = .next (t.axisStop (s.asPk opAxisStop h) axis mode) := by
  subst hu
  have hgood : decide (1 < mode) = false := decide_eq_false (Nat.not_lt.mpr hm)
  exact State.packet_outcome ht (firstFail_axRank_ok (s := s.begun opAxisStop h) ha hle hgood)

end

/-- Settles O34: nothing keeps the packets waiting or refuses them; a stop is told apart by whether the axis still moves. -/
theorem axisPackets : Obligations.AxisPackets := by
  refine ⟨?move, ?home, ?stopMoving, ?stopAtRest, ?set⟩
  case move =>
    rintro s h axis target rate accel decel _ _ _ ht ha hle hbad hrest hhomed rfl rfl rfl
    refine State.packetR_outcome_of_not_held (State.axis_not_held hrest) ht ?_
    refine (firstFail_axRank_ok (s := s.begun opAxisMove h) ha hle hbad).trans ?_
    have hflag : (s.begun opAxisMove h).flag (R.AX_STATUS_HOMED (axisB axis)) = true := hhomed
    rw [hflag]
    rfl
  case home =>
    rintro s h axis method _ _ _ ht ha hle hmethod href hrest rfl rfl rfl
    exact State.packetR_outcome_of_not_held (State.axis_not_held hrest) ht
      (firstFail_axRank_ok (s := s.begun opAxisHome h) ha hle (homeMethod_good hmethod href))
  case stopMoving =>
    intro s h axis mode t ht ha hle hmode hto hmoving
    exact (exec_axisStop_good ht ha hle hmode hto).trans (congrArg _ (if_pos hmoving))
  case stopAtRest =>
    rintro s h axis mode t _ ht ha hle hmode hto hrest rfl
    exact (exec_axisStop_good ht ha hle hmode hto).trans (congrArg _ (if_neg (Bool.eq_false_iff.mp hrest)))
  case set =>
    rintro s h axis block _ d _ ht ha hle hrest hread hgood rfl rfl
    have hbytes : s.bytesAt block 64 = d := hread.2.2.2
    subst hbytes
    exact State.packetR_outcome_of_not_held (State.axis_not_held hrest) ht
      (State.axisSet_not_refused (s := s.begun opAxisSet h) ha hle hread hgood)

end Sys2Proof.Machine
end

section
/-!
SUPPORT. The segments of a profile, the switch inputs, the bridges and the choppers of an axis, and what its registers take (R472, R473,
R475 to R477, R480, R483, R484, R502).
-/

namespace Sys2Proof.Machine

section
variable {s u v w : State} {n : Nat}

/-- An axis that still moves at the boundary of its segment starts the next one there (R475, R479, R502). -/
theorem State.segment_at_boundary {t e : Nat} {x : AxisRt} (he : e = (s.ax n).segAt + 160000) (hm : s.axMoving n = true) (hle : e ≤ t)
    (hu : u = s.axTo n e) (hmu : u.axMoving n = true) (hx : x = u.ax n) (hv : v = u.setAx n { x with segAt := e }) :
    s.segment n t = State.sendAxis (if x.stopping.isSome then v.stopSegment n else match x.job with
      | .move target rate => v.moveSegment n target rate
      | _ => v) n := by
  subst he hu hx hv
  have hdue : ¬((!s.axMoving n) = true ∨ t < (s.ax n).segAt + 160000) := by simp [hm, Nat.not_lt.mpr hle]
  have hgoes : ¬((!(s.axTo n ((s.ax n).segAt + 160000)).axMoving n) = true) := by simp [hmu]
  exact (if_neg hdue).trans (if_neg hgoes)

/-- `AX_ACCEL` and `AX_DECEL` take a write while the axis moves (R476). -/
theorem State.axWrite_moving {f : FRef} {k : Nat} (hm : s.axMoving n = true) : s.axWrite n f k = s.wr f k := if_pos hm

/-- At rest a write of them is discarded with `ACCESS` (R476). -/
theorem State.axWrite_atRest {f : FRef} {k : Nat} (hm : s.axMoving n = false) : s.axWrite n f k = s.raise (axisNode n) 4 :=
  if_neg (Bool.eq_false_iff.mp hm)

variable {i : Nat} {level : Bool}

/-- An edge to the level that the input has changes nothing but the axis' position (R483). -/
theorem State.inputEdge_same (hu : u = s.axTo n s.now) (hraw : (u.rd (R.AX_INPUTS_RAW (axisB n))).testBit i = level) :
    s.inputEdge n i level = u := by
  subst hu
  exact if_pos hraw

/-- An axis that has no block, or is not enabled, does not watch for chatter (R484). -/
theorem not_watchesChatter {block : List Byte} {many on up : Bool} (hquiet : block = [] ∨ on = false) :
    ¬(!block.isEmpty && many && on && up) = true := by
  rcases hquiet with rfl | rfl <;> simp

/-- A changed level is taken with its time and position; without a block or `ENABLE`, that is all (R483, R484). -/
theorem State.inputEdge_changed {x : AxisRt} (hu : u = s.axTo n s.now) (hraw : (u.rd (R.AX_INPUTS_RAW (axisB n))).testBit i ≠ level)
    (hx : x = u.ax n) (hv : v = u.wr (R.AX_INPUTS_RAW (axisB n)) (setBit (u.rd (R.AX_INPUTS_RAW (axisB n))) i level))
    (hw : w = v.setAx n { x with
      edges := tset [] x.edges i (v.now :: ((tget [] x.edges i).filter fun k => decide (v.now ≤ k + 16000 * x.debUs)))
      edgeAt := tset 0 x.edgeAt i v.now
      edgePos := tset 0 x.edgePos i (v.axPos n) })
    (hquiet : x.block = [] ∨ w.enabled (axisNode n) = false) : s.inputEdge n i level = w := by
  subst hu hx hv hw
  exact (if_neg hraw).trans (if_neg (not_watchesChatter hquiet))

/-- A level that differs from the accepted one and has been held for `DEB_US` is accepted, and acts (R483, R485, R487). -/
theorem State.inputAccept_held (hu : u = s.axTo n s.now)
    (hnew : (u.rd (R.AX_INPUTS_RAW (axisB n))).testBit i ≠ (u.rd (R.AX_INPUTS_ACCEPTED (axisB n))).testBit i)
    (hheld : tget 0 (u.ax n).edgeAt i + 16000 * (u.ax n).debUs ≤ u.now) (hblock : (u.ax n).block ≠ []) :
    s.inputAccept n i =
      ((u.wr (R.AX_INPUTS_ACCEPTED (axisB n))
        (setBit (u.rd (R.AX_INPUTS_ACCEPTED (axisB n))) i ((u.rd (R.AX_INPUTS_RAW (axisB n))).testBit i))).axInputs n).inputActs n i
        (tget 0 (u.ax n).edgePos i) := by
  subst hu
  refine if_neg ?_
  rintro (hsame | hearly | hnone)
  · exact hnew hsame
  · exact Nat.not_lt.mpr hheld hearly
  · exact hblock (List.isEmpty_iff.mp hnone)

variable {second : Bool} {x : AxisRt} {r : BridgeRt}

/-- A bridge that is on, at rest and due begins a drive phase by the sign of its target current, or stays in slow decay at 0 (R472). -/
theorem State.chopperCycle_due {k : Int} (hu : u = (s.axTo n s.now).driveOut n second) (hx : x = u.ax n)
    (hr : r = (x.bridge second).run u.now) (hon : u.flag (R.AX_STATUS_BRIDGES_ON (axisB n)) = true) (hlive : r.live = false)
    (hdue : r.next ≤ u.now) (hk : k = if second then (u.currents n).2 else (u.currents n).1) :
    s.chopperCycle n second =
      if k = 0 then u.setAx n (x.setBridge second { (r.go .slow u.now) with start := u.now, next := u.now + 16 * x.tOff })
      else u.setAx n (x.setBridge second { (r.go (if 0 < k then .drivePos else .driveNeg) u.now) with
        start := u.now, live := true, thr := min 1023 (k.natAbs + if x.flag 3 then (sar (r.ofs + 8) 4).toNat else 0) }) := by
  subst hu hx hr hk
  refine if_neg ?_
  rintro (hoff | hbusy | hearly)
  · simp [hon] at hoff
  · exact Bool.eq_false_iff.mp hlive hbusy
  · exact Nat.not_lt.mpr hdue hearly

/-- A trip in the drive phase of a bridge ends the phase, or within blanking is an overcurrent (R472, R473). -/
theorem State.comparatorTrip_live (hu : u = (s.axTo n s.now).driveOut n second) (hx : x = u.ax n) (hr : r = x.bridge second)
    (hlive : r.live = true) :
    s.comparatorTrip n second =
      if u.now < r.start + 16 * x.tBlank then u.overcurrent n
      else (u.wr (R.AX_STATUS_LOW_CURRENT (axisB n)) 0).endDrive n second ((u.now - r.start) / 16 - x.tBlank) u.now := by
  subst hu hx hr
  exact if_neg (by simp [hlive])

end

section
variable {s u w : State} {axis : Fin 8} {t : Nat}

/-- An axis that has held for `HOLD_MS` holds at `I_HOLD`, or lets go of the bridges where that is 0 (R480). -/
theorem exec_holdTimeout_held {t0 : Nat} (hu : u = s.advance t) (hat : (u.ax axis.val).heldAt = some t0)
    (hholds : u.flag (R.AX_STATUS_HOLDING (axisB axis.val)) = true) (hmode : u.mode (axisNode axis.val) ≠ .faulted)
    (hover : t0 + (u.ax axis.val).holdMs * 16000000 ≤ u.now) :
    exec (.holdTimeout axis t) s = .next (if (u.ax axis.val).iHold = 0 then u.bridgesOff axis.val
      else u.setAx axis.val { u.ax axis.val with heldAt := none, low := true }) := by
  subst hu
  show execHoldTimeout axis t s = _
  simp only [execHoldTimeout, hat]
  refine if_neg ?_
  rintro (hidle | hfault | hearly)
  · simp [hholds] at hidle
  · exact hmode hfault
  · exact Nat.not_lt.mpr hover hearly

/-- The standby takes the primary's state of an axis that moves (R502). -/
theorem exec_axis_standby {pos : Int} {v acc : Nat} {neg : Bool} (hc : s.clocked = true) (hs : (s.hear t).standby = true)
    (hm : (s.hear t).axMoving axis.val = true) (hu : u = (s.hear t).axTo axis.val (s.hear t).now)
    (hw : w = (u.wrS (R.AX_POS_POS (axisB axis.val)) pos).wrB (R.AX_STATUS_DIR (axisB axis.val)) neg) :
    exec (.axis axis pos v acc neg t) s =
      .next ((w.setAx axis.val { w.ax axis.val with v := v, acc := acc % 2 ^ 32, at' := w.now }).axSpeed axis.val v) := by
  subst hu hw
  refine (event_of_clocked hc).trans (if_neg ?_)
  simp [hs, hm]

end

/-- Settles O35: each event of an axis by the guard of its operation; the host's writes by whether the axis moves. -/
theorem axisEvents : Obligations.AxisEvents := by
  refine ⟨?segment, ?accel, ?accelRefused, ?decel, ?decelRefused, ?hold, ?edge, ?edgeSame, ?accepted, ?chopper, ?trip, ?overcurrent,
    ?standby⟩
  case segment =>
    intro s u v axis t e x hc he hm hle hu hmu hx hv
    refine (event_of_clocked hc).trans (congrArg _ ?_)
    exact State.segment_at_boundary (s := s.advance t) he hm hle hu hmu hx hv
  case accel =>
    exact fun s axis k hr hm => congrArg Host.Outcome.next ((State.hostAccess_reaches hr _ _ _).trans (State.axWrite_moving hm))
  case accelRefused =>
    exact fun s axis k hr hm => congrArg Host.Outcome.next ((State.hostAccess_reaches hr _ _ _).trans (State.axWrite_atRest hm))
  case decel =>
    exact fun s axis k hr hm => congrArg Host.Outcome.next ((State.hostAccess_reaches hr _ _ _).trans (State.axWrite_moving hm))
  case decelRefused =>
    exact fun s axis k hr hm => congrArg Host.Outcome.next ((State.hostAccess_reaches hr _ _ _).trans (State.axWrite_atRest hm))
  case hold => exact fun s u axis t t0 => exec_holdTimeout_held
  case edge =>
    exact fun s u v w axis input level t x hu hraw hx hv hw hquiet =>
      congrArg Host.Outcome.next (State.inputEdge_changed hu hraw hx hv hw hquiet)
  case edgeSame => exact fun s u axis input level t hu hraw => congrArg Host.Outcome.next (State.inputEdge_same hu hraw)
  case accepted =>
    exact fun s u axis input t hu hnew hheld hblock => congrArg Host.Outcome.next (State.inputAccept_held hu hnew hheld hblock)
  case chopper =>
    intro s u axis second t x r k hc hu hx hr hon hlive hdue hk
    exact (event_of_clocked hc).trans (congrArg _ (State.chopperCycle_due hu hx hr hon hlive hdue hk))
  case trip =>
    intro s u axis second t x r hu hx hr hlive hlate
    exact congrArg Host.Outcome.next ((State.comparatorTrip_live hu hx hr hlive).trans (if_neg (Nat.not_lt.mpr hlate)))
  case overcurrent =>
    intro s u axis second t x r hu hx hr hlive hearly
    exact congrArg Host.Outcome.next ((State.comparatorTrip_live hu hx hr hlive).trans (if_pos hearly))
  case standby => exact fun s u w axis pos v acc neg t => exec_axis_standby

end Sys2Proof.Machine
end

section
/-!
SUPPORT. The packets of the yoke, where they are taken and nothing refuses them (R498, R513, R516 to R519).
-/

namespace Sys2Proof.Machine

section
variable {s : State} {h : Hdr}

/-- A packet of ring 0 with good parameters, to a YOKE that may take it, is not refused (R88, R498, R513, R518). -/
theorem firstFail_yoke_ok {bad fenced off : Bool} (hr : h.ring.val = 0) (hb : bad = false) (hf : fenced = false) (ho : off = false) :
    firstFail [(decide (h.ring.val ≠ 0) || bad, .badParam), (fenced, .fenced), (off, .unitOff)] = none := by
  rw [hb, hf, ho, decide_eq_false (not_not.mpr hr)]
  rfl

/-- While no `YOKE_ROLE` waits, another one leaves the pair or takes its role (R498). -/
theorem exec_yokeRole_runs {role : Nat} (ht : s.Takes (.yokeRole h role) opYokeRole h) (hw : s.yk.rolePk = none) (hr : h.ring.val = 0)
    (hrole : role ≤ 2) (hf : s.fencedFor role = false) (ha : s.accepts .yoke = true) :
    exec (.yokeRole h role) s = .next
      (if role = 0 then (s.begun opYokeRole h).leaveRole.sendHeart.complete (s.asPk opYokeRole h) .ok []
       else (s.begun opYokeRole h).unpair.takeRole role (s.asPk opYokeRole h)) :=
  State.packetR_outcome_of_not_held (by simp [hw]) ht
    (firstFail_yoke_ok hr (decide_eq_false (Nat.not_lt.mpr hrole)) hf (congrArg not ha))

/-- A standby whose YOKE accepts work takes its packets (R513, R518). -/
theorem State.standby_accepts (ha : s.accepts .yoke = true) (hs : s.standby = true) : (!s.accepts .yoke || !s.standby) = false := by
  rw [ha, hs]
  rfl

/-- A resync that a paired standby asks for is not refused (R513). -/
theorem State.yokeResync_not_refused (hr : h.ring.val = 0) (hf : s.flag R.YOKE_STATE_FENCED = false) (ha : s.accepts .yoke = true)
    (hs : s.standby = true) (hp : s.paired = true) :
    firstFail [(decide (h.ring.val ≠ 0), .badParam), (s.flag R.YOKE_STATE_FENCED, .fenced), (!s.accepts .yoke || !s.standby, .unitOff),
      (!s.paired, .partnerDown)] = none := by
  rw [decide_eq_false (not_not.mpr hr), hf, State.standby_accepts ha hs, hp]
  rfl

end

/-- Settles O36: nothing keeps the packets waiting or refuses them; a role is told apart by whether it is 0. -/
theorem yokePackets : Obligations.YokePackets := by
  refine ⟨?leave, ?take, ?resync, ?takeover⟩
  case leave => exact fun s h ht hw hr hf ha => exec_yokeRole_runs ht hw hr (Nat.zero_le 2) hf ha
  case take =>
    intro s h role ht hw hr hrole hf ha
    have hne : role ≠ 0 := by omega
    rw [exec_yokeRole_runs ht hw hr (by omega) hf ha, if_neg hne]
  case resync =>
    intro s h ht hw hr hf ha hs hp
    exact State.packetR_outcome_of_not_held (by simp [hw]) ht
      (State.yokeResync_not_refused (s := s.begun opYokeResync h) hr hf ha hs hp)
  case takeover =>
    rintro s h mask whole _ _ ht hr hw hf ha hs rfl rfl
    exact State.packet_outcome ht
      (firstFail_yoke_ok hr (decide_eq_false (Nat.not_lt.mpr hw)) hf (State.standby_accepts (s := s.begun opTakeover h) ha hs))

end Sys2Proof.Machine
end

section
/-!
SUPPORT. What a message of the partner does when it is heard (R501, R506, R507, R509, R510, R512, R516).
-/

namespace Sys2Proof.Machine

section
variable {s u : State} {t : Nat}

section
variable {ctx : Fin 256} {line global : Nat}

/-- Hearing the partner changes nothing of the pair (R506). -/
theorem State.hear_in_pair (hs : s.standby = true) (hp : s.paired = true) : ¬(!(s.hear t).standby || !(s.hear t).paired) = true := by
  have hs' : (s.hear t).standby = true := hs
  have hp' : (s.hear t).paired = true := hp
  simp [hs', hp']

/-- A token whose tick has not come is kept (R507). -/
theorem exec_token_early (hc : s.clocked = true) (hs : s.standby = true) (hp : s.paired = true)
    (hu : u = { s.hear t with yk := { (s.hear t).yk with lastToken := tset 0 s.yk.lastToken ctx.val (line + 1) } })
    (hf : s.ticks.find? (fun x => decide (x.1 = ctx.val) && decide (x.2.1 = line)) = none) :
    exec (.token ctx line global t) s = .next { u with tokens := s.tokens ++ [(ctx.val, line, t)] } := by
  subst hu
  have hticks : (s.hear t).ticks = s.ticks := rfl
  refine (event_of_clocked hc).trans ((if_neg (State.hear_in_pair hs hp)).trans ?_)
  simp only [hticks, hf]
  rfl

/-- A token whose tick has come is compared with it (R507). -/
theorem exec_token_meets {k : Nat × Nat × Nat} (hc : s.clocked = true) (hs : s.standby = true) (hp : s.paired = true)
    (hu : u = { s.hear t with yk := { (s.hear t).yk with lastToken := tset 0 s.yk.lastToken ctx.val (line + 1) } })
    (hf : s.ticks.find? (fun x => decide (x.1 = ctx.val) && decide (x.2.1 = line)) = some k) :
    exec (.token ctx line global t) s =
      .next (State.meet { u with ticks := s.ticks.filter fun y => decide (y ≠ k) } ctx.val line t k.2.2) := by
  subst hu
  have hticks : (s.hear t).ticks = s.ticks := rfl
  refine (event_of_clocked hc).trans ((if_neg (State.hear_in_pair hs hp)).trans ?_)
  simp only [hticks, hf]
  rfl

end

section
variable {lane : Fin 32} {line : Nat}

/-- A CRC of a line that its context has not printed is kept and compared (R509). -/
theorem exec_swathCrc_compared {marked : Bool} {crc : BitVec 32} (hc : s.clocked = true) (hu : u = s.hear t) (hcmp : u.compares = true)
    (hown : u.laneOwner lane.val ≠ 0) (hlive : (u.ctx (u.laneOwner lane.val)).live = true)
    (hline : (u.ctx (u.laneOwner lane.val)).firedLines ≤ line) :
    exec (.swathCrc lane line marked crc t) s =
      .next (State.compareCrc { u with peerCrcs := tset none u.peerCrcs (crcKey lane.val line) (some ⟨crc.toNat, marked⟩) }
        (u.laneOwner lane.val) lane.val line) := by
  subst hu
  refine (event_of_clocked hc).trans (if_neg ?_)
  simp [hcmp, hown, hlive, Nat.not_lt.mpr hline]

/-- A quick check of the lane is in progress: the one that a `CHECK` starts, or an earlier one (R510). -/
def State.checking (s : State) (lane line : Nat) : State :=
  if s.check = none then
    { s.wr R.YOKE_STATE_CHECKING 1 with check := some { ctx := s.laneOwner lane, line := line, lane := lane } }
  else s

theorem exec_check_compares {done passed : Bool} (hc : s.clocked = true) (hcmp : s.compares = true)
    (hu : u = (s.hear t).checking lane.val line) :
    exec (.check done passed lane line t) s =
      .next (if done then State.checkOutcome { u with check := u.check.map fun x => { x with peer := some passed } } else u) := by
  subst hu
  have hcmp' : (s.hear t).compares = true := hcmp
  refine (event_of_clocked hc).trans ((if_neg (by simp [hcmp'])).trans ?_)
  cases hk : (s.hear t).check with
  | none => cases done <;> simp [State.checking, hk]
  | some c => cases done <;> simp [State.checking, hk]

end

section
variable {q : Nat} {m : ResultMsg}

/-- A message in sequence order is taken and acts; any other only counts as heard (R506). -/
theorem exec_mirror_heard {m : MirrorMsg} (hc : s.clocked = true) :
    exec (.mirror q m t) s = .next (if (s.hear t).inOrder q then ((s.hear t).took q).recvMirror m else s.hear t) :=
  (event_of_clocked hc).trans (apply_ite Host.Outcome.next _ _ _).symm

theorem exec_result_inOrder (hc : s.clocked = true) (hm : ∀ a b, m ≠ .identity a b) (hq : (s.hear t).inOrder q = true) :
    exec (.result q m t) s = .next (((s.hear t).took q).recvResult m) := by
  refine (event_of_clocked hc).trans ?_
  cases m with
  | identity a b => exact absurd rfl (hm a b)
  | _ => exact if_pos hq

end

/-- A record enters the ring of its kind (R512). -/
theorem exec_record_paired {kind : Fin 3} {bytes : List Byte} (hc : s.clocked = true) (hp : s.paired = true) :
    exec (.record kind bytes t) s = .next (if kind = 0 then (s.hear t).enterTile bytes
      else if kind = 1 then (s.hear t).enterDefect bytes else (s.hear t).enterProp bytes) := by
  have hp' : (s.hear t).paired = true := hp
  refine (event_of_clocked hc).trans ((if_neg (by simp [hp'])).trans ?_)
  match kind with
  | 0 => exact congrArg Host.Outcome.next (if_pos rfl).symm
  | 1 => exact congrArg Host.Outcome.next ((if_neg (by decide)).trans (if_pos rfl)).symm
  | 2 => exact congrArg Host.Outcome.next ((if_neg (by decide)).trans (if_neg (by decide))).symm

end

/-- Settles O37: one clause per message; a token by whether its tick has come, a message with a number by whether it is in order. -/
theorem yokeMessages : Obligations.YokeMessages := by
  refine ⟨?heart, ?early, ?meets, ?crc, ?checkStarts, ?checkEnds, ?mirror, ?mirrorLost, ?identity, ?result, ?record⟩
  case heart => exact fun s role fenced owns chk last t hc => event_of_clocked hc
  case early => exact fun s u ctx line global t => exec_token_early
  case meets => exact fun s u ctx line global t k => exec_token_meets
  case crc => exact fun s u lane line marked crc t => exec_swathCrc_compared
  case checkStarts => exact fun s u passed lane line t => exec_check_compares
  case checkEnds => exact fun s u passed lane line t => exec_check_compares
  case mirror =>
    intro s q m t hc hq
    rw [exec_mirror_heard hc, if_pos hq]
  case mirrorLost =>
    intro s q m t hc hq
    rw [exec_mirror_heard hc, if_neg (Bool.eq_false_iff.mp hq)]
  case identity => exact fun s q release side t hc => event_of_clocked hc
  case result => exact fun s q m t => exec_result_inOrder
  case record => exact fun s kind bytes t => exec_record_paired

end Sys2Proof.Machine
end
section
/-!
SUPPORT. The packets of the gleaner, and the starts and ends of its tests and checks (R510, R526 to R531).
-/

namespace Sys2Proof.Machine

section
variable {s u : State} {h : Hdr} {n : Node}

/-- A block of 64 bytes that is read and that its unit takes is refused by nothing (R88). -/
theorem State.block_not_refused {unit : Node} {block : Nat} {d : List Byte} {bad : Bool} (ha : s.accepts unit = true)
    (hr : s.Reads block 64 d) (hb : bad = false) :
    firstFail (rank s unit (decide ((okBytes (s.readAt block 64)).length = 64) && bad) false (s.readAt block 64) []) = none := by
  rw [hb, Bool.and_false, State.readAt_of_reads hr]
  exact firstFail_rank_ok ha rfl

/-- `GLEAN_RUN` of an idle node, with no other in progress, waits for the test in progress, or starts the first of its own (R526). -/
theorem exec_gleanRun_runs {mask : Nat} {w : Bool} (ht : s.Takes (.gleanRun h n.base mask) opGleanRun h) (hm : mask ≤ 15)
    (ha : s.accepts .glean = true) (hidle : (s.begun opGleanRun h).nodeState n = .idle) (hrun : s.gl.run = none)
    (hw : s.gl.test.isSome = w)
    (hu : u = { s.begun opGleanRun h with
      gl := { s.gl with run := some { pk := s.asPk opGleanRun h, tests := maskList 4 (mask &&& testsOf n), node := n, waits := w } } }) :
    exec (.gleanRun h n.base mask) s = .next (if w then u else u.nextRun n) := by
  subst hu hw
  have ha' : (s.begun opGleanRun h).accepts .glean = true := ha
  have hrun' : (s.begun opGleanRun h).gl.run = none := hrun
  refine (State.packetW_outcome ht ?_).trans ?_
  · simp [firstFail, ha', hrun', hidle, hm]
  · rw [Node.atBase_base, Option.getD_some]
    rfl

/-- What lets the gleaner begin a test of a node by itself (R526 to R528). -/
structure State.MayTest (s : State) (n : Node) (test : Nat) : Prop where
  glean : s.accepts .glean = true
  cool : s.hlth.share < 256
  auto : s.gleanFlag 0 = true
  headland : n = .comp → (s.gleanFlag 1 && (s.inLongHeadland || decide (s.nodeState n = .idle))) = true
  policy : s.gleanTests.testBit test = true
  has : (testsOf n).testBit test = true
  noTest : s.gl.test = none
  noRun : s.gl.run = none
  node : s.accepts n = true
  free : inPlace n = true ∨ s.nodeState n = .idle

theorem exec_gleanTestStart_begins {test : Fin 4} (hc : s.clocked = true) (hm : s.MayTest n test.val) :
    exec (.gleanTestStart n test) s = .next (s.beginTest n test.val) := by
  obtain ⟨hglean, hcool, hauto, hland, hpol, hhas, htest, hrun, hnode, hfree⟩ := hm
  refine (event_of_clocked hc).trans (if_neg ?_)
  have hland' : ¬(decide (n = .comp) = true ∧ (!(s.gleanFlag 1 && (s.inLongHeadland || decide (s.nodeState n = .idle)))) = true) :=
    fun ⟨hcomp, hno⟩ => by simp [hland (of_decide_eq_true hcomp)] at hno
  have hfree' : ¬((!inPlace n) = true ∧ s.nodeState n ≠ .idle) :=
    fun ⟨hmoved, hbusy⟩ => hfree.elim (fun hp => by simp [hp] at hmoved) hbusy
  rw [hglean, hauto, hpol, hhas, htest, hrun, hnode]
  simp only [Bool.not_true, Bool.false_eq_true, Option.isSome_none, Nat.not_le.mpr hcool, hland', hfree', or_self, not_false_eq_true]

/-- The held writes that follow the end of a test are those of the node that was under test (R530). -/
theorem State.afterTest_of_test {k : Nat} (ht : s.gl.test = some (n, k)) : s.afterTest u = u.applyHeld n := by
  rw [State.afterTest, ht]

/-- A release of the node under test breaks its test off (R530). -/
theorem exec_gleanRelease_breaks {k : Nat} (hc : s.clocked = true) (ht : s.gl.test = some (n, k)) :
    exec (.gleanRelease n) s = .next (s.breakTest.applyHeld n) := by
  refine (event_of_clocked hc).trans ?_
  simp only [ht, if_true, State.afterTest_of_test ht]

/-- A part that is overdue and not yet reported is reported (R531). -/
theorem exec_coverageLate_reports {bank : Fin 49} {t : Nat} (hc : s.clocked = true) (hn : testsOf n ≠ 0 ∨ n = .mem)
    (hl : tget false s.gl.late (partKey n bank.val) = false) (ho : (s.advance t).overdue n bank.val t = true) :
    exec (.coverageLate n bank t) s = .next
      (State.raise { s.advance t with gl := { s.gl with late := tset false s.gl.late (partKey n bank.val) true } } .glean 17) := by
  refine (event_of_clocked hc).trans (if_neg ?_)
  rintro (⟨hno, hmem⟩ | hlate | hearly)
  · exact hn.elim (absurd hno) (absurd · hmem)
  · exact Bool.eq_false_iff.mp hl hlate
  · simp [ho] at hearly

/-- The lane under check ends its quick check (R510). -/
theorem exec_quickCheckEnd_due {lane : Fin 32} {fails : BitVec 4} {c : CheckRt} (hc : s.clocked = true) (hk : s.check = some c)
    (hl : c.lane = lane.val) (ho : c.own = none) : exec (.quickCheckEnd lane fails) s = .next (s.quickEnd lane.val fails.toNat) := by
  refine (event_of_clocked hc).trans (if_pos ?_)
  simp [hk, hl, ho]

end

/-- Settles O39: nothing refuses the packets; each event by what lets it happen. -/
theorem gleanerCommands : Obligations.GleanerCommands := by
  refine ⟨?policy, ?run, ?runWaits, ?start, ?testEnd, ?bankEnd, ?release, ?coverage, ?quick⟩
  case policy =>
    rintro s h block _ _ ht ha ⟨hr1, hr2, hr3, rfl⟩ hb rfl
    exact State.packetR_outcome_of_read ht (State.block_not_refused (s := s.begun opGleanPolicy h) ha ⟨hr1, hr2, hr3, rfl⟩ hb)
  case run =>
    intro s h n mask ht hm ha hidle hrun htest
    exact exec_gleanRun_runs (w := false) ht hm ha hidle hrun (by rw [htest]; rfl) rfl
  case runWaits => exact fun s h n mask ht hm ha hidle hrun htest => exec_gleanRun_runs ht hm ha hidle hrun htest rfl
  case start =>
    exact fun s n test hc hglean hcool hauto hland hpol hhas htest hrun hnode hfree =>
      exec_gleanTestStart_begins hc ⟨hglean, hcool, hauto, hland, hpol, hhas, htest, hrun, hnode, hfree⟩
  case testEnd =>
    exact fun s passed n k hc ht => (event_of_clocked hc).trans (congrArg Host.Outcome.next (State.afterTest_of_test ht))
  case bankEnd => exact fun s passed hc => event_of_clocked hc
  case release => exact fun s n k => exec_gleanRelease_breaks
  case coverage => exact fun s n bank t => exec_coverageLate_reports
  case quick => exact fun s lane fails c => exec_quickCheckEnd_due

end Sys2Proof.Machine
end
section
/-!
SUPPORT. The packets of HLTH, where they are taken and nothing refuses them (R537, R545, R560, R564).
-/

namespace Sys2Proof.Machine

section
variable {s : State} {h : Hdr}

/-- A packet that writes its result to an address, for a unit that accepts work and with good parameters, is refused by nothing (R88). -/
theorem firstFail_write_ok {unit : Node} {bad fails : Bool} (ha : s.accepts unit = true) (hb : bad = false) (hf : fails = false) :
    firstFail (rank0 s unit bad false [(fails, .dmaError)]) = none := by
  rw [hb, hf]
  exact firstFail_rank0 ha

/-- `TALLY_READ` of nozzles whose tallies lie in good words of DRAM (R560). -/
theorem exec_tallyRead_good {dst first n : Nat} (ht : s.Takes (.tallyRead h dst first n) opTallyRead h) (ha : s.accepts .hlth = true)
    (hn : first + n ≤ 1048576) (hd : s.badAddr dst (8 * n) = false) (hf : s.dmaFails dst (8 * n) = false)
    (hbad : s.dramBad (s.tallyAddr first) (8 * n) = false) :
    exec (.tallyRead h dst first n) s = .next
      ((((s.begun opTallyRead h).noteRead 15 (s.tallyAddr first) (8 * n)).writeAt 15 dst ((tgets 0 s.tallies first n).flatMap (leBytes 8))).complete
        (s.asPk opTallyRead h) .ok [n]) := by
  have hparam : (decide (1048576 < first + n) || s.badAddr dst (8 * n)) = false := by simp [Nat.not_lt.mpr hn, hd]
  exact (State.packet_outcome ht (firstFail_write_ok (s := s.begun opTallyRead h) ha hparam hf)).trans
    (congrArg _ (if_neg (Bool.eq_false_iff.mp hbad)))

end

/-- Settles O40: nothing refuses the packets, and the effect of each is what it is claimed to do. -/
theorem healthPackets : Obligations.HealthPackets := by
  refine ⟨?health, ?tally, ?thermal⟩
  case health =>
    rintro s h dst _ _ ht ha hd hf rfl rfl
    exact State.packet_outcome ht (firstFail_write_ok (s := s.begun opHealthRead h) ha hd hf)
  case tally => exact fun s h dst first n => exec_tallyRead_good
  case thermal =>
    rintro s h block _ _ _ ht ha ⟨hr1, hr2, hr3, rfl⟩ hb rfl rfl
    exact State.packetR_outcome_of_read ht (State.block_not_refused (s := s.begun opThermalSet h) ha ⟨hr1, hr2, hr3, rfl⟩ hb)

end Sys2Proof.Machine
end

section
/-!
SUPPORT. How a packet of the security module ends: with a refusal, which is recorded where it is the module's, or with its effect (R88,
R565, R570, R576, R581, R594).
-/

namespace Sys2Proof.Machine

/-- A packet of SEC that is taken ends by the first of its refusals that holds, or has its effect; either after its reads (R88). -/
theorem State.secPacket_outcome {s : State} {h : Hdr} {i : Instr} {o : OpInfo} {reads : List (Nat × Nat)} {chk : State → List (Bool × Status)}
    {refuse : Status → State → State} {eff : Pk → State → State} {t : State} (ht : s.Takes i o h)
    (hr : t = reads.foldl (fun q r => q.touch 2 r.1 r.2) (s.begun o h)) :
    (if !s.spells i then Host.Outcome.next s else .next (s.secPacket o h reads chk refuse eff) : Host.Outcome State Fault Refusal) =
      .next (match firstFail (chk (s.begun o h)) with
        | some st => (if secRefusal st then refuse st t else t).failPk (s.asPk o h) st reads []
        | none => eff (s.asPk o h) t) := by
  obtain ⟨hs, hm, hf⟩ := ht
  subst hr
  have hf' : (s.startPk h o.op).hdrFail o h = none := hf
  rw [hs, State.secPacket, hm]
  simp only [hf', Bool.not_true, Bool.false_eq_true, if_false] <;> rfl

/-- Settles O42: each packet is `State.secPacket_outcome` with its own refusals, record and effect. -/
theorem securityPackets : Obligations.SecurityPackets := by
  refine ⟨?fwUpdate, ?selfTest, ?revoke, ?sealLoad⟩
  case fwUpdate =>
    rintro s h image len _ _ _ _ _ _ _ ht rfl rfl rfl rfl rfl rfl rfl
    exact State.secPacket_outcome ht rfl
  case selfTest =>
    rintro s h fails _ ht rfl
    refine (State.secPacket_outcome ht rfl).trans ?_
    simp only [ite_self] <;> rfl
  case revoke =>
    rintro s h slot sigR sigS msg _ _ _ ht rfl rfl rfl
    exact State.secPacket_outcome ht rfl
  case sealLoad =>
    rintro s h content len block sigR sigS _ _ _ _ _ _ _ _ _ _ ht rfl rfl rfl rfl rfl rfl rfl rfl rfl rfl
    exact State.secPacket_outcome ht rfl

end Sys2Proof.Machine
end

section
/-!
SUPPORT. The audit log, the programming of key slots and the parity of the module's SRAM (R569, R588, R589, R597, R599).
-/

namespace Sys2Proof.Machine

section
variable {s t : State}

/-- A read of audit records to a good address, with SEC on and its module not in error, is not refused (R588). -/
theorem State.auditRead_not_refused {dst len len' : Nat} (hd : s.badAddr dst len = false) (ho : s.secOff = false)
    (hf : s.dmaFails dst len' = false) (he : s.secErr = false) :
    firstFail [(s.badAddr dst len, .badParam), (s.secOff, .unitOff), (s.dmaFails dst len', .dmaError), (s.secErr, .moduleError)] = none := by
  rw [hd, ho, hf, he]
  rfl

/-- A write of `SEC_PROG` outside TEST is discarded (R569). -/
theorem State.writeProg_outside {v : Nat} (hd : s.dev ≠ devTest) : s.writeProg v = s.raise .sec 4 := if_pos hd

/-- In TEST it stores its fields, and with `GO` programs an empty slot, unless the module is in error (R569, R599). -/
theorem State.writeProg_inTest {v k : Nat} (hd : s.dev = devTest) (hk : k = v % 4)
    (ht : t = ((s.wr R.SEC_PROG_SLOT k).wr R.SEC_PROG_USE_FW (bits v 8 1)).wr R.SEC_PROG_USE_SEAL (bits v 9 1)) :
    s.writeProg v =
      if !bit v 16 then t
      else if t.secErr then t.wr R.SEC_PROG_FAILED 1
      else if t.slotUsed k then
        ((t.wr R.SEC_PROG_FAILED 1).raise .sec 4).audit 10 0 k Status.badParam.code k (bits v 8 2) (beBytes 48 t.progHash)
      else
        (State.wr (((State.wr { t with sec := { t.sec with hashes := tset none t.sec.hashes k (some t.progHash) } } (R.SEC_SLOT_PROVISIONED k) 1).wr
          (R.SEC_SLOT_FW k) (bits v 8 1)).wr (R.SEC_SLOT_SEAL k) (bits v 9 1)) R.SEC_PROG_FAILED 0).audit 10 0 k 0 k (bits v 8 2)
          (beBytes 48 t.progHash) := by
  subst hk ht
  exact if_neg (not_not.mpr hd)

theorem exec_secProg_reaches (hr : s.HostReaches) (v : Word) : exec (.secProg v) s = .next (s.writeProg v.toNat) :=
  congrArg Host.Outcome.next (State.hostAccess_reaches hr _ _ _)

end

/-- Settles O43: a read of records by whether their places are poisoned, a write of `SEC_PROG` by the state of the device, the module and
the slot, a parity error by whether the running image's key was lost. -/
theorem securityEvents : Obligations.SecurityEvents := by
  refine ⟨?audit, ?outside, ?fields, ?failed, ?used, ?programs, ?dropped, ?cached⟩
  case audit =>
    rintro s h dst first most _ ht rfl hd ho hf he hp
    exact (State.packet_outcome ht (State.auditRead_not_refused (s := s.begun opAuditRead h) hd ho hf he)).trans
      (congrArg _ (if_neg (Bool.eq_false_iff.mp hp)))
  case outside =>
    intro s v hr hd
    rw [exec_secProg_reaches hr, State.writeProg_outside hd]
  case fields =>
    intro s t v k hr hd hk ht hgo
    rw [exec_secProg_reaches hr, State.writeProg_inTest hd hk ht, hgo, Bool.not_false, if_pos rfl]
  case failed =>
    intro s t v k hr hd hk ht hgo he
    rw [exec_secProg_reaches hr, State.writeProg_inTest hd hk ht, if_neg (by simp [hgo]), if_pos he]
  case used =>
    intro s t v k hr hd hk ht hgo he hu
    rw [exec_secProg_reaches hr, State.writeProg_inTest hd hk ht, if_neg (by simp [hgo]), if_neg (by simp [he]), if_pos hu]
  case programs =>
    intro s t v k hr hd hk ht hgo he hu
    rw [exec_secProg_reaches hr, State.writeProg_inTest hd hk ht, if_neg (by simp [hgo]), if_neg (by simp [he]), if_neg (by simp [hu])]
  case dropped =>
    intro s slot hi
    show execSecSramParity slot s = _
    simp only [execSecSramParity, hi]
  case cached =>
    intro s slot k key hi
    show execSecSramParity slot s = _
    simp only [execSecSramParity, hi, Bool.not_eq_eq_eq_not, Bool.not_true]

end Sys2Proof.Machine
end

section
/-!
SUPPORT. The end of a sleep entry, and the wake from sleep (R616, R619, R621).
-/

namespace Sys2Proof.Machine

section
variable {s u v : State} {t : Nat}

/-- The host reaches SYS whenever the link is up, in sleep too (R619). -/
theorem State.hostAccess_sys {i : Instr} {f : State → State} (hl : s.linkDown = false) : s.hostAccess .sys i f = f s := by
  simp [State.hostAccess, State.hostAt, hl, Node.base]

theorem exec_sysCtrlWake_linkUp (hl : s.linkDown = false) : exec .sysCtrlWake s = .next s.startWake :=
  congrArg Host.Outcome.next (State.hostAccess_sys hl)

theorem exec_sleepEntryDone_ends (hd : s.dev = devSleep) (he : s.sysr.entering = true)
    (hu : u = ((List.range 32).foldl (fun q l => q.flushTally l) (s.advance t)).squelchAll)
    (hv : v = u.channels.foldl (fun q c => q.wr (R.MEM_CH_STATUS_SELF_REFRESH c) 1) u) :
    exec (.sleepEntryDone t) s = .next { v with sysr := { v.sysr with
      entering := false, vsramRet := true, sleepAt := v.now, waking := v.sysr.wakeWaits, wakeWaits := false } } := by
  subst hv hu
  exact if_neg (by simp [hd, he])

theorem exec_wakeDone_wakes (hd : s.dev = devSleep) (hw : s.sysr.waking = true) (hu : u = (s.advance t).wakeUp) :
    exec (.wakeDone t) s = .next (u.heldCmds.foldl State.runAccess { u with heldCmds := [] }) := by
  subst hu
  exact if_neg (by simp [hd, hw])

end

/-- Settles O45: the entry ends and the device wakes where it sleeps; the host's wake reaches SYS over a link that is up. -/
theorem sleepAndWake : Obligations.SleepAndWake := by
  refine ⟨?entry, ?wake, ?hostWake, ?hostWakeAsleep, ?woken⟩
  case entry => exact fun s u v t => exec_sleepEntryDone_ends
  case wake => exact fun s t => rfl
  case hostWake => exact fun s ⟨hl, _⟩ => exec_sysCtrlWake_linkUp hl
  case hostWakeAsleep => exact fun s hl _ => exec_sysCtrlWake_linkUp hl
  case woken => exact fun s u t => exec_wakeDone_wakes

end Sys2Proof.Machine
end
